-- ==== Sys2Proof/Word.lean ====
section
/-! DEFINITION. The word types of the part (spec/00_scope.md R3) and nothing else. -/
namespace Sys2Proof

/-- A 32-bit register or instruction word. -/
abbrev Word := BitVec 32

/-- One byte of memory. -/
abbrev Byte := BitVec 8

/-- A 64-bit value: a register pair or a 64-bit special register. -/
abbrev DWord := BitVec 64

end Sys2Proof
end

