-- ==== Sys2Proof/Config.lean ====
section
/-! DEFINITION. What the spec leaves to each device: constants with no value here, so that nothing can be proved of one. -/
namespace Sys2Proof.Config

/-- The filtered sample s of a texture fetch whose scaled coordinate overflows FP32, for which R178 states no value. -/
opaque texOverflow (u v l s : Nat) : Word

/-- The words that memory of another package answers, one for each word asked for (R313, R360). -/
opaque remoteWord : Nat → BitVec 32

/-- The memory cycles that DRAM timing other than refresh, and the mesh cycles that full buffers, hold an access (R306). -/
opaque bankCycles : Nat → Nat
opaque meshCycles : Nat → Nat

/-- The free credit of a port's egress channel at a moment (R362). -/
opaque egressCredit : Nat → Nat → Nat

/-- Whether a stack is above 85 degrees Celsius in a cycle (R318). -/
opaque hotStack : Nat → Nat → Bool

/-- The mesh hops between two tiles, or from a tile to a stack (numbered from 256), for the energy account (R412). -/
opaque meshHops : Nat → Nat → Nat

/-- The SM3 digest of R415, by the standard that it names. -/
opaque sm3 : List (BitVec 8) → BitVec 256

/-- Whether an SM2 signature over a digest verifies under a key whose SM3 digest is fused (R395, R415). -/
opaque sm2Verifies : BitVec 256 → BitVec 256 → BitVec 512 → Bool

/-- The signature that the identity key gives a message (R415, R416). -/
opaque identitySign : List (BitVec 8) → List (BitVec 8)

/-- The SM3 digest of the owner debug key, absent where the owner has fused none (R395). -/
opaque ownerKey : Option (BitVec 256)

/-- The identity public key (R415). -/
opaque identityKey : List (BitVec 8)

/-- The certificate of the identity key in the flash (R415). -/
opaque certificate : List (BitVec 8)

/-- The nonces that DBGAUTH captures, in the order they are issued (R395). -/
opaque nonce : Nat → BitVec 256

/-- Whether a firmware image passes the checks of R415, whose header the spec does not lay out. -/
opaque imagePasses : List (BitVec 8) → Bool

/-- The ROM, the launcher within an image and the fuse configuration, as measured (R416). -/
opaque rom : List (BitVec 8)
opaque launcherOf : List (BitVec 8) → List (BitVec 8)
opaque fuses : List (BitVec 8)

/-- The bytes of a retirement map as measured into M4 (R416, R420). -/
opaque retirementMap : List Nat → List (BitVec 8)

/-- The body of the SPDM response to a request, by the standard that R416 names. -/
opaque spdmResponse : List (BitVec 8) → List (BitVec 8)

/-- The free spare tiles of a die, by physical number, and the tiles that fail the firmware's test (R415, R420). -/
opaque spareTiles : Nat → List Nat
opaque tileFails : Nat → Bool

/-- The instruction-register codes of SAMPLE/PRELOAD and EXTEST, which R394 does not state. -/
opaque sampleCode : BitVec 8
opaque extestCode : BitVec 8

/-- The byte that M7 is extended with at a lock (true) or an unlock, which R416 does not state. -/
opaque debugByte : Bool → BitVec 8

/-- Where firmware saves a context that a forced retirement displaces, in units of 64 KiB, which R420 does not state. -/
opaque retireArea : Nat → Nat

/-- What the boundary-scan cells sample from the pins (R394). -/
opaque pins : Nat → List Bool

/-- What a tile's telemetry measures: its temperature, its power, its clock and its supply, one value for each time asked (R414). -/
opaque telemetry : Nat → Nat

end Sys2Proof.Config
end

