-- ==== Sys2Proof/Machine/Float.lean ====
section
/-! DEFINITION. Exact values, the rounding helper of R116 and the arithmetic of spec/06_isa_vector.md R116 to R133.
A finite value is a sign, a natural significand and a power of two; every operation computes exactly and
rounds once at its end. -/
namespace Sys2Proof.Machine

/-- The five conditions of R114, in the order of TFINFO (R121). -/
structure Conds where
  nv : Bool := false
  dz : Bool := false
  of : Bool := false
  uf : Bool := false
  nx : Bool := false
  deriving DecidableEq, Repr

/-- The union of two sets of conditions. -/
def Conds.union (a b : Conds) : Conds :=
  { nv := a.nv || b.nv, dz := a.dz || b.dz, of := a.of || b.of, uf := a.uf || b.uf, nx := a.nx || b.nx }

/-- NV, DZ, OF, UF, NX from bit 0 (R121). -/
def Conds.bits (c : Conds) : Nat :=
  c.nv.toNat + 2 * c.dz.toNat + 4 * c.of.toNat + 8 * c.uf.toNat + 16 * c.nx.toNat

/-- Invalid operation alone. -/
def Conds.invalid : Conds := { nv := true }

/-- The rounding modes of R115. -/
inductive RMode where
  | rne | rtz | rup | rdn | rna
  deriving DecidableEq, Repr

/-- A rounding-mode code of R69 or of FPCTL.RM (R114): 000 and 001 are RNE. -/
def RMode.ofCode (n : Nat) : RMode :=
  match n with
  | 2 => .rtz
  | 3 => .rup
  | 4 => .rdn
  | 5 => .rna
  | _ => .rne

/-- The parameters of a format (the table of R116), MAXF as a significand at the top exponent, and its default NaN
(R117). -/
structure Fmt where
  width : Nat
  p : Nat
  emin : Int
  emax : Int
  maxSig : Nat
  inf : Bool
  nan : Nat
  deriving DecidableEq, Repr

def Fmt.fp64 : Fmt := ⟨64, 53, -1022, 1023, 2 ^ 53 - 1, true, 0x7FF8000000000000⟩
def Fmt.fp32 : Fmt := ⟨32, 24, -126, 127, 2 ^ 24 - 1, true, 0x7FC00000⟩
def Fmt.fp16 : Fmt := ⟨16, 11, -14, 15, 2 ^ 11 - 1, true, 0x7E00⟩
def Fmt.bf16 : Fmt := ⟨16, 8, -126, 127, 2 ^ 8 - 1, true, 0x7FC0⟩
def Fmt.e4m3 : Fmt := ⟨8, 4, -6, 8, 14, false, 0x7F⟩
def Fmt.e5m2 : Fmt := ⟨8, 3, -14, 15, 7, true, 0x7E⟩

/-- The sign bit of a format, as a number. -/
def Fmt.signBit (F : Fmt) : Nat := 2 ^ (F.width - 1)

/-- The most significant fraction bit, which quiets a NaN (R119). -/
def Fmt.quietBit (F : Fmt) : Nat := 2 ^ (F.p - 2)

/-- The exponent field of all ones, in place. -/
def Fmt.infBits (F : Fmt) : Nat := (2 ^ (F.width - F.p) - 1) * 2 ^ (F.p - 1)

/-- A value read from a format: a NaN with its bits, an infinity, or an exact finite value. -/
inductive FVal where
  | nan (signalling : Bool) (bits : Nat)
  | inf (neg : Bool)
  | fin (neg : Bool) (m : Nat) (e : Int)
  deriving DecidableEq, Repr

/-- The value of a bit pattern of a format. E4M3 has no infinity and one NaN of each sign (R116, R133). -/
def Fmt.val (F : Fmt) (bits : Nat) : FVal :=
  let neg := bits / F.signBit % 2 == 1
  let frac := bits % 2 ^ (F.p - 1)
  let ex := bits / 2 ^ (F.p - 1) % 2 ^ (F.width - F.p)
  if F.inf && ex == 2 ^ (F.width - F.p) - 1 then
    if frac == 0 then .inf neg else .nan (frac / F.quietBit == 0) (bits % 2 ^ F.width)
  else if !F.inf && ex == 2 ^ (F.width - F.p) - 1 && frac == 2 ^ (F.p - 1) - 1 then .nan false (bits % 2 ^ F.width)
  else if ex == 0 then .fin neg frac (F.emin - F.p + 1)
  else .fin neg (2 ^ (F.p - 1) + frac) (F.emin - F.p + ex)

/-- A bit pattern with a sign. -/
def Fmt.signed (F : Fmt) (neg : Bool) (bits : Nat) : Nat := if neg then F.signBit + bits else bits

/-- The largest finite magnitude of a format. -/
def Fmt.maxBits (F : Fmt) : Nat := if F.inf then F.infBits - 1 else F.nan - 1

/-- An infinity of the format, or its default NaN where it has none. -/
def Fmt.infinity (F : Fmt) (neg : Bool) : Nat := if F.inf then F.signed neg F.infBits else F.nan

/-- Whether a mode rounds the magnitude up, given its discarded part: whether anything is discarded, and its order
against half a unit. -/
def roundsUp (mode : RMode) (neg odd inexact : Bool) (half : Ordering) : Bool :=
  match mode with
  | .rne => half == .gt || (half == .eq && odd)
  | .rna => half != .lt && inexact
  | .rtz => false
  | .rup => inexact && !neg
  | .rdn => inexact && neg

/-- The value `m * 2^-sh`, rounded to an integer, and whether the rounding changed it. `sticky` says that the exact
value lies strictly between `m` and `m + 1`. -/
def roundShift (mode : RMode) (neg : Bool) (m sh : Nat) (sticky : Bool) : Nat × Bool :=
  let n := m / 2 ^ sh
  let rem := m % 2 ^ sh
  let inexact := rem != 0 || sticky
  let half : Ordering :=
    if 2 * rem < 2 ^ sh then .lt
    else if 2 * rem == 2 ^ sh then (if sh == 0 then .lt else if sticky then .gt else .eq)
    else if sh == 0 then .lt else .gt
  (if roundsUp mode neg (n % 2 == 1) inexact half then n + 1 else n, inexact)

/-- The overflow result of R116. -/
def Fmt.overflow (F : Fmt) (mode : RMode) (neg : Bool) : Nat × Conds :=
  let toInf := match mode with
    | .rne => true
    | .rna => true
    | .rtz => false
    | .rup => !neg
    | .rdn => neg
  (if toInf then F.infinity neg else F.signed neg F.maxBits, { of := true, nx := true })

/-- Round of R116 on the exact magnitude `m * 2^e`, or on a magnitude strictly between `m * 2^e` and
`(m + 1) * 2^e` when `sticky` is set; a sticky caller gives `m` at least two bits more than the precision. -/
def Fmt.round (F : Fmt) (mode : RMode) (neg : Bool) (m : Nat) (e : Int) (sticky : Bool := false) : Nat × Conds :=
  if m == 0 && !sticky then (F.signed neg 0, {})
  else
    let top : Int := m.log2 + e
    if top > F.emax + 1 then F.overflow mode neg
    else
      -- a magnitude far below the smallest subnormal rounds as any other such magnitude
      let far := decide (top < F.emin - F.p - 2)
      let m' := if far then 1 else m
      let e' := if far then F.emin - F.p - 2 else e
      let top' : Int := m'.log2 + e'
      let q : Int := max top' F.emin - F.p + 1
      let sh : Int := q - e'
      let r := if sh ≤ 0 then (m' * 2 ^ (-sh).toNat, sticky) else roundShift mode neg m' sh.toNat sticky
      if r.1 == 0 then (F.signed neg 0, { uf := true, nx := true })
      else if q > F.emax - F.p + 1 || (q == F.emax - F.p + 1 && F.maxSig < r.1) then F.overflow mode neg
      else
        let bits := (q - F.emin + F.p).toNat * 2 ^ (F.p - 1) + r.1 - 2 ^ (F.p - 1)
        let tiny :=
          if top' ≥ F.emin then false
          else
            let sh2 : Int := top' - F.p + 1 - e'
            let r2 := if sh2 ≤ 0 then m' * 2 ^ (-sh2).toNat else (roundShift mode neg m' sh2.toNat sticky).1
            !(top' == F.emin - 1 && r2 == 2 ^ F.p)
        (F.signed neg bits, { uf := r.2 && tiny, nx := r.2 })

/-- A NaN of a format, quieted (R119). -/
def Fmt.quiet (F : Fmt) (bits : Nat) : Nat :=
  if bits / F.quietBit % 2 == 1 then bits else bits + F.quietBit

/-- The NaN result of operands taken in the order a, b, c (R119): the first signalling NaN, else the first quiet one;
a signalling operand raises NV. None when no operand is a NaN. -/
def Fmt.nanOf (F : Fmt) (ops : List FVal) : Option (Nat × Conds) :=
  match ops.findSome? (fun v => match v with | .nan true b => some b | _ => none) with
  | some b => some (F.quiet b, Conds.invalid)
  | none =>
    match ops.findSome? (fun v => match v with | .nan _ b => some b | _ => none) with
    | some b => some (F.quiet b, {})
    | none => none

/-- The default NaN with NV: an invalid operation without a NaN operand (R119). -/
def Fmt.invalid (F : Fmt) : Nat × Conds := (F.nan, Conds.invalid)

/-- The exact sum of two finite values: its sign, significand and exponent. A zero sum has significand 0. -/
def sumExact (n1 : Bool) (m1 : Nat) (e1 : Int) (n2 : Bool) (m2 : Nat) (e2 : Int) : Bool × Nat × Int :=
  let e := min e1 e2
  let a := m1 * 2 ^ (e1 - e).toNat
  let b := m2 * 2 ^ (e2 - e).toNat
  if n1 == n2 then (n1, a + b, e) else if a ≥ b then (n1, a - b, e) else (n2, b - a, e)

/-- Round an exact sum of two terms: an exact zero of terms of opposite sign is +0, or -0 under RDN; of one sign it keeps
that sign (R118). -/
def Fmt.roundSum (F : Fmt) (mode : RMode) (n1 : Bool) (m1 : Nat) (e1 : Int) (n2 : Bool) (m2 : Nat) (e2 : Int) :
    Nat × Conds :=
  let r := sumExact n1 m1 e1 n2 m2 e2
  if r.2.1 == 0 then (F.signed (if n1 == n2 then n1 else mode == .rdn) 0, {})
  else F.round mode r.1 r.2.1 r.2.2

/-- FADD of R123 in any format. -/
def Fmt.add (F : Fmt) (mode : RMode) (a b : Nat) : Nat × Conds :=
  let x := F.val a
  let y := F.val b
  match F.nanOf [x, y] with
  | some r => r
  | none =>
    match x, y with
    | .inf n, .inf n' => if n == n' then (F.infinity n, {}) else F.invalid
    | .inf n, _ => (F.infinity n, {})
    | _, .inf n => (F.infinity n, {})
    | .fin n1 m1 e1, .fin n2 m2 e2 => F.roundSum mode n1 m1 e1 n2 m2 e2
    | _, _ => F.invalid

/-- The bits with the sign bit inverted. -/
def Fmt.flip (F : Fmt) (b : Nat) : Nat := if b / F.signBit % 2 == 1 then b - F.signBit else b + F.signBit

/-- FSUB: a NaN operand is propagated as it stands. -/
def Fmt.sub (F : Fmt) (mode : RMode) (a b : Nat) : Nat × Conds :=
  match F.nanOf [F.val a, F.val b] with
  | some r => r
  | none => F.add mode a (F.flip b)

/-- FMUL of R123 in any format. -/
def Fmt.mul (F : Fmt) (mode : RMode) (a b : Nat) : Nat × Conds :=
  let x := F.val a
  let y := F.val b
  match F.nanOf [x, y] with
  | some r => r
  | none =>
    match x, y with
    | .inf n, .inf n' => (F.infinity (n != n'), {})
    | .inf n, .fin n' m _ => if m == 0 then F.invalid else (F.infinity (n != n'), {})
    | .fin n m _, .inf n' => if m == 0 then F.invalid else (F.infinity (n != n'), {})
    | .fin n1 m1 e1, .fin n2 m2 e2 => F.round mode (n1 != n2) (m1 * m2) (e1 + e2)
    | _, _ => F.invalid

/-- Zero times infinity, in either order. -/
def FVal.zeroInf : FVal → FVal → Bool
  | .inf _, .fin _ m _ => m == 0
  | .fin _ m _, .inf _ => m == 0
  | _, _ => false

/-- FFMA of R123 on values, with the result in a format: one rounding; 0 times infinity raises NV even beside a quiet NaN z. -/
def Fmt.fmaVal (F : Fmt) (mode : RMode) (x y z : FVal) : Nat × Conds :=
  match F.nanOf [x, y, z] with
  | some r => (r.1, r.2.union { nv := FVal.zeroInf x y })
  | none =>
    if FVal.zeroInf x y then F.invalid
    else
      match x, y, z with
      | .fin n1 m1 e1, .fin n2 m2 e2, .fin n3 m3 e3 => F.roundSum mode (n1 != n2) (m1 * m2) (e1 + e2) n3 m3 e3
      | .fin .., .fin .., .inf n => (F.infinity n, {})
      | .inf n1, .inf n2, .inf n3 => if (n1 != n2) == n3 then (F.infinity n3, {}) else F.invalid
      | .inf n1, .fin n2 .., .inf n3 => if (n1 != n2) == n3 then (F.infinity n3, {}) else F.invalid
      | .fin n1 .., .inf n2, .inf n3 => if (n1 != n2) == n3 then (F.infinity n3, {}) else F.invalid
      | .inf n1, .inf n2, _ => (F.infinity (n1 != n2), {})
      | .inf n1, .fin n2 .., _ => (F.infinity (n1 != n2), {})
      | .fin n1 .., .inf n2, _ => (F.infinity (n1 != n2), {})
      | _, _, _ => F.invalid

/-- FFMA of R123 in any format. -/
def Fmt.fma (F : Fmt) (mode : RMode) (a b c : Nat) : Nat × Conds := F.fmaVal mode (F.val a) (F.val b) (F.val c)

/-- FDIV of R126 and R127 in any format. -/
def Fmt.div (F : Fmt) (mode : RMode) (a b : Nat) : Nat × Conds :=
  let x := F.val a
  let y := F.val b
  match F.nanOf [x, y] with
  | some r => r
  | none =>
    match x, y with
    | .inf _, .inf _ => F.invalid
    | .inf n, .fin n' .. => (F.infinity (n != n'), {})
    | .fin n .., .inf n' => (F.signed (n != n') 0, {})
    | .fin n1 m1 e1, .fin n2 m2 e2 =>
      if m2 == 0 then (if m1 == 0 then F.invalid else (F.infinity (n1 != n2), { dz := true }))
      else if m1 == 0 then (F.signed (n1 != n2) 0, {})
      else
        let k := F.p + 3 + m2.log2
        F.round mode (n1 != n2) (m1 * 2 ^ k / m2) (e1 - e2 - k) (m1 * 2 ^ k % m2 != 0)
    | _, _ => F.invalid

/-- The integer square root, bit by bit from bit `k`. -/
def isqrtFrom (n : Nat) : Nat → Nat → Nat
  | 0, r => if (r + 1) * (r + 1) ≤ n then r + 1 else r
  | k + 1, r =>
    let r' := r + 2 ^ (k + 1)
    isqrtFrom n k (if r' * r' ≤ n then r' else r)

/-- The floor of the square root. -/
def isqrt (n : Nat) : Nat := isqrtFrom n (n.log2 / 2 + 1) 0

/-- A significand with an even exponent and at least `bits` bits: the value is unchanged. -/
def evenExp (m : Nat) (e : Int) (bits : Nat) : Nat × Int :=
  let k := bits + (e.emod 2).toNat + bits % 2
  (m * 2 ^ k, e - k)

/-- FSQRT of R126 and R127 in any format. -/
def Fmt.sqrt (F : Fmt) (mode : RMode) (a : Nat) : Nat × Conds :=
  let x := F.val a
  match F.nanOf [x] with
  | some r => r
  | none =>
    match x with
    | .inf false => (F.infinity false, {})
    | .fin n m e =>
      if m == 0 then (F.signed n 0, {})
      else if n then F.invalid
      else
        let k := 2 * F.p + 8
        let k' := if (e - k) % 2 == 0 then k else k + 1
        let mm := m * 2 ^ k'
        let r := isqrt mm
        F.round mode false r ((e - k') / 2) (r * r != mm)
    | _ => F.invalid

/-- FRSQ of R126 and R127. -/
def Fmt.rsqrt (F : Fmt) (mode : RMode) (a : Nat) : Nat × Conds :=
  let x := F.val a
  match F.nanOf [x] with
  | some r => r
  | none =>
    match x with
    | .inf false => (F.signed false 0, {})
    | .fin n m e =>
      if m == 0 then (F.infinity n, { dz := true })
      else if n then F.invalid
      else
        let m' := if e % 2 == 0 then m else 2 * m
        let e' := if e % 2 == 0 then e else e - 1
        let k := F.p + 4 + m'.log2
        let r := isqrt (2 ^ (2 * k) / m')
        F.round mode false r (-(e' / 2) - k) (r * r * m' != 2 ^ (2 * k))
    | _ => F.invalid

/-- The bit pattern of 1.0. -/
def Fmt.one (F : Fmt) : Nat := (1 - F.emin).toNat * 2 ^ (F.p - 1)

/-- FRCP of R126 and R127. -/
def Fmt.rcp (F : Fmt) (mode : RMode) (a : Nat) : Nat × Conds := F.div mode F.one a

/-- The integer nearest `m * 2^e` in a direction, as a magnitude, and whether it differs. -/
def roundInt (mode : RMode) (neg : Bool) (m : Nat) (e : Int) : Nat × Bool :=
  if e ≥ 0 then (m * 2 ^ e.toNat, false)
  else if (m.log2 : Int) + e < -2 then
    (if roundsUp mode neg false (m != 0) .lt then 1 else 0, m != 0)
  else roundShift mode neg m (-e).toNat false

/-- FFLOOR, FCEIL, FTRUNC and FRINT (R123): the integral value chosen by a mode, keeping the operand's sign. -/
def Fmt.integral (F : Fmt) (mode : RMode) (raiseNx : Bool) (a : Nat) : Nat × Conds :=
  let x := F.val a
  match F.nanOf [x] with
  | some r => r
  | none =>
    match x with
    | .fin n m e =>
      if e ≥ 0 || m == 0 then (a, {})
      else
        let r := roundInt mode n m e
        if r.2 then ((F.round .rne n r.1 0).1, { nx := raiseNx }) else (a, {})
    | _ => (a, {})

/-- An ordering key of numbers: FMIN and FMAX order -0 below +0 (R124). -/
def Fmt.key (F : Fmt) (a : Nat) : Int :=
  if a / F.signBit % 2 == 1 then -((a % F.signBit : Nat) : Int) - 1 else (a % F.signBit : Nat)

/-- FMIN and FMAX (R124). -/
def Fmt.minMax (F : Fmt) (isMax : Bool) (a b : Nat) : Nat × Conds :=
  let x := F.val a
  let y := F.val b
  let c : Conds := match F.nanOf [x, y] with
    | some r => r.2
    | none => {}
  match x, y with
  | .nan .., .nan .. => (match F.nanOf [x, y] with | some r => r | none => F.invalid)
  | .nan .., _ => (b, c)
  | _, .nan .. => (a, c)
  | _, _ => (if (F.key a ≤ F.key b) != isMax then a else b, c)

/-- FCLASS's bits 9:0 (R125). -/
def Fmt.classBits (F : Fmt) (a : Nat) : Nat :=
  match F.val a with
  | .nan true _ => 2 ^ 8
  | .nan false _ => 2 ^ 9
  | .inf n => if n then 1 else 2 ^ 7
  | .fin n m _ =>
    if m == 0 then (if n then 2 ^ 3 else 2 ^ 4)
    else if m < 2 ^ (F.p - 1) then (if n then 2 ^ 2 else 2 ^ 5)
    else if n then 2 else 2 ^ 6

/-- FSCALE (R123): the value times a power of two. -/
def Fmt.scale (F : Fmt) (mode : RMode) (a : Nat) (k : Int) : Nat × Conds :=
  let x := F.val a
  match F.nanOf [x] with
  | some r => r
  | none =>
    match x with
    | .fin n m e => if m == 0 then (a, {}) else F.round mode n m (e + k)
    | _ => (a, {})

/-- FFRAC (R123): a minus its floor; an exact zero is +0 in every mode; an infinity is invalid. -/
def Fmt.frac (F : Fmt) (mode : RMode) (a : Nat) : Nat × Conds :=
  let x := F.val a
  match F.nanOf [x] with
  | some r => r
  | none =>
    match x with
    | .fin n m e =>
      if e ≥ 0 || m == 0 then (F.signed false 0, {})
      else
        let f := roundInt .rdn n m e
        let s := sumExact n m e (!n) f.1 0
        if s.2.1 == 0 then (F.signed false 0, {}) else F.round mode s.1 s.2.1 s.2.2
    | _ => F.invalid

/-- The order of two values, none when either is a NaN; -0 equals +0 (R89). -/
def FVal.compare : FVal → FVal → Option Ordering
  | .nan .., _ => none
  | _, .nan .. => none
  | .inf n, .inf n' => some (if n == n' then .eq else if n then .lt else .gt)
  | .inf n, .fin .. => some (if n then .lt else .gt)
  | .fin .., .inf n => some (if n then .gt else .lt)
  | .fin n1 m1 e1, .fin n2 m2 e2 =>
    let r := sumExact n1 m1 e1 (!n2) m2 e2
    some (if r.2.1 == 0 then .eq else if r.1 then .lt else .gt)

/-- A floating-point compare under a condition code (R81, R89): the outcome and its conditions. -/
def Fmt.cmp (F : Fmt) (cond : Nat) (a b : Nat) : Bool × Conds :=
  let x := F.val a
  let y := F.val b
  let snan := match x, y with
    | .nan true _, _ => true
    | _, .nan true _ => true
    | _, _ => false
  match x.compare y with
  | none => (cond == 1 || cond == 6, { nv := snan || (2 ≤ cond && cond ≤ 5) })
  | some o =>
    ((match cond with
      | 0 => o == .eq
      | 1 => o != .eq
      | 2 => o == .lt
      | 3 => o != .gt
      | 4 => o == .gt
      | 5 => o != .lt
      | _ => false), {})

/-- A NaN of one format as a NaN of another (R133): sign kept, quieted, the high fraction bits kept; E4M3 has one. -/
def Fmt.nanTo (F G : Fmt) (bits : Nat) : Nat :=
  let neg := bits / F.signBit % 2 == 1
  let rest := bits % F.quietBit
  if G.inf then
    let fr := if F.p ≥ G.p then rest / 2 ^ (F.p - G.p) else rest * 2 ^ (G.p - F.p)
    G.signed neg (G.infBits + G.quietBit + fr)
  else G.signed neg G.nan

/-- The formats of R130 by code; the integer ones give their width and sign. -/
inductive ConvFmt where
  | flt (f : Fmt)
  | int (width : Nat) (signed : Bool)
  deriving DecidableEq, Repr

/-- The 4-bit format codes of R130. -/
def ConvFmt.ofCode (n : Nat) : ConvFmt :=
  match n with
  | 0 => .flt .fp32
  | 1 => .flt .fp64
  | 2 => .flt .fp16
  | 3 => .flt .bf16
  | 4 => .flt .e4m3
  | 5 => .flt .e5m2
  | 6 => .int 32 true
  | 7 => .int 32 false
  | 8 => .int 64 true
  | 9 => .int 64 false
  | 10 => .int 16 true
  | 11 => .int 16 false
  | 12 => .int 8 true
  | 13 => .int 8 false
  | 14 => .int 4 true
  | _ => .int 4 false

/-- The width in bits of an element of a format. -/
def ConvFmt.width : ConvFmt → Nat
  | .flt f => f.width
  | .int w _ => w

/-- The exact value of the low bits of a source. -/
def ConvFmt.read (c : ConvFmt) (bits : Nat) : FVal :=
  match c with
  | .flt f => f.val (bits % 2 ^ f.width)
  | .int w sg =>
    let u := bits % 2 ^ w
    if sg && u ≥ 2 ^ (w - 1) then .fin true (2 ^ w - u) 0 else .fin false u 0

/-- The greatest magnitude of an integer format on one side. -/
def intLimit (w : Nat) (sg neg : Bool) : Nat :=
  if sg then (if neg then 2 ^ (w - 1) else 2 ^ (w - 1) - 1) else if neg then 0 else 2 ^ w - 1

/-- A two's complement pattern of `w` bits. -/
def intBits (w : Nat) (neg : Bool) (m : Nat) : Nat := if neg then (2 ^ w - m) % 2 ^ w else m

/-- CVT and CVTS on one element (R132, R133): the destination's bits and the conditions. -/
def convert (src dst : ConvFmt) (saturate : Bool) (mode : RMode) (bits : Nat) : Nat × Conds :=
  match src.read bits, dst with
  | .nan sig b, .flt g =>
    ((match src with | .flt f => f.nanTo g b | .int .. => g.nan), { nv := sig })
  | .nan sig _, .int .. => (0, { nv := !saturate || sig })
  | .inf n, .flt g =>
    if saturate then (g.signed n g.maxBits, { nx := true })
    else if g.inf then (g.infinity n, {}) else g.invalid
  | .fin n m e, .flt g =>
    let r := g.round mode n m e
    if saturate && r.2.of then (g.signed n g.maxBits, { nx := true }) else r
  | .inf n, .int w sg => (intBits w n (intLimit w sg n), { nv := !saturate, nx := saturate })
  | .fin n m e, .int w sg =>
    if (m.log2 : Int) + e > 70 then (intBits w n (intLimit w sg n), { nv := !saturate, nx := saturate })
    else
      let r := roundInt mode n m e
      if r.1 ≤ intLimit w sg n then (intBits w n r.1, { nx := r.2 })
      else (intBits w n (intLimit w sg n), { nv := !saturate, nx := saturate })

end Sys2Proof.Machine
end

