-- ==== Sys2Proof/Machine/Transc.lean ====
section
/-! DEFINITION. The correctly rounded functions of R126 and R127 that are not algebraic: FEXP2, FLOG2, FSIN and FCOS, and the
exponential that SEXP uses. Each encloses the exact value between two integers over a power of two, and rounds when
both ends round alike; the enclosure is made finer until they do. -/
namespace Sys2Proof.Machine

/-- Floor and ceiling of a quotient by a positive divisor. -/
def cdiv (a b : Nat) : Nat := (a + b - 1) / b

/-- An enclosure of a non-negative real: lower and upper end over a power of two. -/
abbrev Encl := Nat × Nat

/-- The sum of `t / k!`-like terms: each next term is the last times `x`, divided by `k` and by the scale. Floors on the
lower end, ceilings on the upper. -/
def expSeries (N : Nat) (x : Encl) : Nat → Nat → Encl → Encl → Encl
  | 0, _, _, acc => (acc.1, acc.2 + 4)
  | n + 1, k, t, acc =>
    let t' : Encl := (t.1 * x.1 / (k * 2 ^ N), cdiv (t.2 * x.2) (k * 2 ^ N))
    expSeries N x n (k + 1) t' (acc.1 + t'.1, acc.2 + t'.2)

/-- e to the x for an enclosure of x in [0, 1], scaled by `2 ^ N`. -/
def expEncl (N : Nat) (x : Encl) : Encl :=
  expSeries N x (N / 3 + 12) 1 (2 ^ N, 2 ^ N) (2 ^ N, 2 ^ N)

/-- The odd-power series of the inverse hyperbolic tangent, for z of at most one third. -/
def atanhSeries (N : Nat) (z2 : Encl) : Nat → Nat → Encl → Encl → Encl
  | 0, _, _, acc => (acc.1, acc.2 + 4)
  | n + 1, k, t, acc =>
    let acc' : Encl := (acc.1 + t.1 / k, acc.2 + cdiv t.2 k)
    let t' : Encl := (t.1 * z2.1 / 2 ^ N, cdiv (t.2 * z2.2) (2 ^ N))
    atanhSeries N z2 n (k + 2) t' acc'

/-- The natural logarithm of `a / b` for `b ≤ a ≤ 2 b`, scaled. -/
def lnRatio (N a b : Nat) : Encl :=
  let z : Encl := ((a - b) * 2 ^ N / (a + b), cdiv ((a - b) * 2 ^ N) (a + b))
  let z2 : Encl := (z.1 * z.1 / 2 ^ N, cdiv (z.2 * z.2) (2 ^ N))
  let s := atanhSeries N z2 (N / 3 + 8) 1 z (0, 0)
  (2 * s.1, 2 * s.2)

/-- The natural logarithm of 2, scaled. -/
def ln2Encl (N : Nat) : Encl := lnRatio N 2 1

/-- The alternating series of the arctangent of `1 / q`. -/
def atanInv (N q : Nat) : Nat → Nat → Bool → Nat → Int → Int
  | 0, _, _, _, acc => acc
  | n + 1, k, neg, t, acc =>
    atanInv N q n (k + 2) (!neg) (t / (q * q)) (if neg then acc - (t / k : Nat) else acc + (t / k : Nat))

/-- Pi by the arctangents of 1/5 and 1/239, scaled, with the error of its floored terms as slack. -/
def piEncl (N : Nat) : Encl :=
  let n := N / 4 + 8
  let v := 16 * atanInv N 5 n 1 false (2 ^ N / 5) 0 - 4 * atanInv N 239 n 1 false (2 ^ N / 239) 0
  let slack := 40 * (n + 2)
  (v.toNat - slack, v.toNat + slack)

/-- Lower and upper sums of an alternating series in x squared, for x of at most 1: the cosine from 1, the sine from x. -/
def altSeries (N : Nat) (x2 : Encl) : Nat → Nat → Bool → Encl → Int × Int → Int × Int
  | 0, _, _, _, acc => (acc.1 - 4, acc.2 + 4)
  | n + 1, k, neg, t, acc =>
    let t' : Encl := (t.1 * x2.1 / (k * (k + 1) * 2 ^ N), cdiv (t.2 * x2.2) (k * (k + 1) * 2 ^ N))
    altSeries N x2 n (k + 2) (!neg) t'
      (if neg then (acc.1 - (t'.2 : Int), acc.2 - (t'.1 : Int)) else (acc.1 + (t'.1 : Int), acc.2 + (t'.2 : Int)))

/-- The sine of an enclosure of x in [0, 1]. -/
def sinEncl (N : Nat) (x : Encl) : Int × Int :=
  let x2 : Encl := (x.1 * x.1 / 2 ^ N, cdiv (x.2 * x.2) (2 ^ N))
  altSeries N x2 (N / 4 + 8) 2 true x (x.1, x.2)

/-- The cosine of an enclosure of x in [0, 1]. -/
def cosEncl (N : Nat) (x : Encl) : Int × Int :=
  let x2 : Encl := (x.1 * x.1 / 2 ^ N, cdiv (x.2 * x.2) (2 ^ N))
  altSeries N x2 (N / 4 + 8) 1 true (2 ^ N, 2 ^ N) (2 ^ N, 2 ^ N)

/-- Round an enclosure of an irrational value over `2 ^ N`, when both ends round alike. -/
def roundEncl (F : Fmt) (mode : RMode) (N : Nat) (v : Int × Int) : Option (Nat × Conds) :=
  if v.1 > 2 ^ 30 then
    let r1 := F.round mode false v.1.toNat (-(N : Int)) true
    let r2 := F.round mode false v.2.toNat (-(N : Int)) true
    if r1 == r2 then some r1 else none
  else if v.2 < -(2 ^ 30) then
    let r1 := F.round mode true (-v.2).toNat (-(N : Int)) true
    let r2 := F.round mode true (-v.1).toNat (-(N : Int)) true
    if r1 == r2 then some r1 else none
  else none

/-- Try the enclosures of growing precision; the last one is rounded at its lower end. -/
def refine (F : Fmt) (mode : RMode) (f : Nat → Int × Int) : List Nat → Nat × Conds
  | [] => (F.nan, {})
  | [N] => (roundEncl F mode N (f N)).getD (F.round mode (decide ((f N).1 < 0)) (f N).1.natAbs (-(N : Int)) true)
  | N :: M :: rest =>
    match roundEncl F mode N (f N) with
    | some r => r
    | none => refine F mode f (M :: rest)

/-- The precisions tried, in bits. -/
def precisions : List Nat := [128, 192, 320, 640]

/-- e to the `n * m * 2^e` scaled by ln 2 when `base2`: split off the integer part of the base-2 exponent. -/
def exp2Encl (N : Nat) (neg : Bool) (m : Nat) (e : Int) : Int × Encl :=
  -- floor of the exponent and its fraction over 2 ^ N
  let fl : Int := if neg then -((cdiv m (2 ^ (-e).toNat) : Nat) : Int) else (m / 2 ^ (-e).toNat : Nat)
  let rest : Nat := if neg then (2 ^ (-e).toNat - m % 2 ^ (-e).toNat) % 2 ^ (-e).toNat else m % 2 ^ (-e).toNat
  let f : Encl := (rest * 2 ^ N / 2 ^ (-e).toNat, cdiv (rest * 2 ^ N) (2 ^ (-e).toNat))
  let l := ln2Encl N
  (fl, expEncl N (f.1 * l.1 / 2 ^ N, cdiv (f.2 * l.2) (2 ^ N)))

/-- Round `2 ^ k` times an enclosure, trying growing precisions. -/
def refineScaled (F : Fmt) (mode : RMode) (f : Nat → Int × Encl) : List Nat → Nat × Conds
  | [] => (F.nan, {})
  | N :: rest =>
    let v := f N
    let r1 := F.round mode false v.2.1 (v.1 - N) true
    let r2 := F.round mode false v.2.2 (v.1 - N) true
    if r1 == r2 || rest.isEmpty then r1 else refineScaled F mode f rest

/-- FEXP2 of R126 and R127. -/
def Fmt.exp2 (F : Fmt) (mode : RMode) (a : Nat) : Nat × Conds :=
  let x := F.val a
  match F.nanOf [x] with
  | some r => r
  | none =>
    match x with
    | .inf n => (if n then F.signed false 0 else F.infinity false, {})
    | .fin n m e =>
      if m == 0 then (F.one, {})
      else if (m.log2 : Int) + e ≥ 12 then F.round mode false 1 (if n then -5000 else 5000)
      else if e ≥ 0 then F.round mode false 1 (if n then -((m * 2 ^ e.toNat : Nat) : Int) else (m * 2 ^ e.toNat : Nat))
      else if m % 2 ^ (-e).toNat == 0 then
        F.round mode false 1 (if n then -((m / 2 ^ (-e).toNat : Nat) : Int) else (m / 2 ^ (-e).toNat : Nat))
      else if (m.log2 : Int) + e < -(F.p : Int) - 20 then
        (if n then F.round mode false (2 ^ (F.p + 16) - 1) (-(F.p : Int) - 16) true
         else F.round mode false (2 ^ (F.p + 16)) (-(F.p : Int) - 16) true)
      else refineScaled F mode (fun N => exp2Encl N n m e) precisions
    | _ => F.invalid

/-- The base-2 logarithm of `m * 2^e`, enclosed. -/
def log2Encl (N m : Nat) (e : Int) : Int × Int :=
  let k : Int := m.log2 + e
  let l := lnRatio N m (2 ^ m.log2)
  let d := ln2Encl N
  (k * 2 ^ N + (l.1 * 2 ^ N / d.2 : Nat), k * 2 ^ N + (cdiv (l.2 * 2 ^ N) d.1 : Nat))

/-- FLOG2 of R126 and R127. -/
def Fmt.log2 (F : Fmt) (mode : RMode) (a : Nat) : Nat × Conds :=
  let x := F.val a
  match F.nanOf [x] with
  | some r => r
  | none =>
    match x with
    | .inf false => (F.infinity false, {})
    | .fin n m e =>
      if m == 0 then (F.infinity true, { dz := true })
      else if n then F.invalid
      else if m == 2 ^ m.log2 then
        let k : Int := m.log2 + e
        if k == 0 then (F.signed false 0, {}) else F.round mode (decide (k < 0)) k.natAbs 0
      else refine F mode (fun N => log2Encl N m e) precisions
    | _ => F.invalid

/-- The magnitude `m * 2^e` less the nearest multiple of half pi: the quadrant, the sign and an enclosure of the
remainder. -/
def reduceHalfPi (N m : Nat) (e : Int) : Nat × Bool × Encl :=
  let top : Nat := ((m.log2 : Int) + e + 1).toNat
  let P := N + top + 8
  let p := piEncl P
  -- x over 2 ^ P
  let xs : Encl :=
    if e + P ≥ 0 then (m * 2 ^ (e + P).toNat, m * 2 ^ (e + P).toNat)
    else (m / 2 ^ (-(e + P)).toNat, m / 2 ^ (-(e + P)).toNat + 1)
  let q := (2 * xs.1 + p.1 / 2) / p.1
  -- r = x - q * pi / 2, over 2 ^ (P + 1)
  let lo : Int := 2 * (xs.1 : Int) - (q * p.2 : Nat)
  let hi : Int := 2 * (xs.2 : Int) - (q * p.1 : Nat)
  let sh := 2 ^ (P + 1 - N)
  if lo ≥ 0 then (q % 4, false, (lo.toNat / sh, cdiv hi.toNat sh))
  else if hi ≤ 0 then (q % 4, true, ((-hi).toNat / sh, cdiv (-lo).toNat sh))
  else (q % 4, false, (0, cdiv (max hi.toNat (-lo).toNat) sh))

/-- Sine or cosine of a magnitude, enclosed. -/
def trigEncl (isCos : Bool) (N m : Nat) (e : Int) : Int × Int :=
  let r := reduceHalfPi N m e
  let quad := (r.1 + if isCos then 1 else 0) % 4
  -- sin (r + quad * pi / 2)
  let v := if quad % 2 == 0 then
      (let s := sinEncl N r.2.2; if r.2.1 then (-s.2, -s.1) else s)
    else cosEncl N r.2.2
  if quad ≥ 2 then (-v.2, -v.1) else v

/-- FSIN and FCOS of R126 and R127. -/
def Fmt.trig (F : Fmt) (isCos : Bool) (mode : RMode) (a : Nat) : Nat × Conds :=
  let x := F.val a
  match F.nanOf [x] with
  | some r => r
  | none =>
    match x with
    | .fin n m e =>
      if m == 0 then (if isCos then F.one else a, {})
      else if (m.log2 : Int) + e < -30 - (F.p : Int) then
        (if isCos then F.round mode false (2 ^ (F.p + 16) - 1) (-(F.p : Int) - 16) true
         else
          let k := F.p + 16 + F.p - m.log2
          F.round mode n (m * 2 ^ k - 1) (e - k) true)
      else refine F mode (fun N =>
        let v := trigEncl isCos N m e
        if n && !isCos then (-v.2, -v.1) else v) precisions
    | _ => F.invalid

end Sys2Proof.Machine
end

