-- ==== Sys2Proof/Machine/SpecMath.lean ====
section
/-! DEFINITION. The arithmetic of the spectral, texture, traversal and film units, on FP32 bit patterns
(spec/09_isa_spectral.md R165 to R189, spec/10_stages_film.md R205 to R210). Memory is a reader argument. -/
namespace Sys2Proof.Machine

/-- The negation of a value. -/
def FVal.neg : FVal → FVal
  | .nan s b => .nan s b
  | .inf n => .inf (!n)
  | .fin n m e => .fin (!n) m e

/-- An exact product as a term of SumRound, with NV for 0 times infinity (R166). -/
def prodTerm (F : Fmt) (a b : FVal) : FVal × Conds :=
  match a, b with
  | .nan true x, _ => (.nan true x, {})
  | _, .nan true y => (.nan true y, {})
  | .nan s x, _ => (.nan s x, {})
  | _, .nan s y => (.nan s y, {})
  | .inf n, .inf n' => (.inf (n != n'), {})
  | .inf n, .fin n' m _ => if m == 0 then (.nan false F.nan, Conds.invalid) else (.inf (n != n'), {})
  | .fin n m _, .inf n' => if m == 0 then (.nan false F.nan, Conds.invalid) else (.inf (n != n'), {})
  | .fin n m e, .fin n' m' e' => (.fin (n != n') (m * m') (e + e'), {})

/-- The sign of a term. -/
def FVal.isNeg : FVal → Bool
  | .nan .. => false
  | .inf n => n
  | .fin n .. => n

/-- SumRound of R166: the exact sum of finite terms rounded once. -/
def Fmt.sumRound (F : Fmt) (mode : RMode) (ts : List FVal) : Nat × Conds :=
  match F.nanOf ts with
  | some r => r
  | none =>
    let pinf := ts.any fun t => t == .inf false
    let ninf := ts.any fun t => t == .inf true
    if pinf && ninf then F.invalid
    else if pinf then (F.infinity false, {})
    else if ninf then (F.infinity true, {})
    else
      let s : Bool × Nat × Int := ts.foldl (fun acc t => match t with
        | .fin n m e => sumExact acc.1 acc.2.1 acc.2.2 n m e
        | _ => acc) (false, 0, 0)
      if s.2.1 == 0 then
        let allNeg := ts.all (fun t => t.isNeg)
        let mixed := ts.any (fun t => t.isNeg) && !allNeg
        (F.signed (allNeg || (mixed && mode == .rdn)) 0, {})
      else F.round mode s.1 s.2.1 s.2.2

/-- SumRound of exact products of FP32 pairs. -/
def sumProd (mode : RMode) (ps : List (Nat × Nat)) : Nat × Conds :=
  let ts := ps.map fun p => prodTerm .fp32 (Fmt.fp32.val p.1) (Fmt.fp32.val p.2)
  let r := Fmt.fp32.sumRound mode (ts.map (·.1))
  (r.1, ts.foldl (fun c t => c.union t.2) r.2)

/-- FP32 operations rounded RNE, their conditions dropped, as the units work (R175). -/
def fAdd (a b : Nat) : Nat := (Fmt.fp32.add .rne a b).1
def fSub (a b : Nat) : Nat := (Fmt.fp32.sub .rne a b).1
def fMul (a b : Nat) : Nat := (Fmt.fp32.mul .rne a b).1
def fDiv (a b : Nat) : Nat := (Fmt.fp32.div .rne a b).1
def fFma (a b c : Nat) : Nat := (Fmt.fp32.fma .rne a b c).1
def fSqrt (a : Nat) : Nat := (Fmt.fp32.sqrt .rne a).1
def fSumProd (ps : List (Nat × Nat)) : Nat := (sumProd .rne ps).1
def fLt (a b : Nat) : Bool := (Fmt.fp32.cmp 2 a b).1
def fLe (a b : Nat) : Bool := (Fmt.fp32.cmp 3 a b).1
def fGt (a b : Nat) : Bool := (Fmt.fp32.cmp 4 a b).1
def fGe (a b : Nat) : Bool := (Fmt.fp32.cmp 5 a b).1
def fEq (a b : Nat) : Bool := (Fmt.fp32.cmp 0 a b).1
def fNeg (a : Nat) : Nat := Fmt.fp32.flip a
def fOfNat (n : Nat) : Nat := (Fmt.fp32.round .rne false n 0).1
def fOfInt (i : Int) : Nat := (Fmt.fp32.round .rne (decide (i < 0)) i.natAbs 0).1
def fOne : Nat := 0x3F800000
def fHalf : Nat := 0x3F000000
def fNaN : Nat := 0x7FC00000
def fInf : Nat := 0x7F800000

def fIsNaN (a : Nat) : Bool := match Fmt.fp32.val a with | .nan .. => true | _ => false
def fIsFinite (a : Nat) : Bool := match Fmt.fp32.val a with | .fin .. => true | _ => false

/-- The floor of a finite FP32 value; 0 for the others. -/
def fFloor (a : Nat) : Int :=
  match Fmt.fp32.val a with
  | .fin n m e => let r := roundInt .rdn n m e; if n then -(r.1 : Int) else r.1
  | _ => 0

/-- The value 2^-2 times a small count, 0 to 3. -/
def fQuarters (i : Nat) : Nat := (Fmt.fp32.round .rne false i (-2)).1

/-! ### The exponential of SEXP (R165) -/

/-- e to the x as a power of two times an enclosure. -/
def expScaled (N : Nat) (neg : Bool) (m : Nat) (e : Int) : Int × Encl :=
  let x : Encl :=
    if e + N ≥ 0 then (m * 2 ^ (e + N).toNat, m * 2 ^ (e + N).toNat)
    else (m / 2 ^ (-(e + N)).toNat, m / 2 ^ (-(e + N)).toNat + 1)
  let l := ln2Encl N
  if neg then
    let k := x.2 / l.1 + 1
    (-(k : Int), expEncl N (k * l.1 - x.2, k * l.2 - x.1))
  else
    let k := x.1 / l.2
    (k, expEncl N (x.1 - k * l.2, x.2 - k * l.1))

/-- SEXP on one lane (R165). -/
def Fmt.exp (F : Fmt) (mode : RMode) (a : Nat) : Nat × Conds :=
  let x := F.val a
  match F.nanOf [x] with
  | some r => r
  | none =>
    match x with
    | .inf n => (if n then F.signed false 0 else F.infinity false, {})
    | .fin n m e =>
      if m == 0 then (F.one, {})
      else if (m.log2 : Int) + e ≥ 12 then F.round mode false 1 (if n then -5000 else 5000) true
      else if (m.log2 : Int) + e < -(F.p : Int) - 20 then
        (if n then F.round mode false (2 ^ (F.p + 16) - 1) (-(F.p : Int) - 16) true
         else F.round mode false (2 ^ (F.p + 16)) (-(F.p : Int) - 16) true)
      else refineScaled F mode (fun N => expScaled N n m e) precisions
    | _ => F.invalid

/-! ### Numbers (p + q * sqrt S) / r (R172, R181) -/

/-- A number of a real quadratic field, over a positive radicand held apart. -/
structure QNum where
  p : Int
  q : Int
  r : Int
  deriving DecidableEq, Repr

def QNum.mul (S : Nat) (x y : QNum) : QNum := ⟨x.p * y.p + x.q * y.q * S, x.p * y.q + x.q * y.p, x.r * y.r⟩
def QNum.add (x y : QNum) : QNum := ⟨x.p * y.r + y.p * x.r, x.q * y.r + y.q * x.r, x.r * y.r⟩
def QNum.negate (x : QNum) : QNum := ⟨-x.p, -x.q, x.r⟩
def QNum.half (x : QNum) : QNum := ⟨x.p, x.q, 2 * x.r⟩

/-- (M - n * sqrt S) / (M + n * sqrt S), rationalised. -/
def reflect (S M n : Nat) : QNum :=
  let d : Int := (M * M : Nat) - (n * n * S : Nat)
  if d == 0 then ⟨0, 0, 1⟩ else ⟨(M * M + n * n * S : Nat), -((2 * M * n : Nat) : Int), d⟩

/-- One rounding of a number of the field; an exact zero is +0. -/
def Fmt.roundQ (F : Fmt) (mode : RMode) (S : Nat) (x : QNum) : Nat × Conds :=
  let p := if x.r < 0 then -x.p else x.p
  let q := if x.r < 0 then -x.q else x.q
  let r := x.r.natAbs
  let pp := p.natAbs * p.natAbs
  let qq := q.natAbs * q.natAbs * S
  -- the sign of p + q sqrt S
  let neg := if p < 0 && q ≤ 0 then true else if p < 0 then decide (pp > qq) else if q < 0 then decide (qq > pp) else false
  if pp == qq && decide ((p < 0) != (q < 0)) || (p == 0 && q == 0) || (p == 0 && S == 0) then (F.signed false 0, {})
  else
    let k := F.p + 20 + r.log2 + (p.natAbs + q.natAbs * (isqrt S + 1)).log2
    let P := p.natAbs * 2 ^ k
    let T := qq * 4 ^ k
    let t := isqrt T
    let sq := t * t == T
    let same := decide ((p < 0) == (q < 0)) || p == 0 || q == 0
    let num : Nat × Bool :=
      if same then (P + t, !sq)
      else if pp > qq then (if sq then (P - t, false) else (P - t - 1, true))
      else (t - P, !sq)
    F.round mode neg (num.1 / r) (-(k : Int)) (num.2 || num.1 % r != 0)

/-- SFRES on one lane (R172): the coefficients a, b, c and d, each rounded once. -/
def sfresLane (mode : RMode) (cosI eta : Nat) : List Nat × Conds :=
  let F := Fmt.fp32
  let bad : List Nat × Conds := ([F.nan, F.nan, F.nan, F.nan], Conds.invalid)
  match F.val (cosI % 2 ^ 31), F.val eta with
  | .nan .., _ => bad
  | _, .nan .. => bad
  | _, .inf _ => bad
  | xv, .fin n h eh =>
    if n || h == 0 then bad
    else
      -- x is at most 1
      let x : Nat × Int := match xv with
        | .fin _ m e => if fGt (cosI % 2 ^ 31) fOne then (1, 0) else (m, e)
        | _ => (1, 0)
      if fEq eta fOne then ([0, 0, 0, 0], {})
      else
        let K : Nat := (max 0 (max (-x.2) (-eh))).toNat
        let X := x.1 * 2 ^ (x.2 + K).toNat
        let H := h * 2 ^ (eh + K).toNat
        let s : Int := (H * H + X * X : Nat) - (4 ^ K : Nat)
        if s ≥ 0 then
          let S := s.toNat
          let rs := reflect S X 1
          let rp := reflect S (H * H * X) (4 ^ K)
          let rs2 := QNum.mul S rs rs
          let rp2 := QNum.mul S rp rp
          let a := F.roundQ mode S (QNum.half (QNum.add rs2 rp2))
          let b := F.roundQ mode S (QNum.half (QNum.add rs2 rp2.negate))
          let c := F.roundQ mode S (QNum.mul S rs rp)
          ([a.1, b.1, c.1, 0], (a.2.union b.2).union c.2)
        else
          -- total internal reflection: u = sqrt (-s), all scaled by 2 ^ K
          let U := (-s).toNat
          -- p = eta^2 x^2 + u^2 and q = x (1 - eta^2), over 16 ^ K and 8 ^ K
          let p : Nat := H * H * X * X + U * 4 ^ K
          let q : Int := (X : Int) * ((4 ^ K : Nat) - (H * H : Nat))
          let qa := q.natAbs
          -- (x^2 + u^2)(eta^4 x^2 + u^2), over 4 ^ K and 64 ^ K
          let D := (X * X + U) * (H * H * H * H * X * X + U * 16 ^ K)
          let c := F.roundQ mode 0 ⟨(p * p : Nat) - (qa * qa * U : Nat), 0, D⟩
          let d := F.roundQ mode U ⟨0, 2 * p * q, D⟩
          ([fOne, 0, c.1, d.1], c.2.union d.2)

/-- The logistic-like map of STEXUP's last step (R181). -/
def sigmoid (z : Nat) : Nat :=
  match Fmt.fp32.val z with
  | .nan .. => fNaN
  | .inf n => if n then 0 else fOne
  | .fin n m e =>
    let K : Nat := (max 0 (-e)).toNat
    let Z := m * 2 ^ (e + K).toNat
    let S := 4 ^ K + Z * Z
    (Fmt.fp32.roundQ .rne S ⟨S, if n then -(Z : Int) else Z, 2 * S⟩).1

/-! ### Spectral texture (R177 to R182) -/

/-- The fields of a SPECTRAL entry that the unit uses (R177). -/
structure Spectrum where
  w : Nat
  h : Nat
  l : Nat
  n : Nat
  lambda0 : Nat
  dlambda : Nat
  edgeZero : Bool
  wrap : Bool
  deriving DecidableEq, Repr

/-- A value is 1. -/
def FVal.isOne : FVal → Bool
  | .fin false m e => if e ≤ 0 then m == 2 ^ (-e).toNat else m * 2 ^ e.toNat == 1
  | _ => false

/-- A value is 0. -/
def FVal.isZero : FVal → Bool
  | .fin _ m _ => m == 0
  | _ => false

/-- Lerp of R178, with the fraction as an exact value. -/
def lerpVal (a b : Nat) (f : FVal) : Nat :=
  if f.isZero then a else if f.isOne then b
  else (Fmt.fp32.fmaVal .rne f (Fmt.fp32.val (fSub b a)) (Fmt.fp32.val a)).1

/-- Lerp of R178. -/
def lerp (a b f : Nat) : Nat := lerpVal a b (Fmt.fp32.val f)

/-- What a finite FP32 value lies above its floor, exact (R178). -/
def aboveFloor (a : Nat) : FVal :=
  match Fmt.fp32.val a with
  | .fin n m e =>
    let r := sumExact n m e (decide (0 < fFloor a)) (fFloor a).natAbs 0
    .fin false r.2.1 r.2.2
  | v => v

/-- The Lerp tree over two nodes of each of three axes (R178). `s i j k` reads the sample at the lower or upper node. -/
def lerp3 {m : Type → Type} [Monad m] (s : Bool → Bool → Bool → m Nat) (fx fy fl : FVal) : m Nat := do
  let layer (k : Bool) : m Nat := do
    let a ← s false false k
    let b ← s true false k
    let c ← s false true k
    let d ← s true true k
    pure (lerpVal (lerpVal a b fx) (lerpVal c d fx) fy)
  let x ← layer false
  let y ← layer true
  pure (lerpVal x y fl)

/-- Spectral of R179; `A i` reads sample i. -/
def Spectrum.at {m : Type → Type} [Monad m] (T : Spectrum) (A : Nat → m Nat) (lam : Nat) : m Nat :=
  if fIsNaN lam then pure fNaN
  else
    let p := fDiv (fSub lam T.lambda0) T.dlambda
    if fLt p 0 then (if T.edgeZero then pure 0 else A 0)
    else if fGt p (fOfNat (T.n - 1)) then (if T.edgeZero then pure 0 else A (T.n - 1))
    else if T.n == 1 then A 0
    else do
      let i := min (fFloor p).toNat (T.n - 2)
      let li := fFma (fOfNat i) T.dlambda T.lambda0
      let a ← A i
      let b ← A (i + 1)
      pure (lerp a b (fDiv (fSub lam li) T.dlambda))

/-- A texel coordinate under the address mode (R178). -/
def texAddr (wrap : Bool) (x : Int) (w : Nat) : Nat :=
  if wrap then (x % (w : Int)).toNat else (max 0 (min x ((w : Int) - 1))).toNat

/-- How a sample is read: its texel x, y, its layer and its number. -/
abbrev Sampler (m : Type → Type) := Nat → Nat → Nat → Nat → m Nat

/-- SpecFetch of R178; where a coordinate's scaled value overflows FP32 the rule states no A(s), which is then a free value
(DESIGN CHOICE, entry 28). -/
def Spectrum.fetch {m : Type → Type} [Monad m] (T : Spectrum) (S : Sampler m) (u v l lam : Nat) : m Nat :=
  let u := if fIsFinite u then u else 0
  let v := if fIsFinite v then v else 0
  let l := if fIsFinite l then l else 0
  let px := fFma u (fOfNat T.w) (fNeg fHalf)
  let py := fFma v (fOfNat T.h) (fNeg fHalf)
  if !(fIsFinite px && fIsFinite py) then T.at (fun s => pure (Config.texOverflow u v l s).toNat) lam
  else
    let x0 := fFloor px
    let y0 := fFloor py
    let fx := aboveFloor px
    let fy := aboveFloor py
    let top := fOfNat (T.l - 1)
    let pl := if fLt l 0 then 0 else if fGt l top then top else l
    let l0 := min (fFloor pl).toNat (T.l - 1)
    let fl := aboveFloor pl
    let l1 := min (l0 + 1) (T.l - 1)
    T.at (fun s => lerp3 (fun i j k =>
      S (texAddr T.wrap (if i then x0 + 1 else x0) T.w) (texAddr T.wrap (if j then y0 + 1 else y0) T.h)
        (if k then l1 else l0) s) fx fy fl) lam

/-- STEX (R180) on the lanes of wa and wb. -/
def stexLanes {m : Type → Type} [Monad m] (T : Spectrum) (S : Sampler m) (a b : List Nat) : m (List Nat) :=
  b.mapM fun lam => T.fetch S (a.getD 0 0) (a.getD 1 0) (a.getD 2 0) lam

/-- A channel of STEXUP on its axis: the lower node and the fraction (R181). -/
def gridNode (g c : Nat) : Nat × Nat :=
  let c := if fIsNaN c then 0 else if fLt c 0 then 0 else if fGt c fOne then fOne else c
  let p := fMul c (fOfNat (g - 1))
  let n := min (fFloor p).toNat (g - 2)
  (n, fSub p (fOfNat n))

/-- STEXUP (R181): the coefficient table's grid has `T.w` nodes on each axis. -/
def stexupLanes {m : Type → Type} [Monad m] (T : Spectrum) (S : Sampler m) (a b : List Nat) : m (List Nat) := do
  let r := gridNode T.w (a.getD 0 0)
  let g := gridNode T.w (a.getD 1 0)
  let bl := gridNode T.w (a.getD 2 0)
  let k (j : Nat) : m Nat := lerp3 (fun x y z => S (r.1 + x.toNat) (g.1 + y.toNat) (bl.1 + z.toNat) j)
    (Fmt.fp32.val r.2) (Fmt.fp32.val g.2) (Fmt.fp32.val bl.2)
  let k0 ← k 0
  let k1 ← k 1
  let k2 ← k 2
  pure (b.map fun lam =>
    let t := fDiv (fSub lam T.lambda0) T.dlambda
    sigmoid (fFma (fFma k0 t k1) t k2))

/-- SCMF (R182). -/
def scmfLanes {m : Type → Type} [Monad m] (T : Spectrum) (S : Sampler m) (a b : List Nat) : m (List Nat) := do
  let xyz ← (List.range 3).mapM fun j => do
    let ms ← b.mapM fun lam => T.fetch S fHalf fHalf (fOfNat j) lam
    pure (fSumProd (List.zip a ms))
  pure (xyz ++ [0])

/-! ### The traversal unit (R183 to R189) -/

/-- The reply of a walk. -/
inductive WalkResult where
  | hit (prim t b1 b2 : Nat)
  | miss
  | malformed
  deriving DecidableEq, Repr

/-- A ray: origin, direction, tmin and tmax (R189). -/
structure Ray where
  o : List Nat
  d : List Nat
  tmin : Nat
  tmax : Nat
  deriving DecidableEq, Repr

/-- Reads of the node buffer: a little-endian number of bytes from an offset, none beyond the buffer. -/
abbrev NodeReader (m : Type → Type) := Nat → Nat → m (Option Nat)

/-- The field of n bytes at an offset of a node or record read as one number. -/
def nodeField (node off n : Nat) : Nat := node / 2 ^ (8 * off) % 2 ^ (8 * n)

/-- A signed value of `n` bits. -/
def sgn (n v : Nat) : Int := if v ≥ 2 ^ (n - 1) then (v : Int) - 2 ^ n else v

/-- The rotation of a node (R185), by rows. -/
def nodeRot (qi q0 q1 q2 : Nat) : List (List Nat) :=
  let dec (k : Nat) := fMul (fOfInt (sgn 7 k)) 0x3C3504F3
  let a := dec q0
  let b := dec q1
  let c := dec q2
  let u := fSub fOne (fSumProd [(a, a), (b, b), (c, c)])
  let m := fSqrt (if fGt u 0 then u else 0)
  let comps := match qi with
    | 0 => [m, a, b, c]
    | 1 => [a, m, b, c]
    | 2 => [a, b, m, c]
    | _ => [a, b, c, m]
  let x := comps.getD 0 0
  let y := comps.getD 1 0
  let z := comps.getD 2 0
  let w := comps.getD 3 0
  -- each element is one rounding of an exact polynomial
  let tm (s : Bool) (a b : Nat) : FVal :=
    match (prodTerm .fp32 (Fmt.fp32.val a) (Fmt.fp32.val b)).1 with
    | .fin n k e => .fin (n != s) k (e + 1)
    | t => if s then t.neg else t
  let sum (ts : List FVal) := (Fmt.fp32.sumRound .rne ts).1
  let one : FVal := .fin false 1 0
  [[sum [one, tm true y y, tm true z z], sum [tm false x y, tm true z w], sum [tm false x z, tm false y w]],
   [sum [tm false x y, tm false z w], sum [one, tm true x x, tm true z z], sum [tm false y z, tm true x w]],
   [sum [tm false x z, tm true y w], sum [tm false y z, tm false x w], sum [one, tm true x x, tm true y y]]]

/-- The exact value (lo - o) / d rounded once (R186): lo is an unsigned count of `2 ^ ex`. -/
def slabDist (mode : RMode) (lo : Nat) (ex : Int) (o d : Nat) : Nat :=
  match Fmt.fp32.val o, Fmt.fp32.val d with
  | .fin n m e, .fin n2 m2 e2 =>
    let num := sumExact false lo ex (!n) m e
    if num.2.1 == 0 then 0
    else
      let k := 32 + m2.log2
      (Fmt.fp32.round mode (num.1 != n2) (num.2.1 * 2 ^ k / m2) (num.2.2 - e2 - k) (num.2.1 * 2 ^ k % m2 != 0)).1
  | _, _ => 0

/-- One axis of the box test: the near and far values, none when the child fails. -/
def slabAxis (o d lo hi : Nat) (ex : Int) : Option (Nat × Nat) :=
  if lo > hi then none
  else if fEq d 0 then
    match Fmt.fp32.val o with
    | .fin n m e =>
      let below := sumExact n m e true lo ex      -- o - lo
      let above := sumExact false hi ex (!n) m e  -- hi - o
      if (below.2.1 == 0 || !below.1) && (above.2.1 == 0 || !above.1) then some (0xFF800000, fInf) else none
    | _ => none
  else
    let a := slabDist .rdn lo ex o d
    let b := slabDist .rdn hi ex o d
    let a' := slabDist .rup lo ex o d
    let b' := slabDist .rup hi ex o d
    some (if fLe a b then a else b, if fGe a' b' then a' else b')

/-- The box test of a child (R186): its tnear when hit. -/
def boxHit (o d : List Nat) (slab : List Nat) (ex : List Int) (tmin tbest : Nat) : Option Nat :=
  let ax (i : Nat) := slabAxis (o.getD i 0) (d.getD i 0) (slab.getD (2 * i) 0) (slab.getD (2 * i + 1) 0) (ex.getD i 0)
  match ax 0, ax 1, ax 2 with
  | some x, some y, some z =>
    let mx (a b : Nat) := if fGe a b then a else b
    let mn (a b : Nat) := if fLe a b then a else b
    let near := mx (mx x.1 y.1) z.1
    let far := mn (mn x.2 y.2) z.2
    if fLe near far && fGe far tmin && fLe near tbest then some near else none
  | _, _, _ => none

/-- A two-term difference of products, one rounding. -/
def crossTerm (a b c d : Nat) : Nat :=
  let t1 := (prodTerm .fp32 (Fmt.fp32.val a) (Fmt.fp32.val b)).1
  let t2 := (prodTerm .fp32 (Fmt.fp32.val c) (Fmt.fp32.val d)).1
  (Fmt.fp32.sumRound .rne [t1, t2.neg]).1

def cross (a b : List Nat) : List Nat :=
  let g (l : List Nat) (i : Nat) := l.getD i 0
  [crossTerm (g a 1) (g b 2) (g a 2) (g b 1), crossTerm (g a 2) (g b 0) (g a 0) (g b 2),
   crossTerm (g a 0) (g b 1) (g a 1) (g b 0)]

/-- The triangle test (R187): t, b1 and b2 when hit. -/
def triHit (ray : Ray) (tbest : Nat) (p0 p1 p2 : List Nat) : Option (Nat × Nat × Nat) :=
  let sub (a b : List Nat) := List.zipWith fSub a b
  let e1 := sub p1 p0
  let e2 := sub p2 p0
  let s := sub ray.o p0
  let p := cross ray.d e2
  let q := cross s e1
  let det := fSumProd (List.zip e1 p)
  let b1 := fDiv (fSumProd (List.zip s p)) det
  let b2 := fDiv (fSumProd (List.zip ray.d q)) det
  let t := fDiv (fSumProd (List.zip e2 q)) det
  let sumOk := match Fmt.fp32.val b1, Fmt.fp32.val b2 with
    | .fin n1 m1 x1, .fin n2 m2 x2 =>
      let r := sumExact n1 m1 x1 n2 m2 x2
      let v := sumExact r.1 r.2.1 r.2.2 true 1 0
      v.2.1 == 0 || v.1
    | _, _ => false
  if !fEq det 0 && fGe b1 0 && fGe b2 0 && sumOk && fLe ray.tmin t && fLe t tbest then some (t, b1, b2) else none

/-- What a walk has still to visit: a node or leaf, its tnear and its depth. -/
structure Pending where
  leaf : Bool
  ptr : Nat
  near : Nat
  depth : Nat
  deriving DecidableEq, Repr

/-- The state of a walk: the best t and hit so far. -/
structure Best where
  t : Nat
  hit : Option (Nat × Nat × Nat × Nat)
  deriving DecidableEq, Repr

/-- The records of a leaf in order; none when malformed (R188). The flag says that TRACEA found its hit. -/
def walkLeaf {m : Type → Type} [Monad m] (rd : NodeReader m) (ray : Ray) (any : Bool) :
    Nat → Nat → Best → m (Option (Best × Bool))
  | 0, _, b => pure (some (b, false))
  | n + 1, off, b => do
    match ← rd off 48 with
    | none => pure none
    | some x =>
      if nodeField x 0x24 4 != 0 then pure none
      else
        let c (o : Nat) := [nodeField x o 4, nodeField x (o + 4) 4, nodeField x (o + 8) 4]
        match triHit ray b.t (c 0) (c 12) (c 24) with
        | some (t, b1, b2) =>
          if any then pure (some (⟨t, some (nodeField x 0x28 8, t, b1, b2)⟩, true))
          else if fLt t b.t then walkLeaf rd ray any n (off + 48) ⟨t, some (nodeField x 0x28 8, t, b1, b2)⟩
          else walkLeaf rd ray any n (off + 48) b
        | none => walkLeaf rd ray any n (off + 48) b

/-- Insert a child by increasing tnear, after those of equal tnear (lower child index first). -/
def insertNear (p : Pending) : List Pending → List Pending
  | [] => [p]
  | q :: rest => if fLt p.near q.near then p :: q :: rest else q :: insertNear p rest

/-- The hit children of a node, nearest first; none when the node is malformed (R183, R186, R188). -/
def nodeChildren (node : Nat) (ray : Ray) (tbest depth : Nat) : Option (List Pending) :=
  let w0 := nodeField node 0 4
  let leaf := w0 / 2 ^ 24
  let valid := nodeField node 0x13 1
  let ex := (List.range 3).map fun i => sgn 8 (nodeField node (0x10 + i) 1)
  let reserved := (List.range 7).any fun i => nodeField node (0x64 + 4 * i) 4 != 0
  if w0 % 2 == 1 || reserved || leaf &&& (255 - valid) != 0 || ex.any (fun e => e < -120 || e > 119) then none
  else
    let rot := nodeRot (w0 / 2 ^ 22 % 4) (w0 / 2 ^ 15 % 128) (w0 / 2 ^ 8 % 128) (w0 / 2 % 128)
    let el (i j : Nat) := (rot.getD i []).getD j 0
    let t := (List.range 3).map fun j => fSub (ray.o.getD j 0) (nodeField node (4 + 4 * j) 4)
    let o := (List.range 3).map fun i => fSumProd ((List.range 3).map fun j => (el j i, t.getD j 0))
    let d := (List.range 3).map fun i => fSumProd ((List.range 3).map fun j => (el j i, ray.d.getD j 0))
    if !((o ++ d).all fIsFinite) then some []
    else
      some ((List.range 8).foldl (fun acc i =>
        if valid / 2 ^ i % 2 == 0 then acc
        else
          let slab := (List.range 6).map fun k => nodeField node (0x14 + 6 * i + k) 1
          match boxHit o d slab ex ray.tmin tbest with
          | none => acc
          | some near => insertNear ⟨leaf / 2 ^ i % 2 == 1, nodeField node (0x44 + 4 * i) 4, near, depth + 1⟩ acc) [])

/-- The walk of R188 over what is still to visit, by fuel; `visits` counts node visits. -/
def walk {m : Type → Type} [Monad m] (rd : NodeReader m) (ray : Ray) (any : Bool) : Nat → Nat → List Pending → Best → m WalkResult
  | 0, _, _, _ => pure .malformed
  | _, _, [], b => pure (match b.hit with
    | some (prim, t, b1, b2) => .hit prim t b1 b2
    | none => .miss)
  | fuel + 1, visits, p :: rest, b =>
    if !fLe p.near b.t then walk rd ray any fuel visits rest b
    else if p.leaf then
      let off := p.ptr % 2 ^ 29
      if off % 16 != 0 then pure .malformed
      else do
        match ← walkLeaf rd ray any (p.ptr / 2 ^ 29 + 1) off b with
        | none => pure .malformed
        | some (b', true) => pure (match b'.hit with
            | some (prim, t, b1, b2) => .hit prim t b1 b2
            | none => .miss)
        | some (b', false) => walk rd ray any fuel visits rest b'
    else if p.ptr / 2 ^ 29 != 0 || p.ptr % 128 != 0 || p.depth > 64 || visits ≥ 2 ^ 20 then pure .malformed
    else do
      match ← rd p.ptr 128 with
      | none => pure .malformed
      | some node =>
        match nodeChildren node ray b.t p.depth with
        | none => pure .malformed
        | some ch => walk rd ray any fuel (visits + 1) (ch ++ rest) b

/-- TRACE and TRACEA (R188, R189): rays that miss without a walk, then the walk from the root. -/
def traceRay {m : Type → Type} [Monad m] (rd : NodeReader m) (any : Bool) (ray : Ray) : m WalkResult :=
  let lanes := ray.o ++ ray.d ++ [ray.tmin, ray.tmax]
  if lanes.any fIsNaN || !((ray.o ++ ray.d).all fIsFinite) || ray.d.all (fun x => fEq x 0) || fGt ray.tmin ray.tmax then
    pure .miss
  else walk rd ray any (2 ^ 24) 0 [⟨false, 0, 0xFF800000, 1⟩] ⟨ray.tmax, none⟩

/-- The six registers of a reply (R189). -/
def WalkResult.words (r : WalkResult) (inst : Nat) : List Nat :=
  match r with
  | .hit prim t b1 b2 => [prim % 2 ^ 32, prim / 2 ^ 32, t, b1, b2, inst]
  | .miss => [0xFFFFFFFF, 0xFFFFFFFF, fInf, 0, 0, 0xFFFFFFFF]
  | .malformed => [0xFFFFFFFF, 0xFFFFFFFF, fNaN, 0, 0, 0xFFFFFFFF]

/-! ### Rasteriser and film (R204 to R210) -/

/-- A finite FP32 as a count of `2 ^ -k`, for k no less than its exponent allows. -/
def fixed (k : Nat) (a : Nat) : Int :=
  match Fmt.fp32.val a with
  | .fin n m e => let v : Int := m * 2 ^ (e + k).toNat; if n then -v else v
  | _ => 0

/-- E of R205. -/
def edgeFn (a b p : Int × Int) : Int := (b.1 - a.1) * (p.2 - a.2) - (b.2 - a.2) * (p.1 - a.1)

/-- Owns of R205. -/
def edgeOwns (a b : Int × Int) : Bool := decide (b.2 < a.2) || (decide (b.2 = a.2) && decide (b.1 > a.1))

/-- A rational rounded RNE to FP32. -/
def fOfRatio (num : Int) (den : Nat) (k : Nat) : Nat :=
  -- num / den * 2^-k
  if num == 0 then 0
  else
    let sh := 40 + den.log2
    (Fmt.fp32.round .rne (decide (num < 0)) (num.natAbs * 2 ^ sh / den) (-(sh : Int) - k) (num.natAbs * 2 ^ sh % den != 0)).1

/-- The depth of a record at a sample position in eighths of a pixel, when the record covers it and 0 ≤ z ≤ 1 (R205). -/
def rastSample (p0 p1 p2 : List Nat) (px py : Nat) : Option Nat :=
  let all := p0 ++ p1 ++ p2
  if !(all.all fIsFinite) then none
  else
    let k : Nat := 152
    let c (p : List Nat) : Int × Int := (fixed k (p.getD 0 0), fixed k (p.getD 1 0))
    let pos : Int × Int := ((px * 2 ^ (k - 3) : Nat), (py * 2 ^ (k - 3) : Nat))
    let flip := decide (edgeFn (c p0) (c p1) (c p2) < 0)
    let q1 := if flip then p2 else p1
    let q2 := if flip then p1 else p2
    let area := edgeFn (c p0) (c q1) (c q2)
    let cov (a b : Int × Int) := decide (edgeFn a b pos > 0) || (edgeFn a b pos == 0 && edgeOwns a b)
    if area == 0 || !(cov (c p0) (c q1) && cov (c q1) (c q2) && cov (c q2) (c p0)) then none
    else
      let z0 := fixed k (p0.getD 2 0)
      let z1 := fixed k (q1.getD 2 0)
      let z2 := fixed k (q2.getD 2 0)
      let num := z0 * area + edgeFn (c q2) (c p0) pos * (z1 - z0) + edgeFn (c p0) (c q1) pos * (z2 - z0)
      let z := fOfRatio num area.toNat k
      if fGe z 0 && fLe z fOne then some z else none

/-- Sample offsets in eighths of a pixel (R204). -/
def sampleOffset (s i : Nat) : Nat × Nat :=
  match s, i with
  | 1, _ => (4, 4)
  | 2, 0 => (2, 2)
  | 2, _ => (6, 6)
  | _, 0 => (3, 1)
  | _, 1 => (7, 3)
  | _, 2 => (1, 5)
  | _, _ => (5, 7)

/-- TwoSum of R208: the rounded sum and its exact error. -/
def twoSum (a b : Nat) : Nat × Nat :=
  let s := fAdd a b
  if !fIsFinite s then (s, 0)
  else
    match Fmt.fp32.val a, Fmt.fp32.val b, Fmt.fp32.val s with
    | .fin n1 m1 e1, .fin n2 m2 e2, .fin n3 m3 e3 =>
      let x := sumExact n1 m1 e1 n2 m2 e2
      let d := sumExact x.1 x.2.1 x.2.2 (!n3) m3 e3
      (s, if d.2.1 == 0 then 0 else (Fmt.fp32.round .rne d.1 d.2.1 d.2.2).1)
    | _, _, _ => (s, 0)

/-- FilmAdd of R208 on a channel's sum and comp. -/
def filmAdd (sum comp x : Nat) : Nat × Nat :=
  let r := twoSum sum x
  (r.1, fAdd comp r.2)

/-- The bin of a wavelength (R210), none when the lane is dropped. -/
def filmBin (lambda0 dlambda bins lam : Nat) : Option Nat :=
  if fIsNaN lam then none
  else
    let f := fDiv (fSub lam lambda0) dlambda
    if fIsNaN f || fLt f 0 || fGe f (fOfNat bins) then none else some (fFloor f).toNat

/-- DepthUpdate of R205: whether the fragment replaces the stored pair. -/
def depthWins (z p z' p' : Nat) : Bool := fIsNaN z' || fLt z z' || (fEq z z' && decide (p < p'))

/-! ### Sampling, Stokes forms and conversions (R169 to R173) -/

/-- SWLS (R170). -/
def swlsLanes (mode : RMode) (u lmin lmax : Nat) : List Nat × Conds :=
  let F := Fmt.fp32
  let dl := F.sub mode lmax lmin
  if !fIsFinite u then ([F.nan, F.nan, F.nan, F.nan], dl.2.union Conds.invalid)
  else
    let lane (i : Nat) : Nat × Conds :=
      let s := F.fma mode (fOfNat i) (fQuarters 1) u
      if !fIsFinite s.1 then (F.nan, s.2.union Conds.invalid)
      else
        -- the fraction of s, exact, as a term
        let f : FVal := match F.val s.1 with
          | .fin n m e =>
            let fl := fFloor s.1
            let d := sumExact n m e (decide (fl > 0)) fl.natAbs 0
            .fin false d.2.1 d.2.2
          | v => v
        let t := prodTerm F (F.val dl.1) f
        let r0 := F.sumRound mode [t.1, F.val lmin]
        let r := (r0.1, r0.2.union t.2)
        (r.1, s.2.union r.2)
    let ls := (List.range 4).map lane
    (ls.map (·.1), ls.foldl (fun c l => c.union l.2) dl.2)

/-- SPOL (R171): rows of the matrix by lanes, a Stokes state by registers. -/
def spolRegs (mode : RMode) (stokes mueller : List (List Nat)) : List (List Nat) × Conds :=
  let el (m : List (List Nat)) (r i : Nat) := (m.getD r []).getD i 0
  let out := (List.range 4).map fun r => (List.range 4).map fun i =>
    sumProd mode ((List.range 4).map fun c => (el mueller r c, el stokes c i))
  (out.map fun r => r.map (·.1), out.foldl (fun c r => r.foldl (fun c' x => c'.union x.2) c) {})

/-- SMDIEL (R173). -/
def smdielRegs (mode : RMode) (st co : List (List Nat)) : List (List Nat) × Conds :=
  let el (m : List (List Nat)) (r i : Nat) := (m.getD r []).getD i 0
  let lane (r i : Nat) : Nat × Conds :=
    match r with
    | 0 => sumProd mode [(el co 0 i, el st 0 i), (el co 1 i, el st 1 i)]
    | 1 => sumProd mode [(el co 1 i, el st 0 i), (el co 0 i, el st 1 i)]
    | 2 => sumProd mode [(el co 2 i, el st 2 i), (el co 3 i, el st 3 i)]
    | _ =>
      let t := prodTerm .fp32 (Fmt.fp32.val (el co 3 i)) (Fmt.fp32.val (el st 2 i))
      let t2 := prodTerm .fp32 (Fmt.fp32.val (el co 2 i)) (Fmt.fp32.val (el st 3 i))
      let r := Fmt.fp32.sumRound mode [t.1.neg, t2.1]
      (r.1, (r.2.union t.2).union t2.2)
  let out := (List.range 4).map fun r => (List.range 4).map fun i => lane r i
  (out.map fun r => r.map (·.1), out.foldl (fun c r => r.foldl (fun c' x => c'.union x.2) c) {})

end Sys2Proof.Machine
end

