-- ==== Sys2Proof/Machine/MatMath.lean ====
section
/-! DEFINITION. The arithmetic of the matrix path and of the Caster (spec/12_numbers.md R224 to R232,
spec/13_isa_caster_anvil.md R241, R252): output rounding, block terms, accumulation, and the canonical tile layout. -/
namespace Sys2Proof.Machine

/-- The reading of an accumulator element (R227). -/
inductive ElemClass where
  | f32 | f64 | int
  deriving DecidableEq, Repr

/-- The class of an operand format. -/
def ConvFmt.cls : ConvFmt → ElemClass
  | .flt f => if f.width == 64 then .f64 else .f32
  | .int .. => .int

/-- OutRound of R225 on an exact value whose NaN bits are in format `src`. -/
def outRound (src : Fmt) (v : FVal) (dst : ConvFmt) : Nat :=
  match dst, v with
  | .flt g, .nan _ b => src.nanTo g b
  | .flt g, .inf n => if g.width ≥ 32 then g.infinity n else g.signed n g.maxBits
  | .flt g, .fin n m e =>
    let r := g.round .rne n m e
    if r.2.of && g.width < 32 then g.signed n g.maxBits else r.1
  | .int .., .nan .. => 0
  | .int w sg, .inf n => intBits w n (intLimit w sg n)
  | .int w sg, .fin n m e =>
    if (m.log2 : Int) + e > 70 then intBits w n (intLimit w sg n)
    else intBits w n (min (roundInt .rne n m e).1 (intLimit w sg n))

/-- The exact sum of two values; a NaN operand or opposite infinities give a NaN. -/
def FVal.plus (F : Fmt) (a b : FVal) : FVal :=
  match a, b with
  | .nan s x, _ => .nan s x
  | _, .nan s y => .nan s y
  | .inf n, .inf n' => if n == n' then .inf n else .nan false F.nan
  | .inf n, _ => .inf n
  | _, .inf n => .inf n
  | .fin n1 m1 e1, .fin n2 m2 e2 =>
    let r := sumExact n1 m1 e1 n2 m2 e2
    if r.2.1 == 0 then .fin (n1 && n2) 0 0 else .fin r.1 r.2.1 r.2.2

/-- The value of an accumulator element under a class (R232), with the format of its NaN bits. -/
def elemValue (c : ElemClass) (elem : Nat) : Fmt × FVal :=
  match c with
  | .f32 => (.fp32, FVal.plus .fp32 (Fmt.fp32.val (elem % 2 ^ 32)) (Fmt.fp32.val (elem / 2 ^ 32 % 2 ^ 32)))
  | .f64 => (.fp64, Fmt.fp64.val (elem % 2 ^ 64))
  | .int => (.fp64, (ConvFmt.int 64 true).read elem)

/-- ACCST of one element to a format (R232). -/
def storeElem (c : ElemClass) (elem : Nat) (dst : ConvFmt) : Nat :=
  let v := elemValue c elem
  outRound v.1 v.2 dst

/-- A value of a format with its NaN bits widened to FP64, which loses nothing that a narrower format keeps. -/
def widenVal (c : ConvFmt) (bits : Nat) : FVal :=
  match c, c.read bits with
  | .flt f, .nan s b => .nan s (f.nanTo .fp64 b)
  | _, v => v

/-- ACCST.ADD of one element (R232): the destination plus the element, exact, rounded once. -/
def addOutElem (c : ElemClass) (elem : Nat) (dst : ConvFmt) (old : Nat) : Nat :=
  let v := elemValue c elem
  let w := match v.2 with
    | .nan s b => FVal.nan s (v.1.nanTo .fp64 b)
    | x => x
  outRound .fp64 (FVal.plus .fp64 (widenVal dst old) w) dst

/-- A copied element (R248): its bits when the formats agree, else OutRound of its value. -/
def copyElem (src dst : ConvFmt) (bits : Nat) : Nat :=
  if src == dst then bits % 2 ^ src.width
  else
    match src with
    | .flt f => outRound f (src.read bits) dst
    | .int .. => outRound .fp64 (src.read bits) dst

/-- Prod of R228: a NaN operand quieted and widened, zero times infinity the default NaN, else the exact product. -/
def matProd (F : Fmt) (fa fb : ConvFmt) (a b : Nat) : FVal :=
  let widen (c : ConvFmt) (bits : Nat) : FVal :=
    match c, c.read bits with
    | .flt f, .nan _ x => .nan false (f.nanTo F x)
    | _, v => v
  match (prodTerm F (widen fa a) (widen fb b)).1 with
  | .nan _ x => .nan false x
  | v => v

/-- The exact integer product. -/
def intProd (fa fb : ConvFmt) (a b : Nat) : Int :=
  let v (c : ConvFmt) (x : Nat) : Int := match c.read x with
    | .fin n m _ => if n then -(m : Int) else m
    | _ => 0
  v fa a * v fb b

/-- A signalling NaN handled as a quiet one (R224). -/
def fQuiet (a : Nat) : Nat := if fIsNaN a then Fmt.fp32.quiet a else a

/-- The scale step of R228: the two scales are multiplied first, a signalling NaN handled as a quiet one (R224). -/
def scaleTerm (scale : Option (Nat × Nat)) (x : Nat) : Nat :=
  match scale with
  | none => x
  | some (sa, sw) => fMul x (fMul (fQuiet sa) (fQuiet sw))

/-- BlockTerm of R228 and BlockTerm1 of R230 for FP32-class operands. -/
def blockTerm (nbv1 : Bool) (fa fb : ConvFmt) (as bs : List Nat) (scale : Option (Nat × Nat)) : Nat :=
  let ps := List.zipWith (matProd .fp32 fa fb) as bs
  let x :=
    if nbv1 then
      let q (j : Nat) := (Fmt.fp32.sumRound .rne ((ps.drop (32 * j)).take 32)).1
      fAdd (fAdd (fAdd (q 0) (q 1)) (q 2)) (q 3)
    else (Fmt.fp32.sumRound .rne ps).1
  scaleTerm scale x

/-- Accumulate of R228 and Accumulate1 of R230. -/
def accumulate (nbv1 : Bool) (elem x : Nat) : Nat :=
  let h := elem % 2 ^ 32
  let t := elem / 2 ^ 32 % 2 ^ 32
  if nbv1 then fAdd h x
  else
    let r := twoSum h x
    r.1 + fAdd t r.2 * 2 ^ 32

/-- One block's addition into an element, by the operands' class (R228 to R230). -/
def addBlock (nbv1 : Bool) (fa fb : ConvFmt) (as bs : List Nat) (scale : Option (Nat × Nat)) (elem : Nat) : Nat :=
  match fa.cls with
  | .f32 => accumulate nbv1 elem (blockTerm nbv1 fa fb as bs scale)
  | .f64 => (Fmt.fp64.add .rne elem (Fmt.fp64.sumRound .rne (List.zipWith (matProd .fp64 fa fb) as bs)).1).1
  | .int =>
    let s := (List.zipWith (intProd fa fb) as bs).foldl (· + ·) 0
    (((elem : Int) + s) % 2 ^ 64).toNat

/-- The pairing of operand formats (R226): of integers, the widths that are operand formats (R222). -/
def fmtPair (a b : ConvFmt) : Bool :=
  match a, b with
  | .flt f, .flt g => f == g || (f.width == 8 && g.width == 8)
  | .int w _, .int w' _ => w == w' && decide (w ≤ 16)
  | _, _ => false

/-- The bit offset of an element in a canonical tile of elements of `bits` bits (R241). -/
def canonBit (bits r c : Nat) : Nat :=
  let s := bits / 8
  let line := if s ≥ 1 then r * s + c * s / 128 else r / 2
  let b := if s ≥ 1 then c * s % 128 else r % 2 * 64 + c / 2
  let chunk := (b / 16) ^^^ (line % 8)
  (line * 128 + chunk * 16 + b % 16) * 8 + (if s ≥ 1 then 0 else c % 2 * 4)

/-- The bit offset of element (r, c) of a TILE object from its BASE (R242). -/
def tileBit (bits cols r c : Nat) : Nat :=
  ((r / 128 * ((cols + 127) / 128) + c / 128) * 16384 * bits) + canonBit bits (r % 128) (c % 128)

/-- Index j of a CB3 stream, from its bytes read as one number (R252). -/
def cb3Index (stream : Nat) (j : Nat) : Nat := stream / 2 ^ (3 * j) % 8

end Sys2Proof.Machine
end

