-- ==== Sys2Proof/Machine/Descr.lean ====
section
/-! DEFINITION. Descriptors: the entries of the object table as sixteen words, what their fields mean, and where an object's elements
lie (spec/13_isa_caster_anvil.md R235 to R243). -/
namespace Sys2Proof.Machine

/-- An object as an instruction checked it: its index and its entry as sixteen words (R239). -/
abbrev Obj := Nat × List Word

/-- The number that words hold, the first least significant (R3). -/
def wordsNum : List Word → Nat
  | [] => 0
  | w :: ws => w.toNat + 2 ^ 32 * wordsNum ws

/-- The n words of a number, the least significant first (R3). -/
def numWords (v : Nat) : Nat → List Word
  | 0 => []
  | n + 1 => BitVec.ofNat 32 v :: numWords (v / 2 ^ 32) n

/-- The 32-bit halves of 64-bit words, the lower first. -/
def halves : List (BitVec 64) → List Word
  | [] => []
  | w :: ws => w.setWidth 32 :: (w >>> 32).setWidth 32 :: halves ws

/-- The field of n bytes at an offset of an entry (R235). -/
def Obj.field (o : Obj) (off n : Nat) : Nat := wordsNum o.2 / 2 ^ (8 * off) % 2 ^ (8 * n)

/-- The kinds of object (R236). -/
inductive ObjKind where
  | buffer | tensor | tile | ringq | barrier | dieset | hier | spectral | film | primb | visbuf | witness | scale
  deriving DecidableEq, Repr

/-- The kind of a code (R236). -/
def ObjKind.ofCode (n : Nat) : Option ObjKind :=
  ([.buffer, .tensor, .tile, .ringq, .barrier, .dieset, .hier, .spectral, .film, .primb, .visbuf, .witness, .scale] :
    List ObjKind)[n - 1]? |>.filter fun _ => decide (n ≠ 0)

/-- The offsets and sizes of the fields of a kind's area (R236). -/
def ObjKind.area : ObjKind → List (Nat × Nat)
  | .buffer | .dieset => [(0x10, 8)]
  | .tensor => [(0x0E, 18), (0x20, 32)]
  | .tile | .scale => [(0x0E, 2), (0x10, 2)]
  | .ringq => [(0x10, 4), (0x14, 2)]
  | .barrier => []
  | .hier => [(0x0E, 2), (0x10, 4)]
  | .spectral => [(0x0E, 10), (0x18, 9)]
  | .film => [(0x0E, 6), (0x14, 8)]
  | .primb => [(0x0E, 2), (0x10, 6)]
  | .visbuf => [(0x0E, 5), (0x14, 2)]
  | .witness => [(0x0E, 7), (0x18, 8)]

def Obj.kind? (o : Obj) : Option ObjKind := ObjKind.ofCode (o.field 0 1)
def Obj.ndim (o : Obj) : Nat := o.field 1 1 / 16
def Obj.fmt (o : Obj) : ConvFmt := ConvFmt.ofCode (o.field 1 1 % 16)
def Obj.fmtCode (o : Obj) : Nat := o.field 1 1 % 16
def Obj.rights (o : Obj) : Nat := o.field 2 1 % 64
def Obj.scope (o : Obj) : Nat := o.field 3 1 % 8
def Obj.gen (o : Obj) : Nat := o.field 4 4
/-- BASE: a virtual address, or an offset within the cell's slice allocation (R235, R237). -/
def Obj.base (o : Obj) : Nat := o.field 8 6 * 16
def Obj.isKind (o : Obj) (k : ObjKind) : Bool := o.kind? == some k
/-- A count field, held as the count minus 1 (R236). -/
def Obj.countField (o : Obj) (off : Nat) : Nat := o.field off 2 + 1

/-- Whether the bytes of the kind area that no field covers are zero (R235, R236). -/
def Obj.reservedZero (o : Obj) (k : ObjKind) : Bool :=
  (List.range 50).all fun i =>
    let off := 0x0E + i
    (k.area.any fun a => decide (a.1 ≤ off ∧ off < a.1 + a.2)) || o.field off 1 == 0

/-- Whether an entry holds an object (R235, R278, R297). -/
def Obj.holds (o : Obj) : Bool :=
  match o.kind? with
  | none => false
  | some k =>
    (o.scope == 1 || o.scope == 3) && o.field 2 1 < 64 && o.field 3 1 < 8 &&
    (if k = .tensor then decide (o.ndim ≤ 8) else o.ndim == 0) && o.reservedZero k &&
    (match k with
      | .spectral => decide (o.field 0x20 1 < 4)
      | .ringq => decide (2 ≤ o.field 0x10 4 ∧ o.field 0x10 4 ≤ 65536 ∧ 2 ^ (o.field 0x10 4).log2 = o.field 0x10 4 ∧
          4 ≤ o.field 0x14 2 ∧ o.field 0x14 2 ≤ 256 ∧ o.field 0x14 2 % 4 = 0)
      | .witness => decide (o.field 0x14 1 ≤ 3 ∧ o.countField 0x10 ≤ 128 ∧ o.countField 0x12 ≤ 128)
      | _ => true)

/-! ## The elements of an object (R222, R241 to R243) -/

/-- The bits of an element. -/
def Obj.bits (o : Obj) : Nat := o.fmt.width

/-- Rows and columns of a TILE (R236). -/
def Obj.rows (o : Obj) : Nat := o.countField 0x0E
def Obj.cols (o : Obj) : Nat := o.countField 0x10

/-- The extents of a TENSOR, dimension 0 first (R236). -/
def Obj.extents (o : Obj) : List Nat := (List.range (o.ndim + 1)).map fun i => o.countField (0x0E + 2 * i)

/-- The strides of a TENSOR in bits, that of dimension 0 the element size (R243). -/
def Obj.strides (o : Obj) : List Nat :=
  o.bits :: (List.range o.ndim).map fun i => 8 * o.field (0x20 + 4 * i) 4

/-- How many elements an object enumerates; none where a BUFFER's length is no multiple of the size (R243). -/
def Obj.count? (o : Obj) : Option Nat :=
  match o.kind? with
  | some .buffer => if o.field 0x10 8 * 8 % o.bits = 0 then some (o.field 0x10 8 * 8 / o.bits) else none
  | some .tensor => some (o.extents.foldl (· * ·) 1)
  | some .tile => some (o.rows * o.cols)
  | some .scale => some (o.rows * o.cols)
  | _ => none

/-- The bit offset of a multi-index, by strides. -/
def strideBit : List Nat → List Nat → List Nat → Nat
  | i :: is, _ :: es, st :: sts => i * st + strideBit is es sts
  | _, _, _ => 0

/-- The indices of the n-th element, the first varying fastest (R243). -/
def unravel : List Nat → Nat → List Nat
  | [], _ => []
  | e :: es, n => n % e :: unravel es (n / e)

/-- The bit offset from BASE of element n of an object's enumeration (R243); transposed, dimensions 0 and 1 are exchanged and a
TILE goes by columns (R248). -/
def Obj.elemBit (o : Obj) (transposed : Bool) (n : Nat) : Nat :=
  match o.kind? with
  | some .tensor =>
    match transposed, o.extents, o.strides with
    | true, e0 :: e1 :: es, s0 :: s1 :: ss => strideBit (unravel (e1 :: e0 :: es) n) (e1 :: e0 :: es) (s1 :: s0 :: ss)
    | _, es, ss => strideBit (unravel es n) es ss
  | some .tile =>
    if transposed then tileBit o.bits o.cols (n % o.rows) (n / o.rows) else tileBit o.bits o.cols (n / o.cols) (n % o.cols)
  | _ => n * o.bits

/-- The number of a multi-index in an enumeration whose first index varies fastest (R243). -/
def ravel : List Nat → List Nat → Nat
  | i :: is, e :: es => i + e * ravel is es
  | _, _ => 0

/-- The position in the object's own enumeration of the n-th element that a transposing copy takes (R248, R266). -/
def Obj.position (o : Obj) (transposed : Bool) (n : Nat) : Nat :=
  match o.kind?, transposed, o.extents with
  | some .tensor, true, e0 :: e1 :: es =>
    match unravel (e1 :: e0 :: es) n with
    | i1 :: i0 :: is => ravel (i0 :: i1 :: is) (e0 :: e1 :: es)
    | _ => n
  | some .tile, true, _ => n % o.rows * o.cols + n / o.rows
  | _, _, _ => n

/-- The bytes from BASE to the end of the last element that an object enumerates (R238). -/
def Obj.span (o : Obj) : Nat :=
  match o.kind? with
  | some .buffer => o.field 0x10 8
  | some .tensor => (strideBit (o.extents.map (· - 1)) o.extents o.strides + o.bits + 7) / 8
  | some .tile =>
    let r0 := (o.rows - 1) / 128 * 128
    let c0 := (o.cols - 1) / 128 * 128
    if o.rows % 128 = 0 ∧ o.cols % 128 = 0 then (o.rows * o.cols * o.bits + 7) / 8
    else
      (List.range (o.rows - r0)).foldl (fun m r => max m ((List.range (o.cols - c0)).foldl (fun m c =>
        max m ((tileBit o.bits o.cols (r0 + r) (c0 + c) + o.bits + 7) / 8)) 0)) 0
  | some .scale => 4 * o.rows * o.cols
  | _ => 0

def Obj.filmWidth (o : Obj) : Nat := o.field 0x0E 2
def Obj.filmHeight (o : Obj) : Nat := o.field 0x10 2
def Obj.filmBins (o : Obj) : Nat := o.field 0x12 2
def Obj.filmPixels (o : Obj) : Nat := o.filmWidth * o.filmHeight
def Obj.primCount (o : Obj) : Nat := o.field 0x10 4
def Obj.visWidth (o : Obj) : Nat := o.field 0x0E 2
def Obj.visHeight (o : Obj) : Nat := o.field 0x10 2
def Obj.visSamples (o : Obj) : Nat := o.field 0x12 1
/-- The samples of a visibility buffer. -/
def Obj.visCount (o : Obj) : Nat := o.visWidth * o.visHeight * o.visSamples

def Obj.witRows (o : Obj) : Nat := o.countField 0x10
def Obj.witCols (o : Obj) : Nat := o.countField 0x12
/-- FORM: 0 W8, 1 W16, 2 CLAMP, 3 SAT. -/
def Obj.witForm (o : Obj) : Nat := o.field 0x14 1
/-- The bits of a witness element (R223). -/
def Obj.witBits (o : Obj) : Nat := [8, 16, 2, 1].getD o.witForm 8
/-- The bytes of a witness. -/
def Obj.witBytes (o : Obj) : Nat := (o.witRows * o.witCols * o.witBits + 7) / 8

/-- The bytes from BASE that an object takes up, so far as its entry says (R235, R236). -/
def Obj.extent (o : Obj) : Nat :=
  match o.kind? with
  | some .barrier => 16
  | some .film => o.filmPixels * o.filmBins * 8
  | some .witness => o.witBytes
  | _ => o.span

/-- Whether an access of `size` bytes meets an object of its thread: a CELL object by where it lies in the slice of the cell, another by
its virtual address (R235, R237). -/
def Obj.meets (o : Obj) (slice va pa size : Nat) : Bool :=
  let start := if o.scope = 1 then slice + o.base else o.base
  let a := if o.scope = 1 then pa else va
  decide (a < start + o.extent ∧ start < a + size)

end Sys2Proof.Machine
end

