-- ==== Sys2Proof/Syntax.lean ====
section
/-! DEFINITION. The instructions of the Colnor-2 part: one constructor of `Instr` per row of the opcode table.
The encoded rows carry the fields of their word under the field names of the table (spec/04_encoding.md R62 to R81),
with the words bound before the base (R69, R72); the rows without a word are the part's events, whose
operands say which thread, entry, queue or register the event is about. -/
namespace Sys2Proof

/-- The fields of a prefix word (R69), its C bit and reserved bits being zero. -/
structure Pfx where
  k : BitVec 4
  inv : Bool
  rm : BitVec 3
  c : BitVec 7
  mz : Bool
  et : BitVec 3
  deriving DecidableEq, Repr

/-- The fields of a live word (R72): the live set of REFORM.X. -/
structure LiveSet where
  vbase : BitVec 7
  vcount : BitVec 5
  wbase : BitVec 5
  wcount : BitVec 4
  deriving DecidableEq, Repr

/-- The words bound before a base word: at most a prefix, an object word and a live word (R71, R72). -/
structure Bound where
  pfx : Option Pfx := none
  obj : Option (BitVec 16) := none
  live : Option LiveSet := none
  deriving DecidableEq, Repr

/-- Fields of NOP, EXIT, YIELD, RTE, SYNC_DIE, RET, RETSH. -/
structure BareForm where
  c : Bool
  deriving DecidableEq, Repr

/-- Fields of RTE_PC, TFILL. -/
structure RegAForm where
  c : Bool
  a : BitVec 7
  deriving DecidableEq, Repr

/-- Fields of RQCOUNT. -/
structure RegDForm where
  c : Bool
  d : BitVec 7
  deriving DecidableEq, Repr

/-- Fields of RQREAD. -/
structure RqReadForm where
  c : Bool
  f : BitVec 4
  e : BitVec 4
  d : BitVec 7
  deriving DecidableEq, Repr

/-- Fields of RQWRITE. -/
structure RqWriteForm where
  c : Bool
  f : BitVec 4
  e : BitVec 4
  a : BitVec 7
  deriving DecidableEq, Repr

/-- Fields of RQDROP. -/
structure RqDropForm where
  c : Bool
  e : BitVec 4
  deriving DecidableEq, Repr

/-- Fields of DIELD, DIEBANK. -/
structure BankForm where
  c : Bool
  k : BitVec 1
  deriving DecidableEq, Repr

/-- Fields of LAUNCH. -/
structure LaunchWForm where
  c : Bool
  d : BitVec 7
  a : BitVec 7
  deriving DecidableEq, Repr

/-- Fields of TRAP, BKPT. -/
structure CodeForm where
  c : Bool
  n : BitVec 16
  deriving DecidableEq, Repr

/-- Fields of TLBINV. -/
structure TlbinvForm where
  c : Bool
  m : BitVec 2
  p : BitVec 7
  deriving DecidableEq, Repr

/-- Fields of OTINV. -/
structure OtinvForm where
  c : Bool
  l : BitVec 1
  o : BitVec 7
  deriving DecidableEq, Repr

/-- Fields of CTXSAVE, CTXLOAD. -/
structure CtxRegForm where
  c : Bool
  p : BitVec 7
  deriving DecidableEq, Repr

/-- Fields of BR. -/
structure BrForm where
  c : Bool
  k : BitVec 4
  n : BitVec 1
  o : BitVec 14
  deriving DecidableEq, Repr

/-- Fields of CALL. -/
structure CallForm where
  c : Bool
  o : BitVec 14
  deriving DecidableEq, Repr

/-- Fields of REFORM. -/
structure ReformForm where
  c : Bool
  x : Bool
  r : BitVec 7
  o : BitVec 14
  deriving DecidableEq, Repr

/-- Fields of REFORM_X. -/
structure ReformXForm where
  live : Option LiveSet
  c : Bool
  x : Bool
  r : BitVec 7
  o : BitVec 14
  deriving DecidableEq, Repr

/-- Fields of CALLI. -/
structure CalliForm where
  c : Bool
  x : Bool
  a : BitVec 7
  deriving DecidableEq, Repr

/-- Fields of LOOP_IMM. -/
structure LoopIForm where
  c : Bool
  n : BitVec 12
  l : BitVec 10
  deriving DecidableEq, Repr

/-- Fields of LOOP_REG. -/
structure LoopRForm where
  c : Bool
  x : Bool
  a : BitVec 7
  l : BitVec 10
  deriving DecidableEq, Repr

/-- Fields of SRD. -/
structure SrdForm where
  c : Bool
  s : BitVec 9
  h : BitVec 2
  d : BitVec 7
  deriving DecidableEq, Repr

/-- Fields of SWR. -/
structure SwrForm where
  c : Bool
  s : BitVec 9
  h : BitVec 2
  a : BitVec 7
  deriving DecidableEq, Repr

/-- Fields of MOV_CONST. -/
structure MovCForm where
  c : Bool
  n : BitVec 6
  d : BitVec 7
  deriving DecidableEq, Repr

/-- Fields of IADD, ISUB, IMUL, IMULH, IMIN, IMAX, IAND, IOR, IXOR, IANDN, ISHL, ISHR, ISAR, IROL, IMAD, IMADH, ISAD, IBFX, IDIV, IREM, IADD64, ISUB64, ISHL64, ISHR64, FADD, FSUB, FMUL, FFMA, FMIN, FMAX, FDIV, FCOPYS, FSCALE, RAND, HADD, HSUB, HMUL, HFMA, DADD, DSUB, DMUL, DFMA, SEL, ATOM_ADD, ATOM_MIN, ATOM_MAX, ATOM_EXCH, ATOM_AND, ATOM_OR, ATOM_XOR, ATOM_CAS. -/
structure A3Form where
  pfx : Option Pfx
  c : Bool
  d : BitVec 7
  a : BitVec 7
  b : BitVec 7
  x : Bool
  y : Bool
  deriving DecidableEq, Repr

/-- Fields of IABS, INEG, IPOPC, ICLZ, ICTZ, IBREV, MOV, FABS, FNEG, FSQRT, FRCP, FRSQ, FFLOOR, FCEIL, FTRUNC, FRINT, FCLASS, FFRAC, FEXP2, FLOG2, FSIN, FCOS. -/
structure A2Form where
  pfx : Option Pfx
  c : Bool
  d : BitVec 7
  a : BitVec 7
  x : Bool
  deriving DecidableEq, Repr

/-- Fields of IADDI, IMULI. -/
structure I10Form where
  pfx : Option Pfx
  c : Bool
  d : BitVec 7
  a : BitVec 7
  x : Bool
  i : BitVec 10
  deriving DecidableEq, Repr

/-- Fields of IANDI, IORI, IXORI. -/
structure I8Form where
  pfx : Option Pfx
  c : Bool
  d : BitVec 7
  a : BitVec 7
  x : Bool
  i : BitVec 8
  deriving DecidableEq, Repr

/-- Fields of ISHLI, ISHRI, ISARI, IROLI. -/
structure I5Form where
  pfx : Option Pfx
  c : Bool
  d : BitVec 7
  a : BitVec 7
  x : Bool
  n : BitVec 5
  deriving DecidableEq, Repr

/-- Fields of FTAB. -/
structure FtabForm where
  pfx : Option Pfx
  c : Bool
  d : BitVec 7
  a : BitVec 7
  t : BitVec 2
  x : Bool
  deriving DecidableEq, Repr

/-- Fields of FTABLD. -/
structure FtabLdForm where
  pfx : Option Pfx
  c : Bool
  a : BitVec 7
  k : BitVec 1
  t : BitVec 2
  x : Bool
  deriving DecidableEq, Repr

/-- Fields of FTABBANK. -/
structure FtabBankForm where
  pfx : Option Pfx
  c : Bool
  k : BitVec 1
  t : BitVec 2
  deriving DecidableEq, Repr

/-- Fields of CVT, CVTS. -/
structure CvtForm where
  pfx : Option Pfx
  c : Bool
  d : BitVec 7
  a : BitVec 7
  g : BitVec 2
  t : BitVec 4
  x : Bool
  deriving DecidableEq, Repr

/-- Fields of PACK, UNPACK. -/
structure PackForm where
  pfx : Option Pfx
  c : Bool
  d : BitVec 7
  a : BitVec 7
  t : BitVec 4
  i : BitVec 3
  x : Bool
  deriving DecidableEq, Repr

/-- Fields of ICMP, FCMP, HCMP, DCMP. -/
structure CmpForm where
  pfx : Option Pfx
  c : Bool
  n : BitVec 3
  k : BitVec 4
  a : BitVec 7
  b : BitVec 7
  x : Bool
  y : Bool
  deriving DecidableEq, Repr

/-- Fields of ICMPI. -/
structure CmpIForm where
  pfx : Option Pfx
  c : Bool
  n : BitVec 3
  k : BitVec 4
  a : BitVec 7
  x : Bool
  i : BitVec 10
  deriving DecidableEq, Repr

/-- Fields of PAND, POR, PXOR, PANDN. -/
structure P3Form where
  pfx : Option Pfx
  c : Bool
  d : BitVec 4
  a : BitVec 4
  b : BitVec 4
  deriving DecidableEq, Repr

/-- Fields of KTOV. -/
structure KtovForm where
  pfx : Option Pfx
  c : Bool
  d : BitVec 7
  a : BitVec 4
  deriving DecidableEq, Repr

/-- Fields of VTOK. -/
structure VtokForm where
  pfx : Option Pfx
  c : Bool
  d : BitVec 4
  a : BitVec 7
  x : Bool
  deriving DecidableEq, Repr

/-- Fields of LD, ST. -/
structure MemForm where
  pfx : Option Pfx
  c : Bool
  sz : BitVec 3
  d : BitVec 7
  b : BitVec 7
  y : Bool
  o : BitVec 8
  deriving DecidableEq, Repr

/-- Fields of LD_ACQ, ST_REL. -/
structure MemOForm where
  pfx : Option Pfx
  c : Bool
  sz : BitVec 3
  d : BitVec 7
  b : BitVec 7
  y : Bool
  p : BitVec 3
  deriving DecidableEq, Repr

/-- Fields of WAITV. -/
structure WaitvForm where
  pfx : Option Pfx
  c : Bool
  d : BitVec 7
  b : BitVec 7
  y : Bool
  deriving DecidableEq, Repr

/-- Fields of RED_ADD, RED_MIN, RED_MAX, RED_AND, RED_OR, RED_XOR. -/
structure RedForm where
  pfx : Option Pfx
  c : Bool
  a : BitVec 7
  b : BitVec 7
  x : Bool
  y : Bool
  deriving DecidableEq, Repr

/-- Fields of FENCE, TFENCE. -/
structure ScopeForm where
  c : Bool
  p : BitVec 3
  deriving DecidableEq, Repr

/-- Fields of QFENCE. -/
structure QfenceForm where
  c : Bool
  a : BitVec 7
  b : BitVec 7
  deriving DecidableEq, Repr

/-- Fields of BAR_ARRIVE, BAR_WAIT, BAR_SYNC. -/
structure BarForm where
  c : Bool
  n : BitVec 8
  deriving DecidableEq, Repr

/-- Fields of CVDECL. -/
structure CvdeclForm where
  c : Bool
  n : BitVec 6
  k : BitVec 10
  deriving DecidableEq, Repr

/-- Fields of ABAR_INIT, ABAR_ARRIVE, ABAR_WAIT, ABAR_TEST. -/
structure AbarForm where
  c : Bool
  r : BitVec 7
  o : BitVec 16
  deriving DecidableEq, Repr

/-- Fields of QPUSH. -/
structure QpushForm where
  c : Bool
  a : BitVec 7
  q : BitVec 5
  deriving DecidableEq, Repr

/-- Fields of QPOP, QCOUNT. -/
structure QgetForm where
  c : Bool
  d : BitVec 7
  q : BitVec 5
  deriving DecidableEq, Repr

/-- Fields of QCLOSE. -/
structure QcloseForm where
  c : Bool
  q : BitVec 5
  deriving DecidableEq, Repr

/-- Fields of SADD, SSUB, SMUL, SFMA, SMIN, SMAX, SDIV, SSEL, SPOL, SMDIEL. -/
structure S3Form where
  pfx : Option Pfx
  c : Bool
  d : BitVec 5
  a : BitVec 5
  b : BitVec 5
  x : Bool
  y : Bool
  deriving DecidableEq, Repr

/-- Fields of SSQRT, SEXP. -/
structure S2Form where
  pfx : Option Pfx
  c : Bool
  d : BitVec 5
  a : BitVec 5
  x : Bool
  deriving DecidableEq, Repr

/-- Fields of SHSUM. -/
structure SToVForm where
  pfx : Option Pfx
  c : Bool
  d : BitVec 7
  a : BitVec 5
  x : Bool
  deriving DecidableEq, Repr

/-- Fields of SDOT. -/
structure SdotForm where
  pfx : Option Pfx
  c : Bool
  d : BitVec 7
  a : BitVec 5
  b : BitVec 5
  x : Bool
  y : Bool
  deriving DecidableEq, Repr

/-- Fields of SBCAST. -/
structure VToSForm where
  pfx : Option Pfx
  c : Bool
  d : BitVec 5
  a : BitVec 7
  x : Bool
  deriving DecidableEq, Repr

/-- Fields of SLANE. -/
structure SlaneForm where
  pfx : Option Pfx
  c : Bool
  d : BitVec 7
  a : BitVec 5
  i : BitVec 2
  x : Bool
  deriving DecidableEq, Repr

/-- Fields of SINS. -/
structure SinsForm where
  pfx : Option Pfx
  c : Bool
  d : BitVec 5
  a : BitVec 7
  i : BitVec 2
  x : Bool
  deriving DecidableEq, Repr

/-- Fields of SCMP. -/
structure ScmpForm where
  pfx : Option Pfx
  c : Bool
  n : BitVec 3
  d : BitVec 4
  a : BitVec 5
  b : BitVec 5
  x : Bool
  y : Bool
  deriving DecidableEq, Repr

/-- Fields of SCVT_NARROW. -/
structure ScvtNForm where
  pfx : Option Pfx
  c : Bool
  d : BitVec 7
  a : BitVec 5
  t : BitVec 1
  f : BitVec 2
  x : Bool
  deriving DecidableEq, Repr

/-- Fields of SCVT_WIDEN. -/
structure ScvtWForm where
  pfx : Option Pfx
  c : Bool
  d : BitVec 5
  a : BitVec 7
  f : BitVec 2
  x : Bool
  deriving DecidableEq, Repr

/-- Fields of SWLS. -/
structure SwlsForm where
  pfx : Option Pfx
  c : Bool
  d : BitVec 5
  a : BitVec 7
  n : BitVec 6
  x : Bool
  deriving DecidableEq, Repr

/-- Fields of SFRES. -/
structure SfresForm where
  pfx : Option Pfx
  c : Bool
  d : BitVec 5
  a : BitVec 7
  b : BitVec 5
  x : Bool
  y : Bool
  deriving DecidableEq, Repr

/-- Fields of FILM_ADD. -/
structure FilmAddForm where
  obj : Option (BitVec 16)
  c : Bool
  a : BitVec 7
  b : BitVec 5
  e : BitVec 5
  deriving DecidableEq, Repr

/-- Fields of FILM_RD, VISRD. -/
structure Film3Form where
  obj : Option (BitVec 16)
  c : Bool
  d : BitVec 7
  a : BitVec 7
  b : BitVec 7
  deriving DecidableEq, Repr

/-- Fields of RAST. -/
structure Reg2ObjForm where
  obj : Option (BitVec 16)
  c : Bool
  a : BitVec 7
  b : BitVec 7
  deriving DecidableEq, Repr

/-- Fields of TRACE, TRACEA. -/
structure TraceForm where
  obj : Option (BitVec 16)
  c : Bool
  d : BitVec 7
  a : BitVec 5
  deriving DecidableEq, Repr

/-- Fields of CALLSH. -/
structure Reg2Form where
  c : Bool
  a : BitVec 7
  b : BitVec 7
  deriving DecidableEq, Repr

/-- Fields of STEX, STEXUP, SCMF. -/
structure StexForm where
  obj : Option (BitVec 16)
  c : Bool
  d : BitVec 5
  a : BitVec 5
  b : BitVec 5
  deriving DecidableEq, Repr

/-- Fields of CAST, CAST_T8, CAST_T16. -/
structure CastForm where
  obj : Option (BitVec 16)
  c : Bool
  q : BitVec 2
  v : BitVec 5
  o : BitVec 16
  deriving DecidableEq, Repr

/-- Fields of CASTW, CASTW_CB3. -/
structure CastwForm where
  obj : Option (BitVec 16)
  c : Bool
  q : BitVec 2
  a : BitVec 7
  deriving DecidableEq, Repr

/-- Fields of CASTTAB. -/
structure CasttabForm where
  obj : Option (BitVec 16)
  c : Bool
  q : BitVec 2
  a : BitVec 7
  b : BitVec 7
  deriving DecidableEq, Repr

/-- Fields of MMA. -/
structure MmaForm where
  obj : Option (BitVec 16)
  c : Bool
  v : BitVec 6
  m : BitVec 3
  b : BitVec 7
  deriving DecidableEq, Repr

/-- Fields of MMAS. -/
structure MmasForm where
  obj : Option (BitVec 16)
  c : Bool
  v : BitVec 6
  m : BitVec 3
  b : BitVec 7
  s : BitVec 7
  deriving DecidableEq, Repr

/-- Fields of ACCZ. -/
structure AccForm where
  c : Bool
  v : BitVec 6
  m : BitVec 3
  deriving DecidableEq, Repr

/-- Fields of ACCLD, MSEQ. -/
structure AccObjForm where
  obj : Option (BitVec 16)
  c : Bool
  v : BitVec 6
  m : BitVec 3
  deriving DecidableEq, Repr

/-- Fields of ACCST, ACCST_ADD. -/
structure AccstForm where
  obj : Option (BitVec 16)
  c : Bool
  v : BitVec 6
  m : BitVec 3
  k : BitVec 2
  deriving DecidableEq, Repr

/-- Fields of ACCRD. -/
structure AccrdForm where
  c : Bool
  v : BitVec 6
  m : BitVec 3
  d : BitVec 7
  a : BitVec 7
  deriving DecidableEq, Repr

/-- Fields of RMAX_W, RMIN_W, RMED_W, RCLAMP_W, RSSUM_W, ADJB. -/
structure Red1Form where
  obj : Option (BitVec 16)
  c : Bool
  a : BitVec 5
  o : BitVec 16
  deriving DecidableEq, Repr

/-- Fields of WREL. -/
structure Obj1Form where
  c : Bool
  o : BitVec 16
  deriving DecidableEq, Repr

/-- Fields of RMAX_W_CR, RMIN_W_CR, RMED_W_CR, RCLAMP_W_CR, RSSUM_W_CR. -/
structure RedCrForm where
  c : Bool
  a : BitVec 5
  v : BitVec 6
  d : BitVec 7
  t : BitVec 2
  y : Bool
  deriving DecidableEq, Repr

/-- Fields of FCOLL, FSEND, FWIN. -/
structure FcollWForm where
  c : Bool
  a : BitVec 7
  o : BitVec 16
  deriving DecidableEq, Repr

/-- Fields of STAMP. -/
structure StampForm where
  c : Bool
  e : BitVec 10
  h : BitVec 5
  i : BitVec 5
  j : BitVec 5
  deriving DecidableEq, Repr

/-- A collective packet's header and data (R369): its job, tree, chunk, operation and type, remaining hop count, origin rank,
remaining template entries, and elements as words; and whether a contribution to it was resent, or lost elements to an uncorrectable
error (R374). -/
structure CollPacket where
  job : Nat
  tree : Nat
  chunk : Nat
  op : Nat
  ty : Nat
  hops : Nat
  rank : Nat
  entries : List (BitVec 32)
  data : List (BitVec 32)
  resent : Bool
  uncorr : Bool := false
  deriving DecidableEq, Repr

/-- A collective packet with the source and the sequence number that name its sending (R365, R369). -/
structure PacketArrival where
  src : Nat
  seq : Nat
  packet : CollPacket
  deriving DecidableEq, Repr

/-- The bytes of a write request, each at its place in the line, and how many stores were merged into them (R348, R364). -/
structure WriteData where
  bytes : List (Nat × Byte)
  stores : Nat
  deriving DecidableEq, Repr

/-- A code loaded into the debug port's code register and the bits shifted after it (R394). -/
structure CodeScan where
  code : BitVec 8
  bits : List Bool
  deriving DecidableEq, Repr

/-- One lane of a vector request (R363): its byte offset in the page, its data or operand, and a second operand. -/
structure VecLane where
  off : Nat
  data : BitVec 64
  data2 : BitVec 64
  deriving DecidableEq, Repr

/-- What the driver gives a context it creates (R73, R135, R142, R55, R92). -/
structure ContextSetup where
  privileged : Bool
  textBase : BitVec 52
  window : BitVec 64
  ptbase : BitVec 64
  otbase : BitVec 64
  otcount : BitVec 32
  deriving DecidableEq, Repr

/-- A memory operation of a request from outside (R360, R363, R376). -/
inductive MemOp where
  | load
  | store
  | add | min (unsigned : Bool) | max (unsigned : Bool) | exch | and | or | xor | cas
  deriving DecidableEq, Repr

/-- The instructions and events of the part, one constructor per row of the opcode table. -/
inductive Instr where
  /-- NOP (R106). -/
  | nop (f : BareForm)
  /-- EXIT (R106). -/
  | exit (f : BareForm)
  /-- YIELD (R106). -/
  | yield (f : BareForm)
  /-- RTE (R152). -/
  | rte (f : BareForm)
  /-- RTE_PC (R152). -/
  | rtePc (f : RegAForm)
  /-- TFILL (R151). -/
  | tfill (f : RegAForm)
  /-- RQCOUNT (R150). -/
  | rqcount (f : RegDForm)
  /-- RQREAD (R150). -/
  | rqread (f : RqReadForm)
  /-- RQWRITE (R150). -/
  | rqwrite (f : RqWriteForm)
  /-- RQDROP (R150). -/
  | rqdrop (f : RqDropForm)
  /-- DIELD (R108). -/
  | dield (f : BankForm)
  /-- DIEBANK (R109). -/
  | diebank (f : BankForm)
  /-- SYNC_DIE (R110). -/
  | syncDie (f : BareForm)
  /-- LAUNCH (R111). -/
  | launch (f : LaunchWForm)
  /-- TRAP (R107). -/
  | trap (f : CodeForm)
  /-- BKPT (R107). -/
  | bkpt (f : CodeForm)
  /-- TLBINV (R112). -/
  | tlbinv (f : TlbinvForm)
  /-- OTINV (R112). -/
  | otinv (f : OtinvForm)
  /-- CTXSAVE (R153). -/
  | ctxsave (f : CtxRegForm)
  /-- CTXLOAD (R153). -/
  | ctxload (f : CtxRegForm)
  /-- BR (R95). -/
  | br (f : BrForm)
  /-- CALL (R96). -/
  | call (f : CallForm)
  /-- RET (R96). -/
  | ret (f : BareForm)
  /-- REFORM (R97). -/
  | reform (f : ReformForm)
  /-- REFORM_X (R195). -/
  | reformX (f : ReformXForm)
  /-- CALLI (R96). -/
  | calli (f : CalliForm)
  /-- LOOP_IMM (R98). -/
  | loopImm (f : LoopIForm)
  /-- LOOP_REG (R98). -/
  | loopReg (f : LoopRForm)
  /-- SRD (R91). -/
  | srd (f : SrdForm)
  /-- SWR (R91). -/
  | swr (f : SwrForm)
  /-- MOV_CONST (R91). -/
  | movConst (f : MovCForm)
  /-- IADD (R85). -/
  | iadd (f : A3Form)
  /-- ISUB (R85). -/
  | isub (f : A3Form)
  /-- IMUL (R85). -/
  | imul (f : A3Form)
  /-- IMULH (R85). -/
  | imulh (f : A3Form)
  /-- IMIN (R85). -/
  | imin (f : A3Form)
  /-- IMAX (R85). -/
  | imax (f : A3Form)
  /-- IABS (R85). -/
  | iabs (f : A2Form)
  /-- INEG (R85). -/
  | ineg (f : A2Form)
  /-- IAND (R85). -/
  | iand (f : A3Form)
  /-- IOR (R85). -/
  | ior (f : A3Form)
  /-- IXOR (R85). -/
  | ixor (f : A3Form)
  /-- IANDN (R85). -/
  | iandn (f : A3Form)
  /-- ISHL (R85). -/
  | ishl (f : A3Form)
  /-- ISHR (R85). -/
  | ishr (f : A3Form)
  /-- ISAR (R85). -/
  | isar (f : A3Form)
  /-- IROL (R85). -/
  | irol (f : A3Form)
  /-- IMAD (R85). -/
  | imad (f : A3Form)
  /-- IMADH (R85). -/
  | imadh (f : A3Form)
  /-- ISAD (R85). -/
  | isad (f : A3Form)
  /-- IPOPC (R85). -/
  | ipopc (f : A2Form)
  /-- ICLZ (R85). -/
  | iclz (f : A2Form)
  /-- ICTZ (R85). -/
  | ictz (f : A2Form)
  /-- IBREV (R85). -/
  | ibrev (f : A2Form)
  /-- IBFX (R85). -/
  | ibfx (f : A3Form)
  /-- IDIV (R86). -/
  | idiv (f : A3Form)
  /-- IREM (R86). -/
  | irem (f : A3Form)
  /-- MOV (R83). -/
  | mov (f : A2Form)
  /-- IADD64 (R88). -/
  | iadd64 (f : A3Form)
  /-- ISUB64 (R88). -/
  | isub64 (f : A3Form)
  /-- ISHL64 (R88). -/
  | ishl64 (f : A3Form)
  /-- ISHR64 (R88). -/
  | ishr64 (f : A3Form)
  /-- IADDI (R87). -/
  | iaddi (f : I10Form)
  /-- IMULI (R87). -/
  | imuli (f : I10Form)
  /-- IANDI (R87). -/
  | iandi (f : I8Form)
  /-- IORI (R87). -/
  | iori (f : I8Form)
  /-- IXORI (R87). -/
  | ixori (f : I8Form)
  /-- ISHLI (R87). -/
  | ishli (f : I5Form)
  /-- ISHRI (R87). -/
  | ishri (f : I5Form)
  /-- ISARI (R87). -/
  | isari (f : I5Form)
  /-- IROLI (R87). -/
  | iroli (f : I5Form)
  /-- FADD (R123). -/
  | fadd (f : A3Form)
  /-- FSUB (R123). -/
  | fsub (f : A3Form)
  /-- FMUL (R123). -/
  | fmul (f : A3Form)
  /-- FFMA (R123). -/
  | ffma (f : A3Form)
  /-- FMIN (R124). -/
  | fmin (f : A3Form)
  /-- FMAX (R124). -/
  | fmax (f : A3Form)
  /-- FABS (R123). -/
  | fabs (f : A2Form)
  /-- FNEG (R123). -/
  | fneg (f : A2Form)
  /-- FDIV (R126). -/
  | fdiv (f : A3Form)
  /-- FSQRT (R126). -/
  | fsqrt (f : A2Form)
  /-- FRCP (R126). -/
  | frcp (f : A2Form)
  /-- FRSQ (R126). -/
  | frsq (f : A2Form)
  /-- FFLOOR (R123). -/
  | ffloor (f : A2Form)
  /-- FCEIL (R123). -/
  | fceil (f : A2Form)
  /-- FTRUNC (R123). -/
  | ftrunc (f : A2Form)
  /-- FRINT (R123). -/
  | frint (f : A2Form)
  /-- FCLASS (R125). -/
  | fclass (f : A2Form)
  /-- FCOPYS (R123). -/
  | fcopys (f : A3Form)
  /-- FSCALE (R123). -/
  | fscale (f : A3Form)
  /-- FFRAC (R123). -/
  | ffrac (f : A2Form)
  /-- FTAB (R137). -/
  | ftab (f : FtabForm)
  /-- FTABLD (R136). -/
  | ftabld (f : FtabLdForm)
  /-- FTABBANK (R138). -/
  | ftabbank (f : FtabBankForm)
  /-- RAND (R139). -/
  | rand (f : A3Form)
  /-- HADD (R128). -/
  | hadd (f : A3Form)
  /-- HSUB (R128). -/
  | hsub (f : A3Form)
  /-- HMUL (R128). -/
  | hmul (f : A3Form)
  /-- HFMA (R128). -/
  | hfma (f : A3Form)
  /-- DADD (R129). -/
  | dadd (f : A3Form)
  /-- DSUB (R129). -/
  | dsub (f : A3Form)
  /-- DMUL (R129). -/
  | dmul (f : A3Form)
  /-- DFMA (R129). -/
  | dfma (f : A3Form)
  /-- CVT (R132). -/
  | cvt (f : CvtForm)
  /-- CVTS (R132). -/
  | cvts (f : CvtForm)
  /-- PACK (R134). -/
  | pack (f : PackForm)
  /-- UNPACK (R134). -/
  | unpack (f : PackForm)
  /-- FEXP2 (R126). -/
  | fexp2 (f : A2Form)
  /-- FLOG2 (R126). -/
  | flog2 (f : A2Form)
  /-- FSIN (R126). -/
  | fsin (f : A2Form)
  /-- FCOS (R126). -/
  | fcos (f : A2Form)
  /-- ICMP (R89). -/
  | icmp (f : CmpForm)
  /-- FCMP (R89). -/
  | fcmp (f : CmpForm)
  /-- HCMP (R89). -/
  | hcmp (f : CmpForm)
  /-- DCMP (R89). -/
  | dcmp (f : CmpForm)
  /-- ICMPI (R89). -/
  | icmpi (f : CmpIForm)
  /-- PAND (R90). -/
  | pand (f : P3Form)
  /-- POR (R90). -/
  | por (f : P3Form)
  /-- PXOR (R90). -/
  | pxor (f : P3Form)
  /-- PANDN (R90). -/
  | pandn (f : P3Form)
  /-- SEL (R90). -/
  | sel (f : A3Form)
  /-- KTOV (R90). -/
  | ktov (f : KtovForm)
  /-- VTOK (R90). -/
  | vtok (f : VtokForm)
  /-- LD (R102). -/
  | ld (f : MemForm)
  /-- ST (R102). -/
  | st (f : MemForm)
  /-- LD_ACQ (R103). -/
  | ldAcq (f : MemOForm)
  /-- ST_REL (R103). -/
  | stRel (f : MemOForm)
  /-- WAITV (R54). -/
  | waitv (f : WaitvForm)
  /-- ATOM_ADD (R287). -/
  | atomAdd (f : A3Form)
  /-- ATOM_MIN (R287). -/
  | atomMin (f : A3Form)
  /-- ATOM_MAX (R287). -/
  | atomMax (f : A3Form)
  /-- ATOM_EXCH (R287). -/
  | atomExch (f : A3Form)
  /-- ATOM_AND (R287). -/
  | atomAnd (f : A3Form)
  /-- ATOM_OR (R287). -/
  | atomOr (f : A3Form)
  /-- ATOM_XOR (R287). -/
  | atomXor (f : A3Form)
  /-- ATOM_CAS (R287). -/
  | atomCas (f : A3Form)
  /-- RED_ADD (R286). -/
  | redAdd (f : RedForm)
  /-- RED_MIN (R286). -/
  | redMin (f : RedForm)
  /-- RED_MAX (R286). -/
  | redMax (f : RedForm)
  /-- RED_AND (R286). -/
  | redAnd (f : RedForm)
  /-- RED_OR (R286). -/
  | redOr (f : RedForm)
  /-- RED_XOR (R286). -/
  | redXor (f : RedForm)
  /-- FENCE (R290). -/
  | fence (f : ScopeForm)
  /-- QFENCE (R245). -/
  | qfence (f : QfenceForm)
  /-- TFENCE (R323). -/
  | tfence (f : ScopeForm)
  /-- BAR_ARRIVE (R292). -/
  | barArrive (f : BarForm)
  /-- BAR_WAIT (R292). -/
  | barWait (f : BarForm)
  /-- BAR_SYNC (R292). -/
  | barSync (f : BarForm)
  /-- CVDECL (R255). -/
  | cvdecl (f : CvdeclForm)
  /-- ABAR_INIT (R295). -/
  | abarInit (f : AbarForm)
  /-- ABAR_ARRIVE (R295). -/
  | abarArrive (f : AbarForm)
  /-- ABAR_WAIT (R295). -/
  | abarWait (f : AbarForm)
  /-- ABAR_TEST (R295). -/
  | abarTest (f : AbarForm)
  /-- QPUSH (R299). -/
  | qpush (f : QpushForm)
  /-- QPOP (R299). -/
  | qpop (f : QgetForm)
  /-- QCOUNT (R298). -/
  | qcount (f : QgetForm)
  /-- QCLOSE (R298). -/
  | qclose (f : QcloseForm)
  /-- SADD (R165). -/
  | sadd (f : S3Form)
  /-- SSUB (R165). -/
  | ssub (f : S3Form)
  /-- SMUL (R165). -/
  | smul (f : S3Form)
  /-- SFMA (R165). -/
  | sfma (f : S3Form)
  /-- SMIN (R165). -/
  | smin (f : S3Form)
  /-- SMAX (R165). -/
  | smax (f : S3Form)
  /-- SDIV (R165). -/
  | sdiv (f : S3Form)
  /-- SSQRT (R165). -/
  | ssqrt (f : S2Form)
  /-- SEXP (R165). -/
  | sexp (f : S2Form)
  /-- SHSUM (R166). -/
  | shsum (f : SToVForm)
  /-- SDOT (R166). -/
  | sdot (f : SdotForm)
  /-- SBCAST (R167). -/
  | sbcast (f : VToSForm)
  /-- SLANE (R167). -/
  | slane (f : SlaneForm)
  /-- SINS (R167). -/
  | sins (f : SinsForm)
  /-- SCMP (R168). -/
  | scmp (f : ScmpForm)
  /-- SSEL (R167). -/
  | ssel (f : S3Form)
  /-- SCVT_NARROW (R169). -/
  | scvtNarrow (f : ScvtNForm)
  /-- SCVT_WIDEN (R169). -/
  | scvtWiden (f : ScvtWForm)
  /-- SWLS (R170). -/
  | swls (f : SwlsForm)
  /-- SPOL (R171). -/
  | spol (f : S3Form)
  /-- SFRES (R172). -/
  | sfres (f : SfresForm)
  /-- SMDIEL (R173). -/
  | smdiel (f : S3Form)
  /-- FILM_ADD (R210). -/
  | filmAdd (f : FilmAddForm)
  /-- FILM_RD (R210). -/
  | filmRd (f : Film3Form)
  /-- RAST (R210). -/
  | rast (f : Reg2ObjForm)
  /-- VISRD (R210). -/
  | visrd (f : Film3Form)
  /-- TRACE (R189). -/
  | trace (f : TraceForm)
  /-- TRACEA (R188). -/
  | tracea (f : TraceForm)
  /-- CALLSH (R191). -/
  | callsh (f : Reg2Form)
  /-- RETSH (R191). -/
  | retsh (f : BareForm)
  /-- STEX (R180). -/
  | stex (f : StexForm)
  /-- STEXUP (R181). -/
  | stexup (f : StexForm)
  /-- SCMF (R182). -/
  | scmf (f : StexForm)
  /-- CAST (R247). -/
  | cast (f : CastForm)
  /-- CAST_T8 (R247). -/
  | castT8 (f : CastForm)
  /-- CAST_T16 (R247). -/
  | castT16 (f : CastForm)
  /-- CASTW (R251). -/
  | castw (f : CastwForm)
  /-- CASTW_CB3 (R252). -/
  | castwCb3 (f : CastwForm)
  /-- CASTTAB (R253). -/
  | casttab (f : CasttabForm)
  /-- MMA (R259). -/
  | mma (f : MmaForm)
  /-- MMAS (R259). -/
  | mmas (f : MmasForm)
  /-- ACCZ (R260). -/
  | accz (f : AccForm)
  /-- ACCLD (R260). -/
  | accld (f : AccObjForm)
  /-- ACCST (R260). -/
  | accst (f : AccstForm)
  /-- ACCST_ADD (R260). -/
  | accstAdd (f : AccstForm)
  /-- ACCRD (R261). -/
  | accrd (f : AccrdForm)
  /-- MSEQ (R263). -/
  | mseq (f : AccObjForm)
  /-- RMAX_W (R275). -/
  | rmaxW (f : Red1Form)
  /-- RMIN_W (R275). -/
  | rminW (f : Red1Form)
  /-- RMED_W (R275). -/
  | rmedW (f : Red1Form)
  /-- RCLAMP_W (R276). -/
  | rclampW (f : Red1Form)
  /-- RSSUM_W (R276). -/
  | rssumW (f : Red1Form)
  /-- ADJB (R281). -/
  | adjb (f : Red1Form)
  /-- WREL (R279). -/
  | wrel (f : Obj1Form)
  /-- RMAX_W_CR (R285). -/
  | rmaxWCr (f : RedCrForm)
  /-- RMIN_W_CR (R285). -/
  | rminWCr (f : RedCrForm)
  /-- RMED_W_CR (R285). -/
  | rmedWCr (f : RedCrForm)
  /-- RCLAMP_W_CR (R285). -/
  | rclampWCr (f : RedCrForm)
  /-- RSSUM_W_CR (R285). -/
  | rssumWCr (f : RedCrForm)
  /-- FCOLL (R372). -/
  | fcoll (f : FcollWForm)
  /-- FSEND (R367). -/
  | fsend (f : FcollWForm)
  /-- FWIN (R371). -/
  | fwin (f : FcollWForm)
  /-- STAMP (R76). -/
  | stamp (f : StampForm)
  /-- SELECTOR_DRAW (R51), an event without an encoding. -/
  | selectorDraw (tile : Nat) (part : Nat)
  /-- DUMP_WRITE (R385), an event without an encoding. -/
  | dumpWrite (ctx : Nat)
  /-- DISTRIBUTOR_EXAMINE (R38), an event without an encoding. -/
  | distributorExamine (ctx : Nat) (prio : Nat)
  /-- PLACE_CLUSTER (R41), an event without an encoding. -/
  | placeCluster (quad : Nat)
  /-- CELL_COMPLETE (R42), an event without an encoding. -/
  | cellComplete (cell : Nat)
  /-- STEAL_REQUEST (R44), an event without an encoding. -/
  | stealRequest (cluster : Nat)
  /-- STEAL_RESPONSE (R44), an event without an encoding. -/
  | stealResponse (holder : Nat) (requester : Nat)
  /-- STEAL_RETRY (R44), an event without an encoding. -/
  | stealRetry (cluster : Nat)
  /-- STEAL_MESH_SWITCH (R44), an event without an encoding. -/
  | stealMeshSwitch (cluster : Nat)
  /-- LOAD_DATA_ARRIVAL (R102), an event without an encoding. -/
  | loadDataArrival (tid : Nat) (entry : Nat)
  /-- ATOMIC_PERFORM (R287), an event without an encoding. -/
  | atomicPerform (tid : Nat) (entry : Nat)
  /-- ATOM_REPLY (R287), an event without an encoding. -/
  | atomReply (tid : Nat) (entry : Nat)
  /-- COMBINE_LINE_IDLE_DRAIN (R314), an event without an encoding. -/
  | combineLineIdleDrain (tile : Nat) (line : Nat)
  /-- RACE_CHECK_RESULT (R329), an event without an encoding. -/
  | raceCheckResult (tid : Nat) (entry : Nat)
  /-- TAG_SWEEP (R328), an event without an encoding. -/
  | tagSweep (slot : Nat)
  /-- FAULT_RECORD_POST (R325), an event without an encoding. -/
  | faultRecordPost
  /-- FLTDONE_WRITE (R324), an event without an encoding. -/
  | fltdoneWrite (v : BitVec 64)
  /-- DIELD_COMPLETE (R108), an event without an encoding. -/
  | dieldComplete (tid : Nat) (entry : Nat)
  /-- FTABLD_COMPLETE (R136), an event without an encoding. -/
  | ftabldComplete (tid : Nat) (entry : Nat)
  /-- LAUNCH_ENQUEUE (R111), an event without an encoding. -/
  | launchEnqueue (tid : Nat) (entry : Nat)
  /-- CASTER_COPY (R248), an event without an encoding. -/
  | casterCopy (op : Nat)
  /-- CAST_BARRIER_ARRIVAL (R249), an event without an encoding. -/
  | castBarrierArrival (op : Nat)
  /-- CASTW_PERFORM (R251), an event without an encoding. -/
  | castwPerform (op : Nat)
  /-- CASTTAB_PERFORM (R253), an event without an encoding. -/
  | casttabPerform (op : Nat)
  /-- MMA_PERFORM (R259), an event without an encoding. -/
  | mmaPerform (op : Nat)
  /-- BLOCK_EXPAND (R254), an event without an encoding. -/
  | blockExpand (op : Nat) (block : Nat)
  /-- ACCZ_PERFORM (R260), an event without an encoding. -/
  | acczPerform (op : Nat)
  /-- ACCLD_PERFORM (R260), an event without an encoding. -/
  | accldPerform (op : Nat)
  /-- ACCST_PERFORM (R260), an event without an encoding. -/
  | accstPerform (op : Nat)
  /-- ACCST_ADD_PERFORM (R260), an event without an encoding. -/
  | accstAddPerform (op : Nat)
  /-- ACCRD_PERFORM (R261), an event without an encoding. -/
  | accrdPerform (op : Nat)
  /-- MSEQ_PERFORM (R263), an event without an encoding. -/
  | mseqPerform (op : Nat)
  /-- TILE_REDUCTION_PERFORM (R275), an event without an encoding. -/
  | tileReductionPerform (op : Nat)
  /-- CLAMP_SUM_PERFORM (R276), an event without an encoding. -/
  | clampSumPerform (op : Nat)
  /-- ADJB_PERFORM (R282), an event without an encoding. -/
  | adjbPerform (op : Nat)
  /-- CR_SET_REDUCTION (R285), an event without an encoding. -/
  | crSetReduction (op : Nat)
  /-- TRACE_WALK (R188), an event without an encoding. -/
  | traceWalk (op : Nat)
  /-- SPECTRAL_FETCH (R178), an event without an encoding. -/
  | spectralFetch (op : Nat)
  /-- RGB_UPSAMPLE_FETCH (R181), an event without an encoding. -/
  | rgbUpsampleFetch (op : Nat)
  /-- CMF_PROJECT_FETCH (R182), an event without an encoding. -/
  | cmfProjectFetch (op : Nat)
  /-- FILM_ADD_PERFORM (R208), an event without an encoding. -/
  | filmAddPerform (op : Nat)
  /-- FILM_RD_PERFORM (R210), an event without an encoding. -/
  | filmRdPerform (op : Nat)
  /-- RAST_PERFORM (R205), an event without an encoding. -/
  | rastPerform (op : Nat)
  /-- VISRD_PERFORM (R210), an event without an encoding. -/
  | visrdPerform (op : Nat)
  /-- QPUSH_COMMIT (R299), an event without an encoding. -/
  | qpushCommit (queue : Nat) (pos : Nat)
  /-- QPOP_REPLY (R299), an event without an encoding. -/
  | qpopReply (tid : Nat) (entry : Nat)
  /-- QUEUE_FED_PLACE (R202), an event without an encoding. -/
  | queueFedPlace (launch : Nat) (stage : Nat)
  /-- QAGE_TIMEOUT (R202), an event without an encoding. -/
  | qageTimeout (launch : Nat) (stage : Nat)
  /-- STAGE_CLOSE (R203), an event without an encoding. -/
  | stageClose (launch : Nat) (stage : Nat)
  /-- STAGE_EPOCH (R201), an event without an encoding. -/
  | stageEpoch (launch : Nat)
  /-- RIDDLE_MOVE (R197), an event without an encoding. -/
  | riddleMove (tile : Nat) (ctx : Nat) (pc : Nat) (key : Nat)
  /-- THREAD_EXPORT (R198), an event without an encoding. -/
  | threadExport (tid : Nat)
  /-- THREAD_ARRIVAL (R198), an event without an encoding. -/
  | threadArrival (tid : Nat)
  /-- ABAR_ARRIVAL_PERFORM (R296), an event without an encoding. -/
  | abarArrivalPerform (ctx : Nat) (cell : Nat) (index : Nat) (units : Nat)
  /-- CTXLOAD_RESTORE (R153), an event without an encoding. -/
  | ctxloadRestore (ctx : Nat)
  /-- DETACHED_REPLY_AFTER_SAVE (R156), an event without an encoding. -/
  | detachedReplyAfterSave (ctx : Nat) (tid : Nat) (entry : Nat)
  /-- REMOTE_LOAD_REQUEST (R360), an event without an encoding. -/
  | remoteLoadRequest (src : Nat) (seq : Nat) (addr : Nat) (size : Nat)
  /-- REMOTE_WRITE_REQUEST (R360), an event without an encoding. -/
  | remoteWriteRequest (src : Nat) (seq : Nat) (addr : Nat) (data : WriteData) (release : Option Nat)
  /-- REMOTE_ATOMIC_REQUEST (R360), an event without an encoding. -/
  | remoteAtomicRequest (src : Nat) (seq : Nat) (addr : Nat) (op : MemOp) (a b : BitVec 32) (release : Option Nat)
  /-- VECTOR_REQUEST (R363), an event without an encoding. -/
  | vectorRequest (src : Nat) (seq : Nat) (page : Nat) (size : Nat) (op : MemOp) (lanes : List VecLane)
  /-- FABRIC_RELEASE_PERFORM (R348), an event without an encoding. -/
  | fabricReleasePerform (src : Nat) (seq : Nat)
  /-- END_TO_END_ACK (R365), an event without an encoding. -/
  | endToEndAck (seq : Nat)
  /-- NEGATIVE_ACK (R365), an event without an encoding. -/
  | negativeAck (seq : Nat)
  /-- RESEND_TIMEOUT (R365), an event without an encoding. -/
  | resendTimeout (seq : Nat)
  /-- FSEND_PERFORM (R367), an event without an encoding. -/
  | fsendPerform (op : Nat)
  /-- FSEND_LOCAL_COMPLETE (R367), an event without an encoding. -/
  | fsendLocalComplete (op : Nat)
  /-- FCOLL_PUSH_PERFORM (R372), an event without an encoding. -/
  | fcollPushPerform (op : Nat)
  /-- COLLECTIVE_PACKET_ARRIVAL (R369), an event without an encoding. -/
  | collectivePacketArrival (p : PacketArrival)
  /-- COLLECTIVE_DELIVERY (R371), an event without an encoding. -/
  | collectiveDelivery (tree : Nat) (chunk : Nat)
  /-- CONTEXT_KILL (R375), an event without an encoding. -/
  | contextKill (ctx : Nat)
  /-- ABORT_RECEIVE (R375), an event without an encoding. -/
  | abortReceive (job : Nat) (origin : Nat) (port : Nat)
  /-- HOST_WRITE (R377), an event without an encoding. -/
  | hostWrite (endpoint : Nat) (addr : Nat) (bytes : List Byte)
  /-- HOST_READ (R377), an event without an encoding. -/
  | hostRead (endpoint : Nat) (addr : Nat) (size : Nat)
  /-- HOST_ATOMIC (R376), an event without an encoding. -/
  | hostAtomic (endpoint : Nat) (addr : Nat) (size : Nat) (op : MemOp) (a b : BitVec 64)
  /-- OTBASE_WRITE (R234), an event without an encoding. -/
  | otbaseWrite (ctx : Nat) (count : Bool) (v : BitVec 64)
  /-- NBV_WRITE (R92), an event without an encoding. -/
  | nbvWrite (ctx : Nat) (v : BitVec 32)
  /-- UTVEC_WRITE (R142), an event without an encoding. -/
  | utvecWrite (tid : Nat) (v : BitVec 32)
  /-- FPCTL_WRITE (R114), an event without an encoding. -/
  | fpctlWrite (tid : Nat) (v : BitVec 32)
  /-- DUMPCTL_WRITE (R383), an event without an encoding. -/
  | dumpctlWrite (ctx : Nat) (v : BitVec 64)
  /-- REFPHASE_WRITE (R303), an event without an encoding. -/
  | refphaseWrite (tid : Nat) (v : BitVec 32)
  /-- REFRESH_DUE_POINT (R304), an event without an encoding. -/
  | refreshDuePoint (pch : Nat) (tid : Nat)
  /-- GUARD_REFRESH (R304), an event without an encoding. -/
  | guardRefresh (pch : Nat)
  /-- REFRESH_INTERVAL (R318), an event without an encoding. -/
  | refreshInterval (pch : Nat)
  /-- PER_BANK_REFRESH (R318), an event without an encoding. -/
  | perBankRefresh (pch : Nat)
  /-- REORDER_LIMIT (R317), an event without an encoding. -/
  | reorderLimit (pch : Nat)
  /-- ROW_REPAIR (R419), an event without an encoding. -/
  | rowRepair (addr : Nat)
  /-- TIMENS_READ (R213), an event without an encoding. -/
  | timensRead
  /-- TIMEADJ_WRITE (R213), an event without an encoding. -/
  | timeadjWrite (v : BitVec 32)
  /-- TIMESTEP_WRITE (R213), an event without an encoding. -/
  | timestepWrite (v : BitVec 64)
  /-- PPS_EDGE (R213), an event without an encoding. -/
  | ppsEdge
  /-- TRIGSEC_WRITE (R215), an event without an encoding. -/
  | trigsecWrite (n : Nat) (v : BitVec 64)
  /-- TRIGGER_FIRE (R215), an event without an encoding. -/
  | triggerFire (n : Nat)
  /-- BYPASS (R394), an event without an encoding. -/
  | bypass (scan : CodeScan)
  /-- SAMPLE_PRELOAD (R394), an event without an encoding. -/
  | samplePreload (scan : List Bool)
  /-- EXTEST (R394), an event without an encoding. -/
  | extest (scan : List Bool)
  /-- IDCODE (R394), an event without an encoding. -/
  | idcode
  /-- DBGADDR (R394), an event without an encoding. -/
  | dbgaddr (v : BitVec 64)
  /-- DBGDATA_CAPTURE (R397), an event without an encoding. -/
  | dbgdataCapture
  /-- DBGDATA_UPDATE (R397), an event without an encoding. -/
  | dbgdataUpdate (v : BitVec 64)
  /-- DBGAUTH_CAPTURE (R395), an event without an encoding. -/
  | dbgauthCapture
  /-- DBGAUTH_UPDATE (R395), an event without an encoding. -/
  | dbgauthUpdate (v : BitVec 544)
  /-- DEBUG_STOP_REQUEST (R399), an event without an encoding. -/
  | debugStopRequest (tile : Nat) (part : Nat)
  /-- DEBUG_RELEASE (R404), an event without an encoding. -/
  | debugRelease (tile : Nat) (part : Nat)
  /-- DEBUG_STEP (R404), an event without an encoding. -/
  | debugStep (tile : Nat) (part : Nat)
  /-- THRDATA_WRITE (R400), an event without an encoding. -/
  | thrdataWrite (tile : Nat) (part : Nat) (v : BitVec 128)
  /-- LANE_COUNTER_CLEAR (R410), an event without an encoding. -/
  | laneCounterClear (tile : Nat) (part : Nat)
  /-- PC_SAMPLE (R409), an event without an encoding. -/
  | pcSample (tile : Nat) (part : Nat)
  /-- POWER_GATE_ENTRY (R413), an event without an encoding. -/
  | powerGateEntry (tile : Nat)
  /-- RETAIN_ENTRY (R413), an event without an encoding. -/
  | retainEntry (tile : Nat)
  /-- POWER_WAKE (R413), an event without an encoding. -/
  | powerWake (tile : Nat)
  /-- POWER_LIMIT_WINDOW (R414), an event without an encoding. -/
  | powerLimitWindow (tile : Nat)
  /-- DEVICE_RESET (R415), an event without an encoding. -/
  | deviceReset
  /-- FIRMWARE_IMAGE_DOE (R415), an event without an encoding. -/
  | firmwareImageDoe (image : List Byte)
  /-- GET_VERSION (R416), an event without an encoding. -/
  | getVersion (endpoint : Nat) (request : List Byte)
  /-- GET_CAPABILITIES (R416), an event without an encoding. -/
  | getCapabilities (endpoint : Nat) (request : List Byte)
  /-- NEGOTIATE_ALGORITHMS (R416), an event without an encoding. -/
  | negotiateAlgorithms (endpoint : Nat) (request : List Byte)
  /-- GET_DIGESTS (R416), an event without an encoding. -/
  | getDigests (endpoint : Nat) (request : List Byte)
  /-- GET_CERTIFICATE (R416), an event without an encoding. -/
  | getCertificate (endpoint : Nat) (request : List Byte)
  /-- CHALLENGE (R416), an event without an encoding. -/
  | challenge (endpoint : Nat) (request : List Byte)
  /-- GET_MEASUREMENTS (R416), an event without an encoding. -/
  | getMeasurements (endpoint : Nat) (request : List Byte)
  /-- TILE_RETIRE (R420), an event without an encoding. -/
  | tileRetire (tile : Nat) (force : Bool)
  /-- LINK_RETRAIN (R418), an event without an encoding. -/
  | linkRetrain (port : Nat) (lane : Nat)
  /-- LINK_DOWN (R421), an event without an encoding. -/
  | linkDown (port : Nat)
  /-- LINK_DISABLE (R417), an event without an encoding. -/
  | linkDisable (port : Nat) (disable : Bool)
  /-- MMIO_REGISTER_WRITE (R4), an event without an encoding. -/
  | mmioRegisterWrite (offset : Nat) (size : Nat) (v : BitVec 64)
  /-- LINK_TRAINED (R418), an event without an encoding. -/
  | linkTrained (port : Nat) (spared : Bool)
  /-- FLIT_CRC_FAILURE (R417), an event without an encoding. -/
  | flitCrcFailure (port : Nat)
  /-- CONTEXT_CREATE (R73), an event without an encoding. -/
  | contextCreate (ctx : Nat) (setup : ContextSetup)
  deriving DecidableEq, Repr

end Sys2Proof
end

