-- ==== Sys2Proof/WellFormed.lean ====
section
/-! DEFINITION. The conditions an instruction's own fields must meet, beyond the fixed bits of its row: an encoded instruction
that breaks one traps with ILLEG (R63, R64, R69 to R72, R82, and each family's own limits). What depends on the launch's
declaration or on the mode is not here. Events have no fields of a word and are well formed. -/
namespace Sys2Proof

/-- rm 110 and 111 and et 111 are not defined (R69). -/
def Pfx.defined (p : Pfx) : Bool := p.rm.toNat < 6 && p.et.toNat < 7

/-- What a base takes as its fourth operand (R71). -/
inductive Fourth where
  | none | v | w | pred | evenV
  deriving DecidableEq, Repr

/-- The fourth operand's field suits its class (R63). -/
def Fourth.fits (q : Fourth) (c : BitVec 7) : Bool :=
  match q with
  | .none => c == 0
  | .v => true
  | .w => c.toNat < 32
  | .pred => c.toNat < 16
  | .evenV => c.toNat % 2 == 0

/-- A base accepts its prefix (R71, R84, R140, R163): a required fourth operand needs one; rm only where the base
rounds or compares; et one of those listed; mz only where a register is written. -/
def prefixFits (p : Option Pfx) (rm : Bool) (ets : List Nat) (q : Fourth) (mz : Bool) : Bool :=
  match p with
  | Option.none => q == .none
  | some p => p.defined && (rm || p.rm == 0) && ets.contains p.et.toNat && q.fits p.c && (mz || !p.mz)

/-- A register pair's number (R63). -/
def evenReg (r : BitVec 7) : Bool := r.toNat % 2 == 0

/-- An integer A form without overrides (R84). -/
def A3Form.plain (f : A3Form) : Bool := prefixFits f.pfx false [0] .none true
def A2Form.plain (f : A2Form) : Bool := prefixFits f.pfx false [0] .none true
def I10Form.plain (f : I10Form) : Bool := prefixFits f.pfx false [0] .none true
def I8Form.plain (f : I8Form) : Bool := prefixFits f.pfx false [0] .none true
def I5Form.plain (f : I5Form) : Bool := prefixFits f.pfx false [0] .none true
def P3Form.plain (f : P3Form) : Bool := prefixFits f.pfx false [0] .none true
/-- A form that rounds, without a fourth operand (R140, R163). -/
def A3Form.rounds (f : A3Form) : Bool := prefixFits f.pfx true [0] .none true
def A2Form.rounds (f : A2Form) : Bool := prefixFits f.pfx true [0] .none true
def S3Form.rounds (f : S3Form) : Bool := prefixFits f.pfx true [0] .none true
def S3Form.plain (f : S3Form) : Bool := prefixFits f.pfx false [0] .none true
/-- d, a and b even (R88, R129). -/
def A3Form.pairs (f : A3Form) : Bool := evenReg f.d && evenReg f.a && evenReg f.b

/-- A 64-bit format of R130. -/
def fmt64 (x : BitVec 4) : Bool := x == 1 || x == 8 || x == 9

/-- R131: the other format is none of the hub's own, and pairs are even. -/
def CvtForm.fits (f : CvtForm) : Bool :=
  f.t != 0 && !(f.t == 1 && f.g.toNat ≥ 2) &&
  (match f.g.toNat with
    | 0 => !fmt64 f.t || evenReg f.d
    | 1 => !fmt64 f.t || evenReg f.a
    | 2 => evenReg f.a && (!fmt64 f.t || evenReg f.d)
    | _ => evenReg f.d && (!fmt64 f.t || evenReg f.a)) &&
  prefixFits f.pfx true [0] .none true

/-- The element width of a format that PACK and UNPACK take, 0 for the others (R134). -/
def packWidth (t : BitVec 4) : Nat :=
  match t.toNat with
  | 2 => 16 | 3 => 16 | 4 => 8 | 5 => 8 | 10 => 16 | 11 => 16 | 12 => 8 | 13 => 8 | 14 => 4 | 15 => 4
  | _ => 0

/-- R134. -/
def PackForm.fits (f : PackForm) : Bool :=
  packWidth f.t != 0 && f.i.toNat < 32 / packWidth f.t && prefixFits f.pfx false [0] .none true

/-- The data register of a memory word suits its size (R63, R65). -/
def dataFits (sz : BitVec 3) (d : BitVec 7) : Bool :=
  match sz.toNat with
  | 5 => evenReg d
  | 6 => d.toNat < 32
  | 7 => false
  | _ => true

/-- A scope code of R66. -/
def scopeFits (p : BitVec 3) : Bool := p.toNat < 6

/-- The ordered forms take .8, .16, .32 and .64 (R103). -/
def orderedSize (sz : BitVec 3) : Bool := sz == 0 || sz == 2 || sz == 4 || sz == 5

/-- An atomic's prefix (R286): c is an order descriptor. `noret` is whether the RED form is meant. -/
def atomicFits (p : Option Pfx) (noret : Bool) (ets : List Nat) : Bool :=
  match p with
  | Option.none => !noret
  | some p => p.defined && p.rm == 0 && ets.contains p.et.toNat && p.c.toNat / 16 < 4 && p.c.getLsbD 3 == noret &&
      p.c.toNat % 8 < 6 && !(noret && p.mz)

/-- Special-register numbers below 0x100 that R92 lists. -/
def sregListed (n : Nat) : Bool := n ≤ 0x11 || (0x20 ≤ n && n ≤ 0x24)

/-- The 64-bit special registers (R92, R93). -/
def sregWide (n : Nat) : Bool :=
  n == 0 || n == 3 || n == 4 || n == 7 || n == 8 || n == 9 || n == 0xA || (0xC ≤ n && n ≤ 0xF) || n == 0x20 || n == 0x23 ||
  n == 0x101 || n == 0x103 || n == 0x104 || n == 0x106 || (0x110 ≤ n && n ≤ 0x11F) || n == 0x121 || n == 0x123 ||
  n == 0x124

/-- A half selector and register that suit a special register's width (R91). -/
def halfFits (n : Nat) (h : BitVec 2) (r : BitVec 7) : Bool :=
  match h.toNat with
  | 0 => !sregWide n || evenReg r
  | 3 => false
  | _ => sregWide n

/-- R91 and R92 for the unprivileged numbers; a privileged number's checks follow the privilege check (R82). -/
def sregFits (s : BitVec 9) (h : BitVec 2) (r : BitVec 7) : Bool :=
  if s.toNat < 0x100 then sregListed s.toNat && halfFits s.toNat h r else h.toNat != 3

/-- A live set within the register files, a zero count having a zero base (R72). -/
def LiveSet.fits (l : LiveSet) : Bool :=
  l.vcount.toNat ≤ 16 && l.wcount.toNat ≤ 8 && l.vbase.toNat + l.vcount.toNat ≤ 128 &&
  l.wbase.toNat + l.wcount.toNat ≤ 32 && (l.vcount != 0 || l.vbase == 0) && (l.wcount != 0 || l.wbase == 0)

/-- A group of four w registers (R162). -/
def groupFits (r : BitVec 5) : Bool := r.toNat ≤ 28

/-- The static legality of an instruction. -/
def Instr.wellFormed : Instr → Bool
  | .nop _ | .exit _ | .yield _ | .rte _ | .syncDie _ | .ret _ | .retsh _ => true
  | .rtePc _ | .tfill _ | .rqcount _ | .rqread _ | .rqwrite _ | .rqdrop _ | .dield _ | .diebank _ | .launch _ => true
  | .trap _ | .bkpt _ => true
  | .tlbinv f => f.m != 3 && evenReg f.p
  | .otinv _ => true
  | .ctxsave f => evenReg f.p
  | .ctxload f => evenReg f.p
  | .br _ | .call _ | .reform _ | .calli _ | .loopImm _ | .loopReg _ => true
  | .reformX f => (match f.live with | some l => l.fits | none => false)
  | .srd f => sregFits f.s f.h f.d
  | .swr f => sregFits f.s f.h f.a
  | .movConst _ => true
  | .iadd f | .isub f => prefixFits f.pfx false [0, 4, 5] .none true
  | .imin f | .imax f => prefixFits f.pfx false [0, 1, 4, 5] .none true
  | .imulh f | .idiv f | .irem f => prefixFits f.pfx false [0, 1] .none true
  | .imul f | .iand f | .ior f | .ixor f | .iandn f | .ishl f | .ishr f | .isar f | .irol f | .ibfx f => f.plain
  | .imad f => prefixFits f.pfx false [0] .v true
  | .imadh f => prefixFits f.pfx false [0, 1] .v true
  | .isad f => prefixFits f.pfx false [0, 1, 5] .v true
  | .iabs f | .ineg f | .ipopc f | .iclz f | .ictz f | .ibrev f | .mov f => f.plain
  | .iadd64 f | .isub64 f => f.pairs && f.plain
  | .ishl64 f | .ishr64 f => evenReg f.d && evenReg f.a && f.plain
  | .iaddi f | .imuli f => f.plain
  | .iandi f | .iori f | .ixori f => f.plain
  | .ishli f | .ishri f | .isari f | .iroli f => f.plain
  | .fadd f | .fsub f | .fmul f | .fdiv f | .fscale f => f.rounds
  | .ffma f => prefixFits f.pfx true [0] .v true
  | .fmin f | .fmax f | .fcopys f | .rand f => f.plain
  | .fsqrt f | .frcp f | .frsq f | .frint f | .ffrac f | .fexp2 f | .flog2 f | .fsin f | .fcos f => f.rounds
  | .fabs f | .fneg f | .ffloor f | .fceil f | .ftrunc f | .fclass f => f.plain
  | .ftab f => prefixFits f.pfx true [0] .none true
  | .ftabld f => prefixFits f.pfx false [0] .none false
  | .ftabbank f => prefixFits f.pfx false [0] .none false
  | .hadd f | .hsub f | .hmul f => prefixFits f.pfx true [0, 2, 3] .none true
  | .hfma f => prefixFits f.pfx true [0, 2, 3] .v true
  | .dadd f | .dsub f | .dmul f => f.pairs && f.rounds
  | .dfma f => f.pairs && prefixFits f.pfx true [0] .evenV true
  | .cvt f | .cvts f => f.fits
  | .pack f | .unpack f => f.fits
  | .icmp f => f.n.toNat < 6 && prefixFits f.pfx false [0, 1] .none true
  | .icmpi f => f.n.toNat < 6 && prefixFits f.pfx false [0, 1] .none true
  | .fcmp f => f.n.toNat < 7 && prefixFits f.pfx true [0] .none true
  | .hcmp f => f.n.toNat < 7 && prefixFits f.pfx true [0, 2, 3] .none true
  | .dcmp f => f.n.toNat < 7 && evenReg f.a && evenReg f.b && prefixFits f.pfx true [0] .none true
  | .pand f | .por f | .pxor f | .pandn f => f.plain
  | .sel f => prefixFits f.pfx false [0] .pred true
  | .ktov f => prefixFits f.pfx false [0] .none true
  | .vtok f => prefixFits f.pfx false [0] .none true
  | .ld f => dataFits f.sz f.d && prefixFits f.pfx false [0] .none true
  | .st f => f.sz != 1 && f.sz != 3 && dataFits f.sz f.d && prefixFits f.pfx false [0] .none false
  | .ldAcq f => orderedSize f.sz && dataFits f.sz f.d && scopeFits f.p && prefixFits f.pfx false [0] .none true
  | .stRel f => orderedSize f.sz && dataFits f.sz f.d && scopeFits f.p && prefixFits f.pfx false [0] .none false
  | .waitv f => prefixFits f.pfx false [0] .none false
  | .atomAdd f | .atomExch f | .atomAnd f | .atomOr f | .atomXor f => atomicFits f.pfx false [0]
  | .atomMin f | .atomMax f => atomicFits f.pfx false [0, 1]
  | .atomCas f => evenReg f.b && atomicFits f.pfx false [0]
  | .redAdd f | .redAnd f | .redOr f | .redXor f => atomicFits f.pfx true [0]
  | .redMin f | .redMax f => atomicFits f.pfx true [0, 1]
  | .fence f => scopeFits f.p
  | .tfence f => scopeFits f.p
  | .qfence f => f.a != 0 && f.b != 0
  | .barArrive _ | .barWait _ | .barSync _ => true
  | .cvdecl _ => true
  | .abarInit _ | .abarArrive _ | .abarWait _ | .abarTest _ => true
  | .qpush _ | .qpop _ | .qcount _ | .qclose _ => true
  | .sadd f | .ssub f | .smul f | .sdiv f => f.rounds
  | .sfma f => prefixFits f.pfx true [0] .w true
  | .smin f | .smax f => f.plain
  | .ssel f => prefixFits f.pfx false [0] .v true
  | .ssqrt f | .sexp f => prefixFits f.pfx true [0] .none true
  | .shsum f => prefixFits f.pfx true [0] .none true
  | .sdot f => prefixFits f.pfx true [0] .none true
  | .sbcast f => prefixFits f.pfx false [0] .none true
  | .slane f => prefixFits f.pfx false [0] .none true
  | .sins f => prefixFits f.pfx false [0] .none true
  | .scmp f => f.n.toNat < 7 && prefixFits f.pfx false [0] .none true
  | .scvtNarrow f => (f.f.toNat ≥ 2 || evenReg f.d) && prefixFits f.pfx true [0] .none true
  | .scvtWiden f => (f.f.toNat ≥ 2 || evenReg f.a) && prefixFits f.pfx true [0] .none true
  | .swls f => f.n.toNat ≤ 62 && prefixFits f.pfx true [0] .none true
  | .spol f | .smdiel f => groupFits f.d && groupFits f.a && groupFits f.b && f.rounds
  | .sfres f => groupFits f.d && prefixFits f.pfx true [0] .none true
  | .filmAdd f => f.obj.isSome
  | .filmRd f => f.obj.isSome
  | .rast f => f.obj.isSome
  | .visrd f => f.obj.isSome && evenReg f.d
  | .trace f | .tracea f => f.obj.isSome && evenReg f.d && f.a.toNat ≤ 30
  | .callsh _ => true
  | .stex f | .stexup f | .scmf f => f.obj.isSome
  | .cast f | .castT8 f | .castT16 f => f.obj.isSome
  | .castw f | .castwCb3 f => f.obj.isSome
  | .casttab f => f.obj.isSome
  | .mma f => f.obj.isSome
  | .mmas f => f.obj.isSome
  | .accz _ => true
  | .accld f | .mseq f => f.obj.isSome
  | .accst f | .accstAdd f => f.obj.isSome && f.k != 3
  | .accrd f => evenReg f.d
  | .rmaxW f | .rminW f | .rmedW f => f.obj.isSome
  | .rclampW f => f.obj.isSome && f.a.toNat % 2 == 0
  | .rssumW f => f.obj.isSome && f.a.toNat ≤ 29
  | .adjb f => f.obj.isSome && f.a.toNat % 2 == 0
  | .wrel _ => true
  | .rmaxWCr f | .rminWCr f => evenReg f.d && f.t != 3
  | .rmedWCr f => evenReg f.d && f.t == 0
  | .rclampWCr f | .rssumWCr f => evenReg f.d && f.t == 0 && f.a.toNat ≤ 29
  | .fcoll f | .fwin f => evenReg f.a
  | .fsend f => evenReg f.a && f.a.toNat ≤ 124
  | .stamp _ => true
  | _ => true

end Sys2Proof
end

