-- ==== Sys2Proof/Decode.lean ====
section
/-! DEFINITION. The decoder and the encoder (spec/04_encoding.md R55 to R82). A word is a `Nat` below 2 to the 32.
`decodeBase` finds a word's row by its fixed bits, as the opcode table gives them; `decodeWords` binds prefix, object and
live words to the base that follows (R69, R71, R72) and refuses by name. The conditions that a word's own fields
must meet beyond its fixed bits are `Instr.wellFormed`'s. -/
namespace Sys2Proof

/-- The `n` bits of `w` from bit `lo` up (R3). -/
def bitsAt (w lo n : Nat) : BitVec n := BitVec.ofNat n (w / 2 ^ lo)

/-- Bit `i` of `w`. -/
def bitAt (w i : Nat) : Bool := w / 2 ^ i % 2 == 1

/-- Why the decoder gives no instruction. Each is the ILLEG of R71, R72 or R82. -/
inductive DecodeError where
  /-- no word to decode: a bound word stands in word 2 (R71, R72) -/
  | noWord
  /-- the word's major or sub-function is not assigned, or a fixed field is not zero (R82) -/
  | unassigned
  /-- a prefix word with C set, a reserved bit set, or rm or et not defined (R69) -/
  | badPrefix
  /-- a prefix before a base that takes none, or before another bound word or a stamp (R71, R77) -/
  | prefixRefused
  /-- an object word with C set, or before a base that takes none (R72, R77) -/
  | objectRefused
  /-- a live word with C or bit 0 set, or not before REFORM.X (R72) -/
  | liveRefused
  deriving DecidableEq, Repr

/-- One row of the opcode table: the fixed fields (low bit, width, value), which bound words the base takes, and the
instruction its other fields give. -/
structure Row where
  fixed : List (Nat × Nat × Nat)
  pfx : Bool
  obj : Bool
  live : Bool
  build : Bound → Nat → Instr

/-- The word has the row's fixed fields. -/
def Row.matches (r : Row) (w : Nat) : Bool :=
  r.fixed.all fun t => w / 2 ^ t.1 % 2 ^ t.2.1 == t.2.2

/-- The Bare fields of a word. -/
def BareForm.ofWord (_ : Bound) (w : Nat) : BareForm :=
  { c := bitAt w 31 }

/-- The Bare fields as bits of a word. -/
def BareForm.bits (f : BareForm) : Nat :=
  f.c.toNat * 2147483648

/-- The RegA fields of a word. -/
def RegAForm.ofWord (_ : Bound) (w : Nat) : RegAForm :=
  { c := bitAt w 31, a := bitsAt w 0 7 }

/-- The RegA fields as bits of a word. -/
def RegAForm.bits (f : RegAForm) : Nat :=
  f.c.toNat * 2147483648 + f.a.toNat

/-- The RegD fields of a word. -/
def RegDForm.ofWord (_ : Bound) (w : Nat) : RegDForm :=
  { c := bitAt w 31, d := bitsAt w 0 7 }

/-- The RegD fields as bits of a word. -/
def RegDForm.bits (f : RegDForm) : Nat :=
  f.c.toNat * 2147483648 + f.d.toNat

/-- The RqRead fields of a word. -/
def RqReadForm.ofWord (_ : Bound) (w : Nat) : RqReadForm :=
  { c := bitAt w 31, f := bitsAt w 12 4, e := bitsAt w 8 4, d := bitsAt w 0 7 }

/-- The RqRead fields as bits of a word. -/
def RqReadForm.bits (f : RqReadForm) : Nat :=
  f.c.toNat * 2147483648 + f.f.toNat * 4096 + f.e.toNat * 256 + f.d.toNat

/-- The RqWrite fields of a word. -/
def RqWriteForm.ofWord (_ : Bound) (w : Nat) : RqWriteForm :=
  { c := bitAt w 31, f := bitsAt w 12 4, e := bitsAt w 8 4, a := bitsAt w 0 7 }

/-- The RqWrite fields as bits of a word. -/
def RqWriteForm.bits (f : RqWriteForm) : Nat :=
  f.c.toNat * 2147483648 + f.f.toNat * 4096 + f.e.toNat * 256 + f.a.toNat

/-- The RqDrop fields of a word. -/
def RqDropForm.ofWord (_ : Bound) (w : Nat) : RqDropForm :=
  { c := bitAt w 31, e := bitsAt w 8 4 }

/-- The RqDrop fields as bits of a word. -/
def RqDropForm.bits (f : RqDropForm) : Nat :=
  f.c.toNat * 2147483648 + f.e.toNat * 256

/-- The Bank fields of a word. -/
def BankForm.ofWord (_ : Bound) (w : Nat) : BankForm :=
  { c := bitAt w 31, k := bitsAt w 0 1 }

/-- The Bank fields as bits of a word. -/
def BankForm.bits (f : BankForm) : Nat :=
  f.c.toNat * 2147483648 + f.k.toNat

/-- The LaunchW fields of a word. -/
def LaunchWForm.ofWord (_ : Bound) (w : Nat) : LaunchWForm :=
  { c := bitAt w 31, d := bitsAt w 7 7, a := bitsAt w 0 7 }

/-- The LaunchW fields as bits of a word. -/
def LaunchWForm.bits (f : LaunchWForm) : Nat :=
  f.c.toNat * 2147483648 + f.d.toNat * 128 + f.a.toNat

/-- The Code fields of a word. -/
def CodeForm.ofWord (_ : Bound) (w : Nat) : CodeForm :=
  { c := bitAt w 31, n := bitsAt w 0 16 }

/-- The Code fields as bits of a word. -/
def CodeForm.bits (f : CodeForm) : Nat :=
  f.c.toNat * 2147483648 + f.n.toNat

/-- The Tlbinv fields of a word. -/
def TlbinvForm.ofWord (_ : Bound) (w : Nat) : TlbinvForm :=
  { c := bitAt w 31, m := bitsAt w 7 2, p := bitsAt w 0 7 }

/-- The Tlbinv fields as bits of a word. -/
def TlbinvForm.bits (f : TlbinvForm) : Nat :=
  f.c.toNat * 2147483648 + f.m.toNat * 128 + f.p.toNat

/-- The Otinv fields of a word. -/
def OtinvForm.ofWord (_ : Bound) (w : Nat) : OtinvForm :=
  { c := bitAt w 31, l := bitsAt w 7 1, o := bitsAt w 0 7 }

/-- The Otinv fields as bits of a word. -/
def OtinvForm.bits (f : OtinvForm) : Nat :=
  f.c.toNat * 2147483648 + f.l.toNat * 128 + f.o.toNat

/-- The CtxReg fields of a word. -/
def CtxRegForm.ofWord (_ : Bound) (w : Nat) : CtxRegForm :=
  { c := bitAt w 31, p := bitsAt w 0 7 }

/-- The CtxReg fields as bits of a word. -/
def CtxRegForm.bits (f : CtxRegForm) : Nat :=
  f.c.toNat * 2147483648 + f.p.toNat

/-- The Br fields of a word. -/
def BrForm.ofWord (_ : Bound) (w : Nat) : BrForm :=
  { c := bitAt w 31, k := bitsAt w 18 4, n := bitsAt w 17 1, o := bitsAt w 0 14 }

/-- The Br fields as bits of a word. -/
def BrForm.bits (f : BrForm) : Nat :=
  f.c.toNat * 2147483648 + f.k.toNat * 262144 + f.n.toNat * 131072 + f.o.toNat

/-- The Call fields of a word. -/
def CallForm.ofWord (_ : Bound) (w : Nat) : CallForm :=
  { c := bitAt w 31, o := bitsAt w 0 14 }

/-- The Call fields as bits of a word. -/
def CallForm.bits (f : CallForm) : Nat :=
  f.c.toNat * 2147483648 + f.o.toNat

/-- The Reform fields of a word. -/
def ReformForm.ofWord (_ : Bound) (w : Nat) : ReformForm :=
  { c := bitAt w 31, x := bitAt w 21, r := bitsAt w 14 7, o := bitsAt w 0 14 }

/-- The Reform fields as bits of a word. -/
def ReformForm.bits (f : ReformForm) : Nat :=
  f.c.toNat * 2147483648 + f.x.toNat * 2097152 + f.r.toNat * 16384 + f.o.toNat

/-- The ReformX fields of a word. -/
def ReformXForm.ofWord (b : Bound) (w : Nat) : ReformXForm :=
  { live := b.live, c := bitAt w 31, x := bitAt w 21, r := bitsAt w 14 7, o := bitsAt w 0 14 }

/-- The ReformX fields as bits of a word. -/
def ReformXForm.bits (f : ReformXForm) : Nat :=
  f.c.toNat * 2147483648 + f.x.toNat * 2097152 + f.r.toNat * 16384 + f.o.toNat

/-- The Calli fields of a word. -/
def CalliForm.ofWord (_ : Bound) (w : Nat) : CalliForm :=
  { c := bitAt w 31, x := bitAt w 21, a := bitsAt w 14 7 }

/-- The Calli fields as bits of a word. -/
def CalliForm.bits (f : CalliForm) : Nat :=
  f.c.toNat * 2147483648 + f.x.toNat * 2097152 + f.a.toNat * 16384

/-- The LoopI fields of a word. -/
def LoopIForm.ofWord (_ : Bound) (w : Nat) : LoopIForm :=
  { c := bitAt w 31, n := bitsAt w 10 12, l := bitsAt w 0 10 }

/-- The LoopI fields as bits of a word. -/
def LoopIForm.bits (f : LoopIForm) : Nat :=
  f.c.toNat * 2147483648 + f.n.toNat * 1024 + f.l.toNat

/-- The LoopR fields of a word. -/
def LoopRForm.ofWord (_ : Bound) (w : Nat) : LoopRForm :=
  { c := bitAt w 31, x := bitAt w 22, a := bitsAt w 10 7, l := bitsAt w 0 10 }

/-- The LoopR fields as bits of a word. -/
def LoopRForm.bits (f : LoopRForm) : Nat :=
  f.c.toNat * 2147483648 + f.x.toNat * 4194304 + f.a.toNat * 1024 + f.l.toNat

/-- The Srd fields of a word. -/
def SrdForm.ofWord (_ : Bound) (w : Nat) : SrdForm :=
  { c := bitAt w 31, s := bitsAt w 16 9, h := bitsAt w 7 2, d := bitsAt w 0 7 }

/-- The Srd fields as bits of a word. -/
def SrdForm.bits (f : SrdForm) : Nat :=
  f.c.toNat * 2147483648 + f.s.toNat * 65536 + f.h.toNat * 128 + f.d.toNat

/-- The Swr fields of a word. -/
def SwrForm.ofWord (_ : Bound) (w : Nat) : SwrForm :=
  { c := bitAt w 31, s := bitsAt w 16 9, h := bitsAt w 7 2, a := bitsAt w 0 7 }

/-- The Swr fields as bits of a word. -/
def SwrForm.bits (f : SwrForm) : Nat :=
  f.c.toNat * 2147483648 + f.s.toNat * 65536 + f.h.toNat * 128 + f.a.toNat

/-- The MovC fields of a word. -/
def MovCForm.ofWord (_ : Bound) (w : Nat) : MovCForm :=
  { c := bitAt w 31, n := bitsAt w 16 6, d := bitsAt w 0 7 }

/-- The MovC fields as bits of a word. -/
def MovCForm.bits (f : MovCForm) : Nat :=
  f.c.toNat * 2147483648 + f.n.toNat * 65536 + f.d.toNat

/-- The A3 fields of a word. -/
def A3Form.ofWord (b : Bound) (w : Nat) : A3Form :=
  { pfx := b.pfx, c := bitAt w 31, d := bitsAt w 18 7, a := bitsAt w 11 7, b := bitsAt w 4 7, x := bitAt w 1, y := bitAt w 0 }

/-- The A3 fields as bits of a word. -/
def A3Form.bits (f : A3Form) : Nat :=
  f.c.toNat * 2147483648 + f.d.toNat * 262144 + f.a.toNat * 2048 + f.b.toNat * 16 + f.x.toNat * 2 + f.y.toNat * 1

/-- The A2 fields of a word. -/
def A2Form.ofWord (b : Bound) (w : Nat) : A2Form :=
  { pfx := b.pfx, c := bitAt w 31, d := bitsAt w 18 7, a := bitsAt w 11 7, x := bitAt w 1 }

/-- The A2 fields as bits of a word. -/
def A2Form.bits (f : A2Form) : Nat :=
  f.c.toNat * 2147483648 + f.d.toNat * 262144 + f.a.toNat * 2048 + f.x.toNat * 2

/-- The I10 fields of a word. -/
def I10Form.ofWord (b : Bound) (w : Nat) : I10Form :=
  { pfx := b.pfx, c := bitAt w 31, d := bitsAt w 18 7, a := bitsAt w 11 7, x := bitAt w 10, i := bitsAt w 0 10 }

/-- The I10 fields as bits of a word. -/
def I10Form.bits (f : I10Form) : Nat :=
  f.c.toNat * 2147483648 + f.d.toNat * 262144 + f.a.toNat * 2048 + f.x.toNat * 1024 + f.i.toNat

/-- The I8 fields of a word. -/
def I8Form.ofWord (b : Bound) (w : Nat) : I8Form :=
  { pfx := b.pfx, c := bitAt w 31, d := bitsAt w 18 7, a := bitsAt w 11 7, x := bitAt w 10, i := bitsAt w 0 8 }

/-- The I8 fields as bits of a word. -/
def I8Form.bits (f : I8Form) : Nat :=
  f.c.toNat * 2147483648 + f.d.toNat * 262144 + f.a.toNat * 2048 + f.x.toNat * 1024 + f.i.toNat

/-- The I5 fields of a word. -/
def I5Form.ofWord (b : Bound) (w : Nat) : I5Form :=
  { pfx := b.pfx, c := bitAt w 31, d := bitsAt w 18 7, a := bitsAt w 11 7, x := bitAt w 10, n := bitsAt w 0 5 }

/-- The I5 fields as bits of a word. -/
def I5Form.bits (f : I5Form) : Nat :=
  f.c.toNat * 2147483648 + f.d.toNat * 262144 + f.a.toNat * 2048 + f.x.toNat * 1024 + f.n.toNat

/-- The Ftab fields of a word. -/
def FtabForm.ofWord (b : Bound) (w : Nat) : FtabForm :=
  { pfx := b.pfx, c := bitAt w 31, d := bitsAt w 18 7, a := bitsAt w 11 7, t := bitsAt w 4 2, x := bitAt w 1 }

/-- The Ftab fields as bits of a word. -/
def FtabForm.bits (f : FtabForm) : Nat :=
  f.c.toNat * 2147483648 + f.d.toNat * 262144 + f.a.toNat * 2048 + f.t.toNat * 16 + f.x.toNat * 2

/-- The FtabLd fields of a word. -/
def FtabLdForm.ofWord (b : Bound) (w : Nat) : FtabLdForm :=
  { pfx := b.pfx, c := bitAt w 31, a := bitsAt w 11 7, k := bitsAt w 6 1, t := bitsAt w 4 2, x := bitAt w 1 }

/-- The FtabLd fields as bits of a word. -/
def FtabLdForm.bits (f : FtabLdForm) : Nat :=
  f.c.toNat * 2147483648 + f.a.toNat * 2048 + f.k.toNat * 64 + f.t.toNat * 16 + f.x.toNat * 2

/-- The FtabBank fields of a word. -/
def FtabBankForm.ofWord (b : Bound) (w : Nat) : FtabBankForm :=
  { pfx := b.pfx, c := bitAt w 31, k := bitsAt w 6 1, t := bitsAt w 4 2 }

/-- The FtabBank fields as bits of a word. -/
def FtabBankForm.bits (f : FtabBankForm) : Nat :=
  f.c.toNat * 2147483648 + f.k.toNat * 64 + f.t.toNat * 16

/-- The Cvt fields of a word. -/
def CvtForm.ofWord (b : Bound) (w : Nat) : CvtForm :=
  { pfx := b.pfx, c := bitAt w 31, d := bitsAt w 18 7, a := bitsAt w 11 7, g := bitsAt w 9 2, t := bitsAt w 5 4, x := bitAt w 1 }

/-- The Cvt fields as bits of a word. -/
def CvtForm.bits (f : CvtForm) : Nat :=
  f.c.toNat * 2147483648 + f.d.toNat * 262144 + f.a.toNat * 2048 + f.g.toNat * 512 + f.t.toNat * 32 + f.x.toNat * 2

/-- The Pack fields of a word. -/
def PackForm.ofWord (b : Bound) (w : Nat) : PackForm :=
  { pfx := b.pfx, c := bitAt w 31, d := bitsAt w 18 7, a := bitsAt w 11 7, t := bitsAt w 7 4, i := bitsAt w 4 3, x := bitAt w 1 }

/-- The Pack fields as bits of a word. -/
def PackForm.bits (f : PackForm) : Nat :=
  f.c.toNat * 2147483648 + f.d.toNat * 262144 + f.a.toNat * 2048 + f.t.toNat * 128 + f.i.toNat * 16 + f.x.toNat * 2

/-- The Cmp fields of a word. -/
def CmpForm.ofWord (b : Bound) (w : Nat) : CmpForm :=
  { pfx := b.pfx, c := bitAt w 31, n := bitsAt w 22 3, k := bitsAt w 18 4, a := bitsAt w 11 7, b := bitsAt w 4 7, x := bitAt w 1, y := bitAt w 0 }

/-- The Cmp fields as bits of a word. -/
def CmpForm.bits (f : CmpForm) : Nat :=
  f.c.toNat * 2147483648 + f.n.toNat * 4194304 + f.k.toNat * 262144 + f.a.toNat * 2048 + f.b.toNat * 16 + f.x.toNat * 2 + f.y.toNat * 1

/-- The CmpI fields of a word. -/
def CmpIForm.ofWord (b : Bound) (w : Nat) : CmpIForm :=
  { pfx := b.pfx, c := bitAt w 31, n := bitsAt w 22 3, k := bitsAt w 18 4, a := bitsAt w 11 7, x := bitAt w 10, i := bitsAt w 0 10 }

/-- The CmpI fields as bits of a word. -/
def CmpIForm.bits (f : CmpIForm) : Nat :=
  f.c.toNat * 2147483648 + f.n.toNat * 4194304 + f.k.toNat * 262144 + f.a.toNat * 2048 + f.x.toNat * 1024 + f.i.toNat

/-- The P3 fields of a word. -/
def P3Form.ofWord (b : Bound) (w : Nat) : P3Form :=
  { pfx := b.pfx, c := bitAt w 31, d := bitsAt w 18 4, a := bitsAt w 11 4, b := bitsAt w 4 4 }

/-- The P3 fields as bits of a word. -/
def P3Form.bits (f : P3Form) : Nat :=
  f.c.toNat * 2147483648 + f.d.toNat * 262144 + f.a.toNat * 2048 + f.b.toNat * 16

/-- The Ktov fields of a word. -/
def KtovForm.ofWord (b : Bound) (w : Nat) : KtovForm :=
  { pfx := b.pfx, c := bitAt w 31, d := bitsAt w 18 7, a := bitsAt w 11 4 }

/-- The Ktov fields as bits of a word. -/
def KtovForm.bits (f : KtovForm) : Nat :=
  f.c.toNat * 2147483648 + f.d.toNat * 262144 + f.a.toNat * 2048

/-- The Vtok fields of a word. -/
def VtokForm.ofWord (b : Bound) (w : Nat) : VtokForm :=
  { pfx := b.pfx, c := bitAt w 31, d := bitsAt w 18 4, a := bitsAt w 11 7, x := bitAt w 1 }

/-- The Vtok fields as bits of a word. -/
def VtokForm.bits (f : VtokForm) : Nat :=
  f.c.toNat * 2147483648 + f.d.toNat * 262144 + f.a.toNat * 2048 + f.x.toNat * 2

/-- The Mem fields of a word. -/
def MemForm.ofWord (b : Bound) (w : Nat) : MemForm :=
  { pfx := b.pfx, c := bitAt w 31, sz := BitVec.ofNat 3 (w / 2 ^ 25 % 2 * 4 + w / 2 ^ 8 % 4), d := bitsAt w 18 7, b := bitsAt w 11 7, y := bitAt w 10, o := bitsAt w 0 8 }

/-- The Mem fields as bits of a word. -/
def MemForm.bits (f : MemForm) : Nat :=
  f.c.toNat * 2147483648 + f.sz.toNat / 4 * 33554432 + f.sz.toNat % 4 * 256 + f.d.toNat * 262144 + f.b.toNat * 2048 + f.y.toNat * 1024 + f.o.toNat

/-- The MemO fields of a word. -/
def MemOForm.ofWord (b : Bound) (w : Nat) : MemOForm :=
  { pfx := b.pfx, c := bitAt w 31, sz := BitVec.ofNat 3 (w / 2 ^ 25 % 2 * 4 + w / 2 ^ 8 % 4), d := bitsAt w 18 7, b := bitsAt w 11 7, y := bitAt w 10, p := bitsAt w 0 3 }

/-- The MemO fields as bits of a word. -/
def MemOForm.bits (f : MemOForm) : Nat :=
  f.c.toNat * 2147483648 + f.sz.toNat / 4 * 33554432 + f.sz.toNat % 4 * 256 + f.d.toNat * 262144 + f.b.toNat * 2048 + f.y.toNat * 1024 + f.p.toNat

/-- The Waitv fields of a word. -/
def WaitvForm.ofWord (b : Bound) (w : Nat) : WaitvForm :=
  { pfx := b.pfx, c := bitAt w 31, d := bitsAt w 18 7, b := bitsAt w 11 7, y := bitAt w 10 }

/-- The Waitv fields as bits of a word. -/
def WaitvForm.bits (f : WaitvForm) : Nat :=
  f.c.toNat * 2147483648 + f.d.toNat * 262144 + f.b.toNat * 2048 + f.y.toNat * 1024

/-- The Red fields of a word. -/
def RedForm.ofWord (b : Bound) (w : Nat) : RedForm :=
  { pfx := b.pfx, c := bitAt w 31, a := bitsAt w 11 7, b := bitsAt w 4 7, x := bitAt w 1, y := bitAt w 0 }

/-- The Red fields as bits of a word. -/
def RedForm.bits (f : RedForm) : Nat :=
  f.c.toNat * 2147483648 + f.a.toNat * 2048 + f.b.toNat * 16 + f.x.toNat * 2 + f.y.toNat * 1

/-- The Scope fields of a word. -/
def ScopeForm.ofWord (_ : Bound) (w : Nat) : ScopeForm :=
  { c := bitAt w 31, p := bitsAt w 0 3 }

/-- The Scope fields as bits of a word. -/
def ScopeForm.bits (f : ScopeForm) : Nat :=
  f.c.toNat * 2147483648 + f.p.toNat

/-- The Qfence fields of a word. -/
def QfenceForm.ofWord (_ : Bound) (w : Nat) : QfenceForm :=
  { c := bitAt w 31, a := bitsAt w 7 7, b := bitsAt w 0 7 }

/-- The Qfence fields as bits of a word. -/
def QfenceForm.bits (f : QfenceForm) : Nat :=
  f.c.toNat * 2147483648 + f.a.toNat * 128 + f.b.toNat

/-- The Bar fields of a word. -/
def BarForm.ofWord (_ : Bound) (w : Nat) : BarForm :=
  { c := bitAt w 31, n := bitsAt w 0 8 }

/-- The Bar fields as bits of a word. -/
def BarForm.bits (f : BarForm) : Nat :=
  f.c.toNat * 2147483648 + f.n.toNat

/-- The Cvdecl fields of a word. -/
def CvdeclForm.ofWord (_ : Bound) (w : Nat) : CvdeclForm :=
  { c := bitAt w 31, n := bitsAt w 16 6, k := bitsAt w 0 10 }

/-- The Cvdecl fields as bits of a word. -/
def CvdeclForm.bits (f : CvdeclForm) : Nat :=
  f.c.toNat * 2147483648 + f.n.toNat * 65536 + f.k.toNat

/-- The Abar fields of a word. -/
def AbarForm.ofWord (_ : Bound) (w : Nat) : AbarForm :=
  { c := bitAt w 31, r := bitsAt w 16 7, o := bitsAt w 0 16 }

/-- The Abar fields as bits of a word. -/
def AbarForm.bits (f : AbarForm) : Nat :=
  f.c.toNat * 2147483648 + f.r.toNat * 65536 + f.o.toNat

/-- The Qpush fields of a word. -/
def QpushForm.ofWord (_ : Bound) (w : Nat) : QpushForm :=
  { c := bitAt w 31, a := bitsAt w 16 7, q := bitsAt w 0 5 }

/-- The Qpush fields as bits of a word. -/
def QpushForm.bits (f : QpushForm) : Nat :=
  f.c.toNat * 2147483648 + f.a.toNat * 65536 + f.q.toNat

/-- The Qget fields of a word. -/
def QgetForm.ofWord (_ : Bound) (w : Nat) : QgetForm :=
  { c := bitAt w 31, d := bitsAt w 16 7, q := bitsAt w 0 5 }

/-- The Qget fields as bits of a word. -/
def QgetForm.bits (f : QgetForm) : Nat :=
  f.c.toNat * 2147483648 + f.d.toNat * 65536 + f.q.toNat

/-- The Qclose fields of a word. -/
def QcloseForm.ofWord (_ : Bound) (w : Nat) : QcloseForm :=
  { c := bitAt w 31, q := bitsAt w 0 5 }

/-- The Qclose fields as bits of a word. -/
def QcloseForm.bits (f : QcloseForm) : Nat :=
  f.c.toNat * 2147483648 + f.q.toNat

/-- The S3 fields of a word. -/
def S3Form.ofWord (b : Bound) (w : Nat) : S3Form :=
  { pfx := b.pfx, c := bitAt w 31, d := bitsAt w 18 5, a := bitsAt w 11 5, b := bitsAt w 4 5, x := bitAt w 1, y := bitAt w 0 }

/-- The S3 fields as bits of a word. -/
def S3Form.bits (f : S3Form) : Nat :=
  f.c.toNat * 2147483648 + f.d.toNat * 262144 + f.a.toNat * 2048 + f.b.toNat * 16 + f.x.toNat * 2 + f.y.toNat * 1

/-- The S2 fields of a word. -/
def S2Form.ofWord (b : Bound) (w : Nat) : S2Form :=
  { pfx := b.pfx, c := bitAt w 31, d := bitsAt w 18 5, a := bitsAt w 11 5, x := bitAt w 1 }

/-- The S2 fields as bits of a word. -/
def S2Form.bits (f : S2Form) : Nat :=
  f.c.toNat * 2147483648 + f.d.toNat * 262144 + f.a.toNat * 2048 + f.x.toNat * 2

/-- The SToV fields of a word. -/
def SToVForm.ofWord (b : Bound) (w : Nat) : SToVForm :=
  { pfx := b.pfx, c := bitAt w 31, d := bitsAt w 18 7, a := bitsAt w 11 5, x := bitAt w 1 }

/-- The SToV fields as bits of a word. -/
def SToVForm.bits (f : SToVForm) : Nat :=
  f.c.toNat * 2147483648 + f.d.toNat * 262144 + f.a.toNat * 2048 + f.x.toNat * 2

/-- The Sdot fields of a word. -/
def SdotForm.ofWord (b : Bound) (w : Nat) : SdotForm :=
  { pfx := b.pfx, c := bitAt w 31, d := bitsAt w 18 7, a := bitsAt w 11 5, b := bitsAt w 4 5, x := bitAt w 1, y := bitAt w 0 }

/-- The Sdot fields as bits of a word. -/
def SdotForm.bits (f : SdotForm) : Nat :=
  f.c.toNat * 2147483648 + f.d.toNat * 262144 + f.a.toNat * 2048 + f.b.toNat * 16 + f.x.toNat * 2 + f.y.toNat * 1

/-- The VToS fields of a word. -/
def VToSForm.ofWord (b : Bound) (w : Nat) : VToSForm :=
  { pfx := b.pfx, c := bitAt w 31, d := bitsAt w 18 5, a := bitsAt w 11 7, x := bitAt w 1 }

/-- The VToS fields as bits of a word. -/
def VToSForm.bits (f : VToSForm) : Nat :=
  f.c.toNat * 2147483648 + f.d.toNat * 262144 + f.a.toNat * 2048 + f.x.toNat * 2

/-- The Slane fields of a word. -/
def SlaneForm.ofWord (b : Bound) (w : Nat) : SlaneForm :=
  { pfx := b.pfx, c := bitAt w 31, d := bitsAt w 18 7, a := bitsAt w 11 5, i := bitsAt w 4 2, x := bitAt w 1 }

/-- The Slane fields as bits of a word. -/
def SlaneForm.bits (f : SlaneForm) : Nat :=
  f.c.toNat * 2147483648 + f.d.toNat * 262144 + f.a.toNat * 2048 + f.i.toNat * 16 + f.x.toNat * 2

/-- The Sins fields of a word. -/
def SinsForm.ofWord (b : Bound) (w : Nat) : SinsForm :=
  { pfx := b.pfx, c := bitAt w 31, d := bitsAt w 18 5, a := bitsAt w 11 7, i := bitsAt w 4 2, x := bitAt w 1 }

/-- The Sins fields as bits of a word. -/
def SinsForm.bits (f : SinsForm) : Nat :=
  f.c.toNat * 2147483648 + f.d.toNat * 262144 + f.a.toNat * 2048 + f.i.toNat * 16 + f.x.toNat * 2

/-- The Scmp fields of a word. -/
def ScmpForm.ofWord (b : Bound) (w : Nat) : ScmpForm :=
  { pfx := b.pfx, c := bitAt w 31, n := bitsAt w 22 3, d := bitsAt w 18 4, a := bitsAt w 11 5, b := bitsAt w 4 5, x := bitAt w 1, y := bitAt w 0 }

/-- The Scmp fields as bits of a word. -/
def ScmpForm.bits (f : ScmpForm) : Nat :=
  f.c.toNat * 2147483648 + f.n.toNat * 4194304 + f.d.toNat * 262144 + f.a.toNat * 2048 + f.b.toNat * 16 + f.x.toNat * 2 + f.y.toNat * 1

/-- The ScvtN fields of a word. -/
def ScvtNForm.ofWord (b : Bound) (w : Nat) : ScvtNForm :=
  { pfx := b.pfx, c := bitAt w 31, d := bitsAt w 18 7, a := bitsAt w 11 5, t := bitsAt w 7 1, f := bitsAt w 5 2, x := bitAt w 1 }

/-- The ScvtN fields as bits of a word. -/
def ScvtNForm.bits (f : ScvtNForm) : Nat :=
  f.c.toNat * 2147483648 + f.d.toNat * 262144 + f.a.toNat * 2048 + f.t.toNat * 128 + f.f.toNat * 32 + f.x.toNat * 2

/-- The ScvtW fields of a word. -/
def ScvtWForm.ofWord (b : Bound) (w : Nat) : ScvtWForm :=
  { pfx := b.pfx, c := bitAt w 31, d := bitsAt w 18 5, a := bitsAt w 11 7, f := bitsAt w 5 2, x := bitAt w 1 }

/-- The ScvtW fields as bits of a word. -/
def ScvtWForm.bits (f : ScvtWForm) : Nat :=
  f.c.toNat * 2147483648 + f.d.toNat * 262144 + f.a.toNat * 2048 + f.f.toNat * 32 + f.x.toNat * 2

/-- The Swls fields of a word. -/
def SwlsForm.ofWord (b : Bound) (w : Nat) : SwlsForm :=
  { pfx := b.pfx, c := bitAt w 31, d := bitsAt w 18 5, a := bitsAt w 11 7, n := bitsAt w 4 6, x := bitAt w 1 }

/-- The Swls fields as bits of a word. -/
def SwlsForm.bits (f : SwlsForm) : Nat :=
  f.c.toNat * 2147483648 + f.d.toNat * 262144 + f.a.toNat * 2048 + f.n.toNat * 16 + f.x.toNat * 2

/-- The Sfres fields of a word. -/
def SfresForm.ofWord (b : Bound) (w : Nat) : SfresForm :=
  { pfx := b.pfx, c := bitAt w 31, d := bitsAt w 18 5, a := bitsAt w 11 7, b := bitsAt w 4 5, x := bitAt w 1, y := bitAt w 0 }

/-- The Sfres fields as bits of a word. -/
def SfresForm.bits (f : SfresForm) : Nat :=
  f.c.toNat * 2147483648 + f.d.toNat * 262144 + f.a.toNat * 2048 + f.b.toNat * 16 + f.x.toNat * 2 + f.y.toNat * 1

/-- The FilmAdd fields of a word. -/
def FilmAddForm.ofWord (b : Bound) (w : Nat) : FilmAddForm :=
  { obj := b.obj, c := bitAt w 31, a := bitsAt w 16 7, b := bitsAt w 11 5, e := bitsAt w 6 5 }

/-- The FilmAdd fields as bits of a word. -/
def FilmAddForm.bits (f : FilmAddForm) : Nat :=
  f.c.toNat * 2147483648 + f.a.toNat * 65536 + f.b.toNat * 2048 + f.e.toNat * 64

/-- The Film3 fields of a word. -/
def Film3Form.ofWord (b : Bound) (w : Nat) : Film3Form :=
  { obj := b.obj, c := bitAt w 31, d := bitsAt w 16 7, a := bitsAt w 9 7, b := bitsAt w 2 7 }

/-- The Film3 fields as bits of a word. -/
def Film3Form.bits (f : Film3Form) : Nat :=
  f.c.toNat * 2147483648 + f.d.toNat * 65536 + f.a.toNat * 512 + f.b.toNat * 4

/-- The Reg2Obj fields of a word. -/
def Reg2ObjForm.ofWord (b : Bound) (w : Nat) : Reg2ObjForm :=
  { obj := b.obj, c := bitAt w 31, a := bitsAt w 16 7, b := bitsAt w 9 7 }

/-- The Reg2Obj fields as bits of a word. -/
def Reg2ObjForm.bits (f : Reg2ObjForm) : Nat :=
  f.c.toNat * 2147483648 + f.a.toNat * 65536 + f.b.toNat * 512

/-- The Trace fields of a word. -/
def TraceForm.ofWord (b : Bound) (w : Nat) : TraceForm :=
  { obj := b.obj, c := bitAt w 31, d := bitsAt w 16 7, a := bitsAt w 11 5 }

/-- The Trace fields as bits of a word. -/
def TraceForm.bits (f : TraceForm) : Nat :=
  f.c.toNat * 2147483648 + f.d.toNat * 65536 + f.a.toNat * 2048

/-- The Reg2 fields of a word. -/
def Reg2Form.ofWord (_ : Bound) (w : Nat) : Reg2Form :=
  { c := bitAt w 31, a := bitsAt w 16 7, b := bitsAt w 9 7 }

/-- The Reg2 fields as bits of a word. -/
def Reg2Form.bits (f : Reg2Form) : Nat :=
  f.c.toNat * 2147483648 + f.a.toNat * 65536 + f.b.toNat * 512

/-- The Stex fields of a word. -/
def StexForm.ofWord (b : Bound) (w : Nat) : StexForm :=
  { obj := b.obj, c := bitAt w 31, d := bitsAt w 18 5, a := bitsAt w 11 5, b := bitsAt w 6 5 }

/-- The Stex fields as bits of a word. -/
def StexForm.bits (f : StexForm) : Nat :=
  f.c.toNat * 2147483648 + f.d.toNat * 262144 + f.a.toNat * 2048 + f.b.toNat * 64

/-- The Cast fields of a word. -/
def CastForm.ofWord (b : Bound) (w : Nat) : CastForm :=
  { obj := b.obj, c := bitAt w 31, q := bitsAt w 21 2, v := bitsAt w 16 5, o := bitsAt w 0 16 }

/-- The Cast fields as bits of a word. -/
def CastForm.bits (f : CastForm) : Nat :=
  f.c.toNat * 2147483648 + f.q.toNat * 2097152 + f.v.toNat * 65536 + f.o.toNat

/-- The Castw fields of a word. -/
def CastwForm.ofWord (b : Bound) (w : Nat) : CastwForm :=
  { obj := b.obj, c := bitAt w 31, q := bitsAt w 21 2, a := bitsAt w 9 7 }

/-- The Castw fields as bits of a word. -/
def CastwForm.bits (f : CastwForm) : Nat :=
  f.c.toNat * 2147483648 + f.q.toNat * 2097152 + f.a.toNat * 512

/-- The Casttab fields of a word. -/
def CasttabForm.ofWord (b : Bound) (w : Nat) : CasttabForm :=
  { obj := b.obj, c := bitAt w 31, q := bitsAt w 21 2, a := bitsAt w 9 7, b := bitsAt w 2 7 }

/-- The Casttab fields as bits of a word. -/
def CasttabForm.bits (f : CasttabForm) : Nat :=
  f.c.toNat * 2147483648 + f.q.toNat * 2097152 + f.a.toNat * 512 + f.b.toNat * 4

/-- The Mma fields of a word. -/
def MmaForm.ofWord (b : Bound) (w : Nat) : MmaForm :=
  { obj := b.obj, c := bitAt w 31, v := bitsAt w 17 6, m := bitsAt w 14 3, b := bitsAt w 7 7 }

/-- The Mma fields as bits of a word. -/
def MmaForm.bits (f : MmaForm) : Nat :=
  f.c.toNat * 2147483648 + f.v.toNat * 131072 + f.m.toNat * 16384 + f.b.toNat * 128

/-- The Mmas fields of a word. -/
def MmasForm.ofWord (b : Bound) (w : Nat) : MmasForm :=
  { obj := b.obj, c := bitAt w 31, v := bitsAt w 17 6, m := bitsAt w 14 3, b := bitsAt w 7 7, s := bitsAt w 0 7 }

/-- The Mmas fields as bits of a word. -/
def MmasForm.bits (f : MmasForm) : Nat :=
  f.c.toNat * 2147483648 + f.v.toNat * 131072 + f.m.toNat * 16384 + f.b.toNat * 128 + f.s.toNat

/-- The Acc fields of a word. -/
def AccForm.ofWord (_ : Bound) (w : Nat) : AccForm :=
  { c := bitAt w 31, v := bitsAt w 17 6, m := bitsAt w 14 3 }

/-- The Acc fields as bits of a word. -/
def AccForm.bits (f : AccForm) : Nat :=
  f.c.toNat * 2147483648 + f.v.toNat * 131072 + f.m.toNat * 16384

/-- The AccObj fields of a word. -/
def AccObjForm.ofWord (b : Bound) (w : Nat) : AccObjForm :=
  { obj := b.obj, c := bitAt w 31, v := bitsAt w 17 6, m := bitsAt w 14 3 }

/-- The AccObj fields as bits of a word. -/
def AccObjForm.bits (f : AccObjForm) : Nat :=
  f.c.toNat * 2147483648 + f.v.toNat * 131072 + f.m.toNat * 16384

/-- The Accst fields of a word. -/
def AccstForm.ofWord (b : Bound) (w : Nat) : AccstForm :=
  { obj := b.obj, c := bitAt w 31, v := bitsAt w 17 6, m := bitsAt w 14 3, k := bitsAt w 7 2 }

/-- The Accst fields as bits of a word. -/
def AccstForm.bits (f : AccstForm) : Nat :=
  f.c.toNat * 2147483648 + f.v.toNat * 131072 + f.m.toNat * 16384 + f.k.toNat * 128

/-- The Accrd fields of a word. -/
def AccrdForm.ofWord (_ : Bound) (w : Nat) : AccrdForm :=
  { c := bitAt w 31, v := bitsAt w 17 6, m := bitsAt w 14 3, d := bitsAt w 7 7, a := bitsAt w 0 7 }

/-- The Accrd fields as bits of a word. -/
def AccrdForm.bits (f : AccrdForm) : Nat :=
  f.c.toNat * 2147483648 + f.v.toNat * 131072 + f.m.toNat * 16384 + f.d.toNat * 128 + f.a.toNat

/-- The Red1 fields of a word. -/
def Red1Form.ofWord (b : Bound) (w : Nat) : Red1Form :=
  { obj := b.obj, c := bitAt w 31, a := bitsAt w 16 5, o := bitsAt w 0 16 }

/-- The Red1 fields as bits of a word. -/
def Red1Form.bits (f : Red1Form) : Nat :=
  f.c.toNat * 2147483648 + f.a.toNat * 65536 + f.o.toNat

/-- The Obj1 fields of a word. -/
def Obj1Form.ofWord (_ : Bound) (w : Nat) : Obj1Form :=
  { c := bitAt w 31, o := bitsAt w 0 16 }

/-- The Obj1 fields as bits of a word. -/
def Obj1Form.bits (f : Obj1Form) : Nat :=
  f.c.toNat * 2147483648 + f.o.toNat

/-- The RedCr fields of a word. -/
def RedCrForm.ofWord (_ : Bound) (w : Nat) : RedCrForm :=
  { c := bitAt w 31, a := bitsAt w 16 5, v := bitsAt w 10 6, d := bitsAt w 3 7, t := bitsAt w 1 2, y := bitAt w 0 }

/-- The RedCr fields as bits of a word. -/
def RedCrForm.bits (f : RedCrForm) : Nat :=
  f.c.toNat * 2147483648 + f.a.toNat * 65536 + f.v.toNat * 1024 + f.d.toNat * 8 + f.t.toNat * 2 + f.y.toNat * 1

/-- The FcollW fields of a word. -/
def FcollWForm.ofWord (_ : Bound) (w : Nat) : FcollWForm :=
  { c := bitAt w 31, a := bitsAt w 16 7, o := bitsAt w 0 16 }

/-- The FcollW fields as bits of a word. -/
def FcollWForm.bits (f : FcollWForm) : Nat :=
  f.c.toNat * 2147483648 + f.a.toNat * 65536 + f.o.toNat

/-- The Stamp fields of a word. -/
def StampForm.ofWord (_ : Bound) (w : Nat) : StampForm :=
  { c := bitAt w 31, e := bitsAt w 15 10, h := bitsAt w 10 5, i := bitsAt w 5 5, j := bitsAt w 0 5 }

/-- The Stamp fields as bits of a word. -/
def StampForm.bits (f : StampForm) : Nat :=
  f.c.toNat * 2147483648 + f.e.toNat * 32768 + f.h.toNat * 1024 + f.i.toNat * 32 + f.j.toNat

/-- An atomic word is the RED form when its prefix sets NORET and its d field is 0 (R286). -/
def noRet (b : Bound) (w : Nat) : Bool :=
  match b.pfx with
  | some p => p.c.getLsbD 3 && w / 2 ^ 18 % 128 == 0
  | none => false

/-- Rows of major 0x00 (R81). -/
def rowsMajor00 : List Row :=
  [⟨[(0, 31, 0)], false, false, false, fun b w => .nop (.ofWord b w)⟩,
   ⟨[(0, 31, 65536)], false, false, false, fun b w => .exit (.ofWord b w)⟩,
   ⟨[(0, 31, 131072)], false, false, false, fun b w => .yield (.ofWord b w)⟩,
   ⟨[(0, 31, 196608)], false, false, false, fun b w => .rte (.ofWord b w)⟩,
   ⟨[(7, 24, 1537)], false, false, false, fun b w => .rtePc (.ofWord b w)⟩,
   ⟨[(7, 24, 2048)], false, false, false, fun b w => .tfill (.ofWord b w)⟩,
   ⟨[(7, 24, 2560)], false, false, false, fun b w => .rqcount (.ofWord b w)⟩,
   ⟨[(7, 1, 0), (16, 15, 6)], false, false, false, fun b w => .rqread (.ofWord b w)⟩,
   ⟨[(7, 1, 0), (16, 15, 7)], false, false, false, fun b w => .rqwrite (.ofWord b w)⟩,
   ⟨[(0, 8, 0), (12, 19, 128)], false, false, false, fun b w => .rqdrop (.ofWord b w)⟩,
   ⟨[(1, 30, 294912)], false, false, false, fun b w => .dield (.ofWord b w)⟩,
   ⟨[(1, 30, 327680)], false, false, false, fun b w => .diebank (.ofWord b w)⟩,
   ⟨[(0, 31, 720896)], false, false, false, fun b w => .syncDie (.ofWord b w)⟩,
   ⟨[(14, 17, 48)], false, false, false, fun b w => .launch (.ofWord b w)⟩,
   ⟨[(16, 15, 13)], false, false, false, fun b w => .trap (.ofWord b w)⟩,
   ⟨[(16, 15, 14)], false, false, false, fun b w => .bkpt (.ofWord b w)⟩,
   ⟨[(9, 22, 49152)], false, false, false, fun b w => .tlbinv (.ofWord b w)⟩,
   ⟨[(8, 23, 98560)], false, false, false, fun b w => .otinv (.ofWord b w)⟩,
   ⟨[(7, 24, 197632)], false, false, false, fun b w => .ctxsave (.ofWord b w)⟩,
   ⟨[(7, 24, 198144)], false, false, false, fun b w => .ctxload (.ofWord b w)⟩]

/-- Rows of major 0x01 (R81). -/
def rowsMajor01 : List Row :=
  [⟨[(14, 3, 0), (22, 9, 8)], false, false, false, fun b w => .br (.ofWord b w)⟩,
   ⟨[(14, 17, 2304)], false, false, false, fun b w => .call (.ofWord b w)⟩,
   ⟨[(0, 31, 41943040)], false, false, false, fun b w => .ret (.ofWord b w)⟩,
   ⟨[(22, 9, 11)], false, false, false, fun b w => .reform (.ofWord b w)⟩,
   ⟨[(22, 9, 12)], false, false, true, fun b w => .reformX (.ofWord b w)⟩,
   ⟨[(0, 14, 0), (22, 9, 13)], false, false, false, fun b w => .calli (.ofWord b w)⟩]

/-- Rows of major 0x02 (R81). -/
def rowsMajor02 : List Row :=
  [⟨[(22, 9, 16)], false, false, false, fun b w => .loopImm (.ofWord b w)⟩,
   ⟨[(17, 5, 0), (23, 8, 9)], false, false, false, fun b w => .loopReg (.ofWord b w)⟩]

/-- Rows of major 0x03 (R81). -/
def rowsMajor03 : List Row :=
  [⟨[(9, 7, 0), (25, 6, 3)], false, false, false, fun b w => .srd (.ofWord b w)⟩,
   ⟨[(9, 7, 32), (25, 6, 3)], false, false, false, fun b w => .swr (.ofWord b w)⟩,
   ⟨[(7, 9, 256), (22, 9, 24)], false, false, false, fun b w => .movConst (.ofWord b w)⟩]

/-- Rows of major 0x04 (R81). -/
def rowsMajor04 : List Row :=
  [⟨[(2, 2, 0), (25, 6, 4)], true, false, false, fun b w => .iadd (.ofWord b w)⟩,
   ⟨[(2, 2, 1), (25, 6, 4)], true, false, false, fun b w => .isub (.ofWord b w)⟩,
   ⟨[(2, 2, 2), (25, 6, 4)], true, false, false, fun b w => .imul (.ofWord b w)⟩,
   ⟨[(2, 2, 3), (25, 6, 4)], true, false, false, fun b w => .imulh (.ofWord b w)⟩]

/-- Rows of major 0x05 (R81). -/
def rowsMajor05 : List Row :=
  [⟨[(2, 2, 0), (25, 6, 5)], true, false, false, fun b w => .imin (.ofWord b w)⟩,
   ⟨[(2, 2, 1), (25, 6, 5)], true, false, false, fun b w => .imax (.ofWord b w)⟩,
   ⟨[(0, 1, 0), (2, 9, 2), (25, 6, 5)], true, false, false, fun b w => .iabs (.ofWord b w)⟩,
   ⟨[(0, 1, 0), (2, 9, 3), (25, 6, 5)], true, false, false, fun b w => .ineg (.ofWord b w)⟩]

/-- Rows of major 0x06 (R81). -/
def rowsMajor06 : List Row :=
  [⟨[(2, 2, 0), (25, 6, 6)], true, false, false, fun b w => .iand (.ofWord b w)⟩,
   ⟨[(2, 2, 1), (25, 6, 6)], true, false, false, fun b w => .ior (.ofWord b w)⟩,
   ⟨[(2, 2, 2), (25, 6, 6)], true, false, false, fun b w => .ixor (.ofWord b w)⟩,
   ⟨[(2, 2, 3), (25, 6, 6)], true, false, false, fun b w => .iandn (.ofWord b w)⟩]

/-- Rows of major 0x07 (R81). -/
def rowsMajor07 : List Row :=
  [⟨[(2, 2, 0), (25, 6, 7)], true, false, false, fun b w => .ishl (.ofWord b w)⟩,
   ⟨[(2, 2, 1), (25, 6, 7)], true, false, false, fun b w => .ishr (.ofWord b w)⟩,
   ⟨[(2, 2, 2), (25, 6, 7)], true, false, false, fun b w => .isar (.ofWord b w)⟩,
   ⟨[(2, 2, 3), (25, 6, 7)], true, false, false, fun b w => .irol (.ofWord b w)⟩]

/-- Rows of major 0x08 (R81). -/
def rowsMajor08 : List Row :=
  [⟨[(2, 2, 0), (25, 6, 8)], true, false, false, fun b w => .imad (.ofWord b w)⟩,
   ⟨[(2, 2, 1), (25, 6, 8)], true, false, false, fun b w => .imadh (.ofWord b w)⟩,
   ⟨[(2, 2, 2), (25, 6, 8)], true, false, false, fun b w => .isad (.ofWord b w)⟩,
   ⟨[(0, 1, 0), (2, 9, 3), (25, 6, 8)], true, false, false, fun b w => .ipopc (.ofWord b w)⟩]

/-- Rows of major 0x09 (R81). -/
def rowsMajor09 : List Row :=
  [⟨[(0, 1, 0), (2, 9, 0), (25, 6, 9)], true, false, false, fun b w => .iclz (.ofWord b w)⟩,
   ⟨[(0, 1, 0), (2, 9, 1), (25, 6, 9)], true, false, false, fun b w => .ictz (.ofWord b w)⟩,
   ⟨[(0, 1, 0), (2, 9, 2), (25, 6, 9)], true, false, false, fun b w => .ibrev (.ofWord b w)⟩,
   ⟨[(2, 2, 3), (25, 6, 9)], true, false, false, fun b w => .ibfx (.ofWord b w)⟩]

/-- Rows of major 0x0A (R81). -/
def rowsMajor0A : List Row :=
  [⟨[(2, 2, 0), (25, 6, 10)], true, false, false, fun b w => .idiv (.ofWord b w)⟩,
   ⟨[(2, 2, 1), (25, 6, 10)], true, false, false, fun b w => .irem (.ofWord b w)⟩,
   ⟨[(0, 1, 0), (2, 9, 2), (25, 6, 10)], true, false, false, fun b w => .mov (.ofWord b w)⟩]

/-- Rows of major 0x0B (R81). -/
def rowsMajor0B : List Row :=
  [⟨[(2, 2, 0), (25, 6, 11)], true, false, false, fun b w => .iadd64 (.ofWord b w)⟩,
   ⟨[(2, 2, 1), (25, 6, 11)], true, false, false, fun b w => .isub64 (.ofWord b w)⟩,
   ⟨[(2, 2, 2), (25, 6, 11)], true, false, false, fun b w => .ishl64 (.ofWord b w)⟩,
   ⟨[(2, 2, 3), (25, 6, 11)], true, false, false, fun b w => .ishr64 (.ofWord b w)⟩]

/-- Rows of major 0x0C (R81). -/
def rowsMajor0C : List Row :=
  [⟨[(25, 6, 12)], true, false, false, fun b w => .iaddi (.ofWord b w)⟩]

/-- Rows of major 0x0D (R81). -/
def rowsMajor0D : List Row :=
  [⟨[(25, 6, 13)], true, false, false, fun b w => .imuli (.ofWord b w)⟩]

/-- Rows of major 0x0E (R81). -/
def rowsMajor0E : List Row :=
  [⟨[(8, 2, 0), (25, 6, 14)], true, false, false, fun b w => .iandi (.ofWord b w)⟩,
   ⟨[(8, 2, 1), (25, 6, 14)], true, false, false, fun b w => .iori (.ofWord b w)⟩,
   ⟨[(8, 2, 2), (25, 6, 14)], true, false, false, fun b w => .ixori (.ofWord b w)⟩]

/-- Rows of major 0x0F (R81). -/
def rowsMajor0F : List Row :=
  [⟨[(5, 5, 0), (25, 6, 15)], true, false, false, fun b w => .ishli (.ofWord b w)⟩,
   ⟨[(5, 5, 8), (25, 6, 15)], true, false, false, fun b w => .ishri (.ofWord b w)⟩,
   ⟨[(5, 5, 16), (25, 6, 15)], true, false, false, fun b w => .isari (.ofWord b w)⟩,
   ⟨[(5, 5, 24), (25, 6, 15)], true, false, false, fun b w => .iroli (.ofWord b w)⟩]

/-- Rows of major 0x10 (R81). -/
def rowsMajor10 : List Row :=
  [⟨[(2, 2, 0), (25, 6, 16)], true, false, false, fun b w => .fadd (.ofWord b w)⟩,
   ⟨[(2, 2, 1), (25, 6, 16)], true, false, false, fun b w => .fsub (.ofWord b w)⟩,
   ⟨[(2, 2, 2), (25, 6, 16)], true, false, false, fun b w => .fmul (.ofWord b w)⟩,
   ⟨[(2, 2, 3), (25, 6, 16)], true, false, false, fun b w => .ffma (.ofWord b w)⟩]

/-- Rows of major 0x11 (R81). -/
def rowsMajor11 : List Row :=
  [⟨[(2, 2, 0), (25, 6, 17)], true, false, false, fun b w => .fmin (.ofWord b w)⟩,
   ⟨[(2, 2, 1), (25, 6, 17)], true, false, false, fun b w => .fmax (.ofWord b w)⟩,
   ⟨[(0, 1, 0), (2, 9, 2), (25, 6, 17)], true, false, false, fun b w => .fabs (.ofWord b w)⟩,
   ⟨[(0, 1, 0), (2, 9, 3), (25, 6, 17)], true, false, false, fun b w => .fneg (.ofWord b w)⟩]

/-- Rows of major 0x12 (R81). -/
def rowsMajor12 : List Row :=
  [⟨[(2, 2, 0), (25, 6, 18)], true, false, false, fun b w => .fdiv (.ofWord b w)⟩,
   ⟨[(0, 1, 0), (2, 9, 1), (25, 6, 18)], true, false, false, fun b w => .fsqrt (.ofWord b w)⟩,
   ⟨[(0, 1, 0), (2, 9, 2), (25, 6, 18)], true, false, false, fun b w => .frcp (.ofWord b w)⟩,
   ⟨[(0, 1, 0), (2, 9, 3), (25, 6, 18)], true, false, false, fun b w => .frsq (.ofWord b w)⟩]

/-- Rows of major 0x13 (R81). -/
def rowsMajor13 : List Row :=
  [⟨[(0, 1, 0), (2, 9, 0), (25, 6, 19)], true, false, false, fun b w => .ffloor (.ofWord b w)⟩,
   ⟨[(0, 1, 0), (2, 9, 1), (25, 6, 19)], true, false, false, fun b w => .fceil (.ofWord b w)⟩,
   ⟨[(0, 1, 0), (2, 9, 2), (25, 6, 19)], true, false, false, fun b w => .ftrunc (.ofWord b w)⟩,
   ⟨[(0, 1, 0), (2, 9, 3), (25, 6, 19)], true, false, false, fun b w => .frint (.ofWord b w)⟩]

/-- Rows of major 0x14 (R81). -/
def rowsMajor14 : List Row :=
  [⟨[(0, 1, 0), (2, 9, 0), (25, 6, 20)], true, false, false, fun b w => .fclass (.ofWord b w)⟩,
   ⟨[(2, 2, 1), (25, 6, 20)], true, false, false, fun b w => .fcopys (.ofWord b w)⟩,
   ⟨[(2, 2, 2), (25, 6, 20)], true, false, false, fun b w => .fscale (.ofWord b w)⟩,
   ⟨[(0, 1, 0), (2, 9, 3), (25, 6, 20)], true, false, false, fun b w => .ffrac (.ofWord b w)⟩]

/-- Rows of major 0x15 (R81). -/
def rowsMajor15 : List Row :=
  [⟨[(0, 1, 0), (2, 2, 0), (6, 5, 0), (25, 6, 21)], true, false, false, fun b w => .ftab (.ofWord b w)⟩,
   ⟨[(0, 1, 0), (2, 2, 1), (7, 4, 0), (18, 13, 2688)], true, false, false, fun b w => .ftabld (.ofWord b w)⟩,
   ⟨[(0, 4, 8), (7, 24, 5505024)], true, false, false, fun b w => .ftabbank (.ofWord b w)⟩,
   ⟨[(2, 2, 3), (25, 6, 21)], true, false, false, fun b w => .rand (.ofWord b w)⟩]

/-- Rows of major 0x18 (R81). -/
def rowsMajor18 : List Row :=
  [⟨[(2, 2, 0), (25, 6, 24)], true, false, false, fun b w => .hadd (.ofWord b w)⟩,
   ⟨[(2, 2, 1), (25, 6, 24)], true, false, false, fun b w => .hsub (.ofWord b w)⟩,
   ⟨[(2, 2, 2), (25, 6, 24)], true, false, false, fun b w => .hmul (.ofWord b w)⟩,
   ⟨[(2, 2, 3), (25, 6, 24)], true, false, false, fun b w => .hfma (.ofWord b w)⟩]

/-- Rows of major 0x19 (R81). -/
def rowsMajor19 : List Row :=
  [⟨[(2, 2, 0), (25, 6, 25)], true, false, false, fun b w => .dadd (.ofWord b w)⟩,
   ⟨[(2, 2, 1), (25, 6, 25)], true, false, false, fun b w => .dsub (.ofWord b w)⟩,
   ⟨[(2, 2, 2), (25, 6, 25)], true, false, false, fun b w => .dmul (.ofWord b w)⟩,
   ⟨[(2, 2, 3), (25, 6, 25)], true, false, false, fun b w => .dfma (.ofWord b w)⟩]

/-- Rows of major 0x1A (R81). -/
def rowsMajor1A : List Row :=
  [⟨[(0, 1, 0), (2, 3, 0), (25, 6, 26)], true, false, false, fun b w => .cvt (.ofWord b w)⟩,
   ⟨[(0, 1, 0), (2, 3, 1), (25, 6, 26)], true, false, false, fun b w => .cvts (.ofWord b w)⟩,
   ⟨[(0, 1, 0), (2, 2, 2), (25, 6, 26)], true, false, false, fun b w => .pack (.ofWord b w)⟩,
   ⟨[(0, 1, 0), (2, 2, 3), (25, 6, 26)], true, false, false, fun b w => .unpack (.ofWord b w)⟩]

/-- Rows of major 0x1B (R81). -/
def rowsMajor1B : List Row :=
  [⟨[(0, 1, 0), (2, 9, 0), (25, 6, 27)], true, false, false, fun b w => .fexp2 (.ofWord b w)⟩,
   ⟨[(0, 1, 0), (2, 9, 1), (25, 6, 27)], true, false, false, fun b w => .flog2 (.ofWord b w)⟩,
   ⟨[(0, 1, 0), (2, 9, 2), (25, 6, 27)], true, false, false, fun b w => .fsin (.ofWord b w)⟩,
   ⟨[(0, 1, 0), (2, 9, 3), (25, 6, 27)], true, false, false, fun b w => .fcos (.ofWord b w)⟩]

/-- Rows of major 0x1C (R81). -/
def rowsMajor1C : List Row :=
  [⟨[(2, 2, 0), (25, 6, 28)], true, false, false, fun b w => .icmp (.ofWord b w)⟩,
   ⟨[(2, 2, 1), (25, 6, 28)], true, false, false, fun b w => .fcmp (.ofWord b w)⟩,
   ⟨[(2, 2, 2), (25, 6, 28)], true, false, false, fun b w => .hcmp (.ofWord b w)⟩,
   ⟨[(2, 2, 3), (25, 6, 28)], true, false, false, fun b w => .dcmp (.ofWord b w)⟩]

/-- Rows of major 0x1D (R81). -/
def rowsMajor1D : List Row :=
  [⟨[(25, 6, 29)], true, false, false, fun b w => .icmpi (.ofWord b w)⟩]

/-- Rows of major 0x1E (R81). -/
def rowsMajor1E : List Row :=
  [⟨[(0, 4, 0), (8, 3, 0), (15, 3, 0), (22, 9, 240)], true, false, false, fun b w => .pand (.ofWord b w)⟩,
   ⟨[(0, 4, 4), (8, 3, 0), (15, 3, 0), (22, 9, 240)], true, false, false, fun b w => .por (.ofWord b w)⟩,
   ⟨[(0, 4, 8), (8, 3, 0), (15, 3, 0), (22, 9, 240)], true, false, false, fun b w => .pxor (.ofWord b w)⟩,
   ⟨[(0, 4, 12), (8, 3, 0), (15, 3, 0), (22, 9, 240)], true, false, false, fun b w => .pandn (.ofWord b w)⟩]

/-- Rows of major 0x1F (R81). -/
def rowsMajor1F : List Row :=
  [⟨[(2, 2, 0), (25, 6, 31)], true, false, false, fun b w => .sel (.ofWord b w)⟩,
   ⟨[(0, 11, 4), (15, 3, 0), (25, 6, 31)], true, false, false, fun b w => .ktov (.ofWord b w)⟩,
   ⟨[(0, 1, 0), (2, 9, 2), (22, 9, 248)], true, false, false, fun b w => .vtok (.ofWord b w)⟩]

/-- Rows of major 0x20 (R81). -/
def rowsMajor20 : List Row :=
  [⟨[(26, 5, 16)], true, false, false, fun b w => .ld (.ofWord b w)⟩]

/-- Rows of major 0x21 (R81). -/
def rowsMajor21 : List Row :=
  [⟨[(26, 5, 16)], true, false, false, fun b w => .ld (.ofWord b w)⟩]

/-- Rows of major 0x22 (R81). -/
def rowsMajor22 : List Row :=
  [⟨[(26, 5, 17)], true, false, false, fun b w => .st (.ofWord b w)⟩]

/-- Rows of major 0x23 (R81). -/
def rowsMajor23 : List Row :=
  [⟨[(26, 5, 17)], true, false, false, fun b w => .st (.ofWord b w)⟩]

/-- Rows of major 0x24 (R81). -/
def rowsMajor24 : List Row :=
  [⟨[(3, 5, 0), (26, 5, 18)], true, false, false, fun b w => .ldAcq (.ofWord b w)⟩,
   ⟨[(3, 5, 4), (26, 5, 18)], true, false, false, fun b w => .stRel (.ofWord b w)⟩]

/-- Rows of major 0x25 (R81). -/
def rowsMajor25 : List Row :=
  [⟨[(3, 5, 0), (26, 5, 18)], true, false, false, fun b w => .ldAcq (.ofWord b w)⟩,
   ⟨[(3, 5, 4), (26, 5, 18)], true, false, false, fun b w => .stRel (.ofWord b w)⟩,
   ⟨[(0, 10, 64), (25, 6, 37)], true, false, false, fun b w => .waitv (.ofWord b w)⟩]

/-- Rows of major 0x26 (R81). -/
def rowsMajor26 : List Row :=
  [⟨[(2, 2, 0), (25, 6, 38)], true, false, false, fun b w => if noRet b w then .redAdd (.ofWord b w) else .atomAdd (.ofWord b w)⟩,
   ⟨[(2, 2, 1), (25, 6, 38)], true, false, false, fun b w => if noRet b w then .redMin (.ofWord b w) else .atomMin (.ofWord b w)⟩,
   ⟨[(2, 2, 2), (25, 6, 38)], true, false, false, fun b w => if noRet b w then .redMax (.ofWord b w) else .atomMax (.ofWord b w)⟩,
   ⟨[(2, 2, 3), (25, 6, 38)], true, false, false, fun b w => .atomExch (.ofWord b w)⟩]

/-- Rows of major 0x27 (R81). -/
def rowsMajor27 : List Row :=
  [⟨[(2, 2, 0), (25, 6, 39)], true, false, false, fun b w => if noRet b w then .redAnd (.ofWord b w) else .atomAnd (.ofWord b w)⟩,
   ⟨[(2, 2, 1), (25, 6, 39)], true, false, false, fun b w => if noRet b w then .redOr (.ofWord b w) else .atomOr (.ofWord b w)⟩,
   ⟨[(2, 2, 2), (25, 6, 39)], true, false, false, fun b w => if noRet b w then .redXor (.ofWord b w) else .atomXor (.ofWord b w)⟩,
   ⟨[(2, 2, 3), (25, 6, 39)], true, false, false, fun b w => .atomCas (.ofWord b w)⟩]

/-- Rows of major 0x28 (R81). -/
def rowsMajor28 : List Row :=
  [⟨[(3, 28, 167772160)], false, false, false, fun b w => .fence (.ofWord b w)⟩,
   ⟨[(14, 17, 82432)], false, false, false, fun b w => .qfence (.ofWord b w)⟩,
   ⟨[(3, 28, 169869312)], false, false, false, fun b w => .tfence (.ofWord b w)⟩]

/-- Rows of major 0x29 (R81). -/
def rowsMajor29 : List Row :=
  [⟨[(8, 23, 5373952)], false, false, false, fun b w => .barArrive (.ofWord b w)⟩,
   ⟨[(8, 23, 5406720)], false, false, false, fun b w => .barWait (.ofWord b w)⟩,
   ⟨[(8, 23, 5439488)], false, false, false, fun b w => .barSync (.ofWord b w)⟩,
   ⟨[(10, 6, 0), (22, 9, 334)], false, false, false, fun b w => .cvdecl (.ofWord b w)⟩]

/-- Rows of major 0x2A (R81). -/
def rowsMajor2A : List Row :=
  [⟨[(23, 8, 168)], false, false, false, fun b w => .abarInit (.ofWord b w)⟩,
   ⟨[(23, 8, 169)], false, false, false, fun b w => .abarArrive (.ofWord b w)⟩,
   ⟨[(23, 8, 170)], false, false, false, fun b w => .abarWait (.ofWord b w)⟩,
   ⟨[(23, 8, 171)], false, false, false, fun b w => .abarTest (.ofWord b w)⟩]

/-- Rows of major 0x2B (R81). -/
def rowsMajor2B : List Row :=
  [⟨[(5, 11, 0), (23, 8, 172)], false, false, false, fun b w => .qpush (.ofWord b w)⟩,
   ⟨[(5, 11, 0), (23, 8, 173)], false, false, false, fun b w => .qpop (.ofWord b w)⟩,
   ⟨[(5, 11, 0), (23, 8, 174)], false, false, false, fun b w => .qcount (.ofWord b w)⟩,
   ⟨[(5, 26, 45875200)], false, false, false, fun b w => .qclose (.ofWord b w)⟩]

/-- Rows of major 0x2C (R81). -/
def rowsMajor2C : List Row :=
  [⟨[(2, 2, 0), (9, 2, 0), (16, 2, 0), (23, 8, 176)], true, false, false, fun b w => .sadd (.ofWord b w)⟩,
   ⟨[(2, 2, 1), (9, 2, 0), (16, 2, 0), (23, 8, 176)], true, false, false, fun b w => .ssub (.ofWord b w)⟩,
   ⟨[(2, 2, 2), (9, 2, 0), (16, 2, 0), (23, 8, 176)], true, false, false, fun b w => .smul (.ofWord b w)⟩,
   ⟨[(2, 2, 3), (9, 2, 0), (16, 2, 0), (23, 8, 176)], true, false, false, fun b w => .sfma (.ofWord b w)⟩]

/-- Rows of major 0x2D (R81). -/
def rowsMajor2D : List Row :=
  [⟨[(2, 2, 0), (9, 2, 0), (16, 2, 0), (23, 8, 180)], true, false, false, fun b w => .smin (.ofWord b w)⟩,
   ⟨[(2, 2, 1), (9, 2, 0), (16, 2, 0), (23, 8, 180)], true, false, false, fun b w => .smax (.ofWord b w)⟩,
   ⟨[(2, 2, 2), (9, 2, 0), (16, 2, 0), (23, 8, 180)], true, false, false, fun b w => .sdiv (.ofWord b w)⟩,
   ⟨[(0, 1, 0), (2, 9, 3), (16, 2, 0), (23, 8, 180)], true, false, false, fun b w => .ssqrt (.ofWord b w)⟩]

/-- Rows of major 0x2E (R81). -/
def rowsMajor2E : List Row :=
  [⟨[(0, 1, 0), (2, 9, 0), (16, 2, 0), (23, 8, 184)], true, false, false, fun b w => .sexp (.ofWord b w)⟩,
   ⟨[(0, 1, 0), (2, 9, 1), (16, 2, 0), (25, 6, 46)], true, false, false, fun b w => .shsum (.ofWord b w)⟩,
   ⟨[(2, 2, 2), (9, 2, 0), (16, 2, 0), (25, 6, 46)], true, false, false, fun b w => .sdot (.ofWord b w)⟩,
   ⟨[(0, 1, 0), (2, 9, 3), (23, 8, 184)], true, false, false, fun b w => .sbcast (.ofWord b w)⟩]

/-- Rows of major 0x2F (R81). -/
def rowsMajor2F : List Row :=
  [⟨[(0, 1, 0), (2, 2, 0), (6, 5, 0), (16, 2, 0), (25, 6, 47)], true, false, false, fun b w => .slane (.ofWord b w)⟩,
   ⟨[(0, 1, 0), (2, 2, 1), (6, 5, 0), (23, 8, 188)], true, false, false, fun b w => .sins (.ofWord b w)⟩,
   ⟨[(2, 2, 2), (9, 2, 0), (16, 2, 0), (25, 6, 47)], true, false, false, fun b w => .scmp (.ofWord b w)⟩,
   ⟨[(2, 2, 3), (9, 2, 0), (16, 2, 0), (23, 8, 188)], true, false, false, fun b w => .ssel (.ofWord b w)⟩]

/-- Rows of major 0x30 (R81). -/
def rowsMajor30 : List Row :=
  [⟨[(0, 1, 0), (2, 3, 0), (8, 3, 0), (16, 2, 0), (25, 6, 48)], true, false, false, fun b w => .scvtNarrow (.ofWord b w)⟩,
   ⟨[(0, 1, 0), (2, 3, 4), (7, 4, 0), (23, 8, 192)], true, false, false, fun b w => .scvtWiden (.ofWord b w)⟩,
   ⟨[(0, 1, 0), (2, 2, 1), (10, 1, 0), (23, 8, 192)], true, false, false, fun b w => .swls (.ofWord b w)⟩]

/-- Rows of major 0x31 (R81). -/
def rowsMajor31 : List Row :=
  [⟨[(2, 2, 0), (9, 2, 0), (16, 2, 0), (23, 8, 196)], true, false, false, fun b w => .spol (.ofWord b w)⟩,
   ⟨[(2, 2, 1), (9, 2, 0), (23, 8, 196)], true, false, false, fun b w => .sfres (.ofWord b w)⟩,
   ⟨[(2, 2, 2), (9, 2, 0), (16, 2, 0), (23, 8, 196)], true, false, false, fun b w => .smdiel (.ofWord b w)⟩]

/-- Rows of major 0x33 (R81). -/
def rowsMajor33 : List Row :=
  [⟨[(0, 6, 0), (23, 8, 204)], false, true, false, fun b w => .filmAdd (.ofWord b w)⟩,
   ⟨[(0, 2, 0), (23, 8, 205)], false, true, false, fun b w => .filmRd (.ofWord b w)⟩,
   ⟨[(0, 9, 0), (23, 8, 206)], false, true, false, fun b w => .rast (.ofWord b w)⟩,
   ⟨[(0, 2, 0), (23, 8, 207)], false, true, false, fun b w => .visrd (.ofWord b w)⟩]

/-- Rows of major 0x34 (R81). -/
def rowsMajor34 : List Row :=
  [⟨[(0, 11, 0), (23, 8, 208)], false, true, false, fun b w => .trace (.ofWord b w)⟩,
   ⟨[(0, 11, 0), (23, 8, 209)], false, true, false, fun b w => .tracea (.ofWord b w)⟩,
   ⟨[(0, 9, 0), (23, 8, 210)], false, false, false, fun b w => .callsh (.ofWord b w)⟩,
   ⟨[(0, 31, 1769996288)], false, false, false, fun b w => .retsh (.ofWord b w)⟩]

/-- Rows of major 0x35 (R81). -/
def rowsMajor35 : List Row :=
  [⟨[(0, 6, 0), (16, 2, 0), (23, 8, 212)], false, true, false, fun b w => .stex (.ofWord b w)⟩,
   ⟨[(0, 6, 0), (16, 2, 0), (23, 8, 213)], false, true, false, fun b w => .stexup (.ofWord b w)⟩,
   ⟨[(0, 6, 0), (16, 2, 0), (23, 8, 214)], false, true, false, fun b w => .scmf (.ofWord b w)⟩]

/-- Rows of major 0x36 (R81). -/
def rowsMajor36 : List Row :=
  [⟨[(23, 8, 216)], false, true, false, fun b w => .cast (.ofWord b w)⟩,
   ⟨[(23, 8, 217)], false, true, false, fun b w => .castT8 (.ofWord b w)⟩,
   ⟨[(23, 8, 218)], false, true, false, fun b w => .castT16 (.ofWord b w)⟩]

/-- Rows of major 0x37 (R81). -/
def rowsMajor37 : List Row :=
  [⟨[(0, 9, 0), (16, 5, 0), (23, 8, 220)], false, true, false, fun b w => .castw (.ofWord b w)⟩,
   ⟨[(0, 9, 0), (16, 5, 16), (23, 8, 220)], false, true, false, fun b w => .castwCb3 (.ofWord b w)⟩,
   ⟨[(0, 2, 0), (16, 5, 0), (23, 8, 221)], false, true, false, fun b w => .casttab (.ofWord b w)⟩]

/-- Rows of major 0x3A (R81). -/
def rowsMajor3A : List Row :=
  [⟨[(0, 7, 0), (23, 8, 232)], false, true, false, fun b w => .mma (.ofWord b w)⟩,
   ⟨[(23, 8, 233)], false, true, false, fun b w => .mmas (.ofWord b w)⟩,
   ⟨[(0, 14, 0), (23, 8, 234)], false, false, false, fun b w => .accz (.ofWord b w)⟩,
   ⟨[(0, 14, 0), (23, 8, 235)], false, true, false, fun b w => .accld (.ofWord b w)⟩]

/-- Rows of major 0x3B (R81). -/
def rowsMajor3B : List Row :=
  [⟨[(0, 7, 0), (9, 5, 0), (23, 8, 236)], false, true, false, fun b w => .accst (.ofWord b w)⟩,
   ⟨[(0, 7, 0), (9, 5, 0), (23, 8, 237)], false, true, false, fun b w => .accstAdd (.ofWord b w)⟩,
   ⟨[(23, 8, 238)], false, false, false, fun b w => .accrd (.ofWord b w)⟩,
   ⟨[(0, 14, 0), (23, 8, 239)], false, true, false, fun b w => .mseq (.ofWord b w)⟩]

/-- Rows of major 0x3C (R81). -/
def rowsMajor3C : List Row :=
  [⟨[(21, 10, 960)], false, true, false, fun b w => .rmaxW (.ofWord b w)⟩,
   ⟨[(21, 10, 962)], false, true, false, fun b w => .rminW (.ofWord b w)⟩,
   ⟨[(21, 10, 964)], false, true, false, fun b w => .rmedW (.ofWord b w)⟩,
   ⟨[(21, 10, 966)], false, true, false, fun b w => .rclampW (.ofWord b w)⟩,
   ⟨[(21, 10, 968)], false, true, false, fun b w => .rssumW (.ofWord b w)⟩,
   ⟨[(21, 10, 970)], false, true, false, fun b w => .adjb (.ofWord b w)⟩,
   ⟨[(16, 15, 31104)], false, false, false, fun b w => .wrel (.ofWord b w)⟩,
   ⟨[(21, 10, 961)], false, false, false, fun b w => .rmaxWCr (.ofWord b w)⟩,
   ⟨[(21, 10, 963)], false, false, false, fun b w => .rminWCr (.ofWord b w)⟩,
   ⟨[(21, 10, 965)], false, false, false, fun b w => .rmedWCr (.ofWord b w)⟩,
   ⟨[(21, 10, 967)], false, false, false, fun b w => .rclampWCr (.ofWord b w)⟩,
   ⟨[(21, 10, 969)], false, false, false, fun b w => .rssumWCr (.ofWord b w)⟩]

/-- Rows of major 0x3D (R81). -/
def rowsMajor3D : List Row :=
  [⟨[(23, 8, 244)], false, false, false, fun b w => .fcoll (.ofWord b w)⟩,
   ⟨[(23, 8, 245)], false, false, false, fun b w => .fsend (.ofWord b w)⟩,
   ⟨[(23, 8, 246)], false, false, false, fun b w => .fwin (.ofWord b w)⟩]

/-- Rows of major 0x3F (R81). -/
def rowsMajor3F : List Row :=
  [⟨[(25, 6, 63)], false, false, false, fun b w => .stamp (.ofWord b w)⟩]

/-- The rows of each assigned major opcode (R81). -/
def rowsOf (m : Nat) : List Row :=
  match m with
  | 0x00 => rowsMajor00
  | 0x01 => rowsMajor01
  | 0x02 => rowsMajor02
  | 0x03 => rowsMajor03
  | 0x04 => rowsMajor04
  | 0x05 => rowsMajor05
  | 0x06 => rowsMajor06
  | 0x07 => rowsMajor07
  | 0x08 => rowsMajor08
  | 0x09 => rowsMajor09
  | 0x0A => rowsMajor0A
  | 0x0B => rowsMajor0B
  | 0x0C => rowsMajor0C
  | 0x0D => rowsMajor0D
  | 0x0E => rowsMajor0E
  | 0x0F => rowsMajor0F
  | 0x10 => rowsMajor10
  | 0x11 => rowsMajor11
  | 0x12 => rowsMajor12
  | 0x13 => rowsMajor13
  | 0x14 => rowsMajor14
  | 0x15 => rowsMajor15
  | 0x18 => rowsMajor18
  | 0x19 => rowsMajor19
  | 0x1A => rowsMajor1A
  | 0x1B => rowsMajor1B
  | 0x1C => rowsMajor1C
  | 0x1D => rowsMajor1D
  | 0x1E => rowsMajor1E
  | 0x1F => rowsMajor1F
  | 0x20 => rowsMajor20
  | 0x21 => rowsMajor21
  | 0x22 => rowsMajor22
  | 0x23 => rowsMajor23
  | 0x24 => rowsMajor24
  | 0x25 => rowsMajor25
  | 0x26 => rowsMajor26
  | 0x27 => rowsMajor27
  | 0x28 => rowsMajor28
  | 0x29 => rowsMajor29
  | 0x2A => rowsMajor2A
  | 0x2B => rowsMajor2B
  | 0x2C => rowsMajor2C
  | 0x2D => rowsMajor2D
  | 0x2E => rowsMajor2E
  | 0x2F => rowsMajor2F
  | 0x30 => rowsMajor30
  | 0x31 => rowsMajor31
  | 0x33 => rowsMajor33
  | 0x34 => rowsMajor34
  | 0x35 => rowsMajor35
  | 0x36 => rowsMajor36
  | 0x37 => rowsMajor37
  | 0x3A => rowsMajor3A
  | 0x3B => rowsMajor3B
  | 0x3C => rowsMajor3C
  | 0x3D => rowsMajor3D
  | 0x3F => rowsMajor3F
  | _ => []

/-- The instruction of a base word with the words bound to it. -/
def decodeBase (b : Bound) (w : Nat) : Except DecodeError Instr :=
  match (rowsOf (w / 2 ^ 25 % 64)).find? (fun r => r.matches w) with
  | none => .error .unassigned
  | some r =>
    if b.pfx.isSome && !r.pfx then .error .prefixRefused
    else if b.obj.isSome && !r.obj then .error .objectRefused
    else if b.live.isSome && !r.live then .error .liveRefused
    else .ok (r.build b w)

/-- Major 0x3E (R69). -/
def isPfxWord (w : Nat) : Bool := w / 2 ^ 25 % 64 == 0x3E

/-- Major 0x00 with fn9 0x100 (R72). -/
def isObjWord (w : Nat) : Bool := w / 2 ^ 16 % 2 ^ 15 == 0x100

/-- Major 0x01 with fn 7 (R72). -/
def isLiveWord (w : Nat) : Bool := w / 2 ^ 22 % 2 ^ 9 == 15

/-- The fields of a prefix word. -/
def Pfx.ofWord (w : Nat) : Pfx :=
  { k := bitsAt w 21 4, inv := bitAt w 20, rm := bitsAt w 17 3, c := bitsAt w 10 7, mz := bitAt w 9, et := bitsAt w 6 3 }

/-- A prefix word as R69 lays it out. -/
def Pfx.bits (p : Pfx) : Nat :=
  0x3E * 2 ^ 25 + p.k.toNat * 2 ^ 21 + p.inv.toNat * 2 ^ 20 + p.rm.toNat * 2 ^ 17 + p.c.toNat * 2 ^ 10
    + p.mz.toNat * 2 ^ 9 + p.et.toNat * 2 ^ 6

/-- The prefix a prefix word carries, refused where R69 says ILLEG. -/
def decodePfx (w : Nat) : Except DecodeError Pfx :=
  if w / 2 ^ 31 % 2 == 0 && w % 64 == 0 && (Pfx.ofWord w).defined then .ok (Pfx.ofWord w) else .error .badPrefix

/-- The live set of a live word. -/
def LiveSet.ofWord (w : Nat) : LiveSet :=
  { vbase := bitsAt w 15 7, vcount := bitsAt w 10 5, wbase := bitsAt w 5 5, wcount := bitsAt w 1 4 }

/-- A live word as R72 lays it out. -/
def LiveSet.bits (l : LiveSet) : Nat :=
  15 * 2 ^ 22 + l.vbase.toNat * 2 ^ 15 + l.vcount.toNat * 2 ^ 10 + l.wbase.toNat * 2 ^ 5 + l.wcount.toNat * 2

/-- A base word after its bound words: a prefix may stand between an object word and the base (R72). -/
def decodeBound (b : Bound) : List Nat → Except DecodeError (Instr × Nat)
  | [] => .error .noWord
  | w :: rest =>
    if isPfxWord w then
      if b.live.isSome then .error .liveRefused else
      match decodePfx w with
      | .error e => .error e
      | .ok p =>
        match rest with
        | [] => .error .noWord
        | v :: _ =>
          if isPfxWord v || isObjWord v || v / 2 ^ 25 % 64 == 0x3F then .error .prefixRefused
          else (decodeBase { b with pfx := some p } v).map fun i => (i, 2)
    else if isObjWord w then if b.live.isSome then .error .liveRefused else .error .objectRefused
    else (decodeBase b w).map fun i => (i, 1)

/-- The instruction that begins at the head of a list of words, the words up to the end of its packet, and how many
words it takes. -/
def decodeWords : List Nat → Except DecodeError (Instr × Nat)
  | [] => .error .noWord
  | w :: rest =>
    if isObjWord w then
      if w / 2 ^ 31 % 2 == 1 then .error .objectRefused
      else (decodeBound { obj := some (bitsAt w 0 16) } rest).map fun r => (r.1, r.2 + 1)
    else if isLiveWord w then
      if w / 2 ^ 31 % 2 == 1 || w % 2 == 1 then .error .liveRefused
      else (decodeBound { live := some (LiveSet.ofWord w) } rest).map fun r => (r.1, r.2 + 1)
    else decodeBound {} (w :: rest)

/-- Little-endian words of a list of bytes (R3, R55); bytes short of a word make none. -/
def wordsOf : List Byte → List Nat
  | b0 :: b1 :: b2 :: b3 :: rest =>
    (b0.toNat + b1.toNat * 2 ^ 8 + b2.toNat * 2 ^ 16 + b3.toNat * 2 ^ 24) :: wordsOf rest
  | _ => []

/-- Decoding on any bytes: those from a word to the end of its packet. -/
def decodeBytes (bs : List Byte) : Except DecodeError (Instr × Nat) := decodeWords (wordsOf bs)

/-- The bytes of `n` words that together hold the bits of `w`, in the order memory stores them. -/
def bytesOfBits : Nat → Nat → List Byte
  | 0, _ => []
  | n + 1, w => BitVec.ofNat 8 w :: bytesOfBits n (w / 256)

/-- The longest instruction is three words: a packet (R57). -/
def packetBytes (w : Nat) : List Byte := bytesOfBits 12 w

/-- The instruction the decoder reads from a word of the opcode table and words of zeros. -/
def decodeTableWord (_nbits w : Nat) : Option Instr :=
  match decodeBytes (packetBytes w) with
  | .ok r => some r.1
  | .error _ => none

/-- The base word of an encoded instruction, from its row of the opcode table; an event has none. -/
def Instr.baseWord? : Instr → Option Nat
  | .nop f => some (0x00000000 + f.bits)
  | .exit f => some (0x00010000 + f.bits)
  | .yield f => some (0x00020000 + f.bits)
  | .rte f => some (0x00030000 + f.bits)
  | .rtePc f => some (0x00030080 + f.bits)
  | .tfill f => some (0x00040000 + f.bits)
  | .rqcount f => some (0x00050000 + f.bits)
  | .rqread f => some (0x00060000 + f.bits)
  | .rqwrite f => some (0x00070000 + f.bits)
  | .rqdrop f => some (0x00080000 + f.bits)
  | .dield f => some (0x00090000 + f.bits)
  | .diebank f => some (0x000A0000 + f.bits)
  | .syncDie f => some (0x000B0000 + f.bits)
  | .launch f => some (0x000C0000 + f.bits)
  | .trap f => some (0x000D0000 + f.bits)
  | .bkpt f => some (0x000E0000 + f.bits)
  | .tlbinv f => some (0x01800000 + f.bits)
  | .otinv f => some (0x01810000 + f.bits)
  | .ctxsave f => some (0x01820000 + f.bits)
  | .ctxload f => some (0x01830000 + f.bits)
  | .br f => some (0x02000000 + f.bits)
  | .call f => some (0x02400000 + f.bits)
  | .ret f => some (0x02800000 + f.bits)
  | .reform f => some (0x02C00000 + f.bits)
  | .reformX f => some (0x03000000 + f.bits)
  | .calli f => some (0x03400000 + f.bits)
  | .loopImm f => some (0x04000000 + f.bits)
  | .loopReg f => some (0x04800000 + f.bits)
  | .srd f => some (0x06000000 + f.bits)
  | .swr f => some (0x06004000 + f.bits)
  | .movConst f => some (0x06008000 + f.bits)
  | .iadd f => some (0x08000000 + f.bits)
  | .isub f => some (0x08000004 + f.bits)
  | .imul f => some (0x08000008 + f.bits)
  | .imulh f => some (0x0800000C + f.bits)
  | .imin f => some (0x0A000000 + f.bits)
  | .imax f => some (0x0A000004 + f.bits)
  | .iabs f => some (0x0A000008 + f.bits)
  | .ineg f => some (0x0A00000C + f.bits)
  | .iand f => some (0x0C000000 + f.bits)
  | .ior f => some (0x0C000004 + f.bits)
  | .ixor f => some (0x0C000008 + f.bits)
  | .iandn f => some (0x0C00000C + f.bits)
  | .ishl f => some (0x0E000000 + f.bits)
  | .ishr f => some (0x0E000004 + f.bits)
  | .isar f => some (0x0E000008 + f.bits)
  | .irol f => some (0x0E00000C + f.bits)
  | .imad f => some (0x10000000 + f.bits)
  | .imadh f => some (0x10000004 + f.bits)
  | .isad f => some (0x10000008 + f.bits)
  | .ipopc f => some (0x1000000C + f.bits)
  | .iclz f => some (0x12000000 + f.bits)
  | .ictz f => some (0x12000004 + f.bits)
  | .ibrev f => some (0x12000008 + f.bits)
  | .ibfx f => some (0x1200000C + f.bits)
  | .idiv f => some (0x14000000 + f.bits)
  | .irem f => some (0x14000004 + f.bits)
  | .mov f => some (0x14000008 + f.bits)
  | .iadd64 f => some (0x16000000 + f.bits)
  | .isub64 f => some (0x16000004 + f.bits)
  | .ishl64 f => some (0x16000008 + f.bits)
  | .ishr64 f => some (0x1600000C + f.bits)
  | .iaddi f => some (0x18000000 + f.bits)
  | .imuli f => some (0x1A000000 + f.bits)
  | .iandi f => some (0x1C000000 + f.bits)
  | .iori f => some (0x1C000100 + f.bits)
  | .ixori f => some (0x1C000200 + f.bits)
  | .ishli f => some (0x1E000000 + f.bits)
  | .ishri f => some (0x1E000100 + f.bits)
  | .isari f => some (0x1E000200 + f.bits)
  | .iroli f => some (0x1E000300 + f.bits)
  | .fadd f => some (0x20000000 + f.bits)
  | .fsub f => some (0x20000004 + f.bits)
  | .fmul f => some (0x20000008 + f.bits)
  | .ffma f => some (0x2000000C + f.bits)
  | .fmin f => some (0x22000000 + f.bits)
  | .fmax f => some (0x22000004 + f.bits)
  | .fabs f => some (0x22000008 + f.bits)
  | .fneg f => some (0x2200000C + f.bits)
  | .fdiv f => some (0x24000000 + f.bits)
  | .fsqrt f => some (0x24000004 + f.bits)
  | .frcp f => some (0x24000008 + f.bits)
  | .frsq f => some (0x2400000C + f.bits)
  | .ffloor f => some (0x26000000 + f.bits)
  | .fceil f => some (0x26000004 + f.bits)
  | .ftrunc f => some (0x26000008 + f.bits)
  | .frint f => some (0x2600000C + f.bits)
  | .fclass f => some (0x28000000 + f.bits)
  | .fcopys f => some (0x28000004 + f.bits)
  | .fscale f => some (0x28000008 + f.bits)
  | .ffrac f => some (0x2800000C + f.bits)
  | .ftab f => some (0x2A000000 + f.bits)
  | .ftabld f => some (0x2A000004 + f.bits)
  | .ftabbank f => some (0x2A000008 + f.bits)
  | .rand f => some (0x2A00000C + f.bits)
  | .hadd f => some (0x30000000 + f.bits)
  | .hsub f => some (0x30000004 + f.bits)
  | .hmul f => some (0x30000008 + f.bits)
  | .hfma f => some (0x3000000C + f.bits)
  | .dadd f => some (0x32000000 + f.bits)
  | .dsub f => some (0x32000004 + f.bits)
  | .dmul f => some (0x32000008 + f.bits)
  | .dfma f => some (0x3200000C + f.bits)
  | .cvt f => some (0x34000000 + f.bits)
  | .cvts f => some (0x34000004 + f.bits)
  | .pack f => some (0x34000008 + f.bits)
  | .unpack f => some (0x3400000C + f.bits)
  | .fexp2 f => some (0x36000000 + f.bits)
  | .flog2 f => some (0x36000004 + f.bits)
  | .fsin f => some (0x36000008 + f.bits)
  | .fcos f => some (0x3600000C + f.bits)
  | .icmp f => some (0x38000000 + f.bits)
  | .fcmp f => some (0x38000004 + f.bits)
  | .hcmp f => some (0x38000008 + f.bits)
  | .dcmp f => some (0x3800000C + f.bits)
  | .icmpi f => some (0x3A000000 + f.bits)
  | .pand f => some (0x3C000000 + f.bits)
  | .por f => some (0x3C000004 + f.bits)
  | .pxor f => some (0x3C000008 + f.bits)
  | .pandn f => some (0x3C00000C + f.bits)
  | .sel f => some (0x3E000000 + f.bits)
  | .ktov f => some (0x3E000004 + f.bits)
  | .vtok f => some (0x3E000008 + f.bits)
  | .ld f => some (0x40000000 + f.bits)
  | .st f => some (0x44000000 + f.bits)
  | .ldAcq f => some (0x48000000 + f.bits)
  | .stRel f => some (0x48000020 + f.bits)
  | .waitv f => some (0x4A000040 + f.bits)
  | .atomAdd f => some (0x4C000000 + f.bits)
  | .atomMin f => some (0x4C000004 + f.bits)
  | .atomMax f => some (0x4C000008 + f.bits)
  | .atomExch f => some (0x4C00000C + f.bits)
  | .atomAnd f => some (0x4E000000 + f.bits)
  | .atomOr f => some (0x4E000004 + f.bits)
  | .atomXor f => some (0x4E000008 + f.bits)
  | .atomCas f => some (0x4E00000C + f.bits)
  | .redAdd f => some (0x4C000000 + f.bits)
  | .redMin f => some (0x4C000004 + f.bits)
  | .redMax f => some (0x4C000008 + f.bits)
  | .redAnd f => some (0x4E000000 + f.bits)
  | .redOr f => some (0x4E000004 + f.bits)
  | .redXor f => some (0x4E000008 + f.bits)
  | .fence f => some (0x50000000 + f.bits)
  | .qfence f => some (0x50800000 + f.bits)
  | .tfence f => some (0x51000000 + f.bits)
  | .barArrive f => some (0x52000000 + f.bits)
  | .barWait f => some (0x52800000 + f.bits)
  | .barSync f => some (0x53000000 + f.bits)
  | .cvdecl f => some (0x53800000 + f.bits)
  | .abarInit f => some (0x54000000 + f.bits)
  | .abarArrive f => some (0x54800000 + f.bits)
  | .abarWait f => some (0x55000000 + f.bits)
  | .abarTest f => some (0x55800000 + f.bits)
  | .qpush f => some (0x56000000 + f.bits)
  | .qpop f => some (0x56800000 + f.bits)
  | .qcount f => some (0x57000000 + f.bits)
  | .qclose f => some (0x57800000 + f.bits)
  | .sadd f => some (0x58000000 + f.bits)
  | .ssub f => some (0x58000004 + f.bits)
  | .smul f => some (0x58000008 + f.bits)
  | .sfma f => some (0x5800000C + f.bits)
  | .smin f => some (0x5A000000 + f.bits)
  | .smax f => some (0x5A000004 + f.bits)
  | .sdiv f => some (0x5A000008 + f.bits)
  | .ssqrt f => some (0x5A00000C + f.bits)
  | .sexp f => some (0x5C000000 + f.bits)
  | .shsum f => some (0x5C000004 + f.bits)
  | .sdot f => some (0x5C000008 + f.bits)
  | .sbcast f => some (0x5C00000C + f.bits)
  | .slane f => some (0x5E000000 + f.bits)
  | .sins f => some (0x5E000004 + f.bits)
  | .scmp f => some (0x5E000008 + f.bits)
  | .ssel f => some (0x5E00000C + f.bits)
  | .scvtNarrow f => some (0x60000000 + f.bits)
  | .scvtWiden f => some (0x60000010 + f.bits)
  | .swls f => some (0x60000004 + f.bits)
  | .spol f => some (0x62000000 + f.bits)
  | .sfres f => some (0x62000004 + f.bits)
  | .smdiel f => some (0x62000008 + f.bits)
  | .filmAdd f => some (0x66000000 + f.bits)
  | .filmRd f => some (0x66800000 + f.bits)
  | .rast f => some (0x67000000 + f.bits)
  | .visrd f => some (0x67800000 + f.bits)
  | .trace f => some (0x68000000 + f.bits)
  | .tracea f => some (0x68800000 + f.bits)
  | .callsh f => some (0x69000000 + f.bits)
  | .retsh f => some (0x69800000 + f.bits)
  | .stex f => some (0x6A000000 + f.bits)
  | .stexup f => some (0x6A800000 + f.bits)
  | .scmf f => some (0x6B000000 + f.bits)
  | .cast f => some (0x6C000000 + f.bits)
  | .castT8 f => some (0x6C800000 + f.bits)
  | .castT16 f => some (0x6D000000 + f.bits)
  | .castw f => some (0x6E000000 + f.bits)
  | .castwCb3 f => some (0x6E100000 + f.bits)
  | .casttab f => some (0x6E800000 + f.bits)
  | .mma f => some (0x74000000 + f.bits)
  | .mmas f => some (0x74800000 + f.bits)
  | .accz f => some (0x75000000 + f.bits)
  | .accld f => some (0x75800000 + f.bits)
  | .accst f => some (0x76000000 + f.bits)
  | .accstAdd f => some (0x76800000 + f.bits)
  | .accrd f => some (0x77000000 + f.bits)
  | .mseq f => some (0x77800000 + f.bits)
  | .rmaxW f => some (0x78000000 + f.bits)
  | .rminW f => some (0x78400000 + f.bits)
  | .rmedW f => some (0x78800000 + f.bits)
  | .rclampW f => some (0x78C00000 + f.bits)
  | .rssumW f => some (0x79000000 + f.bits)
  | .adjb f => some (0x79400000 + f.bits)
  | .wrel f => some (0x79800000 + f.bits)
  | .rmaxWCr f => some (0x78200000 + f.bits)
  | .rminWCr f => some (0x78600000 + f.bits)
  | .rmedWCr f => some (0x78A00000 + f.bits)
  | .rclampWCr f => some (0x78E00000 + f.bits)
  | .rssumWCr f => some (0x79200000 + f.bits)
  | .fcoll f => some (0x7A000000 + f.bits)
  | .fsend f => some (0x7A800000 + f.bits)
  | .fwin f => some (0x7B000000 + f.bits)
  | .stamp f => some (0x7E000000 + f.bits)
  | _ => none

/-- The words bound before an instruction's base. -/
def Instr.bound : Instr → Bound
  | .reformX f => { live := f.live }
  | .iadd f => { pfx := f.pfx }
  | .isub f => { pfx := f.pfx }
  | .imul f => { pfx := f.pfx }
  | .imulh f => { pfx := f.pfx }
  | .imin f => { pfx := f.pfx }
  | .imax f => { pfx := f.pfx }
  | .iabs f => { pfx := f.pfx }
  | .ineg f => { pfx := f.pfx }
  | .iand f => { pfx := f.pfx }
  | .ior f => { pfx := f.pfx }
  | .ixor f => { pfx := f.pfx }
  | .iandn f => { pfx := f.pfx }
  | .ishl f => { pfx := f.pfx }
  | .ishr f => { pfx := f.pfx }
  | .isar f => { pfx := f.pfx }
  | .irol f => { pfx := f.pfx }
  | .imad f => { pfx := f.pfx }
  | .imadh f => { pfx := f.pfx }
  | .isad f => { pfx := f.pfx }
  | .ipopc f => { pfx := f.pfx }
  | .iclz f => { pfx := f.pfx }
  | .ictz f => { pfx := f.pfx }
  | .ibrev f => { pfx := f.pfx }
  | .ibfx f => { pfx := f.pfx }
  | .idiv f => { pfx := f.pfx }
  | .irem f => { pfx := f.pfx }
  | .mov f => { pfx := f.pfx }
  | .iadd64 f => { pfx := f.pfx }
  | .isub64 f => { pfx := f.pfx }
  | .ishl64 f => { pfx := f.pfx }
  | .ishr64 f => { pfx := f.pfx }
  | .iaddi f => { pfx := f.pfx }
  | .imuli f => { pfx := f.pfx }
  | .iandi f => { pfx := f.pfx }
  | .iori f => { pfx := f.pfx }
  | .ixori f => { pfx := f.pfx }
  | .ishli f => { pfx := f.pfx }
  | .ishri f => { pfx := f.pfx }
  | .isari f => { pfx := f.pfx }
  | .iroli f => { pfx := f.pfx }
  | .fadd f => { pfx := f.pfx }
  | .fsub f => { pfx := f.pfx }
  | .fmul f => { pfx := f.pfx }
  | .ffma f => { pfx := f.pfx }
  | .fmin f => { pfx := f.pfx }
  | .fmax f => { pfx := f.pfx }
  | .fabs f => { pfx := f.pfx }
  | .fneg f => { pfx := f.pfx }
  | .fdiv f => { pfx := f.pfx }
  | .fsqrt f => { pfx := f.pfx }
  | .frcp f => { pfx := f.pfx }
  | .frsq f => { pfx := f.pfx }
  | .ffloor f => { pfx := f.pfx }
  | .fceil f => { pfx := f.pfx }
  | .ftrunc f => { pfx := f.pfx }
  | .frint f => { pfx := f.pfx }
  | .fclass f => { pfx := f.pfx }
  | .fcopys f => { pfx := f.pfx }
  | .fscale f => { pfx := f.pfx }
  | .ffrac f => { pfx := f.pfx }
  | .ftab f => { pfx := f.pfx }
  | .ftabld f => { pfx := f.pfx }
  | .ftabbank f => { pfx := f.pfx }
  | .rand f => { pfx := f.pfx }
  | .hadd f => { pfx := f.pfx }
  | .hsub f => { pfx := f.pfx }
  | .hmul f => { pfx := f.pfx }
  | .hfma f => { pfx := f.pfx }
  | .dadd f => { pfx := f.pfx }
  | .dsub f => { pfx := f.pfx }
  | .dmul f => { pfx := f.pfx }
  | .dfma f => { pfx := f.pfx }
  | .cvt f => { pfx := f.pfx }
  | .cvts f => { pfx := f.pfx }
  | .pack f => { pfx := f.pfx }
  | .unpack f => { pfx := f.pfx }
  | .fexp2 f => { pfx := f.pfx }
  | .flog2 f => { pfx := f.pfx }
  | .fsin f => { pfx := f.pfx }
  | .fcos f => { pfx := f.pfx }
  | .icmp f => { pfx := f.pfx }
  | .fcmp f => { pfx := f.pfx }
  | .hcmp f => { pfx := f.pfx }
  | .dcmp f => { pfx := f.pfx }
  | .icmpi f => { pfx := f.pfx }
  | .pand f => { pfx := f.pfx }
  | .por f => { pfx := f.pfx }
  | .pxor f => { pfx := f.pfx }
  | .pandn f => { pfx := f.pfx }
  | .sel f => { pfx := f.pfx }
  | .ktov f => { pfx := f.pfx }
  | .vtok f => { pfx := f.pfx }
  | .ld f => { pfx := f.pfx }
  | .st f => { pfx := f.pfx }
  | .ldAcq f => { pfx := f.pfx }
  | .stRel f => { pfx := f.pfx }
  | .waitv f => { pfx := f.pfx }
  | .atomAdd f => { pfx := f.pfx }
  | .atomMin f => { pfx := f.pfx }
  | .atomMax f => { pfx := f.pfx }
  | .atomExch f => { pfx := f.pfx }
  | .atomAnd f => { pfx := f.pfx }
  | .atomOr f => { pfx := f.pfx }
  | .atomXor f => { pfx := f.pfx }
  | .atomCas f => { pfx := f.pfx }
  | .redAdd f => { pfx := f.pfx }
  | .redMin f => { pfx := f.pfx }
  | .redMax f => { pfx := f.pfx }
  | .redAnd f => { pfx := f.pfx }
  | .redOr f => { pfx := f.pfx }
  | .redXor f => { pfx := f.pfx }
  | .sadd f => { pfx := f.pfx }
  | .ssub f => { pfx := f.pfx }
  | .smul f => { pfx := f.pfx }
  | .sfma f => { pfx := f.pfx }
  | .smin f => { pfx := f.pfx }
  | .smax f => { pfx := f.pfx }
  | .sdiv f => { pfx := f.pfx }
  | .ssqrt f => { pfx := f.pfx }
  | .sexp f => { pfx := f.pfx }
  | .shsum f => { pfx := f.pfx }
  | .sdot f => { pfx := f.pfx }
  | .sbcast f => { pfx := f.pfx }
  | .slane f => { pfx := f.pfx }
  | .sins f => { pfx := f.pfx }
  | .scmp f => { pfx := f.pfx }
  | .ssel f => { pfx := f.pfx }
  | .scvtNarrow f => { pfx := f.pfx }
  | .scvtWiden f => { pfx := f.pfx }
  | .swls f => { pfx := f.pfx }
  | .spol f => { pfx := f.pfx }
  | .sfres f => { pfx := f.pfx }
  | .smdiel f => { pfx := f.pfx }
  | .filmAdd f => { obj := f.obj }
  | .filmRd f => { obj := f.obj }
  | .rast f => { obj := f.obj }
  | .visrd f => { obj := f.obj }
  | .trace f => { obj := f.obj }
  | .tracea f => { obj := f.obj }
  | .stex f => { obj := f.obj }
  | .stexup f => { obj := f.obj }
  | .scmf f => { obj := f.obj }
  | .cast f => { obj := f.obj }
  | .castT8 f => { obj := f.obj }
  | .castT16 f => { obj := f.obj }
  | .castw f => { obj := f.obj }
  | .castwCb3 f => { obj := f.obj }
  | .casttab f => { obj := f.obj }
  | .mma f => { obj := f.obj }
  | .mmas f => { obj := f.obj }
  | .accld f => { obj := f.obj }
  | .accst f => { obj := f.obj }
  | .accstAdd f => { obj := f.obj }
  | .mseq f => { obj := f.obj }
  | .rmaxW f => { obj := f.obj }
  | .rminW f => { obj := f.obj }
  | .rmedW f => { obj := f.obj }
  | .rclampW f => { obj := f.obj }
  | .rssumW f => { obj := f.obj }
  | .adjb f => { obj := f.obj }
  | _ => {}

/-- The words of an instruction: its live or object word, its prefix, its base (R72). An event has no words. -/
def encode (i : Instr) : List Nat :=
  match i.baseWord? with
  | none => []
  | some w =>
    (match i.bound.obj with | some o => [0x01000000 + o.toNat] | none => []) ++
    (match i.bound.live with | some l => [l.bits] | none => []) ++
    (match i.bound.pfx with | some p => [p.bits] | none => []) ++ [w]

/-- Whether a row of the opcode table has a word. -/
def Instr.isEncoded (i : Instr) : Bool := i.baseWord?.isSome

end Sys2Proof
end

