-- ==== Sys2Proof/Machine/State.lean ====
section
/-! DEFINITION. The state of the machine as plain data: every piece of state the spec names, one field each, with its width,
the rule that names it and its value after reset in brackets at the end of its docstring. -/
namespace Sys2Proof.Machine

/-- A sparse table by number: keys strictly rising; an unlisted key reads as the table's stated default. -/
abbrev Map (α : Type) := List (Nat × α)

/-- The value of a table at a key. -/
def Map.get? {α : Type} (m : Map α) (k : Nat) : Option α :=
  match m with
  | [] => none
  | (j, a) :: rest => if j = k then some a else Map.get? rest k

/-- The value of a table at a key, or the default of an unlisted key. -/
def Map.getD {α : Type} (m : Map α) (k : Nat) (d : α) : α := (m.get? k).getD d

/-- The table with the key's value set, the keys staying in rising order. -/
def Map.set {α : Type} (m : Map α) (k : Nat) (a : α) : Map α :=
  match m with
  | [] => [(k, a)]
  | (j, b) :: rest => if k < j then (k, a) :: (j, b) :: rest else if k = j then (k, a) :: rest else (j, b) :: Map.set rest k a

/-- The table without the key. -/
def Map.del {α : Type} (m : Map α) (k : Nat) : Map α :=
  match m with
  | [] => []
  | (j, b) :: rest => if j = k then Map.del rest k else (j, b) :: Map.del rest k

/-- The table with every value changed by its key. -/
def Map.mapAll {α : Type} (m : Map α) (g : Nat → α → α) : Map α :=
  match m with
  | [] => []
  | (j, a) :: rest => (j, g j a) :: Map.mapAll rest g

/-- The trap causes of R141, in the order of their codes. -/
inductive Cause where
  | illeg | dieundef | empty | uninit | fpinv | fpdiv | bounds | rights | lstack | trdepth | witstale | mmx | pgfault | pgfatal
  | align | priv | bkpt | user
  deriving DecidableEq, Repr

/-- The state of a register (R155): full, empty with a producer, empty with none, or never written. -/
inductive RState where
  | full | empty | uninit | trapEmpty
  deriving DecidableEq, Repr

/-- A v register: its bits and its state. -/
structure VReg where
  val : Word
  st : RState
  deriving DecidableEq, Repr

/-- A w register: its four lanes and its state. -/
structure WReg where
  l0 : Word
  l1 : Word
  l2 : Word
  l3 : Word
  st : RState
  deriving DecidableEq, Repr

/-- A destination: its class as TFDST codes it (0 v, 1 w, 2 predicate, 3 none), its first number, how many registers. -/
structure Dest where
  cls : Nat := 3
  num : Nat := 0
  count : Nat := 0
  deriving DecidableEq, Repr

/-- An operand as read: its words with the state of each one's register. -/
abbrev Opnd := List (Word × RState)

/-- The operands of one thread by the fields that name them: a (M: base), b, the prefix's c, and d read as a source. -/
structure Captured where
  a : Opnd := []
  b : Opnd := []
  c : Opnd := []
  d : Opnd := []
  deriving DecidableEq, Repr

/-- The state of a replay entry (R148). -/
inductive EState where
  | held | flight | done | fault
  deriving DecidableEq, Repr

/-- A page fault that parks an access: the page's virtual address, the kind of access and what the walk met (R325). -/
structure FaultInfo where
  va : Nat
  write : Bool := false
  fetch : Bool := false
  engine : Bool := false
  atomic : Bool := false
  level : Nat := 0
  entry : BitVec 64 := 0
  /-- the context whose address it is (R111, R324) -/
  ctx : Nat := 0
  /-- the page's size as a power of two: what the level at which the walk stopped decides (R320, R324) -/
  bits : Nat := 16
  deriving DecidableEq, Repr

/-- A replay-queue entry (R148, R149, R155). -/
structure Entry where
  /-- names the entry for the events about it; the model's own (R148) -/
  id : Nat
  /-- the instruction, expanded if from a stamp (R149 WORD, PREFIX) -/
  instr : Instr
  /-- the word of its first word (R149 INFO) -/
  pc : Nat
  /-- from a stamp (R149 INFO.S) -/
  stamp : Bool := false
  /-- placed unperformed (R149 INFO.U) -/
  unperformed : Bool := false
  /-- HELD, FLIGHT, DONE or FAULT (R148) -/
  state : EState := .held
  /-- HELD when its queue froze: not dispatched until RTE (R148; false) -/
  stopped : Bool := false
  /-- the slots that hold this issue (R149 LANES) -/
  lanes : BitVec 32 := 0
  /-- the captured operands (R149) -/
  cap : Captured := {}
  /-- its destination (R149 DST) -/
  dst : Dest := {}
  /-- the value it will write, once it has performed (R148) -/
  reply : Option (List Word) := none
  /-- an attached FLIGHT entry of a saved context (R156) -/
  attached : Bool := false
  /-- its accesses have passed the race check (R330) -/
  checked : Bool := true
  /-- what of its thread must have performed before it leaves the partition: everything earlier for a release, and what an acquire
  or a fence puts before it (R340; none) -/
  after : List Nat := []
  /-- the cycle before which a refresh holds its access (R304, R318; 0) -/
  due : Nat := 0
  /-- the region in which its access was recorded, absent where it was not checked (R328, R329, R332; none) -/
  region : Option Nat := none
  /-- the fault it is parked on (R148 FAULT) -/
  fault : Option FaultInfo := none
  /-- the engine operation or group issue it belongs to (R244, R108) -/
  op : Option Nat := none
  /-- dropped by RQDROP: the reply is discarded (R150) -/
  dropped : Bool := false
  /-- the registers of its destination, counted from its first, that REFORM.X has reset: the reply leaves them (R195; none) -/
  lost : List Nat := []
  /-- the issue that made it, the same number in every thread of the group; the model's own (R148) -/
  issueNo : Nat := 0
  /-- its thread's slot at the issue (R152) -/
  slot : Nat := 0
  deriving DecidableEq, Repr

/-- A loop-stack entry (R94). -/
structure LoopEntry where
  count : Nat
  start : Nat
  len : Nat
  deriving DecidableEq, Repr

/-- Why a thread is not ready (R48, R54). -/
inductive Wake where
  /-- it is ready -/
  | ready
  /-- an empty source or destination: its class and number (R50) -/
  | reg (cls num : Nat)
  /-- a full engine queue: cq0 to cq3, then aq, tq, fq (R48) -/
  | room (queue : Nat)
  /-- its replay queue is full (R148) -/
  | replay
  /-- an earlier access, DIELD or FTABLD of its own that has not completed (R103, R110, R138) -/
  | earlier
  /-- an access parked on a page fault (R142) -/
  | fault
  /-- WAITV on a granule, by its physical address (R54) -/
  | granule (pa : Nat)
  /-- BAR.WAIT on a phase of a named barrier (R292) -/
  | bar (n phase : Nat)
  /-- ABAR.WAIT (R296) -/
  | abar (index : Nat)
  /-- QPUSH on a full ring queue (R299) -/
  | ringRoom (obj : Nat)
  /-- RTE, until the set is gathered (R152) -/
  | gather
  /-- an Anvil held by another context (R250) -/
  | anvil
  /-- CTXLOAD, until the context is restored (R153) -/
  | ctxload (ctx : Nat)
  /-- nothing more: its chain waited and also held EXIT, and it ends (R57, R106) -/
  | exit
  deriving DecidableEq, Repr

/-- Where a thread is filed (R48, R52, R145). -/
inductive Place where
  | crucible (n : Nat)
  | spill
  | pinned (group : Nat)
  /-- being issued, moved or fetched for: filed nowhere -/
  | nowhere
  deriving DecidableEq, Repr

/-- A thread's trap frame and pin (R144, R147). -/
structure Frame where
  /-- the pinned group (R144) -/
  group : Nat
  /-- its slot until RTE (R145) -/
  slot : Nat
  /-- first word of the trapping instruction (R147) -/
  pc : Nat
  /-- the resume point (R147) -/
  rpc : Nat
  /-- the word at PC is a stamp (R147) -/
  stamp : Bool
  /-- the decode bank at the trap (R147) -/
  db : Bool
  /-- TFCAUSE (R147) -/
  cause : Nat
  /-- TFMASK (R147) -/
  mask : BitVec 32
  /-- TFINFO (R147) -/
  info : BitVec 64
  /-- TFDST (R147) -/
  dst : Dest
  /-- the call floor to restore (R144) -/
  hfloor : Nat
  /-- the resume point its RTE names, once executed (R152) -/
  resume : Option Nat := none
  deriving DecidableEq, Repr

/-- A frame of the shader stack (R191). -/
structure ShaderFrame where
  rpc : Nat
  link : BitVec 64
  /-- LPSTAT.FLOOR and LPSTAT.DEPTH at the call -/
  floor : Nat
  depth : Nat
  key : BitVec 16
  deriving DecidableEq, Repr

/-- An arrival that waits for what its thread issued earlier: at a named barrier, or at an asynchronous one by the physical
address of its words and its object index, with its units (R293, R295). -/
structure Arrival where
  named : Option Nat := none
  pa : Nat := 0
  index : Nat := 0
  units : Nat := 0
  after : List Nat := []
  deriving DecidableEq, Repr

/-- What a QFENCE, a FENCE, an acquire or a pop puts before later work of its thread: the mask of the queues that wait, bit 7 its
memory accesses, the entries and operations they wait for, and whether that reaches to their acknowledgement by other packages (R103,
R245, R290, R300). -/
structure Fence where
  mask : Nat
  ids : List Nat
  far : Bool := false
  deriving DecidableEq, Repr

/-- One thread. -/
structure Thread where
  /-- its context (4 bits; R31; none at reset: no thread exists) -/
  ctx : Nat
  /-- its launch (id; R31; none) -/
  launch : Nat := 0
  /-- its stage (R36; none) -/
  stage : Nat := 0
  /-- its home cell (id; R199; none) -/
  cell : Nat := 0
  /-- WID (64; R33; set at creation) -/
  wid : BitVec 64 := 0
  /-- the tile that runs it, by virtual number (R92 TILEID; set at placement) -/
  tile : Nat := 0
  /-- its partition (2; R92 PARTID; set at placement) -/
  part : Nat := 0
  /-- its position in the partition, 0 to 511, of its slot number (R326; set at placement) -/
  pos : Nat := 0
  /-- declared v registers (R36 VREGS; set at creation) -/
  vregs : Nat := 8
  /-- declared w registers (R36 WREGS; set at creation) -/
  wregs : Nat := 0
  /-- the PC, a word index (24; R56; ENTRY at creation) -/
  pc : Nat := 0
  /-- the current crucible key (16; R48; 0 at creation) -/
  key : BitVec 16 := 0
  /-- v0 to v127: unlisted vN holds 0x7FA0_0000 | N and is uninitialised (32 each; R120; the marker at creation) -/
  v : Map VReg := []
  /-- w0 to w31: every lane of unlisted wN holds 0x7FA0_0100 | N, uninitialised (4 x 32 each; R120; the marker at creation) -/
  w : Map WReg := []
  /-- k0 to k15, k0 reading true (16; R32, R67; k1 to k15 false at creation) -/
  k : BitVec 16 := 0
  /-- lp0 to lp3 below the depth, outermost first (4 x 64; R94; empty at creation) -/
  loops : List LoopEntry := []
  /-- LPSTAT.FLOOR (3; R94; 0 at creation) -/
  floor : Nat := 0
  /-- LINK (64; R94; 0 at creation) -/
  link : BitVec 64 := 0
  /-- AWIN (64; R92, R101; the context's data window at creation) -/
  awin : BitVec 64 := 0
  /-- FPCTL (32; R114; 0 at creation) -/
  fpctl : BitVec 32 := 0
  /-- UTVEC (32; R92, R142; 0 at creation) -/
  utvec : BitVec 32 := 0
  /-- LATCNT, the stall cycles by cause (64; R306; 0 at creation) -/
  latcnt : BitVec 64 := 0
  /-- the decode bank (1; R73; the selected bank at creation) -/
  bank : Bool := false
  /-- the active bank of each function table (4; R135; the selected banks at creation) -/
  ftActive : BitVec 4 := 0
  /-- ready, or the cause that blocks it (R48; ready at creation) -/
  wait : Wake := .ready
  /-- the further causes that instructions of the same chain have for it to wait, in order (R48, R57; none) -/
  also : List Wake := []
  /-- the cycle from which it has been waiting (R48; the cycle of filing) -/
  since : Nat := 0
  /-- where it resumes once the cause clears, where that is not the instruction it is filed under: after WAITV, BAR.WAIT and
  BAR.SYNC, the next packet's PC (24; R48, R54; none) -/
  next : Option Nat := none
  /-- where it is filed (R48; a crucible at creation) -/
  place : Place := .nowhere
  /-- the key it asked for when it joined the spill list (16; R52; none) -/
  asked : BitVec 16 := 0
  /-- the replay queue, oldest first, at most 16 (R148; empty at creation) -/
  replay : List Entry := []
  /-- its replay queue is frozen (R148; false at creation) -/
  frozen : Bool := false
  /-- the trap frame and pin, absent when not pinned (R144, R147; absent at creation) -/
  frame : Option Frame := none
  /-- the shader stack, whose length is SD (8 frames; R191; empty at creation) -/
  shaders : List ShaderFrame := []
  /-- it may be exported or moved by the riddle since its last REFORM.X (R195; false at creation) -/
  mobile : Bool := false
  /-- it has been exported since it was last drawn (R198; false at creation) -/
  exported : Bool := false
  /-- its live set, as REFORM.X named it (R72, R195; none at creation) -/
  live : Option LiveSet := none
  /-- the last phase of each named barrier it arrived at (R291; none at creation) -/
  arrived : Map Nat := []
  /-- how many operations it has signed on each convergence register (R256; none at creation) -/
  signed : Map Nat := []
  /-- plain stores sent to each package since the last release to it (R348; none at creation) -/
  stream : Map Nat := []
  /-- what the bytes it has stored since its last SYNC.DIE held before, which is what its fetch still reads there
  (R80; none at creation) -/
  stale : Map Byte := []
  /-- it has executed EXIT, and only what it issued remains to complete (R106; false at creation) -/
  ended : Bool := false
  /-- what its QFENCEs, FENCEs, acquires and pops still hold back (R103, R245, R290, R300; none at creation) -/
  fences : List Fence := []
  /-- its barrier arrivals not yet recorded (R293, R295; none at creation) -/
  arriving : List Arrival := []
  /-- the host endpoints it has posted writes to since their last flush (2; R378; none at creation) -/
  posted : List Nat := []
  /-- the page fault that a fetch or a register write of the thread is parked on (R142, R324; none at creation) -/
  parked : Option FaultInfo := none
  /-- where it is going while it is in transit between tiles: tile and partition (R198; none at creation) -/
  going : Option (Nat × Nat) := none
  deriving DecidableEq, Repr

/-- An operation in an engine queue of a thread (R244), with everything captured at issue. -/
structure Op where
  /-- the issuing thread (R244) -/
  tid : Nat
  /-- its context -/
  ctx : Nat
  /-- its home cell -/
  cell : Nat := 0
  /-- the tile that issued it -/
  tile : Nat := 0
  /-- cq0 to cq3, 4 aq, 5 tq, 6 fq (R244) -/
  queue : Nat
  /-- the instruction -/
  instr : Instr
  /-- the privilege it was issued with -/
  privileged : Bool := false
  /-- captured register values -/
  args : List Word := []
  /-- the object-table entries it checked at issue, as their words (R238) -/
  objs : List (Nat × List Word) := []
  /-- operations that must complete first (R245, R257) -/
  after : List Nat := []
  /-- NBV as captured (R231) -/
  nbv : Bool := false
  /-- the signers of a set operation, in order (R256) -/
  signers : List Nat := []
  /-- each signer's captured words (R261, R285) -/
  signArgs : List (Nat × List Word) := []
  /-- progress: the next K block, row or element (R264) -/
  progress : Nat := 0
  /-- it is parked on a page fault (R246) -/
  fault : Option FaultInfo := none
  /-- it has performed and awaits its barrier arrival or local completion (R249, R367) -/
  performed : Bool := false
  /-- a second captured value the operation carries, such as byte counts (R249) -/
  bytes : Nat := 0
  deriving DecidableEq, Repr

/-- A die entry: its three words (R74). -/
structure Die where
  pre : Word
  base : Word
  holes : Word
  deriving DecidableEq, Repr

/-- One bank of a function table (R136). -/
structure FtBank where
  /-- XORG (32; R136; 0) -/
  xorg : Word := 0
  /-- INV (32; R136; 0) -/
  inv : Word := 0
  /-- N (32; R136; 0) -/
  n : Word := 0
  /-- the entries Y and S, unlisted ones zero (64 each; R136; 0) -/
  entries : Map (Word × Word) := []
  deriving DecidableEq, Repr

/-- What a context is doing (R153, R384). -/
inductive CtxPhase where
  /-- its threads may run -/
  | running
  /-- stopped by CTXSAVE, its area not yet written (R153) -/
  | stopped
  /-- halted by a fatal fault, completing its outstanding work (R384) -/
  | halting
  /-- halted and dumped, or halted without a dump (R384) -/
  | halted
  deriving DecidableEq, Repr

/-- What a fatal fault left for the dump (R384, R387). -/
structure FatalInfo where
  cause : Cause
  /-- TFPC, TFINFO, TFMASK and TFDST of the first trap, as registers -/
  tfpc : BitVec 64
  tfinfo : BitVec 64
  tfmask : BitVec 32
  tfdst : BitVec 32
  wid : BitVec 64
  tile : Nat
  part : Nat
  /-- the second cause of a double fault (R146) -/
  second : Option Cause := none
  /-- a fatal fault that raises no trap: CAUSE is 0 (R386) -/
  untrapped : Bool := false
  /-- the threads that trapped, each with its TFINFO, and the first word of the instruction (R388) -/
  trapped : List (Nat × BitVec 64) := []
  pc : Nat := 0
  /-- the cycle of the stop (R386) -/
  cycle : Nat := 0
  deriving DecidableEq, Repr

/-- One context (R31). -/
structure Context where
  /-- running, stopped, halting or halted (R153, R384; running at creation) -/
  phase : CtxPhase := .running
  /-- its privilege (1; R142; fixed at creation) -/
  privileged : Bool := false
  /-- the text base (52; R55; set at creation) -/
  textBase : Nat := 0
  /-- the data window a thread's AWIN starts with (64; R92; set at creation) -/
  window : BitVec 64 := 0
  /-- the die banks, bank * 1024 + entry, unlisted entries all zero (2 x 1024 x 96; R73; zero at creation) -/
  dies : Map Die := []
  /-- the selected bank (1; R73; 0 at creation) -/
  dieSel : Bool := false
  /-- the function-table banks, table * 2 + bank, unlisted ones all zero (8 banks; R135; zero at creation) -/
  ftabs : Map FtBank := []
  /-- the selected bank of each function table (4; R135; 0 at creation) -/
  ftSel : BitVec 4 := 0
  /-- NBV (32; R92; 0 at creation) -/
  nbv : BitVec 32 := 0
  /-- TRAPFATAL (32; R143; 0) -/
  trapfatal : BitVec 32 := 0
  /-- OTBASE (64; R234; 0, the driver's value at creation) -/
  otbase : BitVec 64 := 0
  /-- OTCOUNT (32; R234; 0, the driver's value at creation) -/
  otcount : BitVec 32 := 0
  /-- PTBASE (64; R319; 0, the driver's value at creation) -/
  ptbase : BitVec 64 := 0
  /-- RDCTL (32; R331; 1) -/
  rdctl : BitVec 32 := 1
  /-- RDSTAT (64; R331; 0) -/
  rdstat : BitVec 64 := 0
  /-- DUMPCTL (64; R382; 0) -/
  dumpctl : BitVec 64 := 0
  /-- DUMPSTAT (32; R383; 0) -/
  dumpstat : BitVec 32 := 0
  /-- the eight priority queues: the launches held in each, in the order enqueued (8 x 256; R111; empty) -/
  queues : Map (List Nat) := []
  /-- what halted it, absent while it runs (R384; absent) -/
  fatal : Option FatalInfo := none
  deriving DecidableEq, Repr

/-- One stage of a launch, from the distributor's copy of the record (R36, R38). -/
structure Stage where
  entry : Nat := 0
  vregs : Nat := 8
  wregs : Nat := 0
  depth : Nat := 0
  payload : Nat := 0
  slice : Nat := 0
  /-- the input descriptor of a queue-fed stage -/
  input : Option Nat := none
  ncv : Nat := 0
  nbar : Nat := 0
  outmask : BitVec 32 := 0
  threshold : Nat := 1
  qage : Nat := 8192
  /-- a condition of R202 has held since the last cell was placed, so that the next is placed as soon as it fits (R202; false) -/
  owes : Bool := false
  widths : List Nat := []
  extents : List Nat := []
  /-- the RINGQ object bound to each descriptor, unlisted ones unbound -/
  qbind : Map Nat := []
  /-- the cluster indexes not yet placed: the next D, for FLAT and the first placement of LAZY and EVEN (R42) -/
  nextD : Nat := 0
  /-- the stage is closed: its input queue is closed and drained (R203) -/
  closed : Bool := false
  /-- partitions assigned to the stage by the stage scheduler (R200, R201) -/
  parts : List Nat := []
  /-- placement is over and the LAZY or EVEN ranges are drawn (R43, R46) -/
  divided : Bool := false
  /-- cycles of this epoch in which the stage was blocked on a full output queue (R201) -/
  blockedFor : Nat := 0
  /-- cycles of this epoch in which its input queue was at least three quarters full (R201) -/
  pressedFor : Nat := 0
  deriving DecidableEq, Repr

/-- Where a launch stands (R37). -/
inductive LaunchPhase where
  | queued | accepted | running | final
  deriving DecidableEq, Repr

/-- One launch, from its record (R35 to R38). -/
structure Launch where
  ctx : Nat
  /-- the record's physical address, where STATUS is written (R37) -/
  recPa : Nat
  /-- the record's window offset (R111) -/
  recOff : Nat
  phase : LaunchPhase := .queued
  pipeline : Bool := false
  dist : Nat := 0
  age : Nat := 2048
  dieset : Option Nat := none
  depbar : Option Nat := none
  /-- c0 to c63, unlisted ones zero (R35) -/
  consts : Map Word := []
  stages : List Stage := []
  /-- its record's pages, or an object it names, wait for a page (R324) -/
  fault : Option FaultInfo := none
  /-- the next epoch boundary of a pipeline launch (R201) -/
  epoch : Nat := 0
  deriving DecidableEq, Repr

/-- A cluster of cells (R31). -/
structure Cluster where
  launch : Nat
  stage : Nat := 0
  quad : Nat
  /-- the cells, in order of F1 -/
  cells : List Nat := []
  /-- the cluster index it works on, absent when idle (R34) -/
  d : Option Nat := none
  /-- the values that remain to it, from lo below hi (R43, R46) -/
  lo : Nat := 0
  hi : Nat := 0
  /-- the cycles in which its steal request was first and last sent, whether it is out, and whether it goes over the mesh (R44) -/
  idleSince : Option Nat := none
  lastAsk : Nat := 0
  asking : Bool := false
  mesh : Bool := false
  deriving DecidableEq, Repr

/-- A named barrier of a cell (R291, R292). -/
structure NamedBar where
  phase : Nat := 0
  arrivals : Nat := 0
  deriving DecidableEq, Repr

/-- An operation a convergence register is gathering (R256). -/
structure CvOp where
  /-- its number on that register -/
  k : Nat
  instr : Instr
  signers : List Nat := []
  signArgs : List (Nat × List Word) := []
  objs : List (Nat × List Word) := []
  /-- the aq operations of the signers that precede it (R257) -/
  after : List Nat := []
  deriving DecidableEq, Repr

/-- A convergence register of a cell (R255). -/
structure Cv where
  count : Nat := 0
  opens : List CvOp := []
  deriving DecidableEq, Repr

/-- A cell (R31). -/
structure Cell where
  ctx : Nat
  launch : Nat
  stage : Nat := 0
  cluster : Nat := 0
  f1 : Nat := 0
  /-- the home tile (R199) -/
  tile : Nat
  /-- the slice allocation: physical base and length in bytes (R40) -/
  slice : Nat := 0
  sliceLen : Nat := 0
  /-- named barriers, unlisted ones clear (R40) -/
  bars : Map NamedBar := []
  /-- convergence registers, unlisted ones clear (R255) -/
  cvs : Map Cv := []
  /-- descriptor bindings q0 to q31 (R32) -/
  qbind : Map Nat := []
  /-- FIXA and FIXB (64 each; R47; 0) -/
  fixa : BitVec 64 := 0
  fixb : BitVec 64 := 0
  /-- EVEN: the iterations that remain to the cell (R46) -/
  gLo : Nat := 0
  gHi : Nat := 0
  /-- the partition that each block of 32 values of F0 was given (R40) -/
  blocks : List Nat := []
  /-- its threads all exited and its work performed (R42) -/
  complete : Bool := false
  deriving DecidableEq, Repr

/-- A record pushed and not yet committed: its position, where its slot lies, its words, its thread, and what that thread issued
earlier (R299, R300). -/
structure Push where
  pos : Nat
  pa : Nat
  words : List Word
  tid : Nat
  after : List Nat := []
  deriving DecidableEq, Repr

/-- The counters of a ring queue within one launch (R297). -/
structure Ring where
  launch : Nat
  obj : Nat
  /-- the tile that holds the counters (R297) -/
  host : Nat
  tail : Nat := 0
  done : Nat := 0
  head : Nat := 0
  freed : Nat := 0
  closed : Bool := false
  /-- positions committed ahead of DONE (R299) -/
  committed : List Nat := []
  /-- the records pushed and not yet committed (R299) -/
  inflight : List Push := []
  /-- SLOTS, as bound (R297) -/
  slots : Nat := 0
  /-- the cycles in which the records not yet popped were pushed, by position (R202) -/
  times : Map Nat := []
  deriving DecidableEq, Repr

/-- The key of a crucible (R48). -/
structure CrucKey where
  ctx : Nat
  pc : Nat
  key : BitVec 16
  deriving DecidableEq, Repr

/-- A combining-buffer line (R314): the thread, the 128-byte block, the bytes held and when it was last touched. -/
structure Line where
  tid : Nat
  block : Nat
  bytes : Map Byte := []
  touched : Nat := 0
  order : Nat := 0
  deriving DecidableEq, Repr

/-- A translation a tile holds (R322). -/
structure Tlb where
  ctx : Nat
  vpage : Nat
  /-- the page size as a power of two: 16, 21 or 30 -/
  bits : Nat
  /-- the first physical address of the page -/
  base : Nat
  r : Bool
  w : Bool
  x : Bool
  priv : Bool
  nrd : Bool
  cow : Bool
  /-- the level and the leaf entry it was walked from (R325) -/
  level : Nat := 3
  entry : BitVec 64 := 0
  deriving DecidableEq, Repr

/-- A level-0 or level-1 entry that a die's walker holds (R322): its context, level, address and value. -/
structure WalkEntry where
  ctx : Nat
  level : Nat
  pa : Nat
  entry : BitVec 64
  deriving DecidableEq, Repr

/-- A race tag (R326). -/
structure Tag where
  /-- WSLOT: absent for none (19; R326; none) -/
  wslot : Option Nat := none
  /-- WREG (12; R326; 0) -/
  wreg : Nat := 0
  /-- WA (1; R326; 0) -/
  wa : Bool := false
  /-- WMASK (64; R326; 0) -/
  wmask : BitVec 64 := 0
  /-- RSLOT: absent for none (19; R326; none) -/
  rslot : Option Nat := none
  /-- RREG (12; R326; 0) -/
  rreg : Nat := 0
  /-- RA (1; R326; 0) -/
  ra : Bool := false
  /-- RMASK (64; R326; 0) -/
  rmask : BitVec 64 := 0
  deriving DecidableEq, Repr

/-- A directory entry: the granule, its tag and the context of its last checked access (R327). -/
structure DirEntry where
  granule : Nat
  tag : Tag
  ctx : Nat
  deriving DecidableEq, Repr

/-- What a slot's region counter holds between threads (R328). -/
structure SlotRegion where
  cur : Nat := 0
  close : Option Nat := none
  /-- the last region the tile's sweeper has cleared behind (R328) -/
  swept : Nat := 0
  deriving DecidableEq, Repr

/-- A cached object-table entry (R239): its context, index and eight words of 64 bits. -/
structure OtCache where
  ctx : Nat
  index : Nat
  words : List (BitVec 64)
  deriving DecidableEq, Repr

/-- An item of the chain being issued (R57): an instruction, its first word, and whether it came from a stamp. -/
structure ChainItem where
  instr : Instr
  pc : Nat
  stamp : Bool := false
  deriving DecidableEq, Repr

/-- A trap raised by the chain being issued, taken at the boundary after it (R61, R144). -/
structure Raised where
  cause : Cause
  pc : Nat
  stamp : Bool
  mask : BitVec 32
  dst : Dest
  /-- TFINFO of each slot of the mask (R141) -/
  infos : List (Nat × BitVec 64)
  /-- a decode trap: nothing of the chain has issued (R61) -/
  decode : Bool := false
  deriving DecidableEq, Repr

/-- What a thread of the issuing group does when the chain ends, where it does not just move on (R48, R57). -/
inductive Leaving where
  /-- moved to a packet, the loop stack already settled (R95 to R98) -/
  | goto (pc : Nat)
  /-- filed under a key at a packet (R97) -/
  | reform (pc : Nat) (key : BitVec 16)
  /-- ended (R106) -/
  | exit
  /-- blocked again at this chain's PC (R48) -/
  | again (w : Wake)
  deriving DecidableEq, Repr

/-- The chain being issued: its group and what its instructions have done so far (R50, R57 to R61). -/
structure Issue where
  ctx : Nat
  tile : Nat
  part : Nat
  /-- the threads in their slots -/
  slots : List (Nat × Nat)
  /-- the instruction in progress -/
  cur : ChainItem
  /-- the instructions of the chain still to issue, in word order -/
  todo : List ChainItem := []
  /-- the first word of the chain -/
  first : Nat := 0
  /-- the resume point: the word after the chain (R57) -/
  rpc : Nat := 0
  /-- the threads as they stood before the chain, empty where it holds one instruction (R60) -/
  before : Map Thread := []
  /-- the trap of the earliest instruction that raised one (R61) -/
  raised : Option Raised := none
  /-- dispositions other than moving on -/
  leaving : Map Leaving := []
  /-- a re-injection at RTE: the captured operands of each thread (R152) -/
  captured : Option (Map Captured) := none
  /-- it has been drawn, and has yet to be found free of decode traps before its first instruction issues (R61) -/
  drawn : Bool := false
  deriving DecidableEq, Repr

/-- A pinned group (R144, R152): its members with their slots, and those of them that have exited. -/
structure PinSet where
  ctx : Nat
  tile : Nat
  part : Nat
  members : List (Nat × Nat)
  exited : List (Nat × Nat) := []
  deriving DecidableEq, Repr

/-- What a released pin, or a finished fault record, still has to do in order: a replay entry of a thread to dispatch or execute
again, or, with none, the thread to file at its resume point (R152, R423). -/
structure Reinject where
  tid : Nat
  slot : Nat
  entry : Option Nat
  resume : Nat
  deriving DecidableEq, Repr

/-- A partition of a tile. -/
structure Partition where
  /-- the crucibles that hold threads, by number below 64 (64; R48; all free) -/
  crucibles : Map CrucKey := []
  /-- the spill list, first in first (R52; empty) -/
  spill : List Nat := []
  /-- for how many counted cycles a crucible has held fewer than 16 ready threads, by number (R198; 0) -/
  low : Map Nat := []
  deriving DecidableEq, Repr

/-- A slot of the Anvil's weight store (R250 to R254). -/
structure WeightSlot where
  /-- the bits of a CB3 stream or of dense elements, unlisted words zero (R251) -/
  data : Map Word := []
  /-- the format code, 16 for a CB3 stream, absent when empty (R251) -/
  fmt : Option Nat := none
  rows : Nat := 0
  cols : Nat := 0
  /-- the selected code-table bank (R253) -/
  sel : Nat := 0
  /-- the code tables: bank and block, eight BF16 codes (R253) -/
  tables : Map (List Word) := []
  /-- the object it was loaded from, for the refill of R250 -/
  source : List Word := []
  deriving DecidableEq, Repr

/-- The Anvil of a tile (R250, R258). -/
structure Anvil where
  /-- the context that holds it (R250; none) -/
  owner : Option Nat := none
  /-- acc0 to acc7: element row * 128 + column, unlisted ones zero (8 x 16384; R227; zero) -/
  accs : Map (Map (BitVec 64)) := []
  /-- the weight slots, unlisted ones empty (32; R251; empty) -/
  slots : Map WeightSlot := []
  /-- elements whose next read finds an uncorrectable error: slot and stream element, accumulator and element (R265; none) -/
  wbad : List (Nat × Nat) := []
  abad : List (Nat × Nat) := []
  deriving DecidableEq, Repr

/-- The power state of a tile (R413). -/
inductive PowerState where
  | run | retain | gated
  deriving DecidableEq, Repr

/-- A write or a barrier update from outside a saved context, held on the home tile of its cell (R157). -/
structure Deferral where
  ctx : Nat
  cell : Nat
  /-- the bytes of a write, by offset in the cell's allocation -/
  bytes : Map Byte := []
  /-- a barrier update: the barrier's offset in the allocation, the units, and the status bits it sets -/
  arrival : Option (Nat × Nat × Nat) := none
  /-- the barrier's object index (R407; 0) -/
  index : Nat := 0
  /-- the updates of a FILM.ADD (R212) -/
  film : Option Op := none
  deriving DecidableEq, Repr

/-- One tile. -/
structure Tile where
  /-- its partitions, unlisted ones empty (4; R48; empty) -/
  parts : Map Partition := []
  /-- the combining buffer, at most 64 lines (64; R314; empty) -/
  lines : List Line := []
  /-- the TLB, at most 2,048 translations (2048; R322; empty) -/
  tlb : List Tlb := []
  /-- cached object-table entries (R239; empty) -/
  otCache : List OtCache := []
  /-- the Anvil with its accumulators and weight slots (R250; not held) -/
  anvil : Anvil := {}
  /-- ERRSTICKY (32; R265; 0) -/
  errsticky : Word := 0
  /-- ERRLOG0 to ERRLOG15, unlisted ones zero (16 x 64; R266; 0) -/
  errlog : Map (BitVec 64) := []
  /-- what is held for contexts that are out, in arrival order, at most 512 (512; R157; empty) -/
  deferrals : List Deferral := []
  /-- ENWT n, unlisted ones at their defaults (16 x 16; R412; 64, 8, 4, 2, 24, 48, 8, 1, 4, 320, 480, 6, 4000, 240, 0, 0) -/
  enwt : Map Nat := []
  /-- ENACC c, unlisted ones zero (16 x 64; R412; DESIGN CHOICE 0, entry 11) -/
  enacc : Map (BitVec 64) := []
  /-- running, gated or retained (R413; running) -/
  power : PowerState := .run
  /-- TVOLT (16; R414; 600) -/
  tvolt : Nat := 600
  /-- TFREQ (16; R414; 3600) -/
  tfreq : Nat := 3600
  /-- TTEMP (16; R414; 0) -/
  ttemp : Nat := 0
  /-- TPWR (32; R414; 0) -/
  tpwr : Nat := 0
  /-- TSTATE: microseconds in ACTIVE, GATED and RETAIN (21, 21 and 22; R414; 0) -/
  act : Nat := 0
  gat : Nat := 0
  ret : Nat := 0
  /-- TCORR (32; R414; 0) -/
  tcorr : Nat := 0
  /-- PWRLIM (32; R414; 11900) -/
  pwrlim : Nat := 11900
  /-- the cycle in which a thread or engine work was last on it; the model's own (R413; 0) -/
  busy : Nat := 0
  deriving DecidableEq, Repr

/-- One trigger of the timing block (R213, R214). -/
structure Trigger where
  /-- TRIGNS (32; R213; 0) -/
  ns : Nat := 0
  /-- TRIGSEC (64; R213; 0) -/
  sec : Nat := 0
  /-- the time in effect, in nanoseconds: TRIGNS and TRIGSEC as last taken (80; R215; 0) -/
  time : Nat := 0
  /-- TRIGREC (64; R213; 0) -/
  record : BitVec 64 := 0
  /-- TRIGCTL (32; R214; 0) -/
  ctl : BitVec 32 := 0
  /-- TRIGSTAT.MISSED (16; R214; 0) -/
  missed : Nat := 0
  /-- TRIGSTAT.FIRED (1; R214; 0) -/
  fired : Bool := false
  /-- TRIGSTAT.LAST (2; R214; 0) -/
  last : Nat := 0
  /-- the record of a firing that waits for its page (R111, R324; none) -/
  fault : Option FaultInfo := none
  deriving DecidableEq, Repr

/-- The timing block (R213). -/
structure Timing where
  /-- the PTP clock in nanoseconds, TIMENS and the seconds of TIMESEC together (80; R213; 0) -/
  clock : Nat := 0
  /-- TIMESEC: the seconds latched by the last TIMENS read (48; R213; 0) -/
  secLatch : Nat := 0
  /-- what the rate trim has gathered towards the next nanosecond, in 2^-12 of 10^-9 ns; the model's own (R213; 0) -/
  trim : Int := 0
  /-- TIMEADJ (32; R213; 0) -/
  adj : BitVec 32 := 0
  /-- TIMESRC (2; R213; 0) -/
  src : Nat := 0
  /-- TODNEXT (48; R213; 0) -/
  todnext : Nat := 0
  /-- TODNEXT has been written since the last PPS edge (1; R213; DESIGN CHOICE false, entry 5) -/
  todWritten : Bool := false
  /-- the triggers, unlisted ones as after reset (16; R213; 0) -/
  triggers : Map Trigger := []
  deriving DecidableEq, Repr

/-- The registers and the state of one UALink port (R417, R418). -/
structure Link where
  /-- LINKSTAT.UP (1; R417; 0) -/
  up : Bool := false
  /-- LINKSTAT.SPARED (1; R417; 0) -/
  spared : Bool := false
  /-- LINKSTAT.DEAD (1; R417; 0) -/
  dead : Bool := false
  /-- LINKSTAT.LANES (5; R417; 0) -/
  lanes : BitVec 5 := 0
  /-- LINKCTL.DISABLE (1; R417; 0) -/
  disable : Bool := false
  /-- CRCERR (64; R417; 0) -/
  crcerr : BitVec 64 := 0
  /-- REPLAYS (64; R417; 0) -/
  replays : BitVec 64 := 0
  /-- RESENDS (64; R417; 0) -/
  resends : BitVec 64 := 0
  /-- LANEERR 0 to 4, unlisted ones zero (5 x 32; R417; 0) -/
  laneerr : Map Nat := []
  /-- the port is retraining (R418; false) -/
  retraining : Bool := false
  deriving DecidableEq, Repr

/-- What a packet in the retry store asks of its target (R365). -/
inductive Payload where
  /-- a load, for the entry of a thread -/
  | load (addr size : Nat)
  /-- a store of bytes with their mask -/
  | store (addr : Nat) (bytes : Map Byte)
  /-- an atomic, with the count of the stream's stores where it is a release (R348) -/
  | atomic (addr : Nat) (op : MemOp) (a b : BitVec 64) (count : Option Nat)
  /-- a release store with the count of the stream's stores (R348) -/
  | release (addr : Nat) (bytes : Map Byte) (count : Nat)
  /-- a collective push -/
  | push (p : CollPacket)
  deriving DecidableEq, Repr

/-- One copy in the retry store (R365). -/
structure Retry where
  target : Nat
  /-- the thread and entry it serves, and its context -/
  tid : Nat := 0
  entry : Nat := 0
  ctx : Nat := 0
  payload : Payload
  /-- the further lanes of a vector request (R363) -/
  more : List Payload := []
  /-- the issue a vector request gathers, and its 64 KiB page (R363) -/
  issue : Nat := 0
  page : Nat := 0
  resends : Nat := 0
  /-- the cycle of its last sending (R365) -/
  since : Nat := 0
  /-- the alternative of the route that it took (R362) -/
  alt : Nat := 0
  /-- names it for what waits for its acknowledgement; the model's own (R348) -/
  id : Nat := 0
  /-- the engine operation it belongs to -/
  op : Option Nat := none
  deriving DecidableEq, Repr

/-- A release that waits for its stream's stores (R348). -/
structure HeldRelease where
  src : Nat
  seq : Nat
  payload : Payload
  /-- how many stores of the stream are still to arrive -/
  missing : Nat
  deriving DecidableEq, Repr

/-- An open window on a collective tree (R371). -/
structure OpenTree where
  ctx : Nat
  cell : Nat := 0
  /-- the destination's and the barrier's entries, as checked at issue -/
  dst : List Word := []
  barrier : List Word := []
  barIndex : Nat := 0
  width : Nat := 1
  aborted : Bool := false
  /-- the abort has still to reach its barrier (R375; false) -/
  ending : Bool := false
  /-- a delivery is parked on a page fault (R246) -/
  fault : Option FaultInfo := none
  deriving DecidableEq, Repr

/-- A group of router slots: the contributions that have arrived, by POS (R369, R370). -/
structure RouterGroup where
  job : Nat
  tree : Nat
  chunk : Nat
  fanin : Nat
  contributions : Map CollPacket := []
  /-- the words of its slots that are uncorrectable: POS and word (R374; none) -/
  bad : List (Nat × Nat) := []
  deriving DecidableEq, Repr

/-- The fabric unit of the package. -/
structure Fabric where
  /-- FABID.PKG (10; R361; 0) -/
  fabid : Nat := 0
  /-- ROUTE p, unlisted ones zero (1024 x 64; R361; 0) -/
  routes : Map (BitVec 64) := []
  /-- FJOB n, unlisted ones zero (16 x 32; R368; DESIGN CHOICE 0, entry 6) -/
  fjob : Map (BitVec 32) := []
  /-- FXMODE n, unlisted ones zero (16 x 64; R363; DESIGN CHOICE 0, entry 6) -/
  fxmode : Map (BitVec 64) := []
  /-- the tree table by 32-bit word, unlisted ones zero (1024 x 64 bytes; R368; DESIGN CHOICE 0, entry 6) -/
  trees : Map (BitVec 32) := []
  /-- the retry store, by sequence number (16 MiB; R365; empty) -/
  retry : Map Retry := []
  /-- the next sequence number (R365; DESIGN CHOICE 0, entry 6) -/
  seq : Nat := 0
  /-- the sequence numbers already performed, of each source (R365; none) -/
  seen : List (Nat × Nat) := []
  /-- the stores that have arrived of each source's stream since its last release (R348; none) -/
  arrivals : Map Nat := []
  /-- release writes held until their stream has arrived (R348; none) -/
  held : List HeldRelease := []
  /-- the trees open on this package (R371; none) -/
  opens : Map OpenTree := []
  /-- the pushes of this rank that are outstanding: tree and chunk (R372; none) -/
  outstanding : List (Nat × Nat) := []
  /-- router slot groups in use (4096 slots; R370; none) -/
  groups : List RouterGroup := []
  /-- contributions that find no slot (R370; none) -/
  waiting : List CollPacket := []
  /-- results for this package's open windows, not yet delivered (R371; none) -/
  deliveries : List CollPacket := []
  /-- aborts already forwarded: job and origin (R375; none) -/
  aborts : List (Nat × Nat) := []
  /-- packets sent on each port, in order: what the other packages have been sent; the model's own (R369; none) -/
  sent : List (Nat × CollPacket) := []
  /-- aborts sent: job, origin and port; the model's own (R375; none) -/
  abortsSent : List (Nat × Nat × Nat) := []
  /-- answers to remote requests: source, sequence number and value; the model's own (R360; none) -/
  replies : List (Nat × Nat × List Byte) := []
  /-- the ports, unlisted ones as after reset (24; R417; down) -/
  links : Map Link := []
  deriving DecidableEq, Repr

/-- The host side (R376 to R380). -/
structure HostSide where
  /-- HWBASE (64; R376; 0) -/
  hwbase : BitVec 64 := 0
  /-- HRBASE n, unlisted ones zero (16 x 64; R380; DESIGN CHOICE 0, entry 6) -/
  hrbase : Map (BitVec 64) := []
  /-- the MSI-X table and pending bits by 32-bit word, unlisted ones zero (R379; DESIGN CHOICE 0, entry 6) -/
  msix : Map (BitVec 32) := []
  /-- what host reads and atomics have returned, newest last; the model's own (R377; none) -/
  answers : List (Nat × List Byte) := []
  /-- the endpoints of the zero-length reads sent before releases, newest last; the model's own (R378; none) -/
  flushes : List Nat := []
  deriving DecidableEq, Repr

/-- The refresh state of one pseudo-channel (R303, R304, R318). -/
structure Refresh where
  /-- STEP as recorded by the last REFPHASE write that named it (8; R303; 0) -/
  step : Nat := 0
  /-- the recorded block, by physical address / 2048 (R303; none) -/
  block : Option Nat := none
  /-- refreshes postponed (4; R305 OWED; 0) -/
  owed : Nat := 0
  /-- the bank the per-bank rotation points at (4; R303, R318; DESIGN CHOICE 0, entry 7) -/
  bank : Nat := 0
  /-- reads of the block accepted (R305 READS, counted without bound; 0) -/
  reads : Nat := 0
  /-- forced all-bank refreshes (R305 FORCED, counted without bound; 0) -/
  forced : Nat := 0
  /-- postponements (R305 POSTP, counted without bound; 0) -/
  postp : Nat := 0
  /-- guard refreshes (R305 GUARD, counted without bound; 0) -/
  guard : Nat := 0
  /-- the cycle of the latest REFPHASE write, forced refresh or guard refresh (R304; 0) -/
  since : Nat := 0
  /-- the cycle at which the refresh timer was last at phase zero (R303, R318; 0) -/
  phase : Nat := 0
  /-- the banks a refresh holds, with the cycle it lasts to and whether it is a guard refresh (16; R304, R318; none) -/
  held : Map (Nat × Bool) := []
  deriving DecidableEq, Repr

/-- A breakpoint of a partition (R401). -/
structure Breakpoint where
  /-- BKPC (32; R401; 0) -/
  pc : BitVec 32 := 0
  /-- BKSEL (32; R401; 0) -/
  sel : BitVec 32 := 0
  /-- BKRANGE (64; R401; 0) -/
  range : BitVec 64 := 0
  deriving DecidableEq, Repr

/-- A watchpoint of a partition (R403). -/
structure Watchpoint where
  /-- WPADDR (64; R403; 0) -/
  addr : BitVec 64 := 0
  /-- WPCTL (32; R403; 0) -/
  ctl : BitVec 32 := 0
  deriving DecidableEq, Repr

/-- The debug block of a partition (R398 to R411). -/
structure DebugBlock where
  /-- STOPCTL.PEERS (1; R398; 0) -/
  peers : Bool := false
  /-- STOPCTL.CLAIMSW (1; R398; 0) -/
  claimsw : Bool := false
  /-- STOPCTL.STOP (1; R398; 0) -/
  stop : Bool := false
  /-- STOPSTAT.STOPPED (1; R398; 0) -/
  stopped : Bool := false
  /-- STOPSTAT.REFUSED (1; R398; 0) -/
  refused : Bool := false
  /-- STOPSTAT.CTX (4; R398; 0) -/
  ctx : Nat := 0
  /-- STOPSTAT.INDEX (3; R398; 0) -/
  index : Nat := 0
  /-- STOPSTAT.REASON (4; R398; 0) -/
  reason : Nat := 0
  /-- STOPCYC (64; R398; 0) -/
  stopcyc : Nat := 0
  /-- THRSEL.POS (9; R400; 0) -/
  pos : Nat := 0
  /-- THRREG (32; R400; 0) -/
  reg : BitVec 32 := 0
  /-- THRDATA (128; R400; DESIGN CHOICE 0, entry 8) -/
  data : BitVec 128 := 0
  /-- how many reads of a replay entry's fields have been made through THRDATA; the model's own (R400; 0) -/
  rqReads : Nat := 0
  /-- the breakpoints, unlisted ones as after reset (8; R401; as after reset) -/
  bks : Map Breakpoint := []
  /-- the watchpoints, unlisted ones as after reset (4; R403; as after reset) -/
  wps : Map Watchpoint := []
  /-- SAMPCTL (32; R409; 0) -/
  sampctl : BitVec 32 := 0
  /-- the thread position last sampled, absent before the first (9; R409; none) -/
  sampled : Option Nat := none
  /-- LCCTL (32; R410; 0) -/
  lcctl : BitVec 32 := 0
  /-- LCRANGE n, unlisted ones zero (16 x 64; R410; 0) -/
  lcranges : Map (BitVec 64) := []
  /-- LC(k, n) at 17k + n, unlisted ones zero (85 x 64; R410; 0) -/
  lcs : Map (BitVec 64) := []
  /-- the chain held by a breakpoint, a watchpoint or a claimed BKPT (R402 to R404; none) -/
  held : Option Issue := none
  /-- released for one issue (R404; false) -/
  stepping : Bool := false
  /-- the context whose stop on another partition stops this one at the end of the cycle (R399; none) -/
  peer : Option Nat := none
  /-- threads released from a held chain that have not issued it yet, which is not matched again: thread and PC (R404; none) -/
  skip : List (Nat × Nat) := []
  /-- the cycle of the last issue, and the threads that issued in it; the model's own (R409; none) -/
  lastIssue : Nat × List Nat := (0, [])
  deriving DecidableEq, Repr

/-- The trace control block (R405). -/
structure TraceBlock where
  /-- TRCTL (32; R405; 0) -/
  ctl : BitVec 32 := 0
  /-- TRCTX (32; R405; 0) -/
  ctxs : BitVec 32 := 0
  /-- TRBASE (64; R405; 0) -/
  base : BitVec 64 := 0
  /-- TRSIZE (32; R405; 0) -/
  size : BitVec 32 := 0
  /-- TRPTR (64; R405; 0) -/
  ptr : Nat := 0
  /-- TRLOST (32; R405; 0) -/
  lost : Nat := 0
  /-- the sources that have dropped records since their last one (R406; none) -/
  owing : List Nat := []
  /-- the records that have left by the trace port, in order; the model's own (R405; none) -/
  port : List (List Byte) := []
  deriving DecidableEq, Repr

/-- The debug port (R394, R395). -/
structure DebugPort where
  /-- the instruction register (8; R394; PRESUMED 0x01, the standard's IDCODE, entry 9) -/
  ir : BitVec 8 := 1
  /-- the bypass bit (1; R394; PRESUMED 0, the standard's, entry 9) -/
  bypass : Bool := false
  /-- the boundary-scan cells as preloaded (R394; DESIGN CHOICE none, entry 9) -/
  cells : List Bool := []
  /-- what EXTEST drives on the pins (R394; DESIGN CHOICE none, entry 9) -/
  driven : Option (List Bool) := none
  /-- DBGADDR (64; R394; DESIGN CHOICE 0, entry 9) -/
  addr : BitVec 64 := 0
  /-- what the last Capture-DR put into the scanned register (544; R394; DESIGN CHOICE 0, entry 9) -/
  captured : BitVec 544 := 0
  /-- debug is locked (R395; true) -/
  locked : Bool := true
  /-- how many nonces have been issued; the last is the one in force (R395; DESIGN CHOICE 0, entry 9) -/
  nonces : Nat := 0
  deriving DecidableEq, Repr

/-- Where the boot stands (R415). -/
inductive BootPhase where
  /-- reset has been left and the ROM has not yet chosen an image -/
  | rom
  /-- both slots failed -/
  | recovery
  /-- the firmware runs and the launcher is loaded -/
  | running
  deriving DecidableEq, Repr

/-- Boot, identity and attestation (R415, R416, R420). -/
structure Boot where
  /-- where the boot stands (R415; rom) -/
  phase : BootPhase := .rom
  /-- firmware image slots A and B of the module flash (R415; DESIGN CHOICE empty, entry 10) -/
  slotA : List Byte := []
  slotB : List Byte := []
  /-- M0 to M7, unlisted ones zero (8 x 256; R416; DESIGN CHOICE 0, entry 10) -/
  measures : Map (BitVec 256) := []
  /-- what SPDM responses have been given: endpoint, request and response; the model's own (R416; none) -/
  responses : List (Nat × List Byte × List Byte) := []
  /-- the physical tile behind each virtual number, unlisted ones their own number (R420; DESIGN CHOICE identity, entry 10) -/
  tileMap : Map Nat := []
  /-- the physical tiles retired (R420; none) -/
  retired : List Nat := []
  /-- virtual numbers lost for want of a spare (R420; none) -/
  lostTiles : List Nat := []
  /-- retirement requests that wait for the tile to empty (R420; none) -/
  retiring : List Nat := []
  /-- rows remapped to spares, by the address of the row's first byte (R419; none) -/
  rows : List Nat := []
  deriving DecidableEq, Repr

/-- A CTXLOAD in progress: the slot to fill, the thread that waits, and where the area's 64 KiB pieces lie, as address and
length (R153). -/
structure Loading where
  slot : Nat
  tid : Nat
  pages : List (Nat × Nat)
  /-- it is parked on a page fault in the sources of a weight slot (R250; none) -/
  fault : Option FaultInfo := none
  deriving DecidableEq, Repr

/-- What the opaque sections of a save area hold, by the token that stands in them (R154). -/
structure Image where
  /-- the context's number when it was saved -/
  ctx : Nat
  context : Context
  launches : Map Launch := []
  clusters : Map Cluster := []
  cells : Map Cell := []
  threads : Map Thread := []
  pins : Map PinSet := []
  rings : List Ring := []
  ops : Map Op := []
  /-- the weight slots and accumulators the context held, by tile -/
  anvils : Map Anvil := []
  /-- the threads in the order of their records -/
  order : List Nat := []
  /-- where the pieces of the area that CTXSAVE wrote lie, and the offset of its THREAD section (R156) -/
  pages : List (Nat × Nat) := []
  records : Nat := 0
  /-- KEEP: its slice allocations are still resident -/
  keep : Bool := false
  /-- what released pins of it still had to do (R152) -/
  reinject : List Reinject := []
  /-- the cycle of the save -/
  cycle : Nat := 0
  /-- the CTXLOAD that waits to restore it (R153) -/
  loading : Option Loading := none
  deriving DecidableEq, Repr

/-- What a write to a register, or the clock, sets off as a step of its own. -/
inductive Deferred where
  /-- TIMESTEP written through the window (R213) -/
  | timestep (v : BitVec 64)
  /-- LINKCTL written through the window (R417) -/
  | linkDisable (port : Nat) (disable : Bool)
  /-- a trigger's time has passed (R215) -/
  | fire (n : Nat)
  /-- a trigger fires whose record's page could not be serviced (R111, R324) -/
  | fireFailed (n : Nat)
  /-- a collective failed: its job is aborted (R375) -/
  | abort (job origin : Nat)
  /-- a context saves itself, once the chain that holds its CTXSAVE has issued (R153) -/
  | save (tid ctx off : Nat) (keep : Bool)
  deriving DecidableEq, Repr

/-- The state of the machine. -/
structure State where
  /-- physical memory: every byte that is not zero, by address (52-bit addresses; R311; DESIGN CHOICE all zero, entry 1) -/
  mem : List Host.Cell := []
  /-- CYCLE: tile cycles since device reset (64; R92; 0) -/
  cycle : Nat := 0
  /-- the contexts, by number below 16 (16; R31; none) -/
  ctxs : Map Context := []
  /-- the launches (R31, R35; none) -/
  launches : Map Launch := []
  /-- the clusters placed (R31; none) -/
  clusters : Map Cluster := []
  /-- the cells placed (R31; none) -/
  cells : Map Cell := []
  /-- the threads (393,216; R31; none) -/
  threads : Map Thread := []
  /-- the tiles, by virtual number, unlisted ones as after reset; from 194 on the other blocks with a clock of their own (194; R311, R413;
  as after reset) -/
  tiles : Map Tile := []
  /-- the ring queues of the launches (R297; none) -/
  rings : List Ring := []
  /-- the engine operations queued or in progress, by the order of issue (R244; none) -/
  ops : Map Op := []
  /-- the race tags of slice granules, by physical granule number, unlisted ones none (192 each; R326; none) -/
  tags : Map Tag := []
  /-- the memory-side directory, by stack * 65536 + set, most recent first, at most 16 (8 x 65536 x 16; R327; empty) -/
  directory : Map (List DirEntry) := []
  /-- the region counters of the slots, unlisted ones zero (12 each; R328; 0) -/
  slots : Map SlotRegion := []
  /-- the entries each die's walker holds, at most 64 (5 dies; R322; none) -/
  walkers : Map (List WalkEntry) := []
  /-- the pinned groups (R144; none) -/
  pins : Map PinSet := []
  /-- 8-byte words whose reading finds an uncorrectable error, by physical address / 8 (R315; none) -/
  ecc : List Nat := []
  /-- FLTRING (64; R324; 0) -/
  fltring : BitVec 64 := 0
  /-- FLTTAIL (32; R324; 0) -/
  flttail : BitVec 32 := 0
  /-- the fault records not yet finished: sequence number, context, page address, what the walk met (R324; none) -/
  faults : List (Nat × Nat × Nat × FaultInfo) := []
  /-- the timing block (R213; as after reset) -/
  timing : Timing := {}
  /-- the fabric unit and the ports (R360 to R375; as after reset) -/
  fabric : Fabric := {}
  /-- the host side (R376 to R380; as after reset) -/
  host : HostSide := {}
  /-- REFPHASE (32; R303; 0) -/
  refphase : BitVec 32 := 0
  /-- the pseudo-channel that REFSTAT reports, none from reset (R305; none) -/
  refReported : Option Nat := none
  /-- the pseudo-channels, stack * 64 + channel * 2 + pseudo-channel, unlisted ones as after reset (512; R316; as after reset) -/
  refresh : Map Refresh := []
  /-- the debug blocks, tile * 4 + partition, unlisted ones as after reset (776; R398; as after reset) -/
  debug : Map DebugBlock := []
  /-- the trace control block (R405; as after reset) -/
  trace : TraceBlock := {}
  /-- the debug port (R394; as after reset) -/
  port : DebugPort := {}
  /-- boot, identity and tiles in service (R415, R416, R420; as after reset) -/
  boot : Boot := {}
  /-- what the opaque sections of save areas hold, by token (R154; none) -/
  images : Map Image := []
  /-- the context whose launch was placed last (R41; DESIGN CHOICE 15, entry 12) -/
  rotor : Nat := 15
  /-- the chain being issued; the model's own (R57; DESIGN CHOICE none, entry 2) -/
  issue : Option Issue := none
  /-- replay entries that a released pin still has to dispatch or re-execute, in order (R152; none) -/
  reinject : List Reinject := []
  /-- events from outside the machine or the scheduler still to happen, in order; the model's own (DESIGN CHOICE none, entry 3) -/
  agenda : List Instr := []
  /-- what a register write or the clock has set off and the machine does next, in order; the model's own (R215, R379;
  DESIGN CHOICE none, entry 3) -/
  deferred : List Deferred := []
  /-- the tile and partition whose selector acts next; the model's own (R51; DESIGN CHOICE tile 0 partition 0, entry 3) -/
  focus : Nat × Nat := (0, 0)
  /-- the next unused number for entries, operations, threads, launches and groups; the model's own (DESIGN CHOICE 1, entry 2) -/
  nextId : Nat := 1
  /-- how many free values have been taken; the model's own (DESIGN CHOICE 0, entry 4) -/
  free : Nat := 0
  deriving DecidableEq, Repr

/-- Why a run stops: an agent outside the device names a physical address that R311 does not assign. -/
inductive Fault where
  /-- raised by the accesses of hosts and fabric peers to an address of no range of R311, where the spec gives no
  effect; safe: a run that the hardware might continue stops -/
  | unassignedAddress (pa : Nat)
  deriving DecidableEq, Repr

/-- Why the model gives an instruction no meaning. -/
inductive Refusal where
  /-- raised by the arm of an instruction that has no meaning yet; safe: nothing is claimed of it -/
  | notModelled (mnemonic : String)
  deriving DecidableEq, Repr

/-- The machine right after device reset: no context, no launch, no thread, memory with nothing listed, every register at
the value its field's docstring states. -/
def State.reset : State := {}

end Sys2Proof.Machine
end

