-- ==== Sys2Proof/Machine/Ops.lean ====
section
/-! DEFINITION. The named operations over memory, registers, threads, filing and translation, and taking and leaving a trap,
that the meanings share (spec/03_execution.md, spec/07_traps.md, spec/17_memory.md). -/
namespace Sys2Proof.Machine

/-! ## Memory -/

/-- The state that an event leaves, which always goes on. -/
def nextOr (s : State) (r : Host.Outcome State Fault Refusal) : State :=
  match r with
  | .next s' => s'
  | _ => s

/-- The byte at a physical address: an unlisted one reads as zero. -/
def State.byte (s : State) (pa : Nat) : Byte := Map.getD s.mem pa 0

/-- The memory with one byte written, in canonical form: no entry is zero. -/
def memSet (m : List Host.Cell) (pa : Nat) (b : Byte) : List Host.Cell :=
  if b = 0 then Map.del m pa else Map.set m pa b

/-- Keys strictly rising. -/
def Map.rising {α : Type} : Map α → Bool
  | [] => true
  | [_] => true
  | (i, _) :: (j, b) :: rest => decide (i < j) && Map.rising ((j, b) :: rest)

/-- The canonical form of memory: addresses strictly rising, no entry zero. -/
def Memory.wf (m : List Host.Cell) : Bool := Map.rising m && m.all fun c => c.2 != 0

/-- Memory with one byte written. -/
def State.setByte (s : State) (pa : Nat) (b : Byte) : State := { s with mem := memSet s.mem pa b }

/-- The n bytes from an address. -/
def State.bytes (s : State) (pa : Nat) : Nat → List Byte
  | 0 => []
  | n + 1 => s.byte pa :: State.bytes s (pa + 1) n

/-- Bytes written from an address up. -/
def State.setBytes (s : State) (pa : Nat) : List Byte → State
  | [] => s
  | b :: bs => State.setBytes (s.setByte pa b) (pa + 1) bs

/-- The number that bytes hold, the first least significant (R3). -/
def ofBytes : List Byte → Nat
  | [] => 0
  | b :: bs => b.toNat + 256 * ofBytes bs

/-- The n bytes of a number, the least significant first (R3). -/
def toBytes : Nat → Nat → List Byte
  | 0, _ => []
  | n + 1, v => BitVec.ofNat 8 v :: toBytes n (v / 256)

/-- The number of n bytes at an address. -/
def State.num (s : State) (pa n : Nat) : Nat := ofBytes (s.bytes pa n)

/-- A number written as n bytes at an address. -/
def State.setNum (s : State) (pa n v : Nat) : State := s.setBytes pa (toBytes n v)

/-- The ranges of the physical space (R311). -/
inductive Region where
  | hbm | slice | privileged | multicast | fabric (package off : Nat) | host | unassigned
  deriving DecidableEq, Repr

/-- The range an address lies in (R311). -/
def regionOf (pa : Nat) : Region :=
  if pa < 0x8000000000 then .hbm
  else if pa < 0x8030800000 then .slice
  else if 0x10000000000 ≤ pa ∧ pa < 0x20000000000 then .privileged
  else if 0x2000000000000 ≤ pa ∧ pa < 0x3000000000000 then .multicast
  else if 0x4000000000000 ≤ pa ∧ pa < 0x4000000000000 + 1024 * 2 ^ 40 then
    .fabric ((pa - 0x4000000000000) / 2 ^ 40) (pa % 2 ^ 40)
  else if 0x8000000000000 ≤ pa ∧ pa < 0x10000000000000 then .host
  else .unassigned

/-! ## Numbers, tiles and partitions -/

/-- A fresh number. -/
def State.fresh (s : State) : Nat × State := (s.nextId, { s with nextId := s.nextId + 1 })

/-- A tile, as after reset when unlisted. -/
def State.tile (s : State) (n : Nat) : Tile := Map.getD s.tiles n {}

/-- A tile replaced. -/
def State.setTile (s : State) (n : Nat) (t : Tile) : State := { s with tiles := Map.set s.tiles n t }

/-- A partition of a tile. -/
def Tile.partition (t : Tile) (p : Nat) : Partition := Map.getD t.parts p {}

/-- A partition. -/
def State.partition (s : State) (n p : Nat) : Partition := (s.tile n).partition p

/-- A partition replaced. -/
def State.setPartition (s : State) (n p : Nat) (q : Partition) : State :=
  s.setTile n { s.tile n with parts := Map.set (s.tile n).parts p q }

/-- A context. -/
def State.ctx? (s : State) (n : Nat) : Option Context := Map.get? s.ctxs n

/-- A context changed, if it exists. -/
def State.modCtx (s : State) (n : Nat) (g : Context → Context) : State :=
  match s.ctx? n with
  | none => s
  | some c => { s with ctxs := Map.set s.ctxs n (g c) }

/-- A context's privilege; an absent one has none. -/
def State.privileged (s : State) (n : Nat) : Bool := ((s.ctx? n).map Context.privileged).getD false

/-- A thread. -/
def State.thread? (s : State) (tid : Nat) : Option Thread := Map.get? s.threads tid

/-- A thread changed, if it exists. -/
def State.modThread (s : State) (tid : Nat) (g : Thread → Thread) : State :=
  match s.thread? tid with
  | none => s
  | some t => { s with threads := Map.set s.threads tid (g t) }

/-- A cell changed, if it exists. -/
def State.modCell (s : State) (n : Nat) (g : Cell → Cell) : State :=
  match Map.get? s.cells n with
  | none => s
  | some c => { s with cells := Map.set s.cells n (g c) }

/-- A launch changed, if it exists. -/
def State.modLaunch (s : State) (n : Nat) (g : Launch → Launch) : State :=
  match Map.get? s.launches n with
  | none => s
  | some l => { s with launches := Map.set s.launches n (g l) }

/-- The stage block of a thread's launch. -/
def State.stageOf (s : State) (t : Thread) : Stage :=
  match Map.get? s.launches t.launch with
  | none => {}
  | some l => (l.stages[t.stage]?).getD {}

/-! ## Registers -/

/-- The marker of a register never written (R120). -/
def marker (cls n : Nat) : Word := BitVec.ofNat 32 (0x7FA00000 + cls * 256 + n)

/-- v register n. -/
def Thread.vreg (t : Thread) (n : Nat) : VReg := Map.getD t.v n ⟨marker 0 n, .uninit⟩

/-- w register n. -/
def Thread.wreg (t : Thread) (n : Nat) : WReg :=
  Map.getD t.w n ⟨marker 1 n, marker 1 n, marker 1 n, marker 1 n, .uninit⟩

/-- The lanes of a w register, lane 0 first (R162). -/
def WReg.words (r : WReg) : List Word := [r.l0, r.l1, r.l2, r.l3]

/-- A w register from four lanes; missing lanes are zero. -/
def WReg.ofWords (ws : List Word) (st : RState) : WReg := ⟨ws.getD 0 0, ws.getD 1 0, ws.getD 2 0, ws.getD 3 0, st⟩

/-- Predicate n; k0 reads as true (R67). -/
def Thread.pred (t : Thread) (n : Nat) : Bool := n == 0 || t.k.getLsbD n

/-- v register n written. -/
def Thread.setV (t : Thread) (n : Nat) (x : Word) (st : RState) : Thread := { t with v := Map.set t.v n ⟨x, st⟩ }

/-- w register n written. -/
def Thread.setW (t : Thread) (n : Nat) (ws : List Word) (st : RState) : Thread :=
  { t with w := Map.set t.w n (WReg.ofWords ws st) }

/-- Predicate n written; a write to k0 is discarded (R89). -/
def Thread.setK (t : Thread) (n : Nat) (b : Bool) : Thread :=
  if n = 0 then t
  else { t with k := if b then t.k ||| BitVec.ofNat 16 (2 ^ n) else t.k &&& ~~~(BitVec.ofNat 16 (2 ^ n)) }

/-- Consecutive v registers written. -/
def Thread.setVs (t : Thread) (n : Nat) (st : RState) : List Word → Thread
  | [] => t
  | x :: xs => Thread.setVs (t.setV n x st) (n + 1) st xs

/-- `count` consecutive w registers written, four words each. -/
def Thread.setWs (t : Thread) (n : Nat) (st : RState) (ws : List Word) : Nat → Thread
  | 0 => t
  | c + 1 => Thread.setWs (t.setW n (ws.take 4) st) (n + 1) st (ws.drop 4) c

/-- A destination written with its words, in register order. -/
def Thread.writeDest (t : Thread) (d : Dest) (ws : List Word) (st : RState) : Thread :=
  if d.cls = 0 then t.setVs d.num st (ws.take d.count)
  else if d.cls = 1 then t.setWs d.num st ws d.count
  else if d.cls = 2 then t.setK d.num ((ws.getD 0 0).getLsbD 0)
  else t

/-- v registers from n marked with a state, their bits kept. -/
def Thread.markV (t : Thread) (n : Nat) (st : RState) : Nat → Thread
  | 0 => t
  | c + 1 => Thread.markV (t.setV n (t.vreg n).val st) (n + 1) st c

/-- w registers from n marked with a state, their bits kept. -/
def Thread.markW (t : Thread) (n : Nat) (st : RState) : Nat → Thread
  | 0 => t
  | c + 1 => Thread.markW (t.setW n (t.wreg n).words st) (n + 1) st c

/-- A destination marked empty or trap-empty; a predicate keeps its value (R121, R144). -/
def Thread.markDest (t : Thread) (d : Dest) (st : RState) : Thread :=
  if d.cls = 0 then t.markV d.num st d.count
  else if d.cls = 1 then t.markW d.num st d.count
  else t

/-- The state of a register, by class and number. -/
def Thread.regState (t : Thread) (cls n : Nat) : RState :=
  if cls = 0 then (t.vreg n).st else if cls = 1 then (t.wreg n).st else .full

/-- The first register of a destination that waits for a producer, if any (R50). -/
def Thread.pendingDest (t : Thread) (d : Dest) : Option (Nat × Nat) :=
  if d.cls < 2 then
    ((List.range d.count).find? fun i => t.regState d.cls (d.num + i) == .empty).map fun i => (d.cls, d.num + i)
  else none

/-! ## Special-register images (R94, R147) -/

/-- LPSTAT (R94). -/
def Thread.lpstat (t : Thread) : Nat := t.floor * 8 + t.loops.length

/-- lp n; an entry at or above the depth reads zero (R94). -/
def Thread.lp (t : Thread) (n : Nat) : Nat :=
  match t.loops[n]? with
  | none => 0
  | some e => e.count * 2 ^ 32 + e.start * 2 ^ 10 + e.len

/-- TFDST of a destination (R147): PAIR where it is a pair of v registers. -/
def Dest.bits (d : Dest) : Nat :=
  (if d.cls = 0 ∧ d.count = 2 then 2 ^ 16 else 0) + d.cls * 256 + d.num

/-- TFPC of a frame (R147). -/
def Frame.tfpc (f : Frame) : Nat :=
  (if f.db then 2 ^ 57 else 0) + (if f.stamp then 2 ^ 56 else 0) + f.rpc % 2 ^ 24 * 2 ^ 32 + f.pc % 2 ^ 24

/-- The code of a cause (R141). -/
def Cause.code : Cause → Nat
  | .illeg => 1 | .dieundef => 2 | .empty => 3 | .uninit => 4 | .fpinv => 5 | .fpdiv => 6 | .bounds => 7
  | .rights => 8 | .lstack => 9 | .trdepth => 10 | .witstale => 11 | .mmx => 12 | .pgfault => 13 | .pgfatal => 14
  | .align => 15 | .priv => 16 | .bkpt => 17 | .user => 18

/-! ## Filing (R48 to R52) -/

/-- The threads filed in a crucible of a partition. -/
def State.inPlace (s : State) (tile part : Nat) (p : Place) : List (Nat × Thread) :=
  s.threads.filter fun x => x.2.tile == tile && x.2.part == part && x.2.place == p

/-- The crucible that holds a key, if one does. -/
def Partition.find (q : Partition) (k : CrucKey) : Option Nat := (q.crucibles.find? fun e => e.2 == k).map Prod.fst

/-- The lowest free crucible (R52). -/
def Partition.freeCrucible (q : Partition) : Option Nat :=
  (List.range 64).find? fun n => (Map.get? q.crucibles n).isNone

/-- A thread taken out of its place; a crucible left empty becomes free (R52). -/
def State.unfile (s : State) (tid : Nat) : State :=
  match s.thread? tid with
  | none => s
  | some t =>
    let s' := s.modThread tid fun t => { t with place := .nowhere }
    let q := s'.partition t.tile t.part
    match t.place with
    | .crucible n =>
      if (s'.inPlace t.tile t.part (.crucible n)).isEmpty then
        s'.setPartition t.tile t.part { q with crucibles := Map.del q.crucibles n }
      else s'
    | .spill => s'.setPartition t.tile t.part { q with spill := q.spill.filter (· != tid) }
    | _ => s'

/-- Where a partition files a context's thread under a PC and key: the crucible that holds the key, a free one, the one
that holds key 0, or none (R52). -/
def Partition.placeFor (q : Partition) (ctx pc : Nat) (key : BitVec 16) : Option (Nat × CrucKey) :=
  match q.find ⟨ctx, pc, key⟩ with
  | some n => some (n, ⟨ctx, pc, key⟩)
  | none =>
    match q.freeCrucible with
    | some n => some (n, ⟨ctx, pc, key⟩)
    | none => (q.find ⟨ctx, pc, 0⟩).map fun n => (n, ⟨ctx, pc, 0⟩)

/-- A thread filed at a PC under a key, ready or blocked (R48, R52); a pinned thread stays in its set (R145). -/
def State.file (s : State) (tid pc : Nat) (key : BitVec 16) (wait : Wake) : State :=
  match s.thread? tid with
  | none => s
  | some t =>
    match t.frame with
    | some f => s.modThread tid fun t => { t with
        pc := pc, wait := wait, since := s.cycle, place := .pinned f.group, next := none }
    | none =>
      let s := s.unfile tid
      let q := s.partition t.tile t.part
      match q.placeFor t.ctx pc key with
      | some (n, ck) =>
        let s := s.setPartition t.tile t.part { q with
          crucibles := Map.set q.crucibles n ck, low := if (Map.get? q.crucibles n).isSome then q.low else Map.del q.low n }
        s.modThread tid fun t =>
          { t with pc := pc, key := ck.key, wait := wait, since := s.cycle, place := .crucible n, next := none }
      | none =>
        let s := s.setPartition t.tile t.part { q with spill := q.spill ++ [tid] }
        s.modThread tid fun t => { t with
          pc := pc, wait := wait, since := s.cycle, place := .spill, asked := key, next := none }

/-- A thread that waits at one instruction and resumes elsewhere, filed under the one it waits at (R48, R54). -/
def State.fileAt (s : State) (tid at' resume : Nat) (key : BitVec 16) (wait : Wake) : State :=
  (s.file tid at' key wait).modThread tid fun t => { t with next := if at' = resume then none else some resume }

/-- The PC at which a thread goes on. -/
def Thread.resumePc (t : Thread) : Nat := t.next.getD t.pc

/-- The key that a thread takes when it is drawn: its crucible's, or the one recorded on the spill list (R48, R52). -/
def Thread.drawKey (t : Thread) : BitVec 16 := if t.place = .spill then t.asked else t.key

/-- A thread that no longer waits and resumes elsewhere files there (R48, R54). -/
def State.fileNext (s : State) (tid : Nat) : State :=
  match s.thread? tid with
  | none => s
  | some t =>
    match t.next with
    | none => s
    | some pc => if t.wait = .ready && !t.ended then s.file tid pc t.drawKey .ready else s

/-- Every thread whose wait has ended files where it resumes (R48, R54). -/
def State.fileResumed (s : State) : State := s.threads.foldl (fun s x => s.fileNext x.1) s

/-- A thread with one more cause to wait: a granule, whose write is an event that may not be missed, before the others (R54, R57). -/
def Thread.block (t : Thread) (w : Wake) : Thread :=
  match t.wait, w with
  | .ready, _ => { t with wait := w }
  | old, .granule pa => { t with wait := .granule pa, also := old :: t.also }
  | _, _ => { t with also := t.also ++ [w] }

/-- A thread whose cause to wait has cleared: it waits for the next one, or is ready, its wait starting now (R48). -/
def Thread.unblock (t : Thread) (now : Nat) : Thread :=
  match t.also with
  | [] => { t with wait := .ready, since := now }
  | w :: ws => { t with wait := w, also := ws, since := now }

/-- Every thread blocked on a cause that p names is ready again (R48). -/
def State.wake (s : State) (p : Wake → Bool) : State :=
  { s with threads := Map.mapAll s.threads fun _ t => if p t.wait then t.unblock s.cycle else t }

/-! ## Packets and the PC (R55 to R57) -/

/-- The word after a chain whose last word is w: past word 2 comes word 0 of the next packet, the next word index (R57). -/
def wordAfter (w : Nat) : Nat := w + 1

/-- The packet of a word. -/
def packetOf (w : Nat) : Nat := w / 3

/-- R99: the loop stack on leaving a packet sequentially, and the packet gone back to, if any. -/
def loopEnd (packet floor : Nat) : List LoopEntry → List LoopEntry × Option Nat
  | [] => ([], none)
  | e :: inner =>
    -- the list runs innermost first here
    if (e :: inner).length = floor ∨ packet ≠ e.start + e.len then (e :: inner, none)
    else if e.count - 1 ≠ 0 then ({ e with count := e.count - 1 } :: inner, some e.start)
    else loopEnd packet floor inner

/-- R99 for a thread: its loops and the PC it goes to after leaving the packet of word `last`. -/
def Thread.leavePacket (t : Thread) (last next : Nat) : Thread × Nat :=
  if packetOf last = packetOf next then (t, next)
  else
    let r := loopEnd (packetOf last) t.floor t.loops.reverse
    ({ t with loops := r.1.reverse }, match r.2 with | some p => 3 * p | none => next)

/-- R100: the entries a taken transfer to a packet leaves, innermost first in the list. -/
def unwindTo (packet floor : Nat) : List LoopEntry → List LoopEntry
  | [] => []
  | e :: inner =>
    if (e :: inner).length ≤ floor ∨ (e.start ≤ packet ∧ packet ≤ e.start + e.len) then e :: inner
    else unwindTo packet floor inner

/-- R100 for a thread. -/
def Thread.unwind (t : Thread) (packet : Nat) : Thread :=
  { t with loops := (unwindTo packet t.floor t.loops.reverse).reverse }

/-! ## Contexts that halt (R142, R146, R384) -/

/-- Of two fatal traps in one cycle, the one whose group the header records: the lower tile's, then the lower partition's (R386). -/
def FatalInfo.sooner (i j : FatalInfo) : Bool :=
  i.cycle == j.cycle && !i.untrapped && !j.untrapped && decide (i.tile * 4 + i.part < j.tile * 4 + j.part)

/-- A fatal fault: the context halts and completes its outstanding work (R384); of several in one cycle the header records one (R386). -/
def State.fatal (s : State) (ctx : Nat) (i : FatalInfo) : State :=
  let i := { i with cycle := s.cycle }
  s.modCtx ctx fun c =>
    match c.fatal with
    | none => { c with phase := .halting, fatal := some i }
    | some j => if c.phase = .halting && i.sooner j then { c with fatal := some i } else c

/-! ## Taking a trap (R142, R144) -/

/-- The lowest slot of a mask. -/
def lowestSlot (m : BitVec 32) : Nat := ((List.range 32).find? fun i => m.getLsbD i).getD 0

/-- The bit of a slot in a mask. -/
def slotBit (slot : Nat) : BitVec 32 := BitVec.ofNat 32 (2 ^ slot)

/-- TFINFO that a slot finds: its own value, or that of the lowest slot of the mask (R144). -/
def Raised.infoOf (r : Raised) (slot : Nat) : BitVec 64 :=
  (Map.get? r.infos slot).getD ((Map.get? r.infos (lowestSlot r.mask)).getD 0)

/-- The fatal record of a trap. -/
def fatalInfo (t : Thread) (cause : Cause) (pc rpc : Nat) (stamp : Bool) (mask : BitVec 32) (info : BitVec 64)
    (dst : Dest) : FatalInfo :=
  { cause := cause
    tfpc := BitVec.ofNat 64 (Frame.tfpc { group := 0, slot := 0, pc := pc, rpc := rpc, stamp := stamp, db := t.bank
                                          cause := 0, mask := 0, info := 0, dst := {}, hfloor := 0 })
    tfinfo := info, tfmask := mask, tfdst := BitVec.ofNat 32 dst.bits, wid := t.wid, tile := t.tile, part := t.part }

/-- The thread in the lowest slot of a mask, of a pinned set (R386). -/
def PinSet.lowest (p : PinSet) (m : BitVec 32) : Option Nat := Map.get? p.members (lowestSlot m)

/-- The threads of a mask, each with its TFINFO (R144, R388). -/
def Raised.trapped (r : Raised) (members : List (Nat × Nat)) : List (Nat × BitVec 64) :=
  (members.filter fun m => r.mask.getLsbD m.1).map fun m => (m.2, r.infoOf m.1)

/-- R146: the record of a double fault is the frame of the first trap with the second cause. -/
def doubleFault (t : Thread) (f : Frame) (second : Cause) : FatalInfo :=
  { cause := (([.illeg, .dieundef, .empty, .uninit, .fpinv, .fpdiv, .bounds, .rights, .lstack, .trdepth, .witstale, .mmx,
      .pgfault, .pgfatal, .align, .priv, .bkpt, .user] : List Cause)[f.cause - 1]?).getD .illeg
    tfpc := BitVec.ofNat 64 f.tfpc, tfinfo := f.info, tfmask := f.mask, tfdst := BitVec.ofNat 32 f.dst.bits
    wid := t.wid, tile := t.tile, part := t.part, second := some second }

/-- R142: whether a trap is fatal, for the thread in the lowest slot of its mask. -/
def trapIsFatal (c : Context) (u : Thread) (cause : Cause) : Bool :=
  cause == .pgfatal || (c.trapfatal.getLsbD cause.code && cause != .pgfault) || u.utvec == 0 || u.frame.isSome

/-- The entry of one thread into its handler (R144). -/
def Thread.enter (t : Thread) (group slot : Nat) (r : Raised) (rpc : Nat) (vec : BitVec 32) (now : Nat) : Thread :=
  { t with
    frozen := true
    replay := t.replay.map fun e => { e with stopped := e.state == .held }
    floor := t.loops.length
    frame := some { group := group, slot := slot, pc := r.pc, rpc := rpc, stamp := r.stamp, db := t.bank
                    cause := r.cause.code, mask := r.mask, info := r.infoOf slot, dst := r.dst, hfloor := t.floor }
    pc := vec.toNat, place := .pinned group, wait := .ready, since := now, next := none }

/-- R144: the trap taken by a group, each thread with its own resume point. -/
def State.takeTrap (s : State) (ctx tile part : Nat) (members : List (Nat × Nat)) (r : Raised) (rpc : Nat → Nat) : State :=
  match Map.get? members (lowestSlot r.mask) >>= s.thread?, s.ctx? ctx with
  | some u, some c =>
    if trapIsFatal c u r.cause then
      let tid := Map.get? members (lowestSlot r.mask)
      let i := match u.frame with
        | some f =>
          let first := ((Map.get? s.pins f.group).bind fun p => p.lowest f.mask) >>= s.thread?
          { doubleFault u f r.cause with wid := (first.map Thread.wid).getD u.wid }
        | none => fatalInfo u r.cause r.pc (rpc (tid.getD 0)) r.stamp r.mask (r.infoOf (lowestSlot r.mask)) r.dst
      s.fatal ctx { i with trapped := r.trapped members, pc := r.pc }
    else
      let g := s.nextId
      let s := members.foldl (fun s (m : Nat × Nat) => s.unfile m.2) { s with nextId := g + 1 }
      { s with
        threads := Map.mapAll s.threads fun tid t =>
          match members.find? (fun m => m.2 == tid) with
          | some m => t.enter g m.1 r (rpc tid) u.utvec s.cycle
          | none => t
        pins := Map.set s.pins g { ctx := ctx, tile := tile, part := part, members := members } }
  | _, _ => s

end Sys2Proof.Machine
end

