-- ==== Sys2Proof/Machine/Mmio.lean ====
section
/-! DEFINITION. The registers of the privileged window (R213, R214, R361, R363, R368, R376, R379, R380, R417), read and written by
32-bit word; a 64-bit register is two words. -/
namespace Sys2Proof.Machine

/-- Half `hi` of a 64-bit value. -/
def half64 (v : Nat) (hi : Bool) : Nat := if hi then v / 2 ^ 32 % 2 ^ 32 else v % 2 ^ 32

/-- A 64-bit value with one half replaced. -/
def setHalf64 (v : Nat) (hi : Bool) (w : Nat) : Nat :=
  if hi then v % 2 ^ 32 + w % 2 ^ 32 * 2 ^ 32 else v / 2 ^ 32 % 2 ^ 32 * 2 ^ 32 + w % 2 ^ 32

/-! ## The timing block (R213 to R215) -/

/-- A trigger's TRIGSTAT (R214). -/
def Trigger.stat (t : Trigger) : Nat := t.missed * 65536 + (if t.fired then 4 else 0) + t.last

/-- A trigger, as after reset when unlisted. -/
def Timing.trigger (t : Timing) (n : Nat) : Trigger := Map.getD t.triggers n {}

/-- A trigger replaced. -/
def Timing.setTrigger (t : Timing) (n : Nat) (g : Trigger) : Timing := { t with triggers := Map.set t.triggers n g }

/-- EN of TRIGCTL (R214). -/
def Trigger.armed (t : Trigger) : Bool := t.ctl.getLsbD 31

/-- A write of half a TRIGSEC: the time taken whole, TRIGNS with it (R215). -/
def Trigger.writeSec (t : Trigger) (v : Nat) : Trigger :=
  { t with sec := v % 2 ^ 48, time := v % 2 ^ 48 * 1000000000 + t.ns }

/-- A write of TRIGNS: of an armed trigger it waits for the write of TRIGSEC (R215). -/
def Trigger.writeNs (t : Trigger) (v : Nat) : Trigger :=
  if t.armed then { t with ns := v } else { t with ns := v, time := t.sec * 1000000000 + v }

/-- The word of the timing block at an offset (R213). -/
def Timing.word (t : Timing) (off : Nat) : Nat :=
  if off = 0 then t.clock % 1000000000
  else if off = 8 then half64 t.secLatch false
  else if off = 0xC then half64 t.secLatch true
  else if off = 0x10 then t.adj.toNat
  else if off = 0x20 then t.src
  else if off = 0x28 then half64 t.todnext false
  else if off = 0x2C then half64 t.todnext true
  else if 0x100 ≤ off ∧ off < 0x300 then
    let g := t.trigger ((off - 0x100) / 0x20)
    match (off - 0x100) % 0x20 with
    | 0x00 => g.ns
    | 0x08 => half64 g.sec false
    | 0x0C => half64 g.sec true
    | 0x10 => half64 g.record.toNat false
    | 0x14 => half64 g.record.toNat true
    | 0x18 => g.ctl.toNat
    | 0x1C => g.stat
    | _ => 0
  else 0

/-- TIMEADJ's clamp (R213). -/
def clampAdj (v : BitVec 32) : BitVec 32 :=
  if v.toInt > 2048000000 then BitVec.ofInt 32 2048000000
  else if v.toInt < -2048000000 then BitVec.ofInt 32 (-2048000000) else v

/-- A word written into the timing block; TIMESTEP is not here, since it may fire triggers (R213). -/
def Timing.setWord (t : Timing) (off v : Nat) : Timing :=
  if off = 0 then { t with clock := t.clock / 1000000000 * 1000000000 + v % 1000000000 }
  else if off = 8 then { t with secLatch := setHalf64 t.secLatch false v }
  else if off = 0xC then { t with secLatch := setHalf64 t.secLatch true (v % 65536) }
  else if off = 0x10 then { t with adj := clampAdj (BitVec.ofNat 32 v) }
  else if off = 0x20 then { t with src := if v % 4 = 3 then 0 else v % 4 }
  else if off = 0x28 then { t with todnext := setHalf64 t.todnext false v, todWritten := true }
  else if off = 0x2C then { t with todnext := setHalf64 t.todnext true (v % 65536), todWritten := true }
  else if 0x100 ≤ off ∧ off < 0x300 then
    let n := (off - 0x100) / 0x20
    let g := t.trigger n
    match (off - 0x100) % 0x20 with
    | 0x00 => t.setTrigger n (g.writeNs v)
    | 0x08 => t.setTrigger n (g.writeSec (setHalf64 g.sec false v))
    | 0x0C => t.setTrigger n (g.writeSec (setHalf64 g.sec true v))
    | 0x10 => t.setTrigger n { g with record := BitVec.ofNat 64 (setHalf64 g.record.toNat false v) }
    | 0x14 => t.setTrigger n { g with record := BitVec.ofNat 64 (setHalf64 g.record.toNat true (v % 16)) }
    | 0x18 => t.setTrigger n { g with ctl := BitVec.ofNat 32 v }
    | 0x1C => t.setTrigger n { g with missed := v / 65536 % 65536, fired := g.fired && !(v / 4 % 2 == 1) }
    | _ => t
  else t

/-- The clock moved, and the triggers that it passes on the way, to fire in increasing number (R215). -/
def Timing.passed (t : Timing) (new : Nat) : List Nat :=
  (List.range 16).filter fun n => (t.trigger n).armed && decide (t.clock < (t.trigger n).time ∧ (t.trigger n).time ≤ new)

/-- The nanoseconds in which the 80-bit clock runs round. -/
def clockSpan : Nat := 2 ^ 48 * 1000000000

/-- The clock moved, by counting or by a step, with the firings that follow; a backward one fires nothing (R215). -/
def State.moveClock (s : State) (new : Int) : State :=
  { s with timing := { s.timing with clock := (new % clockSpan).toNat }
           deferred := s.deferred ++ (s.timing.passed new.toNat).map Deferred.fire }

/-! ## Ports (R417) -/

/-- A port, as after reset when unlisted. -/
def Fabric.link (f : Fabric) (p : Nat) : Link := Map.getD f.links p {}

/-- A port replaced. -/
def Fabric.setLink (f : Fabric) (p : Nat) (l : Link) : Fabric := { f with links := Map.set f.links p l }

/-- LINKSTAT (R417). -/
def Link.stat (l : Link) : Nat :=
  (if l.up then 2 ^ 31 else 0) + (if l.spared then 2 ^ 30 else 0) + (if l.dead then 2 ^ 29 else 0) + l.lanes.toNat

/-- The word of a link block at an offset (R417). -/
def Link.word (l : Link) (off : Nat) : Nat :=
  match off with
  | 0x00 => l.stat
  | 0x04 => if l.disable then 2 ^ 31 else 0
  | 0x08 => half64 l.crcerr.toNat false
  | 0x0C => half64 l.crcerr.toNat true
  | 0x10 => half64 l.replays.toNat false
  | 0x14 => half64 l.replays.toNat true
  | 0x18 => half64 l.resends.toNat false
  | 0x1C => half64 l.resends.toNat true
  | _ => if 0x20 ≤ off ∧ off < 0x34 ∧ off % 4 = 0 then Map.getD l.laneerr ((off - 0x20) / 4) 0 else 0

/-- LINKCTL written: DISABLE holds the port down (R417). -/
def Link.setDisable (l : Link) (d : Bool) : Link :=
  { l with disable := d, up := l.up && !d, lanes := if d then 0 else l.lanes }

/-! ## The whole window (R379) -/

/-- The word at an offset of the privileged window; unlisted offsets read zero (R379). -/
def State.mmioWord (s : State) (off : Nat) : Nat :=
  if off < 0x300 then s.timing.word off
  else if off = 0x100000 then s.fabric.fabid
  else if 0x100010 ≤ off ∧ off < 0x100050 then (Map.getD s.fabric.fjob ((off - 0x100010) / 4) 0).toNat
  else if 0x100100 ≤ off ∧ off < 0x100180 then
    half64 (Map.getD s.fabric.fxmode ((off - 0x100100) / 8) 0).toNat (off / 4 % 2 == 1)
  else if 0x200000 ≤ off ∧ off < 0x202000 then
    half64 (Map.getD s.fabric.routes ((off - 0x200000) / 8) 0).toNat (off / 4 % 2 == 1)
  else if 0x300000 ≤ off ∧ off < 0x310000 then (Map.getD s.fabric.trees ((off - 0x300000) / 4) 0).toNat
  else if off = 0x400000 ∨ off = 0x400004 then half64 s.host.hwbase.toNat (off / 4 % 2 == 1)
  else if 0x400100 ≤ off ∧ off < 0x400180 then
    half64 (Map.getD s.host.hrbase ((off - 0x400100) / 8) 0).toNat (off / 4 % 2 == 1)
  else if 0x500000 ≤ off ∧ off < 0x500408 then (Map.getD s.host.msix ((off - 0x500000) / 4) 0).toNat
  else if 0x600000 ≤ off ∧ off < 0x600600 then (s.fabric.link ((off - 0x600000) / 0x40)).word ((off - 0x600000) % 0x40)
  else 0

/-- The bits of a 64-bit register that software can write. -/
def keep64 (v hi lo : Nat) : Nat := v % 2 ^ (hi + 1) / 2 ^ lo * 2 ^ lo

/-- A word written into the privileged window, reserved bits ignored (R5, R379); unlisted offsets ignore it. -/
def State.mmioSetWord (s : State) (off v : Nat) : State :=
  if off = 0 then s.moveClock (s.timing.setWord 0 v).clock
  else if off < 0x300 then { s with timing := s.timing.setWord off v }
  else if off = 0x100000 then { s with fabric := { s.fabric with fabid := v % 1024 } }
  else if 0x100010 ≤ off ∧ off < 0x100050 then
    { s with fabric := { s.fabric with fjob := Map.set s.fabric.fjob ((off - 0x100010) / 4) (BitVec.ofNat 32 (v % 2 ^ 17)) } }
  else if 0x100100 ≤ off ∧ off < 0x100180 then
    let n := (off - 0x100100) / 8
    let x := keep64 (setHalf64 (Map.getD s.fabric.fxmode n 0).toNat (off / 4 % 2 == 1) v) 51 0
    { s with fabric := { s.fabric with fxmode := Map.set s.fabric.fxmode n (BitVec.ofNat 64 x) } }
  else if 0x200000 ≤ off ∧ off < 0x202000 then
    let n := (off - 0x200000) / 8
    let x := keep64 (setHalf64 (Map.getD s.fabric.routes n 0).toNat (off / 4 % 2 == 1) v) 26 0
    { s with fabric := { s.fabric with routes := Map.set s.fabric.routes n (BitVec.ofNat 64 x) } }
  else if 0x300000 ≤ off ∧ off < 0x310000 then
    { s with fabric := { s.fabric with trees := Map.set s.fabric.trees ((off - 0x300000) / 4) (BitVec.ofNat 32 v) } }
  else if off = 0x400000 ∨ off = 0x400004 then
    let x := keep64 (setHalf64 s.host.hwbase.toNat (off / 4 % 2 == 1) v) 51 30
    { s with host := { s.host with hwbase := BitVec.ofNat 64 x } }
  else if 0x400100 ≤ off ∧ off < 0x400180 then
    let n := (off - 0x400100) / 8
    let x := setHalf64 (Map.getD s.host.hrbase n 0).toNat (off / 4 % 2 == 1) v
    { s with host := { s.host with hrbase := Map.set s.host.hrbase n (BitVec.ofNat 64 x) } }
  else if 0x500000 ≤ off ∧ off < 0x500408 then
    { s with host := { s.host with msix := Map.set s.host.msix ((off - 0x500000) / 4) (BitVec.ofNat 32 v) } }
  else if 0x600000 ≤ off ∧ off < 0x600600 ∧ off % 0x40 = 4 then
    let p := (off - 0x600000) / 0x40
    { s with fabric := s.fabric.setLink p ((s.fabric.link p).setDisable (v / 2 ^ 31 % 2 == 1)) }
  else s

/-- What a word of the window is written back as where a store leaves some of its bytes alone: itself, without FIRED of TRIGSTAT,
which writing 1 would clear (R214). -/
def State.mmioKept (s : State) (w : Nat) : Nat :=
  let v := s.mmioWord w
  if 0x100 ≤ w ∧ w < 0x300 ∧ w % 0x20 = 0x1C then v - v / 4 % 2 * 4 else v

/-- A word written into the window by an access: LINKCTL is an event of its own (R417), the rest are registers (R379). -/
def State.mmioPut (s : State) (w v : Nat) : State :=
  if 0x600000 ≤ w ∧ w < 0x600600 ∧ w % 0x40 = 4 then
    { s with deferred := s.deferred ++ [.linkDisable ((w - 0x600000) / 0x40) (v / 2 ^ 31 % 2 == 1)] }
  else s.mmioSetWord w v

/-- A write of n bytes of the window, within one aligned 8 bytes; TIMESTEP is an event of its own (R213). R213 gives accesses of 4 and 8
bytes: a store of 1 or 2 writes those bytes and leaves the register's others as they are, and one of part of TIMESTEP steps by those
bytes alone, the others zero (DESIGN CHOICE, entry 72). -/
def State.mmioWrite (s : State) (off n v : Nat) : State :=
  if off / 8 * 8 = 0x18 then
    { s with deferred := s.deferred ++ [.timestep (BitVec.ofNat 64 (v % 2 ^ (8 * n) * 2 ^ (8 * (off % 8))))] }
  else
    let w := off / 4 * 4
    let old := s.mmioKept w + s.mmioKept (w + 4) * 2 ^ 32
    let sh := 8 * (off % 4)
    let new := old % 2 ^ sh + v % 2 ^ (8 * n) * 2 ^ sh + old / 2 ^ (sh + 8 * n) * 2 ^ (sh + 8 * n)
    let s := s.mmioPut w (new % 2 ^ 32)
    if off % 4 + n ≤ 4 then s else s.mmioPut (w + 4) (new / 2 ^ 32 % 2 ^ 32)

/-- A read of n bytes of the window; a read of TIMENS latches the seconds (R213). -/
def State.mmioRead (s : State) (off n : Nat) : Nat × State :=
  let w := off / 4 * 4
  let v := s.mmioWord w + s.mmioWord (w + 4) * 2 ^ 32
  let s' := if w = 0 then { s with timing := { s.timing with secLatch := s.timing.clock / 1000000000 % 2 ^ 48 } } else s
  (v / 2 ^ (8 * (off % 4)) % 2 ^ (8 * n), s')

/-! ## The clock, TIMESTEP and firing (R213 to R215) -/

/-- The least number of periods that puts a time beyond the clock (R215). -/
def periodsBeyond (time period clock : Nat) : Nat := if clock < time then 1 else (clock - time) / period + 1

/-- The signed value of 64 bits. -/
def signed64 (v : Nat) : Int := (BitVec.ofNat 64 v).toInt

end Sys2Proof.Machine
end

