-- ==== Sys2Proof/Machine/Access.lean ====
section
/-! DEFINITION. How an access reaches memory: translation, the race check, the combining buffer and performing
(spec/17_memory.md, R101 to R103, R311 to R332). -/
namespace Sys2Proof.Machine

/-! ## Translation (R319 to R322) -/

/-- What an access needs of a page (R321). -/
inductive AccKind where
  | read | write | fetch | atomic
  deriving DecidableEq, Repr

/-- How a translation ends (R321). -/
inductive Xlate where
  | ok (pa : Nat) (nrd : Bool)
  | pgfault (f : FaultInfo)
  | pgfatal
  deriving DecidableEq, Repr

/-- The die whose walker serves a tile: 48 tiles to a die, the system tiles on the I/O die (R322). -/
def dieOf (tile : Nat) : Nat := tile / 48

/-- Where memory of the device holds the bytes of a physical address: this package's own window names its own memory (R311). -/
def State.localPa (s : State) (pa : Nat) : Nat :=
  match regionOf pa with
  | .fabric p off => if p = s.fabric.fabid then off else pa
  | _ => pa

/-- The 8 bytes of a table entry: memory of the package, a register of the privileged window, or what memory outside the package
answers, which is a free value (R311, R313, R321). -/
def State.tableWord (s : State) (pa : Nat) : Nat × State :=
  match regionOf (s.localPa pa) with
  | .hbm | .slice => (s.num (s.localPa pa) 8, s)
  | .privileged => s.mmioRead (pa - 0x10000000000) 8
  | _ => ((Config.remoteWord s.free).toNat + (Config.remoteWord (s.free + 1)).toNat * 2 ^ 32, { s with free := s.free + 2 })

/-- A walk's read of one entry: a level-0 or level-1 entry may be held by the walker (R322). -/
def State.walkRead (s : State) (die ctx level pa : Nat) : Nat × State :=
  match (Map.getD s.walkers die []).find? fun e => e.ctx == ctx && e.level == level && e.pa == pa with
  | some e => (e.entry.toNat, s)
  | none => s.tableWord pa

/-- The level-0 and level-1 entries of a walk that found its page, kept by the walker; those of a failed walk are not (R322, R334). -/
def State.keepWalk (s : State) (die : Nat) (es : List WalkEntry) : State :=
  let held := Map.getD s.walkers die []
  let new := es.filter fun e => decide (e.level < 2) && !held.contains e
  if new.isEmpty then s else { s with walkers := Map.set s.walkers die ((new ++ held).take 64) }

/-- The virtual-address bits a level decides, and the index bits below 2^13 (R320). -/
def levelShift (level : Nat) : Nat := if level = 0 then 39 else if level = 1 then 30 else if level = 2 then 21 else 16

/-- The number of entries of a level's table (R320). -/
def levelEntries (level : Nat) : Nat := if level = 0 then 8192 else if level = 3 then 32 else 512

/-- What a leaf allows an access of a context (R321): a write that COW stops names the leaf's page, level and entry (R324, R325). -/
def leafCheck (t : Tlb) (privileged : Bool) (kind : AccKind) (va : Nat) : Xlate :=
  let pa := t.base + va % 2 ^ t.bits
  let info : FaultInfo := { va := va, write := kind == .write || kind == .atomic, fetch := kind == .fetch,
                            atomic := kind == .atomic, level := t.level, entry := t.entry, ctx := t.ctx, bits := t.bits }
  if (t.priv && !privileged) || regionOf pa == .unassigned || (regionOf pa == .privileged && !privileged) then .pgfatal
  else if ((kind == .read || kind == .atomic) && !t.r) || (kind == .fetch && !t.x) then .pgfatal
  else if (kind == .write || kind == .atomic) && !t.w then (if t.cow then .pgfault info else .pgfatal)
  else .ok pa t.nrd

/-- A walk from a level's table: the leaf it finds with the entries it read, or how it fails (R320, R321). -/
def State.walk (s : State) (die ctx va : Nat) (kind : AccKind) : Nat → Nat → Nat → (Tlb × List WalkEntry ⊕ Xlate) × State
  | 0, _, _ => (.inr .pgfatal, s)
  | fuel + 1, level, table =>
    let at' := table + 8 * (va / 2 ^ levelShift level % levelEntries level)
    let r := s.walkRead die ctx level at'
    let e := r.1
    let pa := e / 2 ^ 12 % 2 ^ 40 * 2 ^ 12
    let leaf := e / 2 % 2 == 1
    let size := 2 ^ levelShift level
    if e % 2 = 0 then
      if e / 64 % 2 = 1 then
        (.inr (.pgfault { va := va, write := kind == .write || kind == .atomic, fetch := kind == .fetch
                          atomic := kind == .atomic, level := level, entry := BitVec.ofNat 64 e, ctx := ctx }), r.2)
      else (.inr .pgfatal, r.2)
    else if e / 4 % 2 = 1 ∨ e / 2 ^ 10 % 4 ≠ 0 ∨ (leaf ∧ level = 0) ∨ (¬ leaf ∧ level = 3) ∨ regionOf pa = .unassigned then
      (.inr .pgfatal, r.2)
    else if leaf then
      if pa % size ≠ 0 then (.inr .pgfatal, r.2)
      else
        (.inl ({ ctx := ctx, vpage := va / size, bits := levelShift level, base := pa
                 r := e / 8 % 2 == 1, w := e / 16 % 2 == 1, x := e / 32 % 2 == 1, cow := e / 128 % 2 == 1
                 nrd := e / 256 % 2 == 1, priv := e / 512 % 2 == 1, level := level, entry := BitVec.ofNat 64 e },
               [{ ctx := ctx, level := level, pa := at', entry := BitVec.ofNat 64 e }]), r.2)
    else
      match State.walk r.2 die ctx va kind fuel (level + 1) pa with
      | (.inl (t, es), s) => (.inl (t, { ctx := ctx, level := level, pa := at', entry := BitVec.ofNat 64 e } :: es), s)
      | x => x

/-- The translation of a virtual address for a context on a tile: from the TLB, or by a walk that fills it; a failed
state is not kept (R322, R334). Where the fault ring is off a recoverable fault is fatal (R324). -/
def State.translateAs (s : State) (priv : Bool) (tile ctx va : Nat) (kind : AccKind) : Xlate × State :=
  let t := s.tile tile
  let fold : Xlate → Xlate := fun r => match r with
    | .pgfault _ => if s.fltring.getLsbD 0 then r else .pgfatal
    | _ => r
  match t.tlb.find? fun e => e.ctx == ctx && e.vpage == va / 2 ^ e.bits with
  | some e => (fold (leafCheck e priv kind va), s)
  | none =>
    let root := ((s.ctx? ctx).map fun c => c.ptbase.toNat).getD 0 / 2 ^ 16 % 2 ^ 36 * 2 ^ 16
    if root = 0 then (.pgfatal, s)
    else
      match s.walk (dieOf tile) ctx va kind 4 0 root with
      | (.inr x, s') => (fold x, s')
      | (.inl (e, es), s') =>
        match fold (leafCheck e priv kind va) with
        | .ok pa nrd =>
          let s' := s'.keepWalk (dieOf tile) es
          let t' := s'.tile tile
          (.ok pa nrd, s'.setTile tile { t' with tlb := (e :: t'.tlb).take 2048 })
        | x => (x, s')

/-- A translation at the context's own privilege. -/
def State.translate (s : State) (tile ctx va : Nat) (kind : AccKind) : Xlate × State :=
  s.translateAs (s.privileged ctx) tile ctx va kind

/-! ## Addresses of a thread (R101, R312) -/

/-- Where a thread's offset leads: a cell-window byte range, or a virtual address (R101, R312). -/
def Thread.vaOf (t : Thread) (off : Nat) : Nat := t.awin.toNat / 2 ^ 32 % 2 ^ 20 * 2 ^ 32 + off

/-- The start of the cell window (R312). -/
def cellWindow : Nat := 0xFFC00000

/-- How a thread's address is resolved: a physical address with NRD, a condition, or a recoverable fault. -/
inductive Reach where
  | ok (pa : Nat) (nrd : Bool)
  | trap (c : Cause) (info : Nat)
  | fault (f : FaultInfo)
  deriving DecidableEq, Repr

/-- R101, R312, R321, R361, R373: the resolution of a thread's access of `size` bytes at a window offset. -/
def State.reach (s : State) (t : Thread) (off size : Nat) (kind : AccKind) : Reach × State :=
  let va := t.vaOf off
  if va % size ≠ 0 then (.trap .align va, s)
  else if cellWindow ≤ off then
    match Map.get? s.cells t.cell with
    | some c => if off - cellWindow + size ≤ c.sliceLen then (.ok (c.slice + (off - cellWindow)) false, s)
                else (.trap .bounds 0xFFFF, s)
    | none => (.trap .bounds 0xFFFF, s)
  else
    match s.translate t.tile t.ctx va kind with
    | (.ok pa nrd, s') => if regionOf pa = .multicast then (.trap .bounds 0xFFFF, s') else (.ok pa nrd, s')
    | (.pgfault f, s') => (.fault f, s')
    | (.pgfatal, s') => (.trap .pgfatal va, s')

/-! ## Race detection (R326 to R332) -/

/-- The slot number of a thread (R326). -/
def Thread.slotNo (t : Thread) : Nat := t.tile * 2048 + t.part * 512 + t.pos

/-- The region counter of a slot. -/
def State.slot (s : State) (n : Nat) : SlotRegion := Map.getD s.slots n {}

/-- A region end: the counter moves on and CLOSE records the scope, or none (R328). -/
def State.endRegion (s : State) (slot : Nat) (scope : Option Nat) : State :=
  let r := s.slot slot
  { s with slots := Map.set s.slots slot { r with cur := (r.cur + 1) % 4096, close := scope } }

/-- The narrowest scope that holds a thread and the thread in a slot: CELL, CLUSTER or DEVICE (R329). -/
def State.sharedScope (s : State) (t : Thread) (slot : Nat) : Nat :=
  match (s.threads.find? fun x => x.2.slotNo == slot).map Prod.snd with
  | none => 3
  | some u =>
    if u.cell = t.cell then 1
    else
      match Map.get? s.cells u.cell, Map.get? s.cells t.cell with
      | some a, some b => if a.cluster = b.cluster then 2 else 3
      | _, _ => 3

/-- Conflict(S, g) of R329, for a recorded slot, region and mask. -/
def State.conflict (s : State) (t : Thread) (slot : Option Nat) (g : Nat) (m b : BitVec 64) : Bool :=
  match slot with
  | none => false
  | some n =>
    if n = t.slotNo ∨ m &&& b = 0 then false
    else
      let r := s.slot n
      if g = r.cur then true
      else if g = (r.cur + 4095) % 4096 then
        match r.close with
        | none => true
        | some c => decide (c < s.sharedScope t n)
      else false

/-- The byte mask of an access in its granule (R329). -/
def byteMask (pa size : Nat) : BitVec 64 := BitVec.ofNat 64 ((2 ^ size - 1) * 2 ^ (pa % 64))

/-- The directory's set of an HBM address (R327). -/
def directorySet (pa : Nat) : Nat := pa / 2 ^ 11 % 8 * 65536 + (pa / 2 ^ 14 % 2 ^ 11 * 32 + pa / 2 ^ 6 % 32)

/-- Whether a granule carries a tag (R326, R327). -/
def tagged (pa : Nat) : Bool := regionOf pa == .hbm || regionOf pa == .slice

/-- RDSTAT with one more eviction, saturating (R331). -/
def evictCount (v : BitVec 64) : BitVec 64 :=
  if v.toNat / 2 ^ 32 = 2 ^ 32 - 1 then v else v + BitVec.ofNat 64 (2 ^ 32)

/-- RDSTAT with one more MMX trap, saturating (R331). -/
def mmxCount (v : BitVec 64) : BitVec 64 := if v.toNat % 2 ^ 32 = 2 ^ 32 - 1 then v else v + 1

/-- The tag of a granule for a checked access; in HBM the directory entry is renewed or allocated (R327). -/
def State.tagFor (s : State) (ctx pa : Nat) : Tag × State :=
  let g := pa / 64
  if regionOf pa = .slice then (Map.getD s.tags g {}, s)
  else
    let n := directorySet pa
    let es := Map.getD s.directory n []
    match es.find? (fun e => e.granule == g) with
    | some e =>
      (e.tag, { s with directory := Map.set s.directory n ({ e with ctx := ctx } :: es.filter fun x => x.granule != g) })
    | none =>
      let s' := match es[15]? with
        | some v => if v.tag.wslot.isSome || v.tag.rslot.isSome then
            s.modCtx v.ctx fun c => { c with rdstat := evictCount c.rdstat } else s
        | none => s
      ({}, { s' with directory := Map.set s.directory n ({ granule := g, tag := {}, ctx := ctx } :: es.take 15) })

/-- A granule's tag written back. -/
def State.putTag (s : State) (pa : Nat) (tag : Tag) : State :=
  let g := pa / 64
  if regionOf pa = .slice then
    { s with tags := if tag == {} then Map.del s.tags g else Map.set s.tags g tag }
  else
    let n := directorySet pa
    { s with directory := Map.set s.directory n ((Map.getD s.directory n []).map fun e =>
        if e.granule = g then { e with tag := tag } else e) }

/-- R329: an unchecked write resets the tags of the granules it touches. -/
def State.resetTags (s : State) (pa n : Nat) : State :=
  (List.range ((pa + n + 63) / 64 - pa / 64)).foldl (fun s i =>
    let a := (pa / 64 + i) * 64
    if regionOf a = .slice then { s with tags := Map.del s.tags (a / 64) }
    else if regionOf a = .hbm then s.putTag a {} else s) s

/-- How a recorded access merges with the same thread and region's earlier ones (R329). -/
def Tag.recordRead (t : Tag) (slot reg : Nat) (m : BitVec 64) (atomic : Bool) : Tag :=
  if t.rslot = some slot ∧ t.rreg = reg then { t with rmask := t.rmask ||| m, ra := t.ra && atomic }
  else { t with rslot := some slot, rreg := reg, ra := atomic, rmask := m }

/-- The write record, which clears the reader's (R329). -/
def Tag.recordWrite (t : Tag) (slot reg : Nat) (m : BitVec 64) (atomic : Bool) : Tag :=
  let t' := if t.wslot = some slot ∧ t.wreg = reg then { t with wmask := t.wmask ||| m, wa := t.wa && atomic }
    else { t with wslot := some slot, wreg := reg, wa := atomic, wmask := m }
  { t' with rslot := none, rmask := 0 }

/-- Whether a thread's access is checked: RDCTL.EN, a page without NRD, and a granule that carries a tag (R329). -/
def State.raceOn (s : State) (t : Thread) (pa : Nat) (nrd : Bool) : Bool :=
  (((s.ctx? t.ctx).map fun c => c.rdctl.getLsbD 0).getD false) && !nrd && tagged pa

/-- R329: the check of one access; true is MMX, and the access is then not recorded. `asWrite` is false for loads, WAITV
and every CAS. -/
def State.raceCheck (s : State) (t : Thread) (pa size : Nat) (nrd asWrite atomic : Bool) : Bool × State :=
  if !(s.raceOn t pa nrd) then (false, s)
  else
    let r := s.tagFor t.ctx pa
    let s := r.2
    let tag := r.1
    let m := byteMask pa size
    let w := s.conflict t tag.wslot tag.wreg tag.wmask m && !(atomic && tag.wa)
    let rd := s.conflict t tag.rslot tag.rreg tag.rmask m && !(atomic && tag.ra)
    if w || (asWrite && rd) then (true, s)
    else
      let reg := (s.slot t.slotNo).cur
      (false, s.putTag pa (if asWrite then tag.recordWrite t.slotNo reg m atomic else tag.recordRead t.slotNo reg m atomic))

/-! ## Refresh and what holds an access (R304, R306, R318) -/

/-- The pseudo-channel of an HBM address: stack, channel, pseudo-channel (R316). -/
def pchOf (pa : Nat) : Nat := pa / 2 ^ 11 % 8 * 64 + pa / 2 ^ 15 % 32 * 2 + pa / 2 ^ 14 % 2

/-- The bank of an HBM address within its pseudo-channel: bank group and bank (R316). -/
def bankOf (pa : Nat) : Nat := pa / 2 ^ 20 % 4 * 4 + pa / 2 ^ 22 % 4

/-- A pseudo-channel, as after reset when unlisted. -/
def State.pch (s : State) (n : Nat) : Refresh := Map.getD s.refresh n {}

/-- A pseudo-channel replaced. -/
def State.setPch (s : State) (n : Nat) (r : Refresh) : State := { s with refresh := Map.set s.refresh n r }

/-- A field of LATCNT raised, saturating at 0xFFFF (R306): 0 MESH, 1 BANK, 2 REFRESH, 3 ANVIL. -/
def chargeField (v : BitVec 64) (field n : Nat) : BitVec 64 :=
  let old := v.toNat / 2 ^ (16 * field) % 65536
  let new := min (old + n) 65535
  BitVec.ofNat 64 (v.toNat - old * 2 ^ (16 * field) + new * 2 ^ (16 * field))

/-- LATCNT of a thread charged (R306). -/
def State.charge (s : State) (tid field n : Nat) : State :=
  s.modThread tid fun t => { t with latcnt := chargeField t.latcnt field n }

/-- Tile cycles, of 3.6 GHz, that a number of memory cycles, of 1.5 GHz, lasts (R1, R304). -/
def ofMemCycles (n : Nat) : Nat := (n * 12 + 4) / 5

/-- The memory cycles that a number of tile cycles covers (R1, R304). -/
def toMemCycles (n : Nat) : Nat := n * 5 / 12

/-- Banks held from now by a refresh of so many memory cycles (R304, R318). -/
def Refresh.hold (r : Refresh) (banks : List Nat) (now cycles : Nat) (guard : Bool) : Refresh :=
  { r with held := banks.foldl (fun m b => Map.set m b (now + ofMemCycles cycles, guard)) r.held }

/-- The bank of an access is held: to which cycle, and whether by a guard refresh (R304, R318). -/
def State.heldBy (s : State) (pa : Nat) : Option (Nat × Bool) :=
  if regionOf pa ≠ .hbm then none
  else (Map.get? (s.pch (pchOf pa)).held (bankOf pa)).filter fun h => decide (s.cycle < h.1)

/-- The cycle before which no access to an address is served (R304, R318). -/
def State.servedFrom (s : State) (pa : Nat) : Nat := ((s.heldBy pa).map Prod.fst).getD 0

/-- A due point of stepped refresh (R304): postponed, or a forced all-bank refresh that charges the reading thread. -/
def State.duePoint (s : State) (pch tid : Nat) : State :=
  let r := s.pch pch
  if r.owed < 8 then s.setPch pch { r with owed := r.owed + 1, postp := r.postp + 1 }
  else
    let r := { r with owed := 0, forced := r.forced + 1, since := s.cycle }
    (s.setPch pch (r.hold (List.range 16) s.cycle 540 false)).charge tid 2 540

/-- What a refresh that holds the bank adds to a request's thread: in timed mode the wait, to REFRESH; of a guard refresh the wait, to
BANK; in stepped mode nothing beyond the fixed charge of a forced refresh (R304, R306, R318). -/
def State.chargeHeld (s : State) (tid pa : Nat) : State :=
  match s.heldBy pa with
  | none => s
  | some h =>
    if h.2 then s.charge tid 1 (toMemCycles (h.1 - s.cycle))
    else if (s.pch (pchOf pa)).step = 0 then s.charge tid 2 (toMemCycles (h.1 - s.cycle))
    else s

/-- An access crosses the mesh: to HBM, or to the slice of another tile than its thread's (R313). -/
def State.overMesh (s : State) (tid pa : Nat) : Bool :=
  match regionOf pa with
  | .hbm => true
  | .slice => ((s.thread? tid).map Thread.tile) != some ((pa - 0x8000000000) / 2 ^ 22)
  | _ => false

/-- LATCNT of an access's thread: what a refresh holds it, then the other timing of an HBM bank and the buffers of the mesh, which are
free values (R306; DESIGN CHOICE, entry 66). -/
def State.chargeAccess (s : State) (tid pa : Nat) : State :=
  if !(s.overMesh tid pa) then s
  else
    let s := s.chargeHeld tid pa
    let s := if regionOf pa = .hbm then s.charge tid 1 (Config.bankCycles s.free) else s
    { s.charge tid 0 (Config.meshCycles s.free) with free := s.free + 1 }

/-- A read of a thread accepted by the controller: it counts when it is of the recorded block (R304). -/
def State.acceptRead (s : State) (tid pa : Nat) : State :=
  let s := s.chargeAccess tid pa
  if regionOf pa ≠ .hbm then s
  else
    let r := s.pch (pchOf pa)
    if r.block = some (pa / 2048) then
      let s := s.setPch (pchOf pa) { r with reads := r.reads + 1 }
      if r.step ≠ 0 ∧ (r.reads + 1) % r.step = 0 then s.duePoint (pchOf pa) tid else s
    else s

/-- A read of n bytes: a request for each aligned 64 bytes (R304). -/
def State.acceptReads (s : State) (tid pa n : Nat) : State :=
  (List.range ((pa % 64 + n + 63) / 64)).foldl (fun s k => s.acceptRead tid (if k = 0 then pa else (pa / 64 + k) * 64)) s

/-! ## Performing at memory -/

/-- R54: a write wakes the threads that WAITV parked on its granules. -/
def State.wakeGranules (s : State) (pa n : Nat) : State :=
  s.wake fun w => match w with
    | .granule g => decide (pa / 64 ≤ g / 64 ∧ g / 64 ≤ (pa + n - 1) / 64)
    | _ => false

/-- The runs of consecutive addresses of a table of bytes, each within one aligned 8-byte piece. -/
def byteRuns : Map Byte → List (Nat × List Byte)
  | [] => []
  | (a, b) :: rest =>
    match byteRuns rest with
    | (a', bs) :: more => if a' = a + 1 ∧ a' % 8 ≠ 0 then (a, b :: bs) :: more else (a, [b]) :: (a', bs) :: more
    | [] => [(a, [b])]

/-- Bytes written to the registers of the privileged window, by aligned 8-byte pieces, which wakes what waits there (R54). -/
def State.mmioStore (s : State) (base : Nat) (bs : Map Byte) : State :=
  (byteRuns bs).foldl (fun s r => (s.mmioWrite (r.1 - base) r.2.length (ofBytes r.2)).wakeGranules r.1 r.2.length) s

/-! ## Requests to other packages (R361 to R365) -/

/-- ALTi of a route. -/
def routeAlt (r i : Nat) : Nat := r / 2 ^ (5 * i) % 32

/-- A route that is usable: HOPS 1 to 4, every ALT below 24, and an alternative that is valid (R361). -/
def Fabric.reachable (f : Fabric) (p : Nat) : Bool :=
  let r := (Map.getD f.routes p 0).toNat
  let hops := r / 2 ^ 24 % 8
  decide (1 ≤ hops ∧ hops ≤ 4 ∧ r / 2 ^ 20 % 16 ≠ 0 ∧ p ≠ f.fabid) && (List.range 4).all fun i => decide (routeAlt r i < 24)

/-- The alternatives of a route that are valid: VALID, and a port that is up (R361, R362). -/
def Fabric.alternatives (f : Fabric) (p : Nat) : List Nat :=
  let r := (Map.getD f.routes p 0).toNat
  (List.range 4).filter fun i => r / 2 ^ (20 + i) % 2 == 1 && (f.link (routeAlt r i)).up

/-- Of the valid alternatives, the one whose egress channel has the most free credit, the lowest on a tie; the credit of port n
is a free value (R362). -/
def Fabric.freest (f : Fabric) (p moment : Nat) : Nat :=
  let credit (i : Nat) : Nat := Config.egressCredit moment (routeAlt (Map.getD f.routes p 0).toNat i)
  match f.alternatives p with
  | [] => 0
  | i :: is => is.foldl (fun best j => if credit best < credit j then j else best) i

/-- The 128-byte line of the target that a request addresses, if it addresses one. -/
def Payload.line : Payload → Option Nat
  | .load a _ => some (a / 128)
  | .store a _ => some (a / 128)
  | .atomic a .. => some (a / 128)
  | .release a .. => some (a / 128)
  | .push _ => none

/-- The bytes of data that a copy holds in the retry store (R365; what a copy takes beside its data is not counted: DESIGN CHOICE,
entry 73). -/
def Payload.size : Payload → Nat
  | .load .. => 0
  | .store _ bs => bs.length
  | .atomic .. => 8
  | .release _ bs _ => bs.length
  | .push p => 4 * p.data.length

/-- The bytes of the retry store in use (R365). -/
def Fabric.retryBytes (f : Fabric) : Nat :=
  f.retry.foldl (fun n r => n + r.2.payload.size + r.2.more.foldl (fun n p => n + p.size) 0) 0

/-- The retry store has room for so many bytes of data (R365). -/
def Fabric.retryRoom (f : Fabric) (n : Nat) : Bool := decide (f.retryBytes + n ≤ 2 ^ 24)

/-- The alternative a new request takes: that of the thread's unacknowledged request to the same line, else the freest (R348, R362). -/
def State.routeFor (s : State) (r : Retry) : Nat :=
  match s.fabric.retry.find? fun x => x.2.target == r.target && x.2.tid == r.tid && x.2.payload.line.isSome &&
      x.2.payload.line == r.payload.line with
  | some x => x.2.alt
  | none => s.fabric.freest r.target s.free

/-- A request copied into the retry store and sent (R362, R365). -/
def State.send (s : State) (r : Retry) : State :=
  let r := { r with alt := s.routeFor r, since := s.cycle, id := s.nextId }
  { s with
    nextId := s.nextId + 1, free := s.free + 1
    fabric := { s.fabric with retry := Map.set s.fabric.retry s.fabric.seq r, seq := s.fabric.seq + 1 } }

/-- FXMODE selects vector requests for a fabric-window address: of the ranges that hold it, the lowest (R363). -/
def Fabric.vectorAt (f : Fabric) (pa : Nat) : Bool :=
  match (List.range 16).find? fun n =>
      let x := (Map.getD f.fxmode n 0).toNat
      decide (x / 2 ^ 16 % 2 ^ 36 ≤ pa / 2 ^ 16 ∧ pa / 2 ^ 16 ≤ x / 2 ^ 16 % 2 ^ 36 + x / 2 % 2 ^ 15) with
  | some n => (Map.getD f.fxmode n 0).getLsbD 0
  | none => false

/-- A lane's request: in the vector form it joins the request of its issue to the same page, else it is one of its own (R363). -/
def State.sendLane (s : State) (no pa : Nat) (r : Retry) : State :=
  if no = 0 ∨ !s.fabric.vectorAt pa then s.send r
  else
    match s.fabric.retry.find? fun x => x.2.issue == no && x.2.target == r.target && x.2.page == pa / 65536 with
    | some x => { s with fabric := { s.fabric with
        retry := Map.set s.fabric.retry x.1 { x.2 with more := x.2.more ++ [r.payload] } } }
    | none => s.send { r with issue := no, page := pa / 65536 }

/-- A plain store of bytes to another package: a stream store (R348, R363). -/
def State.sendStore (s : State) (no tid p pa : Nat) (bs : Map Byte) : State :=
  let s := s.sendLane no pa { target := p, tid := tid, ctx := ((s.thread? tid).map Thread.ctx).getD 0
                              payload := .store (pa % 2 ^ 40) (bs.map fun c => (c.1 % 2 ^ 40, c.2)) }
  s.modThread tid fun t => { t with stream := Map.set t.stream p (Map.getD t.stream p 0 + 1) }

/-- A thread's context suffers a fatal fault that raises no trap: an unreachable package (R361), a failed request (R365). -/
def State.fatalThread (s : State) (tid : Nat) : State :=
  match s.thread? tid with
  | none => s
  | some t => s.fatal t.ctx { cause := .pgfatal, tfpc := 0, tfinfo := 0, tfmask := 0, tfdst := 0, wid := 0, tile := t.tile
                              part := t.part, untrapped := true }

/-- A write of bytes performs at a physical address on behalf of a thread: memory, a register, another package's window
or the host (R311, R313). -/
def State.perform (s : State) (tid : Nat) (bs : Map Byte) : State :=
  match bs with
  | [] => s
  | (a, _) :: _ =>
    match regionOf a with
    | .privileged => s.mmioStore 0x10000000000 bs
    | .fabric p _ =>
      if p = s.fabric.fabid then
        let s' := bs.foldl (fun s (c : Nat × Byte) => s.setByte (c.1 % 2 ^ 40) c.2) s
        bs.foldl (fun s (c : Nat × Byte) => s.wakeGranules (c.1 % 2 ^ 40) 1) s'
      else if s.fabric.reachable p then s.sendStore 0 tid p a bs
      else s.fatalThread tid
    | .unassigned | .multicast => s
    | .host =>
      let s' := bs.foldl (fun s (c : Nat × Byte) => s.setByte c.1 c.2) s
      s'.modThread tid fun t => { t with posted := (a / 2 ^ 50 % 2 :: t.posted).eraseDups }
    | _ =>
      let s' := bs.foldl (fun s (c : Nat × Byte) => s.setByte c.1 c.2) (s.chargeAccess tid a)
      bs.foldl (fun s (c : Nat × Byte) => s.wakeGranules c.1 1) s'

/-! ## The combining buffer (R314) -/

/-- The line of a thread for a block. -/
def Tile.lineOf (t : Tile) (tid block : Nat) : Option Line := t.lines.find? fun l => l.tid == tid && l.block == block

/-- The oldest line. -/
def oldestLine : List Line → Option Line
  | [] => none
  | l :: ls => match oldestLine ls with
    | none => some l
    | some m => if m.order < l.order then some m else some l

/-- What a thread's own stores replace stays in view of its fetch until its SYNC.DIE (R80). -/
def State.noteStale (s : State) (tid : Nat) (bs : Map Byte) : State :=
  s.modThread tid fun t => { t with stale := bs.foldl (fun m (c : Nat × Byte) =>
    let pa := s.localPa c.1
    if (Map.get? m pa).isSome then m else Map.set m pa (s.byte pa)) t.stale }

/-- One line drains as one write and is freed. -/
def State.drainLine (s : State) (tile : Nat) (l : Line) : State :=
  let s := s.noteStale l.tid l.bytes
  let t := s.tile tile
  let s := s.setTile tile { t with lines := t.lines.filter fun x => !(x.tid == l.tid && x.block == l.block) }
  s.perform l.tid l.bytes

/-- All of a thread's lines drain, in the order they were opened (R314). -/
def State.drainThread (s : State) (tid : Nat) : State :=
  match s.thread? tid with
  | none => s
  | some t => ((s.tile t.tile).lines.filter fun l => l.tid == tid).foldl (fun s l => s.drainLine t.tile l) s

/-- A plain store enters the thread's line for the block, or a free one; with none free the oldest drains (R314). -/
def State.storeBytes (s : State) (t : Thread) (tid pa : Nat) (bs : List Byte) : State :=
  let block := pa / 128 * 128
  let s := if ((s.tile t.tile).lineOf tid block).isNone && (s.tile t.tile).lines.length ≥ 64 then
      match oldestLine (s.tile t.tile).lines with
      | some l => s.drainLine t.tile l
      | none => s
    else s
  let tl := s.tile t.tile
  let l : Line := (tl.lineOf tid block).getD { tid := tid, block := block, order := s.nextId }
  let held := (bs.zipIdx).foldl (fun m (b : Byte × Nat) => Map.set m (pa + b.2) b.1) l.bytes
  let l' := { l with bytes := held, touched := s.cycle }
  let others := tl.lines.filter fun x => !(x.tid == tid && x.block == block)
  { s.setTile t.tile { tl with lines := others ++ [l'] } with nextId := s.nextId + 1 }

/-- What a thread's own line holds for a block, merged over the bytes that memory gives (R102, R314, R344). -/
def State.overLine (s : State) (t : Thread) (tid pa : Nat) (bs : List Byte) : List Byte :=
  match (s.tile t.tile).lineOf tid (pa / 128 * 128) with
  | none => bs
  | some l => bs.zipIdx.map fun b => (Map.get? l.bytes (pa + b.2)).getD b.1

/-- The bytes a thread reads: its own line's bytes over those of memory (R102, R314). -/
def State.loadBytes (s : State) (t : Thread) (tid pa n : Nat) : List Byte := s.overLine t tid pa (s.bytes pa n)


/-- An uncorrectable error in the word an access reads (R315). -/
def State.eccAt (s : State) (pa n : Nat) : Bool := s.ecc.any fun e => decide (pa / 8 ≤ e ∧ e ≤ (pa + n - 1) / 8)

end Sys2Proof.Machine
end

