-- ==== Sys2Proof/Machine/Operands.lean ====
section
/-! DEFINITION. What each instruction reads, writes and names: its pipe, its register sources with their policies, its
destination, its engine queue, and the lane that a meaning computes on (R50, R58, R60, R63, R64, R69, R70, R120). -/
namespace Sys2Proof.Machine

/-- A register source: the field that names it (0 a, 1 b, 2 the prefix's c, 3 d), its class, first number and count, whether
its policy is to trap (R64), and whether reading it is a floating-point use (R120). -/
structure Src where
  role : Nat
  cls : Nat
  num : Nat
  count : Nat := 1
  trap : Bool := false
  fp : Bool := false
  deriving DecidableEq, Repr

/-- The chain bit of an instruction's base word (R57). -/
def chainedOf (i : Instr) : Bool := (i.baseWord?.getD 0) / 2 ^ 31 % 2 == 1

/-- The major opcode of an instruction's base word (R62). -/
def majorOf (i : Instr) : Nat := (i.baseWord?.getD 0) / 2 ^ 25 % 64

/-- The pipe of a major: 0 integer and branch, 1 vector, 2 memory, 3 spectral, 4 engine (R58). -/
def pipeOf (major : Nat) : Nat :=
  if major < 0x10 ∨ (0x1C ≤ major ∧ major < 0x20) then 0
  else if major < 0x1C then 1
  else if major < 0x2C then 2
  else if major < 0x33 then 3
  else 4

/-- The prefix an instruction carries, or the one it acts as if it had (R70). -/
def prefixOf (i : Instr) : Pfx := (i.bound.pfx).getD ⟨0, false, 0, 0, false, 0⟩

/-- The number of words an instruction occupies when it is not a stamp (R71, R72). -/
def lengthOf (i : Instr) : Nat := (encode i).length

/-! ## Sources -/

/-- A v source. -/
def vSrc (role : Nat) (r : BitVec 7) (trap fp : Bool) : Src := ⟨role, 0, r.toNat, 1, trap, fp⟩
/-- A run of v registers. -/
def vRun (role : Nat) (r : BitVec 7) (count : Nat) (trap fp : Bool) : Src := ⟨role, 0, r.toNat, count, trap, fp⟩
/-- A w source. -/
def wSrc (role : Nat) (r : BitVec 5) (trap fp : Bool) : Src := ⟨role, 1, r.toNat, 1, trap, fp⟩
/-- A group of w registers. -/
def wRun (role : Nat) (r : BitVec 5) (count : Nat) (trap fp : Bool) : Src := ⟨role, 1, r.toNat, count, trap, fp⟩
/-- A predicate source. -/
def kSrc (role n : Nat) : Src := ⟨role, 2, n, 1, false, false⟩
/-- The prefix's fourth operand as a v register, a pair of them, or a w register; it always blocks (R64). -/
def cSrc (p : Option Pfx) (cls count : Nat) (fp : Bool) : List Src :=
  match p with
  | none => []
  | some p => [⟨2, cls, p.c.toNat, count, false, fp⟩]

/-- a and b of an A form. -/
def ab3 (f : A3Form) (fp : Bool) : List Src := [vSrc 0 f.a f.x fp, vSrc 1 f.b f.y fp]
/-- a and b pairs of an A form. -/
def abPair3 (f : A3Form) (fp : Bool) : List Src := [vRun 0 f.a 2 f.x fp, vRun 1 f.b 2 f.y fp]
/-- a and b of a spectral form. -/
def abS (f : S3Form) (fp : Bool) : List Src := [wSrc 0 f.a f.x fp, wSrc 1 f.b f.y fp]

/-- How many words a store's data, or a load's destination, has (R65). -/
def sizeWords (sz : BitVec 3) : Nat := if sz = 5 then 2 else 1

/-- The bytes of an access (R65). -/
def sizeBytes (sz : BitVec 3) : Nat :=
  match sz.toNat with
  | 0 => 1 | 1 => 1 | 2 => 2 | 3 => 2 | 4 => 4 | 5 => 8 | _ => 16

/-- A store's data register (R65). -/
def dataSrc (sz : BitVec 3) (d : BitVec 7) : Src :=
  if sz = 6 then ⟨3, 1, d.toNat, 1, false, false⟩ else vRun 3 d (sizeWords sz) false false

/-- The word count of a format's register use (R130). -/
def fmtCount (t : BitVec 4) : Nat := if fmt64 t then 2 else 1

/-- Whether a conversion's source format is a floating-point one (R120). -/
def fmtFloat (t : BitVec 4) : Bool := t.toNat < 6

/-- The source format code of a conversion (R131). -/
def cvtSrc (f : CvtForm) : BitVec 4 := if f.g = 0 then 0 else if f.g = 2 then 1 else f.t
/-- The destination format code of a conversion (R131). -/
def cvtDst (f : CvtForm) : BitVec 4 := if f.g = 1 then 0 else if f.g = 3 then 1 else f.t

/-- The register sources of an instruction that do not depend on the thread. -/
def staticSources : Instr → List Src
  | .rtePc f => [vSrc 0 f.a false false]
  | .rqwrite f => [vSrc 0 f.a false false]
  | .tlbinv f => [vRun 0 f.p 2 false false]
  | .otinv f => [vSrc 0 f.o false false]
  | .ctxsave f => [vRun 0 f.p 2 false false]
  | .ctxload f => [vRun 0 f.p 2 false false]
  | .br f => [kSrc 0 f.k.toNat]
  | .reform f => [vSrc 0 f.r f.x false]
  | .reformX f => [vSrc 0 f.r f.x false]
  | .calli f => [vSrc 0 f.a f.x false]
  | .loopReg f => [vSrc 0 f.a f.x false]
  | .swr f => [vRun 0 f.a (if f.h = 0 && sregWide f.s.toNat then 2 else 1) false false]
  | .iadd f | .isub f | .imul f | .imulh f | .imin f | .imax f | .iand f | .ior f | .ixor f | .iandn f | .ishl f
  | .ishr f | .isar f | .irol f | .ibfx f | .idiv f | .irem f | .rand f => ab3 f false
  | .imad f | .imadh f | .isad f => ab3 f false ++ cSrc f.pfx 0 1 false
  | .iabs f | .ineg f | .ipopc f | .iclz f | .ictz f | .ibrev f | .mov f | .fclass f => [vSrc 0 f.a f.x false]
  | .iadd64 f | .isub64 f => abPair3 f false
  | .ishl64 f | .ishr64 f => [vRun 0 f.a 2 f.x false, vSrc 1 f.b f.y false]
  | .iaddi f | .imuli f => [vSrc 0 f.a f.x false]
  | .iandi f | .iori f | .ixori f => [vSrc 0 f.a f.x false]
  | .ishli f | .ishri f | .isari f | .iroli f => [vSrc 0 f.a f.x false]
  | .fadd f | .fsub f | .fmul f | .fmin f | .fmax f | .fdiv f | .fcopys f | .fscale f | .hadd f | .hsub f | .hmul f =>
    ab3 f true
  | .ffma f | .hfma f => ab3 f true ++ cSrc f.pfx 0 1 true
  | .fabs f | .fneg f | .fsqrt f | .frcp f | .frsq f | .ffloor f | .fceil f | .ftrunc f | .frint f | .ffrac f | .fexp2 f
  | .flog2 f | .fsin f | .fcos f => [vSrc 0 f.a f.x true]
  | .ftab f => [vSrc 0 f.a f.x true]
  | .ftabld f => [vSrc 0 f.a f.x false]
  | .dadd f | .dsub f | .dmul f => abPair3 f true
  | .dfma f => abPair3 f true ++ cSrc f.pfx 0 2 true
  | .cvt f | .cvts f => [vRun 0 f.a (fmtCount (cvtSrc f)) f.x (fmtFloat (cvtSrc f))]
  | .pack f => [vSrc 0 f.a f.x false, vSrc 3 f.d false false]
  | .unpack f => [vSrc 0 f.a f.x false]
  | .icmp f => [vSrc 0 f.a f.x false, vSrc 1 f.b f.y false]
  | .fcmp f | .hcmp f => [vSrc 0 f.a f.x true, vSrc 1 f.b f.y true]
  | .dcmp f => [vRun 0 f.a 2 f.x true, vRun 1 f.b 2 f.y true]
  | .icmpi f => [vSrc 0 f.a f.x false]
  | .pand f | .por f | .pxor f | .pandn f => [kSrc 0 f.a.toNat, kSrc 1 f.b.toNat]
  | .sel f => ab3 f false ++ cSrc f.pfx 2 1 false
  | .ktov f => [kSrc 0 f.a.toNat]
  | .vtok f => [vSrc 0 f.a f.x false]
  | .ld f => [vSrc 0 f.b f.y false]
  | .st f => [vSrc 0 f.b f.y false, dataSrc f.sz f.d]
  | .ldAcq f => [vSrc 0 f.b f.y false]
  | .stRel f => [vSrc 0 f.b f.y false, dataSrc f.sz f.d]
  | .waitv f => [vSrc 0 f.b f.y false, vSrc 3 f.d false false]
  | .atomAdd f | .atomMin f | .atomMax f | .atomExch f | .atomAnd f | .atomOr f | .atomXor f => ab3 f false
  | .atomCas f => [vSrc 0 f.a f.x false, vSrc 1 f.b f.y false, ⟨3, 0, f.b.toNat + 1, 1, false, false⟩]
  | .redAdd f | .redMin f | .redMax f | .redAnd f | .redOr f | .redXor f => [vSrc 0 f.a f.x false, vSrc 1 f.b f.y false]
  | .abarInit f | .abarArrive f => [vSrc 0 f.r false false]
  | .sadd f | .ssub f | .smul f | .smin f | .smax f | .sdiv f => abS f true
  | .sfma f => abS f true ++ cSrc f.pfx 1 1 true
  | .ssqrt f | .sexp f => [wSrc 0 f.a f.x true]
  | .shsum f => [wSrc 0 f.a f.x true]
  | .sdot f => [wSrc 0 f.a f.x true, wSrc 1 f.b f.y true]
  | .sbcast f => [vSrc 0 f.a f.x false]
  | .slane f => [wSrc 0 f.a f.x false]
  | .sins f => [vSrc 0 f.a f.x false, wSrc 3 f.d false false]
  | .scmp f => [wSrc 0 f.a f.x true, wSrc 1 f.b f.y true]
  | .ssel f => abS f false ++ cSrc f.pfx 0 1 false
  | .scvtNarrow f => [wSrc 0 f.a f.x true]
  | .scvtWiden f => [vRun 0 f.a (if f.f.toNat < 2 then 2 else 1) f.x false]
  | .swls f => [vSrc 0 f.a f.x true]
  | .spol f | .smdiel f => [wRun 0 f.a 4 f.x true, wRun 1 f.b 4 f.y true]
  | .sfres f => [vSrc 0 f.a f.x true, wSrc 1 f.b f.y true]
  | .filmAdd f => [vSrc 0 f.a false false, wSrc 1 f.b false true, wSrc 2 f.e false true]
  | .filmRd f | .visrd f => [vSrc 0 f.a false false, vSrc 1 f.b false false]
  | .rast f => [vSrc 0 f.a false false, vSrc 1 f.b false false]
  | .trace f | .tracea f => [wRun 0 f.a 2 false true]
  | .callsh f => [vSrc 0 f.a false false, vSrc 1 f.b false false]
  | .stex f | .stexup f | .scmf f => [wSrc 0 f.a false true, wSrc 1 f.b false true]
  | .cast f | .castT8 f | .castT16 f => if f.v = 0 then [] else [⟨0, 0, f.v.toNat, 1, false, false⟩]
  | .castw f | .castwCb3 f => [vSrc 0 f.a false false]
  | .casttab f => [vSrc 0 f.a false false, vSrc 1 f.b false false]
  | .mma f => [vSrc 1 f.b false false]
  | .mmas f => [vSrc 1 f.b false false, vSrc 2 f.s false false]
  | .accrd f => [vSrc 0 f.a false false]
  | .rmaxW f | .rminW f | .rmedW f => [⟨0, 0, f.a.toNat, 1, false, false⟩]
  | .rclampW f | .adjb f => [⟨0, 0, f.a.toNat, 2, false, false⟩]
  | .rssumW f => [⟨0, 0, f.a.toNat, 3, false, false⟩]
  | .rmaxWCr f | .rminWCr f | .rmedWCr f => [⟨0, 0, f.a.toNat, 1, false, false⟩]
  | .rclampWCr f | .rssumWCr f => [⟨0, 0, f.a.toNat, 3, false, false⟩]
  | .fcoll f | .fwin f => [vRun 0 f.a 2 false false]
  | .fsend f => [vRun 0 f.a 4 false false]
  | _ => []

/-- The sources of an instruction in a thread: TFILL reads only in the threads of TFMASK, and as many registers as TFDST
names; LAUNCH reads a pair at privileged level; QPUSH reads a record (R111, R151, R297). -/
def Thread.sourcesOf (t : Thread) (priv : Bool) (record : Nat) (i : Instr) : List Src :=
  match i with
  | .tfill f =>
    match t.frame with
    | some fr => if fr.mask.getLsbD fr.slot && fr.dst.cls != 3 then
        [vRun 0 f.a (if fr.dst.cls = 0 ∧ fr.dst.count = 2 then 2 else 1) false false] else []
    | none => []
  | .launch f => [vRun 0 f.a (if priv then 2 else 1) false false]
  | .qpush f => [vRun 0 f.a record false false]
  | _ => staticSources i

/-! ## Destinations -/

/-- One v register. -/
def vDest (r : BitVec 7) : Dest := ⟨0, r.toNat, 1⟩
/-- A run of v registers. -/
def vDests (r : BitVec 7) (n : Nat) : Dest := ⟨0, r.toNat, n⟩
/-- One w register. -/
def wDest (r : BitVec 5) : Dest := ⟨1, r.toNat, 1⟩
/-- A group of w registers. -/
def wDests (r : BitVec 5) (n : Nat) : Dest := ⟨1, r.toNat, n⟩
/-- A predicate. -/
def kDest (r : BitVec 4) : Dest := ⟨2, r.toNat, 1⟩

/-- A load's destination (R65). -/
def loadDest (sz : BitVec 3) (d : BitVec 7) : Dest := if sz = 6 then ⟨1, d.toNat, 1⟩ else ⟨0, d.toNat, sizeWords sz⟩

/-- What an instruction writes. QPOP's record length and SRD's width are parameters of the forms that need them. -/
def destOf (record : Nat) : Instr → Dest
  | .rqcount f => vDest f.d
  | .rqread f => vDest f.d
  | .launch f => vDest f.d
  | .srd f => vDests f.d (if f.h = 0 && sregWide f.s.toNat then 2 else 1)
  | .movConst f => vDest f.d
  | .iadd f | .isub f | .imul f | .imulh f | .imin f | .imax f | .iand f | .ior f | .ixor f | .iandn f | .ishl f
  | .ishr f | .isar f | .irol f | .ibfx f | .idiv f | .irem f | .imad f | .imadh f | .isad f | .fadd f | .fsub f | .fmul f
  | .ffma f | .fmin f | .fmax f | .fdiv f | .fcopys f | .fscale f | .rand f | .hadd f | .hsub f | .hmul f | .hfma f
  | .sel f | .atomAdd f | .atomMin f | .atomMax f | .atomExch f | .atomAnd f | .atomOr f | .atomXor f | .atomCas f => vDest f.d
  | .iabs f | .ineg f | .ipopc f | .iclz f | .ictz f | .ibrev f | .mov f | .fabs f | .fneg f | .fsqrt f | .frcp f | .frsq f
  | .ffloor f | .fceil f | .ftrunc f | .frint f | .fclass f | .ffrac f | .fexp2 f | .flog2 f | .fsin f | .fcos f => vDest f.d
  | .iadd64 f | .isub64 f | .ishl64 f | .ishr64 f | .dadd f | .dsub f | .dmul f | .dfma f => vDests f.d 2
  | .iaddi f | .imuli f => vDest f.d
  | .iandi f | .iori f | .ixori f => vDest f.d
  | .ishli f | .ishri f | .isari f | .iroli f => vDest f.d
  | .ftab f => vDest f.d
  | .cvt f | .cvts f => vDests f.d (fmtCount (cvtDst f))
  | .pack f | .unpack f => vDest f.d
  | .icmp f | .fcmp f | .hcmp f | .dcmp f => kDest f.k
  | .icmpi f => kDest f.k
  | .pand f | .por f | .pxor f | .pandn f => kDest f.d
  | .ktov f => vDest f.d
  | .vtok f => kDest f.d
  | .ld f => loadDest f.sz f.d
  | .ldAcq f => loadDest f.sz f.d
  | .abarWait f | .abarTest f => vDest f.r
  | .qpop f => vDests f.d record
  | .qcount f => vDest f.d
  | .sadd f | .ssub f | .smul f | .sfma f | .smin f | .smax f | .sdiv f | .ssel f => wDest f.d
  | .ssqrt f | .sexp f => wDest f.d
  | .shsum f => vDest f.d
  | .sdot f => vDest f.d
  | .sbcast f => wDest f.d
  | .slane f => vDest f.d
  | .sins f => wDest f.d
  | .scmp f => ⟨0, f.d.toNat, 1⟩
  | .scvtNarrow f => vDests f.d (if f.f.toNat < 2 then 2 else 1)
  | .scvtWiden f => wDest f.d
  | .swls f => wDest f.d
  | .spol f | .smdiel f => wDests f.d 4
  | .sfres f => wDests f.d 4
  | .filmRd f => vDest f.d
  | .visrd f => vDests f.d 3
  | .trace f | .tracea f => vDests f.d 6
  | .stex f | .stexup f | .scmf f => wDest f.d
  | .accrd f => vDests f.d 2
  | .rmaxWCr f | .rminWCr f | .rmedWCr f | .rclampWCr f | .rssumWCr f => vDests f.d 2
  | _ => {}

/-- The engine queue an instruction enters: cq0 to cq3, 4 aq, 5 tq, 6 fq (R244). -/
def queueOf : Instr → Option Nat
  | .cast f | .castT8 f | .castT16 f => some f.q.toNat
  | .castw f | .castwCb3 f => some f.q.toNat
  | .casttab f => some f.q.toNat
  | .mma _ | .mmas _ | .accz _ | .accld _ | .accst _ | .accstAdd _ | .accrd _ | .mseq _ => some 4
  | .rmaxW _ | .rminW _ | .rmedW _ | .rclampW _ | .rssumW _ | .adjb _ => some 4
  | .rmaxWCr _ | .rminWCr _ | .rmedWCr _ | .rclampWCr _ | .rssumWCr _ => some 4
  | .trace _ | .tracea _ | .stex _ | .stexup _ | .scmf _ | .filmAdd _ | .filmRd _ | .rast _ | .visrd _ => some 5
  | .fcoll _ | .fsend _ | .fwin _ => some 6
  | _ => none

/-- How many operations an engine queue holds (R244). -/
def queueDepth (q : Nat) : Nat := if q < 4 then 8 else 16

/-- An instruction that has a replay entry from its issue (R148). -/
def entersReplay : Instr → Bool
  | .ld _ | .ldAcq _ | .st _ | .stRel _ | .waitv _ | .launch _ | .dield _ | .ftabld _ | .qpop _ => true
  | .atomAdd _ | .atomMin _ | .atomMax _ | .atomExch _ | .atomAnd _ | .atomOr _ | .atomXor _ | .atomCas _ => true
  | .redAdd _ | .redMin _ | .redMax _ | .redAnd _ | .redOr _ | .redXor _ => true
  | .trace _ | .tracea _ | .stex _ | .stexup _ | .scmf _ | .filmRd _ | .visrd _ | .accrd _ | .mseq _ => true
  | .rmaxWCr _ | .rminWCr _ | .rmedWCr _ | .rclampWCr _ | .rssumWCr _ => true
  | _ => false

/-- The privileged instructions of major 0x00 (R112). -/
def privilegedForm : Instr → Bool
  | .tlbinv _ | .otinv _ | .ctxsave _ | .ctxload _ => true
  | _ => false

/-- The named barriers, convergence registers and ring-queue descriptors an instruction names: class as TFINFO codes it (2, 3, 4)
and number (R32, R141). -/
def namesOf : Instr → Option (Nat × Nat)
  | .barArrive f | .barWait f | .barSync f => some (2, f.n.toNat)
  | .cvdecl f => some (3, f.n.toNat)
  | .mma f => some (3, f.v.toNat)
  | .mmas f => some (3, f.v.toNat)
  | .accz f => some (3, f.v.toNat)
  | .accld f | .mseq f => some (3, f.v.toNat)
  | .accst f | .accstAdd f => some (3, f.v.toNat)
  | .accrd f => some (3, f.v.toNat)
  | .rmaxWCr f | .rminWCr f | .rmedWCr f | .rclampWCr f | .rssumWCr f => some (3, f.v.toNat)
  | .qpush f => some (4, f.q.toNat)
  | .qpop f | .qcount f => some (4, f.q.toNat)
  | .qclose f => some (4, f.q.toNat)
  | _ => none

/-- The live set's registers, class and number (R72). -/
def liveRegisters (l : LiveSet) : List (Nat × Nat) :=
  (List.range l.vcount.toNat).map (fun i => (0, l.vbase.toNat + i)) ++
    (List.range l.wcount.toNat).map (fun i => (1, l.wbase.toNat + i))

/-- Every register an instruction names: class and number (R32). -/
def Thread.registersOf (t : Thread) (priv : Bool) (record : Nat) (i : Instr) : List (Nat × Nat) :=
  let d := destOf record i
  (if d.cls < 2 then (List.range d.count).map fun k => (d.cls, d.num + k) else []) ++
  ((match i with | .tfill f => [vSrc 0 f.a false false] | _ => t.sourcesOf priv record i : List Src).filter (fun s => s.cls < 2)).flatMap
    (fun s => (List.range s.count).map fun k => (s.cls, s.num + k)) ++
  (match i with | .reformX f => (f.live.map liveRegisters).getD [] | _ => [])

/-! ## Reading -/

/-- The words of a register run with each register's state. -/
def Thread.readRun (t : Thread) (cls num : Nat) : Nat → Opnd
  | 0 => []
  | n + 1 =>
    (if cls = 0 then [((t.vreg num).val, (t.vreg num).st)]
      else if cls = 1 then (t.wreg num).words.map fun x => (x, (t.wreg num).st)
      else [(if t.pred num then (1 : Word) else 0, .full)]) ++ Thread.readRun t cls (num + 1) n

/-- A source as read in a thread. -/
def Thread.read (t : Thread) (s : Src) : Opnd := t.readRun s.cls s.num s.count

/-- The operands of an instruction as a thread reads them, by the field that names each. -/
def Thread.capture (t : Thread) (srcs : List Src) : Captured :=
  srcs.foldl (fun c s =>
    match s.role with
    | 0 => { c with a := c.a ++ t.read s }
    | 1 => { c with b := c.b ++ t.read s }
    | 2 => { c with c := c.c ++ t.read s }
    | _ => { c with d := c.d ++ t.read s }) {}

/-- The operand that a source's field holds. -/
def Captured.get (c : Captured) (role : Nat) : Opnd := if role = 0 then c.a else if role = 1 then c.b else if role = 2 then c.c else c.d

/-- A word of an operand, zero past its end. -/
def Opnd.word (o : Opnd) (i : Nat) : Nat := ((o[i]?).map fun x => x.1.toNat).getD 0

/-- The words of an operand as numbers. -/
def Opnd.nums (o : Opnd) : List Nat := o.map fun x => x.1.toNat

/-- Two words of an operand, the lower first, as one number. -/
def Opnd.dword (o : Opnd) : Nat := Opnd.word o 0 + Opnd.word o 1 * 2 ^ 32

/-- Some register of the operand is uninitialised. -/
def Opnd.uninit (o : Opnd) : Bool := o.any fun x => x.2 == .uninit

/-- What a meaning computes on: one active thread with its operands, its rounding mode and element override. -/
structure Lane where
  tid : Nat
  slot : Nat
  /-- the thread as it stood before the chain (R60) -/
  th : Thread
  cap : Captured
  mode : RMode
  et : Nat
  deriving DecidableEq, Repr

/-- Word 0 of the fields. -/
def Lane.a (l : Lane) : Nat := Opnd.word l.cap.a 0
def Lane.b (l : Lane) : Nat := Opnd.word l.cap.b 0
def Lane.c (l : Lane) : Nat := Opnd.word l.cap.c 0
def Lane.d (l : Lane) : Nat := Opnd.word l.cap.d 0

/-- A thread of the group as the instruction reads it: as it stood before the chain (R60). -/
def Issue.reads (iss : Issue) (s : State) (tid : Nat) : Option Thread :=
  match Map.get? iss.before tid with
  | some t => some t
  | none => s.thread? tid

/-- Whether an instruction is active in a thread (R70); a re-injected entry is. -/
def Issue.active (iss : Issue) (t : Thread) (p : Pfx) : Bool :=
  iss.captured.isSome || (t.pred p.k.toNat != p.inv)

/-- The rounding mode of an instruction in a thread (R70, R115). -/
def roundingOf (t : Thread) (p : Pfx) : RMode :=
  RMode.ofCode (if p.rm = 0 then t.fpctl.toNat / 16 % 8 else p.rm.toNat)

/-- The lane of a thread of the group. -/
def Issue.lane (iss : Issue) (s : State) (i : Instr) (slot tid : Nat) (t : Thread) (record : Nat) : Lane :=
  { tid := tid, slot := slot, th := t
    cap := match iss.captured with
      | some m => Map.getD m tid {}
      | none => t.capture (t.sourcesOf (s.privileged iss.ctx) record i)
    mode := roundingOf t (prefixOf i), et := (prefixOf i).et.toNat }


/-! ## Conditions of the sources (R50, R120, R144) -/

/-- TFINFO of a register: its class and number (R141). -/
def regInfo (cls num : Nat) : BitVec 64 := BitVec.ofNat 64 (cls * 256 + num)

/-- The registers of a source. -/
def Src.regs (s : Src) : List Nat := (List.range s.count).map (s.num + ·)

/-- The words of a source's operand that belong to its k-th register. -/
def Src.wordsOf (s : Src) (o : Opnd) (k : Nat) : Opnd := if s.cls = 1 then (o.drop (4 * k)).take 4 else (o.drop k).take 1

/-- EMPTY: the first source register that is trap-empty, or empty under the trapping policy (R50, R144). -/
def emptyCause (srcs : List Src) (c : Captured) : Option (BitVec 64) :=
  srcs.findSome? fun s =>
    if s.cls = 2 then none
    else
      (List.range s.count).findSome? fun k =>
        match (s.wordsOf (c.get s.role) k)[0]? with
        | some (_, .trapEmpty) => some (regInfo s.cls (s.num + k))
        | some (_, .empty) => some (regInfo s.cls (s.num + k))
        | _ => none

/-- TFINFO of an uninitialised register: the register whose marker its bits carry, else itself (R120). -/
def uninitInfo (cls num : Nat) (bits : Nat) : BitVec 64 :=
  if bits / 2 ^ 9 = 0x7FA00000 / 2 ^ 9 ∧ bits % 256 < (if bits / 256 % 2 = 0 then 128 else 32) then
    regInfo (bits / 256 % 2) (bits % 256)
  else regInfo cls num

/-- UNINIT: the first floating-point use of an uninitialised register (R120). -/
def uninitCause (srcs : List Src) (c : Captured) : Option (BitVec 64) :=
  srcs.findSome? fun s =>
    if !s.fp || s.cls = 2 then none
    else
      (List.range s.count).findSome? fun k =>
        match (s.wordsOf (c.get s.role) k)[0]? with
        | some (x, .uninit) => some (uninitInfo s.cls (s.num + k) x.toNat)
        | _ => none

/-- The source register that makes a thread wait: empty under the blocking policy (R50). -/
def Thread.blockedOn (t : Thread) (srcs : List Src) : Option (Nat × Nat) :=
  srcs.findSome? fun s =>
    if s.trap || s.cls = 2 then none
    else (s.regs.find? fun r => t.regState s.cls r == .empty).map fun r => (s.cls, r)

end Sys2Proof.Machine
end

