-- ==== Sys2Proof/Machine/Flags.lean ====
section
/-! DEFINITION. Conditions and flags: FPCTL's flags (R114, R117), the causes an instruction raises in the threads of its group and
which one is delivered (R61, R82, R121, R122), and the shared shape of an instruction that computes in each thread. -/
namespace Sys2Proof.Machine

/-- FPCTL with the raised conditions ORed into its flags (R114, R117). -/
def orFlags (fpctl : BitVec 32) (c : Conds) : BitVec 32 := fpctl ||| BitVec.ofNat 32 (c.bits * 2 ^ 16)

/-- The trap that raised conditions make under FPCTL's enables (R114, R121, R122). -/
def condCause (fpctl : BitVec 32) (c : Conds) : Option Cause :=
  if c.nv && fpctl.getLsbD 0 then some .fpinv
  else if c.dz && fpctl.getLsbD 1 then some .fpdiv
  else none

/-- What an instruction computes in one thread: the words of its destination, the state they are written with, the conditions
raised, and a trap of its own. -/
structure LaneOut where
  words : List Word := []
  st : RState := .full
  conds : Conds := {}
  trap : Option (Cause × BitVec 64) := none
  deriving DecidableEq, Repr

/-- One 32-bit result. -/
def LaneOut.one (v : Nat) : LaneOut := { words := [BitVec.ofNat 32 v] }

/-- One 64-bit result in a pair. -/
def LaneOut.pair (v : Nat) : LaneOut := { words := [BitVec.ofNat 32 v, BitVec.ofNat 32 (v / 2 ^ 32)] }

/-- A predicate. -/
def LaneOut.pred (b : Bool) : LaneOut := { words := [if b then 1 else 0] }

/-- A floating-point result with its conditions. -/
def LaneOut.fp (r : Nat × Conds) : LaneOut := { words := [BitVec.ofNat 32 r.1], conds := r.2 }

/-- A double result with its conditions. -/
def LaneOut.fp64 (r : Nat × Conds) : LaneOut := { LaneOut.pair r.1 with conds := r.2 }

/-- Several words with their conditions. -/
def LaneOut.words' (ws : List Nat) (c : Conds) : LaneOut := { words := ws.map (BitVec.ofNat 32), conds := c }

/-- How an instruction fares in one thread of its group. -/
inductive Verdict where
  /-- inactive, the destination merged (R70) -/
  | idle
  /-- inactive under mz = 1: the destination is zeroed (R70) -/
  | zeroed
  /-- performed -/
  | done (o : LaneOut)
  /-- a condition, with TFINFO, the operands captured and the conditions to flag -/
  | trapped (c : Cause) (info : BitVec 64) (cap : Captured) (conds : Conds)
  deriving DecidableEq, Repr

/-- The verdict of a computing instruction in one thread: the guard, then EMPTY, UNINIT, its own trap, then the enabled
conditions (R70, R122). -/
def laneVerdict (i : Instr) (srcs : List Src) (active : Bool) (f : Lane → LaneOut) (l : Lane) : Verdict :=
  if !active then (if (prefixOf i).mz then .zeroed else .idle)
  else
    match emptyCause srcs l.cap with
    | some info => .trapped .empty info l.cap {}
    | none =>
      match uninitCause srcs l.cap with
      | some info => .trapped .uninit info l.cap {}
      | none =>
        let o := f l
        match o.trap with
        | some (c, info) => .trapped c info l.cap {}
        | none =>
          match condCause l.th.fpctl o.conds with
          | some c => .trapped c (BitVec.ofNat 64 o.conds.bits) l.cap o.conds
          | none => .done o

/-- The lower of two causes by TFCAUSE code (R122). -/
def lowerCause (a b : Option Cause) : Option Cause :=
  match a, b with
  | none, b => b
  | a, none => a
  | some x, some y => if x.code ≤ y.code then some x else some y

/-- The cause of a verdict. -/
def Verdict.cause : Verdict → Option Cause
  | .trapped c _ _ _ => some c
  | _ => none

/-- The verdicts of a group: thread, slot, verdict. -/
abbrev Verdicts := List (Nat × Nat × Verdict)

/-- The cause delivered: the lowest code that any thread raised (R122). -/
def lowestCause : Verdicts → Option Cause
  | [] => none
  | (_, _, v) :: rest => lowerCause v.cause (lowestCause rest)

/-- The verdict of a thread. -/
def verdictOf (vs : Verdicts) (tid : Nat) : Option (Nat × Verdict) := (vs.find? fun x => x.1 == tid).map Prod.snd

/-- The slots in which a cause was raised. -/
def causeMask (vs : Verdicts) (c : Cause) : BitVec 32 :=
  vs.foldl (fun m x => if x.2.2.cause = some c then m ||| slotBit x.2.1 else m) 0

/-- TFINFO of each slot that raised a cause; for FPINV and FPDIV all find the OR of their conditions (R121). -/
def causeInfos (vs : Verdicts) (c : Cause) : List (Nat × BitVec 64) :=
  let own := vs.filterMap fun x => match x.2.2 with
    | .trapped c' info _ _ => if c' = c then some (x.2.1, info) else none
    | _ => none
  if c = .fpinv ∨ c = .fpdiv then
    let all := own.foldl (fun a x => a ||| x.2) (0 : BitVec 64)
    own.map fun x => (x.1, all)
  else own

/-- The slots of a group as a mask. -/
def Issue.mask (iss : Issue) : BitVec 32 := iss.slots.foldl (fun m x => m ||| slotBit x.1) 0

/-- An entry placed unperformed with its captured operands (R61, R122). -/
def unperformedEntry (s : State) (iss : Issue) (i : Instr) (lanes : BitVec 32) (cap : Captured) (dst : Dest) : Entry :=
  { id := s.nextId, instr := i, pc := iss.cur.pc, stamp := iss.cur.stamp, unperformed := true, state := .held
    lanes := lanes, cap := cap, dst := dst, issueNo := s.nextId }

/-- What a verdict does to its thread; `delivered` is the cause that the group's trap delivers, absent where the chain has
already raised one (R61, R121, R122). -/
def Thread.settle (t : Thread) (delivered : Option Cause) (e : Captured → Entry) (dst : Dest) : Verdict → Thread
  | .idle => t
  | .zeroed => t.writeDest dst (List.replicate (if dst.cls = 1 then 4 * dst.count else dst.count) 0) .full
  | .done o => { t.writeDest dst o.words o.st with fpctl := orFlags t.fpctl o.conds }
  | .trapped c _ cap conds =>
    if delivered = some c then { t.markDest dst .trapEmpty with fpctl := orFlags t.fpctl conds }
    else { t.markDest dst .empty with replay := t.replay ++ [e cap] }

/-- The group's trap, when the chain has raised none before; ILLEG is a decode trap, whatever it is found by, and names no destination
(R61, R122). -/
def Issue.raise (iss : Issue) (vs : Verdicts) (dst : Dest) : Option Raised :=
  match iss.raised with
  | some r => some r
  | none =>
    (lowestCause vs).map fun c =>
      { cause := c, pc := iss.cur.pc, stamp := iss.cur.stamp, mask := causeMask vs c
        dst := if c = .illeg then {} else dst, infos := causeInfos vs c, decode := c == .illeg }

/-- The slots whose thread holds the instruction unperformed: it raised a condition that the trap does not deliver. -/
def heldMask (vs : Verdicts) (delivered : Option Cause) : BitVec 32 :=
  vs.foldl (fun m x => if x.2.2.cause.isSome && x.2.2.cause != delivered then m ||| slotBit x.2.1 else m) 0

/-- The verdicts of an instruction applied to its group; where one is ILLEG nothing issues, so that no thread changes (R61). -/
def State.settleAll (s : State) (iss : Issue) (i : Instr) (dst : Dest) (vs : Verdicts) : State :=
  let delivered := if iss.raised.isSome then none else lowestCause vs
  if delivered = some .illeg then { s with issue := some { (s.issue.getD iss) with raised := iss.raise vs dst, todo := [] } }
  else { s with
    threads := Map.mapAll s.threads fun tid t =>
      match verdictOf vs tid with
      | some (slot, v) =>
        t.settle delivered (fun cap => { unperformedEntry s iss i (heldMask vs delivered) cap dst with slot := slot }) dst v
      | none => t
    issue := some { (s.issue.getD iss) with raised := iss.raise vs dst }
    nextId := s.nextId + 1 }

/-- The lanes of the issuing group, with whether the instruction is active in each (R60, R70). -/
def Issue.lanes (iss : Issue) (s : State) (i : Instr) (record : Nat) : List (Lane × Bool) :=
  iss.slots.filterMap fun x =>
    (iss.reads s x.2).map fun t => (iss.lane s i x.1 x.2 t record, iss.active t (prefixOf i))

/-- An instruction that computes in each thread of its group and writes one destination. -/
def State.compute (s : State) (i : Instr) (f : Lane → LaneOut) : State :=
  match s.issue with
  | none => s
  | some iss =>
    s.settleAll iss i (destOf 0 i) ((iss.lanes s i 0).map fun x =>
      (x.1.tid, x.1.slot, laneVerdict i (x.1.th.sourcesOf (s.privileged iss.ctx) 0 i) x.2 f x.1))

/-! ## Traps found at decode (R32, R61, R82) -/

/-- The privileged special registers that R93 lists. -/
def privListed (n : Nat) : Bool :=
  (0x100 ≤ n && n ≤ 0x106) || (0x110 ≤ n && n ≤ 0x11F) || (0x120 ≤ n && n ≤ 0x125)

/-- The registers whose declaration is checked: of a move of a privileged number at unprivileged level the one its field names, so that
nothing shows whether the number is assigned (R32, R82, R93). -/
def Thread.checkedRegisters (t : Thread) (priv : Bool) (record : Nat) (i : Instr) : List (Nat × Nat) :=
  match i with
  | .srd f => if !priv && f.s.toNat ≥ 0x100 then [(0, f.d.toNat)] else t.registersOf priv record i
  | .swr f => if !priv && f.s.toNat ≥ 0x100 then [(0, f.a.toNat)] else t.registersOf priv record i
  | _ => t.registersOf priv record i

/-- A register, barrier, convergence register or descriptor beyond the declaration: its class and number (R32). -/
def State.undeclared (s : State) (t : Thread) (priv : Bool) (record : Nat) (i : Instr) : Option (Nat × Nat) :=
  match (t.checkedRegisters priv record i).find? fun r => decide (r.2 ≥ (if r.1 = 0 then t.vregs else t.wregs)) with
  | some r => some r
  | none =>
    match namesOf i with
    | some (2, n) => if n < (s.stageOf t).nbar then none else some (2, n)
    | some (3, n) => if n < (s.stageOf t).ncv then none else some (3, n)
    | some (4, n) => if ((Map.get? s.cells t.cell).bind fun c => Map.get? c.qbind n).isSome then none else some (4, n)
    | _ => none

/-- The rules that name ILLEG for a word by where and how it stands: the handler instructions outside a pinned group, their
fields, and a privileged number that R93 does not list (R93, R149, R150, R151). -/
def illegHere (t : Thread) (priv : Bool) : Instr → Bool
  | .rte _ | .rtePc _ | .rqcount _ | .rqread _ | .rqdrop _ => t.frame.isNone
  | .rqwrite f => t.frame.isNone || f.f.toNat ≤ 3 || f.f == 7
  | .tfill f =>
    match t.frame with
    | none => true
    | some fr => fr.mask.getLsbD fr.slot && fr.dst.cls == 0 && fr.dst.count == 2 && f.a.toNat % 2 != 0
  | .srd f => priv && f.s.toNat ≥ 0x100 && !(privListed f.s.toNat && halfFits f.s.toNat f.h f.d)
  | .swr f => priv && f.s.toNat ≥ 0x100 && !(privListed f.s.toNat && halfFits f.s.toNat f.h f.a)
  | .launch f => priv && f.a.toNat % 2 != 0
  | .retsh _ => t.shaders.isEmpty
  | _ => false

/-- PRIV: a privileged instruction or register at unprivileged level, with TFINFO (R82, R141). -/
def privHere (priv : Bool) (i : Instr) : Option (BitVec 64) :=
  if priv then none
  else
    match i with
    | .tlbinv _ => some 0x180
    | .otinv _ => some 0x181
    | .ctxsave _ => some 0x182
    | .ctxload _ => some 0x183
    | .srd f => if f.s.toNat ≥ 0x100 then some (BitVec.ofNat 64 f.s.toNat) else none
    | .swr f => if f.s.toNat ≥ 0x100 then some (BitVec.ofNat 64 f.s.toNat) else none
    | _ => none

/-- The trap that decoding an instruction raises in a thread: ILLEG, the checks of R32 included, then PRIV (R82). -/
def State.decodeTrap (s : State) (t : Thread) (priv : Bool) (record : Nat) (i : Instr) : Option (Cause × BitVec 64) :=
  if !i.wellFormed then some (.illeg, 0)
  else
    match s.undeclared t priv record i with
    | some (c, n) => some (.illeg, BitVec.ofNat 64 (2 ^ 16 + c * 256 + n))
    | none =>
      if illegHere t priv i then some (.illeg, 0)
      else (privHere priv i).map fun x => (.priv, x)

/-- The decode trap of a group: the lowest cause of its threads, nothing issued (R61, R122). -/
def Issue.decodeRaise (iss : Issue) (found : List (Nat × Option (Cause × BitVec 64))) : Option Raised :=
  let vs : Verdicts := found.map fun x => (0, x.1, match x.2 with
    | some (c, info) => .trapped c info {} {}
    | none => .idle)
  (lowestCause vs).map fun c =>
    { cause := c, pc := iss.cur.pc, stamp := iss.cur.stamp, mask := causeMask vs c, dst := {}, infos := causeInfos vs c
      decode := true }

/-- The decode trap of an instruction in the issuing group. -/
def State.decodeTraps (s : State) (iss : Issue) (i : Instr) (record : Nat) : Option Raised :=
  iss.decodeRaise (iss.slots.filterMap fun x =>
    (iss.reads s x.2).map fun t => (x.1, s.decodeTrap t (s.privileged iss.ctx) record i))

/-- An instruction of the issuing group: its decode trap, or its effect. Without an issuing group nothing happens. -/
def State.issued (s : State) (i : Instr) (k : Issue → State) : State :=
  match s.issue with
  | none => s
  | some iss =>
    match s.decodeTraps iss i 0 with
    | some r => { s with issue := some { iss with raised := some (iss.raised.getD r), todo := [] } }
    | none => k iss

/-- The shape of every computing instruction's meaning. -/
def State.run (s : State) (i : Instr) (f : Lane → LaneOut) : Host.Outcome State Fault Refusal :=
  .next (s.issued i fun _ => s.compute i f)

end Sys2Proof.Machine
end

