-- ==== Sys2Proof/Machine/Entries.lean ====
section
/-! DEFINITION. Replay entries and their completion (R148), the checks of an access at its issue (R101, R321, R329, R330), and the
accounts that accesses feed: energy (R412), the error log (R266) and trace records (R406, R408). -/
namespace Sys2Proof.Machine

/-! ## Energy (R412) -/

/-- The reset weights of ENWT (R412). -/
def enwtDefault (n : Nat) : Nat := [64, 8, 4, 2, 24, 48, 8, 1, 4, 320, 480, 6, 4000, 240, 0, 0].getD n 0

/-- A weight; 14 and 15 read zero. -/
def Tile.weight (t : Tile) (n : Nat) : Nat := if n < 14 then Map.getD t.enwt n (enwtDefault n) else 0

/-- `k` events n charged to a context's ENACC of a tile (R412). -/
def State.energy (s : State) (tile ctx n k : Nat) : State :=
  let t := s.tile tile
  s.setTile tile { t with enacc := Map.set t.enacc ctx (Map.getD t.enacc ctx 0 + BitVec.ofNat 64 (t.weight n * k)) }

/-- The mesh hops of an access from a tile to a physical address: none to its own slice (R412). -/
def hopsTo (tile pa : Nat) : Nat :=
  match regionOf pa with
  | .slice =>
    let home := (pa - 0x8000000000) / 2 ^ 22
    if home = tile then 0 else Config.meshHops tile home
  | .hbm => Config.meshHops tile (256 + pa / 2 ^ 11 % 8)
  | _ => 0

/-- The energy of an access of n bytes: slices, the mesh and HBM bursts (R412). -/
def State.accessEnergy (s : State) (tile ctx pa n : Nat) : State :=
  match regionOf pa with
  | .slice => (s.energy tile ctx 4 ((n + 15) / 16)).energy tile ctx 5 (hopsTo tile pa * ((n + 31) / 32))
  | .hbm => (s.energy tile ctx 12 ((n + 63) / 64)).energy tile ctx 5 (hopsTo tile pa * ((n + 31) / 32))
  | .fabric _ _ => s.energy tile ctx 13 n
  | _ => s

/-! ## The error log (R265, R266) -/

/-- An error logged in the lowest free entry of a tile's log, or LOGOVF (R265). -/
def State.logError (s : State) (tile src ctx unit obj elem : Nat) : State :=
  let t := s.tile tile
  match (List.range 16).find? fun n => !(Map.getD t.errlog n 0).getLsbD 63 with
  | some n => s.setTile tile { t with errlog := Map.set t.errlog n (BitVec.ofNat 64
      (2 ^ 63 + src % 8 * 2 ^ 60 + ctx % 16 * 2 ^ 56 + unit % 256 * 2 ^ 48 + obj % 65536 * 2 ^ 32 + elem % 2 ^ 32)) }
  | none => s.setTile tile { t with errsticky := t.errsticky ||| 32 }

/-- A fatal fault of a thread's context that raises no trap (R386). -/
def State.haltUntrapped (s : State) (t : Thread) : State :=
  s.fatal t.ctx { cause := .pgfatal, tfpc := 0, tfinfo := 0, tfmask := 0, tfdst := 0, wid := 0, tile := t.tile
                  part := t.part, untrapped := true }

/-- R315: an uncorrectable error in what a thread reads halts its context and is logged, an HBM word's with SRC 3 whatever window
names it. -/
def State.eccStop (s : State) (tid : Nat) (pa : Nat) : State :=
  match s.thread? tid with
  | none => s
  | some t =>
    (s.logError t.tile (if regionOf (s.localPa pa) = .hbm then 3 else 0) t.ctx 0 0xFFFF pa).haltUntrapped t

/-! ## Debug blocks (R396, R399) -/

/-- The debug block of a partition, as after reset when unlisted (R396, R398). -/
def State.block (s : State) (tile part : Nat) : DebugBlock := Map.getD s.debug (tile * 4 + part) {}

/-- A partition's debug block replaced. -/
def State.setBlock (s : State) (tile part : Nat) (b : DebugBlock) : State :=
  { s with debug := Map.set s.debug (tile * 4 + part) b }

/-- A partition is stopped: its selector draws nothing, and the riddle moves nothing into or out of it (R399). -/
def State.isStopped (s : State) (tile part : Nat) : Bool := (s.block tile part).stopped

/-! ## Trace (R405 to R408) -/

/-- A trace record written to the buffer, which wraps under WRAP, or dropped when the buffer is full (R405). -/
def State.traceBuffer (s : State) (rec' : List Byte) : Bool × State :=
  let tr := s.trace
  let size := (tr.size.toNat % 65536 + 1) * 65536
  let base := tr.base.toNat / 65536 % 2 ^ 36 * 65536
  let wrap := tr.ctl.getLsbD 28
  let at' := if tr.ptr + 32 > size && wrap then 0 else tr.ptr
  if at' + 32 ≤ size then
    let s := (s.setBytes (base + at') rec').wakeGranules (base + at') 32
    let full := at' + 64 > size
    (true, { s with trace := { tr with
      ptr := if full && wrap then 0 else at' + 32
      ctl := if full && !wrap then tr.ctl ||| 0x08000000 else tr.ctl } })
  else (false, { s with trace := { tr with ctl := tr.ctl ||| 0x08000000 } })

/-- A traced event: its record leaves by the port, enters the buffer, or is counted lost (R405 to R408). -/
def State.emit (s : State) (kind ctx tile part : Nat) (wid : BitVec 64) (payload : List Byte) : State :=
  let tr := s.trace
  if s.port.locked || !tr.ctl.getLsbD 31 || !tr.ctl.getLsbD kind || !tr.ctxs.getLsbD ctx || tr.ctl.toNat / 2 ^ 29 % 4 = 0 then s
  else
    let source := tile * 5 + part
    let lost := tr.owing.contains source
    let word0 := kind + ctx * 2 ^ 8 + (if lost then 2 ^ 12 else 0) + tile * 2 ^ 13 + (if part < 4 then part else 0) * 2 ^ 21
    let ts := s.timing.clock % 1000000000 + s.timing.clock / 1000000000 % 2 ^ 34 * 2 ^ 30
    let bytes := toBytes 4 word0 ++ toBytes 4 (wid.toNat % 2 ^ 32) ++ toBytes 8 ts ++ (payload ++ List.replicate 16 0).take 16
    let toPort := tr.ctl.getLsbD 29
    let r := if tr.ctl.getLsbD 30 then s.traceBuffer bytes else (false, s)
    let s := r.2
    let tr := s.trace
    if toPort || r.1 then
      { s with trace := { tr with port := if toPort then tr.port ++ [bytes] else tr.port
                                  owing := tr.owing.filter (· != source) } }
    else { s with trace := { tr with lost := min (tr.lost + 1) (2 ^ 32 - 1), owing := source :: tr.owing.filter (· != source) } }

/-! ## Entries (R148) -/

/-- A replay entry added to a thread, its destination left empty; the entry takes a fresh number. -/
def State.addEntry (s : State) (tid : Nat) (e : Entry) : State :=
  let id := s.nextId
  { s with nextId := id + 1 }.modThread tid fun t =>
    { t.markDest e.dst .empty with replay := t.replay ++ [{ e with id := id }] }

/-- An entry of a thread by its number. -/
def Thread.entry? (t : Thread) (id : Nat) : Option Entry := t.replay.find? fun e => e.id == id

/-- An entry changed. -/
def Thread.modEntry (t : Thread) (id : Nat) (g : Entry → Entry) : Thread :=
  { t with replay := t.replay.map fun e => if e.id = id then g e else e }

/-- A thread whose blocking cause has cleared becomes ready, its wait starting now (R48). -/
def Thread.recheck (t : Thread) (now : Nat) : Thread :=
  match t.wait with
  | .reg c n => if t.regState c n == .empty then t else t.unblock now
  | .replay | .earlier => t.unblock now
  | _ => t

/-- An entry retired: it leaves the queue, or stays DONE while the queue is frozen, unless RQDROP has removed it (R148, R150). -/
def Thread.retire (t : Thread) (id : Nat) : Thread :=
  if t.frozen && !((t.entry? id).any Entry.dropped) then t.modEntry id fun e => { e with state := .done }
  else { t with replay := t.replay.filter fun e => e.id != id }

/-- A context has been halted by a fatal fault (R384). -/
def State.isHalted (s : State) (ctx : Nat) : Bool :=
  match s.ctx? ctx with
  | some c => c.phase == .halting || c.phase == .halted
  | none => false

/-- A destination written, but for the registers that REFORM.X has reset (R195). -/
def Thread.writeKept (t : Thread) (d : Dest) (lost : List Nat) (ws : List Word) : Thread :=
  if lost.isEmpty then t.writeDest d ws .full
  else
    let size := if d.cls = 1 then 4 else 1
    ((List.range d.count).filter fun k => !lost.contains k).foldl (fun t k =>
      t.writeDest { d with num := d.num + k, count := 1 } (ws.drop (size * k)) .full) t

/-- A reply arrives: the destination is written full and the entry retires (R102, R148); a dropped one only retires (R150), and one
of a halted context is discarded (R384). -/
def State.completeEntry (s : State) (tid id : Nat) (words : List Word) : State :=
  s.modThread tid fun t =>
    match if s.isHalted t.ctx then none else t.entry? id with
    | none => t
    | some e =>
      let t := if e.dropped then t else t.writeKept e.dst e.lost words
      (t.retire id).recheck s.cycle

/-- An entry that awaits a reply without a destination has completed: it leaves the queue, or stays DONE while that is frozen (R148). -/
def State.retireEntry (s : State) (tid id : Nat) : State :=
  s.modThread tid fun t => (t.retire id).recheck s.cycle

/-- An entry without a destination has performed: it leaves the queue. -/
def State.finishEntry (s : State) (tid id : Nat) : State :=
  s.modThread tid fun t => ({ t with replay := t.replay.filter fun e => e.id != id } : Thread).recheck s.cycle

/-! ## Order within a thread (R103, R245, R290) -/

/-- An entry that a frozen queue does not let go (R148). -/
def Thread.stops (t : Thread) (e : Entry) : Bool := t.frozen && e.stopped && e.state == .held

/-- An entry that has still to perform: one that a frozen queue holds back is not awaited. -/
def Thread.awaits (t : Thread) (e : Entry) : Bool := e.state != .done && !t.stops e

/-- What a thread has issued that has not performed: an operation, an entry, or a request that another package has not acknowledged. -/
def State.unfinished (s : State) (t : Thread) (id : Nat) : Bool :=
  (Map.get? s.ops id).isSome || (t.replay.any fun e => e.id == id && t.awaits e) || s.fabric.retry.any fun r => r.2.id == id

/-- Everything a thread has issued that has not performed (R103, R290, R293). -/
def State.outstanding (s : State) (t : Thread) (tid : Nat) : List Nat :=
  ((t.replay.filter t.awaits).map Entry.id) ++
    ((s.ops.filter fun x => x.2.tid == tid && !(t.replay.any fun e => e.op == some x.1 && t.stops e)).map fun x => x.1)

/-- A request to another package that writes there, and so stands before a release until it is acknowledged (R348). -/
def Payload.writes : Payload → Bool
  | .load .. | .push .. => false
  | _ => true

/-- The writes of a thread to other packages that have not been acknowledged: the requests, with their targets (R348, R365). -/
def State.unacknowledged (s : State) (tid : Nat) : List (Nat × Nat) :=
  s.fabric.retry.filterMap fun r => if r.2.tid == tid && r.2.payload.writes then some (r.2.id, r.2.target) else none

/-- Everything a thread has issued that has not performed even at FABRIC and SYSTEM scope (R290, R348). -/
def State.outstandingFar (s : State) (t : Thread) (tid : Nat) : List Nat :=
  s.outstanding t tid ++ (s.unacknowledged tid).map Prod.fst

/-- What an access (bit 7) or an operation of a queue must still wait for, by the thread's fences (R245, R290). -/
def State.fencedBy (s : State) (t : Thread) (bit : Nat) : List Nat :=
  t.fences.flatMap fun f => if f.mask / 2 ^ bit % 2 = 1 then f.ids.filter fun o => s.unfinished t o else []

/-- The thread's fences that still hold something back, with one more. -/
def State.addFence (s : State) (tid : Nat) (f : Fence) : State :=
  match s.thread? tid with
  | none => s
  | some t =>
    let live := t.fences.filter fun f => f.ids.any fun o => s.unfinished t o
    s.modThread tid fun t => { t with fences := if f.ids.isEmpty then live else live ++ [f] }

/-- Something of a thread waits for an entry: a later entry, a fence, an operation, an arrival or a push. -/
def State.isAwaited (s : State) (t : Thread) (id : Nat) : Bool :=
  (t.replay.any fun e => e.after.contains id) || (t.fences.any fun f => f.ids.contains id) ||
    (t.arriving.any fun a => a.after.contains id) || (s.ops.any fun o => o.2.after.contains id) ||
    s.rings.any fun r => r.inflight.any fun p => p.after.contains id

/-- A store that has left for another package is awaited there: what a fence of FABRIC or SYSTEM scope awaits of the entry becomes its
requests (R290, R348). -/
def State.carryFences (s : State) (tid id : Nat) : State :=
  let away := (s.unacknowledged tid).map Prod.fst
  let carry (f : Fence) : Fence := if f.far && f.ids.contains id then { f with ids := f.ids ++ away } else f
  s.modThread tid fun t => { t with fences := t.fences.map carry }

/-! ## The checks of an access (R101, R321, R329, R330) -/

/-- One access that an instruction makes in a thread. -/
structure Access where
  off : Nat
  size : Nat
  kind : AccKind
  /-- checked and recorded as a write: a store, or an atomic other than CAS (R329) -/
  asWrite : Bool
  atomic : Bool := false
  /-- an atomic that a host window takes (R378) -/
  hostAtomic : Bool := false
  deriving DecidableEq, Repr

/-- Where an access leads once its checks have passed: its address in the package's own terms, and the region it was recorded in,
absent where it was not checked (R311, R329). -/
structure Reached where
  pa : Nat
  region : Option Nat := none
  deriving DecidableEq, Repr

/-- How an access fares before it performs. -/
inductive Checked where
  | ok (r : Reached)
  | trapped (c : Cause) (info : Nat)
  | parked (f : FaultInfo)
  /-- a fatal fault that raises no trap: another package that no route reaches (R361) -/
  | halted
  deriving DecidableEq, Repr

/-- Whether a physical address names a package that no route reaches (R361). -/
def State.unreachable (s : State) (pa : Nat) : Bool :=
  match regionOf pa with
  | .fabric p _ => p != s.fabric.fabid && !s.fabric.reachable p
  | _ => false

/-- Alignment, translation, reachability and the race check of one access, in that order (R101, R321, R329, R361); a host
window takes only the atomics that become AtomicOps (R378). -/
def State.check (s : State) (t : Thread) (x : Access) : Checked × State :=
  match s.reach t x.off x.size x.kind with
  | (.trap c info, s) => (.trapped c info, s)
  | (.fault f, s) => (.parked f, s)
  | (.ok pa nrd, s) =>
    if s.unreachable pa then (.halted, s)
    else if x.atomic && !x.hostAtomic && regionOf pa == .host then (.trapped .rights (0xFFFF + 2 ^ 17), s)
    else
    match s.raceCheck t pa x.size nrd x.asWrite x.atomic with
    | (true, s) => (.trapped .mmx (t.vaOf x.off), s)
    | (false, s) =>
      (.ok { pa := s.localPa pa, region := if s.raceOn t pa nrd then some (s.slot t.slotNo).cur else none }, s)

/-- What an instruction's access does in each thread: the verdicts, the lanes that go on with the address reached, and the
lanes whose access parks. -/
structure AccessPlan where
  verdicts : Verdicts := []
  going : List (Lane × Reached) := []
  parked : List (Lane × FaultInfo) := []
  deriving DecidableEq, Repr

/-- One lane of an access instruction: the guard, EMPTY, then the checks of its access. -/
def planLane (i : Instr) (access : Lane → Access) (acc : AccessPlan × State) (x : Lane × Bool) : AccessPlan × State :=
  let l := x.1
  let s := acc.2
  let put (v : Verdict) : AccessPlan := { acc.1 with verdicts := acc.1.verdicts ++ [(l.tid, l.slot, v)] }
  if !x.2 then (put (if (prefixOf i).mz then .zeroed else .idle), s)
  else
    match emptyCause (staticSources i) l.cap with
    | some info => (put (.trapped .empty info l.cap {}), s)
    | none =>
      match s.check l.th (access l) with
      | (.trapped c info, s) => (put (.trapped c (BitVec.ofNat 64 info) l.cap {}), s)
      | (.parked f, s) => ({ put .idle with parked := acc.1.parked ++ [(l, f)] }, s)
      | (.halted, s) => (put .idle, s.haltUntrapped l.th)
      | (.ok r, s) => ({ put .idle with going := acc.1.going ++ [(l, r)] }, s)

/-- The slots of lanes as a mask. -/
def laneMask (ls : List Lane) : BitVec 32 := ls.foldl (fun m l => m ||| slotBit l.slot) 0

/-- The entry of an instruction in a lane. -/
def Issue.entryFor (iss : Issue) (i : Instr) (dst : Dest) (lanes : BitVec 32) (no : Nat) (l : Lane) : Entry :=
  { id := 0, instr := i, pc := iss.cur.pc, stamp := iss.cur.stamp, lanes := lanes, cap := l.cap, dst := dst, issueNo := no
    slot := l.slot }

/-- RDSTAT counts the MMX traps that the group raises (R331). -/
def State.countMmx (s : State) (ctx : Nat) (vs : Verdicts) : State :=
  if vs.any fun v => v.2.2.cause == some .mmx then s.modCtx ctx fun c => { c with rdstat := mmxCount c.rdstat } else s

/-- A parked access: a FAULT entry, and the thread waits for the page; what follows it in order follows the entry (R142, R324). -/
def State.park (s : State) (iss : Issue) (i : Instr) (dst : Dest) (lanes : BitVec 32) (no : Nat) (order : Nat)
    (p : Lane × FaultInfo) : State :=
  let e := { iss.entryFor i dst lanes no p.1 with state := .fault, fault := some p.2, checked := false }
  ((s.addEntry p.1.tid e).modThread p.1.tid fun t => t.block .fault).addFence p.1.tid
    { mask := order, ids := if order = 0 then [] else [s.nextId] }

/-- An instruction that makes one access in each active thread: the traps are settled, parked lanes wait, and the others perform
in slot order, each with the number of the issue (R61, R142, R288). `order` is what the access holds back. -/
def State.accesses (s : State) (i : Instr) (order : Nat) (access : Lane → Access)
    (perform : State → Issue → Lane → Reached → BitVec 32 → Nat → State) : State :=
  match s.issue with
  | none => s
  | some iss =>
    let dst := destOf 0 i
    let plan := (iss.lanes s i 0).foldl (planLane i access) ({}, s)
    let p := plan.1
    let s := (plan.2.settleAll iss i dst p.verdicts).countMmx iss.ctx p.verdicts
    let no := s.nextId
    let s := { s with nextId := no + 1 }
    let lanes := laneMask (p.going.map Prod.fst ++ p.parked.map Prod.fst)
    let s := p.parked.foldl (fun s x => s.park iss i dst lanes no order x) s
    p.going.foldl (fun s x => perform s iss x.1 x.2 lanes no) s

end Sys2Proof.Machine
end

