-- ==== Sys2Proof/Machine/Memory.lean ====
section
/-! DEFINITION. Loads, stores, ordered accesses, WAITV and atomics, and the steps in which they complete
(spec/05_isa_core.md R101 to R104, spec/15_isa_witness_sync.md R286 to R289, spec/17_memory.md R313 to R332). -/
namespace Sys2Proof.Machine

/-! ## The access an instruction makes -/

/-- A plain form's window offset (R65, R101). -/
def plainOff (base : Nat) (o : BitVec 8) (size : Nat) : Nat := (((base : Int) + o.toInt * size) % 2 ^ 32).toNat

/-- An atomic's operation (R287). -/
def memOpOf (et : Nat) : Instr → MemOp
  | .atomAdd _ | .redAdd _ => .add
  | .atomMin _ | .redMin _ => .min (et == 1)
  | .atomMax _ | .redMax _ => .max (et == 1)
  | .atomExch _ => .exch
  | .atomAnd _ | .redAnd _ => .and
  | .atomOr _ | .redOr _ => .or
  | .atomXor _ | .redXor _ => .xor
  | _ => .cas

/-- An atomic's access: everything but CAS is checked as a write (R329). -/
def atomAccess (i : Instr) (addr : Nat) : Access :=
  { off := addr, size := 4, kind := .atomic, asWrite := memOpOf 0 i != .cas, atomic := true
    hostAtomic := memOpOf 0 i == .add || memOpOf 0 i == .exch || memOpOf 0 i == .cas }

/-- The access of a memory instruction from its captured operands (R101, R287). -/
def accessOf (i : Instr) (c : Captured) : Option Access :=
  match i with
  | .ld f => some { off := plainOff (Opnd.word c.a 0) f.o (sizeBytes f.sz), size := sizeBytes f.sz, kind := .read, asWrite := false }
  | .st f => some { off := plainOff (Opnd.word c.a 0) f.o (sizeBytes f.sz), size := sizeBytes f.sz, kind := .write, asWrite := true }
  | .ldAcq f => some { off := Opnd.word c.a 0, size := sizeBytes f.sz, kind := .read, asWrite := false }
  | .stRel f => some { off := Opnd.word c.a 0, size := sizeBytes f.sz, kind := .write, asWrite := true }
  | .waitv _ => some { off := Opnd.word c.a 0, size := 4, kind := .read, asWrite := false }
  | .atomAdd _ | .atomMin _ | .atomMax _ | .atomExch _ | .atomAnd _ | .atomOr _ | .atomXor _ | .atomCas _
  | .redAdd _ | .redMin _ | .redMax _ | .redAnd _ | .redOr _ | .redXor _ => some (atomAccess i (Opnd.word c.a 0))
  | _ => none

/-- An atomic's order descriptor: its release scope, and whether it acquires (R286, R289). -/
def atomOrder (i : Instr) : Option Nat × Bool :=
  let c := (prefixOf i).c.toNat
  let order := if i.bound.pfx.isSome then c / 16 % 8 else 0
  (if order ≥ 2 then some (c % 8) else none, order % 2 == 1)

/-- The scope at which an instruction releases, if it does (R103, R289). -/
def releaseScope : Instr → Option Nat
  | .stRel f => some f.p.toNat
  | .atomAdd f => (atomOrder (.atomAdd f)).1
  | .atomMin f => (atomOrder (.atomMin f)).1
  | .atomMax f => (atomOrder (.atomMax f)).1
  | .atomExch f => (atomOrder (.atomExch f)).1
  | .atomAnd f => (atomOrder (.atomAnd f)).1
  | .atomOr f => (atomOrder (.atomOr f)).1
  | .atomXor f => (atomOrder (.atomXor f)).1
  | .atomCas f => (atomOrder (.atomCas f)).1
  | .redAdd f => (atomOrder (.redAdd f)).1
  | .redMin f => (atomOrder (.redMin f)).1
  | .redMax f => (atomOrder (.redMax f)).1
  | .redAnd f => (atomOrder (.redAnd f)).1
  | .redOr f => (atomOrder (.redOr f)).1
  | .redXor f => (atomOrder (.redXor f)).1
  | _ => none

/-- The region end of a memory instruction: none, or with the scope that CLOSE records (R328). -/
def regionEndOf (i : Instr) : Option (Option Nat) :=
  match i with
  | .ldAcq _ => some none
  | .stRel f => some (some f.p.toNat)
  | _ =>
    match releaseScope i with
    | some p => some (some p)
    | none => if (atomOrder i).2 && (accessOf i {}).any Access.atomic then some none else none

/-- What waits for an entry of an instruction: everything after an acquire, the thread's accesses after a relaxed atomic (R102,
R103, R289). -/
def orderMask (i : Instr) : Nat :=
  match i with
  | .ldAcq f => if f.p = 0 then 0 else 255
  | _ => if (accessOf i {}).any Access.atomic then (if (atomOrder i).2 then 255 else 128) else 0

/-! ## Regions (R328) -/

/-- The fields of a tag that name a slot's region 2,048 or more regions old cleared (R328). -/
def Tag.sweep (t : Tag) (slot cur : Nat) : Tag :=
  let old (reg : Nat) : Bool := decide ((cur + 4096 - reg) % 4096 ≥ 2048)
  let t := if t.wslot = some slot && old t.wreg then { t with wslot := none, wmask := 0 } else t
  if t.rslot = some slot && old t.rreg then { t with rslot := none, rmask := 0 } else t

/-- The sweeper clears behind a slot's counter (R328). -/
def State.sweep (s : State) (slot : Nat) : State :=
  let r := s.slot slot
  { s with
    tags := (Map.mapAll s.tags fun _ t => t.sweep slot r.cur).filter fun x => x.2 != {}
    directory := Map.mapAll s.directory fun _ es => es.map fun e => { e with tag := e.tag.sweep slot r.cur }
    slots := Map.set s.slots slot { r with swept := r.cur } }

/-- A thread's region end: its lines drain first, and an end that would outrun the sweeper waits for it (R314, R328). -/
def State.regionEnd (s : State) (tid : Nat) (scope : Option Nat) : State :=
  match s.thread? tid with
  | none => s
  | some t =>
    let s := s.drainThread tid
    let r := s.slot t.slotNo
    let s := if (r.cur + 4096 - r.swept) % 4096 ≥ 2040 then s.sweep t.slotNo else s
    s.endRegion t.slotNo scope

/-! ## Performing -/

/-- The bytes of an operand, the first word's low byte first (R65). -/
def Opnd.bytes (o : Opnd) (n : Nat) : List Byte := (o.flatMap fun w => toBytes 4 w.1.toNat).take n

/-- Bytes at consecutive addresses. -/
def bytesAt (pa : Nat) (bs : List Byte) : Map Byte := bs.zipIdx.map fun b => (pa + b.2, b.1)

/-- The words a load writes, a signed size extended (R65). -/
def loadWords (sz : BitVec 3) (bs : List Byte) : List Word :=
  let v := ofBytes bs
  match sz.toNat with
  | 1 => [(BitVec.ofNat 8 v).signExtend 32]
  | 3 => [(BitVec.ofNat 16 v).signExtend 32]
  | 5 => [BitVec.ofNat 32 v, BitVec.ofNat 32 (v / 2 ^ 32)]
  | 6 => (List.range 4).map fun i => BitVec.ofNat 32 (v / 2 ^ (32 * i))
  | _ => [BitVec.ofNat 32 v]

/-- n bytes that memory outside the package answers: free values (R313). -/
def State.outsideBytes (s : State) (n : Nat) : List Byte × State :=
  let k := (n + 3) / 4
  (((List.range k).flatMap fun i => toBytes 4 (Config.remoteWord (s.free + i)).toNat).take n, { s with free := s.free + k })

/-- The bytes that an address gives a thread's read beside what its own stores still hold, with what the read sets off: the latch of
TIMENS, a request to another package, which is one lane of issue `no`'s, the refresh count, the energy (R213, R304, R313, R363). -/
def State.readBeyond (s : State) (t : Thread) (tid no pa n : Nat) : List Byte × State :=
  match regionOf pa with
  | .privileged =>
    let r := s.mmioRead (pa - 0x10000000000) n
    (toBytes n r.1, r.2)
  | .host => s.outsideBytes n
  | .fabric p off =>
    let s := s.sendLane (if n ≤ 8 then no else 0) pa { target := p, tid := tid, ctx := t.ctx, payload := .load off n }
    (s.accessEnergy t.tile t.ctx pa n).outsideBytes n
  | _ =>
    let s := (s.acceptRead tid pa).accessEnergy t.tile t.ctx pa n
    (s.bytes pa n, s)

/-- The bytes a thread's read finds: those of its own line over the others, wherever the address lies (R102, R314, R344). -/
def State.readAt (s : State) (t : Thread) (tid no pa n : Nat) : List Byte × State :=
  let r := s.readBeyond t tid no pa n
  (s.overLine t tid pa r.1, r.2)

/-- A release write that targets another package at FABRIC or SYSTEM scope carries its stream's store count (R348). -/
def State.releaseTo (s : State) (tid : Nat) (scope : Nat) (pa : Nat) (bs : List Byte) : State :=
  match regionOf pa with
  | .fabric p off =>
    if scope < 4 then s.perform tid (bytesAt pa bs)
    else
      let t := (s.thread? tid)
      let count := Map.getD ((t.map Thread.stream).getD []) p 0
      let s := s.send { target := p, tid := tid, ctx := (t.map Thread.ctx).getD 0, payload := .release off (bytesAt off bs) count }
      s.modThread tid fun t => { t with stream := Map.set t.stream p 0 }
  | _ => s.perform tid (bytesAt pa bs)

/-- A plain store at its address: it enters the thread's line, or in the vector form leaves at once as a lane of issue `no`'s request
(R102, R314, R363). -/
def State.storeAt (s : State) (t : Thread) (tid no pa : Nat) (bs : List Byte) : State :=
  let s' := match regionOf pa with
    | .fabric p _ =>
      if no ≠ 0 && decide (bs.length ≤ 8) && s.fabric.vectorAt pa && s.fabric.reachable p then s.sendStore no tid p pa (bytesAt pa bs)
      else s.storeBytes t tid pa bs
    | _ => s.storeBytes t tid pa bs
  s'.accessEnergy t.tile t.ctx pa bs.length

/-- A release store at its address (R103, R348). -/
def State.releaseAt (s : State) (t : Thread) (tid scope pa : Nat) (bs : List Byte) : State :=
  (((s.drainThread tid).noteStale tid (bytesAt pa bs)).releaseTo tid scope pa bs).accessEnergy t.tile t.ctx pa bs.length

/-- A thread has a further cause to wait at an instruction that has issued: where nothing makes it wait yet it files under that
instruction, and goes on from where it stands (R48, R54). -/
def State.parkAt (s : State) (tid pc : Nat) (w : Wake) : State :=
  match s.thread? tid with
  | none => s
  | some t =>
    if t.wait = .ready ∧ t.place ≠ .nowhere then s.fileAt tid pc t.resumePc t.drawKey w
    else s.modThread tid fun t => t.block w

/-- WAITV reads its word: it completes when the word differs from the register, else the thread parks on the granule (R54). -/
def State.waitvAt (s : State) (t : Thread) (tid : Nat) (e : Entry) (pa : Nat) : State :=
  if s.eccAt pa 4 then s.eccStop tid pa
  else
    let r := s.readAt t tid 0 pa 4
    let s := r.2.finishEntry tid e.id
    if ofBytes r.1 = Opnd.word e.cap.d 0 then s.parkAt tid e.pc (.granule pa) else s

/-- What an access does at its issue, its checks passed: an ordered one ends its region, and an atomic drains the thread's lines (R103,
R289, R314, R328). -/
def State.beforeAccess (s : State) (tid : Nat) (i : Instr) : State :=
  match regionEndOf i with
  | some scope => s.regionEnd tid scope
  | none => if (accessOf i {}).any Access.atomic then s.drainThread tid else s

/-- Whether a write must follow an operation that its thread has issued: the operation has not performed, is no signature of a set, and
one of its objects meets the bytes (R340). -/
def State.behindEngine (s : State) (t : Thread) (tid : Nat) (e : Entry) (x : Access) (pa : Nat) : Bool :=
  let slice := ((Map.get? s.cells t.cell).map Cell.slice).getD 0
  x.kind != .read && s.ops.any fun o => o.2.tid == tid && !o.2.performed && decide (o.1 < e.id) && !((namesOf o.2.instr).any fun n => n.1 == 3) &&
    o.2.objs.any fun b => Obj.meets b slice (t.vaOf x.off) pa x.size

/-- Whether an atomic of the thread that stands before an access has still to perform on bytes that the access shares (R340, R344). -/
def Thread.behindAtomic (t : Thread) (e : Entry) (x : Access) : Bool :=
  (t.replay.takeWhile fun y => y.id != e.id).any fun y => y.state == .flight && y.reply.isNone &&
    (accessOf y.instr y.cap).any fun z => z.atomic && decide (z.off < x.off + x.size ∧ x.off < z.off + z.size)

/-- What of its thread an access must follow: what fences and acquires put before it, and for a release everything earlier (R103,
R340). -/
def State.mustPrecede (s : State) (t : Thread) (tid : Nat) (i : Instr) : List Nat :=
  s.fencedBy t 7 ++
    match releaseScope i with
    | some p => if p = 0 then [] else s.outstanding t tid
    | none => []

/-- The entry of an access that has passed its checks, HELD until it leaves (R148). -/
def State.enterAccess (s : State) (tid : Nat) (e : Entry) (r : Reached) : State :=
  match s.thread? tid with
  | none => s
  | some t =>
    let after := s.mustPrecede t tid e.instr
    let s := (s.beforeAccess tid e.instr).addEntry tid { e with region := r.region, after := after }
    match orderMask e.instr with
    | 0 => s
    | m => s.addFence tid { mask := m, ids := [s.nextId - 1] }

/-- A memory instruction: each active thread's access gets an entry, which leaves the partition before its next draw (R61, R102, R103,
R104, R148, R286 to R289). -/
def State.memory (s : State) (i : Instr) : State :=
  s.issued i fun _ => s.accesses i (orderMask i) (fun l => (accessOf i l.cap).getD { off := 0, size := 1, kind := .read, asWrite := false })
    fun s iss l r lanes no => s.enterAccess l.tid (iss.entryFor i (destOf 0 i) lanes no l) r

/-- LD (R102). -/
def execLd (f : MemForm) (s : State) : Host.Outcome State Fault Refusal := .next (s.memory (.ld f))

/-- ST (R102). -/
def execSt (f : MemForm) (s : State) : Host.Outcome State Fault Refusal := .next (s.memory (.st f))

/-- LD.ACQ (R103). -/
def execLdAcq (f : MemOForm) (s : State) : Host.Outcome State Fault Refusal := .next (s.memory (.ldAcq f))

/-- ST.REL (R103). -/
def execStRel (f : MemOForm) (s : State) : Host.Outcome State Fault Refusal := .next (s.memory (.stRel f))

/-- WAITV (R54, R104). -/
def execWaitv (f : WaitvForm) (s : State) : Host.Outcome State Fault Refusal := .next (s.memory (.waitv f))

/-- ATOM.ADD (R286, R287). -/
def execAtomAdd (f : A3Form) (s : State) : Host.Outcome State Fault Refusal := .next (s.memory (.atomAdd f))

/-- ATOM.MIN (R286, R287). -/
def execAtomMin (f : A3Form) (s : State) : Host.Outcome State Fault Refusal := .next (s.memory (.atomMin f))

/-- ATOM.MAX (R286, R287). -/
def execAtomMax (f : A3Form) (s : State) : Host.Outcome State Fault Refusal := .next (s.memory (.atomMax f))

/-- ATOM.EXCH (R286, R287). -/
def execAtomExch (f : A3Form) (s : State) : Host.Outcome State Fault Refusal := .next (s.memory (.atomExch f))

/-- ATOM.AND (R286, R287). -/
def execAtomAnd (f : A3Form) (s : State) : Host.Outcome State Fault Refusal := .next (s.memory (.atomAnd f))

/-- ATOM.OR (R286, R287). -/
def execAtomOr (f : A3Form) (s : State) : Host.Outcome State Fault Refusal := .next (s.memory (.atomOr f))

/-- ATOM.XOR (R286, R287). -/
def execAtomXor (f : A3Form) (s : State) : Host.Outcome State Fault Refusal := .next (s.memory (.atomXor f))

/-- ATOM.CAS (R286, R287). -/
def execAtomCas (f : A3Form) (s : State) : Host.Outcome State Fault Refusal := .next (s.memory (.atomCas f))

/-- RED.ADD (R286, R287). -/
def execRedAdd (f : RedForm) (s : State) : Host.Outcome State Fault Refusal := .next (s.memory (.redAdd f))

/-- RED.MIN (R286, R287). -/
def execRedMin (f : RedForm) (s : State) : Host.Outcome State Fault Refusal := .next (s.memory (.redMin f))

/-- RED.MAX (R286, R287). -/
def execRedMax (f : RedForm) (s : State) : Host.Outcome State Fault Refusal := .next (s.memory (.redMax f))

/-- RED.AND (R286, R287). -/
def execRedAnd (f : RedForm) (s : State) : Host.Outcome State Fault Refusal := .next (s.memory (.redAnd f))

/-- RED.OR (R286, R287). -/
def execRedOr (f : RedForm) (s : State) : Host.Outcome State Fault Refusal := .next (s.memory (.redOr f))

/-- RED.XOR (R286, R287). -/
def execRedXor (f : RedForm) (s : State) : Host.Outcome State Fault Refusal := .next (s.memory (.redXor f))

/-! ## Dispatch and completion -/

/-- An access that an entry makes: the address it reaches now, without a check. -/
def State.entryPa (s : State) (t : Thread) (e : Entry) : Option Nat × State :=
  match accessOf e.instr e.cap with
  | none => (none, s)
  | some x =>
    match s.reach t x.off x.size x.kind with
    | (.ok pa _, s) => (some (s.localPa pa), s)
    | (_, s) => (none, s)

/-- A load leaves for memory: what it will write is read now, and a refresh that holds the bank holds its reply (R102, R148, R318). -/
def State.loadAt (s : State) (t : Thread) (tid : Nat) (e : Entry) (pa size : Nat) (sz : BitVec 3) : State :=
  if s.eccAt pa size then s.eccStop tid pa
  else
    let r := s.readAt t tid e.issueNo pa size
    r.2.modThread tid fun t => t.modEntry e.id fun e =>
      { e with state := .flight, reply := some (loadWords sz r.1), due := r.2.servedFrom pa }

/-- A store of a thread that has ended, or that something of the thread waits for, does not stay in its line (R106, R290, R314). -/
def State.storeLeft (s : State) (t : Thread) (tid id : Nat) : State :=
  let s := if s.isAwaited t id || t.ended then (s.drainThread tid).carryFences tid id else s
  s.finishEntry tid id

/-- The host endpoints that a release at SYSTEM scope flushes first: those the thread has posted writes to, other than the release's
own (R378). -/
def Thread.toFlush (t : Thread) (pa : Nat) : List Nat :=
  t.posted.filter fun p => !(regionOf pa == .host && p == pa / 2 ^ 50 % 2)

/-- Zero-length reads sent on endpoints (R378). -/
def State.flushHost (s : State) (tid : Nat) (ps : List Nat) : State :=
  { s.modThread tid fun t => { t with posted := t.posted.filter fun p => !ps.contains p } with
    host := { s.host with flushes := s.host.flushes ++ ps } }

/-- A release at FABRIC or SYSTEM scope waits for the thread's writes to every package but its target to be acknowledged (R348). -/
def State.releaseWaits (s : State) (tid scope pa : Nat) : Bool :=
  decide (4 ≤ scope) && (s.unacknowledged tid).any fun x => match regionOf pa with
    | .fabric p _ => x.2 != p
    | _ => true

/-- A write to another package finds room in the retry store, beside what the combining buffers hold for other packages (R365). -/
def State.roomAway (s : State) (pa : Nat) : Bool :=
  match regionOf pa with
  | .fabric .. =>
    let lines := s.tiles.foldl (fun n t => n + (t.2.lines.filter fun l => regionOf l.block matches .fabric ..).length) 0
    s.fabric.retryRoom (128 * (lines + 1))
  | _ => true

/-- What a release does before it leaves: its thread's lines drain, and at SYSTEM scope the other host endpoints are flushed, whose
completion it awaits (R314, R378). The flag says that it may leave. -/
def State.beforeRelease (s : State) (tid scope pa : Nat) : Bool × State :=
  let s := s.drainThread tid
  let flush := match s.thread? tid with
    | some t => if scope = 5 then t.toFlush pa else []
    | none => []
  if flush.isEmpty then (!(s.releaseWaits tid scope pa), s) else (false, s.flushHost tid flush)

/-- An entry's access leaves for its address (R148). The flag is false where it must stay. -/
def State.leaveFor (s : State) (t : Thread) (tid : Nat) (e : Entry) (pa size : Nat) : Bool × State :=
  match e.instr with
  | .ld f => (true, s.loadAt t tid e pa size f.sz)
  | .ldAcq f => (true, s.loadAt t tid e pa size f.sz)
  | .waitv _ => (true, s.waitvAt t tid e pa)
  | .st _ =>
    if !(s.roomAway pa) then (false, s)
    else (true, (s.storeAt t tid e.issueNo pa (Opnd.bytes e.cap.d size)).storeLeft t tid e.id)
  | .stRel f =>
    let r := s.beforeRelease tid f.p.toNat pa
    if !r.1 || !(r.2.roomAway pa) then (false, r.2)
    else (true, (r.2.releaseAt t tid f.p.toNat pa (Opnd.bytes e.cap.d size)).storeLeft t tid e.id)
  | i =>
    let r := match releaseScope i with
      | some p => s.beforeRelease tid p pa
      | none => (true, s.drainThread tid)
    if !r.1 || !(r.2.roomAway pa) then (false, r.2)
    else (true, (r.2.chargeHeld tid pa).modThread tid fun t => t.modEntry e.id fun e =>
      { e with state := .flight, due := r.2.servedFrom pa })

/-- An access leaves the partition once what it shares bytes with has performed (R148, R340); one whose page has gone parks again. -/
def State.dispatchAccess (s : State) (t : Thread) (tid : Nat) (e : Entry) (x : Access) : Bool × State :=
  match s.reach t x.off x.size x.kind with
  | (.ok pa _, s) =>
    let pa := s.localPa pa
    if s.behindEngine t tid e x pa || t.behindAtomic e x then (false, s) else s.leaveFor t tid e pa x.size
  | (.fault f, s) =>
    (true, s.modThread tid fun t => t.modEntry e.id fun e => { e with state := .fault, fault := some f, checked := false })
  | (.trap .., s) => (true, s.fatalThread tid)

/-- One HELD entry leaves the partition (R148): an access for its address, an engine submission without a destination for its engine,
and the others await their reply. The flag is false where it must stay, for its race check or for what it must follow, which keeps those
behind it (R330, R340). -/
def State.dispatchEntry (s : State) (tid : Nat) (e : Entry) : Bool × State :=
  match s.thread? tid with
  | none => (true, s)
  | some t =>
    if e.state != .held || e.unperformed || t.stops e then (true, s)
    else if !e.checked || e.after.any (s.unfinished t) then (false, s)
    else
      match accessOf e.instr e.cap with
      | some x => s.dispatchAccess t tid e x
      | none =>
        let s := if e.op.isSome || e.instr matches .launch _ then s.drainThread tid else s
        (true, if e.op.isSome && e.dst.cls == 3 && !(entersReplay e.instr) then s.finishEntry tid e.id
          else s.modThread tid fun t => t.modEntry e.id fun e => { e with state := .flight })

/-- HELD entries leave, in order, up to the first that must stay. -/
def State.dispatchFrom (s : State) (tid : Nat) : List Entry → State
  | [] => s
  | e :: es =>
    match s.dispatchEntry tid e with
    | (true, s) => State.dispatchFrom s tid es
    | (false, s) => s

/-- The HELD entries of a thread leave; those that a freeze stopped stay (R148). -/
def State.dispatchThread (s : State) (tid : Nat) : State :=
  match s.thread? tid with
  | none => s
  | some t => s.dispatchFrom tid t.replay

/-- LOAD_DATA_ARRIVAL: a load's data arrives (R102). -/
def execLoadDataArrival (tid entry : Nat) (s : State) : Host.Outcome State Fault Refusal :=
  .next (match (s.thread? tid).bind fun t => t.entry? entry with
    | some e =>
      match e.instr, e.reply with
      | .ld _, some ws => if e.state = .flight ∧ e.due ≤ s.cycle then s.completeEntry tid entry ws else s
      | .ldAcq _, some ws => if e.state = .flight ∧ e.due ≤ s.cycle then s.completeEntry tid entry ws else s
      | _, _ => s
    | none => s)

/-- The new value of a word under an atomic, absent where no write is made (R287). -/
def atomNew (op : MemOp) (w : Nat) (old b c : Nat) : Option Nat :=
  match op with
  | .add => some ((old + b) % 2 ^ w)
  | .and => some (old &&& b)
  | .or => some (old ||| b)
  | .xor => some (old ^^^ b)
  | .exch => some b
  | .min u => some (if (if u then decide (b < old) else decide ((BitVec.ofNat w b).toInt < (BitVec.ofNat w old).toInt)) then b else old)
  | .max u => some (if (if u then decide (old < b) else decide ((BitVec.ofNat w old).toInt < (BitVec.ofNat w b).toInt)) then b else old)
  | .cas => if old = b then some c else none
  | _ => none

/-- The operands of an atomic: b, and the new value of CAS (R287). -/
def atomArgs (i : Instr) (c : Captured) : Nat × Nat :=
  match i with
  | .atomCas _ => (Opnd.word c.b 0, Opnd.word c.d 0)
  | _ => (Opnd.word c.b 0, 0)

/-- A CAS that has succeeded records itself as a write, in the region in which it was checked; an unchecked one records nothing (R329,
R332). -/
def State.recordCas (s : State) (t : Thread) (region : Option Nat) (pa : Nat) : State :=
  match region with
  | none => s
  | some g =>
    let r := s.tagFor t.ctx pa
    r.2.putTag pa (r.1.recordWrite t.slotNo g (byteMask pa 4) true)

/-- An atomic at its word: the old value, and the state after the indivisible step (R287). -/
def State.atomicAt (s : State) (t : Thread) (tid : Nat) (e : Entry) (pa : Nat) : Nat × State :=
  let i := e.instr
  let op := memOpOf (prefixOf i).et.toNat i
  let ab := atomArgs i e.cap
  match regionOf pa with
  | .privileged =>
    let r := s.mmioRead (pa - 0x10000000000) 4
    match atomNew op 32 r.1 ab.1 ab.2 with
    | some v => (r.1, r.2.perform tid (bytesAt pa (toBytes 4 v)))
    | none => r
  | .host =>
    let r := s.outsideBytes 4
    (ofBytes r.1, match atomNew op 32 (ofBytes r.1) ab.1 ab.2 with
      | some v => r.2.perform tid (bytesAt pa (toBytes 4 v))
      | none => r.2)
  | .fabric p off =>
    let count : Option Nat := match releaseScope i with
      | some sc => if sc < 4 then none else some (Map.getD t.stream p 0)
      | none => none
    let s := s.sendLane e.issueNo pa { target := p, tid := tid, ctx := t.ctx
                                       payload := .atomic off op (BitVec.ofNat 64 ab.1) (BitVec.ofNat 64 ab.2) count }
    let s := if count.isSome then s.modThread tid fun t => { t with stream := Map.set t.stream p 0 } else s
    let r := (s.accessEnergy t.tile t.ctx pa 4).outsideBytes 4
    (ofBytes r.1, r.2)
  | _ =>
    let s := (s.acceptRead tid pa).accessEnergy t.tile t.ctx pa 4
    let old := s.num pa 4
    match atomNew op 32 old ab.1 ab.2 with
    | none => (old, s)
    | some v =>
      let s := (s.noteStale tid (bytesAt pa (toBytes 4 v))).perform tid (bytesAt pa (toBytes 4 v))
      (old, if op = .cas then s.recordCas t e.region pa else s)

/-- The entries of one issue, in slot order. -/
def State.issueEntries (s : State) (no : Nat) : List (Nat × Entry) :=
  let all := s.threads.flatMap fun x => (x.2.replay.filter fun e => e.issueNo == no).map fun e => (x.1, e)
  all.foldr (fun x acc =>
    let rec place : List (Nat × Entry) → List (Nat × Entry)
      | [] => [x]
      | y :: ys => if x.2.id ≤ y.2.id then x :: y :: ys else y :: place ys
    place acc) []

/-- One atomic entry performs: its reply is kept, and a RED's entry is finished (R287). -/
def State.performAtomic (s : State) (tid : Nat) (e : Entry) (pa : Nat) : State :=
  match s.thread? tid with
  | none => s
  | some t =>
    if s.eccAt pa 4 then s.eccStop tid pa
    else
      let r := s.atomicAt t tid e pa
      if e.dst.cls = 3 then r.2.finishEntry tid e.id
      else r.2.modThread tid fun t =>
        (t.modEntry e.id fun e => { e with reply := some [BitVec.ofNat 32 r.1] }).recheck s.cycle

/-- Whether an entry is an atomic on its way to its word. -/
def Entry.atomicFlight (e : Entry) : Bool :=
  e.state == .flight && e.reply.isNone && (accessOf e.instr e.cap).any Access.atomic

/-- ATOMIC_PERFORM: the atomics of one issue on one word perform, adjacent and in slot order (R287, R288). -/
def execAtomicPerform (tid entry : Nat) (s : State) : Host.Outcome State Fault Refusal :=
  .next (match s.thread? tid, (s.thread? tid).bind fun t => t.entry? entry with
    | some t, some e =>
      if !e.atomicFlight then s
      else
        match s.entryPa t e with
        | (none, s) => s.fatalThread tid
        | (some pa, s) =>
          if s.cycle < e.due then s
          else (s.issueEntries e.issueNo).foldl (fun s x =>
            match s.thread? x.1 with
            | some u =>
              if x.2.atomicFlight && (s.entryPa u x.2).1 == some pa then s.performAtomic x.1 x.2 pa else s
            | none => s) s
    | _, _ => s)

/-- ATOM_REPLY: the old value returns into vd (R287). -/
def execAtomReply (tid entry : Nat) (s : State) : Host.Outcome State Fault Refusal :=
  .next (match (s.thread? tid).bind fun t => t.entry? entry with
    | some e =>
      match e.reply with
      | some ws => if e.state = .flight && (accessOf e.instr e.cap).any Access.atomic then s.completeEntry tid entry ws else s
      | none => s
    | none => s)

/-- COMBINE_LINE_IDLE_DRAIN: a line untouched for 256 cycles drains (R314). -/
def execCombineLineIdleDrain (tile line : Nat) (s : State) : Host.Outcome State Fault Refusal :=
  .next (match (s.tile tile).lines[line]? with
    | some l => if s.cycle ≥ l.touched + 256 then s.drainLine tile l else s
    | none => s)

/-- TAG_SWEEP: the sweeper clears fields that name regions about to be reused (R328). -/
def execTagSweep (slot : Nat) (s : State) : Host.Outcome State Fault Refusal := .next (s.sweep slot)

/-! ## Page faults and parked accesses (R142, R324, R325) -/

/-- A trap raised by one thread on its own, after its chain has issued: an access checked late (R152, R325). -/
def State.trapAlone (s : State) (tid slot : Nat) (cause : Cause) (info : Nat) (e : Entry) (rpc : Nat) : State :=
  match s.thread? tid with
  | none => s
  | some t =>
    s.takeTrap t.ctx t.tile t.part [(slot, tid)]
      { cause := cause, pc := e.pc, stamp := e.stamp, mask := slotBit slot, dst := e.dst
        infos := [(slot, BitVec.ofNat 64 info)] } fun _ => rpc

/-- RACE_CHECK_RESULT: the check of an access that had been parked completes: it records the access, which goes on, or it raises
MMX (R329, R330). -/
def execRaceCheckResult (tid entry : Nat) (s : State) : Host.Outcome State Fault Refusal :=
  .next (match s.thread? tid, (s.thread? tid).bind fun t => t.entry? entry with
    | some t, some e =>
      if e.checked || e.state != .held || e.unperformed || t.stops e then s
      else
        match accessOf e.instr e.cap with
        | none => s
        | some x =>
          let ready (s : State) : State := s.modThread tid fun t =>
            if t.wait == .fault then t.unblock s.cycle else { t with since := s.cycle }
          match s.check t x with
          | (.ok r, s) => ((ready s).beforeAccess tid e.instr).modThread tid fun t =>
              t.modEntry entry fun e => { e with checked := true, region := r.region }
          | (.parked f, s) => s.modThread tid fun t => t.modEntry entry fun e => { e with state := .fault, fault := some f }
          | (.trapped c info, s) =>
            let s := if c = .mmx then s.modCtx t.ctx fun c => { c with rdstat := mmxCount c.rdstat } else s
            let s := (ready s).modThread tid fun t => ({ t with replay := t.replay.filter fun e => e.id != entry } : Thread).markDest e.dst .trapEmpty
            s.trapAlone tid e.slot c info e t.pc
          | (.halted, s) => s.haltUntrapped t
    | _, _ => s)

/-- The page of a fault, by the size that what stopped the walk gives it (R320, R324). -/
def FaultInfo.page (f : FaultInfo) : Nat := f.va / 2 ^ f.bits

/-- A fault is on the page of a record of a context (R324). -/
def FaultInfo.joins (f : FaultInfo) (ctx : Nat) (g : FaultInfo) : Bool := f.ctx == ctx && f.va / 2 ^ g.bits == g.page

/-- The accesses that are parked, oldest thread first, by what the walk met (R324). -/
def State.parkedFaults (s : State) : List FaultInfo :=
  (s.threads.flatMap fun x =>
    (x.2.replay.filterMap fun e => if e.state = .fault then e.fault else none) ++ x.2.parked.toList) ++
  (s.ops.filterMap fun x => x.2.fault) ++
  (s.launches.filterMap fun x => x.2.fault) ++
  (s.timing.triggers.filterMap fun x => x.2.fault) ++
  (s.fabric.opens.filterMap fun x => x.2.fault) ++
  s.images.filterMap fun x => x.2.loading.bind Loading.fault

/-- The first parked access that no unfinished record covers (R324). -/
def State.unposted (s : State) : Option FaultInfo :=
  s.parkedFaults.find? fun f => !(s.faults.any fun r => f.joins r.2.1 r.2.2.2)

/-- FAULT_RECORD_POST: the walker posts one record, bytes 0x00 to 0x1B first and SEQ last, once record n - 512 is finished (R325). -/
def execFaultRecordPost (s : State) : Host.Outcome State Fault Refusal :=
  .next (match s.unposted with
    | none => s
    | some f =>
      let n := s.flttail.toNat
      if !s.fltring.getLsbD 0 || s.faults.any fun r => r.1 == (n + 2 ^ 32 - 512) % 2 ^ 32 then s
      else
        let pa := s.fltring.toNat / 2 ^ 14 % 2 ^ 38 * 2 ^ 14 + 32 * (n % 512)
        let kind := (if f.write then 1 else 0) + (if f.fetch then 2 else 0) + (if f.engine then 4 else 0) +
          (if f.atomic then 8 else 0) + f.level * 256
        let body := toBytes 8 (f.va % 2 ^ 52 + f.ctx * 2 ^ 56) ++ toBytes 4 kind ++ toBytes 4 0 ++ toBytes 8 f.entry.toNat ++ toBytes 4 0
        let s := (s.setBytes pa body).resetTags pa 32
        let s := (s.setNum (pa + 0x1C) 4 n).wakeGranules pa 32
        { s with flttail := s.flttail + 1, faults := s.faults ++ [(n, f.ctx, f.page, f)] })

/-- An access walked again after its record is finished: still faulting, it parks afresh; translated, it goes on to its check;
failing, it is fatal (R324). -/
def State.rewalkEntry (s : State) (tid : Nat) (e : Entry) : State :=
  match s.thread? tid, accessOf e.instr e.cap with
  | some t, some x =>
    match s.translate t.tile t.ctx (t.vaOf x.off) x.kind with
    | (.pgfault f, s) => s.modThread tid fun t => t.modEntry e.id fun e => { e with fault := some f }
    | (.pgfatal, s) => s.trapAlone tid e.slot .pgfatal (t.vaOf x.off) e t.pc
    | (.ok .., s) => s.modThread tid fun t => t.modEntry e.id fun e => { e with state := .held, fault := none }
  | some t, none =>
    if (e.instr matches .launch _) then s.modThread tid fun t => t.modEntry e.id fun e => { e with state := .flight, fault := none }
    else (s.unfile tid) |> fun s =>
      { s with reinject := s.reinject ++ [⟨tid, e.slot, some e.id, t.pc⟩, ⟨tid, e.slot, none, t.pc⟩] }
  | none, _ => s

/-- The slot that a thread takes alone: its pinned one, or F0 mod 32 (R50, R145). -/
def State.slotAlone (s : State) (t : Thread) : Nat :=
  match t.frame with
  | some f => f.slot
  | none => t.wid.toNat % 2 ^ (((s.stageOf t).widths[0]?).getD 0) % 32

/-- A thread whose parked fetch or register write cannot be serviced: PGFATAL at the packet it was to issue (R142, R324). -/
def State.trapParked (s : State) (tid : Nat) (t : Thread) : State :=
  let slot := s.slotAlone t
  (s.modThread tid fun t => { t with parked := none }).takeTrap t.ctx t.tile t.part [(slot, tid)]
    { cause := .pgfatal, pc := t.pc, stamp := false, mask := slotBit slot, dst := {}
      infos := [(slot, BitVec.ofNat 64 ((t.parked.map FaultInfo.va).getD 0))] } fun _ => t.pc

/-- FLTDONE_WRITE: the record is finished, and every access parked on it is walked again, or fails (R324). -/
def execFltdoneWrite (v : BitVec 64) (s : State) : Host.Outcome State Fault Refusal :=
  .next (match s.faults.find? fun r => r.1 == v.toNat % 2 ^ 32 with
    | none => s
    | some (n, ctx, _, g) =>
      let s := { s with faults := s.faults.filter fun r => r.1 != n }
      let hit (f : FaultInfo) : Bool := f.joins ctx g
      let s := s.threads.foldl (fun s x =>
        let s := x.2.replay.foldl (fun s e =>
          if e.state = .fault && e.fault.any hit then
            if v.getLsbD 63 && (e.instr matches .launch _) then s.completeEntry x.1 e.id [1]
            else if v.getLsbD 63 then s.trapAlone x.1 e.slot .pgfatal ((e.fault.map FaultInfo.va).getD 0) e x.2.pc
            else s.rewalkEntry x.1 e
          else s) s
        if x.2.parked.any hit then
          if v.getLsbD 63 then s.trapParked x.1 x.2
          else s.modThread x.1 fun t => { t with parked := none }.unblock s.cycle
        else s) s
      let fails := s.ops.any fun x => x.2.fault.any hit
      let fails := fails || s.launches.any fun x => x.2.fault.any hit
      let fired := (s.timing.triggers.filter fun x => x.2.fault.any hit).map Prod.fst
      let fails := fails || s.fabric.opens.any fun x => x.2.fault.any hit
      let reopened (o : OpenTree) : OpenTree := if o.fault.any hit then { o with fault := none } else o
      let loaded (x : Image) : Image :=
        if (x.loading.bind Loading.fault).any hit then { x with loading := x.loading.map fun g => { g with fault := none } } else x
      let s := { s with
        images := Map.mapAll s.images fun _ x => loaded x
        ops := Map.mapAll s.ops fun _ o => if o.fault.any hit then { o with fault := none } else o
        launches := Map.mapAll s.launches fun _ o => if o.fault.any hit then { o with fault := none } else o
        timing := { s.timing with triggers := Map.mapAll s.timing.triggers fun n g =>
          if n ∈ fired then { g with fault := none } else g }
        deferred := s.deferred ++ fired.map fun n => if v.getLsbD 63 then .fireFailed n else .fire n
        fabric := { s.fabric with opens := Map.mapAll s.fabric.opens fun _ o => reopened o } }
      if v.getLsbD 63 && fails then
        s.fatal ctx { cause := .pgfatal, tfpc := 0, tfinfo := 0, tfmask := 0, tfdst := 0, wid := 0, tile := 0, part := 0
                      untrapped := true }
      else s)

end Sys2Proof.Machine
end

