-- ==== Sys2Proof/Machine/Control.lean ====
section
/-! DEFINITION. Branches, calls, regrouping, loops and hit programs (spec/05_isa_core.md R95 to R100, spec/09_isa_spectral.md R190
to R192, spec/10_stages_film.md R194, R195). -/
namespace Sys2Proof.Machine

/-- What a control instruction does in one thread: a trap, or the thread changed and where it goes, if anywhere. -/
inductive Steer where
  | trap (c : Cause) (info : Nat)
  | on (t : Thread)
  | leave (t : Thread) (l : Leaving)
  deriving DecidableEq, Repr

/-- The verdict of a control instruction in one lane: EMPTY first, then its own trap. -/
def steerVerdict (i : Instr) (f : Lane → Thread → Steer) (s : State) (l : Lane) : Verdict :=
  match emptyCause (staticSources i) l.cap with
  | some info => .trapped .empty info l.cap {}
  | none =>
    match f l ((s.thread? l.tid).getD l.th) with
    | .trap c info => .trapped c (BitVec.ofNat 64 info) l.cap {}
    | _ => .idle

/-- A lane that does not trap moves its thread (R48). -/
def State.applySteer (s : State) (f : Lane → Thread → Steer) (l : Lane) : State :=
  match s.thread? l.tid with
  | none => s
  | some t =>
    match f l t with
    | .trap .. => s
    | .on t => s.modThread l.tid fun _ => t
    | .leave t w =>
      let s := s.modThread l.tid fun _ => t
      { s with issue := s.issue.map fun iss => { iss with leaving := Map.set iss.leaving l.tid w } }

/-- An instruction that moves each thread of its group, none where one raises ILLEG (R61); an engine word ends the region of each thread
that goes on (R328). -/
def State.steer (s : State) (i : Instr) (f : Issue → Lane → Thread → Steer) (engine : Bool := false) : State :=
  s.issued i fun iss =>
    let ls := (iss.lanes s i 0).map Prod.fst
    let vs : Verdicts := ls.map fun l => (l.tid, l.slot, steerVerdict i (f iss) s l)
    let s := s.settleAll iss i (destOf 0 i) vs
    if lowestCause vs = some .illeg then s
    else (ls.filter fun l => ((verdictOf vs l.tid).bind fun v => v.2.cause).isNone).foldl
      (fun s l => if engine then (s.applySteer (f iss) l).regionEnd l.tid (some 3) else s.applySteer (f iss) l) s

/-- The first word of a packet, as a PC of 24 bits. -/
def wordOf (packet : Int) : Nat := ((packet * 3) % 2 ^ 24).toNat

/-- The target packet of a B word: its own packet plus off14 (R67). -/
def Issue.target (iss : Issue) (o : BitVec 14) : Nat := packetOf (wordOf ((packetOf iss.cur.pc : Int) + o.toInt))

/-- A taken transfer to a packet, unwinding the loop stack (R95, R97, R100). -/
def Thread.jump (t : Thread) (packet : Nat) : Steer := .leave (t.unwind packet) (.goto (3 * packet))

/-- BR: taken where k XOR neg is true (R67, R95). -/
def execBr (f : BrForm) (s : State) : Host.Outcome State Fault Refusal :=
  .next (s.steer (.br f) fun iss l t => if (l.a != 0) != (f.n == 1) then t.jump (iss.target f.o) else .on t)

/-- LINK of a call (R94, R96). -/
def Thread.linkFor (t : Thread) (rpc : Nat) : BitVec 64 :=
  BitVec.ofNat 64 (t.floor * 2 ^ 35 + t.loops.length * 2 ^ 32 + rpc % 2 ^ 32)

/-- A call: LINK written, the floor raised, the loop stack kept (R96). -/
def Thread.callTo (t : Thread) (rpc pc : Nat) : Steer :=
  .leave { t with link := t.linkFor rpc, floor := t.loops.length } (.goto pc)

/-- CALL (R96). -/
def execCall (f : CallForm) (s : State) : Host.Outcome State Fault Refusal :=
  .next (s.steer (.call f) fun iss _ t => t.callTo iss.rpc (3 * iss.target f.o))

/-- CALLI: a target that is no packet's first word traps with ALIGN (R96). -/
def execCalli (f : CalliForm) (s : State) : Host.Outcome State Fault Refusal :=
  .next (s.steer (.calli f) fun iss l t => if l.a % 3 ≠ 0 then .trap .align l.a else t.callTo iss.rpc (l.a % 2 ^ 24))

/-- RET (R96). -/
def execRet (f : BareForm) (s : State) : Host.Outcome State Fault Refusal :=
  .next (s.steer (.ret f) fun _ _ t =>
    let loops := t.loops.take (t.link.toNat / 2 ^ 32 % 8)
    .leave { t with loops := loops, floor := min (t.link.toNat / 2 ^ 35 % 8) loops.length } (.goto (t.link.toNat % 2 ^ 24)))

/-- A regrouping to a packet under a key (R97, R194); pinned, a branch (R145). -/
def Thread.reformTo (t : Thread) (packet key : Nat) : Steer :=
  .leave (t.unwind packet) (.reform (3 * packet) (BitVec.ofNat 16 key))

/-- REFORM (R97, R194). -/
def execReform (f : ReformForm) (s : State) : Host.Outcome State Fault Refusal :=
  .next (s.steer (.reform f) fun iss l t => t.reformTo (iss.target f.o) l.a)

/-- A register that REFORM.X keeps: of the live set, or of the payload (R190, R195). -/
def keptRegister (live : LiveSet) (vregs payload cls n : Nat) : Bool :=
  if cls = 0 then
    (decide (live.vbase.toNat ≤ n ∧ n < live.vbase.toNat + live.vcount.toNat)) ||
      decide (vregs - payload / 4 ≤ n ∧ n < vregs)
  else decide (live.wbase.toNat ≤ n ∧ n < live.wbase.toNat + live.wcount.toNat)

/-- An entry under REFORM.X: its reply leaves the registers that are not kept, and one with none kept is dropped (R195). -/
def Entry.keepOnly (e : Entry) (live : LiveSet) (vregs payload : Nat) : Entry :=
  let lost := (List.range e.dst.count).filter fun k => !keptRegister live vregs payload e.dst.cls (e.dst.num + k)
  if e.dst.cls ≥ 2 then e
  else if lost.length = e.dst.count then { e with dropped := true }
  else { e with lost := e.lost ++ lost }

/-- R195: every register that is not kept is set to its marker; a reply still to come for one is discarded. -/
def Thread.keepOnly (t : Thread) (live : LiveSet) (payload : Nat) : Thread :=
  { t with
    v := t.v.filter fun r => keptRegister live t.vregs payload 0 r.1
    w := t.w.filter fun r => keptRegister live t.vregs payload 1 r.1
    replay := t.replay.map fun e => e.keepOnly live t.vregs payload
    mobile := true, live := some live }

/-- REFORM.X: as REFORM, and the thread is mobile with its live set kept; pinned, a branch (R97, R145, R194, R195). -/
def execReformX (f : ReformXForm) (s : State) : Host.Outcome State Fault Refusal :=
  .next (s.steer (.reformX f) fun iss l t =>
    let t := match f.live, t.frame with
      | some live, none => t.keepOnly live (s.stageOf t).payload
      | _, _ => t
    t.reformTo (iss.target f.o) l.a)

/-- LOOP: a count of zero skips the body, a full stack traps with LSTACK, else an entry is pushed (R98). -/
def Thread.loopTo (t : Thread) (packet count len : Nat) : Steer :=
  if count = 0 then .leave t (.goto (wordOf (packet + len + 2)))
  else if t.loops.length = 4 then .trap .lstack 0
  else .leave { t with loops := t.loops ++ [{ count := count, start := packet + 1, len := len }] } (.goto (wordOf (packet + 1)))

/-- LOOP with an immediate count (R68, R98). -/
def execLoopImm (f : LoopIForm) (s : State) : Host.Outcome State Fault Refusal :=
  .next (s.steer (.loopImm f) fun iss _ t => t.loopTo (packetOf iss.cur.pc) f.n.toNat f.l.toNat)

/-- LOOP with the count in a register (R68, R98). -/
def execLoopReg (f : LoopRForm) (s : State) : Host.Outcome State Fault Refusal :=
  .next (s.steer (.loopReg f) fun iss l t => t.loopTo (packetOf iss.cur.pc) l.a f.l.toNat)

/-- CALLSH: a frame pushed on the shader stack, and the thread filed under the program and the key (R191). -/
def execCallsh (f : Reg2Form) (s : State) : Host.Outcome State Fault Refusal :=
  .next (s.steer (.callsh f) (fun iss l t =>
    let depth := (s.stageOf t).depth
    if l.a % 3 ≠ 0 then .trap .align l.a
    else if t.shaders.length ≥ depth then .trap .trdepth depth
    else
      .leave { t with
        shaders := t.shaders ++ [{ rpc := iss.rpc, link := t.link, floor := t.floor, depth := t.loops.length, key := t.key }]
        floor := t.loops.length } (.reform (l.a % 2 ^ 24) (BitVec.ofNat 16 l.b))) true)

/-- RETSH: the frame popped, and the thread filed at its return under its key; an empty stack is ILLEG (R191). -/
def execRetsh (f : BareForm) (s : State) : Host.Outcome State Fault Refusal :=
  .next (s.steer (.retsh f) (fun _ _ t =>
    match t.shaders.getLast? with
    | none => .trap .illeg 0
    | some fr =>
      let loops := t.loops.take fr.depth
      .leave { t with shaders := t.shaders.dropLast, link := fr.link, loops := loops, floor := min fr.floor loops.length }
        (.reform fr.rpc fr.key)) true)

end Sys2Proof.Machine
end

