-- ==== Sys2Proof/Machine/Objects.lean ====
section
/-! DEFINITION. Objects: the entries of the object table, the checks of R238, where an object's elements lie, and how engine
operations read and write them (spec/13_isa_caster_anvil.md R234 to R246, R265, R423). -/
namespace Sys2Proof.Machine

/-! ## Work that may stop -/

/-- How the checks or the work of an instruction stop: a trap, a page fault that parks it, an uncorrectable error in what it reads,
or another fatal fault, which raises no trap and leaves what has been written up to it (R246). -/
inductive Stop where
  | trap (c : Cause) (info : Nat)
  | parked (f : FaultInfo)
  | ecc (pa : Nat)
  | fatal (s : State)
  deriving DecidableEq, Repr

/-- Work on the state that may stop; when it stops nothing of it has happened, but for what a fatal fault leaves. -/
abbrev Work := StateT State (Except Stop)

/-- A stop. -/
def Work.stop {α : Type} (x : Stop) : Work α := fun _ => .error x

/-- A fatal fault that raises no trap: what the work has done so far stays done (R246). -/
def Work.fatal {α : Type} : Work α := fun s => .error (.fatal s)

/-- ILLEG, for a register value or a format (R238). -/
def Work.illeg {α : Type} : Work α := .stop (.trap .illeg 0)

/-- BOUNDS of an object (R141). -/
def Work.bounds {α : Type} (idx : Nat) : Work α := .stop (.trap .bounds idx)

/-- A condition that must hold. -/
def Work.need (b : Bool) (x : Stop) : Work Unit := if b then pure () else .stop x

/-- A register value that must be legal (R238). -/
def Work.legal (b : Bool) : Work Unit := .need b (.trap .illeg 0)

/-- A bound that must be kept (R238). -/
def Work.within (b : Bool) (idx : Nat) : Work Unit := .need b (.trap .bounds idx)

/-! ## Reading and checking an entry (R234, R238, R239, R423) -/

/-- The virtual address of an entry (R234, R235). -/
def Context.entryVa (c : Context) (idx : Nat) : Nat := (c.otbase.toNat / 64 % 2 ^ 46 * 64 + 64 * idx) % 2 ^ 52

/-- The entry of an index, from the tile's cache or from memory at privileged level (R239, R423). -/
def readEntry (tile ctx idx : Nat) : Work Obj := fun s =>
  match s.ctx? ctx with
  | none => .error (.trap .bounds idx)
  | some c =>
    if idx ≥ c.otcount.toNat % 2 ^ 17 then .error (.trap .bounds idx)
    else
      match (s.tile tile).otCache.find? fun e => e.ctx == ctx && e.index == idx with
      | some e => .ok ((idx, halves e.words), s)
      | none =>
        let va := c.entryVa idx
        match s.translateAs true tile ctx va .read with
        | (.pgfault f, _) => .error (.parked f)
        | (.pgfatal, _) => .error (.trap .pgfatal va)
        | (.ok pa _, s) =>
          let pa := s.localPa pa
          if s.eccAt pa 64 then .error (.ecc pa)
          else
            let s := s.accessEnergy tile ctx pa 64
            let ws := (List.range 8).map fun i => BitVec.ofNat 64 (s.num (pa + 8 * i) 8)
            let t := s.tile tile
            .ok ((idx, halves ws),
              s.setTile tile { t with otCache := ({ ctx := ctx, index := idx, words := ws } :: t.otCache).take 64 })

/-- Steps 1 to 3 of R238: the entry holds an object of an accepted kind with the rights needed. -/
def checkEntry (tile ctx idx : Nat) (kinds : List ObjKind) (rights : Nat) : Work Obj := do
  let o ← readEntry tile ctx idx
  Work.within o.holds idx
  Work.need ((o.kind?.map fun k => kinds.contains k).getD false) (.trap .rights idx)
  let missing := rights &&& (63 - o.rights)
  Work.need (missing == 0) (.trap .rights (idx + missing * 2 ^ 16))
  pure o

/-- The rights (R235). -/
def rightR : Nat := 1
def rightW : Nat := 2
def rightC : Nat := 4
def rightA : Nat := 8
def rightT : Nat := 16
def rightF : Nat := 32

/-- The length of a cell's slice allocation (R237). -/
def State.sliceLen (s : State) (cell : Nat) : Nat := ((Map.get? s.cells cell).map Cell.sliceLen).getD 0

/-- Step 4 of R238 for a footprint of n bytes from an offset: within the entry's own extent, where it has one, and a CELL
object's within the allocation. -/
def checkFootprint (cell : Nat) (o : Obj) (off n : Nat) : Work Unit := do
  let s ← get
  let extent : Option Nat := match o.kind? with
    | some .buffer | some .dieset => some (o.field 0x10 8)
    | _ => none
  Work.within ((extent.map fun e => decide (off + n ≤ e)).getD true) o.1
  Work.within (o.scope != 1 || decide (o.base + off + n ≤ s.sliceLen cell)) o.1

/-! ## Counting and reaching elements -/

/-- How many elements an object enumerates, checked (R243). -/
def checkCount (o : Obj) : Work Nat :=
  match o.count? with
  | some n => pure n
  | none => Work.bounds o.1

/-! ## How an engine operation reaches memory (R237, R246) -/

/-- Where byte `off` of an object lies for an operation: in the allocation of its home cell, or through translation. -/
def Op.reach (op : Op) (o : Obj) (off : Nat) (kind : AccKind) : Work Nat := fun s =>
  if o.scope = 1 then
    match (Map.get? s.cells op.cell).orElse fun _ => s.images.findSome? fun x => Map.get? x.2.cells op.cell with
    | some c => .ok (c.slice + o.base + off, s)
    | none => .error (.fatal s)
  else
    match s.translateAs op.privileged op.tile op.ctx ((o.base + off) % 2 ^ 52) kind with
    | (.ok pa _, s) =>
      if s.unreachable pa || regionOf pa == .multicast then .error (.fatal s) else .ok (s.localPa pa, s)
    | (.pgfault f, _) => .error (.parked { f with engine := true })
    | (.pgfatal, _) => .error (.fatal s)

/-- The bytes an operation reads at a physical address: memory, a register, or what memory outside the package answers. -/
def Op.readPa (op : Op) (pa n : Nat) : Work (List Byte) := fun s =>
  match regionOf pa with
  | .privileged =>
    let r := s.mmioRead (pa - 0x10000000000) n
    .ok (toBytes n r.1, r.2)
  | .host => .ok (s.outsideBytes n)
  | .fabric p off =>
    let s := (s.send { target := p, tid := op.tid, ctx := op.ctx, payload := .load off n }).accessEnergy op.tile op.ctx pa n
    .ok (s.outsideBytes n)
  | _ => .ok (s.bytes pa n, (s.acceptReads op.tid pa n).accessEnergy op.tile op.ctx pa n)

/-- The lengths of the parts of n bytes at an address that lie in one 64 KiB page each. -/
def pageParts (a n : Nat) : List (Nat × Nat) :=
  let k := min n (65536 - a % 65536)
  if k = n then [(0, n)] else [(0, k), (k, n - k)]

/-- The bytes of an object that an operation reads, at most 64 KiB of them (R246). -/
def Op.readBytes (op : Op) (o : Obj) (off n : Nat) : Work (List Byte) := do
  let parts ← (pageParts (o.base + off) n).mapM fun p => do
    let pa ← op.reach o (off + p.1) .read
    op.readPa pa p.2
  pure parts.flatten

/-- The bytes of an object that an operation writes: unchecked, each granule's tag reset (R246). -/
def Op.writeBytes (op : Op) (o : Obj) (off : Nat) (bs : List Byte) : Work Unit := do
  let parts := pageParts (o.base + off) bs.length
  let _ ← parts.mapM fun p => do
    let pa ← op.reach o (off + p.1) .write
    let piece := (bs.drop p.1).take p.2
    modify fun s => ((s.perform op.tid (bytesAt pa piece)).accessEnergy op.tile op.ctx pa piece.length).resetTags pa piece.length
  pure ()

/-- R265: the bytes an engine reads of an element; an uncorrectable error in a slice, or in HBM that the Caster reads, gives zeros, and is
logged with its position. In HBM that another engine reads it is as in a load of the thread (R315). -/
def Op.readElemBytes (op : Op) (o : Obj) (off n elem : Nat) : Work (List Byte) := do
  let pa ← op.reach o off .read
  let s ← get
  let hbm := regionOf pa == .hbm
  if s.eccAt pa n then
    Work.need (!hbm || decide (op.queue < 4)) (.ecc pa)
    modify fun s =>
      let s := s.logError op.tile (if hbm then 3 else 0) op.ctx 0 o.1 elem
      let t := s.tile op.tile
      s.setTile op.tile { t with errsticky := t.errsticky ||| (if hbm then 8 else 1) }
    pure (List.replicate n 0)
  else op.readBytes o off n

/-- An element of an object at a bit offset, with its position in the enumeration (R222, R265). -/
def Op.readElemAt (op : Op) (o : Obj) (bit elem : Nat) : Work Nat := do
  let n := (o.bits + 7) / 8
  let bs ← op.readElemBytes o (bit / 8) n elem
  pure (ofBytes bs / 2 ^ (bit % 8) % 2 ^ o.bits)

/-- An element written at a bit offset; a 4-bit element keeps the other nibble of its byte (R222). -/
def Op.writeElemAt (op : Op) (o : Obj) (bit v : Nat) : Work Unit := do
  if o.bits = 4 then
    let bs ← op.readBytes o (bit / 8) 1
    let old := ofBytes bs
    let new := if bit % 8 = 0 then old / 16 * 16 + v % 16 else old % 16 + v % 16 * 16
    op.writeBytes o (bit / 8) [BitVec.ofNat 8 new]
  else op.writeBytes o (bit / 8) (toBytes (o.bits / 8) v)

/-- Element n of an object's enumeration. -/
def Op.readElem (op : Op) (o : Obj) (n : Nat) : Work Nat := op.readElemAt o (o.elemBit false n) n

/-- Element n of an object's enumeration written. -/
def Op.writeElem (op : Op) (o : Obj) (n v : Nat) : Work Unit := op.writeElemAt o (o.elemBit false n) v

/-- Element (r, c) of a TILE, padding read as zero (R242). -/
def Op.readCell (op : Op) (o : Obj) (r c : Nat) : Work Nat :=
  if r < o.rows ∧ c < o.cols then op.readElemAt o (tileBit o.bits o.cols r c) (r * o.cols + c) else pure 0

/-! ## Submitting an engine operation (R148, R244, R245, R314, R328) -/

/-- The words of captured operands in the order of the fields a, b, c and d (R149). -/
def Captured.words (c : Captured) : List Word := (c.a ++ c.b ++ c.c ++ c.d).map Prod.fst

/-- The operations of a thread in a queue, in the order of issue (R244). -/
def State.queued (s : State) (tid q : Nat) : List (Nat × Op) := s.ops.filter fun x => x.2.tid == tid && x.2.queue == q

/-- Whether a frozen queue holds an operation back: its word has not left its partition (R148). -/
def Thread.holdsOp (t : Thread) (id : Nat) : Bool := t.replay.any fun e => e.op == some id && t.stops e

/-- The operations that one placed in a queue now must follow: those the queue holds, but for what a freeze holds back, which comes after
the handler's (R244, R336), and what its thread's fences name (R245). -/
def State.mustFollow (s : State) (t : Thread) (tid q : Nat) : List Nat :=
  ((s.queued tid q).filter fun x => !(t.holdsOp x.1)).map Prod.fst ++ s.fencedBy t q

/-- The tile of a thread's cell, where its shared resources stay (R199). -/
def State.homeTile (s : State) (t : Thread) : Nat := ((Map.get? s.cells t.cell).map Cell.tile).getD t.tile

/-- The words that use a tile's Anvil state (R250). -/
def anvilWord : Instr → Bool
  | .castw _ | .castwCb3 _ | .casttab _ | .mma _ | .mmas _ | .accz _ | .accld _ | .accst _ | .accstAdd _ | .accrd _ | .mseq _ => true
  | _ => false

/-- An engine word enters its queue: the thread's lines drain and its region ends at DEVICE scope, FABRIC scope for a fabric
word; the operation takes the next number, and the word has an entry until it has left (R148, R244, R314, R328). -/
def submit (iss : Issue) (i : Instr) (l : Lane) (no : Nat) (q : Nat) (objs : List Obj) (args : List Word) (bytes : Nat) :
    Work Nat := fun s =>
  match s.thread? l.tid with
  | none => .error (.fatal s)
  | some t =>
    let s := s.regionEnd l.tid (some (if q = 6 then 4 else 3))
    let id := s.nextId
    let op : Op := { tid := l.tid, ctx := t.ctx, cell := t.cell, tile := if anvilWord i then s.homeTile t else t.tile, queue := q
                     instr := i
                     privileged := s.privileged t.ctx, args := args, objs := objs
                     after := s.mustFollow t l.tid q, bytes := bytes
                     nbv := (((s.ctx? t.ctx).map fun c => c.nbv == 1).getD false) }
    let s := { s with nextId := id + 1, ops := Map.set s.ops id op }
    .ok (id, s.addEntry l.tid { iss.entryFor i (destOf 0 i) (slotBit l.slot) no l with op := some id })

/-- One lane of an engine word: EMPTY, then UNINIT, then its checks and its submission; a page fault parks it (R142, R238, R423). -/
def engineLane (i : Instr) (iss : Issue) (no : Nat) (work : Lane → Work Unit) (acc : Verdicts × State) (l : Lane) :
    Verdicts × State :=
  let s := acc.2
  match emptyCause (staticSources i) l.cap with
  | some info => (acc.1 ++ [(l.tid, l.slot, .trapped .empty info l.cap {})], s)
  | none =>
    match uninitCause (staticSources i) l.cap with
    | some info => (acc.1 ++ [(l.tid, l.slot, .trapped .uninit info l.cap {})], s)
    | none =>
    match work l s with
    | .ok (_, s') => (acc.1 ++ [(l.tid, l.slot, .idle)], s')
    | .error (.trap c info) => (acc.1 ++ [(l.tid, l.slot, .trapped c (BitVec.ofNat 64 info) l.cap {})], s)
    | .error (.parked f) => (acc.1 ++ [(l.tid, l.slot, .idle)], s.park iss i (destOf 0 i) (slotBit l.slot) no 0 (l, f))
    | .error (.ecc pa) => (acc.1 ++ [(l.tid, l.slot, .idle)], s.eccStop l.tid pa)
    | .error (.fatal _) => (acc.1 ++ [(l.tid, l.slot, .idle)], s.haltUntrapped l.th)

/-- Entries that belong to one issue name all the slots that hold it (R149 LANES). -/
def State.shareLanes (s : State) (no : Nat) : State :=
  let lanes := (s.threads.flatMap fun x => x.2.replay).foldl (fun m e => if e.issueNo = no then m ||| e.lanes else m) (0 : BitVec 32)
  { s with threads := Map.mapAll s.threads fun _ t =>
      { t with replay := t.replay.map fun e => if e.issueNo = no then { e with lanes := lanes } else e } }

/-- A word that is checked and takes effect in each thread of its group in slot order; where one raises ILLEG it takes effect in none
(R61, R238). -/
def State.eachLane (s : State) (i : Instr) (work : Issue → Nat → Lane → Work Unit) : State :=
  s.issued i fun iss =>
    let no := s.nextId
    let ls := ((iss.lanes s i 0).filter fun x => x.2).map Prod.fst
    let r := ls.foldl (engineLane i iss no (work iss no)) (([] : Verdicts), { s with nextId := no + 1 })
    if lowestCause r.1 = some .illeg then s.settleAll iss i (destOf 0 i) r.1
    else ((r.2.shareLanes no).settleAll iss i (destOf 0 i) r.1).countMmx iss.ctx r.1

/-! ## Performing an engine operation -/

/-- A trace record of an operation's unit, under the WID of its thread (R406, R407). -/
def State.emitOp (s : State) (op : Op) (kind : Nat) (payload : List Byte) : State :=
  s.emit kind op.ctx op.tile 4 (((s.thread? op.tid).map Thread.wid).getD 0) payload

/-- The requests to other packages that a piece of work has sent: those that stand in the retry store after it and not before (R365). -/
def requestsSince (before after : State) : List Nat :=
  after.fabric.retry.filterMap fun r => if r.2.payload.writes && decide (before.nextId ≤ r.2.id) then some r.2.id else none

/-- A request that an operation awaits is still unacknowledged (R249, R365). -/
def State.awaitsFar (s : State) (op : Op) : Bool := op.after.any fun o => s.fabric.retry.any fun r => r.2.id == o

/-- Whether a thread's entry for an operation has not yet left the partition (R148). -/
def State.opHeld (s : State) (id : Nat) : Bool :=
  s.threads.any fun x => x.2.replay.any fun e => e.op == some id && e.state == .held

/-- Whether a context's work goes on: it runs, or completes what is outstanding (R384). -/
def State.working (s : State) (ctx : Nat) : Bool :=
  match s.ctx? ctx with
  | some c => c.phase == .running || c.phase == .halting
  | none => false

/-- Whether an operation or entry of any thread has still to perform. -/
def State.stillDue (s : State) (o : Nat) : Bool := (Map.get? s.ops o).isSome || s.threads.any fun x => s.unfinished x.2 o

/-- A set operation of the Anvil that has begun, other than an MSEQ (R384). -/
def Op.begun (op : Op) : Bool := op.queue == 4 && (op.progress != 0 || op.bytes != 0) && !(op.instr matches .mseq _)

/-- Of a halted context only what it gave the Caster and what the Anvil has begun performs; the rest is discarded (R384). -/
def State.mayWork (s : State) (op : Op) : Bool := s.working op.ctx && (!s.isHalted op.ctx || decide (op.queue < 4) || op.begun)

/-- Another set operation of the same tile has begun and has not performed: those of one tile perform one at a time, whole, MSEQ apart
(R257). -/
def State.anvilBusy (s : State) (id : Nat) (op : Op) : Bool :=
  !op.signers.isEmpty && s.ops.any fun x => x.1 != id && x.2.tile == op.tile && x.2.begun && !x.2.performed

/-- An access that the thread made before an operation to bytes of its objects, and that has still to perform (R340). -/
def State.accessBefore (s : State) (id : Nat) (op : Op) : Bool :=
  match s.thread? op.tid with
  | none => false
  | some t =>
    let slice := ((Map.get? s.cells t.cell).map Cell.slice).getD 0
    t.replay.any fun e => decide (e.id < id) && e.atomicFlight && (accessOf e.instr e.cap).any fun x =>
      op.objs.any fun o => Obj.meets o slice (t.vaOf x.off) ((s.entryPa t e).1.getD 0) x.size

/-- Whether an operation waits for another piece of work: of a halted context only for what still performs. -/
def State.waitsFor (s : State) (op : Op) (o : Nat) : Bool :=
  s.stillDue o && (!s.isHalted op.ctx || (Map.get? s.ops o).any fun x => s.mayWork x && !s.opHeld o)

/-- Whether an operation may perform: what it must follow has performed, it has left its partition, and no page fault parks it
(R244 to R246); a set operation needs its signers' earlier accesses performed too, and its tile's Anvil (R257). -/
def State.opReady (s : State) (id : Nat) (op : Op) : Bool :=
  op.fault.isNone && !op.performed && s.mayWork op && !s.opHeld id && !s.anvilBusy id op && !s.accessBefore id op &&
    (op.after.all fun o => op.signers.contains o || !s.waitsFor op o) &&
    (op.signers.all fun o => !s.opHeld o && match Map.get? s.ops o with
      | some g => match s.thread? g.tid with
        | some t => t.replay.all fun e => !(decide (e.id < o) && (accessOf e.instr e.cap).isSome)
        | none => true
      | none => true)

/-- An operation leaves its queue. -/
def State.dropOp (s : State) (id : Nat) : State := { s with ops := Map.del s.ops id }

/-- The entries that belong to an operation finish without a reply. -/
def State.finishOpEntries (s : State) (id : Nat) : State :=
  s.threads.foldl (fun s x => (x.2.replay.filter fun e => e.op == some id).foldl (fun s e => s.finishEntry x.1 e.id) s) s

/-- The reply of an operation into the destination of its entry (R148). -/
def State.replyTo (s : State) (id : Nat) (ws : List Word) : State :=
  s.threads.foldl (fun s x => (x.2.replay.filter fun e => e.op == some id).foldl (fun s e => s.completeEntry x.1 e.id ws) s) s

/-- An operation that stops: it and its signatures leave their queues. -/
def State.endOp (s : State) (id : Nat) (op : Op) : State :=
  op.signers.foldl (fun s o => (s.dropOp o).finishOpEntries o) ((s.dropOp id).finishOpEntries id)

/-- R246: the work of an operation; a recoverable fault parks it until the record is serviced, a fatal one halts the context and
ends it, what it has written staying written, and so does an uncorrectable error in a plain load (R315). -/
def State.opWork (s : State) (id : Nat) (op : Op) (w : Work Unit) : State :=
  match w s with
  | .ok (_, s') => s'
  | .error (.parked f) => { s with ops := Map.set s.ops id { op with fault := some f } }
  | .error (.ecc pa) => (s.eccStop op.tid pa).endOp id op
  | .error x =>
    let s := match x with
      | .fatal s' => s'
      | _ => s
    (s.fatal op.ctx { cause := .pgfatal, tfpc := 0, tfinfo := 0, tfmask := 0, tfdst := 0, wid := 0, tile := op.tile
                      part := 0, untrapped := true }).endOp id op

/-- An operation by its number, when it may perform; otherwise nothing happens. -/
def State.withOp (s : State) (id : Nat) (k : Op → State) : State :=
  match Map.get? s.ops id with
  | none => s
  | some op => if s.opReady id op then k op else s

end Sys2Proof.Machine
end

