-- ==== Sys2Proof/Machine/System.lean ====
section
/-! DEFINITION. System instructions: NOP, EXIT, YIELD, TRAP, BKPT, the die banks, special registers and launch constants, function
tables, and the invalidations (spec/04_encoding.md R73 to R80, spec/05_isa_core.md R91 to R94, R105 to R112, spec/06_isa_vector.md
R114, R135 to R138, spec/16_program_refresh.md R303 to R306). -/
namespace Sys2Proof.Machine

/-- NOP (R106). -/
def execNop (f : BareForm) (s : State) : Host.Outcome State Fault Refusal := .next (s.issued (.nop f) fun _ => s)

/-- EXIT (R106). -/
def execExit (f : BareForm) (s : State) : Host.Outcome State Fault Refusal :=
  .next (s.steer (.exit f) fun _ _ t => .leave t .exit)

/-- YIELD: the group dissolves, as each thread's filing after any chain does it, and oldest waits are drawn first; pinned, it acts
as NOP (R48, R106, R145). -/
def execYield (f : BareForm) (s : State) : Host.Outcome State Fault Refusal := .next (s.issued (.yield f) fun _ => s)

/-- A cause raised in every thread of the group with a code (R107). -/
def State.raiseAll (s : State) (i : Instr) (c : Cause) (code : Nat) : State :=
  s.issued i fun iss =>
    s.settleAll iss i {} (iss.slots.map fun x => (x.2, x.1, .trapped c (BitVec.ofNat 64 code) {} {}))

/-- TRAP (R107). -/
def execTrap (f : CodeForm) (s : State) : Host.Outcome State Fault Refusal := .next (s.raiseAll (.trap f) .user f.n.toNat)

/-- BKPT (R107); one that the debug port has claimed stops the partition at the draw and issues as NOP (R404). -/
def execBkpt (f : CodeForm) (s : State) : Host.Outcome State Fault Refusal := .next (s.raiseAll (.bkpt f) .bkpt f.n.toNat)

/-! ## Die banks (R73, R108 to R110) -/

/-- The physical pages of a DIESET's 12,288 bytes: where each 64 KiB piece begins (R108). -/
def dieSetPages (tile ctx cell : Nat) (o : Obj) : Work (List Nat) := fun s =>
  if o.scope = 1 then
    match Map.get? s.cells cell with
    | some c => .ok (((pageParts (o.base % 65536) 12288).map fun p => c.slice + o.base + p.1), s)
    | none => .error (.trap .bounds 0xFFFF)
  else
    (pageParts (o.base % 65536) 12288).foldlM (fun (acc : List Nat × State) p =>
      let va := (o.base + p.1) % 2 ^ 52
      match acc.2.translate tile ctx va .read with
      | (.ok pa _, s) => .ok (acc.1 ++ [s.localPa pa], s)
      | (.pgfault f, _) => .error (.parked f)
      | (.pgfatal, _) => .error (.trap .pgfatal va)) (([] : List Nat), s)

/-- The checks of DIELD: the die set of the thread's launch, readable and long enough, its pages translated (R108). -/
def checkDield (l : Lane) : Work (List Nat) := do
  let s ← get
  match (Map.get? s.launches l.th.launch).bind Launch.dieset with
  | none => Work.illeg
  | some idx =>
    let o ← checkEntry l.th.tile l.th.ctx idx [.dieset] rightR
    Work.within (decide (12288 ≤ o.field 0x10 8)) idx
    Work.within (o.scope != 1 || decide (o.base + 12288 ≤ s.sliceLen l.th.cell)) idx
    dieSetPages l.th.tile l.th.ctx l.th.cell o

/-- DIELD: performed once for the group, checked in its lowest thread; each thread has an entry (R108). -/
def execDield (f : BankForm) (s : State) : Host.Outcome State Fault Refusal :=
  .next (s.issued (.dield f) fun iss =>
    let i := Instr.dield f
    let ls := (iss.lanes s i 0).map Prod.fst
    let no := s.nextId
    let s := { s with nextId := no + 1 }
    match ls with
    | [] => s
    | l0 :: _ =>
      match checkDield l0 s with
      | .ok (pages, s) =>
        let ws := pages.flatMap fun p => [BitVec.ofNat 32 p, BitVec.ofNat 32 (p / 2 ^ 32)]
        ls.foldl (fun s l => s.addEntry l.tid { iss.entryFor i {} (laneMask ls) no l with reply := some ws }) s
      | .error (.trap c info) =>
        s.settleAll iss i {} (ls.map fun l => (l.tid, l.slot, .trapped c (BitVec.ofNat 64 info) l.cap {}))
      | .error (.parked f) => ls.foldl (fun s l => s.park iss i {} (laneMask ls) no 0 (l, f)) s
      | .error (.ecc pa) => s.eccStop l0.tid pa
      | .error (.fatal _) => s.haltUntrapped l0.th)

/-- The parts of a die set, each with the physical address where it begins, from its captured pages. -/
def dieParts (pages : List Nat) : List (Nat × Nat) :=
  ((pageParts (pages.headD 0 % 65536) 12288).zip pages).map fun x => (x.2, x.1.2)

/-- The 12,288 bytes of a die set, read from its parts (R108, R304). -/
def State.dieBytes (s : State) (tid : Nat) (parts : List (Nat × Nat)) : List Byte × State :=
  parts.foldl (fun acc x =>
    match regionOf x.1 with
    | .host | .fabric .. => let r := acc.2.outsideBytes x.2; (acc.1 ++ r.1, r.2)
    | _ => (acc.1 ++ acc.2.bytes x.1 x.2, acc.2.acceptReads tid x.1 x.2)) ([], s)

/-- The 1,024 entries of 12 bytes (R74). -/
def dieEntries : List Byte → Nat → List Die
  | _, 0 => []
  | bs, n + 1 =>
    ⟨BitVec.ofNat 32 (ofBytes (bs.take 4)), BitVec.ofNat 32 (ofBytes ((bs.drop 4).take 4)),
      BitVec.ofNat 32 (ofBytes ((bs.drop 8).take 4))⟩ :: dieEntries (bs.drop 12) n

/-- An all-zero die entry is unlisted. -/
def setDie (m : Map Die) (k : Nat) (d : Die) : Map Die := if d = ⟨0, 0, 0⟩ then Map.del m k else Map.set m k d

/-- DIELD_COMPLETE: the last entry of the bank is written, and every thread of the issue goes on (R108, R110). DESIGN CHOICE: between the
issue and the thread's SYNC.DIE an expansion may use the old or the new entry (R78); here every entry is the old one until this step
(log entry 74). -/
def execDieldComplete (tid entry : Nat) (s : State) : Host.Outcome State Fault Refusal :=
  .next (match s.thread? tid, (s.thread? tid).bind fun t => t.entry? entry with
    | some t, some e =>
      match e.instr with
      | .dield f =>
        if e.state ≠ .flight then s
        else
          let ws := e.reply.getD []
          let pages := (List.range (ws.length / 2)).map fun k => wordsNum ((ws.drop (2 * k)).take 2)
          let parts := dieParts pages
          match parts.find? fun p => s.eccAt p.1 p.2 with
          | some p => s.eccStop tid p.1
          | none =>
            let r := s.dieBytes tid parts
            let dies := dieEntries r.1 1024
            let s := r.2.modCtx t.ctx fun c =>
              { c with dies := dies.zipIdx.foldl (fun m d => setDie m (f.k.toNat * 1024 + d.2) d.1) c.dies }
            (s.issueEntries e.issueNo).foldl (fun s x => s.retireEntry x.1 x.2.id) s
      | _ => s
    | _, _ => s)

/-- DIEBANK (R109). -/
def execDiebank (f : BankForm) (s : State) : Host.Outcome State Fault Refusal :=
  .next (s.issued (.diebank f) fun iss => s.modCtx iss.ctx fun c => { c with dieSel := f.k == 1 })

/-- The stores that the threads of the issuing group have issued enter their lines, and the lines drain (R314). -/
def State.flushGroup (s : State) : State :=
  ((s.issue.map Issue.slots).getD []).foldl (fun s x => (s.dispatchThread x.2).drainThread x.2) s

/-- SYNC.DIE: the decode bank becomes the selected one, and fetch sees the thread's completed stores, which leave its lines (R73, R80,
R110, R343). -/
def execSyncDie (f : BareForm) (s : State) : Host.Outcome State Fault Refusal :=
  .next (s.flushGroup.steer (.syncDie f) fun iss _ t => .on { t with bank := ((s.ctx? iss.ctx).map Context.dieSel).getD false, stale := [] })

/-! ## Special registers (R91 to R94) -/

/-- FIXA or FIXB of a thread's cell (R47). -/
def State.fix (s : State) (t : Thread) (b : Bool) : Nat :=
  match Map.get? s.cells t.cell with
  | some c => if b then c.fixb.toNat else c.fixa.toNat
  | none => 0

/-- REFSTAT: the counters of the pseudo-channel reported, saturating (R305). -/
def State.refstat (s : State) : Nat :=
  match s.refReported with
  | none => 0
  | some p =>
    let r := s.pch p
    min r.guard 65535 * 2 ^ 48 + min r.reads 65535 * 2 ^ 32 + min r.forced 255 * 2 ^ 24 + min r.postp 255 * 2 ^ 8 + r.owed

/-- A register of a thread's context. -/
def State.ctxReg (s : State) (t : Thread) (g : Context → Nat) : Nat := ((s.ctx? t.ctx).map g).getD 0

/-- The value of a special register in a thread (R92, R93). -/
def State.sreg (s : State) (t : Thread) (n : Nat) : Nat :=
  match n with
  | 0x000 => t.wid.toNat
  | 0x001 => t.tile
  | 0x002 => t.part
  | 0x003 => s.cycle % 2 ^ 64
  | 0x004 => t.latcnt.toNat
  | 0x005 => s.ctxReg t fun c => c.nbv.toNat
  | 0x006 => (s.tile t.tile).errsticky.toNat
  | 0x007 => s.fix t false
  | 0x008 => s.fix t true
  | 0x009 => t.awin.toNat
  | 0x00A => t.link.toNat
  | 0x00B => t.lpstat
  | 0x00C => t.lp 0
  | 0x00D => t.lp 1
  | 0x00E => t.lp 2
  | 0x00F => t.lp 3
  | 0x010 => t.fpctl.toNat
  | 0x011 => t.utvec.toNat
  | 0x020 => (t.frame.map Frame.tfpc).getD 0
  | 0x021 => (t.frame.map Frame.cause).getD 0
  | 0x022 => (t.frame.map fun f => f.mask.toNat).getD 0
  | 0x023 => (t.frame.map fun f => f.info.toNat).getD 0
  | 0x024 => (t.frame.map fun f => f.dst.bits).getD 0
  | 0x100 => s.ctxReg t fun c => c.trapfatal.toNat
  | 0x101 => s.ctxReg t fun c => c.otbase.toNat
  | 0x102 => s.ctxReg t fun c => c.otcount.toNat
  | 0x103 => s.ctxReg t fun c => c.ptbase.toNat
  | 0x104 => s.fltring.toNat
  | 0x105 => s.flttail.toNat
  | 0x120 => s.refphase.toNat
  | 0x121 => s.refstat
  | 0x122 => s.ctxReg t fun c => c.rdctl.toNat
  | 0x123 => s.ctxReg t fun c => c.rdstat.toNat
  | 0x124 => s.ctxReg t fun c => c.dumpctl.toNat
  | 0x125 => s.ctxReg t fun c => c.dumpstat.toNat
  | _ => if 0x110 ≤ n ∧ n ≤ 0x11F then (Map.getD (s.tile t.tile).errlog (n - 0x110) 0).toNat else 0

/-- The part of a value that a move's half names: whole, .lo or .hi (R91). -/
def halfOf (h : BitVec 2) (v : Nat) : Nat := if h = 2 then v / 2 ^ 32 % 2 ^ 32 else if h = 1 then v % 2 ^ 32 else v

/-- SRD (R91 to R93). -/
def execSrd (f : SrdForm) (s : State) : Host.Outcome State Fault Refusal :=
  .next (s.issued (.srd f) fun _ => s.compute (.srd f) fun l =>
    let v := halfOf f.h (s.sreg l.th f.s.toNat)
    if f.h = 0 && sregWide f.s.toNat then LaneOut.pair v else LaneOut.one v)

/-- MOV from a constant, from the distributor's copy of the record (R91). -/
def execMovConst (f : MovCForm) (s : State) : Host.Outcome State Fault Refusal :=
  .next (s.issued (.movConst f) fun _ => s.compute (.movConst f) fun l =>
    LaneOut.one (((Map.get? s.launches l.th.launch).map fun x => (Map.getD x.consts f.n.toNat 0).toNat).getD 0))

/-- The value that a move writes into a register: the other half kept (R91). -/
def mergeHalf (h : BitVec 2) (old v : Nat) : Nat := if h = 0 then v else setHalf64 old (h == 2) v

/-- A value with only the bits high to low kept: reserved fields ignore what is written (R5). -/
def bitsKept (v hi lo : Nat) : Nat := v % 2 ^ (hi + 1) / 2 ^ lo * 2 ^ lo

/-- FPCTL written: RM and the enables, and the flags written as 1 cleared (R114). -/
def fpctlWritten (old : BitVec 32) (v : Nat) : BitVec 32 :=
  let flags := old.toNat / 2 ^ 16 % 32
  BitVec.ofNat 32 (bitsKept (v % 128) 6 4 + v % 4 + (flags - (flags &&& (v / 2 ^ 16 % 32))) * 2 ^ 16)

/-- Every cached entry of a context dropped on every tile (R112, R234). -/
def State.dropCached (s : State) (ctx : Nat) (index : Option Nat) : State :=
  { s with tiles := Map.mapAll s.tiles fun _ t =>
      { t with otCache := t.otCache.filter fun e => e.ctx != ctx || (index.map fun k => k != e.index).getD false } }

/-- OTBASE or OTCOUNT written (R234). -/
def State.writeObjectTable (s : State) (ctx : Nat) (count : Bool) (v : Nat) : State :=
  (s.modCtx ctx fun c =>
    if count then { c with otcount := BitVec.ofNat 32 (v % 2 ^ 17) } else { c with otbase := BitVec.ofNat 64 (bitsKept v 51 6) }
    ).dropCached ctx none

/-- DUMPCTL written: DUMPSTAT's DONE, NOHDR and TRUNC are cleared (R382, R383). -/
def State.writeDumpctl (s : State) (ctx : Nat) (v : Nat) : State :=
  s.modCtx ctx fun c =>
    { c with dumpctl := BitVec.ofNat 64 (bitsKept v 51 16 + bitsKept (v % 4096) 11 8 + v % 4)
             dumpstat := BitVec.ofNat 32 (c.dumpstat.toNat % 2 ^ 29) }

/-- Every access that a thread has issued performs, so far as nothing before it holds it: its entries leave, its lines drain and its
atomics take their words (R303). -/
def State.settleAccesses (s : State) (tid : Nat) : State :=
  let s := (s.dispatchThread tid).drainThread tid
  match s.thread? tid with
  | none => s
  | some t => (t.replay.filter Entry.atomicFlight).foldl (fun s e =>
      match execAtomicPerform tid e.id s with
      | .next s' => s'
      | _ => s) s

/-- REFPHASE written by a thread: its earlier accesses have performed, the block is translated, and its pseudo-channel starts afresh
(R303). -/
def writeRefphase (tid : Nat) (v : Nat) : Work Unit := fun s =>
  let s := s.settleAccesses tid
  match s.thread? tid with
  | none => .ok ((), s)
  | some t =>
    match s.reach t (v / 2 ^ 11 % 2 ^ 21 * 2 ^ 11) 1 .read with
    | (.trap .pgfatal info, _) => .error (.trap .pgfatal info)
    | (.trap _ _, _) => .error (.trap .bounds 0xFFFF)
    | (.fault f, _) => .error (.parked f)
    | (.ok pa _, s) =>
      let pa := s.localPa pa
      if regionOf pa ≠ .hbm then .error (.trap .bounds 0xFFFF)
      else
        let p := pchOf pa
        let s := s.setPch p { s.pch p with
          step := v % 256, block := some (pa / 2048), owed := 0, bank := bankOf pa, reads := 0, forced := 0, postp := 0, guard := 0,
          since := s.cycle, phase := s.cycle }
        .ok ((), { s with refReported := some p, refphase := BitVec.ofNat 32 (bitsKept v 31 11 + v % 256) })

/-- FLTDONE written: the record is finished, and every access parked on it is walked again, or fails (R324). -/
def State.fltdone (s : State) (v : Nat) : State :=
  match execFltdoneWrite (BitVec.ofNat 64 v) s with
  | .next s' => s'
  | _ => s

/-- A special register written by a thread (R91 to R94, R114, R142); registers that are read-only ignore it. -/
def swrite (tid n : Nat) (h : BitVec 2) (w : Nat) : Work Unit := fun s =>
  match s.thread? tid with
  | none => .ok ((), s)
  | some t =>
    let v := mergeHalf h (s.sreg t n) w
    let put (g : Thread → Thread) : Except Stop (Unit × State) := .ok ((), s.modThread tid g)
    let putC (g : Context → Context) : Except Stop (Unit × State) := .ok ((), s.modCtx t.ctx g)
    match n with
    | 0x005 => if v < 2 then putC fun c => { c with nbv := BitVec.ofNat 32 v } else .error (.trap .illeg 0)
    | 0x006 =>
      let tl := s.tile t.tile
      .ok ((), s.setTile t.tile { tl with errsticky := tl.errsticky &&& ~~~(BitVec.ofNat 32 v) })
    | 0x009 => put fun t => { t with awin := BitVec.ofNat 64 (bitsKept v 51 32) }
    | 0x00A => put fun t => { t with link := BitVec.ofNat 64 (v % 2 ^ 38) }
    | 0x010 => if v / 16 % 8 ≥ 6 then .error (.trap .illeg 0) else put fun t => { t with fpctl := fpctlWritten t.fpctl v }
    | 0x011 => if v % 3 ≠ 0 then .error (.trap .align v) else put fun t => { t with utvec := BitVec.ofNat 32 v }
    | 0x100 => putC fun c => { c with trapfatal := BitVec.ofNat 32 (bitsKept v 18 1) }
    | 0x101 => .ok ((), s.writeObjectTable t.ctx false v)
    | 0x102 => .ok ((), s.writeObjectTable t.ctx true v)
    | 0x103 => putC fun c => { c with ptbase := BitVec.ofNat 64 (bitsKept v 51 16) }
    | 0x104 => .ok ((), { s with fltring := BitVec.ofNat 64 (bitsKept v 51 14 + v % 2) })
    | 0x106 => .ok ((), s.fltdone v)
    | 0x120 => writeRefphase tid v s
    | 0x122 => putC fun c => { c with rdctl := BitVec.ofNat 32 (v % 2) }
    | 0x124 => .ok ((), s.writeDumpctl t.ctx v)
    | _ =>
      if 0x110 ≤ n ∧ n ≤ 0x11F then
        let tl := s.tile t.tile
        .ok ((), s.setTile t.tile { tl with errlog := Map.set tl.errlog (n - 0x110) (BitVec.ofNat 64 v) })
      else .ok ((), s)

/-- SWR (R91 to R93). -/
def execSwr (f : SwrForm) (s : State) : Host.Outcome State Fault Refusal :=
  .next (s.eachLane (.swr f) fun _ _ l => swrite l.tid f.s.toNat f.h
    (if f.h = 0 && sregWide f.s.toNat then Opnd.dword l.cap.a else l.a))

/-! The register-write rows: what one SWR writes, the privileged ones by the context or thread they name. -/

/-- What a register write leaves; a page fault parks the thread, a trap is its SWR's (R142, R303). -/
def State.swriteOr (s : State) (tid : Nat) (w : Work Unit) : State :=
  match w s with
  | .ok (_, s') => s'
  | .error (.parked f) => s.modThread tid fun t => { t with parked := some f }.block .fault
  | .error _ => s

/-- OTBASE_WRITE (R234). -/
def execOtbaseWrite (ctx : Nat) (count : Bool) (v : BitVec 64) (s : State) : Host.Outcome State Fault Refusal :=
  .next (s.writeObjectTable ctx count v.toNat)

/-- NBV_WRITE: any value but 0 and 1 is ILLEG and changes nothing (R92). -/
def execNbvWrite (ctx : Nat) (v : BitVec 32) (s : State) : Host.Outcome State Fault Refusal :=
  .next (if v.toNat < 2 then s.modCtx ctx fun c => { c with nbv := v } else s)

/-- UTVEC_WRITE: a value that is no multiple of 3 is ALIGN and changes nothing (R142). -/
def execUtvecWrite (tid : Nat) (v : BitVec 32) (s : State) : Host.Outcome State Fault Refusal :=
  .next (s.swriteOr tid (swrite tid 0x011 0 v.toNat))

/-- FPCTL_WRITE: a reserved rounding mode is ILLEG and changes nothing (R114). -/
def execFpctlWrite (tid : Nat) (v : BitVec 32) (s : State) : Host.Outcome State Fault Refusal :=
  .next (s.swriteOr tid (swrite tid 0x010 0 v.toNat))

/-- DUMPCTL_WRITE (R382, R383). -/
def execDumpctlWrite (ctx : Nat) (v : BitVec 64) (s : State) : Host.Outcome State Fault Refusal :=
  .next (s.writeDumpctl ctx v.toNat)

/-- REFPHASE_WRITE (R303). -/
def execRefphaseWrite (tid : Nat) (v : BitVec 32) (s : State) : Host.Outcome State Fault Refusal :=
  .next (s.swriteOr tid (writeRefphase tid v.toNat))

/-! ## Function tables (R135 to R138) -/

/-- Where byte `off` of an object lies for an access of a thread, with the page's NRD. -/
def Lane.reachObj (l : Lane) (o : Obj) (off : Nat) (kind : AccKind := .read) : Work (Nat × Bool) := fun s =>
  if o.scope = 1 then
    match Map.get? s.cells l.th.cell with
    | some c => .ok ((c.slice + o.base + off, false), s)
    | none => .error (.trap .bounds 0xFFFF)
  else
    let va := (o.base + off) % 2 ^ 52
    match s.translate l.th.tile l.th.ctx va kind with
    | (.ok pa nrd, s) => if s.unreachable pa then .error (.fatal s) else .ok ((pa, nrd), s)
    | (.pgfault f, _) => .error (.parked f)
    | (.pgfatal, _) => .error (.trap .pgfatal va)

/-- The race check of a plain read of an object's bytes, granule by granule (R329, R330). -/
def Lane.checkRead (l : Lane) (o : Obj) (off n : Nat) : Work Unit :=
  let first := (o.base + off) / 64
  let last := (o.base + off + n - 1) / 64
  (List.range (last + 1 - first)).forM fun k => do
    let lo := max ((first + k) * 64) (o.base + off)
    let hi := min ((first + k + 1) * 64) (o.base + off + n)
    let r ← l.reachObj o (lo - o.base)
    let s ← get
    match s.raceCheck l.th r.1 (hi - lo) r.2 false false with
    | (true, _) => Work.stop (.trap .mmx lo)
    | (false, s') => set s'

/-- Bytes of an object read as a plain load reads them. -/
def Lane.readObj (l : Lane) (o : Obj) (off n : Nat) : Work (List Byte) := do
  let parts ← (pageParts (o.base + off) n).mapM fun p => do
    let r ← l.reachObj o (off + p.1)
    let s ← get
    if s.eccAt (s.localPa r.1) p.2 then Work.stop (.ecc (s.localPa r.1))
    else
      let b := s.readAt l.th l.tid 0 (s.localPa r.1) p.2
      set b.2
      pure b.1
  pure parts.flatten

/-- The checks of FTABLD: a readable BUFFER, long enough for its header's segments, and a legal header; then its words, with the
race check of what it reads (R136). -/
def checkFtabld (l : Lane) : Work (List Word) := do
  let idx := l.a % 65536
  let o ← checkEntry l.th.tile l.th.ctx idx [.buffer] rightR
  let len := o.field 0x10 8
  Work.within (decide (16 ≤ len)) idx
  let s ← get
  Work.within (o.scope != 1 || decide (o.base + 16 ≤ s.sliceLen l.th.cell)) idx
  let head ← l.readObj o 0 16
  let n := ofBytes ((head.drop 8).take 4)
  Work.within (decide (1 ≤ n ∧ n ≤ 256 ∧ ofBytes (head.drop 12) = 0 ∧ 16 + 8 * n ≤ len)) idx
  Work.within (o.scope != 1 || decide (o.base + 16 + 8 * n ≤ s.sliceLen l.th.cell)) idx
  l.checkRead o 0 (16 + 8 * n)
  let body ← l.readObj o 16 (8 * n)
  pure (numWords (ofBytes (head ++ body)) (4 + 2 * n))

/-- FTABLD: what it read stands in its entry until it completes (R136). -/
def execFtabld (f : FtabLdForm) (s : State) : Host.Outcome State Fault Refusal :=
  .next (s.eachLane (.ftabld f) fun iss no l => do
    let ws ← checkFtabld l
    modify fun s => s.addEntry l.tid { iss.entryFor (.ftabld f) {} (slotBit l.slot) no l with
      reply := some ws })

/-- A bank from the words of a table object (R136). -/
def FtBank.ofWords (ws : List Word) : FtBank :=
  { xorg := ws.getD 0 0, inv := ws.getD 1 0, n := ws.getD 2 0
    entries := (List.range ((ws.getD 2 0).toNat)).map fun k => (k, (ws.getD (4 + 2 * k) 0, ws.getD (5 + 2 * k) 0)) }

/-- The entries that a load writes over a bank's own; later ones stay (R136). -/
def FtBank.over (old new : FtBank) : FtBank :=
  { new with entries := new.entries.foldl (fun m e => Map.set m e.1 e.2) old.entries }

/-- FTABLD_COMPLETE (R136). -/
def execFtabldComplete (tid entry : Nat) (s : State) : Host.Outcome State Fault Refusal :=
  .next (match s.thread? tid, (s.thread? tid).bind fun t => t.entry? entry with
    | some t, some e =>
      match e.instr with
      | .ftabld f =>
        if e.state ≠ .flight then s
        else
          let k := f.t.toNat * 2 + f.k.toNat
          let s := s.modCtx t.ctx fun c =>
            { c with ftabs := Map.set c.ftabs k ((Map.getD c.ftabs k {}).over (FtBank.ofWords (e.reply.getD []))) }
          s.retireEntry tid entry
      | _ => s
    | _, _ => s)

/-- FTABBANK (R138). -/
def execFtabbank (f : FtabBankForm) (s : State) : Host.Outcome State Fault Refusal :=
  .next (s.eachLane (.ftabbank f) fun _ _ l => modify fun s => s.modCtx l.th.ctx fun c =>
    let bit := BitVec.ofNat 4 (2 ^ f.t.toNat)
    { c with ftSel := if f.k = 1 then c.ftSel ||| bit else c.ftSel &&& ~~~bit })

/-! ## Invalidations (R112, R322) -/

/-- TLBINV: the translations of a page, of a context or of every context dropped on every tile and walker (R112, R322). -/
def State.tlbinv (s : State) (mode va ctx : Nat) : State :=
  let hits (c vpage bits : Nat) : Bool := mode == 2 || (c == ctx && (mode == 1 || vpage == va / 2 ^ bits))
  { s with
    tiles := Map.mapAll s.tiles fun _ t => { t with tlb := t.tlb.filter fun e => !hits e.ctx e.vpage e.bits }
    walkers := Map.mapAll s.walkers fun _ es => es.filter fun e => !(mode == 2 || e.ctx == ctx) }

/-- TLBINV (R112). -/
def execTlbinv (f : TlbinvForm) (s : State) : Host.Outcome State Fault Refusal :=
  .next (s.eachLane (.tlbinv f) fun _ _ l => modify fun s =>
    let hi := Opnd.word l.cap.a 1
    s.tlbinv f.m.toNat (l.a + hi % 2 ^ 20 * 2 ^ 32) (hi / 2 ^ 28))

/-- OTINV (R112). -/
def execOtinv (f : OtinvForm) (s : State) : Host.Outcome State Fault Refusal :=
  .next (s.eachLane (.otinv f) fun _ _ l => modify fun s =>
    s.dropCached (l.a / 2 ^ 16 % 16) (if f.l = 1 then none else some (l.a % 65536)))

end Sys2Proof.Machine
end

