-- ==== Sys2Proof/Machine/Traps.lean ====
section
/-! DEFINITION. The handler instructions and the return from a trap: RTE and the release of a pinned group, TFILL, and the access
to the replay queue (spec/07_traps.md R145 to R152). -/
namespace Sys2Proof.Machine

/-! ## The replay queue as a handler sees it (R148 to R150) -/

/-- The entries that RQDROP has not removed (R150). -/
def Thread.visible (t : Thread) : List Entry := t.replay.filter fun e => !e.dropped

/-- The code of an entry's state (R148). -/
def EState.code : EState → Nat
  | .held => 0 | .flight => 1 | .done => 2 | .fault => 3

/-- INFO of an entry (R149). -/
def Entry.info (e : Entry) : Nat :=
  pipeOf (majorOf e.instr) * 2 ^ 28 + (if e.stamp then 2 ^ 27 else 0) + (if e.unperformed then 2 ^ 26 else 0)
    + e.state.code * 2 ^ 24 + e.pc % 2 ^ 24

/-- A field of an entry by its number (R149). -/
def Entry.field (e : Entry) (n : Nat) : Nat :=
  match n with
  | 0 => e.info
  | 1 => e.dst.bits
  | 2 => e.instr.baseWord?.getD 0
  | 3 => (e.instr.bound.pfx.map Pfx.bits).getD 0
  | 4 => Opnd.word e.cap.a 0
  | 5 => Opnd.word e.cap.b 0
  | 6 => Opnd.word e.cap.c 0
  | 7 => e.lanes.toNat
  | 8 | 9 | 10 | 11 => Opnd.word e.cap.d (n - 8)
  | _ => 0

/-- Word k of an operand replaced; it is then full. -/
def Opnd.put (o : Opnd) (k : Nat) (w : Word) : Opnd :=
  (o ++ List.replicate (k + 1 - o.length) ((0, RState.full) : Word × RState)).set k (w, RState.full)

/-- A field of a HELD entry replaced (R149). -/
def Entry.putField (e : Entry) (n : Nat) (w : Word) : Entry :=
  if e.state ≠ .held then e
  else
    match n with
    | 4 => { e with cap := { e.cap with a := Opnd.put e.cap.a 0 w } }
    | 5 => { e with cap := { e.cap with b := Opnd.put e.cap.b 0 w } }
    | 6 => { e with cap := { e.cap with c := Opnd.put e.cap.c 0 w } }
    | 8 | 9 | 10 | 11 => { e with cap := { e.cap with d := Opnd.put e.cap.d (n - 8) w } }
    | _ => e

/-- RQCOUNT (R150). -/
def execRqcount (f : RegDForm) (s : State) : Host.Outcome State Fault Refusal :=
  .next (s.issued (.rqcount f) fun _ => s.compute (.rqcount f) fun l => LaneOut.one l.th.visible.length)

/-- RQREAD (R149, R150). -/
def execRqread (f : RqReadForm) (s : State) : Host.Outcome State Fault Refusal :=
  .next (s.issued (.rqread f) fun _ => s.compute (.rqread f) fun l =>
    LaneOut.one (((l.th.visible[f.e.toNat]?).map fun e => e.field f.f.toNat).getD 0))

/-- RQWRITE (R149, R150). -/
def execRqwrite (f : RqWriteForm) (s : State) : Host.Outcome State Fault Refusal :=
  .next (s.eachLane (.rqwrite f) fun _ _ l => modify fun s =>
    match (s.thread? l.tid).bind fun t => t.visible[f.e.toNat]? with
    | some e => s.modThread l.tid fun t => t.modEntry e.id fun e => e.putField f.f.toNat (BitVec.ofNat 32 l.a)
    | none => s)

/-- A signature that has not completed its set is withdrawn from its operation (R256). -/
def Cv.withdraw (c : Cv) (id : Nat) : Cv :=
  { c with opens := (c.opens.map fun o => { o with signers := o.signers.filter (· != id) }).filter fun o => !o.signers.isEmpty }

/-- An operation that its entry has not left the partition with is withdrawn from its queue. -/
def State.withdrawOp (s : State) (id : Nat) : State :=
  match Map.get? s.ops id with
  | none => s
  | some op =>
    let signed := match Map.get? s.cells op.cell with
      | some c => c.cvs.any fun v => v.2.opens.any fun o => o.signers.contains id
      | none => false
    let s := s.dropOp id
    if signed then
      let s := s.modCell op.cell fun c => { c with cvs := Map.mapAll c.cvs fun _ v => v.withdraw id }
      match namesOf op.instr with
      | some (3, n) => s.modThread op.tid fun t => { t with signed := Map.set t.signed n (Map.getD t.signed n 0 - 1) }
      | _ => s
    else s

/-- An entry removed by RQDROP: HELD, it makes no access; in flight, its reply is discarded; its destination is trap-empty (R150). -/
def State.rqdrop (s : State) (tid k : Nat) : State :=
  match (s.thread? tid).bind fun t => t.visible[k]? with
  | none => s
  | some e =>
    let s := s.modThread tid fun t => t.markDest e.dst .trapEmpty
    if e.state = .flight then s.modThread tid fun t => t.modEntry e.id fun e => { e with dropped := true }
    else
      let s := match e.op with
        | some id => if e.state = EState.held then s.withdrawOp id else s
        | none => s
      s.modThread tid fun t => { t with replay := t.replay.filter fun x => x.id != e.id }

/-- RQDROP (R150). -/
def execRqdrop (f : RqDropForm) (s : State) : Host.Outcome State Fault Refusal :=
  .next (s.eachLane (.rqdrop f) fun _ _ l => modify fun s => s.rqdrop l.tid f.e.toNat)

/-! ## TFILL (R151) -/

/-- What TFILL mends of a destination: a pair, or else its first register (R151, R164). -/
def Dest.mended (d : Dest) : Dest := if d.cls = 0 ∧ d.count = 2 then d else { d with count := min d.count 1 }

/-- The words that TFILL gives a destination: the pair's two, else va throughout (R151). -/
def tfillWords (d : Dest) (a : Opnd) : List Word :=
  let v := BitVec.ofNat 32 (Opnd.word a 0)
  if d.cls = 0 ∧ d.count = 2 then [v, BitVec.ofNat 32 (Opnd.word a 1)]
  else if d.cls = 1 then List.replicate 4 v else [v]

/-- TFILL: the destination of the trap written full, of several registers the first, in the threads of TFMASK (R151, R164). -/
def execTfill (f : RegAForm) (s : State) : Host.Outcome State Fault Refusal :=
  .next (s.eachLane (.tfill f) fun _ _ l => do
    match l.th.frame with
    | none => Work.illeg
    | some fr =>
      if fr.mask.getLsbD fr.slot && fr.dst.cls != 3 then
        match emptyCause (l.th.sourcesOf false 0 (.tfill f)) l.cap with
        | some info => Work.stop (.trap .empty info.toNat)
        | none => modify fun s => s.modThread l.tid fun t => t.writeDest fr.dst.mended (tfillWords fr.dst l.cap.a) .full
      else pure ())

/-! ## RTE (R152) -/

/-- The thread's resume point named, and the thread blocked until the set is gathered (R152). -/
def Thread.gathered (t : Thread) (resume : Nat) : Steer :=
  .on (({ t with frame := t.frame.map fun f => { f with resume := some resume } } : Thread).block .gather)

/-- RTE (R152). -/
def execRte (f : BareForm) (s : State) : Host.Outcome State Fault Refusal :=
  .next (s.steer (.rte f) fun _ _ t => t.gathered ((t.frame.map Frame.rpc).getD 0))

/-- RTE.PC: a resume point that is no multiple of 3 is ALIGN, while still pinned (R152). -/
def execRtePc (f : RegAForm) (s : State) : Host.Outcome State Fault Refusal :=
  .next (s.steer (.rtePc f) fun _ l t => if l.a % 3 ≠ 0 then .trap .align l.a else t.gathered (l.a % 2 ^ 24))

/-- Every thread of a pinned group has executed RTE or EXIT (R152). -/
def State.isGathered (s : State) (p : PinSet) : Bool :=
  p.members.all fun m => (p.exited.any fun x => x.2 == m.2) ||
    (s.thread? m.2).any fun t => t.wait == .gather && (t.frame.bind Frame.resume).isSome

/-- An entry that RTE dispatches or executes again: HELD when the queue froze, or placed unperformed (R152). -/
def Entry.heldBack (e : Entry) : Bool := e.state == .held && (e.stopped || e.unperformed)

/-- What is left to do for one thread of a released pin: the entries held back, in order, then its filing (R152). -/
def leftToDo (m : Nat × Nat) (t : Thread) (resume : Nat) : List Reinject :=
  (t.replay.filter Entry.heldBack).map (fun e => ⟨m.2, m.1, some e.id, resume⟩) ++ [⟨m.2, m.1, none, resume⟩]

/-- Entries in program order once RTE lets go of those held back: these come after the handler's own (R336). -/
def inOrder (es : List Entry) : List Entry := (es.filter fun e => !e.heldBack) ++ es.filter Entry.heldBack

/-- One thread leaves its pin: its floor restored, its DONE entries retired; of a thread that exited, the loads are discarded
(R106, R152). -/
def Thread.unpin (t : Thread) : Thread :=
  { t with
    floor := match t.frame with
      | some f => min f.hfloor t.loops.length
      | none => t.floor
    frame := none, frozen := false, place := .nowhere, wait := .ready, also := []
    replay := inOrder (t.replay.filter fun e =>
      e.state != .done && !(t.ended && (e.instr matches .ld _ || e.instr matches .ldAcq _))) }

/-- What a handler has issued that an entry held back must now follow, as it stands in program order after the handler (R336): an access
what fences put before it, a release everything, an operation its queue's (R103, R244, R340). -/
def State.afterHandler (s : State) (t : Thread) (tid : Nat) : State :=
  let back := t.replay.filter Entry.heldBack
  let mine (o : Nat) : Bool := back.any fun e => e.id == o || e.op == some o
  let ops := back.filterMap Entry.op
  let later (id : Nat) (op : Op) : Op :=
    if ops.contains id then { op with after := op.after ++ (s.mustFollow t tid op.queue).filter fun o => !mine o } else op
  let behind (e : Entry) : Entry :=
    if e.heldBack && (accessOf e.instr e.cap).isSome then
      { e with after := e.after ++ (s.mustPrecede t tid e.instr).filter fun o => !mine o } else e
  { s with ops := Map.mapAll s.ops later }.modThread tid fun t => { t with replay := t.replay.map behind }

/-- The pin is released (R152). -/
def State.releasePin (s : State) (g : Nat) (p : PinSet) : State :=
  let s := { s with pins := Map.del s.pins g }
  (p.members ++ p.exited).eraseDups.foldl (fun s m =>
    match s.thread? m.2 with
    | none => s
    | some t =>
      let resume := (t.frame.bind Frame.resume).getD 0
      let s := s.afterHandler t m.2
      let t := ((s.thread? m.2).getD t).unpin
      let s := s.modThread m.2 fun _ => t
      { s with reinject := s.reinject ++ leftToDo m t resume }) s

/-- Every pinned group that has gathered is released (R152). -/
def State.releaseGathered (s : State) : State :=
  (s.pins.filter fun x => s.isGathered x.2).foldl (fun s x => s.releasePin x.1 x.2) s

/-! ## Re-injection (R152, R423) -/

/-- Whether an entry is executed again rather than dispatched: one placed unperformed, one whose check had parked, and one whose
operands a handler has replaced since its checks (R149, R152, R423). -/
def State.reexecutes (s : State) (e : Entry) : Bool :=
  e.unperformed || e.state == .fault ||
    (match e.instr with
      | .launch _ | .ftabld _ => true
      | _ => false) ||
    (match e.op.bind fun id => Map.get? s.ops id with
      | some op => op.args != e.cap.words
      | none => false)

/-- The items of one issue at the head of the list: each with its thread and its entry. -/
def State.reinjectBatch (s : State) (no : Nat) : List (Reinject × Entry) :=
  s.reinject.filterMap fun r => do
    let id ← r.entry
    let t ← s.thread? r.tid
    let e ← t.entry? id
    if e.issueNo = no then some (r, e) else none

/-- The entries of a thread with those added since moved to where entry k stood. -/
def Thread.placeNew (t : Thread) (k old : Nat) : Thread :=
  { t with replay := t.replay.take k ++ t.replay.drop old ++ (t.replay.take old).drop k }

/-- The threads that raised a condition at their re-injection: those still running take the trap at their own resume points and
keep their later entries; of one that has exited it is fatal (R152). -/
def State.reinjectTrap (s : State) (batch : List (Reinject × Entry)) (r : Raised) (raisers : List Nat) : State :=
  let who := batch.filter fun x => raisers.contains x.1.tid
  let ended := who.filter fun x => ((s.thread? x.1.tid).map Thread.ended).getD true
  let live := who.filter fun x => !(((s.thread? x.1.tid).map Thread.ended).getD true)
  let s := { s with reinject := s.reinject.filter fun i => !(raisers.contains i.tid) }
  let s := ended.foldl (fun s x =>
    match s.thread? x.1.tid with
    | some t => s.fatal t.ctx { fatalInfo t r.cause r.pc x.1.resume r.stamp r.mask (r.infoOf x.1.slot) r.dst with
        trapped := [(x.1.tid, r.infoOf x.1.slot)], pc := r.pc }
    | none => s) s
  match live with
  | [] => s
  | x :: _ =>
    match s.thread? x.1.tid with
    | none => s
    | some t =>
      let mask := r.mask &&& live.foldl (fun m y => m ||| slotBit y.1.slot) (0 : BitVec 32)
      s.takeTrap t.ctx t.tile t.part (live.map fun y => (y.1.slot, y.1.tid)) { r with mask := mask }
        fun tid => ((live.find? fun y => y.1.tid == tid).map fun y => y.1.resume).getD 0

/-- Where a re-executed instruction sent its thread, if anywhere, its resume point follows. -/
def Leaving.pcOf : Leaving → Option Nat
  | .goto pc => some pc
  | .reform pc _ => some pc
  | _ => none

/-- One batch executed again with its captured operands (R152). -/
def State.reexecute (s : State) (run : Instr → State → State) (batch : List (Reinject × Entry)) (e : Entry) : State :=
  match batch.head?.bind fun x => s.thread? x.1.tid with
  | none => s
  | some t =>
    let s := batch.foldl (fun s x => match x.2.op with
      | some id => s.withdrawOp id
      | none => s) s
    let at' (u : Thread) (id : Nat) : Nat := (u.replay.findIdx? fun e => e.id == id).getD 0
    let spots := batch.map fun x => (x.1.tid, ((s.thread? x.1.tid).map fun u => (at' u x.2.id, u.replay.length - 1)).getD (0, 0))
    let s := batch.foldl (fun s x => s.modThread x.1.tid fun u =>
      { u with replay := u.replay.filter (fun y => y.id != x.2.id), wait := .ready }) s
    let item : ChainItem := { instr := e.instr, pc := e.pc, stamp := e.stamp }
    let iss : Issue := { ctx := t.ctx, tile := t.tile, part := t.part, slots := batch.map fun x => (x.1.slot, x.1.tid), cur := item
                         first := e.pc, rpc := (batch.head?.map fun x => x.1.resume).getD 0
                         captured := some (batch.map fun x => (x.1.tid, x.2.cap)) }
    let s := run e.instr { s with issue := some iss }
    let s := spots.foldl (fun s x => s.modThread x.1 fun u => u.placeNew x.2.1 x.2.2) s
    match s.issue with
    | none => s
    | some iss =>
      let s := { s with
        issue := none
        reinject := s.reinject.map fun i =>
          match (Map.get? iss.leaving i.tid).bind Leaving.pcOf with
          | some pc => { i with resume := pc }
          | none => i }
      match iss.raised with
      | none => s
      | some r =>
        s.reinjectTrap batch r ((batch.filter fun x => r.mask.getLsbD x.1.slot ||
          (((s.thread? x.1.tid).map fun u => u.replay.any fun y => y.unperformed && y.pc == e.pc)).getD false).map fun x => x.1.tid)

/-- A batch of HELD accesses checked at their dispatch (R152). -/
def State.recheckBatch (s : State) (batch : List (Reinject × Entry)) (e : Entry) : State :=
  let r := batch.foldl (fun (acc : Verdicts × State) x =>
    match acc.2.thread? x.1.tid, accessOf x.2.instr x.2.cap with
    | some t, some a =>
      match acc.2.check t a with
      | (.ok r, s) =>
        let s := (s.beforeAccess x.1.tid x.2.instr).modThread x.1.tid fun t =>
          t.modEntry x.2.id fun y => { y with region := r.region }
        (acc.1 ++ [(x.1.tid, x.1.slot, .idle)], s)
      | (.trapped c info, s) => (acc.1 ++ [(x.1.tid, x.1.slot, .trapped c (BitVec.ofNat 64 info) x.2.cap {})], s)
      | (.parked f, s) =>
        (acc.1, s.modThread x.1.tid fun t =>
          { t.modEntry x.2.id fun y => { y with state := .fault, fault := some f, checked := false } with wait := .fault })
      | (.halted, s) => (acc.1, s.haltUntrapped t)
    | _, _ => acc) ([], s)
  let s := r.2
  match lowestCause r.1 with
  | none => s
  | some c =>
    let raised : Raised := { cause := c, pc := e.pc, stamp := e.stamp, mask := causeMask r.1 c, dst := e.dst, infos := causeInfos r.1 c }
    let raisers := (r.1.filter fun v => v.2.2.cause.isSome).map fun v => v.1
    let s := batch.foldl (fun s x =>
      match (verdictOf r.1 x.1.tid).bind fun v => v.2.cause with
      | none => s
      | some c' =>
        if c' = c then s.modThread x.1.tid fun t =>
          ({ t with replay := t.replay.filter fun y => y.id != x.2.id } : Thread).markDest x.2.dst .trapEmpty
        else s.modThread x.1.tid fun t => t.modEntry x.2.id fun y => { y with unperformed := true }) s
    let s := match batch.head?.bind fun x => s.thread? x.1.tid with
      | some t => s.countMmx t.ctx r.1
      | none => s
    s.reinjectTrap batch raised raisers

/-- The first of what is left to do whose context runs: of a context that has stopped nothing issues (R153, R384). -/
def State.nextReinject (s : State) : Option Reinject :=
  s.reinject.find? fun r => (s.thread? r.tid).all fun t => (s.ctx? t.ctx).any fun c => c.phase == .running

/-- What is next for the threads of a released pin, or of a serviced page: one batch, or one filing (R152, R423). `run` executes
one instruction. -/
def State.reinjectStep (s : State) (run : Instr → State → State) : State :=
  match s.nextReinject with
  | none => s
  | some r =>
    match r.entry with
    | none =>
      let s := { s with reinject := s.reinject.erase r }
      match s.thread? r.tid with
      | some t => if t.ended then s else s.file r.tid r.resume t.key t.wait
      | none => s
    | some id =>
      match (s.thread? r.tid).bind fun t => t.entry? id with
      | none => { s with reinject := s.reinject.erase r }
      | some e =>
        let batch := s.reinjectBatch e.issueNo
        let s := { s with reinject := s.reinject.filter fun i => !(batch.any fun x => x.1 == i) }
        if s.reexecutes e then s.reexecute run batch e
        else if (accessOf e.instr e.cap).isSome then s.recheckBatch batch e
        else s

end Sys2Proof.Machine
end

