-- ==== Sys2Proof/Machine/Sync.lean ====
section
/-! DEFINITION. Fences, named barriers, asynchronous barriers, ring queues and convergence-register declarations
(spec/13_isa_caster_anvil.md R245, R255, spec/15_isa_witness_sync.md R290 to R300). -/
namespace Sys2Proof.Machine

/-! ## Fences (R245, R290) -/

/-- What a thread issued before a fence performs at its scope before anything it issues after: at FABRIC and SYSTEM scope other packages
have acknowledged it, at SYSTEM scope the host endpoints are flushed (R290, R339, R378). -/
def State.fence (s : State) (tid scope : Nat) : State :=
  let s := s.regionEnd tid (some scope)
  match s.thread? tid with
  | none => s
  | some t =>
    let far := decide (4 ≤ scope)
    let s := s.addFence tid { mask := 255, ids := if far then s.outstandingFar t tid else s.outstanding t tid, far := far }
    if scope = 5 then s.flushHost tid t.posted else s

/-- FENCE; the thread also takes the selected function-table banks (R135, R290). -/
def execFence (f : ScopeForm) (s : State) : Host.Outcome State Fault Refusal :=
  .next (s.eachLane (.fence f) fun _ _ l => modify fun s =>
    (s.fence l.tid f.p.toNat).modThread l.tid fun t => { t with ftActive := ((s.ctx? t.ctx).map Context.ftSel).getD 0 })

/-- QFENCE (R245). -/
def execQfence (f : QfenceForm) (s : State) : Host.Outcome State Fault Refusal :=
  .next (s.eachLane (.qfence f) fun _ _ l => modify fun s =>
    let before := s.ops.filter fun x => x.2.tid == l.tid && f.b.toNat / 2 ^ x.2.queue % 2 == 1 && !(l.th.holdsOp x.1)
    s.addFence l.tid { mask := f.a.toNat, ids := before.map fun x => x.1 })

/-- TFENCE: the thread's stores leave its lines, so that every later walk finds them (R290, R323). -/
def execTfence (f : ScopeForm) (s : State) : Host.Outcome State Fault Refusal :=
  .next (s.eachLane (.tfence f) fun _ _ l => modify fun s => (s.dispatchThread l.tid).drainThread l.tid)

/-! ## Named barriers (R291 to R293) -/

/-- A named barrier of a thread's cell, clear when unlisted. -/
def State.namedBar (s : State) (t : Thread) (n : Nat) : NamedBar :=
  ((Map.get? s.cells t.cell).map fun c => Map.getD c.bars n {}).getD {}

/-- The threads of a cell that have not exited (R292). -/
def State.expected (s : State) (cell : Nat) : Nat := (s.threads.filter fun x => x.2.cell == cell && !x.2.ended).length

/-- A barrier whose arrivals are all in completes its phase (R292). -/
def NamedBar.test (b : NamedBar) (expected : Nat) : NamedBar :=
  if b.arrivals ≥ expected ∧ b.arrivals ≠ 0 then { phase := b.phase + 1, arrivals := 0 } else b

/-- WID of thread 0 of a cell that has threads: that of any of them with F0 zero (R33, R407). -/
def State.cellWid0 (s : State) (cell : Nat) : BitVec 64 :=
  match s.threads.find? fun x => x.2.cell == cell with
  | some x =>
    let w := (s.stageOf x.2).widths.headD 0
    BitVec.ofNat 64 (x.2.wid.toNat / 2 ^ w * 2 ^ w)
  | none => 0

/-- The trace records of the phases that complete at the barriers of a cell (R407, R408). -/
def State.emitPhases (s : State) (cell : Nat) (c : Cell) : State :=
  (c.bars.filter fun b => b.2.test (s.expected cell) != b.2).foldl (fun s b =>
    s.emit 8 c.ctx c.tile 4 (s.cellWid0 cell)
      (toBytes 4 b.1 ++ toBytes 4 b.2.phase ++ toBytes 8 (s.cellWid0 cell).toNat)) s

/-- The barriers of a cell tested again (R292). -/
def State.testBars (s : State) (cell : Nat) : State :=
  match Map.get? s.cells cell with
  | none => s
  | some c =>
    (s.emitPhases cell c).modCell cell fun c => { c with bars := Map.mapAll c.bars fun _ b => b.test (s.expected cell) }

/-- An arrival counted at a named barrier (R292). -/
def State.countArrival (s : State) (cell n : Nat) : State :=
  (s.modCell cell fun c => { c with bars := Map.set c.bars n { Map.getD c.bars n {} with
    arrivals := (Map.getD c.bars n {}).arrivals + 1 } }).testBars cell

/-- An arrival of u units at an asynchronous barrier's control word (R296). -/
def lowered (v u : Nat) : Nat :=
  let count := v % 2 ^ 48
  let armed := v / 2 ^ 63 % 2
  let under := v / 2 ^ 62 % 2
  if armed = 0 then v % 2 ^ 62 + 2 ^ 62
  else if u > count then armed * 2 ^ 63 + 2 ^ 62
  else armed * 2 ^ 63 + under * 2 ^ 62 + (count - u)

/-- The words of a barrier at a physical address. -/
def State.barrierWord (s : State) (pa : Nat) : Nat := s.num (s.localPa pa) 8

/-- A write of a barrier's words: its waiters are woken (R296). -/
def State.writeBarrier (s : State) (tid pa n v : Nat) : State :=
  ((s.perform tid (bytesAt pa (toBytes n v))).resetTags (s.localPa pa) n).wake fun w => match w with
    | .abar _ => true
    | _ => false

/-- The trace record of a count that has reached zero since an older state, from the drain of the tile that holds the words (R407,
R408). -/
def State.emitZero (s old : State) (tid ctx index pa : Nat) : State :=
  if old.barrierWord pa % 2 ^ 48 = 0 ∨ s.barrierWord pa % 2 ^ 48 ≠ 0 then s
  else
    let tile := if regionOf (s.localPa pa) = .slice then (s.localPa pa - 0x8000000000) / 2 ^ 22 else 0
    s.emit 9 ctx tile 4 (((s.thread? tid).map Thread.wid).getD 0) (toBytes 4 index ++ toBytes 4 (s.num (s.localPa (pa + 8)) 4))

/-- An arrival performs at a barrier, named by its context and index and found at its physical address: its home's drain lowers the count
(R296). -/
def State.lowerBarrier (s : State) (tid ctx index pa u : Nat) : State :=
  (s.writeBarrier tid pa 8 (lowered (s.barrierWord pa) u)).emitZero s tid ctx index pa

/-- The phase of a named barrier of a cell (R292). -/
def State.barPhase (s : State) (cell n : Nat) : Nat := ((Map.get? s.cells cell).map fun c => (Map.getD c.bars n {}).phase).getD 0

/-- One of a thread's arrivals, once what it waits for has performed: at a named barrier it counts in the phase it finds, which is then the
thread's (R292, R293, R295). -/
def State.performArrival (s : State) (cell tid : Nat) (a : Arrival) : State :=
  match a.named with
  | some n => (s.modThread tid fun t => { t with arrived := Map.set t.arrived n (s.barPhase cell n) }).countArrival cell n
  | none => s.lowerBarrier tid (((s.thread? tid).map Thread.ctx).getD 0) a.index a.pa a.units

/-- The arrivals of a thread that wait for nothing more are made (R293, R295). -/
def State.settleArrivals (s : State) (tid : Nat) : State :=
  match s.thread? tid with
  | none => s
  | some t =>
    let due (a : Arrival) : Bool := !(a.after.any fun o => s.unfinished t o)
    let now := t.arriving.filter due
    if now.isEmpty then s
    else now.foldl (fun s a => s.performArrival t.cell tid a)
      (s.modThread tid fun t => { t with arriving := t.arriving.filter fun a => !due a })

/-- An arrival queued behind everything that the thread has issued, and made at once where nothing is outstanding. -/
def State.arriveAfter (s : State) (tid : Nat) (a : Arrival) : State :=
  match s.thread? tid with
  | none => s
  | some t =>
    (s.modThread tid fun t' => { t' with arriving := t'.arriving ++ [{ a with after := s.outstanding t tid }] }).settleArrivals tid

/-- The thread has arrived in a phase that has not completed: the current one, or the one that its pending arrival will find (R292). -/
def State.hasArrived (s : State) (t : Thread) (n : Nat) : Bool :=
  (t.arriving.any fun a => a.named == some n) || Map.get? t.arrived n == some (s.namedBar t n).phase

/-- What becomes of a thread at a word that may have to wait. -/
def State.leaveAs (s : State) (tid : Nat) (w : Leaving) : State :=
  { s with issue := s.issue.map fun iss => { iss with leaving := Map.set iss.leaving tid w } }

/-- An arrival at a named barrier, with its region end (R291 to R293, R328). -/
def State.barArrive (s : State) (tid n : Nat) : State :=
  let s := s.regionEnd tid (some 1)
  match s.thread? tid with
  | none => s
  | some t =>
    let phase := (s.namedBar t n).phase
    (s.modThread tid fun t => { t with arrived := Map.set t.arrived n phase }).arriveAfter tid { named := some n }

/-- BAR.ARRIVE (R292). -/
def execBarArrive (f : BarForm) (s : State) : Host.Outcome State Fault Refusal :=
  .next (s.eachLane (.barArrive f) fun _ _ l => modify fun s =>
    let n := f.n.toNat
    if s.hasArrived l.th n then s.leaveAs l.tid (.again (.bar n (s.namedBar l.th n).phase)) else s.barArrive l.tid n)

/-- BAR.WAIT: a thread that has never arrived traps with ILLEG; alone it ends the region (R292, R328). -/
def execBarWait (f : BarForm) (s : State) : Host.Outcome State Fault Refusal :=
  .next (s.eachLane (.barWait f) fun _ _ l => do
    let n := f.n.toNat
    Work.legal ((Map.get? l.th.arrived n).isSome || l.th.arriving.any fun a => a.named == some n)
    modify fun s =>
      if s.hasArrived l.th n then s.leaveAs l.tid (.again (.bar n (s.namedBar l.th n).phase)) else s.regionEnd l.tid none)

/-- A thread of the issuing group waits on past its chain: it files under the instruction that holds it (R48). -/
def State.holdAt (s : State) (tid pc : Nat) (w : Wake) : State := s.modThread tid fun t => { t.block w with next := some pc }

/-- BAR.SYNC: the arrival, then the wait, after which the thread goes on at the next word (R48, R292, R328). -/
def execBarSync (f : BarForm) (s : State) : Host.Outcome State Fault Refusal :=
  .next (s.eachLane (.barSync f) fun iss _ l => modify fun s =>
    let n := f.n.toNat
    let phase := (s.namedBar l.th n).phase
    if s.hasArrived l.th n then s.leaveAs l.tid (.again (.bar n phase))
    else
      let s := s.barArrive l.tid n
      if ((s.thread? l.tid).map fun t => s.hasArrived t n).getD false then s.holdAt l.tid iss.cur.pc (.bar n phase) else s)

/-! ## Asynchronous barriers (R294 to R296) -/

/-- The barrier that a word names, checked, with the physical address of its words (R238, R295). -/
def barrierOf (l : Lane) (idx rights : Nat) (kind : AccKind) : Work Nat := do
  let o ← checkEntry l.th.tile l.th.ctx idx [.barrier] rights
  checkFootprint l.th.cell o 0 16
  let r ← l.reachObj o 0 kind
  pure r.1

/-- ABAR.INIT (R295). -/
def execAbarInit (f : AbarForm) (s : State) : Host.Outcome State Fault Refusal :=
  .next (s.eachLane (.abarInit f) fun _ _ l => do
    let pa ← barrierOf l f.o.toNat rightW .write
    modify fun s => (s.drainThread l.tid).writeBarrier l.tid pa 16 (2 ^ 63 + l.a))

/-- ABAR.ARRIVE (R295, R328). -/
def execAbarArrive (f : AbarForm) (s : State) : Host.Outcome State Fault Refusal :=
  .next (s.eachLane (.abarArrive f) fun _ _ l => do
    let pa ← barrierOf l f.o.toNat rightW .write
    modify fun s => (s.regionEnd l.tid (some 3)).arriveAfter l.tid { pa := pa, index := f.o.toNat, units := l.a })

/-- ARMED = 1 and COUNT = 0 (R295). -/
def barrierDone (v : Nat) : Bool := v / 2 ^ 63 % 2 == 1 && v % 2 ^ 48 == 0

/-- The control word of a barrier as a thread reads it. -/
def readBarrier (l : Lane) (pa n : Nat) : Work Nat := fun s =>
  if s.eccAt (s.localPa pa) n then .error (.ecc (s.localPa pa))
  else
    let r := s.readAt l.th l.tid 0 (s.localPa pa) n
    .ok (ofBytes r.1, r.2)

/-- ABAR.WAIT: the status word, once the count is zero; until then the thread waits at this word (R295, R296). -/
def execAbarWait (f : AbarForm) (s : State) : Host.Outcome State Fault Refusal :=
  .next (s.eachLane (.abarWait f) fun _ _ l => do
    let pa ← barrierOf l f.o.toNat rightR .read
    let v ← readBarrier l pa 16
    if barrierDone (v % 2 ^ 64) then
      modify fun s => (s.modThread l.tid fun t =>
        t.writeDest (vDest f.r) [BitVec.ofNat 32 (v / 2 ^ 64)] .full).regionEnd l.tid none
    else modify fun s => s.leaveAs l.tid (.again (.abar f.o.toNat)))

/-- ABAR.TEST (R295). -/
def execAbarTest (f : AbarForm) (s : State) : Host.Outcome State Fault Refusal :=
  .next (s.eachLane (.abarTest f) fun _ _ l => do
    let pa ← barrierOf l f.o.toNat rightR .read
    let v ← readBarrier l pa 8
    modify fun s =>
      let s := s.modThread l.tid fun t => t.writeDest (vDest f.r) [if barrierDone v then 1 else 0] .full
      if barrierDone v then s.regionEnd l.tid none else s)

/-- A cell of a saved context, with its image (R153). -/
def State.savedCell (s : State) (cell : Nat) : Option (Image × Cell) :=
  s.images.findSome? fun x => (Map.get? x.2.cells cell).map fun c => (x.2, c)

/-- A cell, resident or saved. -/
def State.anyCell (s : State) (cell : Nat) : Option Cell :=
  match Map.get? s.cells cell with
  | some c => some c
  | none => (s.savedCell cell).map Prod.snd

/-- Whether a cell's allocation is out with its context (R157). -/
def State.isOut (s : State) (cell : Nat) : Bool :=
  (Map.get? s.cells cell).isNone && (s.savedCell cell).any fun x => !x.1.keep

/-- What is held on the home tile for a cell whose allocation is out, appended in arrival order; none where the queue of 512 has no
room (R157). -/
def State.hold (s : State) (cell : Nat) (es : List Deferral) : Option State :=
  let tile := ((s.anyCell cell).map Cell.tile).getD 0
  let t := s.tile tile
  if t.deferrals.length + es.length > 512 then none
  else some (s.setTile tile { t with deferrals := t.deferrals ++ es })

/-- A barrier update held for a cell: one that finds the queue full stands behind it in the mesh (R157). -/
def State.holdUpdate (s : State) (cell : Nat) (e : Deferral) : State :=
  let tile := ((s.anyCell cell).map Cell.tile).getD 0
  let t := s.tile tile
  s.setTile tile { t with deferrals := t.deferrals ++ [e] }

/-- The machine as a saved context would find its object table: its registers stand in its old slot, for which nothing is cached
(R154). -/
def State.withSaved (s : State) (cell : Nat) : State :=
  match s.savedCell cell with
  | some (x, _) => { (s.tlbinv 1 0 x.ctx).dropCached x.ctx none with ctxs := Map.set s.ctxs x.ctx x.context }
  | none => s

/-- A barrier as an arrival finds it through the object table of a cell's context: its entry, and where its words lie (R296). -/
def findBarrier (ctx cell index : Nat) : Work (Obj × Nat) := do
  let s ← get
  let tile := ((s.anyCell cell).map Cell.tile).getD 0
  let o ← checkEntry tile ctx index [.barrier] 0
  let op : Op := { tid := 0, ctx := ctx, cell := cell, tile := tile, queue := 7, instr := .faultRecordPost
                   privileged := s.privileged ctx }
  let pa ← op.reach o 0 .write
  pure (o, pa)

/-- ABAR_ARRIVAL_PERFORM: an arrival of units at a barrier of a context, as seen from a cell (R296). One for an allocation that is out with
its context waits on the cell's home tile; a kept one, and one outside every cell, is lowered at once (R157). -/
def execAbarArrivalPerform (ctx cell index units : Nat) (s : State) : Host.Outcome State Fault Refusal :=
  .next (
    if (Map.get? s.cells cell).isSome then
      match findBarrier ctx cell index s with
      | .ok (r, s) => s.lowerBarrier 0 ctx index r.2 units
      | .error _ => s
    else
      match findBarrier ctx cell index (s.withSaved cell) with
      | .ok (r, _) =>
        if r.1.scope = 1 ∧ s.isOut cell then
          s.holdUpdate cell
            { ctx := ((s.anyCell cell).map Cell.ctx).getD ctx, cell := cell, index := index, arrival := some (Obj.base r.1, units, 0) }
        else s.lowerBarrier 0 ctx index r.2 units
      | .error _ => s)

/-! ## Ring queues (R297 to R300) -/

/-- The ring-queue object bound to a thread's descriptor (R32). -/
def State.boundRing (s : State) (t : Thread) (q : Nat) : Nat :=
  (((Map.get? s.cells t.cell).bind fun c => Map.get? c.qbind q)).getD 0xFFFF

/-- The counters of a queue in a launch, as allocated (R297). -/
def State.ring (s : State) (launch obj : Nat) : Ring :=
  (s.rings.find? fun r => r.launch == launch && r.obj == obj).getD { launch := launch, obj := obj, host := 0 }

/-- The counters replaced. -/
def State.setRing (s : State) (r : Ring) : State :=
  if s.rings.any fun x => x.launch == r.launch && x.obj == r.obj then
    { s with rings := s.rings.map fun x => if x.launch == r.launch && x.obj == r.obj then r else x }
  else { s with rings := s.rings ++ [r] }

/-- SLOTS and the words of a record (R236, R297). -/
def Obj.slots (o : Obj) : Nat := o.field 0x10 4
def Obj.recordWords (o : Obj) : Nat := o.field 0x14 2 / 4

/-- The queue that a word names, checked (R238, R297, R298). -/
def ringOf (l : Lane) (q rights : Nat) : Work Obj := do
  let s ← get
  checkEntry l.th.tile l.th.ctx (s.boundRing l.th q) [.ringq] rights

/-- A run of v registers that a record needs is declared (R32, R298). -/
def declared (l : Lane) (first n : Nat) : Work Unit :=
  if first + n ≤ l.th.vregs then pure ()
  else Work.stop (.trap .illeg (2 ^ 16 + max first l.th.vregs))

/-- Where the slot of a position lies (R297). -/
def slotPa (l : Lane) (o : Obj) (pos : Nat) (kind : AccKind) : Work Nat := do
  let off := pos % o.slots * (4 * o.recordWords)
  checkFootprint l.th.cell o off (4 * o.recordWords)
  let r ← l.reachObj o off kind
  pure r.1

/-- The condition of a source register of a record (R50, R144). -/
def needFull (l : Lane) (srcs : List Src) : Work Unit :=
  match emptyCause srcs (l.th.capture srcs) with
  | some info => Work.stop (.trap .empty info.toNat)
  | none => pure ()

/-- QPUSH: a position reserved for the record, which is written and committed later (R299, R300). -/
def execQpush (f : QpushForm) (s : State) : Host.Outcome State Fault Refusal :=
  .next (s.eachLane (.qpush f) fun _ _ l => do
    let o ← ringOf l f.q.toNat rightW
    let n := o.recordWords
    declared l f.a.toNat n
    let src := vRun 0 f.a n false false
    needFull l [src]
    let s ← get
    let r := s.ring l.th.launch o.1
    Work.need (!r.closed) (.trap .rights (o.1 + 2 ^ 17))
    if r.tail - r.freed ≥ o.slots then modify fun s => s.leaveAs l.tid (.again (.ringRoom o.1))
    else
      let pa ← slotPa l o r.tail .write
      modify fun s =>
        let s := s.regionEnd l.tid (some 3)
        let after := ((s.thread? l.tid).map fun t => s.outstanding t l.tid ++ s.fencedBy t 7).getD []
        s.setRing { r with
          tail := r.tail + 1
          times := if r.head ≤ r.tail then Map.set r.times r.tail s.cycle else r.times
          inflight := r.inflight ++ [{ pos := r.tail, pa := pa, words := (l.th.read src).map Prod.fst, tid := l.tid, after := after }] })

/-- DONE passes every position committed without a gap (R299). -/
def Ring.advance (r : Ring) : Nat → Ring
  | 0 => r
  | n + 1 =>
    if r.committed.contains r.done then
      Ring.advance { r with done := r.done + 1, committed := r.committed.filter (· != r.done) } n
    else r

/-- QPUSH_COMMIT: a record in its slot, once what its pusher issued earlier has performed; `queue` counts the machine's rings
(R299, R300). -/
def execQpushCommit (queue pos : Nat) (s : State) : Host.Outcome State Fault Refusal :=
  .next (match s.rings[queue]? with
    | none => s
    | some r =>
      match r.inflight.find? fun p => p.pos == pos with
      | none => s
      | some p =>
        if (match s.thread? p.tid with
            | some t => p.after.any fun o => s.unfinished t o
            | none => false) then s
        else
          let bs := p.words.flatMap fun w => toBytes 4 w.toNat
          let s := (s.perform p.tid (bytesAt p.pa bs)).resetTags (s.localPa p.pa) bs.length
          s.setRing ({ r with inflight := r.inflight.filter (fun x => x.pos != pos), committed := pos :: r.committed }.advance
            (r.committed.length + 1)))

/-- QPOP: a position reserved; the record comes with the reply, which the thread's later accesses and operations follow (R299, R300,
R340). -/
def execQpop (f : QgetForm) (s : State) : Host.Outcome State Fault Refusal :=
  .next (s.eachLane (.qpop f) fun iss no l => do
    let o ← ringOf l f.q.toNat rightR
    let n := o.recordWords
    declared l f.d.toNat n
    let s ← get
    let r := s.ring l.th.launch o.1
    let pa ← slotPa l o r.head .read
    modify fun s =>
      let e := { iss.entryFor (.qpop f) (vDests f.d n) (slotBit l.slot) no l with
        reply := some (numWords (r.head + pa * 2 ^ 64 + o.1 * 2 ^ 128) 5) }
      let s := (s.addEntry l.tid e).setRing { r with head := r.head + 1, times := Map.del r.times r.head }
      s.addFence l.tid { mask := 255, ids := [s.nextId - 1] })

/-- QPOP_REPLY: the record, or the end marker of a closed queue (R299, R328). -/
def execQpopReply (tid entry : Nat) (s : State) : Host.Outcome State Fault Refusal :=
  .next (match s.thread? tid, (s.thread? tid).bind fun t => t.entry? entry with
    | some t, some e =>
      match e.instr with
      | .qpop _ =>
        if e.state ≠ .flight then s
        else
          let w := wordsNum (e.reply.getD [])
          let k := w % 2 ^ 64
          let pa := w / 2 ^ 64 % 2 ^ 64
          let r := s.ring t.launch (w / 2 ^ 128)
          if k < r.done then
            if k ≠ r.freed then s
            else
              let b := s.readAt t tid 0 (s.localPa pa) (4 * e.dst.count)
              (((b.2.setRing { r with freed := r.freed + 1 }).completeEntry tid entry (numWords (ofBytes b.1) e.dst.count)).regionEnd
                tid none)
          else if r.closed && r.done == r.tail && decide (r.tail ≤ k) then
            (s.completeEntry tid entry (List.replicate e.dst.count 0xFFFFFFFF)).regionEnd tid none
          else s
      | _ => s
    | _, _ => s)

/-- The word of QCOUNT (R298). -/
def Ring.counts (r : Ring) : Nat :=
  (if r.closed then 2 ^ 31 else 0) + min (r.head - r.done) 0x3FFF * 2 ^ 17 + (r.done - r.head) % 2 ^ 17

/-- QCOUNT (R298). -/
def execQcount (f : QgetForm) (s : State) : Host.Outcome State Fault Refusal :=
  .next (s.eachLane (.qcount f) fun _ _ l => do
    let o ← ringOf l f.q.toNat 0
    modify fun s => s.modThread l.tid fun t =>
      t.writeDest (vDest f.d) [BitVec.ofNat 32 (s.ring t.launch o.1).counts] .full)

/-- A push of a thread, on whatever queue, that has not committed (R298). -/
def State.pushing (s : State) (tid : Nat) : Bool := s.rings.any fun r => r.inflight.any fun p => p.tid == tid

/-- QCLOSE: closed once the thread's earlier pushes have committed (R298). -/
def execQclose (f : QcloseForm) (s : State) : Host.Outcome State Fault Refusal :=
  .next (s.eachLane (.qclose f) fun _ _ l => do
    let o ← ringOf l f.q.toNat rightW
    modify fun s =>
      let r := s.ring l.th.launch o.1
      if s.pushing l.tid then s.leaveAs l.tid (.again .earlier) else s.setRing { r with closed := true })

/-! ## Convergence registers (R255) -/

/-- A convergence register of a thread's cell, clear when unlisted. -/
def State.cvOf (s : State) (t : Thread) (n : Nat) : Cv :=
  ((Map.get? s.cells t.cell).map fun c => Map.getD c.cvs n {}).getD {}

/-- A convergence register of a cell replaced. -/
def State.setCv (s : State) (cell n : Nat) (v : Cv) : State := s.modCell cell fun c => { c with cvs := Map.set c.cvs n v }

/-- CVDECL (R255). -/
def execCvdecl (f : CvdeclForm) (s : State) : Host.Outcome State Fault Refusal :=
  .next (s.eachLane (.cvdecl f) fun _ _ l => do
    let s ← get
    let v := s.cvOf l.th f.n.toNat
    let count := f.k.toNat + 1
    if v.count = count then pure ()
    else
      Work.legal v.opens.isEmpty
      modify fun s => s.setCv l.th.cell f.n.toNat { v with count := count })

end Sys2Proof.Machine
end

