-- ==== Sys2Proof/Machine/WitMath.lean ====
section
/-! DEFINITION. Windows, reductions and the adjoint (spec/15_isa_witness_sync.md R273 to R285), on element bits. -/
namespace Sys2Proof.Machine

/-- A window descriptor (R273). `mode` 0 is WINDOW, 1 ROW, 2 COL; `tie` 0 is FIRST, 1 LAST, 2 SPLIT. -/
structure Window where
  mode : Nat
  tie : Nat
  sw : Nat
  sh : Nat
  ww : Nat
  wh : Nat
  deriving DecidableEq, Repr

/-- The descriptor a register holds; none where R273 says ILLEG. -/
def Window.ofWord (x : Nat) : Option Window :=
  let d : Window := ⟨x / 2 ^ 18 % 4, x / 2 ^ 16 % 4, x / 2 ^ 12 % 16, x / 2 ^ 8 % 16, x / 16 % 16, x % 16⟩
  let four := [d.sw, d.sh, d.ww, d.wh]
  if x / 2 ^ 20 != 0 || d.mode == 3 || d.tie == 3 then none
  else if d.mode == 0 then (if four.all (· ≥ 1) then some d else none)
  else if four.all (· == 0) then some d else none

/-- The result's shape for a source of `r` rows and `c` columns (R273); none when the source is narrower than the window. -/
def Window.shape (d : Window) (r c : Nat) : Option (Nat × Nat) :=
  match d.mode with
  | 0 => if r < d.wh || c < d.ww then none else some ((r - d.wh) / d.sh + 1, (c - d.ww) / d.sw + 1)
  | 1 => some (r, 1)
  | _ => some (1, c)

/-- How many contributors an element has. -/
def Window.count (d : Window) (r c : Nat) : Nat :=
  match d.mode with
  | 0 => d.wh * d.ww
  | 1 => c
  | _ => r

/-- Contributor `k` of result element (i, j). -/
def Window.contributor (d : Window) (i j k : Nat) : Nat × Nat :=
  match d.mode with
  | 0 => (d.sh * i + k / d.ww, d.sw * j + k % d.ww)
  | 1 => (i, k)
  | _ => (k, j)

/-- Key of R275: -0 below +0, a NaN above every number. -/
def elemKey (f : ConvFmt) (x : Nat) : Int :=
  match f, f.read x with
  | .flt _, .nan .. => 2 ^ 80
  | .flt F, _ => F.key (x % 2 ^ F.width)
  | .int .., .fin n m _ => if n then -(m : Int) else m
  | .int .., _ => 0

/-- An element with a NaN quieted. -/
def quietElem (f : ConvFmt) (x : Nat) : Nat :=
  match f, f.read x with
  | .flt F, .nan _ b => if F.inf then F.quiet b else b
  | _, _ => x % 2 ^ f.width

def isNaNElem (f : ConvFmt) (x : Nat) : Bool := match f.read x with | .nan .. => true | _ => false

/-- The outcome of a max, min or median: the result's bits, the tied contributors T and the chosen index (R275). -/
structure Chosen where
  bits : Nat
  tied : List Nat
  idx : Nat
  deriving DecidableEq, Repr

/-- RMAX.W and RMIN.W on the contributors in index order (R275). -/
def reduceExtreme (f : ConvFmt) (isMax : Bool) (tie : Nat) (cs : List Nat) : Chosen :=
  let idx := List.range cs.length
  match idx.find? (fun j => isNaNElem f (cs.getD j 0)) with
  | some j => ⟨quietElem f (cs.getD j 0), [j], j⟩
  | none =>
    let keys := cs.map (elemKey f)
    let m := keys.foldl (fun a k => if isMax then max a k else min a k) (keys.headD 0)
    let t := idx.filter fun j => keys.getD j 0 == m
    let j := if tie == 1 then t.getLastD 0 else t.headD 0
    ⟨quietElem f (cs.getD j 0), t, j⟩

/-- Insert a pair in increasing order of key, then index. -/
def insertPair (p : Int × Nat) : List (Int × Nat) → List (Int × Nat)
  | [] => [p]
  | q :: rest => if p.1 < q.1 || (p.1 == q.1 && p.2 < q.2) then p :: q :: rest else q :: insertPair p rest

/-- RMED.W (R275). -/
def reduceMedian (f : ConvFmt) (cs : List Nat) : Chosen :=
  let ps := (List.range cs.length).foldl (fun acc j => insertPair (elemKey f (cs.getD j 0), j) acc) []
  let j := (ps.getD ((cs.length - 1) / 2) (0, 0)).2
  ⟨quietElem f (cs.getD j 0), [j], j⟩

/-- A bound register's value: FP32 for floating formats, a signed integer for S32 (R274). -/
def boundVal (f : ConvFmt) (b : Nat) : FVal :=
  match f with
  | .flt _ => Fmt.fp32.val b
  | .int .. => (ConvFmt.int 32 true).read b

/-- The bounds are legal: no NaN and lo at most hi (R274). -/
def boundsOk (f : ConvFmt) (lo hi : Nat) : Bool :=
  match FVal.compare (boundVal f lo) (boundVal f hi) with
  | some o => o != .gt
  | none => false

/-- RCLAMP.W on one element: result and code (R276). -/
def clampElem (f : ConvFmt) (lo hi x : Nat) : Nat × Nat :=
  let v := f.read x
  match v with
  | .nan .. => (quietElem f x, 3)
  | _ =>
    if FVal.compare v (boundVal f lo) == some .lt then (outRound .fp32 (boundVal f lo) f, 1)
    else if FVal.compare v (boundVal f hi) == some .gt then (outRound .fp32 (boundVal f hi) f, 2)
    else (x % 2 ^ f.width, 0)

/-- RSSUM.W over the contributors: result and sat (R276). -/
def saturatingSum (f : ConvFmt) (lo hi : Nat) (cs : List Nat) : Nat × Bool :=
  let ts := cs.map f.read
  let F := match f with | .flt F => F | .int .. => Fmt.fp64
  match ts.findSome? (fun t => match t with | .nan _ b => some b | _ => none) with
  | some b => (match f with | .flt F => (if F.inf then F.quiet b else b) | .int .. => 0, true)
  | none =>
    let pinf := ts.any (fun t => t == .inf false)
    let ninf := ts.any (fun t => t == .inf true)
    if pinf && ninf then (F.nan, true)
    else
      let s : FVal :=
        if pinf then .inf false
        else if ninf then .inf true
        else
          let r : Bool × Nat × Int := ts.foldl (fun acc t => match t with
            | .fin n m e => sumExact acc.1 acc.2.1 acc.2.2 n m e
            | _ => acc) (false, 0, 0)
          .fin (if r.2.1 == 0 then ts.all (fun t => t.isNeg) else r.1) r.2.1 r.2.2
      if FVal.compare s (boundVal f lo) == some .lt then (outRound .fp32 (boundVal f lo) f, true)
      else if FVal.compare s (boundVal f hi) == some .gt then (outRound .fp32 (boundVal f hi) f, true)
      else (outRound F s f, false)

/-- The mask of a list of indices, as SPLIT stores it (R275). -/
def maskOf (js : List Nat) : Nat := js.foldl (fun a j => a + 2 ^ j) 0

/-- The number of one bits of a 16-bit mask. -/
def maskCount (w : Nat) : Nat := ((List.range 16).filter fun j => w / 2 ^ j % 2 == 1).length

/-- What ADJB adds for one result element (R282): (contributor index, addend) pairs in order, for the input gradient. -/
def adjbRoutes (form : Nat) (d : Window) (count g w : Nat) : List (Nat × Nat) :=
  match form with
  | 2 => if w == 0 || w == 3 then [(0, g)] else []
  | 3 => if w == 0 then (List.range count).map fun k => (k, g) else []
  | _ =>
    if d.tie == 2 then
      if w / 2 ^ count != 0 then []
      else
        let n := maskCount w
        if n == 0 then []
        else
          let q := fDiv g (fOfNat n)
          ((List.range 16).filter fun j => w / 2 ^ j % 2 == 1).map fun j => (j, q)
    else if w < count then [(w, g)] else []

/-- The witness word of a convergence-set form (R285). -/
def crWitness (mine : Bool) (n code idx : Nat) : Nat :=
  (if mine then 2 ^ 31 else 0) + n * 2 ^ 16 + code * 2 ^ 10 + idx

/-- RandMix of R139. -/
def randMix (x y : BitVec 32) : BitVec 32 :=
  let round (s : BitVec 32 × BitVec 32) (c : BitVec 32) : BitVec 32 × BitVec 32 :=
    let x := (s.1 + c) * 0xA3B19535#32
    let x := x ^^^ s.2.rotateLeft 13
    (x, s.2 + x.rotateLeft 7)
  let r := [0x51D30A97#32, 0x2E8F6C13#32, 0x9B47D5E1#32, 0x64A03B7F#32].foldl round (x, y)
  r.1 ^^^ r.2

end Sys2Proof.Machine
end

