-- ==== Sys2Proof/Machine/Caster.lean ====
section
/-! DEFINITION. The Caster and the weight buffer: CAST, CASTW and CASTTAB, and the steps in which they perform
(spec/13_isa_caster_anvil.md R247 to R254). -/
namespace Sys2Proof.Machine

/-- The kinds that can be copied (R243, R247). -/
def copyKinds : List ObjKind := [.buffer, .tensor, .tile]

/-- Work for each of n numbers, the results in order. -/
def eachOf {α : Type} (n : Nat) (w : Nat → Work α) : Work (List α) := (List.range n).mapM w

/-! ## CAST (R247 to R249) -/

/-- The element width that .T8 or .T16 requires; none for a plain CAST (R247). -/
def castWidth : Instr → Option Nat
  | .castT8 _ => some 8
  | .castT16 _ => some 16
  | _ => none

/-- At least two dimensions, as a transposing CAST's source needs unless it is a TILE (R247). -/
def Obj.transposable (o : Obj) : Bool := o.isKind .tile || (o.isKind .tensor && decide (1 ≤ o.ndim))

/-- The checks and the submission of a CAST (R238, R247). -/
def castWork (i : Instr) (f : CastForm) (iss : Issue) (no : Nat) (l : Lane) : Work Unit := do
  let va := if f.v = 0 then 0 else l.a
  Work.legal (va / 2 ^ 16 == 0)
  let src ← checkEntry l.th.tile l.th.ctx ((f.obj.getD 0).toNat) copyKinds (rightR + rightC)
  let dst ← checkEntry l.th.tile l.th.ctx f.o.toNat copyKinds (rightW + rightC)
  let bar ← if f.v = 0 then pure [] else do
    let b ← checkEntry l.th.tile l.th.ctx va [.barrier] rightW
    pure [b]
  let ns ← checkCount src
  let nd ← checkCount dst
  Work.within (ns == nd) dst.1
  checkFootprint l.th.cell src 0 src.span
  checkFootprint l.th.cell dst 0 dst.span
  bar.forM fun b => checkFootprint l.th.cell b 0 16
  match castWidth i with
  | none => pure ()
  | some w => Work.legal (src.bits == w && dst.bits == w && src.transposable)
  let _ ← submit iss i l no f.q.toNat (src :: dst :: bar) l.cap.words ((nd * dst.bits + 7) / 8)

/-- CAST (R247, R248). -/
def execCast (f : CastForm) (s : State) : Host.Outcome State Fault Refusal :=
  .next (s.eachLane (.cast f) (castWork (.cast f) f))

/-- CAST.T8 (R247, R248). -/
def execCastT8 (f : CastForm) (s : State) : Host.Outcome State Fault Refusal :=
  .next (s.eachLane (.castT8 f) (castWork (.castT8 f) f))

/-- CAST.T16 (R247, R248). -/
def execCastT16 (f : CastForm) (s : State) : Host.Outcome State Fault Refusal :=
  .next (s.eachLane (.castT16 f) (castWork (.castT16 f) f))

/-- Whether byte 0 of an object lies in another package (R249). -/
def Op.isRemote (op : Op) (o : Obj) (kind : AccKind) : Work Bool := do
  let pa ← op.reach o 0 kind
  pure (match regionOf pa with
    | .fabric .. => true
    | _ => false)

/-- The whole copy: every source element read, converted where the formats differ, and written (R248). -/
def Op.copy (op : Op) (src dst : Obj) (transposed : Bool) : Work Unit := do
  let n := (dst.count?).getD 0
  let xs ← eachOf n fun k => op.readElemAt src (src.elemBit transposed k) (src.position transposed k)
  let _ ← (xs.zipIdx).mapM fun x => op.writeElem dst x.2 (copyElem src.fmt dst.fmt x.1)

/-- The payload of a Caster operation's trace records: its objects, queue, form and bytes (R407). -/
def Op.casterRecord (op : Op) : List Byte :=
  let r : Nat × Nat × Nat := match op.instr, op.objs with
    | .cast _, src :: dst :: _ => (dst.1, src.1, 0)
    | .castT8 _, src :: dst :: _ => (dst.1, src.1, 1)
    | .castT16 _, src :: dst :: _ => (dst.1, src.1, 2)
    | .casttab _, src :: _ => (0, src.1, 4)
    | _, src :: _ => (0, src.1, 3)
    | _, [] => (0, 0, 3)
  toBytes 2 r.1 ++ toBytes 2 r.2.1 ++ toBytes 1 op.queue ++ toBytes 1 r.2.2 ++ [0, 0] ++ toBytes 4 op.bytes

/-- CASTEND: a Caster operation has performed, with what it wrote to the barrier's status (R407, R408). -/
def State.endCast (s : State) (op : Op) (status : Nat) : State := s.emitOp op 2 (op.casterRecord ++ toBytes 1 status)

/-- CASTER_COPY: the bytes are copied, into another package once the retry store has room for them (R365). What is still to come keeps the
operation in its queue: the arrival at its barrier, and the acknowledgement of what it has written in another package (R248, R249). -/
def execCasterCopy (id : Nat) (s : State) : Host.Outcome State Fault Refusal :=
  .next (s.withOp id fun op =>
    match op.instr, op.objs with
    | .cast _, src :: dst :: bar | .castT8 _, src :: dst :: bar | .castT16 _, src :: dst :: bar =>
      s.opWork id op do
        let far ← op.isRemote src .read
        let far' ← op.isRemote dst .write
        if far' && !s.fabric.retryRoom (min op.bytes (2 ^ 24)) then set s
        else do
        modify fun s => s.emitOp op 1 op.casterRecord
        let start ← get
        let before := (s.tile op.tile).errsticky
        modify fun s => s.setTile op.tile { s.tile op.tile with errsticky := 0 }
        op.copy src dst (castWidth op.instr).isSome
        modify fun s =>
          let bad : Word := (s.tile op.tile).errsticky
          let s := (s.setTile op.tile { s.tile op.tile with errsticky := (before ||| bad : Word) }).energy op.tile op.ctx 6 op.bytes
          let sent := requestsSince start s
          let op := { op with performed := true, progress := (if far || far' then 2 else 0) + (if bad &&& 9 = 0 then 0 else 1)
                              after := sent }
          let s := if sent.isEmpty then s.endCast op (if far then op.progress % 2 else 0) else s
          if bar.isEmpty && sent.isEmpty then s.dropOp id else { s with ops := Map.set s.ops id op }
    | _, _ => s)

/-- CAST_BARRIER_ARRIVAL: once what was written in another package is acknowledged, the barrier's count is lowered by the bytes that are
visible, and, for a copy between packages, its status word written (R249, R342). -/
def execCastBarrierArrival (id : Nat) (s : State) : Host.Outcome State Fault Refusal :=
  .next (match Map.get? s.ops id with
    | none => s
    | some op =>
      if s.awaitsFar op then s
      else
      let awaited := op.performed && !op.after.isEmpty && s.working op.ctx
      let s := if awaited then s.endCast op (op.progress % 2) else s
      let op := if awaited then { op with after := [] } else op
      match op.instr, op.objs with
      | .cast _, [_, _, bar] | .castT8 _, [_, _, bar] | .castT16 _, [_, _, bar] =>
        if !op.performed || op.fault.isSome || !s.working op.ctx then s
        else
          s.opWork id op do
            let pa ← op.reach bar 0 .write
            modify fun s =>
              let s := if op.progress / 2 = 1 then s.writeBarrier op.tid (pa + 8) 8 (op.progress % 2) else s
              (s.lowerBarrier op.tid op.ctx bar.1 pa op.bytes).dropOp id
      | .cast _, [_, _] | .castT8 _, [_, _] | .castT16 _, [_, _] =>
        if op.performed && op.fault.isNone && s.working op.ctx then s.dropOp id else s
      | _, _ => s)

/-! ## The weight buffer (R250 to R254) -/

/-- The Anvil state of a tile for a context: claimed where it is free, its accumulators zero and its slots empty (R250). -/
def State.claimAnvil (s : State) (tile ctx : Nat) : State :=
  let t := s.tile tile
  match t.anvil.owner with
  | none => s.setTile tile { t with anvil := { owner := some ctx } }
  | some _ => s

/-- Another context holds the Anvil state that a thread's words use, that of its home tile (R199, R250). -/
def State.anvilTaken (s : State) (t : Thread) : Bool :=
  match (s.tile (s.homeTile t)).anvil.owner with
  | some c => c != t.ctx
  | none => false

/-- A word that needs the Anvil state of its thread's home tile: while another context holds it, the thread waits at the word, and
otherwise the state is claimed, which stands whatever the checks then find (R250). -/
def State.anvilLanes (s : State) (i : Instr) (work : Issue → Nat → Lane → Work Unit) : State :=
  s.issued i fun iss =>
    let homes := ((iss.slots.filterMap fun x => s.thread? x.2).map s.homeTile).eraseDups
    (homes.foldl (fun s h => s.claimAnvil h iss.ctx) s).eachLane i fun iss no l => do
      let s ← get
      if s.anvilTaken l.th then modify fun s => s.leaveAs l.tid (.again .anvil) else work iss no l

/-- A weight slot of a tile, empty when unlisted. -/
def State.weightSlot (s : State) (tile n : Nat) : WeightSlot := Map.getD (s.tile tile).anvil.slots n {}

/-- A weight slot replaced. -/
def State.setWeightSlot (s : State) (tile n : Nat) (w : WeightSlot) : State :=
  let t := s.tile tile
  s.setTile tile { t with anvil := { t.anvil with slots := Map.set t.anvil.slots n w } }

/-- A slot written whole holds no element in error (R265). -/
def State.mendSlot (s : State) (tile n : Nat) : State :=
  let t := s.tile tile
  s.setTile tile { t with anvil := { t.anvil with wbad := t.anvil.wbad.filter fun x => x.1 != n } }

/-- The formats that a plain CASTW takes: E4M3, E5M2, F16, BF16 and the integers below 32 bits (R251). -/
def weightFormat (code : Nat) : Bool := (2 ≤ code && code ≤ 5) || (10 ≤ code && code ≤ 15)

/-- The stamp of a CB3 slot. -/
def stampCb3 : Nat := 16

/-- The fields of CASTW's register: the slot and the columns (R251). -/
def castwSlot (v : Nat) : Nat := v / 2 ^ 16 % 256
def castwCols (v : Nat) : Nat := v % 256

/-- The register of CASTW is legal (R251). -/
def castwLegal (v : Nat) : Bool :=
  v / 2 ^ 24 == 0 && v / 2 ^ 8 % 256 == 0 && castwSlot v < 32 && 1 ≤ castwCols v && castwCols v ≤ 128

/-- A slot of a thread's home tile stamped with the format that a CASTW gives it (R251). -/
def State.stampSlot (s : State) (t : Thread) (n code : Nat) : State :=
  s.setWeightSlot (s.homeTile t) n { s.weightSlot (s.homeTile t) n with fmt := some code }

/-- The checks, the stamp and the submission of a CASTW (R251). -/
def castwWork (i : Instr) (cb3 : Bool) (f : CastwForm) (iss : Issue) (no : Nat) (l : Lane) : Work Unit := do
  Work.legal (castwLegal l.a)
  let src ← checkEntry l.th.tile l.th.ctx ((f.obj.getD 0).toNat) (if cb3 then [.buffer] else copyKinds) (rightR + rightC)
  if cb3 then checkFootprint l.th.cell src 0 (48 * castwCols l.a)
  else
    let n ← checkCount src
    Work.within (n == castwCols l.a * 128) src.1
    checkFootprint l.th.cell src 0 src.span
    Work.legal (weightFormat src.fmtCode)
  let _ ← submit iss i l no f.q.toNat [src] l.cap.words (if cb3 then 48 * castwCols l.a else 16 * src.bits * castwCols l.a)
  modify fun s => s.stampSlot l.th (castwSlot l.a) (if cb3 then stampCb3 else src.fmtCode)

/-- CASTW (R251). -/
def execCastw (f : CastwForm) (s : State) : Host.Outcome State Fault Refusal :=
  .next (s.anvilLanes (.castw f) (castwWork (.castw f) false f))

/-- CASTW.CB3 (R251). -/
def execCastwCb3 (f : CastwForm) (s : State) : Host.Outcome State Fault Refusal :=
  .next (s.anvilLanes (.castwCb3 f) (castwWork (.castwCb3 f) true f))

/-- Words of 32 bits that are not zero, by number. -/
def sparseWords (v n : Nat) : Map Word := (numWords v n).zipIdx.filterMap fun x => if x.1 = 0 then none else some (x.2, x.1)

/-- Elements of a width packed from bit 0 up, as one number. -/
def packElems (bits : Nat) : List Nat → Nat
  | [] => 0
  | x :: xs => x % 2 ^ bits + 2 ^ bits * packElems bits xs

/-- The n bytes at an offset of an object as a number, read by its elements, of which one in error gives zeros (R265). -/
def Op.readRun (op : Op) (o : Obj) (off n : Nat) : Work Nat := do
  let first := off * 8 / o.bits
  let last := (off * 8 + n * 8 - 1) / o.bits
  let xs ← eachOf (last + 1 - first) fun k => op.readElem o (first + k)
  pure (packElems o.bits xs / 2 ^ (off * 8 - first * o.bits) % 2 ^ (8 * n))

/-- What a CASTW brings into its slot: the elements, or the CB3 stream (R251). -/
def Op.weightData (op : Op) (src : Obj) (cb3 : Bool) (cols : Nat) : Work (Map Word) :=
  if cb3 then do
    let v ← op.readRun src 0 (48 * cols)
    pure (sparseWords v (12 * cols))
  else do
    let cols' ← eachOf cols fun c => do
      let xs ← eachOf 128 fun k => op.readElem src (c * 128 + k)
      pure (packElems src.bits xs)
    pure (sparseWords (packElems (128 * src.bits) cols') (cols * 4 * src.bits))

/-- What a slot records of its loads, for its refill at a resume (R250). -/
def castwSource (op : Op) (src : Obj) (cb3 : Bool) (cols : Nat) : List Word :=
  [1, BitVec.ofNat 32 src.1, BitVec.ofNat 32 op.cell, BitVec.ofNat 32 (cols + (if cb3 then 256 else 0)), 0] ++ src.2
def casttabSource (op : Op) (src : Obj) (off table : Nat) : List Word :=
  [2, BitVec.ofNat 32 src.1, BitVec.ofNat 32 op.cell, BitVec.ofNat 32 table, BitVec.ofNat 32 off] ++ src.2

/-- CASTW_PERFORM: the stream stands in the slot, its SEL bank is 0 and no block of a table has arrived (R251). -/
def execCastwPerform (id : Nat) (s : State) : Host.Outcome State Fault Refusal :=
  .next (s.withOp id fun op =>
    let v := ((op.args[0]?).map BitVec.toNat).getD 0
    let cols := castwCols v
    let go (src : Obj) (cb3 : Bool) : State := s.opWork id op do
      modify fun s => s.emitOp op 1 op.casterRecord
      let data ← op.weightData src cb3 cols
      modify fun s =>
        let w := s.weightSlot op.tile (castwSlot v)
        ((s.setWeightSlot op.tile (castwSlot v)
          { w with data := data, rows := 128, cols := cols, sel := 0, tables := []
                   source := castwSource op src cb3 cols }).mendSlot op.tile (castwSlot v) |>.energy op.tile op.ctx 6 op.bytes
          |>.endCast op 0).dropOp id
    match op.instr, op.objs with
    | .castw _, [src] => go src false
    | .castwCb3 _, [src] => go src true
    | _, _ => s)

/-- The fields of CASTTAB's first register (R251). -/
def casttabSlot (v : Nat) : Nat := v / 2 ^ 16 % 256
def casttabSel (v : Nat) : Bool := v / 2 ^ 9 % 2 == 1
def casttabTable (v : Nat) : Nat := v / 2 ^ 8 % 2 * 128 + v % 128

/-- The registers of CASTTAB are legal (R251). -/
def casttabLegal (v : Nat) : Bool := v / 2 ^ 24 == 0 && v / 2 ^ 10 % 64 == 0 && v / 2 ^ 7 % 2 == 0 && casttabSlot v < 32

/-- CASTTAB (R251, R253). -/
def casttabWork (f : CasttabForm) (iss : Issue) (no : Nat) (l : Lane) : Work Unit := do
  Work.legal (casttabLegal l.a)
  let src ← checkEntry l.th.tile l.th.ctx ((f.obj.getD 0).toNat) [.buffer] (rightR + rightC)
  checkFootprint l.th.cell src l.b 16
  let _ ← submit iss (.casttab f) l no f.q.toNat [src] l.cap.words 16

/-- The instruction of `casttabWork`, in each thread of its group. -/
def execCasttab (f : CasttabForm) (s : State) : Host.Outcome State Fault Refusal :=
  .next (s.anvilLanes (.casttab f) (casttabWork f))

/-- The eight BF16 codes of a table (R253). -/
def tableWords (v : Nat) : List Word := (List.range 8).map fun e => BitVec.ofNat 32 (v / 2 ^ (16 * e) % 65536)

/-- CASTTAB_PERFORM: the table stands whole and has arrived; a slot that is not stamped CB3 ignores it (R253). -/
def execCasttabPerform (id : Nat) (s : State) : Host.Outcome State Fault Refusal :=
  .next (s.withOp id fun op =>
    match op.instr, op.objs with
    | .casttab _, [src] =>
      let v := ((op.args[0]?).map BitVec.toNat).getD 0
      let off := ((op.args[1]?).map BitVec.toNat).getD 0
      s.opWork id op do
        modify fun s => s.emitOp op 1 op.casterRecord
        let v16 ← op.readRun src off 16
        modify fun s =>
          let w := s.weightSlot op.tile (casttabSlot v)
          let s := if w.fmt = some stampCb3 then
              s.setWeightSlot op.tile (casttabSlot v)
                { w with tables := Map.set w.tables (casttabTable v) (tableWords v16)
                         sel := if casttabSel v then casttabTable v / 128 else w.sel
                         source := w.source ++ casttabSource op src off (casttabTable v + (if casttabSel v then 256 else 0)) }
            else s
          ((s.energy op.tile op.ctx 6 op.bytes).endCast op 0).dropOp id
    | _, _ => s)

/-- Element j of a slot's stream: a dense element, or the code that a CB3 index names in a table (R251, R252). -/
def WeightSlot.bitsAt (w : WeightSlot) (pos n : Nat) : Nat :=
  let lo := (Map.getD w.data (pos / 32) 0).toNat
  let hi := (Map.getD w.data (pos / 32 + 1) 0).toNat
  (lo + hi * 2 ^ 32) / 2 ^ (pos % 32) % 2 ^ n

/-- The 3-bit index of element j of a CB3 stream (R252). -/
def WeightSlot.cb3 (w : WeightSlot) (j : Nat) : Nat := w.bitsAt (3 * j) 3

end Sys2Proof.Machine
end

