-- ==== Sys2Proof/Machine/Anvil.lean ====
section
/-! DEFINITION. The Anvil: signatures on convergence registers, MMA, MMAS, ACCZ, ACCLD, ACCST, ACCST.ADD, ACCRD and MSEQ, and the
steps in which completed sets perform (spec/13_isa_caster_anvil.md R254 to R265, spec/12_numbers.md R226 to R232). -/
namespace Sys2Proof.Machine

/-! ## Signing (R256, R257) -/

/-- The convergence register that a word names (R258). -/
def cvName (i : Instr) : Nat := ((namesOf i).map Prod.snd).getD 0

/-- The mnemonic and suffixes of a signing word, as a number (R256). -/
def signForm : Instr → Nat
  | .mma _ => 1
  | .mmas _ => 2
  | .accz _ => 3
  | .accld _ => 4
  | .accrd _ => 5
  | .mseq _ => 6
  | .accst f => 8 + f.k.toNat
  | .accstAdd f => 12 + f.k.toNat
  | .rmaxWCr f => 16 + f.t.toNat + (if f.y then 64 else 0)
  | .rminWCr f => 20 + f.t.toNat + (if f.y then 64 else 0)
  | .rmedWCr f => 24 + f.t.toNat + (if f.y then 64 else 0)
  | .rclampWCr f => 28 + (if f.y then 1 else 0)
  | .rssumWCr f => 32 + (if f.y then 1 else 0)
  | _ => 0

/-- How many operations a thread has signed on a convergence register (R256). -/
def Thread.signedOn (t : Thread) (n : Nat) : Nat := Map.getD t.signed n 0

/-- Whether a thread may sign: the register is declared, and the operation's first signature was of this form (R256). -/
def maySign (i : Instr) (l : Lane) : Work Unit := do
  let s ← get
  let n := cvName i
  let v := s.cvOf l.th n
  Work.legal (v.count != 0)
  let k := ((s.thread? l.tid).map fun t => t.signedOn n).getD 0
  match v.opens.find? fun o => o.k == k with
  | some o => Work.legal (signForm o.instr == signForm i)
  | none => pure ()

/-- The continuation as the FLIGHT entry of the completing thread holds it: the tile, the K block and the rule set (R264). -/
def State.noteProgress (s : State) (id : Nat) (op : Op) (kb : Nat) : State :=
  let d : Opnd := [op.progress / kb, op.progress % kb, if op.nbv then 1 else 0, 0].map fun x => (BitVec.ofNat 32 x, RState.full)
  s.modThread op.tid fun t =>
    { t with replay := t.replay.map fun e => if e.op = some id then { e with cap := { d := d } } else e }

/-- A signature made: the last one completes the set, and the operation then takes its operands from it and reads NBV (R231,
R256). -/
def State.joinSet (s : State) (tid id : Nat) (i : Instr) : State :=
  match s.thread? tid, Map.get? s.ops id with
  | some t, some op =>
    let n := cvName i
    let k := t.signedOn n
    let v := s.cvOf t n
    let o := (v.opens.find? fun o => o.k == k).getD { k := k, instr := i }
    let signers := o.signers ++ [id]
    let rest := v.opens.filter fun o => o.k != k
    let s := s.modThread tid fun t => { t with signed := Map.set t.signed n (k + 1) }
    if signers.length < v.count then s.setCv t.cell n { v with opens := rest ++ [{ o with signers := signers }] }
    else
      let nbv := ((s.ctx? t.ctx).map fun c => c.nbv == 1).getD false
      let after := signers.flatMap fun g => ((Map.get? s.ops g).map Op.after).getD []
      let s := (s.setCv t.cell n { v with opens := rest })
      let op := { op with signers := signers, after := after, nbv := nbv }
      let s := { s with ops := Map.set s.ops id op }
      match i with
      | .mseq _ => s.noteProgress id op 1
      | _ => s
  | _, _ => s

/-- The signature enters the signer's aq (R256). -/
def sign (i : Instr) (iss : Issue) (no : Nat) (l : Lane) (objs : List Obj) (args : List Word) : Work Unit := do
  let id ← submit iss i l no 4 objs args 0
  modify fun s => s.joinSet l.tid id i

/-- The payload of an Anvil operation's trace records: its major, form, convergence register, accumulator and object (R258, R407). -/
def Op.anvilRecord (op : Op) : List Byte :=
  let w := op.instr.baseWord?.getD 0
  toBytes 1 (majorOf op.instr) ++ toBytes 1 (w / 2 ^ 23 % 4) ++ toBytes 1 (w / 2 ^ 17 % 64) ++ toBytes 1 (w / 2 ^ 14 % 8) ++
    toBytes 2 ((op.objs.head?.map Prod.fst).getD 0)

/-- ANVBEG: a set operation of the Anvil begins to perform (R407, R408). -/
def State.beginSet (s : State) (op : Op) : State := if op.begun then s else s.emitOp op 3 op.anvilRecord

/-- A completed set has performed: every signature leaves its queue. -/
def State.finishSet (s : State) (op : Op) : State := op.signers.foldl (fun s o => (s.dropOp o).finishOpEntries o) s

/-- ANVEND: a set operation of the Anvil has performed, and leaves (R407, R408). -/
def State.endSet (s : State) (op : Op) : State := (s.emitOp op 4 op.anvilRecord).finishSet op

/-- A completed set by the number of its last signature, when it may perform. -/
def State.withSet (s : State) (id : Nat) (k : Op → State) : State :=
  s.withOp id fun op => if op.signers.isEmpty then s else k op

/-! ## The accumulators and the weight buffer (R227, R252, R254, R259, R265) -/

/-- An accumulator of a tile: its elements that are not zero, by number. -/
def State.acc (s : State) (tile m : Nat) : Map (BitVec 64) := Map.getD (s.tile tile).anvil.accs m []

/-- An accumulator replaced. -/
def State.setAcc (s : State) (tile m : Nat) (a : Map (BitVec 64)) : State :=
  let t := s.tile tile
  s.setTile tile { t with anvil := { t.anvil with accs := Map.set t.anvil.accs m a } }

/-- An element of an accumulator. -/
def accElem (a : Map (BitVec 64)) (e : Nat) : Nat := (Map.getD a e 0).toNat

/-- An accumulator with an element written; zero elements are unlisted. -/
def accPut (a : Map (BitVec 64)) (e v : Nat) : Map (BitVec 64) :=
  if v % 2 ^ 64 = 0 then Map.del a e else Map.set a e (BitVec.ofNat 64 v)

/-- R265: the elements of an accumulator in error among those an operation reads are taken as zero and logged. -/
def State.scrubAcc (s : State) (tile ctx m : Nat) (reads : Nat → Bool) : State :=
  let bad := (s.tile tile).anvil.abad.filter fun x => x.1 == m && reads x.2
  bad.foldl (fun s x =>
    let s := s.logError tile 2 ctx m 0xFFFF x.2
    let s := s.setAcc tile m (Map.del (s.acc tile m) x.2)
    let t := s.tile tile
    s.setTile tile { t with errsticky := t.errsticky ||| 4, anvil := { t.anvil with abad := t.anvil.abad.filter (· != x) } }) s

/-- An accumulator written whole holds no element in error. -/
def State.mendAcc (s : State) (tile m : Nat) : State :=
  let t := s.tile tile
  s.setTile tile { t with anvil := { t.anvil with abad := t.anvil.abad.filter fun x => x.1 != m } }

/-- R265: the elements of a slot in error are logged. -/
def State.logWeights (s : State) (tile ctx n : Nat) : State :=
  ((s.tile tile).anvil.wbad.filter fun x => x.1 == n).foldl (fun s x =>
    let s := s.logError tile 1 ctx n 0xFFFF x.2
    let t := s.tile tile
    s.setTile tile { t with errsticky := t.errsticky ||| 2 }) s

/-- Element (k, c) of a dense slot: zero beyond its columns and where it is in error (R251, R265). -/
def State.weight (s : State) (tile n : Nat) (f : ConvFmt) (k c : Nat) : Nat :=
  let w := s.weightSlot tile n
  let j := 128 * c + k
  if (s.tile tile).anvil.wbad.contains (n, j) then 0 else w.bitsAt (j * f.width) f.width

/-- The format a stamp stands for; a CB3 slot is a BF16 operand (R226, R252). -/
def stampFmt (stamp : Nat) : ConvFmt := if stamp = stampCb3 then .flt .bf16 else ConvFmt.ofCode stamp

/-- Column c of a CB3 slot through a code table (R252, R265). -/
def State.expandColumn (s : State) (tile n c : Nat) (table : List Word) : List Word :=
  let w := s.weightSlot tile n
  (List.range 128).map fun k =>
    if (s.tile tile).anvil.wbad.contains (n, 128 * c + k) then 0 else table.getD (w.cb3 (128 * c + k)) 0

/-- A rectangle of a TILE, row by row, padding read as zero (R242). -/
def Op.tileRows (op : Op) (o : Obj) (r0 rows c0 cols : Nat) : Work (List (List Nat)) :=
  (List.range rows).mapM fun r => (List.range cols).mapM fun c => op.readCell o (r0 + r) (c0 + c)

/-- Column c of rows. -/
def columnOf (rows : List (List Nat)) (c : Nat) : List Nat := rows.map fun r => r.getD c 0

/-- The block terms of one K block added into an accumulator: the rows of A, the columns of B and the scale of each row
(R228 to R230, R259). -/
def addTerms (nbv : Bool) (fa fb : ConvFmt) (as bs : List (List Nat)) (scale : Nat → Option (Nat × Nat)) (a : Map (BitVec 64)) :
    Map (BitVec 64) :=
  as.zipIdx.foldl (fun a x => bs.zipIdx.foldl (fun a y =>
    let e := 128 * x.2 + y.2
    accPut a e (addBlock nbv fa fb x.1 y.1 (scale x.2) (accElem a e))) a) a

/-- The energy of multiply-accumulates (R412). -/
def State.macEnergy (s : State) (op : Op) (f : ConvFmt) (n : Nat) : State :=
  s.energy op.tile op.ctx (if f.width ≤ 8 then 7 else 8) n

/-! ## MMA and MMAS (R258, R259) -/

/-- The B operand that a register names: a slot, or an object's index; none where a bit that must be zero is set (R258). -/
def bOperand (v : Nat) : Option (Nat ⊕ Nat) :=
  if v / 2 ^ 31 = 0 then
    if v / 2 ^ 24 = 0 ∧ v / 2 ^ 16 < 32 then some (.inl (v / 2 ^ 16)) else none
  else if v / 2 ^ 16 % 2 ^ 15 = 0 then some (.inr (v % 2 ^ 16))
  else none

/-- Objects that take scales: neither FP64 nor integer (R259). -/
def ConvFmt.scalable (f : ConvFmt) : Bool := f.cls == .f32

/-- The stamp of a slot pairs with A (R226, R259). -/
def State.pairs (s : State) (tile n : Nat) (a : Obj) : Bool :=
  match (s.weightSlot tile n).fmt with
  | some st => fmtPair a.fmt (stampFmt st)
  | none => false

/-- The checks of an MMA or MMAS, and the objects it checked in the order A, B, SA, SW (R238, R256, R258, R259). -/
def mmaWork (i : Instr) (a : Nat) (scales : Bool) (iss : Issue) (no : Nat) (l : Lane) : Work Unit := do
  maySign i l
  let s ← get
  let tile := l.th.tile
  match bOperand l.b with
  | none => Work.illeg
  | some b =>
    Work.legal (match b with
      | .inl n => (s.weightSlot (s.homeTile l.th) n).fmt.isSome
      | .inr _ => true)
    let ao ← checkEntry tile l.th.ctx a [.tile] rightA
    let bo ← match b with
      | .inl _ => pure []
      | .inr n => do
        let o ← checkEntry tile l.th.ctx n [.tile] rightA
        pure [o]
    let so ← if scales then do
        let x ← checkEntry tile l.th.ctx (l.c % 2 ^ 16) [.scale] rightA
        let y ← checkEntry tile l.th.ctx (l.c / 2 ^ 16) [.scale] rightA
        pure [x, y]
      else pure []
    let kb := (Obj.cols ao + 127) / 128
    Work.within (Obj.rows ao ≤ 128) ao.1
    (match b with
      | .inl _ => Work.within (Obj.cols ao ≤ 128) ao.1
      | .inr _ => bo.forM fun o => do
        Work.within (Obj.cols o ≤ 128) o.1
        Work.within (Obj.rows o == Obj.cols ao) o.1)
    (match so with
      | [x, y] => do
        Work.within (Obj.rows ao ≤ Obj.rows x && kb ≤ Obj.cols x) x.1
        Work.within (kb ≤ Obj.cols y) y.1
      | _ => pure ())
    (ao :: bo ++ so).forM fun o => checkFootprint l.th.cell o 0 (Obj.span o)
    Work.legal (match b with
      | .inl n => s.pairs (s.homeTile l.th) n ao
      | .inr _ => bo.all fun o => fmtPair (Obj.fmt ao) (Obj.fmt o))
    Work.legal (!scales || (Obj.fmt ao).scalable)
    sign i iss no l (ao :: bo ++ so) l.cap.words

/-- MMA: a signature (R256, R259). -/
def execMma (f : MmaForm) (s : State) : Host.Outcome State Fault Refusal :=
  .next (s.anvilLanes (.mma f) (mmaWork (.mma f) (f.obj.getD 0).toNat false))

/-- MMAS: a signature (R256, R259). -/
def execMmas (f : MmasForm) (s : State) : Host.Outcome State Fault Refusal :=
  .next (s.anvilLanes (.mmas f) (mmaWork (.mmas f) (f.obj.getD 0).toNat true))

/-- What a completed MMA or MMAS works with: its accumulator, whether it carries scales, A, the slot that is B or B's object,
and the scale objects. -/
structure MmaParts where
  acc : Nat
  a : Obj
  slot : Option Nat
  b : Option Obj
  scales : Option (Obj × Obj)
  deriving DecidableEq, Repr

/-- The parts of an operation, if it is an MMA or MMAS. -/
def Op.mmaParts (op : Op) : Option MmaParts :=
  let slot := match bOperand (((op.args[0]?).map BitVec.toNat).getD 0) with
    | some (.inl n) => some n
    | _ => none
  match op.instr, op.objs, slot with
  | .mma f, [a], some n => some ⟨f.m.toNat, a, some n, none, none⟩
  | .mma f, [a, b], none => some ⟨f.m.toNat, a, none, some b, none⟩
  | .mmas f, [a, x, y], some n => some ⟨f.m.toNat, a, some n, none, some (x, y)⟩
  | .mmas f, [a, b, x, y], none => some ⟨f.m.toNat, a, none, some b, some (x, y)⟩
  | _, _, _ => none

/-- The bank and the columns with which an operation that reads a CB3 slot started, held with the operation (R254). -/
def cb3Started (bank cols : Nat) : Nat := 1 + bank + 4 * cols
def cb3Bank (v : Nat) : Nat := (v - 1) % 4
def cb3Cols (v : Nat) : Nat := v / 4

/-- An operation that reads a slot stamped CB3 starts: it takes the SEL bank that it uses for every block (R254). -/
def State.startCb3 (s : State) (op : Op) : Op :=
  if op.bytes ≠ 0 then op
  else
    match op.mmaParts with
    | some p =>
      match p.slot with
      | some n =>
        let w := s.weightSlot op.tile n
        if w.fmt = some stampCb3 && s.pairs op.tile n p.a then { op with bytes := cb3Started w.sel w.cols } else op
      | none => op
    | none => op

/-- BLOCK_EXPAND: once a block's table has arrived in the bank in use, the decompressor reads it whole and expands the column; where the
operation has waited, ANVWAIT says how long (R254, R407). -/
def execBlockExpand (id block : Nat) (s : State) : Host.Outcome State Fault Refusal :=
  .next (s.withSet id fun op =>
    let op := s.startCb3 op
    match op.mmaParts with
    | some p =>
      match p.slot with
      | some n =>
        if op.bytes = 0 ∨ cb3Cols op.bytes ≤ block then s
        else
          match Map.get? (s.weightSlot op.tile n).tables (cb3Bank op.bytes * 128 + block), Map.get? op.signArgs block with
          | some table, none =>
            let s := if op.progress = 0 then s
              else s.emitOp op 5 (toBytes 1 n ++ toBytes 1 block ++ [0, 0] ++ toBytes 4 op.progress)
            let op := { op with signArgs := Map.set op.signArgs block (s.expandColumn op.tile n block table), progress := 0 }
            { s with ops := Map.set s.ops id op }
          | _, _ => { s with ops := Map.set s.ops id op }
      | none => s
    | none => s)

/-- The columns of B for a K block: from the slot, as expanded where it is CB3, or from the TILE (R252, R259). -/
def Op.bColumns (op : Op) (p : MmaParts) (b : Nat) : Work (ConvFmt × List (List Nat)) := do
  let s ← get
  match p.slot, p.b with
  | some n, _ =>
    if op.bytes ≠ 0 then
      modify fun s => s.logWeights op.tile op.ctx n
      pure (.flt .bf16, (List.range 128).map fun c => (List.range 128).map fun k =>
        if k < Obj.cols p.a then (((Map.get? op.signArgs c).getD []).getD k 0).toNat else 0)
    else if s.pairs op.tile n p.a then
      modify fun s => s.logWeights op.tile op.ctx n
      let f := stampFmt (((s.weightSlot op.tile n).fmt).getD 0)
      pure (f, (List.range 128).map fun c => (List.range 128).map fun k =>
        if k < Obj.cols p.a then s.weight op.tile n f k c else 0)
    else
      modify fun s => s.setTile op.tile { s.tile op.tile with errsticky := (s.tile op.tile).errsticky ||| 16 }
      pure (p.a.fmt, List.replicate 128 (List.replicate 128 0))
  | none, some o => do
    let rows ← op.tileRows o (128 * b) 128 0 (Obj.cols o)
    pure (Obj.fmt o, (List.range (Obj.cols o)).map fun c => columnOf rows c)
  | none, none => pure (p.a.fmt, [])

/-- The scales of a K block, by row (R228, R259). -/
def Op.scaleOf (op : Op) (p : MmaParts) (b : Nat) : Work (List (Option (Nat × Nat))) :=
  (List.range (Obj.rows p.a)).mapM fun r =>
    match p.scales with
    | none => pure none
    | some (x, y) => do
      let sa ← op.readElemAt x (32 * (r * Obj.cols x + b)) (r * Obj.cols x + b)
      let sw ← op.readElemAt y (32 * b) b
      pure (some (sa, sw))

/-- MMA_PERFORM: every K block's terms added into the accumulator, in order. While a table of a CB3 slot is still to come the
operation waits, and the thread that completed the set is charged (R254, R259, R306). -/
def execMmaPerform (id : Nat) (s : State) : Host.Outcome State Fault Refusal :=
  .next (s.withSet id fun op =>
    let now := op
    let op := s.startCb3 op
    match op.mmaParts with
    | none => s
    | some p =>
      if op.bytes ≠ 0 ∧ op.signArgs.length < cb3Cols op.bytes then
        ({ s.beginSet now with ops := Map.set s.ops id { op with progress := op.progress + 1 } }.charge op.tid 3 1)
      else
        s.opWork id op do
          modify fun s => (s.beginSet now).scrubAcc op.tile op.ctx p.acc fun e => decide (e / 128 < Obj.rows p.a)
          (List.range ((Obj.cols p.a + 127) / 128)).forM fun b => do
            let as ← op.tileRows p.a 0 (Obj.rows p.a) (128 * b) 128
            let bs ← op.bColumns p b
            let scale ← op.scaleOf p b
            modify fun s => s.setAcc op.tile p.acc (addTerms op.nbv (Obj.fmt p.a) bs.1 as bs.2 (fun r => (scale[r]?).join) (s.acc op.tile p.acc))
            modify fun s => s.macEnergy op (Obj.fmt p.a) (Obj.rows p.a * bs.2.length * min 128 (Obj.cols p.a - 128 * b))
          modify fun s => s.endSet op)

/-! ## ACCZ, ACCLD, ACCST, ACCST.ADD and ACCRD (R260, R261) -/

/-- ACCZ: a signature (R256, R260). -/
def execAccz (f : AccForm) (s : State) : Host.Outcome State Fault Refusal :=
  .next (s.anvilLanes (.accz f) fun iss no l => do
    maySign (.accz f) l
    sign (.accz f) iss no l [] [])

/-- ACCZ_PERFORM (R260). -/
def execAcczPerform (id : Nat) (s : State) : Host.Outcome State Fault Refusal :=
  .next (s.withSet id fun op =>
    match op.instr with
    | .accz f => (((s.beginSet op).setAcc op.tile f.m.toNat []).mendAcc op.tile f.m.toNat).endSet op
    | _ => s)

/-- How many elements an accumulator tile has (R227). -/
def accElems : Nat := 16384

/-- The checks of a word that moves a whole accumulator tile, and its signature (R238, R260). -/
def accWork (i : Instr) (idx rights : Nat) (ok : Obj → Bool) (iss : Issue) (no : Nat) (l : Lane) : Work Unit := do
  maySign i l
  let o ← checkEntry l.th.tile l.th.ctx idx copyKinds rights
  let n ← checkCount o
  Work.within (n == accElems) o.1
  checkFootprint l.th.cell o 0 (Obj.span o)
  Work.legal (ok o)
  sign i iss no l [o] []

/-- ACCLD: a signature; the formats are F32, F64 and INT64 (R256, R260). -/
def execAccld (f : AccObjForm) (s : State) : Host.Outcome State Fault Refusal :=
  .next (s.anvilLanes (.accld f) (accWork (.accld f) (f.obj.getD 0).toNat rightR fun o => [0, 1, 8].contains (Obj.fmtCode o)))

/-- ACCLD_PERFORM: an FP32 value becomes a head with a tail of +0, 64 bits are copied (R232, R260). -/
def execAccldPerform (id : Nat) (s : State) : Host.Outcome State Fault Refusal :=
  .next (s.withSet id fun op =>
    match op.instr, op.objs with
    | .accld f, [o] =>
      s.opWork id op do
        modify fun s => s.beginSet op
        let xs ← eachOf accElems fun n => op.readElem o n
        modify fun s => ((s.setAcc op.tile f.m.toNat (xs.zipIdx.filterMap fun x =>
          if x.1 = 0 then none else some (x.2, BitVec.ofNat 64 x.1))).mendAcc op.tile f.m.toNat).endSet op
    | _, _ => s)

/-- ACCST: a signature (R256, R260). -/
def execAccst (f : AccstForm) (s : State) : Host.Outcome State Fault Refusal :=
  .next (s.anvilLanes (.accst f) (accWork (.accst f) (f.obj.getD 0).toNat rightW fun _ => true))

/-- ACCST.ADD: a signature (R256, R260). -/
def execAccstAdd (f : AccstForm) (s : State) : Host.Outcome State Fault Refusal :=
  .next (s.anvilLanes (.accstAdd f) (accWork (.accstAdd f) (f.obj.getD 0).toNat (rightR + rightW) fun _ => true))

/-- The class that a store names (R258). -/
def accClass (k : BitVec 2) : ElemClass := if k = 1 then .f64 else if k = 2 then .int else .f32

/-- A run of accumulator elements stored into, or added into, elements of an object by their numbers (R232). -/
def Op.drain (op : Op) (m : Nat) (c : ElemClass) (add : Bool) (o : Obj) (moves : List (Nat × Nat)) : Work Unit := do
  modify fun s => s.scrubAcc op.tile op.ctx m fun e => moves.any fun x => x.1 == e
  moves.forM fun x => do
    let s ← get
    let e := accElem (s.acc op.tile m) x.1
    if add then
      let old ← op.readElem o x.2
      op.writeElem o x.2 (addOutElem c e o.fmt old)
    else op.writeElem o x.2 (storeElem c e o.fmt)
  modify fun s => s.energy op.tile op.ctx 11 moves.length

/-- The whole tile drained (R260). -/
def State.drainTile (s : State) (id : Nat) (op : Op) (m : Nat) (k : BitVec 2) (add : Bool) (o : Obj) : State :=
  s.opWork id op do
    modify fun s => s.beginSet op
    op.drain m (accClass k) add o ((List.range accElems).map fun n => (n, n))
    modify fun s => s.endSet op

/-- ACCST_PERFORM (R232, R260). -/
def execAccstPerform (id : Nat) (s : State) : Host.Outcome State Fault Refusal :=
  .next (s.withSet id fun op =>
    match op.instr, op.objs with
    | .accst f, [o] => s.drainTile id op f.m.toNat f.k false o
    | _, _ => s)

/-- ACCST_ADD_PERFORM: one indivisible update (R232, R260). -/
def execAccstAddPerform (id : Nat) (s : State) : Host.Outcome State Fault Refusal :=
  .next (s.withSet id fun op =>
    match op.instr, op.objs with
    | .accstAdd f, [o] => s.drainTile id op f.m.toNat f.k true o
    | _, _ => s)

/-- ACCRD: a signature; the reply comes when the set performs (R256, R261). -/
def execAccrd (f : AccrdForm) (s : State) : Host.Outcome State Fault Refusal :=
  .next (s.anvilLanes (.accrd f) fun iss no l => do
    maySign (.accrd f) l
    sign (.accrd f) iss no l [] l.cap.words)

/-- ACCRD_PERFORM: each signer receives its own element (R261). -/
def execAccrdPerform (id : Nat) (s : State) : Host.Outcome State Fault Refusal :=
  .next (s.withSet id fun op =>
    match op.instr with
    | .accrd f =>
      let m := f.m.toNat
      let elem (s : State) (g : Nat) : Nat := (((Map.get? s.ops g).bind fun o => (o.args[0]?).map BitVec.toNat).getD 0) % accElems
      let s := (s.beginSet op).scrubAcc op.tile op.ctx m fun e => op.signers.any fun g => elem s g == e
      (op.signers.foldl (fun s g => s.replyTo g (numWords (accElem (s.acc op.tile m) (elem s g)) 2)) s).endSet op
    | _ => s)

/-! ## MSEQ (R262 to R264) -/

/-- A field of n bytes of a plan. -/
def planField (p : List Byte) (off n : Nat) : Nat := ofBytes ((p.drop off).take n)

/-- The product of numbers. -/
def productOf (l : List Nat) : Nat := l.foldl (· * ·) 1

/-- The extents of an MSEQ: M, N and K. -/
structure MseqShape where
  m : Nat
  n : Nat
  k : Nat
  deriving DecidableEq, Repr

/-- M, N and K of a plan's A and B (R262). -/
def mseqShape (kdims : Nat) (a b : Obj) : MseqShape :=
  { m := productOf ((Obj.extents a).drop kdims), n := (Obj.extents b).getD 0 1, k := productOf ((Obj.extents a).take kdims) }

/-- MSEQ: the plan is read and checked with every object it names, then signed (R256, R262). -/
def mseqWork (f : AccObjForm) (iss : Issue) (no : Nat) (l : Lane) : Work Unit := do
  maySign (.mseq f) l
  let check (idx : Nat) (k : ObjKind) (rights : Nat) : Work Obj := checkEntry l.th.tile l.th.ctx idx [k] rights
  let plan ← check (f.obj.getD 0).toNat .buffer rightR
  checkFootprint l.th.cell plan 0 64
  let p ← l.readObj plan 0 64
  let kdims := planField p 0x0C 1
  let flags := planField p 0x0D 1
  let a ← check (planField p 0 2) .tensor rightC
  let b ← check (planField p 2 2) .tensor rightC
  let c ← check (planField p 4 2) .tensor (rightW + (if flags % 2 = 1 then rightR else 0))
  let sa ← check (planField p 6 2) .tile (rightW + rightA)
  let sb ← check (planField p 8 2) .tile (rightW + rightA)
  let bar ← if flags / 8 % 2 = 1 then do
      let o ← check (planField p 0x0A 2) .barrier rightW
      pure [o]
    else pure []
  let sh := mseqShape kdims a b
  let shaped := Obj.ndim b == 1 && Obj.ndim c == 1 && decide (1 ≤ kdims ∧ kdims ≤ Obj.ndim a)
  Work.within (!shaped || (Obj.extents b).getD 1 1 == sh.k) b.1
  Work.within (!shaped || ((Obj.extents c).getD 0 1 == sh.n && (Obj.extents c).getD 1 1 == sh.m)) c.1
  ([a, b, c, sa, sb] : List Obj).forM fun o => checkFootprint l.th.cell o 0 (Obj.span o)
  bar.forM fun o => checkFootprint l.th.cell o 0 16
  Work.legal (planField p 0x0E 50 == 0 && flags &&& 0xF6 == 0 && shaped)
  Work.legal (([sa, sb] : List Obj).all fun o => Obj.rows o == 128 && Obj.cols o == 128)
  Work.legal (Obj.scope sa == 1 && Obj.scope sb == 1 && Obj.fmtCode sa == Obj.fmtCode a && Obj.fmtCode sb == Obj.fmtCode b)
  Work.legal (fmtPair (Obj.fmt a) (Obj.fmt b))
  sign (.mseq f) iss no l ([a, b, c, sa, sb] ++ bar) [BitVec.ofNat 32 kdims, BitVec.ofNat 32 flags]

/-- The instruction of `mseqWork`, in each thread of its group. -/
def execMseq (f : AccObjForm) (s : State) : Host.Outcome State Fault Refusal :=
  .next (s.anvilLanes (.mseq f) (mseqWork f))

/-- A staged tile: the elements written into a TILE object, row by row. -/
def Op.stage (op : Op) (o : Obj) (rows : List (List Nat)) : Work Unit :=
  rows.zipIdx.forM fun r => r.1.zipIdx.forM fun x => op.writeElemAt o (tileBit (Obj.bits o) 128 r.2 x.2) x.1

/-- The K blocks of an MSEQ, over all its tiles (R263). -/
def MseqShape.blocks (sh : MseqShape) : Nat := (sh.k + 127) / 128 * ((sh.n + 127) / 128) * ((sh.m + 127) / 128)

/-- The end of an MSEQ: what it has stored stands, and its barrier is lowered by the bytes (R263, R342). -/
def Op.mseqEnd (op : Op) (sh : MseqShape) (c : Obj) (bar : List Obj) : Work Unit := do
  bar.forM fun o => do
    let pa ← op.reach o 0 .write
    modify fun s => s.lowerBarrier op.tid op.ctx o.1 pa ((sh.m * sh.n * Obj.bits c + 7) / 8)
  modify fun s => s.endSet op

/-- One K block of an MSEQ, or the store of a finished tile with it, and the end, for which what it has written in another package must be
acknowledged (R263, R342). -/
def Op.mseqBlock (op : Op) (id m : Nat) (sh : MseqShape) (a b c sa sb : Obj) (bar : List Obj) (add : Bool) : Work Unit := do
  modify fun s => if op.progress = 0 then s.beginSet op else s
  let start ← get
  let kb := (sh.k + 127) / 128
  let nts := (sh.n + 127) / 128
  let mt := op.progress / kb / nts
  let nt := op.progress / kb % nts
  let blk := op.progress % kb
  if blk = 0 then modify fun s => (s.setAcc op.tile m []).mendAcc op.tile m
  let rows := min 128 (sh.m - 128 * mt)
  let cols := min 128 (sh.n - 128 * nt)
  let depth := min 128 (sh.k - 128 * blk)
  let as ← (List.range 128).mapM fun r => (List.range 128).mapM fun k =>
    if r < rows ∧ k < depth then op.readElem a (128 * blk + k + sh.k * (128 * mt + r)) else pure 0
  let bs ← (List.range 128).mapM fun k => (List.range 128).mapM fun n =>
    if k < depth ∧ n < cols then op.readElem b (128 * nt + n + sh.n * (128 * blk + k)) else pure 0
  op.stage sa as
  op.stage sb bs
  modify fun s =>
    let s := s.scrubAcc op.tile op.ctx m fun _ => true
    (s.setAcc op.tile m (addTerms op.nbv a.fmt b.fmt as ((List.range 128).map fun n => columnOf bs n) (fun _ => none)
      (s.acc op.tile m))).macEnergy op a.fmt (rows * cols * depth)
  if blk + 1 = kb then
    op.drain m (Obj.fmt a).cls add c ((List.range (rows * cols)).map fun x =>
      (128 * (x / cols) + x % cols, 128 * nt + x % cols + sh.n * (128 * mt + x / cols)))
  let s ← get
  let sent := requestsSince start s
  let next := { op with progress := op.progress + 1, after := op.after ++ sent }
  if next.progress = sh.blocks && sent.isEmpty then op.mseqEnd sh c bar
  else modify fun s => { s with ops := Map.set s.ops id next }.noteProgress id next kb

/-- MSEQ_PERFORM: the sequence up to its next K-block boundary (R263, R264). -/
def execMseqPerform (id : Nat) (s : State) : Host.Outcome State Fault Refusal :=
  .next (s.withSet id fun op =>
    match op.instr, op.objs, op.args with
    | .mseq f, a :: b :: c :: sa :: sb :: bar, kd :: flags :: _ =>
      let sh := mseqShape kd.toNat a b
      if op.progress = sh.blocks then s.opWork id op (op.mseqEnd sh c bar)
      else
        s.opWork id op (op.mseqBlock id f.m.toNat sh a b c sa sb bar (flags.getLsbD 0))
    | _, _, _ => s)

end Sys2Proof.Machine
end

