-- ==== Sys2Proof/Machine/Witness.lean ====
section
/-! DEFINITION. Witness reductions: RMAX.W, RMIN.W, RMED.W, RCLAMP.W, RSSUM.W, ADJB, WREL and the convergence-set forms, and the
steps in which they perform (spec/15_isa_witness_sync.md R272 to R285). -/
namespace Sys2Proof.Machine

/-! ## Witness objects (R223, R236, R278, R279) -/

def Obj.witResult (o : Obj) : Nat := o.field 0x0E 2

/-- Element n of a witness (R223). -/
def Op.readWitness (op : Op) (o : Obj) (n : Nat) : Work Nat := do
  let bit := n * o.witBits
  let bs ← op.readElemBytes o (bit / 8) ((o.witBits + 7) / 8) n
  pure (ofBytes bs / 2 ^ (bit % 8) % 2 ^ o.witBits)

/-- Element n of a witness written; the other elements of its byte keep their bits (R223). -/
def Op.writeWitness (op : Op) (o : Obj) (n v : Nat) : Work Unit := do
  let w := o.witBits
  let bit := n * w
  if w < 8 then
    let bs ← op.readBytes o (bit / 8) 1
    let old := ofBytes bs
    let field := old / 2 ^ (bit % 8) % 2 ^ w
    op.writeBytes o (bit / 8) [BitVec.ofNat 8 (old - field * 2 ^ (bit % 8) + v % 2 ^ w * 2 ^ (bit % 8))]
  else op.writeBytes o (bit / 8) (toBytes (w / 8) v)

/-- A witness is live (R278); `result` is the entry its RESULT names. -/
def witLive (wit : Obj) (result : Obj) : Bool :=
  decide (wit.field 0x18 4 / 2 ^ 31 = 0 ∧ wit.field 0x18 4 % 2 ^ 31 = wit.gen % 2 ^ 31 ∧ wit.field 0x1C 4 = result.gen)

/-- A write of a witness's generation fields at privileged level: one store of 8 bytes at DEVICE scope, and every tile's cached copy
of the entry (R279, R423). -/
def writeGeneration (l : Lane) (idx v : Nat) : Work Unit := fun s =>
  match s.ctx? l.th.ctx with
  | none => .error (.fatal s)
  | some c =>
    let va := (c.entryVa idx + 0x18) % 2 ^ 52
    match s.translateAs true l.th.tile l.th.ctx va .write with
    | (.pgfault f, _) => .error (.parked f)
    | (.pgfatal, _) => .error (.trap .pgfatal (c.entryVa idx))
    | (.ok pa _, s) =>
      let s := s.perform l.tid (bytesAt pa (toBytes 8 v))
      .ok ((), { s with tiles := Map.mapAll s.tiles fun _ t => { t with otCache := t.otCache.map fun e =>
        if e.ctx == l.th.ctx && e.index == idx then
          { e with words := e.words.take 3 ++ [BitVec.ofNat 64 v] ++ e.words.drop 4 } else e } })

/-! ## The tile forms (R272 to R277) -/

/-- Which reduction a word is. -/
inductive RedOp where
  | max | min | med | clamp | sum
  deriving DecidableEq, Repr

/-- The FORM and the tie that fit an operation (R274). -/
def RedOp.fits (op : RedOp) (form tie : Nat) : Bool :=
  match op with
  | .max | .min => form == 1 || (form == 0 && tie != 2)
  | .med => decide (form ≤ 1)
  | .clamp => form == 2
  | .sum => form == 3

/-- The formats of a source (R274). -/
def reduceFormat (code : Nat) : Bool := [0, 2, 3, 6].contains code

/-- The identity shape that a clamp has (R273). -/
def identityWindow : Window := ⟨0, 0, 1, 1, 1, 1⟩

/-- The descriptor and the bounds in an operation's registers; none where the descriptor, or its TIE, is illegal (R272, R273). -/
def RedOp.operands (op : RedOp) (ws : List Nat) : Option (Window × Nat × Nat) :=
  match op with
  | .clamp => some (identityWindow, ws.getD 0 0, ws.getD 1 0)
  | _ =>
    (Window.ofWord (ws.getD 0 0)).bind fun d =>
      if (op == .med || op == .sum) && d.tie != 0 then none
      else if d.tie == 2 && d.mode == 0 && d.ww * d.wh > 16 then none
      else some (d, ws.getD 1 0, ws.getD 2 0)

/-- Bounds in registers that no format makes legal, which is judged before any object is read (R238, R274). -/
def boundsHopeless (lo hi : Nat) : Bool := !boundsOk (.flt .fp32) lo hi && !boundsOk (.int 32 true) lo hi

/-- The checks of a tile reduction, the stamp of its witness and its submission (R238, R274, R277, R279). DEDUCED: bounds that are illegal
for floating-point or for integer sources only are judged with the source's format, after its entry is read (log entry 75). -/
def reduceWork (i : Instr) (op : RedOp) (f : Red1Form) (iss : Issue) (no : Nat) (l : Lane) : Work Unit := do
  match op.operands (Opnd.nums l.cap.a) with
  | none => Work.illeg
  | some (d, lo, hi) =>
    Work.legal (!((op == .clamp || op == .sum) && boundsHopeless lo hi))
    let check (idx : Nat) (k : ObjKind) (rights : Nat) : Work Obj := checkEntry l.th.tile l.th.ctx idx [k] rights
    let wit ← check f.o.toNat .witness (rightW + rightA)
    let res ← check (Obj.witResult wit) .tile (rightW + rightA)
    let src ← check (f.obj.getD 0).toNat .tile (rightR + rightA)
    let r := Obj.rows src
    let c := Obj.cols src
    Work.within (r ≤ 128 && c ≤ 128) src.1
    match d.shape r c with
    | none => Work.bounds src.1
    | some (r', c') =>
      Work.within (Obj.rows res == r' && Obj.cols res == c') res.1
      Work.within (Obj.witRows wit == r' && Obj.witCols wit == c') wit.1
      checkFootprint l.th.cell wit 0 (Obj.witBytes wit)
      checkFootprint l.th.cell res 0 (Obj.span res)
      checkFootprint l.th.cell src 0 (Obj.span src)
      Work.legal (reduceFormat (Obj.fmtCode src) && Obj.fmtCode res == Obj.fmtCode src)
      Work.legal (op.fits (Obj.witForm wit) d.tie && !(d.tie == 2 && decide (d.count r c > 16)))
      Work.legal (!(op == .clamp || op == .sum) || boundsOk (Obj.fmt src) lo hi)
      writeGeneration l wit.1 (Obj.gen wit % 2 ^ 31 + Obj.gen res * 2 ^ 32)
      let _ ← submit iss i l no 4 [wit, res, src] l.cap.words 0

/-- RMAX.W (R274, R275). -/
def execRmaxW (f : Red1Form) (s : State) : Host.Outcome State Fault Refusal :=
  .next (s.eachLane (.rmaxW f) (reduceWork (.rmaxW f) .max f))

/-- RMIN.W (R274, R275). -/
def execRminW (f : Red1Form) (s : State) : Host.Outcome State Fault Refusal :=
  .next (s.eachLane (.rminW f) (reduceWork (.rminW f) .min f))

/-- RMED.W (R274, R275). -/
def execRmedW (f : Red1Form) (s : State) : Host.Outcome State Fault Refusal :=
  .next (s.eachLane (.rmedW f) (reduceWork (.rmedW f) .med f))

/-- RCLAMP.W (R274, R276). -/
def execRclampW (f : Red1Form) (s : State) : Host.Outcome State Fault Refusal :=
  .next (s.eachLane (.rclampW f) (reduceWork (.rclampW f) .clamp f))

/-- RSSUM.W (R274, R276). -/
def execRssumW (f : Red1Form) (s : State) : Host.Outcome State Fault Refusal :=
  .next (s.eachLane (.rssumW f) (reduceWork (.rssumW f) .sum f))

/-- The result and the witness of one element from its contributors (R275, R276). -/
def RedOp.apply (op : RedOp) (f : ConvFmt) (tie lo hi : Nat) (cs : List Nat) : Nat × Nat :=
  let chosen (x : Chosen) : Nat × Nat := (x.bits, if tie = 2 then maskOf x.tied else x.idx)
  match op with
  | .max => chosen (reduceExtreme f true tie cs)
  | .min => chosen (reduceExtreme f false tie cs)
  | .med => chosen (reduceMedian f cs)
  | .clamp => clampElem f lo hi (cs.getD 0 0)
  | .sum =>
    let r := saturatingSum f lo hi cs
    (r.1, if r.2 then 1 else 0)

/-- A reduction over its whole source (R275 to R277). -/
def Op.reduce (op : Op) (r : RedOp) (wit res src : Obj) : Work Unit :=
  match r.operands (op.args.map BitVec.toNat) with
  | none => pure ()
  | some (d, lo, hi) => do
    let cols := Obj.cols res
    let outs ← eachOf (Obj.rows res * cols) fun e => do
      let cs ← eachOf (d.count (Obj.rows src) (Obj.cols src)) fun k =>
        let p := d.contributor (e / cols) (e % cols) k
        op.readCell src p.1 p.2
      pure (r.apply (Obj.fmt src) d.tie lo hi cs)
    outs.zipIdx.forM fun x => do
      op.writeElem res x.2 x.1.1
      op.writeWitness wit x.2 x.1.2
    modify fun s => s.energy op.tile op.ctx 11 (Obj.rows res * cols)

/-- Which reduction an instruction is. -/
def redOpOf : Instr → Option RedOp
  | .rmaxW _ | .rmaxWCr _ => some .max
  | .rminW _ | .rminWCr _ => some .min
  | .rmedW _ | .rmedWCr _ => some .med
  | .rclampW _ | .rclampWCr _ => some .clamp
  | .rssumW _ | .rssumWCr _ => some .sum
  | _ => none

/-- A queued tile reduction of one of the given kinds performs. -/
def State.performReduction (s : State) (id : Nat) (kinds : List RedOp) : State :=
  s.withOp id fun op =>
    match redOpOf op.instr, op.objs with
    | some r, [wit, res, src] =>
      if kinds.contains r then
        s.opWork id op do
          op.reduce r wit res src
          modify fun s => (s.dropOp id).finishOpEntries id
      else s
    | _, _ => s

/-- TILE_REDUCTION_PERFORM: a maximum, minimum or median (R275). -/
def execTileReductionPerform (id : Nat) (s : State) : Host.Outcome State Fault Refusal :=
  .next (s.performReduction id [.max, .min, .med])

/-- CLAMP_SUM_PERFORM: a clamp or a saturating sum (R276). -/
def execClampSumPerform (id : Nat) (s : State) : Host.Outcome State Fault Refusal :=
  .next (s.performReduction id [.clamp, .sum])

/-! ## WREL and ADJB (R279, R281 to R283) -/

/-- WREL (R279). -/
def wrelWork (f : Obj1Form) (_ : Issue) (_ : Nat) (l : Lane) : Work Unit := do
  let wit ← checkEntry l.th.tile l.th.ctx f.o.toNat [.witness] rightW
  modify fun s => s.regionEnd l.tid (some 3)
  writeGeneration l wit.1 (2 ^ 31 + Obj.field wit 0x18 4 % 2 ^ 31 + Obj.field wit 0x1C 4 * 2 ^ 32)

/-- The instruction of `wrelWork`, in each thread of its group. -/
def execWrel (f : Obj1Form) (s : State) : Host.Outcome State Fault Refusal :=
  .next (s.eachLane (.wrel f) (wrelWork f))

/-- The descriptor of an ADJB fits its witness's FORM (R281). -/
def adjbFits (form : Nat) (d : Window) (word contributors : Nat) : Bool :=
  (form != 2 || word == 0x1111) && (form != 3 || d.tie == 0) &&
    (d.tie != 2 || (form == 1 && decide (contributors ≤ 16)))

/-- ADJB: the checks, then the witness must be live (R281). -/
def adjbWork (f : Red1Form) (iss : Issue) (no : Nat) (l : Lane) : Work Unit := do
  let va := Opnd.word l.cap.a 0
  let word := Opnd.word l.cap.a 1
  match Window.ofWord word with
  | none => Work.illeg
  | some d =>
    Work.legal (!(d.tie == 2 && d.mode == 0 && decide (d.ww * d.wh > 16)))
    let check (idx : Nat) (k : ObjKind) (rights : Nat) : Work Obj := checkEntry l.th.tile l.th.ctx idx [k] rights
    let wit ← check f.o.toNat .witness (rightR + rightA)
    let grad ← check (f.obj.getD 0).toNat .tile (rightR + rightA)
    let input ← check (va % 2 ^ 16) .tile (rightR + rightW + rightA)
    let bnd ← if va / 2 ^ 16 = 0xFFFF then pure [] else do
        let o ← check (va / 2 ^ 16) .tile (rightR + rightW + rightA)
        pure [o]
    Work.within (Obj.rows grad == Obj.witRows wit && Obj.cols grad == Obj.witCols wit) grad.1
    Work.within (Obj.rows input ≤ 128 && Obj.cols input ≤ 128 &&
      d.shape (Obj.rows input) (Obj.cols input) == some (Obj.witRows wit, Obj.witCols wit)) input.1
    bnd.forM fun o => Work.within (decide (2 ≤ Obj.cols o)) o.1
    checkFootprint l.th.cell wit 0 (Obj.witBytes wit)
    (grad :: input :: bnd).forM fun o => checkFootprint l.th.cell o 0 (Obj.span o)
    Work.legal ((grad :: input :: bnd).all fun o => Obj.fmtCode o == 0)
    Work.legal (adjbFits (Obj.witForm wit) d word (d.count (Obj.rows input) (Obj.cols input)))
    let s ← get
    let live ← (match readEntry l.th.tile l.th.ctx (Obj.witResult wit) s with
      | .ok (o, s) => do
        set s
        pure (witLive wit o)
      | .error (.trap .bounds _) => pure false
      | .error x => Work.stop x)
    Work.need live (.trap .witstale wit.1)
    let _ ← submit iss (.adjb f) l no 4 (wit :: grad :: input :: bnd) l.cap.words 0

/-- The instruction of `adjbWork`, in each thread of its group. -/
def execAdjb (f : Red1Form) (s : State) : Host.Outcome State Fault Refusal :=
  .next (s.eachLane (.adjb f) (adjbWork f))

/-- Add of R282 into an element of a TILE. -/
def Op.addInto (op : Op) (o : Obj) (r c q : Nat) : Work Unit := do
  let n := r * Obj.cols o + c
  let x ← op.readElem o n
  op.writeElem o n (fAdd x q)

/-- The routing of one result element (R282). -/
def Op.route (op : Op) (d : Window) (wit grad input : Obj) (bnd : List Obj) (e : Nat) : Work Unit := do
  let cols := Obj.witCols wit
  let g ← op.readElem grad e
  let w ← op.readWitness wit e
  let form := Obj.witForm wit
  (adjbRoutes form d (d.count (Obj.rows input) (Obj.cols input)) g w).forM fun x =>
    let p := d.contributor (e / cols) (e % cols) x.1
    op.addInto input p.1 p.2 x.2
  if form = 2 ∧ (w = 1 ∨ w = 2) then bnd.forM fun o => op.addInto o 0 (if w = 1 then 0 else 1) g

/-- ADJB_PERFORM: the routed gradients, in row-major order of the result elements (R282, R283). -/
def execAdjbPerform (id : Nat) (s : State) : Host.Outcome State Fault Refusal :=
  .next (s.withOp id fun op =>
    match op.instr, op.objs, Window.ofWord (((op.args[1]?).map BitVec.toNat).getD 0) with
    | .adjb _, wit :: grad :: input :: bnd, some d =>
      s.opWork id op do
        (List.range (Obj.witRows wit * Obj.witCols wit)).forM (op.route d wit grad input bnd)
        modify fun s => ((s.energy op.tile op.ctx 11 (Obj.witRows wit * Obj.witCols wit)).dropOp id).finishOpEntries id
    | _, _, _ => s)

/-! ## Convergence-set forms (R284, R285) -/

/-- The format that TYPE names (R284). -/
def crFormat (f : RedCrForm) : ConvFmt := if f.y then .int 32 true else .flt .fp32

/-- A signature of a convergence-set form; its bounds must be legal (R256, R284). -/
def crWork (i : Instr) (f : RedCrForm) (bounded : Bool) (iss : Issue) (no : Nat) (l : Lane) : Work Unit := do
  maySign i l
  Work.legal (!bounded || boundsOk (crFormat f) (Opnd.word l.cap.a 1) (Opnd.word l.cap.a 2))
  sign i iss no l [] l.cap.words

/-- RMAX.W.CR (R284). -/
def execRmaxWCr (f : RedCrForm) (s : State) : Host.Outcome State Fault Refusal :=
  .next (s.eachLane (.rmaxWCr f) (crWork (.rmaxWCr f) f false))

/-- RMIN.W.CR (R284). -/
def execRminWCr (f : RedCrForm) (s : State) : Host.Outcome State Fault Refusal :=
  .next (s.eachLane (.rminWCr f) (crWork (.rminWCr f) f false))

/-- RMED.W.CR (R284). -/
def execRmedWCr (f : RedCrForm) (s : State) : Host.Outcome State Fault Refusal :=
  .next (s.eachLane (.rmedWCr f) (crWork (.rmedWCr f) f false))

/-- RCLAMP.W.CR (R284). -/
def execRclampWCr (f : RedCrForm) (s : State) : Host.Outcome State Fault Refusal :=
  .next (s.eachLane (.rclampWCr f) (crWork (.rclampWCr f) f true))

/-- RSSUM.W.CR (R284). -/
def execRssumWCr (f : RedCrForm) (s : State) : Host.Outcome State Fault Refusal :=
  .next (s.eachLane (.rssumWCr f) (crWork (.rssumWCr f) f true))

/-- F0 of a thread: the lowest WID field (R33). -/
def State.f0 (s : State) (t : Thread) : Nat := t.wid.toNat % 2 ^ ((s.stageOf t).widths.headD 0)

/-- A signer of a set reduction: its signature, F0 and value. -/
structure Signer where
  op : Nat
  f0 : Nat
  x : Nat
  deriving DecidableEq, Repr

/-- A signer placed in increasing F0. -/
def insertSigner (g : Signer) : List Signer → List Signer
  | [] => [g]
  | h :: rest => if g.f0 < h.f0 then g :: h :: rest else h :: insertSigner g rest

/-- The signers of a set in increasing F0 (R285). -/
def State.contributors (s : State) (op : Op) : List Signer :=
  op.signers.foldl (fun acc g =>
    match Map.get? s.ops g with
    | some o => insertSigner ⟨g, ((s.thread? o.tid).map s.f0).getD 0, ((o.args[0]?).map BitVec.toNat).getD 0⟩ acc
    | none => acc) []

/-- The reply of each signer, result and witness (R285). -/
def crReplies (r : RedOp) (f : RedCrForm) (lo hi : Nat) (gs : List Signer) : List (Nat × Nat × Nat) :=
  let F := crFormat f
  let tie := f.t.toNat
  let xs := gs.map Signer.x
  let chosen (x : Chosen) : List (Nat × Nat × Nat) := gs.zipIdx.map fun g =>
    let mine := if tie = 2 then x.tied.contains g.2 else g.2 == x.idx
    (g.1.op, x.bits, crWitness mine (if tie = 2 then x.tied.length else 1) 0 (((gs[x.idx]?).map Signer.f0).getD 0))
  match r with
  | .max => chosen (reduceExtreme F true tie xs)
  | .min => chosen (reduceExtreme F false tie xs)
  | .med => chosen (reduceMedian F xs)
  | .clamp => gs.map fun g =>
    let y := clampElem F lo hi g.x
    (g.op, y.1, crWitness (y.2 == 0 || y.2 == 3) 1 y.2 0)
  | .sum =>
    let y := saturatingSum F lo hi xs
    gs.map fun g => (g.op, y.1, crWitness (!y.2) 1 (if y.2 then 1 else 0) 0)

/-- The fields of a convergence-set form. -/
def crFields : Instr → Option RedCrForm
  | .rmaxWCr f | .rminWCr f | .rmedWCr f | .rclampWCr f | .rssumWCr f => some f
  | _ => none

/-- CR_SET_REDUCTION: each signer's result and witness; the bounds are those of the signature that completed the set (R285). -/
def execCrSetReduction (id : Nat) (s : State) : Host.Outcome State Fault Refusal :=
  .next (s.withSet id fun op =>
    match redOpOf op.instr, crFields op.instr with
    | some r, some f =>
      let arg (n : Nat) : Nat := ((op.args[n]?).map BitVec.toNat).getD 0
      ((crReplies r f (arg 1) (arg 2) (s.contributors op)).foldl
        (fun s x => s.replyTo x.1 [BitVec.ofNat 32 x.2.1, BitVec.ofNat 32 x.2.2]) s).finishSet op
    | _, _ => s)

end Sys2Proof.Machine
end

