-- ==== Sys2Proof/Machine/Units.lean ====
section
/-! DEFINITION. The traversal unit, the spectral texture unit, the rasteriser and the film: TRACE, TRACEA, STEX, STEXUP, SCMF,
FILM.ADD, FILM.RD, RAST and VISRD, and the steps in which they perform (spec/09_isa_spectral.md R175 to R189,
spec/10_stages_film.md R204 to R211). -/
namespace Sys2Proof.Machine

/-! ## What the units read and write (R176, R211, R315) -/

/-- Bytes that a unit reads as a plain load: an uncorrectable error halts the context (R176, R315). -/
def Op.unitBytes (op : Op) (o : Obj) (off n : Nat) : Work (List Byte) := do
  let pa ← op.reach o off .read
  let s ← get
  if s.eccAt pa n then Work.stop (.ecc pa) else op.readBytes o off n

/-- One update, written whole (R211). -/
def Op.update (op : Op) (o : Obj) (off : Nat) (bs : List Byte) : Work Unit := do
  let pa ← op.reach o off .write
  modify fun s => (s.perform op.tid (bytesAt pa bs)).accessEnergy op.tile op.ctx pa bs.length

/-- The race check of one access that a film or visibility word makes at its issue, which updates of others never meet (R211, R329). -/
def Lane.checkUpdate (l : Lane) (o : Obj) (off n : Nat) (asWrite : Bool) : Work Unit := do
  let r ← l.reachObj o off (if asWrite then .write else .read)
  let s ← get
  match s.raceCheck l.th r.1 n r.2 asWrite true with
  | (true, _) => Work.stop (.trap .mmx ((o.base + off) % 2 ^ 52))
  | (false, s') => set s'

/-- An FP32 that is finite. -/
def finiteField (v : Nat) : Bool := fIsFinite v

/-! ## TRACE and TRACEA (R175, R183 to R189) -/

def Obj.hierNodes (o : Obj) : Nat := o.field 0x0E 2
def Obj.hierInst (o : Obj) : Nat := o.field 0x10 4

/-- The checks and the submission of a traversal (R175). -/
def traceWork (i : Instr) (f : TraceForm) (iss : Issue) (no : Nat) (l : Lane) : Work Unit := do
  let h ← checkEntry l.th.tile l.th.ctx (f.obj.getD 0).toNat [.hier] rightR
  let n ← checkEntry l.th.tile l.th.ctx (Obj.hierNodes h) [.buffer] rightR
  checkFootprint l.th.cell n 0 (Obj.field n 0x10 8)
  let _ ← submit iss i l no 5 [h, n] l.cap.words 0

/-- TRACE (R188, R189). -/
def execTrace (f : TraceForm) (s : State) : Host.Outcome State Fault Refusal :=
  .next (s.eachLane (.trace f) (traceWork (.trace f) f))

/-- TRACEA (R188, R189). -/
def execTracea (f : TraceForm) (s : State) : Host.Outcome State Fault Refusal :=
  .next (s.eachLane (.tracea f) (traceWork (.tracea f) f))

/-- The unit's reads of a node buffer; each node costs a node test (R183, R188, R412). -/
def Op.nodeRead (op : Op) (buf : Obj) (off n : Nat) : Work (Option Nat) :=
  if off + n > buf.field 0x10 8 then pure none
  else do
    let bs ← op.unitBytes buf off n
    if n = 128 then modify fun s => s.energy op.tile op.ctx 9 1
    pure (some (ofBytes bs))

/-- The ray that a word captured (R189). -/
def rayOf (ws : List Nat) : Ray := ⟨ws.take 3, (ws.drop 4).take 3, ws.getD 3 0, ws.getD 7 0⟩

/-- The unit's reply into the destination of its word, which leaves tq. -/
def unitReply (id : Nat) (ws : List Nat) : Work Unit := modify fun s =>
  (s.replyTo id (ws.map (BitVec.ofNat 32))).dropOp id

/-- TRACE_WALK: the walk, and its six registers (R188, R189). -/
def execTraceWalk (id : Nat) (s : State) : Host.Outcome State Fault Refusal :=
  .next (s.withOp id fun op =>
    let go (any : Bool) (h n : Obj) : State := s.opWork id op do
      let r ← traceRay (fun off k => op.nodeRead n off k) any (rayOf (op.args.map BitVec.toNat))
      unitReply id (r.words (Obj.hierInst h))
    match op.instr, op.objs with
    | .trace _, [h, n] => go false h n
    | .tracea _, [h, n] => go true h n
    | _, _ => s)

/-! ## STEX, STEXUP and SCMF (R175, R177 to R182) -/

def Obj.texels (o : Obj) : Nat := o.field 0x0E 2

/-- The fields of a SPECTRAL entry (R177, R236). -/
def Obj.spectrum (o : Obj) : Spectrum :=
  { w := o.field 0x10 2, h := o.field 0x12 2, l := o.field 0x14 2, n := o.field 0x16 2, lambda0 := o.field 0x18 4
    dlambda := o.field 0x1C 4, edgeZero := o.field 0x20 1 % 2 == 1, wrap := o.field 0x20 1 / 2 % 2 == 1 }

/-- A wavelength origin and step within their limits: finite, the step above zero (R177, R207). -/
def lambdaOk (l0 dl : Nat) : Bool := finiteField l0 && finiteField dl && fGt dl 0

/-- The limits of R177. -/
def Obj.spectralOk (o : Obj) : Bool :=
  let t := o.spectrum
  decide (1 ≤ t.w ∧ t.w ≤ 16384 ∧ 1 ≤ t.h ∧ t.h ≤ 16384 ∧ 1 ≤ t.l ∧ t.l ≤ 2048 ∧ 1 ≤ t.n ∧ t.n ≤ 1024) &&
    (o.fmtCode == 0 || o.fmtCode == 2) && lambdaOk t.lambda0 t.dlambda

/-- The bytes of a SPECTRAL entry's texels (R177). -/
def Obj.texelBytes (o : Obj) : Nat := o.spectrum.w * o.spectrum.h * o.spectrum.l * o.spectrum.n * (o.bits / 8)

/-- The checks and the submission of a texture word; `shape` is what the form asks of the entry (R175, R181, R182). -/
def stexWork (i : Instr) (f : StexForm) (shape : Obj → Bool) (iss : Issue) (no : Nat) (l : Lane) : Work Unit := do
  let t ← checkEntry l.th.tile l.th.ctx (f.obj.getD 0).toNat [.spectral] rightT
  let b ← checkEntry l.th.tile l.th.ctx (Obj.texels t) [.buffer] rightR
  Work.within (Obj.spectralOk t && shape t) t.1
  checkFootprint l.th.cell b 0 (Obj.texelBytes t)
  let _ ← submit iss i l no 5 [t, b] l.cap.words 0

/-- A coefficient table (R181). -/
def Obj.isGrid (o : Obj) : Bool :=
  let t := o.spectrum
  t.w == t.h && t.h == t.l && decide (2 ≤ t.w ∧ t.w ≤ 64) && t.n == 3 && o.fmtCode == 0

/-- A table of colour-matching functions (R182). -/
def Obj.isMatching (o : Obj) : Bool := o.spectrum.w == 1 && o.spectrum.h == 1 && o.spectrum.l == 3

/-- STEX (R180). -/
def execStex (f : StexForm) (s : State) : Host.Outcome State Fault Refusal :=
  .next (s.eachLane (.stex f) (stexWork (.stex f) f fun _ => true))

/-- STEXUP (R181). -/
def execStexup (f : StexForm) (s : State) : Host.Outcome State Fault Refusal :=
  .next (s.eachLane (.stexup f) (stexWork (.stexup f) f Obj.isGrid))

/-- SCMF (R182). -/
def execScmf (f : StexForm) (s : State) : Host.Outcome State Fault Refusal :=
  .next (s.eachLane (.scmf f) (stexWork (.scmf f) f Obj.isMatching))

/-- A sample of a texel, widened to FP32 (R177). -/
def Op.sample (op : Op) (t buf : Obj) (x y l k : Nat) : Work Nat := do
  let sp := t.spectrum
  let size := t.bits / 8
  let bs ← op.unitBytes buf ((((l * sp.h + y) * sp.w + x) * sp.n + k) * size) size
  pure (copyElem t.fmt (.flt .fp32) (ofBytes bs))

/-- The lanes of wa and wb that a texture word captured. -/
def Op.lanesA (op : Op) : List Nat := (op.args.take 4).map BitVec.toNat
def Op.lanesB (op : Op) : List Nat := ((op.args.drop 4).take 4).map BitVec.toNat

/-- A texture fetch and its reply (R178 to R182, R412). -/
def State.fetchOp (s : State) (id : Nat) (op : Op) (lanes : Work (List Nat)) : State :=
  s.opWork id op do
    let ws ← lanes
    modify fun s => s.energy op.tile op.ctx 10 4
    unitReply id ws

/-- SPECTRAL_FETCH (R178, R180). -/
def execSpectralFetch (id : Nat) (s : State) : Host.Outcome State Fault Refusal :=
  .next (s.withOp id fun op =>
    match op.instr, op.objs with
    | .stex _, [t, b] => s.fetchOp id op (stexLanes (Obj.spectrum t) (op.sample t b) op.lanesA op.lanesB)
    | _, _ => s)

/-- RGB_UPSAMPLE_FETCH (R181). -/
def execRgbUpsampleFetch (id : Nat) (s : State) : Host.Outcome State Fault Refusal :=
  .next (s.withOp id fun op =>
    match op.instr, op.objs with
    | .stexup _, [t, b] => s.fetchOp id op (stexupLanes (Obj.spectrum t) (op.sample t b) op.lanesA op.lanesB)
    | _, _ => s)

/-- CMF_PROJECT_FETCH (R182). -/
def execCmfProjectFetch (id : Nat) (s : State) : Host.Outcome State Fault Refusal :=
  .next (s.withOp id fun op =>
    match op.instr, op.objs with
    | .scmf _, [t, b] => s.fetchOp id op (scmfLanes (Obj.spectrum t) (op.sample t b) op.lanesA op.lanesB)
    | _, _ => s)

/-! ## The film (R207 to R211) -/

def Obj.filmLambda0 (o : Obj) : Nat := o.field 0x14 4
def Obj.filmDlambda (o : Obj) : Nat := o.field 0x18 4

/-- The limits of R207. -/
def Obj.filmOk (o : Obj) : Bool :=
  decide (1 ≤ o.filmWidth ∧ o.filmWidth ≤ 16384 ∧ 1 ≤ o.filmHeight ∧ o.filmHeight ≤ 16384 ∧ 1 ≤ o.filmBins ∧ o.filmBins ≤ 1024) &&
    lambdaOk o.filmLambda0 o.filmDlambda

/-- The byte of a channel (R207). -/
def Obj.channel (o : Obj) (p j : Nat) : Nat := (p * o.filmBins + j) * 8

/-- A FILM object, checked (R175, R207, R209). -/
def filmOf (l : Lane) (idx rights : Nat) : Work Obj := do
  let o ← checkEntry l.th.tile l.th.ctx idx [.film] rights
  Work.within (Obj.filmOk o) o.1
  checkFootprint l.th.cell o 0 (Obj.filmPixels o * Obj.filmBins o * 8)
  pure o

/-- What FILM.ADD deposits: each lane that is kept, its bin and its value (R210). -/
def filmDeposits (o : Obj) (ws : List Nat) : List (Nat × Nat) :=
  (List.range 4).filterMap fun i =>
    (filmBin o.filmLambda0 o.filmDlambda o.filmBins (ws.getD (5 + i) 0)).map fun j => (j, ws.getD (1 + i) 0)

/-- FILM.ADD (R209, R210). -/
def filmAddWork (f : FilmAddForm) (iss : Issue) (no : Nat) (l : Lane) : Work Unit := do
  let o ← filmOf l (f.obj.getD 0).toNat rightW
  Work.within (decide (l.a < Obj.filmPixels o)) o.1
  let ws := l.cap.words.map BitVec.toNat
  (filmDeposits o ws).forM fun x => l.checkUpdate o (Obj.channel o l.a x.1) 8 true
  let _ ← submit iss (.filmAdd f) l no 5 [o] l.cap.words 0

/-- The instruction of `filmAddWork`, in each thread of its group. -/
def execFilmAdd (f : FilmAddForm) (s : State) : Host.Outcome State Fault Refusal :=
  .next (s.eachLane (.filmAdd f) (filmAddWork f))

/-- The deposits of a FILM.ADD, each lane's one indivisible update (R208, R210). -/
def Op.deposit (op : Op) (o : Obj) : Work Unit := do
  let ws := op.args.map BitVec.toNat
  (filmDeposits o ws).forM fun x => do
    let off := Obj.channel o (ws.getD 0 0) x.1
    let bs ← op.unitBytes o off 8
    let r := filmAdd (ofBytes (bs.take 4)) (ofBytes (bs.drop 4)) x.2
    op.update o off (toBytes 4 r.1 ++ toBytes 4 r.2)
  modify fun s => s.energy op.tile op.ctx 11 (filmDeposits o ws).length

/-- A FILM.ADD of a saved context, which has left its partition and follows nothing that is saved with it: its image and its operation. -/
def State.savedFilm (s : State) (id : Nat) : Option (Nat × Image × Op) :=
  s.images.findSome? fun x =>
    match Map.get? x.2.ops id with
    | some op =>
      if (op.after.any fun o => (Map.get? x.2.ops o).isSome) ||
          x.2.threads.any fun t => t.2.replay.any fun e => e.op == some id && e.state == .held then none
      else some (x.1, x.2, op)
    | none => none

/-- The updates of a FILM.ADD reach the cell of a context that is out: an unkept allocation holds them in its home tile's deferral queue, a
kept one takes them (R157, R212). -/
def State.filmOut (s : State) (token id : Nat) (x : Image) (op : Op) : State :=
  match op.instr, op.objs with
  | .filmAdd _, [o] =>
    let left := { s with images := Map.set s.images token { x with ops := Map.del x.ops id } }
    if Obj.scope o ≠ 1 then s
    else if x.keep then
      match op.deposit o left with
      | .ok (_, s) => s
      | .error _ => s
    else left.holdUpdate op.cell { ctx := ((s.anyCell op.cell).map Cell.ctx).getD op.ctx, cell := op.cell, film := some op }
  | _, _ => s

/-- FILM_ADD_PERFORM: each lane's deposit, one indivisible update (R208, R210, R212). -/
def execFilmAddPerform (id : Nat) (s : State) : Host.Outcome State Fault Refusal :=
  .next (match s.savedFilm id with
    | some (token, x, op) => s.filmOut token id x op
    | none => s.withOp id fun op =>
      match op.instr, op.objs with
      | .filmAdd _, [o] =>
        s.opWork id op do
          op.deposit o
          modify fun s => (s.dropOp id).finishOpEntries id
      | _, _ => s)

/-- FILM.RD (R209, R210). -/
def filmRdWork (f : Film3Form) (iss : Issue) (no : Nat) (l : Lane) : Work Unit := do
  let o ← filmOf l (f.obj.getD 0).toNat rightR
  Work.within (decide (l.a < Obj.filmPixels o ∧ l.b < Obj.filmBins o)) o.1
  l.checkUpdate o (Obj.channel o l.a l.b) 8 false
  let _ ← submit iss (.filmRd f) l no 5 [o] l.cap.words 0

/-- The instruction of `filmRdWork`, in each thread of its group. -/
def execFilmRd (f : Film3Form) (s : State) : Host.Outcome State Fault Refusal :=
  .next (s.eachLane (.filmRd f) (filmRdWork f))

/-- FILM_RD_PERFORM (R210). -/
def execFilmRdPerform (id : Nat) (s : State) : Host.Outcome State Fault Refusal :=
  .next (s.withOp id fun op =>
    match op.instr, op.objs with
    | .filmRd _, [o] =>
      let ws := op.args.map BitVec.toNat
      s.opWork id op do
        let bs ← op.unitBytes o (Obj.channel o (ws.getD 0 0) (ws.getD 1 0)) 8
        unitReply id [fAdd (ofBytes (bs.take 4)) (ofBytes (bs.drop 4))]
    | _, _ => s)

/-! ## The rasteriser (R204, R205, R210) -/

def Obj.primRecords (o : Obj) : Nat := o.field 0x0E 2
def Obj.primTarget (o : Obj) : Nat := o.field 0x14 2
def Obj.visStore (o : Obj) : Nat := o.field 0x14 2

/-- The limits of a VISBUF (R204). -/
def Obj.visOk (o : Obj) : Bool :=
  decide (1 ≤ o.visWidth ∧ o.visWidth ≤ 16384 ∧ 1 ≤ o.visHeight ∧ o.visHeight ≤ 16384) && [1, 2, 4].contains o.visSamples

/-- A VISBUF with its STORE, checked (R204, R209). -/
def visOf (l : Lane) (idx rights : Nat) : Work (Obj × Obj) := do
  let v ← checkEntry l.th.tile l.th.ctx idx [.visbuf] 0
  let b ← checkEntry l.th.tile l.th.ctx (Obj.visStore v) [.buffer] rights
  Work.within (Obj.visOk v) v.1
  checkFootprint l.th.cell b 0 (16 * Obj.visCount v)
  pure (v, b)

/-- The samples of a visibility buffer that a record covers, each with its depth (R205). -/
def rastSamples (vis : Obj) (rec' : List Byte) : List (Nat × Nat) :=
  let w (off : Nat) : Nat := ofBytes ((rec'.drop off).take 4)
  let corner (off : Nat) : List Nat := [w off, w (off + 4), w (off + 8)]
  let n := Obj.visSamples vis
  (List.range (Obj.visCount vis)).filterMap fun i =>
    let pixel := i / n
    let o := sampleOffset n (i % n)
    let x := 8 * (pixel % Obj.visWidth vis) + o.1
    let y := 8 * (pixel / Obj.visWidth vis) + o.2
    (rastSample (corner 0) (corner 12) (corner 24) x y).map fun z => (i, z)

/-- The race check of a RAST: each DepthUpdate that its records make, as they stand at the issue, is an atomic write of its sample (R211,
R329, R330). A record that cannot be read yet is not checked. -/
def Lane.checkRast (l : Lane) (i : Instr) (records vis store : Obj) (first n : Nat) : Work Unit :=
  (List.range n).forM fun k => do
    let s ← get
    let op : Op := { tid := l.tid, ctx := l.th.ctx, cell := l.th.cell, tile := l.th.tile, queue := 5, instr := i
                     privileged := s.privileged l.th.ctx }
    match (op.readBytes records (48 * (first + k)) 48) s with
    | .ok (rec', _) => (rastSamples vis rec').forM fun x => l.checkUpdate store (16 * x.1) 16 true
    | .error _ => pure ()

/-- RAST (R204, R209 to R211). -/
def rastWork (f : Reg2ObjForm) (iss : Issue) (no : Nat) (l : Lane) : Work Unit := do
  let p ← checkEntry l.th.tile l.th.ctx (f.obj.getD 0).toNat [.primb] rightR
  let r ← checkEntry l.th.tile l.th.ctx (Obj.primRecords p) [.buffer] rightR
  Work.within (decide (1 ≤ Obj.primCount p ∧ Obj.primCount p ≤ 2 ^ 24)) p.1
  checkFootprint l.th.cell r 0 (48 * Obj.primCount p)
  let v ← visOf l (Obj.primTarget p) rightW
  Work.within (decide (l.a + l.b ≤ Obj.primCount p)) p.1
  l.checkRast (.rast f) r v.1 v.2 l.a l.b
  let _ ← submit iss (.rast f) l no 5 [r, v.1, v.2] l.cap.words 0

/-- The instruction of `rastWork`, in each thread of its group. -/
def execRast (f : Reg2ObjForm) (s : State) : Host.Outcome State Fault Refusal :=
  .next (s.eachLane (.rast f) (rastWork f))

/-- DepthUpdate of R205 on sample n of a visibility buffer. -/
def Op.depthUpdate (op : Op) (store : Obj) (n z prim : Nat) : Work Unit := do
  let bs ← op.unitBytes store (16 * n) 16
  if depthWins z prim (ofBytes ((bs.drop 8).take 4)) (ofBytes (bs.take 8)) then
    op.update store (16 * n) (toBytes 8 prim ++ toBytes 4 z ++ bs.drop 12)

/-- One record against every sample of the buffer (R205). -/
def Op.rastRecord (op : Op) (records vis store : Obj) (k : Nat) : Work Unit := do
  let bs ← op.unitBytes records (48 * k) 48
  (rastSamples vis bs).forM fun x => op.depthUpdate store x.1 x.2 (ofBytes ((bs.drop 0x28).take 8))

/-- RAST_PERFORM (R205, R210). -/
def execRastPerform (id : Nat) (s : State) : Host.Outcome State Fault Refusal :=
  .next (s.withOp id fun op =>
    match op.instr, op.objs with
    | .rast _, [r, v, b] =>
      let ws := op.args.map BitVec.toNat
      s.opWork id op do
        (List.range (ws.getD 1 0)).forM fun k => op.rastRecord r v b (ws.getD 0 0 + k)
        modify fun s => (s.dropOp id).finishOpEntries id
    | _, _ => s)

/-- VISRD (R209, R210). -/
def visrdWork (f : Film3Form) (iss : Issue) (no : Nat) (l : Lane) : Work Unit := do
  let v ← visOf l (f.obj.getD 0).toNat rightR
  Work.within (decide (l.a < Obj.visWidth v.1 * Obj.visHeight v.1 ∧ l.b < Obj.visSamples v.1)) v.1.1
  l.checkUpdate v.2 (16 * (l.a * Obj.visSamples v.1 + l.b)) 16 false
  let _ ← submit iss (.visrd f) l no 5 [v.1, v.2] l.cap.words 0

/-- The instruction of `visrdWork`, in each thread of its group. -/
def execVisrd (f : Film3Form) (s : State) : Host.Outcome State Fault Refusal :=
  .next (s.eachLane (.visrd f) (visrdWork f))

/-- VISRD_PERFORM: PRIM, then DEPTH (R210). -/
def execVisrdPerform (id : Nat) (s : State) : Host.Outcome State Fault Refusal :=
  .next (s.withOp id fun op =>
    match op.instr, op.objs with
    | .visrd _, [v, b] =>
      let ws := op.args.map BitVec.toNat
      s.opWork id op do
        let bs ← op.unitBytes b (16 * (ws.getD 0 0 * Obj.visSamples v + ws.getD 1 0)) 16
        unitReply id [ofBytes (bs.take 4), ofBytes ((bs.drop 4).take 4), ofBytes ((bs.drop 8).take 4)]
    | _, _ => s)

end Sys2Proof.Machine
end

