-- ==== Sys2Proof/Machine/Fabric.lean ====
section
/-! DEFINITION. The fabric words FSEND, FWIN and FCOLL, collective trees and aborts (spec/19_fabric_host.md R365 to R375). -/
namespace Sys2Proof.Machine

/-! ## FSEND (R366, R367) -/

/-- The pieces of n bytes from an offset that lie in one 128-byte block each: where each begins and how long it is. -/
def blockPieces (a n : Nat) : List (Nat × Nat) :=
  (List.range ((a + n + 127) / 128 - a / 128)).map fun k =>
    let lo := max a ((a / 128 + k) * 128)
    (lo - a, min (a + n) ((a / 128 + k + 1) * 128) - lo)

/-- What holds a physical address: this package, another whose fabric window it lies in, or a number above every package's for the host
and for the privileged window (R311, R367). -/
def State.packageOf (s : State) (pa : Nat) : Nat :=
  match regionOf pa with
  | .fabric p _ => p
  | .host => 2 ^ 32
  | .privileged => 2 ^ 33
  | _ => s.fabric.fabid

/-- Where a window offset of an FSEND's destination leads (R101, R312, R367). -/
def Op.windowPa (op : Op) (off : Nat) : Work Nat := fun s =>
  let off := off % 2 ^ 32
  if off ≥ cellWindow then
    match Map.get? s.cells op.cell with
    | some c => .ok (c.slice + (off - cellWindow), s)
    | none => .error (.fatal s)
  else
    match s.translateAs op.privileged op.tile op.ctx (op.bytes % 2 ^ 20 * 2 ^ 32 + off) .write with
    | (.ok pa _, s) => if s.unreachable pa || regionOf pa == .multicast then .error (.fatal s) else .ok (s.localPa pa, s)
    | (.pgfault f, _) => .error (.parked { f with engine := true })
    | (.pgfatal, _) => .error (.fatal s)

/-- FSEND: the checks and the submission (R366, R367). -/
def fsendWork (f : FcollWForm) (iss : Issue) (no : Nat) (l : Lane) : Work Unit := do
  let w (i : Nat) : Nat := Opnd.word l.cap.a i
  Work.legal (decide (1 ≤ w 1 ∧ w 1 ≤ 2 ^ 24 ∧ w 3 < 2 ^ 16))
  let src ← checkEntry l.th.tile l.th.ctx f.o.toNat [.buffer] (rightR + rightF)
  let bar ← if w 3 = 0xFFFF then pure [] else do
      let b ← checkEntry l.th.tile l.th.ctx (w 3) [.barrier] rightW
      pure [b]
  checkFootprint l.th.cell src (w 0) (w 1)
  bar.forM fun b => checkFootprint l.th.cell b 0 16
  let s ← get
  let past := w 2 + w 1 - cellWindow
  Work.within (decide (w 2 + w 1 ≤ cellWindow ∨ 2 ^ 32 ≤ w 2 ∨ past ≤ s.sliceLen l.th.cell)) 0xFFFF
  let _ ← submit iss (.fsend f) l no 6 (src :: bar) l.cap.words (l.th.awin.toNat / 2 ^ 32 % 2 ^ 20)

/-- The instruction of `fsendWork`, in each thread of its group. -/
def execFsend (f : FcollWForm) (s : State) : Host.Outcome State Fault Refusal :=
  .next (s.eachLane (.fsend f) (fsendWork f))

/-- A piece of a send into another package: a store of the thread's stream, kept in the retry store (R348, R365, R367). -/
def State.sendPiece (s : State) (id : Nat) (op : Op) (p off : Nat) (bs : List Byte) : State :=
  let s := s.send { target := p, tid := op.tid, ctx := op.ctx, payload := .store off (bytesAt off bs), op := some id }
  (s.energy op.tile op.ctx 13 bs.length).modThread op.tid fun t => { t with stream := Map.set t.stream p (Map.getD t.stream p 0 + 1) }

/-- A send is over once it has completed locally, with its arrival made, and nothing of it is left in the retry store (R367). -/
def State.closeSend (s : State) (id : Nat) : State :=
  match Map.get? s.ops id with
  | some op =>
    if op.performed && op.progress == 1 && !(s.fabric.retry.any fun r => r.2.op == some id) then
      (s.dropOp id).finishOpEntries id
    else s
  | none => s

/-- FABOUT: a send or a push leaves its fabric queue, by its form, tree, length or chunk, and target (R407). -/
def State.fabOut (s : State) (op : Op) (form tree n target : Nat) : State :=
  s.emitOp op 6 (toBytes 1 form ++ [0] ++ toBytes 2 tree ++ toBytes 4 n ++ toBytes 2 target)

/-- FSEND_PERFORM: the source is read and written to the destination. Outside every fabric window it is then complete, and lowers its
barrier; into another package it waits for room in the retry store, and what it has written so far stands in it (R365, R367). -/
def execFsendPerform (id : Nat) (s : State) : Host.Outcome State Fault Refusal :=
  .next (s.withOp id fun op =>
    match op.instr, op.objs with
    | .fsend _, src :: bar =>
      let w (i : Nat) : Nat := ((op.args[i]?).map BitVec.toNat).getD 0
      s.opWork id op do
        let first ← op.windowPa (w 2)
        let home := s.packageOf first
        let far := match regionOf first with
          | .fabric .. => true
          | _ => false
        if far && !s.fabric.retryRoom (w 1) then set s
        else do
        modify fun s => s.fabOut op 0 0 (w 1) (if far then home else s.fabric.fabid)
        (blockPieces (w 2) (w 1)).forM fun x => do
          let bs ← op.unitBytes src (w 0 + x.1) x.2
          let pa ← op.windowPa (w 2 + x.1)
          let s ← get
          if s.packageOf pa != home then Work.fatal
          modify fun s =>
            if far then s.sendPiece id op home (pa % 2 ^ 40) bs
            else ((s.perform op.tid (bytesAt pa bs)).accessEnergy op.tile op.ctx pa bs.length).resetTags pa bs.length
        if !far then
          bar.forM fun b => do
            let pa ← op.reach b 0 .write
            modify fun s => s.lowerBarrier op.tid op.ctx b.1 pa (w 1)
          modify fun s => (s.dropOp id).finishOpEntries id
        else modify fun s => { s with ops := Map.set s.ops id { op with performed := true, progress := if bar.isEmpty then 1 else 0 } }
    | _, _ => s)

/-- FSEND_LOCAL_COMPLETE: the last byte is in the retry store, and the barrier is lowered (R365, R367). -/
def execFsendLocalComplete (id : Nat) (s : State) : Host.Outcome State Fault Refusal :=
  .next (match Map.get? s.ops id with
    | none => s
    | some op =>
      match op.instr, op.objs with
      | .fsend _, [_, bar] =>
        if !op.performed || op.progress == 1 || op.fault.isSome || !s.working op.ctx then s
        else
          (s.opWork id op do
            let pa ← op.reach bar 0 .write
            modify fun s => { s.lowerBarrier op.tid op.ctx bar.1 pa (((op.args[1]?).map BitVec.toNat).getD 0) with
              ops := Map.set s.ops id { op with progress := 1 } }).closeSend id
      | _, _ => s)

/-! ## Trees (R368) -/

/-- Word k of the table entry of a tree. -/
def Fabric.treeWord (f : Fabric) (tree k : Nat) : Nat := (Map.getD f.trees (16 * tree + k) 0).toNat
def Fabric.treeJob (f : Fabric) (tree : Nat) : Nat := f.treeWord tree 0 % 2 ^ 16
def Fabric.treeValid (f : Fabric) (tree : Nat) : Bool := f.treeWord tree 0 / 2 ^ 16 % 2 == 1
def Fabric.treeOp (f : Fabric) (tree : Nat) : Nat := f.treeWord tree 0 / 2 ^ 17 % 8
def Fabric.treeType (f : Fabric) (tree : Nat) : Nat := f.treeWord tree 0 / 2 ^ 20 % 2
def Fabric.treeRank (f : Fabric) (tree : Nat) : Nat := f.treeWord tree 1 % 2 ^ 16
def Fabric.treeHops (f : Fabric) (tree : Nat) : Nat := f.treeWord tree 1 / 2 ^ 16 % 256
/-- The push template (R368, R369). -/
def Fabric.treeEntries (f : Fabric) (tree : Nat) : List (BitVec 32) :=
  (List.range (min (f.treeHops tree) 8)).map fun i => BitVec.ofNat 32 (f.treeWord tree (2 + i))
/-- DOWN: the port mask, and LOCAL at bit 24. -/
def Fabric.treeDown (f : Fabric) (tree : Nat) : Nat := f.treeWord tree 10

/-- The job of a context, where FJOB is valid (R368). -/
def State.jobOf (s : State) (ctx : Nat) : Option Nat :=
  let v := (Map.getD s.fabric.fjob ctx 0).toNat
  if v / 2 ^ 16 % 2 = 1 then some (v % 2 ^ 16) else none

/-- The bytes of a chunk (R368). -/
def chunkBytes : Nat := 16384

/-! ## The entries of a template (R369) -/

def hopAct (e : BitVec 32) : Nat := e.toNat / 2 ^ 29
def hopPort (e : BitVec 32) : Nat := e.toNat / 2 ^ 24 % 32
def hopFanin (e : BitVec 32) : Nat := e.toNat / 2 ^ 19 % 32
def hopPos (e : BitVec 32) : Nat := e.toNat / 2 ^ 14 % 32
/-- An entry is well formed: a known action, its low bits zero, and POS below a FANIN of 1 to 24 where it holds the packet. -/
def hopOk (e : BitVec 32) : Bool :=
  decide (hopAct e ≤ 2) && e.toNat % 2 ^ 14 == 0 &&
    (hopAct e == 0 || decide (1 ≤ hopFanin e ∧ hopFanin e ≤ 24 ∧ hopPos e < hopFanin e)) && decide (hopPort e < 24)

/-! ## Combining (R368, R370) -/

/-- Quieting of an FP32 NaN (R133). -/
def quiet32 (x : Nat) : Nat := if fIsNaN x then Fmt.fp32.quiet x else x

/-- Combine of two words under FADD, BADD, IADD, MAX and MIN (R368). -/
def combineWord (op ty r x : Nat) : Nat :=
  let f : ConvFmt := if ty = 1 then .int 32 true else .flt .fp32
  match op with
  | 0 | 1 => fAdd r x
  | 2 => (r + x) % 2 ^ 32
  | 3 => (reduceExtreme f true 0 [r, x]).bits
  | 4 => (reduceExtreme f false 0 [r, x]).bits
  | _ => r

/-- Combine of two pairs of value and rank under MAXW and MINW: by Key, and on equal Key or between NaNs the lower rank (R368). -/
def combinePair (isMax : Bool) (r x : Nat × Nat) : Nat × Nat :=
  let a := elemKey (.flt .fp32) r.1
  let b := elemKey (.flt .fp32) x.1
  if a = b then (if x.2 < r.2 then x else r)
  else if decide (a < b) == isMax then x else r

/-- Words taken in pairs. -/
def pairsOf : List (BitVec 32) → List (Nat × Nat)
  | a :: b :: rest => (a.toNat, b.toNat) :: pairsOf rest
  | _ => []

/-- Combine of two contributions (R368, R370). -/
def combineData (op ty : Nat) (r x : List (BitVec 32)) : List (BitVec 32) :=
  if op = 5 ∨ op = 6 then
    (List.zipWith (combinePair (op == 5)) (pairsOf r) (pairsOf x)).flatMap fun p => [BitVec.ofNat 32 p.1, BitVec.ofNat 32 p.2]
  else List.zipWith (fun a b => BitVec.ofNat 32 (combineWord op ty a.toNat b.toNat)) r x

/-- A result as it is delivered: NaNs quieted, and BADD's rounded to BF16 (R368). -/
def deliveredData (op ty : Nat) (d : List (BitVec 32)) : List (BitVec 32) :=
  match op with
  | 0 => d.map fun x => BitVec.ofNat 32 (quiet32 x.toNat)
  | 1 => (pairsOf d).map fun p =>
    let h (x : Nat) : Nat := outRound .fp32 (Fmt.fp32.val x) (.flt .bf16)
    BitVec.ofNat 32 (h p.1 + h p.2 * 65536)
  | 3 | 4 => if ty = 0 then d.map fun x => BitVec.ofNat 32 (quiet32 x.toNat) else d
  | 5 | 6 => (pairsOf d).flatMap fun p => [BitVec.ofNat 32 (quiet32 p.1), BitVec.ofNat 32 p.2]
  | _ => d

/-- The contributions of a full group in increasing POS, combined into one packet (R370). -/
def combineGroup (cs : List CollPacket) : Option CollPacket :=
  match cs with
  | [] => none
  | c :: rest => some (rest.foldl (fun r x =>
      { r with data := combineData r.op r.ty r.data x.data, resent := r.resent || x.resent, uncorr := r.uncorr || x.uncorr }) c)

/-- The contributions of a group, the elements of an uncorrectable slot replaced by zeros (R374). -/
def RouterGroup.corrected (g : RouterGroup) : List CollPacket :=
  g.contributions.map fun c =>
    { c.2 with data := c.2.data.zipIdx.map fun d => if g.bad.contains (c.1, d.2) then 0 else d.1
               uncorr := c.2.uncorr || g.bad.any fun b => b.1 == c.1 }

/-! ## Routing (R362, R369, R370) -/

/-- Slots that a group holds: two for each contribution under BADD (R370). -/
def RouterGroup.slots (g : RouterGroup) : Nat :=
  g.fanin * (if g.contributions.any fun c => c.2.op == 1 then 2 else 1)

/-- The slots in use (R370). -/
def Fabric.slotsUsed (f : Fabric) : Nat := f.groups.foldl (fun n g => n + g.slots) 0

/-- A job's abort asked for, to be flooded as a step of its own (R375). -/
def State.askAbort (s : State) (job : Nat) : State :=
  { s with deferred := s.deferred ++ [.abort job s.fabric.fabid] }

/-- A packet sent on a port, which keeps it while it retrains; a port that is down has no alternative, and the job is aborted
(R360, R369). -/
def State.sendOn (s : State) (port : Nat) (p : CollPacket) : State :=
  if (s.fabric.link port).up || (s.fabric.link port).retraining then { s with fabric := { s.fabric with sent := s.fabric.sent ++ [(port, p)] } }
  else s.askAbort p.job

/-- A result goes down: copied to each port of the mask, counting the links it has crossed, and to the open window (R362, R369). -/
def State.sendDown (s : State) (p : CollPacket) : State :=
  let down := s.fabric.treeDown p.tree
  let s := (List.range 24).foldl (fun s port =>
    if down / 2 ^ port % 2 = 0 then s
    else if p.hops ≥ 8 then s.askAbort p.job
    else s.sendOn port { p with hops := p.hops + 1, entries := [] }) s
  if down / 2 ^ 24 % 2 = 1 then { s with fabric := { s.fabric with deliveries := s.fabric.deliveries ++ [p] } } else s

/-- A push of this rank is no longer outstanding (R372). -/
def State.pushFreed (s : State) (tree chunk : Nat) : State :=
  { s with fabric := { s.fabric with outstanding := s.fabric.outstanding.filter (· != (tree, chunk)) } }

/-- A contribution in its group: the last one frees the slots and sends the result on, or down from the root (R369, R370). -/
def State.contribute (s : State) (e : BitVec 32) (rest : List (BitVec 32)) (p : CollPacket) : State :=
  let f := s.fabric
  let mine (g : RouterGroup) : Bool := g.job == p.job && g.tree == p.tree && g.chunk == p.chunk
  let old := f.groups.find? mine
  let g : RouterGroup := old.getD { job := p.job, tree := p.tree, chunk := p.chunk, fanin := hopFanin e }
  let g := { g with contributions := Map.set g.contributions (hopPos e) p }
  let others := f.groups.filter fun x => !mine x
  if old.isNone && decide (4096 < f.slotsUsed + g.slots) then { s with fabric := { f with waiting := f.waiting ++ [p] } }
  else if g.contributions.length < g.fanin then { s with fabric := { f with groups := others ++ [g] } }
  else
    let s := { s with fabric := { f with groups := others } }
    let s := match f.treeEntries p.tree with
      | h :: _ => if hopAct h = 0 then s else s.pushFreed p.tree p.chunk
      | [] => s
    match combineGroup g.corrected with
    | none => s
    | some r =>
      if hopAct e = 2 then s.sendDown { r with data := deliveredData r.op r.ty r.data, hops := 0, entries := [] }
      else s.sendOn (hopPort e) { r with entries := rest, hops := rest.length }

/-- The tree's job is marked aborted here (R372, R375). -/
def State.discards (s : State) (p : CollPacket) : Bool :=
  match Map.get? s.fabric.opens p.tree with
  | some o => o.aborted
  | none => s.fabric.aborts.any fun a => a.1 == p.job

/-- A packet at this package's router: it pops the first entry and acts on it; a result goes down (R369). -/
def State.routePacket (s : State) (p : CollPacket) : State :=
  if s.discards p then s
  else
    match p.entries with
    | [] => s.sendDown p
    | e :: rest =>
      if !hopOk e || (rest.isEmpty && hopAct e != 2) then s.askAbort p.job
      else if hopAct e = 0 then s.sendOn (hopPort e) { p with entries := rest, hops := rest.length }
      else s.contribute e rest p

/-- Contributions that found no slot try again (R370). -/
def State.retryWaiting (s : State) : State :=
  s.fabric.waiting.foldl State.routePacket { s with fabric := { s.fabric with waiting := [] } }

/-- A packet that this package's router takes into a group, and so answers end to end (R365, R369). -/
def endsHere (p : CollPacket) : Bool :=
  match p.entries with
  | e :: _ => hopOk e && hopAct e != 0
  | [] => false

/-- COLLECTIVE_PACKET_ARRIVAL: what is taken into a group is acknowledged, and one that its source has resent is taken once (R365,
R369). -/
def execCollectivePacketArrival (p : PacketArrival) (s : State) : Host.Outcome State Fault Refusal :=
  .next (
    let s := s.retryWaiting
    if !endsHere p.packet then s.routePacket p.packet
    else if s.fabric.seen.contains (p.src, p.seq) then s
    else
      { s with fabric := { s.fabric with
        seen := (p.src, p.seq) :: s.fabric.seen, replies := s.fabric.replies ++ [(p.src, p.seq, [])] } }.routePacket p.packet)

/-! ## FWIN and FCOLL (R371, R372) -/

/-- RIGHTS of a tree that the context may not use (R371). -/
def treeRights (ok : Bool) : Work Unit := Work.need ok (.trap .rights (0xFFFF + 2 ^ 21))

/-- FWIN: the checks and the submission (R366, R371). -/
def fwinWork (f : FcollWForm) (iss : Issue) (no : Nat) (l : Lane) : Work Unit := do
  let v := Opnd.word l.cap.a 0
  let b := Opnd.word l.cap.a 1
  Work.legal (v / 2 ^ 26 % 32 == 0 && v / 2 ^ 10 % 1024 == 0 && b / 2 ^ 16 == 0)
  let dst ← checkEntry l.th.tile l.th.ctx f.o.toNat [.buffer] (rightW + rightF)
  let bar ← checkEntry l.th.tile l.th.ctx (b % 2 ^ 16) [.barrier] rightW
  checkFootprint l.th.cell dst 0 chunkBytes
  checkFootprint l.th.cell bar 0 16
  let tree := v % 1024
  let s ← get
  let opening := v / 2 ^ 31 == 1
  treeRights (!opening || (s.fabric.treeValid tree && s.jobOf l.th.ctx == some (s.fabric.treeJob tree)))
  let _ ← submit iss (.fwin f) l no 6 [dst, bar] l.cap.words 0

/-- The instruction of `fwinWork`, in each thread of its group. -/
def execFwin (f : FcollWForm) (s : State) : Host.Outcome State Fault Refusal :=
  .next (s.eachLane (.fwin f) (fwinWork f))

/-- The tree that an FWIN in a fabric queue names, with the window that it opens, or none where it closes one (R371). -/
def Op.window (op : Op) : Option (Nat × Option OpenTree) :=
  match op.instr, op.objs, op.args with
  | .fwin _, [dst, bar], v :: _ =>
    let v := v.toNat
    some (v % 1024, if v / 2 ^ 31 = 1 then
      some { ctx := op.ctx, cell := op.cell, dst := BitVec.ofNat 32 dst.1 :: dst.2, barrier := bar.2, barIndex := bar.1
             width := v / 2 ^ 20 % 64 + 1 }
    else none)
  | _, _, _ => none

/-- FWIN performs: the tree's window is bound anew, or unbound (R371). -/
def State.fwinPerform (s : State) (id : Nat) : State :=
  s.withOp id fun op =>
    match op.window with
    | none => s
    | some (tree, w) =>
      let opens := match w with
        | some o => Map.set s.fabric.opens tree o
        | none => Map.del s.fabric.opens tree
      ({ s with fabric := { s.fabric with opens := opens } }.dropOp id).finishOpEntries id

/-- The window of a tree as a thread's next push will find it: as the last FWIN in its queue leaves it, or as it is (R371, R372). -/
def State.windowOf (s : State) (tid tree : Nat) : Option OpenTree :=
  match ((s.queued tid 6).filterMap fun x => x.2.window.filter fun w => w.1 == tree).getLast? with
  | some w => w.2
  | none => Map.get? s.fabric.opens tree

/-- The tree and the chunk of FCOLL's second register (R372). -/
def collTree (v : Nat) : Nat := v / 2 ^ 22
def collChunk (v : Nat) : Nat := v % 2 ^ 22

/-- The chunks of a tree that are outstanding: of pushes in a fabric queue, and of those whose group still holds its slots (R372). -/
def State.pushesOf (s : State) (tree : Nat) : List Nat :=
  (s.fabric.outstanding.filterMap fun x => if x.1 == tree then some x.2 else none) ++ s.ops.filterMap fun x =>
    match x.2.instr, x.2.args with
    | .fcoll _, _ :: v :: _ => if collTree v.toNat == tree then some (collChunk v.toNat) else none
    | _, _ => none

/-- A push may not yet be outstanding, with the chunks of the tree that already are: the window's width is used, or the chunk is one of
them (R372). -/
def OpenTree.full (o : OpenTree) (chunks : List Nat) (chunk : Nat) : Bool :=
  !o.aborted && (decide (o.width ≤ chunks.length) || chunks.contains chunk)

/-- FCOLL: the checks, then the push is outstanding; while it may not be, the thread waits at the word (R372). -/
def fcollWork (f : FcollWForm) (iss : Issue) (no : Nat) (l : Lane) : Work Unit := do
  let v := Opnd.word l.cap.a 1
  let src ← checkEntry l.th.tile l.th.ctx f.o.toNat [.buffer] (rightR + rightF)
  checkFootprint l.th.cell src l.a chunkBytes
  let s ← get
  match s.windowOf l.tid (collTree v) with
  | none => treeRights false
  | some o =>
    if o.full (s.pushesOf (collTree v)) (collChunk v) then modify fun s => s.leaveAs l.tid (.again (.room 7))
    else do
      let _ ← submit iss (.fcoll f) l no 6 [src] l.cap.words 0

/-- The instruction of `fcollWork`, in each thread of its group. -/
def execFcoll (f : FcollWForm) (s : State) : Host.Outcome State Fault Refusal :=
  .next (s.eachLane (.fcoll f) (fcollWork f))

/-- The elements of a chunk as they travel: BF16 widened, and the rank written into every pair (R368, R370). -/
def pushedData (op rank : Nat) (ws : List (BitVec 32)) : List (BitVec 32) :=
  match op with
  | 1 => ws.flatMap fun (w : BitVec 32) => ([w <<< 16, w &&& 0xFFFF0000#32] : List (BitVec 32))
  | 5 | 6 => (pairsOf ws).flatMap fun p => [BitVec.ofNat 32 p.1, BitVec.ofNat 32 rank]
  | _ => ws

/-- FCOLL_PUSH_PERFORM: the chunk is read whole and the packet leaves, by a port once the retry store has room for it; on an aborted
tree nothing is sent (R365, R372). -/
def execFcollPushPerform (id : Nat) (s : State) : Host.Outcome State Fault Refusal :=
  .next (s.withOp id fun op =>
    match op.instr, op.objs with
    | .fcoll _, [src] =>
      let v := ((op.args[1]?).map BitVec.toNat).getD 0
      let tree := collTree v
      let leaves := match s.fabric.treeEntries tree with
        | e :: _ => hopAct e == 0
        | [] => false
      s.opWork id op do
        if (Map.get? s.fabric.opens tree).any OpenTree.aborted then modify fun s => ((s.dropOp id).finishOpEntries id)
        else if leaves && !s.fabric.retryRoom (8 * chunkBytes) then pure ()
        else
          let bs ← op.unitBytes src (((op.args[0]?).map BitVec.toNat).getD 0) chunkBytes
          modify fun s =>
            let f := s.fabric
            let ws := numWords (ofBytes bs) (chunkBytes / 4)
            let p : CollPacket :=
              { job := f.treeJob tree, tree := tree, chunk := collChunk v, op := f.treeOp tree, ty := f.treeType tree
                hops := f.treeHops tree, rank := f.treeRank tree, entries := f.treeEntries tree
                data := pushedData (f.treeOp tree) (f.treeRank tree) ws, resent := false }
            let s := s.fabOut op 1 tree (collChunk v) 0
            let s : State := { s with fabric := { f with outstanding := f.outstanding ++ [(tree, collChunk v)] } }
            let s := if leaves then
                (s.send { target := f.fabid, tid := op.tid, ctx := op.ctx, payload := .push p }).energy op.tile op.ctx 13 chunkBytes
              else s
            let s := if p.entries.isEmpty then s.askAbort p.job else s.routePacket p
            (s.dropOp id).finishOpEntries id
    | _, _ => s)

/-! ## Delivery (R371, R374) -/

/-- The operation in whose name a window's deliveries reach memory, that of its context, be it resident or saved. -/
def OpenTree.agent (o : OpenTree) (s : State) : Op :=
  let ctx := match Map.get? s.cells o.cell, s.savedCell o.cell with
    | none, some (x, _) => x.ctx
    | _, _ => o.ctx
  { tid := 0, ctx := ctx, cell := o.cell, tile := ((s.anyCell o.cell).map Cell.tile).getD 0, queue := 6
    instr := .faultRecordPost, privileged := s.privileged ctx }

/-- Where byte `off` of an object of a window lies: for a saved context through its own page tables, as they stand (R157). -/
def OpenTree.reach (o : OpenTree) (x : Obj) (off : Nat) : Work Nat := fun s =>
  if (s.savedCell o.cell).isNone then (o.agent s).reach x off .write s
  else
    let s' := s.withSaved o.cell
    match (o.agent s').reach x off .write s' with
    | .ok (pa, _) => .ok (pa, s)
    | .error (.fatal _) => .error (.fatal s)
    | .error e => .error e

/-- The objects that a window is bound to (R371). -/
def OpenTree.dstObj (o : OpenTree) : Obj := ((((o.dst)[0]?).map BitVec.toNat).getD 0, o.dst.drop 1)
def OpenTree.barObj (o : OpenTree) : Obj := (o.barIndex, o.barrier)

/-- One indivisible update of a barrier: the status bits set, those above them zero, and the count lowered, or brought to zero (R374,
R375). -/
def State.updateBarrier (s : State) (ctx index pa bits : Nat) (units : Option Nat) : State :=
  let v := s.barrierWord pa
  let status := s.num (s.localPa (pa + 8)) 8 % 16 ||| bits
  let v := match units with
    | some u => lowered v u
    | none => v - v % 2 ^ 48
  (s.writeBarrier 0 pa 16 (v + status * 2 ^ 64)).emitZero s 0 ctx index pa

/-- The result of a chunk written at its place, and the barrier updated after it; what goes to an allocation that is out is held
on its home tile (R157, R371, R374). -/
def OpenTree.deliver (o : OpenTree) (p : CollPacket) : Work Unit := do
  let s ← get
  let off := chunkBytes * p.chunk
  let short := decide (Obj.field o.dstObj 0x10 8 < off + chunkBytes)
  let bs := p.data.flatMap fun w => toBytes 4 w.toNat
  let bits := (if p.uncorr then 1 else 0) + (if p.resent then 4 else 0) + (if short then 8 else 0)
  let out := s.isOut o.cell
  let here : List Deferral := if out && Obj.scope o.dstObj == 1 && !short then
      (blockPieces (Obj.base o.dstObj + off) bs.length).map fun x =>
        { ctx := o.ctx, cell := o.cell, bytes := bytesAt (Obj.base o.dstObj + off + x.1) ((bs.drop x.1).take x.2) }
    else []
  let there : List Deferral := if out && Obj.scope o.barObj == 1 then
      [{ ctx := o.ctx, cell := o.cell, arrival := some (Obj.base o.barObj, chunkBytes, bits), index := o.barIndex }]
    else []
  match s.hold o.cell (here ++ there) with
  | none => Work.stop (.trap .bounds 0)
  | some s' =>
    set s'
    if !short && here.isEmpty then
      let _ ← (pageParts (o.dstObj.base + off) bs.length).mapM fun x => do
        let pa ← o.reach o.dstObj (off + x.1)
        let piece := (bs.drop x.1).take x.2
        modify fun s => ((s.perform 0 (bytesAt pa piece)).accessEnergy (o.agent s).tile o.ctx pa piece.length).resetTags pa piece.length
    if there.isEmpty then
      let pa ← o.reach o.barObj 0
      modify fun s => s.updateBarrier o.ctx o.barIndex pa bits (some chunkBytes)
    modify fun s => s.emit 7 o.ctx (o.agent s).tile 4 0 ([0, 0] ++ toBytes 2 p.tree ++ toBytes 4 p.chunk ++ toBytes 1 bits)

/-- A window parked on a page fault; one of a saved context tries again instead, since no fault can be reported for it (R157, R246). -/
def State.parkTree (s : State) (tree : Nat) (o : OpenTree) (f : FaultInfo) : State :=
  if (s.savedCell o.cell).isSome then s
  else { s with fabric := { s.fabric with opens := Map.set s.fabric.opens tree { o with fault := some f } } }

/-- COLLECTIVE_DELIVERY: a result reaches the open window, or is discarded (R371). A page fault, a full deferral queue, or a fault of
a saved context leaves it waiting (R157). -/
def execCollectiveDelivery (tree chunk : Nat) (s : State) : Host.Outcome State Fault Refusal :=
  .next (match s.fabric.deliveries.find? fun p => p.tree == tree && p.chunk == chunk with
    | none => s
    | some p =>
      let taken := { s with fabric := { s.fabric with deliveries := s.fabric.deliveries.erase p } }
      match Map.get? s.fabric.opens tree with
      | none => taken
      | some o =>
        if o.fault.isSome then s
        else
          match (o.deliver p) taken with
          | .ok (_, s') => s'
          | .error (.trap ..) => s
          | .error (.parked f) => s.parkTree tree o f
          | .error _ =>
            if (s.ctx? o.ctx).isNone then s
            else taken.fatal o.ctx
              { cause := .pgfatal, tfpc := 0, tfinfo := 0, tfmask := 0, tfdst := 0, wid := 0, tile := 0, part := 0, untrapped := true })

/-! ## Aborts (R375) -/

/-- The units of a deferred arrival that bring a count to zero (R157, R375). -/
def unitsAll : Nat := 2 ^ 48

/-- An abort reaches the barrier of an open tree: ABORTED is set and the count brought to zero, so that the waiters wake; for an
allocation that is out the update is held, and one that meets a page fault is made once the page is there (R157, R246, R375). -/
def State.endTree (s : State) (tree : Nat) : State :=
  match Map.get? s.fabric.opens tree with
  | none => s
  | some o =>
    if !o.ending || o.fault.isSome then s
    else
      let ended := { s with fabric := { s.fabric with opens := Map.set s.fabric.opens tree { o with ending := false } } }
      if s.isOut o.cell && Obj.scope o.barObj == 1 then
        ended.holdUpdate o.cell
          { ctx := o.ctx, cell := o.cell, index := o.barIndex, arrival := some (Obj.base o.barObj, unitsAll, 2) }
      else
        match (o.reach o.barObj 0) ended with
        | .ok (pa, s) => s.updateBarrier o.ctx o.barIndex pa 2 none
        | .error (.parked f) => s.parkTree tree o f
        | .error _ =>
          if (s.ctx? o.ctx).isNone then s
          else ended.fatal o.ctx
            { cause := .pgfatal, tfpc := 0, tfinfo := 0, tfmask := 0, tfdst := 0, wid := 0, tile := 0, part := 0, untrapped := true }

/-- A router's first abort of a job from an origin: forwarded on every other port, the job's slots freed, and its open trees here
marked, their waiters woken (R375). -/
def State.abortJob (s : State) (job origin : Nat) (from' : Option Nat) : State :=
  if s.fabric.aborts.contains (job, origin) then s
  else
    let f := s.fabric
    let ports := (List.range 24).filter fun p => (f.link p).up && some p != from'
    let s := { s with fabric := { f with
      aborts := (job, origin) :: f.aborts
      abortsSent := f.abortsSent ++ ports.map fun p => (job, origin, p)
      groups := f.groups.filter fun g => g.job != job
      waiting := f.waiting.filter fun p => p.job != job
      deliveries := f.deliveries.filter fun p => p.job != job
      outstanding := f.outstanding.filter fun x => f.treeJob x.1 != job
      opens := Map.mapAll f.opens fun t o => if f.treeJob t = job then { o with aborted := true, ending := true } else o } }
    (f.opens.filter fun x => f.treeJob x.1 == job).foldl (fun s x => s.endTree x.1) s

/-- ABORT_RECEIVE (R375). -/
def execAbortReceive (job origin port : Nat) (s : State) : Host.Outcome State Fault Refusal :=
  .next (s.abortJob job origin (some port))

end Sys2Proof.Machine
end

