-- ==== Sys2Proof/Machine/Remote.lean ====
section
/-! DEFINITION. What reaches this package's memory from outside: the requests of other packages, the retry store's
acknowledgements, and the host (spec/19_fabric_host.md R360 to R365, R376 to R378; spec/18_ordering.md R348). -/
namespace Sys2Proof.Machine

/-! ## Writes from outside (R157, R329, R377) -/

/-- The cell of a saved context whose unkept allocation an address lies in, unless a resident cell has taken the room (R157). -/
def State.outCellAt (s : State) (pa : Nat) : Option (Nat × Cell) :=
  let covers (c : Cell) : Bool := decide (c.slice ≤ pa ∧ pa < c.slice + c.sliceLen)
  if s.cells.any fun x => covers x.2 then none
  else s.images.findSome? fun x => if x.2.keep then none else x.2.cells.find? fun c => covers c.2

/-- What bytes written from outside leave to be held for cells that are out, one write for each cell (R157). -/
def State.heldWrites (s : State) (bs : Map Byte) : List Deferral :=
  let out := bs.filterMap fun b => (s.outCellAt b.1).map fun c => (c, b)
  ((out.map Prod.fst).eraseDups).map fun c =>
    { ctx := c.2.ctx, cell := c.1, bytes := (out.filter fun x => x.1.1 == c.1).map fun x => (x.2.1 - c.2.slice, x.2.2) }

/-- What bytes written from outside write in place: their tags are reset and WAITV is woken (R54, R329, R377). -/
def State.writeHere (s : State) (bs : Map Byte) : State :=
  let here := bs.filter fun b => (s.outCellAt b.1).isNone
  here.foldl (fun s b => s.resetTags b.1 1) (s.perform 0 here)

/-- Bytes of one block written from outside, in place or held for a cell that is out; none where its queue has no room (R157). -/
def State.writeOutside (s : State) (bs : Map Byte) : Option State :=
  ((s.heldWrites bs).foldl (fun s? d => s?.bind fun s => s.hold d.cell [d]) (some s)).map fun s => s.writeHere bs

/-- A posted write of one block: one that finds the queue of a cell full stands behind it in the mesh (R157, R377). -/
def State.postOutside (s : State) (bs : Map Byte) : State :=
  ((s.heldWrites bs).foldl (fun s d => s.holdUpdate d.cell d) s).writeHere bs

/-- Whether n bytes lie in the memory that another package's window shows: HBM and slices (R311). -/
def shared (pa n : Nat) : Bool :=
  let held (a : Nat) : Bool := regionOf a == .hbm || regionOf a == .slice
  held pa && held (pa + n - 1)

/-! ## Requests of other packages (R360, R363, R365)

A source is a number that names a thread's stream: its package in the low ten bits, its thread above them. -/

/-- A request that has performed already is suppressed; one outside HBM and slices stops the run (R311, R365). -/
def State.request (s : State) (src seq addr n : Nat) (k : State → Option State) : Host.Outcome State Fault Refusal :=
  if s.fabric.seen.contains (src, seq) then .next s
  else if !shared addr n then .fault (.unassignedAddress addr)
  else .next (((k s).map fun s => { s with fabric := { s.fabric with seen := (src, seq) :: s.fabric.seen } }).getD s)

/-- The answer to a request. -/
def State.answer (s : State) (src seq : Nat) (bs : List Byte) : State :=
  { s with fabric := { s.fabric with replies := s.fabric.replies ++ [(src, seq, bs)] } }

/-- REMOTE_LOAD_REQUEST (R360). -/
def execRemoteLoadRequest (src seq addr size : Nat) (s : State) : Host.Outcome State Fault Refusal :=
  s.request src seq addr size fun s => some ((s.acceptReads 0 addr size).answer src seq (s.bytes addr size))

/-- One more store to arrive is taken from the oldest release that waits for the source's stream (R348). -/
def takeArrival (src : Nat) : List HeldRelease → Option (List HeldRelease)
  | [] => none
  | h :: hs =>
    if h.src = src ∧ 0 < h.missing then some ({ h with missing := h.missing - 1 } :: hs)
    else (takeArrival src hs).map fun r => h :: r

/-- A store of a source's stream has arrived (R348). -/
def State.streamArrival (s : State) (src : Nat) : State :=
  match takeArrival src s.fabric.held with
  | some held => { s with fabric := { s.fabric with held := held } }
  | none => { s with fabric := { s.fabric with arrivals := Map.set s.fabric.arrivals src (Map.getD s.fabric.arrivals src 0 + 1) } }

/-- As many stores of a stream have arrived as a merged write counts (R348, R364). -/
def State.streamArrivals (s : State) (src count : Nat) : State := (List.range count).foldl (fun s _ => s.streamArrival src) s

/-- A release waits for as many stores of its stream as it names, less those that have come (R348). -/
def State.holdRelease (s : State) (src seq count : Nat) (p : Payload) : State :=
  let come := Map.getD s.fabric.arrivals src 0
  { s with fabric := { s.fabric with
    arrivals := Map.set s.fabric.arrivals src (come - count)
    held := s.fabric.held ++ [{ src := src, seq := seq, payload := p, missing := count - come }] } }

/-- REMOTE_WRITE_REQUEST: a line's bytes, which count for as many stores as were merged into them, or a release's with the count of its
stream's stores (R348, R360, R364). -/
def execRemoteWriteRequest (src seq addr : Nat) (data : WriteData) (release : Option Nat) (s : State) :
    Host.Outcome State Fault Refusal :=
  let bs : Map Byte := data.bytes.foldl (fun m b => Map.set m (addr + b.1) b.2) []
  let last := (bs.getLast?.map Prod.fst).getD addr
  s.request src seq addr (last + 1 - addr) fun s =>
    match release with
    | some named => some (s.holdRelease src seq named (.release addr bs named))
    | none => (s.writeOutside bs).map fun s => (s.streamArrivals src data.stores).answer src seq []

/-- A word's atomic from outside: the old value answers, and a write that is made wakes WAITV (R287, R377). -/
def State.atomicOutside (s : State) (pa size : Nat) (op : MemOp) (a b : Nat) : Option (List Byte × State) :=
  let s := s.acceptReads 0 pa size
  let old := s.num pa size
  match atomNew op (8 * size) old a b with
  | some v => (s.writeOutside (bytesAt pa (toBytes size v))).map fun s => (toBytes size old, s)
  | none => some (toBytes size old, s)

/-- REMOTE_ATOMIC_REQUEST (R287, R348, R360). -/
def execRemoteAtomicRequest (src seq addr : Nat) (op : MemOp) (a b : BitVec 32) (release : Option Nat) (s : State) :
    Host.Outcome State Fault Refusal :=
  s.request src seq addr 4 fun s =>
    match release with
    | some count => some (s.holdRelease src seq count (.atomic addr op (a.setWidth 64) (b.setWidth 64) (some count)))
    | none => (s.atomicOutside addr 4 op a.toNat b.toNat).map fun r => r.2.answer src seq r.1

/-- FABRIC_RELEASE_PERFORM: a release whose stream has arrived performs (R348). -/
def execFabricReleasePerform (src seq : Nat) (s : State) : Host.Outcome State Fault Refusal :=
  .next (match s.fabric.held.find? fun h => h.src == src && h.seq == seq with
    | none => s
    | some h =>
      if h.missing ≠ 0 then s
      else
        let freed := { s with fabric := { s.fabric with held := s.fabric.held.erase h } }
        match h.payload with
        | .release _ bs _ => ((freed.writeOutside bs).map fun s => s.answer src seq []).getD s
        | .atomic addr op a b _ => ((freed.atomicOutside addr 4 op a.toNat b.toNat).map fun r => r.2.answer src seq r.1).getD s
        | _ => freed)

/-- The lanes of a vector request in slot order, each with what its access answers; loads that share an address share one read (R363). -/
def State.vectorLanes (s : State) (src page size : Nat) (op : MemOp) (read : List Nat) : List VecLane → Option (List Byte × State)
  | [] => some ([], s)
  | l :: ls =>
    let pa := page + l.off
    let one : Option (List Byte × State) := match op with
      | .load => some (s.bytes pa size, if read.contains pa then s else s.acceptReads 0 pa size)
      | .store => (s.writeOutside (bytesAt pa (toBytes size l.data.toNat))).map fun s => ([], s.streamArrival src)
      | _ => s.atomicOutside pa size op (l.data.toNat % 2 ^ (8 * size)) (l.data2.toNat % 2 ^ (8 * size))
    one.bind fun r => (State.vectorLanes r.2 src page size op (pa :: read) ls).map fun q => (r.1 ++ q.1, q.2)

/-- VECTOR_REQUEST: up to 32 accesses of one 64 KiB page, as the individual accesses would be (R363). -/
def execVectorRequest (src seq page size : Nat) (op : MemOp) (lanes : List VecLane) (s : State) : Host.Outcome State Fault Refusal :=
  s.request src seq page 65536 fun s => (s.vectorLanes src page size op [] lanes).map fun r => r.2.answer src seq r.1

/-! ## The retry store (R365) -/

/-- END_TO_END_ACK: the copy leaves the retry store (R365). -/
def execEndToEndAck (seq : Nat) (s : State) : Host.Outcome State Fault Refusal :=
  .next (match Map.get? s.fabric.retry seq with
    | none => s
    | some r =>
      let s := { s with fabric := { s.fabric with retry := Map.del s.fabric.retry seq } }
      let s := match r.payload with
        | .push p => s.pushFreed p.tree p.chunk
        | _ => s
      match r.op with
      | some id => s.closeSend id
      | none => s)

/-- A port's RESENDS raised (R417). -/
def Fabric.countResend (f : Fabric) (port : Nat) : Fabric :=
  f.setLink port { f.link port with resends := (f.link port).resends + 1 }

/-- A request that has been resent eight times fails: a push aborts its job, any other halts its context (R365). -/
def State.failRequest (s : State) (seq : Nat) (r : Retry) : State :=
  let s := { s with fabric := { s.fabric with retry := Map.del s.fabric.retry seq } }
  match r.payload with
  | .push p => s.askAbort p.job
  | _ => s.fatal r.ctx { cause := .pgfatal, tfpc := 0, tfinfo := 0, tfmask := 0, tfdst := 0, wid := 0
                         tile := ((s.thread? r.tid).map Thread.tile).getD 0, part := ((s.thread? r.tid).map Thread.part).getD 0
                         untrapped := true }

/-- A request resent from the retry store, on the valid alternative with the most credit; a contribution that is resent says so (R362,
R365, R374). -/
def State.resend (s : State) (seq : Nat) : State :=
  match Map.get? s.fabric.retry seq with
  | none => s
  | some r =>
    if r.resends ≥ 8 then s.failRequest seq r
    else
      match r.payload with
      | .push p =>
        let p := { p with resent := true }
        let s := { s with fabric := { s.fabric with
          retry := Map.set s.fabric.retry seq { r with resends := r.resends + 1, since := s.cycle, payload := .push p } } }
        match p.entries with
        | e :: _ => { s with fabric := s.fabric.countResend (hopPort e) }.routePacket p
        | [] => s
      | _ =>
        let alt := s.fabric.freest r.target s.free
        let f := { s.fabric with retry := Map.set s.fabric.retry seq { r with resends := r.resends + 1, since := s.cycle, alt := alt } }
        { s with
          free := s.free + 1
          fabric := if (f.alternatives r.target).isEmpty then f
            else f.countResend (routeAlt (Map.getD f.routes r.target 0).toNat alt) }

/-- NEGATIVE_ACK (R365). -/
def execNegativeAck (seq : Nat) (s : State) : Host.Outcome State Fault Refusal := .next (s.resend seq)

/-- The tile cycles of 50 microseconds (R1, R365). -/
def resendAfter : Nat := 180000

/-- RESEND_TIMEOUT: 50 microseconds without an acknowledgement (R365). -/
def execResendTimeout (seq : Nat) (s : State) : Host.Outcome State Fault Refusal :=
  .next (match Map.get? s.fabric.retry seq with
    | some r => if s.cycle < r.since + resendAfter then s else s.resend seq
    | none => s)

/-! ## The host (R376, R377) -/

/-- Where a host address leads: an offset of BAR0 below 2^26, or an offset of BAR2 from 2^40 up, which is the model's coding (R376). -/
inductive HostTarget where
  | register (off : Nat)
  | memory (pa : Nat)
  | beyond
  deriving DecidableEq, Repr

/-- The byte that a host address names (R376). -/
def State.hostTarget (s : State) (addr : Nat) : HostTarget :=
  if addr < 2 ^ 26 then .register addr
  else if 2 ^ 40 ≤ addr then
    let pa := s.host.hwbase.toNat / 2 ^ 30 % 2 ^ 22 * 2 ^ 30 + (addr - 2 ^ 40)
    if regionOf pa = .hbm then .memory pa else .beyond
  else .beyond

/-- The host addresses of bytes from an address, with those that memory holds by their physical address, one block after another. -/
def State.hostBlocks (s : State) (addr : Nat) (bs : List Byte) : List (Map Byte) :=
  (blockPieces addr bs.length).map fun x => (bytesAt (addr + x.1) ((bs.drop x.1).take x.2)).filterMap fun b =>
    match s.hostTarget b.1 with
    | .memory pa => some (pa, b.2)
    | _ => none

/-- HOST_WRITE: a posted write to a register of BAR0 or to HBM through BAR2 (R376, R377). -/
def execHostWrite (endpoint addr : Nat) (bytes : List Byte) (s : State) : Host.Outcome State Fault Refusal :=
  .next (
    if endpoint ≥ 2 then s
    else if addr < 2 ^ 26 then s.mmioStore 0 (bytesAt addr bytes)
    else (s.hostBlocks addr bytes).foldl State.postOutside s)

/-- The reads that the controllers accept of the host for n bytes (R304). -/
def State.hostReads (s : State) (addr n : Nat) : State :=
  (blockPieces addr n).foldl (fun s x => match s.hostTarget (addr + x.1) with
    | .memory pa => s.acceptReads 0 pa x.2
    | _ => s) s

/-- n bytes that the host reads. -/
def State.hostBytes (s : State) (addr : Nat) : Nat → List Byte × State
  | 0 => ([], s)
  | n + 1 =>
    let one : Byte × State := match s.hostTarget addr with
      | .register off =>
        let r := s.mmioRead off 1
        (BitVec.ofNat 8 r.1, r.2)
      | .memory pa => (s.byte pa, s)
      | .beyond => (0, s)
    let rest := State.hostBytes one.2 (addr + 1) n
    (one.1 :: rest.1, rest.2)

/-- An answer to the host. -/
def State.hostAnswer (s : State) (endpoint : Nat) (bs : List Byte) : State :=
  { s with host := { s.host with answers := s.host.answers ++ [(endpoint, bs)] } }

/-- HOST_READ: it returns after the endpoint's earlier posted writes, which have performed (R377). -/
def execHostRead (endpoint addr size : Nat) (s : State) : Host.Outcome State Fault Refusal :=
  .next (
    let r := (s.hostReads addr size).hostBytes addr size
    r.2.hostAnswer endpoint r.1)

/-- HOST_ATOMIC: FetchAdd, Swap and CAS of 32 or 64 bits (R376). -/
def execHostAtomic (endpoint addr size : Nat) (op : MemOp) (a b : BitVec 64) (s : State) : Host.Outcome State Fault Refusal :=
  .next (
    if (size ≠ 4 ∧ size ≠ 8) ∨ (op ≠ .add ∧ op ≠ .exch ∧ op ≠ .cas) ∨ endpoint ≥ 2 then s
    else
      let r := (s.hostReads addr size).hostBytes addr size
      let s := r.2.hostAnswer endpoint r.1
      match atomNew op (8 * size) (ofBytes r.1) (a.toNat % 2 ^ (8 * size)) (b.toNat % 2 ^ (8 * size)) with
      | none => s
      | some v =>
        if addr < 2 ^ 26 then s.mmioStore 0 (bytesAt addr (toBytes size v))
        else (s.hostBlocks addr (toBytes size v)).foldl State.postOutside s)

end Sys2Proof.Machine
end

