-- ==== Sys2Proof/Machine/Ports.lean ====
section
/-! DEFINITION. The UALink ports (spec/21_debug_power.md R417, R418, R421). -/
namespace Sys2Proof.Machine

/-- The requests in the retry store that left by a port (R362, R418). -/
def Fabric.inFlightOn (f : Fabric) (port : Nat) : List Nat :=
  (f.retry.filter fun r => match r.2.payload with
    | .push p => (p.entries.head?.map hopPort) == some port
    | _ => routeAlt (Map.getD f.routes r.2.target 0).toNat r.2.alt == port).map Prod.fst

/-- The requests that were in flight on a port that is no longer up are resent, each performing once (R365, R418). -/
def State.resendAll (s : State) (seqs : List Nat) : State := seqs.foldl (fun s n => s.resend n) s

/-- The lanes of a port in use, four of the five (R418). -/
def Link.inUse (l : Link) : BitVec 5 := if l.lanes = 0 then 0b01111#5 else l.lanes

/-- LINK_RETRAIN: a failing lane's place is taken by the spare and the port retrains; a second failure leaves it dead (R418). -/
def execLinkRetrain (port lane : Nat) (s : State) : Host.Outcome State Fault Refusal :=
  .next (
    let l := s.fabric.link port
    if port ≥ 24 ∨ lane ≥ 5 ∨ l.dead ∨ l.disable then s
    else
      let seqs := s.fabric.inFlightOn port
      if l.spared then
        { s with fabric := s.fabric.setLink port { l with dead := true, up := false, retraining := false, lanes := 0 } }.resendAll seqs
      else
        { s with fabric := s.fabric.setLink port { l with
            up := false, retraining := true, spared := true
            lanes := (l.inUse ||| 0b10000#5) &&& ~~~(BitVec.ofNat 5 (2 ^ lane)) } }.resendAll seqs)

/-- LINK_TRAINED: the port is a valid alternative again (R418). -/
def execLinkTrained (port : Nat) (spared : Bool) (s : State) : Host.Outcome State Fault Refusal :=
  .next (
    let l := s.fabric.link port
    if port ≥ 24 ∨ l.dead ∨ l.disable then s
    else
      let lanes := if l.lanes.getLsbD 4 then l.lanes else if spared then 0b10111#5 else 0b01111#5
      { s with fabric := s.fabric.setLink port { l with up := true, retraining := false, spared := spared || l.lanes.getLsbD 4, lanes := lanes } })

/-- Whether a tree needs a port of this package: its push goes out by it, or its results go down by it (R421). -/
def Fabric.treeUses (f : Fabric) (tree port : Nat) : Bool :=
  f.treeValid tree && (f.treeDown tree / 2 ^ port % 2 == 1 ||
    (f.treeEntries tree).head?.any fun e => hopAct e != 2 && hopPort e == port)

/-- A port goes down: the jobs of the trees that need it are aborted, and the requests in flight on it are resent (R365, R421). -/
def State.portDown (s : State) (port : Nat) (l : Link) : State :=
  let seqs := s.fabric.inFlightOn port
  let jobs := (((List.range 1024).filter fun t => s.fabric.treeUses t port).map s.fabric.treeJob).eraseDups
  let s := { s with fabric := s.fabric.setLink port { l with up := false, retraining := false, lanes := 0 } }
  (jobs.foldl (fun s j => s.askAbort j) s).resendAll seqs

/-- LINK_DOWN (R421). -/
def execLinkDown (port : Nat) (s : State) : Host.Outcome State Fault Refusal :=
  .next (if port < 24 then s.portDown port (s.fabric.link port) else s)

/-- LINK_DISABLE: DISABLE written to 1 holds the port down, and to 0 lets it train (R417). -/
def execLinkDisable (port : Nat) (disable : Bool) (s : State) : Host.Outcome State Fault Refusal :=
  .next (
    let l := { s.fabric.link port with disable := disable }
    if port ≥ 24 then s
    else if disable then s.portDown port l
    else { s with fabric := s.fabric.setLink port l })

/-- FLIT_CRC_FAILURE: the failing flit and its link-level replay are counted (R417). -/
def execFlitCrcFailure (port : Nat) (s : State) : Host.Outcome State Fault Refusal :=
  .next (
    let l := s.fabric.link port
    if port ≥ 24 then s
    else { s with fabric := s.fabric.setLink port { l with crcerr := l.crcerr + 1, replays := l.replays + 1 } })

end Sys2Proof.Machine
end

