-- ==== Sys2Proof/Machine/Distributor.lean ====
section
/-! DEFINITION. LAUNCH, the distributor and the placing of cells (spec/03_execution.md R31 to R47, spec/05_isa_core.md R111). -/
namespace Sys2Proof.Machine

/-! ## The record (R35, R36, R111) -/

/-- The tile whose translations the distributor and the timing block use: the first system tile. -/
def ioTile : Nat := 192

/-- Where n bytes of a record lie: in HBM or a slice of this package, through the data window of its context (R35, R111). -/
def recordPa (tile ctx off n : Nat) (kind : AccKind) : Work Nat := fun s =>
  match s.ctx? ctx with
  | none => .error (.fatal s)
  | some c =>
    if cellWindow ≤ off then .error (.fatal s)
    else
      match s.translate tile ctx (c.window.toNat / 2 ^ 32 % 2 ^ 20 * 2 ^ 32 + off) kind with
      | (.ok pa _, s) => if shared (s.localPa pa) n then .ok (s.localPa pa, s) else .error (.fatal s)
      | (.pgfault f, _) => .error (.parked f)
      | (.pgfatal, _) => .error (.fatal s)

/-- Bytes of a record, page by page. -/
def recordBytes (ctx off n : Nat) : Work (List Byte) := do
  let parts ← (pageParts off n).mapM fun p => do
    let pa ← recordPa ioTile ctx (off + p.1) p.2 .read
    let s ← get
    pure (s.bytes pa p.2)
  pure parts.flatten

/-- A field of n bytes. -/
def fieldAt (bs : List Byte) (off n : Nat) : Nat := ofBytes ((bs.drop off).take n)

/-- STATUS written, with its granule's tag reset and WAITV woken (R37). -/
def State.writeStatus (s : State) (l : Launch) (code : Nat) : State :=
  ((s.setNum (l.recPa + 0x0C) 4 code).resetTags (l.recPa + 0x0C) 4).wakeGranules (l.recPa + 0x0C) 4

/-! ## LAUNCH (R111) -/

/-- Whether a context is resident and not halted (R111). -/
def State.takesLaunches (s : State) (ctx : Nat) : Bool :=
  match s.ctx? ctx with
  | some c => c.phase == .running || c.phase == .stopped
  | none => false

/-- The test and the enqueueing of a record as one step: the result code (R111). -/
def enqueueRecord (tile ctx off : Nat) : Work Nat := fun s =>
  if !s.takesLaunches ctx then .ok (1, s)
  else
    match recordPa tile ctx off 64 .atomic s with
    | .error (.parked f) => .error (.parked f)
    | .error _ => .ok (1, s)
    | .ok (pa, s) =>
      let prio := s.num (pa + 3) 1 / 8 % 8
      let queue := Map.getD (((s.ctx? ctx).map Context.queues).getD []) prio []
      if s.num (pa + 0x0C) 4 ≠ 0 ∨ s.launches.any fun l => l.2.recPa == pa && l.2.phase != .final then .ok (1, s)
      else if queue.length ≥ 256 then .ok (2, s)
      else
        let id := s.nextId
        let s := { s with nextId := id + 1, launches := Map.set s.launches id { ctx := ctx, recPa := pa, recOff := off } }
        .ok (0, s.modCtx ctx fun c => { c with queues := Map.set c.queues prio (queue ++ [id]) })

/-- LAUNCH: a release at DEVICE scope, then the request leaves with an entry that awaits its result code (R111). -/
def execLaunch (f : LaunchWForm) (s : State) : Host.Outcome State Fault Refusal :=
  .next (s.eachLane (.launch f) fun iss no l => do
    let s ← get
    needFull l (l.th.sourcesOf (s.privileged l.th.ctx) 0 (.launch f))
    Work.need (l.a % 64 == 0) (.trap .align l.a)
    modify fun s => let after := ((s.thread? l.tid).map fun t => s.outstanding t l.tid).getD []
      (s.regionEnd l.tid (some 3)).addEntry l.tid { iss.entryFor (.launch f) (vDest f.d) (slotBit l.slot) no l with after := after })

/-- LAUNCH_ENQUEUE: the record is tested and enqueued, and the code returns into vd (R111). -/
def execLaunchEnqueue (tid entry : Nat) (s : State) : Host.Outcome State Fault Refusal :=
  .next (match s.thread? tid, (s.thread? tid).bind fun t => t.entry? entry with
    | some t, some e =>
      match e.instr with
      | .launch _ =>
        if e.state ≠ .flight then s
        else
          let ctx := if s.privileged t.ctx then Opnd.word e.cap.a 1 % 16 else t.ctx
          match enqueueRecord t.tile ctx (Opnd.word e.cap.a 0) s with
          | .ok (code, s) => s.completeEntry tid entry [BitVec.ofNat 32 code]
          | .error (.parked f) => s.modThread tid fun t => t.modEntry entry fun e => { e with state := .fault, fault := some f }
          | .error _ => s.completeEntry tid entry [1]
      | _ => s
    | _, _ => s)

/-! ## Examining a record (R18, R36, R38, R46) -/

/-- A stage block (R36). -/
def Stage.ofBytes (b : List Byte) : Stage :=
  { entry := fieldAt b 0 4, vregs := fieldAt b 4 1, wregs := fieldAt b 5 1, depth := fieldAt b 6 1, payload := fieldAt b 8 2
    slice := fieldAt b 0x0A 2, input := if fieldAt b 0x0C 1 / 128 = 1 then some (fieldAt b 0x0C 1 % 32) else none
    ncv := fieldAt b 0x0D 1, nbar := fieldAt b 0x0E 2, outmask := BitVec.ofNat 32 (fieldAt b 0x10 4), threshold := fieldAt b 0x14 4
    qage := fieldAt b 0x18 4, widths := (List.range 6).map fun i => fieldAt b (0x1C + i) 1
    extents := (List.range 6).map fun i => fieldAt b (0x24 + 4 * i) 4 + 1
    qbind := (List.range 32).filterMap fun i =>
      if fieldAt b (0x40 + 2 * i) 2 = 0xFFFF then none else some (i, fieldAt b (0x40 + 2 * i) 2) }

def Stage.width (t : Stage) (n : Nat) : Nat := t.widths.getD n 0
/-- The extent of Fn (R34). -/
def Stage.ext (t : Stage) (n : Nat) : Nat := t.extents.getD n 1
/-- E (R34). -/
def Stage.total (t : Stage) : Nat := t.ext 2 * t.ext 3 * t.ext 4 * t.ext 5

/-- The limits of a stage block that every launch keeps (R36, R38, R56). -/
def Stage.legal (t : Stage) (b : List Byte) : Bool :=
  fieldAt b 7 1 == 0 && fieldAt b 0x0C 1 / 32 % 4 == 0 && fieldAt b 0x22 2 == 0 && fieldAt b 0x3C 4 == 0 &&
    t.entry % 3 == 0 && decide (8 ≤ t.vregs ∧ t.vregs ≤ 128 ∧ t.vregs % 8 = 0 ∧ t.wregs ≤ 32 ∧ t.depth ≤ 8) &&
    decide (t.payload ≤ 4096 ∧ t.payload % 16 = 0 ∧ t.slice ≤ 1024 ∧ t.ncv ≤ 64 ∧ t.nbar ≤ 256) &&
    (t.widths.all fun w => decide (w ≤ 32)) && decide (t.widths.foldl (· + ·) 0 ≤ 64) &&
    decide (1 ≤ t.width 0 ∧ t.width 0 ≤ 10 ∧ t.width 1 ≤ 2) && ((List.range 6).all fun i => decide (t.ext i ≤ 2 ^ t.width i))

/-- The descriptors that a stage's OUTMASK names. -/
def Stage.outs (t : Stage) : List Nat := (List.range 32).filter fun i => t.outmask.getLsbD i

/-- The further limits of a stage of a pipeline launch, and R18: its queues are bound, and another stage feeds its input. -/
def pipelineLegal (stages : List Stage) : Bool :=
  stages.zipIdx.all fun x =>
    let t := x.1
    decide (1 ≤ t.threshold ∧ t.threshold ≤ 65536 ∧ 256 ≤ t.qage ∧ t.qage ≤ 65536) &&
      (t.outs.all fun i => (Map.get? t.qbind i).isSome) &&
      match t.input with
      | none => true
      | some q =>
        !t.outmask.getLsbD q && match Map.get? t.qbind q with
          | none => false
          | some obj => stages.zipIdx.any fun y => y.2 != x.2 && y.1.outs.any fun i => Map.get? y.1.qbind i == some obj

/-- An entry that must hold an object of a kind, whatever its rights (R38). -/
def holdsKind (ctx idx : Nat) (k : ObjKind) : Work Bool := fun s =>
  match checkEntry ioTile ctx idx [k] 0 s with
  | .ok (_, s) => .ok (true, s)
  | .error (.parked f) => .error (.parked f)
  | .error _ => .ok (false, s)

/-- Whether every index of a list names an object of a kind. -/
def holdAll (ctx : Nat) (k : ObjKind) : List Nat → Work Bool
  | [] => pure true
  | i :: is => do
    let a ← holdsKind ctx i k
    if a then holdAll ctx k is else pure false

/-- A tile is in service for placement (R420). -/
def State.inService (s : State) (tile : Nat) : Bool := !s.boot.lostTiles.contains tile && !s.boot.retiring.contains tile

/-- The tiles of a quad, in the order of its ring; quads are four consecutive numbers, which is the model's choice. -/
def quadTiles (quad : Nat) : List Nat := (List.range 4).map fun i => 4 * quad + i

/-- The code of an examined record and the launch it makes (R38, R190). A queue-fed stage of an EVEN pipeline is not held to R46's limits
of E2 and O (DESIGN CHOICE, entry 78). -/
def examine (l : Launch) : Work (Nat × Launch) := do
  let h ← recordBytes l.ctx l.recOff 320
  let nstage := fieldAt h 2 1
  let mode := fieldAt h 3 1
  let count := if nstage ≤ 8 then max 1 nstage else 1
  let blocks ← (List.range count).mapM fun n => recordBytes l.ctx (l.recOff + 0x140 + 128 * n) 128
  let stages := blocks.map Stage.ofBytes
  let stages := if nstage = 0 then stages.map fun t => { t with input := none } else stages
  let dist := mode / 64
  let fed (t : Stage) : Bool := t.input.isSome
  let fixed := fieldAt h 0 2 == 0x0C02 && decide (nstage ≤ 8 ∧ mode % 2 = 0 ∧ dist ≠ 3 ∧ 256 ≤ fieldAt h 4 2 ∧ fieldAt h 4 2 ≤ 16384) &&
    fieldAt h 0x0A 2 == 0 && fieldAt h 0x10 48 == 0 && ((stages.zip blocks).all fun x => x.1.legal x.2) &&
    (nstage == 0 || pipelineLegal stages) &&
    (dist != 2 || (stages.filter fun t => !fed t).all fun t => decide (t.ext 2 ≤ 65536 ∧ t.ext 3 * t.ext 4 * t.ext 5 ≤ 2 ^ 32))
  let objects ← if !fixed then pure false else do
      let a ← if mode / 4 % 2 = 1 then holdsKind l.ctx (fieldAt h 6 2) .dieset else pure true
      let b ← if mode / 2 % 2 = 1 then holdsKind l.ctx (fieldAt h 8 2) .barrier else pure true
      let c ← holdAll l.ctx .ringq (stages.flatMap fun t => t.qbind.map Prod.snd)
      pure (a && b && c)
  let s ← get
  let room (t : Stage) : Bool := (List.range 48).any fun q => decide (t.ext 1 ≤ ((quadTiles q).filter s.inService).length)
  let code := if !objects then 0x10
    else if stages.any fun t => decide (128 < t.payload ∨ t.vregs < t.payload / 4 + 8) then 0x11
    else if stages.any fun t => !room t then 0x12
    else 1
  let parts := ((List.range 192).filter s.inService).flatMap fun t => (List.range 4).map fun p => 4 * t + p
  let share (n : Nat) : Nat := parts.length / stages.length + if n < parts.length % stages.length then 1 else 0
  let first (n : Nat) : Nat := (List.range n).foldl (fun a k => a + share k) 0
  pure (code, { l with
    phase := .accepted, pipeline := nstage != 0, dist := dist, age := fieldAt h 4 2
    dieset := if mode / 4 % 2 = 1 then some (fieldAt h 6 2) else none
    depbar := if mode / 2 % 2 = 1 then some (fieldAt h 8 2) else none
    consts := (List.range 64).filterMap fun n =>
      let c := BitVec.ofNat 32 (fieldAt h (0x40 + 4 * n) 4)
      if c = 0 then none else some (n, c)
    stages := if nstage = 0 then stages
      else stages.zipIdx.map fun x => { x.1 with parts := (parts.drop (first x.2)).take (share x.2) }
    epoch := s.cycle + 4096 })

/-- A launch leaves its priority queue. -/
def State.dequeue (s : State) (id : Nat) (l : Launch) : State :=
  s.modCtx l.ctx fun c => { c with queues := Map.mapAll c.queues fun _ q => q.filter (· != id) }

/-- A launch ends with a final STATUS; its ring-queue counters are released (R37, R297). -/
def State.finishLaunch (s : State) (id code : Nat) : State :=
  match Map.get? s.launches id with
  | none => s
  | some l =>
    let s := (s.writeStatus l code).dequeue id l
    { s with launches := Map.del s.launches id, rings := s.rings.filter fun r => r.launch != id }

/-- DISTRIBUTOR_EXAMINE: the oldest record of a queue that has not been examined (R38). -/
def execDistributorExamine (ctx prio : Nat) (s : State) : Host.Outcome State Fault Refusal :=
  .next (
    let queue := Map.getD (((s.ctx? ctx).map Context.queues).getD []) prio []
    let queued (id : Nat) : Option (Nat × Launch) :=
      (Map.get? s.launches id).bind fun l => if l.phase = .queued then some (id, l) else none
    match queue.findSome? queued with
    | none => s
    | some (id, l) =>
      if !s.takesLaunches ctx || l.fault.isSome then s
      else
        match examine l s with
        | .ok ((1, l'), s) => ({ s with launches := Map.set s.launches id l' }).writeStatus l' 1
        | .ok ((code, _), s) => s.finishLaunch id code
        | .error (.parked f) => s.modLaunch id fun l => { l with fault := some f }
        | .error _ => s.finishLaunch id 0x10)

/-! ## Room on a tile (R40) -/

/-- The stage block of a cell. -/
def State.stageRec (s : State) (launch stage : Nat) : Stage :=
  ((Map.get? s.launches launch).bind fun l => l.stages[stage]?).getD {}

/-- How many threads each block of 32 values of F0 holds (R40). -/
def blockSizes (e0 : Nat) : List Nat := (List.range ((e0 + 31) / 32)).map fun b => min 32 (e0 - 32 * b)

/-- F0 of a thread (R33). -/
def State.f0Of (s : State) (t : Thread) : Nat := t.wid.toNat % 2 ^ (s.stageRec t.launch t.stage).width 0

/-- The tile and the partition where a thread was created, whose slot stays its own while it is away (R40, R199). -/
def State.homeSlot (s : State) (t : Thread) : Option (Nat × Nat) :=
  (Map.get? s.cells t.cell).bind fun c => (c.blocks[s.f0Of t / 32]?).map fun p => (c.tile, p)

/-- Where a thread is, or is going. -/
def Thread.site (t : Thread) : Nat × Nat := t.going.getD (t.tile, t.part)

/-- The free thread slots of a partition: less what its own cells keep, and less the threads that have come from elsewhere. -/
def State.freeSlots (s : State) (tile part : Nat) : Nat :=
  let kept := (s.cells.filter fun c => c.2.tile == tile).foldl (fun n c =>
    n + ((c.2.blocks.zip (blockSizes ((s.stageRec c.2.launch c.2.stage).ext 0))).foldl (fun m b => if b.1 = part then m + b.2 else m) 0)) 0
  let guests := (s.threads.filter fun t => t.2.site == (tile, part) && s.homeSlot t.2 != some (tile, part)).length
  512 - (kept + guests)

/-- The partition with the most free slots, the lowest number on a tie. -/
def mostFree : List (Nat × Nat) → Option (Nat × Nat)
  | [] => none
  | p :: ps =>
    match mostFree ps with
    | none => some p
    | some q => if p.2 ≥ q.2 then some p else some q

/-- Each block given to the partition with the most free slots (R40). -/
def planBlocks : List Nat → List (Nat × Nat) → Option (List Nat)
  | [], _ => some []
  | k :: ks, free =>
    match mostFree free with
    | none => none
    | some p =>
      if p.2 < k then none
      else (planBlocks ks (free.map fun q => if q.1 = p.1 then (q.1, q.2 - k) else q)).map fun r => p.1 :: r

/-- The allocations of a tile's slice: of resident cells, and those that saved contexts keep (R40, R153). -/
def State.allocations (s : State) (tile : Nat) : List (Nat × Nat) :=
  let of (cs : Map Cell) : List (Nat × Nat) := (cs.filter fun c => c.2.tile == tile && c.2.sliceLen != 0).map fun c => (c.2.slice, c.2.sliceLen)
  of s.cells ++ s.images.flatMap fun x => if x.2.keep then of x.2.cells else []

/-- Where an allocation of n bytes goes in a tile's slice: the lowest room that holds it (DESIGN CHOICE, entry 76). -/
def State.sliceRoom (s : State) (tile n : Nat) : Option Nat :=
  let base := 0x8000000000 + tile * 2 ^ 22
  let used := s.allocations tile
  let starts := base :: used.map fun a => a.1 + a.2
  let fits := starts.filter fun a => decide (a + n ≤ base + 2 ^ 22) && used.all fun u => decide (a + n ≤ u.1 ∨ u.1 + u.2 ≤ a)
  fits.foldl (fun m a => match m with
    | none => some a
    | some b => some (min a b)) none

/-- The ring-queue descriptor entries taken on a tile: one for each queue that a stage's cells bind there, and the counters it
hosts (R40, R297). -/
def State.descriptors (s : State) (tile : Nat) : List (Nat × Nat × Nat) :=
  let bound := ((s.cells.filter fun c => c.2.tile == tile).flatMap fun c => c.2.qbind.map fun q => (c.2.launch, c.2.stage, q.2)).eraseDups
  bound ++ (s.rings.filter fun r => r.host == tile && !(bound.any fun b => b.1 == r.launch && b.2.2 == r.obj)).map
    fun r => (r.launch, 256, r.obj)

/-- The partitions of a tile that a stage may be placed on (R200). -/
def partsFor (pipeline : Bool) (t : Stage) (tile : Nat) : List Nat :=
  (List.range 4).filter fun p => !pipeline || t.parts.contains (4 * tile + p)

/-- Whether a tile has the named barriers, convergence registers and descriptors that a cell of a stage needs (R40). -/
def State.countsFit (s : State) (launch stage : Nat) (t : Stage) (tile : Nat) : Bool :=
  let here := s.cells.filter fun c => c.2.tile == tile
  let sum (g : Stage → Nat) : Nat := here.foldl (fun n c => n + g (s.stageRec c.2.launch c.2.stage)) 0
  let have' := s.descriptors tile
  let new := (t.qbind.map fun q => (launch, stage, q.2)).eraseDups.filter fun q => !have'.contains q
  decide (sum Stage.nbar + t.nbar ≤ 256 ∧ sum Stage.ncv + t.ncv ≤ 64 ∧ have'.length + new.length ≤ 32)

/-- How a cell of a stage fits a tile: the partition of each of its blocks, if it does (R40). -/
def State.fitTile (s : State) (launch stage : Nat) (pipeline : Bool) (t : Stage) (tile : Nat) : Option (List Nat) :=
  if !s.inService tile || (s.sliceRoom tile (4096 * t.slice)).isNone || !s.countsFit launch stage t tile then none
  else planBlocks (blockSizes (t.ext 0)) ((partsFor pipeline t tile).map fun p => (p, s.freeSlots tile p))

/-! ## Creating cells and threads (R32, R33, R40) -/

/-- The fields F2 to F5 of a cluster index (R34). -/
def Stage.fields (t : Stage) (d : Nat) : List Nat :=
  [d % t.ext 2, d / t.ext 2 % t.ext 3, d / (t.ext 2 * t.ext 3) % t.ext 4, d / (t.ext 2 * t.ext 3 * t.ext 4) % t.ext 5]

/-- WID of the fields F0 upwards (R33). -/
def widOf : List Nat → List Nat → Nat
  | w :: ws, f :: fs => f % 2 ^ w + 2 ^ w * widOf ws fs
  | _, _ => 0

/-- The lowest position of a partition that no thread holds. -/
def State.freePos (s : State) (tile part : Nat) : Nat :=
  let used := (s.threads.filter fun t => t.2.tile == tile && t.2.part == part).map fun t => t.2.pos
  ((List.range 512).find? fun p => !used.contains p).getD 0

/-- A thread created and filed ready under (ENTRY, 0) (R32, R48). -/
def State.createThread (s : State) (id : Nat) (c : Cell) (t : Stage) (d f0 : Nat) : State :=
  let part := c.blocks.getD (f0 / 32) 0
  let k := s.ctx? c.ctx
  let tid := s.nextId
  let th : Thread :=
    { ctx := c.ctx, launch := c.launch, stage := c.stage, cell := id, tile := c.tile, part := part, pos := s.freePos c.tile part
      wid := BitVec.ofNat 64 (widOf t.widths (f0 :: c.f1 :: t.fields d)), vregs := t.vregs, wregs := t.wregs, pc := t.entry
      awin := (k.map Context.window).getD 0, bank := (k.map Context.dieSel).getD false, ftActive := (k.map Context.ftSel).getD 0 }
  ({ s with nextId := tid + 1, threads := Map.set s.threads tid th }).file tid (t.entry % 2 ^ 24) 0 .ready

/-- A thread that has gone leaves no trace. -/
def State.removeThread (s : State) (tid : Nat) : State :=
  let s := s.unfile tid
  { s with threads := Map.del s.threads tid }

/-- The threads of a cell, with those that have exited. -/
def State.threadsOf (s : State) (cell : Nat) : List (Nat × Thread) := s.threads.filter fun t => t.2.cell == cell

/-- A cell starts on a value of D: its barriers and convergence registers clear, its threads created anew (R32, R43). -/
def State.startCell (s : State) (id d : Nat) : State :=
  let s := (s.threadsOf id).foldl (fun s t => s.removeThread t.1) s
  match Map.get? s.cells id with
  | none => s
  | some c =>
    let c := { c with bars := [], cvs := [], complete := false }
    let s := { s with cells := Map.set s.cells id c }
    let t := s.stageRec c.launch c.stage
    (List.range (t.ext 0)).foldl (fun s f0 => s.createThread id c t d f0) s

/-- The bytes of a range zero, their tags reset and WAITV woken (R40, R54). -/
def State.zero (s : State) (pa n : Nat) : State :=
  { s with mem := s.mem.filter fun c => !(decide (pa ≤ c.1 ∧ c.1 < pa + n))
           tags := s.tags.filter fun t => !(decide (pa / 64 ≤ t.1 ∧ t.1 * 64 < pa + n)) }.wakeGranules pa n

/-- The counters of a queue, allocated when the first cell that binds it is placed (R297). -/
def State.allocateRing (s : State) (ctx launch tile obj : Nat) : State :=
  if s.rings.any fun r => r.launch == launch && r.obj == obj then s
  else
    let slots := match readEntry ioTile ctx obj s with
      | .ok (o, _) => o.slots
      | .error _ => 0
    { s with rings := s.rings ++ [{ launch := launch, obj := obj, host := tile, slots := slots }] }

/-- A cell placed on a tile, without its threads (R40). -/
def State.placeCell (s : State) (launch stage cluster f1 tile : Nat) (blocks : List Nat) (t : Stage) (ctx : Nat) : Nat × State :=
  let id := s.nextId
  let base := (s.sliceRoom tile (4096 * t.slice)).getD 0
  let c : Cell := { ctx := ctx, launch := launch, stage := stage, cluster := cluster, f1 := f1, tile := tile, slice := base
                    sliceLen := 4096 * t.slice, qbind := t.qbind, blocks := blocks }
  let s := ({ s with nextId := id + 1, cells := Map.set s.cells id c }).zero base (4096 * t.slice)
  (id, (t.qbind.map Prod.snd).foldl (fun s o => s.allocateRing ctx launch tile o) s)

/-- A cluster changed, if it exists. -/
def State.modCluster (s : State) (n : Nat) (g : Cluster → Cluster) : State :=
  match Map.get? s.clusters n with
  | none => s
  | some c => { s with clusters := Map.set s.clusters n (g c) }

/-- A stage of a launch changed. -/
def State.modStage (s : State) (launch stage : Nat) (g : Stage → Stage) : State :=
  s.modLaunch launch fun l => { l with stages := l.stages.zipIdx.map fun x => if x.2 = stage then g x.1 else x.1 }

/-- Where the cells of a stage's next cluster fit a quad: its tiles with the partitions of their blocks (R40). Of the tiles that fit they
take the lowest-numbered, in order (DESIGN CHOICE, entry 76). -/
def State.fitQuad (s : State) (id : Nat) (l : Launch) (stage : Nat) (t : Stage) (quad : Nat) : Option (List (Nat × List Nat)) :=
  let fits := (quadTiles quad).filterMap fun tile => (s.fitTile id stage l.pipeline t tile).map fun b => (tile, b)
  if fits.length ≥ t.ext 1 then some (fits.take (t.ext 1)) else none

/-- A cluster placed whole; with a value of D its threads start at once (R40, R42). -/
def State.placeCluster (s : State) (id : Nat) (l : Launch) (stage : Nat) (t : Stage) (quad : Nat) (sites : List (Nat × List Nat))
    (d : Option Nat) : State :=
  let n := s.nextId
  let s := { s with nextId := n + 1 }
  let r := sites.zipIdx.foldl (fun (acc : List Nat × State) x =>
    let c := acc.2.placeCell id stage n x.2 x.1.1 x.1.2 t l.ctx
    (acc.1 ++ [c.1], c.2)) (([] : List Nat), s)
  let s := { r.2 with clusters := Map.set r.2.clusters n { launch := id, stage := stage, quad := quad, cells := r.1, d := d } }
  let s := s.modStage id stage fun t => { t with nextD := t.nextD + 1, owes := false }
  let s := if l.phase = .accepted then (s.modLaunch id fun l => { l with phase := .running }).writeStatus l 2 else s
  match d with
  | some d => r.1.foldl (fun s c => s.startCell c d) s
  | none => s

/-- The Anvil of a tile is freed when its owner has no cell left there (R250). -/
def State.freeAnvil (s : State) (tile : Nat) : State :=
  match (s.tile tile).anvil.owner with
  | none => s
  | some ctx =>
    if s.cells.any fun c => c.2.ctx == ctx && c.2.tile == tile then s
    else
      let s := s.setTile tile { s.tile tile with anvil := {} }
      s.wake fun w => match w with
        | .anvil => true
        | _ => false

/-- A cell's resources are freed; the last of its cluster takes the cluster with it (R42). -/
def State.freeCell (s : State) (id : Nat) : State :=
  let s := (s.threadsOf id).foldl (fun s t => s.removeThread t.1) s
  match Map.get? s.cells id with
  | none => s
  | some c =>
    let s := ({ s with cells := Map.del s.cells id }.modCluster c.cluster fun k => { k with cells := k.cells.filter (· != id) }).freeAnvil c.tile
    if (Map.get? s.clusters c.cluster).any fun k => k.cells.isEmpty then { s with clusters := Map.del s.clusters c.cluster } else s

/-! ## LAZY and EVEN (R43 to R47) -/

/-- The clusters of a stage in placement order. -/
def State.clustersOf (s : State) (launch stage : Nat) : List (Nat × Cluster) :=
  s.clusters.filter fun c => c.2.launch == launch && c.2.stage == stage

/-- A cluster's cells start on a value of D. -/
def State.startCluster (s : State) (n d : Nat) : State :=
  match Map.get? s.clusters n with
  | none => s
  | some c => c.cells.foldl (fun s x => s.startCell x d) (s.modCluster n fun c => { c with d := some d })

/-- A LAZY cluster takes the lowest value of its range (R43). -/
def State.takeValue (s : State) (n : Nat) : State :=
  match Map.get? s.clusters n with
  | none => s
  | some c =>
    if c.lo < c.hi then
      (s.modCluster n fun c => { c with lo := c.lo + 1, idleSince := none, asking := false, mesh := false }).startCluster n c.lo
    else s.modCluster n fun c => { c with d := none }

/-- The ranges of LAZY: one for each cluster, the first ones longer by one (R43). -/
def State.divideLazy (s : State) (launch stage e : Nat) : State :=
  let cs := (s.clustersOf launch stage).map Prod.fst
  let m := cs.length
  let start (j : Nat) : Nat := j * (e / m) + min j (e % m)
  cs.zipIdx.foldl (fun s x => (s.modCluster x.1 fun c => { c with lo := start x.2, hi := start (x.2 + 1) }).takeValue x.1) s

/-- The parts of split tiles that a cell holds, lowest first: FIXA and FIXB, where `at` gives each cell's range by its number
(R46, R47). -/
def fixesOf (e2 n : Nat) (start : Nat → Nat) (j : Nat) : List (BitVec 64) :=
  let lo := start j
  let hi := start (j + 1)
  if lo ≥ hi then []
  else
    ([lo / e2, (hi - 1) / e2].eraseDups.filter fun o => decide (o * e2 < lo ∨ hi < (o + 1) * e2)).map fun o =>
      let part := ((List.range n).filter fun i => decide (i < j ∧ start i < start (i + 1) ∧ o * e2 < start (i + 1))).length
      BitVec.ofNat 64 (2 ^ 63 + (if (o + 1) * e2 ≤ hi then 2 ^ 62 else 0) + part % 2 ^ 16 * 2 ^ 32 + o % 2 ^ 32)

/-- The ranges of EVEN, and each cell's first value (R46, R47). -/
def State.divideEven (s : State) (launch stage : Nat) (t : Stage) : State :=
  let cells := (s.clustersOf launch stage).flatMap fun c => c.2.cells
  let n := cells.length
  let start (j : Nat) : Nat := j * t.total / n
  cells.zipIdx.foldl (fun s x =>
    let fx := fixesOf (t.ext 2) n start x.2
    let s := s.modCell x.1 fun c =>
      { c with gLo := start x.2 + 1, gHi := start (x.2 + 1), fixa := fx.getD 0 0, fixb := fx.getD 1 0 }
    if start x.2 < start (x.2 + 1) then s.startCell x.1 (start x.2) else s.freeCell x.1) s

/-- Whether a stage runs its values of D under LAZY or EVEN, and is not fed by a queue (R43, R46, R202). -/
def ranged (l : Launch) (t : Stage) : Bool := l.dist != 0 && t.input.isNone

/-- Placement of a LAZY or EVEN stage stops once it has a cluster for every value, or no quad has room for another (R43). -/
def State.stopPlacing (s : State) (id stage : Nat) : State :=
  match Map.get? s.launches id with
  | none => s
  | some l =>
    let t := s.stageRec id stage
    let more := decide (t.nextD < t.total) && (List.range 48).any fun q => (s.fitQuad id l stage t q).isSome
    if !ranged l t || t.divided || (s.clustersOf id stage).isEmpty || more then s
    else
      let s := s.modStage id stage fun t => { t with divided := true }
      if l.dist = 1 then s.divideLazy id stage t.total else s.divideEven id stage t

/-! ## Placing (R41, R42) -/

/-- Whether a stage still has clusters for the distributor to place; a queue-fed one has when it owes a cell (R42, R43, R202). -/
def unplaced (l : Launch) (t : Stage) : Bool :=
  !t.closed && if t.input.isSome then t.owes else decide (t.nextD < t.total) && !(ranged l t && t.divided)

/-- The dependence barrier of a launch has been armed and brought to zero (R41). One of CELL scope, or one that lies outside HBM and
slices, never has (DESIGN CHOICE, entry 77). -/
def dependenceMet (l : Launch) : Work Bool :=
  match l.depbar with
  | none => pure true
  | some idx => do
    let o ← checkEntry ioTile l.ctx idx [.barrier] 0
    let s ← get
    if o.scope = 1 then pure false
    else
      match s.translate ioTile l.ctx o.base .read with
      | (.ok pa _, s) => pure (shared (s.localPa pa) 16 && barrierDone (s.num (s.localPa pa) 8))
      | (.pgfault f, _) => Work.stop (.parked f)
      | (.pgfatal, _) => pure false

/-- Whether a launch may be placed: eligible, of a running context (R41). The dependence is tested anew until the first cell is placed
(DESIGN CHOICE, entry 77). -/
def State.eligible (s : State) (l : Launch) : Bool :=
  ((s.ctx? l.ctx).any fun c => c.phase == .running) && l.fault.isNone &&
    (l.phase == .running || (l.phase == .accepted && match dependenceMet l s with
      | .ok (b, _) => b
      | .error _ => false))

/-- The contexts in the order of the rotation, which is one for all priorities (R41; DESIGN CHOICE, entry 77). -/
def State.rotation (s : State) : List Nat := (List.range 16).map fun i => (s.rotor + 1 + i) % 16

/-- The launches in the order in which a free quad is offered to them (R41). -/
def State.offers (s : State) : List (Nat × Launch) :=
  (List.range 8).reverse.flatMap fun prio => s.rotation.flatMap fun ctx =>
    (Map.getD (((s.ctx? ctx).map Context.queues).getD []) prio []).filterMap fun id => (Map.get? s.launches id).map fun l => (id, l)

/-- The first stage of a launch whose next cluster fits a quad, with the sites. -/
def State.firstFit (s : State) (id : Nat) (l : Launch) (quad : Nat) : Option (Nat × Stage × List (Nat × List Nat)) :=
  l.stages.zipIdx.findSome? fun x =>
    if unplaced l x.1 then (s.fitQuad id l x.2 x.1 quad).map fun sites => (x.2, x.1, sites) else none

/-- The records that wait on their dependence barrier and meet a page fault in reading it are parked on it (R324). -/
def State.parkDependence (s : State) : State :=
  { s with launches := Map.mapAll s.launches fun _ l =>
      if l.phase = .accepted ∧ l.fault.isNone then
        match dependenceMet l s with
        | .error (.parked f) => { l with fault := some f }
        | _ => l
      else l }

/-- A launch all of whose clusters have been placed leaves its queue. -/
def State.leaveQueue (s : State) (id : Nat) : State :=
  match Map.get? s.launches id with
  | none => s
  | some l => if l.pipeline || l.stages.any (unplaced l) then s else s.dequeue id l

/-- A cluster that a quad is to take: its launch, stage and sites. -/
structure Offer where
  id : Nat
  launch : Launch
  stage : Nat
  block : Stage
  sites : List (Nat × List Nat)
  deriving DecidableEq, Repr

/-- What a quad takes: the next cluster of the first eligible launch that has one to fit it (R41). -/
def State.takes (s : State) (quad : Nat) : Option Offer :=
  s.offers.findSome? fun x =>
    if quad < 48 && s.eligible x.2 then
      (s.firstFit x.1 x.2 quad).map fun f => { id := x.1, launch := x.2, stage := f.1, block := f.2.1, sites := f.2.2 }
    else none

/-- Placement stops for every running stage that has no more room, whoever took it (R43). -/
def State.stopStages (s : State) : State :=
  (s.launches.filter fun x => x.2.phase == .running && (s.ctx? x.2.ctx).any fun c => c.phase == .running).foldl (fun s x =>
    ((List.range x.2.stages.length).foldl (fun s n => s.stopPlacing x.1 n) s).leaveQueue x.1) s

/-- A quad takes a cluster: the k-th of a queue-fed stage runs D = k mod E (R41, R42, R202). -/
def State.place (s : State) (quad : Nat) (o : Offer) : State :=
  let d := if ranged o.launch o.block then none
    else if o.block.input.isSome then some (o.block.nextD % o.block.total)
    else some o.block.nextD
  { s.placeCluster o.id o.launch o.stage o.block quad o.sites d with rotor := o.launch.ctx }.stopStages

/-- PLACE_CLUSTER: a quad offered to the eligible launches in turn takes the next cluster of the first that fits (R41, R42). -/
def execPlaceCluster (quad : Nat) (s : State) : Host.Outcome State Fault Refusal :=
  .next (
    let s := s.parkDependence
    match s.takes quad with
    | none => s
    | some o => s.place quad o)

/-! ## Completion (R42, R43, R106) -/

/-- Whether everything that a thread issued has performed (R42, R106). -/
def State.spent (s : State) (tid : Nat) (t : Thread) : Bool :=
  t.ended && t.replay.isEmpty && t.arriving.isEmpty && !(s.ops.any fun o => o.2.tid == tid) &&
    !((s.tile t.tile).lines.any fun l => l.tid == tid) && !(s.rings.any fun r => r.inflight.any fun p => p.tid == tid) &&
    !(s.fabric.retry.any fun r => r.2.tid == tid && match r.2.payload with
      | .load .. | .push .. => false
      | _ => true)

/-- Whether a cell's threads have all exited and their work has performed (R42). -/
def State.cellSpent (s : State) (id : Nat) : Bool :=
  !(s.threadsOf id).isEmpty && (s.threadsOf id).all fun t => s.spent t.1 t.2

/-- A LAZY stage is over when every range is empty and every cell has completed (R44). -/
def State.lazyOver (s : State) (launch stage : Nat) : Bool :=
  (s.stageRec launch stage).divided && (s.clustersOf launch stage).all fun c => c.2.d.isNone && decide (c.2.hi ≤ c.2.lo)

/-- A stage without `in` has run all its values of D (R203). -/
def State.stageRun (s : State) (id : Nat) (l : Launch) (stage : Nat) (t : Stage) : Bool :=
  if ranged l t then t.divided && (s.clustersOf id stage).isEmpty
  else decide (t.total ≤ t.nextD) && (s.clustersOf id stage).isEmpty

/-- An ordinary launch whose cells have all completed ends with STATUS OK (R37, R42). -/
def State.launchOver (s : State) (id : Nat) : State :=
  match Map.get? s.launches id with
  | none => s
  | some l =>
    if !l.pipeline && l.phase == .running && (l.stages.zipIdx.all fun x => s.stageRun id l x.2 x.1) then s.finishLaunch id 3 else s

/-- The next value of an EVEN cell, or its end (R46). -/
def State.nextEven (s : State) (id : Nat) (c : Cell) : State :=
  if c.gLo < c.gHi then (s.modCell id fun c => { c with gLo := c.gLo + 1 }).startCell id c.gLo else (s.freeCell id).launchOver c.launch

/-- The next value of a LAZY cluster whose cells have all completed; with every range of its stage empty its cells are freed
(R43, R44). -/
def State.nextLazy (s : State) (c : Cell) : State :=
  match Map.get? s.clusters c.cluster with
  | none => s
  | some k =>
    if k.cells.all fun x => (Map.get? s.cells x).any Cell.complete then
      let s := s.takeValue c.cluster
      if s.lazyOver c.launch c.stage then
        (((s.clustersOf c.launch c.stage).flatMap fun k => k.2.cells).foldl (fun s x => s.freeCell x) s).launchOver c.launch
      else s
    else s

/-- CELL_COMPLETE (R42, R43, R46): its open convergence sets are discarded with it (R256). -/
def execCellComplete (cell : Nat) (s : State) : Host.Outcome State Fault Refusal :=
  .next (match Map.get? s.cells cell with
    | none => s
    | some c =>
      if c.complete || !s.cellSpent cell || !((s.ctx? c.ctx).any fun x => x.phase == .running) then s
      else
        match Map.get? s.launches c.launch with
        | none => s.freeCell cell
        | some l =>
          let t := s.stageRec c.launch c.stage
          if ranged l t then
            if l.dist = 2 then s.nextEven cell c
            else (s.modCell cell fun c => { c with complete := true, bars := [], cvs := [] }).nextLazy c
          else (s.freeCell cell).launchOver c.launch)

/-! ## Stealing (R44) -/

/-- A cluster that waits for values: its range is empty and it has none in progress, in a context that runs (R44, R384). -/
def State.idle (s : State) (n : Nat) : Option Cluster :=
  (Map.get? s.clusters n).bind fun c =>
    if c.d.isNone && decide (c.hi ≤ c.lo) && (s.stageRec c.launch c.stage).divided &&
        ((Map.get? s.launches c.launch).any fun l => l.dist == 1 && (s.ctx? l.ctx).any fun c => c.phase == .running) then some c else none

/-- The place of a cluster on its quad's ring: its first cell's tile, then the order of placement. -/
def State.ringPlace (s : State) (x : Nat × Cluster) : Nat :=
  (((x.2.cells.head?).bind fun c => Map.get? s.cells c).map Cell.tile).getD 0 * 2 ^ 64 + x.1

/-- Clusters in rising order of a measure. -/
def sortedBy (g : Nat × Cluster → Nat) : List (Nat × Cluster) → List (Nat × Cluster)
  | [] => []
  | x :: xs =>
    let rec put : List (Nat × Cluster) → List (Nat × Cluster)
      | [] => [x]
      | y :: ys => if g x ≤ g y then x :: y :: ys else y :: put ys
    put (sortedBy g xs)

/-- The clusters that a request meets, in order: round the quad's ring from the requester, or over the mesh by distance, the lower
quad first on a tie (R44). -/
def State.stealPath (s : State) (n : Nat) (c : Cluster) : List (Nat × Cluster) :=
  let others := (s.clustersOf c.launch c.stage).filter fun x => x.1 != n
  if c.mesh then
    let hops (x : Nat × Cluster) : Nat := if x.2.quad = c.quad then 0 else 1 + Config.meshHops (4 * c.quad) (4 * x.2.quad)
    sortedBy (fun x => hops x * 2 ^ 32 + x.2.quad) others
  else
    let ring := sortedBy s.ringPlace (others.filter fun x => x.2.quad == c.quad)
    let mine := s.ringPlace (n, c)
    (ring.filter fun x => decide (mine < s.ringPlace x)) ++ ring.filter fun x => decide (s.ringPlace x < mine)

/-- A request sent. -/
def State.ask (s : State) (n : Nat) : State :=
  s.modCluster n fun c => { c with asking := true, lastAsk := s.cycle, idleSince := some (c.idleSince.getD s.cycle) }

/-- STEAL_REQUEST (R44). -/
def execStealRequest (cluster : Nat) (s : State) : Host.Outcome State Fault Refusal :=
  .next (match s.idle cluster with
    | some c => if c.idleSince.isSome then s else s.ask cluster
    | none => s)

/-- What a holder can give: half the values beyond the one in progress (R44). -/
def Cluster.spare (c : Cluster) : Nat := (c.hi - c.lo) / 2

/-- STEAL_RESPONSE: the first cluster on the request's path that has values to give hands over the upper half; with none the
request has failed (R44). -/
def execStealResponse (holder requester : Nat) (s : State) : Host.Outcome State Fault Refusal :=
  .next (match s.idle requester with
    | none => s
    | some c =>
      if !c.asking then s
      else
        match (s.stealPath requester c).find? fun x => decide (1 ≤ x.2.spare) with
        | none => s.modCluster requester fun c => { c with asking := false }
        | some (h, g) =>
          if h ≠ holder then s
          else
            let k := g.spare
            let s := s.modCluster h fun g => { g with hi := g.hi - k }
            (s.modCluster requester fun c => { c with lo := g.hi - k, hi := g.hi }).takeValue requester)

/-- STEAL_RETRY: a failed request is repeated 1,024 cycles after it was sent (R44). -/
def execStealRetry (cluster : Nat) (s : State) : Host.Outcome State Fault Refusal :=
  .next (match s.idle cluster with
    | some c => if c.idleSince.isSome && !c.asking && decide (c.lastAsk + 1024 ≤ s.cycle) then s.ask cluster else s
    | none => s)

/-- STEAL_MESH_SWITCH: idle for 4,096 cycles, a cluster asks over the mesh (R44). -/
def execStealMeshSwitch (cluster : Nat) (s : State) : Host.Outcome State Fault Refusal :=
  .next (match s.idle cluster with
    | some c =>
      if !c.mesh && c.idleSince.any fun a => decide (a + 4096 ≤ s.cycle) then (s.modCluster cluster fun c => { c with mesh := true }).ask cluster
      else s
    | none => s)

/-! ## Stage pipelines (R200 to R203) -/

/-- The ring of a stage's input. -/
def State.inputRing (s : State) (launch : Nat) (t : Stage) : Option Ring :=
  t.input.bind fun q => (Map.get? t.qbind q).map fun o => s.ring launch o

/-- The stages of a launch that name a queue as an output (R203). -/
def producers (l : Launch) (obj : Nat) : List Stage := l.stages.filter fun t => t.outs.any fun i => Map.get? t.qbind i == some obj

/-- A condition under which a queue-fed stage places a cell: once it has held, the stage owes one (R202). -/
def State.oweCell (s : State) (id stage : Nat) (ready : Launch → Stage → Ring → Bool) : State :=
  match Map.get? s.launches id with
  | none => s
  | some l =>
    match l.stages[stage]? with
    | none => s
    | some t =>
      match s.inputRing id t with
      | none => s
      | some r => if !s.eligible l || t.closed || !ready l t r then s else s.modStage id stage fun t => { t with owes := true }

/-- A cell that a queue-fed stage owes is placed on the first quad that it fits and that no launch comes before it at (R41, R202). -/
def State.placeFed (s : State) (id stage : Nat) (ready : Launch → Stage → Ring → Bool) : State :=
  let s := s.oweCell id stage ready
  match (List.range 48).findSome? fun q => (s.takes q).bind fun o => if o.id = id && o.stage = stage then some (q, o) else none with
  | none => s
  | some (q, o) => s.place q o

/-- QUEUE_FED_PLACE (R202). -/
def execQueueFedPlace (launch stage : Nat) (s : State) : Host.Outcome State Fault Refusal :=
  .next (s.placeFed launch stage fun _ t r => decide (t.threshold ≤ r.done - r.head))

/-- QAGE_TIMEOUT (R202). -/
def execQageTimeout (launch stage : Nat) (s : State) : Host.Outcome State Fault Refusal :=
  .next (s.placeFed launch stage fun l t r =>
    decide (1 ≤ r.done - r.head) &&
      (((Map.get? r.times r.head).any fun c => decide (c + t.qage ≤ s.cycle)) || (producers l r.obj).all Stage.closed))

/-- A closed stage's output queues close where no producer remains (R203). -/
def State.closeOutputs (s : State) (id stage : Nat) : State :=
  match Map.get? s.launches id with
  | none => s
  | some l =>
    let t := s.stageRec id stage
    (t.outs.filterMap fun i => Map.get? t.qbind i).foldl (fun s o =>
      if (producers l o).all Stage.closed then s.setRing { s.ring id o with closed := true } else s) s

/-- STAGE_CLOSE: the stage has nothing left to run; with the last one the launch is OK (R203). -/
def execStageClose (launch stage : Nat) (s : State) : Host.Outcome State Fault Refusal :=
  .next (match Map.get? s.launches launch with
    | none => s
    | some l =>
      match l.stages[stage]? with
      | none => s
      | some t =>
        let finished := match s.inputRing launch t with
          | some r => r.closed && r.done == r.tail && decide (r.tail ≤ r.head) && (s.clustersOf launch stage).isEmpty
          | none => s.stageRun launch l stage t
        if !l.pipeline || t.closed || l.phase != .running || !finished then s
        else
          let s := (s.modStage launch stage fun t => { t with closed := true }).closeOutputs launch stage
          if ((Map.get? s.launches launch).any fun l => l.stages.all Stage.closed) then s.finishLaunch launch 3 else s)

/-- The stage with the greatest measure, the lowest number on a tie. -/
def greatest (g : Nat → Nat) : List Nat → Option Nat
  | [] => none
  | n :: ns =>
    match greatest g ns with
    | none => some n
    | some m => if g n ≥ g m then some n else some m

/-- One partition moved from one stage to another (R201). -/
def State.movePart (s : State) (launch from' to' : Nat) : State :=
  match (s.stageRec launch from').parts.getLast? with
  | none => s
  | some p =>
    (s.modStage launch from' fun t => { t with parts := t.parts.dropLast }).modStage launch to' fun t => { t with parts := t.parts ++ [p] }

/-- STAGE_EPOCH: at the end of an epoch at most one partition moves: from a closed stage, or from a blocked one to a pressed one
(R201, R203). -/
def execStageEpoch (launch : Nat) (s : State) : Host.Outcome State Fault Refusal :=
  .next (match Map.get? s.launches launch with
    | none => s
    | some l =>
      if !l.pipeline || s.cycle < l.epoch then s
      else
        let st (n : Nat) : Stage := (l.stages[n]?).getD {}
        let all := List.range l.stages.length
        let opened := all.filter fun n => !(st n).closed
        let held (n : Nat) : Nat := (s.inputRing launch (st n)).elim 0 fun r => r.tail - r.freed
        let pressed := opened.filter fun n => decide (2048 ≤ (st n).pressedFor)
        let blocked := opened.filter fun n => decide (2048 ≤ (st n).blockedFor ∧ 1 < (st n).parts.length)
        let receiver := (greatest held pressed).orElse fun _ => greatest (fun n => 4096 - (st n).parts.length) opened
        let closed := all.filter fun n => (st n).closed && !(st n).parts.isEmpty
        let s := match closed.head?, receiver with
          | some a, some b => s.movePart launch a b
          | none, _ =>
            match greatest (fun n => (st n).parts.length) blocked, greatest held pressed with
            | some a, some b => if a = b then s else s.movePart launch a b
            | _, _ => s
          | some _, none => s
        s.modLaunch launch fun l => { l with
          epoch := l.epoch + 4096, stages := l.stages.map fun t => { t with blockedFor := 0, pressedFor := 0 } })

/-- One cycle more of each pipeline's epoch (R201). -/
def State.countStages (s : State) : State :=
  { s with launches := Map.mapAll s.launches fun id l =>
      if !l.pipeline || !((s.ctx? l.ctx).any fun c => c.phase == .running) then l
      else { l with stages := l.stages.map fun t =>
        let full := t.outs.any fun i => (Map.get? t.qbind i).any fun o =>
          let r := s.ring id o
          r.slots != 0 && r.tail - r.freed == r.slots
        let pressed := (s.inputRing id t).any fun r => r.slots != 0 && decide (3 * r.slots ≤ 4 * (r.tail - r.freed))
        { t with blockedFor := t.blockedFor + (if full then 1 else 0), pressedFor := t.pressedFor + (if pressed then 1 else 0) } } }

end Sys2Proof.Machine
end

