-- ==== Sys2Proof/Machine/Records.lean ====
section
/-! DEFINITION. The thread record, as a context save and a dump write it and a restore reads it (spec/07_traps.md R155). -/
namespace Sys2Proof.Machine

/-! ## Writing (R155) -/

/-- The code of a register's state (R155). -/
def RState.code : RState → Nat
  | .full => 0 | .empty => 1 | .uninit => 2 | .trapEmpty => 3

/-- The 160 register states of a record, two bits each: v0 to v127, then w0 to w31 (R155). -/
def Thread.stateBits (t : Thread) : Nat :=
  (List.range 160).foldl (fun n i => n + (t.regState (i / 128) (i % 128)).code * 2 ^ (2 * i)) 0

/-- A replay entry as 64 bytes: the fields of R149 and ATTACHED (R155). -/
def Entry.bytes (e : Entry) (attached : Bool) : List Byte :=
  ((List.range 12).flatMap fun n => toBytes 4 (e.field n)) ++ toBytes 4 (if attached then 1 else 0) ++ toBytes 12 0

/-- TFPC, TFCAUSE, TFMASK, TFINFO and TFDST packed in that order, in 32 bytes (R155). -/
def frameBytes (tfpc cause mask info dst : Nat) : List Byte :=
  toBytes 8 tfpc ++ toBytes 4 cause ++ toBytes 4 mask ++ toBytes 8 info ++ toBytes 8 dst

/-- The frame of a thread as its record holds it (R155). -/
def Frame.bytes (f : Frame) : List Byte := frameBytes f.tfpc f.cause f.mask.toNat f.info.toNat f.dst.bits

/-- Bytes filled with zeros up to a multiple of n. -/
def padTo (n : Nat) (bs : List Byte) : List Byte := bs ++ List.replicate ((n - bs.length % n) % n) 0

/-- The word at 0x08 of a record (R155). -/
def Thread.recordPc (t : Thread) (pc : Nat) : Nat :=
  pc % 2 ^ 24 + (t.frame.map fun f => f.slot % 32 * 2 ^ 24 + 2 ^ 29).getD 0 + (if t.wait == .ready then 0 else 2 ^ 30) +
    (if t.bank then 2 ^ 31 else 0)

/-- A thread record, with the PC and the frame area it shall hold (R155). -/
def Thread.record (t : Thread) (pc : Nat) (frame : List Byte) (attached : Bool) : List Byte :=
  padTo 64 (toBytes 8 t.wid.toNat ++ toBytes 4 (t.recordPc pc) ++ toBytes 2 t.key.toNat ++
    toBytes 2 (t.ftActive.toNat + (t.frame.map fun f => f.hfloor % 8 * 16).getD 0) ++
    toBytes 8 t.link.toNat ++ toBytes 4 t.lpstat ++ toBytes 4 t.fpctl.toNat ++
    ((List.range 4).flatMap fun n => toBytes 8 (t.lp n)) ++ toBytes 8 t.awin.toNat ++ toBytes 4 t.utvec.toNat ++
    toBytes 2 (t.k.toNat / 2 * 2 + 1) ++ toBytes 2 t.visible.length ++ toBytes 48 t.stateBits ++ frame ++ toBytes 32 0 ++
    ((List.range t.vregs).flatMap fun n => toBytes 4 (t.vreg n).val.toNat) ++
    ((List.range t.wregs).flatMap fun n => (t.wreg n).words.flatMap fun w => toBytes 4 w.toNat) ++
    t.visible.flatMap fun e => e.bytes (attached && e.attached))

/-- The record's frame area: the thread's own frame, or zeros (R155). -/
def Thread.frameArea (t : Thread) : List Byte := (t.frame.map Frame.bytes).getD (toBytes 32 0)

/-- The length of a thread's record (R155). -/
def Thread.recordLength (t : Thread) : Nat := (192 + 4 * t.vregs + 16 * t.wregs + 64 * t.visible.length + 63) / 64 * 64

/-- Where a record holds a thread's entry k (R155). -/
def Thread.entryOffset (t : Thread) (k : Nat) : Nat := 192 + 4 * t.vregs + 16 * t.wregs + 64 * k

/-! ## Reading -/

/-- The state of a code. -/
def RState.ofCode (n : Nat) : RState := if n = 0 then .full else if n = 1 then .empty else if n = 2 then .uninit else .trapEmpty

/-- The state of an entry's code. -/
def EState.ofCode (n : Nat) : EState := if n = 0 then .held else if n = 1 then .flight else if n = 2 then .done else .fault

/-- The first words of an operand replaced, with their states kept. -/
def Opnd.refill (o : Opnd) (ws : List Word) : Opnd := (o.zip ws).map (fun x => (x.2, x.1.2)) ++ o.drop ws.length

/-- An entry as its record has it: its state, its class and its operands (R149, R155). -/
def Entry.ofBytes (e : Entry) (b : List Byte) : Entry :=
  let w (n : Nat) : Word := BitVec.ofNat 32 (fieldAt b (4 * n) 4)
  { e with
    state := EState.ofCode (fieldAt b 0 4 / 2 ^ 24 % 4), stopped := true, attached := fieldAt b 48 1 % 2 == 1
    cap := { a := Opnd.refill e.cap.a [w 4], b := Opnd.refill e.cap.b [w 5], c := Opnd.refill e.cap.c [w 6]
             d := Opnd.refill e.cap.d [w 8, w 9, w 10, w 11] } }

/-- The loop stack of a record (R94). -/
def loopsOf (b : List Byte) : List LoopEntry :=
  (List.range (min 4 (fieldAt b 0x18 4 % 8))).map fun n =>
    let v := fieldAt b (0x20 + 8 * n) 8
    { count := v / 2 ^ 32, start := v / 2 ^ 10 % 2 ^ 22, len := v % 2 ^ 10 }

/-- A pinned thread's frame as its record has it (R147, R155). -/
def Frame.ofBytes (f : Frame) (b : List Byte) : Frame :=
  { f with
    pc := fieldAt b 0x80 3, rpc := fieldAt b 0x84 3, stamp := fieldAt b 0x87 1 % 2 == 1, db := fieldAt b 0x87 1 / 2 % 2 == 1
    cause := fieldAt b 0x88 4, mask := BitVec.ofNat 32 (fieldAt b 0x8C 4), info := BitVec.ofNat 64 (fieldAt b 0x90 8)
    hfloor := fieldAt b 0x0E 2 / 16 % 8 }

/-- A saved thread with what its record holds (R155). -/
def Thread.ofRecord (t : Thread) (b : List Byte) : Thread :=
  let st (i : Nat) : RState := RState.ofCode (fieldAt b (0x50 + i / 4) 1 / 2 ^ (2 * (i % 4)) % 4)
  let word (off : Nat) : Word := BitVec.ofNat 32 (fieldAt b off 4)
  let loops := loopsOf b
  { t with
    pc := fieldAt b 8 3, next := if fieldAt b 8 3 = t.pc then t.next else none, bank := fieldAt b 11 1 / 128 == 1, key := BitVec.ofNat 16 (fieldAt b 0x0C 2)
    ftActive := BitVec.ofNat 4 (fieldAt b 0x0E 2), link := BitVec.ofNat 64 (fieldAt b 0x10 8), loops := loops
    floor := min (fieldAt b 0x18 4 / 8 % 8) loops.length, fpctl := BitVec.ofNat 32 (fieldAt b 0x1C 4)
    awin := BitVec.ofNat 64 (fieldAt b 0x40 8), utvec := BitVec.ofNat 32 (fieldAt b 0x48 4)
    k := BitVec.ofNat 16 (fieldAt b 0x4C 2 / 2 * 2), frame := t.frame.map fun f => f.ofBytes b
    v := (List.range t.vregs).map fun n => (n, ⟨word (0xC0 + 4 * n), st n⟩)
    w := (List.range t.wregs).map fun n =>
      let off := 0xC0 + 4 * t.vregs + 16 * n
      (n, ⟨word off, word (off + 4), word (off + 8), word (off + 12), st (128 + n)⟩)
    replay := t.replay.zipIdx.map fun e => e.1.ofBytes ((b.drop (t.entryOffset e.2)).take 64) }

end Sys2Proof.Machine
end

