-- ==== Sys2Proof/Machine/Riddle.lean ====
section
/-! DEFINITION. The riddle and the export of mobile threads (spec/10_stages_film.md R194 to R199). -/
namespace Sys2Proof.Machine

/-- A mobile thread that may move: nothing in its replay queue, nothing in its tq (R196). -/
def State.mayMove (s : State) (tid : Nat) (t : Thread) : Bool :=
  t.mobile && t.frame.isNone && t.wait == .ready && t.replay.isEmpty && !(s.ops.any fun o => o.2.tid == tid && o.2.queue == 5) &&
    match t.place with
    | .crucible _ => true
    | _ => false

/-- The threads that a partition's crucible holds for a key (R48). -/
def State.heldFor (s : State) (tile part : Nat) (k : CrucKey) : List (Nat × Thread) :=
  match (s.partition tile part).find k with
  | some n => s.inPlace tile part (.crucible n)
  | none => []

/-- Threads in the order of their waits, the oldest first, the lower WID first among equal waits (R50). -/
def byWait : List (Nat × Thread) → List (Nat × Thread)
  | [] => []
  | x :: xs =>
    let before (a b : Thread) : Bool := decide (a.since < b.since) || (a.since == b.since && decide (a.wid.toNat ≤ b.wid.toNat))
    let rec put : List (Nat × Thread) → List (Nat × Thread)
      | [] => [x]
      | y :: ys => if before x.2 y.2 then x :: y :: ys else y :: put ys
    put (byWait xs)

/-- A free slot of a partition for a thread; its own slot stays kept for it. -/
def State.slotFor (s : State) (t : Thread) (tile part : Nat) : Bool :=
  s.homeSlot t == some (tile, part) || decide (1 ≤ s.freeSlots tile part)

/-- A thread taken from its place to a partition of a tile, ready under its key, with the wait it had (R197, R198). A move is no
filing event, but the crucible is found as for one. -/
def State.settleAt (s : State) (tid tile part : Nat) (since : Nat) : State :=
  match s.thread? tid with
  | none => s
  | some t =>
    let s := s.unfile tid
    let pos := s.freePos tile part
    let s := s.modThread tid fun t => { t with tile := tile, part := part, pos := pos, going := none }
    (s.file tid t.pc t.key .ready).modThread tid fun t => { t with since := since }

/-- The partition of a tile that holds the most threads of a key, the lowest number on a tie (R197). -/
def State.riddleTarget (s : State) (tile : Nat) (k : CrucKey) : Option Nat :=
  (mostFree ((List.range 4).map fun p => (p, (s.heldFor tile p k).length))).map Prod.fst

/-- Threads moved by the riddle, one after another, until the target's crucible has 32 ready threads or its partition no free slot for the
next (R197); the region of each ends at SYSTEM scope (R328). -/
def State.riddleMoves (s : State) (tile target : Nat) (k : CrucKey) : List (Nat × Thread) → State
  | [] => s
  | x :: xs =>
    if ((s.heldFor tile target k).filter fun y => y.2.wait == .ready).length ≥ 32 || !s.slotFor x.2 tile target then s
    else State.riddleMoves ((s.regionEnd x.1 (some 5)).settleAt x.1 tile target x.2.since) tile target k xs

/-- RIDDLE_MOVE: the eligible threads of a key gathered on one partition of a tile (R197); nothing moves into or out of one that is stopped
(R399). -/
def execRiddleMove (tile ctx pc key : Nat) (s : State) : Host.Outcome State Fault Refusal :=
  .next (
    let k : CrucKey := ⟨ctx, pc, BitVec.ofNat 16 key⟩
    match s.riddleTarget tile k with
    | none => s
    | some target =>
      let movers := ((List.range 4).filter fun p => p != target && !s.isStopped tile p).flatMap fun p =>
        byWait ((s.heldFor tile p k).filter fun x => s.mayMove x.1 x.2)
      if s.isStopped tile target then s else s.riddleMoves tile target k movers)

/-- AGE of a thread's launch (R35). -/
def State.ageOf (s : State) (t : Thread) : Nat := ((Map.get? s.launches t.launch).map Launch.age).getD 2048

/-- How many ready threads a partition holds of a key. -/
def State.readyFor (s : State) (tile part : Nat) (k : CrucKey) : Nat :=
  ((s.heldFor tile part k).filter fun x => x.2.wait == .ready).length

/-- The other tiles of a tile's quad, in the order of its ring from the tile on (R198). -/
def ringFrom (tile : Nat) : List Nat := (List.range 3).map fun i => tile / 4 * 4 + (tile + 1 + i) % 4

/-- Where a thread of a key is exported to: the crucible with the most ready threads on another tile of the quad, the first on the
ring on a tie (R198). -/
def State.exportTo (s : State) (tile : Nat) (k : CrucKey) : Option (Nat × Nat × Nat) :=
  let sites := (ringFrom tile).flatMap fun t => (List.range 4).filterMap fun p =>
    if (s.heldFor t p k).isEmpty then none else some (t, p, s.readyFor t p k)
  sites.foldl (fun best x => match best with
    | none => some x
    | some b => if b.2.2 < x.2.2 then some x else some b) none

/-- THREAD_EXPORT: after a whole AGE window below 16 ready threads, a mobile thread leaves for a fuller crucible of its quad
(R198). -/
def execThreadExport (tid : Nat) (s : State) : Host.Outcome State Fault Refusal :=
  .next (match s.thread? tid with
    | none => s
    | some t =>
      match t.place with
      | .crucible n =>
        let q := s.partition t.tile t.part
        match Map.get? q.crucibles n with
        | none => s
        | some k =>
          if !s.mayMove tid t || s.isStopped t.tile t.part || t.exported || decide (Map.getD q.low n 0 < s.ageOf t) || decide (192 ≤ t.tile) then s
          else
            match s.exportTo t.tile k with
            | none => s
            | some (tile, part, ready) =>
              if decide (ready ≤ s.readyFor t.tile t.part k) || !s.slotFor t tile part then s
              else
                let s := (s.regionEnd tid (some 5)).unfile tid
                s.modThread tid fun t => { t with
                  going := some (tile, part), exported := true, since := s.cycle - t.since }
      | _ => s)

/-- THREAD_ARRIVAL: an exported thread is ready in the destination's crucible, with the wait it had (R198); it waits while the
destination is stopped (R399). -/
def execThreadArrival (tid : Nat) (s : State) : Host.Outcome State Fault Refusal :=
  .next (match s.thread? tid with
    | some t =>
      match t.going with
      | some (tile, part) => if s.isStopped tile part then s else s.settleAt tid tile part (s.cycle - t.since)
      | none => s
    | none => s)

/-- One cycle more for the crucibles that hold fewer than 16 ready threads, in a partition that is not stopped (R49, R198). -/
def State.countLow (s : State) (tile part : Nat) : State :=
  let q := s.partition tile part
  if (q.crucibles.isEmpty && q.low.isEmpty) || s.isStopped tile part then s
  else
    let few (n : Nat) : Bool := decide (((s.inPlace tile part (.crucible n)).filter fun x => x.2.wait == .ready).length < 16)
    let low := (q.crucibles.filter fun c => few c.1).map fun c => (c.1, Map.getD q.low c.1 0 + 1)
    s.setPartition tile part { q with low := low }

end Sys2Proof.Machine
end

