-- ==== Sys2Proof/Machine/Contexts.lean ====
section
/-! DEFINITION. Contexts as the driver and the launcher handle them: creation, CTXSAVE and CTXLOAD with what follows them, and
killing (spec/04_encoding.md R73, spec/07_traps.md R153 to R158, spec/19_fabric_host.md R375). -/
namespace Sys2Proof.Machine

/-! ## Creation (R73, R142) -/

/-- CONTEXT_CREATE: the driver fills a free slot; die banks, function tables and selected banks are all-zero (R73, R135). A device in
recovery creates no context (R415). -/
def execContextCreate (ctx : Nat) (setup : ContextSetup) (s : State) : Host.Outcome State Fault Refusal :=
  .next (
    let c : Context :=
      { privileged := setup.privileged, textBase := setup.textBase.toNat
        window := BitVec.ofNat 64 (bitsKept setup.window.toNat 51 32), ptbase := BitVec.ofNat 64 (bitsKept setup.ptbase.toNat 51 16)
        otbase := BitVec.ofNat 64 (bitsKept setup.otbase.toNat 51 6), otcount := BitVec.ofNat 32 (setup.otcount.toNat % 2 ^ 17) }
    if 16 ≤ ctx || (s.ctx? ctx).isSome || s.boot.phase == .recovery then s else { s with ctxs := Map.set s.ctxs ctx c })

/-! ## The pages of a save area -/

/-- Pieces of memory, each an address and a length, that together hold consecutive bytes. -/
abbrev Pages := List (Nat × Nat)

/-- One 64 KiB page's part of an area, in HBM or a slice of this package. -/
def Lane.areaPiece (l : Lane) (a n : Nat) (kind : AccKind) : Work (Nat × Nat) := fun s =>
  match s.reach l.th (a + n - 1) 1 kind with
  | (.trap c info, _) => .error (.trap c info)
  | (.fault f, _) => .error (.parked f)
  | (.ok _ _, s) =>
    match s.reach l.th a 1 kind with
    | (.ok pa _, s) => if shared (s.localPa pa) n then .ok ((s.localPa pa, n), s) else .error (.trap .bounds 0xFFFF)
    | (.trap c info, _) => .error (.trap c info)
    | (.fault f, _) => .error (.parked f)

/-- The pieces of the n bytes at a window offset (R153). -/
def Lane.areaPages (l : Lane) (off n : Nat) (kind : AccKind) : Work Pages := do
  Work.within (decide (off + n ≤ 2 ^ 32)) 0xFFFF
  let first := off / 65536
  (List.range ((off + n + 65535) / 65536 - first)).mapM fun i =>
    let lo := max off ((first + i) * 65536)
    l.areaPiece lo (min (off + n) ((first + i + 1) * 65536) - lo) kind

/-- Where a byte of pieces lies. -/
def Pages.at? : Pages → Nat → Option Nat
  | [], _ => none
  | (pa, n) :: ps, off => if off < n then some (pa + off) else Pages.at? ps (off - n)

/-- The bytes of pieces from an offset. -/
def State.pageBytes (s : State) (ps : Pages) (off n : Nat) : List Byte :=
  (List.range n).map fun i => ((ps.at? (off + i)).map s.byte).getD 0

/-- Bytes written into pieces from their start, their tags reset (R329). -/
def State.writePages (s : State) (tid : Nat) : Pages → List Byte → State
  | [], _ => s
  | (pa, n) :: ps, bs =>
    State.writePages ((s.perform tid (bytesAt pa (bs.take n))).resetTags pa n) tid ps (bs.drop n)

/-- Bytes written at an offset of pieces. -/
def State.patchPages (s : State) (ps : Pages) (off : Nat) (bs : List Byte) : State :=
  bs.zipIdx.foldl (fun s b => match ps.at? (off + b.2) with
    | some pa => (s.perform 0 [(pa, b.1)]).resetTags pa 1
    | none => s) s

/-! ## CTXSAVE (R153 to R156) -/

/-- Threads by launch in the order enqueued, then by WID (R388). -/
def recordsOrder : List (Nat × Thread) → List (Nat × Thread)
  | [] => []
  | x :: xs =>
    let key (t : Thread) : Nat := t.launch * 2 ^ 64 + t.wid.toNat
    let rec put : List (Nat × Thread) → List (Nat × Thread)
      | [] => [x]
      | y :: ys => if key x.2 ≤ key y.2 then x :: y :: ys else y :: put ys
    put (recordsOrder xs)

/-- The threads of a context, in the order of their records; one that has executed EXIT has none. -/
def State.recorded (s : State) (ctx : Nat) : List (Nat × Thread) :=
  recordsOrder (s.threads.filter fun x => x.2.ctx == ctx && !x.2.ended)

/-- Threads of a context in transit between tiles finish their move (R199). -/
def State.settleTransit (s : State) (ctx : Nat) : State :=
  s.threads.foldl (fun s x => if x.2.ctx = ctx && x.2.going.isSome then nextOr s (execThreadArrival x.1 s) else s) s

/-- The issuing group, where it belongs to a context that is killed, stands after what it has issued, and its chain ends. -/
def State.closeIssue (s : State) (ctx : Nat) : State :=
  match s.issue with
  | none => s
  | some iss =>
    if iss.ctx ≠ ctx then s
    else
      let s := iss.slots.foldl (fun s x => s.modThread x.2 fun t =>
        let r := match iss.todo with
          | i :: _ => (t, i.pc)
          | [] => t.leavePacket (iss.rpc - 1) iss.rpc
        { r.1 with pc := r.2 % 2 ^ 24 }) s
      { s with issue := none }

/-- A LAUNCH that has left takes its place in the queue, its code the reply that is still to come. -/
def State.settleLaunch (s : State) (tid : Nat) (t : Thread) (e : Entry) : State :=
  let ctx := if s.privileged t.ctx then Opnd.word e.cap.a 1 % 16 else t.ctx
  match enqueueRecord t.tile ctx (Opnd.word e.cap.a 0) s with
  | .ok (code, s) => s.modThread tid fun t => t.modEntry e.id fun e => { e with reply := some [BitVec.ofNat 32 code] }
  | .error (.parked f) => s.modThread tid fun t => t.modEntry e.id fun e => { e with state := .fault, fault := some f }
  | .error _ => s.modThread tid fun t => t.modEntry e.id fun e => { e with reply := some [1] }

/-- What has left a context's queues performs, and what is left is its reply; a QPOP whose record has committed is answered (R156). -/
def State.settleEntry (s : State) (tid : Nat) (e : Entry) : State :=
  if e.state ≠ .flight then s
  else
    match e.instr, s.thread? tid with
    | .launch _, some t => if e.reply.isNone then s.settleLaunch tid t e else s
    | .qpop _, _ => nextOr s (execQpopReply tid e.id s)
    | _, _ => if e.atomicFlight then nextOr s (execAtomicPerform tid e.id s) else s

/-- Every FLIGHT entry of a context settled, again and again so that pops follow one another in the order of their positions. -/
def State.settleFlight (s : State) (ctx : Nat) : Nat → State
  | 0 => s
  | n + 1 =>
    State.settleFlight ((s.threads.filter fun x => x.2.ctx == ctx).foldl (fun s x =>
      x.2.replay.foldl (fun s e => s.settleEntry x.1 e) s) s) ctx n

/-- A context stopped for its save: moves are finished, what has left has performed, lines drain and every region ends at SYSTEM scope
(R153, R156, R199, R314, R328). -/
def State.quiesce (s : State) (ctx : Nat) : State :=
  let s := s.settleTransit ctx
  let s := s.settleFlight ctx (1 + (s.threads.filter fun x => x.2.ctx == ctx).length)
  (s.threads.filter fun x => x.2.ctx == ctx).foldl (fun s x => s.regionEnd x.1 (some 5)) s

/-- Whether a FLIGHT entry's reply comes from what the save holds (R156). -/
def State.isAttached (s : State) (e : Entry) : Bool :=
  e.state == .flight && ((e.op.any fun id => (Map.get? s.ops id).isSome) || (e.instr matches .qpop _))

/-- The number that stands for a context that is out, in what outlives it here. -/
def outName (token : Nat) : Nat := 16 + token

/-- A table's values put into another, each changed. -/
def installed {α : Type} (g : α → α) (m add : Map α) : Map α := add.foldl (fun m x => Map.set m x.1 (g x.2)) m

/-- What the opaque sections hold of a context, whose number in them is `out` (R154). -/
def State.imageOf (s : State) (ctx out : Nat) (c : Context) (keep : Bool) : Image :=
  let launches := s.launches.filter fun x => x.2.ctx == ctx
  let mine (l : Nat) : Bool := (Map.get? launches l).isSome
  let threads := (s.threads.filter fun x => x.2.ctx == ctx).map fun x =>
    (x.1, { x.2 with replay := x.2.visible.map fun e => { e with attached := s.isAttached e } })
  { ctx := ctx, context := { c with phase := if c.phase == .stopped then .running else c.phase }
    launches := launches, clusters := s.clusters.filter fun x => mine x.2.launch
    cells := (s.cells.filter fun x => x.2.ctx == ctx).map fun x => (x.1, { x.2 with ctx := out })
    threads := threads, pins := s.pins.filter fun x => x.2.ctx == ctx, rings := s.rings.filter fun r => mine r.launch
    ops := s.ops.filter fun x => x.2.ctx == ctx
    anvils := s.tiles.filterMap fun x => if x.2.anvil.owner = some ctx then some (x.1, x.2.anvil) else none
    order := (s.recorded ctx).map Prod.fst, keep := keep
    reinject := s.reinject.filter fun r => (Map.get? threads r.tid).isSome, cycle := s.cycle }

/-- A context's number replaced in what outlives it: windows, which try again where a fault had parked them, retries, deferrals and
fault records. -/
def State.renameCtx (s : State) (old new : Nat) : State :=
  let ren (c : Nat) : Nat := if c = old then new else c
  { s with
    faults := s.faults.map fun r => (r.1, ren r.2.1, r.2.2)
    tiles := Map.mapAll s.tiles fun _ t => { t with deferrals := t.deferrals.map fun d => { d with ctx := ren d.ctx } }
    fabric := { s.fabric with
      opens := Map.mapAll s.fabric.opens fun _ o => if o.ctx = old then { o with ctx := new, fault := none } else o
      retry := Map.mapAll s.fabric.retry fun _ r => { r with ctx := ren r.ctx } } }

/-- A context taken off the device: its threads, cells and work are gone from it, its tiles and Anvils free, and nothing of it is
cached (R153, R250). -/
def State.dropContext (s : State) (ctx : Nat) : State :=
  let launches := (s.launches.filter fun x => x.2.ctx == ctx).map Prod.fst
  let s := (s.threads.filter fun x => x.2.ctx == ctx).foldl (fun s x => s.removeThread x.1) s
  let s := { s with
    cells := s.cells.filter fun x => x.2.ctx != ctx
    clusters := s.clusters.filter fun x => !launches.contains x.2.launch
    launches := s.launches.filter fun x => x.2.ctx != ctx
    rings := s.rings.filter fun r => !launches.contains r.launch
    ops := s.ops.filter fun x => x.2.ctx != ctx
    pins := s.pins.filter fun x => x.2.ctx != ctx
    reinject := s.reinject.filter fun r => (Map.get? s.threads r.tid).isSome
    debug := Map.mapAll s.debug fun _ b => if (b.held.map Issue.ctx) == some ctx then { b with held := none } else b
    ctxs := Map.del s.ctxs ctx }
  let s := (s.dropCached ctx none).tlbinv 1 0 ctx
  (s.tiles.map Prod.fst).foldl (fun s n => if (s.tile n).anvil.owner = some ctx then s.freeAnvil n else s) s

/-- A 64-byte opaque section: the token that names the image. -/
def tokenSection (token : Nat) : List Byte := padTo 64 (toBytes 8 token)

/-- The raw image of a tile's accumulators (R154, R227). -/
def accumBytes (a : Anvil) : List Byte :=
  (List.range 8).flatMap fun m => (List.range 16384).flatMap fun e =>
    toBytes 8 (Map.getD (Map.getD a.accs m []) e 0).toNat

/-- The sections of a save area, by kind (R154). -/
def State.saveSections (s : State) (x : Image) (token : Nat) : List (Nat × List Byte) :=
  let threads := x.order.flatMap fun tid => ((Map.get? x.threads tid).map fun t => t.record t.pc t.frameArea true).getD []
  let slices := x.cells.flatMap fun c => s.bytes c.2.slice c.2.sliceLen
  [(1, tokenSection token), (2, tokenSection token), (3, threads), (4, x.anvils.flatMap fun a => accumBytes a.2)] ++
    (if x.keep then [] else [(5, slices)]) ++ [(6, tokenSection token)]

/-- Sections with their offsets, each a multiple of 64, from a first offset. -/
def sectionsFrom : Nat → List (Nat × List Byte) → List (Nat × Nat × List Byte)
  | _, [] => []
  | off, (kind, bs) :: more => (kind, off, bs) :: sectionsFrom ((off + bs.length + 63) / 64 * 64) more

/-- Where the first section starts. -/
def firstSection (n : Nat) : Nat := (0x40 + 16 * n + 63) / 64 * 64

/-- The bytes of a save area (R154). -/
def areaBytes (keep : Bool) (sections : List (Nat × List Byte)) : List Byte :=
  let placed := sectionsFrom (firstSection sections.length) sections
  let size := placed.foldl (fun _ x => x.2.1 + x.2.2.length) 0
  let dir := placed.flatMap fun x => toBytes 2 x.1 ++ toBytes 2 0 ++ toBytes 4 x.2.2.length ++ toBytes 8 x.2.1
  padTo 64 (toBytes 4 0x32535843 ++ toBytes 2 2 ++ toBytes 2 sections.length ++ toBytes 8 size ++ toBytes 4 (if keep then 1 else 0) ++
    toBytes 44 0 ++ dir) ++ (placed.flatMap fun x => padTo 64 x.2.2)

/-- The fields of CTXSAVE's and CTXLOAD's register (R153). -/
def ctxLegal (v : Nat) : Bool := v / 32 % 2 ^ 27 == 0

/-- The pages that a save of a context as it stands would write, all of them reached (R153). -/
def savePages (l : Lane) (ctx off : Nat) (keep : Bool) : Work Unit := fun s =>
  match s.ctx? ctx with
  | none => .ok ((), s)
  | some c =>
    let n := (areaBytes keep (s.saveSections (s.imageOf ctx (outName s.nextId) c keep) s.nextId)).length
    ((l.areaPages off n .write).map fun _ => ()) s

/-- The save itself, of a context that has stopped: the area written, the context off the device (R153). -/
def saveContext (l : Lane) (ctx off : Nat) (keep : Bool) : Work Unit := do
  modify fun s => s.quiesce ctx
  let s ← get
  match s.ctx? ctx with
  | none => pure ()
  | some c =>
    let token := s.nextId
    let x := s.imageOf ctx (outName token) c keep
    let bs := areaBytes keep (s.saveSections x token)
    let pages ← l.areaPages off bs.length .write
    let sections := sectionsFrom (firstSection (if keep then 5 else 6)) (s.saveSections x token)
    let at3 := (sections.find? fun (y : Nat × Nat × List Byte) => y.1 == 3).map fun y => y.2.1
    modify fun s =>
      let s := { s with nextId := token + 1 }.writePages l.tid pages bs
      let s := { s with images := Map.set s.images token { x with pages := pages, records := at3.getD 0 } }
      (s.dropContext ctx).renameCtx ctx (outName token)

/-- CTXSAVE in one thread, a fence at SYSTEM scope: nothing happens to a context that is not resident, one that is being dumped is waited
for, and the thread's own is saved once its chain has issued, with any trap taken (R153, R339, R393). -/
def ctxsaveWork (l : Lane) : Work Unit := do
  Work.legal (ctxLegal l.a)
  let off := Opnd.word l.cap.a 1
  let s ← get
  match s.ctx? (l.a % 16) with
  | none => pure ()
  | some c =>
    if c.phase == .halting then modify fun s => s.leaveAs l.tid (.again .earlier)
    else do
      Work.need (off % 64 == 0) (.trap .align (l.th.vaOf off))
      modify fun s => s.fence l.tid 5
      let keep := l.a / 16 % 2 == 1
      if l.a % 16 = l.th.ctx then
        savePages l (l.a % 16) off keep
        modify fun s => { s with deferred := s.deferred ++ [.save l.tid l.th.ctx off keep] }
      else saveContext l (l.a % 16) off keep

/-- A context that has saved itself: its chain has issued, and the save is made; where the area can no longer be written the context stays
stopped, and one that the chain's trap has halted is not saved (R153, R393). -/
def State.saveDeferred (s : State) (tid ctx off : Nat) (keep : Bool) : State :=
  match s.thread? tid with
  | none => s
  | some t =>
    if (s.ctx? ctx).any fun c => c.phase == .halting then s
    else match (saveContext { tid := tid, slot := 0, th := t, cap := {}, mode := RMode.ofCode 0, et := 0 } ctx off keep) s with
    | .ok (_, s) => s
    | .error _ => s

/-- The contexts that a CTXSAVE names stop; they stay stopped where the area cannot be written (R153). -/
def State.stopNamed (s : State) (iss : Issue) (i : Instr) : State :=
  ((iss.lanes s i 0).filter fun x => x.2 && (emptyCause (staticSources i) x.1.cap).isNone && ctxLegal x.1.a &&
      Opnd.word x.1.cap.a 1 % 64 == 0).foldl (fun s x => s.modCtx (x.1.a % 16) fun c =>
    { c with phase := if c.phase == .running then .stopped else c.phase }) s

/-- CTXSAVE (R112, R153). -/
def execCtxsave (f : CtxRegForm) (s : State) : Host.Outcome State Fault Refusal :=
  .next (s.issued (.ctxsave f) fun iss => (s.stopNamed iss (.ctxsave f)).eachLane (.ctxsave f) fun _ _ l => ctxsaveWork l)

/-! ## Replies after a save (R156) -/

/-- The effect of an entry's reply on the image of its context: the words for its destination, and the context's banks. -/
def State.detachedReply (s : State) (x : Image) (e : Entry) : Option (List Word × Context × State) :=
  match e.instr with
  | .dield f =>
    let ws := e.reply.getD []
    let pages := (List.range (ws.length / 2)).map fun k => wordsNum ((ws.drop (2 * k)).take 2)
    let r := s.dieBytes 0 (dieParts pages)
    some ([], { x.context with dies := (dieEntries r.1 1024).zipIdx.foldl (fun m d => setDie m (f.k.toNat * 1024 + d.2) d.1) x.context.dies }, r.2)
  | .ftabld f =>
    let k := f.t.toNat * 2 + f.k.toNat
    some ([], { x.context with
      ftabs := Map.set x.context.ftabs k ((Map.getD x.context.ftabs k {}).over (FtBank.ofWords (e.reply.getD []))) }, s)
  | _ => e.reply.map fun ws => (ws, x.context, s)

/-- One word of a record's registers written, and the register's state set to full (R156). -/
def State.fillRecord (s : State) (ps : Pages) (rec' : Nat) (t : Thread) (d : Dest) (ws : List Word) : State :=
  let base := if d.cls = 0 then 0xC0 + 4 * d.num else 0xC0 + 4 * t.vregs + 16 * d.num
  if d.cls ≥ 2 then s
  else
    let s := s.patchPages ps (rec' + base) (ws.flatMap fun w => toBytes 4 w.toNat)
    (List.range d.count).foldl (fun s i =>
      let n := d.cls * 128 + d.num + i
      let old := ofBytes (s.pageBytes ps (rec' + 0x50 + n / 4) 1)
      let new := old - old / 2 ^ (2 * (n % 4)) % 4 * 2 ^ (2 * (n % 4))
      s.patchPages ps (rec' + 0x50 + n / 4) [BitVec.ofNat 8 new]) s

/-- The offset of a thread's record within the THREAD section. -/
def Image.recordAt (x : Image) (tid : Nat) : Option Nat :=
  let before := x.order.takeWhile (· != tid)
  if before.length = x.order.length then none
  else some (before.foldl (fun n t => n + ((Map.get? x.threads t).map Thread.recordLength).getD 0) 0)

/-- DETACHED_REPLY_AFTER_SAVE: the result goes into the saved record's registers, and the entry becomes DONE (R156). -/
def execDetachedReplyAfterSave (ctx tid entry : Nat) (s : State) : Host.Outcome State Fault Refusal :=
  .next (match s.images.find? fun x => x.2.ctx == ctx && (Map.get? x.2.threads tid).isSome with
    | none => s
    | some (token, x) =>
      match Map.get? x.threads tid, (Map.get? x.threads tid).bind fun t => t.entry? entry with
      | some t, some e =>
        if e.state ≠ .flight || e.attached then s
        else
          match s.detachedReply x e with
          | none => s
          | some (ws, c, s) =>
            let t' := (t.writeDest e.dst ws .full).modEntry entry fun e => { e with state := .done }
            let s := { s with images := Map.set s.images token { x with context := c, threads := Map.set x.threads tid t' } }
            match x.recordAt tid with
            | none => s
            | some off =>
              let s := s.fillRecord x.pages (x.records + off) t e.dst ws
              let info := x.records + off + t.entryOffset ((t.replay.findIdx? fun y => y.id == entry).getD 0) + 3
              let old := ofBytes (s.pageBytes x.pages info 1)
              s.patchPages x.pages info [BitVec.ofNat 8 (old / 4 * 4 + 2)]
      | _, _ => s)

/-! ## CTXLOAD (R153, R154) -/

/-- The first header or directory field that R154 does not allow, by its offset. -/
def headerFault (h : List Byte) : Option Nat :=
  let n := fieldAt h 6 2
  let entry (i : Nat) : Option Nat :=
    let at' := 0x40 + 16 * i
    if fieldAt h at' 2 = 0 ∨ 6 < fieldAt h at' 2 then some at'
    else if fieldAt h (at' + 2) 2 ≠ 0 then some (at' + 2)
    else if fieldAt h 8 8 < fieldAt h (at' + 8) 8 + fieldAt h (at' + 4) 4 then some (at' + 4)
    else if fieldAt h (at' + 8) 8 % 64 ≠ 0 then some (at' + 8)
    else none
  if fieldAt h 0 4 ≠ 0x32535843 then some 0
  else if fieldAt h 4 2 ≠ 2 then some 4
  else if n = 0 ∨ 16 < n then some 6
  else if fieldAt h 8 8 < 0x40 + 16 * n then some 8
  else if fieldAt h 0x10 4 / 2 ≠ 0 then some 0x10
  else if fieldAt h 0x14 44 ≠ 0 then some 0x14
  else (List.range n).findSome? entry

/-- The offset of a section of a kind by an area's directory. -/
def sectionAt (h : List Byte) (kind : Nat) : Option Nat :=
  ((List.range (fieldAt h 6 2)).find? fun i => fieldAt h (0x40 + 16 * i) 2 == kind).map fun i => fieldAt h (0x48 + 16 * i) 8

/-- CTXLOAD in one thread: the header is checked, and the thread waits for the restore (R153). -/
def ctxloadWork (l : Lane) : Work Unit := do
  Work.legal (ctxLegal l.a)
  let off := Opnd.word l.cap.a 1
  Work.need (off % 64 == 0) (.trap .align (l.th.vaOf off))
  let hp ← l.areaPages off 64 .read
  let s ← get
  let h := s.pageBytes hp 0 64
  let dp ← l.areaPages off (if fieldAt h 6 2 ≤ 16 then 64 + 16 * fieldAt h 6 2 else 64) .read
  let s ← get
  let h := s.pageBytes dp 0 (64 + 16 * fieldAt h 6 2)
  match headerFault h with
  | some n => Work.stop (.trap .bounds n)
  | none =>
    let pages ← l.areaPages off (fieldAt h 8 8) .read
    let s ← get
    let token := ((sectionAt h 1).map fun o => ofBytes (s.pageBytes pages o 8)).getD 0
    match Map.get? s.images token with
    | none => Work.stop (.trap .bounds 0x40)
    | some x =>
      Work.within x.loading.isNone 0x40
      modify fun s =>
        { s with images := Map.set s.images token { x with loading := some { slot := l.a % 16, tid := l.tid, pages := pages } } }.modThread
          l.tid fun t => t.block (.ctxload token)

/-- CTXLOAD (R112, R153). -/
def execCtxload (f : CtxRegForm) (s : State) : Host.Outcome State Fault Refusal :=
  .next (s.eachLane (.ctxload f) fun _ _ l => ctxloadWork l)

/-! ## The restore (R153 to R157) -/

/-- The records of an area, by thread. -/
def Image.readRecords (x : Image) (s : State) (ps : Pages) (off : Nat) : Map (List Byte) :=
  x.order.foldl (fun m tid =>
    match x.recordAt tid, Map.get? x.threads tid with
    | some at', some t => Map.set m tid (s.pageBytes ps (off + at') t.recordLength)
    | _, _ => m) []

/-- A saved thread with what its record now holds. -/
def Image.threadNow (records : Map (List Byte)) (tid : Nat) (t : Thread) : Thread :=
  match Map.get? records tid with
  | some b => t.ofRecord b
  | none => t

/-- No thread record holds a detached FLIGHT entry (R153). -/
def Image.answered (x : Image) (records : Map (List Byte)) : Bool :=
  x.threads.all fun y => y.2.ended || (Image.threadNow records y.1 y.2).replay.all fun e => e.state != .flight || e.attached

/-- The cells of an image placed on the tiles that saved them, where there is room for all (R153). -/
def State.placeSaved (s : State) (x : Image) (slot : Nat) : Option State :=
  x.cells.foldl (fun s? y => s?.bind fun s =>
    let c := y.2
    let t := s.stageRec c.launch c.stage
    let base := if x.keep || c.sliceLen == 0 then some c.slice else s.sliceRoom c.tile c.sliceLen
    match base, planBlocks (blockSizes (t.ext 0)) ((List.range 4).map fun p => (p, s.freeSlots c.tile p)) with
    | some base, some blocks =>
      if s.inService c.tile && s.countsFit c.launch c.stage t c.tile then
        some { s with cells := Map.set s.cells y.1 { c with ctx := slot, slice := base, blocks := blocks } }
      else none
    | _, _ => none) (some s)

/-- An address in a saved allocation, as the allocation lies now. -/
def relocated (old new : Map Cell) (pa : Nat) : Nat :=
  match old.find? fun c => decide (c.2.slice ≤ pa ∧ pa < c.2.slice + c.2.sliceLen) with
  | some (id, c) => ((Map.get? new id).map Cell.slice).getD c.slice + (pa - c.slice)
  | none => pa

/-- What an entry holds of addresses, moved with its allocation. -/
def Entry.relocate (move : Nat → Nat) (e : Entry) : Entry :=
  match e.instr, e.reply with
  | .qpop _, some ws =>
    let v := wordsNum ws
    { e with reply := some (numWords (v % 2 ^ 64 + move (v / 2 ^ 64 % 2 ^ 64) * 2 ^ 64 + v / 2 ^ 128 * 2 ^ 128) 5) }
  | .dield _, some ws =>
    { e with reply := some ((List.range (ws.length / 2)).flatMap fun k => numWords (move (wordsNum ((ws.drop (2 * k)).take 2))) 2) }
  | _, _ => e

/-- What wakes at a resume: WAITV, and a wait on an asynchronous barrier (R54, R296). -/
def Wake.wakesAtResume : Wake → Bool
  | .granule _ | .abar _ | .anvil => true
  | _ => false

/-- The tile and partition on which a saved thread resumes: its home tile, and its block's partition or, pinned, that of its group's
first member (R199). -/
def State.resumeSite (s : State) (x : Image) (t : Thread) : Nat × Nat :=
  let own := (s.homeSlot t).getD (0, 0)
  match t.frame.bind fun f => Map.get? x.pins f.group with
  | some p => ((p.members.head?.bind fun m => Map.get? x.threads m.2).bind s.homeSlot).getD own
  | none => own

/-- One thread of an image resumes (R153, R199, R306). -/
def State.resumeThread (s : State) (x : Image) (move : Nat → Nat) (slot tid : Nat) (t : Thread) : State :=
  let site := s.resumeSite x t
  let key := if t.place == .spill then t.asked else t.key
  let t := if t.wait.wakesAtResume then t.unblock s.cycle else t
  let t := { t with
    ctx := slot, tile := site.1, part := site.2, pos := s.freePos site.1 site.2, place := .nowhere, latcnt := 0, mobile := false
    exported := false, going := none
    arriving := t.arriving.map fun a => { a with pa := move a.pa }
    replay := (t.replay.filter fun e => t.frozen || e.state != .done).map fun e => e.relocate move }
  let s := { s with threads := Map.set s.threads tid t }
  if t.ended then s else (s.fileAt tid t.pc (t.next.getD t.pc) key t.wait).fileNext tid

/-- The parts of a weight slot's recorded loads (R250). -/
def sourceParts : Nat → List Word → List (List Word)
  | 0, _ => []
  | n + 1, ws => if ws.isEmpty then [] else ws.take 21 :: sourceParts n (ws.drop 21)

/-- One recorded load of a weight slot made again (R250). -/
def refillPart (op : Op) (n : Nat) (w : List Word) : Work Unit := do
  let num (k : Nat) : Nat := ((w[k]?).map BitVec.toNat).getD 0
  let obj : Obj := (num 1, w.drop 5)
  if num 0 = 1 then
    let cols := num 3 % 256
    let data ← op.weightData obj (num 3 / 256 == 1) cols
    modify fun s => s.setWeightSlot op.tile n { s.weightSlot op.tile n with data := data, rows := 128, cols := cols, sel := 0, tables := [] }
  else
    let bs ← op.readElemBytes obj (num 4) 16 (num 4 * 8 / obj.bits)
    modify fun s =>
      let k := s.weightSlot op.tile n
      s.setWeightSlot op.tile n { k with
        tables := Map.set k.tables (num 3 % 256) (tableWords (ofBytes bs)), sel := if num 3 / 256 = 1 then num 3 % 256 / 128 else k.sel }

/-- Work of a restore: a page fault parks the restore, and any other fault is the restored context's (R246, R250). -/
def refill (op : Op) (w : Work Unit) : Work Unit := fun s =>
  match w s with
  | .ok r => .ok r
  | .error (.parked f) => .error (.parked f)
  | .error _ => .ok ((), s.opWork 0 op w)

/-- The Anvil of a tile claimed again, its accumulators from the area, its slots from their sources (R250). -/
def resumeAnvil (slot tile : Nat) (a : Anvil) (acc : List Byte) : Work Unit := do
  let accs := (List.range 8).map fun m => (m, (List.range 16384).filterMap fun e =>
    let v := fieldAt acc (8 * (16384 * m + e)) 8
    if v = 0 then none else some (e, BitVec.ofNat 64 v))
  modify fun s => s.setTile tile { s.tile tile with anvil := { a with owner := some slot, accs := accs } }
  let s ← get
  a.slots.forM fun x => (sourceParts x.2.source.length x.2.source).forM fun w =>
    let op : Op := { tid := 0, ctx := slot, cell := ((w[2]?).map BitVec.toNat).getD 0, tile := tile, queue := 0, instr := .faultRecordPost
                     privileged := s.privileged slot }
    refill op (refillPart op x.1 w)

/-- The updates of a FILM.ADD that were held (R157, R212). -/
def State.depositHeld (s : State) (op : Op) : State :=
  match op.objs with
  | [o] =>
    match (op.deposit o) s with
    | .ok (_, s) => s
    | .error _ => s
  | _ => s

/-- The held writes and barrier updates of a context applied, tile by tile in arrival order (R157). -/
def State.applyDeferrals (s : State) (name : Nat) : State :=
  (s.tiles.map Prod.fst).foldl (fun s n =>
    let mine := (s.tile n).deferrals.filter fun d => d.ctx == name
    let s := s.setTile n { s.tile n with deferrals := (s.tile n).deferrals.filter fun d => d.ctx != name }
    mine.foldl (fun s d =>
      match Map.get? s.cells d.cell with
      | none => s
      | some c =>
        let bs : Map Byte := d.bytes.map fun b => (c.slice + b.1, b.2)
        let s := bs.foldl (fun s b => s.resetTags b.1 1) (s.perform 0 bs)
        match d.arrival, d.film with
        | some (off, units, bits), _ => s.updateBarrier c.ctx d.index (c.slice + off) bits (if units = unitsAll then none else some units)
        | none, some op => s.depositHeld { op with ctx := c.ctx }
        | none, none => s) s) s

/-- A saved launch as it resumes: in its new slot, its epoch moved by the time it was out. -/
def Launch.resumed (l : Launch) (slot out : Nat) : Launch := { l with ctx := slot, epoch := l.epoch + out, fault := none }

/-- A saved ring as it resumes: its records in flight moved with their allocation, their ages by the time it was out. -/
def Ring.resumed (r : Ring) (move : Nat → Nat) (out : Nat) : Ring :=
  { r with inflight := r.inflight.map fun p => { p with pa := move p.pa }, times := Map.mapAll r.times fun _ c => c + out }

/-- The slices of an area written into the allocations as they lie now (R153). -/
def State.resumeSlices (s : State) (x : Image) (ps : Pages) (off : Nat) : State :=
  (x.cells.foldl (fun (acc : Nat × State) c =>
    let base := ((Map.get? acc.2.cells c.1).map Cell.slice).getD c.2.slice
    (acc.1 + c.2.sliceLen, ((acc.2.zero base c.2.sliceLen).setBytes base (acc.2.pageBytes ps acc.1 c.2.sliceLen)))) (off, s)).2

/-- The accesses that were parked walk again (R156, R325). -/
def State.rewalkSaved (s : State) (ctx : Nat) : State :=
  (s.threads.filter fun x => x.2.ctx == ctx).foldl (fun s x =>
    let s := x.2.replay.foldl (fun s e => if e.state = .fault then s.rewalkEntry x.1 e else s) s
    if x.2.parked.isSome then s.modThread x.1 fun t => { t with parked := none }.unblock s.cycle else s) s

/-- A pinned group as it resumes (R153). -/
def State.resumePin (s : State) (x : Image) (slot : Nat) (p : PinSet) : PinSet :=
  let site := ((p.members.head?.bind fun y => Map.get? x.threads y.2).map (s.resumeSite x)).getD (0, 0)
  { p with ctx := slot, tile := site.1, part := site.2 }

/-- The threads of an image in the order in which they resume: those with records, then those that have exited. -/
def Image.tids (x : Image) : List Nat := x.order ++ (x.threads.map Prod.fst).filter fun t => !x.order.contains t

/-- What a saved context holds put back, its cells being placed (R153, R157, R250, R381). -/
def refillContext (token : Nat) (x : Image) (g : Loading) (h : List Byte) (records : Map (List Byte)) : Work Unit := do
  let s ← get
  let slot := g.slot
  let at' (k : Nat) : Nat := (sectionAt h k).getD 0
  let move := relocated x.cells (s.cells.filter fun c => c.2.ctx == slot)
  let s := { s with
    clusters := installed id s.clusters x.clusters
    rings := s.rings ++ x.rings.map fun (r : Ring) => r.resumed move (s.cycle - x.cycle)
    ops := installed (fun o => { o with ctx := slot, fault := none }) s.ops x.ops
    pins := installed (s.resumePin x slot) s.pins x.pins }
  let s := if x.keep then s else s.resumeSlices x g.pages (at' 5)
  let s := x.tids.foldl (fun s tid =>
    match Map.get? x.threads tid with
    | some t => s.resumeThread x move slot tid (Image.threadNow records tid t)
    | none => s) s
  set s
  x.anvils.zipIdx.forM fun a => resumeAnvil slot a.1.1 a.1.2 (s.pageBytes g.pages (at' 4 + a.2 * 2 ^ 20) (2 ^ 20))
  modify fun s =>
    let s := s.applyDeferrals (outName token)
    let s : State := { s with reinject := s.reinject ++ x.reinject }
    let s := (s.renameCtx (outName token) slot).rewalkSaved slot
    let s := x.ops.foldl (fun s o => s.closeSend o.1) s
    s.modThread g.tid fun t => if t.wait == Wake.ctxload token then t.unblock s.cycle else t

/-- A saved context back on the device, where there is room for its cells; a page fault in the sources of its weight slots parks the
restore (R153, R250). -/
def State.restoreContext (s : State) (token : Nat) (x : Image) (g : Loading) (h : List Byte) (records : Map (List Byte)) : State :=
  let before := s
  let s := { s with
    images := Map.del s.images token, ctxs := Map.set s.ctxs g.slot x.context
    launches := installed (fun l => l.resumed g.slot (s.cycle - x.cycle)) s.launches x.launches }
  match s.placeSaved x g.slot with
  | none => before
  | some s =>
    match (refillContext token x g h records) s with
    | .ok (_, s) => s
    | .error (.parked f) => { before with images := Map.set before.images token { x with loading := some { g with fault := some f } } }
    | .error _ => before

/-- CTXLOAD_RESTORE: once the slot is free, the replies have come and there is room, the context is back (R153). -/
def execCtxloadRestore (ctx : Nat) (s : State) : Host.Outcome State Fault Refusal :=
  .next (match s.images.findSome? fun x => (x.2.loading.filter fun g => g.slot == ctx).map fun g => (x.1, x.2, g) with
    | none => s
    | some (token, x, g) =>
      let h := s.pageBytes g.pages 0 0x140
      let records := x.readRecords s g.pages ((sectionAt h 3).getD 0)
      if (s.ctx? ctx).isSome || g.fault.isSome || !x.answered records || x.anvils.any fun a => (s.tile a.1).anvil.owner.isSome then s
      else s.restoreContext token x g h records)

/-! ## Killing (R37, R249, R375) -/

/-- A copy between packages that a kill ends: ABORTED, and the count lowered by what was not written (R249). -/
def State.abortCast (s : State) (op : Op) : State :=
  match op.objs with
  | [src, dst, bar] =>
    let w : Work Unit := do
      let far ← op.isRemote src .read
      let far' ← op.isRemote dst .write
      if far || far' then
        let pa ← op.reach bar 0 .write
        modify fun s =>
          let s := s.writeBarrier op.tid (pa + 8) 8 (if op.performed then op.progress % 2 else 2)
          s.lowerBarrier op.tid op.ctx bar.1 pa op.bytes
    match w s with
    | .ok (_, s) => s
    | .error _ => s
  | _ => s

/-- CONTEXT_KILL: the driver ends a resident context: its launches are KILLED, its job is aborted, and all it holds is free (R37,
R249, R375). -/
def execContextKill (ctx : Nat) (s : State) : Host.Outcome State Fault Refusal :=
  .next (match s.ctx? ctx with
    | none => s
    | some _ =>
      let s := (s.settleTransit ctx).closeIssue ctx
      let s := (s.threads.filter fun x => x.2.ctx == ctx).foldl (fun s x => s.drainThread x.1) s
      let s := (s.ops.filter fun x => x.2.ctx == ctx && decide (x.2.queue < 4)).foldl (fun s x => s.abortCast x.2) s
      let job := (Map.getD s.fabric.fjob ctx 0).toNat
      let s := if job / 2 ^ 16 % 2 = 1 then s.abortJob (job % 2 ^ 16) s.fabric.fabid none else s
      let s := (s.launches.filter fun x => x.2.ctx == ctx && x.2.phase != .final).foldl (fun s x => s.writeStatus x.2 0x14) s
      let s := s.dropContext ctx
      { s with
        faults := s.faults.filter fun r => r.2.1 != ctx
        fabric := { s.fabric with opens := s.fabric.opens.filter fun o => o.2.ctx != ctx } })

end Sys2Proof.Machine
end

