-- ==== Sys2Proof/Machine/Fetch.lean ====
section
/-! DEFINITION. Fetching a packet, decoding a chain and expanding a stamp (spec/04_encoding.md R55 to R61, R73 to R80). -/
namespace Sys2Proof.Machine

/-! ## Fetching (R55, R56) -/

/-- How the fetch of a packet ends: the physical addresses of its three words, or a condition. -/
inductive Fetched where
  | ok (pas : List Nat)
  | parked (f : FaultInfo)
  | fatal (va : Nat)
  | ecc (pa : Nat)
  deriving DecidableEq, Repr

/-- The virtual address of a word of a context's text (R55). -/
def Context.wordVa (c : Context) (n : Nat) : Nat := (c.textBase + 4 * n) % 2 ^ 52

/-- One word's address added to those of its packet. -/
def State.fetchWord (tile ctx va : Nat) (acc : Fetched × State) : Fetched × State :=
  match acc.1 with
  | .ok pas =>
    match acc.2.translate tile ctx va .fetch with
    | (.ok pa _, s) =>
      if s.eccAt (s.localPa pa) 4 then (.ecc (s.localPa pa), s) else (.ok (pas ++ [s.localPa pa]), s)
    | (.pgfault f, s) => (.parked f, s)
    | (.pgfatal, s) => (.fatal va, s)
  | _ => acc

/-- The packet of a word, translated for a tile (R55). -/
def State.fetchPacket (s : State) (tile ctx pc : Nat) : Fetched × State :=
  let va (k : Nat) : Nat := ((s.ctx? ctx).getD {}).wordVa (3 * packetOf pc + k)
  State.fetchWord tile ctx (va 2) (State.fetchWord tile ctx (va 1) (State.fetchWord tile ctx (va 0) (.ok [], s)))

/-- A word of text as a thread's fetch sees it: what its own stores have replaced since its last SYNC.DIE still stands (R80), while the stores
of other agents show at once (DESIGN CHOICE, entry 80); a word outside this package's memory is a free value, and one of the privileged
window a register. -/
def State.textWord (s : State) (t : Thread) (pa : Nat) : Nat :=
  match regionOf pa with
  | .hbm | .slice => ofBytes ((List.range 4).map fun i => Map.getD t.stale (pa + i) (s.byte (pa + i)))
  | .privileged => s.mmioWord (pa - 0x10000000000)
  | _ => (Config.remoteWord (s.free + pa)).toNat

/-- A word binds the word after it: a prefix, an object word or a live word (R56). -/
def binds (w : Nat) : Bool := isPfxWord w || isObjWord w || isLiveWord w

/-- The words that a thread decodes from its PC: up to the end of the packet, or none where fetch begins at a bound word (R56). -/
def wordsFrom (pc : Nat) (packet : List Nat) : List Nat :=
  let k := pc % 3
  if k ≠ 0 && ((packet[k - 1]?).map binds).getD false then [] else packet.drop k

/-! ## Stamps (R74 to R77) -/

/-- A hole of a die: its target and its base value (R74). -/
def Die.hole (d : Die) (n : Nat) : Nat × Nat :=
  let h := d.holes.toNat / 2 ^ (30 - 10 * n) % 1024
  (h / 128, h % 128)

/-- Whether a major has the A, the I or the M format (R81). -/
def aFormat (m : Nat) : Bool := (4 ≤ m && m ≤ 0x0B) || (0x10 ≤ m && m ≤ 0x1C) || m == 0x1E || m == 0x1F || m == 0x26 || m == 0x27 ||
  (0x2C ≤ m && m ≤ 0x32)
def iFormat (m : Nat) : Bool := (0x0C ≤ m && m ≤ 0x0F) || m == 0x1D
def mFormat (m : Nat) : Bool := 0x20 ≤ m && m ≤ 0x25

/-- A field of a word replaced: its lowest bit and its width. -/
def putField (w lo width v : Nat) : Nat := w - w / 2 ^ lo % 2 ^ width * 2 ^ lo + v * 2 ^ lo

/-- The field of a target in a base of a major: in the prefix or the base, its lowest bit and its width; none where it does not exist
(R75). -/
def holeField (m : Nat) (pfx : Bool) : Nat → Option (Bool × Nat × Nat)
  | 1 => some (false, 18, 7)
  | 2 => some (false, 11, 7)
  | 3 => if aFormat m then some (false, 4, 7) else none
  | 4 => if pfx then some (true, 10, 7) else none
  | 5 => if iFormat m || mFormat m then some (false, 0, 5) else none
  | 6 => if iFormat m then some (false, 5, 5) else if mFormat m then some (false, 5, 3) else none
  | 7 => if pfx then some (true, 21, 4) else none
  | _ => none

/-- The holes filled: the prefix and the base, none where one does not fit (R76). -/
def fillHoles (m : Nat) (pfx : Bool) : List ((Nat × Nat) × Nat) → Nat × Nat → Option (Nat × Nat)
  | [], w => some w
  | ((0, _), _) :: hs, w => fillHoles m pfx hs w
  | ((t, add), h) :: hs, (pre, base) =>
    match holeField m pfx t with
    | none => none
    | some (inPfx, lo, width) =>
      if h + add ≥ 2 ^ width then none
      else fillHoles m pfx hs (if inPfx then (putField pre lo width (h + add), base) else (pre, putField base lo width (h + add)))

/-- The expansion of a stamp against a die entry: the words, or the trap (R76, R77). -/
def expandWords (d : Die) (f : StampForm) : Except (Cause × BitVec 64) (List Nat) :=
  let pfx := d.holes.getLsbD 30
  let m := d.base.toNat / 2 ^ 25 % 64
  let holes := [(d.hole 1, f.h.toNat), (d.hole 2, f.i.toNat), (d.hole 3, f.j.toNat)]
  let targets := (holes.map fun h => h.1.1).filter (· != 0)
  if !d.holes.getLsbD 31 then .error (.dieundef, BitVec.ofNat 64 f.e.toNat)
  else if targets.eraseDups.length ≠ targets.length || !(aFormat m || iFormat m || mFormat m) ||
      (pfx && d.pre.toNat / 2 ^ 25 % 64 != 0x3E) then .error (.illeg, 0)
  else
    match fillHoles m pfx holes (d.pre.toNat % 2 ^ 31, d.base.toNat % 2 ^ 31 + (if f.c then 2 ^ 31 else 0)) with
    | none => .error (.illeg, 0)
    | some (pre, base) => .ok (if pfx then [pre, base] else [base])

/-- The instruction that a stamp expands to, or the trap (R76). -/
def expandStamp (d : Die) (f : StampForm) : Except (Cause × BitVec 64) Instr :=
  match expandWords d f with
  | .error x => .error x
  | .ok ws =>
    match decodeWords ws with
    | .ok (i, n) => if n = ws.length then .ok i else .error (.illeg, 0)
    | .error _ => .error (.illeg, 0)

/-- A die entry of a bank of a context (R73). -/
def State.dieEntry (s : State) (ctx : Nat) (bank : Bool) (e : Nat) : Die :=
  Map.getD (((s.ctx? ctx).map Context.dies).getD []) ((if bank then 1024 else 0) + e) ⟨0, 0, 0⟩

/-! ## Chains (R57, R59) -/

/-- An instruction of a chain as decoded: the instruction at the word, what it expands to, and the trap that its decoding raises. -/
structure Decoded where
  pc : Nat
  word : Option Instr := none
  instr : Option Instr := none
  trap : Option (Cause × BitVec 64) := none
  deriving DecidableEq, Repr

/-- TFINFO of DIEUNDEF names the decode bank beside the die (R141). -/
def inBank (bank : Bool) (x : Cause × BitVec 64) : Cause × BitVec 64 :=
  if x.1 = .dieundef ∧ bank then (x.1, x.2 + 1024) else x

/-- One instruction decoded at a word. -/
def decodeItem (die : Nat → Die) (pc : Nat) (i : Instr) : Decoded :=
  match i with
  | .stamp f =>
    match expandStamp (die f.e.toNat) f with
    | .ok x => { pc := pc, word := some i, instr := some x }
    | .error x => { pc := pc, word := some i, trap := some x }
  | _ => { pc := pc, word := some i, instr := some i }

/-- ILLEG where nothing has been raised before it (R82). -/
def Decoded.illegal (d : Decoded) (b : Bool) : Decoded := if b then { d with trap := some (d.trap.getD (.illeg, 0)) } else d

/-- The instructions of the chain that begins at a word, at most three; a C = 1 in word 2 is illegal (R57, R59). -/
def decodeChain (die : Nat → Die) : Nat → Nat → List Nat → List Decoded
  | 0, _, _ => []
  | n + 1, pc, ws =>
    match decodeWords ws with
    | .error _ => [{ pc := pc, trap := some (.illeg, 0) }]
    | .ok (i, k) =>
      let d := decodeItem die pc i
      if chainedOf i then
        if (ws.drop k).isEmpty then [d.illegal true] else d :: decodeChain die n (pc + k) (ws.drop k)
      else [d]

/-- A word that may not chain to the next: B and L formats, EXIT, YIELD, RTE, SYNC.DIE, CALLSH and RETSH (R59, R191). -/
def endsChain : Instr → Bool
  | .exit _ | .yield _ | .rte _ | .rtePc _ | .syncDie _ | .callsh _ | .retsh _ => true
  | i => majorOf i == 1 || majorOf i == 2

/-- The special registers that an instruction itself writes: SWR's, and LINK of CALL, CALLI and RETSH (R91, R96, R191). A condition flag that
it sets in FPCTL is none (DEDUCED, entry 81). -/
def sregsOf : Instr → List Nat
  | .swr f => [f.s.toNat]
  | .call _ | .calli _ | .retsh _ => [0x00A]
  | _ => []

/-- What an instruction of a thread writes, as class and number, 4 being that of the special registers; TFILL writes what TFDST names (R59,
R151). -/
def writesOf (t : Thread) (record : Instr → Nat) (i : Instr) : List (Nat × Nat) :=
  let d := match i, t.frame with
    | .tfill _, some f => f.dst.mended
    | _, _ => destOf (record i) i
  (if d.cls < 3 then (List.range d.count).map fun k => (d.cls, d.num + k) else []) ++ (sregsOf i).map fun n => (4, n)

/-- The rules of R59 about the whole chain: the later of two instructions on one pipe, or that write one register, is illegal. -/
def chainRules (t : Thread) (record : Instr → Nat) : List Nat → List (Nat × Nat) → List Decoded → List Decoded
  | _, _, [] => []
  | pipes, writes, d :: ds =>
    match d.instr with
    | none => d :: chainRules t record pipes writes ds
    | some i =>
      let pipe := pipeOf (majorOf i)
      let ws := writesOf t record i
      d.illegal (pipes.contains pipe || ws.any writes.contains || (chainedOf i && endsChain i)) ::
        chainRules t record (pipe :: pipes) (ws ++ writes) ds

/-- The words of the record that a QPUSH or QPOP of a thread moves, as its queue's entry says; 0 for any other word (R297). -/
def State.peekRecord (s : State) (t : Thread) (i : Instr) : Nat :=
  let words (q : Nat) : Nat :=
    match checkEntry t.tile t.ctx (s.boundRing t q) [.ringq] 0 s with
    | .ok (o, _) => Obj.recordWords o
    | .error _ => 0
  match i with
  | .qpush f => words f.q.toNat
  | .qpop f => words f.q.toNat
  | _ => 0

/-- The chain at a thread's PC, from the addresses of its packet (R57, R59, R76). -/
def State.chainAt (s : State) (t : Thread) (pas : List Nat) : List Decoded :=
  (chainRules t (s.peekRecord t) [] [] (decodeChain (s.dieEntry t.ctx t.bank) 3 t.pc (wordsFrom t.pc (pas.map (s.textWord t))))).map
    fun d => { d with trap := d.trap.map (inBank t.bank) }

/-- The chain that a thread issues next, without effect on the state. -/
def State.nextChain (s : State) (t : Thread) : List Instr :=
  match (s.fetchPacket t.tile t.ctx t.pc).1 with
  | .ok pas => (s.chainAt t pas).filterMap Decoded.instr
  | _ => []

/-- The first instruction of it. -/
def State.nextInstr (s : State) (t : Thread) : Option Instr := (s.nextChain t).head?

/-! ## STAMP (R76) -/

/-- STAMP: its expansion, against the decode bank of the group, is what issues at its word; an entry that is not valid is DIEUNDEF, and
an expansion that breaks a rule ILLEG (R76, R77). -/
def execStamp (f : StampForm) (s : State) : Host.Outcome State Fault Refusal :=
  .next (match s.issue with
    | none => s
    | some iss =>
      let bank := ((iss.slots.head?).bind fun x => s.thread? x.2).any Thread.bank
      match expandStamp (s.dieEntry iss.ctx bank f.e.toNat) f with
      | .ok i => { s with issue := some { iss with todo := { instr := i, pc := iss.cur.pc, stamp := true } :: iss.todo } }
      | .error x =>
        let (c, info) := inBank bank x
        let r : Raised := { cause := c, pc := iss.cur.pc, stamp := true, mask := iss.mask, dst := {}, decode := true
                            infos := iss.slots.map fun x => (x.1, info) }
        { s with issue := some { iss with raised := some (iss.raised.getD r), todo := [] } })

end Sys2Proof.Machine
end

