-- ==== Sys2Proof/Machine/Debug.lean ====
section
/-! DEFINITION. The debug port, stops, thread state, breakpoints and watchpoints, trace control, sampling and the lane-cycle record
(spec/21_debug_power.md R394 to R411). -/
namespace Sys2Proof.Machine

/-- A bit as a number. -/
def bitIf (b : Bool) (n : Nat) : Nat := if b then 2 ^ n else 0

/-! ## Stops (R398, R399, R404) -/

/-- STOPCTL as it reads (R398). -/
def DebugBlock.stopctl (b : DebugBlock) : Nat := bitIf b.peers 3 + bitIf b.claimsw 2 + bitIf b.stop 0

/-- STOPSTAT (R398). -/
def DebugBlock.stopstat (b : DebugBlock) : Nat :=
  bitIf b.stopped 31 + bitIf b.refused 30 + b.ctx % 16 * 2 ^ 20 + b.index % 8 * 2 ^ 8 + b.reason % 16

/-- One partition stopped at a cycle, with the trace record of its stop (R398, R407). -/
def State.stopOne (s : State) (tile part reason ctx index cycle : Nat) : State :=
  let b := s.block tile part
  if b.stopped then s
  else
    let b' : DebugBlock := { b with stopped := true, stepping := false, reason := reason, ctx := ctx, index := index, stopcyc := cycle }
    (s.setBlock tile part b').emit 11 ctx tile part 0 (toBytes 4 b'.stopstat)

/-- The partitions that hold threads of a context. -/
def State.partitionsOf (s : State) (ctx : Nat) : List (Nat × Nat) :=
  ((s.threads.filter fun x => x.2.ctx == ctx && !x.2.ended).map fun x => (x.2.tile, x.2.part)).eraseDups

/-- A stop that a group of a context causes; under PEERS the other partitions of the context stop too, from the next cycle on (R399). -/
def State.stopFor (s : State) (tile part reason ctx index : Nat) : State :=
  let s := s.stopOne tile part reason ctx index s.cycle
  if (s.block tile part).peers then
    ((s.partitionsOf ctx).filter (· != (tile, part))).foldl (fun s p =>
      s.setBlock p.1 p.2 { s.block p.1 p.2 with peer := some ctx }) s
  else s

/-- A cycle begins: the partitions that a stop of a peer has reached stop (R399). -/
def State.stopPeers (s : State) : State :=
  (s.debug).foldl (fun s x => match x.2.peer with
    | none => s
    | some ctx =>
      let tile := x.1 / 4
      let part := x.1 % 4
      (s.setBlock tile part { s.block tile part with peer := none }).stopOne tile part 6 ctx 0 s.cycle) s

/-- DEBUG_STOP_REQUEST: STOP written 1 (R395, R399). No group causes this stop, so it names no context and has no peers. -/
def execDebugStopRequest (tile part : Nat) (s : State) : Host.Outcome State Fault Refusal :=
  .next (if s.port.locked then s
    else (s.setBlock tile part { s.block tile part with stop := true }).stopOne tile part 1 0 0 s.cycle)

/-- What stood still while a partition was stopped has not waited; a thread in transit is not of it (R49, R198, R399). -/
def State.resumeWaits (s : State) (tile part since : Nat) : State :=
  { s with threads := Map.mapAll s.threads fun _ t =>
      if t.tile = tile ∧ t.part = part ∧ t.going.isNone then { t with since := s.cycle - (since - t.since) } else t }

/-- A stopped partition goes on: its waits as they stood at the stop, its WAITVs woken, a held chain first at the next draw (R54, R399,
R404). -/
def State.release (s : State) (tile part : Nat) (stepping : Bool) : State :=
  let b := s.block tile part
  if b.stopped then
    let s := (s.resumeWaits tile part b.stopcyc).setBlock tile part { b with stopped := false, stepping := stepping }
    { s with threads := Map.mapAll s.threads fun _ t =>
        if t.tile == tile && t.part == part && (t.wait matches .granule _) then t.unblock s.cycle else t }
  else s

/-- DEBUG_RELEASE: STOP written 0; a held chain issues first (R404). -/
def execDebugRelease (tile part : Nat) (s : State) : Host.Outcome State Fault Refusal :=
  .next (if s.port.locked then s
    else (s.setBlock tile part { s.block tile part with stop := false }).release tile part false)

/-- DEBUG_STEP: STEP written 1 while stopped, a release for one issue (R398, R404). -/
def execDebugStep (tile part : Nat) (s : State) : Host.Outcome State Fault Refusal :=
  .next (if s.port.locked then s else s.release tile part true)

/-- The stop after the one issue of a STEP (R398). -/
def State.stopAfterStep (s : State) (tile part ctx : Nat) : State :=
  if (s.block tile part).stepping then s.stopFor tile part 5 ctx 0 else s

/-! ## Thread state (R400) -/

/-- CLASS and NUM of THRREG (R400). -/
def DebugBlock.cls (b : DebugBlock) : Nat := b.reg.toNat / 2 ^ 16 % 4
def DebugBlock.num (b : DebugBlock) : Nat := b.reg.toNat % 1024

/-- The thread at a block's POS (R400). -/
def State.selected (s : State) (tile part : Nat) : Option (Nat × Thread) :=
  s.threads.find? fun x => x.2.tile == tile && x.2.part == part && x.2.pos == (s.block tile part).pos && !x.2.ended && x.2.going.isNone

/-- The register that THRREG names is one the thread has: declared, or k, pc and the rest of its control state (R400). -/
def Thread.has (t : Thread) (cls num : Nat) : Bool :=
  if cls = 0 then num < t.vregs else if cls = 1 then num < t.wregs else true

/-- The value that THRDATA shows of a thread (R400). -/
def State.threadValue (s : State) (b : DebugBlock) (t : Thread) : Nat :=
  if b.cls = 0 then (if t.has 0 b.num then (t.vreg b.num).val.toNat else 0)
  else if b.cls = 1 then
    (if t.has 1 b.num then ((t.wreg b.num).words.foldr (fun w n => w.toNat + n * 2 ^ 32) 0) else 0)
  else if b.cls = 2 then s.sreg t b.num
  else
    match b.num with
    | 0 => t.pc
    | 1 => t.key.toNat
    | 2 => t.k.toNat / 2 * 2 + 1
    | 3 => t.lp (b.data.toNat % 4)
    | n =>
      if 16 ≤ n then
        match t.visible[n - 16]? with
        | some e => (List.range 3).foldl (fun v i => v + e.field (3 * (b.rqReads % 4) + i) % 2 ^ 32 * 2 ^ (32 * i)) 0
        | none => 0
      else 0

/-- THRDATA as it reads: zero while the partition runs or where no thread is (R400). -/
def State.thrdata (s : State) (tile part : Nat) : Nat :=
  let b := s.block tile part
  match b.stopped, s.selected tile part with
  | true, some x => s.threadValue b x.2
  | _, _ => 0

/-- THRSTATE (R400). -/
def State.thrstate (s : State) (tile part : Nat) : Nat :=
  let b := s.block tile part
  match b.stopped, s.selected tile part with
  | true, some x => if b.cls < 2 ∧ x.2.has b.cls b.num then (x.2.regState b.cls b.num).code else 0
  | _, _ => 0

/-- The special registers that R92 and R93 let software write. -/
def sregWritable (n : Nat) : Bool :=
  [0x005, 0x006, 0x009, 0x00A, 0x010, 0x011, 0x100, 0x101, 0x102, 0x103, 0x104, 0x106, 0x120, 0x122, 0x124].contains n ||
    decide (0x110 ≤ n ∧ n ≤ 0x11F)

/-- A write to a thread's state is refused (R400); so is one to a register the thread does not have. -/
def Thread.refuses (t : Thread) (cls num : Nat) : Bool :=
  if cls < 2 then !t.has cls num || t.regState cls num == .empty
  else if cls = 2 then !sregWritable num
  else (num == 0 && t.frame.isSome) || decide (3 ≤ num)

/-- A thread taken out of a chain that a stop holds (R400). -/
def DebugBlock.unhold (b : DebugBlock) (tid : Nat) : DebugBlock :=
  match b.held with
  | none => b
  | some iss =>
    let slots := iss.slots.filter fun x => x.2 != tid
    { b with held := if slots.isEmpty then none else some { iss with slots := slots } }

/-- A thread filed anew under a PC and a key (R48, R400). -/
def State.refile (s : State) (tile part tid pc : Nat) (key : BitVec 16) (w : Wake) : State :=
  let s := (s.setBlock tile part ((s.block tile part).unhold tid)).unfile tid
  (s.modThread tid fun t => { t with parked := none }).file tid pc key w

/-- An accepted write to a thread's state (R400). -/
def State.writeThread (s : State) (tile part tid : Nat) (t : Thread) (cls num v : Nat) : State :=
  let words := (List.range 4).map fun i => BitVec.ofNat 32 (v / 2 ^ (32 * i))
  if cls = 0 then s.modThread tid fun t => (t.setV num (BitVec.ofNat 32 v) .full).recheck s.cycle
  else if cls = 1 then s.modThread tid fun t => (t.setW num words .full).recheck s.cycle
  else if cls = 2 then s.swriteOr tid (swrite tid num 0 (v % 2 ^ 64))
  else if num = 0 then
    (s.modThread tid fun t => { t with next := none, also := [] }).refile tile part tid (v % 2 ^ 24) t.key .ready
  else if num = 1 then
    match t.place with
    | .crucible _ | .spill =>
      (s.refile tile part tid t.pc (BitVec.ofNat 16 v) t.wait).modThread tid fun u => { u with parked := t.parked, since := t.since }
    | _ => s.modThread tid fun t => { t with key := BitVec.ofNat 16 v }
  else s.modThread tid fun t => { t with k := BitVec.ofNat 16 (v / 2 * 2) }

/-- THRDATA_WRITE: the last word of THRDATA is written, with the whole value; the write is made or refused (R400). -/
def execThrdataWrite (tile part : Nat) (v : BitVec 128) (s : State) : Host.Outcome State Fault Refusal :=
  .next (if s.port.locked then s
    else
      let b := s.block tile part
      let s := s.setBlock tile part { b with data := v }
      let refused := s.setBlock tile part { b with data := v, refused := true }
      match b.stopped, s.selected tile part with
      | true, some x =>
        if x.2.refuses b.cls b.num then refused else s.writeThread tile part x.1 x.2 b.cls b.num v.toNat
      | _, _ => refused)

/-! ## Breakpoints and watchpoints (R401 to R404) -/

/-- A breakpoint and a watchpoint of a block, as after reset when unlisted. -/
def DebugBlock.bk (b : DebugBlock) (n : Nat) : Breakpoint := Map.getD b.bks n {}
def DebugBlock.wp (b : DebugBlock) (n : Nat) : Watchpoint := Map.getD b.wps n {}

/-- A thread matches a breakpoint; `width` is how many low bits of its WID are F0 (R401). -/
def Breakpoint.hits (k : Breakpoint) (wid width : Nat) : Bool :=
  let hi := k.range.toNat / 2 ^ 32
  let lo := k.range.toNat % 2 ^ 32
  match k.pc.toNat / 2 ^ 29 % 4 with
  | 0 => true
  | 1 => wid / 2 ^ width * 2 ^ width == k.range.toNat
  | 2 =>
    let f := wid / 2 ^ (k.sel.toNat % 64) % 2 ^ (k.sel.toNat / 2 ^ 6 % 32 + 1)
    decide (lo ≤ f ∧ f ≤ hi)
  | _ => false

/-- The bits of F0 in a thread's WID (R33). -/
def State.f0Bits (s : State) (t : Thread) : Nat := ((s.stageOf t).widths).headD 0

/-- The lowest breakpoint that a chain beginning instructions at some words hits, for the threads of its group (R402). -/
def State.breakpointHit (s : State) (tile part : Nat) (pcs : List Nat) (ts : List Thread) : Option Nat :=
  if s.port.locked then none
  else
    let b := s.block tile part
    (List.range 8).find? fun n =>
      let k := b.bk n
      k.pc.getLsbD 31 && pcs.contains (k.pc.toNat % 2 ^ 24) && ts.any fun t => k.hits t.wid.toNat (s.f0Bits t)

/-- The watched size of a watchpoint as a power of two (R403). -/
def Watchpoint.size (w : Watchpoint) : Nat := min 16 (w.ctl.toNat / 2 ^ 24 % 32)

/-- A watchpoint covers an access of a context: bytes from a virtual address, reads or writes (R403). -/
def Watchpoint.hits (w : Watchpoint) (ctx va n : Nat) (rd wr : Bool) : Bool :=
  let base := w.addr.toNat % 2 ^ 52 / 2 ^ w.size * 2 ^ w.size
  w.ctl.getLsbD 31 && w.addr.toNat / 2 ^ 56 % 16 == ctx && ((rd && w.ctl.getLsbD 30) || (wr && w.ctl.getLsbD 29)) &&
    decide (va < base + 2 ^ w.size ∧ base < va + n)

/-! ## The lane-cycle record (R410, R411) -/

/-- LANE_COUNTER_CLEAR: CLR written 1 (R410). -/
def execLaneCounterClear (tile part : Nat) (s : State) : Host.Outcome State Fault Refusal :=
  .next (if s.port.locked then s else s.setBlock tile part { s.block tile part with lcs := [] })

/-- A lane count added to a class and bin, modulo 2^64 (R410). -/
def DebugBlock.count (b : DebugBlock) (k n c : Nat) : DebugBlock :=
  if c = 0 then b else { b with lcs := Map.set b.lcs (17 * k + n) (Map.getD b.lcs (17 * k + n) 0 + BitVec.ofNat 64 c) }

/-- The bins, bin 16 among them, that hold a chain's first word (R410, R411). -/
def DebugBlock.bins (b : DebugBlock) (pc : Nat) : List Nat :=
  ((List.range 16).filter fun n =>
    let r := (Map.getD b.lcranges n 0).toNat
    decide (r % 2 ^ 24 ≤ pc ∧ pc ≤ r / 2 ^ 32 % 2 ^ 24)) ++ [16]

/-- The record counts a context's groups (R410). -/
def DebugBlock.counts (b : DebugBlock) (ctx : Nat) : Bool :=
  b.lcctl.getLsbD 31 && (b.lcctl.getLsbD 29 || b.lcctl.toNat / 2 ^ 16 % 16 == ctx)

/-- A cycle with an issue: lanes counted active, divergent, predicated and absent (R411). -/
def State.countLanes (s : State) (tile part ctx pc : Nat) (active divergent predicated : Nat) : State :=
  let b := s.block tile part
  if !b.counts ctx then s
  else s.setBlock tile part ((b.bins pc).foldl (fun b n =>
    (((b.count 0 n active).count 1 n divergent).count 2 n predicated).count 3 n (32 - active - divergent - predicated)) b)

/-- A cycle with no issue: 32 idle lanes (R411). -/
def State.countIdle (s : State) (tile part : Nat) : State :=
  let b := s.block tile part
  if !b.lcctl.getLsbD 31 || b.stopped then s else s.setBlock tile part (b.count 4 16 32)

/-! ## PC sampling (R409) -/

/-- The descriptor of the push at the head of what a thread waits for (R409). -/
def State.pushOf (s : State) (t : Thread) : Nat :=
  ((s.nextChain t).findSome? fun i => match i with
    | .qpush f => some f.q.toNat
    | _ => none).getD 0

/-- REASON and DETAIL of a sampled thread (R409). A wait that the table does not list takes the nearest row: a wait for what the thread
issued earlier is 9 before a SYNC.DIE and 8 elsewhere (DESIGN CHOICE, entry 67). -/
def State.sampleReason (s : State) (b : DebugBlock) (tid : Nat) (t : Thread) : Nat × Nat :=
  if t.going.isSome then (13, 0)
  else if (s.issue.any fun iss => iss.slots.any fun x => x.2 == tid) || (b.lastIssue.1 == s.cycle && b.lastIssue.2.contains tid) then (0, 0)
  else
    match t.wait with
    | .ready => if t.replay.any fun e => !e.checked then (8, 0) else (1, min (s.cycle - t.since) 0xFFFF)
    | .reg c n => (2, c * 256 + n)
    | .room q => (3, min q 6)
    | .replay => (4, 0)
    | .bar n _ => (5, n)
    | .granule _ | .ctxload _ | .exit => (6, 0)
    | .abar _ => (6, 1)
    | .ringRoom _ => (7, s.pushOf t)
    | .earlier => ((if (s.nextChain t).any fun i => i matches .syncDie _ then 9 else 8), 0)
    | .gather => (10, 0)
    | .fault => (11, 0)
    | .anvil => (12, ((s.tile (s.homeTile t)).anvil.owner).getD 0)

/-- The occupied position after the last sampled one (R409). -/
def State.nextSample (s : State) (tile part : Nat) (last : Option Nat) : Option (Nat × Thread) :=
  let here := s.threads.filter fun x => x.2.tile == tile && x.2.part == part && !x.2.ended
  let rank (t : Thread) : Nat := match last with
    | none => t.pos
    | some l => (t.pos + 511 - l) % 512
  here.foldl (fun best x => match best with
    | none => some x
    | some y => if rank x.2 < rank y.2 then some x else some y) none

/-- PC_SAMPLE: a sampling interval of a running partition has passed (R409). -/
def execPcSample (tile part : Nat) (s : State) : Host.Outcome State Fault Refusal :=
  let b := s.block tile part
  .next (if s.port.locked || b.stopped || !b.sampctl.getLsbD 31 then s
    else
      match s.nextSample tile part b.sampled with
      | none => s
      | some (tid, t) =>
        let r := s.sampleReason b tid t
        (s.setBlock tile part { b with sampled := some t.pos }).emit 10 t.ctx tile part t.wid
          (toBytes 3 t.pc ++ toBytes 1 r.1 ++ toBytes 2 r.2))

/-! ## The debug address space (R396, R398 to R410) -/

/-- SAMPCTL's LOG2P and WPCTL's SIZE read as their nearest limits (R403, R409). -/
def sampctlRead (v : BitVec 32) : Nat := bitIf (v.getLsbD 31) 31 + min 20 (max 8 (v.toNat / 2 ^ 16 % 32)) * 2 ^ 16

/-- A 32-bit word of a partition block (R398 to R410). -/
def State.blockWord (s : State) (tile part off : Nat) : Nat :=
  let b := s.block tile part
  if off = 0x000 then b.stopctl
  else if off = 0x004 then b.stopstat
  else if off = 0x008 ∨ off = 0x00C then half64 b.stopcyc (off == 0x00C)
  else if off = 0x010 then bitIf (b.stopped && (s.selected tile part).isSome) 31 + b.pos
  else if off = 0x014 then b.reg.toNat
  else if 0x018 ≤ off ∧ off < 0x028 then s.thrdata tile part / 2 ^ (8 * (off - 0x018)) % 2 ^ 32
  else if off = 0x028 then s.thrstate tile part
  else if 0x100 ≤ off ∧ off < 0x200 then
    let k := b.bk ((off - 0x100) / 32)
    match off % 32 with
    | 0x00 => k.pc.toNat
    | 0x08 => k.sel.toNat
    | 0x10 => half64 k.range.toNat false
    | 0x14 => half64 k.range.toNat true
    | _ => 0
  else if 0x200 ≤ off ∧ off < 0x240 then
    let w := b.wp ((off - 0x200) / 16)
    match off % 16 with
    | 0 => half64 w.addr.toNat false
    | 4 => half64 w.addr.toNat true
    | 8 => w.ctl.toNat % 2 ^ 24 + w.size * 2 ^ 24 + w.ctl.toNat / 2 ^ 29 * 2 ^ 29
    | _ => 0
  else if off = 0x300 then sampctlRead b.sampctl
  else if off = 0x400 then b.lcctl.toNat
  else if 0x408 ≤ off ∧ off < 0x488 then half64 (Map.getD b.lcranges ((off - 0x408) / 8) 0).toNat (off / 4 % 2 == 1)
  else if 0x500 ≤ off ∧ off < 0x7A8 then half64 (Map.getD b.lcs ((off - 0x500) / 8) 0).toNat (off / 4 % 2 == 1)
  else 0

/-- A 32-bit word of the trace control block (R405). -/
def TraceBlock.word (t : TraceBlock) (off : Nat) : Nat :=
  match off with
  | 0x00 => t.ctl.toNat
  | 0x04 => t.ctxs.toNat
  | 0x08 => half64 t.base.toNat false
  | 0x0C => half64 t.base.toNat true
  | 0x10 => t.size.toNat
  | 0x18 => half64 t.ptr false
  | 0x1C => half64 t.ptr true
  | 0x20 => t.lost
  | _ => 0

/-- TSTATE (R414). -/
def Tile.tstate (t : Tile) : Nat := t.act % 2 ^ 21 * 2 ^ 43 + t.gat % 2 ^ 21 * 2 ^ 22 + t.ret % 2 ^ 22

/-- A 32-bit word of a tile's energy and telemetry block (R412, R414). -/
def Tile.word (t : Tile) (off : Nat) : Nat :=
  if off < 0x20 then t.weight (off / 2) % 65536 + t.weight (off / 2 + 1) % 65536 * 65536
  else if 0x40 ≤ off ∧ off < 0xC0 then half64 (Map.getD t.enacc ((off - 0x40) / 8) 0).toNat (off / 4 % 2 == 1)
  else
    match off with
    | 0xC0 => t.tvolt % 65536
    | 0xC4 => t.tfreq % 65536
    | 0xC8 => t.ttemp % 65536
    | 0xCC => t.tpwr % 2 ^ 32
    | 0xD0 => half64 t.tstate false
    | 0xD4 => half64 t.tstate true
    | 0xD8 => t.tcorr % 2 ^ 32
    | 0xDC => t.pwrlim % 2 ^ 32
    | _ => 0

/-- The race tag of a granule; an HBM granule outside the directory has none (R326, R327, R396). -/
def State.tagAt (s : State) (pa : Nat) : Tag :=
  if regionOf pa = .slice then Map.getD s.tags (pa / 64) {}
  else if regionOf pa = .hbm then
    (((Map.getD s.directory (directorySet pa) []).find? fun e => e.granule == pa / 64).map DirEntry.tag).getD {}
  else {}

/-- A word of a race tag (R326). -/
def Tag.word (t : Tag) (n : Nat) : Nat :=
  match n with
  | 0 => t.wslot.getD 0x7FFFF % 2 ^ 19 * 2 ^ 45 + t.wreg % 4096 * 2 ^ 33 + bitIf t.wa 32 + t.rslot.getD 0x7FFFF % 2 ^ 19 * 2 ^ 13 +
      t.rreg % 4096 * 2 + bitIf t.ra 0
  | 1 => t.wmask.toNat
  | 2 => t.rmask.toNat
  | _ => 0

/-- 8 bytes of a context's die banks (R74, R396). -/
def State.dieWord (s : State) (a : Nat) : Nat :=
  match s.ctx? (a / 2 ^ 16 % 16) with
  | none => 0
  | some c =>
    if 0x4000 ≤ a % 2 ^ 15 then 0
    else
      let d : Die := Map.getD c.dies (a / 2 ^ 15 % 2 * 1024 + a % 2 ^ 15 / 16) ⟨0, 0, 0⟩
      if a / 8 % 2 = 0 then d.pre.toNat + d.base.toNat * 2 ^ 32 else d.holes.toNat

/-- 8 bytes read at a physical address by the SYSTEM agent: memory as it has been performed to, the privileged window, and elsewhere
what the other agent answers (R311, R397). -/
def State.physRead (s : State) (pa : Nat) : Nat × State :=
  match regionOf pa with
  | .hbm | .slice => (s.num pa 8, s)
  | .privileged => s.mmioRead (pa - 0x10000000000) 8
  | .fabric p off =>
    if p = s.fabric.fabid then (s.num off 8, s)
    else ((Config.remoteWord s.free).toNat + (Config.remoteWord (s.free + 1)).toNat * 2 ^ 32, { s with free := s.free + 2 })
  | .host => ((Config.remoteWord s.free).toNat + (Config.remoteWord (s.free + 1)).toNat * 2 ^ 32, { s with free := s.free + 2 })
  | .multicast | .unassigned => (0, s)

/-- 8 bytes written at a physical address by the SYSTEM agent, the granule's tag reset (R311, R397). -/
def State.physWrite (s : State) (pa v : Nat) : State :=
  ((s.perform 0 ((toBytes 8 v).zipIdx.map fun b => (pa + b.2, b.1)))).resetTags (s.localPa pa) 8

/-- Two 32-bit words as the 8 bytes they are. -/
def pairOf (f : Nat → Nat) (off : Nat) : Nat := f off % 2 ^ 32 + f (off + 4) % 2 ^ 32 * 2 ^ 32

/-- 8 bytes of the debug address space (R396). -/
def State.debugRead (s : State) (a : Nat) : Nat × State :=
  if a < 0x308000 then
    let tile := a / 0x4000
    let part := a / 0x1000 % 4
    let v := pairOf (s.blockWord tile part) (a % 0x1000)
    let b := s.block tile part
    (v, if a % 0x1000 = 0x020 ∧ b.stopped then s.setBlock tile part { b with rqReads := b.rqReads + 1 } else s)
  else if 0x1000000 ≤ a ∧ a < 0x1100000 then (s.dieWord a, s)
  else if 0x2000000 ≤ a ∧ a < 0x2000028 then (pairOf s.trace.word (a - 0x2000000), s)
  else if 0x3000000 ≤ a ∧ a < 0x300C200 then (pairOf (s.tile ((a - 0x3000000) / 0x100)).word (a % 0x100), s)
  else if a / 2 ^ 52 = 1 then s.physRead (a % 2 ^ 52)
  else if 0x20000000000000 ≤ a ∧ a < 0x28000000000000 then
    ((s.tagAt ((a - 0x20000000000000) / 32 * 64)).word (a / 8 % 4), s)
  else (0, s)

/-- STOPCTL and STOPSTAT written (R398). -/
def State.writeStop (s : State) (tile part v : Nat) : State :=
  let b := s.block tile part
  let s := s.setBlock tile part { b with
    peers := v / 8 % 2 == 1, claimsw := v / 4 % 2 == 1, refused := b.refused && v / 2 ^ 62 % 2 == 0 }
  if b.stopped && v / 2 % 2 == 1 then
    nextOr s (execDebugStep tile part (s.setBlock tile part { s.block tile part with stop := v % 2 == 1 }))
  else if v % 2 = 1 then nextOr s (execDebugStopRequest tile part s)
  else nextOr s (execDebugRelease tile part s)

/-- A breakpoint's 8 bytes written; a MATCH of 11 is ignored (R401). -/
def Breakpoint.write (k : Breakpoint) (off v : Nat) : Breakpoint :=
  match off with
  | 0x00 =>
    let m := if v / 2 ^ 29 % 4 = 3 then k.pc.toNat / 2 ^ 29 % 4 else v / 2 ^ 29 % 4
    { k with pc := BitVec.ofNat 32 (bitIf (v / 2 ^ 31 % 2 == 1) 31 + m * 2 ^ 29 + v % 2 ^ 24) }
  | 0x08 => { k with sel := BitVec.ofNat 32 (v % 2 ^ 11) }
  | 0x10 => { k with range := BitVec.ofNat 64 v }
  | _ => k

/-- A watchpoint's 8 bytes written (R403). -/
def Watchpoint.write (w : Watchpoint) (off v : Nat) : Watchpoint :=
  match off with
  | 0 => { w with addr := BitVec.ofNat 64 (v / 2 ^ 56 % 16 * 2 ^ 56 + v % 2 ^ 52) }
  | _ => { w with ctl := BitVec.ofNat 32 (v % 2 ^ 32 / 2 ^ 24 * 2 ^ 24) }

/-- 8 bytes of a partition block written (R398 to R410). -/
def State.writeBlock (s : State) (tile part off v : Nat) : State :=
  let b := s.block tile part
  if off = 0x000 then s.writeStop tile part v
  else if off = 0x010 then
    let r := v / 2 ^ 32
    s.setBlock tile part { b with pos := v % 512, reg := BitVec.ofNat 32 (r / 2 ^ 16 % 4 * 2 ^ 16 + r % 1024), rqReads := 0 }
  else if off = 0x018 then s.setBlock tile part { b with data := BitVec.ofNat 128 (b.data.toNat / 2 ^ 64 * 2 ^ 64 + v % 2 ^ 64) }
  else if off = 0x020 then
    nextOr s (execThrdataWrite tile part (BitVec.ofNat 128 (b.data.toNat % 2 ^ 64 + v % 2 ^ 64 * 2 ^ 64)) s)
  else if 0x100 ≤ off ∧ off < 0x200 then
    let n := (off - 0x100) / 32
    s.setBlock tile part { b with bks := Map.set b.bks n ((b.bk n).write (off % 32) v) }
  else if 0x200 ≤ off ∧ off < 0x240 then
    let n := (off - 0x200) / 16
    s.setBlock tile part { b with wps := Map.set b.wps n ((b.wp n).write (off % 16) v) }
  else if off = 0x300 then
    s.setBlock tile part { b with sampctl := BitVec.ofNat 32 (bitIf (v / 2 ^ 31 % 2 == 1) 31 + v / 2 ^ 16 % 32 * 2 ^ 16) }
  else if off = 0x400 then
    let c := BitVec.ofNat 32 (bitIf (v / 2 ^ 31 % 2 == 1) 31 + bitIf (v / 2 ^ 29 % 2 == 1) 29 + v / 2 ^ 16 % 16 * 2 ^ 16)
    let s := s.setBlock tile part { b with lcctl := c }
    if v / 2 ^ 30 % 2 = 1 then nextOr s (execLaneCounterClear tile part s) else s
  else if 0x408 ≤ off ∧ off < 0x488 then
    let r := BitVec.ofNat 64 (v / 2 ^ 32 % 2 ^ 24 * 2 ^ 32 + v % 2 ^ 24)
    s.setBlock tile part { b with lcranges := Map.set b.lcranges ((off - 0x408) / 8) r }
  else s

/-- 8 bytes of the trace control block written (R405). -/
def TraceBlock.write (t : TraceBlock) (off v : Nat) : TraceBlock :=
  match off with
  | 0x00 =>
    let full := t.ctl.getLsbD 27 && v / 2 ^ 27 % 2 == 0
    { t with
      ctl := BitVec.ofNat 32 (v % 2 ^ 32 / 2 ^ 28 * 2 ^ 28 + bitIf full 27 + v % 2 ^ 16)
      ctxs := BitVec.ofNat 32 (v / 2 ^ 32 % 2 ^ 16) }
  | 0x08 => { t with base := BitVec.ofNat 64 (bitsKept v 51 16) }
  | 0x10 => { t with size := BitVec.ofNat 32 (v % 2 ^ 16) }
  | _ => t

/-- 8 bytes of a tile's energy and telemetry block written (R412, R414). -/
def Tile.write (t : Tile) (off v : Nat) : Tile :=
  if off < 0x20 then
    { t with enwt := (List.range 4).foldl (fun m i =>
        if off / 2 + i < 14 then Map.set m (off / 2 + i) (v / 2 ^ (16 * i) % 65536) else m) t.enwt }
  else if 0x40 ≤ off ∧ off < 0xC0 then { t with enacc := Map.set t.enacc ((off - 0x40) / 8) (BitVec.ofNat 64 v) }
  else if off = 0xD8 then { t with pwrlim := v / 2 ^ 32 % 2 ^ 32 }
  else t

/-- 8 bytes of the debug address space written (R396). -/
def State.debugWrite (s : State) (a v : Nat) : State :=
  if a < 0x308000 then s.writeBlock (a / 0x4000) (a / 0x1000 % 4) (a % 0x1000) v
  else if 0x2000000 ≤ a ∧ a < 0x2000028 then { s with trace := s.trace.write (a - 0x2000000) v }
  else if 0x3000000 ≤ a ∧ a < 0x300C200 then
    let n := (a - 0x3000000) / 0x100
    s.setTile n ((s.tile n).write (a % 0x100) v)
  else if a / 2 ^ 52 = 1 then s.physWrite (a % 2 ^ 52) v
  else s

/-! ## The test access port (R394, R395, R397) -/

/-- An instruction in the instruction register; the pins are the boundary scan's only under EXTEST (R394). -/
def State.select (s : State) (ir : BitVec 8) : State := { s with port := { s.port with ir := ir, driven := none } }

/-- Bits as a number, the first shifted out lowest. -/
def bitsOf (bs : List Bool) : Nat := bs.foldr (fun b n => (if b then 1 else 0) + 2 * n) 0

/-- The codes of instructions other than BYPASS (R394). -/
def portCodes : List (BitVec 8) := [0x01, 0x20, 0x21, 0x22, Config.sampleCode, Config.extestCode]

/-- BYPASS, which every code selects that is no other instruction's: bits shifted through the bypass bit, which captures 0. An event with
another instruction's code is not this one; all ones is BYPASS in any case, as the standard has it (R394). -/
def execBypass (scan : CodeScan) (s : State) : Host.Outcome State Fault Refusal :=
  .next (if scan.code ≠ 0xFF ∧ portCodes.contains scan.code then s
    else
      let s := s.select scan.code
      { s with port := { s.port with bypass := scan.bits.getLastD false, captured := 0 } })

/-- SAMPLE/PRELOAD: the pins are captured and the cells loaded (R394). -/
def execSamplePreload (scan : List Bool) (s : State) : Host.Outcome State Fault Refusal :=
  let s := s.select Config.sampleCode
  .next { s with free := s.free + 1, port := { s.port with captured := BitVec.ofNat 544 (bitsOf (Config.pins s.free)), cells := scan } }

/-- EXTEST: the pins are captured, and the cells loaded and driven (R394). -/
def execExtest (scan : List Bool) (s : State) : Host.Outcome State Fault Refusal :=
  let s := s.select Config.extestCode
  .next { s with
    free := s.free + 1
    port := { s.port with captured := BitVec.ofNat 544 (bitsOf (Config.pins s.free)), cells := scan, driven := some scan } }

/-- IDCODE (R394). -/
def execIdcode (s : State) : Host.Outcome State Fault Refusal :=
  let s := s.select 0x01
  .next { s with port := { s.port with captured := 0x10960001 } }

/-- DBGADDR: WRITE and an address that is a multiple of 8 (R394). -/
def execDbgaddr (v : BitVec 64) (s : State) : Host.Outcome State Fault Refusal :=
  let s := s.select 0x20
  .next { s with port := { s.port with addr := BitVec.ofNat 64 (bitIf (v.getLsbD 63) 63 + v.toNat % 2 ^ 56 / 8 * 8) } }

/-- DBGADDR moved on by 8 (R394). -/
def State.nextAddress (s : State) : State :=
  let a := s.port.addr.toNat
  { s with port := { s.port with addr := BitVec.ofNat 64 (a / 2 ^ 63 * 2 ^ 63 + (a + 8) % 2 ^ 56) } }

/-- DBGDATA_CAPTURE: Capture-DR of DBGDATA reads where WRITE is 0, and moves the address on; a locked port captures zero (R394, R395,
R397). -/
def execDbgdataCapture (s : State) : Host.Outcome State Fault Refusal :=
  let s := s.select 0x21
  .next (if s.port.addr.getLsbD 63 then if s.port.locked then { s with port := { s.port with captured := 0 } } else s
    else
      let r := if s.port.locked then (0, s) else s.debugRead (s.port.addr.toNat % 2 ^ 56)
      let s := r.2
      { s with port := { s.port with captured := BitVec.ofNat 544 r.1 } }.nextAddress)

/-- DBGDATA_UPDATE: Update-DR of DBGDATA writes where WRITE is 1; a locked port writes nothing (R394, R395, R397). -/
def execDbgdataUpdate (v : BitVec 64) (s : State) : Host.Outcome State Fault Refusal :=
  let s := s.select 0x21
  .next (if !s.port.addr.getLsbD 63 then s
    else
      let a := s.port.addr.toNat % 2 ^ 56
      (if s.port.locked then s else s.debugWrite a v.toNat).nextAddress)

/-- DBGAUTH_CAPTURE: a fresh nonce (R395). -/
def execDbgauthCapture (s : State) : Host.Outcome State Fault Refusal :=
  let s := s.select 0x22
  .next { s with port := { s.port with
    nonces := s.port.nonces + 1, captured := (Config.nonce s.port.nonces).setWidth 544 } }

/-- A digest as bytes, the most significant first, as the standard writes it. -/
def digestBytes (d : BitVec 256) : List Byte := (toBytes 32 d.toNat).reverse

/-- A measurement register extended with a component (R416). -/
def Boot.extend (b : Boot) (i : Nat) (component : List Byte) : Boot :=
  let old := Map.getD b.measures i 0
  { b with measures := Map.set b.measures i (Config.sm3 (digestBytes old ++ digestBytes (Config.sm3 component))) }

/-- The digest that an unlocking signature signs, with the nonce in force (R395). -/
def DebugPort.message (p : DebugPort) : BitVec 256 :=
  Config.sm3 (digestBytes (Config.sm3 Config.identityKey) ++ digestBytes (Config.nonce (p.nonces - 1)) ++ [1])

/-- DBGAUTH_UPDATE: a signature that verifies under the owner's key unlocks debug until reset, and M7 records it (R395, R416). -/
def execDbgauthUpdate (v : BitVec 544) (s : State) : Host.Outcome State Fault Refusal :=
  let s := s.select 0x22
  .next (match Config.ownerKey with
    | none => s
    | some key =>
      if s.port.locked && decide (0 < s.port.nonces) && Config.sm2Verifies key s.port.message (v.setWidth 512) then
        { s with port := { s.port with locked := false }, boot := s.boot.extend 7 [Config.debugByte false] }
      else s)

end Sys2Proof.Machine
end

