-- ==== Sys2Proof/Machine/Power.lean ====
section
/-! DEFINITION. Power states, waking and the power limit of a tile (spec/21_debug_power.md R413, R414). The blocks beside the tiles that
manage their own clock and supply have numbers of the model's own: 194 to 198 the dies' meshes, 199 to 206 the HBM interfaces, from 207
on the links by port. -/
namespace Sys2Proof.Machine

/-- A thread resides on a tile (R413). -/
def State.resident (s : State) (tile : Nat) : Bool := s.threads.any fun x => x.2.tile == tile && !x.2.ended

/-- A tile holds a ready thread (R413). -/
def State.hasReady (s : State) (tile : Nat) : Bool := s.threads.any fun x => x.2.tile == tile && !x.2.ended && x.2.wait == .ready

/-- A block has work: a tile, operations of its threads or of the cells it is home to; a mesh and an HBM interface, anything that may
cross them; a link, a request that it carries (R249, R413). -/
def State.hasWork (s : State) (n : Nat) : Bool :=
  if n < 194 then s.ops.any fun x => x.2.tile == n || ((Map.get? s.cells x.2.cell).map Cell.tile) == some n
  else if n < 207 then !s.ops.isEmpty || s.threads.any fun x => !x.2.ended && (x.2.wait == .ready || !x.2.replay.isEmpty)
  else !(s.fabric.inFlightOn (n - 207)).isEmpty

/-- The blocks that have work or a thread: they note the cycle, and wake for it (R413). -/
def State.busyBlocks (s : State) : List Nat :=
  (((s.threads.filter fun x => !x.2.ended).map fun x => x.2.tile) ++
    (s.ops.flatMap fun x => x.2.tile :: (((Map.get? s.cells x.2.cell).map Cell.tile).toList)) ++
    ((s.tiles.map Prod.fst).filter fun n => decide (194 ≤ n) && s.hasWork n)).eraseDups

/-- A supply in mV between 540 and a limit, in steps of 10 mV, chosen by the hardware (R413). -/
def supplyUpTo (limit k : Nat) : Nat := 540 + Config.telemetry k % ((limit - 540) / 10 + 1) * 10

/-- POWER_GATE_ENTRY: a block, a tile say, with no ready thread and no engine work stops its clocks (R413). -/
def execPowerGateEntry (tile : Nat) (s : State) : Host.Outcome State Fault Refusal :=
  let t := s.tile tile
  .next (if t.power = PowerState.run ∧ !s.hasReady tile ∧ !s.hasWork tile then s.setTile tile { t with power := .gated } else s)

/-- RETAIN_ENTRY: a block, a tile say, with no resident thread and no engine work for 1 ms drops to 480 mV (R413). -/
def execRetainEntry (tile : Nat) (s : State) : Host.Outcome State Fault Refusal :=
  let t := s.tile tile
  .next (if t.power ≠ PowerState.retain ∧ !s.resident tile ∧ !s.hasWork tile ∧ t.busy + 1000 * t.tfreq ≤ s.cycle then
    s.setTile tile { t with power := .retain, tvolt := 480 } else s)

/-- POWER_WAKE: when work arrives the supply returns to 540 mV or more and the clock starts; nothing else changes (R413). -/
def execPowerWake (tile : Nat) (s : State) : Host.Outcome State Fault Refusal :=
  let t := s.tile tile
  .next (if s.hasReady tile || s.hasWork tile then
      match t.power with
      | .run => s
      | .gated => s.setTile tile { t with power := .run }
      | .retain => { s with free := s.free + 1 }.setTile tile { t with power := .run, tvolt := supplyUpTo 700 s.free }
    else s)

/-- A saturating count of microseconds. -/
def satAdd (bits v n : Nat) : Nat := min (v + n) (2 ^ bits - 1)

/-- A millisecond spent in the tile's power state (R414). -/
def Tile.spend (t : Tile) : Tile :=
  match t.power with
  | .run => { t with act := satAdd 21 t.act 1000 }
  | .gated => { t with gat := satAdd 21 t.gat 1000 }
  | .retain => { t with ret := satAdd 22 t.ret 1000 }

/-- POWER_LIMIT_WINDOW: after each 1 ms the tile reports its temperature and its power, which stays at or below PWRLIM because the
clock and supply of an active tile go down where the work would exceed it (R414). -/
def execPowerLimitWindow (tile : Nat) (s : State) : Host.Outcome State Fault Refusal :=
  let t := (s.tile tile).spend
  let k := s.free
  let demand := Config.telemetry k
  let t' : Tile := { t with ttemp := Config.telemetry (k + 1) % 65536, tpwr := min demand t.pwrlim }
  let lowered : Tile := { t' with tfreq := Config.telemetry (k + 2) % (t.tfreq + 1), tvolt := supplyUpTo t.tvolt (k + 3) }
  .next ({ s with free := k + 4 }.setTile tile (if demand > t.pwrlim ∧ t.power = PowerState.run then lowered else t'))

end Sys2Proof.Machine
end

