-- ==== Sys2Proof/Machine/Boot.lean ====
section
/-! DEFINITION. Reset, boot, attestation and tiles in service (spec/21_debug_power.md R395, R415, R416, R420), and register writes
from outside (R4, R5, R379). -/
namespace Sys2Proof.Machine

/-! ## Registers written by the host (R4, R376, R379) -/

/-- MMIO_REGISTER_WRITE: a write of up to 8 bytes at an offset of the privileged window, each field by its access code (R4, R5). -/
def execMmioRegisterWrite (offset size : Nat) (v : BitVec 64) (s : State) : Host.Outcome State Fault Refusal :=
  .next (s.mmioStore 0 ((toBytes (min size 8) v.toNat).zipIdx.map fun b => (offset + b.2, b.1)))

/-! ## Tiles in service (R420) -/

/-- The physical tile behind a virtual number (R420). -/
def Boot.physical (b : Boot) (tile : Nat) : Nat := Map.getD b.tileMap tile tile

/-- The virtual number that a physical tile serves, where it serves one (R420). -/
def Boot.virtual (b : Boot) (phys : Nat) : Option Nat :=
  (List.range 194).find? fun v => b.physical v == phys && !b.lostTiles.contains v

/-- A free spare of a die (R420). -/
def Boot.spare (b : Boot) (die : Nat) : Option Nat :=
  (Config.spareTiles die).find? fun p => !b.retired.contains p && !b.tileMap.any fun x => x.2 == p

/-- A physical tile retired: its number moves to a spare of the same die or is lost, and M4 is extended (R416, R420). -/
def Boot.retire (b : Boot) (phys : Nat) : Boot :=
  if b.retired.contains phys then b
  else
    let retired := phys :: b.retired
    let b' : Boot := match b.virtual phys with
      | none => { b with retired := retired }
      | some v =>
        match b.spare (dieOf v) with
        | some p => { b with retired := retired, tileMap := Map.set b.tileMap v p }
        | none => { b with retired := retired, lostTiles := v :: b.lostTiles }
    b'.extend 4 (Config.retirementMap retired)

/-- The tile that a spare presents under a retired one's number: as after reset, but for the limit firmware wrote and what is held
for cells that are out (R157, R414, R420). -/
def Tile.onSpare (t : Tile) : Tile := { deferrals := t.deferrals, pwrlim := t.pwrlim }

/-- Virtual numbers that wait for their cells to leave, retired where none is resident (R420). -/
def State.finishRetiring (s : State) : State :=
  (s.boot.retiring.filter fun v => !(s.cells.any fun c => c.2.tile == v)).foldl (fun s v =>
    let s := { s with boot := { s.boot.retire (s.boot.physical v) with retiring := s.boot.retiring.filter (· != v) } }
    s.setTile v (s.tile v).onSpare) s

/-- A context saved by firmware, for a forced retirement: as CTXSAVE saves it, to an area that firmware chooses (R153, R420). -/
def State.forceSave (s : State) (ctx : Nat) : State :=
  match s.ctx? ctx with
  | none => s
  | some c =>
    if c.phase == .halting then s
    else
      let s := s.quiesce ctx
      let token := s.nextId
      let x := s.imageOf ctx (outName token) c false
      let sections := s.saveSections x token
      let bs := areaBytes false sections
      let pages : Pages := [(Config.retireArea token % 2 ^ 22 * 65536, bs.length)]
      let at3 := ((sectionsFrom (firstSection 6) sections).find? fun (y : Nat × Nat × List Byte) => y.1 == 3).map fun y => y.2.1
      let s := { s with nextId := token + 1 }.writePages 0 pages bs
      let s := { s with images := Map.set s.images token { x with pages := pages, records := at3.getD 0 } }
      (s.dropContext ctx).renameCtx ctx (outName token)

/-- The contexts with cells on a tile. -/
def State.contextsOn (s : State) (tile : Nat) : List Nat :=
  ((s.cells.filter fun c => c.2.tile == tile).map fun c => c.2.ctx).eraseDups

/-- TILE_RETIRE: a request that names a physical tile, with FORCE or without; placement on its number stops, and it is retired once no
cell is resident (R420). -/
def execTileRetire (tile : Nat) (force : Bool) (s : State) : Host.Outcome State Fault Refusal :=
  .next (if s.boot.retired.contains tile || s.boot.phase == .recovery then s
    else
      match s.boot.virtual tile with
      | none => { s with boot := s.boot.retire tile }
      | some v =>
        let s := { s with boot := { s.boot with retiring := if s.boot.retiring.contains v then s.boot.retiring else v :: s.boot.retiring } }
        let s := if force then (s.contextsOn v).foldl (fun s c => s.forceSave c) s else s
        s.finishRetiring)

/-! ## Boot (R415, R416) -/

/-- Firmware started from an image that passed: measured with its launcher, every tile tested and the failing ones retired (R415,
R416, R420). -/
def Boot.start (b : Boot) (image : List Byte) : Boot :=
  let b := ((b.extend 1 image).extend 2 (Config.launcherOf image)).extend 3 Config.fuses
  ((List.range 194).filter Config.tileFails).foldl Boot.retire { b with phase := .running }

/-- The image that the ROM chooses: slot A, then slot B (R415). -/
def Boot.chosen (b : Boot) : Option (List Byte) :=
  if Config.imagePasses b.slotA then some b.slotA else if Config.imagePasses b.slotB then some b.slotB else none

/-- DEVICE_RESET: every register and all state at its reset value, debug locked, then the boot ROM's work; the flash keeps its images,
and what other agents have already been given stays given (R395, R415, R416). -/
def execDeviceReset (s : State) : Host.Outcome State Fault Refusal :=
  let b : Boot := { slotA := s.boot.slotA, slotB := s.boot.slotB, responses := s.boot.responses }
  let b := (b.extend 0 Config.rom).extend 7 [Config.debugByte true]
  let b := match b.chosen with
    | some image => b.start image
    | none => { b with phase := .recovery }
  .next { State.reset with
    boot := b
    fabric := { sent := s.fabric.sent, abortsSent := s.fabric.abortsSent, replies := s.fabric.replies }
    host := { answers := s.host.answers }
    trace := { port := s.trace.port }
    port := { nonces := s.port.nonces }
    free := s.free, nextId := s.nextId, agenda := s.agenda }

/-- FIRMWARE_IMAGE_DOE: an image that passes the ROM's checks enters slot A, and a device in recovery starts from it (R415, R416). -/
def execFirmwareImageDoe (image : List Byte) (s : State) : Host.Outcome State Fault Refusal :=
  .next (if !Config.imagePasses image then s
    else
      let b : Boot := { s.boot with slotA := image }
      { s with boot := if b.phase = .recovery then b.start image else b })

/-! ## Attestation (R416) -/

/-- A response given on an endpoint, formed from a kind, what it reports and the request; a signing one carries the identity key's
signature. A device in recovery answers nothing (R415, R416). -/
def State.respond (s : State) (endpoint kind : Nat) (report request : List Byte) (signs : Bool) : State :=
  if s.boot.phase = .recovery then s
  else
    let body := Config.spdmResponse (BitVec.ofNat 8 kind :: (report ++ request))
    let r := if signs then body ++ Config.identitySign (request ++ body) else body
    { s with boot := { s.boot with responses := s.boot.responses ++ [(endpoint, request, r)] } }

/-- M0 to M7, as measurement indices 1 to 8 return them (R416). -/
def Boot.report (b : Boot) : List Byte := (List.range 8).flatMap fun i => digestBytes (Map.getD b.measures i 0)

/-- GET_VERSION (R416). -/
def execGetVersion (endpoint : Nat) (request : List Byte) (s : State) : Host.Outcome State Fault Refusal :=
  .next (s.respond endpoint 0 [] request false)

/-- GET_CAPABILITIES (R416). -/
def execGetCapabilities (endpoint : Nat) (request : List Byte) (s : State) : Host.Outcome State Fault Refusal :=
  .next (s.respond endpoint 1 [] request false)

/-- NEGOTIATE_ALGORITHMS: SM2_P256 and SM3_256 only (R416). -/
def execNegotiateAlgorithms (endpoint : Nat) (request : List Byte) (s : State) : Host.Outcome State Fault Refusal :=
  .next (s.respond endpoint 2 [] request false)

/-- GET_DIGESTS: the digest of the identity certificate (R416). -/
def execGetDigests (endpoint : Nat) (request : List Byte) (s : State) : Host.Outcome State Fault Refusal :=
  .next (s.respond endpoint 3 (digestBytes (Config.sm3 Config.certificate)) request false)

/-- GET_CERTIFICATE (R415, R416). -/
def execGetCertificate (endpoint : Nat) (request : List Byte) (s : State) : Host.Outcome State Fault Refusal :=
  .next (s.respond endpoint 4 Config.certificate request false)

/-- CHALLENGE, signed with the identity key (R416). -/
def execChallenge (endpoint : Nat) (request : List Byte) (s : State) : Host.Outcome State Fault Refusal :=
  .next (s.respond endpoint 5 s.boot.report request true)

/-- GET_MEASUREMENTS: indices 1 to 8 return M0 to M7 (R416). -/
def execGetMeasurements (endpoint : Nat) (request : List Byte) (s : State) : Host.Outcome State Fault Refusal :=
  .next (s.respond endpoint 6 s.boot.report request true)

end Sys2Proof.Machine
end

