-- ==== Sys2Proof/Machine/Clock.lean ====
section
/-! DEFINITION. The timing block: the clock, its steps and the triggers (spec/10_stages_film.md R213 to R215). -/
namespace Sys2Proof.Machine

/-- TIMENS_READ: the seconds are latched (R213). -/
def execTimensRead (s : State) : Host.Outcome State Fault Refusal :=
  .next { s with timing := { s.timing with secLatch := s.timing.clock / 1000000000 % 2 ^ 48 } }

/-- TIMEADJ_WRITE: a trim beyond the range is clamped (R213). -/
def execTimeadjWrite (v : BitVec 32) (s : State) : Host.Outcome State Fault Refusal :=
  .next { s with timing := { s.timing with adj := clampAdj v } }

/-- TIMESTEP_WRITE: signed nanoseconds added in one step; a backward one fires nothing (R213, R215). -/
def execTimestepWrite (v : BitVec 64) (s : State) : Host.Outcome State Fault Refusal :=
  .next (s.moveClock ((s.timing.clock : Int) + v.toInt))

/-- PPS_EDGE: under source 2 the nanoseconds become 0 and the seconds TODNEXT, or one more where it has not been written (R213). -/
def execPpsEdge (s : State) : Host.Outcome State Fault Refusal :=
  .next (
    let t := s.timing
    let sec := if t.todWritten then t.todnext else (t.clock / 1000000000 + 1) % 2 ^ 48
    let s := if t.src = 2 then s.moveClock (sec * 1000000000) else s
    { s with timing := { s.timing with todWritten := false } })

/-- TRIGSEC_WRITE: the trigger's time takes effect whole, with the nanoseconds last written (R215). -/
def execTrigsecWrite (n : Nat) (v : BitVec 64) (s : State) : Host.Outcome State Fault Refusal :=
  .next (if n < 16 then { s with timing := s.timing.setTrigger n ((s.timing.trigger n).writeSec v.toNat) } else s)

/-- A trigger after a firing with a result code (R214, R215). -/
def Trigger.fire (g : Trigger) (code clock : Nat) : Trigger :=
  let period := g.ctl.toNat % 2 ^ 30
  let missed (k : Nat) : Nat := min (g.missed + k) 65535
  let lost := if code = 0 then 0 else 1
  let g := { g with last := code, fired := true, fault := none }
  if !g.ctl.getLsbD 30 || period == 0 then { g with missed := missed lost, ctl := g.ctl &&& 0x7FFFFFFF#32 }
  else
    let k := periodsBeyond g.time period clock
    let time := g.time + k * period
    let settled := g.sec * 1000000000 + g.ns == g.time
    { g with
      missed := missed (lost + (k - 1)), time := time
      sec := if settled then time / 1000000000 else g.sec, ns := if settled then time % 1000000000 else g.ns }

/-- A firing: LAUNCH at privileged level on the record and the context that TRIGREC names (R111, R215). A record whose page is
missing waits for it; an offset that is no multiple of 64 is not enqueued. -/
def State.fireTrigger (s : State) (n : Nat) (failed : Bool) : State :=
  let g := s.timing.trigger n
  let off := g.record.toNat % 2 ^ 32
  let put (s : State) (g : Trigger) : State := { s with timing := s.timing.setTrigger n g }
  if failed || off % 64 ≠ 0 then put s (g.fire 1 s.timing.clock)
  else
    match enqueueRecord ioTile (g.record.toNat / 2 ^ 32 % 16) off s with
    | .ok (code, s) => put s (g.fire code s.timing.clock)
    | .error (.parked f) => put s { g with fault := some f }
    | .error _ => put s (g.fire 1 s.timing.clock)

/-- TRIGGER_FIRE: an armed trigger whose time the clock has passed fires (R215). -/
def execTriggerFire (n : Nat) (s : State) : Host.Outcome State Fault Refusal :=
  .next (
    if s.deferred.contains (.fire n) then { s with deferred := s.deferred.erase (.fire n) }.fireTrigger n false
    else if s.deferred.contains (.fireFailed n) then { s with deferred := s.deferred.erase (.fireFailed n) }.fireTrigger n true
    else s)

/-- A nanosecond ends with a cycle: five of them in eighteen cycles of 3.6 GHz (R1). -/
def nanosecondEnds (cycle : Nat) : Bool := (cycle + 1) * 5 / 18 != cycle * 5 / 18

/-- The clock counts one nanosecond, more or less what the trim has gathered (R213). -/
def State.countNanosecond (s : State) : State :=
  let whole : Int := 4096000000000
  let t := s.timing.trim + s.timing.adj.toInt
  let d : Int := if t ≥ whole then 1 else if t ≤ -whole then -1 else 0
  let s := { s with timing := { s.timing with trim := t - d * whole } }
  s.moveClock ((s.timing.clock : Int) + 1 + d)

/-- The clock at the end of a cycle (R1, R213). -/
def State.tickClock (s : State) : State := if nanosecondEnds s.cycle then s.countNanosecond else s

end Sys2Proof.Machine
end

