-- ==== Sys2Proof/Machine/Dram.lean ====
section
/-! DEFINITION. Refresh, the controllers and row repair (spec/16_program_refresh.md R303 to R306, spec/17_memory.md R316 to R318,
spec/21_debug_power.md R419). -/
namespace Sys2Proof.Machine

/-- REFRESH_DUE_POINT: in stepped mode a refresh is postponed, or forced with the reading thread charged (R304). -/
def execRefreshDuePoint (pch tid : Nat) (s : State) : Host.Outcome State Fault Refusal :=
  .next (if (s.pch pch).step = 0 then s else s.duePoint pch tid)

/-- GUARD_REFRESH: in stepped mode every bank is refreshed and held, and only GUARD counts it (R304). -/
def execGuardRefresh (pch : Nat) (s : State) : Host.Outcome State Fault Refusal :=
  .next (
    let r := s.pch pch
    if r.step = 0 then s
    else s.setPch pch ({ r with guard := r.guard + 1, since := s.cycle }.hold (List.range 16) s.cycle 540 true))

/-- Where the accesses in flight lie, with the thread and the entry that wait for each. -/
def State.openAccesses (s : State) : List (Nat × Nat × Nat) :=
  s.threads.flatMap fun x => x.2.replay.filterMap fun e =>
    if e.state = .flight && !e.dropped then
      match (s.entryPa x.2 e).1 with
      | some pa => if regionOf (s.localPa pa) = .hbm then some (s.localPa pa, x.1, e.id) else none
      | none => none
    else none

/-- A bank has a queued or open access (R318). -/
def State.bankBusy (s : State) (pch bank : Nat) : Bool := s.openAccesses.any fun a => pchOf a.1 == pch && bankOf a.1 == bank

/-- REFRESH_INTERVAL: in timed mode a refresh falls due, and the ninth owed forces one of every bank, which holds them all (R318). -/
def execRefreshInterval (pch : Nat) (s : State) : Host.Outcome State Fault Refusal :=
  .next (
    let r := s.pch pch
    if r.step ≠ 0 then s
    else if r.owed + 1 = 9 then s.setPch pch ({ r with owed := 0, forced := r.forced + 1 }.hold (List.range 16) s.cycle 540 false)
    else s.setPch pch { r with owed := r.owed + 1, postp := r.postp + (if s.bankBusy pch r.bank then 1 else 0) })

/-- PER_BANK_REFRESH: in timed mode an owed refresh runs on the pointer bank once it is idle, and holds it (R318). -/
def execPerBankRefresh (pch : Nat) (s : State) : Host.Outcome State Fault Refusal :=
  .next (
    let r := s.pch pch
    if r.step ≠ 0 ∨ r.owed = 0 ∨ s.bankBusy pch r.bank then s
    else s.setPch pch ({ r with owed := r.owed - 1, bank := (r.bank + 1) % 16 }.hold [r.bank] s.cycle 210 false))

/-- A refresh of a pseudo-channel falls due in a cycle: every 366 memory cycles from phase zero, or every 183 while its stack is hot
(R318). -/
def State.intervalDue (s : State) (pch phase : Nat) : Bool :=
  let halves (c : Nat) : Nat := toMemCycles (c - phase) / 183
  decide (phase < s.cycle) && halves s.cycle != halves (s.cycle - 1) && (halves s.cycle % 2 == 0 || Config.hotStack s.cycle (pch / 64))

/-- The pseudo-channels refreshed by time of which a refresh falls due (R318). -/
def State.dueRefreshes (s : State) : List Nat :=
  ((s.refresh.filter fun r => r.2.step == 0 && s.intervalDue r.1 r.2.phase).map Prod.fst) ++
    if toMemCycles s.cycle / 183 = toMemCycles (s.cycle - 1) / 183 then []
    else (List.range 512).filter fun n => (Map.get? s.refresh n).isNone && s.intervalDue n 0

/-- Refresh: a guard refresh 1,000,000 memory cycles, 2,400,000 of the tiles', after the latest write, forced or guard refresh; in timed
mode what falls due, and what is owed (R304, R318). -/
def State.workRefresh (s : State) : State :=
  let run (s : State) (ns : List Nat) (event : Nat → State → Host.Outcome State Fault Refusal) : State :=
    ns.foldl (fun s n => nextOr s (event n s)) s
  let s := run s ((s.refresh.filter fun r => r.2.step ≠ 0 && decide (s.cycle ≥ r.2.since + 2400000)).map Prod.fst) execGuardRefresh
  let s := run s s.dueRefreshes execRefreshInterval
  run s ((s.refresh.filter fun r => r.2.step == 0 && r.2.owed != 0).map Prod.fst) execPerBankRefresh

/-- The oldest access in flight to a pseudo-channel. -/
def State.oldestAccess (s : State) (pch : Nat) : Option (Nat × Nat) :=
  ((s.openAccesses.filter fun a => pchOf a.1 == pch).foldl (fun (m : Option (Nat × Nat)) a => match m with
    | none => some (a.2.1, a.2.2)
    | some b => if a.2.2 < b.2 then some (a.2.1, a.2.2) else some b) none)

/-- REORDER_LIMIT: the request that has waited longest behind younger ones is served: a load's data returns, an atomic performs
(R317). -/
def execReorderLimit (pch : Nat) (s : State) : Host.Outcome State Fault Refusal :=
  .next (match s.oldestAccess pch with
    | none => s
    | some (tid, e) => nextOr s (execAtomicPerform tid e (nextOr s (execLoadDataArrival tid e s))))

/-- ROW_REPAIR: the row is remapped to a spare of its bank; its data, and an uncorrectable word in it, stay as they are (R419). -/
def execRowRepair (addr : Nat) (s : State) : Host.Outcome State Fault Refusal :=
  .next (
    let row := addr / 2048
    if regionOf addr ≠ .hbm || s.boot.rows.contains row then s
    else { s with boot := { s.boot with rows := row :: s.boot.rows } })

end Sys2Proof.Machine
end

