-- ==== Sys2Proof/Machine/Dump.lean ====
section
/-! DEFINITION. The halt of a context by a fatal fault, and its dump (spec/20_program_dump.md R384 to R389). -/
namespace Sys2Proof.Machine

/-! ## Completion (R384) -/

/-- Whether work that the halt completes is still to be done: Caster operations that have left their partition, and set operations that have
begun. -/
def State.haltPending (s : State) (ctx : Nat) : Bool := s.ops.any fun x => x.2.ctx == ctx && s.mayWork x.2 && !s.opHeld x.1

/-- Every record that a halted context has pushed and that may commit commits. -/
def State.commitPushes (s : State) (ctx : Nat) : State :=
  s.rings.zipIdx.foldl (fun s r => r.1.inflight.foldl (fun s p =>
    if ((s.thread? p.tid).map Thread.ctx) = some ctx then nextOr s (execQpushCommit r.2 p.pos s) else s) s) s

/-- What stays of a halted thread's replay queue: nothing in flight without a destination (R384, R388). -/
def Thread.keepHalted (t : Thread) : Thread := { t with replay := t.visible.filter fun e => !(e.dst.cls == 3 && e.state == .flight) }

/-- Completion: moves are finished, lines drain, what has left performs, and the rest is discarded (R199, R314, R384). -/
def State.completeHalt (s : State) (ctx : Nat) : State :=
  let s := s.settleTransit ctx
  let tids := (s.threads.filter fun x => x.2.ctx == ctx).map Prod.fst
  let s := tids.foldl (fun s t => s.drainThread t) s
  let s := tids.foldl (fun s t => ((s.thread? t).map Thread.replay).getD [] |>.foldl (fun s e =>
    if e.atomicFlight then nextOr s (execAtomicPerform t e.id s) else s) s) s
  let s := (s.commitPushes ctx)
  let s := tids.foldl (fun s t => (s.settleArrivals t).modThread t Thread.keepHalted) s
  { s with ops := s.ops.filter fun x => x.2.ctx != ctx }

/-! ## The sections (R385, R388) -/

/-- WID of thread 0 of a cell. -/
def State.cellWid (s : State) (id : Nat) (c : Cell) : Nat :=
  let t := s.stageRec c.launch c.stage
  match (s.threadsOf id).head? with
  | some x => x.2.wid.toNat / 2 ^ t.width 0 * 2 ^ t.width 0
  | none => widOf t.widths (0 :: c.f1 :: t.fields (((Map.get? s.clusters c.cluster).bind Cluster.d).getD 0))

/-- The cells of a context by launch in the order enqueued, then by WID of thread 0 (R388). -/
def State.dumpCells (s : State) (ctx : Nat) : List (Nat × Cell) :=
  let key (x : Nat × Cell) : Nat := x.2.launch * 2 ^ 64 + s.cellWid x.1 x.2
  (s.cells.filter fun x => x.2.ctx == ctx).foldr (fun x acc =>
    let rec put : List (Nat × Cell) → List (Nat × Cell)
      | [] => [x]
      | y :: ys => if key x ≤ key y then x :: y :: ys else y :: put ys
    put acc) []

/-- Bytes read for the dump: those of a word with an uncorrectable error are zero, and their places are noted (R389). -/
def State.cleanBytes (s : State) (pa n : Nat) : List Byte × List Nat :=
  let bad := if s.eccAt pa n then (List.range n).filter fun i => s.eccAt (pa + i) 1 else []
  ((List.range n).map fun i => if bad.contains i then 0 else s.byte (pa + i), bad)

/-- What the fatal trap gives a thread, if it is one of those that trapped: its TFINFO (R388). -/
def Context.trapOf (c : Context) (tid : Nat) : Option (FatalInfo × BitVec 64) :=
  match c.fatal with
  | some i => if i.untrapped then none else (Map.get? i.trapped tid).map fun info => (i, info)
  | none => none

/-- The PC that a thread's record in a dump holds: of a thread that trapped, the first word of the instruction (R388). -/
def Context.dumpPc (c : Context) (tid : Nat) (t : Thread) : Nat := ((c.trapOf tid).map fun x => x.1.pc).getD t.pc

/-- The record of one thread in a dump: of one that trapped, the PC and the frame of its trap, or of its first (R388). -/
def Thread.dumpRecord (t : Thread) (tid : Nat) (c : Context) : List Byte :=
  let frame := match t.frame, c.trapOf tid with
    | none, some (i, info) => frameBytes i.tfpc.toNat i.cause.code i.tfmask.toNat info.toNat i.tfdst.toNat
    | _, _ => t.frameArea
  t.record (c.dumpPc tid t) frame false

/-- A section as planned: its kind, its bytes, and which of them stand for data in error. -/
structure DumpPart where
  kind : Nat
  bytes : List Byte
  bad : List Nat := []
  deriving DecidableEq, Repr

/-- A section with further bytes: a head, and data read for it. -/
def DumpPart.add (p : DumpPart) (head : List Byte) (data : List Byte × List Nat) : DumpPart :=
  let n := p.bytes.length + head.length
  { p with bytes := p.bytes ++ head ++ data.1, bad := p.bad ++ data.2.map fun i => n + i }

/-- SLICE (R388). -/
def State.dumpSlice (s : State) (ctx : Nat) : DumpPart :=
  (s.dumpCells ctx).foldl (fun (p : DumpPart) c =>
    p.add (toBytes 8 (s.cellWid c.1 c.2) ++ toBytes 4 c.2.tile ++ toBytes 52 c.2.sliceLen) (s.cleanBytes c.2.slice c.2.sliceLen))
    { kind := 2, bytes := [] }

/-- A cell in BARRIER (R388). -/
def State.dumpBarriers (s : State) (id : Nat) (c : Cell) : List Byte :=
  let t := s.stageRec c.launch c.stage
  padTo 32 (toBytes 8 (s.cellWid id c) ++ toBytes 2 c.tile ++ toBytes 2 t.nbar ++ toBytes 20 t.ncv ++
    ((List.range t.nbar).flatMap fun n =>
      let b := Map.getD c.bars n {}
      toBytes 4 b.phase ++ toBytes 4 b.arrivals) ++
    (List.range t.ncv).flatMap fun n => toBytes 4 (Map.getD c.cvs n {}).count)

/-- The BARRIER object that a thread's next instruction, the one at its recorded PC, waits on: its index and where its words lie (R388). -/
def State.waitsOn (s : State) (t : Thread) : Option (Nat × Nat) :=
  match s.nextInstr t with
  | some (.abarWait f) =>
    match checkEntry t.tile t.ctx f.o.toNat [.barrier] 0 s with
    | .ok (o, s) =>
      let op : Op := { tid := 0, ctx := t.ctx, cell := t.cell, tile := t.tile, queue := 7, instr := .faultRecordPost
                       privileged := true }
      match op.reach o 0 .read s with
      | .ok (pa, _) => some (f.o.toNat, pa)
      | .error _ => none
    | .error _ => none
  | _ => none

/-- BARRIER (R388). -/
def State.dumpBarrier (s : State) (ctx : Nat) : DumpPart :=
  let waits := (s.recorded ctx).filterMap fun x => s.waitsOn { x.2 with pc := ((s.ctx? ctx).map fun c => c.dumpPc x.1 x.2).getD x.2.pc }
  let keys := waits.eraseDups.foldr (fun x acc =>
    let rec put : List (Nat × Nat) → List (Nat × Nat)
      | [] => [x]
      | y :: ys => if x.1 * 2 ^ 64 + x.2 ≤ y.1 * 2 ^ 64 + y.2 then x :: y :: ys else y :: put ys
    put acc) []
  keys.foldl (fun (p : DumpPart) k =>
    (p.add (toBytes 4 k.1 ++ toBytes 4 (waits.filter (· == k)).length) (s.cleanBytes k.2 16)).add (toBytes 8 0) ([], []))
    { kind := 3, bytes := (s.dumpCells ctx).flatMap fun c => s.dumpBarriers c.1 c.2 }

/-- PENDING (R388). -/
def State.dumpPending (s : State) (ctx : Nat) : List Byte :=
  (s.recorded ctx).flatMap fun x => x.2.visible.zipIdx.flatMap fun e =>
    if (e.1.state == .held || e.1.state == .flight) && decide (e.1.dst.cls < 2) then
      toBytes 8 x.2.wid.toNat ++ toBytes 8 e.2 ++ e.1.bytes false
    else []

/-- The sections of a dump, in order (R385). -/
def State.dumpParts (s : State) (ctx : Nat) (c : Context) : List DumpPart :=
  [{ kind := 1, bytes := (s.recorded ctx).flatMap fun x => x.2.dumpRecord x.1 c }] ++
    (if c.dumpctl.getLsbD 1 then [s.dumpSlice ctx] else []) ++
    [s.dumpBarrier ctx, { kind := 4, bytes := s.dumpPending ctx }]

/-! ## Writing (R385 to R387, R389) -/

/-- How a section was written: its bytes done, and of a failure the cause and the address. -/
structure Written where
  done : Nat := 0
  failed : Bool := false
  cause : Nat := 0
  addr : Nat := 0
  deriving DecidableEq, Repr

/-- One burst of the writer, through the context's translation at privileged level; beyond the area, or where the translation fails,
nothing is written (R385, R389). -/
def State.dumpBurst (s : State) (ctx base size off : Nat) (bs : List Byte) : Written × State :=
  let va := (base + off) % 2 ^ 52
  if size < off + bs.length then ({ failed := true, addr := va }, s)
  else
    match s.translateAs true ioTile ctx va .write with
    | (.ok pa _, s) => ({ done := bs.length }, (s.perform 0 (bytesAt pa bs)).resetTags (s.localPa pa) bs.length)
    | (.pgfault _, s) => ({ failed := true, cause := Cause.pgfault.code, addr := va }, s)
    | (.pgfatal, s) => ({ failed := true, cause := Cause.pgfatal.code, addr := va }, s)

/-- Bytes written in 64-byte bursts, in increasing order, up to a failure (R385). -/
def State.dumpBursts (s : State) (ctx base size off : Nat) : Nat → List Byte → Written × State
  | 0, _ => ({}, s)
  | n + 1, bs =>
    if bs.isEmpty then ({}, s)
    else
      let r := s.dumpBurst ctx base size off (bs.take 64)
      if r.1.failed then r
      else
        let q := State.dumpBursts r.2 ctx base size (off + 64) n (bs.drop 64)
        ({ q.1 with done := r.1.done + q.1.done }, q.2)

/-- The directory entry of a section; ECC says that bytes written of it stand for data in error (R387, R389). -/
def dumpEntry (p : DumpPart) (off : Nat) (w : Written) : List Byte :=
  toBytes 2 p.kind ++ toBytes 2 ((if w.failed then 1 else 0) + (if p.bad.any fun n => decide (n < w.done) then 2 else 0) + w.cause * 256) ++ toBytes 4 p.bytes.length ++
    toBytes 8 off ++ toBytes 8 w.done ++ toBytes 8 w.addr

/-- Each section written at its planned offset, with its directory entry; the end of the last as planned (R385, R389). -/
def State.dumpSections (s : State) (ctx base size : Nat) : Nat → List DumpPart → (List Byte × Bool × Nat) × State
  | off, [] => (([], false, off), s)
  | off, p :: ps =>
    let start := (off + 63) / 64 * 64
    let r := s.dumpBursts ctx base size start (p.bytes.length / 64 + 1) p.bytes
    let q := State.dumpSections r.2 ctx base size (start + p.bytes.length) ps
    ((dumpEntry p start r.1 ++ q.1.1, r.1.failed || q.1.2.1, q.1.2.2), q.2)

/-- The header (R386). -/
def dumpHeader (ctx nsect extent : Nat) (trunc : Bool) (f : Option FatalInfo) : List Byte :=
  let trapped := f.filter fun i => !i.untrapped
  let info := ctx % 16 + (if trunc then 2 ^ 8 else 0) +
    (((f.bind FatalInfo.second).map fun c => 2 ^ 9 + c.code * 2 ^ 16).getD 0)
  toBytes 4 0x32444D44 ++ toBytes 2 1 ++ toBytes 2 nsect ++ toBytes 8 extent ++ toBytes 4 info ++
    (match trapped with
      | some i => toBytes 4 i.cause.code ++ toBytes 8 i.tfpc.toNat ++ toBytes 8 i.tfinfo.toNat ++ toBytes 4 i.tfmask.toNat ++
          toBytes 4 i.tfdst.toNat ++ toBytes 8 i.wid.toNat ++ toBytes 2 i.tile ++ toBytes 6 i.part
      | none => toBytes 44 0)

/-- DUMPSTAT with a dump begun and what it ended with (R383). -/
def dumpstatAfter (old : BitVec 32) (header trunc : Bool) : BitVec 32 :=
  (old &&& 0xE0000000#32) ||| BitVec.ofNat 32 (min (old.toNat % 65536 + 1) 65535 + (if header then 2 ^ 31 else 2 ^ 30) +
    if trunc then 2 ^ 29 else 0)

/-- The dump of a halted context: sections, directory, header, DUMPSTAT (R385). -/
def State.writeDump (s : State) (ctx : Nat) (c : Context) : State :=
  let base := c.dumpctl.toNat / 2 ^ 16 % 2 ^ 36 * 2 ^ 16
  let size := 65536 * 2 ^ (c.dumpctl.toNat / 256 % 16)
  let parts := s.dumpParts ctx c
  let r := s.dumpSections ctx base size 0x140 parts
  let d := r.2.dumpBursts ctx base size 0x40 5 (r.1.1 ++ List.replicate (256 - r.1.1.length) 0)
  let h := if d.1.failed then d else d.2.dumpBursts ctx base size 0 2 (dumpHeader ctx parts.length r.1.2.2 r.1.2.1 c.fatal)
  h.2.modCtx ctx fun c => { c with dumpstat := dumpstatAfter c.dumpstat (!h.1.failed) r.1.2.1 }

/-- Every launch of the context that is not final completes with a status (R37, R384). -/
def State.failLaunches (s : State) (ctx code : Nat) : State :=
  (s.launches.filter fun x => x.2.ctx == ctx && x.2.phase != .final).foldl (fun s x =>
    ((s.writeStatus x.2 code).dequeue x.1 x.2).modLaunch x.1 fun l => { l with phase := .final }) s

/-- DUMP_WRITE: once its work is complete, the halted context is dumped, under DUMPCTL.EN, and its launches end with STATUS FAULT
(R384, R385). -/
def execDumpWrite (ctx : Nat) (s : State) : Host.Outcome State Fault Refusal :=
  .next (match s.ctx? ctx with
    | none => s
    | some c =>
      if c.phase != .halting || s.haltPending ctx then s
      else
        let s := s.completeHalt ctx
        let s := if c.dumpctl.getLsbD 0 then s.writeDump ctx c else s
        (s.failLaunches ctx 0x13).modCtx ctx fun c => { c with phase := .halted })

end Sys2Proof.Machine
end

