-- ==== Sys2Proof/Machine/Waits.lean ====
section
/-! DEFINITION. What a thread's next chain waits for, and when a waiting thread is ready again (spec/03_execution.md R48, R50,
spec/05_isa_core.md R103, R110, R111, spec/06_isa_vector.md R138, spec/07_traps.md R146, R148, spec/13_isa_caster_anvil.md R244, R250,
spec/15_isa_witness_sync.md R292, R296, R299, spec/19_fabric_host.md R372). -/
namespace Sys2Proof.Machine

/-- The producer of an empty register is a HELD entry of a frozen queue, so that reading it is a condition and no wait (R146). -/
def Thread.heldProducer (t : Thread) (cls n : Nat) : Bool :=
  t.replay.any fun e => t.stops e && e.dst.cls == cls && decide (e.dst.num ≤ n ∧ n < e.dst.num + e.dst.count)

/-- A source that is empty under the blocking policy (R50, R64). -/
def Thread.sourceWait (t : Thread) (srcs : List Src) : Option Wake :=
  srcs.findSome? fun s =>
    if s.trap || s.cls = 2 then none
    else (s.regs.find? fun r => t.regState s.cls r == .empty && !t.heldProducer s.cls r).map fun r => .reg s.cls r

/-- A thread's lane as the checks before an issue read it. -/
def Thread.asLane (t : Thread) (tid : Nat) (srcs : List Src) : Lane :=
  { tid := tid, slot := 0, th := t, cap := t.capture srcs, mode := RMode.ofCode 0, et := 0 }

/-- The asynchronous barrier that a thread names has units left, or is not armed (R296). -/
def State.barrierOpen (s : State) (tid : Nat) (t : Thread) (idx : Nat) : Bool :=
  let l := t.asLane tid []
  match (barrierOf l idx rightR .read) s with
  | .ok (pa, s) =>
    match readBarrier l pa 8 s with
    | .ok (v, _) => !barrierDone v
    | .error _ => false
  | .error _ => false

/-- A push finds no slot: behind it stand the pushes on the same queue of the lanes ahead of it in its group (R299). -/
def State.pushWait (s : State) (t : Thread) (q : Nat) (ahead : List Thread) : Option Wake :=
  match checkEntry t.tile t.ctx (s.boundRing t q) [.ringq] 0 s with
  | .error _ => none
  | .ok (o, _) =>
    let r := s.ring t.launch o.1
    let same := ahead.filter fun u => u.launch == t.launch && s.boundRing u q == o.1
    if !r.closed && decide (o.slots ≤ r.tail + same.length - r.freed) then some (.ringRoom o.1) else none

/-- A collective push may not yet be outstanding: the window's width is used, or the chunk is, by the pushes that are and by those of the
lanes ahead of it in its group (R372). -/
def State.collWait (s : State) (tid v : Nat) (ahead : List Nat) : Option Wake :=
  match s.windowOf tid (collTree v) with
  | none => none
  | some o =>
    let mine := s.pushesOf (collTree v) ++ (ahead.filter fun u => collTree u == collTree v).map collChunk
    if o.full mine (collChunk v) then some (.room 7) else none

/-- Entries of a thread that an instruction must follow. -/
def Thread.hasEntry (t : Thread) (p : Instr → Bool) : Bool := t.replay.any fun e => p e.instr && t.awaits e

/-- What a thread issued earlier and an instruction that makes no replay entry of its own must wait for: what its fences, acquires and pops
put before it, SYNC.DIE and FTABBANK their loads, a REFPHASE write and TFENCE the accesses, QCLOSE the thread's pushes, CTXSAVE everything
and a dump of the context (R80, R110, R138, R290, R298, R303, R323, R339, R340, R393). An access that must follow something waits in its
entry. -/
def State.earlierWait (s : State) (tid : Nat) (t : Thread) (i : Instr) : Bool :=
  let fenced := !(s.fencedBy t 7).isEmpty
  let far := !(s.unacknowledged tid).isEmpty
  let accesses := t.hasEntry fun j => (accessOf j {}).isSome
  match i with
  | .launch _ | .dield _ | .ftabld _ | .wrel _ | .qpush _ | .qpop _ | .qcount _ | .barArrive _ | .barSync _ => fenced
  | .abarInit _ | .abarArrive _ | .abarWait _ | .abarTest _ => fenced
  | .qclose _ => fenced || s.pushing tid
  | .syncDie _ => fenced || accesses || t.hasEntry (fun j => j matches .dield _)
  | .ftabbank _ => fenced || t.hasEntry (fun j => j matches .ftabld _)
  | .swr f => f.s == 0x120 && (fenced || accesses || far)
  | .tfence f => accesses || (decide (4 ≤ f.p.toNat) && far)
  | .ctxsave f =>
    let v := Opnd.word (t.capture (staticSources (.ctxsave f))).a 0
    !(s.outstandingFar t tid).isEmpty || (s.ctx? (v % 16)).any fun c => c.phase == .halting
  | _ => false

/-- A wait that an instruction has of its own: barriers, ring queues and collectives (R292, R296, R299, R372). -/
def State.ownWait (s : State) (tid : Nat) (t : Thread) (i : Instr) (ahead : List Thread) : Option Wake :=
  let bar (n : Nat) : Option Wake := if s.hasArrived t n then some (.bar n (s.namedBar t n).phase) else none
  let second (u : Thread) : Nat := Opnd.word (u.capture (staticSources i)).a 1
  match i with
  | .barArrive f | .barWait f | .barSync f => bar f.n.toNat
  | .abarWait f => if s.barrierOpen tid t f.o.toNat then some (.abar f.o.toNat) else none
  | .qpush f => s.pushWait t f.q.toNat ahead
  | .fcoll _ => s.collWait tid (second t) (ahead.map second)
  | _ => none

/-- Whether an instruction acts in a thread (R70). -/
def Thread.acts (t : Thread) (i : Instr) : Bool := t.pred (prefixOf i).k.toNat != (prefixOf i).inv

/-- The wait of one instruction of a chain in a thread; `ahead` are the threads before it in the group (R48, R50, R70, R83). -/
def State.instrWait (s : State) (tid : Nat) (t : Thread) (ahead : List Thread) (i : Instr) : Option Wake :=
  let record := s.peekRecord t i
  let dest := (t.pendingDest (destOf record i)).map fun r => Wake.reg r.1 r.2
  if !t.acts i then (if (prefixOf i).mz then dest else none)
  else
    let full := match queueOf i with
      | some q => if queueDepth q ≤ (s.queued tid q).length then some (Wake.room q) else none
      | none => none
    let anvil := if anvilWord i && s.anvilTaken t then some Wake.anvil else none
    let earlier := if s.earlierWait tid t i then some Wake.earlier else none
    [full, anvil, t.sourceWait (t.sourcesOf (s.privileged t.ctx) record i), dest, earlier,
      s.ownWait tid t i (ahead.filter fun u => u.acts i)].findSome? id

/-- The wait of a chain in a thread: room in the replay queue, then each instruction's (R48, R50, R148). -/
def State.chainWait (s : State) (tid : Nat) (t : Thread) (ahead : List Thread) (is : List Instr) : Option Wake :=
  let entries := (is.filter fun i => t.acts i && (entersReplay i || (queueOf i).isSome)).length
  if entries ≠ 0 ∧ 16 < t.visible.length + entries then some .replay else is.findSome? (s.instrWait tid t ahead)

/-- The cause that a thread waits for still holds; what another event clears is left to that event (R48). -/
def State.stillWaits (s : State) (tid : Nat) (t : Thread) : Bool :=
  match t.wait with
  | .ready => false
  | .reg c n => t.regState c n == .empty && !t.heldProducer c n
  | .room q =>
    if q < 7 then decide (queueDepth q ≤ (s.queued tid q).length)
    else s.chainWait tid t [] (s.nextChain t) == some (.room 7)
  | .replay => s.chainWait tid t [] (s.nextChain t) == some .replay
  | .earlier => s.chainWait tid t [] (s.nextChain t) == some .earlier
  | .bar n _ => s.hasArrived t n
  | .abar idx => s.barrierOpen tid t idx
  | .ringRoom o =>
    let r := s.ring t.launch o
    match checkEntry t.tile t.ctx o [.ringq] 0 s with
    | .ok (e, _) => !r.closed && decide (Obj.slots e ≤ r.tail - r.freed)
    | .error _ => false
  | .anvil => s.anvilTaken t
  | .fault | .granule _ | .gather | .ctxload _ | .exit => true

/-- A context whose threads may run (R153, R384). -/
def State.runs (s : State) (ctx : Nat) : Bool := (s.ctx? ctx).any fun c => c.phase == .running

/-- Every waiting thread whose cause has cleared becomes ready (R48). -/
def State.pollWaits (s : State) : State :=
  { s with threads := Map.mapAll s.threads fun tid t =>
      if t.wait != .ready && !t.ended && s.runs t.ctx && !s.stillWaits tid t then t.unblock s.cycle else t }

end Sys2Proof.Machine
end

