-- ==== Sys2Proof/Machine/Select.lean ====
section
/-! DEFINITION. The selector's draw: the source, the group, its slots, the checks before an issue (spec/03_execution.md R48 to R53,
spec/04_encoding.md R55 to R61, R82, spec/07_traps.md R145, spec/21_debug_power.md R402 to R404, R409 to R412). -/
namespace Sys2Proof.Machine

/-! ## Sources (R51, R52, R145) -/

/-- A source of a draw: its rank among the rules of R51 and its ready threads, oldest first, the spill list's in their order. -/
structure Source where
  /-- the crucible's number, absent for a pinned group and the spill list -/
  crucible : Option Nat := none
  pinned : Bool := false
  members : List (Nat × Thread)
  deriving DecidableEq, Repr

/-- A thread has a WAITV that has not read its word: the chain that holds it is not over (R54). -/
def Thread.reading (t : Thread) : Bool := t.replay.any fun e => (e.instr matches .waitv _) && t.awaits e

/-- The ready threads of a partition whose contexts run (R48, R49): one whose wait has just ended files first where it resumes. -/
def State.readyOn (s : State) (tile part : Nat) : List (Nat × Thread) :=
  s.threads.filter fun x => x.2.tile == tile && x.2.part == part && x.2.wait == .ready && x.2.next.isNone && !x.2.ended &&
    !x.2.reading && x.2.going.isNone && s.runs x.2.ctx

/-- The sources of a partition that hold a ready thread (R51). -/
def State.sources (s : State) (tile part : Nat) : List Source :=
  let q := s.partition tile part
  let ready := s.readyOn tile part
  let filed (p : Place) : List (Nat × Thread) := byWait (ready.filter fun x => x.2.place == p)
  let groups := (ready.filterMap fun x => match x.2.place with
    | .pinned g => some g
    | _ => none).eraseDups
  let all : List Source := (q.crucibles.map fun c => { crucible := some c.1, members := filed (.crucible c.1) }) ++
    (groups.map fun g => { pinned := true, members := filed (.pinned g) }) ++
    [{ members := q.spill.filterMap fun tid => (Map.get? ready tid).map fun t => (tid, t) }]
  all.filter fun c => !c.members.isEmpty

/-- The rule of R51 that a source meets: a wait of AGE + 1,024, a full crucible or a pinned group, a wait of AGE, or none of these. -/
def Source.rank (c : Source) (age wait : Nat) : Nat :=
  if age + 1024 ≤ wait then 1
  else if c.pinned || (c.crucible.isSome && decide (32 ≤ c.members.length)) then 2
  else if age ≤ wait then 3
  else 4

/-- A source comes before another: by rule, then the longer wait, the lower WID, the lower context (R51). A source that holds threads of
several launches takes AGE from the launch of its oldest ready thread, and of two that all of this leaves equal the earlier listed comes
first: a crucible by its number, then a pinned group, then the spill list (DESIGN CHOICE, entry 79). -/
def State.sooner (s : State) (a b : Source) : Bool :=
  match a.members.head?, b.members.head? with
  | some x, some y =>
    let ra := a.rank (s.ageOf x.2) (s.cycle - x.2.since)
    let rb := b.rank (s.ageOf y.2) (s.cycle - y.2.since)
    decide (ra < rb) || (ra == rb && (decide (x.2.since < y.2.since) || (x.2.since == y.2.since &&
      (decide (x.2.wid.toNat < y.2.wid.toNat) || (x.2.wid == y.2.wid && decide (x.2.ctx ≤ y.2.ctx))))))
  | _, _ => true

/-- The source that a partition's selector draws from (R51). -/
def State.chosenSource (s : State) (tile part : Nat) : Option Source :=
  (s.sources tile part).foldl (fun best c => match best with
    | none => some c
    | some b => if s.sooner b c then some b else some c) none

/-- The threads drawn from a source, at most 32 in draw order: those of the first one's decode bank, and of its PC where a source
mixes PCs (R50, R52, R145). -/
def Source.drawn (c : Source) : List (Nat × Thread) :=
  match c.members with
  | [] => []
  | x :: _ =>
    (c.members.filter fun y => y.2.bank == x.2.bank && (c.crucible.isSome ||
      (y.2.pc == x.2.pc && y.2.ctx == x.2.ctx && (c.pinned || y.2.asked == x.2.asked)))).take 32

/-! ## Slots (R50) -/

/-- The slot of a thread: F0 mod 32 if it is free, else the lowest free one (R50). -/
def slotOf (taken : List (Nat × Nat)) (f0 : Nat) : Nat :=
  if !(taken.any fun x => x.1 == f0 % 32) then f0 % 32
  else ((List.range 32).find? fun n => !(taken.any fun x => x.1 == n)).getD 0

/-- The slots of a group, a pinned thread's its own, in slot order (R50, R145). -/
def State.slotsFor (s : State) (group : List (Nat × Thread)) : List (Nat × Nat) :=
  let taken := group.foldl (fun taken x =>
    (match x.2.frame with
      | some f => f.slot
      | none => slotOf taken (x.2.wid.toNat % 2 ^ s.f0Bits x.2), x.1) :: taken) ([] : List (Nat × Nat))
  (List.range 32).filterMap fun n => taken.find? fun x => x.1 == n

/-! ## Before the issue -/

/-- A chain as it stands to be issued: its instructions at their words. -/
def chainItems (ds : List Decoded) : List ChainItem := ds.filterMap fun d => d.word.map fun i => { instr := i, pc := d.pc }

/-- The decode traps of a chain in a group, at the earliest instruction that raises one (R61, R82). -/
def State.chainTrap (s : State) (iss : Issue) : List Decoded → Option Raised
  | [] => none
  | d :: ds =>
    let iss : Issue := { iss with cur := { iss.cur with pc := d.pc, stamp := d.word.any fun i => i matches .stamp _ } }
    let found := iss.slots.filterMap fun x => (s.thread? x.2).map fun t =>
      (x.1, d.trap.orElse fun _ => d.instr.bind fun i => s.decodeTrap t (s.privileged iss.ctx) (s.peekRecord t i) i)
    match iss.decodeRaise found with
    | some r => some r
    | none => s.chainTrap iss ds

/-- The threads of a group that a chain makes wait, in slot order (R48, R50). -/
def State.groupWaits (s : State) (group : List (Nat × Thread)) (is : List Instr) : List (Nat × Wake) :=
  (group.zipIdx.filterMap fun x => (s.chainWait x.1.1 x.1.2 ((group.take x.2).map Prod.snd) is).map fun w => (x.1.1, w))

/-- The lowest watchpoint that a chain's accesses hit, by an active thread of its group (R403). -/
def State.watchHit (s : State) (tile part : Nat) (group : List (Nat × Thread)) (is : List Instr) : Option Nat :=
  if s.port.locked then none
  else
    let b := s.block tile part
    (List.range 4).find? fun n => group.any fun x => is.any fun i =>
      x.2.acts i && match accessOf i (x.2.capture (staticSources i)) with
        | some a => (b.wp n).hits x.2.ctx (x.2.vaOf a.off) a.size (a.kind != .write) (a.kind != .read)
        | none => false

/-- A thread taken from its source: its key is the source's, and it is no longer mobile (R48, R52, R195, R198). -/
def State.takeUp (s : State) (tid : Nat) : State :=
  match s.thread? tid with
  | none => s
  | some t =>
    let key := if t.place = .spill then t.asked else t.key
    (s.unfile tid).modThread tid fun t => { t with key := key, place := .nowhere, mobile := false, exported := false }

/-- The group's chain held by a stop (R402 to R404). -/
def State.holdChain (s : State) (iss : Issue) (reason index : Nat) : State :=
  let s := iss.slots.foldl (fun s x => s.takeUp x.2) s
  let s := s.setBlock iss.tile iss.part { s.block iss.tile iss.part with held := some iss }
  s.stopFor iss.tile iss.part reason iss.ctx index

/-- Threads that wait at their chain: drawn, so no longer mobile, and filed anew as blocked under its PC and their key (R48, R52, R195); one
that a stop had held is then not matched again (R404). -/
def State.fileWaits (s : State) (tile part : Nat) (held : Bool) (waits : List (Nat × Wake)) : State :=
  waits.foldl (fun s w =>
    match s.thread? w.1 with
    | none => s
    | some t =>
      let b := (s.block tile part).unhold w.1
      let s := if held then s.setBlock tile part { b with skip := (w.1, t.pc) :: b.skip } else s
      (s.takeUp w.1).file w.1 t.pc t.drawKey w.2) s

/-! ## Accounts (R304, R409 to R412) -/

/-- The energy event of an instruction's lanes, and how many it counts in each: FP32 operations and spectral ones by wavelength,
other integer and vector operations (R412). -/
def energyOf (i : Instr) : Option (Nat × Nat) :=
  let m := majorOf i
  if 0x2C ≤ m ∧ m ≤ 0x32 then some (1, 4)
  else if 0x10 ≤ m ∧ m ≤ 0x15 then some (1, 1)
  else if pipeOf m = 0 ∨ pipeOf m = 1 then some (2, 1)
  else none

/-- The 32-bit lane operands that an instruction reads (R412). -/
def lanesRead (srcs : List Src) : Nat := srcs.foldl (fun n s => n + (if s.cls = 0 then s.count else if s.cls = 1 then 4 * s.count else 0)) 0

/-- The energy of a chain's issue, its lanes and its register reads (R412). -/
def State.issueEnergy (s : State) (tile ctx : Nat) (group : List (Nat × Thread)) (is : List Instr) : State :=
  is.foldl (fun s i =>
    let active := group.filter fun x => x.2.acts i
    let reads := active.foldl (fun n x => n + lanesRead (x.2.sourcesOf false 0 i)) 0
    let s := s.energy tile ctx 3 reads
    match energyOf i with
    | some (e, k) => s.energy tile ctx e (k * active.length)
    | none => s) (s.energy tile ctx 0 1)

/-- The lane-cycle record of a chain's issue (R411). -/
def State.issueLanes (s : State) (tile part ctx pc : Nat) (group : List (Nat × Thread)) (is : List Instr) : State :=
  let active := (group.filter fun x => is.any fun i => x.2.acts i).length
  let divergent := match (group.head?.map fun x => x.2.frame) with
    | some (some f) => (s.threads.filter fun x => !x.2.ended && (x.2.frame.any fun g => g.group == f.group) &&
        !(group.any fun y => y.1 == x.1) && x.2.pc != pc).length
    | _ => 0
  s.countLanes tile part ctx pc active divergent (group.length - active)

/-- A partition's debug block changed, where it has one. -/
def State.modBlock (s : State) (tile part : Nat) (f : DebugBlock → DebugBlock) : State :=
  if (Map.get? s.debug (tile * 4 + part)).isNone then s else s.setBlock tile part (f (s.block tile part))

/-- A chain that a stop had held is held no more, and its threads are matched again after it (R404). -/
def State.noteDrawn (s : State) (tile part : Nat) (slots : List (Nat × Nat)) : State :=
  s.modBlock tile part fun b => { b with held := none, skip := b.skip.filter fun x => !(slots.any fun y => y.2 == x.1) }

/-- What a partition's debug block notes of an issue: who issued (R409, R411). -/
def State.noteIssue (s : State) (tile part : Nat) (slots : List (Nat × Nat)) : State :=
  s.modBlock tile part fun b => { b with lastIssue := (s.cycle, slots.map Prod.snd) }

/-! ## The draw (R50, R57, R402) -/

/-- A BKPT that a stop has claimed issues as NOP (R404). -/
def Decoded.claimed (d : Decoded) : Decoded :=
  match d.instr with
  | some (.bkpt f) => { d with word := some (.nop ⟨f.c⟩), instr := some (.nop ⟨f.c⟩) }
  | _ => d

/-- The account of a chain that issues: who issued, its energy and its lanes (R409, R411, R412). A chain with a decode trap does not issue. -/
def State.countIssue (s : State) (iss : Issue) (is : List Instr) : State :=
  let group := iss.slots.filterMap fun x => (s.thread? x.2).map fun t => (x.2, t)
  ((s.noteIssue iss.tile iss.part iss.slots).issueEnergy iss.tile iss.ctx group is).issueLanes iss.tile iss.part iss.ctx iss.first group is

/-- A chain given to the issue unit: its group taken up, its instructions to issue in order, or the trap found at its decoding (R57,
R60, R61). -/
def State.startChain (s : State) (iss : Issue) (ds : List Decoded) (raised : Option Raised) : State :=
  let s := iss.slots.foldl (fun s x => s.takeUp x.2) s
  let s := s.noteDrawn iss.tile iss.part iss.slots
  match raised with
  | some r => { s with issue := some { iss with raised := some r } }
  | none =>
    let items := chainItems ds
    let before : Map Thread := if items.length ≤ 1 then []
      else iss.slots.filterMap fun x => (s.thread? x.2).map fun t => (x.2, t)
    { s with issue := some { iss with todo := items, before := before, drawn := true } }

/-- A group whose packet has been fetched: a breakpoint, a watchpoint where nothing waits for its addresses, a decode trap, a wait and a
claimed BKPT are looked for, in that order, before the chain issues (R50, R61, R402 to R404). `again` is a chain that a stop has held. -/
def State.drawChain (s : State) (iss : Issue) (ds : List Decoded) (again : Bool) : State :=
  let b := s.block iss.tile iss.part
  let group := iss.slots.filterMap fun x => (s.thread? x.2).map fun t => (x.2, t)
  let fresh := if again then [] else group.filter fun x => !b.skip.contains (x.1, x.2.pc)
  let ds := if fresh.isEmpty && b.reason == 4 then ds.map Decoded.claimed else ds
  let last := ds.getLast?
  let iss : Issue := { iss with rpc := ((last.map fun d => d.pc + ((d.word.map lengthOf).getD 1)).getD iss.first) % 2 ^ 24 }
  match s.breakpointHit iss.tile iss.part (ds.map Decoded.pc) (fresh.map Prod.snd) with
  | some n => s.holdChain iss 2 n
  | none =>
    let is := ds.filterMap Decoded.instr
    let waits := s.groupWaits group is
    match if waits.isEmpty then s.watchHit iss.tile iss.part fresh is else none with
    | some n => s.holdChain iss 3 n
    | none =>
      match s.chainTrap iss ds with
      | some r => s.startChain iss ds (some r)
      | none =>
        if !waits.isEmpty then s.fileWaits iss.tile iss.part again waits
        else if b.claimsw && !s.port.locked && is.any fun i => i matches .bkpt _ then s.holdChain iss 4 0
        else s.startChain iss ds none

/-- A group whose packet cannot be fetched parks on its page, or takes a fatal trap (R55, R142, R324). -/
def State.drawFailed (s : State) (iss : Issue) (again : Bool) : Fetched → State
  | .parked f =>
    (s.fileWaits iss.tile iss.part again (iss.slots.map fun x => (x.2, .fault))) |> fun s =>
      iss.slots.foldl (fun s x => s.modThread x.2 fun t => { t with parked := some f }) s
  | .fatal va =>
    s.startChain iss [] (some { cause := .pgfatal, pc := iss.first, stamp := false, mask := iss.mask, dst := {}, decode := true
                                infos := iss.slots.map fun x => (x.1, BitVec.ofNat 64 va) })
  | .ecc pa => s.eccStop ((iss.slots.head?.map Prod.snd).getD 0) pa
  | .ok _ => s

/-- A group drawn: its packet fetched and its chain decoded, for the threads that see the same words as the first (R50, R55, R80). -/
def State.drawGroup (s : State) (tile part lead : Nat) (slots : List (Nat × Nat)) (again : Bool) : State :=
  match s.thread? lead with
  | none => s
  | some t =>
    let iss : Issue := { ctx := t.ctx, tile := tile, part := part, slots := slots, first := t.pc, rpc := t.pc
                         cur := { instr := .nop ⟨false⟩, pc := t.pc } }
    match s.fetchPacket tile t.ctx t.pc with
    | (.ok pas, s) =>
      let ds := s.chainAt t pas
      let s := s.acceptRead lead (pas.headD 0)
      let same := slots.filter fun x => (s.thread? x.2).any fun u => (u.stale.isEmpty && t.stale.isEmpty) || s.chainAt u pas == ds
      s.drawChain { iss with slots := same } ds again
    | (f, s) => s.drawFailed iss again f

/-- One draw of a partition: what has issued leaves for its unit, and, unless the partition is stopped or its clock is, a held chain
or the chosen source's group is drawn (R51, R148, R399, R404, R413). -/
def State.draw (s : State) (tile part : Nat) : State :=
  let here := s.threads.filter fun x => x.2.tile == tile && x.2.part == part && s.runs x.2.ctx
  let s := here.foldl (fun s x => s.dispatchThread x.1) s
  if s.isStopped tile part || (s.tile tile).power != .run then s
  else
    match (s.block tile part).held with
    | some iss =>
      let slots := iss.slots.filter fun x => (s.thread? x.2).any fun t => !t.ended
      match slots with
      | [] => s.setBlock tile part { s.block tile part with held := none }
      | x :: _ => if s.runs iss.ctx then s.drawGroup tile part x.2 slots true else s
    | none =>
      match s.chosenSource tile part with
      | none => s
      | some c =>
        match c.drawn with
        | [] => s
        | x :: xs => s.drawGroup tile part x.1 (s.slotsFor (x :: xs)) false

/-- SELECTOR_DRAW: a partition draws a group, and its chain begins to issue (R51). -/
def execSelectorDraw (tile part : Nat) (s : State) : Host.Outcome State Fault Refusal :=
  .next (if s.issue.isSome then s else s.draw tile part)

end Sys2Proof.Machine
end

