-- ==== Sys2Proof/Machine/IntArith.lean ====
section
/-! DEFINITION. Integer arithmetic, compares, predicates and selects of majors 0x04 to 0x0F and 0x1C to 0x1F
(spec/05_isa_core.md R83 to R90). -/
namespace Sys2Proof.Machine

/-- s(x): a 32-bit value read as a signed number (R85). -/
def s32 (x : Nat) : Int := (BitVec.ofNat 32 x).toInt

/-- The low 32 bits of an exact integer (R85). -/
def low32 (x : Int) : Nat := (BitVec.ofInt 32 x).toNat

/-- The value of an operand under the .U override or without it (R85). -/
def readInt (unsigned : Bool) (x : Nat) : Int := if unsigned then (x : Int) else s32 x

/-- The .U override (R69). -/
def Lane.unsigned (l : Lane) : Bool := l.et == 1

/-- n lanes of w bits each, combined independently, each wrapping (R85). -/
def packed (w : Nat) (f : Nat → Nat → Nat) : Nat → Nat → Nat → Nat
  | 0, _, _ => 0
  | n + 1, a, b => f (a % 2 ^ w) (b % 2 ^ w) % 2 ^ w + 2 ^ w * packed w f n (a / 2 ^ w) (b / 2 ^ w)

/-- An operation under no override, .I2 or .I4 (R85). -/
def byElements (et : Nat) (f : Nat → Nat → Nat → Nat) (a b : Nat) : Nat :=
  if et = 4 then packed 16 (f 16) 2 a b else if et = 5 then packed 8 (f 8) 4 a b else f 32 a b % 2 ^ 32

/-- A w-bit value read as signed. -/
def sw (w x : Nat) : Int := (BitVec.ofNat w x).toInt

/-- The lesser or greater of two w-bit values (R85). -/
def pickInt (greater unsigned : Bool) (w a b : Nat) : Nat :=
  let lt := if unsigned then decide (a < b) else decide (sw w a < sw w b)
  if lt == greater then b else a

/-- Bits 63:32 of a product (R85). -/
def mulHigh (unsigned : Bool) (a b : Nat) : Nat := low32 (readInt unsigned a * readInt unsigned b / 2 ^ 32)

/-- |a - b|, the difference exact (R85). -/
def absDiff (x y : Int) : Nat := (x - y).natAbs

/-- The sum of the byte differences of ISAD.I4 (R85). -/
def sadBytes : Nat → Nat → Nat → Nat
  | 0, _, _ => 0
  | n + 1, a, b => absDiff (a % 256 : Nat) (b % 256 : Nat) + sadBytes n (a / 256) (b / 256)

/-- The number of 1 bits among the low n. -/
def popcount : Nat → Nat → Nat
  | 0, _ => 0
  | n + 1, x => x % 2 + popcount n (x / 2)

/-- Leading zeros of an n-bit value. -/
def leadingZeros : Nat → Nat → Nat
  | 0, _ => 0
  | n + 1, x => if x / 2 ^ n % 2 = 1 then 0 else 1 + leadingZeros n x

/-- Trailing zeros of an n-bit value. -/
def trailingZeros : Nat → Nat → Nat
  | 0, _ => 0
  | n + 1, x => if x % 2 = 1 then 0 else 1 + trailingZeros n (x / 2)

/-- The low n bits in reverse order. -/
def reverseBits : Nat → Nat → Nat
  | 0, _ => 0
  | n + 1, x => x % 2 * 2 ^ n + reverseBits n (x / 2)

/-- ISHL: zero from a count of 32 (R85). -/
def shiftLeft (w a n : Nat) : Nat := if n ≥ w then 0 else a * 2 ^ n % 2 ^ w

/-- ISHR: zero from a count of 32 (R85). -/
def shiftRight (w a n : Nat) : Nat := if n ≥ w then 0 else a / 2 ^ n

/-- ISAR: the count limited to 31 (R85). -/
def shiftArith (a n : Nat) : Nat := low32 (s32 a / 2 ^ min n 31)

/-- IROL (R85). -/
def rotateLeft (a n : Nat) : Nat := (a * 2 ^ (n % 32) + a / 2 ^ (32 - n % 32)) % 2 ^ 32

/-- IBFX: the field at b[4:0] of width b[10:5], clipped at bit 31 (R85). -/
def bitField (a b : Nat) : Nat :=
  let p := b % 32
  let w := min (b / 32 % 64) (32 - p)
  a / 2 ^ p % 2 ^ w

/-- IDIV and IREM: quotient and remainder, with the corners of R86. -/
def divRem (unsigned : Bool) (a b : Nat) : Nat × Nat :=
  if b = 0 then (0xFFFFFFFF, a)
  else if !unsigned ∧ a = 0x80000000 ∧ b = 0xFFFFFFFF then (0x80000000, 0)
  else
    let q := (readInt unsigned a).tdiv (readInt unsigned b)
    (low32 q, low32 (readInt unsigned a - readInt unsigned b * q))

/-- The conditions of the integer compares (R81, R89). -/
def intCond (cond : Nat) (a b : Int) : Bool :=
  match cond with
  | 0 => a == b
  | 1 => a != b
  | 2 => decide (a < b)
  | 3 => decide (a ≤ b)
  | 4 => decide (a > b)
  | _ => decide (a ≥ b)

/-- IMM: SignExtend(imm10) (R87). -/
def imm10 (i : BitVec 10) : Int := i.toInt

/-- MOV carries the uninitialised state with the bits (R83). -/
def moved (x : Word) (uninit : Bool) : LaneOut := { words := [x], st := if uninit then .uninit else .full }

/-- IADD: a + b, by elements under .I2 and .I4 (R85). -/
def execIadd (f : A3Form) (s : State) : Host.Outcome State Fault Refusal :=
  s.run (.iadd f) fun l => .one (byElements l.et (fun _ a b => a + b) l.a l.b)

/-- ISUB: a - b, by elements under .I2 and .I4 (R85). -/
def execIsub (f : A3Form) (s : State) : Host.Outcome State Fault Refusal :=
  s.run (.isub f) fun l => .one (byElements l.et (fun w a b => a + (2 ^ w - b)) l.a l.b)

/-- IMUL: the low half of a × b (R85). -/
def execImul (f : A3Form) (s : State) : Host.Outcome State Fault Refusal :=
  s.run (.imul f) fun l => .one (l.a * l.b)

/-- IMULH: the high half of the signed or unsigned product (R85). -/
def execImulh (f : A3Form) (s : State) : Host.Outcome State Fault Refusal :=
  s.run (.imulh f) fun l => .one (mulHigh l.unsigned l.a l.b)

/-- IMIN (R85). -/
def execImin (f : A3Form) (s : State) : Host.Outcome State Fault Refusal :=
  s.run (.imin f) fun l => .one (byElements l.et (fun w a b => pickInt false l.unsigned w a b) l.a l.b)

/-- IMAX (R85). -/
def execImax (f : A3Form) (s : State) : Host.Outcome State Fault Refusal :=
  s.run (.imax f) fun l => .one (byElements l.et (fun w a b => pickInt true l.unsigned w a b) l.a l.b)

/-- IABS: the most negative value is its own result (R85). -/
def execIabs (f : A2Form) (s : State) : Host.Outcome State Fault Refusal :=
  s.run (.iabs f) fun l => .one (low32 (s32 l.a).natAbs)

/-- INEG: 0 - a (R85). -/
def execIneg (f : A2Form) (s : State) : Host.Outcome State Fault Refusal :=
  s.run (.ineg f) fun l => .one (2 ^ 32 - l.a)

/-- IAND (R85). -/
def execIand (f : A3Form) (s : State) : Host.Outcome State Fault Refusal :=
  s.run (.iand f) fun l => .one (l.a &&& l.b)

/-- IOR (R85). -/
def execIor (f : A3Form) (s : State) : Host.Outcome State Fault Refusal :=
  s.run (.ior f) fun l => .one (l.a ||| l.b)

/-- IXOR (R85). -/
def execIxor (f : A3Form) (s : State) : Host.Outcome State Fault Refusal :=
  s.run (.ixor f) fun l => .one (l.a ^^^ l.b)

/-- IANDN: a AND NOT b (R85). -/
def execIandn (f : A3Form) (s : State) : Host.Outcome State Fault Refusal :=
  s.run (.iandn f) fun l => .one (l.a &&& (2 ^ 32 - 1 - l.b))

/-- ISHL by b[7:0] (R85). -/
def execIshl (f : A3Form) (s : State) : Host.Outcome State Fault Refusal :=
  s.run (.ishl f) fun l => .one (shiftLeft 32 l.a (l.b % 256))

/-- ISHR by b[7:0] (R85). -/
def execIshr (f : A3Form) (s : State) : Host.Outcome State Fault Refusal :=
  s.run (.ishr f) fun l => .one (shiftRight 32 l.a (l.b % 256))

/-- ISAR by b[7:0] (R85). -/
def execIsar (f : A3Form) (s : State) : Host.Outcome State Fault Refusal :=
  s.run (.isar f) fun l => .one (shiftArith l.a (l.b % 256))

/-- IROL by b[4:0] (R85). -/
def execIrol (f : A3Form) (s : State) : Host.Outcome State Fault Refusal :=
  s.run (.irol f) fun l => .one (rotateLeft l.a l.b)

/-- IMAD: a × b + c (R85). -/
def execImad (f : A3Form) (s : State) : Host.Outcome State Fault Refusal :=
  s.run (.imad f) fun l => .one (l.a * l.b + l.c)

/-- IMADH: the high half of the product plus c (R85). -/
def execImadh (f : A3Form) (s : State) : Host.Outcome State Fault Refusal :=
  s.run (.imadh f) fun l => .one (mulHigh l.unsigned l.a l.b + l.c)

/-- ISAD: the absolute difference plus c; the byte sum under .I4 (R85). -/
def execIsad (f : A3Form) (s : State) : Host.Outcome State Fault Refusal :=
  s.run (.isad f) fun l => .one ((if l.et = 5 then sadBytes 4 l.a l.b
    else absDiff (readInt l.unsigned l.a) (readInt l.unsigned l.b)) + l.c)

/-- IPOPC (R85). -/
def execIpopc (f : A2Form) (s : State) : Host.Outcome State Fault Refusal :=
  s.run (.ipopc f) fun l => .one (popcount 32 l.a)

/-- ICLZ (R85). -/
def execIclz (f : A2Form) (s : State) : Host.Outcome State Fault Refusal :=
  s.run (.iclz f) fun l => .one (leadingZeros 32 l.a)

/-- ICTZ (R85). -/
def execIctz (f : A2Form) (s : State) : Host.Outcome State Fault Refusal :=
  s.run (.ictz f) fun l => .one (trailingZeros 32 l.a)

/-- IBREV (R85). -/
def execIbrev (f : A2Form) (s : State) : Host.Outcome State Fault Refusal :=
  s.run (.ibrev f) fun l => .one (reverseBits 32 l.a)

/-- IBFX (R85). -/
def execIbfx (f : A3Form) (s : State) : Host.Outcome State Fault Refusal :=
  s.run (.ibfx f) fun l => .one (bitField l.a l.b)

/-- IDIV (R86). -/
def execIdiv (f : A3Form) (s : State) : Host.Outcome State Fault Refusal :=
  s.run (.idiv f) fun l => .one (divRem l.unsigned l.a l.b).1

/-- IREM (R86). -/
def execIrem (f : A3Form) (s : State) : Host.Outcome State Fault Refusal :=
  s.run (.irem f) fun l => .one (divRem l.unsigned l.a l.b).2

/-- MOV between registers: bits and the uninitialised state (R83, R85). -/
def execMov (f : A2Form) (s : State) : Host.Outcome State Fault Refusal :=
  s.run (.mov f) fun l => moved (BitVec.ofNat 32 l.a) (Opnd.uninit l.cap.a)

/-- IADD64 on pairs (R88). -/
def execIadd64 (f : A3Form) (s : State) : Host.Outcome State Fault Refusal :=
  s.run (.iadd64 f) fun l => .pair (Opnd.dword l.cap.a + Opnd.dword l.cap.b)

/-- ISUB64 on pairs (R88). -/
def execIsub64 (f : A3Form) (s : State) : Host.Outcome State Fault Refusal :=
  s.run (.isub64 f) fun l => .pair (Opnd.dword l.cap.a + (2 ^ 64 - Opnd.dword l.cap.b))

/-- ISHL64 by b[7:0] (R88). -/
def execIshl64 (f : A3Form) (s : State) : Host.Outcome State Fault Refusal :=
  s.run (.ishl64 f) fun l => .pair (shiftLeft 64 (Opnd.dword l.cap.a) (l.b % 256))

/-- ISHR64 by b[7:0], logical (R88). -/
def execIshr64 (f : A3Form) (s : State) : Host.Outcome State Fault Refusal :=
  s.run (.ishr64 f) fun l => .pair (shiftRight 64 (Opnd.dword l.cap.a) (l.b % 256))

/-- IADDI (R87). -/
def execIaddi (f : I10Form) (s : State) : Host.Outcome State Fault Refusal :=
  s.run (.iaddi f) fun l => .one (low32 ((l.a : Int) + imm10 f.i))

/-- IMULI (R87). -/
def execImuli (f : I10Form) (s : State) : Host.Outcome State Fault Refusal :=
  s.run (.imuli f) fun l => .one (low32 ((l.a : Int) * imm10 f.i))

/-- IANDI (R87). -/
def execIandi (f : I8Form) (s : State) : Host.Outcome State Fault Refusal :=
  s.run (.iandi f) fun l => .one (l.a &&& f.i.toNat)

/-- IORI (R87). -/
def execIori (f : I8Form) (s : State) : Host.Outcome State Fault Refusal :=
  s.run (.iori f) fun l => .one (l.a ||| f.i.toNat)

/-- IXORI (R87). -/
def execIxori (f : I8Form) (s : State) : Host.Outcome State Fault Refusal :=
  s.run (.ixori f) fun l => .one (l.a ^^^ f.i.toNat)

/-- ISHLI (R87). -/
def execIshli (f : I5Form) (s : State) : Host.Outcome State Fault Refusal :=
  s.run (.ishli f) fun l => .one (shiftLeft 32 l.a f.n.toNat)

/-- ISHRI (R87). -/
def execIshri (f : I5Form) (s : State) : Host.Outcome State Fault Refusal :=
  s.run (.ishri f) fun l => .one (shiftRight 32 l.a f.n.toNat)

/-- ISARI (R87). -/
def execIsari (f : I5Form) (s : State) : Host.Outcome State Fault Refusal :=
  s.run (.isari f) fun l => .one (shiftArith l.a f.n.toNat)

/-- IROLI (R87). -/
def execIroli (f : I5Form) (s : State) : Host.Outcome State Fault Refusal :=
  s.run (.iroli f) fun l => .one (rotateLeft l.a f.n.toNat)

/-- ICMP (R89). -/
def execIcmp (f : CmpForm) (s : State) : Host.Outcome State Fault Refusal :=
  s.run (.icmp f) fun l => .pred (intCond f.n.toNat (readInt l.unsigned l.a) (readInt l.unsigned l.b))

/-- ICMPI: b is SignExtend(imm10), read as unsigned under .U (R89). -/
def execIcmpi (f : CmpIForm) (s : State) : Host.Outcome State Fault Refusal :=
  s.run (.icmpi f) fun l => .pred (intCond f.n.toNat (readInt l.unsigned l.a)
    (readInt l.unsigned (low32 (imm10 f.i))))

/-- A floating-point compare of a format: the outcome and its conditions (R89). -/
def cmpOut (F : Fmt) (cond a b : Nat) : LaneOut :=
  let r := F.cmp cond a b
  { LaneOut.pred r.1 with conds := r.2 }

/-- FCMP (R89). -/
def execFcmp (f : CmpForm) (s : State) : Host.Outcome State Fault Refusal :=
  s.run (.fcmp f) fun l => cmpOut .fp32 f.n.toNat l.a l.b

/-- HCMP on the low elements, FP16 or BF16 (R89). -/
def execHcmp (f : CmpForm) (s : State) : Host.Outcome State Fault Refusal :=
  s.run (.hcmp f) fun l => cmpOut (if l.et = 3 then .bf16 else .fp16) f.n.toNat (l.a % 65536) (l.b % 65536)

/-- DCMP on pairs (R89). -/
def execDcmp (f : CmpForm) (s : State) : Host.Outcome State Fault Refusal :=
  s.run (.dcmp f) fun l => cmpOut .fp64 f.n.toNat (Opnd.dword l.cap.a) (Opnd.dword l.cap.b)

/-- A predicate operand's value. -/
def Lane.ka (l : Lane) : Bool := l.a != 0
def Lane.kb (l : Lane) : Bool := l.b != 0

/-- PAND (R90). -/
def execPand (f : P3Form) (s : State) : Host.Outcome State Fault Refusal :=
  s.run (.pand f) fun l => .pred (l.ka && l.kb)

/-- POR (R90). -/
def execPor (f : P3Form) (s : State) : Host.Outcome State Fault Refusal :=
  s.run (.por f) fun l => .pred (l.ka || l.kb)

/-- PXOR (R90). -/
def execPxor (f : P3Form) (s : State) : Host.Outcome State Fault Refusal :=
  s.run (.pxor f) fun l => .pred (l.ka != l.kb)

/-- PANDN: ka AND NOT kb (R90). -/
def execPandn (f : P3Form) (s : State) : Host.Outcome State Fault Refusal :=
  s.run (.pandn f) fun l => .pred (l.ka && !l.kb)

/-- SEL: kc ? a : b (R90). -/
def execSel (f : A3Form) (s : State) : Host.Outcome State Fault Refusal :=
  s.run (.sel f) fun l => .one (if l.c ≠ 0 then l.a else l.b)

/-- KTOV (R90). -/
def execKtov (f : KtovForm) (s : State) : Host.Outcome State Fault Refusal :=
  s.run (.ktov f) fun l => .one (if l.ka then 1 else 0)

/-- VTOK (R90). -/
def execVtok (f : VtokForm) (s : State) : Host.Outcome State Fault Refusal :=
  s.run (.vtok f) fun l => .pred (l.a != 0)

end Sys2Proof.Machine
end

