-- ==== Sys2Proof/Machine/VecArith.lean ====
section
/-! DEFINITION. Floating-point arithmetic, conversions, FTAB and RAND of majors 0x10 to 0x1B (spec/06_isa_vector.md R123 to R139). -/
namespace Sys2Proof.Machine

/-- The elements of R128: FP16 under no override or .H2, BF16 under .B2. -/
def halfFmt (et : Nat) : Fmt := if et = 3 then .bf16 else .fp16

/-- Two 16-bit elements taken independently, their conditions united (R128). -/
def byHalves (f : Nat → Nat → Nat → Nat × Conds) (a b c : Nat) : Nat × Conds :=
  let lo := f (a % 2 ^ 16) (b % 2 ^ 16) (c % 2 ^ 16)
  let hi := f (a / 2 ^ 16) (b / 2 ^ 16) (c / 2 ^ 16)
  (lo.1 + 2 ^ 16 * hi.1, lo.2.union hi.2)

/-- The 64-bit operands of a lane (R129). -/
def Lane.aa (l : Lane) : Nat := Opnd.dword l.cap.a
def Lane.bb (l : Lane) : Nat := Opnd.dword l.cap.b
def Lane.cc (l : Lane) : Nat := Opnd.dword l.cap.c

/-- a with its sign taken from b (R123). -/
def copySign (a b : Nat) : Nat := a % 2 ^ 31 + b / 2 ^ 31 * 2 ^ 31

/-- A conversion's result extended to its registers (R130): a narrow integer to 32 bits, a narrow float with zeros. -/
def extendTo (c : ConvFmt) (x : Nat) : Nat :=
  match c with
  | .int w true => if w < 32 ∧ x ≥ 2 ^ (w - 1) then 2 ^ 32 - 2 ^ w + x else x
  | _ => x

/-- CVT and CVTS (R130 to R133). -/
def convertLane (f : CvtForm) (saturate : Bool) (l : Lane) : LaneOut :=
  let dst := ConvFmt.ofCode (cvtDst f).toNat
  let r := convert (ConvFmt.ofCode (cvtSrc f).toNat) dst saturate l.mode l.aa
  if fmt64 (cvtDst f) then .fp64 r else .fp (extendTo dst r.1, r.2)

/-- UNPACK: element i of a, extended by its format's name (R134). -/
def unpackLane (f : PackForm) (a : Nat) : Nat :=
  let w := packWidth f.t
  extendTo (.int w (f.t == 10 || f.t == 12 || f.t == 14)) (a / 2 ^ (w * f.i.toNat) % 2 ^ w)

/-- PACK: element i of d replaced by the low bits of a (R134). -/
def packLane (f : PackForm) (d a : Nat) : Nat :=
  let w := packWidth f.t
  let sh := w * f.i.toNat
  d % 2 ^ sh + a % 2 ^ w * 2 ^ sh + d / 2 ^ (sh + w) * 2 ^ (sh + w)

/-- FTAB over one bank (R137). -/
def ftabEval (h : FtBank) (mode : RMode) (a : Nat) : Nat × Conds :=
  if h.n = 0 then Fmt.fp32.invalid
  else
    let dx := Fmt.fp32.sub .rne a h.xorg.toNat
    let p := Fmt.fp32.mul .rne dx.1 h.inv.toNat
    let c := dx.2.union p.2
    if fIsNaN p.1 then (p.1, c)
    else
      let n := h.n.toNat
      let below := fLt p.1 0
      let above := fGe p.1 (fOfNat n)
      let i := if below then 0 else if above then n - 1 else (fFloor p.1).toNat
      let u := if below then 0 else if above then fOne else fSub p.1 (fOfNat i)
      let e := Map.getD h.entries i (0, 0)
      let d := Fmt.fp32.fma mode e.2.toNat u e.1.toNat
      (d.1, c.union d.2)

/-- The bank of a function table that a thread has active (R135). -/
def State.ftBank (s : State) (t : Thread) (table : Nat) : FtBank :=
  ((s.ctx? t.ctx).bind fun c => Map.get? c.ftabs (table * 2 + if t.ftActive.getLsbD table then 1 else 0)).getD {}

/-- FADD (R123). -/
def execFadd (f : A3Form) (s : State) : Host.Outcome State Fault Refusal :=
  s.run (.fadd f) fun l => .fp (Fmt.fp32.add l.mode l.a l.b)

/-- FSUB (R123). -/
def execFsub (f : A3Form) (s : State) : Host.Outcome State Fault Refusal :=
  s.run (.fsub f) fun l => .fp (Fmt.fp32.sub l.mode l.a l.b)

/-- FMUL (R123). -/
def execFmul (f : A3Form) (s : State) : Host.Outcome State Fault Refusal :=
  s.run (.fmul f) fun l => .fp (Fmt.fp32.mul l.mode l.a l.b)

/-- FFMA: one rounding (R123). -/
def execFfma (f : A3Form) (s : State) : Host.Outcome State Fault Refusal :=
  s.run (.ffma f) fun l => .fp (Fmt.fp32.fma l.mode l.a l.b l.c)

/-- FMIN (R124). -/
def execFmin (f : A3Form) (s : State) : Host.Outcome State Fault Refusal :=
  s.run (.fmin f) fun l => .fp (Fmt.fp32.minMax false l.a l.b)

/-- FMAX (R124). -/
def execFmax (f : A3Form) (s : State) : Host.Outcome State Fault Refusal :=
  s.run (.fmax f) fun l => .fp (Fmt.fp32.minMax true l.a l.b)

/-- FABS: bit 31 cleared (R123). -/
def execFabs (f : A2Form) (s : State) : Host.Outcome State Fault Refusal :=
  s.run (.fabs f) fun l => .one (l.a % 2 ^ 31)

/-- FNEG: bit 31 inverted (R123). -/
def execFneg (f : A2Form) (s : State) : Host.Outcome State Fault Refusal :=
  s.run (.fneg f) fun l => .one (Fmt.fp32.flip l.a)

/-- FDIV (R126, R127). -/
def execFdiv (f : A3Form) (s : State) : Host.Outcome State Fault Refusal :=
  s.run (.fdiv f) fun l => .fp (Fmt.fp32.div l.mode l.a l.b)

/-- FSQRT (R126, R127). -/
def execFsqrt (f : A2Form) (s : State) : Host.Outcome State Fault Refusal :=
  s.run (.fsqrt f) fun l => .fp (Fmt.fp32.sqrt l.mode l.a)

/-- FRCP (R126, R127). -/
def execFrcp (f : A2Form) (s : State) : Host.Outcome State Fault Refusal :=
  s.run (.frcp f) fun l => .fp (Fmt.fp32.rcp l.mode l.a)

/-- FRSQ (R126, R127). -/
def execFrsq (f : A2Form) (s : State) : Host.Outcome State Fault Refusal :=
  s.run (.frsq f) fun l => .fp (Fmt.fp32.rsqrt l.mode l.a)

/-- FFLOOR (R123). -/
def execFfloor (f : A2Form) (s : State) : Host.Outcome State Fault Refusal :=
  s.run (.ffloor f) fun l => .fp (Fmt.fp32.integral .rdn false l.a)

/-- FCEIL (R123). -/
def execFceil (f : A2Form) (s : State) : Host.Outcome State Fault Refusal :=
  s.run (.fceil f) fun l => .fp (Fmt.fp32.integral .rup false l.a)

/-- FTRUNC (R123). -/
def execFtrunc (f : A2Form) (s : State) : Host.Outcome State Fault Refusal :=
  s.run (.ftrunc f) fun l => .fp (Fmt.fp32.integral .rtz false l.a)

/-- FRINT: by the mode, with NX (R123). -/
def execFrint (f : A2Form) (s : State) : Host.Outcome State Fault Refusal :=
  s.run (.frint f) fun l => .fp (Fmt.fp32.integral l.mode true l.a)

/-- FCLASS: the class, and bit 10 for an uninitialised register (R125). -/
def execFclass (f : A2Form) (s : State) : Host.Outcome State Fault Refusal :=
  s.run (.fclass f) fun l => .one (Fmt.fp32.classBits l.a + if Opnd.uninit l.cap.a then 2 ^ 10 else 0)

/-- FCOPYS (R123). -/
def execFcopys (f : A3Form) (s : State) : Host.Outcome State Fault Refusal :=
  s.run (.fcopys f) fun l => .one (copySign l.a l.b)

/-- FSCALE: a × 2^s(b) (R123). -/
def execFscale (f : A3Form) (s : State) : Host.Outcome State Fault Refusal :=
  s.run (.fscale f) fun l => .fp (Fmt.fp32.scale l.mode l.a (s32 l.b))

/-- FFRAC (R123). -/
def execFfrac (f : A2Form) (s : State) : Host.Outcome State Fault Refusal :=
  s.run (.ffrac f) fun l => .fp (Fmt.fp32.frac l.mode l.a)

/-- FTAB: the thread's active bank evaluated (R137). -/
def execFtab (f : FtabForm) (s : State) : Host.Outcome State Fault Refusal :=
  s.run (.ftab f) fun l => .fp (ftabEval (s.ftBank l.th f.t.toNat) l.mode l.a)

/-- RAND (R139). -/
def execRand (f : A3Form) (s : State) : Host.Outcome State Fault Refusal :=
  s.run (.rand f) fun l => .one (randMix (BitVec.ofNat 32 l.a) (BitVec.ofNat 32 l.b)).toNat

/-- HADD (R128). -/
def execHadd (f : A3Form) (s : State) : Host.Outcome State Fault Refusal :=
  s.run (.hadd f) fun l => .fp (byHalves (fun a b _ => (halfFmt l.et).add l.mode a b) l.a l.b 0)

/-- HSUB (R128). -/
def execHsub (f : A3Form) (s : State) : Host.Outcome State Fault Refusal :=
  s.run (.hsub f) fun l => .fp (byHalves (fun a b _ => (halfFmt l.et).sub l.mode a b) l.a l.b 0)

/-- HMUL (R128). -/
def execHmul (f : A3Form) (s : State) : Host.Outcome State Fault Refusal :=
  s.run (.hmul f) fun l => .fp (byHalves (fun a b _ => (halfFmt l.et).mul l.mode a b) l.a l.b 0)

/-- HFMA (R128). -/
def execHfma (f : A3Form) (s : State) : Host.Outcome State Fault Refusal :=
  s.run (.hfma f) fun l => .fp (byHalves (fun a b c => (halfFmt l.et).fma l.mode a b c) l.a l.b l.c)

/-- DADD on pairs (R129). -/
def execDadd (f : A3Form) (s : State) : Host.Outcome State Fault Refusal :=
  s.run (.dadd f) fun l => .fp64 (Fmt.fp64.add l.mode l.aa l.bb)

/-- DSUB on pairs (R129). -/
def execDsub (f : A3Form) (s : State) : Host.Outcome State Fault Refusal :=
  s.run (.dsub f) fun l => .fp64 (Fmt.fp64.sub l.mode l.aa l.bb)

/-- DMUL on pairs (R129). -/
def execDmul (f : A3Form) (s : State) : Host.Outcome State Fault Refusal :=
  s.run (.dmul f) fun l => .fp64 (Fmt.fp64.mul l.mode l.aa l.bb)

/-- DFMA on pairs (R129). -/
def execDfma (f : A3Form) (s : State) : Host.Outcome State Fault Refusal :=
  s.run (.dfma f) fun l => .fp64 (Fmt.fp64.fma l.mode l.aa l.bb l.cc)

/-- CVT (R132). -/
def execCvt (f : CvtForm) (s : State) : Host.Outcome State Fault Refusal :=
  s.run (.cvt f) fun l => convertLane f false l

/-- CVTS: saturating (R132). -/
def execCvts (f : CvtForm) (s : State) : Host.Outcome State Fault Refusal :=
  s.run (.cvts f) fun l => convertLane f true l

/-- PACK (R134). -/
def execPack (f : PackForm) (s : State) : Host.Outcome State Fault Refusal :=
  s.run (.pack f) fun l => .one (packLane f l.d l.a)

/-- UNPACK (R134). -/
def execUnpack (f : PackForm) (s : State) : Host.Outcome State Fault Refusal :=
  s.run (.unpack f) fun l => .one (unpackLane f l.a)

/-- FEXP2 (R126, R127). -/
def execFexp2 (f : A2Form) (s : State) : Host.Outcome State Fault Refusal :=
  s.run (.fexp2 f) fun l => .fp (Fmt.fp32.exp2 l.mode l.a)

/-- FLOG2 (R126, R127). -/
def execFlog2 (f : A2Form) (s : State) : Host.Outcome State Fault Refusal :=
  s.run (.flog2 f) fun l => .fp (Fmt.fp32.log2 l.mode l.a)

/-- FSIN, radians (R126, R127). -/
def execFsin (f : A2Form) (s : State) : Host.Outcome State Fault Refusal :=
  s.run (.fsin f) fun l => .fp (Fmt.fp32.trig false l.mode l.a)

/-- FCOS, radians (R126, R127). -/
def execFcos (f : A2Form) (s : State) : Host.Outcome State Fault Refusal :=
  s.run (.fcos f) fun l => .fp (Fmt.fp32.trig true l.mode l.a)

end Sys2Proof.Machine
end

