-- ==== Sys2Proof/Machine/Spectral.lean ====
section
/-! DEFINITION. Spectral arithmetic of majors 0x2C to 0x31 (spec/09_isa_spectral.md R162 to R173). -/
namespace Sys2Proof.Machine

/-- The lanes of the operands of a lane. -/
def Lane.as (l : Lane) : List Nat := Opnd.nums l.cap.a
def Lane.bs (l : Lane) : List Nat := Opnd.nums l.cap.b
def Lane.cs (l : Lane) : List Nat := Opnd.nums l.cap.c
def Lane.ds (l : Lane) : List Nat := Opnd.nums l.cap.d

/-- Results of several lanes as the words of the destination, their conditions united (R164). -/
def LaneOut.ofLanes (rs : List (Nat × Conds)) : LaneOut :=
  .words' (rs.map Prod.fst) (rs.foldl (fun c r => c.union r.2) {})

/-- The four lanes of a w register computed from two operands (R165). -/
def lanes2 (f : Nat → Nat → Nat × Conds) (a b : List Nat) : LaneOut :=
  .ofLanes ((List.range 4).map fun i => f (a.getD i 0) (b.getD i 0))

/-- SHSUM: the exact sum of the four lanes rounded once (R166). -/
def horizontalSum (mode : RMode) (a : List Nat) : Nat × Conds := Fmt.fp32.sumRound mode (a.map Fmt.fp32.val)

/-- Bits copied, with the uninitialised state of what was read (R167). -/
def moves (ws : List Nat) (uninit : Bool) : LaneOut :=
  { words := ws.map (BitVec.ofNat 32), st := if uninit then .uninit else .full }

/-- SINS: one lane replaced (R167). -/
def insertLane (d : List Nat) (i x : Nat) : List Nat := (List.range 4).map fun j => if j = i then x else d.getD j 0

/-- SSEL: bit i of c chooses (R167). -/
def selectLanes (a b : List Nat) (c : Nat) : List Nat :=
  (List.range 4).map fun i => if c / 2 ^ i % 2 = 1 then a.getD i 0 else b.getD i 0

/-- SCMP: the mask of lanes whose compare holds (R168). -/
def compareLanes (cond : Nat) (a b : List Nat) : Nat × Conds :=
  (List.range 4).foldl (fun (r : Nat × Conds) i =>
    let x := Fmt.fp32.cmp cond (a.getD i 0) (b.getD i 0)
    (r.1 + if x.1 then 2 ^ i else 0, r.2.union x.2)) (0, {})

/-- The narrow format of SCVT (R169). -/
def scvtFmt (f : BitVec 2) : ConvFmt := ConvFmt.ofCode (f.toNat + 2)

/-- The elements packed from the low end, w bits each. -/
def packLanes (w : Nat) : List Nat → Nat
  | [] => 0
  | x :: xs => x + 2 ^ w * packLanes w xs

/-- SCVT narrowing (R169). -/
def narrowLanes (f : ScvtNForm) (mode : RMode) (a : List Nat) : LaneOut :=
  let F := scvtFmt f.f
  let rs := (List.range 4).map fun i => convert (.flt .fp32) F (f.t == 1) mode (a.getD i 0)
  let x := packLanes F.width (rs.map Prod.fst)
  .words' (if F.width = 16 then [x % 2 ^ 32, x / 2 ^ 32] else [x]) (rs.foldl (fun c r => c.union r.2) {})

/-- SCVT widening (R169). -/
def widenLanes (f : ScvtWForm) (x : Nat) : LaneOut :=
  let F := scvtFmt f.f
  .ofLanes ((List.range 4).map fun i => convert F (.flt .fp32) false .rne (x / 2 ^ (F.width * i) % 2 ^ F.width))

/-- A constant of a thread's launch (R35). -/
def State.constant (s : State) (t : Thread) (n : Nat) : Word :=
  match Map.get? s.launches t.launch with
  | none => 0
  | some l => Map.getD l.consts n 0

/-- The lanes of a group of four registers (R171). -/
def groupOf (ws : List Nat) : List (List Nat) := (List.range 4).map fun r => (ws.drop (4 * r)).take 4

/-- A group written in register order. -/
def LaneOut.group (r : List (List Nat) × Conds) : LaneOut := .words' r.1.flatten r.2

/-- SADD (R165). -/
def execSadd (f : S3Form) (s : State) : Host.Outcome State Fault Refusal :=
  s.run (.sadd f) fun l => lanes2 (Fmt.fp32.add l.mode) l.as l.bs

/-- SSUB (R165). -/
def execSsub (f : S3Form) (s : State) : Host.Outcome State Fault Refusal :=
  s.run (.ssub f) fun l => lanes2 (Fmt.fp32.sub l.mode) l.as l.bs

/-- SMUL (R165). -/
def execSmul (f : S3Form) (s : State) : Host.Outcome State Fault Refusal :=
  s.run (.smul f) fun l => lanes2 (Fmt.fp32.mul l.mode) l.as l.bs

/-- SFMA (R165). -/
def execSfma (f : S3Form) (s : State) : Host.Outcome State Fault Refusal :=
  s.run (.sfma f) fun l => .ofLanes ((List.range 4).map fun i =>
    Fmt.fp32.fma l.mode (l.as.getD i 0) (l.bs.getD i 0) (l.cs.getD i 0))

/-- SMIN (R165). -/
def execSmin (f : S3Form) (s : State) : Host.Outcome State Fault Refusal :=
  s.run (.smin f) fun l => lanes2 (Fmt.fp32.minMax false) l.as l.bs

/-- SMAX (R165). -/
def execSmax (f : S3Form) (s : State) : Host.Outcome State Fault Refusal :=
  s.run (.smax f) fun l => lanes2 (Fmt.fp32.minMax true) l.as l.bs

/-- SDIV (R165). -/
def execSdiv (f : S3Form) (s : State) : Host.Outcome State Fault Refusal :=
  s.run (.sdiv f) fun l => lanes2 (Fmt.fp32.div l.mode) l.as l.bs

/-- SSQRT (R165). -/
def execSsqrt (f : S2Form) (s : State) : Host.Outcome State Fault Refusal :=
  s.run (.ssqrt f) fun l => lanes2 (fun a _ => Fmt.fp32.sqrt l.mode a) l.as []

/-- SEXP: correctly rounded (R165). -/
def execSexp (f : S2Form) (s : State) : Host.Outcome State Fault Refusal :=
  s.run (.sexp f) fun l => lanes2 (fun a _ => Fmt.fp32.exp l.mode a) l.as []

/-- SHSUM (R166). -/
def execShsum (f : SToVForm) (s : State) : Host.Outcome State Fault Refusal :=
  s.run (.shsum f) fun l => .fp (horizontalSum l.mode l.as)

/-- SDOT: exact products, one rounding (R166). -/
def execSdot (f : SdotForm) (s : State) : Host.Outcome State Fault Refusal :=
  s.run (.sdot f) fun l => .fp (sumProd l.mode (l.as.zip l.bs))

/-- SBCAST (R167). -/
def execSbcast (f : VToSForm) (s : State) : Host.Outcome State Fault Refusal :=
  s.run (.sbcast f) fun l => moves (List.replicate 4 l.a) (Opnd.uninit l.cap.a)

/-- SLANE (R167). -/
def execSlane (f : SlaneForm) (s : State) : Host.Outcome State Fault Refusal :=
  s.run (.slane f) fun l => moves [l.as.getD f.i.toNat 0] (Opnd.uninit l.cap.a)

/-- SINS (R167). -/
def execSins (f : SinsForm) (s : State) : Host.Outcome State Fault Refusal :=
  s.run (.sins f) fun l => moves (insertLane l.ds f.i.toNat l.a) (Opnd.uninit l.cap.a || Opnd.uninit l.cap.d)

/-- SCMP (R168). -/
def execScmp (f : ScmpForm) (s : State) : Host.Outcome State Fault Refusal :=
  s.run (.scmp f) fun l => .fp (compareLanes f.n.toNat l.as l.bs)

/-- SSEL (R167). -/
def execSsel (f : S3Form) (s : State) : Host.Outcome State Fault Refusal :=
  s.run (.ssel f) fun l => moves (selectLanes l.as l.bs l.c)
    (Opnd.uninit l.cap.a || Opnd.uninit l.cap.b || Opnd.uninit l.cap.c)

/-- SCVT, narrowing (R169). -/
def execScvtNarrow (f : ScvtNForm) (s : State) : Host.Outcome State Fault Refusal :=
  s.run (.scvtNarrow f) fun l => narrowLanes f l.mode l.as

/-- SCVT, widening (R169). -/
def execScvtWiden (f : ScvtWForm) (s : State) : Host.Outcome State Fault Refusal :=
  s.run (.scvtWiden f) fun l => widenLanes f l.aa

/-- SWLS: four wavelengths from u and the band cN, cN+1 (R170). -/
def execSwls (f : SwlsForm) (s : State) : Host.Outcome State Fault Refusal :=
  s.run (.swls f) fun l =>
    let r := swlsLanes l.mode l.a (s.constant l.th f.n.toNat).toNat (s.constant l.th (f.n.toNat + 1)).toNat
    .words' r.1 r.2

/-- SPOL (R171). -/
def execSpol (f : S3Form) (s : State) : Host.Outcome State Fault Refusal :=
  s.run (.spol f) fun l => .group (spolRegs l.mode (groupOf l.as) (groupOf l.bs))

/-- SFRES: the coefficients of each lane, by register (R172). -/
def execSfres (f : SfresForm) (s : State) : Host.Outcome State Fault Refusal :=
  s.run (.sfres f) fun l =>
    let rs := (List.range 4).map fun i => sfresLane l.mode l.a (l.bs.getD i 0)
    .words' ((List.range 4).flatMap fun r => rs.map fun x => x.1.getD r 0) (rs.foldl (fun c x => c.union x.2) {})

/-- SMDIEL (R173). -/
def execSmdiel (f : S3Form) (s : State) : Host.Outcome State Fault Refusal :=
  s.run (.smdiel f) fun l => .group (smdielRegs l.mode (groupOf l.as) (groupOf l.bs))

end Sys2Proof.Machine
end

