-- ==== Sys2Proof/Machine/Dispatch.lean ====
section
/-! DEFINITION. One arm per instruction and event: the call of its meaning. -/
namespace Sys2Proof.Machine

/-- What an instruction or event does to the machine. -/
def exec (i : Instr) (s : State) : Host.Outcome State Fault Refusal :=
  match i with
  | .nop f => Sys2Proof.Machine.execNop f s
  | .exit f => Sys2Proof.Machine.execExit f s
  | .yield f => Sys2Proof.Machine.execYield f s
  | .rte f => Sys2Proof.Machine.execRte f s
  | .rtePc f => Sys2Proof.Machine.execRtePc f s
  | .tfill f => Sys2Proof.Machine.execTfill f s
  | .rqcount f => Sys2Proof.Machine.execRqcount f s
  | .rqread f => Sys2Proof.Machine.execRqread f s
  | .rqwrite f => Sys2Proof.Machine.execRqwrite f s
  | .rqdrop f => Sys2Proof.Machine.execRqdrop f s
  | .dield f => Sys2Proof.Machine.execDield f s
  | .diebank f => Sys2Proof.Machine.execDiebank f s
  | .syncDie f => Sys2Proof.Machine.execSyncDie f s
  | .launch f => Sys2Proof.Machine.execLaunch f s
  | .trap f => Sys2Proof.Machine.execTrap f s
  | .bkpt f => Sys2Proof.Machine.execBkpt f s
  | .tlbinv f => Sys2Proof.Machine.execTlbinv f s
  | .otinv f => Sys2Proof.Machine.execOtinv f s
  | .ctxsave f => Sys2Proof.Machine.execCtxsave f s
  | .ctxload f => Sys2Proof.Machine.execCtxload f s
  | .br f => Sys2Proof.Machine.execBr f s
  | .call f => Sys2Proof.Machine.execCall f s
  | .ret f => Sys2Proof.Machine.execRet f s
  | .reform f => Sys2Proof.Machine.execReform f s
  | .reformX f => Sys2Proof.Machine.execReformX f s
  | .calli f => Sys2Proof.Machine.execCalli f s
  | .loopImm f => Sys2Proof.Machine.execLoopImm f s
  | .loopReg f => Sys2Proof.Machine.execLoopReg f s
  | .srd f => Sys2Proof.Machine.execSrd f s
  | .swr f => Sys2Proof.Machine.execSwr f s
  | .movConst f => Sys2Proof.Machine.execMovConst f s
  | .iadd f => Sys2Proof.Machine.execIadd f s
  | .isub f => Sys2Proof.Machine.execIsub f s
  | .imul f => Sys2Proof.Machine.execImul f s
  | .imulh f => Sys2Proof.Machine.execImulh f s
  | .imin f => Sys2Proof.Machine.execImin f s
  | .imax f => Sys2Proof.Machine.execImax f s
  | .iabs f => Sys2Proof.Machine.execIabs f s
  | .ineg f => Sys2Proof.Machine.execIneg f s
  | .iand f => Sys2Proof.Machine.execIand f s
  | .ior f => Sys2Proof.Machine.execIor f s
  | .ixor f => Sys2Proof.Machine.execIxor f s
  | .iandn f => Sys2Proof.Machine.execIandn f s
  | .ishl f => Sys2Proof.Machine.execIshl f s
  | .ishr f => Sys2Proof.Machine.execIshr f s
  | .isar f => Sys2Proof.Machine.execIsar f s
  | .irol f => Sys2Proof.Machine.execIrol f s
  | .imad f => Sys2Proof.Machine.execImad f s
  | .imadh f => Sys2Proof.Machine.execImadh f s
  | .isad f => Sys2Proof.Machine.execIsad f s
  | .ipopc f => Sys2Proof.Machine.execIpopc f s
  | .iclz f => Sys2Proof.Machine.execIclz f s
  | .ictz f => Sys2Proof.Machine.execIctz f s
  | .ibrev f => Sys2Proof.Machine.execIbrev f s
  | .ibfx f => Sys2Proof.Machine.execIbfx f s
  | .idiv f => Sys2Proof.Machine.execIdiv f s
  | .irem f => Sys2Proof.Machine.execIrem f s
  | .mov f => Sys2Proof.Machine.execMov f s
  | .iadd64 f => Sys2Proof.Machine.execIadd64 f s
  | .isub64 f => Sys2Proof.Machine.execIsub64 f s
  | .ishl64 f => Sys2Proof.Machine.execIshl64 f s
  | .ishr64 f => Sys2Proof.Machine.execIshr64 f s
  | .iaddi f => Sys2Proof.Machine.execIaddi f s
  | .imuli f => Sys2Proof.Machine.execImuli f s
  | .iandi f => Sys2Proof.Machine.execIandi f s
  | .iori f => Sys2Proof.Machine.execIori f s
  | .ixori f => Sys2Proof.Machine.execIxori f s
  | .ishli f => Sys2Proof.Machine.execIshli f s
  | .ishri f => Sys2Proof.Machine.execIshri f s
  | .isari f => Sys2Proof.Machine.execIsari f s
  | .iroli f => Sys2Proof.Machine.execIroli f s
  | .fadd f => Sys2Proof.Machine.execFadd f s
  | .fsub f => Sys2Proof.Machine.execFsub f s
  | .fmul f => Sys2Proof.Machine.execFmul f s
  | .ffma f => Sys2Proof.Machine.execFfma f s
  | .fmin f => Sys2Proof.Machine.execFmin f s
  | .fmax f => Sys2Proof.Machine.execFmax f s
  | .fabs f => Sys2Proof.Machine.execFabs f s
  | .fneg f => Sys2Proof.Machine.execFneg f s
  | .fdiv f => Sys2Proof.Machine.execFdiv f s
  | .fsqrt f => Sys2Proof.Machine.execFsqrt f s
  | .frcp f => Sys2Proof.Machine.execFrcp f s
  | .frsq f => Sys2Proof.Machine.execFrsq f s
  | .ffloor f => Sys2Proof.Machine.execFfloor f s
  | .fceil f => Sys2Proof.Machine.execFceil f s
  | .ftrunc f => Sys2Proof.Machine.execFtrunc f s
  | .frint f => Sys2Proof.Machine.execFrint f s
  | .fclass f => Sys2Proof.Machine.execFclass f s
  | .fcopys f => Sys2Proof.Machine.execFcopys f s
  | .fscale f => Sys2Proof.Machine.execFscale f s
  | .ffrac f => Sys2Proof.Machine.execFfrac f s
  | .ftab f => Sys2Proof.Machine.execFtab f s
  | .ftabld f => Sys2Proof.Machine.execFtabld f s
  | .ftabbank f => Sys2Proof.Machine.execFtabbank f s
  | .rand f => Sys2Proof.Machine.execRand f s
  | .hadd f => Sys2Proof.Machine.execHadd f s
  | .hsub f => Sys2Proof.Machine.execHsub f s
  | .hmul f => Sys2Proof.Machine.execHmul f s
  | .hfma f => Sys2Proof.Machine.execHfma f s
  | .dadd f => Sys2Proof.Machine.execDadd f s
  | .dsub f => Sys2Proof.Machine.execDsub f s
  | .dmul f => Sys2Proof.Machine.execDmul f s
  | .dfma f => Sys2Proof.Machine.execDfma f s
  | .cvt f => Sys2Proof.Machine.execCvt f s
  | .cvts f => Sys2Proof.Machine.execCvts f s
  | .pack f => Sys2Proof.Machine.execPack f s
  | .unpack f => Sys2Proof.Machine.execUnpack f s
  | .fexp2 f => Sys2Proof.Machine.execFexp2 f s
  | .flog2 f => Sys2Proof.Machine.execFlog2 f s
  | .fsin f => Sys2Proof.Machine.execFsin f s
  | .fcos f => Sys2Proof.Machine.execFcos f s
  | .icmp f => Sys2Proof.Machine.execIcmp f s
  | .fcmp f => Sys2Proof.Machine.execFcmp f s
  | .hcmp f => Sys2Proof.Machine.execHcmp f s
  | .dcmp f => Sys2Proof.Machine.execDcmp f s
  | .icmpi f => Sys2Proof.Machine.execIcmpi f s
  | .pand f => Sys2Proof.Machine.execPand f s
  | .por f => Sys2Proof.Machine.execPor f s
  | .pxor f => Sys2Proof.Machine.execPxor f s
  | .pandn f => Sys2Proof.Machine.execPandn f s
  | .sel f => Sys2Proof.Machine.execSel f s
  | .ktov f => Sys2Proof.Machine.execKtov f s
  | .vtok f => Sys2Proof.Machine.execVtok f s
  | .ld f => Sys2Proof.Machine.execLd f s
  | .st f => Sys2Proof.Machine.execSt f s
  | .ldAcq f => Sys2Proof.Machine.execLdAcq f s
  | .stRel f => Sys2Proof.Machine.execStRel f s
  | .waitv f => Sys2Proof.Machine.execWaitv f s
  | .atomAdd f => Sys2Proof.Machine.execAtomAdd f s
  | .atomMin f => Sys2Proof.Machine.execAtomMin f s
  | .atomMax f => Sys2Proof.Machine.execAtomMax f s
  | .atomExch f => Sys2Proof.Machine.execAtomExch f s
  | .atomAnd f => Sys2Proof.Machine.execAtomAnd f s
  | .atomOr f => Sys2Proof.Machine.execAtomOr f s
  | .atomXor f => Sys2Proof.Machine.execAtomXor f s
  | .atomCas f => Sys2Proof.Machine.execAtomCas f s
  | .redAdd f => Sys2Proof.Machine.execRedAdd f s
  | .redMin f => Sys2Proof.Machine.execRedMin f s
  | .redMax f => Sys2Proof.Machine.execRedMax f s
  | .redAnd f => Sys2Proof.Machine.execRedAnd f s
  | .redOr f => Sys2Proof.Machine.execRedOr f s
  | .redXor f => Sys2Proof.Machine.execRedXor f s
  | .fence f => Sys2Proof.Machine.execFence f s
  | .qfence f => Sys2Proof.Machine.execQfence f s
  | .tfence f => Sys2Proof.Machine.execTfence f s
  | .barArrive f => Sys2Proof.Machine.execBarArrive f s
  | .barWait f => Sys2Proof.Machine.execBarWait f s
  | .barSync f => Sys2Proof.Machine.execBarSync f s
  | .cvdecl f => Sys2Proof.Machine.execCvdecl f s
  | .abarInit f => Sys2Proof.Machine.execAbarInit f s
  | .abarArrive f => Sys2Proof.Machine.execAbarArrive f s
  | .abarWait f => Sys2Proof.Machine.execAbarWait f s
  | .abarTest f => Sys2Proof.Machine.execAbarTest f s
  | .qpush f => Sys2Proof.Machine.execQpush f s
  | .qpop f => Sys2Proof.Machine.execQpop f s
  | .qcount f => Sys2Proof.Machine.execQcount f s
  | .qclose f => Sys2Proof.Machine.execQclose f s
  | .sadd f => Sys2Proof.Machine.execSadd f s
  | .ssub f => Sys2Proof.Machine.execSsub f s
  | .smul f => Sys2Proof.Machine.execSmul f s
  | .sfma f => Sys2Proof.Machine.execSfma f s
  | .smin f => Sys2Proof.Machine.execSmin f s
  | .smax f => Sys2Proof.Machine.execSmax f s
  | .sdiv f => Sys2Proof.Machine.execSdiv f s
  | .ssqrt f => Sys2Proof.Machine.execSsqrt f s
  | .sexp f => Sys2Proof.Machine.execSexp f s
  | .shsum f => Sys2Proof.Machine.execShsum f s
  | .sdot f => Sys2Proof.Machine.execSdot f s
  | .sbcast f => Sys2Proof.Machine.execSbcast f s
  | .slane f => Sys2Proof.Machine.execSlane f s
  | .sins f => Sys2Proof.Machine.execSins f s
  | .scmp f => Sys2Proof.Machine.execScmp f s
  | .ssel f => Sys2Proof.Machine.execSsel f s
  | .scvtNarrow f => Sys2Proof.Machine.execScvtNarrow f s
  | .scvtWiden f => Sys2Proof.Machine.execScvtWiden f s
  | .swls f => Sys2Proof.Machine.execSwls f s
  | .spol f => Sys2Proof.Machine.execSpol f s
  | .sfres f => Sys2Proof.Machine.execSfres f s
  | .smdiel f => Sys2Proof.Machine.execSmdiel f s
  | .filmAdd f => Sys2Proof.Machine.execFilmAdd f s
  | .filmRd f => Sys2Proof.Machine.execFilmRd f s
  | .rast f => Sys2Proof.Machine.execRast f s
  | .visrd f => Sys2Proof.Machine.execVisrd f s
  | .trace f => Sys2Proof.Machine.execTrace f s
  | .tracea f => Sys2Proof.Machine.execTracea f s
  | .callsh f => Sys2Proof.Machine.execCallsh f s
  | .retsh f => Sys2Proof.Machine.execRetsh f s
  | .stex f => Sys2Proof.Machine.execStex f s
  | .stexup f => Sys2Proof.Machine.execStexup f s
  | .scmf f => Sys2Proof.Machine.execScmf f s
  | .cast f => Sys2Proof.Machine.execCast f s
  | .castT8 f => Sys2Proof.Machine.execCastT8 f s
  | .castT16 f => Sys2Proof.Machine.execCastT16 f s
  | .castw f => Sys2Proof.Machine.execCastw f s
  | .castwCb3 f => Sys2Proof.Machine.execCastwCb3 f s
  | .casttab f => Sys2Proof.Machine.execCasttab f s
  | .mma f => Sys2Proof.Machine.execMma f s
  | .mmas f => Sys2Proof.Machine.execMmas f s
  | .accz f => Sys2Proof.Machine.execAccz f s
  | .accld f => Sys2Proof.Machine.execAccld f s
  | .accst f => Sys2Proof.Machine.execAccst f s
  | .accstAdd f => Sys2Proof.Machine.execAccstAdd f s
  | .accrd f => Sys2Proof.Machine.execAccrd f s
  | .mseq f => Sys2Proof.Machine.execMseq f s
  | .rmaxW f => Sys2Proof.Machine.execRmaxW f s
  | .rminW f => Sys2Proof.Machine.execRminW f s
  | .rmedW f => Sys2Proof.Machine.execRmedW f s
  | .rclampW f => Sys2Proof.Machine.execRclampW f s
  | .rssumW f => Sys2Proof.Machine.execRssumW f s
  | .adjb f => Sys2Proof.Machine.execAdjb f s
  | .wrel f => Sys2Proof.Machine.execWrel f s
  | .rmaxWCr f => Sys2Proof.Machine.execRmaxWCr f s
  | .rminWCr f => Sys2Proof.Machine.execRminWCr f s
  | .rmedWCr f => Sys2Proof.Machine.execRmedWCr f s
  | .rclampWCr f => Sys2Proof.Machine.execRclampWCr f s
  | .rssumWCr f => Sys2Proof.Machine.execRssumWCr f s
  | .fcoll f => Sys2Proof.Machine.execFcoll f s
  | .fsend f => Sys2Proof.Machine.execFsend f s
  | .fwin f => Sys2Proof.Machine.execFwin f s
  | .stamp f => Sys2Proof.Machine.execStamp f s
  | .selectorDraw tile part => Sys2Proof.Machine.execSelectorDraw tile part s
  | .dumpWrite ctx => Sys2Proof.Machine.execDumpWrite ctx s
  | .distributorExamine ctx prio => Sys2Proof.Machine.execDistributorExamine ctx prio s
  | .placeCluster quad => Sys2Proof.Machine.execPlaceCluster quad s
  | .cellComplete cell => Sys2Proof.Machine.execCellComplete cell s
  | .stealRequest cluster => Sys2Proof.Machine.execStealRequest cluster s
  | .stealResponse holder requester => Sys2Proof.Machine.execStealResponse holder requester s
  | .stealRetry cluster => Sys2Proof.Machine.execStealRetry cluster s
  | .stealMeshSwitch cluster => Sys2Proof.Machine.execStealMeshSwitch cluster s
  | .loadDataArrival tid entry => Sys2Proof.Machine.execLoadDataArrival tid entry s
  | .atomicPerform tid entry => Sys2Proof.Machine.execAtomicPerform tid entry s
  | .atomReply tid entry => Sys2Proof.Machine.execAtomReply tid entry s
  | .combineLineIdleDrain tile line => Sys2Proof.Machine.execCombineLineIdleDrain tile line s
  | .raceCheckResult tid entry => Sys2Proof.Machine.execRaceCheckResult tid entry s
  | .tagSweep slot => Sys2Proof.Machine.execTagSweep slot s
  | .faultRecordPost => Sys2Proof.Machine.execFaultRecordPost s
  | .fltdoneWrite v => Sys2Proof.Machine.execFltdoneWrite v s
  | .dieldComplete tid entry => Sys2Proof.Machine.execDieldComplete tid entry s
  | .ftabldComplete tid entry => Sys2Proof.Machine.execFtabldComplete tid entry s
  | .launchEnqueue tid entry => Sys2Proof.Machine.execLaunchEnqueue tid entry s
  | .casterCopy op => Sys2Proof.Machine.execCasterCopy op s
  | .castBarrierArrival op => Sys2Proof.Machine.execCastBarrierArrival op s
  | .castwPerform op => Sys2Proof.Machine.execCastwPerform op s
  | .casttabPerform op => Sys2Proof.Machine.execCasttabPerform op s
  | .mmaPerform op => Sys2Proof.Machine.execMmaPerform op s
  | .blockExpand op block => Sys2Proof.Machine.execBlockExpand op block s
  | .acczPerform op => Sys2Proof.Machine.execAcczPerform op s
  | .accldPerform op => Sys2Proof.Machine.execAccldPerform op s
  | .accstPerform op => Sys2Proof.Machine.execAccstPerform op s
  | .accstAddPerform op => Sys2Proof.Machine.execAccstAddPerform op s
  | .accrdPerform op => Sys2Proof.Machine.execAccrdPerform op s
  | .mseqPerform op => Sys2Proof.Machine.execMseqPerform op s
  | .tileReductionPerform op => Sys2Proof.Machine.execTileReductionPerform op s
  | .clampSumPerform op => Sys2Proof.Machine.execClampSumPerform op s
  | .adjbPerform op => Sys2Proof.Machine.execAdjbPerform op s
  | .crSetReduction op => Sys2Proof.Machine.execCrSetReduction op s
  | .traceWalk op => Sys2Proof.Machine.execTraceWalk op s
  | .spectralFetch op => Sys2Proof.Machine.execSpectralFetch op s
  | .rgbUpsampleFetch op => Sys2Proof.Machine.execRgbUpsampleFetch op s
  | .cmfProjectFetch op => Sys2Proof.Machine.execCmfProjectFetch op s
  | .filmAddPerform op => Sys2Proof.Machine.execFilmAddPerform op s
  | .filmRdPerform op => Sys2Proof.Machine.execFilmRdPerform op s
  | .rastPerform op => Sys2Proof.Machine.execRastPerform op s
  | .visrdPerform op => Sys2Proof.Machine.execVisrdPerform op s
  | .qpushCommit queue pos => Sys2Proof.Machine.execQpushCommit queue pos s
  | .qpopReply tid entry => Sys2Proof.Machine.execQpopReply tid entry s
  | .queueFedPlace launch stage => Sys2Proof.Machine.execQueueFedPlace launch stage s
  | .qageTimeout launch stage => Sys2Proof.Machine.execQageTimeout launch stage s
  | .stageClose launch stage => Sys2Proof.Machine.execStageClose launch stage s
  | .stageEpoch launch => Sys2Proof.Machine.execStageEpoch launch s
  | .riddleMove tile ctx pc key => Sys2Proof.Machine.execRiddleMove tile ctx pc key s
  | .threadExport tid => Sys2Proof.Machine.execThreadExport tid s
  | .threadArrival tid => Sys2Proof.Machine.execThreadArrival tid s
  | .abarArrivalPerform ctx cell index units => Sys2Proof.Machine.execAbarArrivalPerform ctx cell index units s
  | .ctxloadRestore ctx => Sys2Proof.Machine.execCtxloadRestore ctx s
  | .detachedReplyAfterSave ctx tid entry => Sys2Proof.Machine.execDetachedReplyAfterSave ctx tid entry s
  | .remoteLoadRequest src seq addr size => Sys2Proof.Machine.execRemoteLoadRequest src seq addr size s
  | .remoteWriteRequest src seq addr data release => Sys2Proof.Machine.execRemoteWriteRequest src seq addr data release s
  | .remoteAtomicRequest src seq addr op a b release => Sys2Proof.Machine.execRemoteAtomicRequest src seq addr op a b release s
  | .vectorRequest src seq page size op lanes => Sys2Proof.Machine.execVectorRequest src seq page size op lanes s
  | .fabricReleasePerform src seq => Sys2Proof.Machine.execFabricReleasePerform src seq s
  | .endToEndAck seq => Sys2Proof.Machine.execEndToEndAck seq s
  | .negativeAck seq => Sys2Proof.Machine.execNegativeAck seq s
  | .resendTimeout seq => Sys2Proof.Machine.execResendTimeout seq s
  | .fsendPerform op => Sys2Proof.Machine.execFsendPerform op s
  | .fsendLocalComplete op => Sys2Proof.Machine.execFsendLocalComplete op s
  | .fcollPushPerform op => Sys2Proof.Machine.execFcollPushPerform op s
  | .collectivePacketArrival p => Sys2Proof.Machine.execCollectivePacketArrival p s
  | .collectiveDelivery tree chunk => Sys2Proof.Machine.execCollectiveDelivery tree chunk s
  | .contextKill ctx => Sys2Proof.Machine.execContextKill ctx s
  | .abortReceive job origin port => Sys2Proof.Machine.execAbortReceive job origin port s
  | .hostWrite endpoint addr bytes => Sys2Proof.Machine.execHostWrite endpoint addr bytes s
  | .hostRead endpoint addr size => Sys2Proof.Machine.execHostRead endpoint addr size s
  | .hostAtomic endpoint addr size op a b => Sys2Proof.Machine.execHostAtomic endpoint addr size op a b s
  | .otbaseWrite ctx count v => Sys2Proof.Machine.execOtbaseWrite ctx count v s
  | .nbvWrite ctx v => Sys2Proof.Machine.execNbvWrite ctx v s
  | .utvecWrite tid v => Sys2Proof.Machine.execUtvecWrite tid v s
  | .fpctlWrite tid v => Sys2Proof.Machine.execFpctlWrite tid v s
  | .dumpctlWrite ctx v => Sys2Proof.Machine.execDumpctlWrite ctx v s
  | .refphaseWrite tid v => Sys2Proof.Machine.execRefphaseWrite tid v s
  | .refreshDuePoint pch tid => Sys2Proof.Machine.execRefreshDuePoint pch tid s
  | .guardRefresh pch => Sys2Proof.Machine.execGuardRefresh pch s
  | .refreshInterval pch => Sys2Proof.Machine.execRefreshInterval pch s
  | .perBankRefresh pch => Sys2Proof.Machine.execPerBankRefresh pch s
  | .reorderLimit pch => Sys2Proof.Machine.execReorderLimit pch s
  | .rowRepair addr => Sys2Proof.Machine.execRowRepair addr s
  | .timensRead => Sys2Proof.Machine.execTimensRead s
  | .timeadjWrite v => Sys2Proof.Machine.execTimeadjWrite v s
  | .timestepWrite v => Sys2Proof.Machine.execTimestepWrite v s
  | .ppsEdge => Sys2Proof.Machine.execPpsEdge s
  | .trigsecWrite n v => Sys2Proof.Machine.execTrigsecWrite n v s
  | .triggerFire n => Sys2Proof.Machine.execTriggerFire n s
  | .bypass scan => Sys2Proof.Machine.execBypass scan s
  | .samplePreload scan => Sys2Proof.Machine.execSamplePreload scan s
  | .extest scan => Sys2Proof.Machine.execExtest scan s
  | .idcode => Sys2Proof.Machine.execIdcode s
  | .dbgaddr v => Sys2Proof.Machine.execDbgaddr v s
  | .dbgdataCapture => Sys2Proof.Machine.execDbgdataCapture s
  | .dbgdataUpdate v => Sys2Proof.Machine.execDbgdataUpdate v s
  | .dbgauthCapture => Sys2Proof.Machine.execDbgauthCapture s
  | .dbgauthUpdate v => Sys2Proof.Machine.execDbgauthUpdate v s
  | .debugStopRequest tile part => Sys2Proof.Machine.execDebugStopRequest tile part s
  | .debugRelease tile part => Sys2Proof.Machine.execDebugRelease tile part s
  | .debugStep tile part => Sys2Proof.Machine.execDebugStep tile part s
  | .thrdataWrite tile part v => Sys2Proof.Machine.execThrdataWrite tile part v s
  | .laneCounterClear tile part => Sys2Proof.Machine.execLaneCounterClear tile part s
  | .pcSample tile part => Sys2Proof.Machine.execPcSample tile part s
  | .powerGateEntry tile => Sys2Proof.Machine.execPowerGateEntry tile s
  | .retainEntry tile => Sys2Proof.Machine.execRetainEntry tile s
  | .powerWake tile => Sys2Proof.Machine.execPowerWake tile s
  | .powerLimitWindow tile => Sys2Proof.Machine.execPowerLimitWindow tile s
  | .deviceReset => Sys2Proof.Machine.execDeviceReset s
  | .firmwareImageDoe image => Sys2Proof.Machine.execFirmwareImageDoe image s
  | .getVersion endpoint request => Sys2Proof.Machine.execGetVersion endpoint request s
  | .getCapabilities endpoint request => Sys2Proof.Machine.execGetCapabilities endpoint request s
  | .negotiateAlgorithms endpoint request => Sys2Proof.Machine.execNegotiateAlgorithms endpoint request s
  | .getDigests endpoint request => Sys2Proof.Machine.execGetDigests endpoint request s
  | .getCertificate endpoint request => Sys2Proof.Machine.execGetCertificate endpoint request s
  | .challenge endpoint request => Sys2Proof.Machine.execChallenge endpoint request s
  | .getMeasurements endpoint request => Sys2Proof.Machine.execGetMeasurements endpoint request s
  | .tileRetire tile force => Sys2Proof.Machine.execTileRetire tile force s
  | .linkRetrain port lane => Sys2Proof.Machine.execLinkRetrain port lane s
  | .linkDown port => Sys2Proof.Machine.execLinkDown port s
  | .linkDisable port disable => Sys2Proof.Machine.execLinkDisable port disable s
  | .mmioRegisterWrite offset size v => Sys2Proof.Machine.execMmioRegisterWrite offset size v s
  | .linkTrained port spared => Sys2Proof.Machine.execLinkTrained port spared s
  | .flitCrcFailure port => Sys2Proof.Machine.execFlitCrcFailure port s
  | .contextCreate ctx setup => Sys2Proof.Machine.execContextCreate ctx setup s

end Sys2Proof.Machine
end

