-- ==== Sys2Proof/Machine/Retire.lean ====
section
/-! DEFINITION. The boundary after a chain: its trap is taken, or each of its threads goes where the chain left it
(spec/03_execution.md R48, spec/04_encoding.md R57, R61, spec/05_isa_core.md R99, R106, spec/07_traps.md R144, R145). -/
namespace Sys2Proof.Machine

/-- The threads of an issuing group that still are, in their slots. -/
def State.groupOf (s : State) (iss : Issue) : List (Nat × Nat) :=
  iss.slots.filter fun x => (s.thread? x.2).any fun t => t.ctx == iss.ctx && !t.ended

/-- EXIT's end of a thread: its region closes at SYSTEM scope with its stores sent, its outstanding loads are discarded, it leaves its
pinned set, and the barriers of its cell no longer expect it (R106, R152, R292, R328). -/
def State.exitThread (s : State) (tid : Nat) : State :=
  match s.thread? tid with
  | none => s
  | some t =>
    let s := (s.unfile tid).regionEnd tid (some 5)
    let s := s.modThread tid fun t => { t with
      ended := true, place := .nowhere, wait := .ready, also := [], mobile := false
      replay := if t.frame.isSome then t.replay
        else t.replay.filter fun e => !(e.instr matches .ld _ || e.instr matches .ldAcq _) }
    let s := match t.frame with
      | none => s
      | some f => { s with pins := Map.mapAll s.pins fun g p => if g = f.group then { p with exited := p.exited ++ [(f.slot, tid)] } else p }
    s.testBars t.cell

/-- Threads whose chain waited and also held EXIT end once the wait is over (R57, R106). -/
def State.settleExits (s : State) : State :=
  (s.threads.filter fun x => x.2.wait == .exit && !x.2.ended && !x.2.reading && s.runs x.2.ctx).foldl (fun s x => s.exitThread x.1) s

/-- A thread filed at its next packet; one that waits at an instruction of its chain under that instruction, from where it goes on to the
packet (R48, R54, R292). -/
def State.fileOn (s : State) (tid pc : Nat) (key : BitVec 16) (t : Thread) : State :=
  match t.wait, t.next with
  | .ready, _ | _, none => s.file tid (pc % 2 ^ 24) key t.wait
  | w, some at' => s.fileAt tid at' (pc % 2 ^ 24) key w

/-- The PC after a chain that made no taken transfer, the loop stack examined (R57, R99). -/
def State.goPast (s : State) (iss : Issue) (tid : Nat) : State :=
  match s.thread? tid with
  | none => s
  | some t =>
    let r := t.leavePacket ((iss.rpc + 2 ^ 24 - 1) % 2 ^ 24) iss.rpc
    (s.modThread tid fun _ => r.1).fileOn tid r.2 t.key t

/-- One thread at the end of its chain: it files at its next packet, ready or waiting, or ends (R48, R57, R99, R106, R145). -/
def State.depart (s : State) (iss : Issue) (tid : Nat) : State :=
  match s.thread? tid with
  | none => s
  | some t =>
    match Map.get? iss.leaving tid with
    | none => s.goPast iss tid
    | some (.goto pc) => s.fileOn tid pc t.key t
    | some (.reform pc key) => s.fileOn tid pc (if t.frame.isSome then t.key else key) t
    | some .exit =>
      if t.wait = .ready && !t.reading then s.exitThread tid
      else (s.modThread tid fun t => t.block .exit).goPast iss tid
    | some (.again w) => s.file tid iss.first t.key w

/-- The trap of a chain: taken by its whole group, each thread's other waits standing; a fatal one leaves them at the resume point
(R61, R142, R144). -/
def State.takeRaised (s : State) (iss : Issue) (r : Raised) : State :=
  let members := s.groupOf iss
  let rpc := if r.decode then iss.first else iss.rpc
  let waits := members.filterMap fun x => (s.thread? x.2).map fun t => (x.2, t.wait)
  let s := s.takeTrap iss.ctx iss.tile iss.part members r fun _ => rpc
  waits.foldl (fun s x =>
    match s.thread? x.1 with
    | none => s
    | some t => if t.place = .nowhere then s.file x.1 rpc t.key x.2 else s.modThread x.1 fun t => { t with wait := x.2 }) s

/-- The chain ends: its trap, or its threads' next packets; then what waited for that (R48, R61, R144, R152, R404). -/
def State.retire (s : State) : State :=
  match s.issue with
  | none => s
  | some iss =>
    let s := { s with issue := none }
    let s := match iss.raised with
      | some r => s.takeRaised iss r
      | none => (s.groupOf iss).foldl (fun (s : State) (x : Nat × Nat) => s.depart iss x.2) s
    let s := iss.slots.foldl (fun s x => s.settleArrivals x.2) s
    s.releaseGathered.stopAfterStep iss.tile iss.part iss.ctx

end Sys2Proof.Machine
end

