-- ==== Sys2Proof/Machine/Tick.lean ====
section
/-! DEFINITION. One cycle of everything beside the selectors: what is outstanding performs, the distributor, the riddle and the tag
sweep act, waits that have cleared end, and the clocks advance (spec/03_execution.md R37 to R48, spec/07_traps.md R148,
spec/10_stages_film.md R196 to R203, spec/13_isa_caster_anvil.md R244 to R249, spec/20_core_dump.md R384, spec/21_debug_power.md R409,
R410, R413). What is outstanding performs first, then what has waited is settled, the distributor and the riddle act, and the clocks
advance. -/
namespace Sys2Proof.Machine

/-- Events that happen one after another. -/
def State.each {α : Type} (s : State) (xs : List α) (event : α → State → Host.Outcome State Fault Refusal) : State :=
  xs.foldl (fun s x => nextOr s (event x s)) s

/-! ## Outstanding work -/

/-- An entry of a thread performs what it can: its check, its data's arrival, its operation or its reply (R102, R108, R136, R287, R299,
R329). -/
def State.workEntry (s : State) (tid : Nat) (e : Entry) : State :=
  let s := if e.checked then s else nextOr s (execRaceCheckResult tid e.id s)
  match e.instr with
  | .ld _ | .ldAcq _ => nextOr s (execLoadDataArrival tid e.id s)
  | .dield _ => nextOr s (execDieldComplete tid e.id s)
  | .ftabld _ => nextOr s (execFtabldComplete tid e.id s)
  | .launch _ => nextOr s (execLaunchEnqueue tid e.id s)
  | .qpop _ => nextOr s (execQpopReply tid e.id s)
  | i => if (accessOf i e.cap).isSome then s.each [execAtomicPerform, execAtomReply] fun f => f tid e.id else s

/-- The entries of every thread perform; in a halted context only those that have left their partition (R148, R384). -/
def State.workEntries (s : State) : State :=
  s.threads.foldl (fun s x =>
    if s.working x.2.ctx then
      (x.2.replay.filter fun e => e.state != .held || !s.isHalted x.2.ctx).foldl (fun s e => s.workEntry x.1 e) s
    else s) s

/-- What an engine operation does next, by its instruction (R244, R248, R257, R263, R275, R282, R285, R367, R372). -/
def workOp (id : Nat) (op : Op) : State → Host.Outcome State Fault Refusal :=
  match op.instr with
  | .cast _ | .castT8 _ | .castT16 _ => if op.performed then execCastBarrierArrival id else execCasterCopy id
  | .castw _ | .castwCb3 _ => execCastwPerform id
  | .casttab _ => execCasttabPerform id
  | .mma _ | .mmas _ => fun s => execMmaPerform id (s.each (List.range 128) fun b => execBlockExpand id b)
  | .accz _ => execAcczPerform id
  | .accld _ => execAccldPerform id
  | .accst _ => execAccstPerform id
  | .accstAdd _ => execAccstAddPerform id
  | .accrd _ => execAccrdPerform id
  | .mseq _ => execMseqPerform id
  | .rmaxW _ | .rminW _ | .rmedW _ => execTileReductionPerform id
  | .rclampW _ | .rssumW _ => execClampSumPerform id
  | .adjb _ => execAdjbPerform id
  | .rmaxWCr _ | .rminWCr _ | .rmedWCr _ | .rclampWCr _ | .rssumWCr _ => execCrSetReduction id
  | .trace _ | .tracea _ => execTraceWalk id
  | .stex _ => execSpectralFetch id
  | .stexup _ => execRgbUpsampleFetch id
  | .scmf _ => execCmfProjectFetch id
  | .filmAdd _ => execFilmAddPerform id
  | .filmRd _ => execFilmRdPerform id
  | .rast _ => execRastPerform id
  | .visrd _ => execVisrdPerform id
  | .fsend _ => if op.performed then execFsendLocalComplete id else execFsendPerform id
  | .fcoll _ => execFcollPushPerform id
  | .fwin _ => fun s => .next (s.fwinPerform id)
  | _ => Host.Outcome.next

/-- The engine operations perform, in the order of issue where nothing else orders them (R244). -/
def State.workOps (s : State) : State :=
  s.ops.foldl (fun s x => match Map.get? s.ops x.1 with
    | some op => nextOr s (workOp x.1 op s)
    | none => s) s

/-- Pushed records are committed (R299). -/
def State.workRings (s : State) : State :=
  s.rings.zipIdx.foldl (fun s r => s.each r.1.inflight fun p => execQpushCommit r.2 p.pos) s

/-- The fabric unit's own work: requests sent again, held releases, contributions that wait for a slot, deliveries, and the barriers of
aborted trees (R348, R365, R370, R371, R375). -/
def State.workFabric (s : State) : State :=
  let s := s.each ((s.fabric.retry.filter fun r => decide (r.2.since + resendAfter ≤ s.cycle)).map Prod.fst) execResendTimeout
  let s := s.each s.fabric.held fun h => execFabricReleasePerform h.src h.seq
  let s := if s.fabric.waiting.isEmpty then s else s.retryWaiting
  let s := s.each s.fabric.deliveries fun p => execCollectiveDelivery p.tree p.chunk
  (s.fabric.opens.filter fun x => x.2.ending).foldl (fun s x => s.endTree x.1) s

/-- Lines that have not been touched for 256 cycles drain (R314). -/
def State.workLines (s : State) : State :=
  s.tiles.foldl (fun s x => s.each (List.range x.2.lines.length).reverse fun n => execCombineLineIdleDrain x.1 n) s

/-- Replies to entries of saved contexts, their accumulations on their way to a cell, and contexts that wait to be restored (R153, R156,
R212). -/
def State.workImages (s : State) : State :=
  let s := s.images.foldl (fun s x => x.2.threads.foldl (fun s y =>
    s.each (y.2.replay.filter fun e => e.state == .flight && !e.attached) fun e => execDetachedReplyAfterSave x.2.ctx y.1 e.id) s) s
  let s := s.each (s.images.flatMap fun x => (x.2.ops.filter fun o => o.2.instr matches .filmAdd _).map Prod.fst) execFilmAddPerform
  s.each (s.images.filterMap fun x => x.2.loading.map Loading.slot) execCtxloadRestore

/-! ## Distribution, stealing and stages -/

/-- The cells that are done, and the clusters that look for work (R42 to R46). -/
def State.workCells (s : State) : State :=
  let s := s.each (s.cells.map Prod.fst) execCellComplete
  let s := s.each (s.clusters.map Prod.fst) fun n s => execStealMeshSwitch n (s.each [execStealRequest, execStealRetry] fun f => f n)
  (s.clusters.filter fun x => x.2.asking).foldl (fun s x =>
    let path := s.stealPath x.1 x.2
    let holder := ((path.find? fun y => decide (1 ≤ y.2.spare)).map Prod.fst).getD x.1
    nextOr s (execStealResponse holder x.1 s)) s

/-- The pipelines: their stages' cells, closings and epochs (R200 to R203). -/
def State.workStages (s : State) : State :=
  (s.launches.filter fun x => x.2.phase == .running && s.runs x.2.ctx).foldl (fun s x =>
    let s := s.each (List.range x.2.stages.length) fun n s =>
      if (x.2.stages[n]?).any fun t => t.input.isSome then execQageTimeout x.1 n (nextOr s (execQueueFedPlace x.1 n s)) else .next s
    if x.2.pipeline then nextOr s (execStageEpoch x.1 (s.each (List.range x.2.stages.length) fun n => execStageClose x.1 n)) else s) s

/-- The distributor examines records, places what fits, on the lowest quad that has room for it first (DESIGN CHOICE, entry 76), and stops
placing where there is no more room (R38, R41, R43). -/
def State.workDistributor (s : State) : State :=
  let s := s.ctxs.foldl (fun s c => s.each (c.2.queues.map Prod.fst) fun prio => execDistributorExamine c.1 prio) s
  if s.launches.any fun x => x.2.phase == .accepted || x.2.phase == .running then (s.each (List.range 48) execPlaceCluster).stopStages else s

/-- The riddle: threads in transit arrive, mobile ones are brought together or exported (R195 to R198). -/
def State.workRiddle (s : State) : State :=
  let s := s.each ((s.threads.filter fun x => x.2.going.isSome).map Prod.fst) execThreadArrival
  let mobile := s.threads.filter fun x => x.2.mobile && !x.2.ended && x.2.going.isNone
  if mobile.isEmpty then s
  else
    let keys := (mobile.filterMap fun x => match x.2.place with
      | .crucible n => (Map.get? (s.partition x.2.tile x.2.part).crucibles n).map fun k => (x.2.tile, k)
      | _ => none).eraseDups
    let s := s.each keys fun k => execRiddleMove k.1 k.2.ctx k.2.pc k.2.key.toNat
    s.each (mobile.map Prod.fst) execThreadExport

/-! ## The cycle -/

/-- Halted contexts whose work has completed, parked accesses without a record, and tiles to retire (R324, R384, R420). -/
def State.workFaults (s : State) : State :=
  let s := s.each ((s.ctxs.filter fun c => c.2.phase == .halting).map Prod.fst) execDumpWrite
  let s := nextOr s (execFaultRecordPost s)
  if s.boot.retiring.isEmpty then s else s.finishRetiring

/-- The debug blocks' counts of a cycle: an idle cycle, and the sample that is due (R409 to R411). -/
def State.countDebug (s : State) : State :=
  (s.debug).foldl (fun s x =>
    let tile := x.1 / 4
    let part := x.1 % 4
    let s := if x.2.lastIssue.1 == s.cycle && !x.2.lastIssue.2.isEmpty then s else s.countIdle tile part
    let period := 2 ^ min 20 (max 8 (x.2.sampctl.toNat / 2 ^ 16 % 32))
    if x.2.sampctl.getLsbD 31 && s.cycle % period == 0 then nextOr s (execPcSample tile part s) else s) s

/-- The blocks that have a thread or work note the cycle, and wake for it (R413). -/
def State.countTiles (s : State) : State :=
  s.busyBlocks.foldl (fun s n => nextOr s (execPowerWake n (s.setTile n { s.tile n with busy := s.cycle }))) s

/-- Waits that have cleared end, and what waited for that follows (R48, R106, R152, R293). -/
def State.settleWaits (s : State) : State :=
  let s := s.threads.foldl (fun s x => s.settleArrivals x.1) s
  s.pollWaits.settleExits.fileResumed.releaseGathered

/-- The counters of a cycle's end advance, and the next cycle begins (R92, R198, R201, R213, R399). -/
def State.advance (s : State) : State :=
  let parts := (s.threads.filterMap fun x => match x.2.place with
    | .crucible _ => some (x.2.tile, x.2.part)
    | _ => none).eraseDups
  let s := parts.foldl (fun s p => s.countLow p.1 p.2) s
  let s := s.countStages.tickClock
  { s with cycle := s.cycle + 1 }.stopPeers

/-- One cycle of everything beside the selectors. -/
def State.tick (s : State) : State :=
  let s := s.workEntries.workOps.workRings.workFabric.workLines.workImages
  let s := s.settleWaits.workCells.workStages.workDistributor.workRiddle.workRefresh
  s.workFaults.settleWaits.countDebug.countTiles.advance

end Sys2Proof.Machine
end

