-- ==== Sys2Proof/Machine/Sched.lean ====
section
/-! DEFINITION. What the machine does next, one thing a step, and how a single instruction is placed where the next step fetches it
(spec/03_execution.md R51, spec/04_encoding.md R57, spec/07_traps.md R152). -/
namespace Sys2Proof.Machine

/-- A state goes on through a further change. -/
def andThen (r : Host.Outcome State Fault Refusal) (f : State → State) : Host.Outcome State Fault Refusal :=
  match r with
  | .next s => .next (f s)
  | x => x

/-- After an instruction of a chain: the chain ends once nothing of it is left to issue (R57). -/
def State.settleChain (s : State) : State :=
  match s.issue with
  | some iss => if iss.todo.isEmpty then s.retire else s
  | none => s

/-- The next instruction of the chain in progress issues (R57). -/
def State.issueItem (run : Instr → State → Host.Outcome State Fault Refusal) (s : State) (iss : Issue) : Host.Outcome State Fault Refusal :=
  match iss.todo with
  | [] => .next s.retire
  | i :: is => andThen (run i.instr { s with issue := some { iss with cur := i, todo := is, drawn := false } }) State.settleChain

/-- An item of a chain as it will execute: a stamp, the instruction that it expands to (R75). -/
def State.expanded (s : State) (iss : Issue) (x : ChainItem) : ChainItem :=
  match x.instr with
  | .stamp f =>
    let bank := ((iss.slots.head?).bind fun y => s.thread? y.2).any Thread.bank
    match expandStamp (s.dieEntry iss.ctx bank f.e.toNat) f with
    | .ok i => { x with instr := i, stamp := true }
    | .error _ => x
  | _ => x

/-- The decode trap that an instruction of a drawn chain raises, as the registers stand before the chain (R60, R61). -/
def State.foresee (run : Instr → State → Host.Outcome State Fault Refusal) (s : State) (iss : Issue) (x : ChainItem) : Option Raised :=
  let i := s.expanded iss x
  match run i.instr { s with issue := some { iss with cur := i, todo := [], drawn := false } } with
  | .next s' => (s'.issue.bind Issue.raised).filter Raised.decode
  | _ => none

/-- The chain in progress goes on. Before the first instruction of a drawn one issues, the earliest decode trap among them all is taken, and
then none of them issues; else the chain is accounted for (R57, R61, R411). -/
def State.issueNext (run : Instr → State → Host.Outcome State Fault Refusal) (s : State) : Host.Outcome State Fault Refusal :=
  match s.issue with
  | none => .next s
  | some iss =>
    if !iss.drawn then s.issueItem run iss
    else
      match iss.todo.findSome? (s.foresee run iss) with
      | some r => .next { s with issue := some { iss with drawn := false, todo := [], raised := some r } }.retire
      | none => (s.countIssue iss (iss.todo.map fun x => (s.expanded iss x).instr)).issueItem run iss

/-- What a register write, the clock or a CTXSAVE has set off happens (R153, R213, R215, R375, R417). -/
def State.runDeferred (s : State) : Deferred → Host.Outcome State Fault Refusal
  | .timestep v => execTimestepWrite v s
  | .linkDisable port d => execLinkDisable port d s
  | .fire n => execTriggerFire n s
  | .fireFailed n => .next (s.fireTrigger n true)
  | .abort job origin => .next (s.abortJob job origin none)
  | .save tid ctx off keep => .next (s.saveDeferred tid ctx off keep)

/-- The partitions where a thread may be drawn, each as tile * 4 + partition. -/
def State.occupied (s : State) : List Nat :=
  (s.threads.filter fun x => !x.2.ended && s.runs x.2.ctx).map fun x => x.2.tile * 4 + x.2.part

/-- The first occupied partition at or after one. -/
def State.nextPartition (s : State) (n : Nat) : Option Nat :=
  s.occupied.foldl (fun best k => if k < n then best else match best with
    | none => some k
    | some b => some (min b k)) none

/-- The next selector's turn: a draw, whose chain begins to issue; once every partition has had its turn, the cycle ends (R51). -/
def State.turn (run : Instr → State → Host.Outcome State Fault Refusal) (s : State) : Host.Outcome State Fault Refusal :=
  match s.nextPartition (s.focus.1 * 4 + s.focus.2) with
  | none => .next { s.tick with focus := (0, 0) }
  | some k =>
    match execSelectorDraw (k / 4) (k % 4) { s with focus := ((k + 1) / 4, (k + 1) % 4) } with
    | .next s => s.issueNext run
    | r => r

/-- One step, in which `run` executes an instruction: the chain in progress comes first, then what a write or the clock has set off,
the events of the agenda, the entries of released pins, and a selector's turn. -/
def State.stepWith (run : Instr → State → Host.Outcome State Fault Refusal) (s : State) : Host.Outcome State Fault Refusal :=
  if s.issue.isSome then s.issueNext run
  else
    match s.deferred, s.agenda with
    | d :: ds, _ => { s with deferred := ds }.runDeferred d
    | [], i :: is => run i { s with agenda := is }
    | [], [] =>
      if s.nextReinject.isNone then s.turn run else .next (s.reinjectStep fun i s => nextOr s (run i s))

/-- A machine whose next step draws one privileged thread of context 0 that has the packet at physical and virtual address 0 before it:
the packet's bytes, the translation of its page, the context, and the thread alone and ready on partition 0 of tile 0. -/
def State.placePacket (s : State) (w : Nat) : State :=
  let id := s.nextId
  let t : Tile := s.tile 0
  let key : CrucKey := ⟨0, 0, 0⟩
  let page : Tlb := { ctx := 0, vpage := 0, bits := 16, base := 0, r := true, w := true, x := true, priv := false, nrd := false, cow := false }
  let s := (s.setBytes 0 (packetBytes w)).setTile 0 { t with
    parts := Map.set t.parts 0 { crucibles := [(0, key)] }, tlb := page :: t.tlb, power := .run }
  { s with
    ctxs := Map.set s.ctxs 0 { privileged := true }
    threads := [(id, { ctx := 0, vregs := 128, wregs := 32, place := .crucible 0, since := s.cycle })]
    ecc := s.ecc.filter fun e => decide (2 ≤ e)
    debug := Map.del s.debug 0
    issue := none, deferred := [], agenda := [], reinject := [], focus := (0, 0), nextId := id + 1 }

end Sys2Proof.Machine
end

