-- ==== Sys2Proof/Machine/Step.lean ====
section
/-! DEFINITION. One step of the machine, and an instruction placed where the next step fetches it. -/
namespace Sys2Proof.Machine

/-- One step: the next instruction of the chain in progress, the next thing set off, or the next selector's turn. -/
def step (s : State) : Host.Outcome State Fault Refusal := s.stepWith exec

/-- The state with a word of the opcode table, and words of zeros above it, where the next step fetches: a stand-in for a launch whose
thread runs that text. -/
def State.withFetchWord (s : State) (_nbits w : Nat) : State := s.placePacket w

end Sys2Proof.Machine
end

