-- ==== Sys2Proof/Laws/Encoding.lean ====
section
/-! SUPPORT. Fields of a word read back from their layout, and what the decoder makes of a word whose fields are known (R55 to R82). -/
namespace Sys2Proof.Laws

/-- The number that fields make, each with its width, from bit 0 up. -/
def Layout.value : List (Nat × Nat) → Nat
  | [] => 0
  | (n, v) :: rest => v + 2 ^ n * Layout.value rest

/-- Every field within its width. -/
def Layout.bounded : List (Nat × Nat) → Prop
  | [] => True
  | (n, v) :: rest => v < 2 ^ n ∧ Layout.bounded rest

/-- The field of a width that begins at a bit. -/
def Layout.field : List (Nat × Nat) → Nat → Nat → Option Nat
  | [], _, _ => none
  | (n, v) :: rest, lo, m =>
    if lo = 0 then (if n = m then some v else none) else if n ≤ lo then Layout.field rest (lo - n) m else none

theorem Layout.field_eq : ∀ {fs : List (Nat × Nat)} {lo n v : Nat}, Layout.bounded fs → Layout.field fs lo n = some v →
    Layout.value fs / 2 ^ lo % 2 ^ n = v
  | [], lo, n, v, _, h => by simp [Layout.field] at h
  | (m, u) :: rest, lo, n, v, hb, h => by
    obtain ⟨h1, h2⟩ := hb
    unfold Layout.field at h
    split at h
    · next h0 =>
      split at h
      · next hm => subst hm h0; simp at h; subst h; simp [Layout.value, Nat.mod_eq_of_lt h1]
      · simp at h
    · split at h
      · next hlo =>
        have ih := Layout.field_eq h2 h
        obtain ⟨k, rfl⟩ := Nat.exists_eq_add_of_le hlo
        rw [Nat.add_sub_cancel_left] at ih
        rw [← ih, Layout.value, Nat.pow_add, ← Nat.div_div_eq_div_mul, Nat.add_comm u, Nat.mul_add_div (Nat.two_pow_pos m),
          Nat.div_eq_of_lt h1, Nat.add_zero]
      · simp at h

/-- A word that is the value of a layout holds its fields. -/
theorem Layout.reads {w : Nat} (fs : List (Nat × Nat)) (hb : Layout.bounded fs) (hw : w = Layout.value fs) (lo n v : Nat)
    (e : Layout.field fs lo n = some v) : w / 2 ^ lo % 2 ^ n = v := hw ▸ Layout.field_eq hb e

theorem bitsAt_of {n lo : Nat} {v : BitVec n} {w : Nat} (h : w / 2 ^ lo % 2 ^ n = v.toNat) : bitsAt w lo n = v :=
  BitVec.eq_of_toNat_eq (by simpa [bitsAt] using h)

theorem bitAt_of {lo : Nat} {v : Bool} {w : Nat} (h : w / 2 ^ lo % 2 ^ 1 = v.toNat) : bitAt w lo = v := by
  cases v <;> simp_all [bitAt]

/-- A field that lies in another tells that the other is not a given number. -/
theorem field_ne {w lo n v : Nat} (k m v' : Nat) (hk : k + m ≤ n) (h : w / 2 ^ (lo + k) % 2 ^ m = v')
    (hne : v / 2 ^ k % 2 ^ m ≠ v') : w / 2 ^ lo % 2 ^ n ≠ v := by
  rintro rfl
  apply hne
  rw [← h, Nat.pow_add, ← Nat.div_div_eq_div_mul]
  obtain ⟨j, rfl⟩ := Nat.exists_eq_add_of_le hk
  rw [Nat.add_assoc, Nat.pow_add, Nat.mod_mul_right_div_self, Nat.pow_add, Nat.mod_mul_right_mod]

/-- A row does not match a word that differs from it in part of a fixed field. -/
theorem row_no {r : Row} {w lo n v : Nat} (hmem : (lo, n, v) ∈ r.fixed) (k m v' : Nat) (hk : k + m ≤ n)
    (h : w / 2 ^ (lo + k) % 2 ^ m = v') (hne : v / 2 ^ k % 2 ^ m ≠ v') : r.matches w = false := by
  rw [Row.matches, List.all_eq_false]
  exact ⟨_, hmem, by simpa using field_ne k m v' hk h hne⟩

theorem row_yes1 {w a b c : Nat} {p o l : Bool} {g : Bound → Nat → Instr} (h : w / 2 ^ a % 2 ^ b = c) :
    Row.matches ⟨[(a, b, c)], p, o, l, g⟩ w = true := by simp [Row.matches, h]

theorem row_yes2 {w a b c d e f : Nat} {p o l : Bool} {g : Bound → Nat → Instr} (h : w / 2 ^ a % 2 ^ b = c)
    (h' : w / 2 ^ d % 2 ^ e = f) : Row.matches ⟨[(a, b, c), (d, e, f)], p, o, l, g⟩ w = true := by simp [Row.matches, h, h']

theorem row_yes3 {w a b c d e f x y z : Nat} {p o l : Bool} {g : Bound → Nat → Instr} (h : w / 2 ^ a % 2 ^ b = c)
    (h' : w / 2 ^ d % 2 ^ e = f) (h'' : w / 2 ^ x % 2 ^ y = z) :
    Row.matches ⟨[(a, b, c), (d, e, f), (x, y, z)], p, o, l, g⟩ w = true := by simp [Row.matches, h, h', h'']

theorem row_yes4 {w a b c d e f x y z a' b' c' : Nat} {p o l : Bool} {g : Bound → Nat → Instr} (h1 : w / 2 ^ a % 2 ^ b = c)
    (h2 : w / 2 ^ d % 2 ^ e = f) (h3 : w / 2 ^ x % 2 ^ y = z) (h4 : w / 2 ^ a' % 2 ^ b' = c') :
    Row.matches ⟨[(a, b, c), (d, e, f), (x, y, z), (a', b', c')], p, o, l, g⟩ w = true := by simp [Row.matches, h1, h2, h3, h4]

theorem row_yes5 {w a b c d e f x y z a' b' c' d' e' f' : Nat} {p o l : Bool} {g : Bound → Nat → Instr}
    (h1 : w / 2 ^ a % 2 ^ b = c) (h2 : w / 2 ^ d % 2 ^ e = f) (h3 : w / 2 ^ x % 2 ^ y = z) (h4 : w / 2 ^ a' % 2 ^ b' = c')
    (h5 : w / 2 ^ d' % 2 ^ e' = f') :
    Row.matches ⟨[(a, b, c), (d, e, f), (x, y, z), (a', b', c'), (d', e', f')], p, o, l, g⟩ w = true := by
  simp [Row.matches, h1, h2, h3, h4, h5]

theorem find_here {r : Row} {rs : List Row} {w : Nat} (h : r.matches w = true) :
    (r :: rs).find? (fun r => r.matches w) = some r := List.find?_cons_of_pos h

theorem find_next {r x : Row} {rs : List Row} {w : Nat} (h : r.matches w = false)
    (hr : rs.find? (fun r => r.matches w) = some x) : (r :: rs).find? (fun r => r.matches w) = some x := by
  rw [List.find?_cons_of_neg (by simp [h]), hr]

/-- The decoder takes the row that matches, when the row takes the words bound before it. -/
theorem decodeBase_of {b : Bound} {w m : Nat} {r : Row} (hm : w / 2 ^ 25 % 2 ^ 6 = m)
    (hr : (rowsOf m).find? (fun r => r.matches w) = some r) (hp : b.pfx.isSome = true → r.pfx = true)
    (ho : b.obj.isSome = true → r.obj = true) (hl : b.live.isSome = true → r.live = true) :
    decodeBase b w = .ok (r.build b w) := by
  have hm' : w / 2 ^ 25 % 64 = m := hm
  unfold decodeBase
  rw [hm', hr]
  have h1 : (b.pfx.isSome && !r.pfx) = false := by cases h : b.pfx.isSome <;> simp_all
  have h2 : (b.obj.isSome && !r.obj) = false := by cases h : b.obj.isSome <;> simp_all
  have h3 : (b.live.isSome && !r.live) = false := by cases h : b.live.isSome <;> simp_all
  simp [h1, h2, h3]

/-! ## The words bound before a base -/

theorem prefix_reads (p : Pfx) :
    isPfxWord p.bits = true ∧ isObjWord p.bits = false ∧ isLiveWord p.bits = false ∧ Pfx.ofWord p.bits = p ∧
      p.bits / 2 ^ 31 % 2 = 0 ∧ p.bits % 64 = 0 := by
  obtain ⟨w, e⟩ : ∃ w, w = p.bits := ⟨_, rfl⟩
  have h := Layout.reads (w := w)
    [(6, 0), (3, p.et.toNat), (1, p.mz.toNat), (7, p.c.toNat), (3, p.rm.toNat), (1, p.inv.toNat), (4, p.k.toNat), (6, 0x3E), (1, 0)]
    ⟨by decide, p.et.isLt, p.mz.toNat_lt, p.c.isLt, p.rm.isLt, p.inv.toNat_lt, p.k.isLt, by decide, by decide, trivial⟩
    (by rw [e]; simp only [Pfx.bits, Layout.value]; omega)
  rw [← e]
  have hm := h 25 6 0x3E rfl
  refine ⟨by simpa [isPfxWord] using hm, ?_, ?_, ?_, by simpa using h 31 1 0 rfl, by simpa using h 0 6 0 rfl⟩
  · simpa [isObjWord] using field_ne (lo := 16) (n := 15) (v := 0x100) 9 6 0x3E (by decide) hm (by decide)
  · simpa [isLiveWord] using field_ne (lo := 22) (n := 9) (v := 15) 3 6 0x3E (by decide) hm (by decide)
  · simp only [Pfx.ofWord, bitsAt_of (h 21 4 _ rfl), bitAt_of (h 20 1 _ rfl), bitsAt_of (h 17 3 _ rfl), bitsAt_of (h 10 7 _ rfl),
      bitAt_of (h 9 1 _ rfl), bitsAt_of (h 6 3 _ rfl)]

theorem object_reads (o : BitVec 16) :
    isObjWord (0x01000000 + o.toNat) = true ∧ (0x01000000 + o.toNat) / 2 ^ 31 % 2 = 0 ∧ bitsAt (0x01000000 + o.toNat) 0 16 = o := by
  obtain ⟨w, e⟩ : ∃ w, w = 0x01000000 + o.toNat := ⟨_, rfl⟩
  have h := Layout.reads (w := w) [(16, o.toNat), (15, 0x100), (1, 0)] ⟨o.isLt, by decide, by decide, trivial⟩
    (by rw [e]; simp only [Layout.value]; omega)
  rw [← e]
  exact ⟨by simpa [isObjWord] using h 16 15 0x100 rfl, by simpa using h 31 1 0 rfl, bitsAt_of (h 0 16 _ rfl)⟩

theorem live_reads (l : LiveSet) :
    isObjWord l.bits = false ∧ isLiveWord l.bits = true ∧ LiveSet.ofWord l.bits = l ∧ l.bits / 2 ^ 31 % 2 = 0 ∧ l.bits % 2 = 0 := by
  obtain ⟨w, e⟩ : ∃ w, w = l.bits := ⟨_, rfl⟩
  have h := Layout.reads (w := w)
    [(1, 0), (4, l.wcount.toNat), (5, l.wbase.toNat), (5, l.vcount.toNat), (7, l.vbase.toNat), (9, 15), (1, 0)]
    ⟨by decide, l.wcount.isLt, l.wbase.isLt, l.vcount.isLt, l.vbase.isLt, by decide, by decide, trivial⟩
    (by rw [e]; simp only [LiveSet.bits, Layout.value]; omega)
  rw [← e]
  refine ⟨?_, by simpa [isLiveWord] using h 22 9 15 rfl, ?_, by simpa using h 31 1 0 rfl, by simpa using h 0 1 0 rfl⟩
  · simpa [isObjWord] using field_ne (lo := 16) (n := 15) (v := 0x100) 6 9 15 (by decide) (h 22 9 15 rfl) (by decide)
  · simp only [LiveSet.ofWord, bitsAt_of (h 15 7 _ rfl), bitsAt_of (h 10 5 _ rfl), bitsAt_of (h 5 5 _ rfl), bitsAt_of (h 1 4 _ rfl)]

/-! ## A prefix that a well-formed instruction carries is defined -/

theorem and_right {a b : Bool} (h : (a && b) = true) : b = true := by simp_all

theorem defined_of_fits {p : Option Pfx} {rm : Bool} {ets : List Nat} {q : Fourth} {mz : Bool}
    (h : prefixFits p rm ets q mz = true) : ∀ x, p = some x → x.defined = true := by
  rintro x rfl; simp_all [prefixFits]

theorem defined_of_atomic {p : Option Pfx} {nr : Bool} {ets : List Nat} (h : atomicFits p nr ets = true) :
    ∀ x, p = some x → x.defined = true := by
  rintro x rfl; simp_all [atomicFits]

theorem noRet_false {b : Bound} {w : Nat} {ets : List Nat} (h : atomicFits b.pfx false ets = true) : noRet b w = false := by
  unfold noRet; unfold atomicFits at h; split <;> simp_all

theorem noRet_true {b : Bound} {w : Nat} {ets : List Nat} (h : atomicFits b.pfx true ets = true)
    (hd : w / 2 ^ 18 % 2 ^ 7 = 0) : noRet b w = true := by
  unfold noRet; unfold atomicFits at h
  have hd' : w / 2 ^ 18 % 128 = 0 := hd
  split <;> simp_all

theorem no_some {α : Type} {p : Prop} {o : Option α} (ho : o = none) (h : o.isSome = true) : p := by subst ho; cases h

theorem no_eq {α : Type} {p : Prop} {o : Option α} {x : α} (ho : o = none) (h : o = some x) : p := by subst ho; cases h

/-- A word that is none of the words bound before a base. -/
def plainWord (w : Nat) : Prop :=
  isPfxWord w = false ∧ isObjWord w = false ∧ isLiveWord w = false

theorem plain_of_major {w m : Nat} (hm : w / 2 ^ 25 % 2 ^ 6 = m) (h : 0 ≠ m ∧ 1 ≠ m ∧ 0x3E ≠ m) : plainWord w := by
  refine ⟨?_, ?_, ?_⟩
  · simpa [isPfxWord] using (show w / 2 ^ 25 % 64 ≠ 0x3E from fun e => h.2.2 (e.symm.trans hm))
  · simpa [isObjWord] using field_ne (lo := 16) (n := 15) (v := 0x100) 9 6 m (by decide) hm h.1
  · simpa [isLiveWord] using field_ne (lo := 22) (n := 9) (v := 15) 3 6 m (by decide) hm h.2.1

theorem plain_of_zero {w k m v : Nat} (hm : w / 2 ^ 25 % 2 ^ 6 = 0) (hk : k + m ≤ 15) (h : w / 2 ^ (16 + k) % 2 ^ m = v)
    (hv : 0x100 / 2 ^ k % 2 ^ m ≠ v) : plainWord w := by
  refine ⟨by simpa [isPfxWord] using (show w / 2 ^ 25 % 64 ≠ 0x3E from fun e => by simp_all), ?_, ?_⟩
  · simpa [isObjWord] using field_ne (lo := 16) (n := 15) (v := 0x100) k m v hk h hv
  · simpa [isLiveWord] using field_ne (lo := 22) (n := 9) (v := 15) 3 6 0 (by decide) hm (by decide)

theorem plain_of_one {w k m v : Nat} (hm : w / 2 ^ 25 % 2 ^ 6 = 1) (hk : k + m ≤ 9) (h : w / 2 ^ (22 + k) % 2 ^ m = v)
    (hv : 15 / 2 ^ k % 2 ^ m ≠ v) : plainWord w := by
  refine ⟨by simpa [isPfxWord] using (show w / 2 ^ 25 % 64 ≠ 0x3E from fun e => by simp_all), ?_, ?_⟩
  · simpa [isObjWord] using field_ne (lo := 16) (n := 15) (v := 0x100) 9 6 1 (by decide) hm (by decide)
  · simpa [isLiveWord] using field_ne (lo := 22) (n := 9) (v := 15) k m v hk h hv

theorem decode_object {o : BitVec 16} {ws : List Nat} {i : Instr} {n : Nat} (h : decodeBound ⟨none, some o, none⟩ ws = .ok (i, n)) :
    decodeWords ((0x01000000 + o.toNat) :: ws) = .ok (i, n + 1) := by
  obtain ⟨a, b, c⟩ := object_reads o
  generalize 0x01000000 + o.toNat = v at a b c ⊢
  simp only [Nat.reducePow] at b
  simp [decodeWords, a, b, c, h, Except.map]

/-- Decoding the words of an instruction gives it back, from what its base word alone decodes to. -/
theorem decode_encode {i : Instr} {w : Nat} (hw : i.baseWord? = some w) (hb : decodeBase i.bound w = .ok i)
    (hp : plainWord w) (hd : ∀ p, i.bound.pfx = some p → p.defined = true ∧ w / 2 ^ 25 % 64 ≠ 0x3F)
    (hl : i.bound.live.isSome = true → i.bound.pfx = none ∧ i.bound.obj = none) :
    decodeWords (encode i) = .ok (i, (encode i).length) := by
  obtain ⟨h1, h2, h3⟩ := hp
  unfold encode
  rw [hw]
  generalize hbd : i.bound = b at *
  obtain ⟨pf, ob, lv⟩ := b
  have base : decodeBound ⟨none, ob, lv⟩ [w] = (decodeBase ⟨none, ob, lv⟩ w).map fun i => (i, 1) := by
    simp [decodeBound, h1, h2]
  cases lv with
  | some l =>
    obtain ⟨rfl, rfl⟩ := hl rfl
    obtain ⟨a, b, c, d, e⟩ := live_reads l
    show decodeWords [l.bits, w] = .ok (i, 2)
    generalize l.bits = v at a b c d e ⊢
    simp only [Nat.reducePow] at d
    simp [decodeWords, a, b, c, d, e, base, hb, Except.map]
  | none =>
    cases pf with
    | none =>
      cases ob with
      | none => simp [decodeWords, h2, h3, base, hb, Except.map]
      | some o =>
        exact decode_object (by simp [base, hb, Except.map])
    | some p =>
      obtain ⟨a, b, c, d, e, f⟩ := prefix_reads p
      obtain ⟨hdef, h3f⟩ := hd p rfl
      have bound : decodeBound ⟨none, ob, none⟩ [p.bits, w] = .ok (i, 2) := by
        generalize p.bits = u at a b c d e f ⊢
        simp only [Nat.reducePow] at e h3f
        have hpf : decodePfx u = .ok p := by simp [decodePfx, d, e, f, hdef]
        simp [decodeBound, a, hpf, h1, h2, h3f, hb, Except.map]
      cases ob with
      | none =>
        show decodeWords [p.bits, w] = .ok (i, 2)
        simp [decodeWords, b, c, bound]
      | some o =>
        exact decode_object bound

end Sys2Proof.Laws
end

