-- ==== Sys2Proof/Laws/Forms.lean ====
section
/-! SUPPORT. A form's fields read back from a word that holds them (R62 to R68). -/
namespace Sys2Proof.Laws

theorem BareForm_of {f : BareForm} {b : Bound} {w : Nat} (h31 : w / 2 ^ 31 % 2 ^ 1 = f.c.toNat) :
    BareForm.ofWord b w = f := by
  simp only [BareForm.ofWord, bitAt_of h31]

theorem RegAForm_of {f : RegAForm} {b : Bound} {w : Nat} (h31 : w / 2 ^ 31 % 2 ^ 1 = f.c.toNat) (h0 : w / 2 ^ 0 % 2 ^ 7 = f.a.toNat) :
    RegAForm.ofWord b w = f := by
  simp only [RegAForm.ofWord, bitAt_of h31, bitsAt_of h0]

theorem RegDForm_of {f : RegDForm} {b : Bound} {w : Nat} (h31 : w / 2 ^ 31 % 2 ^ 1 = f.c.toNat) (h0 : w / 2 ^ 0 % 2 ^ 7 = f.d.toNat) :
    RegDForm.ofWord b w = f := by
  simp only [RegDForm.ofWord, bitAt_of h31, bitsAt_of h0]

theorem RqReadForm_of {f : RqReadForm} {b : Bound} {w : Nat} (h31 : w / 2 ^ 31 % 2 ^ 1 = f.c.toNat) (h12 : w / 2 ^ 12 % 2 ^ 4 = f.f.toNat) (h8 : w / 2 ^ 8 % 2 ^ 4 = f.e.toNat) (h0 : w / 2 ^ 0 % 2 ^ 7 = f.d.toNat) :
    RqReadForm.ofWord b w = f := by
  simp only [RqReadForm.ofWord, bitAt_of h31, bitsAt_of h12, bitsAt_of h8, bitsAt_of h0]

theorem RqWriteForm_of {f : RqWriteForm} {b : Bound} {w : Nat} (h31 : w / 2 ^ 31 % 2 ^ 1 = f.c.toNat) (h12 : w / 2 ^ 12 % 2 ^ 4 = f.f.toNat) (h8 : w / 2 ^ 8 % 2 ^ 4 = f.e.toNat) (h0 : w / 2 ^ 0 % 2 ^ 7 = f.a.toNat) :
    RqWriteForm.ofWord b w = f := by
  simp only [RqWriteForm.ofWord, bitAt_of h31, bitsAt_of h12, bitsAt_of h8, bitsAt_of h0]

theorem RqDropForm_of {f : RqDropForm} {b : Bound} {w : Nat} (h31 : w / 2 ^ 31 % 2 ^ 1 = f.c.toNat) (h8 : w / 2 ^ 8 % 2 ^ 4 = f.e.toNat) :
    RqDropForm.ofWord b w = f := by
  simp only [RqDropForm.ofWord, bitAt_of h31, bitsAt_of h8]

theorem BankForm_of {f : BankForm} {b : Bound} {w : Nat} (h31 : w / 2 ^ 31 % 2 ^ 1 = f.c.toNat) (h0 : w / 2 ^ 0 % 2 ^ 1 = f.k.toNat) :
    BankForm.ofWord b w = f := by
  simp only [BankForm.ofWord, bitAt_of h31, bitsAt_of h0]

theorem LaunchWForm_of {f : LaunchWForm} {b : Bound} {w : Nat} (h31 : w / 2 ^ 31 % 2 ^ 1 = f.c.toNat) (h7 : w / 2 ^ 7 % 2 ^ 7 = f.d.toNat) (h0 : w / 2 ^ 0 % 2 ^ 7 = f.a.toNat) :
    LaunchWForm.ofWord b w = f := by
  simp only [LaunchWForm.ofWord, bitAt_of h31, bitsAt_of h7, bitsAt_of h0]

theorem CodeForm_of {f : CodeForm} {b : Bound} {w : Nat} (h31 : w / 2 ^ 31 % 2 ^ 1 = f.c.toNat) (h0 : w / 2 ^ 0 % 2 ^ 16 = f.n.toNat) :
    CodeForm.ofWord b w = f := by
  simp only [CodeForm.ofWord, bitAt_of h31, bitsAt_of h0]

theorem TlbinvForm_of {f : TlbinvForm} {b : Bound} {w : Nat} (h31 : w / 2 ^ 31 % 2 ^ 1 = f.c.toNat) (h7 : w / 2 ^ 7 % 2 ^ 2 = f.m.toNat) (h0 : w / 2 ^ 0 % 2 ^ 7 = f.p.toNat) :
    TlbinvForm.ofWord b w = f := by
  simp only [TlbinvForm.ofWord, bitAt_of h31, bitsAt_of h7, bitsAt_of h0]

theorem OtinvForm_of {f : OtinvForm} {b : Bound} {w : Nat} (h31 : w / 2 ^ 31 % 2 ^ 1 = f.c.toNat) (h7 : w / 2 ^ 7 % 2 ^ 1 = f.l.toNat) (h0 : w / 2 ^ 0 % 2 ^ 7 = f.o.toNat) :
    OtinvForm.ofWord b w = f := by
  simp only [OtinvForm.ofWord, bitAt_of h31, bitsAt_of h7, bitsAt_of h0]

theorem CtxRegForm_of {f : CtxRegForm} {b : Bound} {w : Nat} (h31 : w / 2 ^ 31 % 2 ^ 1 = f.c.toNat) (h0 : w / 2 ^ 0 % 2 ^ 7 = f.p.toNat) :
    CtxRegForm.ofWord b w = f := by
  simp only [CtxRegForm.ofWord, bitAt_of h31, bitsAt_of h0]

theorem BrForm_of {f : BrForm} {b : Bound} {w : Nat} (h31 : w / 2 ^ 31 % 2 ^ 1 = f.c.toNat) (h18 : w / 2 ^ 18 % 2 ^ 4 = f.k.toNat) (h17 : w / 2 ^ 17 % 2 ^ 1 = f.n.toNat) (h0 : w / 2 ^ 0 % 2 ^ 14 = f.o.toNat) :
    BrForm.ofWord b w = f := by
  simp only [BrForm.ofWord, bitAt_of h31, bitsAt_of h18, bitsAt_of h17, bitsAt_of h0]

theorem CallForm_of {f : CallForm} {b : Bound} {w : Nat} (h31 : w / 2 ^ 31 % 2 ^ 1 = f.c.toNat) (h0 : w / 2 ^ 0 % 2 ^ 14 = f.o.toNat) :
    CallForm.ofWord b w = f := by
  simp only [CallForm.ofWord, bitAt_of h31, bitsAt_of h0]

theorem ReformForm_of {f : ReformForm} {b : Bound} {w : Nat} (h31 : w / 2 ^ 31 % 2 ^ 1 = f.c.toNat) (h21 : w / 2 ^ 21 % 2 ^ 1 = f.x.toNat) (h14 : w / 2 ^ 14 % 2 ^ 7 = f.r.toNat) (h0 : w / 2 ^ 0 % 2 ^ 14 = f.o.toNat) :
    ReformForm.ofWord b w = f := by
  simp only [ReformForm.ofWord, bitAt_of h31, bitAt_of h21, bitsAt_of h14, bitsAt_of h0]

theorem ReformXForm_of {f : ReformXForm} {b : Bound} {w : Nat} (blive : b.live = f.live) (h31 : w / 2 ^ 31 % 2 ^ 1 = f.c.toNat) (h21 : w / 2 ^ 21 % 2 ^ 1 = f.x.toNat) (h14 : w / 2 ^ 14 % 2 ^ 7 = f.r.toNat) (h0 : w / 2 ^ 0 % 2 ^ 14 = f.o.toNat) :
    ReformXForm.ofWord b w = f := by
  simp only [ReformXForm.ofWord, blive, bitAt_of h31, bitAt_of h21, bitsAt_of h14, bitsAt_of h0]

theorem CalliForm_of {f : CalliForm} {b : Bound} {w : Nat} (h31 : w / 2 ^ 31 % 2 ^ 1 = f.c.toNat) (h21 : w / 2 ^ 21 % 2 ^ 1 = f.x.toNat) (h14 : w / 2 ^ 14 % 2 ^ 7 = f.a.toNat) :
    CalliForm.ofWord b w = f := by
  simp only [CalliForm.ofWord, bitAt_of h31, bitAt_of h21, bitsAt_of h14]

theorem LoopIForm_of {f : LoopIForm} {b : Bound} {w : Nat} (h31 : w / 2 ^ 31 % 2 ^ 1 = f.c.toNat) (h10 : w / 2 ^ 10 % 2 ^ 12 = f.n.toNat) (h0 : w / 2 ^ 0 % 2 ^ 10 = f.l.toNat) :
    LoopIForm.ofWord b w = f := by
  simp only [LoopIForm.ofWord, bitAt_of h31, bitsAt_of h10, bitsAt_of h0]

theorem LoopRForm_of {f : LoopRForm} {b : Bound} {w : Nat} (h31 : w / 2 ^ 31 % 2 ^ 1 = f.c.toNat) (h22 : w / 2 ^ 22 % 2 ^ 1 = f.x.toNat) (h10 : w / 2 ^ 10 % 2 ^ 7 = f.a.toNat) (h0 : w / 2 ^ 0 % 2 ^ 10 = f.l.toNat) :
    LoopRForm.ofWord b w = f := by
  simp only [LoopRForm.ofWord, bitAt_of h31, bitAt_of h22, bitsAt_of h10, bitsAt_of h0]

theorem SrdForm_of {f : SrdForm} {b : Bound} {w : Nat} (h31 : w / 2 ^ 31 % 2 ^ 1 = f.c.toNat) (h16 : w / 2 ^ 16 % 2 ^ 9 = f.s.toNat) (h7 : w / 2 ^ 7 % 2 ^ 2 = f.h.toNat) (h0 : w / 2 ^ 0 % 2 ^ 7 = f.d.toNat) :
    SrdForm.ofWord b w = f := by
  simp only [SrdForm.ofWord, bitAt_of h31, bitsAt_of h16, bitsAt_of h7, bitsAt_of h0]

theorem SwrForm_of {f : SwrForm} {b : Bound} {w : Nat} (h31 : w / 2 ^ 31 % 2 ^ 1 = f.c.toNat) (h16 : w / 2 ^ 16 % 2 ^ 9 = f.s.toNat) (h7 : w / 2 ^ 7 % 2 ^ 2 = f.h.toNat) (h0 : w / 2 ^ 0 % 2 ^ 7 = f.a.toNat) :
    SwrForm.ofWord b w = f := by
  simp only [SwrForm.ofWord, bitAt_of h31, bitsAt_of h16, bitsAt_of h7, bitsAt_of h0]

theorem MovCForm_of {f : MovCForm} {b : Bound} {w : Nat} (h31 : w / 2 ^ 31 % 2 ^ 1 = f.c.toNat) (h16 : w / 2 ^ 16 % 2 ^ 6 = f.n.toNat) (h0 : w / 2 ^ 0 % 2 ^ 7 = f.d.toNat) :
    MovCForm.ofWord b w = f := by
  simp only [MovCForm.ofWord, bitAt_of h31, bitsAt_of h16, bitsAt_of h0]

theorem A3Form_of {f : A3Form} {b : Bound} {w : Nat} (bpfx : b.pfx = f.pfx) (h31 : w / 2 ^ 31 % 2 ^ 1 = f.c.toNat) (h18 : w / 2 ^ 18 % 2 ^ 7 = f.d.toNat) (h11 : w / 2 ^ 11 % 2 ^ 7 = f.a.toNat) (h4 : w / 2 ^ 4 % 2 ^ 7 = f.b.toNat) (h1 : w / 2 ^ 1 % 2 ^ 1 = f.x.toNat) (h0 : w / 2 ^ 0 % 2 ^ 1 = f.y.toNat) :
    A3Form.ofWord b w = f := by
  simp only [A3Form.ofWord, bpfx, bitAt_of h31, bitsAt_of h18, bitsAt_of h11, bitsAt_of h4, bitAt_of h1, bitAt_of h0]

theorem A2Form_of {f : A2Form} {b : Bound} {w : Nat} (bpfx : b.pfx = f.pfx) (h31 : w / 2 ^ 31 % 2 ^ 1 = f.c.toNat) (h18 : w / 2 ^ 18 % 2 ^ 7 = f.d.toNat) (h11 : w / 2 ^ 11 % 2 ^ 7 = f.a.toNat) (h1 : w / 2 ^ 1 % 2 ^ 1 = f.x.toNat) :
    A2Form.ofWord b w = f := by
  simp only [A2Form.ofWord, bpfx, bitAt_of h31, bitsAt_of h18, bitsAt_of h11, bitAt_of h1]

theorem I10Form_of {f : I10Form} {b : Bound} {w : Nat} (bpfx : b.pfx = f.pfx) (h31 : w / 2 ^ 31 % 2 ^ 1 = f.c.toNat) (h18 : w / 2 ^ 18 % 2 ^ 7 = f.d.toNat) (h11 : w / 2 ^ 11 % 2 ^ 7 = f.a.toNat) (h10 : w / 2 ^ 10 % 2 ^ 1 = f.x.toNat) (h0 : w / 2 ^ 0 % 2 ^ 10 = f.i.toNat) :
    I10Form.ofWord b w = f := by
  simp only [I10Form.ofWord, bpfx, bitAt_of h31, bitsAt_of h18, bitsAt_of h11, bitAt_of h10, bitsAt_of h0]

theorem I8Form_of {f : I8Form} {b : Bound} {w : Nat} (bpfx : b.pfx = f.pfx) (h31 : w / 2 ^ 31 % 2 ^ 1 = f.c.toNat) (h18 : w / 2 ^ 18 % 2 ^ 7 = f.d.toNat) (h11 : w / 2 ^ 11 % 2 ^ 7 = f.a.toNat) (h10 : w / 2 ^ 10 % 2 ^ 1 = f.x.toNat) (h0 : w / 2 ^ 0 % 2 ^ 8 = f.i.toNat) :
    I8Form.ofWord b w = f := by
  simp only [I8Form.ofWord, bpfx, bitAt_of h31, bitsAt_of h18, bitsAt_of h11, bitAt_of h10, bitsAt_of h0]

theorem I5Form_of {f : I5Form} {b : Bound} {w : Nat} (bpfx : b.pfx = f.pfx) (h31 : w / 2 ^ 31 % 2 ^ 1 = f.c.toNat) (h18 : w / 2 ^ 18 % 2 ^ 7 = f.d.toNat) (h11 : w / 2 ^ 11 % 2 ^ 7 = f.a.toNat) (h10 : w / 2 ^ 10 % 2 ^ 1 = f.x.toNat) (h0 : w / 2 ^ 0 % 2 ^ 5 = f.n.toNat) :
    I5Form.ofWord b w = f := by
  simp only [I5Form.ofWord, bpfx, bitAt_of h31, bitsAt_of h18, bitsAt_of h11, bitAt_of h10, bitsAt_of h0]

theorem FtabForm_of {f : FtabForm} {b : Bound} {w : Nat} (bpfx : b.pfx = f.pfx) (h31 : w / 2 ^ 31 % 2 ^ 1 = f.c.toNat) (h18 : w / 2 ^ 18 % 2 ^ 7 = f.d.toNat) (h11 : w / 2 ^ 11 % 2 ^ 7 = f.a.toNat) (h4 : w / 2 ^ 4 % 2 ^ 2 = f.t.toNat) (h1 : w / 2 ^ 1 % 2 ^ 1 = f.x.toNat) :
    FtabForm.ofWord b w = f := by
  simp only [FtabForm.ofWord, bpfx, bitAt_of h31, bitsAt_of h18, bitsAt_of h11, bitsAt_of h4, bitAt_of h1]

theorem FtabLdForm_of {f : FtabLdForm} {b : Bound} {w : Nat} (bpfx : b.pfx = f.pfx) (h31 : w / 2 ^ 31 % 2 ^ 1 = f.c.toNat) (h11 : w / 2 ^ 11 % 2 ^ 7 = f.a.toNat) (h6 : w / 2 ^ 6 % 2 ^ 1 = f.k.toNat) (h4 : w / 2 ^ 4 % 2 ^ 2 = f.t.toNat) (h1 : w / 2 ^ 1 % 2 ^ 1 = f.x.toNat) :
    FtabLdForm.ofWord b w = f := by
  simp only [FtabLdForm.ofWord, bpfx, bitAt_of h31, bitsAt_of h11, bitsAt_of h6, bitsAt_of h4, bitAt_of h1]

theorem FtabBankForm_of {f : FtabBankForm} {b : Bound} {w : Nat} (bpfx : b.pfx = f.pfx) (h31 : w / 2 ^ 31 % 2 ^ 1 = f.c.toNat) (h6 : w / 2 ^ 6 % 2 ^ 1 = f.k.toNat) (h4 : w / 2 ^ 4 % 2 ^ 2 = f.t.toNat) :
    FtabBankForm.ofWord b w = f := by
  simp only [FtabBankForm.ofWord, bpfx, bitAt_of h31, bitsAt_of h6, bitsAt_of h4]

theorem CvtForm_of {f : CvtForm} {b : Bound} {w : Nat} (bpfx : b.pfx = f.pfx) (h31 : w / 2 ^ 31 % 2 ^ 1 = f.c.toNat) (h18 : w / 2 ^ 18 % 2 ^ 7 = f.d.toNat) (h11 : w / 2 ^ 11 % 2 ^ 7 = f.a.toNat) (h9 : w / 2 ^ 9 % 2 ^ 2 = f.g.toNat) (h5 : w / 2 ^ 5 % 2 ^ 4 = f.t.toNat) (h1 : w / 2 ^ 1 % 2 ^ 1 = f.x.toNat) :
    CvtForm.ofWord b w = f := by
  simp only [CvtForm.ofWord, bpfx, bitAt_of h31, bitsAt_of h18, bitsAt_of h11, bitsAt_of h9, bitsAt_of h5, bitAt_of h1]

theorem PackForm_of {f : PackForm} {b : Bound} {w : Nat} (bpfx : b.pfx = f.pfx) (h31 : w / 2 ^ 31 % 2 ^ 1 = f.c.toNat) (h18 : w / 2 ^ 18 % 2 ^ 7 = f.d.toNat) (h11 : w / 2 ^ 11 % 2 ^ 7 = f.a.toNat) (h7 : w / 2 ^ 7 % 2 ^ 4 = f.t.toNat) (h4 : w / 2 ^ 4 % 2 ^ 3 = f.i.toNat) (h1 : w / 2 ^ 1 % 2 ^ 1 = f.x.toNat) :
    PackForm.ofWord b w = f := by
  simp only [PackForm.ofWord, bpfx, bitAt_of h31, bitsAt_of h18, bitsAt_of h11, bitsAt_of h7, bitsAt_of h4, bitAt_of h1]

theorem CmpForm_of {f : CmpForm} {b : Bound} {w : Nat} (bpfx : b.pfx = f.pfx) (h31 : w / 2 ^ 31 % 2 ^ 1 = f.c.toNat) (h22 : w / 2 ^ 22 % 2 ^ 3 = f.n.toNat) (h18 : w / 2 ^ 18 % 2 ^ 4 = f.k.toNat) (h11 : w / 2 ^ 11 % 2 ^ 7 = f.a.toNat) (h4 : w / 2 ^ 4 % 2 ^ 7 = f.b.toNat) (h1 : w / 2 ^ 1 % 2 ^ 1 = f.x.toNat) (h0 : w / 2 ^ 0 % 2 ^ 1 = f.y.toNat) :
    CmpForm.ofWord b w = f := by
  simp only [CmpForm.ofWord, bpfx, bitAt_of h31, bitsAt_of h22, bitsAt_of h18, bitsAt_of h11, bitsAt_of h4, bitAt_of h1, bitAt_of h0]

theorem CmpIForm_of {f : CmpIForm} {b : Bound} {w : Nat} (bpfx : b.pfx = f.pfx) (h31 : w / 2 ^ 31 % 2 ^ 1 = f.c.toNat) (h22 : w / 2 ^ 22 % 2 ^ 3 = f.n.toNat) (h18 : w / 2 ^ 18 % 2 ^ 4 = f.k.toNat) (h11 : w / 2 ^ 11 % 2 ^ 7 = f.a.toNat) (h10 : w / 2 ^ 10 % 2 ^ 1 = f.x.toNat) (h0 : w / 2 ^ 0 % 2 ^ 10 = f.i.toNat) :
    CmpIForm.ofWord b w = f := by
  simp only [CmpIForm.ofWord, bpfx, bitAt_of h31, bitsAt_of h22, bitsAt_of h18, bitsAt_of h11, bitAt_of h10, bitsAt_of h0]

theorem P3Form_of {f : P3Form} {b : Bound} {w : Nat} (bpfx : b.pfx = f.pfx) (h31 : w / 2 ^ 31 % 2 ^ 1 = f.c.toNat) (h18 : w / 2 ^ 18 % 2 ^ 4 = f.d.toNat) (h11 : w / 2 ^ 11 % 2 ^ 4 = f.a.toNat) (h4 : w / 2 ^ 4 % 2 ^ 4 = f.b.toNat) :
    P3Form.ofWord b w = f := by
  simp only [P3Form.ofWord, bpfx, bitAt_of h31, bitsAt_of h18, bitsAt_of h11, bitsAt_of h4]

theorem KtovForm_of {f : KtovForm} {b : Bound} {w : Nat} (bpfx : b.pfx = f.pfx) (h31 : w / 2 ^ 31 % 2 ^ 1 = f.c.toNat) (h18 : w / 2 ^ 18 % 2 ^ 7 = f.d.toNat) (h11 : w / 2 ^ 11 % 2 ^ 4 = f.a.toNat) :
    KtovForm.ofWord b w = f := by
  simp only [KtovForm.ofWord, bpfx, bitAt_of h31, bitsAt_of h18, bitsAt_of h11]

theorem VtokForm_of {f : VtokForm} {b : Bound} {w : Nat} (bpfx : b.pfx = f.pfx) (h31 : w / 2 ^ 31 % 2 ^ 1 = f.c.toNat) (h18 : w / 2 ^ 18 % 2 ^ 4 = f.d.toNat) (h11 : w / 2 ^ 11 % 2 ^ 7 = f.a.toNat) (h1 : w / 2 ^ 1 % 2 ^ 1 = f.x.toNat) :
    VtokForm.ofWord b w = f := by
  simp only [VtokForm.ofWord, bpfx, bitAt_of h31, bitsAt_of h18, bitsAt_of h11, bitAt_of h1]

theorem WaitvForm_of {f : WaitvForm} {b : Bound} {w : Nat} (bpfx : b.pfx = f.pfx) (h31 : w / 2 ^ 31 % 2 ^ 1 = f.c.toNat) (h18 : w / 2 ^ 18 % 2 ^ 7 = f.d.toNat) (h11 : w / 2 ^ 11 % 2 ^ 7 = f.b.toNat) (h10 : w / 2 ^ 10 % 2 ^ 1 = f.y.toNat) :
    WaitvForm.ofWord b w = f := by
  simp only [WaitvForm.ofWord, bpfx, bitAt_of h31, bitsAt_of h18, bitsAt_of h11, bitAt_of h10]

theorem RedForm_of {f : RedForm} {b : Bound} {w : Nat} (bpfx : b.pfx = f.pfx) (h31 : w / 2 ^ 31 % 2 ^ 1 = f.c.toNat) (h11 : w / 2 ^ 11 % 2 ^ 7 = f.a.toNat) (h4 : w / 2 ^ 4 % 2 ^ 7 = f.b.toNat) (h1 : w / 2 ^ 1 % 2 ^ 1 = f.x.toNat) (h0 : w / 2 ^ 0 % 2 ^ 1 = f.y.toNat) :
    RedForm.ofWord b w = f := by
  simp only [RedForm.ofWord, bpfx, bitAt_of h31, bitsAt_of h11, bitsAt_of h4, bitAt_of h1, bitAt_of h0]

theorem ScopeForm_of {f : ScopeForm} {b : Bound} {w : Nat} (h31 : w / 2 ^ 31 % 2 ^ 1 = f.c.toNat) (h0 : w / 2 ^ 0 % 2 ^ 3 = f.p.toNat) :
    ScopeForm.ofWord b w = f := by
  simp only [ScopeForm.ofWord, bitAt_of h31, bitsAt_of h0]

theorem QfenceForm_of {f : QfenceForm} {b : Bound} {w : Nat} (h31 : w / 2 ^ 31 % 2 ^ 1 = f.c.toNat) (h7 : w / 2 ^ 7 % 2 ^ 7 = f.a.toNat) (h0 : w / 2 ^ 0 % 2 ^ 7 = f.b.toNat) :
    QfenceForm.ofWord b w = f := by
  simp only [QfenceForm.ofWord, bitAt_of h31, bitsAt_of h7, bitsAt_of h0]

theorem BarForm_of {f : BarForm} {b : Bound} {w : Nat} (h31 : w / 2 ^ 31 % 2 ^ 1 = f.c.toNat) (h0 : w / 2 ^ 0 % 2 ^ 8 = f.n.toNat) :
    BarForm.ofWord b w = f := by
  simp only [BarForm.ofWord, bitAt_of h31, bitsAt_of h0]

theorem CvdeclForm_of {f : CvdeclForm} {b : Bound} {w : Nat} (h31 : w / 2 ^ 31 % 2 ^ 1 = f.c.toNat) (h16 : w / 2 ^ 16 % 2 ^ 6 = f.n.toNat) (h0 : w / 2 ^ 0 % 2 ^ 10 = f.k.toNat) :
    CvdeclForm.ofWord b w = f := by
  simp only [CvdeclForm.ofWord, bitAt_of h31, bitsAt_of h16, bitsAt_of h0]

theorem AbarForm_of {f : AbarForm} {b : Bound} {w : Nat} (h31 : w / 2 ^ 31 % 2 ^ 1 = f.c.toNat) (h16 : w / 2 ^ 16 % 2 ^ 7 = f.r.toNat) (h0 : w / 2 ^ 0 % 2 ^ 16 = f.o.toNat) :
    AbarForm.ofWord b w = f := by
  simp only [AbarForm.ofWord, bitAt_of h31, bitsAt_of h16, bitsAt_of h0]

theorem QpushForm_of {f : QpushForm} {b : Bound} {w : Nat} (h31 : w / 2 ^ 31 % 2 ^ 1 = f.c.toNat) (h16 : w / 2 ^ 16 % 2 ^ 7 = f.a.toNat) (h0 : w / 2 ^ 0 % 2 ^ 5 = f.q.toNat) :
    QpushForm.ofWord b w = f := by
  simp only [QpushForm.ofWord, bitAt_of h31, bitsAt_of h16, bitsAt_of h0]

theorem QgetForm_of {f : QgetForm} {b : Bound} {w : Nat} (h31 : w / 2 ^ 31 % 2 ^ 1 = f.c.toNat) (h16 : w / 2 ^ 16 % 2 ^ 7 = f.d.toNat) (h0 : w / 2 ^ 0 % 2 ^ 5 = f.q.toNat) :
    QgetForm.ofWord b w = f := by
  simp only [QgetForm.ofWord, bitAt_of h31, bitsAt_of h16, bitsAt_of h0]

theorem QcloseForm_of {f : QcloseForm} {b : Bound} {w : Nat} (h31 : w / 2 ^ 31 % 2 ^ 1 = f.c.toNat) (h0 : w / 2 ^ 0 % 2 ^ 5 = f.q.toNat) :
    QcloseForm.ofWord b w = f := by
  simp only [QcloseForm.ofWord, bitAt_of h31, bitsAt_of h0]

theorem S3Form_of {f : S3Form} {b : Bound} {w : Nat} (bpfx : b.pfx = f.pfx) (h31 : w / 2 ^ 31 % 2 ^ 1 = f.c.toNat) (h18 : w / 2 ^ 18 % 2 ^ 5 = f.d.toNat) (h11 : w / 2 ^ 11 % 2 ^ 5 = f.a.toNat) (h4 : w / 2 ^ 4 % 2 ^ 5 = f.b.toNat) (h1 : w / 2 ^ 1 % 2 ^ 1 = f.x.toNat) (h0 : w / 2 ^ 0 % 2 ^ 1 = f.y.toNat) :
    S3Form.ofWord b w = f := by
  simp only [S3Form.ofWord, bpfx, bitAt_of h31, bitsAt_of h18, bitsAt_of h11, bitsAt_of h4, bitAt_of h1, bitAt_of h0]

theorem S2Form_of {f : S2Form} {b : Bound} {w : Nat} (bpfx : b.pfx = f.pfx) (h31 : w / 2 ^ 31 % 2 ^ 1 = f.c.toNat) (h18 : w / 2 ^ 18 % 2 ^ 5 = f.d.toNat) (h11 : w / 2 ^ 11 % 2 ^ 5 = f.a.toNat) (h1 : w / 2 ^ 1 % 2 ^ 1 = f.x.toNat) :
    S2Form.ofWord b w = f := by
  simp only [S2Form.ofWord, bpfx, bitAt_of h31, bitsAt_of h18, bitsAt_of h11, bitAt_of h1]

theorem SToVForm_of {f : SToVForm} {b : Bound} {w : Nat} (bpfx : b.pfx = f.pfx) (h31 : w / 2 ^ 31 % 2 ^ 1 = f.c.toNat) (h18 : w / 2 ^ 18 % 2 ^ 7 = f.d.toNat) (h11 : w / 2 ^ 11 % 2 ^ 5 = f.a.toNat) (h1 : w / 2 ^ 1 % 2 ^ 1 = f.x.toNat) :
    SToVForm.ofWord b w = f := by
  simp only [SToVForm.ofWord, bpfx, bitAt_of h31, bitsAt_of h18, bitsAt_of h11, bitAt_of h1]

theorem SdotForm_of {f : SdotForm} {b : Bound} {w : Nat} (bpfx : b.pfx = f.pfx) (h31 : w / 2 ^ 31 % 2 ^ 1 = f.c.toNat) (h18 : w / 2 ^ 18 % 2 ^ 7 = f.d.toNat) (h11 : w / 2 ^ 11 % 2 ^ 5 = f.a.toNat) (h4 : w / 2 ^ 4 % 2 ^ 5 = f.b.toNat) (h1 : w / 2 ^ 1 % 2 ^ 1 = f.x.toNat) (h0 : w / 2 ^ 0 % 2 ^ 1 = f.y.toNat) :
    SdotForm.ofWord b w = f := by
  simp only [SdotForm.ofWord, bpfx, bitAt_of h31, bitsAt_of h18, bitsAt_of h11, bitsAt_of h4, bitAt_of h1, bitAt_of h0]

theorem VToSForm_of {f : VToSForm} {b : Bound} {w : Nat} (bpfx : b.pfx = f.pfx) (h31 : w / 2 ^ 31 % 2 ^ 1 = f.c.toNat) (h18 : w / 2 ^ 18 % 2 ^ 5 = f.d.toNat) (h11 : w / 2 ^ 11 % 2 ^ 7 = f.a.toNat) (h1 : w / 2 ^ 1 % 2 ^ 1 = f.x.toNat) :
    VToSForm.ofWord b w = f := by
  simp only [VToSForm.ofWord, bpfx, bitAt_of h31, bitsAt_of h18, bitsAt_of h11, bitAt_of h1]

theorem SlaneForm_of {f : SlaneForm} {b : Bound} {w : Nat} (bpfx : b.pfx = f.pfx) (h31 : w / 2 ^ 31 % 2 ^ 1 = f.c.toNat) (h18 : w / 2 ^ 18 % 2 ^ 7 = f.d.toNat) (h11 : w / 2 ^ 11 % 2 ^ 5 = f.a.toNat) (h4 : w / 2 ^ 4 % 2 ^ 2 = f.i.toNat) (h1 : w / 2 ^ 1 % 2 ^ 1 = f.x.toNat) :
    SlaneForm.ofWord b w = f := by
  simp only [SlaneForm.ofWord, bpfx, bitAt_of h31, bitsAt_of h18, bitsAt_of h11, bitsAt_of h4, bitAt_of h1]

theorem SinsForm_of {f : SinsForm} {b : Bound} {w : Nat} (bpfx : b.pfx = f.pfx) (h31 : w / 2 ^ 31 % 2 ^ 1 = f.c.toNat) (h18 : w / 2 ^ 18 % 2 ^ 5 = f.d.toNat) (h11 : w / 2 ^ 11 % 2 ^ 7 = f.a.toNat) (h4 : w / 2 ^ 4 % 2 ^ 2 = f.i.toNat) (h1 : w / 2 ^ 1 % 2 ^ 1 = f.x.toNat) :
    SinsForm.ofWord b w = f := by
  simp only [SinsForm.ofWord, bpfx, bitAt_of h31, bitsAt_of h18, bitsAt_of h11, bitsAt_of h4, bitAt_of h1]

theorem ScmpForm_of {f : ScmpForm} {b : Bound} {w : Nat} (bpfx : b.pfx = f.pfx) (h31 : w / 2 ^ 31 % 2 ^ 1 = f.c.toNat) (h22 : w / 2 ^ 22 % 2 ^ 3 = f.n.toNat) (h18 : w / 2 ^ 18 % 2 ^ 4 = f.d.toNat) (h11 : w / 2 ^ 11 % 2 ^ 5 = f.a.toNat) (h4 : w / 2 ^ 4 % 2 ^ 5 = f.b.toNat) (h1 : w / 2 ^ 1 % 2 ^ 1 = f.x.toNat) (h0 : w / 2 ^ 0 % 2 ^ 1 = f.y.toNat) :
    ScmpForm.ofWord b w = f := by
  simp only [ScmpForm.ofWord, bpfx, bitAt_of h31, bitsAt_of h22, bitsAt_of h18, bitsAt_of h11, bitsAt_of h4, bitAt_of h1, bitAt_of h0]

theorem ScvtNForm_of {f : ScvtNForm} {b : Bound} {w : Nat} (bpfx : b.pfx = f.pfx) (h31 : w / 2 ^ 31 % 2 ^ 1 = f.c.toNat) (h18 : w / 2 ^ 18 % 2 ^ 7 = f.d.toNat) (h11 : w / 2 ^ 11 % 2 ^ 5 = f.a.toNat) (h7 : w / 2 ^ 7 % 2 ^ 1 = f.t.toNat) (h5 : w / 2 ^ 5 % 2 ^ 2 = f.f.toNat) (h1 : w / 2 ^ 1 % 2 ^ 1 = f.x.toNat) :
    ScvtNForm.ofWord b w = f := by
  simp only [ScvtNForm.ofWord, bpfx, bitAt_of h31, bitsAt_of h18, bitsAt_of h11, bitsAt_of h7, bitsAt_of h5, bitAt_of h1]

theorem ScvtWForm_of {f : ScvtWForm} {b : Bound} {w : Nat} (bpfx : b.pfx = f.pfx) (h31 : w / 2 ^ 31 % 2 ^ 1 = f.c.toNat) (h18 : w / 2 ^ 18 % 2 ^ 5 = f.d.toNat) (h11 : w / 2 ^ 11 % 2 ^ 7 = f.a.toNat) (h5 : w / 2 ^ 5 % 2 ^ 2 = f.f.toNat) (h1 : w / 2 ^ 1 % 2 ^ 1 = f.x.toNat) :
    ScvtWForm.ofWord b w = f := by
  simp only [ScvtWForm.ofWord, bpfx, bitAt_of h31, bitsAt_of h18, bitsAt_of h11, bitsAt_of h5, bitAt_of h1]

theorem SwlsForm_of {f : SwlsForm} {b : Bound} {w : Nat} (bpfx : b.pfx = f.pfx) (h31 : w / 2 ^ 31 % 2 ^ 1 = f.c.toNat) (h18 : w / 2 ^ 18 % 2 ^ 5 = f.d.toNat) (h11 : w / 2 ^ 11 % 2 ^ 7 = f.a.toNat) (h4 : w / 2 ^ 4 % 2 ^ 6 = f.n.toNat) (h1 : w / 2 ^ 1 % 2 ^ 1 = f.x.toNat) :
    SwlsForm.ofWord b w = f := by
  simp only [SwlsForm.ofWord, bpfx, bitAt_of h31, bitsAt_of h18, bitsAt_of h11, bitsAt_of h4, bitAt_of h1]

theorem SfresForm_of {f : SfresForm} {b : Bound} {w : Nat} (bpfx : b.pfx = f.pfx) (h31 : w / 2 ^ 31 % 2 ^ 1 = f.c.toNat) (h18 : w / 2 ^ 18 % 2 ^ 5 = f.d.toNat) (h11 : w / 2 ^ 11 % 2 ^ 7 = f.a.toNat) (h4 : w / 2 ^ 4 % 2 ^ 5 = f.b.toNat) (h1 : w / 2 ^ 1 % 2 ^ 1 = f.x.toNat) (h0 : w / 2 ^ 0 % 2 ^ 1 = f.y.toNat) :
    SfresForm.ofWord b w = f := by
  simp only [SfresForm.ofWord, bpfx, bitAt_of h31, bitsAt_of h18, bitsAt_of h11, bitsAt_of h4, bitAt_of h1, bitAt_of h0]

theorem FilmAddForm_of {f : FilmAddForm} {b : Bound} {w : Nat} (bobj : b.obj = f.obj) (h31 : w / 2 ^ 31 % 2 ^ 1 = f.c.toNat) (h16 : w / 2 ^ 16 % 2 ^ 7 = f.a.toNat) (h11 : w / 2 ^ 11 % 2 ^ 5 = f.b.toNat) (h6 : w / 2 ^ 6 % 2 ^ 5 = f.e.toNat) :
    FilmAddForm.ofWord b w = f := by
  simp only [FilmAddForm.ofWord, bobj, bitAt_of h31, bitsAt_of h16, bitsAt_of h11, bitsAt_of h6]

theorem Film3Form_of {f : Film3Form} {b : Bound} {w : Nat} (bobj : b.obj = f.obj) (h31 : w / 2 ^ 31 % 2 ^ 1 = f.c.toNat) (h16 : w / 2 ^ 16 % 2 ^ 7 = f.d.toNat) (h9 : w / 2 ^ 9 % 2 ^ 7 = f.a.toNat) (h2 : w / 2 ^ 2 % 2 ^ 7 = f.b.toNat) :
    Film3Form.ofWord b w = f := by
  simp only [Film3Form.ofWord, bobj, bitAt_of h31, bitsAt_of h16, bitsAt_of h9, bitsAt_of h2]

theorem Reg2ObjForm_of {f : Reg2ObjForm} {b : Bound} {w : Nat} (bobj : b.obj = f.obj) (h31 : w / 2 ^ 31 % 2 ^ 1 = f.c.toNat) (h16 : w / 2 ^ 16 % 2 ^ 7 = f.a.toNat) (h9 : w / 2 ^ 9 % 2 ^ 7 = f.b.toNat) :
    Reg2ObjForm.ofWord b w = f := by
  simp only [Reg2ObjForm.ofWord, bobj, bitAt_of h31, bitsAt_of h16, bitsAt_of h9]

theorem TraceForm_of {f : TraceForm} {b : Bound} {w : Nat} (bobj : b.obj = f.obj) (h31 : w / 2 ^ 31 % 2 ^ 1 = f.c.toNat) (h16 : w / 2 ^ 16 % 2 ^ 7 = f.d.toNat) (h11 : w / 2 ^ 11 % 2 ^ 5 = f.a.toNat) :
    TraceForm.ofWord b w = f := by
  simp only [TraceForm.ofWord, bobj, bitAt_of h31, bitsAt_of h16, bitsAt_of h11]

theorem Reg2Form_of {f : Reg2Form} {b : Bound} {w : Nat} (h31 : w / 2 ^ 31 % 2 ^ 1 = f.c.toNat) (h16 : w / 2 ^ 16 % 2 ^ 7 = f.a.toNat) (h9 : w / 2 ^ 9 % 2 ^ 7 = f.b.toNat) :
    Reg2Form.ofWord b w = f := by
  simp only [Reg2Form.ofWord, bitAt_of h31, bitsAt_of h16, bitsAt_of h9]

theorem StexForm_of {f : StexForm} {b : Bound} {w : Nat} (bobj : b.obj = f.obj) (h31 : w / 2 ^ 31 % 2 ^ 1 = f.c.toNat) (h18 : w / 2 ^ 18 % 2 ^ 5 = f.d.toNat) (h11 : w / 2 ^ 11 % 2 ^ 5 = f.a.toNat) (h6 : w / 2 ^ 6 % 2 ^ 5 = f.b.toNat) :
    StexForm.ofWord b w = f := by
  simp only [StexForm.ofWord, bobj, bitAt_of h31, bitsAt_of h18, bitsAt_of h11, bitsAt_of h6]

theorem CastForm_of {f : CastForm} {b : Bound} {w : Nat} (bobj : b.obj = f.obj) (h31 : w / 2 ^ 31 % 2 ^ 1 = f.c.toNat) (h21 : w / 2 ^ 21 % 2 ^ 2 = f.q.toNat) (h16 : w / 2 ^ 16 % 2 ^ 5 = f.v.toNat) (h0 : w / 2 ^ 0 % 2 ^ 16 = f.o.toNat) :
    CastForm.ofWord b w = f := by
  simp only [CastForm.ofWord, bobj, bitAt_of h31, bitsAt_of h21, bitsAt_of h16, bitsAt_of h0]

theorem CastwForm_of {f : CastwForm} {b : Bound} {w : Nat} (bobj : b.obj = f.obj) (h31 : w / 2 ^ 31 % 2 ^ 1 = f.c.toNat) (h21 : w / 2 ^ 21 % 2 ^ 2 = f.q.toNat) (h9 : w / 2 ^ 9 % 2 ^ 7 = f.a.toNat) :
    CastwForm.ofWord b w = f := by
  simp only [CastwForm.ofWord, bobj, bitAt_of h31, bitsAt_of h21, bitsAt_of h9]

theorem CasttabForm_of {f : CasttabForm} {b : Bound} {w : Nat} (bobj : b.obj = f.obj) (h31 : w / 2 ^ 31 % 2 ^ 1 = f.c.toNat) (h21 : w / 2 ^ 21 % 2 ^ 2 = f.q.toNat) (h9 : w / 2 ^ 9 % 2 ^ 7 = f.a.toNat) (h2 : w / 2 ^ 2 % 2 ^ 7 = f.b.toNat) :
    CasttabForm.ofWord b w = f := by
  simp only [CasttabForm.ofWord, bobj, bitAt_of h31, bitsAt_of h21, bitsAt_of h9, bitsAt_of h2]

theorem MmaForm_of {f : MmaForm} {b : Bound} {w : Nat} (bobj : b.obj = f.obj) (h31 : w / 2 ^ 31 % 2 ^ 1 = f.c.toNat) (h17 : w / 2 ^ 17 % 2 ^ 6 = f.v.toNat) (h14 : w / 2 ^ 14 % 2 ^ 3 = f.m.toNat) (h7 : w / 2 ^ 7 % 2 ^ 7 = f.b.toNat) :
    MmaForm.ofWord b w = f := by
  simp only [MmaForm.ofWord, bobj, bitAt_of h31, bitsAt_of h17, bitsAt_of h14, bitsAt_of h7]

theorem MmasForm_of {f : MmasForm} {b : Bound} {w : Nat} (bobj : b.obj = f.obj) (h31 : w / 2 ^ 31 % 2 ^ 1 = f.c.toNat) (h17 : w / 2 ^ 17 % 2 ^ 6 = f.v.toNat) (h14 : w / 2 ^ 14 % 2 ^ 3 = f.m.toNat) (h7 : w / 2 ^ 7 % 2 ^ 7 = f.b.toNat) (h0 : w / 2 ^ 0 % 2 ^ 7 = f.s.toNat) :
    MmasForm.ofWord b w = f := by
  simp only [MmasForm.ofWord, bobj, bitAt_of h31, bitsAt_of h17, bitsAt_of h14, bitsAt_of h7, bitsAt_of h0]

theorem AccForm_of {f : AccForm} {b : Bound} {w : Nat} (h31 : w / 2 ^ 31 % 2 ^ 1 = f.c.toNat) (h17 : w / 2 ^ 17 % 2 ^ 6 = f.v.toNat) (h14 : w / 2 ^ 14 % 2 ^ 3 = f.m.toNat) :
    AccForm.ofWord b w = f := by
  simp only [AccForm.ofWord, bitAt_of h31, bitsAt_of h17, bitsAt_of h14]

theorem AccObjForm_of {f : AccObjForm} {b : Bound} {w : Nat} (bobj : b.obj = f.obj) (h31 : w / 2 ^ 31 % 2 ^ 1 = f.c.toNat) (h17 : w / 2 ^ 17 % 2 ^ 6 = f.v.toNat) (h14 : w / 2 ^ 14 % 2 ^ 3 = f.m.toNat) :
    AccObjForm.ofWord b w = f := by
  simp only [AccObjForm.ofWord, bobj, bitAt_of h31, bitsAt_of h17, bitsAt_of h14]

theorem AccstForm_of {f : AccstForm} {b : Bound} {w : Nat} (bobj : b.obj = f.obj) (h31 : w / 2 ^ 31 % 2 ^ 1 = f.c.toNat) (h17 : w / 2 ^ 17 % 2 ^ 6 = f.v.toNat) (h14 : w / 2 ^ 14 % 2 ^ 3 = f.m.toNat) (h7 : w / 2 ^ 7 % 2 ^ 2 = f.k.toNat) :
    AccstForm.ofWord b w = f := by
  simp only [AccstForm.ofWord, bobj, bitAt_of h31, bitsAt_of h17, bitsAt_of h14, bitsAt_of h7]

theorem AccrdForm_of {f : AccrdForm} {b : Bound} {w : Nat} (h31 : w / 2 ^ 31 % 2 ^ 1 = f.c.toNat) (h17 : w / 2 ^ 17 % 2 ^ 6 = f.v.toNat) (h14 : w / 2 ^ 14 % 2 ^ 3 = f.m.toNat) (h7 : w / 2 ^ 7 % 2 ^ 7 = f.d.toNat) (h0 : w / 2 ^ 0 % 2 ^ 7 = f.a.toNat) :
    AccrdForm.ofWord b w = f := by
  simp only [AccrdForm.ofWord, bitAt_of h31, bitsAt_of h17, bitsAt_of h14, bitsAt_of h7, bitsAt_of h0]

theorem Red1Form_of {f : Red1Form} {b : Bound} {w : Nat} (bobj : b.obj = f.obj) (h31 : w / 2 ^ 31 % 2 ^ 1 = f.c.toNat) (h16 : w / 2 ^ 16 % 2 ^ 5 = f.a.toNat) (h0 : w / 2 ^ 0 % 2 ^ 16 = f.o.toNat) :
    Red1Form.ofWord b w = f := by
  simp only [Red1Form.ofWord, bobj, bitAt_of h31, bitsAt_of h16, bitsAt_of h0]

theorem Obj1Form_of {f : Obj1Form} {b : Bound} {w : Nat} (h31 : w / 2 ^ 31 % 2 ^ 1 = f.c.toNat) (h0 : w / 2 ^ 0 % 2 ^ 16 = f.o.toNat) :
    Obj1Form.ofWord b w = f := by
  simp only [Obj1Form.ofWord, bitAt_of h31, bitsAt_of h0]

theorem RedCrForm_of {f : RedCrForm} {b : Bound} {w : Nat} (h31 : w / 2 ^ 31 % 2 ^ 1 = f.c.toNat) (h16 : w / 2 ^ 16 % 2 ^ 5 = f.a.toNat) (h10 : w / 2 ^ 10 % 2 ^ 6 = f.v.toNat) (h3 : w / 2 ^ 3 % 2 ^ 7 = f.d.toNat) (h1 : w / 2 ^ 1 % 2 ^ 2 = f.t.toNat) (h0 : w / 2 ^ 0 % 2 ^ 1 = f.y.toNat) :
    RedCrForm.ofWord b w = f := by
  simp only [RedCrForm.ofWord, bitAt_of h31, bitsAt_of h16, bitsAt_of h10, bitsAt_of h3, bitsAt_of h1, bitAt_of h0]

theorem FcollWForm_of {f : FcollWForm} {b : Bound} {w : Nat} (h31 : w / 2 ^ 31 % 2 ^ 1 = f.c.toNat) (h16 : w / 2 ^ 16 % 2 ^ 7 = f.a.toNat) (h0 : w / 2 ^ 0 % 2 ^ 16 = f.o.toNat) :
    FcollWForm.ofWord b w = f := by
  simp only [FcollWForm.ofWord, bitAt_of h31, bitsAt_of h16, bitsAt_of h0]

theorem StampForm_of {f : StampForm} {b : Bound} {w : Nat} (h31 : w / 2 ^ 31 % 2 ^ 1 = f.c.toNat) (h15 : w / 2 ^ 15 % 2 ^ 10 = f.e.toNat) (h10 : w / 2 ^ 10 % 2 ^ 5 = f.h.toNat) (h5 : w / 2 ^ 5 % 2 ^ 5 = f.i.toNat) (h0 : w / 2 ^ 0 % 2 ^ 5 = f.j.toNat) :
    StampForm.ofWord b w = f := by
  simp only [StampForm.ofWord, bitAt_of h31, bitsAt_of h15, bitsAt_of h10, bitsAt_of h5, bitsAt_of h0]

theorem MemForm_of {f : MemForm} {b : Bound} {w : Nat} (bpfx : b.pfx = f.pfx) (hs : w / 2 ^ 25 % 2 = f.sz.toNat / 4)
    (ht : w / 2 ^ 8 % 4 = f.sz.toNat % 4) (h31 : w / 2 ^ 31 % 2 ^ 1 = f.c.toNat) (h18 : w / 2 ^ 18 % 2 ^ 7 = f.d.toNat) (h11 : w / 2 ^ 11 % 2 ^ 7 = f.b.toNat) (h10 : w / 2 ^ 10 % 2 ^ 1 = f.y.toNat) (h0 : w / 2 ^ 0 % 2 ^ 8 = f.o.toNat) :
    MemForm.ofWord b w = f := by
  have e : BitVec.ofNat 3 (w / 2 ^ 25 % 2 * 4 + w / 2 ^ 8 % 4) = f.sz := by
    rw [hs, ht, Nat.div_add_mod']; exact BitVec.eq_of_toNat_eq (by rw [BitVec.toNat_ofNat, Nat.mod_eq_of_lt f.sz.isLt])
  simp only [MemForm.ofWord, bpfx, e, bitAt_of h31, bitsAt_of h18, bitsAt_of h11, bitAt_of h10, bitsAt_of h0]

theorem MemOForm_of {f : MemOForm} {b : Bound} {w : Nat} (bpfx : b.pfx = f.pfx) (hs : w / 2 ^ 25 % 2 = f.sz.toNat / 4)
    (ht : w / 2 ^ 8 % 4 = f.sz.toNat % 4) (h31 : w / 2 ^ 31 % 2 ^ 1 = f.c.toNat) (h18 : w / 2 ^ 18 % 2 ^ 7 = f.d.toNat) (h11 : w / 2 ^ 11 % 2 ^ 7 = f.b.toNat) (h10 : w / 2 ^ 10 % 2 ^ 1 = f.y.toNat) (h0 : w / 2 ^ 0 % 2 ^ 3 = f.p.toNat) :
    MemOForm.ofWord b w = f := by
  have e : BitVec.ofNat 3 (w / 2 ^ 25 % 2 * 4 + w / 2 ^ 8 % 4) = f.sz := by
    rw [hs, ht, Nat.div_add_mod']; exact BitVec.eq_of_toNat_eq (by rw [BitVec.toNat_ofNat, Nat.mod_eq_of_lt f.sz.isLt])
  simp only [MemOForm.ofWord, bpfx, e, bitAt_of h31, bitsAt_of h18, bitsAt_of h11, bitAt_of h10, bitsAt_of h0]

end Sys2Proof.Laws
end

