-- ==== Sys2Proof/Laws/PerInstr.lean ====
section
/-! SUPPORT. The family of statements made for every constructor of `Instr`: decoding the words of a well-formed instruction gives it
back, with every operand (R55 to R82). -/
namespace Sys2Proof.Laws.RoundTrip

/-- A well-formed instruction that has words is what the decoder reads from them, and takes as many words as it was encoded in. -/
def Statement (i : Instr) : Prop :=
  i.isEncoded = true → i.wellFormed = true → decodeWords (encode i) = .ok (i, (encode i).length)

theorem nop (f : BareForm) : Statement (.nop f) := fun _ _ => by
  obtain ⟨w, e⟩ : ∃ w, w = 0x00000000 + f.bits := ⟨_, rfl⟩
  have h := Layout.reads (w := w) [(25, 0), (6, 0), (1, f.c.toNat)]
    ⟨by decide, by decide, f.c.toNat_lt, trivial⟩ (by rw [e]; simp only [BareForm.bits, Layout.value]; omega)
  have h1 := Layout.reads (w := w) [(31, 0), (1, f.c.toNat)]
    ⟨by decide, f.c.toNat_lt, trivial⟩ (by rw [e]; simp only [BareForm.bits, Layout.value]; omega)
  have h2 := Layout.reads (w := w) [(16, 0), (15, 0), (1, f.c.toNat)]
    ⟨by decide, by decide, f.c.toNat_lt, trivial⟩ (by rw [e]; simp only [BareForm.bits, Layout.value]; omega)
  exact decode_encode (by rw [e]; rfl)
    ((decodeBase_of (h 25 6 _ rfl) (r := ⟨[(0, 31, 0)], false, false, false, fun b w => .nop (.ofWord b w)⟩)
      (find_here (row_yes1 (h1 0 31 _ rfl))) (fun h => no_some rfl h) (fun h => no_some rfl h) (fun h => no_some rfl h)).trans
      (congrArg (fun x => Except.ok (Instr.nop x)) (BareForm_of (h 31 1 _ rfl))))
    (plain_of_zero (h 25 6 _ rfl) (k := 0) (m := 15) (by decide) (h2 16 15 _ rfl) (by decide)) (fun p hp => no_eq rfl hp) (fun h => no_some rfl h)

theorem exit (f : BareForm) : Statement (.exit f) := fun _ _ => by
  obtain ⟨w, e⟩ : ∃ w, w = 0x00010000 + f.bits := ⟨_, rfl⟩
  have h := Layout.reads (w := w) [(25, 65536), (6, 0), (1, f.c.toNat)]
    ⟨by decide, by decide, f.c.toNat_lt, trivial⟩ (by rw [e]; simp only [BareForm.bits, Layout.value]; omega)
  have h1 := Layout.reads (w := w) [(31, 65536), (1, f.c.toNat)]
    ⟨by decide, f.c.toNat_lt, trivial⟩ (by rw [e]; simp only [BareForm.bits, Layout.value]; omega)
  have h2 := Layout.reads (w := w) [(16, 0), (15, 1), (1, f.c.toNat)]
    ⟨by decide, by decide, f.c.toNat_lt, trivial⟩ (by rw [e]; simp only [BareForm.bits, Layout.value]; omega)
  exact decode_encode (by rw [e]; rfl)
    ((decodeBase_of (h 25 6 _ rfl) (r := ⟨[(0, 31, 65536)], false, false, false, fun b w => .exit (.ofWord b w)⟩)
      (find_next (row_no (.head _) 0 31 _ (by decide) (h1 0 31 _ rfl) (by decide))
      (find_here (row_yes1 (h1 0 31 _ rfl)))) (fun h => no_some rfl h) (fun h => no_some rfl h) (fun h => no_some rfl h)).trans
      (congrArg (fun x => Except.ok (Instr.exit x)) (BareForm_of (h 31 1 _ rfl))))
    (plain_of_zero (h 25 6 _ rfl) (k := 0) (m := 15) (by decide) (h2 16 15 _ rfl) (by decide)) (fun p hp => no_eq rfl hp) (fun h => no_some rfl h)

theorem yield (f : BareForm) : Statement (.yield f) := fun _ _ => by
  obtain ⟨w, e⟩ : ∃ w, w = 0x00020000 + f.bits := ⟨_, rfl⟩
  have h := Layout.reads (w := w) [(25, 131072), (6, 0), (1, f.c.toNat)]
    ⟨by decide, by decide, f.c.toNat_lt, trivial⟩ (by rw [e]; simp only [BareForm.bits, Layout.value]; omega)
  have h1 := Layout.reads (w := w) [(31, 131072), (1, f.c.toNat)]
    ⟨by decide, f.c.toNat_lt, trivial⟩ (by rw [e]; simp only [BareForm.bits, Layout.value]; omega)
  have h2 := Layout.reads (w := w) [(16, 0), (15, 2), (1, f.c.toNat)]
    ⟨by decide, by decide, f.c.toNat_lt, trivial⟩ (by rw [e]; simp only [BareForm.bits, Layout.value]; omega)
  exact decode_encode (by rw [e]; rfl)
    ((decodeBase_of (h 25 6 _ rfl) (r := ⟨[(0, 31, 131072)], false, false, false, fun b w => .yield (.ofWord b w)⟩)
      (find_next (row_no (.head _) 0 31 _ (by decide) (h1 0 31 _ rfl) (by decide))
      (find_next (row_no (.head _) 0 31 _ (by decide) (h1 0 31 _ rfl) (by decide))
      (find_here (row_yes1 (h1 0 31 _ rfl))))) (fun h => no_some rfl h) (fun h => no_some rfl h) (fun h => no_some rfl h)).trans
      (congrArg (fun x => Except.ok (Instr.yield x)) (BareForm_of (h 31 1 _ rfl))))
    (plain_of_zero (h 25 6 _ rfl) (k := 0) (m := 15) (by decide) (h2 16 15 _ rfl) (by decide)) (fun p hp => no_eq rfl hp) (fun h => no_some rfl h)

theorem rte (f : BareForm) : Statement (.rte f) := fun _ _ => by
  obtain ⟨w, e⟩ : ∃ w, w = 0x00030000 + f.bits := ⟨_, rfl⟩
  have h := Layout.reads (w := w) [(25, 196608), (6, 0), (1, f.c.toNat)]
    ⟨by decide, by decide, f.c.toNat_lt, trivial⟩ (by rw [e]; simp only [BareForm.bits, Layout.value]; omega)
  have h1 := Layout.reads (w := w) [(31, 196608), (1, f.c.toNat)]
    ⟨by decide, f.c.toNat_lt, trivial⟩ (by rw [e]; simp only [BareForm.bits, Layout.value]; omega)
  have h2 := Layout.reads (w := w) [(16, 0), (15, 3), (1, f.c.toNat)]
    ⟨by decide, by decide, f.c.toNat_lt, trivial⟩ (by rw [e]; simp only [BareForm.bits, Layout.value]; omega)
  exact decode_encode (by rw [e]; rfl)
    ((decodeBase_of (h 25 6 _ rfl) (r := ⟨[(0, 31, 196608)], false, false, false, fun b w => .rte (.ofWord b w)⟩)
      (find_next (row_no (.head _) 0 31 _ (by decide) (h1 0 31 _ rfl) (by decide))
      (find_next (row_no (.head _) 0 31 _ (by decide) (h1 0 31 _ rfl) (by decide))
      (find_next (row_no (.head _) 0 31 _ (by decide) (h1 0 31 _ rfl) (by decide))
      (find_here (row_yes1 (h1 0 31 _ rfl)))))) (fun h => no_some rfl h) (fun h => no_some rfl h) (fun h => no_some rfl h)).trans
      (congrArg (fun x => Except.ok (Instr.rte x)) (BareForm_of (h 31 1 _ rfl))))
    (plain_of_zero (h 25 6 _ rfl) (k := 0) (m := 15) (by decide) (h2 16 15 _ rfl) (by decide)) (fun p hp => no_eq rfl hp) (fun h => no_some rfl h)

theorem rtePc (f : RegAForm) : Statement (.rtePc f) := fun _ _ => by
  obtain ⟨w, e⟩ : ∃ w, w = 0x00030080 + f.bits := ⟨_, rfl⟩
  have h := Layout.reads (w := w) [(7, f.a.toNat), (18, 1537), (6, 0), (1, f.c.toNat)]
    ⟨f.a.isLt, by decide, by decide, f.c.toNat_lt, trivial⟩ (by rw [e]; simp only [RegAForm.bits, Layout.value]; omega)
  have h1 := Layout.reads (w := w) [(7, f.a.toNat), (24, 1537), (1, f.c.toNat)]
    ⟨f.a.isLt, by decide, f.c.toNat_lt, trivial⟩ (by rw [e]; simp only [RegAForm.bits, Layout.value]; omega)
  have h2 := Layout.reads (w := w) [(7, f.a.toNat), (9, 1), (15, 3), (1, f.c.toNat)]
    ⟨f.a.isLt, by decide, by decide, f.c.toNat_lt, trivial⟩ (by rw [e]; simp only [RegAForm.bits, Layout.value]; omega)
  exact decode_encode (by rw [e]; rfl)
    ((decodeBase_of (h 25 6 _ rfl) (r := ⟨[(7, 24, 1537)], false, false, false, fun b w => .rtePc (.ofWord b w)⟩)
      (find_next (row_no (.head _) 7 24 _ (by decide) (h1 7 24 _ rfl) (by decide))
      (find_next (row_no (.head _) 7 24 _ (by decide) (h1 7 24 _ rfl) (by decide))
      (find_next (row_no (.head _) 7 24 _ (by decide) (h1 7 24 _ rfl) (by decide))
      (find_next (row_no (.head _) 7 24 _ (by decide) (h1 7 24 _ rfl) (by decide))
      (find_here (row_yes1 (h1 7 24 _ rfl))))))) (fun h => no_some rfl h) (fun h => no_some rfl h) (fun h => no_some rfl h)).trans
      (congrArg (fun x => Except.ok (Instr.rtePc x)) (RegAForm_of (h 31 1 _ rfl) (h 0 7 _ rfl))))
    (plain_of_zero (h 25 6 _ rfl) (k := 0) (m := 15) (by decide) (h2 16 15 _ rfl) (by decide)) (fun p hp => no_eq rfl hp) (fun h => no_some rfl h)

theorem tfill (f : RegAForm) : Statement (.tfill f) := fun _ _ => by
  obtain ⟨w, e⟩ : ∃ w, w = 0x00040000 + f.bits := ⟨_, rfl⟩
  have h := Layout.reads (w := w) [(7, f.a.toNat), (18, 2048), (6, 0), (1, f.c.toNat)]
    ⟨f.a.isLt, by decide, by decide, f.c.toNat_lt, trivial⟩ (by rw [e]; simp only [RegAForm.bits, Layout.value]; omega)
  have h1 := Layout.reads (w := w) [(7, f.a.toNat), (24, 2048), (1, f.c.toNat)]
    ⟨f.a.isLt, by decide, f.c.toNat_lt, trivial⟩ (by rw [e]; simp only [RegAForm.bits, Layout.value]; omega)
  have h2 := Layout.reads (w := w) [(7, f.a.toNat), (9, 0), (15, 4), (1, f.c.toNat)]
    ⟨f.a.isLt, by decide, by decide, f.c.toNat_lt, trivial⟩ (by rw [e]; simp only [RegAForm.bits, Layout.value]; omega)
  exact decode_encode (by rw [e]; rfl)
    ((decodeBase_of (h 25 6 _ rfl) (r := ⟨[(7, 24, 2048)], false, false, false, fun b w => .tfill (.ofWord b w)⟩)
      (find_next (row_no (.head _) 7 24 _ (by decide) (h1 7 24 _ rfl) (by decide))
      (find_next (row_no (.head _) 7 24 _ (by decide) (h1 7 24 _ rfl) (by decide))
      (find_next (row_no (.head _) 7 24 _ (by decide) (h1 7 24 _ rfl) (by decide))
      (find_next (row_no (.head _) 7 24 _ (by decide) (h1 7 24 _ rfl) (by decide))
      (find_next (row_no (.head _) 0 24 _ (by decide) (h1 7 24 _ rfl) (by decide))
      (find_here (row_yes1 (h1 7 24 _ rfl)))))))) (fun h => no_some rfl h) (fun h => no_some rfl h) (fun h => no_some rfl h)).trans
      (congrArg (fun x => Except.ok (Instr.tfill x)) (RegAForm_of (h 31 1 _ rfl) (h 0 7 _ rfl))))
    (plain_of_zero (h 25 6 _ rfl) (k := 0) (m := 15) (by decide) (h2 16 15 _ rfl) (by decide)) (fun p hp => no_eq rfl hp) (fun h => no_some rfl h)

theorem rqcount (f : RegDForm) : Statement (.rqcount f) := fun _ _ => by
  obtain ⟨w, e⟩ : ∃ w, w = 0x00050000 + f.bits := ⟨_, rfl⟩
  have h := Layout.reads (w := w) [(7, f.d.toNat), (18, 2560), (6, 0), (1, f.c.toNat)]
    ⟨f.d.isLt, by decide, by decide, f.c.toNat_lt, trivial⟩ (by rw [e]; simp only [RegDForm.bits, Layout.value]; omega)
  have h1 := Layout.reads (w := w) [(7, f.d.toNat), (24, 2560), (1, f.c.toNat)]
    ⟨f.d.isLt, by decide, f.c.toNat_lt, trivial⟩ (by rw [e]; simp only [RegDForm.bits, Layout.value]; omega)
  have h2 := Layout.reads (w := w) [(7, f.d.toNat), (9, 0), (15, 5), (1, f.c.toNat)]
    ⟨f.d.isLt, by decide, by decide, f.c.toNat_lt, trivial⟩ (by rw [e]; simp only [RegDForm.bits, Layout.value]; omega)
  exact decode_encode (by rw [e]; rfl)
    ((decodeBase_of (h 25 6 _ rfl) (r := ⟨[(7, 24, 2560)], false, false, false, fun b w => .rqcount (.ofWord b w)⟩)
      (find_next (row_no (.head _) 7 24 _ (by decide) (h1 7 24 _ rfl) (by decide))
      (find_next (row_no (.head _) 7 24 _ (by decide) (h1 7 24 _ rfl) (by decide))
      (find_next (row_no (.head _) 7 24 _ (by decide) (h1 7 24 _ rfl) (by decide))
      (find_next (row_no (.head _) 7 24 _ (by decide) (h1 7 24 _ rfl) (by decide))
      (find_next (row_no (.head _) 0 24 _ (by decide) (h1 7 24 _ rfl) (by decide))
      (find_next (row_no (.head _) 0 24 _ (by decide) (h1 7 24 _ rfl) (by decide))
      (find_here (row_yes1 (h1 7 24 _ rfl))))))))) (fun h => no_some rfl h) (fun h => no_some rfl h) (fun h => no_some rfl h)).trans
      (congrArg (fun x => Except.ok (Instr.rqcount x)) (RegDForm_of (h 31 1 _ rfl) (h 0 7 _ rfl))))
    (plain_of_zero (h 25 6 _ rfl) (k := 0) (m := 15) (by decide) (h2 16 15 _ rfl) (by decide)) (fun p hp => no_eq rfl hp) (fun h => no_some rfl h)

theorem rqread (f : RqReadForm) : Statement (.rqread f) := fun _ _ => by
  obtain ⟨w, e⟩ : ∃ w, w = 0x00060000 + f.bits := ⟨_, rfl⟩
  have h := Layout.reads (w := w) [(7, f.d.toNat), (1, 0), (4, f.e.toNat), (4, f.f.toNat), (9, 6), (6, 0), (1, f.c.toNat)]
    ⟨f.d.isLt, by decide, f.e.isLt, f.f.isLt, by decide, by decide, f.c.toNat_lt, trivial⟩ (by rw [e]; simp only [RqReadForm.bits, Layout.value]; omega)
  have h1 := Layout.reads (w := w) [(7, f.d.toNat), (1, 0), (4, f.e.toNat), (4, f.f.toNat), (15, 6), (1, f.c.toNat)]
    ⟨f.d.isLt, by decide, f.e.isLt, f.f.isLt, by decide, f.c.toNat_lt, trivial⟩ (by rw [e]; simp only [RqReadForm.bits, Layout.value]; omega)
  exact decode_encode (by rw [e]; rfl)
    ((decodeBase_of (h 25 6 _ rfl) (r := ⟨[(7, 1, 0), (16, 15, 6)], false, false, false, fun b w => .rqread (.ofWord b w)⟩)
      (find_next (row_no (.head _) 16 15 _ (by decide) (h1 16 15 _ rfl) (by decide))
      (find_next (row_no (.head _) 16 15 _ (by decide) (h1 16 15 _ rfl) (by decide))
      (find_next (row_no (.head _) 16 15 _ (by decide) (h1 16 15 _ rfl) (by decide))
      (find_next (row_no (.head _) 16 15 _ (by decide) (h1 16 15 _ rfl) (by decide))
      (find_next (row_no (.head _) 0 1 _ (by decide) (h 7 1 _ rfl) (by decide))
      (find_next (row_no (.head _) 9 15 _ (by decide) (h1 16 15 _ rfl) (by decide))
      (find_next (row_no (.head _) 9 15 _ (by decide) (h1 16 15 _ rfl) (by decide))
      (find_here (row_yes2 (h 7 1 _ rfl) (h1 16 15 _ rfl)))))))))) (fun h => no_some rfl h) (fun h => no_some rfl h) (fun h => no_some rfl h)).trans
      (congrArg (fun x => Except.ok (Instr.rqread x)) (RqReadForm_of (h 31 1 _ rfl) (h 12 4 _ rfl) (h 8 4 _ rfl) (h 0 7 _ rfl))))
    (plain_of_zero (h 25 6 _ rfl) (k := 0) (m := 15) (by decide) (h1 16 15 _ rfl) (by decide)) (fun p hp => no_eq rfl hp) (fun h => no_some rfl h)

theorem rqwrite (f : RqWriteForm) : Statement (.rqwrite f) := fun _ _ => by
  obtain ⟨w, e⟩ : ∃ w, w = 0x00070000 + f.bits := ⟨_, rfl⟩
  have h := Layout.reads (w := w) [(7, f.a.toNat), (1, 0), (4, f.e.toNat), (4, f.f.toNat), (9, 7), (6, 0), (1, f.c.toNat)]
    ⟨f.a.isLt, by decide, f.e.isLt, f.f.isLt, by decide, by decide, f.c.toNat_lt, trivial⟩ (by rw [e]; simp only [RqWriteForm.bits, Layout.value]; omega)
  have h1 := Layout.reads (w := w) [(7, f.a.toNat), (1, 0), (4, f.e.toNat), (4, f.f.toNat), (15, 7), (1, f.c.toNat)]
    ⟨f.a.isLt, by decide, f.e.isLt, f.f.isLt, by decide, f.c.toNat_lt, trivial⟩ (by rw [e]; simp only [RqWriteForm.bits, Layout.value]; omega)
  exact decode_encode (by rw [e]; rfl)
    ((decodeBase_of (h 25 6 _ rfl) (r := ⟨[(7, 1, 0), (16, 15, 7)], false, false, false, fun b w => .rqwrite (.ofWord b w)⟩)
      (find_next (row_no (.head _) 16 15 _ (by decide) (h1 16 15 _ rfl) (by decide))
      (find_next (row_no (.head _) 16 15 _ (by decide) (h1 16 15 _ rfl) (by decide))
      (find_next (row_no (.head _) 16 15 _ (by decide) (h1 16 15 _ rfl) (by decide))
      (find_next (row_no (.head _) 16 15 _ (by decide) (h1 16 15 _ rfl) (by decide))
      (find_next (row_no (.head _) 0 1 _ (by decide) (h 7 1 _ rfl) (by decide))
      (find_next (row_no (.head _) 9 15 _ (by decide) (h1 16 15 _ rfl) (by decide))
      (find_next (row_no (.head _) 9 15 _ (by decide) (h1 16 15 _ rfl) (by decide))
      (find_next (row_no (.tail _ (.head _)) 0 15 _ (by decide) (h1 16 15 _ rfl) (by decide))
      (find_here (row_yes2 (h 7 1 _ rfl) (h1 16 15 _ rfl))))))))))) (fun h => no_some rfl h) (fun h => no_some rfl h) (fun h => no_some rfl h)).trans
      (congrArg (fun x => Except.ok (Instr.rqwrite x)) (RqWriteForm_of (h 31 1 _ rfl) (h 12 4 _ rfl) (h 8 4 _ rfl) (h 0 7 _ rfl))))
    (plain_of_zero (h 25 6 _ rfl) (k := 0) (m := 15) (by decide) (h1 16 15 _ rfl) (by decide)) (fun p hp => no_eq rfl hp) (fun h => no_some rfl h)

theorem rqdrop (f : RqDropForm) : Statement (.rqdrop f) := fun _ _ => by
  obtain ⟨w, e⟩ : ∃ w, w = 0x00080000 + f.bits := ⟨_, rfl⟩
  have h := Layout.reads (w := w) [(8, 0), (4, f.e.toNat), (13, 128), (6, 0), (1, f.c.toNat)]
    ⟨by decide, f.e.isLt, by decide, by decide, f.c.toNat_lt, trivial⟩ (by rw [e]; simp only [RqDropForm.bits, Layout.value]; omega)
  have h1 := Layout.reads (w := w) [(8, 0), (4, f.e.toNat), (19, 128), (1, f.c.toNat)]
    ⟨by decide, f.e.isLt, by decide, f.c.toNat_lt, trivial⟩ (by rw [e]; simp only [RqDropForm.bits, Layout.value]; omega)
  have h2 := Layout.reads (w := w) [(8, 0), (4, f.e.toNat), (4, 0), (15, 8), (1, f.c.toNat)]
    ⟨by decide, f.e.isLt, by decide, by decide, f.c.toNat_lt, trivial⟩ (by rw [e]; simp only [RqDropForm.bits, Layout.value]; omega)
  exact decode_encode (by rw [e]; rfl)
    ((decodeBase_of (h 25 6 _ rfl) (r := ⟨[(0, 8, 0), (12, 19, 128)], false, false, false, fun b w => .rqdrop (.ofWord b w)⟩)
      (find_next (row_no (.head _) 12 19 _ (by decide) (h1 12 19 _ rfl) (by decide))
      (find_next (row_no (.head _) 12 19 _ (by decide) (h1 12 19 _ rfl) (by decide))
      (find_next (row_no (.head _) 12 19 _ (by decide) (h1 12 19 _ rfl) (by decide))
      (find_next (row_no (.head _) 12 19 _ (by decide) (h1 12 19 _ rfl) (by decide))
      (find_next (row_no (.head _) 5 19 _ (by decide) (h1 12 19 _ rfl) (by decide))
      (find_next (row_no (.head _) 5 19 _ (by decide) (h1 12 19 _ rfl) (by decide))
      (find_next (row_no (.head _) 5 19 _ (by decide) (h1 12 19 _ rfl) (by decide))
      (find_next (row_no (.tail _ (.head _)) 0 15 _ (by decide) (h2 16 15 _ rfl) (by decide))
      (find_next (row_no (.tail _ (.head _)) 0 15 _ (by decide) (h2 16 15 _ rfl) (by decide))
      (find_here (row_yes2 (h 0 8 _ rfl) (h1 12 19 _ rfl)))))))))))) (fun h => no_some rfl h) (fun h => no_some rfl h) (fun h => no_some rfl h)).trans
      (congrArg (fun x => Except.ok (Instr.rqdrop x)) (RqDropForm_of (h 31 1 _ rfl) (h 8 4 _ rfl))))
    (plain_of_zero (h 25 6 _ rfl) (k := 0) (m := 15) (by decide) (h2 16 15 _ rfl) (by decide)) (fun p hp => no_eq rfl hp) (fun h => no_some rfl h)

theorem dield (f : BankForm) : Statement (.dield f) := fun _ _ => by
  obtain ⟨w, e⟩ : ∃ w, w = 0x00090000 + f.bits := ⟨_, rfl⟩
  have h := Layout.reads (w := w) [(1, f.k.toNat), (24, 294912), (6, 0), (1, f.c.toNat)]
    ⟨f.k.isLt, by decide, by decide, f.c.toNat_lt, trivial⟩ (by rw [e]; simp only [BankForm.bits, Layout.value]; omega)
  have h1 := Layout.reads (w := w) [(1, f.k.toNat), (30, 294912), (1, f.c.toNat)]
    ⟨f.k.isLt, by decide, f.c.toNat_lt, trivial⟩ (by rw [e]; simp only [BankForm.bits, Layout.value]; omega)
  have h2 := Layout.reads (w := w) [(1, f.k.toNat), (6, 0), (24, 4608), (1, f.c.toNat)]
    ⟨f.k.isLt, by decide, by decide, f.c.toNat_lt, trivial⟩ (by rw [e]; simp only [BankForm.bits, Layout.value]; omega)
  have h3 := Layout.reads (w := w) [(1, f.k.toNat), (15, 0), (15, 9), (1, f.c.toNat)]
    ⟨f.k.isLt, by decide, by decide, f.c.toNat_lt, trivial⟩ (by rw [e]; simp only [BankForm.bits, Layout.value]; omega)
  exact decode_encode (by rw [e]; rfl)
    ((decodeBase_of (h 25 6 _ rfl) (r := ⟨[(1, 30, 294912)], false, false, false, fun b w => .dield (.ofWord b w)⟩)
      (find_next (row_no (.head _) 1 30 _ (by decide) (h1 1 30 _ rfl) (by decide))
      (find_next (row_no (.head _) 1 30 _ (by decide) (h1 1 30 _ rfl) (by decide))
      (find_next (row_no (.head _) 1 30 _ (by decide) (h1 1 30 _ rfl) (by decide))
      (find_next (row_no (.head _) 1 30 _ (by decide) (h1 1 30 _ rfl) (by decide))
      (find_next (row_no (.head _) 0 24 _ (by decide) (h2 7 24 _ rfl) (by decide))
      (find_next (row_no (.head _) 0 24 _ (by decide) (h2 7 24 _ rfl) (by decide))
      (find_next (row_no (.head _) 0 24 _ (by decide) (h2 7 24 _ rfl) (by decide))
      (find_next (row_no (.tail _ (.head _)) 0 15 _ (by decide) (h3 16 15 _ rfl) (by decide))
      (find_next (row_no (.tail _ (.head _)) 0 15 _ (by decide) (h3 16 15 _ rfl) (by decide))
      (find_next (row_no (.tail _ (.head _)) 4 15 _ (by decide) (h3 16 15 _ rfl) (by decide))
      (find_here (row_yes1 (h1 1 30 _ rfl))))))))))))) (fun h => no_some rfl h) (fun h => no_some rfl h) (fun h => no_some rfl h)).trans
      (congrArg (fun x => Except.ok (Instr.dield x)) (BankForm_of (h 31 1 _ rfl) (h 0 1 _ rfl))))
    (plain_of_zero (h 25 6 _ rfl) (k := 0) (m := 15) (by decide) (h3 16 15 _ rfl) (by decide)) (fun p hp => no_eq rfl hp) (fun h => no_some rfl h)

theorem diebank (f : BankForm) : Statement (.diebank f) := fun _ _ => by
  obtain ⟨w, e⟩ : ∃ w, w = 0x000A0000 + f.bits := ⟨_, rfl⟩
  have h := Layout.reads (w := w) [(1, f.k.toNat), (24, 327680), (6, 0), (1, f.c.toNat)]
    ⟨f.k.isLt, by decide, by decide, f.c.toNat_lt, trivial⟩ (by rw [e]; simp only [BankForm.bits, Layout.value]; omega)
  have h1 := Layout.reads (w := w) [(1, f.k.toNat), (30, 327680), (1, f.c.toNat)]
    ⟨f.k.isLt, by decide, f.c.toNat_lt, trivial⟩ (by rw [e]; simp only [BankForm.bits, Layout.value]; omega)
  have h2 := Layout.reads (w := w) [(1, f.k.toNat), (6, 0), (24, 5120), (1, f.c.toNat)]
    ⟨f.k.isLt, by decide, by decide, f.c.toNat_lt, trivial⟩ (by rw [e]; simp only [BankForm.bits, Layout.value]; omega)
  have h3 := Layout.reads (w := w) [(1, f.k.toNat), (15, 0), (15, 10), (1, f.c.toNat)]
    ⟨f.k.isLt, by decide, by decide, f.c.toNat_lt, trivial⟩ (by rw [e]; simp only [BankForm.bits, Layout.value]; omega)
  exact decode_encode (by rw [e]; rfl)
    ((decodeBase_of (h 25 6 _ rfl) (r := ⟨[(1, 30, 327680)], false, false, false, fun b w => .diebank (.ofWord b w)⟩)
      (find_next (row_no (.head _) 1 30 _ (by decide) (h1 1 30 _ rfl) (by decide))
      (find_next (row_no (.head _) 1 30 _ (by decide) (h1 1 30 _ rfl) (by decide))
      (find_next (row_no (.head _) 1 30 _ (by decide) (h1 1 30 _ rfl) (by decide))
      (find_next (row_no (.head _) 1 30 _ (by decide) (h1 1 30 _ rfl) (by decide))
      (find_next (row_no (.head _) 0 24 _ (by decide) (h2 7 24 _ rfl) (by decide))
      (find_next (row_no (.head _) 0 24 _ (by decide) (h2 7 24 _ rfl) (by decide))
      (find_next (row_no (.head _) 0 24 _ (by decide) (h2 7 24 _ rfl) (by decide))
      (find_next (row_no (.tail _ (.head _)) 0 15 _ (by decide) (h3 16 15 _ rfl) (by decide))
      (find_next (row_no (.tail _ (.head _)) 0 15 _ (by decide) (h3 16 15 _ rfl) (by decide))
      (find_next (row_no (.tail _ (.head _)) 4 15 _ (by decide) (h3 16 15 _ rfl) (by decide))
      (find_next (row_no (.head _) 0 30 _ (by decide) (h1 1 30 _ rfl) (by decide))
      (find_here (row_yes1 (h1 1 30 _ rfl)))))))))))))) (fun h => no_some rfl h) (fun h => no_some rfl h) (fun h => no_some rfl h)).trans
      (congrArg (fun x => Except.ok (Instr.diebank x)) (BankForm_of (h 31 1 _ rfl) (h 0 1 _ rfl))))
    (plain_of_zero (h 25 6 _ rfl) (k := 0) (m := 15) (by decide) (h3 16 15 _ rfl) (by decide)) (fun p hp => no_eq rfl hp) (fun h => no_some rfl h)

theorem syncDie (f : BareForm) : Statement (.syncDie f) := fun _ _ => by
  obtain ⟨w, e⟩ : ∃ w, w = 0x000B0000 + f.bits := ⟨_, rfl⟩
  have h := Layout.reads (w := w) [(25, 720896), (6, 0), (1, f.c.toNat)]
    ⟨by decide, by decide, f.c.toNat_lt, trivial⟩ (by rw [e]; simp only [BareForm.bits, Layout.value]; omega)
  have h1 := Layout.reads (w := w) [(31, 720896), (1, f.c.toNat)]
    ⟨by decide, f.c.toNat_lt, trivial⟩ (by rw [e]; simp only [BareForm.bits, Layout.value]; omega)
  have h2 := Layout.reads (w := w) [(7, 0), (24, 5632), (1, f.c.toNat)]
    ⟨by decide, by decide, f.c.toNat_lt, trivial⟩ (by rw [e]; simp only [BareForm.bits, Layout.value]; omega)
  have h3 := Layout.reads (w := w) [(16, 0), (15, 11), (1, f.c.toNat)]
    ⟨by decide, by decide, f.c.toNat_lt, trivial⟩ (by rw [e]; simp only [BareForm.bits, Layout.value]; omega)
  exact decode_encode (by rw [e]; rfl)
    ((decodeBase_of (h 25 6 _ rfl) (r := ⟨[(0, 31, 720896)], false, false, false, fun b w => .syncDie (.ofWord b w)⟩)
      (find_next (row_no (.head _) 0 31 _ (by decide) (h1 0 31 _ rfl) (by decide))
      (find_next (row_no (.head _) 0 31 _ (by decide) (h1 0 31 _ rfl) (by decide))
      (find_next (row_no (.head _) 0 31 _ (by decide) (h1 0 31 _ rfl) (by decide))
      (find_next (row_no (.head _) 0 31 _ (by decide) (h1 0 31 _ rfl) (by decide))
      (find_next (row_no (.head _) 0 24 _ (by decide) (h2 7 24 _ rfl) (by decide))
      (find_next (row_no (.head _) 0 24 _ (by decide) (h2 7 24 _ rfl) (by decide))
      (find_next (row_no (.head _) 0 24 _ (by decide) (h2 7 24 _ rfl) (by decide))
      (find_next (row_no (.tail _ (.head _)) 0 15 _ (by decide) (h3 16 15 _ rfl) (by decide))
      (find_next (row_no (.tail _ (.head _)) 0 15 _ (by decide) (h3 16 15 _ rfl) (by decide))
      (find_next (row_no (.tail _ (.head _)) 4 15 _ (by decide) (h3 16 15 _ rfl) (by decide))
      (find_next (row_no (.head _) 6 24 _ (by decide) (h2 7 24 _ rfl) (by decide))
      (find_next (row_no (.head _) 6 24 _ (by decide) (h2 7 24 _ rfl) (by decide))
      (find_here (row_yes1 (h1 0 31 _ rfl))))))))))))))) (fun h => no_some rfl h) (fun h => no_some rfl h) (fun h => no_some rfl h)).trans
      (congrArg (fun x => Except.ok (Instr.syncDie x)) (BareForm_of (h 31 1 _ rfl))))
    (plain_of_zero (h 25 6 _ rfl) (k := 0) (m := 15) (by decide) (h3 16 15 _ rfl) (by decide)) (fun p hp => no_eq rfl hp) (fun h => no_some rfl h)

theorem launch (f : LaunchWForm) : Statement (.launch f) := fun _ _ => by
  obtain ⟨w, e⟩ : ∃ w, w = 0x000C0000 + f.bits := ⟨_, rfl⟩
  have h := Layout.reads (w := w) [(7, f.a.toNat), (7, f.d.toNat), (11, 48), (6, 0), (1, f.c.toNat)]
    ⟨f.a.isLt, f.d.isLt, by decide, by decide, f.c.toNat_lt, trivial⟩ (by rw [e]; simp only [LaunchWForm.bits, Layout.value]; omega)
  have h1 := Layout.reads (w := w) [(7, f.a.toNat), (7, f.d.toNat), (17, 48), (1, f.c.toNat)]
    ⟨f.a.isLt, f.d.isLt, by decide, f.c.toNat_lt, trivial⟩ (by rw [e]; simp only [LaunchWForm.bits, Layout.value]; omega)
  have h2 := Layout.reads (w := w) [(7, f.a.toNat), (7, f.d.toNat), (2, 0), (15, 12), (1, f.c.toNat)]
    ⟨f.a.isLt, f.d.isLt, by decide, by decide, f.c.toNat_lt, trivial⟩ (by rw [e]; simp only [LaunchWForm.bits, Layout.value]; omega)
  exact decode_encode (by rw [e]; rfl)
    ((decodeBase_of (h 25 6 _ rfl) (r := ⟨[(14, 17, 48)], false, false, false, fun b w => .launch (.ofWord b w)⟩)
      (find_next (row_no (.head _) 14 17 _ (by decide) (h1 14 17 _ rfl) (by decide))
      (find_next (row_no (.head _) 14 17 _ (by decide) (h1 14 17 _ rfl) (by decide))
      (find_next (row_no (.head _) 14 17 _ (by decide) (h1 14 17 _ rfl) (by decide))
      (find_next (row_no (.head _) 14 17 _ (by decide) (h1 14 17 _ rfl) (by decide))
      (find_next (row_no (.head _) 7 17 _ (by decide) (h1 14 17 _ rfl) (by decide))
      (find_next (row_no (.head _) 7 17 _ (by decide) (h1 14 17 _ rfl) (by decide))
      (find_next (row_no (.head _) 7 17 _ (by decide) (h1 14 17 _ rfl) (by decide))
      (find_next (row_no (.tail _ (.head _)) 0 15 _ (by decide) (h2 16 15 _ rfl) (by decide))
      (find_next (row_no (.tail _ (.head _)) 0 15 _ (by decide) (h2 16 15 _ rfl) (by decide))
      (find_next (row_no (.tail _ (.head _)) 2 17 _ (by decide) (h1 14 17 _ rfl) (by decide))
      (find_next (row_no (.head _) 13 17 _ (by decide) (h1 14 17 _ rfl) (by decide))
      (find_next (row_no (.head _) 13 17 _ (by decide) (h1 14 17 _ rfl) (by decide))
      (find_next (row_no (.head _) 14 17 _ (by decide) (h1 14 17 _ rfl) (by decide))
      (find_here (row_yes1 (h1 14 17 _ rfl)))))))))))))))) (fun h => no_some rfl h) (fun h => no_some rfl h) (fun h => no_some rfl h)).trans
      (congrArg (fun x => Except.ok (Instr.launch x)) (LaunchWForm_of (h 31 1 _ rfl) (h 7 7 _ rfl) (h 0 7 _ rfl))))
    (plain_of_zero (h 25 6 _ rfl) (k := 0) (m := 15) (by decide) (h2 16 15 _ rfl) (by decide)) (fun p hp => no_eq rfl hp) (fun h => no_some rfl h)

theorem trap (f : CodeForm) : Statement (.trap f) := fun _ _ => by
  obtain ⟨w, e⟩ : ∃ w, w = 0x000D0000 + f.bits := ⟨_, rfl⟩
  have h := Layout.reads (w := w) [(16, f.n.toNat), (9, 13), (6, 0), (1, f.c.toNat)]
    ⟨f.n.isLt, by decide, by decide, f.c.toNat_lt, trivial⟩ (by rw [e]; simp only [CodeForm.bits, Layout.value]; omega)
  have h1 := Layout.reads (w := w) [(16, f.n.toNat), (15, 13), (1, f.c.toNat)]
    ⟨f.n.isLt, by decide, f.c.toNat_lt, trivial⟩ (by rw [e]; simp only [CodeForm.bits, Layout.value]; omega)
  exact decode_encode (by rw [e]; rfl)
    ((decodeBase_of (h 25 6 _ rfl) (r := ⟨[(16, 15, 13)], false, false, false, fun b w => .trap (.ofWord b w)⟩)
      (find_next (row_no (.head _) 16 15 _ (by decide) (h1 16 15 _ rfl) (by decide))
      (find_next (row_no (.head _) 16 15 _ (by decide) (h1 16 15 _ rfl) (by decide))
      (find_next (row_no (.head _) 16 15 _ (by decide) (h1 16 15 _ rfl) (by decide))
      (find_next (row_no (.head _) 16 15 _ (by decide) (h1 16 15 _ rfl) (by decide))
      (find_next (row_no (.head _) 9 15 _ (by decide) (h1 16 15 _ rfl) (by decide))
      (find_next (row_no (.head _) 9 15 _ (by decide) (h1 16 15 _ rfl) (by decide))
      (find_next (row_no (.head _) 9 15 _ (by decide) (h1 16 15 _ rfl) (by decide))
      (find_next (row_no (.tail _ (.head _)) 0 15 _ (by decide) (h1 16 15 _ rfl) (by decide))
      (find_next (row_no (.tail _ (.head _)) 0 15 _ (by decide) (h1 16 15 _ rfl) (by decide))
      (find_next (row_no (.tail _ (.head _)) 4 15 _ (by decide) (h1 16 15 _ rfl) (by decide))
      (find_next (row_no (.head _) 15 15 _ (by decide) (h1 16 15 _ rfl) (by decide))
      (find_next (row_no (.head _) 15 15 _ (by decide) (h1 16 15 _ rfl) (by decide))
      (find_next (row_no (.head _) 16 15 _ (by decide) (h1 16 15 _ rfl) (by decide))
      (find_next (row_no (.head _) 2 15 _ (by decide) (h1 16 15 _ rfl) (by decide))
      (find_here (row_yes1 (h1 16 15 _ rfl))))))))))))))))) (fun h => no_some rfl h) (fun h => no_some rfl h) (fun h => no_some rfl h)).trans
      (congrArg (fun x => Except.ok (Instr.trap x)) (CodeForm_of (h 31 1 _ rfl) (h 0 16 _ rfl))))
    (plain_of_zero (h 25 6 _ rfl) (k := 0) (m := 15) (by decide) (h1 16 15 _ rfl) (by decide)) (fun p hp => no_eq rfl hp) (fun h => no_some rfl h)

theorem bkpt (f : CodeForm) : Statement (.bkpt f) := fun _ _ => by
  obtain ⟨w, e⟩ : ∃ w, w = 0x000E0000 + f.bits := ⟨_, rfl⟩
  have h := Layout.reads (w := w) [(16, f.n.toNat), (9, 14), (6, 0), (1, f.c.toNat)]
    ⟨f.n.isLt, by decide, by decide, f.c.toNat_lt, trivial⟩ (by rw [e]; simp only [CodeForm.bits, Layout.value]; omega)
  have h1 := Layout.reads (w := w) [(16, f.n.toNat), (15, 14), (1, f.c.toNat)]
    ⟨f.n.isLt, by decide, f.c.toNat_lt, trivial⟩ (by rw [e]; simp only [CodeForm.bits, Layout.value]; omega)
  exact decode_encode (by rw [e]; rfl)
    ((decodeBase_of (h 25 6 _ rfl) (r := ⟨[(16, 15, 14)], false, false, false, fun b w => .bkpt (.ofWord b w)⟩)
      (find_next (row_no (.head _) 16 15 _ (by decide) (h1 16 15 _ rfl) (by decide))
      (find_next (row_no (.head _) 16 15 _ (by decide) (h1 16 15 _ rfl) (by decide))
      (find_next (row_no (.head _) 16 15 _ (by decide) (h1 16 15 _ rfl) (by decide))
      (find_next (row_no (.head _) 16 15 _ (by decide) (h1 16 15 _ rfl) (by decide))
      (find_next (row_no (.head _) 9 15 _ (by decide) (h1 16 15 _ rfl) (by decide))
      (find_next (row_no (.head _) 9 15 _ (by decide) (h1 16 15 _ rfl) (by decide))
      (find_next (row_no (.head _) 9 15 _ (by decide) (h1 16 15 _ rfl) (by decide))
      (find_next (row_no (.tail _ (.head _)) 0 15 _ (by decide) (h1 16 15 _ rfl) (by decide))
      (find_next (row_no (.tail _ (.head _)) 0 15 _ (by decide) (h1 16 15 _ rfl) (by decide))
      (find_next (row_no (.tail _ (.head _)) 4 15 _ (by decide) (h1 16 15 _ rfl) (by decide))
      (find_next (row_no (.head _) 15 15 _ (by decide) (h1 16 15 _ rfl) (by decide))
      (find_next (row_no (.head _) 15 15 _ (by decide) (h1 16 15 _ rfl) (by decide))
      (find_next (row_no (.head _) 16 15 _ (by decide) (h1 16 15 _ rfl) (by decide))
      (find_next (row_no (.head _) 2 15 _ (by decide) (h1 16 15 _ rfl) (by decide))
      (find_next (row_no (.head _) 0 15 _ (by decide) (h1 16 15 _ rfl) (by decide))
      (find_here (row_yes1 (h1 16 15 _ rfl)))))))))))))))))) (fun h => no_some rfl h) (fun h => no_some rfl h) (fun h => no_some rfl h)).trans
      (congrArg (fun x => Except.ok (Instr.bkpt x)) (CodeForm_of (h 31 1 _ rfl) (h 0 16 _ rfl))))
    (plain_of_zero (h 25 6 _ rfl) (k := 0) (m := 15) (by decide) (h1 16 15 _ rfl) (by decide)) (fun p hp => no_eq rfl hp) (fun h => no_some rfl h)

theorem tlbinv (f : TlbinvForm) : Statement (.tlbinv f) := fun _ _ => by
  obtain ⟨w, e⟩ : ∃ w, w = 0x01800000 + f.bits := ⟨_, rfl⟩
  have h := Layout.reads (w := w) [(7, f.p.toNat), (2, f.m.toNat), (16, 49152), (6, 0), (1, f.c.toNat)]
    ⟨f.p.isLt, f.m.isLt, by decide, by decide, f.c.toNat_lt, trivial⟩ (by rw [e]; simp only [TlbinvForm.bits, Layout.value]; omega)
  have h1 := Layout.reads (w := w) [(7, f.p.toNat), (2, f.m.toNat), (22, 49152), (1, f.c.toNat)]
    ⟨f.p.isLt, f.m.isLt, by decide, f.c.toNat_lt, trivial⟩ (by rw [e]; simp only [TlbinvForm.bits, Layout.value]; omega)
  have h2 := Layout.reads (w := w) [(7, f.p.toNat), (2, f.m.toNat), (7, 0), (15, 384), (1, f.c.toNat)]
    ⟨f.p.isLt, f.m.isLt, by decide, by decide, f.c.toNat_lt, trivial⟩ (by rw [e]; simp only [TlbinvForm.bits, Layout.value]; omega)
  exact decode_encode (by rw [e]; rfl)
    ((decodeBase_of (h 25 6 _ rfl) (r := ⟨[(9, 22, 49152)], false, false, false, fun b w => .tlbinv (.ofWord b w)⟩)
      (find_next (row_no (.head _) 9 22 _ (by decide) (h1 9 22 _ rfl) (by decide))
      (find_next (row_no (.head _) 9 22 _ (by decide) (h1 9 22 _ rfl) (by decide))
      (find_next (row_no (.head _) 9 22 _ (by decide) (h1 9 22 _ rfl) (by decide))
      (find_next (row_no (.head _) 9 22 _ (by decide) (h1 9 22 _ rfl) (by decide))
      (find_next (row_no (.head _) 2 22 _ (by decide) (h1 9 22 _ rfl) (by decide))
      (find_next (row_no (.head _) 2 22 _ (by decide) (h1 9 22 _ rfl) (by decide))
      (find_next (row_no (.head _) 2 22 _ (by decide) (h1 9 22 _ rfl) (by decide))
      (find_next (row_no (.tail _ (.head _)) 0 15 _ (by decide) (h2 16 15 _ rfl) (by decide))
      (find_next (row_no (.tail _ (.head _)) 0 15 _ (by decide) (h2 16 15 _ rfl) (by decide))
      (find_next (row_no (.tail _ (.head _)) 4 15 _ (by decide) (h2 16 15 _ rfl) (by decide))
      (find_next (row_no (.head _) 8 22 _ (by decide) (h1 9 22 _ rfl) (by decide))
      (find_next (row_no (.head _) 8 22 _ (by decide) (h1 9 22 _ rfl) (by decide))
      (find_next (row_no (.head _) 9 22 _ (by decide) (h1 9 22 _ rfl) (by decide))
      (find_next (row_no (.head _) 2 15 _ (by decide) (h2 16 15 _ rfl) (by decide))
      (find_next (row_no (.head _) 0 15 _ (by decide) (h2 16 15 _ rfl) (by decide))
      (find_next (row_no (.head _) 0 15 _ (by decide) (h2 16 15 _ rfl) (by decide))
      (find_here (row_yes1 (h1 9 22 _ rfl))))))))))))))))))) (fun h => no_some rfl h) (fun h => no_some rfl h) (fun h => no_some rfl h)).trans
      (congrArg (fun x => Except.ok (Instr.tlbinv x)) (TlbinvForm_of (h 31 1 _ rfl) (h 7 2 _ rfl) (h 0 7 _ rfl))))
    (plain_of_zero (h 25 6 _ rfl) (k := 0) (m := 15) (by decide) (h2 16 15 _ rfl) (by decide)) (fun p hp => no_eq rfl hp) (fun h => no_some rfl h)

theorem otinv (f : OtinvForm) : Statement (.otinv f) := fun _ _ => by
  obtain ⟨w, e⟩ : ∃ w, w = 0x01810000 + f.bits := ⟨_, rfl⟩
  have h := Layout.reads (w := w) [(7, f.o.toNat), (1, f.l.toNat), (17, 98560), (6, 0), (1, f.c.toNat)]
    ⟨f.o.isLt, f.l.isLt, by decide, by decide, f.c.toNat_lt, trivial⟩ (by rw [e]; simp only [OtinvForm.bits, Layout.value]; omega)
  have h1 := Layout.reads (w := w) [(7, f.o.toNat), (1, f.l.toNat), (23, 98560), (1, f.c.toNat)]
    ⟨f.o.isLt, f.l.isLt, by decide, f.c.toNat_lt, trivial⟩ (by rw [e]; simp only [OtinvForm.bits, Layout.value]; omega)
  have h2 := Layout.reads (w := w) [(7, f.o.toNat), (1, f.l.toNat), (8, 0), (15, 385), (1, f.c.toNat)]
    ⟨f.o.isLt, f.l.isLt, by decide, by decide, f.c.toNat_lt, trivial⟩ (by rw [e]; simp only [OtinvForm.bits, Layout.value]; omega)
  exact decode_encode (by rw [e]; rfl)
    ((decodeBase_of (h 25 6 _ rfl) (r := ⟨[(8, 23, 98560)], false, false, false, fun b w => .otinv (.ofWord b w)⟩)
      (find_next (row_no (.head _) 8 23 _ (by decide) (h1 8 23 _ rfl) (by decide))
      (find_next (row_no (.head _) 8 23 _ (by decide) (h1 8 23 _ rfl) (by decide))
      (find_next (row_no (.head _) 8 23 _ (by decide) (h1 8 23 _ rfl) (by decide))
      (find_next (row_no (.head _) 8 23 _ (by decide) (h1 8 23 _ rfl) (by decide))
      (find_next (row_no (.head _) 1 23 _ (by decide) (h1 8 23 _ rfl) (by decide))
      (find_next (row_no (.head _) 1 23 _ (by decide) (h1 8 23 _ rfl) (by decide))
      (find_next (row_no (.head _) 1 23 _ (by decide) (h1 8 23 _ rfl) (by decide))
      (find_next (row_no (.tail _ (.head _)) 0 15 _ (by decide) (h2 16 15 _ rfl) (by decide))
      (find_next (row_no (.tail _ (.head _)) 0 15 _ (by decide) (h2 16 15 _ rfl) (by decide))
      (find_next (row_no (.tail _ (.head _)) 4 15 _ (by decide) (h2 16 15 _ rfl) (by decide))
      (find_next (row_no (.head _) 7 23 _ (by decide) (h1 8 23 _ rfl) (by decide))
      (find_next (row_no (.head _) 7 23 _ (by decide) (h1 8 23 _ rfl) (by decide))
      (find_next (row_no (.head _) 8 23 _ (by decide) (h1 8 23 _ rfl) (by decide))
      (find_next (row_no (.head _) 2 15 _ (by decide) (h2 16 15 _ rfl) (by decide))
      (find_next (row_no (.head _) 0 15 _ (by decide) (h2 16 15 _ rfl) (by decide))
      (find_next (row_no (.head _) 0 15 _ (by decide) (h2 16 15 _ rfl) (by decide))
      (find_next (row_no (.head _) 7 15 _ (by decide) (h2 16 15 _ rfl) (by decide))
      (find_here (row_yes1 (h1 8 23 _ rfl)))))))))))))))))))) (fun h => no_some rfl h) (fun h => no_some rfl h) (fun h => no_some rfl h)).trans
      (congrArg (fun x => Except.ok (Instr.otinv x)) (OtinvForm_of (h 31 1 _ rfl) (h 7 1 _ rfl) (h 0 7 _ rfl))))
    (plain_of_zero (h 25 6 _ rfl) (k := 0) (m := 15) (by decide) (h2 16 15 _ rfl) (by decide)) (fun p hp => no_eq rfl hp) (fun h => no_some rfl h)

theorem ctxsave (f : CtxRegForm) : Statement (.ctxsave f) := fun _ _ => by
  obtain ⟨w, e⟩ : ∃ w, w = 0x01820000 + f.bits := ⟨_, rfl⟩
  have h := Layout.reads (w := w) [(7, f.p.toNat), (18, 197632), (6, 0), (1, f.c.toNat)]
    ⟨f.p.isLt, by decide, by decide, f.c.toNat_lt, trivial⟩ (by rw [e]; simp only [CtxRegForm.bits, Layout.value]; omega)
  have h1 := Layout.reads (w := w) [(7, f.p.toNat), (24, 197632), (1, f.c.toNat)]
    ⟨f.p.isLt, by decide, f.c.toNat_lt, trivial⟩ (by rw [e]; simp only [CtxRegForm.bits, Layout.value]; omega)
  have h2 := Layout.reads (w := w) [(7, f.p.toNat), (9, 0), (15, 386), (1, f.c.toNat)]
    ⟨f.p.isLt, by decide, by decide, f.c.toNat_lt, trivial⟩ (by rw [e]; simp only [CtxRegForm.bits, Layout.value]; omega)
  exact decode_encode (by rw [e]; rfl)
    ((decodeBase_of (h 25 6 _ rfl) (r := ⟨[(7, 24, 197632)], false, false, false, fun b w => .ctxsave (.ofWord b w)⟩)
      (find_next (row_no (.head _) 7 24 _ (by decide) (h1 7 24 _ rfl) (by decide))
      (find_next (row_no (.head _) 7 24 _ (by decide) (h1 7 24 _ rfl) (by decide))
      (find_next (row_no (.head _) 7 24 _ (by decide) (h1 7 24 _ rfl) (by decide))
      (find_next (row_no (.head _) 7 24 _ (by decide) (h1 7 24 _ rfl) (by decide))
      (find_next (row_no (.head _) 0 24 _ (by decide) (h1 7 24 _ rfl) (by decide))
      (find_next (row_no (.head _) 0 24 _ (by decide) (h1 7 24 _ rfl) (by decide))
      (find_next (row_no (.head _) 0 24 _ (by decide) (h1 7 24 _ rfl) (by decide))
      (find_next (row_no (.tail _ (.head _)) 0 15 _ (by decide) (h2 16 15 _ rfl) (by decide))
      (find_next (row_no (.tail _ (.head _)) 0 15 _ (by decide) (h2 16 15 _ rfl) (by decide))
      (find_next (row_no (.tail _ (.head _)) 4 15 _ (by decide) (h2 16 15 _ rfl) (by decide))
      (find_next (row_no (.head _) 6 24 _ (by decide) (h1 7 24 _ rfl) (by decide))
      (find_next (row_no (.head _) 6 24 _ (by decide) (h1 7 24 _ rfl) (by decide))
      (find_next (row_no (.head _) 7 24 _ (by decide) (h1 7 24 _ rfl) (by decide))
      (find_next (row_no (.head _) 2 15 _ (by decide) (h2 16 15 _ rfl) (by decide))
      (find_next (row_no (.head _) 0 15 _ (by decide) (h2 16 15 _ rfl) (by decide))
      (find_next (row_no (.head _) 0 15 _ (by decide) (h2 16 15 _ rfl) (by decide))
      (find_next (row_no (.head _) 7 15 _ (by decide) (h2 16 15 _ rfl) (by decide))
      (find_next (row_no (.head _) 8 15 _ (by decide) (h2 16 15 _ rfl) (by decide))
      (find_here (row_yes1 (h1 7 24 _ rfl))))))))))))))))))))) (fun h => no_some rfl h) (fun h => no_some rfl h) (fun h => no_some rfl h)).trans
      (congrArg (fun x => Except.ok (Instr.ctxsave x)) (CtxRegForm_of (h 31 1 _ rfl) (h 0 7 _ rfl))))
    (plain_of_zero (h 25 6 _ rfl) (k := 0) (m := 15) (by decide) (h2 16 15 _ rfl) (by decide)) (fun p hp => no_eq rfl hp) (fun h => no_some rfl h)

theorem ctxload (f : CtxRegForm) : Statement (.ctxload f) := fun _ _ => by
  obtain ⟨w, e⟩ : ∃ w, w = 0x01830000 + f.bits := ⟨_, rfl⟩
  have h := Layout.reads (w := w) [(7, f.p.toNat), (18, 198144), (6, 0), (1, f.c.toNat)]
    ⟨f.p.isLt, by decide, by decide, f.c.toNat_lt, trivial⟩ (by rw [e]; simp only [CtxRegForm.bits, Layout.value]; omega)
  have h1 := Layout.reads (w := w) [(7, f.p.toNat), (24, 198144), (1, f.c.toNat)]
    ⟨f.p.isLt, by decide, f.c.toNat_lt, trivial⟩ (by rw [e]; simp only [CtxRegForm.bits, Layout.value]; omega)
  have h2 := Layout.reads (w := w) [(7, f.p.toNat), (9, 0), (15, 387), (1, f.c.toNat)]
    ⟨f.p.isLt, by decide, by decide, f.c.toNat_lt, trivial⟩ (by rw [e]; simp only [CtxRegForm.bits, Layout.value]; omega)
  exact decode_encode (by rw [e]; rfl)
    ((decodeBase_of (h 25 6 _ rfl) (r := ⟨[(7, 24, 198144)], false, false, false, fun b w => .ctxload (.ofWord b w)⟩)
      (find_next (row_no (.head _) 7 24 _ (by decide) (h1 7 24 _ rfl) (by decide))
      (find_next (row_no (.head _) 7 24 _ (by decide) (h1 7 24 _ rfl) (by decide))
      (find_next (row_no (.head _) 7 24 _ (by decide) (h1 7 24 _ rfl) (by decide))
      (find_next (row_no (.head _) 7 24 _ (by decide) (h1 7 24 _ rfl) (by decide))
      (find_next (row_no (.head _) 0 24 _ (by decide) (h1 7 24 _ rfl) (by decide))
      (find_next (row_no (.head _) 0 24 _ (by decide) (h1 7 24 _ rfl) (by decide))
      (find_next (row_no (.head _) 0 24 _ (by decide) (h1 7 24 _ rfl) (by decide))
      (find_next (row_no (.tail _ (.head _)) 0 15 _ (by decide) (h2 16 15 _ rfl) (by decide))
      (find_next (row_no (.tail _ (.head _)) 0 15 _ (by decide) (h2 16 15 _ rfl) (by decide))
      (find_next (row_no (.tail _ (.head _)) 4 15 _ (by decide) (h2 16 15 _ rfl) (by decide))
      (find_next (row_no (.head _) 6 24 _ (by decide) (h1 7 24 _ rfl) (by decide))
      (find_next (row_no (.head _) 6 24 _ (by decide) (h1 7 24 _ rfl) (by decide))
      (find_next (row_no (.head _) 7 24 _ (by decide) (h1 7 24 _ rfl) (by decide))
      (find_next (row_no (.head _) 2 15 _ (by decide) (h2 16 15 _ rfl) (by decide))
      (find_next (row_no (.head _) 0 15 _ (by decide) (h2 16 15 _ rfl) (by decide))
      (find_next (row_no (.head _) 0 15 _ (by decide) (h2 16 15 _ rfl) (by decide))
      (find_next (row_no (.head _) 7 15 _ (by decide) (h2 16 15 _ rfl) (by decide))
      (find_next (row_no (.head _) 8 15 _ (by decide) (h2 16 15 _ rfl) (by decide))
      (find_next (row_no (.head _) 0 24 _ (by decide) (h1 7 24 _ rfl) (by decide))
      (find_here (row_yes1 (h1 7 24 _ rfl)))))))))))))))))))))) (fun h => no_some rfl h) (fun h => no_some rfl h) (fun h => no_some rfl h)).trans
      (congrArg (fun x => Except.ok (Instr.ctxload x)) (CtxRegForm_of (h 31 1 _ rfl) (h 0 7 _ rfl))))
    (plain_of_zero (h 25 6 _ rfl) (k := 0) (m := 15) (by decide) (h2 16 15 _ rfl) (by decide)) (fun p hp => no_eq rfl hp) (fun h => no_some rfl h)

theorem br (f : BrForm) : Statement (.br f) := fun _ _ => by
  obtain ⟨w, e⟩ : ∃ w, w = 0x02000000 + f.bits := ⟨_, rfl⟩
  have h := Layout.reads (w := w) [(14, f.o.toNat), (3, 0), (1, f.n.toNat), (4, f.k.toNat), (3, 0), (6, 1), (1, f.c.toNat)]
    ⟨f.o.isLt, by decide, f.n.isLt, f.k.isLt, by decide, by decide, f.c.toNat_lt, trivial⟩ (by rw [e]; simp only [BrForm.bits, Layout.value]; omega)
  have h1 := Layout.reads (w := w) [(14, f.o.toNat), (3, 0), (1, f.n.toNat), (4, f.k.toNat), (9, 8), (1, f.c.toNat)]
    ⟨f.o.isLt, by decide, f.n.isLt, f.k.isLt, by decide, f.c.toNat_lt, trivial⟩ (by rw [e]; simp only [BrForm.bits, Layout.value]; omega)
  exact decode_encode (by rw [e]; rfl)
    ((decodeBase_of (h 25 6 _ rfl) (r := ⟨[(14, 3, 0), (22, 9, 8)], false, false, false, fun b w => .br (.ofWord b w)⟩)
      (find_here (row_yes2 (h 14 3 _ rfl) (h1 22 9 _ rfl))) (fun h => no_some rfl h) (fun h => no_some rfl h) (fun h => no_some rfl h)).trans
      (congrArg (fun x => Except.ok (Instr.br x)) (BrForm_of (h 31 1 _ rfl) (h 18 4 _ rfl) (h 17 1 _ rfl) (h 0 14 _ rfl))))
    (plain_of_one (h 25 6 _ rfl) (k := 0) (m := 9) (by decide) (h1 22 9 _ rfl) (by decide)) (fun p hp => no_eq rfl hp) (fun h => no_some rfl h)

theorem call (f : CallForm) : Statement (.call f) := fun _ _ => by
  obtain ⟨w, e⟩ : ∃ w, w = 0x02400000 + f.bits := ⟨_, rfl⟩
  have h := Layout.reads (w := w) [(14, f.o.toNat), (11, 256), (6, 1), (1, f.c.toNat)]
    ⟨f.o.isLt, by decide, by decide, f.c.toNat_lt, trivial⟩ (by rw [e]; simp only [CallForm.bits, Layout.value]; omega)
  have h1 := Layout.reads (w := w) [(14, f.o.toNat), (17, 2304), (1, f.c.toNat)]
    ⟨f.o.isLt, by decide, f.c.toNat_lt, trivial⟩ (by rw [e]; simp only [CallForm.bits, Layout.value]; omega)
  have h2 := Layout.reads (w := w) [(14, f.o.toNat), (8, 0), (9, 9), (1, f.c.toNat)]
    ⟨f.o.isLt, by decide, by decide, f.c.toNat_lt, trivial⟩ (by rw [e]; simp only [CallForm.bits, Layout.value]; omega)
  exact decode_encode (by rw [e]; rfl)
    ((decodeBase_of (h 25 6 _ rfl) (r := ⟨[(14, 17, 2304)], false, false, false, fun b w => .call (.ofWord b w)⟩)
      (find_next (row_no (.tail _ (.head _)) 0 9 _ (by decide) (h2 22 9 _ rfl) (by decide))
      (find_here (row_yes1 (h1 14 17 _ rfl)))) (fun h => no_some rfl h) (fun h => no_some rfl h) (fun h => no_some rfl h)).trans
      (congrArg (fun x => Except.ok (Instr.call x)) (CallForm_of (h 31 1 _ rfl) (h 0 14 _ rfl))))
    (plain_of_one (h 25 6 _ rfl) (k := 0) (m := 9) (by decide) (h2 22 9 _ rfl) (by decide)) (fun p hp => no_eq rfl hp) (fun h => no_some rfl h)

theorem ret (f : BareForm) : Statement (.ret f) := fun _ _ => by
  obtain ⟨w, e⟩ : ∃ w, w = 0x02800000 + f.bits := ⟨_, rfl⟩
  have h := Layout.reads (w := w) [(25, 8388608), (6, 1), (1, f.c.toNat)]
    ⟨by decide, by decide, f.c.toNat_lt, trivial⟩ (by rw [e]; simp only [BareForm.bits, Layout.value]; omega)
  have h1 := Layout.reads (w := w) [(31, 41943040), (1, f.c.toNat)]
    ⟨by decide, f.c.toNat_lt, trivial⟩ (by rw [e]; simp only [BareForm.bits, Layout.value]; omega)
  have h2 := Layout.reads (w := w) [(22, 0), (9, 10), (1, f.c.toNat)]
    ⟨by decide, by decide, f.c.toNat_lt, trivial⟩ (by rw [e]; simp only [BareForm.bits, Layout.value]; omega)
  exact decode_encode (by rw [e]; rfl)
    ((decodeBase_of (h 25 6 _ rfl) (r := ⟨[(0, 31, 41943040)], false, false, false, fun b w => .ret (.ofWord b w)⟩)
      (find_next (row_no (.tail _ (.head _)) 0 9 _ (by decide) (h2 22 9 _ rfl) (by decide))
      (find_next (row_no (.head _) 8 9 _ (by decide) (h2 22 9 _ rfl) (by decide))
      (find_here (row_yes1 (h1 0 31 _ rfl))))) (fun h => no_some rfl h) (fun h => no_some rfl h) (fun h => no_some rfl h)).trans
      (congrArg (fun x => Except.ok (Instr.ret x)) (BareForm_of (h 31 1 _ rfl))))
    (plain_of_one (h 25 6 _ rfl) (k := 0) (m := 9) (by decide) (h2 22 9 _ rfl) (by decide)) (fun p hp => no_eq rfl hp) (fun h => no_some rfl h)

theorem reform (f : ReformForm) : Statement (.reform f) := fun _ _ => by
  obtain ⟨w, e⟩ : ∃ w, w = 0x02C00000 + f.bits := ⟨_, rfl⟩
  have h := Layout.reads (w := w) [(14, f.o.toNat), (7, f.r.toNat), (1, f.x.toNat), (3, 3), (6, 1), (1, f.c.toNat)]
    ⟨f.o.isLt, f.r.isLt, f.x.toNat_lt, by decide, by decide, f.c.toNat_lt, trivial⟩ (by rw [e]; simp only [ReformForm.bits, Layout.value]; omega)
  have h1 := Layout.reads (w := w) [(14, f.o.toNat), (7, f.r.toNat), (1, f.x.toNat), (9, 11), (1, f.c.toNat)]
    ⟨f.o.isLt, f.r.isLt, f.x.toNat_lt, by decide, f.c.toNat_lt, trivial⟩ (by rw [e]; simp only [ReformForm.bits, Layout.value]; omega)
  exact decode_encode (by rw [e]; rfl)
    ((decodeBase_of (h 25 6 _ rfl) (r := ⟨[(22, 9, 11)], false, false, false, fun b w => .reform (.ofWord b w)⟩)
      (find_next (row_no (.tail _ (.head _)) 0 9 _ (by decide) (h1 22 9 _ rfl) (by decide))
      (find_next (row_no (.head _) 8 9 _ (by decide) (h1 22 9 _ rfl) (by decide))
      (find_next (row_no (.head _) 22 9 _ (by decide) (h1 22 9 _ rfl) (by decide))
      (find_here (row_yes1 (h1 22 9 _ rfl)))))) (fun h => no_some rfl h) (fun h => no_some rfl h) (fun h => no_some rfl h)).trans
      (congrArg (fun x => Except.ok (Instr.reform x)) (ReformForm_of (h 31 1 _ rfl) (h 21 1 _ rfl) (h 14 7 _ rfl) (h 0 14 _ rfl))))
    (plain_of_one (h 25 6 _ rfl) (k := 0) (m := 9) (by decide) (h1 22 9 _ rfl) (by decide)) (fun p hp => no_eq rfl hp) (fun h => no_some rfl h)

theorem reformX (f : ReformXForm) : Statement (.reformX f) := fun _ _ => by
  obtain ⟨w, e⟩ : ∃ w, w = 0x03000000 + f.bits := ⟨_, rfl⟩
  have h := Layout.reads (w := w) [(14, f.o.toNat), (7, f.r.toNat), (1, f.x.toNat), (3, 4), (6, 1), (1, f.c.toNat)]
    ⟨f.o.isLt, f.r.isLt, f.x.toNat_lt, by decide, by decide, f.c.toNat_lt, trivial⟩ (by rw [e]; simp only [ReformXForm.bits, Layout.value]; omega)
  have h1 := Layout.reads (w := w) [(14, f.o.toNat), (7, f.r.toNat), (1, f.x.toNat), (9, 12), (1, f.c.toNat)]
    ⟨f.o.isLt, f.r.isLt, f.x.toNat_lt, by decide, f.c.toNat_lt, trivial⟩ (by rw [e]; simp only [ReformXForm.bits, Layout.value]; omega)
  exact decode_encode (by rw [e]; rfl)
    ((decodeBase_of (h 25 6 _ rfl) (r := ⟨[(22, 9, 12)], false, false, true, fun b w => .reformX (.ofWord b w)⟩)
      (find_next (row_no (.tail _ (.head _)) 0 9 _ (by decide) (h1 22 9 _ rfl) (by decide))
      (find_next (row_no (.head _) 8 9 _ (by decide) (h1 22 9 _ rfl) (by decide))
      (find_next (row_no (.head _) 22 9 _ (by decide) (h1 22 9 _ rfl) (by decide))
      (find_next (row_no (.head _) 0 9 _ (by decide) (h1 22 9 _ rfl) (by decide))
      (find_here (row_yes1 (h1 22 9 _ rfl))))))) (fun h => no_some rfl h) (fun h => no_some rfl h) (fun _ => rfl)).trans
      (congrArg (fun x => Except.ok (Instr.reformX x)) (ReformXForm_of rfl (h 31 1 _ rfl) (h 21 1 _ rfl) (h 14 7 _ rfl) (h 0 14 _ rfl))))
    (plain_of_one (h 25 6 _ rfl) (k := 0) (m := 9) (by decide) (h1 22 9 _ rfl) (by decide)) (fun p hp => no_eq rfl hp) (fun _ => ⟨rfl, rfl⟩)

theorem calli (f : CalliForm) : Statement (.calli f) := fun _ _ => by
  obtain ⟨w, e⟩ : ∃ w, w = 0x03400000 + f.bits := ⟨_, rfl⟩
  have h := Layout.reads (w := w) [(14, 0), (7, f.a.toNat), (1, f.x.toNat), (3, 5), (6, 1), (1, f.c.toNat)]
    ⟨by decide, f.a.isLt, f.x.toNat_lt, by decide, by decide, f.c.toNat_lt, trivial⟩ (by rw [e]; simp only [CalliForm.bits, Layout.value]; omega)
  have h1 := Layout.reads (w := w) [(14, 0), (7, f.a.toNat), (1, f.x.toNat), (9, 13), (1, f.c.toNat)]
    ⟨by decide, f.a.isLt, f.x.toNat_lt, by decide, f.c.toNat_lt, trivial⟩ (by rw [e]; simp only [CalliForm.bits, Layout.value]; omega)
  exact decode_encode (by rw [e]; rfl)
    ((decodeBase_of (h 25 6 _ rfl) (r := ⟨[(0, 14, 0), (22, 9, 13)], false, false, false, fun b w => .calli (.ofWord b w)⟩)
      (find_next (row_no (.tail _ (.head _)) 0 9 _ (by decide) (h1 22 9 _ rfl) (by decide))
      (find_next (row_no (.head _) 8 9 _ (by decide) (h1 22 9 _ rfl) (by decide))
      (find_next (row_no (.head _) 22 9 _ (by decide) (h1 22 9 _ rfl) (by decide))
      (find_next (row_no (.head _) 0 9 _ (by decide) (h1 22 9 _ rfl) (by decide))
      (find_next (row_no (.head _) 0 9 _ (by decide) (h1 22 9 _ rfl) (by decide))
      (find_here (row_yes2 (h 0 14 _ rfl) (h1 22 9 _ rfl)))))))) (fun h => no_some rfl h) (fun h => no_some rfl h) (fun h => no_some rfl h)).trans
      (congrArg (fun x => Except.ok (Instr.calli x)) (CalliForm_of (h 31 1 _ rfl) (h 21 1 _ rfl) (h 14 7 _ rfl))))
    (plain_of_one (h 25 6 _ rfl) (k := 0) (m := 9) (by decide) (h1 22 9 _ rfl) (by decide)) (fun p hp => no_eq rfl hp) (fun h => no_some rfl h)

theorem loopImm (f : LoopIForm) : Statement (.loopImm f) := fun _ _ => by
  obtain ⟨w, e⟩ : ∃ w, w = 0x04000000 + f.bits := ⟨_, rfl⟩
  have h := Layout.reads (w := w) [(10, f.l.toNat), (12, f.n.toNat), (3, 0), (6, 2), (1, f.c.toNat)]
    ⟨f.l.isLt, f.n.isLt, by decide, by decide, f.c.toNat_lt, trivial⟩ (by rw [e]; simp only [LoopIForm.bits, Layout.value]; omega)
  have h1 := Layout.reads (w := w) [(10, f.l.toNat), (12, f.n.toNat), (9, 16), (1, f.c.toNat)]
    ⟨f.l.isLt, f.n.isLt, by decide, f.c.toNat_lt, trivial⟩ (by rw [e]; simp only [LoopIForm.bits, Layout.value]; omega)
  exact decode_encode (by rw [e]; rfl)
    ((decodeBase_of (h 25 6 _ rfl) (r := ⟨[(22, 9, 16)], false, false, false, fun b w => .loopImm (.ofWord b w)⟩)
      (find_here (row_yes1 (h1 22 9 _ rfl))) (fun h => no_some rfl h) (fun h => no_some rfl h) (fun h => no_some rfl h)).trans
      (congrArg (fun x => Except.ok (Instr.loopImm x)) (LoopIForm_of (h 31 1 _ rfl) (h 10 12 _ rfl) (h 0 10 _ rfl))))
    (plain_of_major (h 25 6 _ rfl) (by decide)) (fun p hp => no_eq rfl hp) (fun h => no_some rfl h)

theorem loopReg (f : LoopRForm) : Statement (.loopReg f) := fun _ _ => by
  obtain ⟨w, e⟩ : ∃ w, w = 0x04800000 + f.bits := ⟨_, rfl⟩
  have h := Layout.reads (w := w) [(10, f.l.toNat), (7, f.a.toNat), (5, 0), (1, f.x.toNat), (2, 1), (6, 2), (1, f.c.toNat)]
    ⟨f.l.isLt, f.a.isLt, by decide, f.x.toNat_lt, by decide, by decide, f.c.toNat_lt, trivial⟩ (by rw [e]; simp only [LoopRForm.bits, Layout.value]; omega)
  have h1 := Layout.reads (w := w) [(10, f.l.toNat), (7, f.a.toNat), (5, 0), (1, f.x.toNat), (8, 9), (1, f.c.toNat)]
    ⟨f.l.isLt, f.a.isLt, by decide, f.x.toNat_lt, by decide, f.c.toNat_lt, trivial⟩ (by rw [e]; simp only [LoopRForm.bits, Layout.value]; omega)
  exact decode_encode (by rw [e]; rfl)
    ((decodeBase_of (h 25 6 _ rfl) (r := ⟨[(17, 5, 0), (23, 8, 9)], false, false, false, fun b w => .loopReg (.ofWord b w)⟩)
      (find_next (row_no (.head _) 1 8 _ (by decide) (h1 23 8 _ rfl) (by decide))
      (find_here (row_yes2 (h 17 5 _ rfl) (h1 23 8 _ rfl)))) (fun h => no_some rfl h) (fun h => no_some rfl h) (fun h => no_some rfl h)).trans
      (congrArg (fun x => Except.ok (Instr.loopReg x)) (LoopRForm_of (h 31 1 _ rfl) (h 22 1 _ rfl) (h 10 7 _ rfl) (h 0 10 _ rfl))))
    (plain_of_major (h 25 6 _ rfl) (by decide)) (fun p hp => no_eq rfl hp) (fun h => no_some rfl h)

theorem srd (f : SrdForm) : Statement (.srd f) := fun _ _ => by
  obtain ⟨w, e⟩ : ∃ w, w = 0x06000000 + f.bits := ⟨_, rfl⟩
  have h := Layout.reads (w := w) [(7, f.d.toNat), (2, f.h.toNat), (7, 0), (9, f.s.toNat), (6, 3), (1, f.c.toNat)]
    ⟨f.d.isLt, f.h.isLt, by decide, f.s.isLt, by decide, f.c.toNat_lt, trivial⟩ (by rw [e]; simp only [SrdForm.bits, Layout.value]; omega)
  exact decode_encode (by rw [e]; rfl)
    ((decodeBase_of (h 25 6 _ rfl) (r := ⟨[(9, 7, 0), (25, 6, 3)], false, false, false, fun b w => .srd (.ofWord b w)⟩)
      (find_here (row_yes2 (h 9 7 _ rfl) (h 25 6 _ rfl))) (fun h => no_some rfl h) (fun h => no_some rfl h) (fun h => no_some rfl h)).trans
      (congrArg (fun x => Except.ok (Instr.srd x)) (SrdForm_of (h 31 1 _ rfl) (h 16 9 _ rfl) (h 7 2 _ rfl) (h 0 7 _ rfl))))
    (plain_of_major (h 25 6 _ rfl) (by decide)) (fun p hp => no_eq rfl hp) (fun h => no_some rfl h)

theorem swr (f : SwrForm) : Statement (.swr f) := fun _ _ => by
  obtain ⟨w, e⟩ : ∃ w, w = 0x06004000 + f.bits := ⟨_, rfl⟩
  have h := Layout.reads (w := w) [(7, f.a.toNat), (2, f.h.toNat), (7, 32), (9, f.s.toNat), (6, 3), (1, f.c.toNat)]
    ⟨f.a.isLt, f.h.isLt, by decide, f.s.isLt, by decide, f.c.toNat_lt, trivial⟩ (by rw [e]; simp only [SwrForm.bits, Layout.value]; omega)
  exact decode_encode (by rw [e]; rfl)
    ((decodeBase_of (h 25 6 _ rfl) (r := ⟨[(9, 7, 32), (25, 6, 3)], false, false, false, fun b w => .swr (.ofWord b w)⟩)
      (find_next (row_no (.head _) 0 7 _ (by decide) (h 9 7 _ rfl) (by decide))
      (find_here (row_yes2 (h 9 7 _ rfl) (h 25 6 _ rfl)))) (fun h => no_some rfl h) (fun h => no_some rfl h) (fun h => no_some rfl h)).trans
      (congrArg (fun x => Except.ok (Instr.swr x)) (SwrForm_of (h 31 1 _ rfl) (h 16 9 _ rfl) (h 7 2 _ rfl) (h 0 7 _ rfl))))
    (plain_of_major (h 25 6 _ rfl) (by decide)) (fun p hp => no_eq rfl hp) (fun h => no_some rfl h)

theorem movConst (f : MovCForm) : Statement (.movConst f) := fun _ _ => by
  obtain ⟨w, e⟩ : ∃ w, w = 0x06008000 + f.bits := ⟨_, rfl⟩
  have h := Layout.reads (w := w) [(7, f.d.toNat), (9, 256), (6, f.n.toNat), (3, 0), (6, 3), (1, f.c.toNat)]
    ⟨f.d.isLt, by decide, f.n.isLt, by decide, by decide, f.c.toNat_lt, trivial⟩ (by rw [e]; simp only [MovCForm.bits, Layout.value]; omega)
  have h1 := Layout.reads (w := w) [(7, f.d.toNat), (2, 0), (7, 64), (6, f.n.toNat), (9, 24), (1, f.c.toNat)]
    ⟨f.d.isLt, by decide, by decide, f.n.isLt, by decide, f.c.toNat_lt, trivial⟩ (by rw [e]; simp only [MovCForm.bits, Layout.value]; omega)
  exact decode_encode (by rw [e]; rfl)
    ((decodeBase_of (h 25 6 _ rfl) (r := ⟨[(7, 9, 256), (22, 9, 24)], false, false, false, fun b w => .movConst (.ofWord b w)⟩)
      (find_next (row_no (.head _) 0 7 _ (by decide) (h1 9 7 _ rfl) (by decide))
      (find_next (row_no (.head _) 0 7 _ (by decide) (h1 9 7 _ rfl) (by decide))
      (find_here (row_yes2 (h 7 9 _ rfl) (h1 22 9 _ rfl))))) (fun h => no_some rfl h) (fun h => no_some rfl h) (fun h => no_some rfl h)).trans
      (congrArg (fun x => Except.ok (Instr.movConst x)) (MovCForm_of (h 31 1 _ rfl) (h 16 6 _ rfl) (h 0 7 _ rfl))))
    (plain_of_major (h 25 6 _ rfl) (by decide)) (fun p hp => no_eq rfl hp) (fun h => no_some rfl h)

theorem iadd (f : A3Form) : Statement (.iadd f) := fun _ hw => by
  obtain ⟨w, e⟩ : ∃ w, w = 0x08000000 + f.bits := ⟨_, rfl⟩
  have h := Layout.reads (w := w) [(1, f.y.toNat), (1, f.x.toNat), (2, 0), (7, f.b.toNat), (7, f.a.toNat), (7, f.d.toNat), (6, 4), (1, f.c.toNat)]
    ⟨f.y.toNat_lt, f.x.toNat_lt, by decide, f.b.isLt, f.a.isLt, f.d.isLt, by decide, f.c.toNat_lt, trivial⟩ (by rw [e]; simp only [A3Form.bits, Layout.value]; omega)
  exact decode_encode (by rw [e]; rfl)
    ((decodeBase_of (h 25 6 _ rfl) (r := ⟨[(2, 2, 0), (25, 6, 4)], true, false, false, fun b w => .iadd (.ofWord b w)⟩)
      (find_here (row_yes2 (h 2 2 _ rfl) (h 25 6 _ rfl))) (fun _ => rfl) (fun h => no_some rfl h) (fun h => no_some rfl h)).trans
      (congrArg (fun x => Except.ok (Instr.iadd x)) (A3Form_of rfl (h 31 1 _ rfl) (h 18 7 _ rfl) (h 11 7 _ rfl) (h 4 7 _ rfl) (h 1 1 _ rfl) (h 0 1 _ rfl))))
    (plain_of_major (h 25 6 _ rfl) (by decide)) (fun p hp => ⟨defined_of_fits hw p hp, fun h3 => by rw [show w / 2 ^ 25 % 64 = 4 from h 25 6 _ rfl] at h3; exact absurd h3 (by decide)⟩) (fun h => no_some rfl h)

theorem isub (f : A3Form) : Statement (.isub f) := fun _ hw => by
  obtain ⟨w, e⟩ : ∃ w, w = 0x08000004 + f.bits := ⟨_, rfl⟩
  have h := Layout.reads (w := w) [(1, f.y.toNat), (1, f.x.toNat), (2, 1), (7, f.b.toNat), (7, f.a.toNat), (7, f.d.toNat), (6, 4), (1, f.c.toNat)]
    ⟨f.y.toNat_lt, f.x.toNat_lt, by decide, f.b.isLt, f.a.isLt, f.d.isLt, by decide, f.c.toNat_lt, trivial⟩ (by rw [e]; simp only [A3Form.bits, Layout.value]; omega)
  exact decode_encode (by rw [e]; rfl)
    ((decodeBase_of (h 25 6 _ rfl) (r := ⟨[(2, 2, 1), (25, 6, 4)], true, false, false, fun b w => .isub (.ofWord b w)⟩)
      (find_next (row_no (.head _) 0 2 _ (by decide) (h 2 2 _ rfl) (by decide))
      (find_here (row_yes2 (h 2 2 _ rfl) (h 25 6 _ rfl)))) (fun _ => rfl) (fun h => no_some rfl h) (fun h => no_some rfl h)).trans
      (congrArg (fun x => Except.ok (Instr.isub x)) (A3Form_of rfl (h 31 1 _ rfl) (h 18 7 _ rfl) (h 11 7 _ rfl) (h 4 7 _ rfl) (h 1 1 _ rfl) (h 0 1 _ rfl))))
    (plain_of_major (h 25 6 _ rfl) (by decide)) (fun p hp => ⟨defined_of_fits hw p hp, fun h3 => by rw [show w / 2 ^ 25 % 64 = 4 from h 25 6 _ rfl] at h3; exact absurd h3 (by decide)⟩) (fun h => no_some rfl h)

theorem imul (f : A3Form) : Statement (.imul f) := fun _ hw => by
  obtain ⟨w, e⟩ : ∃ w, w = 0x08000008 + f.bits := ⟨_, rfl⟩
  have h := Layout.reads (w := w) [(1, f.y.toNat), (1, f.x.toNat), (2, 2), (7, f.b.toNat), (7, f.a.toNat), (7, f.d.toNat), (6, 4), (1, f.c.toNat)]
    ⟨f.y.toNat_lt, f.x.toNat_lt, by decide, f.b.isLt, f.a.isLt, f.d.isLt, by decide, f.c.toNat_lt, trivial⟩ (by rw [e]; simp only [A3Form.bits, Layout.value]; omega)
  exact decode_encode (by rw [e]; rfl)
    ((decodeBase_of (h 25 6 _ rfl) (r := ⟨[(2, 2, 2), (25, 6, 4)], true, false, false, fun b w => .imul (.ofWord b w)⟩)
      (find_next (row_no (.head _) 0 2 _ (by decide) (h 2 2 _ rfl) (by decide))
      (find_next (row_no (.head _) 0 2 _ (by decide) (h 2 2 _ rfl) (by decide))
      (find_here (row_yes2 (h 2 2 _ rfl) (h 25 6 _ rfl))))) (fun _ => rfl) (fun h => no_some rfl h) (fun h => no_some rfl h)).trans
      (congrArg (fun x => Except.ok (Instr.imul x)) (A3Form_of rfl (h 31 1 _ rfl) (h 18 7 _ rfl) (h 11 7 _ rfl) (h 4 7 _ rfl) (h 1 1 _ rfl) (h 0 1 _ rfl))))
    (plain_of_major (h 25 6 _ rfl) (by decide)) (fun p hp => ⟨defined_of_fits hw p hp, fun h3 => by rw [show w / 2 ^ 25 % 64 = 4 from h 25 6 _ rfl] at h3; exact absurd h3 (by decide)⟩) (fun h => no_some rfl h)

theorem imulh (f : A3Form) : Statement (.imulh f) := fun _ hw => by
  obtain ⟨w, e⟩ : ∃ w, w = 0x0800000C + f.bits := ⟨_, rfl⟩
  have h := Layout.reads (w := w) [(1, f.y.toNat), (1, f.x.toNat), (2, 3), (7, f.b.toNat), (7, f.a.toNat), (7, f.d.toNat), (6, 4), (1, f.c.toNat)]
    ⟨f.y.toNat_lt, f.x.toNat_lt, by decide, f.b.isLt, f.a.isLt, f.d.isLt, by decide, f.c.toNat_lt, trivial⟩ (by rw [e]; simp only [A3Form.bits, Layout.value]; omega)
  exact decode_encode (by rw [e]; rfl)
    ((decodeBase_of (h 25 6 _ rfl) (r := ⟨[(2, 2, 3), (25, 6, 4)], true, false, false, fun b w => .imulh (.ofWord b w)⟩)
      (find_next (row_no (.head _) 0 2 _ (by decide) (h 2 2 _ rfl) (by decide))
      (find_next (row_no (.head _) 0 2 _ (by decide) (h 2 2 _ rfl) (by decide))
      (find_next (row_no (.head _) 0 2 _ (by decide) (h 2 2 _ rfl) (by decide))
      (find_here (row_yes2 (h 2 2 _ rfl) (h 25 6 _ rfl)))))) (fun _ => rfl) (fun h => no_some rfl h) (fun h => no_some rfl h)).trans
      (congrArg (fun x => Except.ok (Instr.imulh x)) (A3Form_of rfl (h 31 1 _ rfl) (h 18 7 _ rfl) (h 11 7 _ rfl) (h 4 7 _ rfl) (h 1 1 _ rfl) (h 0 1 _ rfl))))
    (plain_of_major (h 25 6 _ rfl) (by decide)) (fun p hp => ⟨defined_of_fits hw p hp, fun h3 => by rw [show w / 2 ^ 25 % 64 = 4 from h 25 6 _ rfl] at h3; exact absurd h3 (by decide)⟩) (fun h => no_some rfl h)

theorem imin (f : A3Form) : Statement (.imin f) := fun _ hw => by
  obtain ⟨w, e⟩ : ∃ w, w = 0x0A000000 + f.bits := ⟨_, rfl⟩
  have h := Layout.reads (w := w) [(1, f.y.toNat), (1, f.x.toNat), (2, 0), (7, f.b.toNat), (7, f.a.toNat), (7, f.d.toNat), (6, 5), (1, f.c.toNat)]
    ⟨f.y.toNat_lt, f.x.toNat_lt, by decide, f.b.isLt, f.a.isLt, f.d.isLt, by decide, f.c.toNat_lt, trivial⟩ (by rw [e]; simp only [A3Form.bits, Layout.value]; omega)
  exact decode_encode (by rw [e]; rfl)
    ((decodeBase_of (h 25 6 _ rfl) (r := ⟨[(2, 2, 0), (25, 6, 5)], true, false, false, fun b w => .imin (.ofWord b w)⟩)
      (find_here (row_yes2 (h 2 2 _ rfl) (h 25 6 _ rfl))) (fun _ => rfl) (fun h => no_some rfl h) (fun h => no_some rfl h)).trans
      (congrArg (fun x => Except.ok (Instr.imin x)) (A3Form_of rfl (h 31 1 _ rfl) (h 18 7 _ rfl) (h 11 7 _ rfl) (h 4 7 _ rfl) (h 1 1 _ rfl) (h 0 1 _ rfl))))
    (plain_of_major (h 25 6 _ rfl) (by decide)) (fun p hp => ⟨defined_of_fits hw p hp, fun h3 => by rw [show w / 2 ^ 25 % 64 = 5 from h 25 6 _ rfl] at h3; exact absurd h3 (by decide)⟩) (fun h => no_some rfl h)

theorem imax (f : A3Form) : Statement (.imax f) := fun _ hw => by
  obtain ⟨w, e⟩ : ∃ w, w = 0x0A000004 + f.bits := ⟨_, rfl⟩
  have h := Layout.reads (w := w) [(1, f.y.toNat), (1, f.x.toNat), (2, 1), (7, f.b.toNat), (7, f.a.toNat), (7, f.d.toNat), (6, 5), (1, f.c.toNat)]
    ⟨f.y.toNat_lt, f.x.toNat_lt, by decide, f.b.isLt, f.a.isLt, f.d.isLt, by decide, f.c.toNat_lt, trivial⟩ (by rw [e]; simp only [A3Form.bits, Layout.value]; omega)
  exact decode_encode (by rw [e]; rfl)
    ((decodeBase_of (h 25 6 _ rfl) (r := ⟨[(2, 2, 1), (25, 6, 5)], true, false, false, fun b w => .imax (.ofWord b w)⟩)
      (find_next (row_no (.head _) 0 2 _ (by decide) (h 2 2 _ rfl) (by decide))
      (find_here (row_yes2 (h 2 2 _ rfl) (h 25 6 _ rfl)))) (fun _ => rfl) (fun h => no_some rfl h) (fun h => no_some rfl h)).trans
      (congrArg (fun x => Except.ok (Instr.imax x)) (A3Form_of rfl (h 31 1 _ rfl) (h 18 7 _ rfl) (h 11 7 _ rfl) (h 4 7 _ rfl) (h 1 1 _ rfl) (h 0 1 _ rfl))))
    (plain_of_major (h 25 6 _ rfl) (by decide)) (fun p hp => ⟨defined_of_fits hw p hp, fun h3 => by rw [show w / 2 ^ 25 % 64 = 5 from h 25 6 _ rfl] at h3; exact absurd h3 (by decide)⟩) (fun h => no_some rfl h)

theorem iabs (f : A2Form) : Statement (.iabs f) := fun _ hw => by
  obtain ⟨w, e⟩ : ∃ w, w = 0x0A000008 + f.bits := ⟨_, rfl⟩
  have h := Layout.reads (w := w) [(1, 0), (1, f.x.toNat), (9, 2), (7, f.a.toNat), (7, f.d.toNat), (6, 5), (1, f.c.toNat)]
    ⟨by decide, f.x.toNat_lt, by decide, f.a.isLt, f.d.isLt, by decide, f.c.toNat_lt, trivial⟩ (by rw [e]; simp only [A2Form.bits, Layout.value]; omega)
  have h1 := Layout.reads (w := w) [(1, 0), (1, f.x.toNat), (2, 2), (7, 0), (7, f.a.toNat), (7, f.d.toNat), (6, 5), (1, f.c.toNat)]
    ⟨by decide, f.x.toNat_lt, by decide, by decide, f.a.isLt, f.d.isLt, by decide, f.c.toNat_lt, trivial⟩ (by rw [e]; simp only [A2Form.bits, Layout.value]; omega)
  exact decode_encode (by rw [e]; rfl)
    ((decodeBase_of (h 25 6 _ rfl) (r := ⟨[(0, 1, 0), (2, 9, 2), (25, 6, 5)], true, false, false, fun b w => .iabs (.ofWord b w)⟩)
      (find_next (row_no (.head _) 0 2 _ (by decide) (h1 2 2 _ rfl) (by decide))
      (find_next (row_no (.head _) 0 2 _ (by decide) (h1 2 2 _ rfl) (by decide))
      (find_here (row_yes3 (h 0 1 _ rfl) (h 2 9 _ rfl) (h 25 6 _ rfl))))) (fun _ => rfl) (fun h => no_some rfl h) (fun h => no_some rfl h)).trans
      (congrArg (fun x => Except.ok (Instr.iabs x)) (A2Form_of rfl (h 31 1 _ rfl) (h 18 7 _ rfl) (h 11 7 _ rfl) (h 1 1 _ rfl))))
    (plain_of_major (h 25 6 _ rfl) (by decide)) (fun p hp => ⟨defined_of_fits hw p hp, fun h3 => by rw [show w / 2 ^ 25 % 64 = 5 from h 25 6 _ rfl] at h3; exact absurd h3 (by decide)⟩) (fun h => no_some rfl h)

theorem ineg (f : A2Form) : Statement (.ineg f) := fun _ hw => by
  obtain ⟨w, e⟩ : ∃ w, w = 0x0A00000C + f.bits := ⟨_, rfl⟩
  have h := Layout.reads (w := w) [(1, 0), (1, f.x.toNat), (9, 3), (7, f.a.toNat), (7, f.d.toNat), (6, 5), (1, f.c.toNat)]
    ⟨by decide, f.x.toNat_lt, by decide, f.a.isLt, f.d.isLt, by decide, f.c.toNat_lt, trivial⟩ (by rw [e]; simp only [A2Form.bits, Layout.value]; omega)
  have h1 := Layout.reads (w := w) [(1, 0), (1, f.x.toNat), (2, 3), (7, 0), (7, f.a.toNat), (7, f.d.toNat), (6, 5), (1, f.c.toNat)]
    ⟨by decide, f.x.toNat_lt, by decide, by decide, f.a.isLt, f.d.isLt, by decide, f.c.toNat_lt, trivial⟩ (by rw [e]; simp only [A2Form.bits, Layout.value]; omega)
  exact decode_encode (by rw [e]; rfl)
    ((decodeBase_of (h 25 6 _ rfl) (r := ⟨[(0, 1, 0), (2, 9, 3), (25, 6, 5)], true, false, false, fun b w => .ineg (.ofWord b w)⟩)
      (find_next (row_no (.head _) 0 2 _ (by decide) (h1 2 2 _ rfl) (by decide))
      (find_next (row_no (.head _) 0 2 _ (by decide) (h1 2 2 _ rfl) (by decide))
      (find_next (row_no (.tail _ (.head _)) 0 9 _ (by decide) (h 2 9 _ rfl) (by decide))
      (find_here (row_yes3 (h 0 1 _ rfl) (h 2 9 _ rfl) (h 25 6 _ rfl)))))) (fun _ => rfl) (fun h => no_some rfl h) (fun h => no_some rfl h)).trans
      (congrArg (fun x => Except.ok (Instr.ineg x)) (A2Form_of rfl (h 31 1 _ rfl) (h 18 7 _ rfl) (h 11 7 _ rfl) (h 1 1 _ rfl))))
    (plain_of_major (h 25 6 _ rfl) (by decide)) (fun p hp => ⟨defined_of_fits hw p hp, fun h3 => by rw [show w / 2 ^ 25 % 64 = 5 from h 25 6 _ rfl] at h3; exact absurd h3 (by decide)⟩) (fun h => no_some rfl h)

theorem iand (f : A3Form) : Statement (.iand f) := fun _ hw => by
  obtain ⟨w, e⟩ : ∃ w, w = 0x0C000000 + f.bits := ⟨_, rfl⟩
  have h := Layout.reads (w := w) [(1, f.y.toNat), (1, f.x.toNat), (2, 0), (7, f.b.toNat), (7, f.a.toNat), (7, f.d.toNat), (6, 6), (1, f.c.toNat)]
    ⟨f.y.toNat_lt, f.x.toNat_lt, by decide, f.b.isLt, f.a.isLt, f.d.isLt, by decide, f.c.toNat_lt, trivial⟩ (by rw [e]; simp only [A3Form.bits, Layout.value]; omega)
  exact decode_encode (by rw [e]; rfl)
    ((decodeBase_of (h 25 6 _ rfl) (r := ⟨[(2, 2, 0), (25, 6, 6)], true, false, false, fun b w => .iand (.ofWord b w)⟩)
      (find_here (row_yes2 (h 2 2 _ rfl) (h 25 6 _ rfl))) (fun _ => rfl) (fun h => no_some rfl h) (fun h => no_some rfl h)).trans
      (congrArg (fun x => Except.ok (Instr.iand x)) (A3Form_of rfl (h 31 1 _ rfl) (h 18 7 _ rfl) (h 11 7 _ rfl) (h 4 7 _ rfl) (h 1 1 _ rfl) (h 0 1 _ rfl))))
    (plain_of_major (h 25 6 _ rfl) (by decide)) (fun p hp => ⟨defined_of_fits hw p hp, fun h3 => by rw [show w / 2 ^ 25 % 64 = 6 from h 25 6 _ rfl] at h3; exact absurd h3 (by decide)⟩) (fun h => no_some rfl h)

theorem ior (f : A3Form) : Statement (.ior f) := fun _ hw => by
  obtain ⟨w, e⟩ : ∃ w, w = 0x0C000004 + f.bits := ⟨_, rfl⟩
  have h := Layout.reads (w := w) [(1, f.y.toNat), (1, f.x.toNat), (2, 1), (7, f.b.toNat), (7, f.a.toNat), (7, f.d.toNat), (6, 6), (1, f.c.toNat)]
    ⟨f.y.toNat_lt, f.x.toNat_lt, by decide, f.b.isLt, f.a.isLt, f.d.isLt, by decide, f.c.toNat_lt, trivial⟩ (by rw [e]; simp only [A3Form.bits, Layout.value]; omega)
  exact decode_encode (by rw [e]; rfl)
    ((decodeBase_of (h 25 6 _ rfl) (r := ⟨[(2, 2, 1), (25, 6, 6)], true, false, false, fun b w => .ior (.ofWord b w)⟩)
      (find_next (row_no (.head _) 0 2 _ (by decide) (h 2 2 _ rfl) (by decide))
      (find_here (row_yes2 (h 2 2 _ rfl) (h 25 6 _ rfl)))) (fun _ => rfl) (fun h => no_some rfl h) (fun h => no_some rfl h)).trans
      (congrArg (fun x => Except.ok (Instr.ior x)) (A3Form_of rfl (h 31 1 _ rfl) (h 18 7 _ rfl) (h 11 7 _ rfl) (h 4 7 _ rfl) (h 1 1 _ rfl) (h 0 1 _ rfl))))
    (plain_of_major (h 25 6 _ rfl) (by decide)) (fun p hp => ⟨defined_of_fits hw p hp, fun h3 => by rw [show w / 2 ^ 25 % 64 = 6 from h 25 6 _ rfl] at h3; exact absurd h3 (by decide)⟩) (fun h => no_some rfl h)

theorem ixor (f : A3Form) : Statement (.ixor f) := fun _ hw => by
  obtain ⟨w, e⟩ : ∃ w, w = 0x0C000008 + f.bits := ⟨_, rfl⟩
  have h := Layout.reads (w := w) [(1, f.y.toNat), (1, f.x.toNat), (2, 2), (7, f.b.toNat), (7, f.a.toNat), (7, f.d.toNat), (6, 6), (1, f.c.toNat)]
    ⟨f.y.toNat_lt, f.x.toNat_lt, by decide, f.b.isLt, f.a.isLt, f.d.isLt, by decide, f.c.toNat_lt, trivial⟩ (by rw [e]; simp only [A3Form.bits, Layout.value]; omega)
  exact decode_encode (by rw [e]; rfl)
    ((decodeBase_of (h 25 6 _ rfl) (r := ⟨[(2, 2, 2), (25, 6, 6)], true, false, false, fun b w => .ixor (.ofWord b w)⟩)
      (find_next (row_no (.head _) 0 2 _ (by decide) (h 2 2 _ rfl) (by decide))
      (find_next (row_no (.head _) 0 2 _ (by decide) (h 2 2 _ rfl) (by decide))
      (find_here (row_yes2 (h 2 2 _ rfl) (h 25 6 _ rfl))))) (fun _ => rfl) (fun h => no_some rfl h) (fun h => no_some rfl h)).trans
      (congrArg (fun x => Except.ok (Instr.ixor x)) (A3Form_of rfl (h 31 1 _ rfl) (h 18 7 _ rfl) (h 11 7 _ rfl) (h 4 7 _ rfl) (h 1 1 _ rfl) (h 0 1 _ rfl))))
    (plain_of_major (h 25 6 _ rfl) (by decide)) (fun p hp => ⟨defined_of_fits hw p hp, fun h3 => by rw [show w / 2 ^ 25 % 64 = 6 from h 25 6 _ rfl] at h3; exact absurd h3 (by decide)⟩) (fun h => no_some rfl h)

theorem iandn (f : A3Form) : Statement (.iandn f) := fun _ hw => by
  obtain ⟨w, e⟩ : ∃ w, w = 0x0C00000C + f.bits := ⟨_, rfl⟩
  have h := Layout.reads (w := w) [(1, f.y.toNat), (1, f.x.toNat), (2, 3), (7, f.b.toNat), (7, f.a.toNat), (7, f.d.toNat), (6, 6), (1, f.c.toNat)]
    ⟨f.y.toNat_lt, f.x.toNat_lt, by decide, f.b.isLt, f.a.isLt, f.d.isLt, by decide, f.c.toNat_lt, trivial⟩ (by rw [e]; simp only [A3Form.bits, Layout.value]; omega)
  exact decode_encode (by rw [e]; rfl)
    ((decodeBase_of (h 25 6 _ rfl) (r := ⟨[(2, 2, 3), (25, 6, 6)], true, false, false, fun b w => .iandn (.ofWord b w)⟩)
      (find_next (row_no (.head _) 0 2 _ (by decide) (h 2 2 _ rfl) (by decide))
      (find_next (row_no (.head _) 0 2 _ (by decide) (h 2 2 _ rfl) (by decide))
      (find_next (row_no (.head _) 0 2 _ (by decide) (h 2 2 _ rfl) (by decide))
      (find_here (row_yes2 (h 2 2 _ rfl) (h 25 6 _ rfl)))))) (fun _ => rfl) (fun h => no_some rfl h) (fun h => no_some rfl h)).trans
      (congrArg (fun x => Except.ok (Instr.iandn x)) (A3Form_of rfl (h 31 1 _ rfl) (h 18 7 _ rfl) (h 11 7 _ rfl) (h 4 7 _ rfl) (h 1 1 _ rfl) (h 0 1 _ rfl))))
    (plain_of_major (h 25 6 _ rfl) (by decide)) (fun p hp => ⟨defined_of_fits hw p hp, fun h3 => by rw [show w / 2 ^ 25 % 64 = 6 from h 25 6 _ rfl] at h3; exact absurd h3 (by decide)⟩) (fun h => no_some rfl h)

theorem ishl (f : A3Form) : Statement (.ishl f) := fun _ hw => by
  obtain ⟨w, e⟩ : ∃ w, w = 0x0E000000 + f.bits := ⟨_, rfl⟩
  have h := Layout.reads (w := w) [(1, f.y.toNat), (1, f.x.toNat), (2, 0), (7, f.b.toNat), (7, f.a.toNat), (7, f.d.toNat), (6, 7), (1, f.c.toNat)]
    ⟨f.y.toNat_lt, f.x.toNat_lt, by decide, f.b.isLt, f.a.isLt, f.d.isLt, by decide, f.c.toNat_lt, trivial⟩ (by rw [e]; simp only [A3Form.bits, Layout.value]; omega)
  exact decode_encode (by rw [e]; rfl)
    ((decodeBase_of (h 25 6 _ rfl) (r := ⟨[(2, 2, 0), (25, 6, 7)], true, false, false, fun b w => .ishl (.ofWord b w)⟩)
      (find_here (row_yes2 (h 2 2 _ rfl) (h 25 6 _ rfl))) (fun _ => rfl) (fun h => no_some rfl h) (fun h => no_some rfl h)).trans
      (congrArg (fun x => Except.ok (Instr.ishl x)) (A3Form_of rfl (h 31 1 _ rfl) (h 18 7 _ rfl) (h 11 7 _ rfl) (h 4 7 _ rfl) (h 1 1 _ rfl) (h 0 1 _ rfl))))
    (plain_of_major (h 25 6 _ rfl) (by decide)) (fun p hp => ⟨defined_of_fits hw p hp, fun h3 => by rw [show w / 2 ^ 25 % 64 = 7 from h 25 6 _ rfl] at h3; exact absurd h3 (by decide)⟩) (fun h => no_some rfl h)

theorem ishr (f : A3Form) : Statement (.ishr f) := fun _ hw => by
  obtain ⟨w, e⟩ : ∃ w, w = 0x0E000004 + f.bits := ⟨_, rfl⟩
  have h := Layout.reads (w := w) [(1, f.y.toNat), (1, f.x.toNat), (2, 1), (7, f.b.toNat), (7, f.a.toNat), (7, f.d.toNat), (6, 7), (1, f.c.toNat)]
    ⟨f.y.toNat_lt, f.x.toNat_lt, by decide, f.b.isLt, f.a.isLt, f.d.isLt, by decide, f.c.toNat_lt, trivial⟩ (by rw [e]; simp only [A3Form.bits, Layout.value]; omega)
  exact decode_encode (by rw [e]; rfl)
    ((decodeBase_of (h 25 6 _ rfl) (r := ⟨[(2, 2, 1), (25, 6, 7)], true, false, false, fun b w => .ishr (.ofWord b w)⟩)
      (find_next (row_no (.head _) 0 2 _ (by decide) (h 2 2 _ rfl) (by decide))
      (find_here (row_yes2 (h 2 2 _ rfl) (h 25 6 _ rfl)))) (fun _ => rfl) (fun h => no_some rfl h) (fun h => no_some rfl h)).trans
      (congrArg (fun x => Except.ok (Instr.ishr x)) (A3Form_of rfl (h 31 1 _ rfl) (h 18 7 _ rfl) (h 11 7 _ rfl) (h 4 7 _ rfl) (h 1 1 _ rfl) (h 0 1 _ rfl))))
    (plain_of_major (h 25 6 _ rfl) (by decide)) (fun p hp => ⟨defined_of_fits hw p hp, fun h3 => by rw [show w / 2 ^ 25 % 64 = 7 from h 25 6 _ rfl] at h3; exact absurd h3 (by decide)⟩) (fun h => no_some rfl h)

theorem isar (f : A3Form) : Statement (.isar f) := fun _ hw => by
  obtain ⟨w, e⟩ : ∃ w, w = 0x0E000008 + f.bits := ⟨_, rfl⟩
  have h := Layout.reads (w := w) [(1, f.y.toNat), (1, f.x.toNat), (2, 2), (7, f.b.toNat), (7, f.a.toNat), (7, f.d.toNat), (6, 7), (1, f.c.toNat)]
    ⟨f.y.toNat_lt, f.x.toNat_lt, by decide, f.b.isLt, f.a.isLt, f.d.isLt, by decide, f.c.toNat_lt, trivial⟩ (by rw [e]; simp only [A3Form.bits, Layout.value]; omega)
  exact decode_encode (by rw [e]; rfl)
    ((decodeBase_of (h 25 6 _ rfl) (r := ⟨[(2, 2, 2), (25, 6, 7)], true, false, false, fun b w => .isar (.ofWord b w)⟩)
      (find_next (row_no (.head _) 0 2 _ (by decide) (h 2 2 _ rfl) (by decide))
      (find_next (row_no (.head _) 0 2 _ (by decide) (h 2 2 _ rfl) (by decide))
      (find_here (row_yes2 (h 2 2 _ rfl) (h 25 6 _ rfl))))) (fun _ => rfl) (fun h => no_some rfl h) (fun h => no_some rfl h)).trans
      (congrArg (fun x => Except.ok (Instr.isar x)) (A3Form_of rfl (h 31 1 _ rfl) (h 18 7 _ rfl) (h 11 7 _ rfl) (h 4 7 _ rfl) (h 1 1 _ rfl) (h 0 1 _ rfl))))
    (plain_of_major (h 25 6 _ rfl) (by decide)) (fun p hp => ⟨defined_of_fits hw p hp, fun h3 => by rw [show w / 2 ^ 25 % 64 = 7 from h 25 6 _ rfl] at h3; exact absurd h3 (by decide)⟩) (fun h => no_some rfl h)

theorem irol (f : A3Form) : Statement (.irol f) := fun _ hw => by
  obtain ⟨w, e⟩ : ∃ w, w = 0x0E00000C + f.bits := ⟨_, rfl⟩
  have h := Layout.reads (w := w) [(1, f.y.toNat), (1, f.x.toNat), (2, 3), (7, f.b.toNat), (7, f.a.toNat), (7, f.d.toNat), (6, 7), (1, f.c.toNat)]
    ⟨f.y.toNat_lt, f.x.toNat_lt, by decide, f.b.isLt, f.a.isLt, f.d.isLt, by decide, f.c.toNat_lt, trivial⟩ (by rw [e]; simp only [A3Form.bits, Layout.value]; omega)
  exact decode_encode (by rw [e]; rfl)
    ((decodeBase_of (h 25 6 _ rfl) (r := ⟨[(2, 2, 3), (25, 6, 7)], true, false, false, fun b w => .irol (.ofWord b w)⟩)
      (find_next (row_no (.head _) 0 2 _ (by decide) (h 2 2 _ rfl) (by decide))
      (find_next (row_no (.head _) 0 2 _ (by decide) (h 2 2 _ rfl) (by decide))
      (find_next (row_no (.head _) 0 2 _ (by decide) (h 2 2 _ rfl) (by decide))
      (find_here (row_yes2 (h 2 2 _ rfl) (h 25 6 _ rfl)))))) (fun _ => rfl) (fun h => no_some rfl h) (fun h => no_some rfl h)).trans
      (congrArg (fun x => Except.ok (Instr.irol x)) (A3Form_of rfl (h 31 1 _ rfl) (h 18 7 _ rfl) (h 11 7 _ rfl) (h 4 7 _ rfl) (h 1 1 _ rfl) (h 0 1 _ rfl))))
    (plain_of_major (h 25 6 _ rfl) (by decide)) (fun p hp => ⟨defined_of_fits hw p hp, fun h3 => by rw [show w / 2 ^ 25 % 64 = 7 from h 25 6 _ rfl] at h3; exact absurd h3 (by decide)⟩) (fun h => no_some rfl h)

theorem imad (f : A3Form) : Statement (.imad f) := fun _ hw => by
  obtain ⟨w, e⟩ : ∃ w, w = 0x10000000 + f.bits := ⟨_, rfl⟩
  have h := Layout.reads (w := w) [(1, f.y.toNat), (1, f.x.toNat), (2, 0), (7, f.b.toNat), (7, f.a.toNat), (7, f.d.toNat), (6, 8), (1, f.c.toNat)]
    ⟨f.y.toNat_lt, f.x.toNat_lt, by decide, f.b.isLt, f.a.isLt, f.d.isLt, by decide, f.c.toNat_lt, trivial⟩ (by rw [e]; simp only [A3Form.bits, Layout.value]; omega)
  exact decode_encode (by rw [e]; rfl)
    ((decodeBase_of (h 25 6 _ rfl) (r := ⟨[(2, 2, 0), (25, 6, 8)], true, false, false, fun b w => .imad (.ofWord b w)⟩)
      (find_here (row_yes2 (h 2 2 _ rfl) (h 25 6 _ rfl))) (fun _ => rfl) (fun h => no_some rfl h) (fun h => no_some rfl h)).trans
      (congrArg (fun x => Except.ok (Instr.imad x)) (A3Form_of rfl (h 31 1 _ rfl) (h 18 7 _ rfl) (h 11 7 _ rfl) (h 4 7 _ rfl) (h 1 1 _ rfl) (h 0 1 _ rfl))))
    (plain_of_major (h 25 6 _ rfl) (by decide)) (fun p hp => ⟨defined_of_fits hw p hp, fun h3 => by rw [show w / 2 ^ 25 % 64 = 8 from h 25 6 _ rfl] at h3; exact absurd h3 (by decide)⟩) (fun h => no_some rfl h)

theorem imadh (f : A3Form) : Statement (.imadh f) := fun _ hw => by
  obtain ⟨w, e⟩ : ∃ w, w = 0x10000004 + f.bits := ⟨_, rfl⟩
  have h := Layout.reads (w := w) [(1, f.y.toNat), (1, f.x.toNat), (2, 1), (7, f.b.toNat), (7, f.a.toNat), (7, f.d.toNat), (6, 8), (1, f.c.toNat)]
    ⟨f.y.toNat_lt, f.x.toNat_lt, by decide, f.b.isLt, f.a.isLt, f.d.isLt, by decide, f.c.toNat_lt, trivial⟩ (by rw [e]; simp only [A3Form.bits, Layout.value]; omega)
  exact decode_encode (by rw [e]; rfl)
    ((decodeBase_of (h 25 6 _ rfl) (r := ⟨[(2, 2, 1), (25, 6, 8)], true, false, false, fun b w => .imadh (.ofWord b w)⟩)
      (find_next (row_no (.head _) 0 2 _ (by decide) (h 2 2 _ rfl) (by decide))
      (find_here (row_yes2 (h 2 2 _ rfl) (h 25 6 _ rfl)))) (fun _ => rfl) (fun h => no_some rfl h) (fun h => no_some rfl h)).trans
      (congrArg (fun x => Except.ok (Instr.imadh x)) (A3Form_of rfl (h 31 1 _ rfl) (h 18 7 _ rfl) (h 11 7 _ rfl) (h 4 7 _ rfl) (h 1 1 _ rfl) (h 0 1 _ rfl))))
    (plain_of_major (h 25 6 _ rfl) (by decide)) (fun p hp => ⟨defined_of_fits hw p hp, fun h3 => by rw [show w / 2 ^ 25 % 64 = 8 from h 25 6 _ rfl] at h3; exact absurd h3 (by decide)⟩) (fun h => no_some rfl h)

theorem isad (f : A3Form) : Statement (.isad f) := fun _ hw => by
  obtain ⟨w, e⟩ : ∃ w, w = 0x10000008 + f.bits := ⟨_, rfl⟩
  have h := Layout.reads (w := w) [(1, f.y.toNat), (1, f.x.toNat), (2, 2), (7, f.b.toNat), (7, f.a.toNat), (7, f.d.toNat), (6, 8), (1, f.c.toNat)]
    ⟨f.y.toNat_lt, f.x.toNat_lt, by decide, f.b.isLt, f.a.isLt, f.d.isLt, by decide, f.c.toNat_lt, trivial⟩ (by rw [e]; simp only [A3Form.bits, Layout.value]; omega)
  exact decode_encode (by rw [e]; rfl)
    ((decodeBase_of (h 25 6 _ rfl) (r := ⟨[(2, 2, 2), (25, 6, 8)], true, false, false, fun b w => .isad (.ofWord b w)⟩)
      (find_next (row_no (.head _) 0 2 _ (by decide) (h 2 2 _ rfl) (by decide))
      (find_next (row_no (.head _) 0 2 _ (by decide) (h 2 2 _ rfl) (by decide))
      (find_here (row_yes2 (h 2 2 _ rfl) (h 25 6 _ rfl))))) (fun _ => rfl) (fun h => no_some rfl h) (fun h => no_some rfl h)).trans
      (congrArg (fun x => Except.ok (Instr.isad x)) (A3Form_of rfl (h 31 1 _ rfl) (h 18 7 _ rfl) (h 11 7 _ rfl) (h 4 7 _ rfl) (h 1 1 _ rfl) (h 0 1 _ rfl))))
    (plain_of_major (h 25 6 _ rfl) (by decide)) (fun p hp => ⟨defined_of_fits hw p hp, fun h3 => by rw [show w / 2 ^ 25 % 64 = 8 from h 25 6 _ rfl] at h3; exact absurd h3 (by decide)⟩) (fun h => no_some rfl h)

theorem ipopc (f : A2Form) : Statement (.ipopc f) := fun _ hw => by
  obtain ⟨w, e⟩ : ∃ w, w = 0x1000000C + f.bits := ⟨_, rfl⟩
  have h := Layout.reads (w := w) [(1, 0), (1, f.x.toNat), (9, 3), (7, f.a.toNat), (7, f.d.toNat), (6, 8), (1, f.c.toNat)]
    ⟨by decide, f.x.toNat_lt, by decide, f.a.isLt, f.d.isLt, by decide, f.c.toNat_lt, trivial⟩ (by rw [e]; simp only [A2Form.bits, Layout.value]; omega)
  have h1 := Layout.reads (w := w) [(1, 0), (1, f.x.toNat), (2, 3), (7, 0), (7, f.a.toNat), (7, f.d.toNat), (6, 8), (1, f.c.toNat)]
    ⟨by decide, f.x.toNat_lt, by decide, by decide, f.a.isLt, f.d.isLt, by decide, f.c.toNat_lt, trivial⟩ (by rw [e]; simp only [A2Form.bits, Layout.value]; omega)
  exact decode_encode (by rw [e]; rfl)
    ((decodeBase_of (h 25 6 _ rfl) (r := ⟨[(0, 1, 0), (2, 9, 3), (25, 6, 8)], true, false, false, fun b w => .ipopc (.ofWord b w)⟩)
      (find_next (row_no (.head _) 0 2 _ (by decide) (h1 2 2 _ rfl) (by decide))
      (find_next (row_no (.head _) 0 2 _ (by decide) (h1 2 2 _ rfl) (by decide))
      (find_next (row_no (.head _) 0 2 _ (by decide) (h1 2 2 _ rfl) (by decide))
      (find_here (row_yes3 (h 0 1 _ rfl) (h 2 9 _ rfl) (h 25 6 _ rfl)))))) (fun _ => rfl) (fun h => no_some rfl h) (fun h => no_some rfl h)).trans
      (congrArg (fun x => Except.ok (Instr.ipopc x)) (A2Form_of rfl (h 31 1 _ rfl) (h 18 7 _ rfl) (h 11 7 _ rfl) (h 1 1 _ rfl))))
    (plain_of_major (h 25 6 _ rfl) (by decide)) (fun p hp => ⟨defined_of_fits hw p hp, fun h3 => by rw [show w / 2 ^ 25 % 64 = 8 from h 25 6 _ rfl] at h3; exact absurd h3 (by decide)⟩) (fun h => no_some rfl h)

theorem iclz (f : A2Form) : Statement (.iclz f) := fun _ hw => by
  obtain ⟨w, e⟩ : ∃ w, w = 0x12000000 + f.bits := ⟨_, rfl⟩
  have h := Layout.reads (w := w) [(1, 0), (1, f.x.toNat), (9, 0), (7, f.a.toNat), (7, f.d.toNat), (6, 9), (1, f.c.toNat)]
    ⟨by decide, f.x.toNat_lt, by decide, f.a.isLt, f.d.isLt, by decide, f.c.toNat_lt, trivial⟩ (by rw [e]; simp only [A2Form.bits, Layout.value]; omega)
  exact decode_encode (by rw [e]; rfl)
    ((decodeBase_of (h 25 6 _ rfl) (r := ⟨[(0, 1, 0), (2, 9, 0), (25, 6, 9)], true, false, false, fun b w => .iclz (.ofWord b w)⟩)
      (find_here (row_yes3 (h 0 1 _ rfl) (h 2 9 _ rfl) (h 25 6 _ rfl))) (fun _ => rfl) (fun h => no_some rfl h) (fun h => no_some rfl h)).trans
      (congrArg (fun x => Except.ok (Instr.iclz x)) (A2Form_of rfl (h 31 1 _ rfl) (h 18 7 _ rfl) (h 11 7 _ rfl) (h 1 1 _ rfl))))
    (plain_of_major (h 25 6 _ rfl) (by decide)) (fun p hp => ⟨defined_of_fits hw p hp, fun h3 => by rw [show w / 2 ^ 25 % 64 = 9 from h 25 6 _ rfl] at h3; exact absurd h3 (by decide)⟩) (fun h => no_some rfl h)

theorem ictz (f : A2Form) : Statement (.ictz f) := fun _ hw => by
  obtain ⟨w, e⟩ : ∃ w, w = 0x12000004 + f.bits := ⟨_, rfl⟩
  have h := Layout.reads (w := w) [(1, 0), (1, f.x.toNat), (9, 1), (7, f.a.toNat), (7, f.d.toNat), (6, 9), (1, f.c.toNat)]
    ⟨by decide, f.x.toNat_lt, by decide, f.a.isLt, f.d.isLt, by decide, f.c.toNat_lt, trivial⟩ (by rw [e]; simp only [A2Form.bits, Layout.value]; omega)
  exact decode_encode (by rw [e]; rfl)
    ((decodeBase_of (h 25 6 _ rfl) (r := ⟨[(0, 1, 0), (2, 9, 1), (25, 6, 9)], true, false, false, fun b w => .ictz (.ofWord b w)⟩)
      (find_next (row_no (.tail _ (.head _)) 0 9 _ (by decide) (h 2 9 _ rfl) (by decide))
      (find_here (row_yes3 (h 0 1 _ rfl) (h 2 9 _ rfl) (h 25 6 _ rfl)))) (fun _ => rfl) (fun h => no_some rfl h) (fun h => no_some rfl h)).trans
      (congrArg (fun x => Except.ok (Instr.ictz x)) (A2Form_of rfl (h 31 1 _ rfl) (h 18 7 _ rfl) (h 11 7 _ rfl) (h 1 1 _ rfl))))
    (plain_of_major (h 25 6 _ rfl) (by decide)) (fun p hp => ⟨defined_of_fits hw p hp, fun h3 => by rw [show w / 2 ^ 25 % 64 = 9 from h 25 6 _ rfl] at h3; exact absurd h3 (by decide)⟩) (fun h => no_some rfl h)

theorem ibrev (f : A2Form) : Statement (.ibrev f) := fun _ hw => by
  obtain ⟨w, e⟩ : ∃ w, w = 0x12000008 + f.bits := ⟨_, rfl⟩
  have h := Layout.reads (w := w) [(1, 0), (1, f.x.toNat), (9, 2), (7, f.a.toNat), (7, f.d.toNat), (6, 9), (1, f.c.toNat)]
    ⟨by decide, f.x.toNat_lt, by decide, f.a.isLt, f.d.isLt, by decide, f.c.toNat_lt, trivial⟩ (by rw [e]; simp only [A2Form.bits, Layout.value]; omega)
  exact decode_encode (by rw [e]; rfl)
    ((decodeBase_of (h 25 6 _ rfl) (r := ⟨[(0, 1, 0), (2, 9, 2), (25, 6, 9)], true, false, false, fun b w => .ibrev (.ofWord b w)⟩)
      (find_next (row_no (.tail _ (.head _)) 0 9 _ (by decide) (h 2 9 _ rfl) (by decide))
      (find_next (row_no (.tail _ (.head _)) 0 9 _ (by decide) (h 2 9 _ rfl) (by decide))
      (find_here (row_yes3 (h 0 1 _ rfl) (h 2 9 _ rfl) (h 25 6 _ rfl))))) (fun _ => rfl) (fun h => no_some rfl h) (fun h => no_some rfl h)).trans
      (congrArg (fun x => Except.ok (Instr.ibrev x)) (A2Form_of rfl (h 31 1 _ rfl) (h 18 7 _ rfl) (h 11 7 _ rfl) (h 1 1 _ rfl))))
    (plain_of_major (h 25 6 _ rfl) (by decide)) (fun p hp => ⟨defined_of_fits hw p hp, fun h3 => by rw [show w / 2 ^ 25 % 64 = 9 from h 25 6 _ rfl] at h3; exact absurd h3 (by decide)⟩) (fun h => no_some rfl h)

theorem ibfx (f : A3Form) : Statement (.ibfx f) := fun _ hw => by
  obtain ⟨w, e⟩ : ∃ w, w = 0x1200000C + f.bits := ⟨_, rfl⟩
  have h := Layout.reads (w := w) [(1, f.y.toNat), (1, f.x.toNat), (2, 3), (7, f.b.toNat), (7, f.a.toNat), (7, f.d.toNat), (6, 9), (1, f.c.toNat)]
    ⟨f.y.toNat_lt, f.x.toNat_lt, by decide, f.b.isLt, f.a.isLt, f.d.isLt, by decide, f.c.toNat_lt, trivial⟩ (by rw [e]; simp only [A3Form.bits, Layout.value]; omega)
  exact decode_encode (by rw [e]; rfl)
    ((decodeBase_of (h 25 6 _ rfl) (r := ⟨[(2, 2, 3), (25, 6, 9)], true, false, false, fun b w => .ibfx (.ofWord b w)⟩)
      (find_next (row_no (.tail _ (.head _)) 0 2 _ (by decide) (h 2 2 _ rfl) (by decide))
      (find_next (row_no (.tail _ (.head _)) 0 2 _ (by decide) (h 2 2 _ rfl) (by decide))
      (find_next (row_no (.tail _ (.head _)) 0 2 _ (by decide) (h 2 2 _ rfl) (by decide))
      (find_here (row_yes2 (h 2 2 _ rfl) (h 25 6 _ rfl)))))) (fun _ => rfl) (fun h => no_some rfl h) (fun h => no_some rfl h)).trans
      (congrArg (fun x => Except.ok (Instr.ibfx x)) (A3Form_of rfl (h 31 1 _ rfl) (h 18 7 _ rfl) (h 11 7 _ rfl) (h 4 7 _ rfl) (h 1 1 _ rfl) (h 0 1 _ rfl))))
    (plain_of_major (h 25 6 _ rfl) (by decide)) (fun p hp => ⟨defined_of_fits hw p hp, fun h3 => by rw [show w / 2 ^ 25 % 64 = 9 from h 25 6 _ rfl] at h3; exact absurd h3 (by decide)⟩) (fun h => no_some rfl h)

theorem idiv (f : A3Form) : Statement (.idiv f) := fun _ hw => by
  obtain ⟨w, e⟩ : ∃ w, w = 0x14000000 + f.bits := ⟨_, rfl⟩
  have h := Layout.reads (w := w) [(1, f.y.toNat), (1, f.x.toNat), (2, 0), (7, f.b.toNat), (7, f.a.toNat), (7, f.d.toNat), (6, 10), (1, f.c.toNat)]
    ⟨f.y.toNat_lt, f.x.toNat_lt, by decide, f.b.isLt, f.a.isLt, f.d.isLt, by decide, f.c.toNat_lt, trivial⟩ (by rw [e]; simp only [A3Form.bits, Layout.value]; omega)
  exact decode_encode (by rw [e]; rfl)
    ((decodeBase_of (h 25 6 _ rfl) (r := ⟨[(2, 2, 0), (25, 6, 10)], true, false, false, fun b w => .idiv (.ofWord b w)⟩)
      (find_here (row_yes2 (h 2 2 _ rfl) (h 25 6 _ rfl))) (fun _ => rfl) (fun h => no_some rfl h) (fun h => no_some rfl h)).trans
      (congrArg (fun x => Except.ok (Instr.idiv x)) (A3Form_of rfl (h 31 1 _ rfl) (h 18 7 _ rfl) (h 11 7 _ rfl) (h 4 7 _ rfl) (h 1 1 _ rfl) (h 0 1 _ rfl))))
    (plain_of_major (h 25 6 _ rfl) (by decide)) (fun p hp => ⟨defined_of_fits hw p hp, fun h3 => by rw [show w / 2 ^ 25 % 64 = 10 from h 25 6 _ rfl] at h3; exact absurd h3 (by decide)⟩) (fun h => no_some rfl h)

theorem irem (f : A3Form) : Statement (.irem f) := fun _ hw => by
  obtain ⟨w, e⟩ : ∃ w, w = 0x14000004 + f.bits := ⟨_, rfl⟩
  have h := Layout.reads (w := w) [(1, f.y.toNat), (1, f.x.toNat), (2, 1), (7, f.b.toNat), (7, f.a.toNat), (7, f.d.toNat), (6, 10), (1, f.c.toNat)]
    ⟨f.y.toNat_lt, f.x.toNat_lt, by decide, f.b.isLt, f.a.isLt, f.d.isLt, by decide, f.c.toNat_lt, trivial⟩ (by rw [e]; simp only [A3Form.bits, Layout.value]; omega)
  exact decode_encode (by rw [e]; rfl)
    ((decodeBase_of (h 25 6 _ rfl) (r := ⟨[(2, 2, 1), (25, 6, 10)], true, false, false, fun b w => .irem (.ofWord b w)⟩)
      (find_next (row_no (.head _) 0 2 _ (by decide) (h 2 2 _ rfl) (by decide))
      (find_here (row_yes2 (h 2 2 _ rfl) (h 25 6 _ rfl)))) (fun _ => rfl) (fun h => no_some rfl h) (fun h => no_some rfl h)).trans
      (congrArg (fun x => Except.ok (Instr.irem x)) (A3Form_of rfl (h 31 1 _ rfl) (h 18 7 _ rfl) (h 11 7 _ rfl) (h 4 7 _ rfl) (h 1 1 _ rfl) (h 0 1 _ rfl))))
    (plain_of_major (h 25 6 _ rfl) (by decide)) (fun p hp => ⟨defined_of_fits hw p hp, fun h3 => by rw [show w / 2 ^ 25 % 64 = 10 from h 25 6 _ rfl] at h3; exact absurd h3 (by decide)⟩) (fun h => no_some rfl h)

theorem mov (f : A2Form) : Statement (.mov f) := fun _ hw => by
  obtain ⟨w, e⟩ : ∃ w, w = 0x14000008 + f.bits := ⟨_, rfl⟩
  have h := Layout.reads (w := w) [(1, 0), (1, f.x.toNat), (9, 2), (7, f.a.toNat), (7, f.d.toNat), (6, 10), (1, f.c.toNat)]
    ⟨by decide, f.x.toNat_lt, by decide, f.a.isLt, f.d.isLt, by decide, f.c.toNat_lt, trivial⟩ (by rw [e]; simp only [A2Form.bits, Layout.value]; omega)
  have h1 := Layout.reads (w := w) [(1, 0), (1, f.x.toNat), (2, 2), (7, 0), (7, f.a.toNat), (7, f.d.toNat), (6, 10), (1, f.c.toNat)]
    ⟨by decide, f.x.toNat_lt, by decide, by decide, f.a.isLt, f.d.isLt, by decide, f.c.toNat_lt, trivial⟩ (by rw [e]; simp only [A2Form.bits, Layout.value]; omega)
  exact decode_encode (by rw [e]; rfl)
    ((decodeBase_of (h 25 6 _ rfl) (r := ⟨[(0, 1, 0), (2, 9, 2), (25, 6, 10)], true, false, false, fun b w => .mov (.ofWord b w)⟩)
      (find_next (row_no (.head _) 0 2 _ (by decide) (h1 2 2 _ rfl) (by decide))
      (find_next (row_no (.head _) 0 2 _ (by decide) (h1 2 2 _ rfl) (by decide))
      (find_here (row_yes3 (h 0 1 _ rfl) (h 2 9 _ rfl) (h 25 6 _ rfl))))) (fun _ => rfl) (fun h => no_some rfl h) (fun h => no_some rfl h)).trans
      (congrArg (fun x => Except.ok (Instr.mov x)) (A2Form_of rfl (h 31 1 _ rfl) (h 18 7 _ rfl) (h 11 7 _ rfl) (h 1 1 _ rfl))))
    (plain_of_major (h 25 6 _ rfl) (by decide)) (fun p hp => ⟨defined_of_fits hw p hp, fun h3 => by rw [show w / 2 ^ 25 % 64 = 10 from h 25 6 _ rfl] at h3; exact absurd h3 (by decide)⟩) (fun h => no_some rfl h)

theorem iadd64 (f : A3Form) : Statement (.iadd64 f) := fun _ hw => by
  obtain ⟨w, e⟩ : ∃ w, w = 0x16000000 + f.bits := ⟨_, rfl⟩
  have h := Layout.reads (w := w) [(1, f.y.toNat), (1, f.x.toNat), (2, 0), (7, f.b.toNat), (7, f.a.toNat), (7, f.d.toNat), (6, 11), (1, f.c.toNat)]
    ⟨f.y.toNat_lt, f.x.toNat_lt, by decide, f.b.isLt, f.a.isLt, f.d.isLt, by decide, f.c.toNat_lt, trivial⟩ (by rw [e]; simp only [A3Form.bits, Layout.value]; omega)
  exact decode_encode (by rw [e]; rfl)
    ((decodeBase_of (h 25 6 _ rfl) (r := ⟨[(2, 2, 0), (25, 6, 11)], true, false, false, fun b w => .iadd64 (.ofWord b w)⟩)
      (find_here (row_yes2 (h 2 2 _ rfl) (h 25 6 _ rfl))) (fun _ => rfl) (fun h => no_some rfl h) (fun h => no_some rfl h)).trans
      (congrArg (fun x => Except.ok (Instr.iadd64 x)) (A3Form_of rfl (h 31 1 _ rfl) (h 18 7 _ rfl) (h 11 7 _ rfl) (h 4 7 _ rfl) (h 1 1 _ rfl) (h 0 1 _ rfl))))
    (plain_of_major (h 25 6 _ rfl) (by decide)) (fun p hp => ⟨defined_of_fits (and_right hw) p hp, fun h3 => by rw [show w / 2 ^ 25 % 64 = 11 from h 25 6 _ rfl] at h3; exact absurd h3 (by decide)⟩) (fun h => no_some rfl h)

theorem isub64 (f : A3Form) : Statement (.isub64 f) := fun _ hw => by
  obtain ⟨w, e⟩ : ∃ w, w = 0x16000004 + f.bits := ⟨_, rfl⟩
  have h := Layout.reads (w := w) [(1, f.y.toNat), (1, f.x.toNat), (2, 1), (7, f.b.toNat), (7, f.a.toNat), (7, f.d.toNat), (6, 11), (1, f.c.toNat)]
    ⟨f.y.toNat_lt, f.x.toNat_lt, by decide, f.b.isLt, f.a.isLt, f.d.isLt, by decide, f.c.toNat_lt, trivial⟩ (by rw [e]; simp only [A3Form.bits, Layout.value]; omega)
  exact decode_encode (by rw [e]; rfl)
    ((decodeBase_of (h 25 6 _ rfl) (r := ⟨[(2, 2, 1), (25, 6, 11)], true, false, false, fun b w => .isub64 (.ofWord b w)⟩)
      (find_next (row_no (.head _) 0 2 _ (by decide) (h 2 2 _ rfl) (by decide))
      (find_here (row_yes2 (h 2 2 _ rfl) (h 25 6 _ rfl)))) (fun _ => rfl) (fun h => no_some rfl h) (fun h => no_some rfl h)).trans
      (congrArg (fun x => Except.ok (Instr.isub64 x)) (A3Form_of rfl (h 31 1 _ rfl) (h 18 7 _ rfl) (h 11 7 _ rfl) (h 4 7 _ rfl) (h 1 1 _ rfl) (h 0 1 _ rfl))))
    (plain_of_major (h 25 6 _ rfl) (by decide)) (fun p hp => ⟨defined_of_fits (and_right hw) p hp, fun h3 => by rw [show w / 2 ^ 25 % 64 = 11 from h 25 6 _ rfl] at h3; exact absurd h3 (by decide)⟩) (fun h => no_some rfl h)

theorem ishl64 (f : A3Form) : Statement (.ishl64 f) := fun _ hw => by
  obtain ⟨w, e⟩ : ∃ w, w = 0x16000008 + f.bits := ⟨_, rfl⟩
  have h := Layout.reads (w := w) [(1, f.y.toNat), (1, f.x.toNat), (2, 2), (7, f.b.toNat), (7, f.a.toNat), (7, f.d.toNat), (6, 11), (1, f.c.toNat)]
    ⟨f.y.toNat_lt, f.x.toNat_lt, by decide, f.b.isLt, f.a.isLt, f.d.isLt, by decide, f.c.toNat_lt, trivial⟩ (by rw [e]; simp only [A3Form.bits, Layout.value]; omega)
  exact decode_encode (by rw [e]; rfl)
    ((decodeBase_of (h 25 6 _ rfl) (r := ⟨[(2, 2, 2), (25, 6, 11)], true, false, false, fun b w => .ishl64 (.ofWord b w)⟩)
      (find_next (row_no (.head _) 0 2 _ (by decide) (h 2 2 _ rfl) (by decide))
      (find_next (row_no (.head _) 0 2 _ (by decide) (h 2 2 _ rfl) (by decide))
      (find_here (row_yes2 (h 2 2 _ rfl) (h 25 6 _ rfl))))) (fun _ => rfl) (fun h => no_some rfl h) (fun h => no_some rfl h)).trans
      (congrArg (fun x => Except.ok (Instr.ishl64 x)) (A3Form_of rfl (h 31 1 _ rfl) (h 18 7 _ rfl) (h 11 7 _ rfl) (h 4 7 _ rfl) (h 1 1 _ rfl) (h 0 1 _ rfl))))
    (plain_of_major (h 25 6 _ rfl) (by decide)) (fun p hp => ⟨defined_of_fits (and_right hw) p hp, fun h3 => by rw [show w / 2 ^ 25 % 64 = 11 from h 25 6 _ rfl] at h3; exact absurd h3 (by decide)⟩) (fun h => no_some rfl h)

theorem ishr64 (f : A3Form) : Statement (.ishr64 f) := fun _ hw => by
  obtain ⟨w, e⟩ : ∃ w, w = 0x1600000C + f.bits := ⟨_, rfl⟩
  have h := Layout.reads (w := w) [(1, f.y.toNat), (1, f.x.toNat), (2, 3), (7, f.b.toNat), (7, f.a.toNat), (7, f.d.toNat), (6, 11), (1, f.c.toNat)]
    ⟨f.y.toNat_lt, f.x.toNat_lt, by decide, f.b.isLt, f.a.isLt, f.d.isLt, by decide, f.c.toNat_lt, trivial⟩ (by rw [e]; simp only [A3Form.bits, Layout.value]; omega)
  exact decode_encode (by rw [e]; rfl)
    ((decodeBase_of (h 25 6 _ rfl) (r := ⟨[(2, 2, 3), (25, 6, 11)], true, false, false, fun b w => .ishr64 (.ofWord b w)⟩)
      (find_next (row_no (.head _) 0 2 _ (by decide) (h 2 2 _ rfl) (by decide))
      (find_next (row_no (.head _) 0 2 _ (by decide) (h 2 2 _ rfl) (by decide))
      (find_next (row_no (.head _) 0 2 _ (by decide) (h 2 2 _ rfl) (by decide))
      (find_here (row_yes2 (h 2 2 _ rfl) (h 25 6 _ rfl)))))) (fun _ => rfl) (fun h => no_some rfl h) (fun h => no_some rfl h)).trans
      (congrArg (fun x => Except.ok (Instr.ishr64 x)) (A3Form_of rfl (h 31 1 _ rfl) (h 18 7 _ rfl) (h 11 7 _ rfl) (h 4 7 _ rfl) (h 1 1 _ rfl) (h 0 1 _ rfl))))
    (plain_of_major (h 25 6 _ rfl) (by decide)) (fun p hp => ⟨defined_of_fits (and_right hw) p hp, fun h3 => by rw [show w / 2 ^ 25 % 64 = 11 from h 25 6 _ rfl] at h3; exact absurd h3 (by decide)⟩) (fun h => no_some rfl h)

theorem iaddi (f : I10Form) : Statement (.iaddi f) := fun _ hw => by
  obtain ⟨w, e⟩ : ∃ w, w = 0x18000000 + f.bits := ⟨_, rfl⟩
  have h := Layout.reads (w := w) [(10, f.i.toNat), (1, f.x.toNat), (7, f.a.toNat), (7, f.d.toNat), (6, 12), (1, f.c.toNat)]
    ⟨f.i.isLt, f.x.toNat_lt, f.a.isLt, f.d.isLt, by decide, f.c.toNat_lt, trivial⟩ (by rw [e]; simp only [I10Form.bits, Layout.value]; omega)
  exact decode_encode (by rw [e]; rfl)
    ((decodeBase_of (h 25 6 _ rfl) (r := ⟨[(25, 6, 12)], true, false, false, fun b w => .iaddi (.ofWord b w)⟩)
      (find_here (row_yes1 (h 25 6 _ rfl))) (fun _ => rfl) (fun h => no_some rfl h) (fun h => no_some rfl h)).trans
      (congrArg (fun x => Except.ok (Instr.iaddi x)) (I10Form_of rfl (h 31 1 _ rfl) (h 18 7 _ rfl) (h 11 7 _ rfl) (h 10 1 _ rfl) (h 0 10 _ rfl))))
    (plain_of_major (h 25 6 _ rfl) (by decide)) (fun p hp => ⟨defined_of_fits hw p hp, fun h3 => by rw [show w / 2 ^ 25 % 64 = 12 from h 25 6 _ rfl] at h3; exact absurd h3 (by decide)⟩) (fun h => no_some rfl h)

theorem imuli (f : I10Form) : Statement (.imuli f) := fun _ hw => by
  obtain ⟨w, e⟩ : ∃ w, w = 0x1A000000 + f.bits := ⟨_, rfl⟩
  have h := Layout.reads (w := w) [(10, f.i.toNat), (1, f.x.toNat), (7, f.a.toNat), (7, f.d.toNat), (6, 13), (1, f.c.toNat)]
    ⟨f.i.isLt, f.x.toNat_lt, f.a.isLt, f.d.isLt, by decide, f.c.toNat_lt, trivial⟩ (by rw [e]; simp only [I10Form.bits, Layout.value]; omega)
  exact decode_encode (by rw [e]; rfl)
    ((decodeBase_of (h 25 6 _ rfl) (r := ⟨[(25, 6, 13)], true, false, false, fun b w => .imuli (.ofWord b w)⟩)
      (find_here (row_yes1 (h 25 6 _ rfl))) (fun _ => rfl) (fun h => no_some rfl h) (fun h => no_some rfl h)).trans
      (congrArg (fun x => Except.ok (Instr.imuli x)) (I10Form_of rfl (h 31 1 _ rfl) (h 18 7 _ rfl) (h 11 7 _ rfl) (h 10 1 _ rfl) (h 0 10 _ rfl))))
    (plain_of_major (h 25 6 _ rfl) (by decide)) (fun p hp => ⟨defined_of_fits hw p hp, fun h3 => by rw [show w / 2 ^ 25 % 64 = 13 from h 25 6 _ rfl] at h3; exact absurd h3 (by decide)⟩) (fun h => no_some rfl h)

theorem iandi (f : I8Form) : Statement (.iandi f) := fun _ hw => by
  obtain ⟨w, e⟩ : ∃ w, w = 0x1C000000 + f.bits := ⟨_, rfl⟩
  have h := Layout.reads (w := w) [(8, f.i.toNat), (2, 0), (1, f.x.toNat), (7, f.a.toNat), (7, f.d.toNat), (6, 14), (1, f.c.toNat)]
    ⟨f.i.isLt, by decide, f.x.toNat_lt, f.a.isLt, f.d.isLt, by decide, f.c.toNat_lt, trivial⟩ (by rw [e]; simp only [I8Form.bits, Layout.value]; omega)
  exact decode_encode (by rw [e]; rfl)
    ((decodeBase_of (h 25 6 _ rfl) (r := ⟨[(8, 2, 0), (25, 6, 14)], true, false, false, fun b w => .iandi (.ofWord b w)⟩)
      (find_here (row_yes2 (h 8 2 _ rfl) (h 25 6 _ rfl))) (fun _ => rfl) (fun h => no_some rfl h) (fun h => no_some rfl h)).trans
      (congrArg (fun x => Except.ok (Instr.iandi x)) (I8Form_of rfl (h 31 1 _ rfl) (h 18 7 _ rfl) (h 11 7 _ rfl) (h 10 1 _ rfl) (h 0 8 _ rfl))))
    (plain_of_major (h 25 6 _ rfl) (by decide)) (fun p hp => ⟨defined_of_fits hw p hp, fun h3 => by rw [show w / 2 ^ 25 % 64 = 14 from h 25 6 _ rfl] at h3; exact absurd h3 (by decide)⟩) (fun h => no_some rfl h)

theorem iori (f : I8Form) : Statement (.iori f) := fun _ hw => by
  obtain ⟨w, e⟩ : ∃ w, w = 0x1C000100 + f.bits := ⟨_, rfl⟩
  have h := Layout.reads (w := w) [(8, f.i.toNat), (2, 1), (1, f.x.toNat), (7, f.a.toNat), (7, f.d.toNat), (6, 14), (1, f.c.toNat)]
    ⟨f.i.isLt, by decide, f.x.toNat_lt, f.a.isLt, f.d.isLt, by decide, f.c.toNat_lt, trivial⟩ (by rw [e]; simp only [I8Form.bits, Layout.value]; omega)
  exact decode_encode (by rw [e]; rfl)
    ((decodeBase_of (h 25 6 _ rfl) (r := ⟨[(8, 2, 1), (25, 6, 14)], true, false, false, fun b w => .iori (.ofWord b w)⟩)
      (find_next (row_no (.head _) 0 2 _ (by decide) (h 8 2 _ rfl) (by decide))
      (find_here (row_yes2 (h 8 2 _ rfl) (h 25 6 _ rfl)))) (fun _ => rfl) (fun h => no_some rfl h) (fun h => no_some rfl h)).trans
      (congrArg (fun x => Except.ok (Instr.iori x)) (I8Form_of rfl (h 31 1 _ rfl) (h 18 7 _ rfl) (h 11 7 _ rfl) (h 10 1 _ rfl) (h 0 8 _ rfl))))
    (plain_of_major (h 25 6 _ rfl) (by decide)) (fun p hp => ⟨defined_of_fits hw p hp, fun h3 => by rw [show w / 2 ^ 25 % 64 = 14 from h 25 6 _ rfl] at h3; exact absurd h3 (by decide)⟩) (fun h => no_some rfl h)

theorem ixori (f : I8Form) : Statement (.ixori f) := fun _ hw => by
  obtain ⟨w, e⟩ : ∃ w, w = 0x1C000200 + f.bits := ⟨_, rfl⟩
  have h := Layout.reads (w := w) [(8, f.i.toNat), (2, 2), (1, f.x.toNat), (7, f.a.toNat), (7, f.d.toNat), (6, 14), (1, f.c.toNat)]
    ⟨f.i.isLt, by decide, f.x.toNat_lt, f.a.isLt, f.d.isLt, by decide, f.c.toNat_lt, trivial⟩ (by rw [e]; simp only [I8Form.bits, Layout.value]; omega)
  exact decode_encode (by rw [e]; rfl)
    ((decodeBase_of (h 25 6 _ rfl) (r := ⟨[(8, 2, 2), (25, 6, 14)], true, false, false, fun b w => .ixori (.ofWord b w)⟩)
      (find_next (row_no (.head _) 0 2 _ (by decide) (h 8 2 _ rfl) (by decide))
      (find_next (row_no (.head _) 0 2 _ (by decide) (h 8 2 _ rfl) (by decide))
      (find_here (row_yes2 (h 8 2 _ rfl) (h 25 6 _ rfl))))) (fun _ => rfl) (fun h => no_some rfl h) (fun h => no_some rfl h)).trans
      (congrArg (fun x => Except.ok (Instr.ixori x)) (I8Form_of rfl (h 31 1 _ rfl) (h 18 7 _ rfl) (h 11 7 _ rfl) (h 10 1 _ rfl) (h 0 8 _ rfl))))
    (plain_of_major (h 25 6 _ rfl) (by decide)) (fun p hp => ⟨defined_of_fits hw p hp, fun h3 => by rw [show w / 2 ^ 25 % 64 = 14 from h 25 6 _ rfl] at h3; exact absurd h3 (by decide)⟩) (fun h => no_some rfl h)

theorem ishli (f : I5Form) : Statement (.ishli f) := fun _ hw => by
  obtain ⟨w, e⟩ : ∃ w, w = 0x1E000000 + f.bits := ⟨_, rfl⟩
  have h := Layout.reads (w := w) [(5, f.n.toNat), (5, 0), (1, f.x.toNat), (7, f.a.toNat), (7, f.d.toNat), (6, 15), (1, f.c.toNat)]
    ⟨f.n.isLt, by decide, f.x.toNat_lt, f.a.isLt, f.d.isLt, by decide, f.c.toNat_lt, trivial⟩ (by rw [e]; simp only [I5Form.bits, Layout.value]; omega)
  exact decode_encode (by rw [e]; rfl)
    ((decodeBase_of (h 25 6 _ rfl) (r := ⟨[(5, 5, 0), (25, 6, 15)], true, false, false, fun b w => .ishli (.ofWord b w)⟩)
      (find_here (row_yes2 (h 5 5 _ rfl) (h 25 6 _ rfl))) (fun _ => rfl) (fun h => no_some rfl h) (fun h => no_some rfl h)).trans
      (congrArg (fun x => Except.ok (Instr.ishli x)) (I5Form_of rfl (h 31 1 _ rfl) (h 18 7 _ rfl) (h 11 7 _ rfl) (h 10 1 _ rfl) (h 0 5 _ rfl))))
    (plain_of_major (h 25 6 _ rfl) (by decide)) (fun p hp => ⟨defined_of_fits hw p hp, fun h3 => by rw [show w / 2 ^ 25 % 64 = 15 from h 25 6 _ rfl] at h3; exact absurd h3 (by decide)⟩) (fun h => no_some rfl h)

theorem ishri (f : I5Form) : Statement (.ishri f) := fun _ hw => by
  obtain ⟨w, e⟩ : ∃ w, w = 0x1E000100 + f.bits := ⟨_, rfl⟩
  have h := Layout.reads (w := w) [(5, f.n.toNat), (5, 8), (1, f.x.toNat), (7, f.a.toNat), (7, f.d.toNat), (6, 15), (1, f.c.toNat)]
    ⟨f.n.isLt, by decide, f.x.toNat_lt, f.a.isLt, f.d.isLt, by decide, f.c.toNat_lt, trivial⟩ (by rw [e]; simp only [I5Form.bits, Layout.value]; omega)
  exact decode_encode (by rw [e]; rfl)
    ((decodeBase_of (h 25 6 _ rfl) (r := ⟨[(5, 5, 8), (25, 6, 15)], true, false, false, fun b w => .ishri (.ofWord b w)⟩)
      (find_next (row_no (.head _) 0 5 _ (by decide) (h 5 5 _ rfl) (by decide))
      (find_here (row_yes2 (h 5 5 _ rfl) (h 25 6 _ rfl)))) (fun _ => rfl) (fun h => no_some rfl h) (fun h => no_some rfl h)).trans
      (congrArg (fun x => Except.ok (Instr.ishri x)) (I5Form_of rfl (h 31 1 _ rfl) (h 18 7 _ rfl) (h 11 7 _ rfl) (h 10 1 _ rfl) (h 0 5 _ rfl))))
    (plain_of_major (h 25 6 _ rfl) (by decide)) (fun p hp => ⟨defined_of_fits hw p hp, fun h3 => by rw [show w / 2 ^ 25 % 64 = 15 from h 25 6 _ rfl] at h3; exact absurd h3 (by decide)⟩) (fun h => no_some rfl h)

theorem isari (f : I5Form) : Statement (.isari f) := fun _ hw => by
  obtain ⟨w, e⟩ : ∃ w, w = 0x1E000200 + f.bits := ⟨_, rfl⟩
  have h := Layout.reads (w := w) [(5, f.n.toNat), (5, 16), (1, f.x.toNat), (7, f.a.toNat), (7, f.d.toNat), (6, 15), (1, f.c.toNat)]
    ⟨f.n.isLt, by decide, f.x.toNat_lt, f.a.isLt, f.d.isLt, by decide, f.c.toNat_lt, trivial⟩ (by rw [e]; simp only [I5Form.bits, Layout.value]; omega)
  exact decode_encode (by rw [e]; rfl)
    ((decodeBase_of (h 25 6 _ rfl) (r := ⟨[(5, 5, 16), (25, 6, 15)], true, false, false, fun b w => .isari (.ofWord b w)⟩)
      (find_next (row_no (.head _) 0 5 _ (by decide) (h 5 5 _ rfl) (by decide))
      (find_next (row_no (.head _) 0 5 _ (by decide) (h 5 5 _ rfl) (by decide))
      (find_here (row_yes2 (h 5 5 _ rfl) (h 25 6 _ rfl))))) (fun _ => rfl) (fun h => no_some rfl h) (fun h => no_some rfl h)).trans
      (congrArg (fun x => Except.ok (Instr.isari x)) (I5Form_of rfl (h 31 1 _ rfl) (h 18 7 _ rfl) (h 11 7 _ rfl) (h 10 1 _ rfl) (h 0 5 _ rfl))))
    (plain_of_major (h 25 6 _ rfl) (by decide)) (fun p hp => ⟨defined_of_fits hw p hp, fun h3 => by rw [show w / 2 ^ 25 % 64 = 15 from h 25 6 _ rfl] at h3; exact absurd h3 (by decide)⟩) (fun h => no_some rfl h)

theorem iroli (f : I5Form) : Statement (.iroli f) := fun _ hw => by
  obtain ⟨w, e⟩ : ∃ w, w = 0x1E000300 + f.bits := ⟨_, rfl⟩
  have h := Layout.reads (w := w) [(5, f.n.toNat), (5, 24), (1, f.x.toNat), (7, f.a.toNat), (7, f.d.toNat), (6, 15), (1, f.c.toNat)]
    ⟨f.n.isLt, by decide, f.x.toNat_lt, f.a.isLt, f.d.isLt, by decide, f.c.toNat_lt, trivial⟩ (by rw [e]; simp only [I5Form.bits, Layout.value]; omega)
  exact decode_encode (by rw [e]; rfl)
    ((decodeBase_of (h 25 6 _ rfl) (r := ⟨[(5, 5, 24), (25, 6, 15)], true, false, false, fun b w => .iroli (.ofWord b w)⟩)
      (find_next (row_no (.head _) 0 5 _ (by decide) (h 5 5 _ rfl) (by decide))
      (find_next (row_no (.head _) 0 5 _ (by decide) (h 5 5 _ rfl) (by decide))
      (find_next (row_no (.head _) 0 5 _ (by decide) (h 5 5 _ rfl) (by decide))
      (find_here (row_yes2 (h 5 5 _ rfl) (h 25 6 _ rfl)))))) (fun _ => rfl) (fun h => no_some rfl h) (fun h => no_some rfl h)).trans
      (congrArg (fun x => Except.ok (Instr.iroli x)) (I5Form_of rfl (h 31 1 _ rfl) (h 18 7 _ rfl) (h 11 7 _ rfl) (h 10 1 _ rfl) (h 0 5 _ rfl))))
    (plain_of_major (h 25 6 _ rfl) (by decide)) (fun p hp => ⟨defined_of_fits hw p hp, fun h3 => by rw [show w / 2 ^ 25 % 64 = 15 from h 25 6 _ rfl] at h3; exact absurd h3 (by decide)⟩) (fun h => no_some rfl h)

theorem fadd (f : A3Form) : Statement (.fadd f) := fun _ hw => by
  obtain ⟨w, e⟩ : ∃ w, w = 0x20000000 + f.bits := ⟨_, rfl⟩
  have h := Layout.reads (w := w) [(1, f.y.toNat), (1, f.x.toNat), (2, 0), (7, f.b.toNat), (7, f.a.toNat), (7, f.d.toNat), (6, 16), (1, f.c.toNat)]
    ⟨f.y.toNat_lt, f.x.toNat_lt, by decide, f.b.isLt, f.a.isLt, f.d.isLt, by decide, f.c.toNat_lt, trivial⟩ (by rw [e]; simp only [A3Form.bits, Layout.value]; omega)
  exact decode_encode (by rw [e]; rfl)
    ((decodeBase_of (h 25 6 _ rfl) (r := ⟨[(2, 2, 0), (25, 6, 16)], true, false, false, fun b w => .fadd (.ofWord b w)⟩)
      (find_here (row_yes2 (h 2 2 _ rfl) (h 25 6 _ rfl))) (fun _ => rfl) (fun h => no_some rfl h) (fun h => no_some rfl h)).trans
      (congrArg (fun x => Except.ok (Instr.fadd x)) (A3Form_of rfl (h 31 1 _ rfl) (h 18 7 _ rfl) (h 11 7 _ rfl) (h 4 7 _ rfl) (h 1 1 _ rfl) (h 0 1 _ rfl))))
    (plain_of_major (h 25 6 _ rfl) (by decide)) (fun p hp => ⟨defined_of_fits hw p hp, fun h3 => by rw [show w / 2 ^ 25 % 64 = 16 from h 25 6 _ rfl] at h3; exact absurd h3 (by decide)⟩) (fun h => no_some rfl h)

theorem fsub (f : A3Form) : Statement (.fsub f) := fun _ hw => by
  obtain ⟨w, e⟩ : ∃ w, w = 0x20000004 + f.bits := ⟨_, rfl⟩
  have h := Layout.reads (w := w) [(1, f.y.toNat), (1, f.x.toNat), (2, 1), (7, f.b.toNat), (7, f.a.toNat), (7, f.d.toNat), (6, 16), (1, f.c.toNat)]
    ⟨f.y.toNat_lt, f.x.toNat_lt, by decide, f.b.isLt, f.a.isLt, f.d.isLt, by decide, f.c.toNat_lt, trivial⟩ (by rw [e]; simp only [A3Form.bits, Layout.value]; omega)
  exact decode_encode (by rw [e]; rfl)
    ((decodeBase_of (h 25 6 _ rfl) (r := ⟨[(2, 2, 1), (25, 6, 16)], true, false, false, fun b w => .fsub (.ofWord b w)⟩)
      (find_next (row_no (.head _) 0 2 _ (by decide) (h 2 2 _ rfl) (by decide))
      (find_here (row_yes2 (h 2 2 _ rfl) (h 25 6 _ rfl)))) (fun _ => rfl) (fun h => no_some rfl h) (fun h => no_some rfl h)).trans
      (congrArg (fun x => Except.ok (Instr.fsub x)) (A3Form_of rfl (h 31 1 _ rfl) (h 18 7 _ rfl) (h 11 7 _ rfl) (h 4 7 _ rfl) (h 1 1 _ rfl) (h 0 1 _ rfl))))
    (plain_of_major (h 25 6 _ rfl) (by decide)) (fun p hp => ⟨defined_of_fits hw p hp, fun h3 => by rw [show w / 2 ^ 25 % 64 = 16 from h 25 6 _ rfl] at h3; exact absurd h3 (by decide)⟩) (fun h => no_some rfl h)

theorem fmul (f : A3Form) : Statement (.fmul f) := fun _ hw => by
  obtain ⟨w, e⟩ : ∃ w, w = 0x20000008 + f.bits := ⟨_, rfl⟩
  have h := Layout.reads (w := w) [(1, f.y.toNat), (1, f.x.toNat), (2, 2), (7, f.b.toNat), (7, f.a.toNat), (7, f.d.toNat), (6, 16), (1, f.c.toNat)]
    ⟨f.y.toNat_lt, f.x.toNat_lt, by decide, f.b.isLt, f.a.isLt, f.d.isLt, by decide, f.c.toNat_lt, trivial⟩ (by rw [e]; simp only [A3Form.bits, Layout.value]; omega)
  exact decode_encode (by rw [e]; rfl)
    ((decodeBase_of (h 25 6 _ rfl) (r := ⟨[(2, 2, 2), (25, 6, 16)], true, false, false, fun b w => .fmul (.ofWord b w)⟩)
      (find_next (row_no (.head _) 0 2 _ (by decide) (h 2 2 _ rfl) (by decide))
      (find_next (row_no (.head _) 0 2 _ (by decide) (h 2 2 _ rfl) (by decide))
      (find_here (row_yes2 (h 2 2 _ rfl) (h 25 6 _ rfl))))) (fun _ => rfl) (fun h => no_some rfl h) (fun h => no_some rfl h)).trans
      (congrArg (fun x => Except.ok (Instr.fmul x)) (A3Form_of rfl (h 31 1 _ rfl) (h 18 7 _ rfl) (h 11 7 _ rfl) (h 4 7 _ rfl) (h 1 1 _ rfl) (h 0 1 _ rfl))))
    (plain_of_major (h 25 6 _ rfl) (by decide)) (fun p hp => ⟨defined_of_fits hw p hp, fun h3 => by rw [show w / 2 ^ 25 % 64 = 16 from h 25 6 _ rfl] at h3; exact absurd h3 (by decide)⟩) (fun h => no_some rfl h)

theorem ffma (f : A3Form) : Statement (.ffma f) := fun _ hw => by
  obtain ⟨w, e⟩ : ∃ w, w = 0x2000000C + f.bits := ⟨_, rfl⟩
  have h := Layout.reads (w := w) [(1, f.y.toNat), (1, f.x.toNat), (2, 3), (7, f.b.toNat), (7, f.a.toNat), (7, f.d.toNat), (6, 16), (1, f.c.toNat)]
    ⟨f.y.toNat_lt, f.x.toNat_lt, by decide, f.b.isLt, f.a.isLt, f.d.isLt, by decide, f.c.toNat_lt, trivial⟩ (by rw [e]; simp only [A3Form.bits, Layout.value]; omega)
  exact decode_encode (by rw [e]; rfl)
    ((decodeBase_of (h 25 6 _ rfl) (r := ⟨[(2, 2, 3), (25, 6, 16)], true, false, false, fun b w => .ffma (.ofWord b w)⟩)
      (find_next (row_no (.head _) 0 2 _ (by decide) (h 2 2 _ rfl) (by decide))
      (find_next (row_no (.head _) 0 2 _ (by decide) (h 2 2 _ rfl) (by decide))
      (find_next (row_no (.head _) 0 2 _ (by decide) (h 2 2 _ rfl) (by decide))
      (find_here (row_yes2 (h 2 2 _ rfl) (h 25 6 _ rfl)))))) (fun _ => rfl) (fun h => no_some rfl h) (fun h => no_some rfl h)).trans
      (congrArg (fun x => Except.ok (Instr.ffma x)) (A3Form_of rfl (h 31 1 _ rfl) (h 18 7 _ rfl) (h 11 7 _ rfl) (h 4 7 _ rfl) (h 1 1 _ rfl) (h 0 1 _ rfl))))
    (plain_of_major (h 25 6 _ rfl) (by decide)) (fun p hp => ⟨defined_of_fits hw p hp, fun h3 => by rw [show w / 2 ^ 25 % 64 = 16 from h 25 6 _ rfl] at h3; exact absurd h3 (by decide)⟩) (fun h => no_some rfl h)

theorem fmin (f : A3Form) : Statement (.fmin f) := fun _ hw => by
  obtain ⟨w, e⟩ : ∃ w, w = 0x22000000 + f.bits := ⟨_, rfl⟩
  have h := Layout.reads (w := w) [(1, f.y.toNat), (1, f.x.toNat), (2, 0), (7, f.b.toNat), (7, f.a.toNat), (7, f.d.toNat), (6, 17), (1, f.c.toNat)]
    ⟨f.y.toNat_lt, f.x.toNat_lt, by decide, f.b.isLt, f.a.isLt, f.d.isLt, by decide, f.c.toNat_lt, trivial⟩ (by rw [e]; simp only [A3Form.bits, Layout.value]; omega)
  exact decode_encode (by rw [e]; rfl)
    ((decodeBase_of (h 25 6 _ rfl) (r := ⟨[(2, 2, 0), (25, 6, 17)], true, false, false, fun b w => .fmin (.ofWord b w)⟩)
      (find_here (row_yes2 (h 2 2 _ rfl) (h 25 6 _ rfl))) (fun _ => rfl) (fun h => no_some rfl h) (fun h => no_some rfl h)).trans
      (congrArg (fun x => Except.ok (Instr.fmin x)) (A3Form_of rfl (h 31 1 _ rfl) (h 18 7 _ rfl) (h 11 7 _ rfl) (h 4 7 _ rfl) (h 1 1 _ rfl) (h 0 1 _ rfl))))
    (plain_of_major (h 25 6 _ rfl) (by decide)) (fun p hp => ⟨defined_of_fits hw p hp, fun h3 => by rw [show w / 2 ^ 25 % 64 = 17 from h 25 6 _ rfl] at h3; exact absurd h3 (by decide)⟩) (fun h => no_some rfl h)

theorem fmax (f : A3Form) : Statement (.fmax f) := fun _ hw => by
  obtain ⟨w, e⟩ : ∃ w, w = 0x22000004 + f.bits := ⟨_, rfl⟩
  have h := Layout.reads (w := w) [(1, f.y.toNat), (1, f.x.toNat), (2, 1), (7, f.b.toNat), (7, f.a.toNat), (7, f.d.toNat), (6, 17), (1, f.c.toNat)]
    ⟨f.y.toNat_lt, f.x.toNat_lt, by decide, f.b.isLt, f.a.isLt, f.d.isLt, by decide, f.c.toNat_lt, trivial⟩ (by rw [e]; simp only [A3Form.bits, Layout.value]; omega)
  exact decode_encode (by rw [e]; rfl)
    ((decodeBase_of (h 25 6 _ rfl) (r := ⟨[(2, 2, 1), (25, 6, 17)], true, false, false, fun b w => .fmax (.ofWord b w)⟩)
      (find_next (row_no (.head _) 0 2 _ (by decide) (h 2 2 _ rfl) (by decide))
      (find_here (row_yes2 (h 2 2 _ rfl) (h 25 6 _ rfl)))) (fun _ => rfl) (fun h => no_some rfl h) (fun h => no_some rfl h)).trans
      (congrArg (fun x => Except.ok (Instr.fmax x)) (A3Form_of rfl (h 31 1 _ rfl) (h 18 7 _ rfl) (h 11 7 _ rfl) (h 4 7 _ rfl) (h 1 1 _ rfl) (h 0 1 _ rfl))))
    (plain_of_major (h 25 6 _ rfl) (by decide)) (fun p hp => ⟨defined_of_fits hw p hp, fun h3 => by rw [show w / 2 ^ 25 % 64 = 17 from h 25 6 _ rfl] at h3; exact absurd h3 (by decide)⟩) (fun h => no_some rfl h)

theorem fabs (f : A2Form) : Statement (.fabs f) := fun _ hw => by
  obtain ⟨w, e⟩ : ∃ w, w = 0x22000008 + f.bits := ⟨_, rfl⟩
  have h := Layout.reads (w := w) [(1, 0), (1, f.x.toNat), (9, 2), (7, f.a.toNat), (7, f.d.toNat), (6, 17), (1, f.c.toNat)]
    ⟨by decide, f.x.toNat_lt, by decide, f.a.isLt, f.d.isLt, by decide, f.c.toNat_lt, trivial⟩ (by rw [e]; simp only [A2Form.bits, Layout.value]; omega)
  have h1 := Layout.reads (w := w) [(1, 0), (1, f.x.toNat), (2, 2), (7, 0), (7, f.a.toNat), (7, f.d.toNat), (6, 17), (1, f.c.toNat)]
    ⟨by decide, f.x.toNat_lt, by decide, by decide, f.a.isLt, f.d.isLt, by decide, f.c.toNat_lt, trivial⟩ (by rw [e]; simp only [A2Form.bits, Layout.value]; omega)
  exact decode_encode (by rw [e]; rfl)
    ((decodeBase_of (h 25 6 _ rfl) (r := ⟨[(0, 1, 0), (2, 9, 2), (25, 6, 17)], true, false, false, fun b w => .fabs (.ofWord b w)⟩)
      (find_next (row_no (.head _) 0 2 _ (by decide) (h1 2 2 _ rfl) (by decide))
      (find_next (row_no (.head _) 0 2 _ (by decide) (h1 2 2 _ rfl) (by decide))
      (find_here (row_yes3 (h 0 1 _ rfl) (h 2 9 _ rfl) (h 25 6 _ rfl))))) (fun _ => rfl) (fun h => no_some rfl h) (fun h => no_some rfl h)).trans
      (congrArg (fun x => Except.ok (Instr.fabs x)) (A2Form_of rfl (h 31 1 _ rfl) (h 18 7 _ rfl) (h 11 7 _ rfl) (h 1 1 _ rfl))))
    (plain_of_major (h 25 6 _ rfl) (by decide)) (fun p hp => ⟨defined_of_fits hw p hp, fun h3 => by rw [show w / 2 ^ 25 % 64 = 17 from h 25 6 _ rfl] at h3; exact absurd h3 (by decide)⟩) (fun h => no_some rfl h)

theorem fneg (f : A2Form) : Statement (.fneg f) := fun _ hw => by
  obtain ⟨w, e⟩ : ∃ w, w = 0x2200000C + f.bits := ⟨_, rfl⟩
  have h := Layout.reads (w := w) [(1, 0), (1, f.x.toNat), (9, 3), (7, f.a.toNat), (7, f.d.toNat), (6, 17), (1, f.c.toNat)]
    ⟨by decide, f.x.toNat_lt, by decide, f.a.isLt, f.d.isLt, by decide, f.c.toNat_lt, trivial⟩ (by rw [e]; simp only [A2Form.bits, Layout.value]; omega)
  have h1 := Layout.reads (w := w) [(1, 0), (1, f.x.toNat), (2, 3), (7, 0), (7, f.a.toNat), (7, f.d.toNat), (6, 17), (1, f.c.toNat)]
    ⟨by decide, f.x.toNat_lt, by decide, by decide, f.a.isLt, f.d.isLt, by decide, f.c.toNat_lt, trivial⟩ (by rw [e]; simp only [A2Form.bits, Layout.value]; omega)
  exact decode_encode (by rw [e]; rfl)
    ((decodeBase_of (h 25 6 _ rfl) (r := ⟨[(0, 1, 0), (2, 9, 3), (25, 6, 17)], true, false, false, fun b w => .fneg (.ofWord b w)⟩)
      (find_next (row_no (.head _) 0 2 _ (by decide) (h1 2 2 _ rfl) (by decide))
      (find_next (row_no (.head _) 0 2 _ (by decide) (h1 2 2 _ rfl) (by decide))
      (find_next (row_no (.tail _ (.head _)) 0 9 _ (by decide) (h 2 9 _ rfl) (by decide))
      (find_here (row_yes3 (h 0 1 _ rfl) (h 2 9 _ rfl) (h 25 6 _ rfl)))))) (fun _ => rfl) (fun h => no_some rfl h) (fun h => no_some rfl h)).trans
      (congrArg (fun x => Except.ok (Instr.fneg x)) (A2Form_of rfl (h 31 1 _ rfl) (h 18 7 _ rfl) (h 11 7 _ rfl) (h 1 1 _ rfl))))
    (plain_of_major (h 25 6 _ rfl) (by decide)) (fun p hp => ⟨defined_of_fits hw p hp, fun h3 => by rw [show w / 2 ^ 25 % 64 = 17 from h 25 6 _ rfl] at h3; exact absurd h3 (by decide)⟩) (fun h => no_some rfl h)

theorem fdiv (f : A3Form) : Statement (.fdiv f) := fun _ hw => by
  obtain ⟨w, e⟩ : ∃ w, w = 0x24000000 + f.bits := ⟨_, rfl⟩
  have h := Layout.reads (w := w) [(1, f.y.toNat), (1, f.x.toNat), (2, 0), (7, f.b.toNat), (7, f.a.toNat), (7, f.d.toNat), (6, 18), (1, f.c.toNat)]
    ⟨f.y.toNat_lt, f.x.toNat_lt, by decide, f.b.isLt, f.a.isLt, f.d.isLt, by decide, f.c.toNat_lt, trivial⟩ (by rw [e]; simp only [A3Form.bits, Layout.value]; omega)
  exact decode_encode (by rw [e]; rfl)
    ((decodeBase_of (h 25 6 _ rfl) (r := ⟨[(2, 2, 0), (25, 6, 18)], true, false, false, fun b w => .fdiv (.ofWord b w)⟩)
      (find_here (row_yes2 (h 2 2 _ rfl) (h 25 6 _ rfl))) (fun _ => rfl) (fun h => no_some rfl h) (fun h => no_some rfl h)).trans
      (congrArg (fun x => Except.ok (Instr.fdiv x)) (A3Form_of rfl (h 31 1 _ rfl) (h 18 7 _ rfl) (h 11 7 _ rfl) (h 4 7 _ rfl) (h 1 1 _ rfl) (h 0 1 _ rfl))))
    (plain_of_major (h 25 6 _ rfl) (by decide)) (fun p hp => ⟨defined_of_fits hw p hp, fun h3 => by rw [show w / 2 ^ 25 % 64 = 18 from h 25 6 _ rfl] at h3; exact absurd h3 (by decide)⟩) (fun h => no_some rfl h)

theorem fsqrt (f : A2Form) : Statement (.fsqrt f) := fun _ hw => by
  obtain ⟨w, e⟩ : ∃ w, w = 0x24000004 + f.bits := ⟨_, rfl⟩
  have h := Layout.reads (w := w) [(1, 0), (1, f.x.toNat), (9, 1), (7, f.a.toNat), (7, f.d.toNat), (6, 18), (1, f.c.toNat)]
    ⟨by decide, f.x.toNat_lt, by decide, f.a.isLt, f.d.isLt, by decide, f.c.toNat_lt, trivial⟩ (by rw [e]; simp only [A2Form.bits, Layout.value]; omega)
  have h1 := Layout.reads (w := w) [(1, 0), (1, f.x.toNat), (2, 1), (7, 0), (7, f.a.toNat), (7, f.d.toNat), (6, 18), (1, f.c.toNat)]
    ⟨by decide, f.x.toNat_lt, by decide, by decide, f.a.isLt, f.d.isLt, by decide, f.c.toNat_lt, trivial⟩ (by rw [e]; simp only [A2Form.bits, Layout.value]; omega)
  exact decode_encode (by rw [e]; rfl)
    ((decodeBase_of (h 25 6 _ rfl) (r := ⟨[(0, 1, 0), (2, 9, 1), (25, 6, 18)], true, false, false, fun b w => .fsqrt (.ofWord b w)⟩)
      (find_next (row_no (.head _) 0 2 _ (by decide) (h1 2 2 _ rfl) (by decide))
      (find_here (row_yes3 (h 0 1 _ rfl) (h 2 9 _ rfl) (h 25 6 _ rfl)))) (fun _ => rfl) (fun h => no_some rfl h) (fun h => no_some rfl h)).trans
      (congrArg (fun x => Except.ok (Instr.fsqrt x)) (A2Form_of rfl (h 31 1 _ rfl) (h 18 7 _ rfl) (h 11 7 _ rfl) (h 1 1 _ rfl))))
    (plain_of_major (h 25 6 _ rfl) (by decide)) (fun p hp => ⟨defined_of_fits hw p hp, fun h3 => by rw [show w / 2 ^ 25 % 64 = 18 from h 25 6 _ rfl] at h3; exact absurd h3 (by decide)⟩) (fun h => no_some rfl h)

theorem frcp (f : A2Form) : Statement (.frcp f) := fun _ hw => by
  obtain ⟨w, e⟩ : ∃ w, w = 0x24000008 + f.bits := ⟨_, rfl⟩
  have h := Layout.reads (w := w) [(1, 0), (1, f.x.toNat), (9, 2), (7, f.a.toNat), (7, f.d.toNat), (6, 18), (1, f.c.toNat)]
    ⟨by decide, f.x.toNat_lt, by decide, f.a.isLt, f.d.isLt, by decide, f.c.toNat_lt, trivial⟩ (by rw [e]; simp only [A2Form.bits, Layout.value]; omega)
  have h1 := Layout.reads (w := w) [(1, 0), (1, f.x.toNat), (2, 2), (7, 0), (7, f.a.toNat), (7, f.d.toNat), (6, 18), (1, f.c.toNat)]
    ⟨by decide, f.x.toNat_lt, by decide, by decide, f.a.isLt, f.d.isLt, by decide, f.c.toNat_lt, trivial⟩ (by rw [e]; simp only [A2Form.bits, Layout.value]; omega)
  exact decode_encode (by rw [e]; rfl)
    ((decodeBase_of (h 25 6 _ rfl) (r := ⟨[(0, 1, 0), (2, 9, 2), (25, 6, 18)], true, false, false, fun b w => .frcp (.ofWord b w)⟩)
      (find_next (row_no (.head _) 0 2 _ (by decide) (h1 2 2 _ rfl) (by decide))
      (find_next (row_no (.tail _ (.head _)) 0 9 _ (by decide) (h 2 9 _ rfl) (by decide))
      (find_here (row_yes3 (h 0 1 _ rfl) (h 2 9 _ rfl) (h 25 6 _ rfl))))) (fun _ => rfl) (fun h => no_some rfl h) (fun h => no_some rfl h)).trans
      (congrArg (fun x => Except.ok (Instr.frcp x)) (A2Form_of rfl (h 31 1 _ rfl) (h 18 7 _ rfl) (h 11 7 _ rfl) (h 1 1 _ rfl))))
    (plain_of_major (h 25 6 _ rfl) (by decide)) (fun p hp => ⟨defined_of_fits hw p hp, fun h3 => by rw [show w / 2 ^ 25 % 64 = 18 from h 25 6 _ rfl] at h3; exact absurd h3 (by decide)⟩) (fun h => no_some rfl h)

theorem frsq (f : A2Form) : Statement (.frsq f) := fun _ hw => by
  obtain ⟨w, e⟩ : ∃ w, w = 0x2400000C + f.bits := ⟨_, rfl⟩
  have h := Layout.reads (w := w) [(1, 0), (1, f.x.toNat), (9, 3), (7, f.a.toNat), (7, f.d.toNat), (6, 18), (1, f.c.toNat)]
    ⟨by decide, f.x.toNat_lt, by decide, f.a.isLt, f.d.isLt, by decide, f.c.toNat_lt, trivial⟩ (by rw [e]; simp only [A2Form.bits, Layout.value]; omega)
  have h1 := Layout.reads (w := w) [(1, 0), (1, f.x.toNat), (2, 3), (7, 0), (7, f.a.toNat), (7, f.d.toNat), (6, 18), (1, f.c.toNat)]
    ⟨by decide, f.x.toNat_lt, by decide, by decide, f.a.isLt, f.d.isLt, by decide, f.c.toNat_lt, trivial⟩ (by rw [e]; simp only [A2Form.bits, Layout.value]; omega)
  exact decode_encode (by rw [e]; rfl)
    ((decodeBase_of (h 25 6 _ rfl) (r := ⟨[(0, 1, 0), (2, 9, 3), (25, 6, 18)], true, false, false, fun b w => .frsq (.ofWord b w)⟩)
      (find_next (row_no (.head _) 0 2 _ (by decide) (h1 2 2 _ rfl) (by decide))
      (find_next (row_no (.tail _ (.head _)) 0 9 _ (by decide) (h 2 9 _ rfl) (by decide))
      (find_next (row_no (.tail _ (.head _)) 0 9 _ (by decide) (h 2 9 _ rfl) (by decide))
      (find_here (row_yes3 (h 0 1 _ rfl) (h 2 9 _ rfl) (h 25 6 _ rfl)))))) (fun _ => rfl) (fun h => no_some rfl h) (fun h => no_some rfl h)).trans
      (congrArg (fun x => Except.ok (Instr.frsq x)) (A2Form_of rfl (h 31 1 _ rfl) (h 18 7 _ rfl) (h 11 7 _ rfl) (h 1 1 _ rfl))))
    (plain_of_major (h 25 6 _ rfl) (by decide)) (fun p hp => ⟨defined_of_fits hw p hp, fun h3 => by rw [show w / 2 ^ 25 % 64 = 18 from h 25 6 _ rfl] at h3; exact absurd h3 (by decide)⟩) (fun h => no_some rfl h)

theorem ffloor (f : A2Form) : Statement (.ffloor f) := fun _ hw => by
  obtain ⟨w, e⟩ : ∃ w, w = 0x26000000 + f.bits := ⟨_, rfl⟩
  have h := Layout.reads (w := w) [(1, 0), (1, f.x.toNat), (9, 0), (7, f.a.toNat), (7, f.d.toNat), (6, 19), (1, f.c.toNat)]
    ⟨by decide, f.x.toNat_lt, by decide, f.a.isLt, f.d.isLt, by decide, f.c.toNat_lt, trivial⟩ (by rw [e]; simp only [A2Form.bits, Layout.value]; omega)
  exact decode_encode (by rw [e]; rfl)
    ((decodeBase_of (h 25 6 _ rfl) (r := ⟨[(0, 1, 0), (2, 9, 0), (25, 6, 19)], true, false, false, fun b w => .ffloor (.ofWord b w)⟩)
      (find_here (row_yes3 (h 0 1 _ rfl) (h 2 9 _ rfl) (h 25 6 _ rfl))) (fun _ => rfl) (fun h => no_some rfl h) (fun h => no_some rfl h)).trans
      (congrArg (fun x => Except.ok (Instr.ffloor x)) (A2Form_of rfl (h 31 1 _ rfl) (h 18 7 _ rfl) (h 11 7 _ rfl) (h 1 1 _ rfl))))
    (plain_of_major (h 25 6 _ rfl) (by decide)) (fun p hp => ⟨defined_of_fits hw p hp, fun h3 => by rw [show w / 2 ^ 25 % 64 = 19 from h 25 6 _ rfl] at h3; exact absurd h3 (by decide)⟩) (fun h => no_some rfl h)

theorem fceil (f : A2Form) : Statement (.fceil f) := fun _ hw => by
  obtain ⟨w, e⟩ : ∃ w, w = 0x26000004 + f.bits := ⟨_, rfl⟩
  have h := Layout.reads (w := w) [(1, 0), (1, f.x.toNat), (9, 1), (7, f.a.toNat), (7, f.d.toNat), (6, 19), (1, f.c.toNat)]
    ⟨by decide, f.x.toNat_lt, by decide, f.a.isLt, f.d.isLt, by decide, f.c.toNat_lt, trivial⟩ (by rw [e]; simp only [A2Form.bits, Layout.value]; omega)
  exact decode_encode (by rw [e]; rfl)
    ((decodeBase_of (h 25 6 _ rfl) (r := ⟨[(0, 1, 0), (2, 9, 1), (25, 6, 19)], true, false, false, fun b w => .fceil (.ofWord b w)⟩)
      (find_next (row_no (.tail _ (.head _)) 0 9 _ (by decide) (h 2 9 _ rfl) (by decide))
      (find_here (row_yes3 (h 0 1 _ rfl) (h 2 9 _ rfl) (h 25 6 _ rfl)))) (fun _ => rfl) (fun h => no_some rfl h) (fun h => no_some rfl h)).trans
      (congrArg (fun x => Except.ok (Instr.fceil x)) (A2Form_of rfl (h 31 1 _ rfl) (h 18 7 _ rfl) (h 11 7 _ rfl) (h 1 1 _ rfl))))
    (plain_of_major (h 25 6 _ rfl) (by decide)) (fun p hp => ⟨defined_of_fits hw p hp, fun h3 => by rw [show w / 2 ^ 25 % 64 = 19 from h 25 6 _ rfl] at h3; exact absurd h3 (by decide)⟩) (fun h => no_some rfl h)

theorem ftrunc (f : A2Form) : Statement (.ftrunc f) := fun _ hw => by
  obtain ⟨w, e⟩ : ∃ w, w = 0x26000008 + f.bits := ⟨_, rfl⟩
  have h := Layout.reads (w := w) [(1, 0), (1, f.x.toNat), (9, 2), (7, f.a.toNat), (7, f.d.toNat), (6, 19), (1, f.c.toNat)]
    ⟨by decide, f.x.toNat_lt, by decide, f.a.isLt, f.d.isLt, by decide, f.c.toNat_lt, trivial⟩ (by rw [e]; simp only [A2Form.bits, Layout.value]; omega)
  exact decode_encode (by rw [e]; rfl)
    ((decodeBase_of (h 25 6 _ rfl) (r := ⟨[(0, 1, 0), (2, 9, 2), (25, 6, 19)], true, false, false, fun b w => .ftrunc (.ofWord b w)⟩)
      (find_next (row_no (.tail _ (.head _)) 0 9 _ (by decide) (h 2 9 _ rfl) (by decide))
      (find_next (row_no (.tail _ (.head _)) 0 9 _ (by decide) (h 2 9 _ rfl) (by decide))
      (find_here (row_yes3 (h 0 1 _ rfl) (h 2 9 _ rfl) (h 25 6 _ rfl))))) (fun _ => rfl) (fun h => no_some rfl h) (fun h => no_some rfl h)).trans
      (congrArg (fun x => Except.ok (Instr.ftrunc x)) (A2Form_of rfl (h 31 1 _ rfl) (h 18 7 _ rfl) (h 11 7 _ rfl) (h 1 1 _ rfl))))
    (plain_of_major (h 25 6 _ rfl) (by decide)) (fun p hp => ⟨defined_of_fits hw p hp, fun h3 => by rw [show w / 2 ^ 25 % 64 = 19 from h 25 6 _ rfl] at h3; exact absurd h3 (by decide)⟩) (fun h => no_some rfl h)

theorem frint (f : A2Form) : Statement (.frint f) := fun _ hw => by
  obtain ⟨w, e⟩ : ∃ w, w = 0x2600000C + f.bits := ⟨_, rfl⟩
  have h := Layout.reads (w := w) [(1, 0), (1, f.x.toNat), (9, 3), (7, f.a.toNat), (7, f.d.toNat), (6, 19), (1, f.c.toNat)]
    ⟨by decide, f.x.toNat_lt, by decide, f.a.isLt, f.d.isLt, by decide, f.c.toNat_lt, trivial⟩ (by rw [e]; simp only [A2Form.bits, Layout.value]; omega)
  exact decode_encode (by rw [e]; rfl)
    ((decodeBase_of (h 25 6 _ rfl) (r := ⟨[(0, 1, 0), (2, 9, 3), (25, 6, 19)], true, false, false, fun b w => .frint (.ofWord b w)⟩)
      (find_next (row_no (.tail _ (.head _)) 0 9 _ (by decide) (h 2 9 _ rfl) (by decide))
      (find_next (row_no (.tail _ (.head _)) 0 9 _ (by decide) (h 2 9 _ rfl) (by decide))
      (find_next (row_no (.tail _ (.head _)) 0 9 _ (by decide) (h 2 9 _ rfl) (by decide))
      (find_here (row_yes3 (h 0 1 _ rfl) (h 2 9 _ rfl) (h 25 6 _ rfl)))))) (fun _ => rfl) (fun h => no_some rfl h) (fun h => no_some rfl h)).trans
      (congrArg (fun x => Except.ok (Instr.frint x)) (A2Form_of rfl (h 31 1 _ rfl) (h 18 7 _ rfl) (h 11 7 _ rfl) (h 1 1 _ rfl))))
    (plain_of_major (h 25 6 _ rfl) (by decide)) (fun p hp => ⟨defined_of_fits hw p hp, fun h3 => by rw [show w / 2 ^ 25 % 64 = 19 from h 25 6 _ rfl] at h3; exact absurd h3 (by decide)⟩) (fun h => no_some rfl h)

theorem fclass (f : A2Form) : Statement (.fclass f) := fun _ hw => by
  obtain ⟨w, e⟩ : ∃ w, w = 0x28000000 + f.bits := ⟨_, rfl⟩
  have h := Layout.reads (w := w) [(1, 0), (1, f.x.toNat), (9, 0), (7, f.a.toNat), (7, f.d.toNat), (6, 20), (1, f.c.toNat)]
    ⟨by decide, f.x.toNat_lt, by decide, f.a.isLt, f.d.isLt, by decide, f.c.toNat_lt, trivial⟩ (by rw [e]; simp only [A2Form.bits, Layout.value]; omega)
  exact decode_encode (by rw [e]; rfl)
    ((decodeBase_of (h 25 6 _ rfl) (r := ⟨[(0, 1, 0), (2, 9, 0), (25, 6, 20)], true, false, false, fun b w => .fclass (.ofWord b w)⟩)
      (find_here (row_yes3 (h 0 1 _ rfl) (h 2 9 _ rfl) (h 25 6 _ rfl))) (fun _ => rfl) (fun h => no_some rfl h) (fun h => no_some rfl h)).trans
      (congrArg (fun x => Except.ok (Instr.fclass x)) (A2Form_of rfl (h 31 1 _ rfl) (h 18 7 _ rfl) (h 11 7 _ rfl) (h 1 1 _ rfl))))
    (plain_of_major (h 25 6 _ rfl) (by decide)) (fun p hp => ⟨defined_of_fits hw p hp, fun h3 => by rw [show w / 2 ^ 25 % 64 = 20 from h 25 6 _ rfl] at h3; exact absurd h3 (by decide)⟩) (fun h => no_some rfl h)

theorem fcopys (f : A3Form) : Statement (.fcopys f) := fun _ hw => by
  obtain ⟨w, e⟩ : ∃ w, w = 0x28000004 + f.bits := ⟨_, rfl⟩
  have h := Layout.reads (w := w) [(1, f.y.toNat), (1, f.x.toNat), (2, 1), (7, f.b.toNat), (7, f.a.toNat), (7, f.d.toNat), (6, 20), (1, f.c.toNat)]
    ⟨f.y.toNat_lt, f.x.toNat_lt, by decide, f.b.isLt, f.a.isLt, f.d.isLt, by decide, f.c.toNat_lt, trivial⟩ (by rw [e]; simp only [A3Form.bits, Layout.value]; omega)
  exact decode_encode (by rw [e]; rfl)
    ((decodeBase_of (h 25 6 _ rfl) (r := ⟨[(2, 2, 1), (25, 6, 20)], true, false, false, fun b w => .fcopys (.ofWord b w)⟩)
      (find_next (row_no (.tail _ (.head _)) 0 2 _ (by decide) (h 2 2 _ rfl) (by decide))
      (find_here (row_yes2 (h 2 2 _ rfl) (h 25 6 _ rfl)))) (fun _ => rfl) (fun h => no_some rfl h) (fun h => no_some rfl h)).trans
      (congrArg (fun x => Except.ok (Instr.fcopys x)) (A3Form_of rfl (h 31 1 _ rfl) (h 18 7 _ rfl) (h 11 7 _ rfl) (h 4 7 _ rfl) (h 1 1 _ rfl) (h 0 1 _ rfl))))
    (plain_of_major (h 25 6 _ rfl) (by decide)) (fun p hp => ⟨defined_of_fits hw p hp, fun h3 => by rw [show w / 2 ^ 25 % 64 = 20 from h 25 6 _ rfl] at h3; exact absurd h3 (by decide)⟩) (fun h => no_some rfl h)

theorem fscale (f : A3Form) : Statement (.fscale f) := fun _ hw => by
  obtain ⟨w, e⟩ : ∃ w, w = 0x28000008 + f.bits := ⟨_, rfl⟩
  have h := Layout.reads (w := w) [(1, f.y.toNat), (1, f.x.toNat), (2, 2), (7, f.b.toNat), (7, f.a.toNat), (7, f.d.toNat), (6, 20), (1, f.c.toNat)]
    ⟨f.y.toNat_lt, f.x.toNat_lt, by decide, f.b.isLt, f.a.isLt, f.d.isLt, by decide, f.c.toNat_lt, trivial⟩ (by rw [e]; simp only [A3Form.bits, Layout.value]; omega)
  exact decode_encode (by rw [e]; rfl)
    ((decodeBase_of (h 25 6 _ rfl) (r := ⟨[(2, 2, 2), (25, 6, 20)], true, false, false, fun b w => .fscale (.ofWord b w)⟩)
      (find_next (row_no (.tail _ (.head _)) 0 2 _ (by decide) (h 2 2 _ rfl) (by decide))
      (find_next (row_no (.head _) 0 2 _ (by decide) (h 2 2 _ rfl) (by decide))
      (find_here (row_yes2 (h 2 2 _ rfl) (h 25 6 _ rfl))))) (fun _ => rfl) (fun h => no_some rfl h) (fun h => no_some rfl h)).trans
      (congrArg (fun x => Except.ok (Instr.fscale x)) (A3Form_of rfl (h 31 1 _ rfl) (h 18 7 _ rfl) (h 11 7 _ rfl) (h 4 7 _ rfl) (h 1 1 _ rfl) (h 0 1 _ rfl))))
    (plain_of_major (h 25 6 _ rfl) (by decide)) (fun p hp => ⟨defined_of_fits hw p hp, fun h3 => by rw [show w / 2 ^ 25 % 64 = 20 from h 25 6 _ rfl] at h3; exact absurd h3 (by decide)⟩) (fun h => no_some rfl h)

theorem ffrac (f : A2Form) : Statement (.ffrac f) := fun _ hw => by
  obtain ⟨w, e⟩ : ∃ w, w = 0x2800000C + f.bits := ⟨_, rfl⟩
  have h := Layout.reads (w := w) [(1, 0), (1, f.x.toNat), (9, 3), (7, f.a.toNat), (7, f.d.toNat), (6, 20), (1, f.c.toNat)]
    ⟨by decide, f.x.toNat_lt, by decide, f.a.isLt, f.d.isLt, by decide, f.c.toNat_lt, trivial⟩ (by rw [e]; simp only [A2Form.bits, Layout.value]; omega)
  have h1 := Layout.reads (w := w) [(1, 0), (1, f.x.toNat), (2, 3), (7, 0), (7, f.a.toNat), (7, f.d.toNat), (6, 20), (1, f.c.toNat)]
    ⟨by decide, f.x.toNat_lt, by decide, by decide, f.a.isLt, f.d.isLt, by decide, f.c.toNat_lt, trivial⟩ (by rw [e]; simp only [A2Form.bits, Layout.value]; omega)
  exact decode_encode (by rw [e]; rfl)
    ((decodeBase_of (h 25 6 _ rfl) (r := ⟨[(0, 1, 0), (2, 9, 3), (25, 6, 20)], true, false, false, fun b w => .ffrac (.ofWord b w)⟩)
      (find_next (row_no (.tail _ (.head _)) 0 9 _ (by decide) (h 2 9 _ rfl) (by decide))
      (find_next (row_no (.head _) 0 2 _ (by decide) (h1 2 2 _ rfl) (by decide))
      (find_next (row_no (.head _) 0 2 _ (by decide) (h1 2 2 _ rfl) (by decide))
      (find_here (row_yes3 (h 0 1 _ rfl) (h 2 9 _ rfl) (h 25 6 _ rfl)))))) (fun _ => rfl) (fun h => no_some rfl h) (fun h => no_some rfl h)).trans
      (congrArg (fun x => Except.ok (Instr.ffrac x)) (A2Form_of rfl (h 31 1 _ rfl) (h 18 7 _ rfl) (h 11 7 _ rfl) (h 1 1 _ rfl))))
    (plain_of_major (h 25 6 _ rfl) (by decide)) (fun p hp => ⟨defined_of_fits hw p hp, fun h3 => by rw [show w / 2 ^ 25 % 64 = 20 from h 25 6 _ rfl] at h3; exact absurd h3 (by decide)⟩) (fun h => no_some rfl h)

theorem ftab (f : FtabForm) : Statement (.ftab f) := fun _ hw => by
  obtain ⟨w, e⟩ : ∃ w, w = 0x2A000000 + f.bits := ⟨_, rfl⟩
  have h := Layout.reads (w := w) [(1, 0), (1, f.x.toNat), (2, 0), (2, f.t.toNat), (5, 0), (7, f.a.toNat), (7, f.d.toNat), (6, 21), (1, f.c.toNat)]
    ⟨by decide, f.x.toNat_lt, by decide, f.t.isLt, by decide, f.a.isLt, f.d.isLt, by decide, f.c.toNat_lt, trivial⟩ (by rw [e]; simp only [FtabForm.bits, Layout.value]; omega)
  exact decode_encode (by rw [e]; rfl)
    ((decodeBase_of (h 25 6 _ rfl) (r := ⟨[(0, 1, 0), (2, 2, 0), (6, 5, 0), (25, 6, 21)], true, false, false, fun b w => .ftab (.ofWord b w)⟩)
      (find_here (row_yes4 (h 0 1 _ rfl) (h 2 2 _ rfl) (h 6 5 _ rfl) (h 25 6 _ rfl))) (fun _ => rfl) (fun h => no_some rfl h) (fun h => no_some rfl h)).trans
      (congrArg (fun x => Except.ok (Instr.ftab x)) (FtabForm_of rfl (h 31 1 _ rfl) (h 18 7 _ rfl) (h 11 7 _ rfl) (h 4 2 _ rfl) (h 1 1 _ rfl))))
    (plain_of_major (h 25 6 _ rfl) (by decide)) (fun p hp => ⟨defined_of_fits hw p hp, fun h3 => by rw [show w / 2 ^ 25 % 64 = 21 from h 25 6 _ rfl] at h3; exact absurd h3 (by decide)⟩) (fun h => no_some rfl h)

theorem ftabld (f : FtabLdForm) : Statement (.ftabld f) := fun _ hw => by
  obtain ⟨w, e⟩ : ∃ w, w = 0x2A000004 + f.bits := ⟨_, rfl⟩
  have h := Layout.reads (w := w) [(1, 0), (1, f.x.toNat), (2, 1), (2, f.t.toNat), (1, f.k.toNat), (4, 0), (7, f.a.toNat), (7, 0), (6, 21), (1, f.c.toNat)]
    ⟨by decide, f.x.toNat_lt, by decide, f.t.isLt, f.k.isLt, by decide, f.a.isLt, by decide, by decide, f.c.toNat_lt, trivial⟩ (by rw [e]; simp only [FtabLdForm.bits, Layout.value]; omega)
  have h1 := Layout.reads (w := w) [(1, 0), (1, f.x.toNat), (2, 1), (2, f.t.toNat), (1, f.k.toNat), (4, 0), (7, f.a.toNat), (13, 2688), (1, f.c.toNat)]
    ⟨by decide, f.x.toNat_lt, by decide, f.t.isLt, f.k.isLt, by decide, f.a.isLt, by decide, f.c.toNat_lt, trivial⟩ (by rw [e]; simp only [FtabLdForm.bits, Layout.value]; omega)
  exact decode_encode (by rw [e]; rfl)
    ((decodeBase_of (h 25 6 _ rfl) (r := ⟨[(0, 1, 0), (2, 2, 1), (7, 4, 0), (18, 13, 2688)], true, false, false, fun b w => .ftabld (.ofWord b w)⟩)
      (find_next (row_no (.tail _ (.head _)) 0 2 _ (by decide) (h 2 2 _ rfl) (by decide))
      (find_here (row_yes4 (h 0 1 _ rfl) (h 2 2 _ rfl) (h 7 4 _ rfl) (h1 18 13 _ rfl)))) (fun _ => rfl) (fun h => no_some rfl h) (fun h => no_some rfl h)).trans
      (congrArg (fun x => Except.ok (Instr.ftabld x)) (FtabLdForm_of rfl (h 31 1 _ rfl) (h 11 7 _ rfl) (h 6 1 _ rfl) (h 4 2 _ rfl) (h 1 1 _ rfl))))
    (plain_of_major (h 25 6 _ rfl) (by decide)) (fun p hp => ⟨defined_of_fits hw p hp, fun h3 => by rw [show w / 2 ^ 25 % 64 = 21 from h 25 6 _ rfl] at h3; exact absurd h3 (by decide)⟩) (fun h => no_some rfl h)

theorem ftabbank (f : FtabBankForm) : Statement (.ftabbank f) := fun _ hw => by
  obtain ⟨w, e⟩ : ∃ w, w = 0x2A000008 + f.bits := ⟨_, rfl⟩
  have h := Layout.reads (w := w) [(4, 8), (2, f.t.toNat), (1, f.k.toNat), (18, 0), (6, 21), (1, f.c.toNat)]
    ⟨by decide, f.t.isLt, f.k.isLt, by decide, by decide, f.c.toNat_lt, trivial⟩ (by rw [e]; simp only [FtabBankForm.bits, Layout.value]; omega)
  have h1 := Layout.reads (w := w) [(2, 0), (2, 2), (2, f.t.toNat), (1, f.k.toNat), (24, 5505024), (1, f.c.toNat)]
    ⟨by decide, by decide, f.t.isLt, f.k.isLt, by decide, f.c.toNat_lt, trivial⟩ (by rw [e]; simp only [FtabBankForm.bits, Layout.value]; omega)
  exact decode_encode (by rw [e]; rfl)
    ((decodeBase_of (h 25 6 _ rfl) (r := ⟨[(0, 4, 8), (7, 24, 5505024)], true, false, false, fun b w => .ftabbank (.ofWord b w)⟩)
      (find_next (row_no (.tail _ (.head _)) 0 2 _ (by decide) (h1 2 2 _ rfl) (by decide))
      (find_next (row_no (.tail _ (.head _)) 0 2 _ (by decide) (h1 2 2 _ rfl) (by decide))
      (find_here (row_yes2 (h 0 4 _ rfl) (h1 7 24 _ rfl))))) (fun _ => rfl) (fun h => no_some rfl h) (fun h => no_some rfl h)).trans
      (congrArg (fun x => Except.ok (Instr.ftabbank x)) (FtabBankForm_of rfl (h 31 1 _ rfl) (h 6 1 _ rfl) (h 4 2 _ rfl))))
    (plain_of_major (h 25 6 _ rfl) (by decide)) (fun p hp => ⟨defined_of_fits hw p hp, fun h3 => by rw [show w / 2 ^ 25 % 64 = 21 from h 25 6 _ rfl] at h3; exact absurd h3 (by decide)⟩) (fun h => no_some rfl h)

theorem rand (f : A3Form) : Statement (.rand f) := fun _ hw => by
  obtain ⟨w, e⟩ : ∃ w, w = 0x2A00000C + f.bits := ⟨_, rfl⟩
  have h := Layout.reads (w := w) [(1, f.y.toNat), (1, f.x.toNat), (2, 3), (7, f.b.toNat), (7, f.a.toNat), (7, f.d.toNat), (6, 21), (1, f.c.toNat)]
    ⟨f.y.toNat_lt, f.x.toNat_lt, by decide, f.b.isLt, f.a.isLt, f.d.isLt, by decide, f.c.toNat_lt, trivial⟩ (by rw [e]; simp only [A3Form.bits, Layout.value]; omega)
  exact decode_encode (by rw [e]; rfl)
    ((decodeBase_of (h 25 6 _ rfl) (r := ⟨[(2, 2, 3), (25, 6, 21)], true, false, false, fun b w => .rand (.ofWord b w)⟩)
      (find_next (row_no (.tail _ (.head _)) 0 2 _ (by decide) (h 2 2 _ rfl) (by decide))
      (find_next (row_no (.tail _ (.head _)) 0 2 _ (by decide) (h 2 2 _ rfl) (by decide))
      (find_next (row_no (.head _) 2 2 _ (by decide) (h 2 2 _ rfl) (by decide))
      (find_here (row_yes2 (h 2 2 _ rfl) (h 25 6 _ rfl)))))) (fun _ => rfl) (fun h => no_some rfl h) (fun h => no_some rfl h)).trans
      (congrArg (fun x => Except.ok (Instr.rand x)) (A3Form_of rfl (h 31 1 _ rfl) (h 18 7 _ rfl) (h 11 7 _ rfl) (h 4 7 _ rfl) (h 1 1 _ rfl) (h 0 1 _ rfl))))
    (plain_of_major (h 25 6 _ rfl) (by decide)) (fun p hp => ⟨defined_of_fits hw p hp, fun h3 => by rw [show w / 2 ^ 25 % 64 = 21 from h 25 6 _ rfl] at h3; exact absurd h3 (by decide)⟩) (fun h => no_some rfl h)

theorem hadd (f : A3Form) : Statement (.hadd f) := fun _ hw => by
  obtain ⟨w, e⟩ : ∃ w, w = 0x30000000 + f.bits := ⟨_, rfl⟩
  have h := Layout.reads (w := w) [(1, f.y.toNat), (1, f.x.toNat), (2, 0), (7, f.b.toNat), (7, f.a.toNat), (7, f.d.toNat), (6, 24), (1, f.c.toNat)]
    ⟨f.y.toNat_lt, f.x.toNat_lt, by decide, f.b.isLt, f.a.isLt, f.d.isLt, by decide, f.c.toNat_lt, trivial⟩ (by rw [e]; simp only [A3Form.bits, Layout.value]; omega)
  exact decode_encode (by rw [e]; rfl)
    ((decodeBase_of (h 25 6 _ rfl) (r := ⟨[(2, 2, 0), (25, 6, 24)], true, false, false, fun b w => .hadd (.ofWord b w)⟩)
      (find_here (row_yes2 (h 2 2 _ rfl) (h 25 6 _ rfl))) (fun _ => rfl) (fun h => no_some rfl h) (fun h => no_some rfl h)).trans
      (congrArg (fun x => Except.ok (Instr.hadd x)) (A3Form_of rfl (h 31 1 _ rfl) (h 18 7 _ rfl) (h 11 7 _ rfl) (h 4 7 _ rfl) (h 1 1 _ rfl) (h 0 1 _ rfl))))
    (plain_of_major (h 25 6 _ rfl) (by decide)) (fun p hp => ⟨defined_of_fits hw p hp, fun h3 => by rw [show w / 2 ^ 25 % 64 = 24 from h 25 6 _ rfl] at h3; exact absurd h3 (by decide)⟩) (fun h => no_some rfl h)

theorem hsub (f : A3Form) : Statement (.hsub f) := fun _ hw => by
  obtain ⟨w, e⟩ : ∃ w, w = 0x30000004 + f.bits := ⟨_, rfl⟩
  have h := Layout.reads (w := w) [(1, f.y.toNat), (1, f.x.toNat), (2, 1), (7, f.b.toNat), (7, f.a.toNat), (7, f.d.toNat), (6, 24), (1, f.c.toNat)]
    ⟨f.y.toNat_lt, f.x.toNat_lt, by decide, f.b.isLt, f.a.isLt, f.d.isLt, by decide, f.c.toNat_lt, trivial⟩ (by rw [e]; simp only [A3Form.bits, Layout.value]; omega)
  exact decode_encode (by rw [e]; rfl)
    ((decodeBase_of (h 25 6 _ rfl) (r := ⟨[(2, 2, 1), (25, 6, 24)], true, false, false, fun b w => .hsub (.ofWord b w)⟩)
      (find_next (row_no (.head _) 0 2 _ (by decide) (h 2 2 _ rfl) (by decide))
      (find_here (row_yes2 (h 2 2 _ rfl) (h 25 6 _ rfl)))) (fun _ => rfl) (fun h => no_some rfl h) (fun h => no_some rfl h)).trans
      (congrArg (fun x => Except.ok (Instr.hsub x)) (A3Form_of rfl (h 31 1 _ rfl) (h 18 7 _ rfl) (h 11 7 _ rfl) (h 4 7 _ rfl) (h 1 1 _ rfl) (h 0 1 _ rfl))))
    (plain_of_major (h 25 6 _ rfl) (by decide)) (fun p hp => ⟨defined_of_fits hw p hp, fun h3 => by rw [show w / 2 ^ 25 % 64 = 24 from h 25 6 _ rfl] at h3; exact absurd h3 (by decide)⟩) (fun h => no_some rfl h)

theorem hmul (f : A3Form) : Statement (.hmul f) := fun _ hw => by
  obtain ⟨w, e⟩ : ∃ w, w = 0x30000008 + f.bits := ⟨_, rfl⟩
  have h := Layout.reads (w := w) [(1, f.y.toNat), (1, f.x.toNat), (2, 2), (7, f.b.toNat), (7, f.a.toNat), (7, f.d.toNat), (6, 24), (1, f.c.toNat)]
    ⟨f.y.toNat_lt, f.x.toNat_lt, by decide, f.b.isLt, f.a.isLt, f.d.isLt, by decide, f.c.toNat_lt, trivial⟩ (by rw [e]; simp only [A3Form.bits, Layout.value]; omega)
  exact decode_encode (by rw [e]; rfl)
    ((decodeBase_of (h 25 6 _ rfl) (r := ⟨[(2, 2, 2), (25, 6, 24)], true, false, false, fun b w => .hmul (.ofWord b w)⟩)
      (find_next (row_no (.head _) 0 2 _ (by decide) (h 2 2 _ rfl) (by decide))
      (find_next (row_no (.head _) 0 2 _ (by decide) (h 2 2 _ rfl) (by decide))
      (find_here (row_yes2 (h 2 2 _ rfl) (h 25 6 _ rfl))))) (fun _ => rfl) (fun h => no_some rfl h) (fun h => no_some rfl h)).trans
      (congrArg (fun x => Except.ok (Instr.hmul x)) (A3Form_of rfl (h 31 1 _ rfl) (h 18 7 _ rfl) (h 11 7 _ rfl) (h 4 7 _ rfl) (h 1 1 _ rfl) (h 0 1 _ rfl))))
    (plain_of_major (h 25 6 _ rfl) (by decide)) (fun p hp => ⟨defined_of_fits hw p hp, fun h3 => by rw [show w / 2 ^ 25 % 64 = 24 from h 25 6 _ rfl] at h3; exact absurd h3 (by decide)⟩) (fun h => no_some rfl h)

theorem hfma (f : A3Form) : Statement (.hfma f) := fun _ hw => by
  obtain ⟨w, e⟩ : ∃ w, w = 0x3000000C + f.bits := ⟨_, rfl⟩
  have h := Layout.reads (w := w) [(1, f.y.toNat), (1, f.x.toNat), (2, 3), (7, f.b.toNat), (7, f.a.toNat), (7, f.d.toNat), (6, 24), (1, f.c.toNat)]
    ⟨f.y.toNat_lt, f.x.toNat_lt, by decide, f.b.isLt, f.a.isLt, f.d.isLt, by decide, f.c.toNat_lt, trivial⟩ (by rw [e]; simp only [A3Form.bits, Layout.value]; omega)
  exact decode_encode (by rw [e]; rfl)
    ((decodeBase_of (h 25 6 _ rfl) (r := ⟨[(2, 2, 3), (25, 6, 24)], true, false, false, fun b w => .hfma (.ofWord b w)⟩)
      (find_next (row_no (.head _) 0 2 _ (by decide) (h 2 2 _ rfl) (by decide))
      (find_next (row_no (.head _) 0 2 _ (by decide) (h 2 2 _ rfl) (by decide))
      (find_next (row_no (.head _) 0 2 _ (by decide) (h 2 2 _ rfl) (by decide))
      (find_here (row_yes2 (h 2 2 _ rfl) (h 25 6 _ rfl)))))) (fun _ => rfl) (fun h => no_some rfl h) (fun h => no_some rfl h)).trans
      (congrArg (fun x => Except.ok (Instr.hfma x)) (A3Form_of rfl (h 31 1 _ rfl) (h 18 7 _ rfl) (h 11 7 _ rfl) (h 4 7 _ rfl) (h 1 1 _ rfl) (h 0 1 _ rfl))))
    (plain_of_major (h 25 6 _ rfl) (by decide)) (fun p hp => ⟨defined_of_fits hw p hp, fun h3 => by rw [show w / 2 ^ 25 % 64 = 24 from h 25 6 _ rfl] at h3; exact absurd h3 (by decide)⟩) (fun h => no_some rfl h)

theorem dadd (f : A3Form) : Statement (.dadd f) := fun _ hw => by
  obtain ⟨w, e⟩ : ∃ w, w = 0x32000000 + f.bits := ⟨_, rfl⟩
  have h := Layout.reads (w := w) [(1, f.y.toNat), (1, f.x.toNat), (2, 0), (7, f.b.toNat), (7, f.a.toNat), (7, f.d.toNat), (6, 25), (1, f.c.toNat)]
    ⟨f.y.toNat_lt, f.x.toNat_lt, by decide, f.b.isLt, f.a.isLt, f.d.isLt, by decide, f.c.toNat_lt, trivial⟩ (by rw [e]; simp only [A3Form.bits, Layout.value]; omega)
  exact decode_encode (by rw [e]; rfl)
    ((decodeBase_of (h 25 6 _ rfl) (r := ⟨[(2, 2, 0), (25, 6, 25)], true, false, false, fun b w => .dadd (.ofWord b w)⟩)
      (find_here (row_yes2 (h 2 2 _ rfl) (h 25 6 _ rfl))) (fun _ => rfl) (fun h => no_some rfl h) (fun h => no_some rfl h)).trans
      (congrArg (fun x => Except.ok (Instr.dadd x)) (A3Form_of rfl (h 31 1 _ rfl) (h 18 7 _ rfl) (h 11 7 _ rfl) (h 4 7 _ rfl) (h 1 1 _ rfl) (h 0 1 _ rfl))))
    (plain_of_major (h 25 6 _ rfl) (by decide)) (fun p hp => ⟨defined_of_fits (and_right hw) p hp, fun h3 => by rw [show w / 2 ^ 25 % 64 = 25 from h 25 6 _ rfl] at h3; exact absurd h3 (by decide)⟩) (fun h => no_some rfl h)

theorem dsub (f : A3Form) : Statement (.dsub f) := fun _ hw => by
  obtain ⟨w, e⟩ : ∃ w, w = 0x32000004 + f.bits := ⟨_, rfl⟩
  have h := Layout.reads (w := w) [(1, f.y.toNat), (1, f.x.toNat), (2, 1), (7, f.b.toNat), (7, f.a.toNat), (7, f.d.toNat), (6, 25), (1, f.c.toNat)]
    ⟨f.y.toNat_lt, f.x.toNat_lt, by decide, f.b.isLt, f.a.isLt, f.d.isLt, by decide, f.c.toNat_lt, trivial⟩ (by rw [e]; simp only [A3Form.bits, Layout.value]; omega)
  exact decode_encode (by rw [e]; rfl)
    ((decodeBase_of (h 25 6 _ rfl) (r := ⟨[(2, 2, 1), (25, 6, 25)], true, false, false, fun b w => .dsub (.ofWord b w)⟩)
      (find_next (row_no (.head _) 0 2 _ (by decide) (h 2 2 _ rfl) (by decide))
      (find_here (row_yes2 (h 2 2 _ rfl) (h 25 6 _ rfl)))) (fun _ => rfl) (fun h => no_some rfl h) (fun h => no_some rfl h)).trans
      (congrArg (fun x => Except.ok (Instr.dsub x)) (A3Form_of rfl (h 31 1 _ rfl) (h 18 7 _ rfl) (h 11 7 _ rfl) (h 4 7 _ rfl) (h 1 1 _ rfl) (h 0 1 _ rfl))))
    (plain_of_major (h 25 6 _ rfl) (by decide)) (fun p hp => ⟨defined_of_fits (and_right hw) p hp, fun h3 => by rw [show w / 2 ^ 25 % 64 = 25 from h 25 6 _ rfl] at h3; exact absurd h3 (by decide)⟩) (fun h => no_some rfl h)

theorem dmul (f : A3Form) : Statement (.dmul f) := fun _ hw => by
  obtain ⟨w, e⟩ : ∃ w, w = 0x32000008 + f.bits := ⟨_, rfl⟩
  have h := Layout.reads (w := w) [(1, f.y.toNat), (1, f.x.toNat), (2, 2), (7, f.b.toNat), (7, f.a.toNat), (7, f.d.toNat), (6, 25), (1, f.c.toNat)]
    ⟨f.y.toNat_lt, f.x.toNat_lt, by decide, f.b.isLt, f.a.isLt, f.d.isLt, by decide, f.c.toNat_lt, trivial⟩ (by rw [e]; simp only [A3Form.bits, Layout.value]; omega)
  exact decode_encode (by rw [e]; rfl)
    ((decodeBase_of (h 25 6 _ rfl) (r := ⟨[(2, 2, 2), (25, 6, 25)], true, false, false, fun b w => .dmul (.ofWord b w)⟩)
      (find_next (row_no (.head _) 0 2 _ (by decide) (h 2 2 _ rfl) (by decide))
      (find_next (row_no (.head _) 0 2 _ (by decide) (h 2 2 _ rfl) (by decide))
      (find_here (row_yes2 (h 2 2 _ rfl) (h 25 6 _ rfl))))) (fun _ => rfl) (fun h => no_some rfl h) (fun h => no_some rfl h)).trans
      (congrArg (fun x => Except.ok (Instr.dmul x)) (A3Form_of rfl (h 31 1 _ rfl) (h 18 7 _ rfl) (h 11 7 _ rfl) (h 4 7 _ rfl) (h 1 1 _ rfl) (h 0 1 _ rfl))))
    (plain_of_major (h 25 6 _ rfl) (by decide)) (fun p hp => ⟨defined_of_fits (and_right hw) p hp, fun h3 => by rw [show w / 2 ^ 25 % 64 = 25 from h 25 6 _ rfl] at h3; exact absurd h3 (by decide)⟩) (fun h => no_some rfl h)

theorem dfma (f : A3Form) : Statement (.dfma f) := fun _ hw => by
  obtain ⟨w, e⟩ : ∃ w, w = 0x3200000C + f.bits := ⟨_, rfl⟩
  have h := Layout.reads (w := w) [(1, f.y.toNat), (1, f.x.toNat), (2, 3), (7, f.b.toNat), (7, f.a.toNat), (7, f.d.toNat), (6, 25), (1, f.c.toNat)]
    ⟨f.y.toNat_lt, f.x.toNat_lt, by decide, f.b.isLt, f.a.isLt, f.d.isLt, by decide, f.c.toNat_lt, trivial⟩ (by rw [e]; simp only [A3Form.bits, Layout.value]; omega)
  exact decode_encode (by rw [e]; rfl)
    ((decodeBase_of (h 25 6 _ rfl) (r := ⟨[(2, 2, 3), (25, 6, 25)], true, false, false, fun b w => .dfma (.ofWord b w)⟩)
      (find_next (row_no (.head _) 0 2 _ (by decide) (h 2 2 _ rfl) (by decide))
      (find_next (row_no (.head _) 0 2 _ (by decide) (h 2 2 _ rfl) (by decide))
      (find_next (row_no (.head _) 0 2 _ (by decide) (h 2 2 _ rfl) (by decide))
      (find_here (row_yes2 (h 2 2 _ rfl) (h 25 6 _ rfl)))))) (fun _ => rfl) (fun h => no_some rfl h) (fun h => no_some rfl h)).trans
      (congrArg (fun x => Except.ok (Instr.dfma x)) (A3Form_of rfl (h 31 1 _ rfl) (h 18 7 _ rfl) (h 11 7 _ rfl) (h 4 7 _ rfl) (h 1 1 _ rfl) (h 0 1 _ rfl))))
    (plain_of_major (h 25 6 _ rfl) (by decide)) (fun p hp => ⟨defined_of_fits (and_right hw) p hp, fun h3 => by rw [show w / 2 ^ 25 % 64 = 25 from h 25 6 _ rfl] at h3; exact absurd h3 (by decide)⟩) (fun h => no_some rfl h)

theorem cvt (f : CvtForm) : Statement (.cvt f) := fun _ hw => by
  obtain ⟨w, e⟩ : ∃ w, w = 0x34000000 + f.bits := ⟨_, rfl⟩
  have h := Layout.reads (w := w) [(1, 0), (1, f.x.toNat), (3, 0), (4, f.t.toNat), (2, f.g.toNat), (7, f.a.toNat), (7, f.d.toNat), (6, 26), (1, f.c.toNat)]
    ⟨by decide, f.x.toNat_lt, by decide, f.t.isLt, f.g.isLt, f.a.isLt, f.d.isLt, by decide, f.c.toNat_lt, trivial⟩ (by rw [e]; simp only [CvtForm.bits, Layout.value]; omega)
  exact decode_encode (by rw [e]; rfl)
    ((decodeBase_of (h 25 6 _ rfl) (r := ⟨[(0, 1, 0), (2, 3, 0), (25, 6, 26)], true, false, false, fun b w => .cvt (.ofWord b w)⟩)
      (find_here (row_yes3 (h 0 1 _ rfl) (h 2 3 _ rfl) (h 25 6 _ rfl))) (fun _ => rfl) (fun h => no_some rfl h) (fun h => no_some rfl h)).trans
      (congrArg (fun x => Except.ok (Instr.cvt x)) (CvtForm_of rfl (h 31 1 _ rfl) (h 18 7 _ rfl) (h 11 7 _ rfl) (h 9 2 _ rfl) (h 5 4 _ rfl) (h 1 1 _ rfl))))
    (plain_of_major (h 25 6 _ rfl) (by decide)) (fun p hp => ⟨defined_of_fits (and_right hw) p hp, fun h3 => by rw [show w / 2 ^ 25 % 64 = 26 from h 25 6 _ rfl] at h3; exact absurd h3 (by decide)⟩) (fun h => no_some rfl h)

theorem cvts (f : CvtForm) : Statement (.cvts f) := fun _ hw => by
  obtain ⟨w, e⟩ : ∃ w, w = 0x34000004 + f.bits := ⟨_, rfl⟩
  have h := Layout.reads (w := w) [(1, 0), (1, f.x.toNat), (3, 1), (4, f.t.toNat), (2, f.g.toNat), (7, f.a.toNat), (7, f.d.toNat), (6, 26), (1, f.c.toNat)]
    ⟨by decide, f.x.toNat_lt, by decide, f.t.isLt, f.g.isLt, f.a.isLt, f.d.isLt, by decide, f.c.toNat_lt, trivial⟩ (by rw [e]; simp only [CvtForm.bits, Layout.value]; omega)
  exact decode_encode (by rw [e]; rfl)
    ((decodeBase_of (h 25 6 _ rfl) (r := ⟨[(0, 1, 0), (2, 3, 1), (25, 6, 26)], true, false, false, fun b w => .cvts (.ofWord b w)⟩)
      (find_next (row_no (.tail _ (.head _)) 0 3 _ (by decide) (h 2 3 _ rfl) (by decide))
      (find_here (row_yes3 (h 0 1 _ rfl) (h 2 3 _ rfl) (h 25 6 _ rfl)))) (fun _ => rfl) (fun h => no_some rfl h) (fun h => no_some rfl h)).trans
      (congrArg (fun x => Except.ok (Instr.cvts x)) (CvtForm_of rfl (h 31 1 _ rfl) (h 18 7 _ rfl) (h 11 7 _ rfl) (h 9 2 _ rfl) (h 5 4 _ rfl) (h 1 1 _ rfl))))
    (plain_of_major (h 25 6 _ rfl) (by decide)) (fun p hp => ⟨defined_of_fits (and_right hw) p hp, fun h3 => by rw [show w / 2 ^ 25 % 64 = 26 from h 25 6 _ rfl] at h3; exact absurd h3 (by decide)⟩) (fun h => no_some rfl h)

theorem pack (f : PackForm) : Statement (.pack f) := fun _ hw => by
  obtain ⟨w, e⟩ : ∃ w, w = 0x34000008 + f.bits := ⟨_, rfl⟩
  have h := Layout.reads (w := w) [(1, 0), (1, f.x.toNat), (2, 2), (3, f.i.toNat), (4, f.t.toNat), (7, f.a.toNat), (7, f.d.toNat), (6, 26), (1, f.c.toNat)]
    ⟨by decide, f.x.toNat_lt, by decide, f.i.isLt, f.t.isLt, f.a.isLt, f.d.isLt, by decide, f.c.toNat_lt, trivial⟩ (by rw [e]; simp only [PackForm.bits, Layout.value]; omega)
  exact decode_encode (by rw [e]; rfl)
    ((decodeBase_of (h 25 6 _ rfl) (r := ⟨[(0, 1, 0), (2, 2, 2), (25, 6, 26)], true, false, false, fun b w => .pack (.ofWord b w)⟩)
      (find_next (row_no (.tail _ (.head _)) 0 2 _ (by decide) (h 2 2 _ rfl) (by decide))
      (find_next (row_no (.tail _ (.head _)) 0 2 _ (by decide) (h 2 2 _ rfl) (by decide))
      (find_here (row_yes3 (h 0 1 _ rfl) (h 2 2 _ rfl) (h 25 6 _ rfl))))) (fun _ => rfl) (fun h => no_some rfl h) (fun h => no_some rfl h)).trans
      (congrArg (fun x => Except.ok (Instr.pack x)) (PackForm_of rfl (h 31 1 _ rfl) (h 18 7 _ rfl) (h 11 7 _ rfl) (h 7 4 _ rfl) (h 4 3 _ rfl) (h 1 1 _ rfl))))
    (plain_of_major (h 25 6 _ rfl) (by decide)) (fun p hp => ⟨defined_of_fits (and_right hw) p hp, fun h3 => by rw [show w / 2 ^ 25 % 64 = 26 from h 25 6 _ rfl] at h3; exact absurd h3 (by decide)⟩) (fun h => no_some rfl h)

theorem unpack (f : PackForm) : Statement (.unpack f) := fun _ hw => by
  obtain ⟨w, e⟩ : ∃ w, w = 0x3400000C + f.bits := ⟨_, rfl⟩
  have h := Layout.reads (w := w) [(1, 0), (1, f.x.toNat), (2, 3), (3, f.i.toNat), (4, f.t.toNat), (7, f.a.toNat), (7, f.d.toNat), (6, 26), (1, f.c.toNat)]
    ⟨by decide, f.x.toNat_lt, by decide, f.i.isLt, f.t.isLt, f.a.isLt, f.d.isLt, by decide, f.c.toNat_lt, trivial⟩ (by rw [e]; simp only [PackForm.bits, Layout.value]; omega)
  exact decode_encode (by rw [e]; rfl)
    ((decodeBase_of (h 25 6 _ rfl) (r := ⟨[(0, 1, 0), (2, 2, 3), (25, 6, 26)], true, false, false, fun b w => .unpack (.ofWord b w)⟩)
      (find_next (row_no (.tail _ (.head _)) 0 2 _ (by decide) (h 2 2 _ rfl) (by decide))
      (find_next (row_no (.tail _ (.head _)) 0 2 _ (by decide) (h 2 2 _ rfl) (by decide))
      (find_next (row_no (.tail _ (.head _)) 0 2 _ (by decide) (h 2 2 _ rfl) (by decide))
      (find_here (row_yes3 (h 0 1 _ rfl) (h 2 2 _ rfl) (h 25 6 _ rfl)))))) (fun _ => rfl) (fun h => no_some rfl h) (fun h => no_some rfl h)).trans
      (congrArg (fun x => Except.ok (Instr.unpack x)) (PackForm_of rfl (h 31 1 _ rfl) (h 18 7 _ rfl) (h 11 7 _ rfl) (h 7 4 _ rfl) (h 4 3 _ rfl) (h 1 1 _ rfl))))
    (plain_of_major (h 25 6 _ rfl) (by decide)) (fun p hp => ⟨defined_of_fits (and_right hw) p hp, fun h3 => by rw [show w / 2 ^ 25 % 64 = 26 from h 25 6 _ rfl] at h3; exact absurd h3 (by decide)⟩) (fun h => no_some rfl h)

theorem fexp2 (f : A2Form) : Statement (.fexp2 f) := fun _ hw => by
  obtain ⟨w, e⟩ : ∃ w, w = 0x36000000 + f.bits := ⟨_, rfl⟩
  have h := Layout.reads (w := w) [(1, 0), (1, f.x.toNat), (9, 0), (7, f.a.toNat), (7, f.d.toNat), (6, 27), (1, f.c.toNat)]
    ⟨by decide, f.x.toNat_lt, by decide, f.a.isLt, f.d.isLt, by decide, f.c.toNat_lt, trivial⟩ (by rw [e]; simp only [A2Form.bits, Layout.value]; omega)
  exact decode_encode (by rw [e]; rfl)
    ((decodeBase_of (h 25 6 _ rfl) (r := ⟨[(0, 1, 0), (2, 9, 0), (25, 6, 27)], true, false, false, fun b w => .fexp2 (.ofWord b w)⟩)
      (find_here (row_yes3 (h 0 1 _ rfl) (h 2 9 _ rfl) (h 25 6 _ rfl))) (fun _ => rfl) (fun h => no_some rfl h) (fun h => no_some rfl h)).trans
      (congrArg (fun x => Except.ok (Instr.fexp2 x)) (A2Form_of rfl (h 31 1 _ rfl) (h 18 7 _ rfl) (h 11 7 _ rfl) (h 1 1 _ rfl))))
    (plain_of_major (h 25 6 _ rfl) (by decide)) (fun p hp => ⟨defined_of_fits hw p hp, fun h3 => by rw [show w / 2 ^ 25 % 64 = 27 from h 25 6 _ rfl] at h3; exact absurd h3 (by decide)⟩) (fun h => no_some rfl h)

theorem flog2 (f : A2Form) : Statement (.flog2 f) := fun _ hw => by
  obtain ⟨w, e⟩ : ∃ w, w = 0x36000004 + f.bits := ⟨_, rfl⟩
  have h := Layout.reads (w := w) [(1, 0), (1, f.x.toNat), (9, 1), (7, f.a.toNat), (7, f.d.toNat), (6, 27), (1, f.c.toNat)]
    ⟨by decide, f.x.toNat_lt, by decide, f.a.isLt, f.d.isLt, by decide, f.c.toNat_lt, trivial⟩ (by rw [e]; simp only [A2Form.bits, Layout.value]; omega)
  exact decode_encode (by rw [e]; rfl)
    ((decodeBase_of (h 25 6 _ rfl) (r := ⟨[(0, 1, 0), (2, 9, 1), (25, 6, 27)], true, false, false, fun b w => .flog2 (.ofWord b w)⟩)
      (find_next (row_no (.tail _ (.head _)) 0 9 _ (by decide) (h 2 9 _ rfl) (by decide))
      (find_here (row_yes3 (h 0 1 _ rfl) (h 2 9 _ rfl) (h 25 6 _ rfl)))) (fun _ => rfl) (fun h => no_some rfl h) (fun h => no_some rfl h)).trans
      (congrArg (fun x => Except.ok (Instr.flog2 x)) (A2Form_of rfl (h 31 1 _ rfl) (h 18 7 _ rfl) (h 11 7 _ rfl) (h 1 1 _ rfl))))
    (plain_of_major (h 25 6 _ rfl) (by decide)) (fun p hp => ⟨defined_of_fits hw p hp, fun h3 => by rw [show w / 2 ^ 25 % 64 = 27 from h 25 6 _ rfl] at h3; exact absurd h3 (by decide)⟩) (fun h => no_some rfl h)

theorem fsin (f : A2Form) : Statement (.fsin f) := fun _ hw => by
  obtain ⟨w, e⟩ : ∃ w, w = 0x36000008 + f.bits := ⟨_, rfl⟩
  have h := Layout.reads (w := w) [(1, 0), (1, f.x.toNat), (9, 2), (7, f.a.toNat), (7, f.d.toNat), (6, 27), (1, f.c.toNat)]
    ⟨by decide, f.x.toNat_lt, by decide, f.a.isLt, f.d.isLt, by decide, f.c.toNat_lt, trivial⟩ (by rw [e]; simp only [A2Form.bits, Layout.value]; omega)
  exact decode_encode (by rw [e]; rfl)
    ((decodeBase_of (h 25 6 _ rfl) (r := ⟨[(0, 1, 0), (2, 9, 2), (25, 6, 27)], true, false, false, fun b w => .fsin (.ofWord b w)⟩)
      (find_next (row_no (.tail _ (.head _)) 0 9 _ (by decide) (h 2 9 _ rfl) (by decide))
      (find_next (row_no (.tail _ (.head _)) 0 9 _ (by decide) (h 2 9 _ rfl) (by decide))
      (find_here (row_yes3 (h 0 1 _ rfl) (h 2 9 _ rfl) (h 25 6 _ rfl))))) (fun _ => rfl) (fun h => no_some rfl h) (fun h => no_some rfl h)).trans
      (congrArg (fun x => Except.ok (Instr.fsin x)) (A2Form_of rfl (h 31 1 _ rfl) (h 18 7 _ rfl) (h 11 7 _ rfl) (h 1 1 _ rfl))))
    (plain_of_major (h 25 6 _ rfl) (by decide)) (fun p hp => ⟨defined_of_fits hw p hp, fun h3 => by rw [show w / 2 ^ 25 % 64 = 27 from h 25 6 _ rfl] at h3; exact absurd h3 (by decide)⟩) (fun h => no_some rfl h)

theorem fcos (f : A2Form) : Statement (.fcos f) := fun _ hw => by
  obtain ⟨w, e⟩ : ∃ w, w = 0x3600000C + f.bits := ⟨_, rfl⟩
  have h := Layout.reads (w := w) [(1, 0), (1, f.x.toNat), (9, 3), (7, f.a.toNat), (7, f.d.toNat), (6, 27), (1, f.c.toNat)]
    ⟨by decide, f.x.toNat_lt, by decide, f.a.isLt, f.d.isLt, by decide, f.c.toNat_lt, trivial⟩ (by rw [e]; simp only [A2Form.bits, Layout.value]; omega)
  exact decode_encode (by rw [e]; rfl)
    ((decodeBase_of (h 25 6 _ rfl) (r := ⟨[(0, 1, 0), (2, 9, 3), (25, 6, 27)], true, false, false, fun b w => .fcos (.ofWord b w)⟩)
      (find_next (row_no (.tail _ (.head _)) 0 9 _ (by decide) (h 2 9 _ rfl) (by decide))
      (find_next (row_no (.tail _ (.head _)) 0 9 _ (by decide) (h 2 9 _ rfl) (by decide))
      (find_next (row_no (.tail _ (.head _)) 0 9 _ (by decide) (h 2 9 _ rfl) (by decide))
      (find_here (row_yes3 (h 0 1 _ rfl) (h 2 9 _ rfl) (h 25 6 _ rfl)))))) (fun _ => rfl) (fun h => no_some rfl h) (fun h => no_some rfl h)).trans
      (congrArg (fun x => Except.ok (Instr.fcos x)) (A2Form_of rfl (h 31 1 _ rfl) (h 18 7 _ rfl) (h 11 7 _ rfl) (h 1 1 _ rfl))))
    (plain_of_major (h 25 6 _ rfl) (by decide)) (fun p hp => ⟨defined_of_fits hw p hp, fun h3 => by rw [show w / 2 ^ 25 % 64 = 27 from h 25 6 _ rfl] at h3; exact absurd h3 (by decide)⟩) (fun h => no_some rfl h)

theorem icmp (f : CmpForm) : Statement (.icmp f) := fun _ hw => by
  obtain ⟨w, e⟩ : ∃ w, w = 0x38000000 + f.bits := ⟨_, rfl⟩
  have h := Layout.reads (w := w) [(1, f.y.toNat), (1, f.x.toNat), (2, 0), (7, f.b.toNat), (7, f.a.toNat), (4, f.k.toNat), (3, f.n.toNat), (6, 28), (1, f.c.toNat)]
    ⟨f.y.toNat_lt, f.x.toNat_lt, by decide, f.b.isLt, f.a.isLt, f.k.isLt, f.n.isLt, by decide, f.c.toNat_lt, trivial⟩ (by rw [e]; simp only [CmpForm.bits, Layout.value]; omega)
  exact decode_encode (by rw [e]; rfl)
    ((decodeBase_of (h 25 6 _ rfl) (r := ⟨[(2, 2, 0), (25, 6, 28)], true, false, false, fun b w => .icmp (.ofWord b w)⟩)
      (find_here (row_yes2 (h 2 2 _ rfl) (h 25 6 _ rfl))) (fun _ => rfl) (fun h => no_some rfl h) (fun h => no_some rfl h)).trans
      (congrArg (fun x => Except.ok (Instr.icmp x)) (CmpForm_of rfl (h 31 1 _ rfl) (h 22 3 _ rfl) (h 18 4 _ rfl) (h 11 7 _ rfl) (h 4 7 _ rfl) (h 1 1 _ rfl) (h 0 1 _ rfl))))
    (plain_of_major (h 25 6 _ rfl) (by decide)) (fun p hp => ⟨defined_of_fits (and_right hw) p hp, fun h3 => by rw [show w / 2 ^ 25 % 64 = 28 from h 25 6 _ rfl] at h3; exact absurd h3 (by decide)⟩) (fun h => no_some rfl h)

theorem fcmp (f : CmpForm) : Statement (.fcmp f) := fun _ hw => by
  obtain ⟨w, e⟩ : ∃ w, w = 0x38000004 + f.bits := ⟨_, rfl⟩
  have h := Layout.reads (w := w) [(1, f.y.toNat), (1, f.x.toNat), (2, 1), (7, f.b.toNat), (7, f.a.toNat), (4, f.k.toNat), (3, f.n.toNat), (6, 28), (1, f.c.toNat)]
    ⟨f.y.toNat_lt, f.x.toNat_lt, by decide, f.b.isLt, f.a.isLt, f.k.isLt, f.n.isLt, by decide, f.c.toNat_lt, trivial⟩ (by rw [e]; simp only [CmpForm.bits, Layout.value]; omega)
  exact decode_encode (by rw [e]; rfl)
    ((decodeBase_of (h 25 6 _ rfl) (r := ⟨[(2, 2, 1), (25, 6, 28)], true, false, false, fun b w => .fcmp (.ofWord b w)⟩)
      (find_next (row_no (.head _) 0 2 _ (by decide) (h 2 2 _ rfl) (by decide))
      (find_here (row_yes2 (h 2 2 _ rfl) (h 25 6 _ rfl)))) (fun _ => rfl) (fun h => no_some rfl h) (fun h => no_some rfl h)).trans
      (congrArg (fun x => Except.ok (Instr.fcmp x)) (CmpForm_of rfl (h 31 1 _ rfl) (h 22 3 _ rfl) (h 18 4 _ rfl) (h 11 7 _ rfl) (h 4 7 _ rfl) (h 1 1 _ rfl) (h 0 1 _ rfl))))
    (plain_of_major (h 25 6 _ rfl) (by decide)) (fun p hp => ⟨defined_of_fits (and_right hw) p hp, fun h3 => by rw [show w / 2 ^ 25 % 64 = 28 from h 25 6 _ rfl] at h3; exact absurd h3 (by decide)⟩) (fun h => no_some rfl h)

theorem hcmp (f : CmpForm) : Statement (.hcmp f) := fun _ hw => by
  obtain ⟨w, e⟩ : ∃ w, w = 0x38000008 + f.bits := ⟨_, rfl⟩
  have h := Layout.reads (w := w) [(1, f.y.toNat), (1, f.x.toNat), (2, 2), (7, f.b.toNat), (7, f.a.toNat), (4, f.k.toNat), (3, f.n.toNat), (6, 28), (1, f.c.toNat)]
    ⟨f.y.toNat_lt, f.x.toNat_lt, by decide, f.b.isLt, f.a.isLt, f.k.isLt, f.n.isLt, by decide, f.c.toNat_lt, trivial⟩ (by rw [e]; simp only [CmpForm.bits, Layout.value]; omega)
  exact decode_encode (by rw [e]; rfl)
    ((decodeBase_of (h 25 6 _ rfl) (r := ⟨[(2, 2, 2), (25, 6, 28)], true, false, false, fun b w => .hcmp (.ofWord b w)⟩)
      (find_next (row_no (.head _) 0 2 _ (by decide) (h 2 2 _ rfl) (by decide))
      (find_next (row_no (.head _) 0 2 _ (by decide) (h 2 2 _ rfl) (by decide))
      (find_here (row_yes2 (h 2 2 _ rfl) (h 25 6 _ rfl))))) (fun _ => rfl) (fun h => no_some rfl h) (fun h => no_some rfl h)).trans
      (congrArg (fun x => Except.ok (Instr.hcmp x)) (CmpForm_of rfl (h 31 1 _ rfl) (h 22 3 _ rfl) (h 18 4 _ rfl) (h 11 7 _ rfl) (h 4 7 _ rfl) (h 1 1 _ rfl) (h 0 1 _ rfl))))
    (plain_of_major (h 25 6 _ rfl) (by decide)) (fun p hp => ⟨defined_of_fits (and_right hw) p hp, fun h3 => by rw [show w / 2 ^ 25 % 64 = 28 from h 25 6 _ rfl] at h3; exact absurd h3 (by decide)⟩) (fun h => no_some rfl h)

theorem dcmp (f : CmpForm) : Statement (.dcmp f) := fun _ hw => by
  obtain ⟨w, e⟩ : ∃ w, w = 0x3800000C + f.bits := ⟨_, rfl⟩
  have h := Layout.reads (w := w) [(1, f.y.toNat), (1, f.x.toNat), (2, 3), (7, f.b.toNat), (7, f.a.toNat), (4, f.k.toNat), (3, f.n.toNat), (6, 28), (1, f.c.toNat)]
    ⟨f.y.toNat_lt, f.x.toNat_lt, by decide, f.b.isLt, f.a.isLt, f.k.isLt, f.n.isLt, by decide, f.c.toNat_lt, trivial⟩ (by rw [e]; simp only [CmpForm.bits, Layout.value]; omega)
  exact decode_encode (by rw [e]; rfl)
    ((decodeBase_of (h 25 6 _ rfl) (r := ⟨[(2, 2, 3), (25, 6, 28)], true, false, false, fun b w => .dcmp (.ofWord b w)⟩)
      (find_next (row_no (.head _) 0 2 _ (by decide) (h 2 2 _ rfl) (by decide))
      (find_next (row_no (.head _) 0 2 _ (by decide) (h 2 2 _ rfl) (by decide))
      (find_next (row_no (.head _) 0 2 _ (by decide) (h 2 2 _ rfl) (by decide))
      (find_here (row_yes2 (h 2 2 _ rfl) (h 25 6 _ rfl)))))) (fun _ => rfl) (fun h => no_some rfl h) (fun h => no_some rfl h)).trans
      (congrArg (fun x => Except.ok (Instr.dcmp x)) (CmpForm_of rfl (h 31 1 _ rfl) (h 22 3 _ rfl) (h 18 4 _ rfl) (h 11 7 _ rfl) (h 4 7 _ rfl) (h 1 1 _ rfl) (h 0 1 _ rfl))))
    (plain_of_major (h 25 6 _ rfl) (by decide)) (fun p hp => ⟨defined_of_fits (and_right hw) p hp, fun h3 => by rw [show w / 2 ^ 25 % 64 = 28 from h 25 6 _ rfl] at h3; exact absurd h3 (by decide)⟩) (fun h => no_some rfl h)

theorem icmpi (f : CmpIForm) : Statement (.icmpi f) := fun _ hw => by
  obtain ⟨w, e⟩ : ∃ w, w = 0x3A000000 + f.bits := ⟨_, rfl⟩
  have h := Layout.reads (w := w) [(10, f.i.toNat), (1, f.x.toNat), (7, f.a.toNat), (4, f.k.toNat), (3, f.n.toNat), (6, 29), (1, f.c.toNat)]
    ⟨f.i.isLt, f.x.toNat_lt, f.a.isLt, f.k.isLt, f.n.isLt, by decide, f.c.toNat_lt, trivial⟩ (by rw [e]; simp only [CmpIForm.bits, Layout.value]; omega)
  exact decode_encode (by rw [e]; rfl)
    ((decodeBase_of (h 25 6 _ rfl) (r := ⟨[(25, 6, 29)], true, false, false, fun b w => .icmpi (.ofWord b w)⟩)
      (find_here (row_yes1 (h 25 6 _ rfl))) (fun _ => rfl) (fun h => no_some rfl h) (fun h => no_some rfl h)).trans
      (congrArg (fun x => Except.ok (Instr.icmpi x)) (CmpIForm_of rfl (h 31 1 _ rfl) (h 22 3 _ rfl) (h 18 4 _ rfl) (h 11 7 _ rfl) (h 10 1 _ rfl) (h 0 10 _ rfl))))
    (plain_of_major (h 25 6 _ rfl) (by decide)) (fun p hp => ⟨defined_of_fits (and_right hw) p hp, fun h3 => by rw [show w / 2 ^ 25 % 64 = 29 from h 25 6 _ rfl] at h3; exact absurd h3 (by decide)⟩) (fun h => no_some rfl h)

theorem pand (f : P3Form) : Statement (.pand f) := fun _ hw => by
  obtain ⟨w, e⟩ : ∃ w, w = 0x3C000000 + f.bits := ⟨_, rfl⟩
  have h := Layout.reads (w := w) [(4, 0), (4, f.b.toNat), (3, 0), (4, f.a.toNat), (3, 0), (4, f.d.toNat), (3, 0), (6, 30), (1, f.c.toNat)]
    ⟨by decide, f.b.isLt, by decide, f.a.isLt, by decide, f.d.isLt, by decide, by decide, f.c.toNat_lt, trivial⟩ (by rw [e]; simp only [P3Form.bits, Layout.value]; omega)
  have h1 := Layout.reads (w := w) [(4, 0), (4, f.b.toNat), (3, 0), (4, f.a.toNat), (3, 0), (4, f.d.toNat), (9, 240), (1, f.c.toNat)]
    ⟨by decide, f.b.isLt, by decide, f.a.isLt, by decide, f.d.isLt, by decide, f.c.toNat_lt, trivial⟩ (by rw [e]; simp only [P3Form.bits, Layout.value]; omega)
  exact decode_encode (by rw [e]; rfl)
    ((decodeBase_of (h 25 6 _ rfl) (r := ⟨[(0, 4, 0), (8, 3, 0), (15, 3, 0), (22, 9, 240)], true, false, false, fun b w => .pand (.ofWord b w)⟩)
      (find_here (row_yes4 (h 0 4 _ rfl) (h 8 3 _ rfl) (h 15 3 _ rfl) (h1 22 9 _ rfl))) (fun _ => rfl) (fun h => no_some rfl h) (fun h => no_some rfl h)).trans
      (congrArg (fun x => Except.ok (Instr.pand x)) (P3Form_of rfl (h 31 1 _ rfl) (h 18 4 _ rfl) (h 11 4 _ rfl) (h 4 4 _ rfl))))
    (plain_of_major (h 25 6 _ rfl) (by decide)) (fun p hp => ⟨defined_of_fits hw p hp, fun h3 => by rw [show w / 2 ^ 25 % 64 = 30 from h 25 6 _ rfl] at h3; exact absurd h3 (by decide)⟩) (fun h => no_some rfl h)

theorem por (f : P3Form) : Statement (.por f) := fun _ hw => by
  obtain ⟨w, e⟩ : ∃ w, w = 0x3C000004 + f.bits := ⟨_, rfl⟩
  have h := Layout.reads (w := w) [(4, 4), (4, f.b.toNat), (3, 0), (4, f.a.toNat), (3, 0), (4, f.d.toNat), (3, 0), (6, 30), (1, f.c.toNat)]
    ⟨by decide, f.b.isLt, by decide, f.a.isLt, by decide, f.d.isLt, by decide, by decide, f.c.toNat_lt, trivial⟩ (by rw [e]; simp only [P3Form.bits, Layout.value]; omega)
  have h1 := Layout.reads (w := w) [(4, 4), (4, f.b.toNat), (3, 0), (4, f.a.toNat), (3, 0), (4, f.d.toNat), (9, 240), (1, f.c.toNat)]
    ⟨by decide, f.b.isLt, by decide, f.a.isLt, by decide, f.d.isLt, by decide, f.c.toNat_lt, trivial⟩ (by rw [e]; simp only [P3Form.bits, Layout.value]; omega)
  exact decode_encode (by rw [e]; rfl)
    ((decodeBase_of (h 25 6 _ rfl) (r := ⟨[(0, 4, 4), (8, 3, 0), (15, 3, 0), (22, 9, 240)], true, false, false, fun b w => .por (.ofWord b w)⟩)
      (find_next (row_no (.head _) 0 4 _ (by decide) (h 0 4 _ rfl) (by decide))
      (find_here (row_yes4 (h 0 4 _ rfl) (h 8 3 _ rfl) (h 15 3 _ rfl) (h1 22 9 _ rfl)))) (fun _ => rfl) (fun h => no_some rfl h) (fun h => no_some rfl h)).trans
      (congrArg (fun x => Except.ok (Instr.por x)) (P3Form_of rfl (h 31 1 _ rfl) (h 18 4 _ rfl) (h 11 4 _ rfl) (h 4 4 _ rfl))))
    (plain_of_major (h 25 6 _ rfl) (by decide)) (fun p hp => ⟨defined_of_fits hw p hp, fun h3 => by rw [show w / 2 ^ 25 % 64 = 30 from h 25 6 _ rfl] at h3; exact absurd h3 (by decide)⟩) (fun h => no_some rfl h)

theorem pxor (f : P3Form) : Statement (.pxor f) := fun _ hw => by
  obtain ⟨w, e⟩ : ∃ w, w = 0x3C000008 + f.bits := ⟨_, rfl⟩
  have h := Layout.reads (w := w) [(4, 8), (4, f.b.toNat), (3, 0), (4, f.a.toNat), (3, 0), (4, f.d.toNat), (3, 0), (6, 30), (1, f.c.toNat)]
    ⟨by decide, f.b.isLt, by decide, f.a.isLt, by decide, f.d.isLt, by decide, by decide, f.c.toNat_lt, trivial⟩ (by rw [e]; simp only [P3Form.bits, Layout.value]; omega)
  have h1 := Layout.reads (w := w) [(4, 8), (4, f.b.toNat), (3, 0), (4, f.a.toNat), (3, 0), (4, f.d.toNat), (9, 240), (1, f.c.toNat)]
    ⟨by decide, f.b.isLt, by decide, f.a.isLt, by decide, f.d.isLt, by decide, f.c.toNat_lt, trivial⟩ (by rw [e]; simp only [P3Form.bits, Layout.value]; omega)
  exact decode_encode (by rw [e]; rfl)
    ((decodeBase_of (h 25 6 _ rfl) (r := ⟨[(0, 4, 8), (8, 3, 0), (15, 3, 0), (22, 9, 240)], true, false, false, fun b w => .pxor (.ofWord b w)⟩)
      (find_next (row_no (.head _) 0 4 _ (by decide) (h 0 4 _ rfl) (by decide))
      (find_next (row_no (.head _) 0 4 _ (by decide) (h 0 4 _ rfl) (by decide))
      (find_here (row_yes4 (h 0 4 _ rfl) (h 8 3 _ rfl) (h 15 3 _ rfl) (h1 22 9 _ rfl))))) (fun _ => rfl) (fun h => no_some rfl h) (fun h => no_some rfl h)).trans
      (congrArg (fun x => Except.ok (Instr.pxor x)) (P3Form_of rfl (h 31 1 _ rfl) (h 18 4 _ rfl) (h 11 4 _ rfl) (h 4 4 _ rfl))))
    (plain_of_major (h 25 6 _ rfl) (by decide)) (fun p hp => ⟨defined_of_fits hw p hp, fun h3 => by rw [show w / 2 ^ 25 % 64 = 30 from h 25 6 _ rfl] at h3; exact absurd h3 (by decide)⟩) (fun h => no_some rfl h)

theorem pandn (f : P3Form) : Statement (.pandn f) := fun _ hw => by
  obtain ⟨w, e⟩ : ∃ w, w = 0x3C00000C + f.bits := ⟨_, rfl⟩
  have h := Layout.reads (w := w) [(4, 12), (4, f.b.toNat), (3, 0), (4, f.a.toNat), (3, 0), (4, f.d.toNat), (3, 0), (6, 30), (1, f.c.toNat)]
    ⟨by decide, f.b.isLt, by decide, f.a.isLt, by decide, f.d.isLt, by decide, by decide, f.c.toNat_lt, trivial⟩ (by rw [e]; simp only [P3Form.bits, Layout.value]; omega)
  have h1 := Layout.reads (w := w) [(4, 12), (4, f.b.toNat), (3, 0), (4, f.a.toNat), (3, 0), (4, f.d.toNat), (9, 240), (1, f.c.toNat)]
    ⟨by decide, f.b.isLt, by decide, f.a.isLt, by decide, f.d.isLt, by decide, f.c.toNat_lt, trivial⟩ (by rw [e]; simp only [P3Form.bits, Layout.value]; omega)
  exact decode_encode (by rw [e]; rfl)
    ((decodeBase_of (h 25 6 _ rfl) (r := ⟨[(0, 4, 12), (8, 3, 0), (15, 3, 0), (22, 9, 240)], true, false, false, fun b w => .pandn (.ofWord b w)⟩)
      (find_next (row_no (.head _) 0 4 _ (by decide) (h 0 4 _ rfl) (by decide))
      (find_next (row_no (.head _) 0 4 _ (by decide) (h 0 4 _ rfl) (by decide))
      (find_next (row_no (.head _) 0 4 _ (by decide) (h 0 4 _ rfl) (by decide))
      (find_here (row_yes4 (h 0 4 _ rfl) (h 8 3 _ rfl) (h 15 3 _ rfl) (h1 22 9 _ rfl)))))) (fun _ => rfl) (fun h => no_some rfl h) (fun h => no_some rfl h)).trans
      (congrArg (fun x => Except.ok (Instr.pandn x)) (P3Form_of rfl (h 31 1 _ rfl) (h 18 4 _ rfl) (h 11 4 _ rfl) (h 4 4 _ rfl))))
    (plain_of_major (h 25 6 _ rfl) (by decide)) (fun p hp => ⟨defined_of_fits hw p hp, fun h3 => by rw [show w / 2 ^ 25 % 64 = 30 from h 25 6 _ rfl] at h3; exact absurd h3 (by decide)⟩) (fun h => no_some rfl h)

theorem sel (f : A3Form) : Statement (.sel f) := fun _ hw => by
  obtain ⟨w, e⟩ : ∃ w, w = 0x3E000000 + f.bits := ⟨_, rfl⟩
  have h := Layout.reads (w := w) [(1, f.y.toNat), (1, f.x.toNat), (2, 0), (7, f.b.toNat), (7, f.a.toNat), (7, f.d.toNat), (6, 31), (1, f.c.toNat)]
    ⟨f.y.toNat_lt, f.x.toNat_lt, by decide, f.b.isLt, f.a.isLt, f.d.isLt, by decide, f.c.toNat_lt, trivial⟩ (by rw [e]; simp only [A3Form.bits, Layout.value]; omega)
  exact decode_encode (by rw [e]; rfl)
    ((decodeBase_of (h 25 6 _ rfl) (r := ⟨[(2, 2, 0), (25, 6, 31)], true, false, false, fun b w => .sel (.ofWord b w)⟩)
      (find_here (row_yes2 (h 2 2 _ rfl) (h 25 6 _ rfl))) (fun _ => rfl) (fun h => no_some rfl h) (fun h => no_some rfl h)).trans
      (congrArg (fun x => Except.ok (Instr.sel x)) (A3Form_of rfl (h 31 1 _ rfl) (h 18 7 _ rfl) (h 11 7 _ rfl) (h 4 7 _ rfl) (h 1 1 _ rfl) (h 0 1 _ rfl))))
    (plain_of_major (h 25 6 _ rfl) (by decide)) (fun p hp => ⟨defined_of_fits hw p hp, fun h3 => by rw [show w / 2 ^ 25 % 64 = 31 from h 25 6 _ rfl] at h3; exact absurd h3 (by decide)⟩) (fun h => no_some rfl h)

theorem ktov (f : KtovForm) : Statement (.ktov f) := fun _ hw => by
  obtain ⟨w, e⟩ : ∃ w, w = 0x3E000004 + f.bits := ⟨_, rfl⟩
  have h := Layout.reads (w := w) [(11, 4), (4, f.a.toNat), (3, 0), (7, f.d.toNat), (6, 31), (1, f.c.toNat)]
    ⟨by decide, f.a.isLt, by decide, f.d.isLt, by decide, f.c.toNat_lt, trivial⟩ (by rw [e]; simp only [KtovForm.bits, Layout.value]; omega)
  have h1 := Layout.reads (w := w) [(2, 0), (2, 1), (7, 0), (4, f.a.toNat), (3, 0), (7, f.d.toNat), (6, 31), (1, f.c.toNat)]
    ⟨by decide, by decide, by decide, f.a.isLt, by decide, f.d.isLt, by decide, f.c.toNat_lt, trivial⟩ (by rw [e]; simp only [KtovForm.bits, Layout.value]; omega)
  exact decode_encode (by rw [e]; rfl)
    ((decodeBase_of (h 25 6 _ rfl) (r := ⟨[(0, 11, 4), (15, 3, 0), (25, 6, 31)], true, false, false, fun b w => .ktov (.ofWord b w)⟩)
      (find_next (row_no (.head _) 0 2 _ (by decide) (h1 2 2 _ rfl) (by decide))
      (find_here (row_yes3 (h 0 11 _ rfl) (h 15 3 _ rfl) (h 25 6 _ rfl)))) (fun _ => rfl) (fun h => no_some rfl h) (fun h => no_some rfl h)).trans
      (congrArg (fun x => Except.ok (Instr.ktov x)) (KtovForm_of rfl (h 31 1 _ rfl) (h 18 7 _ rfl) (h 11 4 _ rfl))))
    (plain_of_major (h 25 6 _ rfl) (by decide)) (fun p hp => ⟨defined_of_fits hw p hp, fun h3 => by rw [show w / 2 ^ 25 % 64 = 31 from h 25 6 _ rfl] at h3; exact absurd h3 (by decide)⟩) (fun h => no_some rfl h)

theorem vtok (f : VtokForm) : Statement (.vtok f) := fun _ hw => by
  obtain ⟨w, e⟩ : ∃ w, w = 0x3E000008 + f.bits := ⟨_, rfl⟩
  have h := Layout.reads (w := w) [(1, 0), (1, f.x.toNat), (9, 2), (7, f.a.toNat), (4, f.d.toNat), (3, 0), (6, 31), (1, f.c.toNat)]
    ⟨by decide, f.x.toNat_lt, by decide, f.a.isLt, f.d.isLt, by decide, by decide, f.c.toNat_lt, trivial⟩ (by rw [e]; simp only [VtokForm.bits, Layout.value]; omega)
  have h1 := Layout.reads (w := w) [(1, 0), (1, f.x.toNat), (2, 2), (7, 0), (7, f.a.toNat), (4, f.d.toNat), (9, 248), (1, f.c.toNat)]
    ⟨by decide, f.x.toNat_lt, by decide, by decide, f.a.isLt, f.d.isLt, by decide, f.c.toNat_lt, trivial⟩ (by rw [e]; simp only [VtokForm.bits, Layout.value]; omega)
  exact decode_encode (by rw [e]; rfl)
    ((decodeBase_of (h 25 6 _ rfl) (r := ⟨[(0, 1, 0), (2, 9, 2), (22, 9, 248)], true, false, false, fun b w => .vtok (.ofWord b w)⟩)
      (find_next (row_no (.head _) 0 2 _ (by decide) (h1 2 2 _ rfl) (by decide))
      (find_next (row_no (.head _) 2 9 _ (by decide) (h 2 9 _ rfl) (by decide))
      (find_here (row_yes3 (h 0 1 _ rfl) (h 2 9 _ rfl) (h1 22 9 _ rfl))))) (fun _ => rfl) (fun h => no_some rfl h) (fun h => no_some rfl h)).trans
      (congrArg (fun x => Except.ok (Instr.vtok x)) (VtokForm_of rfl (h 31 1 _ rfl) (h 18 4 _ rfl) (h 11 7 _ rfl) (h 1 1 _ rfl))))
    (plain_of_major (h 25 6 _ rfl) (by decide)) (fun p hp => ⟨defined_of_fits hw p hp, fun h3 => by rw [show w / 2 ^ 25 % 64 = 31 from h 25 6 _ rfl] at h3; exact absurd h3 (by decide)⟩) (fun h => no_some rfl h)

theorem ld (f : MemForm) : Statement (.ld f) := fun _ hw => by
  obtain ⟨w, e⟩ : ∃ w, w = 0x40000000 + f.bits := ⟨_, rfl⟩
  have h := Layout.reads (w := w) [(8, f.o.toNat), (2, f.sz.toNat % 4), (1, f.y.toNat), (7, f.b.toNat), (7, f.d.toNat), (1, f.sz.toNat / 4), (5, 16), (1, f.c.toNat)]
    ⟨f.o.isLt, Nat.mod_lt _ (by decide), f.y.toNat_lt, f.b.isLt, f.d.isLt, by have := f.sz.isLt; omega, by decide, f.c.toNat_lt, trivial⟩
    (by rw [e]; simp only [MemForm.bits, Layout.value]; omega)
  have hm : ∀ v, f.sz.toNat / 4 = v → w / 2 ^ 25 % 2 ^ 6 = 32 + v := by
    rintro v rfl
    have h2 := Layout.reads (w := w) [(8, f.o.toNat), (2, f.sz.toNat % 4), (1, f.y.toNat), (7, f.b.toNat), (7, f.d.toNat), (6, 32 + f.sz.toNat / 4), (1, f.c.toNat)]
      ⟨f.o.isLt, Nat.mod_lt _ (by decide), f.y.toNat_lt, f.b.isLt, f.d.isLt, by have := f.sz.isLt; omega, f.c.toNat_lt, trivial⟩
      (by rw [e]; simp only [MemForm.bits, Layout.value]; omega)
    exact h2 25 6 _ rfl
  have ho := MemForm_of (f := f) (b := ⟨f.pfx, none, none⟩) rfl (h 25 1 _ rfl) (h 8 2 _ rfl) (h 31 1 _ rfl) (h 18 7 _ rfl) (h 11 7 _ rfl) (h 10 1 _ rfl) (h 0 8 _ rfl)
  rcases (show f.sz.toNat / 4 = 0 ∨ f.sz.toNat / 4 = 1 by have := f.sz.isLt; omega) with hv | hv
  · have h6 := hm 0 hv
    exact decode_encode (by rw [e]; rfl) ((decodeBase_of h6 (r := ⟨[(26, 5, 16)], true, false, false, fun b w => .ld (.ofWord b w)⟩) (find_here (row_yes1 (h 26 5 _ rfl))) (fun _ => rfl) (fun h => no_some rfl h) (fun h => no_some rfl h)).trans
        (congrArg (fun x => Except.ok (Instr.ld x)) ho))
      (plain_of_major h6 (by decide)) (fun p hp => ⟨defined_of_fits (and_right hw) p hp, fun h3 => by rw [show w / 2 ^ 25 % 64 = 32 from h6] at h3; exact absurd h3 (by decide)⟩) (fun h => no_some rfl h)
  · have h6 := hm 1 hv
    exact decode_encode (by rw [e]; rfl) ((decodeBase_of h6 (r := ⟨[(26, 5, 16)], true, false, false, fun b w => .ld (.ofWord b w)⟩) (find_here (row_yes1 (h 26 5 _ rfl))) (fun _ => rfl) (fun h => no_some rfl h) (fun h => no_some rfl h)).trans
        (congrArg (fun x => Except.ok (Instr.ld x)) ho))
      (plain_of_major h6 (by decide)) (fun p hp => ⟨defined_of_fits (and_right hw) p hp, fun h3 => by rw [show w / 2 ^ 25 % 64 = 33 from h6] at h3; exact absurd h3 (by decide)⟩) (fun h => no_some rfl h)

theorem st (f : MemForm) : Statement (.st f) := fun _ hw => by
  obtain ⟨w, e⟩ : ∃ w, w = 0x44000000 + f.bits := ⟨_, rfl⟩
  have h := Layout.reads (w := w) [(8, f.o.toNat), (2, f.sz.toNat % 4), (1, f.y.toNat), (7, f.b.toNat), (7, f.d.toNat), (1, f.sz.toNat / 4), (5, 17), (1, f.c.toNat)]
    ⟨f.o.isLt, Nat.mod_lt _ (by decide), f.y.toNat_lt, f.b.isLt, f.d.isLt, by have := f.sz.isLt; omega, by decide, f.c.toNat_lt, trivial⟩
    (by rw [e]; simp only [MemForm.bits, Layout.value]; omega)
  have hm : ∀ v, f.sz.toNat / 4 = v → w / 2 ^ 25 % 2 ^ 6 = 34 + v := by
    rintro v rfl
    have h2 := Layout.reads (w := w) [(8, f.o.toNat), (2, f.sz.toNat % 4), (1, f.y.toNat), (7, f.b.toNat), (7, f.d.toNat), (6, 34 + f.sz.toNat / 4), (1, f.c.toNat)]
      ⟨f.o.isLt, Nat.mod_lt _ (by decide), f.y.toNat_lt, f.b.isLt, f.d.isLt, by have := f.sz.isLt; omega, f.c.toNat_lt, trivial⟩
      (by rw [e]; simp only [MemForm.bits, Layout.value]; omega)
    exact h2 25 6 _ rfl
  have ho := MemForm_of (f := f) (b := ⟨f.pfx, none, none⟩) rfl (h 25 1 _ rfl) (h 8 2 _ rfl) (h 31 1 _ rfl) (h 18 7 _ rfl) (h 11 7 _ rfl) (h 10 1 _ rfl) (h 0 8 _ rfl)
  rcases (show f.sz.toNat / 4 = 0 ∨ f.sz.toNat / 4 = 1 by have := f.sz.isLt; omega) with hv | hv
  · have h6 := hm 0 hv
    exact decode_encode (by rw [e]; rfl) ((decodeBase_of h6 (r := ⟨[(26, 5, 17)], true, false, false, fun b w => .st (.ofWord b w)⟩) (find_here (row_yes1 (h 26 5 _ rfl))) (fun _ => rfl) (fun h => no_some rfl h) (fun h => no_some rfl h)).trans
        (congrArg (fun x => Except.ok (Instr.st x)) ho))
      (plain_of_major h6 (by decide)) (fun p hp => ⟨defined_of_fits (and_right hw) p hp, fun h3 => by rw [show w / 2 ^ 25 % 64 = 34 from h6] at h3; exact absurd h3 (by decide)⟩) (fun h => no_some rfl h)
  · have h6 := hm 1 hv
    exact decode_encode (by rw [e]; rfl) ((decodeBase_of h6 (r := ⟨[(26, 5, 17)], true, false, false, fun b w => .st (.ofWord b w)⟩) (find_here (row_yes1 (h 26 5 _ rfl))) (fun _ => rfl) (fun h => no_some rfl h) (fun h => no_some rfl h)).trans
        (congrArg (fun x => Except.ok (Instr.st x)) ho))
      (plain_of_major h6 (by decide)) (fun p hp => ⟨defined_of_fits (and_right hw) p hp, fun h3 => by rw [show w / 2 ^ 25 % 64 = 35 from h6] at h3; exact absurd h3 (by decide)⟩) (fun h => no_some rfl h)

theorem ldAcq (f : MemOForm) : Statement (.ldAcq f) := fun _ hw => by
  obtain ⟨w, e⟩ : ∃ w, w = 0x48000000 + f.bits := ⟨_, rfl⟩
  have h := Layout.reads (w := w) [(3, f.p.toNat), (5, 0), (2, f.sz.toNat % 4), (1, f.y.toNat), (7, f.b.toNat), (7, f.d.toNat), (1, f.sz.toNat / 4), (5, 18), (1, f.c.toNat)]
    ⟨f.p.isLt, by decide, Nat.mod_lt _ (by decide), f.y.toNat_lt, f.b.isLt, f.d.isLt, by have := f.sz.isLt; omega, by decide, f.c.toNat_lt, trivial⟩
    (by rw [e]; simp only [MemOForm.bits, Layout.value]; omega)
  have hm : ∀ v, f.sz.toNat / 4 = v → w / 2 ^ 25 % 2 ^ 6 = 36 + v := by
    rintro v rfl
    have h2 := Layout.reads (w := w) [(3, f.p.toNat), (5, 0), (2, f.sz.toNat % 4), (1, f.y.toNat), (7, f.b.toNat), (7, f.d.toNat), (6, 36 + f.sz.toNat / 4), (1, f.c.toNat)]
      ⟨f.p.isLt, by decide, Nat.mod_lt _ (by decide), f.y.toNat_lt, f.b.isLt, f.d.isLt, by have := f.sz.isLt; omega, f.c.toNat_lt, trivial⟩
      (by rw [e]; simp only [MemOForm.bits, Layout.value]; omega)
    exact h2 25 6 _ rfl
  have ho := MemOForm_of (f := f) (b := ⟨f.pfx, none, none⟩) rfl (h 25 1 _ rfl) (h 8 2 _ rfl) (h 31 1 _ rfl) (h 18 7 _ rfl) (h 11 7 _ rfl) (h 10 1 _ rfl) (h 0 3 _ rfl)
  rcases (show f.sz.toNat / 4 = 0 ∨ f.sz.toNat / 4 = 1 by have := f.sz.isLt; omega) with hv | hv
  · have h6 := hm 0 hv
    exact decode_encode (by rw [e]; rfl) ((decodeBase_of h6 (r := ⟨[(3, 5, 0), (26, 5, 18)], true, false, false, fun b w => .ldAcq (.ofWord b w)⟩) (find_here (row_yes2 (h 3 5 _ rfl) (h 26 5 _ rfl))) (fun _ => rfl) (fun h => no_some rfl h) (fun h => no_some rfl h)).trans
        (congrArg (fun x => Except.ok (Instr.ldAcq x)) ho))
      (plain_of_major h6 (by decide)) (fun p hp => ⟨defined_of_fits (and_right hw) p hp, fun h3 => by rw [show w / 2 ^ 25 % 64 = 36 from h6] at h3; exact absurd h3 (by decide)⟩) (fun h => no_some rfl h)
  · have h6 := hm 1 hv
    exact decode_encode (by rw [e]; rfl) ((decodeBase_of h6 (r := ⟨[(3, 5, 0), (26, 5, 18)], true, false, false, fun b w => .ldAcq (.ofWord b w)⟩) (find_here (row_yes2 (h 3 5 _ rfl) (h 26 5 _ rfl))) (fun _ => rfl) (fun h => no_some rfl h) (fun h => no_some rfl h)).trans
        (congrArg (fun x => Except.ok (Instr.ldAcq x)) ho))
      (plain_of_major h6 (by decide)) (fun p hp => ⟨defined_of_fits (and_right hw) p hp, fun h3 => by rw [show w / 2 ^ 25 % 64 = 37 from h6] at h3; exact absurd h3 (by decide)⟩) (fun h => no_some rfl h)

theorem stRel (f : MemOForm) : Statement (.stRel f) := fun _ hw => by
  obtain ⟨w, e⟩ : ∃ w, w = 0x48000020 + f.bits := ⟨_, rfl⟩
  have h := Layout.reads (w := w) [(3, f.p.toNat), (5, 4), (2, f.sz.toNat % 4), (1, f.y.toNat), (7, f.b.toNat), (7, f.d.toNat), (1, f.sz.toNat / 4), (5, 18), (1, f.c.toNat)]
    ⟨f.p.isLt, by decide, Nat.mod_lt _ (by decide), f.y.toNat_lt, f.b.isLt, f.d.isLt, by have := f.sz.isLt; omega, by decide, f.c.toNat_lt, trivial⟩
    (by rw [e]; simp only [MemOForm.bits, Layout.value]; omega)
  have hm : ∀ v, f.sz.toNat / 4 = v → w / 2 ^ 25 % 2 ^ 6 = 36 + v := by
    rintro v rfl
    have h2 := Layout.reads (w := w) [(3, f.p.toNat), (5, 4), (2, f.sz.toNat % 4), (1, f.y.toNat), (7, f.b.toNat), (7, f.d.toNat), (6, 36 + f.sz.toNat / 4), (1, f.c.toNat)]
      ⟨f.p.isLt, by decide, Nat.mod_lt _ (by decide), f.y.toNat_lt, f.b.isLt, f.d.isLt, by have := f.sz.isLt; omega, f.c.toNat_lt, trivial⟩
      (by rw [e]; simp only [MemOForm.bits, Layout.value]; omega)
    exact h2 25 6 _ rfl
  have ho := MemOForm_of (f := f) (b := ⟨f.pfx, none, none⟩) rfl (h 25 1 _ rfl) (h 8 2 _ rfl) (h 31 1 _ rfl) (h 18 7 _ rfl) (h 11 7 _ rfl) (h 10 1 _ rfl) (h 0 3 _ rfl)
  rcases (show f.sz.toNat / 4 = 0 ∨ f.sz.toNat / 4 = 1 by have := f.sz.isLt; omega) with hv | hv
  · have h6 := hm 0 hv
    exact decode_encode (by rw [e]; rfl) ((decodeBase_of h6 (r := ⟨[(3, 5, 4), (26, 5, 18)], true, false, false, fun b w => .stRel (.ofWord b w)⟩) (find_next (row_no (.head _) 0 5 _ (by decide) (h 3 5 _ rfl) (by decide)) (find_here (row_yes2 (h 3 5 _ rfl) (h 26 5 _ rfl)))) (fun _ => rfl) (fun h => no_some rfl h) (fun h => no_some rfl h)).trans
        (congrArg (fun x => Except.ok (Instr.stRel x)) ho))
      (plain_of_major h6 (by decide)) (fun p hp => ⟨defined_of_fits (and_right hw) p hp, fun h3 => by rw [show w / 2 ^ 25 % 64 = 36 from h6] at h3; exact absurd h3 (by decide)⟩) (fun h => no_some rfl h)
  · have h6 := hm 1 hv
    exact decode_encode (by rw [e]; rfl) ((decodeBase_of h6 (r := ⟨[(3, 5, 4), (26, 5, 18)], true, false, false, fun b w => .stRel (.ofWord b w)⟩) (find_next (row_no (.head _) 0 5 _ (by decide) (h 3 5 _ rfl) (by decide)) (find_here (row_yes2 (h 3 5 _ rfl) (h 26 5 _ rfl)))) (fun _ => rfl) (fun h => no_some rfl h) (fun h => no_some rfl h)).trans
        (congrArg (fun x => Except.ok (Instr.stRel x)) ho))
      (plain_of_major h6 (by decide)) (fun p hp => ⟨defined_of_fits (and_right hw) p hp, fun h3 => by rw [show w / 2 ^ 25 % 64 = 37 from h6] at h3; exact absurd h3 (by decide)⟩) (fun h => no_some rfl h)

theorem waitv (f : WaitvForm) : Statement (.waitv f) := fun _ hw => by
  obtain ⟨w, e⟩ : ∃ w, w = 0x4A000040 + f.bits := ⟨_, rfl⟩
  have h := Layout.reads (w := w) [(10, 64), (1, f.y.toNat), (7, f.b.toNat), (7, f.d.toNat), (6, 37), (1, f.c.toNat)]
    ⟨by decide, f.y.toNat_lt, f.b.isLt, f.d.isLt, by decide, f.c.toNat_lt, trivial⟩ (by rw [e]; simp only [WaitvForm.bits, Layout.value]; omega)
  have h1 := Layout.reads (w := w) [(3, 0), (5, 8), (2, 0), (1, f.y.toNat), (7, f.b.toNat), (7, f.d.toNat), (6, 37), (1, f.c.toNat)]
    ⟨by decide, by decide, by decide, f.y.toNat_lt, f.b.isLt, f.d.isLt, by decide, f.c.toNat_lt, trivial⟩ (by rw [e]; simp only [WaitvForm.bits, Layout.value]; omega)
  exact decode_encode (by rw [e]; rfl)
    ((decodeBase_of (h 25 6 _ rfl) (r := ⟨[(0, 10, 64), (25, 6, 37)], true, false, false, fun b w => .waitv (.ofWord b w)⟩)
      (find_next (row_no (.head _) 0 5 _ (by decide) (h1 3 5 _ rfl) (by decide))
      (find_next (row_no (.head _) 0 5 _ (by decide) (h1 3 5 _ rfl) (by decide))
      (find_here (row_yes2 (h 0 10 _ rfl) (h 25 6 _ rfl))))) (fun _ => rfl) (fun h => no_some rfl h) (fun h => no_some rfl h)).trans
      (congrArg (fun x => Except.ok (Instr.waitv x)) (WaitvForm_of rfl (h 31 1 _ rfl) (h 18 7 _ rfl) (h 11 7 _ rfl) (h 10 1 _ rfl))))
    (plain_of_major (h 25 6 _ rfl) (by decide)) (fun p hp => ⟨defined_of_fits hw p hp, fun h3 => by rw [show w / 2 ^ 25 % 64 = 37 from h 25 6 _ rfl] at h3; exact absurd h3 (by decide)⟩) (fun h => no_some rfl h)

theorem atomAdd (f : A3Form) : Statement (.atomAdd f) := fun _ hw => by
  obtain ⟨w, e⟩ : ∃ w, w = 0x4C000000 + f.bits := ⟨_, rfl⟩
  have h := Layout.reads (w := w) [(1, f.y.toNat), (1, f.x.toNat), (2, 0), (7, f.b.toNat), (7, f.a.toNat), (7, f.d.toNat), (6, 38), (1, f.c.toNat)]
    ⟨f.y.toNat_lt, f.x.toNat_lt, by decide, f.b.isLt, f.a.isLt, f.d.isLt, by decide, f.c.toNat_lt, trivial⟩ (by rw [e]; simp only [A3Form.bits, Layout.value]; omega)
  exact decode_encode (by rw [e]; rfl)
    ((decodeBase_of (h 25 6 _ rfl) (r := ⟨[(2, 2, 0), (25, 6, 38)], true, false, false, fun b w => if noRet b w then .redAdd (.ofWord b w) else .atomAdd (.ofWord b w)⟩)
      (find_here (row_yes2 (h 2 2 _ rfl) (h 25 6 _ rfl))) (fun _ => rfl) (fun h => no_some rfl h) (fun h => no_some rfl h)).trans
      (congrArg Except.ok ((if_neg (fun hn => Bool.false_ne_true ((noRet_false (b := ⟨f.pfx, none, none⟩) (w := w) (show atomicFits f.pfx false [0] = true from hw)).symm.trans hn))).trans (congrArg Instr.atomAdd (A3Form_of rfl (h 31 1 _ rfl) (h 18 7 _ rfl) (h 11 7 _ rfl) (h 4 7 _ rfl) (h 1 1 _ rfl) (h 0 1 _ rfl))))))
    (plain_of_major (h 25 6 _ rfl) (by decide)) (fun p hp => ⟨defined_of_atomic hw p hp, fun h3 => by rw [show w / 2 ^ 25 % 64 = 38 from h 25 6 _ rfl] at h3; exact absurd h3 (by decide)⟩) (fun h => no_some rfl h)

theorem atomMin (f : A3Form) : Statement (.atomMin f) := fun _ hw => by
  obtain ⟨w, e⟩ : ∃ w, w = 0x4C000004 + f.bits := ⟨_, rfl⟩
  have h := Layout.reads (w := w) [(1, f.y.toNat), (1, f.x.toNat), (2, 1), (7, f.b.toNat), (7, f.a.toNat), (7, f.d.toNat), (6, 38), (1, f.c.toNat)]
    ⟨f.y.toNat_lt, f.x.toNat_lt, by decide, f.b.isLt, f.a.isLt, f.d.isLt, by decide, f.c.toNat_lt, trivial⟩ (by rw [e]; simp only [A3Form.bits, Layout.value]; omega)
  exact decode_encode (by rw [e]; rfl)
    ((decodeBase_of (h 25 6 _ rfl) (r := ⟨[(2, 2, 1), (25, 6, 38)], true, false, false, fun b w => if noRet b w then .redMin (.ofWord b w) else .atomMin (.ofWord b w)⟩)
      (find_next (row_no (.head _) 0 2 _ (by decide) (h 2 2 _ rfl) (by decide))
      (find_here (row_yes2 (h 2 2 _ rfl) (h 25 6 _ rfl)))) (fun _ => rfl) (fun h => no_some rfl h) (fun h => no_some rfl h)).trans
      (congrArg Except.ok ((if_neg (fun hn => Bool.false_ne_true ((noRet_false (b := ⟨f.pfx, none, none⟩) (w := w) (show atomicFits f.pfx false [0, 1] = true from hw)).symm.trans hn))).trans (congrArg Instr.atomMin (A3Form_of rfl (h 31 1 _ rfl) (h 18 7 _ rfl) (h 11 7 _ rfl) (h 4 7 _ rfl) (h 1 1 _ rfl) (h 0 1 _ rfl))))))
    (plain_of_major (h 25 6 _ rfl) (by decide)) (fun p hp => ⟨defined_of_atomic hw p hp, fun h3 => by rw [show w / 2 ^ 25 % 64 = 38 from h 25 6 _ rfl] at h3; exact absurd h3 (by decide)⟩) (fun h => no_some rfl h)

theorem atomMax (f : A3Form) : Statement (.atomMax f) := fun _ hw => by
  obtain ⟨w, e⟩ : ∃ w, w = 0x4C000008 + f.bits := ⟨_, rfl⟩
  have h := Layout.reads (w := w) [(1, f.y.toNat), (1, f.x.toNat), (2, 2), (7, f.b.toNat), (7, f.a.toNat), (7, f.d.toNat), (6, 38), (1, f.c.toNat)]
    ⟨f.y.toNat_lt, f.x.toNat_lt, by decide, f.b.isLt, f.a.isLt, f.d.isLt, by decide, f.c.toNat_lt, trivial⟩ (by rw [e]; simp only [A3Form.bits, Layout.value]; omega)
  exact decode_encode (by rw [e]; rfl)
    ((decodeBase_of (h 25 6 _ rfl) (r := ⟨[(2, 2, 2), (25, 6, 38)], true, false, false, fun b w => if noRet b w then .redMax (.ofWord b w) else .atomMax (.ofWord b w)⟩)
      (find_next (row_no (.head _) 0 2 _ (by decide) (h 2 2 _ rfl) (by decide))
      (find_next (row_no (.head _) 0 2 _ (by decide) (h 2 2 _ rfl) (by decide))
      (find_here (row_yes2 (h 2 2 _ rfl) (h 25 6 _ rfl))))) (fun _ => rfl) (fun h => no_some rfl h) (fun h => no_some rfl h)).trans
      (congrArg Except.ok ((if_neg (fun hn => Bool.false_ne_true ((noRet_false (b := ⟨f.pfx, none, none⟩) (w := w) (show atomicFits f.pfx false [0, 1] = true from hw)).symm.trans hn))).trans (congrArg Instr.atomMax (A3Form_of rfl (h 31 1 _ rfl) (h 18 7 _ rfl) (h 11 7 _ rfl) (h 4 7 _ rfl) (h 1 1 _ rfl) (h 0 1 _ rfl))))))
    (plain_of_major (h 25 6 _ rfl) (by decide)) (fun p hp => ⟨defined_of_atomic hw p hp, fun h3 => by rw [show w / 2 ^ 25 % 64 = 38 from h 25 6 _ rfl] at h3; exact absurd h3 (by decide)⟩) (fun h => no_some rfl h)

theorem atomExch (f : A3Form) : Statement (.atomExch f) := fun _ hw => by
  obtain ⟨w, e⟩ : ∃ w, w = 0x4C00000C + f.bits := ⟨_, rfl⟩
  have h := Layout.reads (w := w) [(1, f.y.toNat), (1, f.x.toNat), (2, 3), (7, f.b.toNat), (7, f.a.toNat), (7, f.d.toNat), (6, 38), (1, f.c.toNat)]
    ⟨f.y.toNat_lt, f.x.toNat_lt, by decide, f.b.isLt, f.a.isLt, f.d.isLt, by decide, f.c.toNat_lt, trivial⟩ (by rw [e]; simp only [A3Form.bits, Layout.value]; omega)
  exact decode_encode (by rw [e]; rfl)
    ((decodeBase_of (h 25 6 _ rfl) (r := ⟨[(2, 2, 3), (25, 6, 38)], true, false, false, fun b w => .atomExch (.ofWord b w)⟩)
      (find_next (row_no (.head _) 0 2 _ (by decide) (h 2 2 _ rfl) (by decide))
      (find_next (row_no (.head _) 0 2 _ (by decide) (h 2 2 _ rfl) (by decide))
      (find_next (row_no (.head _) 0 2 _ (by decide) (h 2 2 _ rfl) (by decide))
      (find_here (row_yes2 (h 2 2 _ rfl) (h 25 6 _ rfl)))))) (fun _ => rfl) (fun h => no_some rfl h) (fun h => no_some rfl h)).trans
      (congrArg (fun x => Except.ok (Instr.atomExch x)) (A3Form_of rfl (h 31 1 _ rfl) (h 18 7 _ rfl) (h 11 7 _ rfl) (h 4 7 _ rfl) (h 1 1 _ rfl) (h 0 1 _ rfl))))
    (plain_of_major (h 25 6 _ rfl) (by decide)) (fun p hp => ⟨defined_of_atomic hw p hp, fun h3 => by rw [show w / 2 ^ 25 % 64 = 38 from h 25 6 _ rfl] at h3; exact absurd h3 (by decide)⟩) (fun h => no_some rfl h)

theorem atomAnd (f : A3Form) : Statement (.atomAnd f) := fun _ hw => by
  obtain ⟨w, e⟩ : ∃ w, w = 0x4E000000 + f.bits := ⟨_, rfl⟩
  have h := Layout.reads (w := w) [(1, f.y.toNat), (1, f.x.toNat), (2, 0), (7, f.b.toNat), (7, f.a.toNat), (7, f.d.toNat), (6, 39), (1, f.c.toNat)]
    ⟨f.y.toNat_lt, f.x.toNat_lt, by decide, f.b.isLt, f.a.isLt, f.d.isLt, by decide, f.c.toNat_lt, trivial⟩ (by rw [e]; simp only [A3Form.bits, Layout.value]; omega)
  exact decode_encode (by rw [e]; rfl)
    ((decodeBase_of (h 25 6 _ rfl) (r := ⟨[(2, 2, 0), (25, 6, 39)], true, false, false, fun b w => if noRet b w then .redAnd (.ofWord b w) else .atomAnd (.ofWord b w)⟩)
      (find_here (row_yes2 (h 2 2 _ rfl) (h 25 6 _ rfl))) (fun _ => rfl) (fun h => no_some rfl h) (fun h => no_some rfl h)).trans
      (congrArg Except.ok ((if_neg (fun hn => Bool.false_ne_true ((noRet_false (b := ⟨f.pfx, none, none⟩) (w := w) (show atomicFits f.pfx false [0] = true from hw)).symm.trans hn))).trans (congrArg Instr.atomAnd (A3Form_of rfl (h 31 1 _ rfl) (h 18 7 _ rfl) (h 11 7 _ rfl) (h 4 7 _ rfl) (h 1 1 _ rfl) (h 0 1 _ rfl))))))
    (plain_of_major (h 25 6 _ rfl) (by decide)) (fun p hp => ⟨defined_of_atomic hw p hp, fun h3 => by rw [show w / 2 ^ 25 % 64 = 39 from h 25 6 _ rfl] at h3; exact absurd h3 (by decide)⟩) (fun h => no_some rfl h)

theorem atomOr (f : A3Form) : Statement (.atomOr f) := fun _ hw => by
  obtain ⟨w, e⟩ : ∃ w, w = 0x4E000004 + f.bits := ⟨_, rfl⟩
  have h := Layout.reads (w := w) [(1, f.y.toNat), (1, f.x.toNat), (2, 1), (7, f.b.toNat), (7, f.a.toNat), (7, f.d.toNat), (6, 39), (1, f.c.toNat)]
    ⟨f.y.toNat_lt, f.x.toNat_lt, by decide, f.b.isLt, f.a.isLt, f.d.isLt, by decide, f.c.toNat_lt, trivial⟩ (by rw [e]; simp only [A3Form.bits, Layout.value]; omega)
  exact decode_encode (by rw [e]; rfl)
    ((decodeBase_of (h 25 6 _ rfl) (r := ⟨[(2, 2, 1), (25, 6, 39)], true, false, false, fun b w => if noRet b w then .redOr (.ofWord b w) else .atomOr (.ofWord b w)⟩)
      (find_next (row_no (.head _) 0 2 _ (by decide) (h 2 2 _ rfl) (by decide))
      (find_here (row_yes2 (h 2 2 _ rfl) (h 25 6 _ rfl)))) (fun _ => rfl) (fun h => no_some rfl h) (fun h => no_some rfl h)).trans
      (congrArg Except.ok ((if_neg (fun hn => Bool.false_ne_true ((noRet_false (b := ⟨f.pfx, none, none⟩) (w := w) (show atomicFits f.pfx false [0] = true from hw)).symm.trans hn))).trans (congrArg Instr.atomOr (A3Form_of rfl (h 31 1 _ rfl) (h 18 7 _ rfl) (h 11 7 _ rfl) (h 4 7 _ rfl) (h 1 1 _ rfl) (h 0 1 _ rfl))))))
    (plain_of_major (h 25 6 _ rfl) (by decide)) (fun p hp => ⟨defined_of_atomic hw p hp, fun h3 => by rw [show w / 2 ^ 25 % 64 = 39 from h 25 6 _ rfl] at h3; exact absurd h3 (by decide)⟩) (fun h => no_some rfl h)

theorem atomXor (f : A3Form) : Statement (.atomXor f) := fun _ hw => by
  obtain ⟨w, e⟩ : ∃ w, w = 0x4E000008 + f.bits := ⟨_, rfl⟩
  have h := Layout.reads (w := w) [(1, f.y.toNat), (1, f.x.toNat), (2, 2), (7, f.b.toNat), (7, f.a.toNat), (7, f.d.toNat), (6, 39), (1, f.c.toNat)]
    ⟨f.y.toNat_lt, f.x.toNat_lt, by decide, f.b.isLt, f.a.isLt, f.d.isLt, by decide, f.c.toNat_lt, trivial⟩ (by rw [e]; simp only [A3Form.bits, Layout.value]; omega)
  exact decode_encode (by rw [e]; rfl)
    ((decodeBase_of (h 25 6 _ rfl) (r := ⟨[(2, 2, 2), (25, 6, 39)], true, false, false, fun b w => if noRet b w then .redXor (.ofWord b w) else .atomXor (.ofWord b w)⟩)
      (find_next (row_no (.head _) 0 2 _ (by decide) (h 2 2 _ rfl) (by decide))
      (find_next (row_no (.head _) 0 2 _ (by decide) (h 2 2 _ rfl) (by decide))
      (find_here (row_yes2 (h 2 2 _ rfl) (h 25 6 _ rfl))))) (fun _ => rfl) (fun h => no_some rfl h) (fun h => no_some rfl h)).trans
      (congrArg Except.ok ((if_neg (fun hn => Bool.false_ne_true ((noRet_false (b := ⟨f.pfx, none, none⟩) (w := w) (show atomicFits f.pfx false [0] = true from hw)).symm.trans hn))).trans (congrArg Instr.atomXor (A3Form_of rfl (h 31 1 _ rfl) (h 18 7 _ rfl) (h 11 7 _ rfl) (h 4 7 _ rfl) (h 1 1 _ rfl) (h 0 1 _ rfl))))))
    (plain_of_major (h 25 6 _ rfl) (by decide)) (fun p hp => ⟨defined_of_atomic hw p hp, fun h3 => by rw [show w / 2 ^ 25 % 64 = 39 from h 25 6 _ rfl] at h3; exact absurd h3 (by decide)⟩) (fun h => no_some rfl h)

theorem atomCas (f : A3Form) : Statement (.atomCas f) := fun _ hw => by
  obtain ⟨w, e⟩ : ∃ w, w = 0x4E00000C + f.bits := ⟨_, rfl⟩
  have h := Layout.reads (w := w) [(1, f.y.toNat), (1, f.x.toNat), (2, 3), (7, f.b.toNat), (7, f.a.toNat), (7, f.d.toNat), (6, 39), (1, f.c.toNat)]
    ⟨f.y.toNat_lt, f.x.toNat_lt, by decide, f.b.isLt, f.a.isLt, f.d.isLt, by decide, f.c.toNat_lt, trivial⟩ (by rw [e]; simp only [A3Form.bits, Layout.value]; omega)
  exact decode_encode (by rw [e]; rfl)
    ((decodeBase_of (h 25 6 _ rfl) (r := ⟨[(2, 2, 3), (25, 6, 39)], true, false, false, fun b w => .atomCas (.ofWord b w)⟩)
      (find_next (row_no (.head _) 0 2 _ (by decide) (h 2 2 _ rfl) (by decide))
      (find_next (row_no (.head _) 0 2 _ (by decide) (h 2 2 _ rfl) (by decide))
      (find_next (row_no (.head _) 0 2 _ (by decide) (h 2 2 _ rfl) (by decide))
      (find_here (row_yes2 (h 2 2 _ rfl) (h 25 6 _ rfl)))))) (fun _ => rfl) (fun h => no_some rfl h) (fun h => no_some rfl h)).trans
      (congrArg (fun x => Except.ok (Instr.atomCas x)) (A3Form_of rfl (h 31 1 _ rfl) (h 18 7 _ rfl) (h 11 7 _ rfl) (h 4 7 _ rfl) (h 1 1 _ rfl) (h 0 1 _ rfl))))
    (plain_of_major (h 25 6 _ rfl) (by decide)) (fun p hp => ⟨defined_of_atomic (and_right hw) p hp, fun h3 => by rw [show w / 2 ^ 25 % 64 = 39 from h 25 6 _ rfl] at h3; exact absurd h3 (by decide)⟩) (fun h => no_some rfl h)

theorem redAdd (f : RedForm) : Statement (.redAdd f) := fun _ hw => by
  obtain ⟨w, e⟩ : ∃ w, w = 0x4C000000 + f.bits := ⟨_, rfl⟩
  have h := Layout.reads (w := w) [(1, f.y.toNat), (1, f.x.toNat), (2, 0), (7, f.b.toNat), (7, f.a.toNat), (7, 0), (6, 38), (1, f.c.toNat)]
    ⟨f.y.toNat_lt, f.x.toNat_lt, by decide, f.b.isLt, f.a.isLt, by decide, by decide, f.c.toNat_lt, trivial⟩ (by rw [e]; simp only [RedForm.bits, Layout.value]; omega)
  exact decode_encode (by rw [e]; rfl)
    ((decodeBase_of (h 25 6 _ rfl) (r := ⟨[(2, 2, 0), (25, 6, 38)], true, false, false, fun b w => if noRet b w then .redAdd (.ofWord b w) else .atomAdd (.ofWord b w)⟩)
      (find_here (row_yes2 (h 2 2 _ rfl) (h 25 6 _ rfl))) (fun _ => rfl) (fun h => no_some rfl h) (fun h => no_some rfl h)).trans
      (congrArg Except.ok ((if_pos (noRet_true (b := ⟨f.pfx, none, none⟩) (show atomicFits f.pfx true [0] = true from hw) (h 18 7 _ rfl))).trans (congrArg Instr.redAdd (RedForm_of rfl (h 31 1 _ rfl) (h 11 7 _ rfl) (h 4 7 _ rfl) (h 1 1 _ rfl) (h 0 1 _ rfl))))))
    (plain_of_major (h 25 6 _ rfl) (by decide)) (fun p hp => ⟨defined_of_atomic hw p hp, fun h3 => by rw [show w / 2 ^ 25 % 64 = 38 from h 25 6 _ rfl] at h3; exact absurd h3 (by decide)⟩) (fun h => no_some rfl h)

theorem redMin (f : RedForm) : Statement (.redMin f) := fun _ hw => by
  obtain ⟨w, e⟩ : ∃ w, w = 0x4C000004 + f.bits := ⟨_, rfl⟩
  have h := Layout.reads (w := w) [(1, f.y.toNat), (1, f.x.toNat), (2, 1), (7, f.b.toNat), (7, f.a.toNat), (7, 0), (6, 38), (1, f.c.toNat)]
    ⟨f.y.toNat_lt, f.x.toNat_lt, by decide, f.b.isLt, f.a.isLt, by decide, by decide, f.c.toNat_lt, trivial⟩ (by rw [e]; simp only [RedForm.bits, Layout.value]; omega)
  exact decode_encode (by rw [e]; rfl)
    ((decodeBase_of (h 25 6 _ rfl) (r := ⟨[(2, 2, 1), (25, 6, 38)], true, false, false, fun b w => if noRet b w then .redMin (.ofWord b w) else .atomMin (.ofWord b w)⟩)
      (find_next (row_no (.head _) 0 2 _ (by decide) (h 2 2 _ rfl) (by decide))
      (find_here (row_yes2 (h 2 2 _ rfl) (h 25 6 _ rfl)))) (fun _ => rfl) (fun h => no_some rfl h) (fun h => no_some rfl h)).trans
      (congrArg Except.ok ((if_pos (noRet_true (b := ⟨f.pfx, none, none⟩) (show atomicFits f.pfx true [0, 1] = true from hw) (h 18 7 _ rfl))).trans (congrArg Instr.redMin (RedForm_of rfl (h 31 1 _ rfl) (h 11 7 _ rfl) (h 4 7 _ rfl) (h 1 1 _ rfl) (h 0 1 _ rfl))))))
    (plain_of_major (h 25 6 _ rfl) (by decide)) (fun p hp => ⟨defined_of_atomic hw p hp, fun h3 => by rw [show w / 2 ^ 25 % 64 = 38 from h 25 6 _ rfl] at h3; exact absurd h3 (by decide)⟩) (fun h => no_some rfl h)

theorem redMax (f : RedForm) : Statement (.redMax f) := fun _ hw => by
  obtain ⟨w, e⟩ : ∃ w, w = 0x4C000008 + f.bits := ⟨_, rfl⟩
  have h := Layout.reads (w := w) [(1, f.y.toNat), (1, f.x.toNat), (2, 2), (7, f.b.toNat), (7, f.a.toNat), (7, 0), (6, 38), (1, f.c.toNat)]
    ⟨f.y.toNat_lt, f.x.toNat_lt, by decide, f.b.isLt, f.a.isLt, by decide, by decide, f.c.toNat_lt, trivial⟩ (by rw [e]; simp only [RedForm.bits, Layout.value]; omega)
  exact decode_encode (by rw [e]; rfl)
    ((decodeBase_of (h 25 6 _ rfl) (r := ⟨[(2, 2, 2), (25, 6, 38)], true, false, false, fun b w => if noRet b w then .redMax (.ofWord b w) else .atomMax (.ofWord b w)⟩)
      (find_next (row_no (.head _) 0 2 _ (by decide) (h 2 2 _ rfl) (by decide))
      (find_next (row_no (.head _) 0 2 _ (by decide) (h 2 2 _ rfl) (by decide))
      (find_here (row_yes2 (h 2 2 _ rfl) (h 25 6 _ rfl))))) (fun _ => rfl) (fun h => no_some rfl h) (fun h => no_some rfl h)).trans
      (congrArg Except.ok ((if_pos (noRet_true (b := ⟨f.pfx, none, none⟩) (show atomicFits f.pfx true [0, 1] = true from hw) (h 18 7 _ rfl))).trans (congrArg Instr.redMax (RedForm_of rfl (h 31 1 _ rfl) (h 11 7 _ rfl) (h 4 7 _ rfl) (h 1 1 _ rfl) (h 0 1 _ rfl))))))
    (plain_of_major (h 25 6 _ rfl) (by decide)) (fun p hp => ⟨defined_of_atomic hw p hp, fun h3 => by rw [show w / 2 ^ 25 % 64 = 38 from h 25 6 _ rfl] at h3; exact absurd h3 (by decide)⟩) (fun h => no_some rfl h)

theorem redAnd (f : RedForm) : Statement (.redAnd f) := fun _ hw => by
  obtain ⟨w, e⟩ : ∃ w, w = 0x4E000000 + f.bits := ⟨_, rfl⟩
  have h := Layout.reads (w := w) [(1, f.y.toNat), (1, f.x.toNat), (2, 0), (7, f.b.toNat), (7, f.a.toNat), (7, 0), (6, 39), (1, f.c.toNat)]
    ⟨f.y.toNat_lt, f.x.toNat_lt, by decide, f.b.isLt, f.a.isLt, by decide, by decide, f.c.toNat_lt, trivial⟩ (by rw [e]; simp only [RedForm.bits, Layout.value]; omega)
  exact decode_encode (by rw [e]; rfl)
    ((decodeBase_of (h 25 6 _ rfl) (r := ⟨[(2, 2, 0), (25, 6, 39)], true, false, false, fun b w => if noRet b w then .redAnd (.ofWord b w) else .atomAnd (.ofWord b w)⟩)
      (find_here (row_yes2 (h 2 2 _ rfl) (h 25 6 _ rfl))) (fun _ => rfl) (fun h => no_some rfl h) (fun h => no_some rfl h)).trans
      (congrArg Except.ok ((if_pos (noRet_true (b := ⟨f.pfx, none, none⟩) (show atomicFits f.pfx true [0] = true from hw) (h 18 7 _ rfl))).trans (congrArg Instr.redAnd (RedForm_of rfl (h 31 1 _ rfl) (h 11 7 _ rfl) (h 4 7 _ rfl) (h 1 1 _ rfl) (h 0 1 _ rfl))))))
    (plain_of_major (h 25 6 _ rfl) (by decide)) (fun p hp => ⟨defined_of_atomic hw p hp, fun h3 => by rw [show w / 2 ^ 25 % 64 = 39 from h 25 6 _ rfl] at h3; exact absurd h3 (by decide)⟩) (fun h => no_some rfl h)

theorem redOr (f : RedForm) : Statement (.redOr f) := fun _ hw => by
  obtain ⟨w, e⟩ : ∃ w, w = 0x4E000004 + f.bits := ⟨_, rfl⟩
  have h := Layout.reads (w := w) [(1, f.y.toNat), (1, f.x.toNat), (2, 1), (7, f.b.toNat), (7, f.a.toNat), (7, 0), (6, 39), (1, f.c.toNat)]
    ⟨f.y.toNat_lt, f.x.toNat_lt, by decide, f.b.isLt, f.a.isLt, by decide, by decide, f.c.toNat_lt, trivial⟩ (by rw [e]; simp only [RedForm.bits, Layout.value]; omega)
  exact decode_encode (by rw [e]; rfl)
    ((decodeBase_of (h 25 6 _ rfl) (r := ⟨[(2, 2, 1), (25, 6, 39)], true, false, false, fun b w => if noRet b w then .redOr (.ofWord b w) else .atomOr (.ofWord b w)⟩)
      (find_next (row_no (.head _) 0 2 _ (by decide) (h 2 2 _ rfl) (by decide))
      (find_here (row_yes2 (h 2 2 _ rfl) (h 25 6 _ rfl)))) (fun _ => rfl) (fun h => no_some rfl h) (fun h => no_some rfl h)).trans
      (congrArg Except.ok ((if_pos (noRet_true (b := ⟨f.pfx, none, none⟩) (show atomicFits f.pfx true [0] = true from hw) (h 18 7 _ rfl))).trans (congrArg Instr.redOr (RedForm_of rfl (h 31 1 _ rfl) (h 11 7 _ rfl) (h 4 7 _ rfl) (h 1 1 _ rfl) (h 0 1 _ rfl))))))
    (plain_of_major (h 25 6 _ rfl) (by decide)) (fun p hp => ⟨defined_of_atomic hw p hp, fun h3 => by rw [show w / 2 ^ 25 % 64 = 39 from h 25 6 _ rfl] at h3; exact absurd h3 (by decide)⟩) (fun h => no_some rfl h)

theorem redXor (f : RedForm) : Statement (.redXor f) := fun _ hw => by
  obtain ⟨w, e⟩ : ∃ w, w = 0x4E000008 + f.bits := ⟨_, rfl⟩
  have h := Layout.reads (w := w) [(1, f.y.toNat), (1, f.x.toNat), (2, 2), (7, f.b.toNat), (7, f.a.toNat), (7, 0), (6, 39), (1, f.c.toNat)]
    ⟨f.y.toNat_lt, f.x.toNat_lt, by decide, f.b.isLt, f.a.isLt, by decide, by decide, f.c.toNat_lt, trivial⟩ (by rw [e]; simp only [RedForm.bits, Layout.value]; omega)
  exact decode_encode (by rw [e]; rfl)
    ((decodeBase_of (h 25 6 _ rfl) (r := ⟨[(2, 2, 2), (25, 6, 39)], true, false, false, fun b w => if noRet b w then .redXor (.ofWord b w) else .atomXor (.ofWord b w)⟩)
      (find_next (row_no (.head _) 0 2 _ (by decide) (h 2 2 _ rfl) (by decide))
      (find_next (row_no (.head _) 0 2 _ (by decide) (h 2 2 _ rfl) (by decide))
      (find_here (row_yes2 (h 2 2 _ rfl) (h 25 6 _ rfl))))) (fun _ => rfl) (fun h => no_some rfl h) (fun h => no_some rfl h)).trans
      (congrArg Except.ok ((if_pos (noRet_true (b := ⟨f.pfx, none, none⟩) (show atomicFits f.pfx true [0] = true from hw) (h 18 7 _ rfl))).trans (congrArg Instr.redXor (RedForm_of rfl (h 31 1 _ rfl) (h 11 7 _ rfl) (h 4 7 _ rfl) (h 1 1 _ rfl) (h 0 1 _ rfl))))))
    (plain_of_major (h 25 6 _ rfl) (by decide)) (fun p hp => ⟨defined_of_atomic hw p hp, fun h3 => by rw [show w / 2 ^ 25 % 64 = 39 from h 25 6 _ rfl] at h3; exact absurd h3 (by decide)⟩) (fun h => no_some rfl h)

theorem fence (f : ScopeForm) : Statement (.fence f) := fun _ _ => by
  obtain ⟨w, e⟩ : ∃ w, w = 0x50000000 + f.bits := ⟨_, rfl⟩
  have h := Layout.reads (w := w) [(3, f.p.toNat), (22, 0), (6, 40), (1, f.c.toNat)]
    ⟨f.p.isLt, by decide, by decide, f.c.toNat_lt, trivial⟩ (by rw [e]; simp only [ScopeForm.bits, Layout.value]; omega)
  have h1 := Layout.reads (w := w) [(3, f.p.toNat), (28, 167772160), (1, f.c.toNat)]
    ⟨f.p.isLt, by decide, f.c.toNat_lt, trivial⟩ (by rw [e]; simp only [ScopeForm.bits, Layout.value]; omega)
  exact decode_encode (by rw [e]; rfl)
    ((decodeBase_of (h 25 6 _ rfl) (r := ⟨[(3, 28, 167772160)], false, false, false, fun b w => .fence (.ofWord b w)⟩)
      (find_here (row_yes1 (h1 3 28 _ rfl))) (fun h => no_some rfl h) (fun h => no_some rfl h) (fun h => no_some rfl h)).trans
      (congrArg (fun x => Except.ok (Instr.fence x)) (ScopeForm_of (h 31 1 _ rfl) (h 0 3 _ rfl))))
    (plain_of_major (h 25 6 _ rfl) (by decide)) (fun p hp => no_eq rfl hp) (fun h => no_some rfl h)

theorem qfence (f : QfenceForm) : Statement (.qfence f) := fun _ _ => by
  obtain ⟨w, e⟩ : ∃ w, w = 0x50800000 + f.bits := ⟨_, rfl⟩
  have h := Layout.reads (w := w) [(7, f.b.toNat), (7, f.a.toNat), (11, 512), (6, 40), (1, f.c.toNat)]
    ⟨f.b.isLt, f.a.isLt, by decide, by decide, f.c.toNat_lt, trivial⟩ (by rw [e]; simp only [QfenceForm.bits, Layout.value]; omega)
  have h1 := Layout.reads (w := w) [(7, f.b.toNat), (7, f.a.toNat), (17, 82432), (1, f.c.toNat)]
    ⟨f.b.isLt, f.a.isLt, by decide, f.c.toNat_lt, trivial⟩ (by rw [e]; simp only [QfenceForm.bits, Layout.value]; omega)
  exact decode_encode (by rw [e]; rfl)
    ((decodeBase_of (h 25 6 _ rfl) (r := ⟨[(14, 17, 82432)], false, false, false, fun b w => .qfence (.ofWord b w)⟩)
      (find_next (row_no (.head _) 11 17 _ (by decide) (h1 14 17 _ rfl) (by decide))
      (find_here (row_yes1 (h1 14 17 _ rfl)))) (fun h => no_some rfl h) (fun h => no_some rfl h) (fun h => no_some rfl h)).trans
      (congrArg (fun x => Except.ok (Instr.qfence x)) (QfenceForm_of (h 31 1 _ rfl) (h 7 7 _ rfl) (h 0 7 _ rfl))))
    (plain_of_major (h 25 6 _ rfl) (by decide)) (fun p hp => no_eq rfl hp) (fun h => no_some rfl h)

theorem tfence (f : ScopeForm) : Statement (.tfence f) := fun _ _ => by
  obtain ⟨w, e⟩ : ∃ w, w = 0x51000000 + f.bits := ⟨_, rfl⟩
  have h := Layout.reads (w := w) [(3, f.p.toNat), (22, 2097152), (6, 40), (1, f.c.toNat)]
    ⟨f.p.isLt, by decide, by decide, f.c.toNat_lt, trivial⟩ (by rw [e]; simp only [ScopeForm.bits, Layout.value]; omega)
  have h1 := Layout.reads (w := w) [(3, f.p.toNat), (28, 169869312), (1, f.c.toNat)]
    ⟨f.p.isLt, by decide, f.c.toNat_lt, trivial⟩ (by rw [e]; simp only [ScopeForm.bits, Layout.value]; omega)
  have h2 := Layout.reads (w := w) [(3, f.p.toNat), (11, 0), (17, 82944), (1, f.c.toNat)]
    ⟨f.p.isLt, by decide, by decide, f.c.toNat_lt, trivial⟩ (by rw [e]; simp only [ScopeForm.bits, Layout.value]; omega)
  exact decode_encode (by rw [e]; rfl)
    ((decodeBase_of (h 25 6 _ rfl) (r := ⟨[(3, 28, 169869312)], false, false, false, fun b w => .tfence (.ofWord b w)⟩)
      (find_next (row_no (.head _) 0 28 _ (by decide) (h1 3 28 _ rfl) (by decide))
      (find_next (row_no (.head _) 0 17 _ (by decide) (h2 14 17 _ rfl) (by decide))
      (find_here (row_yes1 (h1 3 28 _ rfl))))) (fun h => no_some rfl h) (fun h => no_some rfl h) (fun h => no_some rfl h)).trans
      (congrArg (fun x => Except.ok (Instr.tfence x)) (ScopeForm_of (h 31 1 _ rfl) (h 0 3 _ rfl))))
    (plain_of_major (h 25 6 _ rfl) (by decide)) (fun p hp => no_eq rfl hp) (fun h => no_some rfl h)

theorem barArrive (f : BarForm) : Statement (.barArrive f) := fun _ _ => by
  obtain ⟨w, e⟩ : ∃ w, w = 0x52000000 + f.bits := ⟨_, rfl⟩
  have h := Layout.reads (w := w) [(8, f.n.toNat), (17, 0), (6, 41), (1, f.c.toNat)]
    ⟨f.n.isLt, by decide, by decide, f.c.toNat_lt, trivial⟩ (by rw [e]; simp only [BarForm.bits, Layout.value]; omega)
  have h1 := Layout.reads (w := w) [(8, f.n.toNat), (23, 5373952), (1, f.c.toNat)]
    ⟨f.n.isLt, by decide, f.c.toNat_lt, trivial⟩ (by rw [e]; simp only [BarForm.bits, Layout.value]; omega)
  exact decode_encode (by rw [e]; rfl)
    ((decodeBase_of (h 25 6 _ rfl) (r := ⟨[(8, 23, 5373952)], false, false, false, fun b w => .barArrive (.ofWord b w)⟩)
      (find_here (row_yes1 (h1 8 23 _ rfl))) (fun h => no_some rfl h) (fun h => no_some rfl h) (fun h => no_some rfl h)).trans
      (congrArg (fun x => Except.ok (Instr.barArrive x)) (BarForm_of (h 31 1 _ rfl) (h 0 8 _ rfl))))
    (plain_of_major (h 25 6 _ rfl) (by decide)) (fun p hp => no_eq rfl hp) (fun h => no_some rfl h)

theorem barWait (f : BarForm) : Statement (.barWait f) := fun _ _ => by
  obtain ⟨w, e⟩ : ∃ w, w = 0x52800000 + f.bits := ⟨_, rfl⟩
  have h := Layout.reads (w := w) [(8, f.n.toNat), (17, 32768), (6, 41), (1, f.c.toNat)]
    ⟨f.n.isLt, by decide, by decide, f.c.toNat_lt, trivial⟩ (by rw [e]; simp only [BarForm.bits, Layout.value]; omega)
  have h1 := Layout.reads (w := w) [(8, f.n.toNat), (23, 5406720), (1, f.c.toNat)]
    ⟨f.n.isLt, by decide, f.c.toNat_lt, trivial⟩ (by rw [e]; simp only [BarForm.bits, Layout.value]; omega)
  exact decode_encode (by rw [e]; rfl)
    ((decodeBase_of (h 25 6 _ rfl) (r := ⟨[(8, 23, 5406720)], false, false, false, fun b w => .barWait (.ofWord b w)⟩)
      (find_next (row_no (.head _) 0 23 _ (by decide) (h1 8 23 _ rfl) (by decide))
      (find_here (row_yes1 (h1 8 23 _ rfl)))) (fun h => no_some rfl h) (fun h => no_some rfl h) (fun h => no_some rfl h)).trans
      (congrArg (fun x => Except.ok (Instr.barWait x)) (BarForm_of (h 31 1 _ rfl) (h 0 8 _ rfl))))
    (plain_of_major (h 25 6 _ rfl) (by decide)) (fun p hp => no_eq rfl hp) (fun h => no_some rfl h)

theorem barSync (f : BarForm) : Statement (.barSync f) := fun _ _ => by
  obtain ⟨w, e⟩ : ∃ w, w = 0x53000000 + f.bits := ⟨_, rfl⟩
  have h := Layout.reads (w := w) [(8, f.n.toNat), (17, 65536), (6, 41), (1, f.c.toNat)]
    ⟨f.n.isLt, by decide, by decide, f.c.toNat_lt, trivial⟩ (by rw [e]; simp only [BarForm.bits, Layout.value]; omega)
  have h1 := Layout.reads (w := w) [(8, f.n.toNat), (23, 5439488), (1, f.c.toNat)]
    ⟨f.n.isLt, by decide, f.c.toNat_lt, trivial⟩ (by rw [e]; simp only [BarForm.bits, Layout.value]; omega)
  exact decode_encode (by rw [e]; rfl)
    ((decodeBase_of (h 25 6 _ rfl) (r := ⟨[(8, 23, 5439488)], false, false, false, fun b w => .barSync (.ofWord b w)⟩)
      (find_next (row_no (.head _) 0 23 _ (by decide) (h1 8 23 _ rfl) (by decide))
      (find_next (row_no (.head _) 0 23 _ (by decide) (h1 8 23 _ rfl) (by decide))
      (find_here (row_yes1 (h1 8 23 _ rfl))))) (fun h => no_some rfl h) (fun h => no_some rfl h) (fun h => no_some rfl h)).trans
      (congrArg (fun x => Except.ok (Instr.barSync x)) (BarForm_of (h 31 1 _ rfl) (h 0 8 _ rfl))))
    (plain_of_major (h 25 6 _ rfl) (by decide)) (fun p hp => no_eq rfl hp) (fun h => no_some rfl h)

theorem cvdecl (f : CvdeclForm) : Statement (.cvdecl f) := fun _ _ => by
  obtain ⟨w, e⟩ : ∃ w, w = 0x53800000 + f.bits := ⟨_, rfl⟩
  have h := Layout.reads (w := w) [(10, f.k.toNat), (6, 0), (6, f.n.toNat), (3, 6), (6, 41), (1, f.c.toNat)]
    ⟨f.k.isLt, by decide, f.n.isLt, by decide, by decide, f.c.toNat_lt, trivial⟩ (by rw [e]; simp only [CvdeclForm.bits, Layout.value]; omega)
  have h1 := Layout.reads (w := w) [(10, f.k.toNat), (6, 0), (6, f.n.toNat), (9, 334), (1, f.c.toNat)]
    ⟨f.k.isLt, by decide, f.n.isLt, by decide, f.c.toNat_lt, trivial⟩ (by rw [e]; simp only [CvdeclForm.bits, Layout.value]; omega)
  exact decode_encode (by rw [e]; rfl)
    ((decodeBase_of (h 25 6 _ rfl) (r := ⟨[(10, 6, 0), (22, 9, 334)], false, false, false, fun b w => .cvdecl (.ofWord b w)⟩)
      (find_next (row_no (.head _) 14 9 _ (by decide) (h1 22 9 _ rfl) (by decide))
      (find_next (row_no (.head _) 14 9 _ (by decide) (h1 22 9 _ rfl) (by decide))
      (find_next (row_no (.head _) 14 9 _ (by decide) (h1 22 9 _ rfl) (by decide))
      (find_here (row_yes2 (h 10 6 _ rfl) (h1 22 9 _ rfl)))))) (fun h => no_some rfl h) (fun h => no_some rfl h) (fun h => no_some rfl h)).trans
      (congrArg (fun x => Except.ok (Instr.cvdecl x)) (CvdeclForm_of (h 31 1 _ rfl) (h 16 6 _ rfl) (h 0 10 _ rfl))))
    (plain_of_major (h 25 6 _ rfl) (by decide)) (fun p hp => no_eq rfl hp) (fun h => no_some rfl h)

theorem abarInit (f : AbarForm) : Statement (.abarInit f) := fun _ _ => by
  obtain ⟨w, e⟩ : ∃ w, w = 0x54000000 + f.bits := ⟨_, rfl⟩
  have h := Layout.reads (w := w) [(16, f.o.toNat), (7, f.r.toNat), (2, 0), (6, 42), (1, f.c.toNat)]
    ⟨f.o.isLt, f.r.isLt, by decide, by decide, f.c.toNat_lt, trivial⟩ (by rw [e]; simp only [AbarForm.bits, Layout.value]; omega)
  have h1 := Layout.reads (w := w) [(16, f.o.toNat), (7, f.r.toNat), (8, 168), (1, f.c.toNat)]
    ⟨f.o.isLt, f.r.isLt, by decide, f.c.toNat_lt, trivial⟩ (by rw [e]; simp only [AbarForm.bits, Layout.value]; omega)
  exact decode_encode (by rw [e]; rfl)
    ((decodeBase_of (h 25 6 _ rfl) (r := ⟨[(23, 8, 168)], false, false, false, fun b w => .abarInit (.ofWord b w)⟩)
      (find_here (row_yes1 (h1 23 8 _ rfl))) (fun h => no_some rfl h) (fun h => no_some rfl h) (fun h => no_some rfl h)).trans
      (congrArg (fun x => Except.ok (Instr.abarInit x)) (AbarForm_of (h 31 1 _ rfl) (h 16 7 _ rfl) (h 0 16 _ rfl))))
    (plain_of_major (h 25 6 _ rfl) (by decide)) (fun p hp => no_eq rfl hp) (fun h => no_some rfl h)

theorem abarArrive (f : AbarForm) : Statement (.abarArrive f) := fun _ _ => by
  obtain ⟨w, e⟩ : ∃ w, w = 0x54800000 + f.bits := ⟨_, rfl⟩
  have h := Layout.reads (w := w) [(16, f.o.toNat), (7, f.r.toNat), (2, 1), (6, 42), (1, f.c.toNat)]
    ⟨f.o.isLt, f.r.isLt, by decide, by decide, f.c.toNat_lt, trivial⟩ (by rw [e]; simp only [AbarForm.bits, Layout.value]; omega)
  have h1 := Layout.reads (w := w) [(16, f.o.toNat), (7, f.r.toNat), (8, 169), (1, f.c.toNat)]
    ⟨f.o.isLt, f.r.isLt, by decide, f.c.toNat_lt, trivial⟩ (by rw [e]; simp only [AbarForm.bits, Layout.value]; omega)
  exact decode_encode (by rw [e]; rfl)
    ((decodeBase_of (h 25 6 _ rfl) (r := ⟨[(23, 8, 169)], false, false, false, fun b w => .abarArrive (.ofWord b w)⟩)
      (find_next (row_no (.head _) 0 8 _ (by decide) (h1 23 8 _ rfl) (by decide))
      (find_here (row_yes1 (h1 23 8 _ rfl)))) (fun h => no_some rfl h) (fun h => no_some rfl h) (fun h => no_some rfl h)).trans
      (congrArg (fun x => Except.ok (Instr.abarArrive x)) (AbarForm_of (h 31 1 _ rfl) (h 16 7 _ rfl) (h 0 16 _ rfl))))
    (plain_of_major (h 25 6 _ rfl) (by decide)) (fun p hp => no_eq rfl hp) (fun h => no_some rfl h)

theorem abarWait (f : AbarForm) : Statement (.abarWait f) := fun _ _ => by
  obtain ⟨w, e⟩ : ∃ w, w = 0x55000000 + f.bits := ⟨_, rfl⟩
  have h := Layout.reads (w := w) [(16, f.o.toNat), (7, f.r.toNat), (2, 2), (6, 42), (1, f.c.toNat)]
    ⟨f.o.isLt, f.r.isLt, by decide, by decide, f.c.toNat_lt, trivial⟩ (by rw [e]; simp only [AbarForm.bits, Layout.value]; omega)
  have h1 := Layout.reads (w := w) [(16, f.o.toNat), (7, f.r.toNat), (8, 170), (1, f.c.toNat)]
    ⟨f.o.isLt, f.r.isLt, by decide, f.c.toNat_lt, trivial⟩ (by rw [e]; simp only [AbarForm.bits, Layout.value]; omega)
  exact decode_encode (by rw [e]; rfl)
    ((decodeBase_of (h 25 6 _ rfl) (r := ⟨[(23, 8, 170)], false, false, false, fun b w => .abarWait (.ofWord b w)⟩)
      (find_next (row_no (.head _) 0 8 _ (by decide) (h1 23 8 _ rfl) (by decide))
      (find_next (row_no (.head _) 0 8 _ (by decide) (h1 23 8 _ rfl) (by decide))
      (find_here (row_yes1 (h1 23 8 _ rfl))))) (fun h => no_some rfl h) (fun h => no_some rfl h) (fun h => no_some rfl h)).trans
      (congrArg (fun x => Except.ok (Instr.abarWait x)) (AbarForm_of (h 31 1 _ rfl) (h 16 7 _ rfl) (h 0 16 _ rfl))))
    (plain_of_major (h 25 6 _ rfl) (by decide)) (fun p hp => no_eq rfl hp) (fun h => no_some rfl h)

theorem abarTest (f : AbarForm) : Statement (.abarTest f) := fun _ _ => by
  obtain ⟨w, e⟩ : ∃ w, w = 0x55800000 + f.bits := ⟨_, rfl⟩
  have h := Layout.reads (w := w) [(16, f.o.toNat), (7, f.r.toNat), (2, 3), (6, 42), (1, f.c.toNat)]
    ⟨f.o.isLt, f.r.isLt, by decide, by decide, f.c.toNat_lt, trivial⟩ (by rw [e]; simp only [AbarForm.bits, Layout.value]; omega)
  have h1 := Layout.reads (w := w) [(16, f.o.toNat), (7, f.r.toNat), (8, 171), (1, f.c.toNat)]
    ⟨f.o.isLt, f.r.isLt, by decide, f.c.toNat_lt, trivial⟩ (by rw [e]; simp only [AbarForm.bits, Layout.value]; omega)
  exact decode_encode (by rw [e]; rfl)
    ((decodeBase_of (h 25 6 _ rfl) (r := ⟨[(23, 8, 171)], false, false, false, fun b w => .abarTest (.ofWord b w)⟩)
      (find_next (row_no (.head _) 0 8 _ (by decide) (h1 23 8 _ rfl) (by decide))
      (find_next (row_no (.head _) 0 8 _ (by decide) (h1 23 8 _ rfl) (by decide))
      (find_next (row_no (.head _) 0 8 _ (by decide) (h1 23 8 _ rfl) (by decide))
      (find_here (row_yes1 (h1 23 8 _ rfl)))))) (fun h => no_some rfl h) (fun h => no_some rfl h) (fun h => no_some rfl h)).trans
      (congrArg (fun x => Except.ok (Instr.abarTest x)) (AbarForm_of (h 31 1 _ rfl) (h 16 7 _ rfl) (h 0 16 _ rfl))))
    (plain_of_major (h 25 6 _ rfl) (by decide)) (fun p hp => no_eq rfl hp) (fun h => no_some rfl h)

theorem qpush (f : QpushForm) : Statement (.qpush f) := fun _ _ => by
  obtain ⟨w, e⟩ : ∃ w, w = 0x56000000 + f.bits := ⟨_, rfl⟩
  have h := Layout.reads (w := w) [(5, f.q.toNat), (11, 0), (7, f.a.toNat), (2, 0), (6, 43), (1, f.c.toNat)]
    ⟨f.q.isLt, by decide, f.a.isLt, by decide, by decide, f.c.toNat_lt, trivial⟩ (by rw [e]; simp only [QpushForm.bits, Layout.value]; omega)
  have h1 := Layout.reads (w := w) [(5, f.q.toNat), (11, 0), (7, f.a.toNat), (8, 172), (1, f.c.toNat)]
    ⟨f.q.isLt, by decide, f.a.isLt, by decide, f.c.toNat_lt, trivial⟩ (by rw [e]; simp only [QpushForm.bits, Layout.value]; omega)
  exact decode_encode (by rw [e]; rfl)
    ((decodeBase_of (h 25 6 _ rfl) (r := ⟨[(5, 11, 0), (23, 8, 172)], false, false, false, fun b w => .qpush (.ofWord b w)⟩)
      (find_here (row_yes2 (h 5 11 _ rfl) (h1 23 8 _ rfl))) (fun h => no_some rfl h) (fun h => no_some rfl h) (fun h => no_some rfl h)).trans
      (congrArg (fun x => Except.ok (Instr.qpush x)) (QpushForm_of (h 31 1 _ rfl) (h 16 7 _ rfl) (h 0 5 _ rfl))))
    (plain_of_major (h 25 6 _ rfl) (by decide)) (fun p hp => no_eq rfl hp) (fun h => no_some rfl h)

theorem qpop (f : QgetForm) : Statement (.qpop f) := fun _ _ => by
  obtain ⟨w, e⟩ : ∃ w, w = 0x56800000 + f.bits := ⟨_, rfl⟩
  have h := Layout.reads (w := w) [(5, f.q.toNat), (11, 0), (7, f.d.toNat), (2, 1), (6, 43), (1, f.c.toNat)]
    ⟨f.q.isLt, by decide, f.d.isLt, by decide, by decide, f.c.toNat_lt, trivial⟩ (by rw [e]; simp only [QgetForm.bits, Layout.value]; omega)
  have h1 := Layout.reads (w := w) [(5, f.q.toNat), (11, 0), (7, f.d.toNat), (8, 173), (1, f.c.toNat)]
    ⟨f.q.isLt, by decide, f.d.isLt, by decide, f.c.toNat_lt, trivial⟩ (by rw [e]; simp only [QgetForm.bits, Layout.value]; omega)
  exact decode_encode (by rw [e]; rfl)
    ((decodeBase_of (h 25 6 _ rfl) (r := ⟨[(5, 11, 0), (23, 8, 173)], false, false, false, fun b w => .qpop (.ofWord b w)⟩)
      (find_next (row_no (.tail _ (.head _)) 0 8 _ (by decide) (h1 23 8 _ rfl) (by decide))
      (find_here (row_yes2 (h 5 11 _ rfl) (h1 23 8 _ rfl)))) (fun h => no_some rfl h) (fun h => no_some rfl h) (fun h => no_some rfl h)).trans
      (congrArg (fun x => Except.ok (Instr.qpop x)) (QgetForm_of (h 31 1 _ rfl) (h 16 7 _ rfl) (h 0 5 _ rfl))))
    (plain_of_major (h 25 6 _ rfl) (by decide)) (fun p hp => no_eq rfl hp) (fun h => no_some rfl h)

theorem qcount (f : QgetForm) : Statement (.qcount f) := fun _ _ => by
  obtain ⟨w, e⟩ : ∃ w, w = 0x57000000 + f.bits := ⟨_, rfl⟩
  have h := Layout.reads (w := w) [(5, f.q.toNat), (11, 0), (7, f.d.toNat), (2, 2), (6, 43), (1, f.c.toNat)]
    ⟨f.q.isLt, by decide, f.d.isLt, by decide, by decide, f.c.toNat_lt, trivial⟩ (by rw [e]; simp only [QgetForm.bits, Layout.value]; omega)
  have h1 := Layout.reads (w := w) [(5, f.q.toNat), (11, 0), (7, f.d.toNat), (8, 174), (1, f.c.toNat)]
    ⟨f.q.isLt, by decide, f.d.isLt, by decide, f.c.toNat_lt, trivial⟩ (by rw [e]; simp only [QgetForm.bits, Layout.value]; omega)
  exact decode_encode (by rw [e]; rfl)
    ((decodeBase_of (h 25 6 _ rfl) (r := ⟨[(5, 11, 0), (23, 8, 174)], false, false, false, fun b w => .qcount (.ofWord b w)⟩)
      (find_next (row_no (.tail _ (.head _)) 0 8 _ (by decide) (h1 23 8 _ rfl) (by decide))
      (find_next (row_no (.tail _ (.head _)) 0 8 _ (by decide) (h1 23 8 _ rfl) (by decide))
      (find_here (row_yes2 (h 5 11 _ rfl) (h1 23 8 _ rfl))))) (fun h => no_some rfl h) (fun h => no_some rfl h) (fun h => no_some rfl h)).trans
      (congrArg (fun x => Except.ok (Instr.qcount x)) (QgetForm_of (h 31 1 _ rfl) (h 16 7 _ rfl) (h 0 5 _ rfl))))
    (plain_of_major (h 25 6 _ rfl) (by decide)) (fun p hp => no_eq rfl hp) (fun h => no_some rfl h)

theorem qclose (f : QcloseForm) : Statement (.qclose f) := fun _ _ => by
  obtain ⟨w, e⟩ : ∃ w, w = 0x57800000 + f.bits := ⟨_, rfl⟩
  have h := Layout.reads (w := w) [(5, f.q.toNat), (20, 786432), (6, 43), (1, f.c.toNat)]
    ⟨f.q.isLt, by decide, by decide, f.c.toNat_lt, trivial⟩ (by rw [e]; simp only [QcloseForm.bits, Layout.value]; omega)
  have h1 := Layout.reads (w := w) [(5, f.q.toNat), (26, 45875200), (1, f.c.toNat)]
    ⟨f.q.isLt, by decide, f.c.toNat_lt, trivial⟩ (by rw [e]; simp only [QcloseForm.bits, Layout.value]; omega)
  have h2 := Layout.reads (w := w) [(5, f.q.toNat), (18, 0), (8, 175), (1, f.c.toNat)]
    ⟨f.q.isLt, by decide, by decide, f.c.toNat_lt, trivial⟩ (by rw [e]; simp only [QcloseForm.bits, Layout.value]; omega)
  exact decode_encode (by rw [e]; rfl)
    ((decodeBase_of (h 25 6 _ rfl) (r := ⟨[(5, 26, 45875200)], false, false, false, fun b w => .qclose (.ofWord b w)⟩)
      (find_next (row_no (.tail _ (.head _)) 0 8 _ (by decide) (h2 23 8 _ rfl) (by decide))
      (find_next (row_no (.tail _ (.head _)) 0 8 _ (by decide) (h2 23 8 _ rfl) (by decide))
      (find_next (row_no (.tail _ (.head _)) 0 8 _ (by decide) (h2 23 8 _ rfl) (by decide))
      (find_here (row_yes1 (h1 5 26 _ rfl)))))) (fun h => no_some rfl h) (fun h => no_some rfl h) (fun h => no_some rfl h)).trans
      (congrArg (fun x => Except.ok (Instr.qclose x)) (QcloseForm_of (h 31 1 _ rfl) (h 0 5 _ rfl))))
    (plain_of_major (h 25 6 _ rfl) (by decide)) (fun p hp => no_eq rfl hp) (fun h => no_some rfl h)

theorem sadd (f : S3Form) : Statement (.sadd f) := fun _ hw => by
  obtain ⟨w, e⟩ : ∃ w, w = 0x58000000 + f.bits := ⟨_, rfl⟩
  have h := Layout.reads (w := w) [(1, f.y.toNat), (1, f.x.toNat), (2, 0), (5, f.b.toNat), (2, 0), (5, f.a.toNat), (2, 0), (5, f.d.toNat), (2, 0), (6, 44), (1, f.c.toNat)]
    ⟨f.y.toNat_lt, f.x.toNat_lt, by decide, f.b.isLt, by decide, f.a.isLt, by decide, f.d.isLt, by decide, by decide, f.c.toNat_lt, trivial⟩ (by rw [e]; simp only [S3Form.bits, Layout.value]; omega)
  have h1 := Layout.reads (w := w) [(1, f.y.toNat), (1, f.x.toNat), (2, 0), (5, f.b.toNat), (2, 0), (5, f.a.toNat), (2, 0), (5, f.d.toNat), (8, 176), (1, f.c.toNat)]
    ⟨f.y.toNat_lt, f.x.toNat_lt, by decide, f.b.isLt, by decide, f.a.isLt, by decide, f.d.isLt, by decide, f.c.toNat_lt, trivial⟩ (by rw [e]; simp only [S3Form.bits, Layout.value]; omega)
  exact decode_encode (by rw [e]; rfl)
    ((decodeBase_of (h 25 6 _ rfl) (r := ⟨[(2, 2, 0), (9, 2, 0), (16, 2, 0), (23, 8, 176)], true, false, false, fun b w => .sadd (.ofWord b w)⟩)
      (find_here (row_yes4 (h 2 2 _ rfl) (h 9 2 _ rfl) (h 16 2 _ rfl) (h1 23 8 _ rfl))) (fun _ => rfl) (fun h => no_some rfl h) (fun h => no_some rfl h)).trans
      (congrArg (fun x => Except.ok (Instr.sadd x)) (S3Form_of rfl (h 31 1 _ rfl) (h 18 5 _ rfl) (h 11 5 _ rfl) (h 4 5 _ rfl) (h 1 1 _ rfl) (h 0 1 _ rfl))))
    (plain_of_major (h 25 6 _ rfl) (by decide)) (fun p hp => ⟨defined_of_fits hw p hp, fun h3 => by rw [show w / 2 ^ 25 % 64 = 44 from h 25 6 _ rfl] at h3; exact absurd h3 (by decide)⟩) (fun h => no_some rfl h)

theorem ssub (f : S3Form) : Statement (.ssub f) := fun _ hw => by
  obtain ⟨w, e⟩ : ∃ w, w = 0x58000004 + f.bits := ⟨_, rfl⟩
  have h := Layout.reads (w := w) [(1, f.y.toNat), (1, f.x.toNat), (2, 1), (5, f.b.toNat), (2, 0), (5, f.a.toNat), (2, 0), (5, f.d.toNat), (2, 0), (6, 44), (1, f.c.toNat)]
    ⟨f.y.toNat_lt, f.x.toNat_lt, by decide, f.b.isLt, by decide, f.a.isLt, by decide, f.d.isLt, by decide, by decide, f.c.toNat_lt, trivial⟩ (by rw [e]; simp only [S3Form.bits, Layout.value]; omega)
  have h1 := Layout.reads (w := w) [(1, f.y.toNat), (1, f.x.toNat), (2, 1), (5, f.b.toNat), (2, 0), (5, f.a.toNat), (2, 0), (5, f.d.toNat), (8, 176), (1, f.c.toNat)]
    ⟨f.y.toNat_lt, f.x.toNat_lt, by decide, f.b.isLt, by decide, f.a.isLt, by decide, f.d.isLt, by decide, f.c.toNat_lt, trivial⟩ (by rw [e]; simp only [S3Form.bits, Layout.value]; omega)
  exact decode_encode (by rw [e]; rfl)
    ((decodeBase_of (h 25 6 _ rfl) (r := ⟨[(2, 2, 1), (9, 2, 0), (16, 2, 0), (23, 8, 176)], true, false, false, fun b w => .ssub (.ofWord b w)⟩)
      (find_next (row_no (.head _) 0 2 _ (by decide) (h 2 2 _ rfl) (by decide))
      (find_here (row_yes4 (h 2 2 _ rfl) (h 9 2 _ rfl) (h 16 2 _ rfl) (h1 23 8 _ rfl)))) (fun _ => rfl) (fun h => no_some rfl h) (fun h => no_some rfl h)).trans
      (congrArg (fun x => Except.ok (Instr.ssub x)) (S3Form_of rfl (h 31 1 _ rfl) (h 18 5 _ rfl) (h 11 5 _ rfl) (h 4 5 _ rfl) (h 1 1 _ rfl) (h 0 1 _ rfl))))
    (plain_of_major (h 25 6 _ rfl) (by decide)) (fun p hp => ⟨defined_of_fits hw p hp, fun h3 => by rw [show w / 2 ^ 25 % 64 = 44 from h 25 6 _ rfl] at h3; exact absurd h3 (by decide)⟩) (fun h => no_some rfl h)

theorem smul (f : S3Form) : Statement (.smul f) := fun _ hw => by
  obtain ⟨w, e⟩ : ∃ w, w = 0x58000008 + f.bits := ⟨_, rfl⟩
  have h := Layout.reads (w := w) [(1, f.y.toNat), (1, f.x.toNat), (2, 2), (5, f.b.toNat), (2, 0), (5, f.a.toNat), (2, 0), (5, f.d.toNat), (2, 0), (6, 44), (1, f.c.toNat)]
    ⟨f.y.toNat_lt, f.x.toNat_lt, by decide, f.b.isLt, by decide, f.a.isLt, by decide, f.d.isLt, by decide, by decide, f.c.toNat_lt, trivial⟩ (by rw [e]; simp only [S3Form.bits, Layout.value]; omega)
  have h1 := Layout.reads (w := w) [(1, f.y.toNat), (1, f.x.toNat), (2, 2), (5, f.b.toNat), (2, 0), (5, f.a.toNat), (2, 0), (5, f.d.toNat), (8, 176), (1, f.c.toNat)]
    ⟨f.y.toNat_lt, f.x.toNat_lt, by decide, f.b.isLt, by decide, f.a.isLt, by decide, f.d.isLt, by decide, f.c.toNat_lt, trivial⟩ (by rw [e]; simp only [S3Form.bits, Layout.value]; omega)
  exact decode_encode (by rw [e]; rfl)
    ((decodeBase_of (h 25 6 _ rfl) (r := ⟨[(2, 2, 2), (9, 2, 0), (16, 2, 0), (23, 8, 176)], true, false, false, fun b w => .smul (.ofWord b w)⟩)
      (find_next (row_no (.head _) 0 2 _ (by decide) (h 2 2 _ rfl) (by decide))
      (find_next (row_no (.head _) 0 2 _ (by decide) (h 2 2 _ rfl) (by decide))
      (find_here (row_yes4 (h 2 2 _ rfl) (h 9 2 _ rfl) (h 16 2 _ rfl) (h1 23 8 _ rfl))))) (fun _ => rfl) (fun h => no_some rfl h) (fun h => no_some rfl h)).trans
      (congrArg (fun x => Except.ok (Instr.smul x)) (S3Form_of rfl (h 31 1 _ rfl) (h 18 5 _ rfl) (h 11 5 _ rfl) (h 4 5 _ rfl) (h 1 1 _ rfl) (h 0 1 _ rfl))))
    (plain_of_major (h 25 6 _ rfl) (by decide)) (fun p hp => ⟨defined_of_fits hw p hp, fun h3 => by rw [show w / 2 ^ 25 % 64 = 44 from h 25 6 _ rfl] at h3; exact absurd h3 (by decide)⟩) (fun h => no_some rfl h)

theorem sfma (f : S3Form) : Statement (.sfma f) := fun _ hw => by
  obtain ⟨w, e⟩ : ∃ w, w = 0x5800000C + f.bits := ⟨_, rfl⟩
  have h := Layout.reads (w := w) [(1, f.y.toNat), (1, f.x.toNat), (2, 3), (5, f.b.toNat), (2, 0), (5, f.a.toNat), (2, 0), (5, f.d.toNat), (2, 0), (6, 44), (1, f.c.toNat)]
    ⟨f.y.toNat_lt, f.x.toNat_lt, by decide, f.b.isLt, by decide, f.a.isLt, by decide, f.d.isLt, by decide, by decide, f.c.toNat_lt, trivial⟩ (by rw [e]; simp only [S3Form.bits, Layout.value]; omega)
  have h1 := Layout.reads (w := w) [(1, f.y.toNat), (1, f.x.toNat), (2, 3), (5, f.b.toNat), (2, 0), (5, f.a.toNat), (2, 0), (5, f.d.toNat), (8, 176), (1, f.c.toNat)]
    ⟨f.y.toNat_lt, f.x.toNat_lt, by decide, f.b.isLt, by decide, f.a.isLt, by decide, f.d.isLt, by decide, f.c.toNat_lt, trivial⟩ (by rw [e]; simp only [S3Form.bits, Layout.value]; omega)
  exact decode_encode (by rw [e]; rfl)
    ((decodeBase_of (h 25 6 _ rfl) (r := ⟨[(2, 2, 3), (9, 2, 0), (16, 2, 0), (23, 8, 176)], true, false, false, fun b w => .sfma (.ofWord b w)⟩)
      (find_next (row_no (.head _) 0 2 _ (by decide) (h 2 2 _ rfl) (by decide))
      (find_next (row_no (.head _) 0 2 _ (by decide) (h 2 2 _ rfl) (by decide))
      (find_next (row_no (.head _) 0 2 _ (by decide) (h 2 2 _ rfl) (by decide))
      (find_here (row_yes4 (h 2 2 _ rfl) (h 9 2 _ rfl) (h 16 2 _ rfl) (h1 23 8 _ rfl)))))) (fun _ => rfl) (fun h => no_some rfl h) (fun h => no_some rfl h)).trans
      (congrArg (fun x => Except.ok (Instr.sfma x)) (S3Form_of rfl (h 31 1 _ rfl) (h 18 5 _ rfl) (h 11 5 _ rfl) (h 4 5 _ rfl) (h 1 1 _ rfl) (h 0 1 _ rfl))))
    (plain_of_major (h 25 6 _ rfl) (by decide)) (fun p hp => ⟨defined_of_fits hw p hp, fun h3 => by rw [show w / 2 ^ 25 % 64 = 44 from h 25 6 _ rfl] at h3; exact absurd h3 (by decide)⟩) (fun h => no_some rfl h)

theorem smin (f : S3Form) : Statement (.smin f) := fun _ hw => by
  obtain ⟨w, e⟩ : ∃ w, w = 0x5A000000 + f.bits := ⟨_, rfl⟩
  have h := Layout.reads (w := w) [(1, f.y.toNat), (1, f.x.toNat), (2, 0), (5, f.b.toNat), (2, 0), (5, f.a.toNat), (2, 0), (5, f.d.toNat), (2, 0), (6, 45), (1, f.c.toNat)]
    ⟨f.y.toNat_lt, f.x.toNat_lt, by decide, f.b.isLt, by decide, f.a.isLt, by decide, f.d.isLt, by decide, by decide, f.c.toNat_lt, trivial⟩ (by rw [e]; simp only [S3Form.bits, Layout.value]; omega)
  have h1 := Layout.reads (w := w) [(1, f.y.toNat), (1, f.x.toNat), (2, 0), (5, f.b.toNat), (2, 0), (5, f.a.toNat), (2, 0), (5, f.d.toNat), (8, 180), (1, f.c.toNat)]
    ⟨f.y.toNat_lt, f.x.toNat_lt, by decide, f.b.isLt, by decide, f.a.isLt, by decide, f.d.isLt, by decide, f.c.toNat_lt, trivial⟩ (by rw [e]; simp only [S3Form.bits, Layout.value]; omega)
  exact decode_encode (by rw [e]; rfl)
    ((decodeBase_of (h 25 6 _ rfl) (r := ⟨[(2, 2, 0), (9, 2, 0), (16, 2, 0), (23, 8, 180)], true, false, false, fun b w => .smin (.ofWord b w)⟩)
      (find_here (row_yes4 (h 2 2 _ rfl) (h 9 2 _ rfl) (h 16 2 _ rfl) (h1 23 8 _ rfl))) (fun _ => rfl) (fun h => no_some rfl h) (fun h => no_some rfl h)).trans
      (congrArg (fun x => Except.ok (Instr.smin x)) (S3Form_of rfl (h 31 1 _ rfl) (h 18 5 _ rfl) (h 11 5 _ rfl) (h 4 5 _ rfl) (h 1 1 _ rfl) (h 0 1 _ rfl))))
    (plain_of_major (h 25 6 _ rfl) (by decide)) (fun p hp => ⟨defined_of_fits hw p hp, fun h3 => by rw [show w / 2 ^ 25 % 64 = 45 from h 25 6 _ rfl] at h3; exact absurd h3 (by decide)⟩) (fun h => no_some rfl h)

theorem smax (f : S3Form) : Statement (.smax f) := fun _ hw => by
  obtain ⟨w, e⟩ : ∃ w, w = 0x5A000004 + f.bits := ⟨_, rfl⟩
  have h := Layout.reads (w := w) [(1, f.y.toNat), (1, f.x.toNat), (2, 1), (5, f.b.toNat), (2, 0), (5, f.a.toNat), (2, 0), (5, f.d.toNat), (2, 0), (6, 45), (1, f.c.toNat)]
    ⟨f.y.toNat_lt, f.x.toNat_lt, by decide, f.b.isLt, by decide, f.a.isLt, by decide, f.d.isLt, by decide, by decide, f.c.toNat_lt, trivial⟩ (by rw [e]; simp only [S3Form.bits, Layout.value]; omega)
  have h1 := Layout.reads (w := w) [(1, f.y.toNat), (1, f.x.toNat), (2, 1), (5, f.b.toNat), (2, 0), (5, f.a.toNat), (2, 0), (5, f.d.toNat), (8, 180), (1, f.c.toNat)]
    ⟨f.y.toNat_lt, f.x.toNat_lt, by decide, f.b.isLt, by decide, f.a.isLt, by decide, f.d.isLt, by decide, f.c.toNat_lt, trivial⟩ (by rw [e]; simp only [S3Form.bits, Layout.value]; omega)
  exact decode_encode (by rw [e]; rfl)
    ((decodeBase_of (h 25 6 _ rfl) (r := ⟨[(2, 2, 1), (9, 2, 0), (16, 2, 0), (23, 8, 180)], true, false, false, fun b w => .smax (.ofWord b w)⟩)
      (find_next (row_no (.head _) 0 2 _ (by decide) (h 2 2 _ rfl) (by decide))
      (find_here (row_yes4 (h 2 2 _ rfl) (h 9 2 _ rfl) (h 16 2 _ rfl) (h1 23 8 _ rfl)))) (fun _ => rfl) (fun h => no_some rfl h) (fun h => no_some rfl h)).trans
      (congrArg (fun x => Except.ok (Instr.smax x)) (S3Form_of rfl (h 31 1 _ rfl) (h 18 5 _ rfl) (h 11 5 _ rfl) (h 4 5 _ rfl) (h 1 1 _ rfl) (h 0 1 _ rfl))))
    (plain_of_major (h 25 6 _ rfl) (by decide)) (fun p hp => ⟨defined_of_fits hw p hp, fun h3 => by rw [show w / 2 ^ 25 % 64 = 45 from h 25 6 _ rfl] at h3; exact absurd h3 (by decide)⟩) (fun h => no_some rfl h)

theorem sdiv (f : S3Form) : Statement (.sdiv f) := fun _ hw => by
  obtain ⟨w, e⟩ : ∃ w, w = 0x5A000008 + f.bits := ⟨_, rfl⟩
  have h := Layout.reads (w := w) [(1, f.y.toNat), (1, f.x.toNat), (2, 2), (5, f.b.toNat), (2, 0), (5, f.a.toNat), (2, 0), (5, f.d.toNat), (2, 0), (6, 45), (1, f.c.toNat)]
    ⟨f.y.toNat_lt, f.x.toNat_lt, by decide, f.b.isLt, by decide, f.a.isLt, by decide, f.d.isLt, by decide, by decide, f.c.toNat_lt, trivial⟩ (by rw [e]; simp only [S3Form.bits, Layout.value]; omega)
  have h1 := Layout.reads (w := w) [(1, f.y.toNat), (1, f.x.toNat), (2, 2), (5, f.b.toNat), (2, 0), (5, f.a.toNat), (2, 0), (5, f.d.toNat), (8, 180), (1, f.c.toNat)]
    ⟨f.y.toNat_lt, f.x.toNat_lt, by decide, f.b.isLt, by decide, f.a.isLt, by decide, f.d.isLt, by decide, f.c.toNat_lt, trivial⟩ (by rw [e]; simp only [S3Form.bits, Layout.value]; omega)
  exact decode_encode (by rw [e]; rfl)
    ((decodeBase_of (h 25 6 _ rfl) (r := ⟨[(2, 2, 2), (9, 2, 0), (16, 2, 0), (23, 8, 180)], true, false, false, fun b w => .sdiv (.ofWord b w)⟩)
      (find_next (row_no (.head _) 0 2 _ (by decide) (h 2 2 _ rfl) (by decide))
      (find_next (row_no (.head _) 0 2 _ (by decide) (h 2 2 _ rfl) (by decide))
      (find_here (row_yes4 (h 2 2 _ rfl) (h 9 2 _ rfl) (h 16 2 _ rfl) (h1 23 8 _ rfl))))) (fun _ => rfl) (fun h => no_some rfl h) (fun h => no_some rfl h)).trans
      (congrArg (fun x => Except.ok (Instr.sdiv x)) (S3Form_of rfl (h 31 1 _ rfl) (h 18 5 _ rfl) (h 11 5 _ rfl) (h 4 5 _ rfl) (h 1 1 _ rfl) (h 0 1 _ rfl))))
    (plain_of_major (h 25 6 _ rfl) (by decide)) (fun p hp => ⟨defined_of_fits hw p hp, fun h3 => by rw [show w / 2 ^ 25 % 64 = 45 from h 25 6 _ rfl] at h3; exact absurd h3 (by decide)⟩) (fun h => no_some rfl h)

theorem ssqrt (f : S2Form) : Statement (.ssqrt f) := fun _ hw => by
  obtain ⟨w, e⟩ : ∃ w, w = 0x5A00000C + f.bits := ⟨_, rfl⟩
  have h := Layout.reads (w := w) [(1, 0), (1, f.x.toNat), (9, 3), (5, f.a.toNat), (2, 0), (5, f.d.toNat), (2, 0), (6, 45), (1, f.c.toNat)]
    ⟨by decide, f.x.toNat_lt, by decide, f.a.isLt, by decide, f.d.isLt, by decide, by decide, f.c.toNat_lt, trivial⟩ (by rw [e]; simp only [S2Form.bits, Layout.value]; omega)
  have h1 := Layout.reads (w := w) [(1, 0), (1, f.x.toNat), (2, 3), (7, 0), (5, f.a.toNat), (2, 0), (5, f.d.toNat), (8, 180), (1, f.c.toNat)]
    ⟨by decide, f.x.toNat_lt, by decide, by decide, f.a.isLt, by decide, f.d.isLt, by decide, f.c.toNat_lt, trivial⟩ (by rw [e]; simp only [S2Form.bits, Layout.value]; omega)
  exact decode_encode (by rw [e]; rfl)
    ((decodeBase_of (h 25 6 _ rfl) (r := ⟨[(0, 1, 0), (2, 9, 3), (16, 2, 0), (23, 8, 180)], true, false, false, fun b w => .ssqrt (.ofWord b w)⟩)
      (find_next (row_no (.head _) 0 2 _ (by decide) (h1 2 2 _ rfl) (by decide))
      (find_next (row_no (.head _) 0 2 _ (by decide) (h1 2 2 _ rfl) (by decide))
      (find_next (row_no (.head _) 0 2 _ (by decide) (h1 2 2 _ rfl) (by decide))
      (find_here (row_yes4 (h 0 1 _ rfl) (h 2 9 _ rfl) (h 16 2 _ rfl) (h1 23 8 _ rfl)))))) (fun _ => rfl) (fun h => no_some rfl h) (fun h => no_some rfl h)).trans
      (congrArg (fun x => Except.ok (Instr.ssqrt x)) (S2Form_of rfl (h 31 1 _ rfl) (h 18 5 _ rfl) (h 11 5 _ rfl) (h 1 1 _ rfl))))
    (plain_of_major (h 25 6 _ rfl) (by decide)) (fun p hp => ⟨defined_of_fits hw p hp, fun h3 => by rw [show w / 2 ^ 25 % 64 = 45 from h 25 6 _ rfl] at h3; exact absurd h3 (by decide)⟩) (fun h => no_some rfl h)

theorem sexp (f : S2Form) : Statement (.sexp f) := fun _ hw => by
  obtain ⟨w, e⟩ : ∃ w, w = 0x5C000000 + f.bits := ⟨_, rfl⟩
  have h := Layout.reads (w := w) [(1, 0), (1, f.x.toNat), (9, 0), (5, f.a.toNat), (2, 0), (5, f.d.toNat), (2, 0), (6, 46), (1, f.c.toNat)]
    ⟨by decide, f.x.toNat_lt, by decide, f.a.isLt, by decide, f.d.isLt, by decide, by decide, f.c.toNat_lt, trivial⟩ (by rw [e]; simp only [S2Form.bits, Layout.value]; omega)
  have h1 := Layout.reads (w := w) [(1, 0), (1, f.x.toNat), (9, 0), (5, f.a.toNat), (2, 0), (5, f.d.toNat), (8, 184), (1, f.c.toNat)]
    ⟨by decide, f.x.toNat_lt, by decide, f.a.isLt, by decide, f.d.isLt, by decide, f.c.toNat_lt, trivial⟩ (by rw [e]; simp only [S2Form.bits, Layout.value]; omega)
  exact decode_encode (by rw [e]; rfl)
    ((decodeBase_of (h 25 6 _ rfl) (r := ⟨[(0, 1, 0), (2, 9, 0), (16, 2, 0), (23, 8, 184)], true, false, false, fun b w => .sexp (.ofWord b w)⟩)
      (find_here (row_yes4 (h 0 1 _ rfl) (h 2 9 _ rfl) (h 16 2 _ rfl) (h1 23 8 _ rfl))) (fun _ => rfl) (fun h => no_some rfl h) (fun h => no_some rfl h)).trans
      (congrArg (fun x => Except.ok (Instr.sexp x)) (S2Form_of rfl (h 31 1 _ rfl) (h 18 5 _ rfl) (h 11 5 _ rfl) (h 1 1 _ rfl))))
    (plain_of_major (h 25 6 _ rfl) (by decide)) (fun p hp => ⟨defined_of_fits hw p hp, fun h3 => by rw [show w / 2 ^ 25 % 64 = 46 from h 25 6 _ rfl] at h3; exact absurd h3 (by decide)⟩) (fun h => no_some rfl h)

theorem shsum (f : SToVForm) : Statement (.shsum f) := fun _ hw => by
  obtain ⟨w, e⟩ : ∃ w, w = 0x5C000004 + f.bits := ⟨_, rfl⟩
  have h := Layout.reads (w := w) [(1, 0), (1, f.x.toNat), (9, 1), (5, f.a.toNat), (2, 0), (7, f.d.toNat), (6, 46), (1, f.c.toNat)]
    ⟨by decide, f.x.toNat_lt, by decide, f.a.isLt, by decide, f.d.isLt, by decide, f.c.toNat_lt, trivial⟩ (by rw [e]; simp only [SToVForm.bits, Layout.value]; omega)
  exact decode_encode (by rw [e]; rfl)
    ((decodeBase_of (h 25 6 _ rfl) (r := ⟨[(0, 1, 0), (2, 9, 1), (16, 2, 0), (25, 6, 46)], true, false, false, fun b w => .shsum (.ofWord b w)⟩)
      (find_next (row_no (.tail _ (.head _)) 0 9 _ (by decide) (h 2 9 _ rfl) (by decide))
      (find_here (row_yes4 (h 0 1 _ rfl) (h 2 9 _ rfl) (h 16 2 _ rfl) (h 25 6 _ rfl)))) (fun _ => rfl) (fun h => no_some rfl h) (fun h => no_some rfl h)).trans
      (congrArg (fun x => Except.ok (Instr.shsum x)) (SToVForm_of rfl (h 31 1 _ rfl) (h 18 7 _ rfl) (h 11 5 _ rfl) (h 1 1 _ rfl))))
    (plain_of_major (h 25 6 _ rfl) (by decide)) (fun p hp => ⟨defined_of_fits hw p hp, fun h3 => by rw [show w / 2 ^ 25 % 64 = 46 from h 25 6 _ rfl] at h3; exact absurd h3 (by decide)⟩) (fun h => no_some rfl h)

theorem sdot (f : SdotForm) : Statement (.sdot f) := fun _ hw => by
  obtain ⟨w, e⟩ : ∃ w, w = 0x5C000008 + f.bits := ⟨_, rfl⟩
  have h := Layout.reads (w := w) [(1, f.y.toNat), (1, f.x.toNat), (2, 2), (5, f.b.toNat), (2, 0), (5, f.a.toNat), (2, 0), (7, f.d.toNat), (6, 46), (1, f.c.toNat)]
    ⟨f.y.toNat_lt, f.x.toNat_lt, by decide, f.b.isLt, by decide, f.a.isLt, by decide, f.d.isLt, by decide, f.c.toNat_lt, trivial⟩ (by rw [e]; simp only [SdotForm.bits, Layout.value]; omega)
  exact decode_encode (by rw [e]; rfl)
    ((decodeBase_of (h 25 6 _ rfl) (r := ⟨[(2, 2, 2), (9, 2, 0), (16, 2, 0), (25, 6, 46)], true, false, false, fun b w => .sdot (.ofWord b w)⟩)
      (find_next (row_no (.tail _ (.head _)) 0 2 _ (by decide) (h 2 2 _ rfl) (by decide))
      (find_next (row_no (.tail _ (.head _)) 0 2 _ (by decide) (h 2 2 _ rfl) (by decide))
      (find_here (row_yes4 (h 2 2 _ rfl) (h 9 2 _ rfl) (h 16 2 _ rfl) (h 25 6 _ rfl))))) (fun _ => rfl) (fun h => no_some rfl h) (fun h => no_some rfl h)).trans
      (congrArg (fun x => Except.ok (Instr.sdot x)) (SdotForm_of rfl (h 31 1 _ rfl) (h 18 7 _ rfl) (h 11 5 _ rfl) (h 4 5 _ rfl) (h 1 1 _ rfl) (h 0 1 _ rfl))))
    (plain_of_major (h 25 6 _ rfl) (by decide)) (fun p hp => ⟨defined_of_fits hw p hp, fun h3 => by rw [show w / 2 ^ 25 % 64 = 46 from h 25 6 _ rfl] at h3; exact absurd h3 (by decide)⟩) (fun h => no_some rfl h)

theorem sbcast (f : VToSForm) : Statement (.sbcast f) := fun _ hw => by
  obtain ⟨w, e⟩ : ∃ w, w = 0x5C00000C + f.bits := ⟨_, rfl⟩
  have h := Layout.reads (w := w) [(1, 0), (1, f.x.toNat), (9, 3), (7, f.a.toNat), (5, f.d.toNat), (2, 0), (6, 46), (1, f.c.toNat)]
    ⟨by decide, f.x.toNat_lt, by decide, f.a.isLt, f.d.isLt, by decide, by decide, f.c.toNat_lt, trivial⟩ (by rw [e]; simp only [VToSForm.bits, Layout.value]; omega)
  have h1 := Layout.reads (w := w) [(1, 0), (1, f.x.toNat), (2, 3), (7, 0), (7, f.a.toNat), (5, f.d.toNat), (8, 184), (1, f.c.toNat)]
    ⟨by decide, f.x.toNat_lt, by decide, by decide, f.a.isLt, f.d.isLt, by decide, f.c.toNat_lt, trivial⟩ (by rw [e]; simp only [VToSForm.bits, Layout.value]; omega)
  exact decode_encode (by rw [e]; rfl)
    ((decodeBase_of (h 25 6 _ rfl) (r := ⟨[(0, 1, 0), (2, 9, 3), (23, 8, 184)], true, false, false, fun b w => .sbcast (.ofWord b w)⟩)
      (find_next (row_no (.tail _ (.head _)) 0 9 _ (by decide) (h 2 9 _ rfl) (by decide))
      (find_next (row_no (.tail _ (.head _)) 0 9 _ (by decide) (h 2 9 _ rfl) (by decide))
      (find_next (row_no (.head _) 0 2 _ (by decide) (h1 2 2 _ rfl) (by decide))
      (find_here (row_yes3 (h 0 1 _ rfl) (h 2 9 _ rfl) (h1 23 8 _ rfl)))))) (fun _ => rfl) (fun h => no_some rfl h) (fun h => no_some rfl h)).trans
      (congrArg (fun x => Except.ok (Instr.sbcast x)) (VToSForm_of rfl (h 31 1 _ rfl) (h 18 5 _ rfl) (h 11 7 _ rfl) (h 1 1 _ rfl))))
    (plain_of_major (h 25 6 _ rfl) (by decide)) (fun p hp => ⟨defined_of_fits hw p hp, fun h3 => by rw [show w / 2 ^ 25 % 64 = 46 from h 25 6 _ rfl] at h3; exact absurd h3 (by decide)⟩) (fun h => no_some rfl h)

theorem slane (f : SlaneForm) : Statement (.slane f) := fun _ hw => by
  obtain ⟨w, e⟩ : ∃ w, w = 0x5E000000 + f.bits := ⟨_, rfl⟩
  have h := Layout.reads (w := w) [(1, 0), (1, f.x.toNat), (2, 0), (2, f.i.toNat), (5, 0), (5, f.a.toNat), (2, 0), (7, f.d.toNat), (6, 47), (1, f.c.toNat)]
    ⟨by decide, f.x.toNat_lt, by decide, f.i.isLt, by decide, f.a.isLt, by decide, f.d.isLt, by decide, f.c.toNat_lt, trivial⟩ (by rw [e]; simp only [SlaneForm.bits, Layout.value]; omega)
  exact decode_encode (by rw [e]; rfl)
    ((decodeBase_of (h 25 6 _ rfl) (r := ⟨[(0, 1, 0), (2, 2, 0), (6, 5, 0), (16, 2, 0), (25, 6, 47)], true, false, false, fun b w => .slane (.ofWord b w)⟩)
      (find_here (row_yes5 (h 0 1 _ rfl) (h 2 2 _ rfl) (h 6 5 _ rfl) (h 16 2 _ rfl) (h 25 6 _ rfl))) (fun _ => rfl) (fun h => no_some rfl h) (fun h => no_some rfl h)).trans
      (congrArg (fun x => Except.ok (Instr.slane x)) (SlaneForm_of rfl (h 31 1 _ rfl) (h 18 7 _ rfl) (h 11 5 _ rfl) (h 4 2 _ rfl) (h 1 1 _ rfl))))
    (plain_of_major (h 25 6 _ rfl) (by decide)) (fun p hp => ⟨defined_of_fits hw p hp, fun h3 => by rw [show w / 2 ^ 25 % 64 = 47 from h 25 6 _ rfl] at h3; exact absurd h3 (by decide)⟩) (fun h => no_some rfl h)

theorem sins (f : SinsForm) : Statement (.sins f) := fun _ hw => by
  obtain ⟨w, e⟩ : ∃ w, w = 0x5E000004 + f.bits := ⟨_, rfl⟩
  have h := Layout.reads (w := w) [(1, 0), (1, f.x.toNat), (2, 1), (2, f.i.toNat), (5, 0), (7, f.a.toNat), (5, f.d.toNat), (2, 0), (6, 47), (1, f.c.toNat)]
    ⟨by decide, f.x.toNat_lt, by decide, f.i.isLt, by decide, f.a.isLt, f.d.isLt, by decide, by decide, f.c.toNat_lt, trivial⟩ (by rw [e]; simp only [SinsForm.bits, Layout.value]; omega)
  have h1 := Layout.reads (w := w) [(1, 0), (1, f.x.toNat), (2, 1), (2, f.i.toNat), (5, 0), (7, f.a.toNat), (5, f.d.toNat), (8, 188), (1, f.c.toNat)]
    ⟨by decide, f.x.toNat_lt, by decide, f.i.isLt, by decide, f.a.isLt, f.d.isLt, by decide, f.c.toNat_lt, trivial⟩ (by rw [e]; simp only [SinsForm.bits, Layout.value]; omega)
  exact decode_encode (by rw [e]; rfl)
    ((decodeBase_of (h 25 6 _ rfl) (r := ⟨[(0, 1, 0), (2, 2, 1), (6, 5, 0), (23, 8, 188)], true, false, false, fun b w => .sins (.ofWord b w)⟩)
      (find_next (row_no (.tail _ (.head _)) 0 2 _ (by decide) (h 2 2 _ rfl) (by decide))
      (find_here (row_yes4 (h 0 1 _ rfl) (h 2 2 _ rfl) (h 6 5 _ rfl) (h1 23 8 _ rfl)))) (fun _ => rfl) (fun h => no_some rfl h) (fun h => no_some rfl h)).trans
      (congrArg (fun x => Except.ok (Instr.sins x)) (SinsForm_of rfl (h 31 1 _ rfl) (h 18 5 _ rfl) (h 11 7 _ rfl) (h 4 2 _ rfl) (h 1 1 _ rfl))))
    (plain_of_major (h 25 6 _ rfl) (by decide)) (fun p hp => ⟨defined_of_fits hw p hp, fun h3 => by rw [show w / 2 ^ 25 % 64 = 47 from h 25 6 _ rfl] at h3; exact absurd h3 (by decide)⟩) (fun h => no_some rfl h)

theorem scmp (f : ScmpForm) : Statement (.scmp f) := fun _ hw => by
  obtain ⟨w, e⟩ : ∃ w, w = 0x5E000008 + f.bits := ⟨_, rfl⟩
  have h := Layout.reads (w := w) [(1, f.y.toNat), (1, f.x.toNat), (2, 2), (5, f.b.toNat), (2, 0), (5, f.a.toNat), (2, 0), (4, f.d.toNat), (3, f.n.toNat), (6, 47), (1, f.c.toNat)]
    ⟨f.y.toNat_lt, f.x.toNat_lt, by decide, f.b.isLt, by decide, f.a.isLt, by decide, f.d.isLt, f.n.isLt, by decide, f.c.toNat_lt, trivial⟩ (by rw [e]; simp only [ScmpForm.bits, Layout.value]; omega)
  exact decode_encode (by rw [e]; rfl)
    ((decodeBase_of (h 25 6 _ rfl) (r := ⟨[(2, 2, 2), (9, 2, 0), (16, 2, 0), (25, 6, 47)], true, false, false, fun b w => .scmp (.ofWord b w)⟩)
      (find_next (row_no (.tail _ (.head _)) 0 2 _ (by decide) (h 2 2 _ rfl) (by decide))
      (find_next (row_no (.tail _ (.head _)) 0 2 _ (by decide) (h 2 2 _ rfl) (by decide))
      (find_here (row_yes4 (h 2 2 _ rfl) (h 9 2 _ rfl) (h 16 2 _ rfl) (h 25 6 _ rfl))))) (fun _ => rfl) (fun h => no_some rfl h) (fun h => no_some rfl h)).trans
      (congrArg (fun x => Except.ok (Instr.scmp x)) (ScmpForm_of rfl (h 31 1 _ rfl) (h 22 3 _ rfl) (h 18 4 _ rfl) (h 11 5 _ rfl) (h 4 5 _ rfl) (h 1 1 _ rfl) (h 0 1 _ rfl))))
    (plain_of_major (h 25 6 _ rfl) (by decide)) (fun p hp => ⟨defined_of_fits (and_right hw) p hp, fun h3 => by rw [show w / 2 ^ 25 % 64 = 47 from h 25 6 _ rfl] at h3; exact absurd h3 (by decide)⟩) (fun h => no_some rfl h)

theorem ssel (f : S3Form) : Statement (.ssel f) := fun _ hw => by
  obtain ⟨w, e⟩ : ∃ w, w = 0x5E00000C + f.bits := ⟨_, rfl⟩
  have h := Layout.reads (w := w) [(1, f.y.toNat), (1, f.x.toNat), (2, 3), (5, f.b.toNat), (2, 0), (5, f.a.toNat), (2, 0), (5, f.d.toNat), (2, 0), (6, 47), (1, f.c.toNat)]
    ⟨f.y.toNat_lt, f.x.toNat_lt, by decide, f.b.isLt, by decide, f.a.isLt, by decide, f.d.isLt, by decide, by decide, f.c.toNat_lt, trivial⟩ (by rw [e]; simp only [S3Form.bits, Layout.value]; omega)
  have h1 := Layout.reads (w := w) [(1, f.y.toNat), (1, f.x.toNat), (2, 3), (5, f.b.toNat), (2, 0), (5, f.a.toNat), (2, 0), (5, f.d.toNat), (8, 188), (1, f.c.toNat)]
    ⟨f.y.toNat_lt, f.x.toNat_lt, by decide, f.b.isLt, by decide, f.a.isLt, by decide, f.d.isLt, by decide, f.c.toNat_lt, trivial⟩ (by rw [e]; simp only [S3Form.bits, Layout.value]; omega)
  exact decode_encode (by rw [e]; rfl)
    ((decodeBase_of (h 25 6 _ rfl) (r := ⟨[(2, 2, 3), (9, 2, 0), (16, 2, 0), (23, 8, 188)], true, false, false, fun b w => .ssel (.ofWord b w)⟩)
      (find_next (row_no (.tail _ (.head _)) 0 2 _ (by decide) (h 2 2 _ rfl) (by decide))
      (find_next (row_no (.tail _ (.head _)) 0 2 _ (by decide) (h 2 2 _ rfl) (by decide))
      (find_next (row_no (.head _) 0 2 _ (by decide) (h 2 2 _ rfl) (by decide))
      (find_here (row_yes4 (h 2 2 _ rfl) (h 9 2 _ rfl) (h 16 2 _ rfl) (h1 23 8 _ rfl)))))) (fun _ => rfl) (fun h => no_some rfl h) (fun h => no_some rfl h)).trans
      (congrArg (fun x => Except.ok (Instr.ssel x)) (S3Form_of rfl (h 31 1 _ rfl) (h 18 5 _ rfl) (h 11 5 _ rfl) (h 4 5 _ rfl) (h 1 1 _ rfl) (h 0 1 _ rfl))))
    (plain_of_major (h 25 6 _ rfl) (by decide)) (fun p hp => ⟨defined_of_fits hw p hp, fun h3 => by rw [show w / 2 ^ 25 % 64 = 47 from h 25 6 _ rfl] at h3; exact absurd h3 (by decide)⟩) (fun h => no_some rfl h)

theorem scvtNarrow (f : ScvtNForm) : Statement (.scvtNarrow f) := fun _ hw => by
  obtain ⟨w, e⟩ : ∃ w, w = 0x60000000 + f.bits := ⟨_, rfl⟩
  have h := Layout.reads (w := w) [(1, 0), (1, f.x.toNat), (3, 0), (2, f.f.toNat), (1, f.t.toNat), (3, 0), (5, f.a.toNat), (2, 0), (7, f.d.toNat), (6, 48), (1, f.c.toNat)]
    ⟨by decide, f.x.toNat_lt, by decide, f.f.isLt, f.t.isLt, by decide, f.a.isLt, by decide, f.d.isLt, by decide, f.c.toNat_lt, trivial⟩ (by rw [e]; simp only [ScvtNForm.bits, Layout.value]; omega)
  exact decode_encode (by rw [e]; rfl)
    ((decodeBase_of (h 25 6 _ rfl) (r := ⟨[(0, 1, 0), (2, 3, 0), (8, 3, 0), (16, 2, 0), (25, 6, 48)], true, false, false, fun b w => .scvtNarrow (.ofWord b w)⟩)
      (find_here (row_yes5 (h 0 1 _ rfl) (h 2 3 _ rfl) (h 8 3 _ rfl) (h 16 2 _ rfl) (h 25 6 _ rfl))) (fun _ => rfl) (fun h => no_some rfl h) (fun h => no_some rfl h)).trans
      (congrArg (fun x => Except.ok (Instr.scvtNarrow x)) (ScvtNForm_of rfl (h 31 1 _ rfl) (h 18 7 _ rfl) (h 11 5 _ rfl) (h 7 1 _ rfl) (h 5 2 _ rfl) (h 1 1 _ rfl))))
    (plain_of_major (h 25 6 _ rfl) (by decide)) (fun p hp => ⟨defined_of_fits (and_right hw) p hp, fun h3 => by rw [show w / 2 ^ 25 % 64 = 48 from h 25 6 _ rfl] at h3; exact absurd h3 (by decide)⟩) (fun h => no_some rfl h)

theorem scvtWiden (f : ScvtWForm) : Statement (.scvtWiden f) := fun _ hw => by
  obtain ⟨w, e⟩ : ∃ w, w = 0x60000010 + f.bits := ⟨_, rfl⟩
  have h := Layout.reads (w := w) [(1, 0), (1, f.x.toNat), (3, 4), (2, f.f.toNat), (4, 0), (7, f.a.toNat), (5, f.d.toNat), (2, 0), (6, 48), (1, f.c.toNat)]
    ⟨by decide, f.x.toNat_lt, by decide, f.f.isLt, by decide, f.a.isLt, f.d.isLt, by decide, by decide, f.c.toNat_lt, trivial⟩ (by rw [e]; simp only [ScvtWForm.bits, Layout.value]; omega)
  have h1 := Layout.reads (w := w) [(1, 0), (1, f.x.toNat), (3, 4), (2, f.f.toNat), (4, 0), (7, f.a.toNat), (5, f.d.toNat), (8, 192), (1, f.c.toNat)]
    ⟨by decide, f.x.toNat_lt, by decide, f.f.isLt, by decide, f.a.isLt, f.d.isLt, by decide, f.c.toNat_lt, trivial⟩ (by rw [e]; simp only [ScvtWForm.bits, Layout.value]; omega)
  exact decode_encode (by rw [e]; rfl)
    ((decodeBase_of (h 25 6 _ rfl) (r := ⟨[(0, 1, 0), (2, 3, 4), (7, 4, 0), (23, 8, 192)], true, false, false, fun b w => .scvtWiden (.ofWord b w)⟩)
      (find_next (row_no (.tail _ (.head _)) 0 3 _ (by decide) (h 2 3 _ rfl) (by decide))
      (find_here (row_yes4 (h 0 1 _ rfl) (h 2 3 _ rfl) (h 7 4 _ rfl) (h1 23 8 _ rfl)))) (fun _ => rfl) (fun h => no_some rfl h) (fun h => no_some rfl h)).trans
      (congrArg (fun x => Except.ok (Instr.scvtWiden x)) (ScvtWForm_of rfl (h 31 1 _ rfl) (h 18 5 _ rfl) (h 11 7 _ rfl) (h 5 2 _ rfl) (h 1 1 _ rfl))))
    (plain_of_major (h 25 6 _ rfl) (by decide)) (fun p hp => ⟨defined_of_fits (and_right hw) p hp, fun h3 => by rw [show w / 2 ^ 25 % 64 = 48 from h 25 6 _ rfl] at h3; exact absurd h3 (by decide)⟩) (fun h => no_some rfl h)

theorem swls (f : SwlsForm) : Statement (.swls f) := fun _ hw => by
  obtain ⟨w, e⟩ : ∃ w, w = 0x60000004 + f.bits := ⟨_, rfl⟩
  have h := Layout.reads (w := w) [(1, 0), (1, f.x.toNat), (2, 1), (6, f.n.toNat), (1, 0), (7, f.a.toNat), (5, f.d.toNat), (2, 0), (6, 48), (1, f.c.toNat)]
    ⟨by decide, f.x.toNat_lt, by decide, f.n.isLt, by decide, f.a.isLt, f.d.isLt, by decide, by decide, f.c.toNat_lt, trivial⟩ (by rw [e]; simp only [SwlsForm.bits, Layout.value]; omega)
  have h1 := Layout.reads (w := w) [(1, 0), (1, f.x.toNat), (2, 1), (6, f.n.toNat), (1, 0), (7, f.a.toNat), (5, f.d.toNat), (8, 192), (1, f.c.toNat)]
    ⟨by decide, f.x.toNat_lt, by decide, f.n.isLt, by decide, f.a.isLt, f.d.isLt, by decide, f.c.toNat_lt, trivial⟩ (by rw [e]; simp only [SwlsForm.bits, Layout.value]; omega)
  exact decode_encode (by rw [e]; rfl)
    ((decodeBase_of (h 25 6 _ rfl) (r := ⟨[(0, 1, 0), (2, 2, 1), (10, 1, 0), (23, 8, 192)], true, false, false, fun b w => .swls (.ofWord b w)⟩)
      (find_next (row_no (.tail _ (.head _)) 0 2 _ (by decide) (h 2 2 _ rfl) (by decide))
      (find_next (row_no (.tail _ (.head _)) 0 2 _ (by decide) (h 2 2 _ rfl) (by decide))
      (find_here (row_yes4 (h 0 1 _ rfl) (h 2 2 _ rfl) (h 10 1 _ rfl) (h1 23 8 _ rfl))))) (fun _ => rfl) (fun h => no_some rfl h) (fun h => no_some rfl h)).trans
      (congrArg (fun x => Except.ok (Instr.swls x)) (SwlsForm_of rfl (h 31 1 _ rfl) (h 18 5 _ rfl) (h 11 7 _ rfl) (h 4 6 _ rfl) (h 1 1 _ rfl))))
    (plain_of_major (h 25 6 _ rfl) (by decide)) (fun p hp => ⟨defined_of_fits (and_right hw) p hp, fun h3 => by rw [show w / 2 ^ 25 % 64 = 48 from h 25 6 _ rfl] at h3; exact absurd h3 (by decide)⟩) (fun h => no_some rfl h)

theorem spol (f : S3Form) : Statement (.spol f) := fun _ hw => by
  obtain ⟨w, e⟩ : ∃ w, w = 0x62000000 + f.bits := ⟨_, rfl⟩
  have h := Layout.reads (w := w) [(1, f.y.toNat), (1, f.x.toNat), (2, 0), (5, f.b.toNat), (2, 0), (5, f.a.toNat), (2, 0), (5, f.d.toNat), (2, 0), (6, 49), (1, f.c.toNat)]
    ⟨f.y.toNat_lt, f.x.toNat_lt, by decide, f.b.isLt, by decide, f.a.isLt, by decide, f.d.isLt, by decide, by decide, f.c.toNat_lt, trivial⟩ (by rw [e]; simp only [S3Form.bits, Layout.value]; omega)
  have h1 := Layout.reads (w := w) [(1, f.y.toNat), (1, f.x.toNat), (2, 0), (5, f.b.toNat), (2, 0), (5, f.a.toNat), (2, 0), (5, f.d.toNat), (8, 196), (1, f.c.toNat)]
    ⟨f.y.toNat_lt, f.x.toNat_lt, by decide, f.b.isLt, by decide, f.a.isLt, by decide, f.d.isLt, by decide, f.c.toNat_lt, trivial⟩ (by rw [e]; simp only [S3Form.bits, Layout.value]; omega)
  exact decode_encode (by rw [e]; rfl)
    ((decodeBase_of (h 25 6 _ rfl) (r := ⟨[(2, 2, 0), (9, 2, 0), (16, 2, 0), (23, 8, 196)], true, false, false, fun b w => .spol (.ofWord b w)⟩)
      (find_here (row_yes4 (h 2 2 _ rfl) (h 9 2 _ rfl) (h 16 2 _ rfl) (h1 23 8 _ rfl))) (fun _ => rfl) (fun h => no_some rfl h) (fun h => no_some rfl h)).trans
      (congrArg (fun x => Except.ok (Instr.spol x)) (S3Form_of rfl (h 31 1 _ rfl) (h 18 5 _ rfl) (h 11 5 _ rfl) (h 4 5 _ rfl) (h 1 1 _ rfl) (h 0 1 _ rfl))))
    (plain_of_major (h 25 6 _ rfl) (by decide)) (fun p hp => ⟨defined_of_fits (and_right hw) p hp, fun h3 => by rw [show w / 2 ^ 25 % 64 = 49 from h 25 6 _ rfl] at h3; exact absurd h3 (by decide)⟩) (fun h => no_some rfl h)

theorem sfres (f : SfresForm) : Statement (.sfres f) := fun _ hw => by
  obtain ⟨w, e⟩ : ∃ w, w = 0x62000004 + f.bits := ⟨_, rfl⟩
  have h := Layout.reads (w := w) [(1, f.y.toNat), (1, f.x.toNat), (2, 1), (5, f.b.toNat), (2, 0), (7, f.a.toNat), (5, f.d.toNat), (2, 0), (6, 49), (1, f.c.toNat)]
    ⟨f.y.toNat_lt, f.x.toNat_lt, by decide, f.b.isLt, by decide, f.a.isLt, f.d.isLt, by decide, by decide, f.c.toNat_lt, trivial⟩ (by rw [e]; simp only [SfresForm.bits, Layout.value]; omega)
  have h1 := Layout.reads (w := w) [(1, f.y.toNat), (1, f.x.toNat), (2, 1), (5, f.b.toNat), (2, 0), (7, f.a.toNat), (5, f.d.toNat), (8, 196), (1, f.c.toNat)]
    ⟨f.y.toNat_lt, f.x.toNat_lt, by decide, f.b.isLt, by decide, f.a.isLt, f.d.isLt, by decide, f.c.toNat_lt, trivial⟩ (by rw [e]; simp only [SfresForm.bits, Layout.value]; omega)
  exact decode_encode (by rw [e]; rfl)
    ((decodeBase_of (h 25 6 _ rfl) (r := ⟨[(2, 2, 1), (9, 2, 0), (23, 8, 196)], true, false, false, fun b w => .sfres (.ofWord b w)⟩)
      (find_next (row_no (.head _) 0 2 _ (by decide) (h 2 2 _ rfl) (by decide))
      (find_here (row_yes3 (h 2 2 _ rfl) (h 9 2 _ rfl) (h1 23 8 _ rfl)))) (fun _ => rfl) (fun h => no_some rfl h) (fun h => no_some rfl h)).trans
      (congrArg (fun x => Except.ok (Instr.sfres x)) (SfresForm_of rfl (h 31 1 _ rfl) (h 18 5 _ rfl) (h 11 7 _ rfl) (h 4 5 _ rfl) (h 1 1 _ rfl) (h 0 1 _ rfl))))
    (plain_of_major (h 25 6 _ rfl) (by decide)) (fun p hp => ⟨defined_of_fits (and_right hw) p hp, fun h3 => by rw [show w / 2 ^ 25 % 64 = 49 from h 25 6 _ rfl] at h3; exact absurd h3 (by decide)⟩) (fun h => no_some rfl h)

theorem smdiel (f : S3Form) : Statement (.smdiel f) := fun _ hw => by
  obtain ⟨w, e⟩ : ∃ w, w = 0x62000008 + f.bits := ⟨_, rfl⟩
  have h := Layout.reads (w := w) [(1, f.y.toNat), (1, f.x.toNat), (2, 2), (5, f.b.toNat), (2, 0), (5, f.a.toNat), (2, 0), (5, f.d.toNat), (2, 0), (6, 49), (1, f.c.toNat)]
    ⟨f.y.toNat_lt, f.x.toNat_lt, by decide, f.b.isLt, by decide, f.a.isLt, by decide, f.d.isLt, by decide, by decide, f.c.toNat_lt, trivial⟩ (by rw [e]; simp only [S3Form.bits, Layout.value]; omega)
  have h1 := Layout.reads (w := w) [(1, f.y.toNat), (1, f.x.toNat), (2, 2), (5, f.b.toNat), (2, 0), (5, f.a.toNat), (2, 0), (5, f.d.toNat), (8, 196), (1, f.c.toNat)]
    ⟨f.y.toNat_lt, f.x.toNat_lt, by decide, f.b.isLt, by decide, f.a.isLt, by decide, f.d.isLt, by decide, f.c.toNat_lt, trivial⟩ (by rw [e]; simp only [S3Form.bits, Layout.value]; omega)
  exact decode_encode (by rw [e]; rfl)
    ((decodeBase_of (h 25 6 _ rfl) (r := ⟨[(2, 2, 2), (9, 2, 0), (16, 2, 0), (23, 8, 196)], true, false, false, fun b w => .smdiel (.ofWord b w)⟩)
      (find_next (row_no (.head _) 0 2 _ (by decide) (h 2 2 _ rfl) (by decide))
      (find_next (row_no (.head _) 0 2 _ (by decide) (h 2 2 _ rfl) (by decide))
      (find_here (row_yes4 (h 2 2 _ rfl) (h 9 2 _ rfl) (h 16 2 _ rfl) (h1 23 8 _ rfl))))) (fun _ => rfl) (fun h => no_some rfl h) (fun h => no_some rfl h)).trans
      (congrArg (fun x => Except.ok (Instr.smdiel x)) (S3Form_of rfl (h 31 1 _ rfl) (h 18 5 _ rfl) (h 11 5 _ rfl) (h 4 5 _ rfl) (h 1 1 _ rfl) (h 0 1 _ rfl))))
    (plain_of_major (h 25 6 _ rfl) (by decide)) (fun p hp => ⟨defined_of_fits (and_right hw) p hp, fun h3 => by rw [show w / 2 ^ 25 % 64 = 49 from h 25 6 _ rfl] at h3; exact absurd h3 (by decide)⟩) (fun h => no_some rfl h)

theorem filmAdd (f : FilmAddForm) : Statement (.filmAdd f) := fun _ _ => by
  obtain ⟨w, e⟩ : ∃ w, w = 0x66000000 + f.bits := ⟨_, rfl⟩
  have h := Layout.reads (w := w) [(6, 0), (5, f.e.toNat), (5, f.b.toNat), (7, f.a.toNat), (2, 0), (6, 51), (1, f.c.toNat)]
    ⟨by decide, f.e.isLt, f.b.isLt, f.a.isLt, by decide, by decide, f.c.toNat_lt, trivial⟩ (by rw [e]; simp only [FilmAddForm.bits, Layout.value]; omega)
  have h1 := Layout.reads (w := w) [(6, 0), (5, f.e.toNat), (5, f.b.toNat), (7, f.a.toNat), (8, 204), (1, f.c.toNat)]
    ⟨by decide, f.e.isLt, f.b.isLt, f.a.isLt, by decide, f.c.toNat_lt, trivial⟩ (by rw [e]; simp only [FilmAddForm.bits, Layout.value]; omega)
  exact decode_encode (by rw [e]; rfl)
    ((decodeBase_of (h 25 6 _ rfl) (r := ⟨[(0, 6, 0), (23, 8, 204)], false, true, false, fun b w => .filmAdd (.ofWord b w)⟩)
      (find_here (row_yes2 (h 0 6 _ rfl) (h1 23 8 _ rfl))) (fun h => no_some rfl h) (fun _ => rfl) (fun h => no_some rfl h)).trans
      (congrArg (fun x => Except.ok (Instr.filmAdd x)) (FilmAddForm_of rfl (h 31 1 _ rfl) (h 16 7 _ rfl) (h 11 5 _ rfl) (h 6 5 _ rfl))))
    (plain_of_major (h 25 6 _ rfl) (by decide)) (fun p hp => no_eq rfl hp) (fun h => no_some rfl h)

theorem filmRd (f : Film3Form) : Statement (.filmRd f) := fun _ _ => by
  obtain ⟨w, e⟩ : ∃ w, w = 0x66800000 + f.bits := ⟨_, rfl⟩
  have h := Layout.reads (w := w) [(2, 0), (7, f.b.toNat), (7, f.a.toNat), (7, f.d.toNat), (2, 1), (6, 51), (1, f.c.toNat)]
    ⟨by decide, f.b.isLt, f.a.isLt, f.d.isLt, by decide, by decide, f.c.toNat_lt, trivial⟩ (by rw [e]; simp only [Film3Form.bits, Layout.value]; omega)
  have h1 := Layout.reads (w := w) [(2, 0), (7, f.b.toNat), (7, f.a.toNat), (7, f.d.toNat), (8, 205), (1, f.c.toNat)]
    ⟨by decide, f.b.isLt, f.a.isLt, f.d.isLt, by decide, f.c.toNat_lt, trivial⟩ (by rw [e]; simp only [Film3Form.bits, Layout.value]; omega)
  exact decode_encode (by rw [e]; rfl)
    ((decodeBase_of (h 25 6 _ rfl) (r := ⟨[(0, 2, 0), (23, 8, 205)], false, true, false, fun b w => .filmRd (.ofWord b w)⟩)
      (find_next (row_no (.tail _ (.head _)) 0 8 _ (by decide) (h1 23 8 _ rfl) (by decide))
      (find_here (row_yes2 (h 0 2 _ rfl) (h1 23 8 _ rfl)))) (fun h => no_some rfl h) (fun _ => rfl) (fun h => no_some rfl h)).trans
      (congrArg (fun x => Except.ok (Instr.filmRd x)) (Film3Form_of rfl (h 31 1 _ rfl) (h 16 7 _ rfl) (h 9 7 _ rfl) (h 2 7 _ rfl))))
    (plain_of_major (h 25 6 _ rfl) (by decide)) (fun p hp => no_eq rfl hp) (fun h => no_some rfl h)

theorem rast (f : Reg2ObjForm) : Statement (.rast f) := fun _ _ => by
  obtain ⟨w, e⟩ : ∃ w, w = 0x67000000 + f.bits := ⟨_, rfl⟩
  have h := Layout.reads (w := w) [(9, 0), (7, f.b.toNat), (7, f.a.toNat), (2, 2), (6, 51), (1, f.c.toNat)]
    ⟨by decide, f.b.isLt, f.a.isLt, by decide, by decide, f.c.toNat_lt, trivial⟩ (by rw [e]; simp only [Reg2ObjForm.bits, Layout.value]; omega)
  have h1 := Layout.reads (w := w) [(9, 0), (7, f.b.toNat), (7, f.a.toNat), (8, 206), (1, f.c.toNat)]
    ⟨by decide, f.b.isLt, f.a.isLt, by decide, f.c.toNat_lt, trivial⟩ (by rw [e]; simp only [Reg2ObjForm.bits, Layout.value]; omega)
  exact decode_encode (by rw [e]; rfl)
    ((decodeBase_of (h 25 6 _ rfl) (r := ⟨[(0, 9, 0), (23, 8, 206)], false, true, false, fun b w => .rast (.ofWord b w)⟩)
      (find_next (row_no (.tail _ (.head _)) 0 8 _ (by decide) (h1 23 8 _ rfl) (by decide))
      (find_next (row_no (.tail _ (.head _)) 0 8 _ (by decide) (h1 23 8 _ rfl) (by decide))
      (find_here (row_yes2 (h 0 9 _ rfl) (h1 23 8 _ rfl))))) (fun h => no_some rfl h) (fun _ => rfl) (fun h => no_some rfl h)).trans
      (congrArg (fun x => Except.ok (Instr.rast x)) (Reg2ObjForm_of rfl (h 31 1 _ rfl) (h 16 7 _ rfl) (h 9 7 _ rfl))))
    (plain_of_major (h 25 6 _ rfl) (by decide)) (fun p hp => no_eq rfl hp) (fun h => no_some rfl h)

theorem visrd (f : Film3Form) : Statement (.visrd f) := fun _ _ => by
  obtain ⟨w, e⟩ : ∃ w, w = 0x67800000 + f.bits := ⟨_, rfl⟩
  have h := Layout.reads (w := w) [(2, 0), (7, f.b.toNat), (7, f.a.toNat), (7, f.d.toNat), (2, 3), (6, 51), (1, f.c.toNat)]
    ⟨by decide, f.b.isLt, f.a.isLt, f.d.isLt, by decide, by decide, f.c.toNat_lt, trivial⟩ (by rw [e]; simp only [Film3Form.bits, Layout.value]; omega)
  have h1 := Layout.reads (w := w) [(2, 0), (7, f.b.toNat), (7, f.a.toNat), (7, f.d.toNat), (8, 207), (1, f.c.toNat)]
    ⟨by decide, f.b.isLt, f.a.isLt, f.d.isLt, by decide, f.c.toNat_lt, trivial⟩ (by rw [e]; simp only [Film3Form.bits, Layout.value]; omega)
  exact decode_encode (by rw [e]; rfl)
    ((decodeBase_of (h 25 6 _ rfl) (r := ⟨[(0, 2, 0), (23, 8, 207)], false, true, false, fun b w => .visrd (.ofWord b w)⟩)
      (find_next (row_no (.tail _ (.head _)) 0 8 _ (by decide) (h1 23 8 _ rfl) (by decide))
      (find_next (row_no (.tail _ (.head _)) 0 8 _ (by decide) (h1 23 8 _ rfl) (by decide))
      (find_next (row_no (.tail _ (.head _)) 0 8 _ (by decide) (h1 23 8 _ rfl) (by decide))
      (find_here (row_yes2 (h 0 2 _ rfl) (h1 23 8 _ rfl)))))) (fun h => no_some rfl h) (fun _ => rfl) (fun h => no_some rfl h)).trans
      (congrArg (fun x => Except.ok (Instr.visrd x)) (Film3Form_of rfl (h 31 1 _ rfl) (h 16 7 _ rfl) (h 9 7 _ rfl) (h 2 7 _ rfl))))
    (plain_of_major (h 25 6 _ rfl) (by decide)) (fun p hp => no_eq rfl hp) (fun h => no_some rfl h)

theorem trace (f : TraceForm) : Statement (.trace f) := fun _ _ => by
  obtain ⟨w, e⟩ : ∃ w, w = 0x68000000 + f.bits := ⟨_, rfl⟩
  have h := Layout.reads (w := w) [(11, 0), (5, f.a.toNat), (7, f.d.toNat), (2, 0), (6, 52), (1, f.c.toNat)]
    ⟨by decide, f.a.isLt, f.d.isLt, by decide, by decide, f.c.toNat_lt, trivial⟩ (by rw [e]; simp only [TraceForm.bits, Layout.value]; omega)
  have h1 := Layout.reads (w := w) [(11, 0), (5, f.a.toNat), (7, f.d.toNat), (8, 208), (1, f.c.toNat)]
    ⟨by decide, f.a.isLt, f.d.isLt, by decide, f.c.toNat_lt, trivial⟩ (by rw [e]; simp only [TraceForm.bits, Layout.value]; omega)
  exact decode_encode (by rw [e]; rfl)
    ((decodeBase_of (h 25 6 _ rfl) (r := ⟨[(0, 11, 0), (23, 8, 208)], false, true, false, fun b w => .trace (.ofWord b w)⟩)
      (find_here (row_yes2 (h 0 11 _ rfl) (h1 23 8 _ rfl))) (fun h => no_some rfl h) (fun _ => rfl) (fun h => no_some rfl h)).trans
      (congrArg (fun x => Except.ok (Instr.trace x)) (TraceForm_of rfl (h 31 1 _ rfl) (h 16 7 _ rfl) (h 11 5 _ rfl))))
    (plain_of_major (h 25 6 _ rfl) (by decide)) (fun p hp => no_eq rfl hp) (fun h => no_some rfl h)

theorem tracea (f : TraceForm) : Statement (.tracea f) := fun _ _ => by
  obtain ⟨w, e⟩ : ∃ w, w = 0x68800000 + f.bits := ⟨_, rfl⟩
  have h := Layout.reads (w := w) [(11, 0), (5, f.a.toNat), (7, f.d.toNat), (2, 1), (6, 52), (1, f.c.toNat)]
    ⟨by decide, f.a.isLt, f.d.isLt, by decide, by decide, f.c.toNat_lt, trivial⟩ (by rw [e]; simp only [TraceForm.bits, Layout.value]; omega)
  have h1 := Layout.reads (w := w) [(11, 0), (5, f.a.toNat), (7, f.d.toNat), (8, 209), (1, f.c.toNat)]
    ⟨by decide, f.a.isLt, f.d.isLt, by decide, f.c.toNat_lt, trivial⟩ (by rw [e]; simp only [TraceForm.bits, Layout.value]; omega)
  exact decode_encode (by rw [e]; rfl)
    ((decodeBase_of (h 25 6 _ rfl) (r := ⟨[(0, 11, 0), (23, 8, 209)], false, true, false, fun b w => .tracea (.ofWord b w)⟩)
      (find_next (row_no (.tail _ (.head _)) 0 8 _ (by decide) (h1 23 8 _ rfl) (by decide))
      (find_here (row_yes2 (h 0 11 _ rfl) (h1 23 8 _ rfl)))) (fun h => no_some rfl h) (fun _ => rfl) (fun h => no_some rfl h)).trans
      (congrArg (fun x => Except.ok (Instr.tracea x)) (TraceForm_of rfl (h 31 1 _ rfl) (h 16 7 _ rfl) (h 11 5 _ rfl))))
    (plain_of_major (h 25 6 _ rfl) (by decide)) (fun p hp => no_eq rfl hp) (fun h => no_some rfl h)

theorem callsh (f : Reg2Form) : Statement (.callsh f) := fun _ _ => by
  obtain ⟨w, e⟩ : ∃ w, w = 0x69000000 + f.bits := ⟨_, rfl⟩
  have h := Layout.reads (w := w) [(9, 0), (7, f.b.toNat), (7, f.a.toNat), (2, 2), (6, 52), (1, f.c.toNat)]
    ⟨by decide, f.b.isLt, f.a.isLt, by decide, by decide, f.c.toNat_lt, trivial⟩ (by rw [e]; simp only [Reg2Form.bits, Layout.value]; omega)
  have h1 := Layout.reads (w := w) [(9, 0), (7, f.b.toNat), (7, f.a.toNat), (8, 210), (1, f.c.toNat)]
    ⟨by decide, f.b.isLt, f.a.isLt, by decide, f.c.toNat_lt, trivial⟩ (by rw [e]; simp only [Reg2Form.bits, Layout.value]; omega)
  exact decode_encode (by rw [e]; rfl)
    ((decodeBase_of (h 25 6 _ rfl) (r := ⟨[(0, 9, 0), (23, 8, 210)], false, false, false, fun b w => .callsh (.ofWord b w)⟩)
      (find_next (row_no (.tail _ (.head _)) 0 8 _ (by decide) (h1 23 8 _ rfl) (by decide))
      (find_next (row_no (.tail _ (.head _)) 0 8 _ (by decide) (h1 23 8 _ rfl) (by decide))
      (find_here (row_yes2 (h 0 9 _ rfl) (h1 23 8 _ rfl))))) (fun h => no_some rfl h) (fun h => no_some rfl h) (fun h => no_some rfl h)).trans
      (congrArg (fun x => Except.ok (Instr.callsh x)) (Reg2Form_of (h 31 1 _ rfl) (h 16 7 _ rfl) (h 9 7 _ rfl))))
    (plain_of_major (h 25 6 _ rfl) (by decide)) (fun p hp => no_eq rfl hp) (fun h => no_some rfl h)

theorem retsh (f : BareForm) : Statement (.retsh f) := fun _ _ => by
  obtain ⟨w, e⟩ : ∃ w, w = 0x69800000 + f.bits := ⟨_, rfl⟩
  have h := Layout.reads (w := w) [(25, 25165824), (6, 52), (1, f.c.toNat)]
    ⟨by decide, by decide, f.c.toNat_lt, trivial⟩ (by rw [e]; simp only [BareForm.bits, Layout.value]; omega)
  have h1 := Layout.reads (w := w) [(31, 1769996288), (1, f.c.toNat)]
    ⟨by decide, f.c.toNat_lt, trivial⟩ (by rw [e]; simp only [BareForm.bits, Layout.value]; omega)
  have h2 := Layout.reads (w := w) [(23, 0), (8, 211), (1, f.c.toNat)]
    ⟨by decide, by decide, f.c.toNat_lt, trivial⟩ (by rw [e]; simp only [BareForm.bits, Layout.value]; omega)
  exact decode_encode (by rw [e]; rfl)
    ((decodeBase_of (h 25 6 _ rfl) (r := ⟨[(0, 31, 1769996288)], false, false, false, fun b w => .retsh (.ofWord b w)⟩)
      (find_next (row_no (.tail _ (.head _)) 0 8 _ (by decide) (h2 23 8 _ rfl) (by decide))
      (find_next (row_no (.tail _ (.head _)) 0 8 _ (by decide) (h2 23 8 _ rfl) (by decide))
      (find_next (row_no (.tail _ (.head _)) 0 8 _ (by decide) (h2 23 8 _ rfl) (by decide))
      (find_here (row_yes1 (h1 0 31 _ rfl)))))) (fun h => no_some rfl h) (fun h => no_some rfl h) (fun h => no_some rfl h)).trans
      (congrArg (fun x => Except.ok (Instr.retsh x)) (BareForm_of (h 31 1 _ rfl))))
    (plain_of_major (h 25 6 _ rfl) (by decide)) (fun p hp => no_eq rfl hp) (fun h => no_some rfl h)

theorem stex (f : StexForm) : Statement (.stex f) := fun _ _ => by
  obtain ⟨w, e⟩ : ∃ w, w = 0x6A000000 + f.bits := ⟨_, rfl⟩
  have h := Layout.reads (w := w) [(6, 0), (5, f.b.toNat), (5, f.a.toNat), (2, 0), (5, f.d.toNat), (2, 0), (6, 53), (1, f.c.toNat)]
    ⟨by decide, f.b.isLt, f.a.isLt, by decide, f.d.isLt, by decide, by decide, f.c.toNat_lt, trivial⟩ (by rw [e]; simp only [StexForm.bits, Layout.value]; omega)
  have h1 := Layout.reads (w := w) [(6, 0), (5, f.b.toNat), (5, f.a.toNat), (2, 0), (5, f.d.toNat), (8, 212), (1, f.c.toNat)]
    ⟨by decide, f.b.isLt, f.a.isLt, by decide, f.d.isLt, by decide, f.c.toNat_lt, trivial⟩ (by rw [e]; simp only [StexForm.bits, Layout.value]; omega)
  exact decode_encode (by rw [e]; rfl)
    ((decodeBase_of (h 25 6 _ rfl) (r := ⟨[(0, 6, 0), (16, 2, 0), (23, 8, 212)], false, true, false, fun b w => .stex (.ofWord b w)⟩)
      (find_here (row_yes3 (h 0 6 _ rfl) (h 16 2 _ rfl) (h1 23 8 _ rfl))) (fun h => no_some rfl h) (fun _ => rfl) (fun h => no_some rfl h)).trans
      (congrArg (fun x => Except.ok (Instr.stex x)) (StexForm_of rfl (h 31 1 _ rfl) (h 18 5 _ rfl) (h 11 5 _ rfl) (h 6 5 _ rfl))))
    (plain_of_major (h 25 6 _ rfl) (by decide)) (fun p hp => no_eq rfl hp) (fun h => no_some rfl h)

theorem stexup (f : StexForm) : Statement (.stexup f) := fun _ _ => by
  obtain ⟨w, e⟩ : ∃ w, w = 0x6A800000 + f.bits := ⟨_, rfl⟩
  have h := Layout.reads (w := w) [(6, 0), (5, f.b.toNat), (5, f.a.toNat), (2, 0), (5, f.d.toNat), (2, 1), (6, 53), (1, f.c.toNat)]
    ⟨by decide, f.b.isLt, f.a.isLt, by decide, f.d.isLt, by decide, by decide, f.c.toNat_lt, trivial⟩ (by rw [e]; simp only [StexForm.bits, Layout.value]; omega)
  have h1 := Layout.reads (w := w) [(6, 0), (5, f.b.toNat), (5, f.a.toNat), (2, 0), (5, f.d.toNat), (8, 213), (1, f.c.toNat)]
    ⟨by decide, f.b.isLt, f.a.isLt, by decide, f.d.isLt, by decide, f.c.toNat_lt, trivial⟩ (by rw [e]; simp only [StexForm.bits, Layout.value]; omega)
  exact decode_encode (by rw [e]; rfl)
    ((decodeBase_of (h 25 6 _ rfl) (r := ⟨[(0, 6, 0), (16, 2, 0), (23, 8, 213)], false, true, false, fun b w => .stexup (.ofWord b w)⟩)
      (find_next (row_no (.tail _ (.tail _ (.head _))) 0 8 _ (by decide) (h1 23 8 _ rfl) (by decide))
      (find_here (row_yes3 (h 0 6 _ rfl) (h 16 2 _ rfl) (h1 23 8 _ rfl)))) (fun h => no_some rfl h) (fun _ => rfl) (fun h => no_some rfl h)).trans
      (congrArg (fun x => Except.ok (Instr.stexup x)) (StexForm_of rfl (h 31 1 _ rfl) (h 18 5 _ rfl) (h 11 5 _ rfl) (h 6 5 _ rfl))))
    (plain_of_major (h 25 6 _ rfl) (by decide)) (fun p hp => no_eq rfl hp) (fun h => no_some rfl h)

theorem scmf (f : StexForm) : Statement (.scmf f) := fun _ _ => by
  obtain ⟨w, e⟩ : ∃ w, w = 0x6B000000 + f.bits := ⟨_, rfl⟩
  have h := Layout.reads (w := w) [(6, 0), (5, f.b.toNat), (5, f.a.toNat), (2, 0), (5, f.d.toNat), (2, 2), (6, 53), (1, f.c.toNat)]
    ⟨by decide, f.b.isLt, f.a.isLt, by decide, f.d.isLt, by decide, by decide, f.c.toNat_lt, trivial⟩ (by rw [e]; simp only [StexForm.bits, Layout.value]; omega)
  have h1 := Layout.reads (w := w) [(6, 0), (5, f.b.toNat), (5, f.a.toNat), (2, 0), (5, f.d.toNat), (8, 214), (1, f.c.toNat)]
    ⟨by decide, f.b.isLt, f.a.isLt, by decide, f.d.isLt, by decide, f.c.toNat_lt, trivial⟩ (by rw [e]; simp only [StexForm.bits, Layout.value]; omega)
  exact decode_encode (by rw [e]; rfl)
    ((decodeBase_of (h 25 6 _ rfl) (r := ⟨[(0, 6, 0), (16, 2, 0), (23, 8, 214)], false, true, false, fun b w => .scmf (.ofWord b w)⟩)
      (find_next (row_no (.tail _ (.tail _ (.head _))) 0 8 _ (by decide) (h1 23 8 _ rfl) (by decide))
      (find_next (row_no (.tail _ (.tail _ (.head _))) 0 8 _ (by decide) (h1 23 8 _ rfl) (by decide))
      (find_here (row_yes3 (h 0 6 _ rfl) (h 16 2 _ rfl) (h1 23 8 _ rfl))))) (fun h => no_some rfl h) (fun _ => rfl) (fun h => no_some rfl h)).trans
      (congrArg (fun x => Except.ok (Instr.scmf x)) (StexForm_of rfl (h 31 1 _ rfl) (h 18 5 _ rfl) (h 11 5 _ rfl) (h 6 5 _ rfl))))
    (plain_of_major (h 25 6 _ rfl) (by decide)) (fun p hp => no_eq rfl hp) (fun h => no_some rfl h)

theorem cast (f : CastForm) : Statement (.cast f) := fun _ _ => by
  obtain ⟨w, e⟩ : ∃ w, w = 0x6C000000 + f.bits := ⟨_, rfl⟩
  have h := Layout.reads (w := w) [(16, f.o.toNat), (5, f.v.toNat), (2, f.q.toNat), (2, 0), (6, 54), (1, f.c.toNat)]
    ⟨f.o.isLt, f.v.isLt, f.q.isLt, by decide, by decide, f.c.toNat_lt, trivial⟩ (by rw [e]; simp only [CastForm.bits, Layout.value]; omega)
  have h1 := Layout.reads (w := w) [(16, f.o.toNat), (5, f.v.toNat), (2, f.q.toNat), (8, 216), (1, f.c.toNat)]
    ⟨f.o.isLt, f.v.isLt, f.q.isLt, by decide, f.c.toNat_lt, trivial⟩ (by rw [e]; simp only [CastForm.bits, Layout.value]; omega)
  exact decode_encode (by rw [e]; rfl)
    ((decodeBase_of (h 25 6 _ rfl) (r := ⟨[(23, 8, 216)], false, true, false, fun b w => .cast (.ofWord b w)⟩)
      (find_here (row_yes1 (h1 23 8 _ rfl))) (fun h => no_some rfl h) (fun _ => rfl) (fun h => no_some rfl h)).trans
      (congrArg (fun x => Except.ok (Instr.cast x)) (CastForm_of rfl (h 31 1 _ rfl) (h 21 2 _ rfl) (h 16 5 _ rfl) (h 0 16 _ rfl))))
    (plain_of_major (h 25 6 _ rfl) (by decide)) (fun p hp => no_eq rfl hp) (fun h => no_some rfl h)

theorem castT8 (f : CastForm) : Statement (.castT8 f) := fun _ _ => by
  obtain ⟨w, e⟩ : ∃ w, w = 0x6C800000 + f.bits := ⟨_, rfl⟩
  have h := Layout.reads (w := w) [(16, f.o.toNat), (5, f.v.toNat), (2, f.q.toNat), (2, 1), (6, 54), (1, f.c.toNat)]
    ⟨f.o.isLt, f.v.isLt, f.q.isLt, by decide, by decide, f.c.toNat_lt, trivial⟩ (by rw [e]; simp only [CastForm.bits, Layout.value]; omega)
  have h1 := Layout.reads (w := w) [(16, f.o.toNat), (5, f.v.toNat), (2, f.q.toNat), (8, 217), (1, f.c.toNat)]
    ⟨f.o.isLt, f.v.isLt, f.q.isLt, by decide, f.c.toNat_lt, trivial⟩ (by rw [e]; simp only [CastForm.bits, Layout.value]; omega)
  exact decode_encode (by rw [e]; rfl)
    ((decodeBase_of (h 25 6 _ rfl) (r := ⟨[(23, 8, 217)], false, true, false, fun b w => .castT8 (.ofWord b w)⟩)
      (find_next (row_no (.head _) 0 8 _ (by decide) (h1 23 8 _ rfl) (by decide))
      (find_here (row_yes1 (h1 23 8 _ rfl)))) (fun h => no_some rfl h) (fun _ => rfl) (fun h => no_some rfl h)).trans
      (congrArg (fun x => Except.ok (Instr.castT8 x)) (CastForm_of rfl (h 31 1 _ rfl) (h 21 2 _ rfl) (h 16 5 _ rfl) (h 0 16 _ rfl))))
    (plain_of_major (h 25 6 _ rfl) (by decide)) (fun p hp => no_eq rfl hp) (fun h => no_some rfl h)

theorem castT16 (f : CastForm) : Statement (.castT16 f) := fun _ _ => by
  obtain ⟨w, e⟩ : ∃ w, w = 0x6D000000 + f.bits := ⟨_, rfl⟩
  have h := Layout.reads (w := w) [(16, f.o.toNat), (5, f.v.toNat), (2, f.q.toNat), (2, 2), (6, 54), (1, f.c.toNat)]
    ⟨f.o.isLt, f.v.isLt, f.q.isLt, by decide, by decide, f.c.toNat_lt, trivial⟩ (by rw [e]; simp only [CastForm.bits, Layout.value]; omega)
  have h1 := Layout.reads (w := w) [(16, f.o.toNat), (5, f.v.toNat), (2, f.q.toNat), (8, 218), (1, f.c.toNat)]
    ⟨f.o.isLt, f.v.isLt, f.q.isLt, by decide, f.c.toNat_lt, trivial⟩ (by rw [e]; simp only [CastForm.bits, Layout.value]; omega)
  exact decode_encode (by rw [e]; rfl)
    ((decodeBase_of (h 25 6 _ rfl) (r := ⟨[(23, 8, 218)], false, true, false, fun b w => .castT16 (.ofWord b w)⟩)
      (find_next (row_no (.head _) 0 8 _ (by decide) (h1 23 8 _ rfl) (by decide))
      (find_next (row_no (.head _) 0 8 _ (by decide) (h1 23 8 _ rfl) (by decide))
      (find_here (row_yes1 (h1 23 8 _ rfl))))) (fun h => no_some rfl h) (fun _ => rfl) (fun h => no_some rfl h)).trans
      (congrArg (fun x => Except.ok (Instr.castT16 x)) (CastForm_of rfl (h 31 1 _ rfl) (h 21 2 _ rfl) (h 16 5 _ rfl) (h 0 16 _ rfl))))
    (plain_of_major (h 25 6 _ rfl) (by decide)) (fun p hp => no_eq rfl hp) (fun h => no_some rfl h)

theorem castw (f : CastwForm) : Statement (.castw f) := fun _ _ => by
  obtain ⟨w, e⟩ : ∃ w, w = 0x6E000000 + f.bits := ⟨_, rfl⟩
  have h := Layout.reads (w := w) [(9, 0), (7, f.a.toNat), (5, 0), (2, f.q.toNat), (2, 0), (6, 55), (1, f.c.toNat)]
    ⟨by decide, f.a.isLt, by decide, f.q.isLt, by decide, by decide, f.c.toNat_lt, trivial⟩ (by rw [e]; simp only [CastwForm.bits, Layout.value]; omega)
  have h1 := Layout.reads (w := w) [(9, 0), (7, f.a.toNat), (5, 0), (2, f.q.toNat), (8, 220), (1, f.c.toNat)]
    ⟨by decide, f.a.isLt, by decide, f.q.isLt, by decide, f.c.toNat_lt, trivial⟩ (by rw [e]; simp only [CastwForm.bits, Layout.value]; omega)
  exact decode_encode (by rw [e]; rfl)
    ((decodeBase_of (h 25 6 _ rfl) (r := ⟨[(0, 9, 0), (16, 5, 0), (23, 8, 220)], false, true, false, fun b w => .castw (.ofWord b w)⟩)
      (find_here (row_yes3 (h 0 9 _ rfl) (h 16 5 _ rfl) (h1 23 8 _ rfl))) (fun h => no_some rfl h) (fun _ => rfl) (fun h => no_some rfl h)).trans
      (congrArg (fun x => Except.ok (Instr.castw x)) (CastwForm_of rfl (h 31 1 _ rfl) (h 21 2 _ rfl) (h 9 7 _ rfl))))
    (plain_of_major (h 25 6 _ rfl) (by decide)) (fun p hp => no_eq rfl hp) (fun h => no_some rfl h)

theorem castwCb3 (f : CastwForm) : Statement (.castwCb3 f) := fun _ _ => by
  obtain ⟨w, e⟩ : ∃ w, w = 0x6E100000 + f.bits := ⟨_, rfl⟩
  have h := Layout.reads (w := w) [(9, 0), (7, f.a.toNat), (5, 16), (2, f.q.toNat), (2, 0), (6, 55), (1, f.c.toNat)]
    ⟨by decide, f.a.isLt, by decide, f.q.isLt, by decide, by decide, f.c.toNat_lt, trivial⟩ (by rw [e]; simp only [CastwForm.bits, Layout.value]; omega)
  have h1 := Layout.reads (w := w) [(9, 0), (7, f.a.toNat), (5, 16), (2, f.q.toNat), (8, 220), (1, f.c.toNat)]
    ⟨by decide, f.a.isLt, by decide, f.q.isLt, by decide, f.c.toNat_lt, trivial⟩ (by rw [e]; simp only [CastwForm.bits, Layout.value]; omega)
  exact decode_encode (by rw [e]; rfl)
    ((decodeBase_of (h 25 6 _ rfl) (r := ⟨[(0, 9, 0), (16, 5, 16), (23, 8, 220)], false, true, false, fun b w => .castwCb3 (.ofWord b w)⟩)
      (find_next (row_no (.tail _ (.head _)) 0 5 _ (by decide) (h 16 5 _ rfl) (by decide))
      (find_here (row_yes3 (h 0 9 _ rfl) (h 16 5 _ rfl) (h1 23 8 _ rfl)))) (fun h => no_some rfl h) (fun _ => rfl) (fun h => no_some rfl h)).trans
      (congrArg (fun x => Except.ok (Instr.castwCb3 x)) (CastwForm_of rfl (h 31 1 _ rfl) (h 21 2 _ rfl) (h 9 7 _ rfl))))
    (plain_of_major (h 25 6 _ rfl) (by decide)) (fun p hp => no_eq rfl hp) (fun h => no_some rfl h)

theorem casttab (f : CasttabForm) : Statement (.casttab f) := fun _ _ => by
  obtain ⟨w, e⟩ : ∃ w, w = 0x6E800000 + f.bits := ⟨_, rfl⟩
  have h := Layout.reads (w := w) [(2, 0), (7, f.b.toNat), (7, f.a.toNat), (5, 0), (2, f.q.toNat), (2, 1), (6, 55), (1, f.c.toNat)]
    ⟨by decide, f.b.isLt, f.a.isLt, by decide, f.q.isLt, by decide, by decide, f.c.toNat_lt, trivial⟩ (by rw [e]; simp only [CasttabForm.bits, Layout.value]; omega)
  have h1 := Layout.reads (w := w) [(2, 0), (7, f.b.toNat), (7, f.a.toNat), (5, 0), (2, f.q.toNat), (8, 221), (1, f.c.toNat)]
    ⟨by decide, f.b.isLt, f.a.isLt, by decide, f.q.isLt, by decide, f.c.toNat_lt, trivial⟩ (by rw [e]; simp only [CasttabForm.bits, Layout.value]; omega)
  exact decode_encode (by rw [e]; rfl)
    ((decodeBase_of (h 25 6 _ rfl) (r := ⟨[(0, 2, 0), (16, 5, 0), (23, 8, 221)], false, true, false, fun b w => .casttab (.ofWord b w)⟩)
      (find_next (row_no (.tail _ (.tail _ (.head _))) 0 8 _ (by decide) (h1 23 8 _ rfl) (by decide))
      (find_next (row_no (.tail _ (.head _)) 0 5 _ (by decide) (h 16 5 _ rfl) (by decide))
      (find_here (row_yes3 (h 0 2 _ rfl) (h 16 5 _ rfl) (h1 23 8 _ rfl))))) (fun h => no_some rfl h) (fun _ => rfl) (fun h => no_some rfl h)).trans
      (congrArg (fun x => Except.ok (Instr.casttab x)) (CasttabForm_of rfl (h 31 1 _ rfl) (h 21 2 _ rfl) (h 9 7 _ rfl) (h 2 7 _ rfl))))
    (plain_of_major (h 25 6 _ rfl) (by decide)) (fun p hp => no_eq rfl hp) (fun h => no_some rfl h)

theorem mma (f : MmaForm) : Statement (.mma f) := fun _ _ => by
  obtain ⟨w, e⟩ : ∃ w, w = 0x74000000 + f.bits := ⟨_, rfl⟩
  have h := Layout.reads (w := w) [(7, 0), (7, f.b.toNat), (3, f.m.toNat), (6, f.v.toNat), (2, 0), (6, 58), (1, f.c.toNat)]
    ⟨by decide, f.b.isLt, f.m.isLt, f.v.isLt, by decide, by decide, f.c.toNat_lt, trivial⟩ (by rw [e]; simp only [MmaForm.bits, Layout.value]; omega)
  have h1 := Layout.reads (w := w) [(7, 0), (7, f.b.toNat), (3, f.m.toNat), (6, f.v.toNat), (8, 232), (1, f.c.toNat)]
    ⟨by decide, f.b.isLt, f.m.isLt, f.v.isLt, by decide, f.c.toNat_lt, trivial⟩ (by rw [e]; simp only [MmaForm.bits, Layout.value]; omega)
  exact decode_encode (by rw [e]; rfl)
    ((decodeBase_of (h 25 6 _ rfl) (r := ⟨[(0, 7, 0), (23, 8, 232)], false, true, false, fun b w => .mma (.ofWord b w)⟩)
      (find_here (row_yes2 (h 0 7 _ rfl) (h1 23 8 _ rfl))) (fun h => no_some rfl h) (fun _ => rfl) (fun h => no_some rfl h)).trans
      (congrArg (fun x => Except.ok (Instr.mma x)) (MmaForm_of rfl (h 31 1 _ rfl) (h 17 6 _ rfl) (h 14 3 _ rfl) (h 7 7 _ rfl))))
    (plain_of_major (h 25 6 _ rfl) (by decide)) (fun p hp => no_eq rfl hp) (fun h => no_some rfl h)

theorem mmas (f : MmasForm) : Statement (.mmas f) := fun _ _ => by
  obtain ⟨w, e⟩ : ∃ w, w = 0x74800000 + f.bits := ⟨_, rfl⟩
  have h := Layout.reads (w := w) [(7, f.s.toNat), (7, f.b.toNat), (3, f.m.toNat), (6, f.v.toNat), (2, 1), (6, 58), (1, f.c.toNat)]
    ⟨f.s.isLt, f.b.isLt, f.m.isLt, f.v.isLt, by decide, by decide, f.c.toNat_lt, trivial⟩ (by rw [e]; simp only [MmasForm.bits, Layout.value]; omega)
  have h1 := Layout.reads (w := w) [(7, f.s.toNat), (7, f.b.toNat), (3, f.m.toNat), (6, f.v.toNat), (8, 233), (1, f.c.toNat)]
    ⟨f.s.isLt, f.b.isLt, f.m.isLt, f.v.isLt, by decide, f.c.toNat_lt, trivial⟩ (by rw [e]; simp only [MmasForm.bits, Layout.value]; omega)
  exact decode_encode (by rw [e]; rfl)
    ((decodeBase_of (h 25 6 _ rfl) (r := ⟨[(23, 8, 233)], false, true, false, fun b w => .mmas (.ofWord b w)⟩)
      (find_next (row_no (.tail _ (.head _)) 0 8 _ (by decide) (h1 23 8 _ rfl) (by decide))
      (find_here (row_yes1 (h1 23 8 _ rfl)))) (fun h => no_some rfl h) (fun _ => rfl) (fun h => no_some rfl h)).trans
      (congrArg (fun x => Except.ok (Instr.mmas x)) (MmasForm_of rfl (h 31 1 _ rfl) (h 17 6 _ rfl) (h 14 3 _ rfl) (h 7 7 _ rfl) (h 0 7 _ rfl))))
    (plain_of_major (h 25 6 _ rfl) (by decide)) (fun p hp => no_eq rfl hp) (fun h => no_some rfl h)

theorem accz (f : AccForm) : Statement (.accz f) := fun _ _ => by
  obtain ⟨w, e⟩ : ∃ w, w = 0x75000000 + f.bits := ⟨_, rfl⟩
  have h := Layout.reads (w := w) [(14, 0), (3, f.m.toNat), (6, f.v.toNat), (2, 2), (6, 58), (1, f.c.toNat)]
    ⟨by decide, f.m.isLt, f.v.isLt, by decide, by decide, f.c.toNat_lt, trivial⟩ (by rw [e]; simp only [AccForm.bits, Layout.value]; omega)
  have h1 := Layout.reads (w := w) [(14, 0), (3, f.m.toNat), (6, f.v.toNat), (8, 234), (1, f.c.toNat)]
    ⟨by decide, f.m.isLt, f.v.isLt, by decide, f.c.toNat_lt, trivial⟩ (by rw [e]; simp only [AccForm.bits, Layout.value]; omega)
  exact decode_encode (by rw [e]; rfl)
    ((decodeBase_of (h 25 6 _ rfl) (r := ⟨[(0, 14, 0), (23, 8, 234)], false, false, false, fun b w => .accz (.ofWord b w)⟩)
      (find_next (row_no (.tail _ (.head _)) 0 8 _ (by decide) (h1 23 8 _ rfl) (by decide))
      (find_next (row_no (.head _) 0 8 _ (by decide) (h1 23 8 _ rfl) (by decide))
      (find_here (row_yes2 (h 0 14 _ rfl) (h1 23 8 _ rfl))))) (fun h => no_some rfl h) (fun h => no_some rfl h) (fun h => no_some rfl h)).trans
      (congrArg (fun x => Except.ok (Instr.accz x)) (AccForm_of (h 31 1 _ rfl) (h 17 6 _ rfl) (h 14 3 _ rfl))))
    (plain_of_major (h 25 6 _ rfl) (by decide)) (fun p hp => no_eq rfl hp) (fun h => no_some rfl h)

theorem accld (f : AccObjForm) : Statement (.accld f) := fun _ _ => by
  obtain ⟨w, e⟩ : ∃ w, w = 0x75800000 + f.bits := ⟨_, rfl⟩
  have h := Layout.reads (w := w) [(14, 0), (3, f.m.toNat), (6, f.v.toNat), (2, 3), (6, 58), (1, f.c.toNat)]
    ⟨by decide, f.m.isLt, f.v.isLt, by decide, by decide, f.c.toNat_lt, trivial⟩ (by rw [e]; simp only [AccObjForm.bits, Layout.value]; omega)
  have h1 := Layout.reads (w := w) [(14, 0), (3, f.m.toNat), (6, f.v.toNat), (8, 235), (1, f.c.toNat)]
    ⟨by decide, f.m.isLt, f.v.isLt, by decide, f.c.toNat_lt, trivial⟩ (by rw [e]; simp only [AccObjForm.bits, Layout.value]; omega)
  exact decode_encode (by rw [e]; rfl)
    ((decodeBase_of (h 25 6 _ rfl) (r := ⟨[(0, 14, 0), (23, 8, 235)], false, true, false, fun b w => .accld (.ofWord b w)⟩)
      (find_next (row_no (.tail _ (.head _)) 0 8 _ (by decide) (h1 23 8 _ rfl) (by decide))
      (find_next (row_no (.head _) 0 8 _ (by decide) (h1 23 8 _ rfl) (by decide))
      (find_next (row_no (.tail _ (.head _)) 0 8 _ (by decide) (h1 23 8 _ rfl) (by decide))
      (find_here (row_yes2 (h 0 14 _ rfl) (h1 23 8 _ rfl)))))) (fun h => no_some rfl h) (fun _ => rfl) (fun h => no_some rfl h)).trans
      (congrArg (fun x => Except.ok (Instr.accld x)) (AccObjForm_of rfl (h 31 1 _ rfl) (h 17 6 _ rfl) (h 14 3 _ rfl))))
    (plain_of_major (h 25 6 _ rfl) (by decide)) (fun p hp => no_eq rfl hp) (fun h => no_some rfl h)

theorem accst (f : AccstForm) : Statement (.accst f) := fun _ _ => by
  obtain ⟨w, e⟩ : ∃ w, w = 0x76000000 + f.bits := ⟨_, rfl⟩
  have h := Layout.reads (w := w) [(7, 0), (2, f.k.toNat), (5, 0), (3, f.m.toNat), (6, f.v.toNat), (2, 0), (6, 59), (1, f.c.toNat)]
    ⟨by decide, f.k.isLt, by decide, f.m.isLt, f.v.isLt, by decide, by decide, f.c.toNat_lt, trivial⟩ (by rw [e]; simp only [AccstForm.bits, Layout.value]; omega)
  have h1 := Layout.reads (w := w) [(7, 0), (2, f.k.toNat), (5, 0), (3, f.m.toNat), (6, f.v.toNat), (8, 236), (1, f.c.toNat)]
    ⟨by decide, f.k.isLt, by decide, f.m.isLt, f.v.isLt, by decide, f.c.toNat_lt, trivial⟩ (by rw [e]; simp only [AccstForm.bits, Layout.value]; omega)
  exact decode_encode (by rw [e]; rfl)
    ((decodeBase_of (h 25 6 _ rfl) (r := ⟨[(0, 7, 0), (9, 5, 0), (23, 8, 236)], false, true, false, fun b w => .accst (.ofWord b w)⟩)
      (find_here (row_yes3 (h 0 7 _ rfl) (h 9 5 _ rfl) (h1 23 8 _ rfl))) (fun h => no_some rfl h) (fun _ => rfl) (fun h => no_some rfl h)).trans
      (congrArg (fun x => Except.ok (Instr.accst x)) (AccstForm_of rfl (h 31 1 _ rfl) (h 17 6 _ rfl) (h 14 3 _ rfl) (h 7 2 _ rfl))))
    (plain_of_major (h 25 6 _ rfl) (by decide)) (fun p hp => no_eq rfl hp) (fun h => no_some rfl h)

theorem accstAdd (f : AccstForm) : Statement (.accstAdd f) := fun _ _ => by
  obtain ⟨w, e⟩ : ∃ w, w = 0x76800000 + f.bits := ⟨_, rfl⟩
  have h := Layout.reads (w := w) [(7, 0), (2, f.k.toNat), (5, 0), (3, f.m.toNat), (6, f.v.toNat), (2, 1), (6, 59), (1, f.c.toNat)]
    ⟨by decide, f.k.isLt, by decide, f.m.isLt, f.v.isLt, by decide, by decide, f.c.toNat_lt, trivial⟩ (by rw [e]; simp only [AccstForm.bits, Layout.value]; omega)
  have h1 := Layout.reads (w := w) [(7, 0), (2, f.k.toNat), (5, 0), (3, f.m.toNat), (6, f.v.toNat), (8, 237), (1, f.c.toNat)]
    ⟨by decide, f.k.isLt, by decide, f.m.isLt, f.v.isLt, by decide, f.c.toNat_lt, trivial⟩ (by rw [e]; simp only [AccstForm.bits, Layout.value]; omega)
  exact decode_encode (by rw [e]; rfl)
    ((decodeBase_of (h 25 6 _ rfl) (r := ⟨[(0, 7, 0), (9, 5, 0), (23, 8, 237)], false, true, false, fun b w => .accstAdd (.ofWord b w)⟩)
      (find_next (row_no (.tail _ (.tail _ (.head _))) 0 8 _ (by decide) (h1 23 8 _ rfl) (by decide))
      (find_here (row_yes3 (h 0 7 _ rfl) (h 9 5 _ rfl) (h1 23 8 _ rfl)))) (fun h => no_some rfl h) (fun _ => rfl) (fun h => no_some rfl h)).trans
      (congrArg (fun x => Except.ok (Instr.accstAdd x)) (AccstForm_of rfl (h 31 1 _ rfl) (h 17 6 _ rfl) (h 14 3 _ rfl) (h 7 2 _ rfl))))
    (plain_of_major (h 25 6 _ rfl) (by decide)) (fun p hp => no_eq rfl hp) (fun h => no_some rfl h)

theorem accrd (f : AccrdForm) : Statement (.accrd f) := fun _ _ => by
  obtain ⟨w, e⟩ : ∃ w, w = 0x77000000 + f.bits := ⟨_, rfl⟩
  have h := Layout.reads (w := w) [(7, f.a.toNat), (7, f.d.toNat), (3, f.m.toNat), (6, f.v.toNat), (2, 2), (6, 59), (1, f.c.toNat)]
    ⟨f.a.isLt, f.d.isLt, f.m.isLt, f.v.isLt, by decide, by decide, f.c.toNat_lt, trivial⟩ (by rw [e]; simp only [AccrdForm.bits, Layout.value]; omega)
  have h1 := Layout.reads (w := w) [(7, f.a.toNat), (7, f.d.toNat), (3, f.m.toNat), (6, f.v.toNat), (8, 238), (1, f.c.toNat)]
    ⟨f.a.isLt, f.d.isLt, f.m.isLt, f.v.isLt, by decide, f.c.toNat_lt, trivial⟩ (by rw [e]; simp only [AccrdForm.bits, Layout.value]; omega)
  exact decode_encode (by rw [e]; rfl)
    ((decodeBase_of (h 25 6 _ rfl) (r := ⟨[(23, 8, 238)], false, false, false, fun b w => .accrd (.ofWord b w)⟩)
      (find_next (row_no (.tail _ (.tail _ (.head _))) 0 8 _ (by decide) (h1 23 8 _ rfl) (by decide))
      (find_next (row_no (.tail _ (.tail _ (.head _))) 0 8 _ (by decide) (h1 23 8 _ rfl) (by decide))
      (find_here (row_yes1 (h1 23 8 _ rfl))))) (fun h => no_some rfl h) (fun h => no_some rfl h) (fun h => no_some rfl h)).trans
      (congrArg (fun x => Except.ok (Instr.accrd x)) (AccrdForm_of (h 31 1 _ rfl) (h 17 6 _ rfl) (h 14 3 _ rfl) (h 7 7 _ rfl) (h 0 7 _ rfl))))
    (plain_of_major (h 25 6 _ rfl) (by decide)) (fun p hp => no_eq rfl hp) (fun h => no_some rfl h)

theorem mseq (f : AccObjForm) : Statement (.mseq f) := fun _ _ => by
  obtain ⟨w, e⟩ : ∃ w, w = 0x77800000 + f.bits := ⟨_, rfl⟩
  have h := Layout.reads (w := w) [(14, 0), (3, f.m.toNat), (6, f.v.toNat), (2, 3), (6, 59), (1, f.c.toNat)]
    ⟨by decide, f.m.isLt, f.v.isLt, by decide, by decide, f.c.toNat_lt, trivial⟩ (by rw [e]; simp only [AccObjForm.bits, Layout.value]; omega)
  have h1 := Layout.reads (w := w) [(14, 0), (3, f.m.toNat), (6, f.v.toNat), (8, 239), (1, f.c.toNat)]
    ⟨by decide, f.m.isLt, f.v.isLt, by decide, f.c.toNat_lt, trivial⟩ (by rw [e]; simp only [AccObjForm.bits, Layout.value]; omega)
  exact decode_encode (by rw [e]; rfl)
    ((decodeBase_of (h 25 6 _ rfl) (r := ⟨[(0, 14, 0), (23, 8, 239)], false, true, false, fun b w => .mseq (.ofWord b w)⟩)
      (find_next (row_no (.tail _ (.tail _ (.head _))) 0 8 _ (by decide) (h1 23 8 _ rfl) (by decide))
      (find_next (row_no (.tail _ (.tail _ (.head _))) 0 8 _ (by decide) (h1 23 8 _ rfl) (by decide))
      (find_next (row_no (.head _) 0 8 _ (by decide) (h1 23 8 _ rfl) (by decide))
      (find_here (row_yes2 (h 0 14 _ rfl) (h1 23 8 _ rfl)))))) (fun h => no_some rfl h) (fun _ => rfl) (fun h => no_some rfl h)).trans
      (congrArg (fun x => Except.ok (Instr.mseq x)) (AccObjForm_of rfl (h 31 1 _ rfl) (h 17 6 _ rfl) (h 14 3 _ rfl))))
    (plain_of_major (h 25 6 _ rfl) (by decide)) (fun p hp => no_eq rfl hp) (fun h => no_some rfl h)

theorem rmaxW (f : Red1Form) : Statement (.rmaxW f) := fun _ _ => by
  obtain ⟨w, e⟩ : ∃ w, w = 0x78000000 + f.bits := ⟨_, rfl⟩
  have h := Layout.reads (w := w) [(16, f.o.toNat), (5, f.a.toNat), (4, 0), (6, 60), (1, f.c.toNat)]
    ⟨f.o.isLt, f.a.isLt, by decide, by decide, f.c.toNat_lt, trivial⟩ (by rw [e]; simp only [Red1Form.bits, Layout.value]; omega)
  have h1 := Layout.reads (w := w) [(16, f.o.toNat), (5, f.a.toNat), (10, 960), (1, f.c.toNat)]
    ⟨f.o.isLt, f.a.isLt, by decide, f.c.toNat_lt, trivial⟩ (by rw [e]; simp only [Red1Form.bits, Layout.value]; omega)
  exact decode_encode (by rw [e]; rfl)
    ((decodeBase_of (h 25 6 _ rfl) (r := ⟨[(21, 10, 960)], false, true, false, fun b w => .rmaxW (.ofWord b w)⟩)
      (find_here (row_yes1 (h1 21 10 _ rfl))) (fun h => no_some rfl h) (fun _ => rfl) (fun h => no_some rfl h)).trans
      (congrArg (fun x => Except.ok (Instr.rmaxW x)) (Red1Form_of rfl (h 31 1 _ rfl) (h 16 5 _ rfl) (h 0 16 _ rfl))))
    (plain_of_major (h 25 6 _ rfl) (by decide)) (fun p hp => no_eq rfl hp) (fun h => no_some rfl h)

theorem rminW (f : Red1Form) : Statement (.rminW f) := fun _ _ => by
  obtain ⟨w, e⟩ : ∃ w, w = 0x78400000 + f.bits := ⟨_, rfl⟩
  have h := Layout.reads (w := w) [(16, f.o.toNat), (5, f.a.toNat), (4, 2), (6, 60), (1, f.c.toNat)]
    ⟨f.o.isLt, f.a.isLt, by decide, by decide, f.c.toNat_lt, trivial⟩ (by rw [e]; simp only [Red1Form.bits, Layout.value]; omega)
  have h1 := Layout.reads (w := w) [(16, f.o.toNat), (5, f.a.toNat), (10, 962), (1, f.c.toNat)]
    ⟨f.o.isLt, f.a.isLt, by decide, f.c.toNat_lt, trivial⟩ (by rw [e]; simp only [Red1Form.bits, Layout.value]; omega)
  exact decode_encode (by rw [e]; rfl)
    ((decodeBase_of (h 25 6 _ rfl) (r := ⟨[(21, 10, 962)], false, true, false, fun b w => .rminW (.ofWord b w)⟩)
      (find_next (row_no (.head _) 0 10 _ (by decide) (h1 21 10 _ rfl) (by decide))
      (find_here (row_yes1 (h1 21 10 _ rfl)))) (fun h => no_some rfl h) (fun _ => rfl) (fun h => no_some rfl h)).trans
      (congrArg (fun x => Except.ok (Instr.rminW x)) (Red1Form_of rfl (h 31 1 _ rfl) (h 16 5 _ rfl) (h 0 16 _ rfl))))
    (plain_of_major (h 25 6 _ rfl) (by decide)) (fun p hp => no_eq rfl hp) (fun h => no_some rfl h)

theorem rmedW (f : Red1Form) : Statement (.rmedW f) := fun _ _ => by
  obtain ⟨w, e⟩ : ∃ w, w = 0x78800000 + f.bits := ⟨_, rfl⟩
  have h := Layout.reads (w := w) [(16, f.o.toNat), (5, f.a.toNat), (4, 4), (6, 60), (1, f.c.toNat)]
    ⟨f.o.isLt, f.a.isLt, by decide, by decide, f.c.toNat_lt, trivial⟩ (by rw [e]; simp only [Red1Form.bits, Layout.value]; omega)
  have h1 := Layout.reads (w := w) [(16, f.o.toNat), (5, f.a.toNat), (10, 964), (1, f.c.toNat)]
    ⟨f.o.isLt, f.a.isLt, by decide, f.c.toNat_lt, trivial⟩ (by rw [e]; simp only [Red1Form.bits, Layout.value]; omega)
  exact decode_encode (by rw [e]; rfl)
    ((decodeBase_of (h 25 6 _ rfl) (r := ⟨[(21, 10, 964)], false, true, false, fun b w => .rmedW (.ofWord b w)⟩)
      (find_next (row_no (.head _) 0 10 _ (by decide) (h1 21 10 _ rfl) (by decide))
      (find_next (row_no (.head _) 0 10 _ (by decide) (h1 21 10 _ rfl) (by decide))
      (find_here (row_yes1 (h1 21 10 _ rfl))))) (fun h => no_some rfl h) (fun _ => rfl) (fun h => no_some rfl h)).trans
      (congrArg (fun x => Except.ok (Instr.rmedW x)) (Red1Form_of rfl (h 31 1 _ rfl) (h 16 5 _ rfl) (h 0 16 _ rfl))))
    (plain_of_major (h 25 6 _ rfl) (by decide)) (fun p hp => no_eq rfl hp) (fun h => no_some rfl h)

theorem rclampW (f : Red1Form) : Statement (.rclampW f) := fun _ _ => by
  obtain ⟨w, e⟩ : ∃ w, w = 0x78C00000 + f.bits := ⟨_, rfl⟩
  have h := Layout.reads (w := w) [(16, f.o.toNat), (5, f.a.toNat), (4, 6), (6, 60), (1, f.c.toNat)]
    ⟨f.o.isLt, f.a.isLt, by decide, by decide, f.c.toNat_lt, trivial⟩ (by rw [e]; simp only [Red1Form.bits, Layout.value]; omega)
  have h1 := Layout.reads (w := w) [(16, f.o.toNat), (5, f.a.toNat), (10, 966), (1, f.c.toNat)]
    ⟨f.o.isLt, f.a.isLt, by decide, f.c.toNat_lt, trivial⟩ (by rw [e]; simp only [Red1Form.bits, Layout.value]; omega)
  exact decode_encode (by rw [e]; rfl)
    ((decodeBase_of (h 25 6 _ rfl) (r := ⟨[(21, 10, 966)], false, true, false, fun b w => .rclampW (.ofWord b w)⟩)
      (find_next (row_no (.head _) 0 10 _ (by decide) (h1 21 10 _ rfl) (by decide))
      (find_next (row_no (.head _) 0 10 _ (by decide) (h1 21 10 _ rfl) (by decide))
      (find_next (row_no (.head _) 0 10 _ (by decide) (h1 21 10 _ rfl) (by decide))
      (find_here (row_yes1 (h1 21 10 _ rfl)))))) (fun h => no_some rfl h) (fun _ => rfl) (fun h => no_some rfl h)).trans
      (congrArg (fun x => Except.ok (Instr.rclampW x)) (Red1Form_of rfl (h 31 1 _ rfl) (h 16 5 _ rfl) (h 0 16 _ rfl))))
    (plain_of_major (h 25 6 _ rfl) (by decide)) (fun p hp => no_eq rfl hp) (fun h => no_some rfl h)

theorem rssumW (f : Red1Form) : Statement (.rssumW f) := fun _ _ => by
  obtain ⟨w, e⟩ : ∃ w, w = 0x79000000 + f.bits := ⟨_, rfl⟩
  have h := Layout.reads (w := w) [(16, f.o.toNat), (5, f.a.toNat), (4, 8), (6, 60), (1, f.c.toNat)]
    ⟨f.o.isLt, f.a.isLt, by decide, by decide, f.c.toNat_lt, trivial⟩ (by rw [e]; simp only [Red1Form.bits, Layout.value]; omega)
  have h1 := Layout.reads (w := w) [(16, f.o.toNat), (5, f.a.toNat), (10, 968), (1, f.c.toNat)]
    ⟨f.o.isLt, f.a.isLt, by decide, f.c.toNat_lt, trivial⟩ (by rw [e]; simp only [Red1Form.bits, Layout.value]; omega)
  exact decode_encode (by rw [e]; rfl)
    ((decodeBase_of (h 25 6 _ rfl) (r := ⟨[(21, 10, 968)], false, true, false, fun b w => .rssumW (.ofWord b w)⟩)
      (find_next (row_no (.head _) 0 10 _ (by decide) (h1 21 10 _ rfl) (by decide))
      (find_next (row_no (.head _) 0 10 _ (by decide) (h1 21 10 _ rfl) (by decide))
      (find_next (row_no (.head _) 0 10 _ (by decide) (h1 21 10 _ rfl) (by decide))
      (find_next (row_no (.head _) 0 10 _ (by decide) (h1 21 10 _ rfl) (by decide))
      (find_here (row_yes1 (h1 21 10 _ rfl))))))) (fun h => no_some rfl h) (fun _ => rfl) (fun h => no_some rfl h)).trans
      (congrArg (fun x => Except.ok (Instr.rssumW x)) (Red1Form_of rfl (h 31 1 _ rfl) (h 16 5 _ rfl) (h 0 16 _ rfl))))
    (plain_of_major (h 25 6 _ rfl) (by decide)) (fun p hp => no_eq rfl hp) (fun h => no_some rfl h)

theorem adjb (f : Red1Form) : Statement (.adjb f) := fun _ _ => by
  obtain ⟨w, e⟩ : ∃ w, w = 0x79400000 + f.bits := ⟨_, rfl⟩
  have h := Layout.reads (w := w) [(16, f.o.toNat), (5, f.a.toNat), (4, 10), (6, 60), (1, f.c.toNat)]
    ⟨f.o.isLt, f.a.isLt, by decide, by decide, f.c.toNat_lt, trivial⟩ (by rw [e]; simp only [Red1Form.bits, Layout.value]; omega)
  have h1 := Layout.reads (w := w) [(16, f.o.toNat), (5, f.a.toNat), (10, 970), (1, f.c.toNat)]
    ⟨f.o.isLt, f.a.isLt, by decide, f.c.toNat_lt, trivial⟩ (by rw [e]; simp only [Red1Form.bits, Layout.value]; omega)
  exact decode_encode (by rw [e]; rfl)
    ((decodeBase_of (h 25 6 _ rfl) (r := ⟨[(21, 10, 970)], false, true, false, fun b w => .adjb (.ofWord b w)⟩)
      (find_next (row_no (.head _) 0 10 _ (by decide) (h1 21 10 _ rfl) (by decide))
      (find_next (row_no (.head _) 0 10 _ (by decide) (h1 21 10 _ rfl) (by decide))
      (find_next (row_no (.head _) 0 10 _ (by decide) (h1 21 10 _ rfl) (by decide))
      (find_next (row_no (.head _) 0 10 _ (by decide) (h1 21 10 _ rfl) (by decide))
      (find_next (row_no (.head _) 0 10 _ (by decide) (h1 21 10 _ rfl) (by decide))
      (find_here (row_yes1 (h1 21 10 _ rfl)))))))) (fun h => no_some rfl h) (fun _ => rfl) (fun h => no_some rfl h)).trans
      (congrArg (fun x => Except.ok (Instr.adjb x)) (Red1Form_of rfl (h 31 1 _ rfl) (h 16 5 _ rfl) (h 0 16 _ rfl))))
    (plain_of_major (h 25 6 _ rfl) (by decide)) (fun p hp => no_eq rfl hp) (fun h => no_some rfl h)

theorem wrel (f : Obj1Form) : Statement (.wrel f) := fun _ _ => by
  obtain ⟨w, e⟩ : ∃ w, w = 0x79800000 + f.bits := ⟨_, rfl⟩
  have h := Layout.reads (w := w) [(16, f.o.toNat), (9, 384), (6, 60), (1, f.c.toNat)]
    ⟨f.o.isLt, by decide, by decide, f.c.toNat_lt, trivial⟩ (by rw [e]; simp only [Obj1Form.bits, Layout.value]; omega)
  have h1 := Layout.reads (w := w) [(16, f.o.toNat), (15, 31104), (1, f.c.toNat)]
    ⟨f.o.isLt, by decide, f.c.toNat_lt, trivial⟩ (by rw [e]; simp only [Obj1Form.bits, Layout.value]; omega)
  have h2 := Layout.reads (w := w) [(16, f.o.toNat), (5, 0), (10, 972), (1, f.c.toNat)]
    ⟨f.o.isLt, by decide, by decide, f.c.toNat_lt, trivial⟩ (by rw [e]; simp only [Obj1Form.bits, Layout.value]; omega)
  exact decode_encode (by rw [e]; rfl)
    ((decodeBase_of (h 25 6 _ rfl) (r := ⟨[(16, 15, 31104)], false, false, false, fun b w => .wrel (.ofWord b w)⟩)
      (find_next (row_no (.head _) 0 10 _ (by decide) (h2 21 10 _ rfl) (by decide))
      (find_next (row_no (.head _) 0 10 _ (by decide) (h2 21 10 _ rfl) (by decide))
      (find_next (row_no (.head _) 0 10 _ (by decide) (h2 21 10 _ rfl) (by decide))
      (find_next (row_no (.head _) 0 10 _ (by decide) (h2 21 10 _ rfl) (by decide))
      (find_next (row_no (.head _) 0 10 _ (by decide) (h2 21 10 _ rfl) (by decide))
      (find_next (row_no (.head _) 0 10 _ (by decide) (h2 21 10 _ rfl) (by decide))
      (find_here (row_yes1 (h1 16 15 _ rfl))))))))) (fun h => no_some rfl h) (fun h => no_some rfl h) (fun h => no_some rfl h)).trans
      (congrArg (fun x => Except.ok (Instr.wrel x)) (Obj1Form_of (h 31 1 _ rfl) (h 0 16 _ rfl))))
    (plain_of_major (h 25 6 _ rfl) (by decide)) (fun p hp => no_eq rfl hp) (fun h => no_some rfl h)

theorem rmaxWCr (f : RedCrForm) : Statement (.rmaxWCr f) := fun _ _ => by
  obtain ⟨w, e⟩ : ∃ w, w = 0x78200000 + f.bits := ⟨_, rfl⟩
  have h := Layout.reads (w := w) [(1, f.y.toNat), (2, f.t.toNat), (7, f.d.toNat), (6, f.v.toNat), (5, f.a.toNat), (4, 1), (6, 60), (1, f.c.toNat)]
    ⟨f.y.toNat_lt, f.t.isLt, f.d.isLt, f.v.isLt, f.a.isLt, by decide, by decide, f.c.toNat_lt, trivial⟩ (by rw [e]; simp only [RedCrForm.bits, Layout.value]; omega)
  have h1 := Layout.reads (w := w) [(1, f.y.toNat), (2, f.t.toNat), (7, f.d.toNat), (6, f.v.toNat), (5, f.a.toNat), (10, 961), (1, f.c.toNat)]
    ⟨f.y.toNat_lt, f.t.isLt, f.d.isLt, f.v.isLt, f.a.isLt, by decide, f.c.toNat_lt, trivial⟩ (by rw [e]; simp only [RedCrForm.bits, Layout.value]; omega)
  exact decode_encode (by rw [e]; rfl)
    ((decodeBase_of (h 25 6 _ rfl) (r := ⟨[(21, 10, 961)], false, false, false, fun b w => .rmaxWCr (.ofWord b w)⟩)
      (find_next (row_no (.head _) 0 10 _ (by decide) (h1 21 10 _ rfl) (by decide))
      (find_next (row_no (.head _) 0 10 _ (by decide) (h1 21 10 _ rfl) (by decide))
      (find_next (row_no (.head _) 0 10 _ (by decide) (h1 21 10 _ rfl) (by decide))
      (find_next (row_no (.head _) 0 10 _ (by decide) (h1 21 10 _ rfl) (by decide))
      (find_next (row_no (.head _) 0 10 _ (by decide) (h1 21 10 _ rfl) (by decide))
      (find_next (row_no (.head _) 0 10 _ (by decide) (h1 21 10 _ rfl) (by decide))
      (find_next (row_no (.head _) 5 10 _ (by decide) (h1 21 10 _ rfl) (by decide))
      (find_here (row_yes1 (h1 21 10 _ rfl)))))))))) (fun h => no_some rfl h) (fun h => no_some rfl h) (fun h => no_some rfl h)).trans
      (congrArg (fun x => Except.ok (Instr.rmaxWCr x)) (RedCrForm_of (h 31 1 _ rfl) (h 16 5 _ rfl) (h 10 6 _ rfl) (h 3 7 _ rfl) (h 1 2 _ rfl) (h 0 1 _ rfl))))
    (plain_of_major (h 25 6 _ rfl) (by decide)) (fun p hp => no_eq rfl hp) (fun h => no_some rfl h)

theorem rminWCr (f : RedCrForm) : Statement (.rminWCr f) := fun _ _ => by
  obtain ⟨w, e⟩ : ∃ w, w = 0x78600000 + f.bits := ⟨_, rfl⟩
  have h := Layout.reads (w := w) [(1, f.y.toNat), (2, f.t.toNat), (7, f.d.toNat), (6, f.v.toNat), (5, f.a.toNat), (4, 3), (6, 60), (1, f.c.toNat)]
    ⟨f.y.toNat_lt, f.t.isLt, f.d.isLt, f.v.isLt, f.a.isLt, by decide, by decide, f.c.toNat_lt, trivial⟩ (by rw [e]; simp only [RedCrForm.bits, Layout.value]; omega)
  have h1 := Layout.reads (w := w) [(1, f.y.toNat), (2, f.t.toNat), (7, f.d.toNat), (6, f.v.toNat), (5, f.a.toNat), (10, 963), (1, f.c.toNat)]
    ⟨f.y.toNat_lt, f.t.isLt, f.d.isLt, f.v.isLt, f.a.isLt, by decide, f.c.toNat_lt, trivial⟩ (by rw [e]; simp only [RedCrForm.bits, Layout.value]; omega)
  exact decode_encode (by rw [e]; rfl)
    ((decodeBase_of (h 25 6 _ rfl) (r := ⟨[(21, 10, 963)], false, false, false, fun b w => .rminWCr (.ofWord b w)⟩)
      (find_next (row_no (.head _) 0 10 _ (by decide) (h1 21 10 _ rfl) (by decide))
      (find_next (row_no (.head _) 0 10 _ (by decide) (h1 21 10 _ rfl) (by decide))
      (find_next (row_no (.head _) 0 10 _ (by decide) (h1 21 10 _ rfl) (by decide))
      (find_next (row_no (.head _) 0 10 _ (by decide) (h1 21 10 _ rfl) (by decide))
      (find_next (row_no (.head _) 0 10 _ (by decide) (h1 21 10 _ rfl) (by decide))
      (find_next (row_no (.head _) 0 10 _ (by decide) (h1 21 10 _ rfl) (by decide))
      (find_next (row_no (.head _) 5 10 _ (by decide) (h1 21 10 _ rfl) (by decide))
      (find_next (row_no (.head _) 0 10 _ (by decide) (h1 21 10 _ rfl) (by decide))
      (find_here (row_yes1 (h1 21 10 _ rfl))))))))))) (fun h => no_some rfl h) (fun h => no_some rfl h) (fun h => no_some rfl h)).trans
      (congrArg (fun x => Except.ok (Instr.rminWCr x)) (RedCrForm_of (h 31 1 _ rfl) (h 16 5 _ rfl) (h 10 6 _ rfl) (h 3 7 _ rfl) (h 1 2 _ rfl) (h 0 1 _ rfl))))
    (plain_of_major (h 25 6 _ rfl) (by decide)) (fun p hp => no_eq rfl hp) (fun h => no_some rfl h)

theorem rmedWCr (f : RedCrForm) : Statement (.rmedWCr f) := fun _ _ => by
  obtain ⟨w, e⟩ : ∃ w, w = 0x78A00000 + f.bits := ⟨_, rfl⟩
  have h := Layout.reads (w := w) [(1, f.y.toNat), (2, f.t.toNat), (7, f.d.toNat), (6, f.v.toNat), (5, f.a.toNat), (4, 5), (6, 60), (1, f.c.toNat)]
    ⟨f.y.toNat_lt, f.t.isLt, f.d.isLt, f.v.isLt, f.a.isLt, by decide, by decide, f.c.toNat_lt, trivial⟩ (by rw [e]; simp only [RedCrForm.bits, Layout.value]; omega)
  have h1 := Layout.reads (w := w) [(1, f.y.toNat), (2, f.t.toNat), (7, f.d.toNat), (6, f.v.toNat), (5, f.a.toNat), (10, 965), (1, f.c.toNat)]
    ⟨f.y.toNat_lt, f.t.isLt, f.d.isLt, f.v.isLt, f.a.isLt, by decide, f.c.toNat_lt, trivial⟩ (by rw [e]; simp only [RedCrForm.bits, Layout.value]; omega)
  exact decode_encode (by rw [e]; rfl)
    ((decodeBase_of (h 25 6 _ rfl) (r := ⟨[(21, 10, 965)], false, false, false, fun b w => .rmedWCr (.ofWord b w)⟩)
      (find_next (row_no (.head _) 0 10 _ (by decide) (h1 21 10 _ rfl) (by decide))
      (find_next (row_no (.head _) 0 10 _ (by decide) (h1 21 10 _ rfl) (by decide))
      (find_next (row_no (.head _) 0 10 _ (by decide) (h1 21 10 _ rfl) (by decide))
      (find_next (row_no (.head _) 0 10 _ (by decide) (h1 21 10 _ rfl) (by decide))
      (find_next (row_no (.head _) 0 10 _ (by decide) (h1 21 10 _ rfl) (by decide))
      (find_next (row_no (.head _) 0 10 _ (by decide) (h1 21 10 _ rfl) (by decide))
      (find_next (row_no (.head _) 5 10 _ (by decide) (h1 21 10 _ rfl) (by decide))
      (find_next (row_no (.head _) 0 10 _ (by decide) (h1 21 10 _ rfl) (by decide))
      (find_next (row_no (.head _) 0 10 _ (by decide) (h1 21 10 _ rfl) (by decide))
      (find_here (row_yes1 (h1 21 10 _ rfl)))))))))))) (fun h => no_some rfl h) (fun h => no_some rfl h) (fun h => no_some rfl h)).trans
      (congrArg (fun x => Except.ok (Instr.rmedWCr x)) (RedCrForm_of (h 31 1 _ rfl) (h 16 5 _ rfl) (h 10 6 _ rfl) (h 3 7 _ rfl) (h 1 2 _ rfl) (h 0 1 _ rfl))))
    (plain_of_major (h 25 6 _ rfl) (by decide)) (fun p hp => no_eq rfl hp) (fun h => no_some rfl h)

theorem rclampWCr (f : RedCrForm) : Statement (.rclampWCr f) := fun _ _ => by
  obtain ⟨w, e⟩ : ∃ w, w = 0x78E00000 + f.bits := ⟨_, rfl⟩
  have h := Layout.reads (w := w) [(1, f.y.toNat), (2, f.t.toNat), (7, f.d.toNat), (6, f.v.toNat), (5, f.a.toNat), (4, 7), (6, 60), (1, f.c.toNat)]
    ⟨f.y.toNat_lt, f.t.isLt, f.d.isLt, f.v.isLt, f.a.isLt, by decide, by decide, f.c.toNat_lt, trivial⟩ (by rw [e]; simp only [RedCrForm.bits, Layout.value]; omega)
  have h1 := Layout.reads (w := w) [(1, f.y.toNat), (2, f.t.toNat), (7, f.d.toNat), (6, f.v.toNat), (5, f.a.toNat), (10, 967), (1, f.c.toNat)]
    ⟨f.y.toNat_lt, f.t.isLt, f.d.isLt, f.v.isLt, f.a.isLt, by decide, f.c.toNat_lt, trivial⟩ (by rw [e]; simp only [RedCrForm.bits, Layout.value]; omega)
  exact decode_encode (by rw [e]; rfl)
    ((decodeBase_of (h 25 6 _ rfl) (r := ⟨[(21, 10, 967)], false, false, false, fun b w => .rclampWCr (.ofWord b w)⟩)
      (find_next (row_no (.head _) 0 10 _ (by decide) (h1 21 10 _ rfl) (by decide))
      (find_next (row_no (.head _) 0 10 _ (by decide) (h1 21 10 _ rfl) (by decide))
      (find_next (row_no (.head _) 0 10 _ (by decide) (h1 21 10 _ rfl) (by decide))
      (find_next (row_no (.head _) 0 10 _ (by decide) (h1 21 10 _ rfl) (by decide))
      (find_next (row_no (.head _) 0 10 _ (by decide) (h1 21 10 _ rfl) (by decide))
      (find_next (row_no (.head _) 0 10 _ (by decide) (h1 21 10 _ rfl) (by decide))
      (find_next (row_no (.head _) 5 10 _ (by decide) (h1 21 10 _ rfl) (by decide))
      (find_next (row_no (.head _) 0 10 _ (by decide) (h1 21 10 _ rfl) (by decide))
      (find_next (row_no (.head _) 0 10 _ (by decide) (h1 21 10 _ rfl) (by decide))
      (find_next (row_no (.head _) 0 10 _ (by decide) (h1 21 10 _ rfl) (by decide))
      (find_here (row_yes1 (h1 21 10 _ rfl))))))))))))) (fun h => no_some rfl h) (fun h => no_some rfl h) (fun h => no_some rfl h)).trans
      (congrArg (fun x => Except.ok (Instr.rclampWCr x)) (RedCrForm_of (h 31 1 _ rfl) (h 16 5 _ rfl) (h 10 6 _ rfl) (h 3 7 _ rfl) (h 1 2 _ rfl) (h 0 1 _ rfl))))
    (plain_of_major (h 25 6 _ rfl) (by decide)) (fun p hp => no_eq rfl hp) (fun h => no_some rfl h)

theorem rssumWCr (f : RedCrForm) : Statement (.rssumWCr f) := fun _ _ => by
  obtain ⟨w, e⟩ : ∃ w, w = 0x79200000 + f.bits := ⟨_, rfl⟩
  have h := Layout.reads (w := w) [(1, f.y.toNat), (2, f.t.toNat), (7, f.d.toNat), (6, f.v.toNat), (5, f.a.toNat), (4, 9), (6, 60), (1, f.c.toNat)]
    ⟨f.y.toNat_lt, f.t.isLt, f.d.isLt, f.v.isLt, f.a.isLt, by decide, by decide, f.c.toNat_lt, trivial⟩ (by rw [e]; simp only [RedCrForm.bits, Layout.value]; omega)
  have h1 := Layout.reads (w := w) [(1, f.y.toNat), (2, f.t.toNat), (7, f.d.toNat), (6, f.v.toNat), (5, f.a.toNat), (10, 969), (1, f.c.toNat)]
    ⟨f.y.toNat_lt, f.t.isLt, f.d.isLt, f.v.isLt, f.a.isLt, by decide, f.c.toNat_lt, trivial⟩ (by rw [e]; simp only [RedCrForm.bits, Layout.value]; omega)
  exact decode_encode (by rw [e]; rfl)
    ((decodeBase_of (h 25 6 _ rfl) (r := ⟨[(21, 10, 969)], false, false, false, fun b w => .rssumWCr (.ofWord b w)⟩)
      (find_next (row_no (.head _) 0 10 _ (by decide) (h1 21 10 _ rfl) (by decide))
      (find_next (row_no (.head _) 0 10 _ (by decide) (h1 21 10 _ rfl) (by decide))
      (find_next (row_no (.head _) 0 10 _ (by decide) (h1 21 10 _ rfl) (by decide))
      (find_next (row_no (.head _) 0 10 _ (by decide) (h1 21 10 _ rfl) (by decide))
      (find_next (row_no (.head _) 0 10 _ (by decide) (h1 21 10 _ rfl) (by decide))
      (find_next (row_no (.head _) 0 10 _ (by decide) (h1 21 10 _ rfl) (by decide))
      (find_next (row_no (.head _) 5 10 _ (by decide) (h1 21 10 _ rfl) (by decide))
      (find_next (row_no (.head _) 0 10 _ (by decide) (h1 21 10 _ rfl) (by decide))
      (find_next (row_no (.head _) 0 10 _ (by decide) (h1 21 10 _ rfl) (by decide))
      (find_next (row_no (.head _) 0 10 _ (by decide) (h1 21 10 _ rfl) (by decide))
      (find_next (row_no (.head _) 0 10 _ (by decide) (h1 21 10 _ rfl) (by decide))
      (find_here (row_yes1 (h1 21 10 _ rfl)))))))))))))) (fun h => no_some rfl h) (fun h => no_some rfl h) (fun h => no_some rfl h)).trans
      (congrArg (fun x => Except.ok (Instr.rssumWCr x)) (RedCrForm_of (h 31 1 _ rfl) (h 16 5 _ rfl) (h 10 6 _ rfl) (h 3 7 _ rfl) (h 1 2 _ rfl) (h 0 1 _ rfl))))
    (plain_of_major (h 25 6 _ rfl) (by decide)) (fun p hp => no_eq rfl hp) (fun h => no_some rfl h)

theorem fcoll (f : FcollWForm) : Statement (.fcoll f) := fun _ _ => by
  obtain ⟨w, e⟩ : ∃ w, w = 0x7A000000 + f.bits := ⟨_, rfl⟩
  have h := Layout.reads (w := w) [(16, f.o.toNat), (7, f.a.toNat), (2, 0), (6, 61), (1, f.c.toNat)]
    ⟨f.o.isLt, f.a.isLt, by decide, by decide, f.c.toNat_lt, trivial⟩ (by rw [e]; simp only [FcollWForm.bits, Layout.value]; omega)
  have h1 := Layout.reads (w := w) [(16, f.o.toNat), (7, f.a.toNat), (8, 244), (1, f.c.toNat)]
    ⟨f.o.isLt, f.a.isLt, by decide, f.c.toNat_lt, trivial⟩ (by rw [e]; simp only [FcollWForm.bits, Layout.value]; omega)
  exact decode_encode (by rw [e]; rfl)
    ((decodeBase_of (h 25 6 _ rfl) (r := ⟨[(23, 8, 244)], false, false, false, fun b w => .fcoll (.ofWord b w)⟩)
      (find_here (row_yes1 (h1 23 8 _ rfl))) (fun h => no_some rfl h) (fun h => no_some rfl h) (fun h => no_some rfl h)).trans
      (congrArg (fun x => Except.ok (Instr.fcoll x)) (FcollWForm_of (h 31 1 _ rfl) (h 16 7 _ rfl) (h 0 16 _ rfl))))
    (plain_of_major (h 25 6 _ rfl) (by decide)) (fun p hp => no_eq rfl hp) (fun h => no_some rfl h)

theorem fsend (f : FcollWForm) : Statement (.fsend f) := fun _ _ => by
  obtain ⟨w, e⟩ : ∃ w, w = 0x7A800000 + f.bits := ⟨_, rfl⟩
  have h := Layout.reads (w := w) [(16, f.o.toNat), (7, f.a.toNat), (2, 1), (6, 61), (1, f.c.toNat)]
    ⟨f.o.isLt, f.a.isLt, by decide, by decide, f.c.toNat_lt, trivial⟩ (by rw [e]; simp only [FcollWForm.bits, Layout.value]; omega)
  have h1 := Layout.reads (w := w) [(16, f.o.toNat), (7, f.a.toNat), (8, 245), (1, f.c.toNat)]
    ⟨f.o.isLt, f.a.isLt, by decide, f.c.toNat_lt, trivial⟩ (by rw [e]; simp only [FcollWForm.bits, Layout.value]; omega)
  exact decode_encode (by rw [e]; rfl)
    ((decodeBase_of (h 25 6 _ rfl) (r := ⟨[(23, 8, 245)], false, false, false, fun b w => .fsend (.ofWord b w)⟩)
      (find_next (row_no (.head _) 0 8 _ (by decide) (h1 23 8 _ rfl) (by decide))
      (find_here (row_yes1 (h1 23 8 _ rfl)))) (fun h => no_some rfl h) (fun h => no_some rfl h) (fun h => no_some rfl h)).trans
      (congrArg (fun x => Except.ok (Instr.fsend x)) (FcollWForm_of (h 31 1 _ rfl) (h 16 7 _ rfl) (h 0 16 _ rfl))))
    (plain_of_major (h 25 6 _ rfl) (by decide)) (fun p hp => no_eq rfl hp) (fun h => no_some rfl h)

theorem fwin (f : FcollWForm) : Statement (.fwin f) := fun _ _ => by
  obtain ⟨w, e⟩ : ∃ w, w = 0x7B000000 + f.bits := ⟨_, rfl⟩
  have h := Layout.reads (w := w) [(16, f.o.toNat), (7, f.a.toNat), (2, 2), (6, 61), (1, f.c.toNat)]
    ⟨f.o.isLt, f.a.isLt, by decide, by decide, f.c.toNat_lt, trivial⟩ (by rw [e]; simp only [FcollWForm.bits, Layout.value]; omega)
  have h1 := Layout.reads (w := w) [(16, f.o.toNat), (7, f.a.toNat), (8, 246), (1, f.c.toNat)]
    ⟨f.o.isLt, f.a.isLt, by decide, f.c.toNat_lt, trivial⟩ (by rw [e]; simp only [FcollWForm.bits, Layout.value]; omega)
  exact decode_encode (by rw [e]; rfl)
    ((decodeBase_of (h 25 6 _ rfl) (r := ⟨[(23, 8, 246)], false, false, false, fun b w => .fwin (.ofWord b w)⟩)
      (find_next (row_no (.head _) 0 8 _ (by decide) (h1 23 8 _ rfl) (by decide))
      (find_next (row_no (.head _) 0 8 _ (by decide) (h1 23 8 _ rfl) (by decide))
      (find_here (row_yes1 (h1 23 8 _ rfl))))) (fun h => no_some rfl h) (fun h => no_some rfl h) (fun h => no_some rfl h)).trans
      (congrArg (fun x => Except.ok (Instr.fwin x)) (FcollWForm_of (h 31 1 _ rfl) (h 16 7 _ rfl) (h 0 16 _ rfl))))
    (plain_of_major (h 25 6 _ rfl) (by decide)) (fun p hp => no_eq rfl hp) (fun h => no_some rfl h)

theorem stamp (f : StampForm) : Statement (.stamp f) := fun _ _ => by
  obtain ⟨w, e⟩ : ∃ w, w = 0x7E000000 + f.bits := ⟨_, rfl⟩
  have h := Layout.reads (w := w) [(5, f.j.toNat), (5, f.i.toNat), (5, f.h.toNat), (10, f.e.toNat), (6, 63), (1, f.c.toNat)]
    ⟨f.j.isLt, f.i.isLt, f.h.isLt, f.e.isLt, by decide, f.c.toNat_lt, trivial⟩ (by rw [e]; simp only [StampForm.bits, Layout.value]; omega)
  exact decode_encode (by rw [e]; rfl)
    ((decodeBase_of (h 25 6 _ rfl) (r := ⟨[(25, 6, 63)], false, false, false, fun b w => .stamp (.ofWord b w)⟩)
      (find_here (row_yes1 (h 25 6 _ rfl))) (fun h => no_some rfl h) (fun h => no_some rfl h) (fun h => no_some rfl h)).trans
      (congrArg (fun x => Except.ok (Instr.stamp x)) (StampForm_of (h 31 1 _ rfl) (h 15 10 _ rfl) (h 10 5 _ rfl) (h 5 5 _ rfl) (h 0 5 _ rfl))))
    (plain_of_major (h 25 6 _ rfl) (by decide)) (fun p hp => no_eq rfl hp) (fun h => no_some rfl h)

theorem selectorDraw (tile : Nat) (part : Nat) : Statement (.selectorDraw tile part) := fun h _ => no_some rfl h

theorem dumpWrite (ctx : Nat) : Statement (.dumpWrite ctx) := fun h _ => no_some rfl h

theorem distributorExamine (ctx : Nat) (prio : Nat) : Statement (.distributorExamine ctx prio) := fun h _ => no_some rfl h

theorem placeCluster (quad : Nat) : Statement (.placeCluster quad) := fun h _ => no_some rfl h

theorem cellComplete (cell : Nat) : Statement (.cellComplete cell) := fun h _ => no_some rfl h

theorem stealRequest (cluster : Nat) : Statement (.stealRequest cluster) := fun h _ => no_some rfl h

theorem stealResponse (holder : Nat) (requester : Nat) : Statement (.stealResponse holder requester) := fun h _ => no_some rfl h

theorem stealRetry (cluster : Nat) : Statement (.stealRetry cluster) := fun h _ => no_some rfl h

theorem stealMeshSwitch (cluster : Nat) : Statement (.stealMeshSwitch cluster) := fun h _ => no_some rfl h

theorem loadDataArrival (tid : Nat) (entry : Nat) : Statement (.loadDataArrival tid entry) := fun h _ => no_some rfl h

theorem atomicPerform (tid : Nat) (entry : Nat) : Statement (.atomicPerform tid entry) := fun h _ => no_some rfl h

theorem atomReply (tid : Nat) (entry : Nat) : Statement (.atomReply tid entry) := fun h _ => no_some rfl h

theorem combineLineIdleDrain (tile : Nat) (line : Nat) : Statement (.combineLineIdleDrain tile line) := fun h _ => no_some rfl h

theorem raceCheckResult (tid : Nat) (entry : Nat) : Statement (.raceCheckResult tid entry) := fun h _ => no_some rfl h

theorem tagSweep (slot : Nat) : Statement (.tagSweep slot) := fun h _ => no_some rfl h

theorem faultRecordPost : Statement (.faultRecordPost) := fun h _ => no_some rfl h

theorem fltdoneWrite (v : BitVec 64) : Statement (.fltdoneWrite v) := fun h _ => no_some rfl h

theorem dieldComplete (tid : Nat) (entry : Nat) : Statement (.dieldComplete tid entry) := fun h _ => no_some rfl h

theorem ftabldComplete (tid : Nat) (entry : Nat) : Statement (.ftabldComplete tid entry) := fun h _ => no_some rfl h

theorem launchEnqueue (tid : Nat) (entry : Nat) : Statement (.launchEnqueue tid entry) := fun h _ => no_some rfl h

theorem casterCopy (op : Nat) : Statement (.casterCopy op) := fun h _ => no_some rfl h

theorem castBarrierArrival (op : Nat) : Statement (.castBarrierArrival op) := fun h _ => no_some rfl h

theorem castwPerform (op : Nat) : Statement (.castwPerform op) := fun h _ => no_some rfl h

theorem casttabPerform (op : Nat) : Statement (.casttabPerform op) := fun h _ => no_some rfl h

theorem mmaPerform (op : Nat) : Statement (.mmaPerform op) := fun h _ => no_some rfl h

theorem blockExpand (op : Nat) (block : Nat) : Statement (.blockExpand op block) := fun h _ => no_some rfl h

theorem acczPerform (op : Nat) : Statement (.acczPerform op) := fun h _ => no_some rfl h

theorem accldPerform (op : Nat) : Statement (.accldPerform op) := fun h _ => no_some rfl h

theorem accstPerform (op : Nat) : Statement (.accstPerform op) := fun h _ => no_some rfl h

theorem accstAddPerform (op : Nat) : Statement (.accstAddPerform op) := fun h _ => no_some rfl h

theorem accrdPerform (op : Nat) : Statement (.accrdPerform op) := fun h _ => no_some rfl h

theorem mseqPerform (op : Nat) : Statement (.mseqPerform op) := fun h _ => no_some rfl h

theorem tileReductionPerform (op : Nat) : Statement (.tileReductionPerform op) := fun h _ => no_some rfl h

theorem clampSumPerform (op : Nat) : Statement (.clampSumPerform op) := fun h _ => no_some rfl h

theorem adjbPerform (op : Nat) : Statement (.adjbPerform op) := fun h _ => no_some rfl h

theorem crSetReduction (op : Nat) : Statement (.crSetReduction op) := fun h _ => no_some rfl h

theorem traceWalk (op : Nat) : Statement (.traceWalk op) := fun h _ => no_some rfl h

theorem spectralFetch (op : Nat) : Statement (.spectralFetch op) := fun h _ => no_some rfl h

theorem rgbUpsampleFetch (op : Nat) : Statement (.rgbUpsampleFetch op) := fun h _ => no_some rfl h

theorem cmfProjectFetch (op : Nat) : Statement (.cmfProjectFetch op) := fun h _ => no_some rfl h

theorem filmAddPerform (op : Nat) : Statement (.filmAddPerform op) := fun h _ => no_some rfl h

theorem filmRdPerform (op : Nat) : Statement (.filmRdPerform op) := fun h _ => no_some rfl h

theorem rastPerform (op : Nat) : Statement (.rastPerform op) := fun h _ => no_some rfl h

theorem visrdPerform (op : Nat) : Statement (.visrdPerform op) := fun h _ => no_some rfl h

theorem qpushCommit (queue : Nat) (pos : Nat) : Statement (.qpushCommit queue pos) := fun h _ => no_some rfl h

theorem qpopReply (tid : Nat) (entry : Nat) : Statement (.qpopReply tid entry) := fun h _ => no_some rfl h

theorem queueFedPlace (launch : Nat) (stage : Nat) : Statement (.queueFedPlace launch stage) := fun h _ => no_some rfl h

theorem qageTimeout (launch : Nat) (stage : Nat) : Statement (.qageTimeout launch stage) := fun h _ => no_some rfl h

theorem stageClose (launch : Nat) (stage : Nat) : Statement (.stageClose launch stage) := fun h _ => no_some rfl h

theorem stageEpoch (launch : Nat) : Statement (.stageEpoch launch) := fun h _ => no_some rfl h

theorem riddleMove (tile : Nat) (ctx : Nat) (pc : Nat) (key : Nat) : Statement (.riddleMove tile ctx pc key) := fun h _ => no_some rfl h

theorem threadExport (tid : Nat) : Statement (.threadExport tid) := fun h _ => no_some rfl h

theorem threadArrival (tid : Nat) : Statement (.threadArrival tid) := fun h _ => no_some rfl h

theorem abarArrivalPerform (ctx : Nat) (cell : Nat) (index : Nat) (units : Nat) : Statement (.abarArrivalPerform ctx cell index units) := fun h _ => no_some rfl h

theorem ctxloadRestore (ctx : Nat) : Statement (.ctxloadRestore ctx) := fun h _ => no_some rfl h

theorem detachedReplyAfterSave (ctx : Nat) (tid : Nat) (entry : Nat) : Statement (.detachedReplyAfterSave ctx tid entry) := fun h _ => no_some rfl h

theorem remoteLoadRequest (src : Nat) (seq : Nat) (addr : Nat) (size : Nat) : Statement (.remoteLoadRequest src seq addr size) := fun h _ => no_some rfl h

theorem remoteWriteRequest (src : Nat) (seq : Nat) (addr : Nat) (data : WriteData) (release : Option Nat) : Statement (.remoteWriteRequest src seq addr data release) := fun h _ => no_some rfl h

theorem remoteAtomicRequest (src : Nat) (seq : Nat) (addr : Nat) (op : MemOp) (a b : BitVec 32) (release : Option Nat) : Statement (.remoteAtomicRequest src seq addr op a b release) := fun h _ => no_some rfl h

theorem vectorRequest (src : Nat) (seq : Nat) (page : Nat) (size : Nat) (op : MemOp) (lanes : List VecLane) : Statement (.vectorRequest src seq page size op lanes) := fun h _ => no_some rfl h

theorem fabricReleasePerform (src : Nat) (seq : Nat) : Statement (.fabricReleasePerform src seq) := fun h _ => no_some rfl h

theorem endToEndAck (seq : Nat) : Statement (.endToEndAck seq) := fun h _ => no_some rfl h

theorem negativeAck (seq : Nat) : Statement (.negativeAck seq) := fun h _ => no_some rfl h

theorem resendTimeout (seq : Nat) : Statement (.resendTimeout seq) := fun h _ => no_some rfl h

theorem fsendPerform (op : Nat) : Statement (.fsendPerform op) := fun h _ => no_some rfl h

theorem fsendLocalComplete (op : Nat) : Statement (.fsendLocalComplete op) := fun h _ => no_some rfl h

theorem fcollPushPerform (op : Nat) : Statement (.fcollPushPerform op) := fun h _ => no_some rfl h

theorem collectivePacketArrival (p : PacketArrival) : Statement (.collectivePacketArrival p) := fun h _ => no_some rfl h

theorem collectiveDelivery (tree : Nat) (chunk : Nat) : Statement (.collectiveDelivery tree chunk) := fun h _ => no_some rfl h

theorem contextKill (ctx : Nat) : Statement (.contextKill ctx) := fun h _ => no_some rfl h

theorem abortReceive (job : Nat) (origin : Nat) (port : Nat) : Statement (.abortReceive job origin port) := fun h _ => no_some rfl h

theorem hostWrite (endpoint : Nat) (addr : Nat) (bytes : List Byte) : Statement (.hostWrite endpoint addr bytes) := fun h _ => no_some rfl h

theorem hostRead (endpoint : Nat) (addr : Nat) (size : Nat) : Statement (.hostRead endpoint addr size) := fun h _ => no_some rfl h

theorem hostAtomic (endpoint : Nat) (addr : Nat) (size : Nat) (op : MemOp) (a b : BitVec 64) : Statement (.hostAtomic endpoint addr size op a b) := fun h _ => no_some rfl h

theorem otbaseWrite (ctx : Nat) (count : Bool) (v : BitVec 64) : Statement (.otbaseWrite ctx count v) := fun h _ => no_some rfl h

theorem nbvWrite (ctx : Nat) (v : BitVec 32) : Statement (.nbvWrite ctx v) := fun h _ => no_some rfl h

theorem utvecWrite (tid : Nat) (v : BitVec 32) : Statement (.utvecWrite tid v) := fun h _ => no_some rfl h

theorem fpctlWrite (tid : Nat) (v : BitVec 32) : Statement (.fpctlWrite tid v) := fun h _ => no_some rfl h

theorem dumpctlWrite (ctx : Nat) (v : BitVec 64) : Statement (.dumpctlWrite ctx v) := fun h _ => no_some rfl h

theorem refphaseWrite (tid : Nat) (v : BitVec 32) : Statement (.refphaseWrite tid v) := fun h _ => no_some rfl h

theorem refreshDuePoint (pch : Nat) (tid : Nat) : Statement (.refreshDuePoint pch tid) := fun h _ => no_some rfl h

theorem guardRefresh (pch : Nat) : Statement (.guardRefresh pch) := fun h _ => no_some rfl h

theorem refreshInterval (pch : Nat) : Statement (.refreshInterval pch) := fun h _ => no_some rfl h

theorem perBankRefresh (pch : Nat) : Statement (.perBankRefresh pch) := fun h _ => no_some rfl h

theorem reorderLimit (pch : Nat) : Statement (.reorderLimit pch) := fun h _ => no_some rfl h

theorem rowRepair (addr : Nat) : Statement (.rowRepair addr) := fun h _ => no_some rfl h

theorem timensRead : Statement (.timensRead) := fun h _ => no_some rfl h

theorem timeadjWrite (v : BitVec 32) : Statement (.timeadjWrite v) := fun h _ => no_some rfl h

theorem timestepWrite (v : BitVec 64) : Statement (.timestepWrite v) := fun h _ => no_some rfl h

theorem ppsEdge : Statement (.ppsEdge) := fun h _ => no_some rfl h

theorem trigsecWrite (n : Nat) (v : BitVec 64) : Statement (.trigsecWrite n v) := fun h _ => no_some rfl h

theorem triggerFire (n : Nat) : Statement (.triggerFire n) := fun h _ => no_some rfl h

theorem bypass (scan : CodeScan) : Statement (.bypass scan) := fun h _ => no_some rfl h

theorem samplePreload (scan : List Bool) : Statement (.samplePreload scan) := fun h _ => no_some rfl h

theorem extest (scan : List Bool) : Statement (.extest scan) := fun h _ => no_some rfl h

theorem idcode : Statement (.idcode) := fun h _ => no_some rfl h

theorem dbgaddr (v : BitVec 64) : Statement (.dbgaddr v) := fun h _ => no_some rfl h

theorem dbgdataCapture : Statement (.dbgdataCapture) := fun h _ => no_some rfl h

theorem dbgdataUpdate (v : BitVec 64) : Statement (.dbgdataUpdate v) := fun h _ => no_some rfl h

theorem dbgauthCapture : Statement (.dbgauthCapture) := fun h _ => no_some rfl h

theorem dbgauthUpdate (v : BitVec 544) : Statement (.dbgauthUpdate v) := fun h _ => no_some rfl h

theorem debugStopRequest (tile : Nat) (part : Nat) : Statement (.debugStopRequest tile part) := fun h _ => no_some rfl h

theorem debugRelease (tile : Nat) (part : Nat) : Statement (.debugRelease tile part) := fun h _ => no_some rfl h

theorem debugStep (tile : Nat) (part : Nat) : Statement (.debugStep tile part) := fun h _ => no_some rfl h

theorem thrdataWrite (tile : Nat) (part : Nat) (v : BitVec 128) : Statement (.thrdataWrite tile part v) := fun h _ => no_some rfl h

theorem laneCounterClear (tile : Nat) (part : Nat) : Statement (.laneCounterClear tile part) := fun h _ => no_some rfl h

theorem pcSample (tile : Nat) (part : Nat) : Statement (.pcSample tile part) := fun h _ => no_some rfl h

theorem powerGateEntry (tile : Nat) : Statement (.powerGateEntry tile) := fun h _ => no_some rfl h

theorem retainEntry (tile : Nat) : Statement (.retainEntry tile) := fun h _ => no_some rfl h

theorem powerWake (tile : Nat) : Statement (.powerWake tile) := fun h _ => no_some rfl h

theorem powerLimitWindow (tile : Nat) : Statement (.powerLimitWindow tile) := fun h _ => no_some rfl h

theorem deviceReset : Statement (.deviceReset) := fun h _ => no_some rfl h

theorem firmwareImageDoe (image : List Byte) : Statement (.firmwareImageDoe image) := fun h _ => no_some rfl h

theorem getVersion (endpoint : Nat) (request : List Byte) : Statement (.getVersion endpoint request) := fun h _ => no_some rfl h

theorem getCapabilities (endpoint : Nat) (request : List Byte) : Statement (.getCapabilities endpoint request) := fun h _ => no_some rfl h

theorem negotiateAlgorithms (endpoint : Nat) (request : List Byte) : Statement (.negotiateAlgorithms endpoint request) := fun h _ => no_some rfl h

theorem getDigests (endpoint : Nat) (request : List Byte) : Statement (.getDigests endpoint request) := fun h _ => no_some rfl h

theorem getCertificate (endpoint : Nat) (request : List Byte) : Statement (.getCertificate endpoint request) := fun h _ => no_some rfl h

theorem challenge (endpoint : Nat) (request : List Byte) : Statement (.challenge endpoint request) := fun h _ => no_some rfl h

theorem getMeasurements (endpoint : Nat) (request : List Byte) : Statement (.getMeasurements endpoint request) := fun h _ => no_some rfl h

theorem tileRetire (tile : Nat) (force : Bool) : Statement (.tileRetire tile force) := fun h _ => no_some rfl h

theorem linkRetrain (port : Nat) (lane : Nat) : Statement (.linkRetrain port lane) := fun h _ => no_some rfl h

theorem linkDown (port : Nat) : Statement (.linkDown port) := fun h _ => no_some rfl h

theorem linkDisable (port : Nat) (disable : Bool) : Statement (.linkDisable port disable) := fun h _ => no_some rfl h

theorem mmioRegisterWrite (offset : Nat) (size : Nat) (v : BitVec 64) : Statement (.mmioRegisterWrite offset size v) := fun h _ => no_some rfl h

theorem linkTrained (port : Nat) (spared : Bool) : Statement (.linkTrained port spared) := fun h _ => no_some rfl h

theorem flitCrcFailure (port : Nat) : Statement (.flitCrcFailure port) := fun h _ => no_some rfl h

theorem contextCreate (ctx : Nat) (setup : ContextSetup) : Statement (.contextCreate ctx setup) := fun h _ => no_some rfl h

end Sys2Proof.Laws.RoundTrip
end

