-- ==== Sys2Proof/Safety.lean ====
section
/-! DEFINITION. The terms in which the statements speak: an instruction that issues, the lanes it is clear to compute in, and what
a computing word, a control word, an access or an engine word leaves when nothing stops it. -/
namespace Sys2Proof.Machine

/-! ## An instruction that issues -/

/-- The group that issues holds instruction i with no trap at decode, each of its threads in one slot (R61, R82). -/
def Issues (s : State) (iss : Issue) (i : Instr) : Prop :=
  s.issue = some iss ∧ s.decodeTraps iss i 0 = none ∧ (iss.slots.map Prod.snd).Nodup

/-- A group of one thread, active under the instruction's guard, whose sources hold no empty or uninitialised register that the
instruction would trap on (R50, R70, R120). -/
def Solo (s : State) (iss : Issue) (i : Instr) (l : Lane) : Prop :=
  s.issue = some iss ∧ s.decodeTraps iss i 0 = none ∧ iss.lanes s i 0 = [(l, true)] ∧ s.thread? l.tid = some l.th ∧
    emptyCause (staticSources i) l.cap = none ∧ uninitCause (staticSources i) l.cap = none

/-- A thread of a group that takes no part: its record after the instruction is the one before. -/
def Untouched (s u : State) (tid : Nat) : Prop := u.thread? tid = s.thread? tid

/-! ## Computing words -/

/-- No thread in which the instruction is active meets a condition: EMPTY, UNINIT, its own trap, or an enabled exception
(R50, R70, R120, R121). -/
def Clear (s : State) (iss : Issue) (i : Instr) (g : Lane → LaneOut) : Prop :=
  ∀ x ∈ iss.lanes s i 0, x.2 = true →
    emptyCause (x.1.th.sourcesOf (s.privileged iss.ctx) 0 i) x.1.cap = none ∧
    uninitCause (x.1.th.sourcesOf (s.privileged iss.ctx) 0 i) x.1.cap = none ∧
    (g x.1).trap = none ∧ condCause x.1.th.fpctl (g x.1).conds = none

/-- A thread after a computing word: active, its destination holds the result and FPCTL the raised flags; inactive, the
destination is zero under mz and kept without it (R70, R114). -/
def Thread.computed (t : Thread) (i : Instr) (active : Bool) (o : LaneOut) : Thread :=
  let d := destOf 0 i
  if active then { t.writeDest d o.words o.st with fpctl := orFlags t.fpctl o.conds }
  else if (prefixOf i).mz then t.writeDest d (List.replicate (if d.cls = 1 then 4 * d.count else d.count) 0) .full
  else t

/-- The instruction answers a next state in which every thread of its group is as `computed` says with the outcome g, and nothing
else has changed but the running number of issues. -/
def Computes (i : Instr) (g : State → Lane → LaneOut) : Prop :=
  ∀ s iss, Issues s iss i → Clear s iss i (g s) →
    ∃ u, exec i s = .next u ∧ u = { s with threads := u.threads, nextId := s.nextId + 1 } ∧
      (∀ tid, (∀ x ∈ iss.slots, x.2 ≠ tid) → Untouched s u tid) ∧
      ∀ x ∈ iss.lanes s i 0, ∀ t, s.thread? x.1.tid = some t →
        u.thread? x.1.tid = some (t.computed i x.2 (g s x.1))

/-! ### The results of integer words, as bit vectors (R85 to R90) -/

/-- The operands of a lane as 32-bit words. -/
def Lane.x (l : Lane) : Word := BitVec.ofNat 32 l.a
def Lane.y (l : Lane) : Word := BitVec.ofNat 32 l.b
def Lane.z (l : Lane) : Word := BitVec.ofNat 32 l.c

/-- The operands of a lane as 64-bit pairs. -/
def Lane.xx (l : Lane) : DWord := BitVec.ofNat 64 (Opnd.dword l.cap.a)
def Lane.yy (l : Lane) : DWord := BitVec.ofNat 64 (Opnd.dword l.cap.b)

/-- One 32-bit result, full. -/
def LaneOut.word (r : Word) : LaneOut := { words := [r] }

/-- One 64-bit result in a pair, the even register the low half. -/
def LaneOut.dword (r : DWord) : LaneOut := { words := [r.setWidth 32, (r >>> 32).setWidth 32] }

/-- An operation on the whole word, on two halves under .I2, or on four bytes under .I4, each lane on its own (R85). -/
def perElement (et : Nat) (f : (w : Nat) → BitVec w → BitVec w → BitVec w) (x y : Word) : Word :=
  if et = 4 then f 16 (x.extractLsb' 16 16) (y.extractLsb' 16 16) ++ f 16 (x.extractLsb' 0 16) (y.extractLsb' 0 16)
  else if et = 5 then
    f 8 (x.extractLsb' 24 8) (y.extractLsb' 24 8) ++ f 8 (x.extractLsb' 16 8) (y.extractLsb' 16 8) ++
      f 8 (x.extractLsb' 8 8) (y.extractLsb' 8 8) ++ f 8 (x.extractLsb' 0 8) (y.extractLsb' 0 8)
  else f 32 x y

/-- Whether a is less than b, signed, or unsigned under .U (R85). -/
def isLess (u : Bool) {w : Nat} (x y : BitVec w) : Bool := if u then x.ult y else x.slt y

/-- Bits 63:32 of the signed product, of the unsigned one under .U (R85). -/
def highProduct (u : Bool) (x y : Word) : Word :=
  if u then (x.zeroExtend 64 * y.zeroExtend 64).extractLsb' 32 32 else (x.signExtend 64 * y.signExtend 64).extractLsb' 32 32

/-- |a - b|, the difference exact (R85). -/
def distance (u : Bool) (x y : Word) : Nat :=
  if u then ((x.toNat : Int) - y.toNat).natAbs else (x.toInt - y.toInt).natAbs

/-- The sum of the four byte distances of ISAD.I4 (R85). -/
def byteDistances (x y : Word) : Nat :=
  ((List.range 4).map fun k => (((x.extractLsb' (8 * k) 8).toNat : Int) - (y.extractLsb' (8 * k) 8).toNat).natAbs).sum

/-- IBFX: the field at y[4:0] of width y[10:5], clipped at bit 31 (R85). -/
def fieldOf (x y : Word) : Word :=
  let p := (y.extractLsb' 0 5).toNat
  let w := min (y.extractLsb' 5 6).toNat (32 - p)
  (x >>> p) &&& BitVec.ofNat 32 (2 ^ w - 1)

/-- IDIV and IREM (R86). -/
def quotient (u : Bool) (x y : Word) : Word := if y = 0 then -1 else if u then x / y else x.sdiv y
def remainder (u : Bool) (x y : Word) : Word := if y = 0 then x else if u then x % y else x.srem y

/-- The conditions of the integer compares by their codes (R81, R89). -/
def holds (u : Bool) (cond : Nat) (x y : Word) : Bool :=
  match cond with
  | 0 => x == y
  | 1 => x != y
  | 2 => isLess u x y
  | 3 => !isLess u y x
  | 4 => isLess u y x
  | _ => !isLess u x y

/-! ## Control words -/

/-- What a control word does in a thread is no trap. -/
def Steer.goes : Steer → Bool
  | .trap .. => false
  | _ => true

/-- The thread that a control word leaves. -/
def Steer.after (t : Thread) : Steer → Thread
  | .trap .. => t
  | .on t' => t'
  | .leave t' _ => t'

/-- Where a control word sends a thread after the chain: nowhere of its own unless it leaves. -/
def Steer.target (old : Option Leaving) : Steer → Option Leaving
  | .leave _ w => some w
  | _ => old

/-- The instruction answers a next state in which every thread of its group is as f says and leaves for where f says, and nothing
else has changed but the running number of issues. -/
def Steers (i : Instr) (f : State → Issue → Lane → Thread → Steer) : Prop :=
  ∀ s iss, Issues s iss i →
    (∀ x ∈ iss.lanes s i 0, emptyCause (staticSources i) x.1.cap = none ∧
      ∃ t, s.thread? x.1.tid = some t ∧ (f s iss x.1 t).goes = true) →
    ∃ u v, exec i s = .next u ∧ u = { s with threads := u.threads, issue := some v, nextId := s.nextId + 1 } ∧
      v = { iss with leaving := v.leaving } ∧
      (∀ tid, (∀ x ∈ iss.slots, x.2 ≠ tid) → Untouched s u tid ∧ Map.get? v.leaving tid = Map.get? iss.leaving tid) ∧
      ∀ x ∈ iss.lanes s i 0, ∀ t, s.thread? x.1.tid = some t →
        u.thread? x.1.tid = some ((f s iss x.1 t).after t) ∧
        Map.get? v.leaving x.1.tid = (f s iss x.1 t).target (Map.get? iss.leaving x.1.tid)

/-! ## Words of a group of one thread -/

/-- The state after a word whose work in its one thread ended in s': the entries of the issue name its slot, and the issue goes on
with the numbers used up. -/
def State.settled (s' : State) (no : Nat) : State :=
  let s' := s'.shareLanes no
  { s' with nextId := s'.nextId + 1 }

/-- The state in which a word of an issue works: the number of the issue taken. -/
def State.issuing (s : State) : State := { s with nextId := s.nextId + 1 }

/-- What a word whose work ended in u leaves, the issue going on with what it had raised before and no more. -/
def State.goesOn (u : State) (iss : Issue) (no : Nat) : State :=
  { u.settled no with issue := some { u.issue.getD iss with raised := iss.raised } }

/-- The instruction answers a next state as its work w leaves it, wherever its work in the thread finds nothing to stop for. -/
def Acts (i : Instr) (w : Issue → Nat → Lane → Work Unit) : Prop :=
  ∀ s iss l u, Solo s iss i l → w iss s.nextId l s.issuing = .ok ((), u) → exec i s = .next (u.goesOn iss s.nextId)

/-! ## Conditions of a group of one thread -/

/-- A group of one thread in which the instruction is active, with nothing raised before in its chain (R61, R70). -/
def Alone (s : State) (iss : Issue) (i : Instr) (l : Lane) : Prop :=
  s.issue = some iss ∧ s.decodeTraps iss i 0 = none ∧ iss.raised = none ∧ iss.lanes s i 0 = [(l, true)] ∧ s.thread? l.tid = some l.th

/-- What a condition raised in a group of one thread leaves to be delivered: ILLEG is a decode trap, after which nothing of the chain
issues, and names no destination (R61, R121, R141). -/
def Issue.raisedBy (iss : Issue) (i : Instr) (l : Lane) (c : Cause) (info : BitVec 64) : Issue :=
  { iss with
    raised := some { cause := c, pc := iss.cur.pc, stamp := iss.cur.stamp, mask := slotBit l.slot
                     dst := if c = .illeg then {} else destOf 0 i, infos := [(l.slot, info)], decode := c == .illeg }
    todo := if c = .illeg then [] else iss.todo }

/-- The instruction answers a next state in which the condition c stands raised with its TFINFO, the destination is trap-empty, the
flags of conds are set, and nothing else has changed but the running number of issues; under ILLEG no thread has changed (R61, R121,
R144). -/
def Trapped (s : State) (iss : Issue) (i : Instr) (l : Lane) (c : Cause) (info : BitVec 64) (conds : Conds) : Prop :=
  ∃ u, exec i s = .next u ∧
    u = { s with threads := u.threads, issue := some (iss.raisedBy i l c info), nextId := if c = .illeg then s.nextId else s.nextId + 1 } ∧
    u.thread? l.tid = some (if c = .illeg then l.th
      else { l.th.markDest (destOf 0 i) .trapEmpty with fpctl := orFlags l.th.fpctl conds }) ∧
    ∀ tid, tid ≠ l.tid → Untouched s u tid

/-- The conditions of a computing word, in the order of R122: EMPTY, UNINIT, then an enabled exception. -/
def Conditions (i : Instr) (g : State → Lane → LaneOut) : Prop :=
  ∀ s iss l, Alone s iss i l →
    let srcs := l.th.sourcesOf (s.privileged iss.ctx) 0 i
    (∀ info, emptyCause srcs l.cap = some info → Trapped s iss i l .empty info {}) ∧
    (∀ info, emptyCause srcs l.cap = none → uninitCause srcs l.cap = some info → Trapped s iss i l .uninit info {}) ∧
    ∀ c, emptyCause srcs l.cap = none → uninitCause srcs l.cap = none → (g s l).trap = none →
      condCause l.th.fpctl (g s l).conds = some c →
      Trapped s iss i l c (BitVec.ofNat 64 (g s l).conds.bits) (g s l).conds

/-- A control word whose effect f is a trap raises it, and its thread does not move. -/
def SteerTraps (i : Instr) (f : State → Issue → Lane → Thread → Steer) : Prop :=
  ∀ s iss l c info, Alone s iss i l → emptyCause (staticSources i) l.cap = none → f s iss l l.th = .trap c info →
    Trapped s iss i l c (BitVec.ofNat 64 info) {}

/-- From a state, the instruction answers a next state in which the cause stands raised with its TFINFO and the destination of its thread
is trap-empty; nothing of its work has happened, and under ILLEG nothing at all (R61). -/
def StoppedFrom (s0 s : State) (iss : Issue) (i : Instr) (l : Lane) (c : Cause) (info : Nat) : Prop :=
  ∃ u, exec i s = .next u ∧
    u = { s0 with threads := u.threads, issue := some (iss.raisedBy i l c (BitVec.ofNat 64 info))
                  nextId := if c = .illeg then s0.nextId else s0.nextId + 2 } ∧
    (c = .illeg → u.threads = s0.threads) ∧
    (c ≠ .illeg → ∀ tid t, (s0.shareLanes s0.nextId).thread? tid = some t →
      u.thread? tid = some (if tid = l.tid then t.markDest (destOf 0 i) .trapEmpty else t))

/-- The same, with the state the instruction finds. -/
def Stopped (s : State) (iss : Issue) (i : Instr) (l : Lane) (c : Cause) (info : Nat) : Prop := StoppedFrom s s iss i l c info

/-- A word whose work finds a trap raises it, and nothing of its work has happened. -/
def WorkTraps (i : Instr) (w : Issue → Nat → Lane → Work Unit) : Prop :=
  ∀ s iss l c info, Alone s iss i l → emptyCause (staticSources i) l.cap = none → uninitCause (staticSources i) l.cap = none →
    w iss s.nextId l s.issuing = .error (.trap c info) → c ≠ .mmx → Stopped s iss i l c info

/-! ## Effects of a word in a group of one thread -/

/-- Wherever P holds of the state and the lane, the instruction answers a next state: the effect e on the state, with two running
numbers used up. -/
def Does (i : Instr) (P : State → Lane → Prop) (e : State → Issue → Lane → State → State) : Prop :=
  ∀ s iss l, Solo s iss i l → P s l → exec i s = .next ((e s iss l s.issuing).settled s.nextId)

/-- Wherever P holds, the instruction raises the cause with its TFINFO and does nothing else. -/
def Raises (i : Instr) (P : State → Lane → Prop) (c : Cause) (info : State → Lane → Nat) : Prop :=
  ∀ s iss l, Alone s iss i l → emptyCause (staticSources i) l.cap = none → uninitCause (staticSources i) l.cap = none → P s l →
    Stopped s iss i l c (info s l)

/-! ## Accesses of a group of one thread -/

/-- An access that passes its checks, which say where it leads, in the state that its checks leave: the instruction answers what e makes of
that state (R61, R101, R329). -/
def Accesses (i : Instr) (e : Issue → Nat → Lane → Reached → State → State) : Prop :=
  ∀ s iss l x r s1, Solo s iss i l → accessOf i l.cap = some x → s.check l.th x = (.ok r, s1) → s1.issue = s.issue →
    exec i s = .next (e iss (s1.nextId + 1) l r { s1 with nextId := s1.nextId + 1 + 1 })

/-- An access that fails its checks raises their cause, with nothing performed (R61, R101, R321, R329). -/
def AccessTraps (i : Instr) : Prop :=
  ∀ s iss l x c info s1, Alone s iss i l → emptyCause (staticSources i) l.cap = none → accessOf i l.cap = some x →
    s.check l.th x = (.trapped c info, s1) → s1.issue = s.issue → c ≠ .mmx →
    ∃ u, exec i s = .next u ∧ u = { s1 with threads := u.threads, issue := some (iss.raisedBy i l c (BitVec.ofNat 64 info))
                                            nextId := if c = .illeg then s1.nextId + 1 else s1.nextId + 1 + 1 } ∧
      (c ≠ .illeg → ∀ tid t, s1.thread? tid = some t → u.thread? tid = some (if tid = l.tid then t.markDest (destOf 0 i) .trapEmpty else t))

/-- An entry's access may leave its partition, for the address pa, in the state that finding it leaves: HELD and checked, not kept by a
frozen queue, with nothing that it must follow (R148, R340). -/
def State.MayLeave (s : State) (tid : Nat) (t : Thread) (e : Entry) (x : Access) (pa : Nat) (s1 : State) : Prop :=
  s.thread? tid = some t ∧ e.state = .held ∧ e.unperformed = false ∧ e.checked = true ∧ t.stops e = false ∧
    (∀ o ∈ e.after, s.unfinished t o = false) ∧ accessOf e.instr e.cap = some x ∧
    (∃ raw nrd, s.reach t x.off x.size x.kind = (.ok raw nrd, s1) ∧ pa = s1.localPa raw) ∧
    s1.behindEngine t tid e x pa = false ∧ t.behindAtomic e x = false

/-! ## Words of the Anvil in a group of one thread -/

/-- While another context holds the Anvil state of the thread's home tile the thread waits at the word; otherwise the state is its
context's and the word answers as its work w leaves it (R250). -/
def ActsOnAnvil (i : Instr) (w : Issue → Nat → Lane → Work Unit) : Prop :=
  ∀ s iss l, Solo s iss i l →
    let s0 := s.claimAnvil (s.homeTile l.th) iss.ctx
    (s0.anvilTaken l.th = true → exec i s = .next ((s0.issuing.leaveAs l.tid (.again .anvil)).goesOn iss s.nextId)) ∧
    (s0.anvilTaken l.th = false → ∀ u, w iss s.nextId l s0.issuing = .ok ((), u) → exec i s = .next (u.goesOn iss s.nextId))

/-- A word of the Anvil whose work finds a trap raises it; its claim of the Anvil state stands (R250). -/
def TrapsOnAnvil (i : Instr) (w : Issue → Nat → Lane → Work Unit) : Prop :=
  ∀ s iss l c info, Alone s iss i l → emptyCause (staticSources i) l.cap = none → uninitCause (staticSources i) l.cap = none →
    let s0 := s.claimAnvil (s.homeTile l.th) iss.ctx
    s0.anvilTaken l.th = false → w iss s.nextId l s0.issuing = .error (.trap c info) → c ≠ .mmx →
    StoppedFrom s0 s iss i l c info

/-! ## Where an engine word completes (R238, R250, R256) -/

/-- The checks of an object-table entry for a word of the lane pass: the index gives object o, of one of the kinds and with the rights, and
the lookup leaves the state u, in which the entry may be cached (R234, R238, R239). -/
def Checks (s : State) (l : Lane) (idx : Nat) (kinds : List ObjKind) (rights : Nat) (o : Obj) (u : State) : Prop :=
  checkEntry l.th.tile l.th.ctx idx kinds rights s = .ok (o, u)

/-- n bytes of an object from an offset: within the entry's length where it has one, and a CELL object's within the slice of the lane's
cell (R237, R238). -/
def Fits (s : State) (l : Lane) (o : Obj) (off n : Nat) : Prop :=
  (Obj.isKind o .buffer = true ∨ Obj.isKind o .dieset = true → off + n ≤ Obj.field o 0x10 8) ∧
    (Obj.scope o = 1 → Obj.base o + off + n ≤ s.sliceLen l.th.cell)

/-- From the state v that its checks leave, the word enters queue q with its objects, operands and byte count, and the issue goes on. -/
def Enters (s : State) (iss : Issue) (i : Instr) (l : Lane) (v : State) (q : Nat) (objs : List Obj) (args : List Word) (bytes : Nat) :
    Prop :=
  ∃ id u, submit iss i l s.nextId q objs args bytes v = .ok (id, u) ∧ exec i s = .next (u.goesOn iss s.nextId)

/-- From the state v that its checks leave, the word enters aq as a signature of its convergence register (R256). -/
def Signs (s : State) (iss : Issue) (i : Instr) (l : Lane) (v : State) (objs : List Obj) (args : List Word) : Prop :=
  ∃ id u, submit iss i l s.nextId 4 objs args 0 v = .ok (id, u) ∧ exec i s = .next ((u.joinSet l.tid id i).goesOn iss s.nextId)

/-- The convergence register that a word names has a count, and the operation that the thread would sign next has, where it has a
signature yet, one of the same form (R256). -/
def MaySign (s : State) (l : Lane) (i : Instr) : Prop :=
  (s.cvOf l.th (cvName i)).count ≠ 0 ∧
    ∀ o, ((s.cvOf l.th (cvName i)).opens.find? fun o => o.k == l.th.signedOn (cvName i)) = some o → signForm o.instr = signForm i

/-- The Anvil state of the thread's home tile is its context's, or free and then claimed: the state in which a word of the Anvil
works (R250). -/
def Claimed (s : State) (iss : Issue) (l : Lane) (v : State) : Prop :=
  (s.claimAnvil (s.homeTile l.th) iss.ctx).anvilTaken l.th = false ∧ v = (s.claimAnvil (s.homeTile l.th) iss.ctx).issuing

/-- A word that leaves a value in a register of its thread, and nothing else. -/
def Answers (i : Instr) (P : State → Lane → Prop) (d : Dest) (ws : State → Lane → List Word) : Prop :=
  ∀ s iss l, Solo s iss i l → P s l → ∃ u, exec i s = .next u ∧ u = { s with threads := u.threads, nextId := s.nextId + 1 } ∧
    u.thread? l.tid = some (l.th.writeDest d (ws s l) .full) ∧ ∀ tid, tid ≠ l.tid → Untouched s u tid

/-! ## Operations that perform -/

/-- Operation id is in its queue and may perform: its entry has left, and what it must follow has performed (R244, R245). -/
def Due (s : State) (id : Nat) (op : Op) : Prop := Map.get? s.ops id = some op ∧ s.opReady id op = true

/-- The event does nothing to an operation that is not there or may not perform. -/
def Waits (ev : Nat → Instr) : Prop :=
  ∀ (s : State) id, (∀ op, Map.get? s.ops id = some op → s.opReady id op = false) → exec (ev id) s = .next s

/-- n bytes of an object from an offset are in reach of an operation: each page of them is held translated, or lies in its cell's slice,
in memory of this package that has no uncorrectable error (R246, R315, R319). -/
def Op.Served (op : Op) (s : State) (kind : AccKind) (o : Obj) (off n : Nat) : Prop :=
  s.ecc = [] ∧ ∀ p ∈ pageParts (Obj.base o + off) n,
    ∃ pa, op.reach o (off + p.1) kind s = .ok (pa, s) ∧ (regionOf pa = .hbm ∨ regionOf pa = .slice)

/-- Every element that an object enumerates is in reach of an operation, in the order a copy takes them. -/
def Op.ServedWhole (op : Op) (s : State) (kind : AccKind) (o : Obj) (transposed : Bool) (n : Nat) : Prop :=
  ∀ k < n, op.Served s kind o (Obj.elemBit o transposed k / 8) ((Obj.bits o + 7) / 8)

/-- Elements of a TILE's rows and columns are in reach of an operation. -/
def Op.ServedTile (op : Op) (s : State) (kind : AccKind) (o : Obj) (rows cols : Nat) : Prop :=
  ∀ r < rows, ∀ c < cols, op.Served s kind o (tileBit (Obj.bits o) (Obj.cols o) r c / 8) ((Obj.bits o + 7) / 8)

/-- The first n elements of an object are in reach of an operation that writes them; of 4-bit elements it reads the other half of each
byte (R222). -/
def Op.Stores (op : Op) (s : State) (o : Obj) (n : Nat) : Prop :=
  op.ServedWhole s .write o false n ∧ (Obj.bits o = 4 → op.ServedWhole s .read o false n)

/-- The first n elements of a witness are in reach of an operation that writes them. -/
def Op.Witnesses (op : Op) (s : State) (o : Obj) (n : Nat) : Prop :=
  ∀ e < n, op.Served s .write o (e * Obj.witBits o / 8) ((Obj.witBits o + 7) / 8) ∧
    op.Served s .read o (e * Obj.witBits o / 8) ((Obj.witBits o + 7) / 8)

/-- At an operation that may perform the event does the work w: all of it where the operation's objects are in reach, as ok says; a page
fault parks it with nothing done, an uncorrectable error ends it and halts its context, and so does a fatal fault, what it has written
up to there staying written (R246, R315). -/
def Performs (ev : Nat → Instr) (ok : Prop) (w : Work Unit) (s : State) (id : Nat) (op : Op) : Prop :=
  (ok → ∃ s', w s = .ok ((), s') ∧ exec (ev id) s = .next s') ∧
  (∀ s', w s = .ok ((), s') → exec (ev id) s = .next s') ∧
  (∀ f, w s = .error (.parked f) → exec (ev id) s = .next { s with ops := Map.set s.ops id { op with fault := some f } }) ∧
  (∀ pa, w s = .error (.ecc pa) → exec (ev id) s = .next ((s.eccStop op.tid pa).endOp id op)) ∧
  ∀ v, w s = .error (.fatal v) → exec (ev id) s = .next ((v.fatal op.ctx
    { cause := .pgfatal, tfpc := 0, tfinfo := 0, tfmask := 0, tfdst := 0, wid := 0, tile := op.tile, part := 0, untrapped := true }).endOp
      id op)

/-- Every operation that may perform and that P describes performs so. -/
def PerformsAs (ev : Nat → Instr) (P : Op → Prop) (ok : State → Op → Prop) (w : Nat → Op → Work Unit) : Prop :=
  ∀ (s : State) id op, Due s id op → P op → Performs ev (ok s op) (w id op) s id op

/-! ## Steps -/

/-- Nothing is in progress: no chain, no write's or clock's consequence, no event, no entry of a released pin. -/
def State.Idle (s : State) : Prop := s.issue = none ∧ s.deferred = [] ∧ s.agenda = [] ∧ s.reinject = []

/-- The partition with what has issued on its way to its unit. -/
def State.dispatched (s : State) (tile part : Nat) : State :=
  (s.threads.filter fun x => x.2.tile == tile && x.2.part == part && s.runs x.2.ctx).foldl (fun s x => s.dispatchThread x.1) s

/-- A running partition with no held chain draws the threads x and xs (R50, R51, R399). -/
def State.Draws (s : State) (tile part : Nat) (x : Nat × Thread) (xs : List (Nat × Thread)) : Prop :=
  s.isStopped tile part = false ∧ (s.tile tile).power = .run ∧ (s.block tile part).held = none ∧
    ∃ c, s.chosenSource tile part = some c ∧ c.drawn = x :: xs

/-- An instruction that nothing keeps from issuing: no breakpoint, trap at decode, wait or watchpoint, and it is no BKPT (R50, R61,
R402 to R404). -/
def State.Unhindered (s : State) (iss : Issue) (i : Instr) (again : Bool) : Prop :=
  let iss : Issue := { iss with rpc := (iss.first + lengthOf i) % 2 ^ 24 }
  let group := iss.slots.filterMap fun x => (s.thread? x.2).map fun t => (x.2, t)
  let fresh := if again then [] else group.filter fun x => !(s.block iss.tile iss.part).skip.contains (x.1, x.2.pc)
  (∀ f, i ≠ .bkpt f) ∧ s.breakpointHit iss.tile iss.part [iss.first] (fresh.map Prod.snd) = none ∧
    s.chainTrap iss [{ pc := iss.first, word := some i, instr := some i }] = none ∧ s.groupWaits group [i] = [] ∧
    s.watchHit iss.tile iss.part fresh [i] = none

end Sys2Proof.Machine
end

