-- ==== Sys2Proof/Certificates/Slice0/Obligations.lean ====
section
/-! DEFINITION. The statements about the model that provers are asked to settle. -/

open Sys2Proof Sys2Proof.Machine

/-! ## Integer words -/

/-- R85: the sum, difference and products, by elements where the override says so; each word completes wherever no condition stops
it, writes its destination full, and changes nothing else. -/
def Obligations.IntegerSumsAndProducts : Prop :=
  (∀ f, Computes (.iadd f) fun _ l => .word (perElement l.et (fun _ a b => a + b) l.x l.y)) ∧
  (∀ f, Computes (.isub f) fun _ l => .word (perElement l.et (fun _ a b => a - b) l.x l.y)) ∧
  (∀ f, Computes (.imul f) fun _ l => .word (l.x * l.y)) ∧
  (∀ f, Computes (.imulh f) fun _ l => .word (highProduct l.unsigned l.x l.y)) ∧
  (∀ f, Computes (.imad f) fun _ l => .word (l.x * l.y + l.z)) ∧
  (∀ f, Computes (.imadh f) fun _ l => .word (highProduct l.unsigned l.x l.y + l.z)) ∧
  (∀ f, Computes (.isad f) fun _ l => .word (BitVec.ofNat 32
    (if l.et = 5 then byteDistances l.x l.y else distance l.unsigned l.x l.y) + l.z))

/-- R85: the lesser and the greater, absolute value, negation and the bitwise words. R85: shifts, rotation, bit counts, bit reversal and
field extraction. -/
def Obligations.IntegerSelectsShiftsAndBits : Prop :=
  ((∀ f, Computes (.imin f) fun _ l => .word (perElement l.et (fun _ a b => if isLess l.unsigned a b then a else b) l.x l.y)) ∧
   (∀ f, Computes (.imax f) fun _ l => .word (perElement l.et (fun _ a b => if isLess l.unsigned a b then b else a) l.x l.y)) ∧
   (∀ f, Computes (.iabs f) fun _ l => .word l.x.abs) ∧
   (∀ f, Computes (.ineg f) fun _ l => .word (-l.x)) ∧
   (∀ f, Computes (.iand f) fun _ l => .word (l.x &&& l.y)) ∧
   (∀ f, Computes (.ior f) fun _ l => .word (l.x ||| l.y)) ∧
   (∀ f, Computes (.ixor f) fun _ l => .word (l.x ^^^ l.y)) ∧
   (∀ f, Computes (.iandn f) fun _ l => .word (l.x &&& ~~~l.y))) ∧
  ((∀ f, Computes (.ishl f) fun _ l => .word (l.x <<< (l.y.extractLsb' 0 8).toNat)) ∧
   (∀ f, Computes (.ishr f) fun _ l => .word (l.x >>> (l.y.extractLsb' 0 8).toNat)) ∧
   (∀ f, Computes (.isar f) fun _ l => .word (l.x.sshiftRight (min (l.y.extractLsb' 0 8).toNat 31))) ∧
   (∀ f, Computes (.irol f) fun _ l => .word (l.x.rotateLeft (l.y.extractLsb' 0 5).toNat)) ∧
   (∀ f, Computes (.ipopc f) fun _ l => .word l.x.cpop) ∧
   (∀ f, Computes (.iclz f) fun _ l => .word l.x.clz) ∧
   (∀ f, Computes (.ictz f) fun _ l => .word l.x.ctz) ∧
   (∀ f, Computes (.ibrev f) fun _ l => .word l.x.reverse) ∧
   (∀ f, Computes (.ibfx f) fun _ l => .word (fieldOf l.x l.y)))

/-- R86: quotient and remainder, with the corners of a zero divisor and of the most negative dividend; MOV carries the bits and the
uninitialised state (R83). R87, R88: the immediate forms and the 64-bit pairs. -/
def Obligations.DivisionMovesAndPairs : Prop :=
  ((∀ f, Computes (.idiv f) fun _ l => .word (quotient l.unsigned l.x l.y)) ∧
   (∀ f, Computes (.irem f) fun _ l => .word (remainder l.unsigned l.x l.y)) ∧
   (∀ f, Computes (.mov f) fun _ l => { words := [l.x], st := if Opnd.uninit l.cap.a then .uninit else .full })) ∧
  ((∀ f, Computes (.iaddi f) fun _ l => .word (l.x + f.i.signExtend 32)) ∧
   (∀ f, Computes (.imuli f) fun _ l => .word (l.x * f.i.signExtend 32)) ∧
   (∀ f, Computes (.iandi f) fun _ l => .word (l.x &&& f.i.setWidth 32)) ∧
   (∀ f, Computes (.iori f) fun _ l => .word (l.x ||| f.i.setWidth 32)) ∧
   (∀ f, Computes (.ixori f) fun _ l => .word (l.x ^^^ f.i.setWidth 32)) ∧
   (∀ f, Computes (.ishli f) fun _ l => .word (l.x <<< f.n.toNat)) ∧
   (∀ f, Computes (.ishri f) fun _ l => .word (l.x >>> f.n.toNat)) ∧
   (∀ f, Computes (.isari f) fun _ l => .word (l.x.sshiftRight f.n.toNat)) ∧
   (∀ f, Computes (.iroli f) fun _ l => .word (l.x.rotateLeft f.n.toNat)) ∧
   (∀ f, Computes (.iadd64 f) fun _ l => .dword (l.xx + l.yy)) ∧
   (∀ f, Computes (.isub64 f) fun _ l => .dword (l.xx - l.yy)) ∧
   (∀ f, Computes (.ishl64 f) fun _ l => .dword (l.xx <<< (l.y.extractLsb' 0 8).toNat)) ∧
   (∀ f, Computes (.ishr64 f) fun _ l => .dword (l.xx >>> (l.y.extractLsb' 0 8).toNat)))

/-- R89, R90: the integer compares, the predicate words, the select and the moves between v and k registers. -/
def Obligations.ComparesAndPredicates : Prop :=
  (∀ f, Computes (.icmp f) fun _ l => .pred (holds l.unsigned f.n.toNat l.x l.y)) ∧
  (∀ f, Computes (.icmpi f) fun _ l => .pred (holds l.unsigned f.n.toNat l.x (f.i.signExtend 32))) ∧
  (∀ f, Computes (.pand f) fun _ l => .pred (l.x != 0 && l.y != 0)) ∧
  (∀ f, Computes (.por f) fun _ l => .pred (l.x != 0 || l.y != 0)) ∧
  (∀ f, Computes (.pxor f) fun _ l => .pred ((l.x != 0) != (l.y != 0))) ∧
  (∀ f, Computes (.pandn f) fun _ l => .pred (l.x != 0 && l.y == 0)) ∧
  (∀ f, Computes (.sel f) fun _ l => .word (if l.z = 0 then l.y else l.x)) ∧
  (∀ f, Computes (.ktov f) fun _ l => .word (if l.x = 0 then 0 else 1)) ∧
  (∀ f, Computes (.vtok f) fun _ l => .pred (l.x != 0))

/-! ## Floating point and spectral words -/

/-- R123, R124, R126: the FP32 words of two or three operands, each rounded once under the mode, with the conditions it raises put into
FPCTL; each completes wherever no condition stops it and changes nothing else. -/
def Obligations.SinglePrecisionArithmetic : Prop :=
  (∀ f, Computes (.fadd f) fun _ l => .fp (Fmt.fp32.add l.mode l.a l.b)) ∧
  (∀ f, Computes (.fsub f) fun _ l => .fp (Fmt.fp32.sub l.mode l.a l.b)) ∧
  (∀ f, Computes (.fmul f) fun _ l => .fp (Fmt.fp32.mul l.mode l.a l.b)) ∧
  (∀ f, Computes (.ffma f) fun _ l => .fp (Fmt.fp32.fma l.mode l.a l.b l.c)) ∧
  (∀ f, Computes (.fdiv f) fun _ l => .fp (Fmt.fp32.div l.mode l.a l.b)) ∧
  (∀ f, Computes (.fmin f) fun _ l => .fp (Fmt.fp32.minMax false l.a l.b)) ∧
  (∀ f, Computes (.fmax f) fun _ l => .fp (Fmt.fp32.minMax true l.a l.b)) ∧
  (∀ f, Computes (.fscale f) fun _ l => .fp (Fmt.fp32.scale l.mode l.a l.y.toInt)) ∧
  (∀ f, Computes (.fcmp f) fun _ l => cmpOut .fp32 f.n.toNat l.a l.b)

/-- R123, R125, R126, R137, R139: the FP32 words of one operand, the sign words, the class, RAND and FTAB. -/
def Obligations.SinglePrecisionFunctions : Prop :=
  (∀ f, Computes (.fabs f) fun _ l => .word (l.x &&& 0x7FFFFFFF)) ∧
  (∀ f, Computes (.fneg f) fun _ l => .word (l.x ^^^ 0x80000000)) ∧
  (∀ f, Computes (.fcopys f) fun _ l => .word ((l.x &&& 0x7FFFFFFF) ||| (l.y &&& 0x80000000))) ∧
  (∀ f, Computes (.fsqrt f) fun _ l => .fp (Fmt.fp32.sqrt l.mode l.a)) ∧
  (∀ f, Computes (.frcp f) fun _ l => .fp (Fmt.fp32.div l.mode 0x3F800000 l.a)) ∧
  (∀ f, Computes (.frsq f) fun _ l => .fp (Fmt.fp32.rsqrt l.mode l.a)) ∧
  (∀ f, Computes (.ffloor f) fun _ l => .fp (Fmt.fp32.integral .rdn false l.a)) ∧
  (∀ f, Computes (.fceil f) fun _ l => .fp (Fmt.fp32.integral .rup false l.a)) ∧
  (∀ f, Computes (.ftrunc f) fun _ l => .fp (Fmt.fp32.integral .rtz false l.a)) ∧
  (∀ f, Computes (.frint f) fun _ l => .fp (Fmt.fp32.integral l.mode true l.a)) ∧
  (∀ f, Computes (.ffrac f) fun _ l => .fp (Fmt.fp32.frac l.mode l.a)) ∧
  (∀ f, Computes (.fexp2 f) fun _ l => .fp (Fmt.fp32.exp2 l.mode l.a)) ∧
  (∀ f, Computes (.flog2 f) fun _ l => .fp (Fmt.fp32.log2 l.mode l.a)) ∧
  (∀ f, Computes (.fsin f) fun _ l => .fp (Fmt.fp32.trig false l.mode l.a)) ∧
  (∀ f, Computes (.fcos f) fun _ l => .fp (Fmt.fp32.trig true l.mode l.a)) ∧
  (∀ f, Computes (.fclass f) fun _ l => .one (Fmt.fp32.classBits l.a + if Opnd.uninit l.cap.a then 2 ^ 10 else 0)) ∧
  (∀ f, Computes (.rand f) fun _ l => .word (randMix l.x l.y)) ∧
  (∀ f, Computes (.ftab f) fun s l => .fp (ftabEval (s.ftBank l.th f.t.toNat) l.mode l.a))

/-- R89, R128 to R134: the packed halves, each element on its own, the doubles on pairs, the conversions, PACK and UNPACK. -/
def Obligations.HalvesDoublesAndConversions : Prop :=
  (∀ f, Computes (.hadd f) fun _ l => .fp (byHalves (fun a b _ => (halfFmt l.et).add l.mode a b) l.a l.b 0)) ∧
  (∀ f, Computes (.hsub f) fun _ l => .fp (byHalves (fun a b _ => (halfFmt l.et).sub l.mode a b) l.a l.b 0)) ∧
  (∀ f, Computes (.hmul f) fun _ l => .fp (byHalves (fun a b _ => (halfFmt l.et).mul l.mode a b) l.a l.b 0)) ∧
  (∀ f, Computes (.hfma f) fun _ l => .fp (byHalves (fun a b c => (halfFmt l.et).fma l.mode a b c) l.a l.b l.c)) ∧
  (∀ f, Computes (.hcmp f) fun _ l =>
    cmpOut (halfFmt l.et) f.n.toNat (l.x.extractLsb' 0 16).toNat (l.y.extractLsb' 0 16).toNat) ∧
  (∀ f, Computes (.dadd f) fun _ l => .fp64 (Fmt.fp64.add l.mode l.xx.toNat l.yy.toNat)) ∧
  (∀ f, Computes (.dsub f) fun _ l => .fp64 (Fmt.fp64.sub l.mode l.xx.toNat l.yy.toNat)) ∧
  (∀ f, Computes (.dmul f) fun _ l => .fp64 (Fmt.fp64.mul l.mode l.xx.toNat l.yy.toNat)) ∧
  (∀ f, Computes (.dfma f) fun _ l => .fp64 (Fmt.fp64.fma l.mode l.xx.toNat l.yy.toNat l.cc)) ∧
  (∀ f, Computes (.dcmp f) fun _ l => cmpOut .fp64 f.n.toNat l.xx.toNat l.yy.toNat) ∧
  (∀ f, Computes (.cvt f) fun _ l => convertLane f false l) ∧
  (∀ f, Computes (.cvts f) fun _ l => convertLane f true l) ∧
  (∀ f, Computes (.pack f) fun _ l => .one (packLane f l.d l.a)) ∧
  (∀ f, Computes (.unpack f) fun _ l => .one (unpackLane f l.a))

/-- R119: a NaN operand's NaN is the result, quieted, the first signalling one before the first quiet one, and a signalling one raises
NV; for the sum, the difference, the product and the quotient of every format that computes. R118, R127: an exact zero of a sum is +0,
-0 under RDN, and the corners of a division: a zero divisor, and the invalid quotients. R116: rounding a value that FP32 holds gives
that value in every mode and raises nothing. R124: of a NaN and a number FMIN and FMAX give the number, of two NaNs the NaN of R119, a
signalling NaN raises NV in either case, and -0 is below +0. -/
def Obligations.FloatingPointValues : Prop :=
  (∀ F ∈ [Fmt.fp64, Fmt.fp32, Fmt.fp16, Fmt.bf16], ∀ op ∈ [Fmt.add F, Fmt.sub F, Fmt.mul F, Fmt.div F], ∀ mode a b,
     (∀ x, F.val a = .nan true x → op mode a b = (F.quiet x, { nv := true })) ∧
     (∀ x, F.val a = .nan false x → (∀ y, F.val b ≠ .nan true y) → op mode a b = (F.quiet x, {})) ∧
     (∀ x y, F.val a = .nan false x → F.val b = .nan true y → op mode a b = (F.quiet y, { nv := true })) ∧
     ∀ sg y, (∀ sg' x, F.val a ≠ .nan sg' x) → F.val b = .nan sg y → op mode a b = (F.quiet y, { nv := sg })) ∧
  ((∀ mode n m e, Fmt.fp32.roundSum mode n m e (!n) m e = (if mode = .rdn then 0x80000000 else 0, {})) ∧
   (∀ mode a b n n' m e e', Fmt.fp32.val a = .fin n m e → Fmt.fp32.val b = .fin n' 0 e' → m ≠ 0 →
     Fmt.fp32.div mode a b = (if n = n' then 0x7F800000 else 0xFF800000, { dz := true })) ∧
   (∀ mode a b n n' e e', Fmt.fp32.val a = .fin n 0 e → Fmt.fp32.val b = .fin n' 0 e' →
     Fmt.fp32.div mode a b = (0x7FC00000, { nv := true })) ∧
   (∀ mode a b n n', Fmt.fp32.val a = .inf n → Fmt.fp32.val b = .inf n' →
     Fmt.fp32.div mode a b = (0x7FC00000, { nv := true }) ∧
     Fmt.fp32.add mode a b = if n = n' then (if n then 0xFF800000 else 0x7F800000, {}) else (0x7FC00000, { nv := true })) ∧
   (∀ mode a m e, Fmt.fp32.val a = .fin true m e → m ≠ 0 →
     Fmt.fp32.sqrt mode a = (0x7FC00000, { nv := true }) ∧ Fmt.fp32.rsqrt mode a = (0x7FC00000, { nv := true }) ∧
     Fmt.fp32.log2 mode a = (0x7FC00000, { nv := true })) ∧
   ∀ mode a n e, Fmt.fp32.val a = .fin n 0 e →
     Fmt.fp32.sqrt mode a = (if n then 0x80000000 else 0, {}) ∧
     Fmt.fp32.rsqrt mode a = (if n then 0xFF800000 else 0x7F800000, { dz := true }) ∧
     Fmt.fp32.log2 mode a = (0xFF800000, { dz := true })) ∧
  (∀ mode bits n m e, bits < 2 ^ 32 → Fmt.fp32.val bits = .fin n m e → Fmt.fp32.round mode n m e = (bits, {})) ∧
  ((∀ g a b sg x, Fmt.fp32.val a = .nan sg x → (∀ sg' y, Fmt.fp32.val b ≠ .nan sg' y) →
     Fmt.fp32.minMax g a b = (b, { nv := sg }) ∧ Fmt.fp32.minMax g b a = (b, { nv := sg })) ∧
   (∀ g a b sg x sg' y, Fmt.fp32.val a = .nan sg x → Fmt.fp32.val b = .nan sg' y →
     Fmt.fp32.minMax g a b = (Fmt.fp32.quiet (if sg then x else if sg' then y else x), { nv := sg || sg' })) ∧
   Fmt.fp32.minMax false 0x80000000 0 = (0x80000000, {}) ∧ Fmt.fp32.minMax false 0 0x80000000 = (0x80000000, {}) ∧
   Fmt.fp32.minMax true 0x80000000 0 = (0, {}) ∧ Fmt.fp32.minMax true 0 0x80000000 = (0, {}))

/-- R165, R166, R170 to R173: the words that compute on the four lanes of w registers. R167 to R169: broadcast, lane reads and writes,
selection, the lane compare and the packed conversions. -/
def Obligations.SpectralWords : Prop :=
  ((∀ f, Computes (.sadd f) fun _ l => lanes2 (Fmt.fp32.add l.mode) l.as l.bs) ∧
   (∀ f, Computes (.ssub f) fun _ l => lanes2 (Fmt.fp32.sub l.mode) l.as l.bs) ∧
   (∀ f, Computes (.smul f) fun _ l => lanes2 (Fmt.fp32.mul l.mode) l.as l.bs) ∧
   (∀ f, Computes (.sfma f) fun _ l => .ofLanes ((List.range 4).map fun i =>
     Fmt.fp32.fma l.mode (l.as.getD i 0) (l.bs.getD i 0) (l.cs.getD i 0))) ∧
   (∀ f, Computes (.smin f) fun _ l => lanes2 (Fmt.fp32.minMax false) l.as l.bs) ∧
   (∀ f, Computes (.smax f) fun _ l => lanes2 (Fmt.fp32.minMax true) l.as l.bs) ∧
   (∀ f, Computes (.sdiv f) fun _ l => lanes2 (Fmt.fp32.div l.mode) l.as l.bs) ∧
   (∀ f, Computes (.ssqrt f) fun _ l => lanes2 (fun a _ => Fmt.fp32.sqrt l.mode a) l.as []) ∧
   (∀ f, Computes (.sexp f) fun _ l => lanes2 (fun a _ => Fmt.fp32.exp l.mode a) l.as []) ∧
   (∀ f, Computes (.shsum f) fun _ l => .fp (Fmt.fp32.sumRound l.mode (l.as.map Fmt.fp32.val))) ∧
   (∀ f, Computes (.sdot f) fun _ l => .fp (sumProd l.mode (l.as.zip l.bs))) ∧
   (∀ f, Computes (.swls f) fun s l =>
     let r := swlsLanes l.mode l.a (s.constant l.th f.n.toNat).toNat (s.constant l.th (f.n.toNat + 1)).toNat
     .words' r.1 r.2) ∧
   (∀ f, Computes (.spol f) fun _ l => .group (spolRegs l.mode (groupOf l.as) (groupOf l.bs))) ∧
   (∀ f, Computes (.sfres f) fun _ l =>
     let rs := (List.range 4).map fun i => sfresLane l.mode l.a (l.bs.getD i 0)
     .words' ((List.range 4).flatMap fun r => rs.map fun x => x.1.getD r 0) (rs.foldl (fun c x => c.union x.2) {})) ∧
   (∀ f, Computes (.smdiel f) fun _ l => .group (smdielRegs l.mode (groupOf l.as) (groupOf l.bs)))) ∧
  ((∀ f, Computes (.sbcast f) fun _ l =>
     { words := [l.x, l.x, l.x, l.x], st := if Opnd.uninit l.cap.a then .uninit else .full }) ∧
   (∀ f, Computes (.slane f) fun _ l => moves [l.as.getD f.i.toNat 0] (Opnd.uninit l.cap.a)) ∧
   (∀ f, Computes (.sins f) fun _ l => moves ((List.range 4).map fun j => if j = f.i.toNat then l.a else l.ds.getD j 0)
     (Opnd.uninit l.cap.a || Opnd.uninit l.cap.d)) ∧
   (∀ f, Computes (.ssel f) fun _ l => moves ((List.range 4).map fun i => if l.z.getLsbD i then l.as.getD i 0 else l.bs.getD i 0)
     (Opnd.uninit l.cap.a || Opnd.uninit l.cap.b || Opnd.uninit l.cap.c)) ∧
   (∀ f, Computes (.scmp f) fun _ l => .fp (compareLanes f.n.toNat l.as l.bs)) ∧
   (∀ f, Computes (.scvtNarrow f) fun _ l => narrowLanes f l.mode l.as) ∧
   (∀ f, Computes (.scvtWiden f) fun _ l => widenLanes f l.xx.toNat))

/-! ## Registers -/

/-- R91 to R93, R150: SRD reads the special register named, whole or by halves, MOV a launch constant. RQCOUNT answers how many entries the
thread's replay queue holds that RQDROP has not removed, and RQREAD a field of the one at its index, zero past the last; each completes in
every thread whose trap decoding finds nothing, and changes nothing but its destination. -/
def Obligations.SpecialReads : Prop :=
  (∀ f, Computes (.srd f) fun s l =>
    let v := s.sreg l.th f.s.toNat
    if f.h = 0 && sregWide f.s.toNat then .pair v else .one (if f.h = 2 then v / 2 ^ 32 % 2 ^ 32 else if f.h = 1 then v % 2 ^ 32 else v)) ∧
  (∀ f, Computes (.movConst f) fun s l => .word (s.constant l.th f.n.toNat)) ∧
  (∀ f, Computes (.rqcount f) fun _ l => .one l.th.visible.length) ∧
  (∀ f, Computes (.rqread f) fun _ l => .one (((l.th.visible[f.e.toNat]?).map fun e => e.field f.f.toNat).getD 0)) ∧
  (∀ f, Answers (.rqcount f) (fun _ _ => True) (vDest f.d) fun _ l =>
    [BitVec.ofNat 32 (l.th.replay.filter fun e => !e.dropped).length]) ∧
  (∀ f e, Answers (.rqread f) (fun _ l => (l.th.replay.filter fun e => !e.dropped)[f.e.toNat]? = some e) (vDest f.d) fun _ _ =>
    [BitVec.ofNat 32 (e.field f.f.toNat)]) ∧
  ∀ f, Answers (.rqread f) (fun _ l => (l.th.replay.filter fun e => !e.dropped).length ≤ f.e.toNat) (vDest f.d) fun _ _ => [0]

/-- R91 to R94, R112, R114, R142, R143, R234, R303, R319, R331, R382: SWR of a value, whole or into one half, leaves each register as
its rule says, and a reserved value traps; a register that is read-only keeps its value. R303: REFPHASE
written, once the thread's earlier accesses have performed, names the pseudo-channel of its block, sets its STEP, clears its counters and
starts its interval afresh; a block that is not in HBM is BOUNDS. -/
def Obligations.SpecialRegisterWrites : Prop :=
  (let value (f : SwrForm) (s : State) (l : Lane) : Nat :=
     let w := if f.h = 0 && sregWide f.s.toNat then l.xx.toNat else l.a
     let old := s.sreg l.th f.s.toNat
     if f.h = 0 then w else if f.h = 2 then w * 2 ^ 32 + old % 2 ^ 32 else old / 2 ^ 32 % 2 ^ 32 * 2 ^ 32 + w
   let v32 (f : SwrForm) (s : State) (l : Lane) : BitVec 32 := BitVec.ofNat 32 (value f s l)
   let v64 (f : SwrForm) (s : State) (l : Lane) : BitVec 64 := BitVec.ofNat 64 (value f s l)
   let inContext (f : SwrForm) (n : Nat) (g : State → Lane → Context → Context) : Prop :=
     Does (.swr f) (fun _ _ => f.s.toNat = n) fun s _ l u => u.modCtx l.th.ctx (g s l)
   (∀ f, Does (.swr f) (fun s l => f.s.toNat = 0x005 ∧ value f s l < 2) fun s _ l u =>
     u.modCtx l.th.ctx fun c => { c with nbv := v32 f s l }) ∧
   (∀ f, Raises (.swr f) (fun s l => f.s.toNat = 0x005 ∧ 2 ≤ value f s l) .illeg fun _ _ => 0) ∧
   (∀ f, Does (.swr f) (fun _ _ => f.s.toNat = 0x006) fun s _ l u =>
     u.setTile l.th.tile { s.tile l.th.tile with errsticky := (s.tile l.th.tile).errsticky &&& ~~~ v32 f s l }) ∧
   (∀ f, Does (.swr f) (fun _ _ => f.s.toNat = 0x009) fun s _ l u =>
     u.modThread l.tid fun t => { t with awin := v64 f s l &&& 0x000FFFFF00000000 }) ∧
   (∀ f, Does (.swr f) (fun _ _ => f.s.toNat = 0x00A) fun s _ l u =>
     u.modThread l.tid fun t => { t with link := v64 f s l &&& 0x3FFFFFFFFF }) ∧
   (∀ f, Does (.swr f) (fun s l => f.s.toNat = 0x010 ∧ value f s l / 16 % 8 < 6) fun s _ l u =>
     u.modThread l.tid fun t => { t with fpctl := v32 f s l &&& 0x73 ||| t.fpctl &&& ~~~ v32 f s l &&& 0x1F0000 }) ∧
   (∀ f, Raises (.swr f) (fun s l => f.s.toNat = 0x010 ∧ 6 ≤ value f s l / 16 % 8) .illeg fun _ _ => 0) ∧
   (∀ f, Does (.swr f) (fun s l => f.s.toNat = 0x011 ∧ value f s l % 3 = 0) fun s _ l u =>
     u.modThread l.tid fun t => { t with utvec := v32 f s l }) ∧
   (∀ f, Raises (.swr f) (fun s l => f.s.toNat = 0x011 ∧ value f s l % 3 ≠ 0) .align fun s l => value f s l) ∧
   (∀ f, inContext f 0x100 fun s l c => { c with trapfatal := v32 f s l &&& 0x7FFFE }) ∧
   (∀ f, Does (.swr f) (fun _ _ => f.s.toNat = 0x101) fun s _ l u =>
     (u.modCtx l.th.ctx fun c => { c with otbase := v64 f s l &&& 0x000FFFFFFFFFFFC0 }).dropCached l.th.ctx none) ∧
   (∀ f, Does (.swr f) (fun _ _ => f.s.toNat = 0x102) fun s _ l u =>
     (u.modCtx l.th.ctx fun c => { c with otcount := v32 f s l &&& 0x1FFFF }).dropCached l.th.ctx none) ∧
   (∀ f, inContext f 0x103 fun s l c => { c with ptbase := v64 f s l &&& 0x000FFFFFFFFF0000 }) ∧
   (∀ f, Does (.swr f) (fun _ _ => f.s.toNat = 0x104) fun s _ l u => { u with fltring := v64 f s l &&& 0x000FFFFFFFFFC001 }) ∧
   (∀ f, Does (.swr f) (fun _ _ => f.s.toNat = 0x106) fun s _ l u => u.fltdone (value f s l)) ∧
   (∀ f n, Does (.swr f) (fun _ _ => f.s.toNat = 0x110 + n ∧ n < 16) fun s _ l u =>
     u.setTile l.th.tile { s.tile l.th.tile with errlog := Map.set (s.tile l.th.tile).errlog n (v64 f s l) }) ∧
   (∀ f, inContext f 0x122 fun s l c => { c with rdctl := v32 f s l &&& 1 }) ∧
   (∀ f, inContext f 0x124 fun s l c =>
     { c with dumpctl := v64 f s l &&& 0x000FFFFFFFFF0F03, dumpstat := c.dumpstat &&& 0x1FFFFFFF }) ∧
   ∀ f, Does (.swr f) (fun _ _ => f.s.toNat ∈ [0x000, 0x001, 0x002, 0x003, 0x004, 0x007, 0x008, 0x00B, 0x00C, 0x00D, 0x00E, 0x00F, 0x020,
     0x021, 0x022, 0x023, 0x024, 0x105, 0x121, 0x123, 0x125]) fun _ _ _ u => u) ∧
  (∀ (s : State) tid (t : Thread) v pa nrd s1, (s.settleAccesses tid).thread? tid = some t →
     (s.settleAccesses tid).reach t (v / 2 ^ 11 % 2 ^ 21 * 2 ^ 11) 1 .read = (.ok pa nrd, s1) →
     (regionOf (s1.localPa pa) ≠ .hbm → writeRefphase tid v s = .error (.trap .bounds 0xFFFF)) ∧
     (regionOf (s1.localPa pa) = .hbm → ∃ u, writeRefphase tid v s = .ok ((), u) ∧ u.refReported = some (pchOf (s1.localPa pa)) ∧
       u.refphase = BitVec.ofNat 32 v &&& 0xFFFFF8FF ∧
       u.pch (pchOf (s1.localPa pa)) = { s1.pch (pchOf (s1.localPa pa)) with
         step := v % 256, block := some (s1.localPa pa / 2048), owed := 0, bank := bankOf (s1.localPa pa), reads := 0, forced := 0
         postp := 0, guard := 0, since := s1.cycle, phase := s1.cycle } ∧
       u.refstat = 0 ∧ u = { s1 with refresh := u.refresh, refReported := u.refReported, refphase := u.refphase }))

/-- R63, R67, R89, R162: what a write of a destination changes: its registers, in order, with their state; of predicates k0 discards
the write and reads as true. -/
def Obligations.DestinationWrites : Prop :=
  (∀ (t : Thread) (d : Dest) ws st, d.cls = 0 → d.count ≤ ws.length →
    (∀ i, i < d.count → (t.writeDest d ws st).vreg (d.num + i) = ⟨ws.getD i 0, st⟩) ∧
    (∀ n, n < d.num ∨ d.num + d.count ≤ n → (t.writeDest d ws st).vreg n = t.vreg n) ∧
    t.writeDest d ws st = { t with v := (t.writeDest d ws st).v }) ∧
  (∀ (t : Thread) (d : Dest) ws st, d.cls = 1 →
    (∀ i, i < d.count → (t.writeDest d ws st).wreg (d.num + i) =
      ⟨ws.getD (4 * i) 0, ws.getD (4 * i + 1) 0, ws.getD (4 * i + 2) 0, ws.getD (4 * i + 3) 0, st⟩) ∧
    (∀ n, n < d.num ∨ d.num + d.count ≤ n → (t.writeDest d ws st).wreg n = t.wreg n) ∧
    t.writeDest d ws st = { t with w := (t.writeDest d ws st).w }) ∧
  (∀ (t : Thread) (d : Dest) ws st, d.cls = 2 → d.num < 16 →
    (d.num = 0 → t.writeDest d ws st = t) ∧
    (d.num ≠ 0 → (t.writeDest d ws st).pred d.num = (ws.getD 0 0).getLsbD 0) ∧
    (∀ n, n < 16 → n ≠ d.num → (t.writeDest d ws st).pred n = t.pred n) ∧
    t.writeDest d ws st = { t with k := (t.writeDest d ws st).k }) ∧
  ∀ t : Thread, t.pred 0 = true

/-- R108 to R112, R136, R138, R234, R239, R322: the bank words and the invalidations, each with all that it changes, and DIELD and FTABLD
where their objects pass the checks. R108, R110, R136: what the completion of DIELD and FTABLD leaves: the bank of the thread's context
written, the entries of the issue retired. -/
def Obligations.BanksAndInvalidations : Prop :=
  ((∀ f s iss, Issues s iss (.diebank f) → exec (.diebank f) s = .next (s.modCtx iss.ctx fun c => { c with dieSel := f.k == 1 })) ∧
   (∀ f, Does (.ftabbank f) (fun _ _ => True) fun _ _ l u => u.modCtx l.th.ctx fun c =>
     { c with ftSel := if f.k = 1 then c.ftSel ||| (1#4 <<< f.t.toNat) else c.ftSel &&& ~~~ (1#4 <<< f.t.toNat) }) ∧
   (∀ f s iss l ls idx o u pages v, s.issue = some iss → s.decodeTraps iss (.dield f) 0 = none →
     (iss.lanes s (.dield f) 0).map Prod.fst = l :: ls → (Map.get? s.launches l.th.launch).bind Launch.dieset = some idx →
     Checks s.issuing l idx [.dieset] rightR o u → 12288 ≤ Obj.field o 0x10 8 →
     (Obj.scope o = 1 → Obj.base o + 12288 ≤ s.sliceLen l.th.cell) → dieSetPages l.th.tile l.th.ctx l.th.cell o u = .ok (pages, v) →
     exec (.dield f) s = .next ((l :: ls).foldl (fun w x => w.addEntry x.tid
       { iss.entryFor (.dield f) {} (laneMask (l :: ls)) s.nextId x with
         reply := some (pages.flatMap fun p => [BitVec.ofNat 32 p, BitVec.ofNat 32 (p / 2 ^ 32)]) }) v)) ∧
   (∀ f s iss l o u head v w body x, Solo s iss (.ftabld f) l → Checks s.issuing l (l.a % 65536) [.buffer] rightR o u →
     l.readObj o 0 16 u = .ok (head, v) →
     let n := ofBytes ((head.drop 8).take 4)
     16 ≤ Obj.field o 0x10 8 → 1 ≤ n → n ≤ 256 → ofBytes (head.drop 12) = 0 → 16 + 8 * n ≤ Obj.field o 0x10 8 →
     (Obj.scope o = 1 → Obj.base o + 16 + 8 * n ≤ u.sliceLen l.th.cell) →
     l.checkRead o 0 (16 + 8 * n) v = .ok ((), w) → l.readObj o 16 (8 * n) w = .ok (body, x) →
     exec (.ftabld f) s = .next ((x.addEntry l.tid { iss.entryFor (.ftabld f) {} (slotBit l.slot) s.nextId l with
       reply := some (numWords (ofBytes (head ++ body)) (4 + 2 * n)) }).goesOn iss s.nextId)) ∧
   (∀ f, Does (.otinv f) (fun _ _ => True) fun _ _ l u =>
     u.dropCached (l.x.extractLsb' 16 4).toNat (if f.l = 1 then none else some (l.x.extractLsb' 0 16).toNat)) ∧
   (∀ f, Does (.tlbinv f) (fun _ _ => True) fun _ _ l u =>
     u.tlbinv f.m.toNat (l.xx.toNat % 2 ^ 52) (l.xx.toNat / 2 ^ 60)) ∧
   (∀ (s : State) mode va ctx n,
     (Map.get? (s.tlbinv mode va ctx).tiles n = (Map.get? s.tiles n).map fun t =>
       { t with tlb := t.tlb.filter fun e => !(mode == 2 || (e.ctx == ctx && (mode == 1 || e.vpage == va / 2 ^ e.bits))) }) ∧
     (Map.get? (s.tlbinv mode va ctx).walkers n = (Map.get? s.walkers n).map fun es => es.filter fun e => !(mode == 2 || e.ctx == ctx)) ∧
     s.tlbinv mode va ctx = { s with tiles := (s.tlbinv mode va ctx).tiles, walkers := (s.tlbinv mode va ctx).walkers }) ∧
   ∀ (s : State) ctx idx n,
     (Map.get? (s.dropCached ctx (some idx)).tiles n = (Map.get? s.tiles n).map fun t =>
       { t with otCache := t.otCache.filter fun e => !(e.ctx == ctx && e.index == idx) }) ∧
     (Map.get? (s.dropCached ctx none).tiles n = (Map.get? s.tiles n).map fun t =>
       { t with otCache := t.otCache.filter fun e => e.ctx != ctx })) ∧
  ((∀ (s : State) tid t entry e f, s.thread? tid = some t → t.entry? entry = some e → e.instr = .dield f → e.state = .flight →
     let parts := dieParts ((List.range ((e.reply.getD []).length / 2)).map fun k => wordsNum (((e.reply.getD []).drop (2 * k)).take 2))
     (∀ p ∈ parts, s.eccAt p.1 p.2 = false) →
     let v := (s.dieBytes tid parts).2.modCtx t.ctx fun c => { c with
       dies := (dieEntries (s.dieBytes tid parts).1 1024).zipIdx.foldl (fun m d => setDie m (f.k.toNat * 1024 + d.2) d.1) c.dies }
     exec (.dieldComplete tid entry) s = .next ((v.issueEntries e.issueNo).foldl (fun w x => w.retireEntry x.1 x.2.id) v)) ∧
   (∀ (s : State) tid t entry e f, s.thread? tid = some t → t.entry? entry = some e → e.instr = .ftabld f → e.state = .flight →
     exec (.ftabldComplete tid entry) s = .next ((s.modCtx t.ctx fun c => { c with
       ftabs := Map.set c.ftabs (f.t.toNat * 2 + f.k.toNat)
         ((Map.getD c.ftabs (f.t.toNat * 2 + f.k.toNat) {}).over (FtBank.ofWords (e.reply.getD []))) }).retireEntry tid entry)) ∧
   (∀ ws (k : Nat), k < (ws.getD 2 0 : Word).toNat → ∀ old : FtBank,
     Map.get? (old.over (FtBank.ofWords ws)).entries k = some (ws.getD (4 + 2 * k) 0, ws.getD (5 + 2 * k) 0)) ∧
   ∀ ws (k : Nat), (ws.getD 2 0 : Word).toNat ≤ k → ∀ old : FtBank,
     Map.get? (old.over (FtBank.ofWords ws)).entries k = Map.get? old.entries k)

/-! ## Traps -/

/-- R50, R120, R121, R144: a computing word alone in its group raises EMPTY, UNINIT or an enabled exception with TFINFO as given, leaves
its destination trap-empty with the flags of the conditions set, and changes nothing else. R122: of the conditions that the threads of a
group raise the one with the lowest code is delivered, and TFMASK holds the slots of the threads that raised it. -/
def Obligations.ConditionsRaised : Prop :=
  (∀ i g, (∀ s, exec i s = s.run i (g s)) → Conditions i g) ∧
  (∀ vs : Verdicts,
     (lowestCause vs = none ↔ ∀ v ∈ vs, v.2.2.cause = none) ∧
     ∀ c, lowestCause vs = some c →
       (∃ v ∈ vs, v.2.2.cause = some c) ∧ (∀ v ∈ vs, ∀ c', v.2.2.cause = some c' → c.code ≤ c'.code) ∧
       ∀ n < 32, (causeMask vs c).getLsbD n = true ↔ ∃ v ∈ vs, v.2.2.cause = some c ∧ v.2.1 = n)

/-- R61, R82: a word whose decoding raises a trap in its group issues nothing: the trap stands raised for the group, the rest of its
chain is dropped, and nothing else has changed. R82, R93, R112: at unprivileged level the privileged words, and the moves of a
privileged register, raise PRIV with the code of the word or the number of the register; a word that its encoding rules refuse is ILLEG
before that. -/
def Obligations.DecodeTraps : Prop :=
  (∀ i, i.isEncoded = true → (∀ f, i ≠ .stamp f) → ∀ s iss r, s.issue = some iss → s.decodeTraps iss i 0 = some r →
     exec i s = .next { s with issue := some { iss with raised := some (iss.raised.getD r), todo := [] } }) ∧
  ((∀ (s : State) (t : Thread) record (i : Instr), i.wellFormed = false → ∀ priv, s.decodeTrap t priv record i = some (.illeg, 0)) ∧
   ∀ (s : State) (t : Thread) record (i : Instr), i.wellFormed = true → s.undeclared t false record i = none → illegHere t false i = false →
     s.decodeTrap t false record i =
       match i with
       | .tlbinv _ => some (.priv, 0x180)
       | .otinv _ => some (.priv, 0x181)
       | .ctxsave _ => some (.priv, 0x182)
       | .ctxload _ => some (.priv, 0x183)
       | .srd f => if f.s.toNat ≥ 0x100 then some (.priv, BitVec.ofNat 64 f.s.toNat) else none
       | .swr f => if f.s.toNat ≥ 0x100 then some (.priv, BitVec.ofNat 64 f.s.toNat) else none
       | _ => none)

/-- R107: TRAP and BKPT raise USER and BKPT with their code in every thread of the group. R144, R147, R148: taking a trap that is not
fatal: every thread of the group, raiser or not, saves the trap in its frame, freezes its replay queue, raises its loop floor to its
depth and goes to its own handler, pinned in its slot; every other thread, memory and the contexts stay as they were. -/
def Obligations.TrapEntry : Prop :=
  ((∀ f s iss, Issues s iss (.trap f) → iss.raised = none → iss.slots ≠ [] → (∀ x ∈ iss.slots, x.1 < 32) →
     ∃ u r, exec (.trap f) s = .next u ∧ (u.issue.bind Issue.raised) = some r ∧ r.cause = .user ∧ r.pc = iss.cur.pc ∧ r.mask = iss.mask ∧
       (∀ x ∈ iss.slots, r.infoOf x.1 = BitVec.ofNat 64 f.n.toNat) ∧
       u = { s with threads := u.threads, issue := some { iss with raised := some r }, nextId := s.nextId + 1 } ∧
       ∀ tid, Untouched s u tid) ∧
   ∀ f s iss, Issues s iss (.bkpt f) → iss.raised = none → iss.slots ≠ [] → (∀ x ∈ iss.slots, x.1 < 32) →
     ∃ u r, exec (.bkpt f) s = .next u ∧ (u.issue.bind Issue.raised) = some r ∧ r.cause = .bkpt ∧ r.pc = iss.cur.pc ∧ r.mask = iss.mask ∧
       (∀ x ∈ iss.slots, r.infoOf x.1 = BitVec.ofNat 64 f.n.toNat) ∧
       u = { s with threads := u.threads, issue := some { iss with raised := some r }, nextId := s.nextId + 1 } ∧
       ∀ tid, Untouched s u tid) ∧
  (∀ (s : State) ctx tile part members (r : Raised) rpc tid u c,
     Map.get? members (lowestSlot r.mask) = some tid → s.thread? tid = some u → s.ctx? ctx = some c → trapIsFatal c u r.cause = false →
     (members.map Prod.snd).Nodup →
     let s' := s.takeTrap ctx tile part members r rpc
     (∀ m ∈ members, ∀ t, s.thread? m.2 = some t → s'.thread? m.2 = some { t with
       frozen := true, floor := t.loops.length, pc := u.utvec.toNat, place := .pinned s.nextId, wait := .ready, since := s.cycle, next := none
       replay := t.replay.map fun e => { e with stopped := e.state == .held }
       frame := some { group := s.nextId, slot := m.1, pc := r.pc, rpc := rpc m.2, stamp := r.stamp, db := t.bank
                       cause := r.cause.code, mask := r.mask, info := r.infoOf m.1, dst := r.dst, hfloor := t.floor } }) ∧
     (∀ k, (∀ m ∈ members, m.2 ≠ k) → Untouched s s' k) ∧
     Map.get? s'.pins s.nextId = some { ctx := ctx, tile := tile, part := part, members := members } ∧
     s'.mem = s.mem ∧ s'.ctxs = s.ctxs)

/-- R142, R146, R384: a trap is fatal where its cause is PGFATAL, where TRAPFATAL names it, where the raiser has no handler, or where it
is in a handler already; a fatal trap halts the context with the trap recorded, once, and takes no handler. R152: the release of a
pinned thread: its floor is what it was before the trap, its frame is gone, its queue is thawed with what was done retired and what was
held back after what the handler issued, and its registers, predicates, loop stack and flags stay as the handler left them. -/
def Obligations.FatalTrapsAndReturn : Prop :=
  ((∀ (c : Context) (u : Thread) cause, trapIsFatal c u cause = true ↔
     cause = .pgfatal ∨ (c.trapfatal.getLsbD cause.code = true ∧ cause ≠ .pgfault) ∨ u.utvec = 0 ∨ u.frame.isSome) ∧
   ∀ (s : State) ctx tile part members (r : Raised) rpc tid u c,
     Map.get? members (lowestSlot r.mask) = some tid → s.thread? tid = some u → s.ctx? ctx = some c → trapIsFatal c u r.cause = true →
     c.fatal = none →
     ∃ i, s.takeTrap ctx tile part members r rpc = { s with ctxs := Map.set s.ctxs ctx { c with phase := .halting, fatal := some i } } ∧
       i.tile = u.tile ∧ i.part = u.part ∧ i.pc = r.pc ∧ i.cycle = s.cycle ∧ i.trapped = r.trapped members ∧
       (u.frame = none → i.wid = u.wid ∧ i.cause = r.cause ∧ i.tfinfo = r.infoOf (lowestSlot r.mask) ∧ i.tfmask = r.mask ∧
         i.second = none) ∧
       ∀ f, u.frame = some f → i.second = some r.cause ∧ i.tfinfo = f.info ∧ i.tfmask = f.mask ∧
         ∀ p k v, Map.get? s.pins f.group = some p → p.lowest f.mask = some k → s.thread? k = some v → i.wid = v.wid) ∧
  (∀ (t : Thread) f, t.frame = some f →
     t.unpin = { t with floor := min f.hfloor t.loops.length, frame := none, frozen := false, place := .nowhere, wait := .ready, also := []
                        replay := t.unpin.replay } ∧
     (t.ended = false → t.unpin.replay = (t.replay.filter fun e => e.state != .done && !(e.state == .held && (e.stopped || e.unperformed))) ++
       t.replay.filter fun e => e.state == .held && (e.stopped || e.unperformed)) ∧
     ∀ m resume, leftToDo m t.unpin resume =
       ((t.unpin.replay.filter fun e => e.state == .held && (e.stopped || e.unperformed)).map fun e => ⟨m.2, m.1, some e.id, resume⟩) ++
         [⟨m.2, m.1, none, resume⟩])

/-- R150, R151, R164: TFILL fills the destination of the trapped instruction, a pair with two words and of several registers the first
alone, in the threads that raised it, and does nothing in the others; RQWRITE replaces a field of a HELD entry and of no other; RQDROP
leaves the destination of the entry trap-empty: one in flight stays until its reply, which is discarded, a HELD one goes with the
operation it would have submitted, and past the last entry nothing happens. -/
def Obligations.HandlerWords : Prop :=
  (∀ f fr, Does (.tfill f) (fun _ l => l.th.frame = some fr ∧ fr.mask.getLsbD fr.slot = true ∧ fr.dst.cls = 0 ∧ fr.dst.count = 2 ∧
      emptyCause (l.th.sourcesOf false 0 (.tfill f)) l.cap = none) fun _ _ l u =>
    u.modThread l.tid fun t => t.writeDest ⟨0, fr.dst.num, 2⟩ [l.x, (l.xx >>> 32).setWidth 32] .full) ∧
  (∀ f fr, Does (.tfill f) (fun _ l => l.th.frame = some fr ∧ fr.mask.getLsbD fr.slot = true ∧ fr.dst.cls = 0 ∧ 1 ≤ fr.dst.count ∧
      fr.dst.count ≠ 2 ∧ emptyCause (l.th.sourcesOf false 0 (.tfill f)) l.cap = none) fun _ _ l u =>
    u.modThread l.tid fun t => t.writeDest ⟨0, fr.dst.num, 1⟩ [l.x] .full) ∧
  (∀ f fr, Does (.tfill f) (fun _ l => l.th.frame = some fr ∧ fr.mask.getLsbD fr.slot = true ∧ fr.dst.cls = 1 ∧ 1 ≤ fr.dst.count ∧
      emptyCause (l.th.sourcesOf false 0 (.tfill f)) l.cap = none) fun _ _ l u =>
    u.modThread l.tid fun t => t.writeDest ⟨1, fr.dst.num, 1⟩ [l.x, l.x, l.x, l.x] .full) ∧
  (∀ f fr, Does (.tfill f) (fun _ l => l.th.frame = some fr ∧ fr.mask.getLsbD fr.slot = true ∧ fr.dst.cls = 2 ∧ 1 ≤ fr.dst.count ∧
      emptyCause (l.th.sourcesOf false 0 (.tfill f)) l.cap = none) fun _ _ l u =>
    u.modThread l.tid fun t => t.writeDest ⟨2, fr.dst.num, 1⟩ [l.x] .full) ∧
  (∀ f fr, Does (.tfill f) (fun _ l => l.th.frame = some fr ∧ (fr.mask.getLsbD fr.slot = false ∨ fr.dst.cls = 3)) fun _ _ _ u => u) ∧
  (∀ f e, Does (.rqwrite f) (fun _ l => (l.th.replay.filter fun e => !e.dropped)[f.e.toNat]? = some e) fun _ _ l u =>
    u.modThread l.tid fun t => t.modEntry e.id fun e => e.putField f.f.toNat l.x) ∧
  (∀ f, Does (.rqwrite f) (fun _ l => (l.th.replay.filter fun e => !e.dropped).length ≤ f.e.toNat) fun _ _ _ u => u) ∧
  (∀ (e : Entry) n w, e.state = .held → n ∈ [4, 5, 6, 8, 9, 10, 11] → (e.putField n w).field n = w.toNat ∧
    ∀ k, k ≠ n → (e.putField n w).field k = e.field k) ∧
  (∀ (e : Entry) n w, e.state ≠ .held → e.putField n w = e) ∧
  (∀ f e, Does (.rqdrop f) (fun _ l => (l.th.replay.filter fun e => !e.dropped)[f.e.toNat]? = some e ∧ e.state = .flight) fun _ _ l u =>
    (u.modThread l.tid fun t => t.markDest e.dst .trapEmpty).modThread l.tid fun t => t.modEntry e.id fun e => { e with dropped := true }) ∧
  (∀ f e id, Does (.rqdrop f) (fun _ l => (l.th.replay.filter fun e => !e.dropped)[f.e.toNat]? = some e ∧ e.state = .held ∧ e.op = some id)
    fun _ _ l u => ((u.modThread l.tid fun t => t.markDest e.dst .trapEmpty).withdrawOp id).modThread l.tid fun t =>
      { t with replay := t.replay.filter fun x => x.id != e.id }) ∧
  (∀ f e, Does (.rqdrop f) (fun _ l => (l.th.replay.filter fun e => !e.dropped)[f.e.toNat]? = some e ∧ e.state ≠ .flight ∧
      (e.state = .held → e.op = none)) fun _ _ l u =>
    (u.modThread l.tid fun t => t.markDest e.dst .trapEmpty).modThread l.tid fun t =>
      { t with replay := t.replay.filter fun x => x.id != e.id }) ∧
  ∀ f, Does (.rqdrop f) (fun _ l => (l.th.replay.filter fun e => !e.dropped).length ≤ f.e.toNat) fun _ _ _ u => u

/-! ## Control -/

/-- R67, R95, R96: a taken branch and a call leave for the packet off14 from their own, a call with LINK and the floor written; RET
returns by LINK. -/
def Obligations.BranchesAndCalls : Prop :=
  (∀ f, Steers (.br f) fun _ iss l t =>
    if (l.x != 0) != (f.n == 1) then .leave (t.unwind (iss.target f.o)) (.goto (3 * iss.target f.o)) else .on t) ∧
  (∀ f, Steers (.call f) fun _ iss _ t =>
    .leave { t with link := t.linkFor iss.rpc, floor := t.loops.length } (.goto (3 * iss.target f.o))) ∧
  (∀ f, Steers (.calli f) fun _ iss l t =>
    if l.a % 3 ≠ 0 then .trap .align l.a
    else .leave { t with link := t.linkFor iss.rpc, floor := t.loops.length } (.goto (l.a % 2 ^ 24))) ∧
  (∀ f, SteerTraps (.calli f) fun _ iss l t =>
    if l.a % 3 ≠ 0 then .trap .align l.a
    else .leave { t with link := t.linkFor iss.rpc, floor := t.loops.length } (.goto (l.a % 2 ^ 24))) ∧
  (∀ f, Steers (.ret f) fun _ _ _ t =>
    .leave { t with loops := t.loops.take (t.link.toNat / 2 ^ 32 % 8)
                    floor := min (t.link.toNat / 2 ^ 35 % 8) (t.loops.take (t.link.toNat / 2 ^ 32 % 8)).length }
      (.goto (t.link.toNat % 2 ^ 24))) ∧
  (∀ t : Thread, ∀ rpc, t.floor < 8 → t.loops.length < 8 →
    (t.linkFor rpc).toNat % 2 ^ 32 = rpc % 2 ^ 32 ∧ (t.linkFor rpc).toNat / 2 ^ 32 % 8 = t.loops.length ∧
      (t.linkFor rpc).toNat / 2 ^ 35 = t.floor) ∧
  ∀ (iss : Issue) (o : BitVec 14), ((packetOf iss.cur.pc : Int) + o.toInt) * 3 ≥ 0 →
    ((packetOf iss.cur.pc : Int) + o.toInt) * 3 < 2 ^ 24 → (iss.target o : Int) = packetOf iss.cur.pc + o.toInt

/-- R98: LOOP skips its body on a zero count, traps with LSTACK on a full stack, and else pushes an entry and enters the body. R99,
R100: leaving the last packet of a body sequentially goes back to its start while its count lasts, and else drops the entry; a taken
transfer drops the entries whose body it leaves; entries below the floor stay. -/
def Obligations.Loops : Prop :=
  (let go (t : Thread) (packet count len : Nat) : Steer :=
     if count = 0 then .leave t (.goto (3 * (packet + len + 2)))
     else if t.loops.length = 4 then .trap .lstack 0
     else .leave { t with loops := t.loops ++ [{ count := count, start := packet + 1, len := len }] } (.goto (3 * (packet + 1)))
   (∀ f, Steers (.loopImm f) fun _ iss _ t => t.loopTo (packetOf iss.cur.pc) f.n.toNat f.l.toNat) ∧
   (∀ f, Steers (.loopReg f) fun _ iss l t => t.loopTo (packetOf iss.cur.pc) l.a f.l.toNat) ∧
   (∀ f, SteerTraps (.loopImm f) fun _ iss _ t => t.loopTo (packetOf iss.cur.pc) f.n.toNat f.l.toNat) ∧
   (∀ f, SteerTraps (.loopReg f) fun _ iss l t => t.loopTo (packetOf iss.cur.pc) l.a f.l.toNat) ∧
   ∀ t packet count len, 3 * (packet + len + 2) < 2 ^ 24 → Thread.loopTo t packet count len = go t packet count len) ∧
  ((∀ (t : Thread) last next outer e, packetOf last ≠ packetOf next → t.loops = outer ++ [e] → t.floor < t.loops.length →
     packetOf last = e.start + e.len → e.count ≠ 1 → e.count ≠ 0 →
     t.leavePacket last next = ({ t with loops := outer ++ [{ e with count := e.count - 1 }] }, 3 * e.start)) ∧
   (∀ (t : Thread) last next outer e, packetOf last ≠ packetOf next → t.loops = outer ++ [e] → t.floor < t.loops.length →
     packetOf last ≠ e.start + e.len → t.leavePacket last next = (t, next)) ∧
   (∀ (t : Thread) last next, packetOf last = packetOf next → t.leavePacket last next = (t, next)) ∧
   (∀ (t : Thread) last next, t.loops.length = t.floor → t.leavePacket last next = (t, next)) ∧
   (∀ (t : Thread) packet, (t.unwind packet) = { t with loops := (t.unwind packet).loops } ∧
     (∃ rest, t.loops = (t.unwind packet).loops ++ rest) ∧
     (t.floor ≤ t.loops.length → t.floor ≤ (t.unwind packet).loops.length)) ∧
   ∀ (t : Thread) packet e, (t.unwind packet).loops.getLast? = some e → t.floor < (t.unwind packet).loops.length →
     e.start ≤ packet ∧ packet ≤ e.start + e.len)

/-- R97, R106, R110, R145, R152, R194: a regrouping files its thread under a key at a packet, of a pinned thread too, which keeps its
registers; EXIT ends the thread; SYNC.DIE takes the selected die bank and sees the thread's own stores; RTE names a resume point, the
frame's or a given one, and waits for the pinned set. R191: CALLSH pushes a shader frame and files its thread under the program's packet
and the key, its region ended; RETSH pops the frame and files the thread where the frame says; a full stack is TRDEPTH, an unaligned
program ALIGN. -/
def Obligations.RegroupExitAndHitPrograms : Prop :=
  ((∀ f, Steers (.reform f) fun _ iss l t =>
     .leave (t.unwind (iss.target f.o)) (.reform (3 * iss.target f.o) (BitVec.ofNat 16 l.a))) ∧
   (∀ f, Steers (.reformX f) fun s iss l t =>
     let kept := match f.live, t.frame with
       | some live, none => t.keepOnly live (s.stageOf t).payload
       | _, _ => t
     .leave (kept.unwind (iss.target f.o)) (.reform (3 * iss.target f.o) (BitVec.ofNat 16 l.a))) ∧
   (∀ f, Steers (.exit f) fun _ _ _ t => .leave t .exit) ∧
   (∀ f (s : State) iss, Issues s.flushGroup iss (.syncDie f) →
     ∃ u, exec (.syncDie f) s = .next u ∧ u = { s.flushGroup with threads := u.threads, nextId := s.flushGroup.nextId + 1 } ∧
       (∀ tid, (∀ x ∈ iss.slots, x.2 ≠ tid) → Untouched s.flushGroup u tid) ∧
       ∀ x ∈ iss.lanes s.flushGroup (.syncDie f) 0, ∀ t, s.flushGroup.thread? x.1.tid = some t → u.thread? x.1.tid = some { t with
         bank := ((s.ctx? iss.ctx).map Context.dieSel).getD false, stale := [] }) ∧
   (∀ f, Steers (.rte f) fun _ _ _ t => t.gathered ((t.frame.map Frame.rpc).getD 0)) ∧
   (∀ f, Steers (.rtePc f) fun _ _ l t => if l.a % 3 ≠ 0 then .trap .align l.a else t.gathered (l.a % 2 ^ 24)) ∧
   (∀ f, SteerTraps (.rtePc f) fun _ _ l t => if l.a % 3 ≠ 0 then .trap .align l.a else t.gathered (l.a % 2 ^ 24)) ∧
   (∀ f s iss, Issues s iss (.nop f) → exec (.nop f) s = .next s) ∧
   ∀ f s iss, Issues s iss (.yield f) → exec (.yield f) s = .next s) ∧
  (let call (s : State) (iss : Issue) (l : Lane) (t : Thread) : Steer :=
     if l.a % 3 ≠ 0 then .trap .align l.a
     else if (s.stageOf t).depth ≤ t.shaders.length then .trap .trdepth (s.stageOf t).depth
     else .leave { t with
         shaders := t.shaders ++ [{ rpc := iss.rpc, link := t.link, floor := t.floor, depth := t.loops.length, key := t.key }]
         floor := t.loops.length } (.reform (l.a % 2 ^ 24) (BitVec.ofNat 16 l.b))
   let back (t : Thread) : Steer :=
     match t.shaders.getLast? with
     | none => .trap .illeg 0
     | some fr => .leave { t with shaders := t.shaders.dropLast, link := fr.link, loops := t.loops.take fr.depth
                                  floor := min fr.floor (t.loops.take fr.depth).length } (.reform fr.rpc fr.key)
   (∀ f, SteerTraps (.callsh f) call) ∧ (∀ f, SteerTraps (.retsh f) fun _ _ _ t => back t) ∧
   (∀ f s iss l t w, Alone s iss (.callsh f) l → emptyCause (staticSources (.callsh f)) l.cap = none →
     call s iss l l.th = .leave t w → exec (.callsh f) s = .next
       (State.regionEnd { s with threads := Map.set s.threads l.tid t, nextId := s.nextId + 1
                                 issue := some { iss with leaving := Map.set iss.leaving l.tid w } } l.tid (some 3))) ∧
   ∀ f s iss l t w, Alone s iss (.retsh f) l → back l.th = .leave t w → exec (.retsh f) s = .next
       (State.regionEnd { s with threads := Map.set s.threads l.tid t, nextId := s.nextId + 1
                                 issue := some { iss with leaving := Map.set iss.leaving l.tid w } } l.tid (some 3)))

/-! ## Memory -/

/-- R3, R311, R314: memory holds what was last written, byte by byte, the least significant first, and equal contents are equal
memories: no entry is zero and the addresses rise. -/
def Obligations.MemoryHoldsWhatWasWritten : Prop :=
  (∀ (s : State) pa bs k, Memory.wf s.mem = true → (s.setBytes pa bs).byte k =
    if pa ≤ k ∧ k < pa + bs.length then bs.getD (k - pa) 0 else s.byte k) ∧
  (∀ (s : State) pa n v, Memory.wf s.mem = true → (s.setNum pa n v).num pa n = v % 256 ^ n) ∧
  (∀ m m' : List Host.Cell, Memory.wf m = true → Memory.wf m' = true → (∀ k, Map.getD m k 0 = Map.getD m' k 0) → m = m') ∧
  ∀ (s : State) pa bs, Memory.wf s.mem = true → Memory.wf (s.setBytes pa bs).mem = true ∧
    s.setBytes pa bs = { s with mem := (s.setBytes pa bs).mem }

/-- R311 and the memory of a device: an event, an instruction or a tick never leaves two cells for one address, a cell that equals what an
unlisted address reads as, or addresses out of order. -/
def Obligations.MemoryStaysCanonical : Prop :=
  ∀ s s' : State, Memory.wf s.mem = true → step s = .next s' → Memory.wf s'.mem = true

/-- R65, R101, R102, R148: a load and a store enter the replay queue HELD, at the address that the base and the scaled offset give, the load
with its destination empty, and make no other change. R102, R148, R314: leaving the partition, a load's reply is what its thread's line
holds over what memory holds, a store's bytes enter the line of its thread, which that thread's loads then find, and memory stays as it
was. R101, R319: the checks of an access: a misaligned one is ALIGN with its address, one beyond the cell's allocation BOUNDS, and one
whose translation fails PGFATAL. -/
def Obligations.LoadsAndStores : Prop :=
  ((∀ f, Accesses (.ld f) fun iss no l r u =>
     match u.thread? l.tid with
     | none => u
     | some t => u.addEntry l.tid { iss.entryFor (.ld f) (loadDest f.sz f.d) (slotBit l.slot) no l with
         region := r.region, after := u.fencedBy t 7 }) ∧
   (∀ f, Accesses (.st f) fun iss no l r u =>
     match u.thread? l.tid with
     | none => u
     | some t => u.addEntry l.tid { iss.entryFor (.st f) {} (slotBit l.slot) no l with region := r.region, after := u.fencedBy t 7 }) ∧
   (∀ f, AccessTraps (.ld f)) ∧ (∀ f, AccessTraps (.st f)) ∧
   (∀ (f : MemForm) (c : Captured), accessOf (.ld f) c = some
     { size := sizeBytes f.sz, kind := .read, asWrite := false, off := (((Opnd.word c.a 0 : Int) + f.o.toInt * sizeBytes f.sz) % 2 ^ 32).toNat }) ∧
   (∀ (f : MemForm) (c : Captured), accessOf (.st f) c = some
     { size := sizeBytes f.sz, kind := .write, asWrite := true, off := (((Opnd.word c.a 0 : Int) + f.o.toInt * sizeBytes f.sz) % 2 ^ 32).toNat }) ∧
   (∀ (s : State) tid t e, s.thread? tid = some t → s.addEntry tid e = { s with
     nextId := s.nextId + 1
     threads := Map.set s.threads tid { t.markDest e.dst .empty with replay := t.replay ++ [{ e with id := s.nextId }] } })) ∧
  ((∀ (s : State) tid t e f x pa s1, e.instr = .ld f → s.MayLeave tid t e x pa s1 → s1.eccAt pa x.size = false →
     let r := s1.readAt t tid e.issueNo pa x.size
     s.dispatchEntry tid e = (true, r.2.modThread tid fun t => t.modEntry e.id fun e =>
       { e with state := .flight, reply := some (loadWords f.sz r.1), due := r.2.servedFrom pa })) ∧
   (∀ (s : State) (t : Thread) tid no pa n, regionOf pa = .hbm ∨ regionOf pa = .slice →
     (s.readAt t tid no pa n).1 = (((s.acceptRead tid pa).accessEnergy t.tile t.ctx pa n).loadBytes t tid pa n) ∧
     (s.readAt t tid no pa n).2.mem = s.mem) ∧
   (∀ (s : State) tid t e f x pa s1, e.instr = .st f → s.MayLeave tid t e x pa s1 → regionOf pa = .hbm ∨ regionOf pa = .slice →
     let bs := Opnd.bytes e.cap.d x.size
     let v := (s1.storeBytes t tid pa bs).accessEnergy t.tile t.ctx pa bs.length
     v.isAwaited t e.id = false → t.ended = false → s.dispatchEntry tid e = (true, v.finishEntry tid e.id)) ∧
   ∀ (s : State) (t : Thread) tid pa n bs, (s.tile t.tile).lines.length < 64 → bs.length = n → pa % n = 0 → n ∈ [1, 2, 4, 8, 16] →
     (s.storeBytes t tid pa bs).loadBytes t tid pa n = bs ∧ (s.storeBytes t tid pa bs).mem = s.mem) ∧
  ((∀ (s : State) (t : Thread) x, t.vaOf x.off % x.size ≠ 0 → s.check t x = (.trapped .align (t.vaOf x.off), s)) ∧
   (∀ (s : State) (t : Thread) x c, t.vaOf x.off % x.size = 0 → cellWindow ≤ x.off → Map.get? s.cells t.cell = some c →
     c.sliceLen < x.off - cellWindow + x.size → s.check t x = (.trapped .bounds 0xFFFF, s)) ∧
   (∀ (s : State) (t : Thread) x s1, t.vaOf x.off % x.size = 0 → x.off < cellWindow →
     s.translate t.tile t.ctx (t.vaOf x.off) x.kind = (.pgfatal, s1) → s.check t x = (.trapped .pgfatal (t.vaOf x.off), s1)) ∧
   ∀ (s : State) (t : Thread) x s1 f, t.vaOf x.off % x.size = 0 → x.off < cellWindow →
     s.translate t.tile t.ctx (t.vaOf x.off) x.kind = (.pgfault f, s1) → s.check t x = (.parked f, s1))

/-- R103, R328: the acquiring load ends its region and has an entry that everything after it waits for, beyond LANE scope; the releasing
store ends its region at its scope and has an entry that follows everything its thread has issued, beyond LANE scope. R54, R104: WAITV has
an entry of its own; it completes on a word that differs from its register and else parks its thread on the granule. R314, R348: a
release leaves with its thread's lines drained, and not while another package than its target owes the thread an acknowledgement at
FABRIC or SYSTEM scope. -/
def Obligations.OrderedAccesses : Prop :=
  (∀ f, Accesses (.ldAcq f) fun iss no l r u =>
    match u.thread? l.tid with
    | none => u
    | some t =>
      let v := u.regionEnd l.tid none
      let w := v.addEntry l.tid { iss.entryFor (.ldAcq f) (loadDest f.sz f.d) (slotBit l.slot) no l with
        region := r.region, after := u.fencedBy t 7 }
      if f.p = 0 then w else w.addFence l.tid { mask := 255, ids := [v.nextId] }) ∧
  (∀ f, Accesses (.stRel f) fun iss no l r u =>
    match u.thread? l.tid with
    | none => u
    | some t => (u.regionEnd l.tid (some f.p.toNat)).addEntry l.tid { iss.entryFor (.stRel f) {} (slotBit l.slot) no l with
        region := r.region, after := u.fencedBy t 7 ++ if f.p = 0 then [] else u.outstanding t l.tid }) ∧
  (∀ f, Accesses (.waitv f) fun iss no l r u =>
    match u.thread? l.tid with
    | none => u
    | some t => u.addEntry l.tid { iss.entryFor (.waitv f) {} (slotBit l.slot) no l with region := r.region, after := u.fencedBy t 7 }) ∧
  (∀ f, AccessTraps (.ldAcq f)) ∧ (∀ f, AccessTraps (.stRel f)) ∧ (∀ f, AccessTraps (.waitv f)) ∧
  (∀ (f : MemOForm) (c : Captured), accessOf (.ldAcq f) c =
    some { off := Opnd.word c.a 0, size := sizeBytes f.sz, kind := .read, asWrite := false }) ∧
  (∀ (f : MemOForm) (c : Captured), accessOf (.stRel f) c =
    some { off := Opnd.word c.a 0, size := sizeBytes f.sz, kind := .write, asWrite := true }) ∧
  (∀ (f : WaitvForm) (c : Captured), accessOf (.waitv f) c = some { off := Opnd.word c.a 0, size := 4, kind := .read, asWrite := false }) ∧
  (∀ (s : State) tid t e f x pa s1, e.instr = .ldAcq f → s.MayLeave tid t e x pa s1 → s1.eccAt pa x.size = false →
    let r := s1.readAt t tid e.issueNo pa x.size
    s.dispatchEntry tid e = (true, r.2.modThread tid fun t => t.modEntry e.id fun e =>
      { e with state := .flight, reply := some (loadWords f.sz r.1), due := r.2.servedFrom pa })) ∧
  (∀ (s : State) tid t e f x pa s1, e.instr = .waitv f → s.MayLeave tid t e x pa s1 → s1.eccAt pa 4 = false →
    let r := s1.readAt t tid 0 pa 4
    let v := r.2.finishEntry tid e.id
    s.dispatchEntry tid e = (true, if ofBytes r.1 = Opnd.word e.cap.d 0 then v.parkAt tid e.pc (.granule pa) else v)) ∧
  (∀ (s : State) tid t e f x pa s1, e.instr = .stRel f → s.MayLeave tid t e x pa s1 → f.p.toNat ≠ 5 →
    let v := s1.drainThread tid
    let bs := Opnd.bytes e.cap.d x.size
    let w := (((v.drainThread tid).noteStale tid (bytesAt pa bs)).releaseTo tid f.p.toNat pa bs).accessEnergy t.tile t.ctx pa bs.length
    (v.releaseWaits tid f.p.toNat pa = false → v.roomAway pa = true → w.isAwaited t e.id = false → t.ended = false →
      s.dispatchEntry tid e = (true, w.finishEntry tid e.id)) ∧
    (v.releaseWaits tid f.p.toNat pa = true → s.dispatchEntry tid e = (false, v))) ∧
  ∀ (s : State) tid p pa, s.releaseWaits tid p pa = true ↔ 4 ≤ p ∧ ∃ r ∈ s.fabric.retry, r.2.tid = tid ∧ r.2.payload.writes = true ∧
    ∀ off, regionOf pa ≠ .fabric r.2.target off

/-- R287 to R289: the fourteen atomics enter the replay queue, the reductions with no destination; the thread's accesses wait for a
relaxed one and everything after it for an acquiring one, a releasing one follows all that its thread has issued, beyond LANE scope, and
an ordered one ends its region. R287, R288: what each atomic makes of the
word: the sum, the lesser and the greater, signed or unsigned under .U, the exchange, the logic, and CAS, which writes only where the
word equals its operand; the old value is the reply. -/
def Obligations.Atomics : Prop :=
  (let atomic (i : Instr) : Prop := Accesses i fun iss no l r u =>
     match u.thread? l.tid with
     | none => u
     | some t =>
       let v := match regionEndOf i with
         | some scope => u.regionEnd l.tid scope
         | none => u.drainThread l.tid
       let follows := match (atomOrder i).1 with
         | some p => if p = 0 then [] else u.outstanding t l.tid
         | none => []
       (v.addEntry l.tid { iss.entryFor i (destOf 0 i) (slotBit l.slot) no l with
         region := r.region, after := u.fencedBy t 7 ++ follows }).addFence l.tid
           { mask := if (atomOrder i).2 then 255 else 128, ids := [v.nextId] }
   (∀ f, atomic (.atomAdd f) ∧ atomic (.atomMin f) ∧ atomic (.atomMax f) ∧ atomic (.atomExch f) ∧ atomic (.atomAnd f) ∧
     atomic (.atomOr f) ∧ atomic (.atomXor f) ∧ atomic (.atomCas f)) ∧
   (∀ f, atomic (.redAdd f) ∧ atomic (.redMin f) ∧ atomic (.redMax f) ∧ atomic (.redAnd f) ∧ atomic (.redOr f) ∧ atomic (.redXor f)) ∧
   (∀ f, AccessTraps (.atomAdd f) ∧ AccessTraps (.atomMin f) ∧ AccessTraps (.atomMax f) ∧ AccessTraps (.atomExch f) ∧
     AccessTraps (.atomAnd f) ∧ AccessTraps (.atomOr f) ∧ AccessTraps (.atomXor f) ∧ AccessTraps (.atomCas f)) ∧
   (∀ f, AccessTraps (.redAdd f) ∧ AccessTraps (.redMin f) ∧ AccessTraps (.redMax f) ∧ AccessTraps (.redAnd f) ∧
     AccessTraps (.redOr f) ∧ AccessTraps (.redXor f)) ∧
   ∀ (f : A3Form) (c : Captured), accessOf (.atomCas f) c =
     some { off := Opnd.word c.a 0, size := 4, kind := .atomic, asWrite := false, atomic := true, hostAtomic := true }) ∧
  ((∀ old b : Word, ∀ c, atomNew .add 32 old.toNat b.toNat c = some (old + b).toNat) ∧
   (∀ u, ∀ old b : Word, ∀ c, atomNew (.min u) 32 old.toNat b.toNat c = some (if isLess u b old then b else old).toNat) ∧
   (∀ u, ∀ old b : Word, ∀ c, atomNew (.max u) 32 old.toNat b.toNat c = some (if isLess u old b then b else old).toNat) ∧
   (∀ old b : Word, ∀ c, atomNew .exch 32 old.toNat b.toNat c = some b.toNat) ∧
   (∀ old b : Word, ∀ c, atomNew .and 32 old.toNat b.toNat c = some (old &&& b).toNat) ∧
   (∀ old b : Word, ∀ c, atomNew .or 32 old.toNat b.toNat c = some (old ||| b).toNat) ∧
   (∀ old b : Word, ∀ c, atomNew .xor 32 old.toNat b.toNat c = some (old ^^^ b).toNat) ∧
   (∀ old b c : Word, atomNew .cas 32 old.toNat b.toNat c.toNat = if old = b then some c.toNat else none) ∧
   ∀ (s : State) t tid e pa, regionOf pa = .hbm ∨ regionOf pa = .slice →
     let op := memOpOf (prefixOf e.instr).et.toNat e.instr
     let args := atomArgs e.instr e.cap
     (s.atomicAt t tid e pa).1 = s.num pa 4 ∧
     (Memory.wf s.mem = true → (s.atomicAt t tid e pa).2.num pa 4 =
       ((atomNew op 32 (s.num pa 4) args.1 args.2).getD (s.num pa 4)) % 2 ^ 32) ∧
     (Memory.wf s.mem = true → ∀ k, k < pa ∨ pa + 4 ≤ k → (s.atomicAt t tid e pa).2.byte k = s.byte k))

/-- R102, R148, R287, R384: the reply of a load, of an atomic and of an acquiring load writes its destination full, but for what REFORM.X
has reset, and retires its entry, and changes nothing else; in a halted context it is discarded. R287, R318: an atomic on its way performs
at its word first, and not before the cycle to which a refresh holds its bank. R148: an entry retires from its queue, and stays DONE in a
frozen one. -/
def Obligations.RepliesComplete : Prop :=
  let replied (i : Instr) (s : State) (tid entry : Nat) (t : Thread) (e : Entry) (ws : List Word) : Prop :=
    let t' := (if e.dropped then t else t.writeKept e.dst e.lost ws).retire entry
    (s.isHalted t.ctx = false → exec i s = .next { s with threads := Map.set s.threads tid (t'.recheck s.cycle) }) ∧
    (s.isHalted t.ctx = true → exec i s = .next { s with threads := Map.set s.threads tid t })
  (∀ (s : State) tid t entry e ws, s.thread? tid = some t → t.entry? entry = some e → e.state = .flight → e.reply = some ws →
    e.due ≤ s.cycle → ((∃ f, e.instr = .ld f) ∨ ∃ f, e.instr = .ldAcq f) → replied (.loadDataArrival tid entry) s tid entry t e ws) ∧
  (∀ (s : State) tid t entry e ws, s.thread? tid = some t → t.entry? entry = some e → e.state = .flight → e.reply = some ws →
    (accessOf e.instr e.cap).any Access.atomic = true → replied (.atomReply tid entry) s tid entry t e ws) ∧
  (∀ (s : State) tid t entry e pa s1, s.thread? tid = some t → t.entry? entry = some e → e.atomicFlight = true →
    s.entryPa t e = (some pa, s1) → s1.issueEntries e.issueNo = [(tid, e)] → s1.thread? tid = some t → (s1.entryPa t e).1 = some pa →
    (e.due ≤ s1.cycle → exec (.atomicPerform tid entry) s = .next (s1.performAtomic tid e pa)) ∧
    (s1.cycle < e.due → exec (.atomicPerform tid entry) s = .next s1)) ∧
  (∀ (t : Thread) d ws, t.writeKept d [] ws = t.writeDest d ws .full) ∧
  (∀ (t : Thread) id, t.frozen = false → (t.retire id).replay = t.replay.filter fun e => e.id != id) ∧
  ∀ (t : Thread) id e, t.frozen = true → t.entry? id = some e → e.dropped = false →
    (t.retire id).replay = t.replay.map fun e => if e.id = id then { e with state := .done } else e

/-- R314, R328: a line drains once it has been untouched for 256 cycles; the sweeper clears the fields behind a region slot's counter.
R324, R325: the walker posts one record into the ring, with its address, context, kind, entry and SEQ, once record n - 512 is finished; a
record written done leaves the list, the operations parked on it go on, and no thread is touched that nothing of has parked on it. R329,
R330: the check of a parked access records it and it goes on, an access whose record does not fit raises MMX, which is counted, or its
other cause, and one that faults again is parked again. -/
def Obligations.MemoryEvents : Prop :=
  ((∀ (s : State) tile line l, (s.tile tile).lines[line]? = some l →
     exec (.combineLineIdleDrain tile line) s = .next (if l.touched + 256 ≤ s.cycle then s.drainLine tile l else s)) ∧
   (∀ (s : State) tile line, (s.tile tile).lines[line]? = none → exec (.combineLineIdleDrain tile line) s = .next s) ∧
   ∀ (s : State) slot, ∃ u, exec (.tagSweep slot) s = .next u ∧ (u.slot slot).swept = (s.slot slot).cur ∧ (u.slot slot).cur = (s.slot slot).cur ∧
     u.mem = s.mem ∧ u.threads = s.threads ∧
     (∀ x ∈ u.tags, x.2 ≠ {} ∧ ∃ t0, (x.1, t0) ∈ s.tags ∧ x.2 = t0.sweep slot (s.slot slot).cur) ∧
     ∀ g t0, Map.get? s.tags g = some t0 → t0.sweep slot (s.slot slot).cur ≠ {} → Map.get? u.tags g = some (t0.sweep slot (s.slot slot).cur)) ∧
  ((∀ (s : State), s.unposted = none → exec .faultRecordPost s = .next s) ∧
   (∀ (s : State) f, s.unposted = some f → (s.fltring.getLsbD 0 = false ∨
     (s.faults.any fun r => r.1 == (s.flttail.toNat + 2 ^ 32 - 512) % 2 ^ 32) = true) → exec .faultRecordPost s = .next s) ∧
   (∀ (s : State) f, s.unposted = some f → s.fltring.getLsbD 0 = true →
     (s.faults.any fun r => r.1 == (s.flttail.toNat + 2 ^ 32 - 512) % 2 ^ 32) = false → ∃ u, exec .faultRecordPost s = .next u ∧
       u.flttail = s.flttail + 1 ∧ u.faults = s.faults ++ [(s.flttail.toNat, f.ctx, f.va / 2 ^ f.bits, f)] ∧
       (Memory.wf s.mem = true →
         let pa := s.fltring.toNat / 2 ^ 14 % 2 ^ 38 * 2 ^ 14 + 32 * (s.flttail.toNat % 512)
         u.num pa 8 = (f.va % 2 ^ 52 + f.ctx * 2 ^ 56) % 2 ^ 64 ∧
         u.num (pa + 8) 4 = ((if f.write then 1 else 0) + (if f.fetch then 2 else 0) + (if f.engine then 4 else 0) +
           (if f.atomic then 8 else 0) + f.level * 256) % 2 ^ 32 ∧
         u.num (pa + 16) 8 = f.entry.toNat ∧ u.num (pa + 28) 4 = s.flttail.toNat)) ∧
   (∀ (s : State) v, (s.faults.find? fun r => r.1 == v.toNat % 2 ^ 32) = none → exec (.fltdoneWrite v) s = .next s) ∧
   ∀ (s : State) (v : BitVec 64) n ctx page g, (s.faults.find? fun r => r.1 == v.toNat % 2 ^ 32) = some (n, ctx, page, g) →
     let hit (f : FaultInfo) : Bool := f.ctx == ctx && f.va / 2 ^ g.bits == g.va / 2 ^ g.bits
     ∃ u, exec (.fltdoneWrite v) s = .next u ∧ (u.faults = s.faults.filter fun r => r.1 != n) ∧
       (∀ id, Map.get? u.ops id = (Map.get? s.ops id).map fun o => if o.fault.any hit then { o with fault := none } else o) ∧
       ∀ tid, (∀ x ∈ s.threads, x.1 = tid → x.2.parked.any hit = false ∧ ∀ e ∈ x.2.replay, e.state = .fault → e.fault.any hit = false) →
         Untouched s u tid) ∧
  ((∀ (s : State) tid entry, (s.thread? tid).bind (fun t => t.entry? entry) = none → exec (.raceCheckResult tid entry) s = .next s) ∧
   (∀ (s : State) tid entry t e, s.thread? tid = some t → t.entry? entry = some e →
     (e.checked = true ∨ e.state ≠ .held ∨ e.unperformed = true ∨ t.stops e = true ∨ accessOf e.instr e.cap = none) →
     exec (.raceCheckResult tid entry) s = .next s) ∧
   ∀ (s : State) tid entry t e x, s.thread? tid = some t → t.entry? entry = some e → e.checked = false → e.state = .held →
     e.unperformed = false → t.stops e = false → accessOf e.instr e.cap = some x →
     let ready (s : State) : State := s.modThread tid fun t =>
       if t.wait == .fault then t.unblock s.cycle else { t with since := s.cycle }
     (∀ r s1, s.check t x = (.ok r, s1) → exec (.raceCheckResult tid entry) s = .next (((ready s1).beforeAccess tid e.instr).modThread tid
       fun t => t.modEntry entry fun e => { e with checked := true, region := r.region })) ∧
     (∀ f s1, s.check t x = (.parked f, s1) → exec (.raceCheckResult tid entry) s =
       .next (s1.modThread tid fun t => t.modEntry entry fun e => { e with state := .fault, fault := some f })) ∧
     (∀ c info s1, s.check t x = (.trapped c info, s1) →
       let counted := if c = .mmx then s1.modCtx t.ctx fun c => { c with rdstat := mmxCount c.rdstat } else s1
       exec (.raceCheckResult tid entry) s =
         .next (((ready counted).modThread tid fun t => ({ t with replay := t.replay.filter fun e => e.id != entry } : Thread).markDest
           e.dst .trapEmpty).trapAlone tid e.slot c info e t.pc)) ∧
     ∀ s1, s.check t x = (.halted, s1) → exec (.raceCheckResult tid entry) s = .next (s1.haltUntrapped t))

/-! ## Synchronisation -/

/-- R245, R290, R323: FENCE ends the region at its scope, holds back all that follows behind all that is outstanding, at FABRIC and SYSTEM
scope what other packages have not acknowledged too, and makes the selected function-table banks active; QFENCE holds back its queues
behind the queues it names; TFENCE sends the thread's stores off and drains its lines. R291 to R293, R328: an arrival at a named barrier
ends the region at CELL scope and counts once what the thread has issued is done, in the phase that it then finds; a thread that has
arrived in the current phase waits; BAR.WAIT goes on once the phase has passed, and traps in a thread that has never arrived; the phase
completes when every thread of the cell that has not exited has arrived. -/
def Obligations.FencesAndBarriers : Prop :=
  ((∀ f t', Does (.fence f) (fun s l => (s.issuing.regionEnd l.tid (some f.p.toNat)).thread? l.tid = some t')
     fun _ _ l u =>
       let v := u.regionEnd l.tid (some f.p.toNat)
       let far := decide (4 ≤ f.p.toNat)
       let w := v.addFence l.tid { mask := 255, far := far
                                   ids := if far then v.outstandingFar t' l.tid else v.outstanding t' l.tid }
       let x := if f.p.toNat = 5 then w.flushHost l.tid t'.posted else w
       x.modThread l.tid fun t => { t with ftActive := ((u.ctx? t.ctx).map Context.ftSel).getD 0 }) ∧
   (∀ f, Does (.qfence f) (fun _ _ => True) fun _ _ l u =>
     u.addFence l.tid { mask := f.a.toNat, ids :=
       (u.ops.filter fun x => x.2.tid == l.tid && f.b.getLsbD x.2.queue && !(l.th.holdsOp x.1)).map Prod.fst }) ∧
   (∀ f, Does (.tfence f) (fun _ _ => True) fun _ _ l u => (u.dispatchThread l.tid).drainThread l.tid) ∧
   (∀ (s : State) tid t f, s.thread? tid = some t → s.addFence tid f = { s with
     threads := Map.set s.threads tid { t with fences :=
       (t.fences.filter fun g => g.ids.any fun o => s.unfinished t o) ++ if f.ids = [] then [] else [f] } }) ∧
   ∀ (s : State) (t : Thread) tid f o, f ∈ t.fences → o ∈ f.ids → s.unfinished t o = true →
     (f.mask / 2 ^ 7 % 2 = 1 → ∀ i, o ∈ s.mustPrecede t tid i) ∧ ∀ q, f.mask / 2 ^ q % 2 = 1 → o ∈ s.mustFollow t tid q) ∧
  ((∀ f, Does (.barArrive f) (fun s l => s.hasArrived l.th f.n.toNat = false) fun _ _ l u => u.barArrive l.tid f.n.toNat) ∧
   (∀ f, Does (.barArrive f) (fun s l => s.hasArrived l.th f.n.toNat = true) fun s _ l u =>
     u.leaveAs l.tid (.again (.bar f.n.toNat (s.namedBar l.th f.n.toNat).phase))) ∧
   (∀ f, Raises (.barWait f) (fun _ l => Map.get? l.th.arrived f.n.toNat = none ∧ ∀ a ∈ l.th.arriving, a.named ≠ some f.n.toNat)
     .illeg fun _ _ => 0) ∧
   (∀ f, Does (.barWait f) (fun s l => s.hasArrived l.th f.n.toNat = true) fun s _ l u =>
     u.leaveAs l.tid (.again (.bar f.n.toNat (s.namedBar l.th f.n.toNat).phase))) ∧
   (∀ f p, Does (.barWait f) (fun s l => Map.get? l.th.arrived f.n.toNat = some p ∧ p ≠ (s.namedBar l.th f.n.toNat).phase ∧
     ∀ a ∈ l.th.arriving, a.named ≠ some f.n.toNat) fun _ _ l u => u.regionEnd l.tid none) ∧
   (∀ f, Does (.barSync f) (fun s l => s.hasArrived l.th f.n.toNat = true) fun s _ l u =>
     u.leaveAs l.tid (.again (.bar f.n.toNat (s.namedBar l.th f.n.toNat).phase))) ∧
   (∀ f, Does (.barSync f) (fun s l => s.hasArrived l.th f.n.toNat = false) fun s iss l u =>
     let n := f.n.toNat
     let v := u.barArrive l.tid n
     if ((v.thread? l.tid).map fun t => v.hasArrived t n).getD false then
       v.modThread l.tid fun t => { t.block (.bar n (s.namedBar l.th n).phase) with next := some iss.cur.pc }
     else v) ∧
   (∀ (s : State) tid n t, let v := s.regionEnd tid (some 1); v.thread? tid = some t → t.arriving = [] →
     let now := { t with arrived := Map.set t.arrived n (v.namedBar t n).phase }
     (v.outstanding t tid = [] → s.barArrive tid n = ({ v with threads := Map.set v.threads tid now } : State).countArrival t.cell n) ∧
     ((∃ o ∈ v.outstanding t tid, v.unfinished t o = true) → s.barArrive tid n = { v with
       threads := Map.set v.threads tid { now with arriving := [{ named := some n, after := v.outstanding t tid }] } })) ∧
   (∀ (b : NamedBar) k, (b.arrivals < k → b.test k = b) ∧
     (k ≤ b.arrivals → b.arrivals ≠ 0 → b.test k = { phase := b.phase + 1, arrivals := 0 })) ∧
   ∀ (s : State) cell n c, Map.get? s.cells cell = some c →
     ((s.countArrival cell n).cells = Map.set s.cells cell { c with bars := Map.mapAll (Map.set c.bars n
       { Map.getD c.bars n {} with arrivals := (Map.getD c.bars n {}).arrivals + 1 }) fun _ b => b.test (s.expected cell) }) ∧
     (s.trace.ctl.getLsbD 31 = false → s.countArrival cell n = { s with cells := (s.countArrival cell n).cells }))

/-- R238, R294 to R296: ABAR.INIT arms a barrier with a count and clears its status; ABAR.ARRIVE lowers it behind all the thread has
issued; ABAR.WAIT delivers the status when the armed count is zero and else waits; ABAR.TEST answers without waiting. R157, R296: an
arrival at a barrier lowers its count; for a cell whose allocation is out with its context, one at a barrier of cell scope waits on the
cell's home tile; one through an index that names no barrier does nothing. -/
def Obligations.AsynchronousBarriers : Prop :=
  ((∀ f s iss l pa s1, Solo s iss (.abarInit f) l → barrierOf l f.o.toNat rightW .write { s with nextId := s.nextId + 1 } = .ok (pa, s1) →
     s1.issue = s.issue → exec (.abarInit f) s = .next (((s1.drainThread l.tid).writeBarrier l.tid pa 16 (2 ^ 63 + l.a)).settled s.nextId)) ∧
   (∀ f s iss l pa s1, Solo s iss (.abarArrive f) l → barrierOf l f.o.toNat rightW .write { s with nextId := s.nextId + 1 } = .ok (pa, s1) →
     s1.issue = s.issue →
     exec (.abarArrive f) s = .next (((s1.regionEnd l.tid (some 3)).arriveAfter l.tid { pa := pa, index := f.o.toNat, units := l.a }).settled s.nextId)) ∧
   (∀ f s iss l pa s1 v s2, Solo s iss (.abarWait f) l → barrierOf l f.o.toNat rightR .read { s with nextId := s.nextId + 1 } = .ok (pa, s1) →
     readBarrier l pa 16 s1 = .ok (v, s2) → s2.issue = s.issue →
     (v / 2 ^ 63 % 2 = 1 → v % 2 ^ 48 = 0 → exec (.abarWait f) s = .next (((s2.modThread l.tid fun t =>
       t.writeDest (vDest f.r) [BitVec.ofNat 32 (v / 2 ^ 64)] .full).regionEnd l.tid none).settled s.nextId)) ∧
     ((v / 2 ^ 63 % 2 = 0 ∨ v % 2 ^ 48 ≠ 0) →
       exec (.abarWait f) s = .next ((s2.leaveAs l.tid (.again (.abar f.o.toNat))).settled s.nextId))) ∧
   (∀ f s iss l pa s1 v s2, Solo s iss (.abarTest f) l → barrierOf l f.o.toNat rightR .read { s with nextId := s.nextId + 1 } = .ok (pa, s1) →
     readBarrier l pa 8 s1 = .ok (v, s2) → s2.issue = s.issue →
     let done (b : Bool) : State := s2.modThread l.tid fun t => t.writeDest (vDest f.r) [if b then 1 else 0] .full
     (v / 2 ^ 63 % 2 = 1 → v % 2 ^ 48 = 0 → exec (.abarTest f) s = .next (((done true).regionEnd l.tid none).settled s.nextId)) ∧
     ((v / 2 ^ 63 % 2 = 0 ∨ v % 2 ^ 48 ≠ 0) → exec (.abarTest f) s = .next ((done false).settled s.nextId))) ∧
   (∀ v u, v / 2 ^ 63 % 2 = 1 → u ≤ v % 2 ^ 48 → v < 2 ^ 64 → v / 2 ^ 48 % 2 ^ 14 = 0 → lowered v u = v - u) ∧
   ∀ v u, v / 2 ^ 63 % 2 = 1 → v % 2 ^ 48 < u → lowered v u = 2 ^ 63 + 2 ^ 62) ∧
  ((∀ (s : State) ctx cell index units o pa s1, (Map.get? s.cells cell).isSome → findBarrier ctx cell index s = .ok ((o, pa), s1) →
     exec (.abarArrivalPerform ctx cell index units) s = .next (s1.lowerBarrier 0 ctx index pa units)) ∧
   (∀ (s : State) ctx cell index units x, (Map.get? s.cells cell).isSome → findBarrier ctx cell index s = .error x →
     exec (.abarArrivalPerform ctx cell index units) s = .next s) ∧
   (∀ (s : State) ctx cell index units o pa s1, Map.get? s.cells cell = none → findBarrier ctx cell index (s.withSaved cell) = .ok ((o, pa), s1) →
     (Obj.scope o = 1 → s.isOut cell = true → exec (.abarArrivalPerform ctx cell index units) s = .next (s.holdUpdate cell
       { ctx := ((s.anyCell cell).map Cell.ctx).getD ctx, cell := cell, index := index, arrival := some (Obj.base o, units, 0) })) ∧
     (Obj.scope o ≠ 1 ∨ s.isOut cell = false →
       exec (.abarArrivalPerform ctx cell index units) s = .next (s.lowerBarrier 0 ctx index pa units))) ∧
   (∀ (s : State) ctx cell index units x, Map.get? s.cells cell = none → findBarrier ctx cell index (s.withSaved cell) = .error x →
     exec (.abarArrivalPerform ctx cell index units) s = .next s) ∧
   ∀ (s : State) ctx cell index o s1 pa s2,
     checkEntry (((s.anyCell cell).map Cell.tile).getD 0) ctx index [.barrier] 0 s = .ok (o, s1) →
     Op.reach { tid := 0, ctx := ctx, cell := cell, tile := ((s.anyCell cell).map Cell.tile).getD 0, queue := 7
                instr := .faultRecordPost, privileged := s.privileged ctx } o 0 .write s1 = .ok (pa, s2) →
     findBarrier ctx cell index s = .ok ((o, pa), s2))

/-- R297 to R300: QPUSH reserves the next position of its ring for the record, or waits where the ring is full; a closed ring is RIGHTS;
QPOP reserves the next position and has an entry that everything after it waits for; QCOUNT reads the counters; QCLOSE closes once the
thread's own pushes, on whatever queue, are in. R297 to
R300: a record is committed in its slot once what its pusher issued earlier is done; a pop of a committed position delivers the record,
in order, and a pop beyond the end of a closed queue the end marker; DONE passes what is committed without a gap. -/
def Obligations.RingQueues : Prop :=
  ((∀ f s iss l o s1 pa s2, Solo s iss (.qpush f) l → ringOf l f.q.toNat rightW { s with nextId := s.nextId + 1 } = .ok (o, s1) →
     let n := Obj.recordWords o
     let src := vRun 0 f.a n false false
     let r := s1.ring l.th.launch o.1
     f.a.toNat + n ≤ l.th.vregs → emptyCause [src] (l.th.capture [src]) = none → r.closed = false → s1.issue = s.issue →
     (Obj.slots o ≤ r.tail - r.freed →
       exec (.qpush f) s = .next ((s1.leaveAs l.tid (.again (.ringRoom o.1))).settled s.nextId)) ∧
     (r.tail - r.freed < Obj.slots o → slotPa l o r.tail .write s1 = .ok (pa, s2) → s2.issue = s.issue →
       let v := s2.regionEnd l.tid (some 3)
       exec (.qpush f) s = .next ((v.setRing { r with
         tail := r.tail + 1
         times := if r.head ≤ r.tail then Map.set r.times r.tail v.cycle else r.times
         inflight := r.inflight ++ [{ pos := r.tail, pa := pa, words := (l.th.read src).map Prod.fst, tid := l.tid
                                      after := ((v.thread? l.tid).map fun t => v.outstanding t l.tid ++ v.fencedBy t 7).getD [] }]
       }).settled s.nextId))) ∧
   (∀ f s iss l o s1, Alone s iss (.qpush f) l → emptyCause (staticSources (.qpush f)) l.cap = none →
     uninitCause (staticSources (.qpush f)) l.cap = none →
     ringOf l f.q.toNat rightW { s with nextId := s.nextId + 1 } = .ok (o, s1) →
     let src := vRun 0 f.a (Obj.recordWords o) false false
     f.a.toNat + Obj.recordWords o ≤ l.th.vregs → emptyCause [src] (l.th.capture [src]) = none →
     (s1.ring l.th.launch o.1).closed = true → Stopped s iss (.qpush f) l .rights (o.1 + 2 ^ 17)) ∧
   (∀ f s iss l o s1 pa s2, Solo s iss (.qpop f) l → ringOf l f.q.toNat rightR { s with nextId := s.nextId + 1 } = .ok (o, s1) →
     let n := Obj.recordWords o
     let r := s1.ring l.th.launch o.1
     f.d.toNat + n ≤ l.th.vregs → slotPa l o r.head .read s1 = .ok (pa, s2) → s2.issue = s.issue →
     exec (.qpop f) s = .next ((((s2.addEntry l.tid { iss.entryFor (.qpop f) (vDests f.d n) (slotBit l.slot) s.nextId l with
       reply := some (numWords (r.head + pa * 2 ^ 64 + o.1 * 2 ^ 128) 5) }).setRing
         { r with head := r.head + 1, times := Map.del r.times r.head }).addFence l.tid { mask := 255, ids := [s2.nextId] }).settled
           s.nextId)) ∧
   (∀ f s iss l o s1, Solo s iss (.qcount f) l → ringOf l f.q.toNat 0 { s with nextId := s.nextId + 1 } = .ok (o, s1) → s1.issue = s.issue →
     exec (.qcount f) s = .next ((s1.modThread l.tid fun t =>
       t.writeDest (vDest f.d) [BitVec.ofNat 32 (s1.ring t.launch o.1).counts] .full).settled s.nextId)) ∧
   ∀ f s iss l o s1, Solo s iss (.qclose f) l → ringOf l f.q.toNat rightW { s with nextId := s.nextId + 1 } = .ok (o, s1) →
     s1.issue = s.issue →
     let pushing := s1.rings.any fun r => r.inflight.any fun p => p.tid == l.tid
     exec (.qclose f) s = .next ((if pushing then s1.leaveAs l.tid (.again .earlier)
       else s1.setRing { s1.ring l.th.launch o.1 with closed := true }).settled s.nextId)) ∧
  ((∀ (s : State) queue pos r p, s.rings[queue]? = some r → (r.inflight.find? fun p => p.pos == pos) = some p →
     (∀ t, s.thread? p.tid = some t → ∀ o ∈ p.after, s.unfinished t o = false) →
     let bs := p.words.flatMap fun w => toBytes 4 w.toNat
     exec (.qpushCommit queue pos) s = .next (((s.perform p.tid (bytesAt p.pa bs)).resetTags (s.localPa p.pa) bs.length).setRing
       ({ r with inflight := r.inflight.filter (fun x => x.pos != pos), committed := pos :: r.committed }.advance
         (r.committed.length + 1)))) ∧
   (∀ (s : State) queue pos r p t o, s.rings[queue]? = some r → (r.inflight.find? fun p => p.pos == pos) = some p →
     s.thread? p.tid = some t → o ∈ p.after → s.unfinished t o = true → exec (.qpushCommit queue pos) s = .next s) ∧
   (∀ (s : State) tid t entry e f k pa obj, s.thread? tid = some t → t.entry? entry = some e → e.instr = .qpop f → e.state = .flight →
     k < 2 ^ 64 → pa < 2 ^ 64 → wordsNum (e.reply.getD []) = k + pa * 2 ^ 64 + obj * 2 ^ 128 →
     let r := s.ring t.launch obj
     (k < r.done → k ≠ r.freed → exec (.qpopReply tid entry) s = .next s) ∧
     (k < r.done → k = r.freed →
       let b := s.readAt t tid 0 (s.localPa pa) (4 * e.dst.count)
       exec (.qpopReply tid entry) s = .next (((b.2.setRing { r with freed := r.freed + 1 }).completeEntry tid entry
         (numWords (ofBytes b.1) e.dst.count)).regionEnd tid none)) ∧
     (r.done ≤ k → r.closed = true → r.done = r.tail → exec (.qpopReply tid entry) s = .next
       ((s.completeEntry tid entry (List.replicate e.dst.count 0xFFFFFFFF)).regionEnd tid none)) ∧
     (r.done ≤ k → r.closed = false → exec (.qpopReply tid entry) s = .next s)) ∧
   ∀ (r : Ring) n, (∀ k, r.done ≤ k → k < (r.advance n).done → k ∈ r.committed) ∧ r.done ≤ (r.advance n).done)

/-- R255, R256: CVDECL gives a convergence register its count, is no effect where it has it, and ILLEG while an operation is open on a
register with another count. R256: a signature joins its thread's next operation on the register; the set is complete with the count of
the register, and takes its operands from all the signatures, in the order in which they were made. -/
def Obligations.ConvergenceSets : Prop :=
  ((∀ f, Does (.cvdecl f) (fun s l => (s.cvOf l.th f.n.toNat).count ≠ f.k.toNat + 1 ∧ (s.cvOf l.th f.n.toNat).opens = [])
     fun s _ l u => u.setCv l.th.cell f.n.toNat { s.cvOf l.th f.n.toNat with count := f.k.toNat + 1 }) ∧
   (∀ f, Does (.cvdecl f) (fun s l => (s.cvOf l.th f.n.toNat).count = f.k.toNat + 1) fun _ _ _ u => u) ∧
   ∀ f, Raises (.cvdecl f) (fun s l => (s.cvOf l.th f.n.toNat).count ≠ f.k.toNat + 1 ∧ (s.cvOf l.th f.n.toNat).opens ≠ [])
     .illeg fun _ _ => 0) ∧
  (∀ (s : State) tid id i t op, s.thread? tid = some t → Map.get? s.ops id = some op → (∀ f, i ≠ .mseq f) →
     ∀ c, Map.get? s.cells t.cell = some c →
     let n := cvName i
     let v := s.cvOf t n
     let o := (v.opens.find? fun o => o.k == t.signedOn n).getD { k := t.signedOn n, instr := i }
     let u := s.joinSet tid id i
     u.thread? tid = some { t with signed := Map.set t.signed n (t.signedOn n + 1) } ∧
     (o.signers.length + 1 < v.count →
       u.ops = s.ops ∧ ((u.cvOf t n).opens.find? fun o => o.k == t.signedOn n) = some { o with signers := o.signers ++ [id] }) ∧
     (v.count ≤ o.signers.length + 1 →
       ((u.cvOf t n).opens.find? fun o => o.k == t.signedOn n) = none ∧
       Map.get? u.ops id = some { op with
         signers := o.signers ++ [id]
         after := (o.signers ++ [id]).flatMap fun g => ((Map.get? s.ops g).map Op.after).getD []
         nbv := (((s.ctx? t.ctx).map fun c => c.nbv == 1).getD false) }) ∧
     u = { s with threads := u.threads, cells := u.cells, ops := u.ops })

/-! ## Engines -/

/-- R235 to R238: the checks of an object-table entry come in their order: the index, what the entry holds, its kind, its rights, each with
its TFINFO. -/
def Obligations.ObjectChecks : Prop :=
  (∀ (s : State) tile ctx idx kinds rights c, s.ctx? ctx = some c → c.otcount.toNat % 2 ^ 17 ≤ idx →
    checkEntry tile ctx idx kinds rights s = .error (.trap .bounds idx)) ∧
  (∀ (s : State) tile ctx idx kinds rights o s1, readEntry tile ctx idx s = .ok (o, s1) → Obj.holds o = false →
    checkEntry tile ctx idx kinds rights s = .error (.trap .bounds idx)) ∧
  (∀ (s : State) tile ctx idx kinds rights o s1 k, readEntry tile ctx idx s = .ok (o, s1) → Obj.holds o = true → Obj.kind? o = some k →
    k ∉ kinds → checkEntry tile ctx idx kinds rights s = .error (.trap .rights idx)) ∧
  (∀ (s : State) tile ctx idx kinds rights o s1 k, readEntry tile ctx idx s = .ok (o, s1) → Obj.holds o = true → Obj.kind? o = some k →
    k ∈ kinds → rights &&& (63 - Obj.rights o) ≠ 0 →
    checkEntry tile ctx idx kinds rights s = .error (.trap .rights (idx + (rights &&& (63 - Obj.rights o)) * 2 ^ 16))) ∧
  ∀ (s : State) tile ctx idx kinds rights o s1 k, readEntry tile ctx idx s = .ok (o, s1) → Obj.holds o = true → Obj.kind? o = some k →
    k ∈ kinds → rights &&& (63 - Obj.rights o) = 0 → checkEntry tile ctx idx kinds rights s = .ok (o, s1)

/-- R148, R199, R244, R245, R328, R336: an engine word that passes its checks puts one operation into its thread's queue, behind what the
queue holds that no freeze holds back and what the thread's fences name, and one entry into its replay queue; an operation of the Anvil is
its home tile's; its thread's region ends; no other operation changes. -/
def Obligations.EngineSubmission : Prop :=
  ∀ iss i l no q objs args bytes (s : State) id s', submit iss i l no q objs args bytes s = .ok (id, s') →
    ∃ t, s.thread? l.tid = some t ∧
      let v := s.regionEnd l.tid (some (if q = 6 then 4 else 3))
      let waits := ((v.queued l.tid q).filter fun x => !t.holdsOp x.1).map Prod.fst
      id = v.nextId ∧ s'.nextId = id + 2 ∧
      (∃ op, Map.get? s'.ops id = some op ∧ op.tid = l.tid ∧ op.ctx = t.ctx ∧ op.cell = t.cell ∧ op.queue = q ∧ op.instr = i ∧
        op.tile = (if anvilWord i then v.homeTile t else t.tile) ∧
        op.args = args ∧ op.objs = objs ∧ op.bytes = bytes ∧ op.privileged = v.privileged t.ctx ∧ op.signers = [] ∧ op.progress = 0 ∧
        op.performed = false ∧ op.fault = none ∧ op.after = waits ++ v.fencedBy t q) ∧
      (∀ k, k ≠ id → Map.get? s'.ops k = Map.get? v.ops k) ∧
      (∀ u, v.thread? l.tid = some u → s'.thread? l.tid = some { u.markDest (destOf 0 i) .empty with
        replay := u.replay ++ [{ iss.entryFor i (destOf 0 i) (slotBit l.slot) no l with op := some id, id := id + 1 }] }) ∧
      (∀ k, k ≠ l.tid → s'.thread? k = v.thread? k) ∧
      s' = { v with ops := s'.ops, threads := s'.threads, nextId := s'.nextId }

/-- R175 to R189, R204 to R211: the words of tq: TRACE, TRACEA, the texture words, and the film and visibility words, check their
objects and their footprints in order, and the film and visibility words their updates for races, and then enter tq; what they find wrong
they raise. R247 to R253: the words of the Caster: the copies check both objects, their counts and the barrier's footprint; the weight loads
and the table load are words of the Anvil and name a slot below 32. Each word completes wherever its checks pass. -/
def Obligations.TraversalUnitAndCasterWords : Prop :=
  (let both (i : Instr) (w : Issue → Nat → Lane → Work Unit) : Prop := Acts i w ∧ WorkTraps i w
   let traversal (i : Instr) (f : TraceForm) (iss : Issue) (no : Nat) (l : Lane) : Work Unit := do
     let h ← checkEntry l.th.tile l.th.ctx (f.obj.getD 0).toNat [.hier] rightR
     let n ← checkEntry l.th.tile l.th.ctx (Obj.hierNodes h) [.buffer] rightR
     checkFootprint l.th.cell n 0 (Obj.field n 0x10 8)
     let _ ← submit iss i l no 5 [h, n] l.cap.words 0
   let traverses (i : Instr) (f : TraceForm) : Prop := ∀ (s : State) iss l h s1 n s2, Solo s iss i l →
     Checks s.issuing l (f.obj.getD 0).toNat [.hier] rightR h s1 → Checks s1 l (Obj.hierNodes h) [.buffer] rightR n s2 →
     Fits s2 l n 0 (Obj.field n 0x10 8) → Enters s iss i l s2 5 [h, n] l.cap.words 0
   let texture (i : Instr) (f : StexForm) (shape : Obj → Bool) (iss : Issue) (no : Nat) (l : Lane) : Work Unit := do
     let t ← checkEntry l.th.tile l.th.ctx (f.obj.getD 0).toNat [.spectral] rightT
     let b ← checkEntry l.th.tile l.th.ctx (Obj.texels t) [.buffer] rightR
     Work.within (Obj.spectralOk t && shape t) t.1
     checkFootprint l.th.cell b 0 (Obj.texelBytes t)
     let _ ← submit iss i l no 5 [t, b] l.cap.words 0
   let fetches (i : Instr) (f : StexForm) (shape : Obj → Bool) : Prop := ∀ (s : State) iss l t s1 b s2, Solo s iss i l →
     Checks s.issuing l (f.obj.getD 0).toNat [.spectral] rightT t s1 → Checks s1 l (Obj.texels t) [.buffer] rightR b s2 →
     Obj.spectralOk t = true → shape t = true → Fits s2 l b 0 (Obj.texelBytes t) → Enters s iss i l s2 5 [t, b] l.cap.words 0
   let film (s : State) (l : Lane) (idx rights : Nat) (o : Obj) (s1 : State) : Prop :=
     Checks s l idx [.film] rights o s1 ∧ Obj.filmOk o = true ∧ Fits s1 l o 0 (Obj.filmPixels o * Obj.filmBins o * 8)
   let visible (s : State) (l : Lane) (idx rights : Nat) (v b : Obj) (s2 : State) : Prop :=
     ∃ s1, Checks s l idx [.visbuf] 0 v s1 ∧ Checks s1 l (Obj.visStore v) [.buffer] rights b s2 ∧ Obj.visOk v = true ∧
       Fits s2 l b 0 (16 * Obj.visCount v)
   (∀ f, both (.trace f) (traversal (.trace f) f) ∧ traverses (.trace f) f) ∧
   (∀ f, both (.tracea f) (traversal (.tracea f) f) ∧ traverses (.tracea f) f) ∧
   (∀ f, both (.stex f) (texture (.stex f) f fun _ => true) ∧ fetches (.stex f) f fun _ => true) ∧
   (∀ f, both (.stexup f) (texture (.stexup f) f Obj.isGrid) ∧ fetches (.stexup f) f Obj.isGrid) ∧
   (∀ f, both (.scmf f) (texture (.scmf f) f Obj.isMatching) ∧ fetches (.scmf f) f Obj.isMatching) ∧
   (∀ f, both (.filmAdd f) (filmAddWork f)) ∧ (∀ f, both (.filmRd f) (filmRdWork f)) ∧
   (∀ f, both (.rast f) (rastWork f)) ∧ (∀ f, both (.visrd f) (visrdWork f)) ∧
   (∀ f (s : State) iss l o s1 s2, Solo s iss (.filmAdd f) l → film s.issuing l (f.obj.getD 0).toNat rightW o s1 →
     l.a < Obj.filmPixels o →
     ((filmDeposits o (l.cap.words.map BitVec.toNat)).forM fun x => l.checkUpdate o (Obj.channel o l.a x.1) 8 true) s1 = .ok ((), s2) →
     Enters s iss (.filmAdd f) l s2 5 [o] l.cap.words 0) ∧
   (∀ f (s : State) iss l o s1 s2, Solo s iss (.filmRd f) l → film s.issuing l (f.obj.getD 0).toNat rightR o s1 →
     l.a < Obj.filmPixels o → l.b < Obj.filmBins o → l.checkUpdate o (Obj.channel o l.a l.b) 8 false s1 = .ok ((), s2) →
     Enters s iss (.filmRd f) l s2 5 [o] l.cap.words 0) ∧
   (∀ f (s : State) iss l p s1 r s2 v b s3 s4, Solo s iss (.rast f) l → Checks s.issuing l (f.obj.getD 0).toNat [.primb] rightR p s1 →
     Checks s1 l (Obj.primRecords p) [.buffer] rightR r s2 → 1 ≤ Obj.primCount p → Obj.primCount p ≤ 2 ^ 24 →
     Fits s2 l r 0 (48 * Obj.primCount p) → visible s2 l (Obj.primTarget p) rightW v b s3 → l.a + l.b ≤ Obj.primCount p →
     l.checkRast (.rast f) r v b l.a l.b s3 = .ok ((), s4) → Enters s iss (.rast f) l s4 5 [r, v, b] l.cap.words 0) ∧
   ∀ f (s : State) iss l v b s1 s2, Solo s iss (.visrd f) l → visible s.issuing l (f.obj.getD 0).toNat rightR v b s1 →
     l.a < Obj.visWidth v * Obj.visHeight v → l.b < Obj.visSamples v →
     l.checkUpdate b (16 * (l.a * Obj.visSamples v + l.b)) 16 false s1 = .ok ((), s2) → Enters s iss (.visrd f) l s2 5 [v, b] l.cap.words 0) ∧
  (let copies (i : Instr) (f : CastForm) : Prop := ∀ (s : State) iss l src s1 dst s2 n, Solo s iss i l →
     Checks s.issuing l (f.obj.getD 0).toNat copyKinds (rightR + rightC) src s1 → Checks s1 l f.o.toNat copyKinds (rightW + rightC) dst s2 →
     Obj.count? src = some n → Obj.count? dst = some n → Fits s2 l src 0 (Obj.span src) → Fits s2 l dst 0 (Obj.span dst) →
     (∀ w, castWidth i = some w → Obj.bits src = w ∧ Obj.bits dst = w ∧ Obj.transposable src = true) →
     (f.v = 0 → Enters s iss i l s2 f.q.toNat [src, dst] l.cap.words ((n * Obj.bits dst + 7) / 8)) ∧
     ∀ b s3, f.v ≠ 0 → l.a < 2 ^ 16 → Checks s2 l l.a [.barrier] rightW b s3 → Fits s3 l b 0 16 →
       Enters s iss i l s3 f.q.toNat [src, dst, b] l.cap.words ((n * Obj.bits dst + 7) / 8)
   let loads (i : Instr) (cb3 : Bool) (f : CastwForm) (bytes : Obj → Nat → Nat) (ok : State → Lane → Obj → Prop) : Prop :=
     ∀ (s : State) iss l v src s1, Solo s iss i l → Claimed s iss l v → castwLegal l.a = true →
     Checks v l (f.obj.getD 0).toNat (if cb3 then [.buffer] else copyKinds) (rightR + rightC) src s1 → ok s1 l src →
     ∃ id u, submit iss i l s.nextId f.q.toNat [src] l.cap.words (bytes src (castwCols l.a)) s1 = .ok (id, u) ∧
       exec i s = .next ((u.stampSlot l.th (castwSlot l.a) (if cb3 then stampCb3 else Obj.fmtCode src)).goesOn iss s.nextId)
   (∀ f, Acts (.cast f) (castWork (.cast f) f) ∧ WorkTraps (.cast f) (castWork (.cast f) f) ∧ copies (.cast f) f) ∧
   (∀ f, Acts (.castT8 f) (castWork (.castT8 f) f) ∧ WorkTraps (.castT8 f) (castWork (.castT8 f) f) ∧ copies (.castT8 f) f) ∧
   (∀ f, Acts (.castT16 f) (castWork (.castT16 f) f) ∧ WorkTraps (.castT16 f) (castWork (.castT16 f) f) ∧ copies (.castT16 f) f) ∧
   (∀ f, ActsOnAnvil (.castw f) (castwWork (.castw f) false f) ∧ TrapsOnAnvil (.castw f) (castwWork (.castw f) false f) ∧
     loads (.castw f) false f (fun o n => 16 * Obj.bits o * n) fun s l o => Obj.count? o = some (castwCols l.a * 128) ∧
       Fits s l o 0 (Obj.span o) ∧ weightFormat (Obj.fmtCode o) = true) ∧
   (∀ f, ActsOnAnvil (.castwCb3 f) (castwWork (.castwCb3 f) true f) ∧ TrapsOnAnvil (.castwCb3 f) (castwWork (.castwCb3 f) true f) ∧
     loads (.castwCb3 f) true f (fun _ n => 48 * n) fun s l o => Fits s l o 0 (48 * castwCols l.a)) ∧
   (∀ f, ActsOnAnvil (.casttab f) (casttabWork f) ∧ TrapsOnAnvil (.casttab f) (casttabWork f)) ∧
   (∀ f (s : State) iss l v src s1, Solo s iss (.casttab f) l → Claimed s iss l v → casttabLegal l.a = true →
     Checks v l (f.obj.getD 0).toNat [.buffer] (rightR + rightC) src s1 → Fits s1 l src l.b 16 →
     Enters s iss (.casttab f) l s1 f.q.toNat [src] l.cap.words 16) ∧
   (∀ v, castwLegal v = true ↔ v < 2 ^ 24 ∧ v / 2 ^ 8 % 256 = 0 ∧ v / 2 ^ 16 < 32 ∧ 1 ≤ v % 256 ∧ v % 256 ≤ 128) ∧
   ∀ v, casttabLegal v = true ↔ v / 2 ^ 16 < 32 ∧ v / 2 ^ 10 % 64 = 0 ∧ v.testBit 7 = false)

/-- R250, R256 to R262: the words of aq that sign a convergence set each check what they name and then sign, wherever they find nothing
wrong; with no count declared they are ILLEG. -/
def Obligations.AnvilWords : Prop :=
  let both (i : Instr) (w : Issue → Nat → Lane → Work Unit) : Prop := ActsOnAnvil i w ∧ TrapsOnAnvil i w
  let whole (i : Instr) (idx rights : Nat) (ok : Obj → Bool) : Prop := both i (accWork i idx rights ok) ∧
    ∀ (s : State) iss l v o s1, Solo s iss i l → Claimed s iss l v → MaySign v l i → Checks v l idx copyKinds rights o s1 →
      Obj.count? o = some 16384 → Fits s1 l o 0 (Obj.span o) → ok o = true → Signs s iss i l s1 [o] []
  let bare (i : Instr) (args : Lane → List Word) : Prop := ∀ (s : State) iss l v, Solo s iss i l → Claimed s iss l v → MaySign v l i →
    Signs s iss i l v [] (args l)
  let product (i : Instr) (a : Nat) (scales : Bool) : Prop := ∀ (s : State) iss l v ao s1 bo s2 so s3, Solo s iss i l →
    Claimed s iss l v → MaySign v l i → Checks v l a [.tile] rightA ao s1 → Obj.rows ao ≤ 128 →
    (match bOperand l.b with
      | none => False
      | some (.inl n) => bo = [] ∧ s2 = s1 ∧ Obj.cols ao ≤ 128 ∧
        ∃ st, (v.weightSlot (v.homeTile l.th) n).fmt = some st ∧ fmtPair (Obj.fmt ao) (stampFmt st) = true
      | some (.inr n) => ∃ o, bo = [o] ∧ Checks s1 l n [.tile] rightA o s2 ∧ Obj.cols o ≤ 128 ∧ Obj.rows o = Obj.cols ao ∧
        fmtPair (Obj.fmt ao) (Obj.fmt o) = true) →
    (if scales then ∃ x y s', so = [x, y] ∧ Checks s2 l (l.c % 2 ^ 16) [.scale] rightA x s' ∧ Checks s' l (l.c / 2 ^ 16) [.scale] rightA y s3 ∧
        Obj.rows ao ≤ Obj.rows x ∧ (Obj.cols ao + 127) / 128 ≤ Obj.cols x ∧ (Obj.cols ao + 127) / 128 ≤ Obj.cols y ∧
        (Obj.fmt ao).scalable = true
      else so = [] ∧ s3 = s2) →
    (∀ o ∈ ao :: bo ++ so, Fits s3 l o 0 (Obj.span o)) → Signs s iss i l s3 (ao :: bo ++ so) l.cap.words
  (∀ f, both (.mma f) (mmaWork (.mma f) (f.obj.getD 0).toNat false) ∧ product (.mma f) (f.obj.getD 0).toNat false) ∧
  (∀ f, both (.mmas f) (mmaWork (.mmas f) (f.obj.getD 0).toNat true) ∧ product (.mmas f) (f.obj.getD 0).toNat true) ∧
  (∀ f, both (.accz f) (fun iss no l => do maySign (.accz f) l; sign (.accz f) iss no l [] []) ∧ bare (.accz f) fun _ => []) ∧
  (∀ f, whole (.accld f) (f.obj.getD 0).toNat rightR fun o => [0, 1, 8].contains (Obj.fmtCode o)) ∧
  (∀ f, whole (.accst f) (f.obj.getD 0).toNat rightW fun _ => true) ∧
  (∀ f, whole (.accstAdd f) (f.obj.getD 0).toNat (rightR + rightW) fun _ => true) ∧
  (∀ f, both (.accrd f) (fun iss no l => do maySign (.accrd f) l; sign (.accrd f) iss no l [] l.cap.words) ∧
    bare (.accrd f) fun l => l.cap.words) ∧
  (∀ f, both (.mseq f) (mseqWork f)) ∧
  (∀ f (s : State) iss l v plan s1 p s2 a s3 b s4 c s5 sa s6 sb s7 bar s8, Solo s iss (.mseq f) l → Claimed s iss l v →
    MaySign v l (.mseq f) → Checks v l (f.obj.getD 0).toNat [.buffer] rightR plan s1 → Fits s1 l plan 0 64 →
    l.readObj plan 0 64 s1 = .ok (p, s2) →
    let kdims := planField p 0x0C 1
    let flags := planField p 0x0D 1
    Checks s2 l (planField p 0 2) [.tensor] rightC a s3 → Checks s3 l (planField p 2 2) [.tensor] rightC b s4 →
    Checks s4 l (planField p 4 2) [.tensor] (rightW + if flags % 2 = 1 then rightR else 0) c s5 →
    Checks s5 l (planField p 6 2) [.tile] (rightW + rightA) sa s6 → Checks s6 l (planField p 8 2) [.tile] (rightW + rightA) sb s7 →
    (if flags / 8 % 2 = 1 then ∃ o, bar = [o] ∧ Checks s7 l (planField p 0x0A 2) [.barrier] rightW o s8 ∧ Fits s8 l o 0 16
      else bar = [] ∧ s8 = s7) →
    let sh := mseqShape kdims a b
    Obj.ndim b = 1 → Obj.ndim c = 1 → 1 ≤ kdims → kdims ≤ Obj.ndim a → (Obj.extents b).getD 1 1 = sh.k →
    (Obj.extents c).getD 0 1 = sh.n → (Obj.extents c).getD 1 1 = sh.m →
    (∀ o ∈ ([a, b, c, sa, sb] : List Obj), Fits s8 l o 0 (Obj.span o)) → planField p 0x0E 50 = 0 → flags &&& 0xF6 = 0 →
    (∀ o ∈ ([sa, sb] : List Obj), Obj.rows o = 128 ∧ Obj.cols o = 128 ∧ Obj.scope o = 1) →
    Obj.fmtCode sa = Obj.fmtCode a → Obj.fmtCode sb = Obj.fmtCode b → fmtPair (Obj.fmt a) (Obj.fmt b) = true →
    Signs s iss (.mseq f) l s8 ([a, b, c, sa, sb] ++ bar) [BitVec.ofNat 32 kdims, BitVec.ofNat 32 flags]) ∧
  ∀ i l (s : State), (s.cvOf l.th (cvName i)).count = 0 → maySign i l s = .error (.trap .illeg 0)

/-- R272 to R285: the tile reductions check their registers, the witness, the result and the source and stamp the witness's generation
before they enter aq; ADJB asks that its witness be live; WREL ends the region and releases the witness; the convergence-set forms sign.
R366 to R372: the words of fq check their objects and enter fq; a push into a tree that its thread finds not open is RIGHTS, and one that the
window has no room for waits. Each word completes wherever its checks pass. -/
def Obligations.ReductionAndFabricWords : Prop :=
  (let reduces (i : Instr) (op : RedOp) (f : Red1Form) : Prop := Acts i (reduceWork i op f) ∧ WorkTraps i (reduceWork i op f) ∧
     ∀ (s : State) iss l d lo hi wit s1 res s2 src s3 s4, Solo s iss i l → op.operands (Opnd.nums l.cap.a) = some (d, lo, hi) →
     (op = .clamp ∨ op = .sum → boundsHopeless lo hi = false ∧ boundsOk (Obj.fmt src) lo hi = true) →
     Checks s.issuing l f.o.toNat [.witness] (rightW + rightA) wit s1 → Checks s1 l (Obj.witResult wit) [.tile] (rightW + rightA) res s2 →
     Checks s2 l (f.obj.getD 0).toNat [.tile] (rightR + rightA) src s3 → Obj.rows src ≤ 128 → Obj.cols src ≤ 128 →
     d.shape (Obj.rows src) (Obj.cols src) = some (Obj.rows res, Obj.cols res) → Obj.witRows wit = Obj.rows res →
     Obj.witCols wit = Obj.cols res → Fits s3 l wit 0 (Obj.witBytes wit) → Fits s3 l res 0 (Obj.span res) → Fits s3 l src 0 (Obj.span src) →
     reduceFormat (Obj.fmtCode src) = true → Obj.fmtCode res = Obj.fmtCode src → op.fits (Obj.witForm wit) d.tie = true →
     (d.tie = 2 → d.count (Obj.rows src) (Obj.cols src) ≤ 16) →
     writeGeneration l wit.1 (Obj.gen wit % 2 ^ 31 + Obj.gen res * 2 ^ 32) s3 = .ok ((), s4) →
     Enters s iss i l s4 4 [wit, res, src] l.cap.words 0
   let answers (i : Instr) (f : RedCrForm) (bounded : Bool) : Prop := Acts i (crWork i f bounded) ∧ WorkTraps i (crWork i f bounded) ∧
     ∀ (s : State) iss l, Solo s iss i l → MaySign s.issuing l i →
     (bounded = true → boundsOk (crFormat f) (Opnd.word l.cap.a 1) (Opnd.word l.cap.a 2) = true) →
     Signs s iss i l s.issuing [] l.cap.words
   (∀ f, reduces (.rmaxW f) .max f) ∧ (∀ f, reduces (.rminW f) .min f) ∧ (∀ f, reduces (.rmedW f) .med f) ∧
   (∀ f, reduces (.rclampW f) .clamp f) ∧ (∀ f, reduces (.rssumW f) .sum f) ∧
   (∀ f, Acts (.adjb f) (adjbWork f) ∧ WorkTraps (.adjb f) (adjbWork f)) ∧
   (∀ f (s : State) iss l d wit s1 grad s2 input s3 bnd s4 res s5, Solo s iss (.adjb f) l →
     Window.ofWord (Opnd.word l.cap.a 1) = some d → (d.tie = 2 → d.mode = 0 → d.ww * d.wh ≤ 16) →
     Checks s.issuing l f.o.toNat [.witness] (rightR + rightA) wit s1 → Checks s1 l (f.obj.getD 0).toNat [.tile] (rightR + rightA) grad s2 →
     Checks s2 l (Opnd.word l.cap.a 0 % 2 ^ 16) [.tile] (rightR + rightW + rightA) input s3 →
     (if Opnd.word l.cap.a 0 / 2 ^ 16 = 0xFFFF then bnd = [] ∧ s4 = s3
       else ∃ o, bnd = [o] ∧ Checks s3 l (Opnd.word l.cap.a 0 / 2 ^ 16) [.tile] (rightR + rightW + rightA) o s4 ∧ 2 ≤ Obj.cols o) →
     Obj.rows grad = Obj.witRows wit → Obj.cols grad = Obj.witCols wit → Obj.rows input ≤ 128 → Obj.cols input ≤ 128 →
     d.shape (Obj.rows input) (Obj.cols input) = some (Obj.witRows wit, Obj.witCols wit) → Fits s4 l wit 0 (Obj.witBytes wit) →
     (∀ o ∈ grad :: input :: bnd, Fits s4 l o 0 (Obj.span o) ∧ Obj.fmtCode o = 0) →
     adjbFits (Obj.witForm wit) d (Opnd.word l.cap.a 1) (d.count (Obj.rows input) (Obj.cols input)) = true →
     readEntry l.th.tile l.th.ctx (Obj.witResult wit) s4 = .ok (res, s5) → witLive wit res = true →
     Enters s iss (.adjb f) l s5 4 (wit :: grad :: input :: bnd) l.cap.words 0) ∧
   (∀ f, Acts (.wrel f) (fun _ _ l => do
       let wit ← checkEntry l.th.tile l.th.ctx f.o.toNat [.witness] rightW
       modify fun s => s.regionEnd l.tid (some 3)
       writeGeneration l wit.1 (2 ^ 31 + Obj.field wit 0x18 4 % 2 ^ 31 + Obj.field wit 0x1C 4 * 2 ^ 32)) ∧
     WorkTraps (.wrel f) (wrelWork f)) ∧
   (∀ f (s : State) iss l wit s1 u, Solo s iss (.wrel f) l → Checks s.issuing l f.o.toNat [.witness] rightW wit s1 →
     writeGeneration l wit.1 (2 ^ 31 + Obj.field wit 0x18 4 % 2 ^ 31 + Obj.field wit 0x1C 4 * 2 ^ 32) (s1.regionEnd l.tid (some 3)) =
       .ok ((), u) → exec (.wrel f) s = .next (u.goesOn iss s.nextId)) ∧
   (∀ f, answers (.rmaxWCr f) f false) ∧ (∀ f, answers (.rminWCr f) f false) ∧ (∀ f, answers (.rmedWCr f) f false) ∧
   (∀ f, answers (.rclampWCr f) f true) ∧ (∀ f, answers (.rssumWCr f) f true) ∧
   ∀ i f b iss no l s, crWork i f b iss no l s =
     (do maySign i l; Work.legal (!b || boundsOk (crFormat f) (Opnd.word l.cap.a 1) (Opnd.word l.cap.a 2)); sign i iss no l [] l.cap.words) s) ∧
  ((∀ f, Acts (.fsend f) (fsendWork f) ∧ WorkTraps (.fsend f) (fsendWork f)) ∧
   (∀ f, Acts (.fwin f) (fwinWork f) ∧ WorkTraps (.fwin f) (fwinWork f)) ∧
   (∀ f, Acts (.fcoll f) (fcollWork f) ∧ WorkTraps (.fcoll f) (fcollWork f)) ∧
   (∀ f (s : State) iss l src s1 bar s2, Solo s iss (.fsend f) l →
     let w (i : Nat) : Nat := Opnd.word l.cap.a i
     1 ≤ w 1 → w 1 ≤ 2 ^ 24 → w 3 < 2 ^ 16 → Checks s.issuing l f.o.toNat [.buffer] (rightR + rightF) src s1 →
     (if w 3 = 0xFFFF then bar = [] ∧ s2 = s1 else ∃ b, bar = [b] ∧ Checks s1 l (w 3) [.barrier] rightW b s2 ∧ Fits s2 l b 0 16) →
     Fits s2 l src (w 0) (w 1) →
     (w 2 + w 1 ≤ cellWindow ∨ 2 ^ 32 ≤ w 2 ∨ w 2 + w 1 - cellWindow ≤ s2.sliceLen l.th.cell) →
     Enters s iss (.fsend f) l s2 6 (src :: bar) l.cap.words (l.th.awin.toNat / 2 ^ 32 % 2 ^ 20)) ∧
   (∀ f (s : State) iss l dst s1 bar s2, Solo s iss (.fwin f) l →
     let v := Opnd.word l.cap.a 0
     let b := Opnd.word l.cap.a 1
     v / 2 ^ 26 % 32 = 0 → v / 2 ^ 10 % 1024 = 0 → b / 2 ^ 16 = 0 → Checks s.issuing l f.o.toNat [.buffer] (rightW + rightF) dst s1 →
     Checks s1 l (b % 2 ^ 16) [.barrier] rightW bar s2 → Fits s2 l dst 0 16384 → Fits s2 l bar 0 16 →
     (v / 2 ^ 31 = 1 → s2.fabric.treeValid (v % 1024) = true ∧ s2.jobOf l.th.ctx = some (s2.fabric.treeJob (v % 1024))) →
     Enters s iss (.fwin f) l s2 6 [dst, bar] l.cap.words 0) ∧
   ∀ f (s : State) iss l src s1, Solo s iss (.fcoll f) l → Checks s.issuing l f.o.toNat [.buffer] (rightR + rightF) src s1 →
     Fits s1 l src l.a 16384 →
     let tree := Opnd.word l.cap.a 1 / 2 ^ 22
     let chunk := Opnd.word l.cap.a 1 % 2 ^ 22
     (s1.windowOf l.tid tree = none → ∀ no, fcollWork f iss no l s.issuing = .error (.trap .rights (0xFFFF + 2 ^ 21))) ∧
     ∀ o, s1.windowOf l.tid tree = some o →
       (o.full (s1.pushesOf tree) chunk = false → Enters s iss (.fcoll f) l s1 6 [src] l.cap.words 0) ∧
       (o.full (s1.pushesOf tree) chunk = true → exec (.fcoll f) s = .next ((s1.leaveAs l.tid (.again (.room 7))).goesOn iss s.nextId)) ∧
       (o.full (s1.pushesOf tree) chunk = true ↔
         o.aborted = false ∧ (o.width ≤ (s1.pushesOf tree).length ∨ chunk ∈ s1.pushesOf tree)))

/-- R246 to R253: the Caster's operations, each once what it follows has performed: a copy moves its elements and leaves its queue, or stays
until its barrier has its arrival and another package has acknowledged its bytes; a weight load fills its slot; a table load fills its
table in a slot stamped CB3. R249, R342: what a copy has written in another package is acknowledged before its barrier's count is lowered.
Each completes where the memory of its objects is within reach. -/
def Obligations.CasterPerforms : Prop :=
  let isCast (op : Op) : Prop := (∃ f, op.instr = .cast f) ∨ (∃ f, op.instr = .castT8 f) ∨ ∃ f, op.instr = .castT16 f
  let arg (op : Op) (n : Nat) : Nat := ((op.args[n]?).map BitVec.toNat).getD 0
  let load (cb3 : Bool) (src : Obj) (id : Nat) (op : Op) : Work Unit := do
    modify fun s => s.emitOp op 1 op.casterRecord
    let data ← op.weightData src cb3 (castwCols (arg op 0))
    modify fun s =>
      let n := castwSlot (arg op 0)
      let s := s.setWeightSlot op.tile n { s.weightSlot op.tile n with
        data := data, rows := 128, cols := castwCols (arg op 0), sel := 0, tables := [], source := castwSource op src cb3 (castwCols (arg op 0)) }
      (((s.mendSlot op.tile n).energy op.tile op.ctx 6 op.bytes).endCast op 0).dropOp id
  (∀ src dst bar, PerformsAs .casterCopy (fun op => isCast op ∧ op.objs = src :: dst :: bar)
    (fun s op => ∃ n, Obj.count? dst = some n ∧ op.Served s .read src 0 0 ∧ op.Served s .write dst 0 0 ∧
      op.ServedWhole s .read src (castWidth op.instr).isSome n ∧ op.Stores s dst n) fun id op => do
      let s ← get
      let far ← op.isRemote src .read
      let far' ← op.isRemote dst .write
      if far' && !s.fabric.retryRoom (min op.bytes (2 ^ 24)) then set s
      else do
      modify fun s => s.emitOp op 1 op.casterRecord
      let start ← get
      let before := (start.tile op.tile).errsticky
      modify fun s => s.setTile op.tile { s.tile op.tile with errsticky := 0 }
      op.copy src dst (castWidth op.instr).isSome
      modify fun s =>
        let bad : Word := (s.tile op.tile).errsticky
        let s := (s.setTile op.tile { s.tile op.tile with errsticky := (before ||| bad : Word) }).energy op.tile op.ctx 6 op.bytes
        let sent := requestsSince start s
        let op := { op with performed := true, progress := (if far || far' then 2 else 0) + (if bad &&& 9 = 0 then 0 else 1)
                            after := sent }
        let s := if sent = [] then s.endCast op (if far then op.progress % 2 else 0) else s
        if bar = [] ∧ sent = [] then s.dropOp id else { s with ops := Map.set s.ops id op }) ∧
  ((∀ (s : State) id, Map.get? s.ops id = none → exec (.castBarrierArrival id) s = .next s) ∧
   (∀ (s : State) id op, Map.get? s.ops id = some op → (s.awaitsFar op = true ∨ op.performed = false) →
     exec (.castBarrierArrival id) s = .next s) ∧
   (∀ (s : State) op, s.awaitsFar op = true ↔ ∃ o ∈ op.after, ∃ r ∈ s.fabric.retry, r.2.id = o) ∧
   ∀ (s : State) id op src dst, Map.get? s.ops id = some op → isCast op → op.performed = true → s.awaitsFar op = false →
     op.fault = none → s.working op.ctx = true →
     let u := if op.after = [] then s else s.endCast op (op.progress % 2)
     (op.objs = [src, dst] → exec (.castBarrierArrival id) s = .next (u.dropOp id)) ∧
     ∀ bar pa s1, op.objs = [src, dst, bar] → op.reach bar 0 .write u = .ok (pa, s1) →
       exec (.castBarrierArrival id) s = .next (((if op.progress / 2 = 1 then s1.writeBarrier op.tid (pa + 8) 8 (op.progress % 2)
         else s1).lowerBarrier op.tid op.ctx bar.1 pa op.bytes).dropOp id)) ∧
  (∀ src, PerformsAs .castwPerform (fun op => (∃ f, op.instr = .castw f) ∧ op.objs = [src])
    (fun s op => op.ServedWhole s .read src false (castwCols (arg op 0) * 128)) (load false src)) ∧
  (∀ src, PerformsAs .castwPerform (fun op => (∃ f, op.instr = .castwCb3 f) ∧ op.objs = [src])
    (fun s op => op.ServedWhole s .read src false ((48 * castwCols (arg op 0) * 8 - 1) / Obj.bits src + 1)) (load true src)) ∧
  (∀ src, PerformsAs .casttabPerform (fun op => (∃ f, op.instr = .casttab f) ∧ op.objs = [src])
    (fun s op => ∀ k, arg op 1 * 8 / Obj.bits src ≤ k → k ≤ (arg op 1 * 8 + 127) / Obj.bits src →
      op.Served s .read src (Obj.elemBit src false k / 8) ((Obj.bits src + 7) / 8)) fun id op => do
    modify fun s => s.emitOp op 1 op.casterRecord
    let v ← op.readRun src (arg op 1) 16
    modify fun s =>
      let n := casttabSlot (arg op 0)
      let k := casttabTable (arg op 0)
      let w := s.weightSlot op.tile n
      let t := { w with
        tables := Map.set w.tables k (tableWords v)
        sel := if casttabSel (arg op 0) then k / 128 else w.sel
        source := w.source ++ casttabSource op src (arg op 1) (k + (if casttabSel (arg op 0) then 256 else 0)) }
      ((((if w.fmt = some stampCb3 then s.setWeightSlot op.tile n t else s).energy op.tile op.ctx 6 op.bytes).endCast op 0).dropOp id)) ∧
  Waits .casterCopy ∧ Waits .castwPerform ∧ Waits .casttabPerform

/-- R231, R232, R254, R259 to R264: the sets of aq, each once complete and due: the accumulator zeroed, loaded, stored and added to memory,
its elements read to their signers, the products of every K block added in order, and a sequence taken to its next K block and ended after
its last. Each completes where the memory of its objects is within reach. -/
def Obligations.AnvilPerforms : Prop :=
  let whole (op : Op) (s : State) (o : Obj) : Prop := op.ServedWhole s .read o false accElems
  let drains (ev : Nat → Instr) (of : Op → Option (Nat × BitVec 2)) (add : Bool) : Prop := ∀ o m k,
    PerformsAs ev (fun op => op.signers ≠ [] ∧ of op = some (m, k) ∧ op.objs = [o])
      (fun s op => op.Stores s o accElems ∧ (add = true → whole op s o)) fun _ op => do
        modify fun s => s.beginSet op
        op.drain m (accClass k) add o ((List.range accElems).map fun n => (n, n))
        modify fun s => s.endSet op
  (∀ (s : State) id op f, Due s id op → op.signers ≠ [] → op.instr = .accz f →
    exec (.acczPerform id) s = .next ((((s.beginSet op).setAcc op.tile f.m.toNat []).mendAcc op.tile f.m.toNat).endSet op)) ∧
  (∀ f o, PerformsAs .accldPerform (fun op => op.signers ≠ [] ∧ op.instr = .accld f ∧ op.objs = [o]) (fun s op => whole op s o)
    fun _ op => do
      modify fun s => s.beginSet op
      let xs ← eachOf accElems fun n => op.readElem o n
      modify fun s => ((s.setAcc op.tile f.m.toNat (xs.zipIdx.filterMap fun x =>
        if x.1 = 0 then none else some (x.2, BitVec.ofNat 64 x.1))).mendAcc op.tile f.m.toNat).endSet op) ∧
  drains .accstPerform (fun op => match op.instr with
    | .accst f => some (f.m.toNat, f.k)
    | _ => none) false ∧
  drains .accstAddPerform (fun op => match op.instr with
    | .accstAdd f => some (f.m.toNat, f.k)
    | _ => none) true ∧
  (∀ (s : State) id op f, Due s id op → op.signers ≠ [] → op.instr = .accrd f →
    let elem (s : State) (g : Nat) : Nat := (((Map.get? s.ops g).bind fun o => (o.args[0]?).map BitVec.toNat).getD 0) % accElems
    let v := (s.beginSet op).scrubAcc op.tile op.ctx f.m.toNat fun e => op.signers.any fun g => elem (s.beginSet op) g == e
    exec (.accrdPerform id) s = .next ((op.signers.foldl (fun s g =>
      s.replyTo g (numWords (accElem (s.acc op.tile f.m.toNat) (elem s g)) 2)) v).endSet op)) ∧
  (∀ (s : State) id op p, Due s id op → op.signers ≠ [] →
    let now := s.startCb3 op
    now.mmaParts = some p →
    (now.bytes ≠ 0 → now.signArgs.length < cb3Cols now.bytes →
      let waiting := { now with progress := now.progress + 1 }
      exec (.mmaPerform id) s = .next ({ s.beginSet op with ops := Map.set s.ops id waiting }.charge now.tid 3 1)) ∧
    ((now.bytes = 0 ∨ cb3Cols now.bytes ≤ now.signArgs.length) → Performs .mmaPerform
      (now.ServedTile s .read p.a (Obj.rows p.a) (Obj.cols p.a) ∧
        (∀ b, p.b = some b → now.ServedTile s .read b (Obj.rows b) (Obj.cols b)) ∧
        ∀ x y, p.scales = some (x, y) → ∀ b < (Obj.cols p.a + 127) / 128,
          now.Served s .read y (32 * b / 8) ((Obj.bits y + 7) / 8) ∧
          ∀ r < Obj.rows p.a, now.Served s .read x (32 * (r * Obj.cols x + b) / 8) ((Obj.bits x + 7) / 8))
      (do
        modify fun s => (s.beginSet op).scrubAcc now.tile now.ctx p.acc fun e => decide (e / 128 < Obj.rows p.a)
        (List.range ((Obj.cols p.a + 127) / 128)).forM fun b => do
          let as ← now.tileRows p.a 0 (Obj.rows p.a) (128 * b) 128
          let bs ← now.bColumns p b
          let scale ← now.scaleOf p b
          modify fun s => s.setAcc now.tile p.acc
            (addTerms now.nbv (Obj.fmt p.a) bs.1 as bs.2 (fun r => (scale[r]?).join) (s.acc now.tile p.acc))
          modify fun s => s.macEnergy now (Obj.fmt p.a) (Obj.rows p.a * bs.2.length * min 128 (Obj.cols p.a - 128 * b))
        modify fun s => s.endSet now) s id now)) ∧
  (∀ (s : State) id op p n block, Due s id op → op.signers ≠ [] →
    let now := s.startCb3 op
    now.mmaParts = some p → p.slot = some n → now.bytes ≠ 0 → block < cb3Cols now.bytes →
    let table := Map.get? (s.weightSlot now.tile n).tables (cb3Bank now.bytes * 128 + block)
    (∀ t, table = some t → Map.get? now.signArgs block = none →
      let waited := if now.progress = 0 then s
        else s.emitOp now 5 (toBytes 1 n ++ toBytes 1 block ++ [0, 0] ++ toBytes 4 now.progress)
      let column := waited.expandColumn now.tile n block t
      let expanded := { now with signArgs := Map.set now.signArgs block column, progress := 0 }
      exec (.blockExpand id block) s = .next { waited with ops := Map.set waited.ops id expanded }) ∧
    ((table = none ∨ Map.get? now.signArgs block ≠ none) → exec (.blockExpand id block) s = .next { s with ops := Map.set s.ops id now })) ∧
  (∀ f a b c sa sb bar kd flags more,
    let sh := mseqShape (BitVec.toNat kd) a b
    let shape (op : Op) : Prop := op.signers ≠ [] ∧ op.instr = .mseq f ∧ op.objs = a :: b :: c :: sa :: sb :: bar ∧
      op.args = kd :: flags :: more
    PerformsAs .mseqPerform (fun op => shape op ∧ op.progress = sh.blocks) (fun s op => ∀ o ∈ bar, op.Served s .write o 0 0)
      (fun _ op => op.mseqEnd sh c bar) ∧
    PerformsAs .mseqPerform (fun op => shape op ∧ op.progress ≠ sh.blocks)
      (fun s op => op.ServedWhole s .read a false (sh.k * sh.m) ∧ op.ServedWhole s .read b false (sh.n * sh.k) ∧
        (∀ o ∈ ([sa, sb] : List Obj), Obj.cols o = 128 ∧ op.ServedTile s .write o 128 128 ∧
          (Obj.bits o = 4 → op.ServedTile s .read o 128 128)) ∧
        op.Stores s c (sh.n * sh.m) ∧ (flags.getLsbD 0 = true → op.ServedWhole s .read c false (sh.n * sh.m)) ∧
        ∀ o ∈ bar, op.Served s .write o 0 0)
      fun id op => op.mseqBlock id f.m.toNat sh a b c sa sb bar (flags.getLsbD 0)) ∧
  Waits .acczPerform ∧ Waits .accldPerform ∧ Waits .accstPerform ∧ Waits .accstAddPerform ∧ Waits .accrdPerform ∧ Waits .mmaPerform ∧
  (Waits fun id => .blockExpand id 0) ∧ Waits .mseqPerform

/-- R275 to R285: a tile reduction computes each result with its witness and leaves aq; ADJB routes each gradient to the contributors that
its witness names, in row-major order; a set reduction answers every signer. Each completes where the memory of its objects is within
reach. -/
def Obligations.ReductionsPerform : Prop :=
  let elems (o : Obj) : Nat := Obj.rows o * Obj.cols o
  let reduction (ev : Nat → Instr) (kinds : List RedOp) : Prop := ∀ r wit res src, r ∈ kinds →
    PerformsAs ev (fun op => redOpOf op.instr = some r ∧ op.objs = [wit, res, src])
      (fun s op => op.ServedTile s .read src (Obj.rows src) (Obj.cols src) ∧ op.Stores s res (elems res) ∧ op.Witnesses s wit (elems res))
      fun id op => do
        op.reduce r wit res src
        modify fun s => (s.dropOp id).finishOpEntries id
  reduction .tileReductionPerform [.max, .min, .med] ∧ reduction .clampSumPerform [.clamp, .sum] ∧
  (∀ f wit grad input bnd d,
    let results := Obj.witRows wit * Obj.witCols wit
    let updates (op : Op) (s : State) (o : Obj) (n : Nat) : Prop := ∀ kind ∈ ([.read, .write] : List AccKind),
      op.Served s kind o (Obj.elemBit o false n / 8) ((Obj.bits o + 7) / 8)
    PerformsAs .adjbPerform (fun op => op.instr = .adjb f ∧ op.objs = wit :: grad :: input :: bnd ∧
        Window.ofWord (((op.args[1]?).map BitVec.toNat).getD 0) = some d)
      (fun s op => op.ServedWhole s .read grad false results ∧ op.Witnesses s wit results ∧
        (∀ e < results, ∀ k < max 1 (d.count (Obj.rows input) (Obj.cols input)),
          let p := d.contributor (e / Obj.witCols wit) (e % Obj.witCols wit) k
          updates op s input (p.1 * Obj.cols input + p.2)) ∧
        ∀ o ∈ bnd, updates op s o 0 ∧ updates op s o 1)
      fun id op => do
        (List.range results).forM (op.route d wit grad input bnd)
        modify fun s => ((s.energy op.tile op.ctx 11 results).dropOp id).finishOpEntries id) ∧
  (∀ (s : State) id op r f, Due s id op → op.signers ≠ [] → redOpOf op.instr = some r → crFields op.instr = some f →
    let arg (n : Nat) : Nat := ((op.args[n]?).map BitVec.toNat).getD 0
    exec (.crSetReduction id) s = .next (((crReplies r f (arg 1) (arg 2) (s.contributors op)).foldl
      (fun s x => s.replyTo x.1 [BitVec.ofNat 32 x.2.1, BitVec.ofNat 32 x.2.2]) s).finishSet op)) ∧
  Waits .tileReductionPerform ∧ Waits .clampSumPerform ∧ Waits .adjbPerform ∧ Waits .crSetReduction

/-- R177 to R189, R205 to R212: the operations of tq: a traversal answers its six registers, a texture word its four lanes, a deposit adds
each lane's value to its channel, a film read answers the sum of a channel, RAST updates the samples its records cover, VISRD answers
a sample; each then leaves tq. A FILM.ADD of a context that is out reaches a kept allocation, and is held for another. Each completes
where the memory of its objects is within reach. -/
def Obligations.TraversalUnitPerforms : Prop :=
  let lanesA (op : Op) : List Nat := (op.args.take 4).map BitVec.toNat
  let lanesB (op : Op) : List Nat := ((op.args.drop 4).take 4).map BitVec.toNat
  let arg (op : Op) (n : Nat) : Nat := (op.args.map BitVec.toNat).getD n 0
  let walk (any : Bool) (h n : Obj) (id : Nat) (op : Op) : Work Unit := do
    let r ← traceRay (fun off k => op.nodeRead n off k) any (rayOf (op.args.map BitVec.toNat))
    unitReply id (r.words (Obj.hierInst h))
  let nodes (n : Obj) (s : State) (op : Op) : Prop := ∀ off k, off + k ≤ Obj.field n 0x10 8 → op.Served s .read n off k
  let fetch (lanes : Op → Work (List Nat)) (id : Nat) (op : Op) : Work Unit := do
    let ws ← lanes op
    modify fun s => s.energy op.tile op.ctx 10 4
    unitReply id ws
  let texels (shape : Obj → Bool) (t b : Obj) (s : State) (op : Op) : Prop :=
    let sp := Obj.spectrum t
    let size := Obj.bits t / 8
    Obj.spectralOk t = true ∧ shape t = true ∧ ∀ x < sp.w, ∀ y < sp.h, ∀ l < sp.l, ∀ k < sp.n,
      op.Served s .read b ((((l * sp.h + y) * sp.w + x) * sp.n + k) * size) size
  (∀ f h n, PerformsAs .traceWalk (fun op => op.instr = .trace f ∧ op.objs = [h, n]) (nodes n) (walk false h n)) ∧
  (∀ f h n, PerformsAs .traceWalk (fun op => op.instr = .tracea f ∧ op.objs = [h, n]) (nodes n) (walk true h n)) ∧
  (∀ f t b, PerformsAs .spectralFetch (fun op => op.instr = .stex f ∧ op.objs = [t, b]) (texels (fun _ => true) t b)
    (fetch fun op => stexLanes (Obj.spectrum t) (op.sample t b) (lanesA op) (lanesB op))) ∧
  (∀ f t b, PerformsAs .rgbUpsampleFetch (fun op => op.instr = .stexup f ∧ op.objs = [t, b]) (texels Obj.isGrid t b)
    (fetch fun op => stexupLanes (Obj.spectrum t) (op.sample t b) (lanesA op) (lanesB op))) ∧
  (∀ f t b, PerformsAs .cmfProjectFetch (fun op => op.instr = .scmf f ∧ op.objs = [t, b]) (texels Obj.isMatching t b)
    (fetch fun op => scmfLanes (Obj.spectrum t) (op.sample t b) (lanesA op) (lanesB op))) ∧
  (∀ (s : State) id op f o, s.savedFilm id = none → Due s id op → op.instr = .filmAdd f → op.objs = [o] → Performs .filmAddPerform
    (∀ x ∈ filmDeposits o (op.args.map BitVec.toNat), op.Served s .read o (Obj.channel o (arg op 0) x.1) 8 ∧
      op.Served s .write o (Obj.channel o (arg op 0) x.1) 8)
    (do
      op.deposit o
      modify fun s => (s.dropOp id).finishOpEntries id) s id op) ∧
  (∀ (op : Op) o, op.deposit o = do
    (filmDeposits o (op.args.map BitVec.toNat)).forM fun x => do
      let bs ← op.unitBytes o (Obj.channel o (arg op 0) x.1) 8
      let r := filmAdd (ofBytes (bs.take 4)) (ofBytes (bs.drop 4)) x.2
      op.update o (Obj.channel o (arg op 0) x.1) (toBytes 4 r.1 ++ toBytes 4 r.2)
    modify fun s => s.energy op.tile op.ctx 11 (filmDeposits o (op.args.map BitVec.toNat)).length) ∧
  (∀ (s : State) id token x op f o, s.savedFilm id = some (token, x, op) → op.instr = .filmAdd f → op.objs = [o] → Obj.scope o = 1 →
    let rest := { x with ops := Map.del x.ops id }
    let left := { s with images := Map.set s.images token rest }
    (x.keep = false → exec (.filmAddPerform id) s = .next (left.holdUpdate op.cell
      { ctx := ((s.anyCell op.cell).map Cell.ctx).getD op.ctx, cell := op.cell, film := some op })) ∧
    ∀ u, x.keep = true → op.deposit o left = .ok ((), u) → exec (.filmAddPerform id) s = .next u) ∧
  (∀ f o, PerformsAs .filmRdPerform (fun op => op.instr = .filmRd f ∧ op.objs = [o])
    (fun s op => op.Served s .read o (Obj.channel o (arg op 0) (arg op 1)) 8) fun id op => do
    let bs ← op.unitBytes o (Obj.channel o (arg op 0) (arg op 1)) 8
    unitReply id [fAdd (ofBytes (bs.take 4)) (ofBytes (bs.drop 4))]) ∧
  (∀ f r v b, PerformsAs .rastPerform (fun op => op.instr = .rast f ∧ op.objs = [r, v, b])
    (fun s op => (∀ k < arg op 1, op.Served s .read r (48 * (arg op 0 + k)) 48) ∧
      ∀ i < Obj.visCount v, op.Served s .read b (16 * i) 16 ∧ op.Served s .write b (16 * i) 16) fun id op => do
    (List.range (arg op 1)).forM fun k => op.rastRecord r v b (arg op 0 + k)
    modify fun s => (s.dropOp id).finishOpEntries id) ∧
  (∀ f v b, PerformsAs .visrdPerform (fun op => op.instr = .visrd f ∧ op.objs = [v, b])
    (fun s op => op.Served s .read b (16 * (arg op 0 * Obj.visSamples v + arg op 1)) 16) fun id op => do
    let bs ← op.unitBytes b (16 * (arg op 0 * Obj.visSamples v + arg op 1)) 16
    unitReply id [ofBytes (bs.take 4), ofBytes ((bs.drop 4).take 4), ofBytes ((bs.drop 8).take 4)]) ∧
  (∀ (s : State) id, s.savedFilm id = none → (∀ op, Map.get? s.ops id = some op → s.opReady id op = false) →
    exec (.filmAddPerform id) s = .next s) ∧
  Waits .traceWalk ∧ Waits .spectralFetch ∧ Waits .rgbUpsampleFetch ∧ Waits .cmfProjectFetch ∧
  Waits .filmRdPerform ∧ Waits .rastPerform ∧ Waits .visrdPerform

/-- R365, R367, R369 to R375: a send moves its bytes and is complete in its own package, or waits in the retry store; a window is opened and
closed in the order of its queue; a push sends its chunk, and none on an aborted tree; a packet is routed at its arrival and taken once; a
result reaches the open window or is discarded, and an abort received twice does nothing more. Each completes where the memory it works on
is within reach. -/
def Obligations.CollectivesPerform : Prop :=
  let near (pa : Nat) : Prop := regionOf pa = .hbm ∨ regionOf pa = .slice
  let w (op : Op) (i : Nat) : Nat := ((op.args[i]?).map BitVec.toNat).getD 0
  (∀ src bar, PerformsAs .fsendPerform (fun op => (∃ f, op.instr = .fsend f) ∧ op.objs = src :: bar)
    (fun s op => (∃ pa, op.windowPa (w op 2) s = .ok (pa, s) ∧ near pa) ∧ (∀ b ∈ bar, op.Served s .write b 0 0) ∧
      ∀ x ∈ blockPieces (w op 2) (w op 1), op.Served s .read src (w op 0 + x.1) x.2 ∧
        ∃ pa, op.windowPa (w op 2 + x.1) s = .ok (pa, s) ∧ near pa) fun id op => do
      let s ← get
      let first ← op.windowPa (w op 2)
      let home := s.packageOf first
      let far := match regionOf first with
        | .fabric .. => true
        | _ => false
      if far && !s.fabric.retryRoom (w op 1) then set s
      else do
      modify fun s => s.fabOut op 0 0 (w op 1) (if far then home else s.fabric.fabid)
      (blockPieces (w op 2) (w op 1)).forM fun x => do
        let bs ← op.unitBytes src (w op 0 + x.1) x.2
        let pa ← op.windowPa (w op 2 + x.1)
        let s ← get
        if s.packageOf pa != home then Work.fatal
        modify fun s =>
          if far then s.sendPiece id op home (pa % 2 ^ 40) bs
          else ((s.perform op.tid (bytesAt pa bs)).accessEnergy op.tile op.ctx pa bs.length).resetTags pa bs.length
      if !far then
        bar.forM fun b => do
          let pa ← op.reach b 0 .write
          modify fun s => s.lowerBarrier op.tid op.ctx b.1 pa (w op 1)
        modify fun s => (s.dropOp id).finishOpEntries id
      else modify fun s => { s with ops := Map.set s.ops id { op with performed := true, progress := if bar.isEmpty then 1 else 0 } }) ∧
  Waits .fsendPerform ∧ Waits .fcollPushPerform ∧
  (∀ (s : State) id op, Map.get? s.ops id = some op → (op.performed = false ∨ op.progress = 1) → exec (.fsendLocalComplete id) s = .next s) ∧
  (∀ (s : State) id op f src bar pa s1, Map.get? s.ops id = some op → op.instr = .fsend f → op.objs = [src, bar] → op.performed = true →
    op.progress ≠ 1 → op.fault = none → s.working op.ctx = true → op.reach bar 0 .write s = .ok (pa, s1) →
    let u := s1.lowerBarrier op.tid op.ctx bar.1 pa (w op 1)
    exec (.fsendLocalComplete id) s = .next (State.closeSend { u with ops := Map.set s.ops id { op with progress := 1 } } id)) ∧
  (∀ (s : State) id op tree win, Due s id op → op.window = some (tree, win) →
    let opens := match win with
      | some o => Map.set s.fabric.opens tree o
      | none => Map.del s.fabric.opens tree
    s.fwinPerform id = ({ s with fabric := { s.fabric with opens := opens } }.dropOp id).finishOpEntries id) ∧
  (∀ (s : State) id op f src, Due s id op → op.instr = .fcoll f → op.objs = [src] →
    let tree := collTree (w op 1)
    let chunk := collChunk (w op 1)
    let leaves : Bool := match s.fabric.treeEntries tree with
      | e :: _ => hopAct e == 0
      | [] => false
    ((Map.get? s.fabric.opens tree).any OpenTree.aborted = true →
      exec (.fcollPushPerform id) s = .next ((s.dropOp id).finishOpEntries id)) ∧
    ((Map.get? s.fabric.opens tree).any OpenTree.aborted = false → leaves = true → s.fabric.retryRoom (8 * chunkBytes) = false →
      exec (.fcollPushPerform id) s = .next s) ∧
    ((Map.get? s.fabric.opens tree).any OpenTree.aborted = false → (leaves = false ∨ s.fabric.retryRoom (8 * chunkBytes) = true) →
      (op.Served s .read src (w op 0) chunkBytes → ∃ bs s1, op.unitBytes src (w op 0) chunkBytes s = .ok (bs, s1)) ∧
      ∀ bs s1, op.unitBytes src (w op 0) chunkBytes s = .ok (bs, s1) →
        let g := s1.fabric
        let p : CollPacket :=
          { job := g.treeJob tree, tree := tree, chunk := chunk, op := g.treeOp tree, ty := g.treeType tree
            hops := g.treeHops tree, rank := g.treeRank tree, entries := g.treeEntries tree
            data := pushedData (g.treeOp tree) (g.treeRank tree) (numWords (ofBytes bs) (chunkBytes / 4)), resent := false }
        let v := s1.fabOut op 1 tree chunk 0
        let v : State := { v with fabric := { g with outstanding := g.outstanding ++ [(tree, chunk)] } }
        let v := if leaves then
            (v.send { target := g.fabid, tid := op.tid, ctx := op.ctx, payload := .push p }).energy op.tile op.ctx 13 chunkBytes
          else v
        let v := if p.entries = [] then v.askAbort p.job else v.routePacket p
        exec (.fcollPushPerform id) s = .next ((v.dropOp id).finishOpEntries id))) ∧
  (∀ (s : State) src seq p,
    let v := s.retryWaiting
    (endsHere p = false → exec (.collectivePacketArrival ⟨src, seq, p⟩) s = .next (v.routePacket p)) ∧
    (endsHere p = true → v.fabric.seen.contains (src, seq) = true → exec (.collectivePacketArrival ⟨src, seq, p⟩) s = .next v) ∧
    (endsHere p = true → v.fabric.seen.contains (src, seq) = false → exec (.collectivePacketArrival ⟨src, seq, p⟩) s =
      .next (State.routePacket { v with fabric := { v.fabric with
        seen := (src, seq) :: v.fabric.seen, replies := v.fabric.replies ++ [(src, seq, [])] } } p))) ∧
  (∀ (s : State) tree chunk, (s.fabric.deliveries.find? fun p => p.tree == tree && p.chunk == chunk) = none →
    exec (.collectiveDelivery tree chunk) s = .next s) ∧
  (∀ (s : State) tree chunk p, (s.fabric.deliveries.find? fun p => p.tree == tree && p.chunk == chunk) = some p →
    let taken : State := { s with fabric := { s.fabric with deliveries := s.fabric.deliveries.erase p } }
    (Map.get? s.fabric.opens tree = none → exec (.collectiveDelivery tree chunk) s = .next taken) ∧
    ∀ o, Map.get? s.fabric.opens tree = some o →
      (o.fault ≠ none → exec (.collectiveDelivery tree chunk) s = .next s) ∧
      (o.fault = none →
        (s.savedCell o.cell = none → (s.tile (((s.anyCell o.cell).map Cell.tile).getD 0)).deferrals.length ≤ 512 →
          (o.agent taken).Served taken .write o.barObj 0 0 →
          (Obj.field o.dstObj 0x10 8 < chunkBytes * p.chunk + chunkBytes ∨
            (o.agent taken).Served taken .write o.dstObj (chunkBytes * p.chunk) (4 * p.data.length)) →
          ∃ u, o.deliver p taken = .ok ((), u) ∧ exec (.collectiveDelivery tree chunk) s = .next u) ∧
        (∀ u, o.deliver p taken = .ok ((), u) → exec (.collectiveDelivery tree chunk) s = .next u) ∧
        ∀ g, o.deliver p taken = .error (.parked g) → exec (.collectiveDelivery tree chunk) s = .next (s.parkTree tree o g))) ∧
  (∀ (s : State) job origin port, s.fabric.aborts.contains (job, origin) = true → exec (.abortReceive job origin port) s = .next s) ∧
  ∀ (s : State) job origin port, s.fabric.aborts.contains (job, origin) = false → ∃ u, exec (.abortReceive job origin port) s = .next u ∧
    u.fabric.aborts = (job, origin) :: s.fabric.aborts ∧ (∀ g ∈ u.fabric.groups, g.job ≠ job) ∧
    u.fabric.abortsSent = s.fabric.abortsSent ++
      (((List.range 24).filter fun p => (s.fabric.link p).up && some p != some port).map fun p => (job, origin, p))

/-! ## Launches, cells, threads and contexts -/

/-- R111, R324: LAUNCH ends the thread's region and has an entry, which follows all that the thread has issued; a record offset that is no
multiple of 64 is ALIGN; the enqueuing returns its code into the entry's destination, parks on a page fault, and returns 1 where a page
cannot be reached. -/
def Obligations.LaunchWords : Prop :=
  let ready (f : LaunchWForm) (s : State) (l : Lane) : Prop :=
    let srcs := l.th.sourcesOf (s.privileged l.th.ctx) 0 (.launch f)
    emptyCause srcs (l.th.capture srcs) = none
  (∀ f, Does (.launch f) (fun s l => ready f s l ∧ l.a % 64 = 0) fun s iss l u =>
    (u.regionEnd l.tid (some 3)).addEntry l.tid { iss.entryFor (.launch f) (vDest f.d) (slotBit l.slot) s.nextId l with
      after := u.outstanding l.th l.tid }) ∧
  (∀ f, Raises (.launch f) (fun s l => ready f s l ∧ l.a % 64 ≠ 0) .align fun _ l => l.a) ∧
  ∀ (s : State) tid t entry e f, s.thread? tid = some t → t.entry? entry = some e → e.instr = .launch f → e.state = .flight →
    let ctx := if s.privileged t.ctx then Opnd.word e.cap.a 1 % 16 else t.ctx
    (∀ code s1, enqueueRecord t.tile ctx (Opnd.word e.cap.a 0) s = .ok (code, s1) →
      exec (.launchEnqueue tid entry) s = .next (s1.completeEntry tid entry [BitVec.ofNat 32 code])) ∧
    (∀ g, enqueueRecord t.tile ctx (Opnd.word e.cap.a 0) s = .error (.parked g) → exec (.launchEnqueue tid entry) s =
      .next (s.modThread tid fun t => t.modEntry entry fun e => { e with state := .fault, fault := some g })) ∧
    ∀ u, s.takesLaunches ctx = true → recordPa t.tile ctx (Opnd.word e.cap.a 0) 64 .atomic s = .error (.fatal u) →
      exec (.launchEnqueue tid entry) s = .next (s.completeEntry tid entry [1])

/-- R37, R38, R41 to R43, R202: the distributor examines the first queued record of a priority queue: an accepted one gets STATUS 1, another
is final with its code; a cluster is placed for the first offer with room, its context becoming the last one placed, and placement stops
for every stage that has no more room. -/
def Obligations.Distribution : Prop :=
  (∀ (s : State) ctx prio id l, s.takesLaunches ctx = true → l.fault = none →
    ((Map.getD (((s.ctx? ctx).map Context.queues).getD []) prio []).findSome? fun id => (Map.get? s.launches id).bind fun l =>
      if l.phase = .queued then some (id, l) else none) = some (id, l) →
    (∀ l' s1, examine l s = .ok ((1, l'), s1) →
      exec (.distributorExamine ctx prio) s = .next ({ s1 with launches := Map.set s1.launches id l' }.writeStatus l' 1)) ∧
    (∀ code l' s1, code ≠ 1 → examine l s = .ok ((code, l'), s1) →
      exec (.distributorExamine ctx prio) s = .next (s1.finishLaunch id code)) ∧
    ∀ g, examine l s = .error (.parked g) →
      exec (.distributorExamine ctx prio) s = .next (s.modLaunch id fun l => { l with fault := some g })) ∧
  (∀ (s : State) ctx prio, s.takesLaunches ctx = false → exec (.distributorExamine ctx prio) s = .next s) ∧
  (∀ (s : State) quad id l stage t sites, quad < 48 →
    (s.parkDependence.offers.findSome? fun x => if s.parkDependence.eligible x.2 then
      (s.parkDependence.firstFit x.1 x.2 quad).map fun f => (x, f) else none) = some ((id, l), (stage, t, sites)) →
    let d := if ranged l t then none else if t.input.isSome then some (t.nextD % t.total) else some t.nextD
    exec (.placeCluster quad) s =
      .next (State.stopStages { s.parkDependence.placeCluster id l stage t quad sites d with rotor := l.ctx })) ∧
  (∀ (s : State) quad, (∀ x ∈ s.parkDependence.offers, s.parkDependence.eligible x.2 = true →
    s.parkDependence.firstFit x.1 x.2 quad = none) → exec (.placeCluster quad) s = .next s.parkDependence) ∧
  ∀ (s : State) quad, 48 ≤ quad → exec (.placeCluster quad) s = .next s.parkDependence

/-- R42 to R46, R384: a cell of a context that runs completes when all its threads have ended and all their work has performed: its
resources are free and, with the last cell, its launch is over; a ranged cell takes its next values instead. R44: an idle cluster of a LAZY
launch asks, the first holder on its path that has values gives the upper half of them, a failed request is repeated after 1,024 cycles,
and after 4,096 idle cycles it goes over the mesh. -/
def Obligations.CellsAndStealing : Prop :=
  let runs (s : State) (ctx : Nat) : Bool := (s.ctx? ctx).any fun x => x.phase == .running
  ((∀ (s : State) cell, Map.get? s.cells cell = none → exec (.cellComplete cell) s = .next s) ∧
   (∀ (s : State) cell c, Map.get? s.cells cell = some c → (c.complete = true ∨ s.cellSpent cell = false ∨ runs s c.ctx = false) →
     exec (.cellComplete cell) s = .next s) ∧
   (∀ (s : State) cell c, Map.get? s.cells cell = some c → c.complete = false → s.cellSpent cell = true → runs s c.ctx = true →
     (Map.get? s.launches c.launch = none → exec (.cellComplete cell) s = .next (s.freeCell cell)) ∧
     ∀ l, Map.get? s.launches c.launch = some l →
       (ranged l (s.stageRec c.launch c.stage) = false → exec (.cellComplete cell) s = .next ((s.freeCell cell).launchOver c.launch)) ∧
       (ranged l (s.stageRec c.launch c.stage) = true → l.dist = 2 → exec (.cellComplete cell) s = .next (s.nextEven cell c)) ∧
       (ranged l (s.stageRec c.launch c.stage) = true → l.dist ≠ 2 → exec (.cellComplete cell) s =
         .next ((s.modCell cell fun c => { c with complete := true, bars := [], cvs := [] }).nextLazy c))) ∧
   ∀ (s : State) tid t, s.spent tid t = true → t.ended = true ∧ t.replay = [] ∧ t.arriving = [] ∧
     (∀ o ∈ s.ops, o.2.tid ≠ tid) ∧ (∀ l ∈ (s.tile t.tile).lines, l.tid ≠ tid) ∧ ∀ r ∈ s.rings, ∀ p ∈ r.inflight, p.tid ≠ tid) ∧
  ((∀ (s : State) n c, s.idle n = some c → c.d = none ∧ c.hi ≤ c.lo) ∧
   (∀ (s : State) n c, s.idle n = some c → c.idleSince = none → exec (.stealRequest n) s = .next (s.ask n)) ∧
   (∀ (s : State) n c, s.idle n = some c → c.asking = true →
     (s.stealPath n c).find? (fun x => decide (1 ≤ x.2.spare)) = none →
     ∀ h, exec (.stealResponse h n) s = .next (s.modCluster n fun c => { c with asking := false })) ∧
   (∀ (s : State) n c h g, s.idle n = some c → c.asking = true →
     (s.stealPath n c).find? (fun x => decide (1 ≤ x.2.spare)) = some (h, g) →
     exec (.stealResponse h n) s = .next (((s.modCluster h fun x => { x with hi := x.hi - (g.hi - g.lo) / 2 }).modCluster n fun c =>
       { c with lo := g.hi - (g.hi - g.lo) / 2, hi := g.hi }).takeValue n)) ∧
   (∀ (s : State) n c, s.idle n = some c → c.idleSince.isSome = true → c.asking = false →
     exec (.stealRetry n) s = .next (if c.lastAsk + 1024 ≤ s.cycle then s.ask n else s)) ∧
   (∀ (s : State) n c since, s.idle n = some c → c.idleSince = some since → c.mesh = false → exec (.stealMeshSwitch n) s =
     .next (if since + 4096 ≤ s.cycle then (s.modCluster n fun c => { c with mesh := true }).ask n else s)) ∧
   ∀ (s : State) n, s.idle n = none → exec (.stealRequest n) s = .next s ∧ exec (.stealRetry n) s = .next s ∧
     exec (.stealMeshSwitch n) s = .next s ∧ ∀ h, exec (.stealResponse h n) s = .next s)

/-- R41, R200 to R203: once its input has held the threshold, or one record for QAGE cycles or behind closed producers, a queue-fed stage owes
a cell, which the first quad takes at which no launch comes before it; a stage closes when its input is closed and drained and nothing of it
runs, and the last one ends the launch; an epoch lasts 4,096 cycles. -/
def Obligations.StagePipelines : Prop :=
  (let owed (s : State) (id stage : Nat) : State := s.modStage id stage fun t => { t with owes := true }
   let placed (s : State) (id stage : Nat) : State :=
     match (List.range 48).findSome? fun q => (s.takes q).bind fun o => if o.id = id ∧ o.stage = stage then some (q, o) else none with
     | none => s
     | some (q, o) => s.place q o
   let ripe (ev : Nat → Nat → Instr) (ready : State → Launch → Stage → Ring → Prop) : Prop :=
     ∀ (s : State) id stage l t r, Map.get? s.launches id = some l → l.stages[stage]? = some t → s.inputRing id t = some r →
       (s.eligible l = true → t.closed = false → ready s l t r → exec (ev id stage) s = .next (placed (owed s id stage) id stage)) ∧
       ((s.eligible l = false ∨ t.closed = true ∨ ¬ready s l t r) → exec (ev id stage) s = .next (placed s id stage))
   ripe .queueFedPlace (fun _ _ t r => t.threshold ≤ r.done - r.head) ∧
   ripe .qageTimeout fun s l t r => 1 ≤ r.done - r.head ∧
     ((∃ c, Map.get? r.times r.head = some c ∧ c + t.qage ≤ s.cycle) ∨ ∀ p ∈ producers l r.obj, p.closed = true)) ∧
  (∀ (s : State) id stage l t, Map.get? s.launches id = some l → l.stages[stage]? = some t → l.pipeline = true → t.closed = false →
    l.phase = .running →
    let u := (s.modStage id stage fun t => { t with closed := true }).closeOutputs id stage
    let ended := if (Map.get? u.launches id).any (fun l => l.stages.all Stage.closed) then u.finishLaunch id 3 else u
    (∀ r, s.inputRing id t = some r →
      ((r.closed = false ∨ r.done ≠ r.tail ∨ r.head < r.tail ∨ s.clustersOf id stage ≠ []) → exec (.stageClose id stage) s = .next s) ∧
      (r.closed = true → r.done = r.tail → r.tail ≤ r.head → s.clustersOf id stage = [] → exec (.stageClose id stage) s = .next ended)) ∧
    (s.inputRing id t = none → exec (.stageClose id stage) s = .next (if s.stageRun id l stage t then ended else s))) ∧
  (∀ (s : State) id l, Map.get? s.launches id = some l → (l.pipeline = false ∨ s.cycle < l.epoch) → exec (.stageEpoch id) s = .next s) ∧
  ∀ (s : State) id l, Map.get? s.launches id = some l → l.pipeline = true → l.epoch ≤ s.cycle →
    ∃ u l', exec (.stageEpoch id) s = .next u ∧ Map.get? u.launches id = some l' ∧ l'.epoch = l.epoch + 4096 ∧
      (∀ t ∈ l'.stages, t.blockedFor = 0 ∧ t.pressedFor = 0) ∧ u.threads = s.threads ∧ u.mem = s.mem

/-- R197 to R199, R399: the riddle gathers the threads of a key that may move on the partition with the most, the longest waiting first, until
32 are ready there or the next has no slot; an export needs a fuller crucible in the quad and a slot there, and carries the thread's wait
with it; nothing moves from or to a stopped partition. -/
def Obligations.RiddleMoves : Prop :=
  (∀ (s : State) tile ctx pc key, (∀ p < 4, s.heldFor tile p ⟨ctx, pc, BitVec.ofNat 16 key⟩ = []) →
    exec (.riddleMove tile ctx pc key) s = .next s) ∧
  (∀ (s : State) tile k target, s.riddleTarget tile k = some target → target < 4 ∧ ∀ p < 4,
    (s.heldFor tile p k).length ≤ (s.heldFor tile target k).length ∧
      (p < target → (s.heldFor tile p k).length < (s.heldFor tile target k).length)) ∧
  (∀ (s : State) tile ctx pc key target, s.riddleTarget tile ⟨ctx, pc, BitVec.ofNat 16 key⟩ = some target →
    (s.isStopped tile target = true → exec (.riddleMove tile ctx pc key) s = .next s) ∧
    (s.isStopped tile target = false → exec (.riddleMove tile ctx pc key) s = .next (s.riddleMoves tile target ⟨ctx, pc, BitVec.ofNat 16 key⟩
      (((List.range 4).filter fun p => p != target && !s.isStopped tile p).flatMap fun p =>
        byWait ((s.heldFor tile p ⟨ctx, pc, BitVec.ofNat 16 key⟩).filter fun x => s.mayMove x.1 x.2))))) ∧
  (∀ (s : State) tile target k, s.riddleMoves tile target k [] = s ∧ ∀ tid t xs,
    ((32 ≤ s.readyFor tile target k ∨ s.slotFor t tile target = false) → s.riddleMoves tile target k ((tid, t) :: xs) = s) ∧
    (s.readyFor tile target k < 32 → s.slotFor t tile target = true → s.riddleMoves tile target k ((tid, t) :: xs) =
      ((s.regionEnd tid (some 5)).settleAt tid tile target t.since).riddleMoves tile target k xs)) ∧
  (∀ (s : State) tid t n k tile part ready, s.thread? tid = some t → t.place = .crucible n →
    Map.get? (s.partition t.tile t.part).crucibles n = some k → s.mayMove tid t = true → s.isStopped t.tile t.part = false →
    t.exported = false → s.ageOf t ≤ Map.getD (s.partition t.tile t.part).low n 0 → t.tile < 192 →
    s.exportTo t.tile k = some (tile, part, ready) → s.readyFor t.tile t.part k < ready → s.slotFor t tile part = true →
    exec (.threadExport tid) s = .next (((s.regionEnd tid (some 5)).unfile tid).modThread tid fun t =>
      { t with going := some (tile, part), exported := true, since := s.cycle - t.since })) ∧
  (∀ (s : State) tid t, s.thread? tid = some t → (s.mayMove tid t = false ∨ s.isStopped t.tile t.part = true) →
    exec (.threadExport tid) s = .next s) ∧
  (∀ (s : State) tid t tile part, s.thread? tid = some t → t.going = some (tile, part) → exec (.threadArrival tid) s =
    .next (if s.isStopped tile part then s else s.settleAt tid tile part (s.cycle - t.since))) ∧
  ∀ (s : State) tid t, s.thread? tid = some t → t.going = none → exec (.threadArrival tid) s = .next s

/-- R153, R156, R157, R393: CTXSAVE does nothing to a context that is not resident, waits for one that halts, and else stops the context
it names and, a fence at SYSTEM scope, writes it out, its own once its chain has issued; an area that is no multiple of 64 is ALIGN.
CTXLOAD checks an image's header and waits for the restore, which happens once the slot is free, the replies have come and there is room; a
reply that arrives while the context is out is written into the saved record. R37, R73, R135, R415: a created context starts with its
set-up and all else zero, and a full slot, a number of 16 or more, or a device in recovery makes nothing; of a killed one no launch, cell,
operation, window or fault record is left. R384, R385: a halting context whose work is complete is halted: its dump is written under DUMPCTL.EN, and its launches end with
STATUS 0x13; until then, and for any other context, nothing happens. -/
def Obligations.ContextEvents : Prop :=
  ((∀ f (s : State) iss l, Solo s iss (.ctxsave f) l → s.ctx? (l.a % 16) = none → l.a / 32 % 2 ^ 27 = 0 →
     exec (.ctxsave f) s = .next (s.issuing.goesOn iss s.nextId)) ∧
   (∀ f (s : State) iss l c, Solo s iss (.ctxsave f) l → s.ctx? (l.a % 16) = some c → l.a / 32 % 2 ^ 27 = 0 →
     let v := s.stopNamed iss (.ctxsave f)
     let off := Opnd.word l.cap.a 1
     let keep := l.a.testBit 4
     (c.phase = .halting → exec (.ctxsave f) s = .next ((v.issuing.leaveAs l.tid (.again .earlier)).goesOn iss s.nextId)) ∧
     (c.phase ≠ .halting → off % 64 = 0 →
       let w := v.issuing.fence l.tid 5
       (l.a % 16 = l.th.ctx → ∀ u, savePages l (l.a % 16) off keep w = .ok ((), u) →
         exec (.ctxsave f) s = .next (({ u with deferred := u.deferred ++ [.save l.tid l.th.ctx off keep] } : State).goesOn iss s.nextId)) ∧
       (l.a % 16 ≠ l.th.ctx →
         let q := w.quiesce (l.a % 16)
         ∀ c' pages u, q.ctx? (l.a % 16) = some c' →
         let x := q.imageOf (l.a % 16) (outName q.nextId) c' keep
         let bs := areaBytes keep (q.saveSections x q.nextId)
         let records := ((sectionsFrom (firstSection (if keep then 5 else 6)) (q.saveSections x q.nextId)).find? fun y => y.1 == 3).map fun y =>
           y.2.1
         l.areaPages off bs.length .write q = .ok (pages, u) →
         let saved := ({ u with nextId := q.nextId + 1 } : State).writePages l.tid pages bs
         let image := { x with pages := pages, records := records.getD 0 }
         let imaged := { saved with images := Map.set saved.images q.nextId image }
         exec (.ctxsave f) s = .next (((imaged.dropContext (l.a % 16)).renameCtx (l.a % 16) (outName q.nextId)).goesOn iss s.nextId)))) ∧
   (∀ f c, Raises (.ctxsave f) (fun s l => s.ctx? (l.a % 16) = some c ∧ c.phase ≠ .halting ∧ l.a / 32 % 2 ^ 27 = 0 ∧
     Opnd.word l.cap.a 1 % 64 ≠ 0) .align fun _ l => l.th.vaOf (Opnd.word l.cap.a 1)) ∧
   (∀ f, Raises (.ctxsave f) (fun _ l => l.a / 32 % 2 ^ 27 ≠ 0) .illeg fun _ _ => 0) ∧
   (∀ f (s : State) iss l hp s1 dp s2 pages s3 x, Solo s iss (.ctxload f) l → l.a / 32 % 2 ^ 27 = 0 → Opnd.word l.cap.a 1 % 64 = 0 →
     l.areaPages (Opnd.word l.cap.a 1) 64 .read s.issuing = .ok (hp, s1) →
     let n := fieldAt (s1.pageBytes hp 0 64) 6 2
     n ≤ 16 → l.areaPages (Opnd.word l.cap.a 1) (64 + 16 * n) .read s1 = .ok (dp, s2) →
     let h := s2.pageBytes dp 0 (64 + 16 * n)
     headerFault h = none → l.areaPages (Opnd.word l.cap.a 1) (fieldAt h 8 8) .read s2 = .ok (pages, s3) →
     let token := ((sectionAt h 1).map fun o => ofBytes (s3.pageBytes pages o 8)).getD 0
     Map.get? s3.images token = some x → x.loading = none →
     let load : Loading := { slot := l.a % 16, tid := l.tid, pages := pages }
     let imaged := { s3 with images := Map.set s3.images token { x with loading := some load } }
     exec (.ctxload f) s = .next ((imaged.modThread l.tid fun t => t.block (.ctxload token)).goesOn iss s.nextId)) ∧
   (∀ f, Acts (.ctxload f) fun _ _ l => ctxloadWork l) ∧ (∀ f, WorkTraps (.ctxload f) fun _ _ l => ctxloadWork l) ∧
   (∀ (s : State) ctx, (∀ x ∈ s.images, ∀ g, x.2.loading = some g → g.slot ≠ ctx) → exec (.ctxloadRestore ctx) s = .next s) ∧
   (∀ (s : State) ctx token x g, (s.images.findSome? fun x => (x.2.loading.filter fun g => g.slot == ctx).map fun g => (x.1, x.2, g)) =
       some (token, x, g) →
     let h := s.pageBytes g.pages 0 0x140
     let records := x.readRecords s g.pages ((sectionAt h 3).getD 0)
     ((s.ctx? ctx).isSome ∨ g.fault.isSome ∨ x.answered records = false ∨
         (x.anvils.any fun a => (s.tile a.1).anvil.owner.isSome) = true →
       exec (.ctxloadRestore ctx) s = .next s) ∧
     ((s.ctx? ctx).isSome = false → g.fault = none → x.answered records = true →
       (x.anvils.any fun a => (s.tile a.1).anvil.owner.isSome) = false →
       let back : State := { s with
         images := Map.del s.images token, ctxs := Map.set s.ctxs g.slot x.context
         launches := installed (fun l => l.resumed g.slot (s.cycle - x.cycle)) s.launches x.launches }
       (back.placeSaved x g.slot = none → exec (.ctxloadRestore ctx) s = .next s) ∧
       ∀ v, back.placeSaved x g.slot = some v →
         (∀ u, refillContext token x g h records v = .ok ((), u) → exec (.ctxloadRestore ctx) s = .next u) ∧
         (x.anvils = [] → ∃ u, refillContext token x g h records v = .ok ((), u) ∧ exec (.ctxloadRestore ctx) s = .next u))) ∧
   (∀ (s : State) ctx tid entry, (s.images.find? fun x => x.2.ctx == ctx && (Map.get? x.2.threads tid).isSome) = none →
     exec (.detachedReplyAfterSave ctx tid entry) s = .next s) ∧
   (∀ (s : State) x e ws, e.reply = some ws → ∃ r, s.detachedReply x e = some r) ∧
   ∀ (s : State) ctx tid entry token x t e ws c u off, (s.images.find? fun x => x.2.ctx == ctx && (Map.get? x.2.threads tid).isSome) =
       some (token, x) → Map.get? x.threads tid = some t → t.entry? entry = some e → e.state = .flight → e.attached = false →
     s.detachedReply x e = some (ws, c, u) →
     let t' := (t.writeDest e.dst ws .full).modEntry entry fun e => { e with state := .done }
     let v : State := { u with images := Map.set u.images token { x with context := c, threads := Map.set x.threads tid t' } }
     (x.recordAt tid = none → exec (.detachedReplyAfterSave ctx tid entry) s = .next v) ∧
     (x.recordAt tid = some off →
       let w := v.fillRecord x.pages (x.records + off) t e.dst ws
       let pos := x.records + off + t.entryOffset ((t.replay.findIdx? fun y => y.id == entry).getD 0) + 3
       exec (.detachedReplyAfterSave ctx tid entry) s =
         .next (w.patchPages x.pages pos [BitVec.ofNat 8 (ofBytes (w.pageBytes x.pages pos 1) / 4 * 4 + 2)]))) ∧
  ((∀ (s : State) ctx (x : ContextSetup), ctx < 16 → s.ctx? ctx = none → s.boot.phase ≠ .recovery → ∃ u c,
     exec (.contextCreate ctx x) s = .next u ∧ u = { s with ctxs := u.ctxs } ∧ u.ctx? ctx = some c ∧
     (∀ n, n ≠ ctx → u.ctx? n = s.ctx? n) ∧ c.privileged = x.privileged ∧ c.textBase = x.textBase.toNat ∧ c.phase = .running ∧
     c.dies = [] ∧ c.otcount.toNat < 2 ^ 17 ∧ c.otbase.toNat % 64 = 0 ∧ c.ptbase.toNat % 65536 = 0 ∧ c.window.toNat % 2 ^ 32 = 0) ∧
   (∀ (s : State) ctx (x : ContextSetup), (16 ≤ ctx ∨ (s.ctx? ctx).isSome ∨ s.boot.phase = .recovery) →
     exec (.contextCreate ctx x) s = .next s) ∧
   (∀ (s : State) ctx, s.ctx? ctx = none → exec (.contextKill ctx) s = .next s) ∧
   ∀ (s : State) ctx c, s.ctx? ctx = some c → ∃ u, exec (.contextKill ctx) s = .next u ∧ u.ctx? ctx = none ∧
     (∀ r ∈ u.faults, r.2.1 ≠ ctx) ∧ (∀ x ∈ u.launches, x.2.ctx ≠ ctx) ∧ (∀ x ∈ u.cells, x.2.ctx ≠ ctx) ∧ (∀ x ∈ u.ops, x.2.ctx ≠ ctx) ∧
     ∀ x ∈ u.fabric.opens, x.2.ctx ≠ ctx) ∧
  ((∀ (s : State) ctx, s.ctx? ctx = none → exec (.dumpWrite ctx) s = .next s) ∧
   (∀ (s : State) ctx c, s.ctx? ctx = some c → (c.phase ≠ .halting ∨ s.haltPending ctx = true) → exec (.dumpWrite ctx) s = .next s) ∧
   ∀ (s : State) ctx c, s.ctx? ctx = some c → c.phase = .halting → s.haltPending ctx = false →
     let v := s.completeHalt ctx
     exec (.dumpWrite ctx) s = .next (((if c.dumpctl.getLsbD 0 then v.writeDump ctx c else v).failLaunches ctx 0x13).modCtx ctx
       fun c => { c with phase := .halted }))

/-! ## Other agents and devices -/

/-- R287, R311, R348, R360, R363 to R365: a request from another package, of memory that its window shows, performs once: a load answers
the bytes, a store writes them where no held queue is full and counts for what was merged into it, an atomic answers the old word, a
release waits for its stream, a vector does each lane's access; a repeated request does nothing, and one outside HBM and slices stops the
run. R348, R365: a held release performs once its stream has arrived; an acknowledgement takes the copy out of the retry store; a negative
one, or 50 microseconds without one, sends it again, counted, and after eight sendings a push aborts its job. -/
def Obligations.RemoteRequests : Prop :=
  (let fresh (s : State) (src seq : Nat) : Prop := s.fabric.seen.contains (src, seq) = false
   let marked (src seq : Nat) (s : State) : State := { s with fabric := { s.fabric with seen := (src, seq) :: s.fabric.seen } }
   let line (addr : Nat) (bytes : List (Nat × Byte)) : Map Byte := bytes.foldl (fun m b => Map.set m (addr + b.1) b.2) []
   let span (addr : Nat) (bytes : List (Nat × Byte)) : Nat := (((line addr bytes).getLast?).map Prod.fst).getD addr + 1 - addr
   (∀ (s : State) src seq addr size, fresh s src seq → shared addr size = true → exec (.remoteLoadRequest src seq addr size) s =
     .next (marked src seq ((s.acceptReads 0 addr size).answer src seq (s.bytes addr size)))) ∧
   (∀ (s : State) src seq addr bytes count, fresh s src seq → shared addr (span addr bytes) = true →
     (∀ u, s.writeOutside (line addr bytes) = some u → exec (.remoteWriteRequest src seq addr ⟨bytes, count⟩ none) s =
       .next (marked src seq ((u.streamArrivals src count).answer src seq []))) ∧
     (s.writeOutside (line addr bytes) = none → exec (.remoteWriteRequest src seq addr ⟨bytes, count⟩ none) s = .next s) ∧
     ∀ named, exec (.remoteWriteRequest src seq addr ⟨bytes, count⟩ (some named)) s =
       .next (marked src seq (s.holdRelease src seq named (.release addr (line addr bytes) named)))) ∧
   (∀ (s : State) src, s.streamArrivals src 0 = s ∧ ∀ n, s.streamArrivals src (n + 1) = (s.streamArrivals src n).streamArrival src) ∧
   (∀ (s : State) src seq addr op a b, fresh s src seq → shared addr 4 = true →
     (∀ r, s.atomicOutside addr 4 op a.toNat b.toNat = some r → exec (.remoteAtomicRequest src seq addr op a b none) s =
       .next (marked src seq (r.2.answer src seq r.1))) ∧
     (s.atomicOutside addr 4 op a.toNat b.toNat = none → exec (.remoteAtomicRequest src seq addr op a b none) s = .next s) ∧
     ∀ count, exec (.remoteAtomicRequest src seq addr op a b (some count)) s =
       .next (marked src seq (s.holdRelease src seq count (.atomic addr op (a.setWidth 64) (b.setWidth 64) (some count))))) ∧
   (∀ (s : State) src seq page size op lanes, fresh s src seq → shared page 65536 = true →
     (∀ r, s.vectorLanes src page size op [] lanes = some r → exec (.vectorRequest src seq page size op lanes) s =
       .next (marked src seq (r.2.answer src seq r.1))) ∧
     (s.vectorLanes src page size op [] lanes = none → exec (.vectorRequest src seq page size op lanes) s = .next s)) ∧
   (∀ (s : State) src seq, s.fabric.seen.contains (src, seq) = true →
     (∀ addr size, exec (.remoteLoadRequest src seq addr size) s = .next s) ∧
     (∀ addr data c, exec (.remoteWriteRequest src seq addr data c) s = .next s) ∧
     (∀ addr op a b c, exec (.remoteAtomicRequest src seq addr op a b c) s = .next s) ∧
     ∀ page size op lanes, exec (.vectorRequest src seq page size op lanes) s = .next s) ∧
   ∀ (s : State) src seq, fresh s src seq →
     (∀ addr size, shared addr size = false → exec (.remoteLoadRequest src seq addr size) s = .fault (.unassignedAddress addr)) ∧
     (∀ addr data c, shared addr (span addr data.bytes) = false →
       exec (.remoteWriteRequest src seq addr data c) s = .fault (.unassignedAddress addr)) ∧
     (∀ addr op a b c, shared addr 4 = false → exec (.remoteAtomicRequest src seq addr op a b c) s = .fault (.unassignedAddress addr)) ∧
     ∀ page size op lanes, shared page 65536 = false →
       exec (.vectorRequest src seq page size op lanes) s = .fault (.unassignedAddress page)) ∧
  ((∀ (s : State) src seq h, (s.fabric.held.find? fun h => h.src == src && h.seq == seq) = some h → h.missing ≠ 0 →
     exec (.fabricReleasePerform src seq) s = .next s) ∧
   (∀ (s : State) src seq, (s.fabric.held.find? fun h => h.src == src && h.seq == seq) = none →
     exec (.fabricReleasePerform src seq) s = .next s) ∧
   (∀ (s : State) src seq h, (s.fabric.held.find? fun h => h.src == src && h.seq == seq) = some h → h.missing = 0 →
     let freed : State := { s with fabric := { s.fabric with held := s.fabric.held.erase h } }
     (∀ addr bs count, h.payload = .release addr bs count →
       (∀ u, freed.writeOutside bs = some u → exec (.fabricReleasePerform src seq) s = .next (u.answer src seq [])) ∧
       (freed.writeOutside bs = none → exec (.fabricReleasePerform src seq) s = .next s)) ∧
     ∀ addr op a b count, h.payload = .atomic addr op a b count →
       (∀ r, freed.atomicOutside addr 4 op a.toNat b.toNat = some r →
         exec (.fabricReleasePerform src seq) s = .next (r.2.answer src seq r.1)) ∧
       (freed.atomicOutside addr 4 op a.toNat b.toNat = none → exec (.fabricReleasePerform src seq) s = .next s)) ∧
   (∀ (s : State) seq, Map.get? s.fabric.retry seq = none →
     exec (.endToEndAck seq) s = .next s ∧ exec (.negativeAck seq) s = .next s ∧ exec (.resendTimeout seq) s = .next s) ∧
   (∀ (s : State) seq r, Map.get? s.fabric.retry seq = some r →
     let taken : State := { s with fabric := { s.fabric with retry := Map.del s.fabric.retry seq } }
     (∀ p, r.payload = .push p → r.op = none → exec (.endToEndAck seq) s = .next (taken.pushFreed p.tree p.chunk)) ∧
     ((∀ p, r.payload ≠ .push p) →
       (r.op = none → exec (.endToEndAck seq) s = .next taken) ∧
       ∀ id, r.op = some id → exec (.endToEndAck seq) s = .next (taken.closeSend id))) ∧
   (∀ (s : State) seq r, Map.get? s.fabric.retry seq = some r → exec (.resendTimeout seq) s =
     if s.cycle < r.since + 180000 then .next s else exec (.negativeAck seq) s) ∧
   (∀ (s : State) seq r, Map.get? s.fabric.retry seq = some r → 8 ≤ r.resends →
     exec (.negativeAck seq) s = .next (s.failRequest seq r) ∧
     ∀ p, r.payload = .push p → exec (.negativeAck seq) s =
       .next (State.askAbort { s with fabric := { s.fabric with retry := Map.del s.fabric.retry seq } } p.job)) ∧
   ∀ (s : State) seq r, Map.get? s.fabric.retry seq = some r → r.resends < 8 → (∀ p, r.payload ≠ .push p) →
     ∃ u, exec (.negativeAck seq) s = .next u ∧ u.threads = s.threads ∧ u.mem = s.mem ∧
       Map.get? u.fabric.retry seq = some { r with resends := r.resends + 1, since := s.cycle, alt := s.fabric.freest r.target s.free })

/-- R304, R376, R377: a host's posted write reaches the registers of BAR0 or memory through BAR2, its read answers after its earlier writes,
and its FetchAdd, Swap and CAS answer the old value and write the new one; another size or operation does nothing. -/
def Obligations.HostRequests : Prop :=
  let posted (s : State) (addr : Nat) (bytes : List Byte) : State := (s.hostBlocks addr bytes).foldl State.postOutside s
  (∀ (s : State) e addr bytes, e < 2 → addr < 2 ^ 26 → exec (.hostWrite e addr bytes) s = .next (s.mmioStore 0 (bytesAt addr bytes))) ∧
  (∀ (s : State) e addr bytes, e < 2 → 2 ^ 26 ≤ addr → exec (.hostWrite e addr bytes) s = .next (posted s addr bytes)) ∧
  (∀ (s : State) e addr bytes, 2 ≤ e → exec (.hostWrite e addr bytes) s = .next s) ∧
  (∀ (s : State) e addr size,
    let r := (s.hostReads addr size).hostBytes addr size
    exec (.hostRead e addr size) s = .next (r.2.hostAnswer e r.1)) ∧
  (∀ (s : State) e addr size op a b v, (size = 4 ∨ size = 8) → (op = .add ∨ op = .exch ∨ op = .cas) → e < 2 →
    let r := (s.hostReads addr size).hostBytes addr size
    let w := r.2.hostAnswer e r.1
    atomNew op (8 * size) (ofBytes r.1) (a.toNat % 2 ^ (8 * size)) (b.toNat % 2 ^ (8 * size)) = some v →
    (addr < 2 ^ 26 → exec (.hostAtomic e addr size op a b) s = .next (w.mmioStore 0 (bytesAt addr (toBytes size v)))) ∧
    (2 ^ 26 ≤ addr → exec (.hostAtomic e addr size op a b) s = .next (posted w addr (toBytes size v)))) ∧
  (∀ (s : State) e addr size op a b, (size = 4 ∨ size = 8) → (op = .add ∨ op = .exch ∨ op = .cas) → e < 2 →
    let r := (s.hostReads addr size).hostBytes addr size
    atomNew op (8 * size) (ofBytes r.1) (a.toNat % 2 ^ (8 * size)) (b.toNat % 2 ^ (8 * size)) = none →
    exec (.hostAtomic e addr size op a b) s = .next (r.2.hostAnswer e r.1)) ∧
  ∀ (s : State) e addr size op a b, ((size ≠ 4 ∧ size ≠ 8) ∨ (op ≠ .add ∧ op ≠ .exch ∧ op ≠ .cas) ∨ 2 ≤ e) →
    exec (.hostAtomic e addr size op a b) s = .next s

/-- R365, R417, R418, R421: the first failing lane is spared and the port retrains, a second failure leaves it dead; a trained port is up, a port
that is down or disabled is not, and a failing flit is counted; what was in flight on a lost port is resent. -/
def Obligations.LinkEvents : Prop :=
  (∀ (s : State) port lane, 24 ≤ port ∨ 5 ≤ lane ∨ (s.fabric.link port).dead = true ∨ (s.fabric.link port).disable = true →
    exec (.linkRetrain port lane) s = .next s) ∧
  (∀ (s : State) port lane, port < 24 → lane < 5 → (s.fabric.link port).dead = false → (s.fabric.link port).disable = false →
    let l := s.fabric.link port
    (l.spared = true → exec (.linkRetrain port lane) s = .next (State.resendAll { s with fabric := s.fabric.setLink port { l with
      dead := true, up := false, retraining := false, lanes := 0 } } (s.fabric.inFlightOn port))) ∧
    (l.spared = false → exec (.linkRetrain port lane) s = .next (State.resendAll { s with fabric := s.fabric.setLink port { l with
      up := false, retraining := true, spared := true
      lanes := (l.inUse ||| 0b10000#5) &&& ~~~(BitVec.ofNat 5 (2 ^ lane)) } } (s.fabric.inFlightOn port)))) ∧
  (∀ (s : State) port spared, port < 24 → (s.fabric.link port).dead = false → (s.fabric.link port).disable = false →
    ∃ u l, exec (.linkTrained port spared) s = .next u ∧ u = { s with fabric := s.fabric.setLink port l } ∧ l.up = true ∧
      l.retraining = false ∧ l.crcerr = (s.fabric.link port).crcerr) ∧
  (∀ (s : State) port spared, 24 ≤ port ∨ (s.fabric.link port).dead = true ∨ (s.fabric.link port).disable = true →
    exec (.linkTrained port spared) s = .next s) ∧
  (∀ (s : State) port, exec (.linkDown port) s = .next (if port < 24 then s.portDown port (s.fabric.link port) else s)) ∧
  (∀ (s : State) port, port < 24 → exec (.linkDisable port true) s = .next (s.portDown port { s.fabric.link port with disable := true })) ∧
  (∀ (s : State) port, port < 24 → exec (.linkDisable port false) s =
    .next { s with fabric := s.fabric.setLink port { s.fabric.link port with disable := false } }) ∧
  (∀ (s : State) port d, 24 ≤ port → exec (.linkDisable port d) s = .next s ∧ exec (.flitCrcFailure port) s = .next s) ∧
  ∀ (s : State) port, port < 24 → ∃ u, exec (.flitCrcFailure port) s = .next u ∧ u = { s with fabric := u.fabric } ∧
    (u.fabric.link port).crcerr = (s.fabric.link port).crcerr + 1 ∧ (u.fabric.link port).replays = (s.fabric.link port).replays + 1 ∧
    ∀ p, p ≠ port → u.fabric.link p = s.fabric.link p

/-- R4, R5, R92, R114, R142, R234, R303, R382, R383: a register row writes its register, a value that the rule refuses changes nothing,
and no other context, thread or byte of memory changes. R303, R304, R305, R306, R318: under a step a due point postpones a refresh, or
with eight owed forces one of every bank and charges the reader 540 cycles, and a guard refresh is counted alone; without one a refresh
falls due every 366 memory cycles from phase zero, or 183 on a hot stack, the ninth owed forces, and an owed refresh runs on an idle bank.
A refresh holds its banks, for 540 memory cycles or for 210. Nothing but the pseudo-channel's refresh state changes, and the charge. -/
def Obligations.RegisterAndRefreshRows : Prop :=
  ((∀ (s : State) ctx c count (v : BitVec 64), s.ctx? ctx = some c → ∃ u, exec (.otbaseWrite ctx count v) s = .next u ∧
     u.ctx? ctx = some (if count then { c with otcount := (v.setWidth 17).setWidth 32 } else { c with otbase := v &&& 0x000FFFFFFFFFFFC0#64 }) ∧
     (∀ n, n ≠ ctx → u.ctx? n = s.ctx? n) ∧ u.threads = s.threads ∧ u.mem = s.mem) ∧
   (∀ (s : State) ctx c (v : BitVec 32), s.ctx? ctx = some c → ∃ u, exec (.nbvWrite ctx v) s = .next u ∧ u = { s with ctxs := u.ctxs } ∧
     u.ctx? ctx = some (if v = 0 ∨ v = 1 then { c with nbv := v } else c) ∧ ∀ n, n ≠ ctx → u.ctx? n = s.ctx? n) ∧
   (∀ (s : State) tid t (v : BitVec 32), s.thread? tid = some t → ∃ u, exec (.utvecWrite tid v) s = .next u ∧
     u = { s with threads := u.threads } ∧ u.thread? tid = some (if v.toNat % 3 = 0 then { t with utvec := v } else t) ∧
     ∀ n, n ≠ tid → Untouched s u n) ∧
   (∀ (s : State) tid t (v : BitVec 32), s.thread? tid = some t → ∃ u, exec (.fpctlWrite tid v) s = .next u ∧
     u = { s with threads := u.threads } ∧
     u.thread? tid = some (if (v.extractLsb' 4 3).toNat < 6 then { t with fpctl := fpctlWritten t.fpctl v.toNat } else t) ∧
     ∀ n, n ≠ tid → Untouched s u n) ∧
   (∀ (s : State) ctx c (v : BitVec 64), s.ctx? ctx = some c → ∃ u c', exec (.dumpctlWrite ctx v) s = .next u ∧ u = { s with ctxs := u.ctxs } ∧
     u.ctx? ctx = some c' ∧ c' = { c with dumpctl := c'.dumpctl, dumpstat := c'.dumpstat } ∧
     c'.dumpctl = v &&& 0x000FFFFFFFFF0F03#64 ∧ c'.dumpstat = c.dumpstat &&& 0x1FFFFFFF#32 ∧ ∀ n, n ≠ ctx → u.ctx? n = s.ctx? n) ∧
   (∀ (s : State) tid t (v : BitVec 32), (s.settleAccesses tid).thread? tid = some t →
     let reached := (s.settleAccesses tid).reach t ((v.extractLsb' 11 21).toNat * 2 ^ 11) 1 .read
     (∀ pa nrd s1, reached = (.ok pa nrd, s1) →
       let p := pchOf (s1.localPa pa)
       (regionOf (s1.localPa pa) = .hbm → exec (.refphaseWrite tid v) s = .next { s1.setPch p { s1.pch p with
           step := (v.extractLsb' 0 8).toNat, block := some (s1.localPa pa / 2048), owed := 0, bank := bankOf (s1.localPa pa), reads := 0
           forced := 0, postp := 0, guard := 0, since := s1.cycle, phase := s1.cycle } with
         refReported := some p, refphase := v &&& 0xFFFFF8FF#32 }) ∧
       (regionOf (s1.localPa pa) ≠ .hbm → exec (.refphaseWrite tid v) s = .next s)) ∧
     (∀ c info s1, reached = (.trap c info, s1) → exec (.refphaseWrite tid v) s = .next s) ∧
     ∀ f s1, reached = (.fault f, s1) →
       exec (.refphaseWrite tid v) s = .next (s.modThread tid fun t => { t with parked := some f }.block .fault)) ∧
   (∀ (s : State) ctx, s.ctx? ctx = none → (∀ v, exec (.nbvWrite ctx v) s = .next s) ∧ ∀ v, exec (.dumpctlWrite ctx v) s = .next s) ∧
   (∀ (s : State) tid, s.thread? tid = none → (∀ v, exec (.utvecWrite tid v) s = .next s) ∧ (∀ v, exec (.fpctlWrite tid v) s = .next s) ∧
     ∀ v, (s.settleAccesses tid).thread? tid = none → exec (.refphaseWrite tid v) s = .next (s.settleAccesses tid)) ∧
   ∀ (s : State) offset size (v : BitVec 64), exec (.mmioRegisterWrite offset size v) s =
     .next (s.mmioStore 0 ((toBytes (min size 8) v.toNat).zipIdx.map fun b => (offset + b.2, b.1)))) ∧
  ((∀ (s : State) pch tid, (s.pch pch).step = 0 → exec (.refreshDuePoint pch tid) s = .next s ∧ exec (.guardRefresh pch) s = .next s) ∧
   (∀ (s : State) pch tid, (s.pch pch).step ≠ 0 → (s.pch pch).owed < 8 → ∃ u, exec (.refreshDuePoint pch tid) s = .next u ∧
     u = { s with refresh := u.refresh } ∧
     u.pch pch = { s.pch pch with owed := (s.pch pch).owed + 1, postp := (s.pch pch).postp + 1 } ∧ ∀ p, p ≠ pch → u.pch p = s.pch p) ∧
   (∀ (s : State) pch tid t, (s.pch pch).step ≠ 0 → 8 ≤ (s.pch pch).owed → s.thread? tid = some t →
     ∃ u, exec (.refreshDuePoint pch tid) s = .next u ∧
     u = { s with refresh := u.refresh, threads := u.threads } ∧
     u.pch pch = { s.pch pch with owed := 0, forced := (s.pch pch).forced + 1, since := s.cycle }.hold (List.range 16) s.cycle 540 false ∧
     (∀ p, p ≠ pch → u.pch p = s.pch p) ∧ u.thread? tid = some { t with latcnt := chargeField t.latcnt 2 540 } ∧
     ∀ n, n ≠ tid → Untouched s u n) ∧
   (∀ (s : State) pch, (s.pch pch).step ≠ 0 → ∃ u, exec (.guardRefresh pch) s = .next u ∧ u = { s with refresh := u.refresh } ∧
     u.pch pch = { s.pch pch with guard := (s.pch pch).guard + 1, since := s.cycle }.hold (List.range 16) s.cycle 540 true ∧ ∀ p, p ≠ pch → u.pch p = s.pch p) ∧
   (∀ (s : State) pch, (s.pch pch).step ≠ 0 → exec (.refreshInterval pch) s = .next s ∧ exec (.perBankRefresh pch) s = .next s) ∧
   (∀ (s : State) pch, (s.pch pch).step = 0 → ∃ u, exec (.refreshInterval pch) s = .next u ∧ u = { s with refresh := u.refresh } ∧
     (∀ p, p ≠ pch → u.pch p = s.pch p) ∧
     ((s.pch pch).owed = 8 → u.pch pch =
       { s.pch pch with owed := 0, forced := (s.pch pch).forced + 1 }.hold (List.range 16) s.cycle 540 false) ∧
     ((s.pch pch).owed ≠ 8 → u.pch pch = { s.pch pch with
       owed := (s.pch pch).owed + 1, postp := (s.pch pch).postp + (if s.bankBusy pch (s.pch pch).bank then 1 else 0) })) ∧
   (∀ (s : State) pch, (s.pch pch).step = 0 → 0 < (s.pch pch).owed → s.bankBusy pch (s.pch pch).bank = false →
     ∃ u, exec (.perBankRefresh pch) s = .next u ∧ u = { s with refresh := u.refresh } ∧
     u.pch pch = { s.pch pch with owed := (s.pch pch).owed - 1, bank := ((s.pch pch).bank + 1) % 16 }.hold [(s.pch pch).bank] s.cycle 210
       false ∧ ∀ p, p ≠ pch → u.pch p = s.pch p) ∧
   (∀ (r : Refresh) b now cycles guard, Map.get? (r.hold [b] now cycles guard).held b = some (now + ofMemCycles cycles, guard)) ∧
   (∀ (s : State) pch phase, phase < s.cycle →
     let memory (c : Nat) : Nat := (c - phase) * 5 / 12
     (Config.hotStack s.cycle (pch / 64) = false →
       (s.intervalDue pch phase = true ↔ memory s.cycle / 366 ≠ memory (s.cycle - 1) / 366)) ∧
     (Config.hotStack s.cycle (pch / 64) = true →
       (s.intervalDue pch phase = true ↔ memory s.cycle / 183 ≠ memory (s.cycle - 1) / 183))) ∧
   (∀ (s : State) pch, (s.pch pch).owed = 0 ∨ s.bankBusy pch (s.pch pch).bank = true → exec (.perBankRefresh pch) s = .next s) ∧
   (∀ (s : State) pch, s.oldestAccess pch = none → exec (.reorderLimit pch) s = .next s) ∧
   (∀ (s : State) pch tid e, s.oldestAccess pch = some (tid, e) →
     exec (.reorderLimit pch) s = .next (nextOr s (exec (.atomicPerform tid e) (nextOr s (exec (.loadDataArrival tid e) s))))) ∧
   (∀ (s : State) addr, regionOf addr = .hbm → addr / 2048 ∉ s.boot.rows →
     exec (.rowRepair addr) s = .next { s with boot := { s.boot with rows := addr / 2048 :: s.boot.rows } }) ∧
   ∀ (s : State) addr, regionOf addr ≠ .hbm ∨ addr / 2048 ∈ s.boot.rows → exec (.rowRepair addr) s = .next s)

/-- R213 to R215: a TIMENS read latches the seconds; TIMEADJ is clamped to 2,048,000,000 either way; TIMESTEP moves the clock by signed
nanoseconds and fires each trigger it passes, none backward; a PPS edge under source 2 sets the nanoseconds to 0; TRIGSEC takes the time whole; a
firing enqueues the record, and one at an offset that is no multiple of 64 has code 1. -/
def Obligations.TimingBlock : Prop :=
  (∀ (s : State), exec .timensRead s = .next { s with timing := { s.timing with secLatch := s.timing.clock / 1000000000 % 2 ^ 48 } }) ∧
  (∀ (s : State) (v : BitVec 32), ∃ u, exec (.timeadjWrite v) s = .next u ∧ u = { s with timing := { s.timing with adj := u.timing.adj } } ∧
    u.timing.adj.toInt = max (-2048000000) (min 2048000000 v.toInt)) ∧
  (∀ (s : State) (v : BitVec 64),
    let new : Int := s.timing.clock + v.toInt
    exec (.timestepWrite v) s = .next { s with
      timing := { s.timing with clock := (new % ((2 ^ 48 * 1000000000 : Nat) : Int)).toNat }
      deferred := s.deferred ++ (s.timing.passed new.toNat).map Deferred.fire }) ∧
  (∀ (t : Timing) (new : Int), new ≤ t.clock → t.passed new.toNat = []) ∧
  (∀ (t : Timing) new, (∀ n, Deferred.fire n ∈ (t.passed new).map Deferred.fire → t.clock < new ∧ n < 16)) ∧
  (∀ (s : State), s.timing.src ≠ 2 → exec .ppsEdge s = .next { s with timing := { s.timing with todWritten := false } }) ∧
  (∀ (s : State), s.timing.src = 2 → ∃ u, exec .ppsEdge s = .next u ∧ u.timing.clock % 1000000000 = 0 ∧
    u.timing.clock / 1000000000 = (if s.timing.todWritten then s.timing.todnext % 2 ^ 48 else (s.timing.clock / 1000000000 + 1) % 2 ^ 48) ∧
    u.timing.todWritten = false) ∧
  (∀ (s : State) n (v : BitVec 64), n < 16 → ∃ u, exec (.trigsecWrite n v) s = .next u ∧ u = { s with timing := u.timing } ∧
    (u.timing.trigger n).time = v.toNat % 2 ^ 48 * 1000000000 + (s.timing.trigger n).ns ∧ (u.timing.trigger n).sec = v.toNat % 2 ^ 48 ∧
    ∀ k, k ≠ n → u.timing.trigger k = s.timing.trigger k) ∧
  (∀ (s : State) n (v : BitVec 64), 16 ≤ n → exec (.trigsecWrite n v) s = .next s) ∧
  (∀ (s : State) n, .fire n ∉ s.deferred → .fireFailed n ∉ s.deferred → exec (.triggerFire n) s = .next s) ∧
  (∀ (s : State) n, .fire n ∈ s.deferred →
    exec (.triggerFire n) s = .next (State.fireTrigger { s with deferred := s.deferred.erase (.fire n) } n false)) ∧
  (∀ (s : State) n, .fire n ∉ s.deferred → .fireFailed n ∈ s.deferred →
    exec (.triggerFire n) s = .next (State.fireTrigger { s with deferred := s.deferred.erase (.fireFailed n) } n true)) ∧
  (∀ (s : State) n, (s.timing.trigger n).record.toNat % 64 ≠ 0 →
    s.fireTrigger n false = { s with timing := s.timing.setTrigger n ((s.timing.trigger n).fire 1 s.timing.clock) }) ∧
  ∀ (s : State) n code u, (s.timing.trigger n).record.toNat % 2 ^ 32 % 64 = 0 →
    enqueueRecord ioTile ((s.timing.trigger n).record.toNat / 2 ^ 32 % 16) ((s.timing.trigger n).record.toNat % 2 ^ 32) s = .ok (code, u) →
    s.fireTrigger n false = { u with timing := u.timing.setTrigger n ((s.timing.trigger n).fire code u.timing.clock) }

/-- R394 to R397, R416: each instruction of the debug port selects itself; DBGDATA reads or writes at DBGADDR, which then moves on by 8,
and a locked port reads zero and writes nothing; a signature that verifies unlocks the port, and M7 is extended. R395, R398 to R400,
R404, R409, R410: with debug unlocked a stop request stops its partition, a release or a step lets it go on, a write of THRDATA is made
or refused, CLR clears the lane counters, and a running partition with sampling enabled emits a sample; a locked device does none of it. -/
def Obligations.DebugAccess : Prop :=
  ((∀ (s : State) code scan, (code = 0xFF ∨ code ∉ portCodes) → ∃ u, exec (.bypass ⟨code, scan⟩) s = .next u ∧ u = { s with port := u.port } ∧
     u.port.ir = code ∧ u.port.captured = 0 ∧ u.port.bypass = scan.getLastD false ∧ u.port.driven = none ∧ u.port.locked = s.port.locked) ∧
   (∀ (s : State) code scan, code ≠ 0xFF → code ∈ portCodes → exec (.bypass ⟨code, scan⟩) s = .next s) ∧
   portCodes = [0x01, 0x20, 0x21, 0x22, Config.sampleCode, Config.extestCode] ∧
   (∀ (s : State) scan, ∃ u, exec (.samplePreload scan) s = .next u ∧ u = { s with port := u.port, free := s.free + 1 } ∧
     u.port.cells = scan ∧ u.port.driven = none ∧ u.port.locked = s.port.locked) ∧
   (∀ (s : State) scan, ∃ u, exec (.extest scan) s = .next u ∧ u = { s with port := u.port, free := s.free + 1 } ∧
     u.port.cells = scan ∧ u.port.driven = some scan ∧ u.port.locked = s.port.locked) ∧
   (∀ (s : State), ∃ u, exec .idcode s = .next u ∧ u = { s with port := u.port } ∧ u.port.ir = 0x01 ∧ u.port.captured = 0x10960001 ∧
     u.port.locked = s.port.locked) ∧
   (∀ (s : State) (v : BitVec 64), ∃ u, exec (.dbgaddr v) s = .next u ∧ u = { s with port := u.port } ∧ u.port.ir = 0x20 ∧
     u.port.addr = v &&& 0x80FFFFFFFFFFFFF8#64 ∧ u.port.locked = s.port.locked) ∧
   (∀ (s : State), s.port.addr.getLsbD 63 = true → s.port.locked = false → exec .dbgdataCapture s = .next (s.select 0x21)) ∧
   (∀ (s : State), s.port.addr.getLsbD 63 = true → s.port.locked = true → ∃ u, exec .dbgdataCapture s = .next u ∧
     u = { s with port := u.port } ∧ u.port.captured = 0 ∧ u.port.addr = s.port.addr) ∧
   (∀ (s : State), s.port.addr.getLsbD 63 = false → s.port.locked = true → ∃ u, exec .dbgdataCapture s = .next u ∧
     u = { s with port := u.port } ∧ u.port.captured = 0 ∧ u.port.addr.toNat = (s.port.addr.toNat + 8) % 2 ^ 56) ∧
   (∀ (s : State), s.port.addr.getLsbD 63 = false → s.port.locked = false →
     let r := (s.select 0x21).debugRead (s.port.addr.toNat % 2 ^ 56)
     exec .dbgdataCapture s = .next (State.nextAddress { r.2 with port := { r.2.port with captured := BitVec.ofNat 544 r.1 } })) ∧
   (∀ (s : State) v, s.port.addr.getLsbD 63 = false → exec (.dbgdataUpdate v) s = .next (s.select 0x21)) ∧
   (∀ (s : State) v, s.port.addr.getLsbD 63 = true → s.port.locked = true →
     exec (.dbgdataUpdate v) s = .next (s.select 0x21).nextAddress) ∧
   (∀ (s : State) v, s.port.addr.getLsbD 63 = true → s.port.locked = false →
     exec (.dbgdataUpdate v) s = .next ((s.select 0x21).debugWrite (s.port.addr.toNat % 2 ^ 56) v.toNat).nextAddress) ∧
   (∀ (s : State), ∃ u, exec .dbgauthCapture s = .next u ∧ u = { s with port := u.port } ∧ u.port.nonces = s.port.nonces + 1 ∧
     u.port.captured = (Config.nonce s.port.nonces).setWidth 544 ∧ u.port.locked = s.port.locked) ∧
   (∀ (s : State) v, Config.ownerKey = none → exec (.dbgauthUpdate v) s = .next (s.select 0x22)) ∧
   (∀ (s : State) v key, Config.ownerKey = some key →
     (s.port.locked = false ∨ s.port.nonces = 0 ∨ Config.sm2Verifies key s.port.message (v.setWidth 512) = false) →
     exec (.dbgauthUpdate v) s = .next (s.select 0x22)) ∧
   ∀ (s : State) v key, Config.ownerKey = some key → s.port.locked = true → 0 < s.port.nonces →
     Config.sm2Verifies key s.port.message (v.setWidth 512) = true → ∃ u, exec (.dbgauthUpdate v) s = .next u ∧
     u.port.locked = false ∧ u.boot = s.boot.extend 7 [Config.debugByte false] ∧ u.mem = s.mem ∧ u.threads = s.threads) ∧
  ((∀ (s : State) tile part, s.port.locked = true → exec (.debugStopRequest tile part) s = .next s ∧ exec (.debugRelease tile part) s = .next s ∧
     exec (.debugStep tile part) s = .next s ∧ (∀ v, exec (.thrdataWrite tile part v) s = .next s) ∧
     exec (.laneCounterClear tile part) s = .next s ∧ exec (.pcSample tile part) s = .next s) ∧
   (∀ (s : State) tile part, s.port.locked = false → ∃ u, exec (.debugStopRequest tile part) s = .next u ∧
     (u.block tile part).stop = true ∧ (u.block tile part).stopped = true ∧ (s.trace.ctl.getLsbD 31 = false → u = { s with debug := u.debug }) ∧
     ((s.block tile part).stopped = false → (u.block tile part).reason = 1 ∧ (u.block tile part).stopcyc = s.cycle)) ∧
   (∀ (s : State) tile part, s.port.locked = false → ∃ u, exec (.debugRelease tile part) s = .next u ∧
     (u.block tile part).stop = false ∧ (u.block tile part).stopped = false) ∧
   (∀ (s : State) tile part, s.port.locked = false → (s.block tile part).stopped = true → ∃ u, exec (.debugStep tile part) s = .next u ∧
     (u.block tile part).stopped = false ∧ (u.block tile part).stepping = true) ∧
   (∀ (s : State) tile part, s.port.locked = false → (s.block tile part).stopped = false → exec (.debugStep tile part) s = .next s) ∧
   (∀ (s : State) tile part v, s.port.locked = false → ((s.block tile part).stopped = false ∨ s.selected tile part = none) →
     ∃ u, exec (.thrdataWrite tile part v) s = .next u ∧ u = { s with debug := u.debug } ∧ (u.block tile part).refused = true) ∧
   (∀ (s : State) tile part v x, s.port.locked = false → (s.block tile part).stopped = true → s.selected tile part = some x →
     let b := s.block tile part
     (x.2.refuses b.cls b.num = true → ∃ u, exec (.thrdataWrite tile part v) s = .next u ∧ u = { s with debug := u.debug } ∧
       (u.block tile part).refused = true) ∧
     (x.2.refuses b.cls b.num = false → exec (.thrdataWrite tile part v) s =
       .next ((s.setBlock tile part { b with data := v }).writeThread tile part x.1 x.2 b.cls b.num v.toNat))) ∧
   (∀ (s : State) tile part, s.port.locked = false → ∃ u, exec (.laneCounterClear tile part) s = .next u ∧ u = { s with debug := u.debug } ∧
     u.block tile part = { s.block tile part with lcs := [] }) ∧
   (∀ (s : State) tile part, ((s.block tile part).stopped = true ∨ (s.block tile part).sampctl.getLsbD 31 = false ∨
     s.nextSample tile part (s.block tile part).sampled = none) → exec (.pcSample tile part) s = .next s) ∧
   ∀ (s : State) tile part tid t, s.port.locked = false → (s.block tile part).stopped = false → (s.block tile part).sampctl.getLsbD 31 = true →
     s.nextSample tile part (s.block tile part).sampled = some (tid, t) →
     let r := s.sampleReason (s.block tile part) tid t
     exec (.pcSample tile part) s = .next ((s.setBlock tile part { s.block tile part with sampled := some t.pos }).emit 10 t.ctx tile part t.wid
       (toBytes 3 t.pc ++ toBytes 1 r.1 ++ toBytes 2 r.2)))

/-- R413, R414: a tile without ready threads and engine work is gated, one with no resident thread for 1 ms is retained at 480 mV, work
wakes it, and a window's reported power is at most PWRLIM; no thread, register or byte of memory changes. R395, R415, R416, R420: a
device reset starts again from the reset values with debug locked, and from a slot's image or in recovery; an image that fails the
checks changes nothing; each request of the identity protocol is answered, and by none in recovery; a retired tile's number stops being
placed on. -/
def Obligations.PowerAndFirmware : Prop :=
  (let onlyTile (s u : State) (n : Nat) : Prop := u = { s with tiles := u.tiles, free := u.free } ∧ ∀ k, k ≠ n → u.tile k = s.tile k
   (∀ (s : State) n, (s.tile n).power = .run → s.hasReady n = false → s.hasWork n = false → ∃ u, exec (.powerGateEntry n) s = .next u ∧
     onlyTile s u n ∧ u.tile n = { s.tile n with power := .gated }) ∧
   (∀ (s : State) n, (s.tile n).power ≠ .run ∨ s.hasReady n = true ∨ s.hasWork n = true → exec (.powerGateEntry n) s = .next s) ∧
   (∀ (s : State) n, (s.tile n).power ≠ .retain → s.resident n = false → s.hasWork n = false →
     (s.tile n).busy + 1000 * (s.tile n).tfreq ≤ s.cycle → ∃ u, exec (.retainEntry n) s = .next u ∧ onlyTile s u n ∧
     u.tile n = { s.tile n with power := .retain, tvolt := 480 }) ∧
   (∀ (s : State) n, s.resident n = true ∨ s.hasWork n = true → exec (.retainEntry n) s = .next s) ∧
   (∀ (s : State) n, s.hasReady n = true ∨ s.hasWork n = true → ∃ u, exec (.powerWake n) s = .next u ∧ onlyTile s u n ∧
     (u.tile n).power = .run ∧ ((s.tile n).power = .retain → 540 ≤ (u.tile n).tvolt) ∧
     ((s.tile n).power ≠ .retain → (u.tile n).tvolt = (s.tile n).tvolt)) ∧
   (∀ (s : State) n, s.hasReady n = false → s.hasWork n = false → exec (.powerWake n) s = .next s) ∧
   ∀ (s : State) n, ∃ u, exec (.powerLimitWindow n) s = .next u ∧ onlyTile s u n ∧ (u.tile n).tpwr ≤ (u.tile n).pwrlim ∧
     (u.tile n).pwrlim = (s.tile n).pwrlim ∧ (u.tile n).ttemp < 65536 ∧ (u.tile n).tfreq ≤ (s.tile n).tfreq) ∧
  ((∀ (s : State), ∃ u, exec .deviceReset s = .next u ∧ u.threads = [] ∧ u.ctxs = [] ∧ u.mem = [] ∧ u.cycle = 0 ∧ u.port.locked = true ∧
     u.tiles = [] ∧ u.timing = {} ∧ u.fltring = 0 ∧ u.boot.slotA = s.boot.slotA ∧ u.boot.slotB = s.boot.slotB ∧
     (Config.imagePasses s.boot.slotA = false → Config.imagePasses s.boot.slotB = false → u.boot.phase = .recovery) ∧
     (Config.imagePasses s.boot.slotA = true → u.boot.phase = .running)) ∧
   (∀ (s : State) image, Config.imagePasses image = false → exec (.firmwareImageDoe image) s = .next s) ∧
   (∀ (s : State) image, Config.imagePasses image = true → ∃ u, exec (.firmwareImageDoe image) s = .next u ∧ u = { s with boot := u.boot } ∧
     u.boot.slotA = image ∧ (s.boot.phase = .recovery → u.boot.phase = .running) ∧
     (s.boot.phase ≠ .recovery → u.boot = { s.boot with slotA := image })) ∧
   (∀ (s : State) e request, s.boot.phase ≠ .recovery →
     let said (kind : Nat) (report : List Byte) : List Byte := Config.spdmResponse (BitVec.ofNat 8 kind :: (report ++ request))
     let answers (r : List Byte) : State := { s with boot := { s.boot with responses := s.boot.responses ++ [(e, request, r)] } }
     let signed (r : List Byte) : List Byte := r ++ Config.identitySign (request ++ r)
     exec (.getVersion e request) s = .next (answers (said 0 [])) ∧ exec (.getCapabilities e request) s = .next (answers (said 1 [])) ∧
     exec (.negotiateAlgorithms e request) s = .next (answers (said 2 [])) ∧
     exec (.getDigests e request) s = .next (answers (said 3 (digestBytes (Config.sm3 Config.certificate)))) ∧
     exec (.getCertificate e request) s = .next (answers (said 4 Config.certificate)) ∧
     exec (.challenge e request) s = .next (answers (signed (said 5 s.boot.report))) ∧
     exec (.getMeasurements e request) s = .next (answers (signed (said 6 s.boot.report)))) ∧
   (∀ (s : State) e request, s.boot.phase = .recovery → exec (.getVersion e request) s = .next s ∧ exec (.getCapabilities e request) s = .next s ∧
     exec (.negotiateAlgorithms e request) s = .next s ∧ exec (.getDigests e request) s = .next s ∧
     exec (.getCertificate e request) s = .next s ∧ exec (.challenge e request) s = .next s ∧ exec (.getMeasurements e request) s = .next s) ∧
   (∀ (s : State) tile force, (s.boot.retired.contains tile = true ∨ s.boot.phase = .recovery) → exec (.tileRetire tile force) s = .next s) ∧
   (∀ (s : State) tile force, s.boot.retired.contains tile = false → s.boot.phase ≠ .recovery → s.boot.virtual tile = none →
     exec (.tileRetire tile force) s = .next { s with boot := s.boot.retire tile }) ∧
   ∀ (s : State) tile v, s.boot.retired.contains tile = false → s.boot.phase ≠ .recovery → s.boot.virtual tile = some v →
     exec (.tileRetire tile false) s = .next (State.finishRetiring { s with boot := { s.boot with
       retiring := if s.boot.retiring.contains v then s.boot.retiring else v :: s.boot.retiring } }))

/-! ## Steps, decoding and reset -/

/-- R51, R57, R59, R61: a step issues the next instruction of the chain in progress, and retires the chain after its last; before a drawn
chain's first, the earliest decode trap of them all is taken and none of them issues. Else it runs what a write or the clock has set off,
then the agenda, then an entry of a released pin, then the next selector's turn, whose drawn packet's first instruction issues in that step;
a packet of one instruction decodes to exactly it. -/
def Obligations.StepRunsDecoded : Prop :=
  let issues (s : State) (iss : Issue) (i : ChainItem) (is : List ChainItem) : Host.Outcome State Fault Refusal :=
    andThen (exec i.instr { s with issue := some { iss with cur := i, todo := is, drawn := false } }) State.settleChain
  (∀ (s : State) iss i is, s.issue = some iss → iss.drawn = false → iss.todo = i :: is → step s = issues s iss i is) ∧
  (∀ (s : State) iss, s.issue = some iss → iss.drawn = false → iss.todo = [] → step s = .next s.retire) ∧
  (let begins (s u : State) : Prop := ∀ v i is, u.issue = some v → v.drawn = true → v.todo = i :: is →
     (∀ r, v.todo.findSome? (u.foresee exec v) = some r → step s =
       .next (State.retire { u with issue := some { v with drawn := false, todo := [], raised := some r } })) ∧
     (v.todo.findSome? (u.foresee exec v) = none →
       step s = issues (u.countIssue v (v.todo.map fun x => (u.expanded v x).instr)) v i is)
   (∀ (s : State), begins s s) ∧
   ∀ (s : State) k, s.Idle → s.nextPartition (s.focus.1 * 4 + s.focus.2) = some k →
     let u := State.draw { s with focus := ((k + 1) / 4, (k + 1) % 4) } (k / 4) (k % 4)
     (u.issue = none → step s = .next u) ∧ begins s u ∧
     ∀ v, u.issue = some v → v.drawn = false → v.todo = [] → step s = .next u.retire) ∧
  (∀ (s : State), s.Idle → s.nextPartition (s.focus.1 * 4 + s.focus.2) = none → step s = .next { s.tick with focus := (0, 0) }) ∧
  (∀ (s : State) tile part x xs, s.dispatched tile part = s → s.Draws tile part x xs → s.thread? x.1 = some x.2 →
    ∀ pas u, s.fetchPacket tile x.2.ctx x.2.pc = (.ok pas, u) → s.draw tile part =
      let v := u.acceptRead x.1 (pas.headD 0)
      v.drawChain { ctx := x.2.ctx, tile := tile, part := part, first := x.2.pc, rpc := x.2.pc, cur := { instr := .nop ⟨false⟩, pc := x.2.pc }
                    slots := (s.slotsFor (x :: xs)).filter fun y => (v.thread? y.2).any fun t =>
                      (t.stale.isEmpty && x.2.stale.isEmpty) || v.chainAt t pas == u.chainAt x.2 pas } (u.chainAt x.2 pas) false) ∧
  (∀ (s : State) t pas i n, decodeWords (wordsFrom t.pc (pas.map (s.textWord t))) = .ok (i, n) → chainedOf i = false →
    (∀ f, i ≠ .stamp f) → s.chainAt t pas = [{ pc := t.pc, word := some i, instr := some i }]) ∧
  (∀ (s : State) iss i again, s.Unhindered iss i again →
    ∃ v, (s.drawChain iss [{ pc := iss.first, word := some i, instr := some i }] again).issue = some v ∧ v.drawn = true ∧
      v.todo = [{ instr := i, pc := iss.first }] ∧ v.raised = iss.raised ∧ v.slots = iss.slots ∧ v.ctx = iss.ctx ∧ v.tile = iss.tile ∧
      v.part = iss.part ∧ v.first = iss.first ∧ v.rpc = (iss.first + lengthOf i) % 2 ^ 24) ∧
  (∀ (s : State) d ds, s.issue = none → s.deferred = d :: ds → step s = { s with deferred := ds }.runDeferred d) ∧
  (∀ (s : State) i is, s.issue = none → s.deferred = [] → s.agenda = i :: is → step s = exec i { s with agenda := is }) ∧
  (∀ (s : State) r, s.issue = none → s.deferred = [] → s.agenda = [] → s.nextReinject = some r →
    step s = .next (s.reinjectStep fun i s => nextOr s (exec i s))) ∧
  (∀ (s : State) tile part, s.issue = none → exec (.selectorDraw tile part) s = .next (s.draw tile part)) ∧
  ∀ (s : State) tile part, s.issue.isSome → exec (.selectorDraw tile part) s = .next s

/-- R76, R77: a stamp expands with its three fields added to its die's holes, and the expansion issues next at its word; an entry that is
not valid is DIEUNDEF with its number and decode bank, a field that overflows its hole or an illegal expansion ILLEG, and then
nothing of the chain after it issues. -/
def Obligations.StampExpansion : Prop :=
  let die (s : State) (iss : Issue) (f : StampForm) : Die :=
    s.dieEntry iss.ctx (((iss.slots.head?).bind fun x => s.thread? x.2).any Thread.bank) f.e.toNat
  (∀ f (s : State) iss i, s.issue = some iss → expandStamp (die s iss f) f = .ok i → exec (.stamp f) s = .next
    { s with issue := some { iss with todo := { instr := i, pc := iss.cur.pc, stamp := true } :: iss.todo } }) ∧
  (∀ f (s : State) iss x, s.issue = some iss → expandStamp (die s iss f) f = .error x →
    ∃ v r, exec (.stamp f) s = .next { s with issue := some v } ∧ v = { iss with raised := v.raised, todo := [] } ∧ v.raised = some r ∧
      (iss.raised = none → r.cause = x.1 ∧ r.decode = true ∧ r.stamp = true ∧ r.pc = iss.cur.pc ∧ r.infos.map Prod.fst = iss.slots.map Prod.fst)) ∧
  (∀ (d : Die) f, d.holes.getLsbD 31 = false → expandStamp d f = .error (.dieundef, BitVec.ofNat 64 f.e.toNat)) ∧
  (∀ (d : Die) f n pre base t add, d.holes.getLsbD 31 = true → (n = 1 ∨ n = 2 ∨ n = 3) → d.hole n = (t, add) → t ≠ 0 →
    holeField (d.base.toNat / 2 ^ 25 % 64) (d.holes.getLsbD 30) t = some (pre, base) →
    2 ^ base.2 ≤ add + (if n = 1 then f.h.toNat else if n = 2 then f.i.toNat else f.j.toNat) → ∃ y, expandStamp d f = .error (.illeg, y)) ∧
  ∀ (d : Die) f m, d.holes.getLsbD 31 = true → d.holes.getLsbD 30 = false → d.base.toNat / 2 ^ 25 % 64 = m → (d.hole 1).1 = 1 →
    (d.hole 2).1 = 2 → (d.hole 3).1 = 0 → (aFormat m || iFormat m || mFormat m) = true →
    f.h.toNat + (d.hole 1).2 < 128 → f.i.toNat + (d.hole 2).2 < 128 →
    expandWords d f = .ok [putField (putField (d.base.toNat % 2 ^ 31 + (if f.c then 2 ^ 31 else 0)) 18 7 (f.h.toNat + (d.hole 1).2))
      11 7 (f.i.toNat + (d.hole 2).2)]

/-- The encoder and the decoder agree on every well-formed instruction of the opcode table: no bit of an encoding is lost. -/
def Obligations.DecodeOfEncode : Prop :=
  ∀ i, Laws.RoundTrip.Statement i

/-- Words of each family, written out from the bit diagrams of R57, R58, R81 and the opcode tables, decode to the instruction each stands for. -/
def Obligations.DecodeWords : Prop :=
  let plain (i : Instr) (n : Nat) : Except DecodeError (Instr × Nat) := .ok (i, n)
  -- the worked encodings of the manual
  decodeWords [0x00000000] = plain (.nop ⟨false⟩) 1 ∧
  decodeWords [0x7C002000, 0xA024307C] = plain (.ffma ⟨some ⟨0, false, 0, 8, false, 0⟩, true, 9, 6, 7, false, false⟩) 2 ∧
  decodeWords [0x42302800] = plain (.ld ⟨none, false, 4, 12, 5, false, 0⟩) 1 ∧
  decodeWords [0x42100801] = plain (.ld ⟨none, false, 4, 4, 1, false, 1⟩) 1 ∧
  decodeWords [0x1E080002] = plain (.ishli ⟨none, false, 2, 0, false, 2⟩) 1 ∧
  decodeWords [0x3A080000] = plain (.icmpi ⟨none, false, 0, 2, 0, false, 0⟩) 1 ∧
  decodeWords [0x04001002] = plain (.loopImm ⟨false, 4, 2⟩) 1 ∧
  decodeWords [0x02060001] = plain (.br ⟨false, 1, 1, 1⟩) 1 ∧
  decodeWords [0x4A341823] = plain (.stRel ⟨none, false, 4, 13, 3, false, 3⟩) 1 ∧
  decodeWords [0x03C03024, 0x03044001] = plain (.reformX ⟨some ⟨0, 12, 1, 2⟩, false, false, 17, 1⟩) 2 ∧
  -- a word of each other family, by the layouts of R62 and the cells of R81
  decodeWords [0b0_000100_0000011_0000001_0000010_00_1_0] = plain (.iadd ⟨none, false, 3, 1, 2, true, false⟩) 1 ∧
  decodeWords [0b1_000011_000010000_00_00000_00_0000101] = plain (.srd ⟨true, 0x10, 0, 5⟩) 1 ∧
  decodeWords [0b0_010010_0000111_0001000_0001001_00_00] = plain (.fdiv ⟨none, false, 7, 8, 9, false, false⟩) 1 ∧
  decodeWords [0b0_101100_00_00011_00_00100_00_00101_00_01] = plain (.sadd ⟨none, false, 3, 4, 5, false, true⟩) 1 ∧
  decodeWords [0b0_101000_00_0000000_0000000000000_101] = plain (.fence ⟨false, 5⟩) 1 ∧
  decodeWords [0b0_101001_10_0000000_00000000_00000111] = plain (.barSync ⟨false, 7⟩) 1 ∧
  decodeWords [0b0_101010_00_0001001_0000000100000010] = plain (.abarInit ⟨false, 9, 0x102⟩) 1 ∧
  decodeWords [0b0_000000_100000000_0000000000000011, 0b0_110110_00_01_00101_0000000000000100] =
    plain (.cast ⟨some 3, false, 1, 5, 4⟩) 2 ∧
  decodeWords [0b0_000000_100000000_0000000000000111, 0b0_110100_00_0001010_00011_00000000000] = plain (.trace ⟨some 7, false, 10, 3⟩) 2 ∧
  decodeWords [0b0_000000_110000000_0000000_01_0000110] = plain (.tlbinv ⟨false, 1, 6⟩) 1 ∧
  decodeWords [0b0_111101_00_0000011_0000000000001000] = plain (.fcoll ⟨false, 3, 8⟩) 1 ∧
  decodeWords [0b0_111111_0000000001_00010_00011_00100] = plain (.stamp ⟨false, 1, 2, 3, 4⟩) 1 ∧
  -- words that the manual calls illegal
  (∃ x, decodeWords [0x2C000000] = .error x) ∧ (∃ x, decodeWords [0x7C000001, 0x20000000] = .error x) ∧
  ∃ i, decodeWords [0xA024307C] = plain i 1 ∧ i.wellFormed = false

/-- R48, R114, R135, R303 and the reset column of the registers: the state after reset. -/
def Obligations.ResetValues : Prop :=
  let s := State.reset
  s.cycle = 0 ∧ (∀ n, s.ctx? n = none) ∧ (∀ tid, s.thread? tid = none) ∧ s.launches = [] ∧ s.cells = [] ∧ s.ops = [] ∧
  s.fltring = 0 ∧ s.flttail = 0 ∧ s.faults = [] ∧ s.refphase = 0 ∧ s.refReported = none ∧ s.fabric.fabid = 0 ∧ s.host.hwbase = 0 ∧
  s.timing.clock = 0 ∧ s.timing.adj = 0 ∧ s.timing.src = 0 ∧ s.timing.todnext = 0 ∧
  (∀ n, (s.timing.trigger n).ns = 0 ∧ (s.timing.trigger n).sec = 0 ∧ (s.timing.trigger n).record = 0 ∧ (s.timing.trigger n).ctl = 0 ∧
    (s.timing.trigger n).missed = 0 ∧ (s.timing.trigger n).fired = false ∧ (s.timing.trigger n).last = 0) ∧
  (∀ n, (s.tile n).tfreq = 3600 ∧ (s.tile n).pwrlim = 11900 ∧ (s.tile n).ttemp = 0 ∧ (s.tile n).tpwr = 0 ∧ (s.tile n).tcorr = 0 ∧
    (s.tile n).act = 0 ∧ (s.tile n).gat = 0 ∧ (s.tile n).ret = 0 ∧ (s.tile n).errsticky = 0) ∧
  (∀ n, (s.pch n).step = 0 ∧ (s.pch n).owed = 0 ∧ (s.pch n).reads = 0 ∧ (s.pch n).forced = 0 ∧ (s.pch n).postp = 0 ∧ (s.pch n).guard = 0) ∧
  (∀ p, (s.fabric.link p).up = false ∧ (s.fabric.link p).dead = false ∧ (s.fabric.link p).disable = false ∧ (s.fabric.link p).crcerr = 0 ∧
    (s.fabric.link p).replays = 0 ∧ (s.fabric.link p).resends = 0) ∧
  (∀ tile part, (s.block tile part).stopped = false ∧ (s.block tile part).sampctl = 0 ∧ (s.block tile part).lcctl = 0 ∧
    (s.block tile part).stopcyc = 0) ∧ s.trace.ctl = 0 ∧ s.trace.ptr = 0 ∧ s.trace.lost = 0 ∧ s.port.locked = true
end

