-- ==== Sys2Proof/Laws/Maps.lean ====
section
/-! SUPPORT. The laws of sorted tables: what is read after a key is set or removed, and that keys stay strictly rising. -/
namespace Sys2Proof.Machine

@[simp] theorem Map.get?_set_same {α : Type} (m : Map α) (k : Nat) (a : α) : Map.get? (Map.set m k a) k = some a := by
  induction m with
  | nil => simp [Map.set, Map.get?]
  | cons x rest ih =>
    obtain ⟨j, b⟩ := x
    unfold Map.set
    split
    · simp [Map.get?]
    · split
      · simp [Map.get?]
      · next h => simp [Map.get?, Ne.symm h, ih]

theorem Map.get?_set_ne {α : Type} (m : Map α) {k n : Nat} (a : α) (h : n ≠ k) : Map.get? (Map.set m k a) n = Map.get? m n := by
  induction m with
  | nil => simp [Map.set, Map.get?, h.symm]
  | cons x rest ih =>
    obtain ⟨j, b⟩ := x
    unfold Map.set
    split
    · simp [Map.get?, h.symm]
    · split
      · next e => subst e; simp [Map.get?, h.symm]
      · simp [Map.get?, ih]

@[simp] theorem Map.get?_del_same {α : Type} (m : Map α) (k : Nat) : Map.get? (Map.del m k) k = none := by
  induction m with
  | nil => rfl
  | cons x rest ih =>
    obtain ⟨j, b⟩ := x
    unfold Map.del
    split
    · exact ih
    · next h => simp [Map.get?, h, ih]

theorem Map.get?_del_ne {α : Type} (m : Map α) {k n : Nat} (h : n ≠ k) : Map.get? (Map.del m k) n = Map.get? m n := by
  induction m with
  | nil => rfl
  | cons x rest ih =>
    obtain ⟨j, b⟩ := x
    unfold Map.del
    split
    · next e => subst e; simp [Map.get?, h.symm, ih]
    · simp [Map.get?, ih]

theorem Map.get?_mapAll {α : Type} (g : Nat → α → α) : ∀ (m : Map α) (k : Nat), Map.get? (Map.mapAll m g) k = (Map.get? m k).map (g k)
  | [], _ => rfl
  | (j, a) :: rest, k => by
    simp only [Map.mapAll, Map.get?]
    split
    · next h => subst h; rfl
    · exact Map.get?_mapAll g rest k

/-! ## Strictly rising keys -/

/-- Every key above a bound. -/
def Map.above {α : Type} (lo : Nat) (m : Map α) : Prop := ∀ x ∈ m, lo < x.1

theorem Map.rising_cons {α : Type} {x : Nat × α} {m : Map α} :
    Map.rising (x :: m) = true ↔ Map.above x.1 m ∧ Map.rising m = true := by
  induction m generalizing x with
  | nil => simp [Map.rising, Map.above]
  | cons y rest ih =>
    obtain ⟨i, a⟩ := x
    obtain ⟨j, b⟩ := y
    simp only [Map.rising, Bool.and_eq_true, decide_eq_true_eq]
    constructor
    · rintro ⟨h, hr⟩
      refine ⟨?_, hr⟩
      intro z hz
      rcases List.mem_cons.1 hz with rfl | hz
      · exact h
      · exact h.trans ((ih.1 hr).1 z hz)
    · rintro ⟨h, hr⟩
      exact ⟨h _ (List.mem_cons_self ..), hr⟩

theorem Map.above_set {α : Type} {lo k : Nat} {m : Map α} {a : α} (h : Map.above lo m) (hk : lo < k) : Map.above lo (Map.set m k a) := by
  induction m with
  | nil => intro x hx; simp [Map.set] at hx; subst hx; exact hk
  | cons y rest ih =>
    obtain ⟨j, b⟩ := y
    unfold Map.set
    split
    · intro x hx
      rcases List.mem_cons.1 hx with rfl | hx
      · exact hk
      · exact h x hx
    · split
      · next e =>
        subst e
        intro x hx
        rcases List.mem_cons.1 hx with rfl | hx
        · exact hk
        · exact h x (List.mem_cons_of_mem _ hx)
      · intro x hx
        rcases List.mem_cons.1 hx with rfl | hx
        · exact h _ (List.mem_cons_self ..)
        · exact ih (fun z hz => h z (List.mem_cons_of_mem _ hz)) x hx

theorem Map.rising_set {α : Type} {m : Map α} (k : Nat) (a : α) (h : Map.rising m = true) : Map.rising (Map.set m k a) = true := by
  induction m with
  | nil => rfl
  | cons y rest ih =>
    obtain ⟨j, b⟩ := y
    obtain ⟨h1, h2⟩ := Map.rising_cons.1 h
    unfold Map.set
    split
    · next hk =>
      rw [Map.rising_cons]
      refine ⟨?_, h⟩
      intro x hx
      rcases List.mem_cons.1 hx with rfl | hx
      · exact hk
      · exact hk.trans (h1 x hx)
    · split
      · next e => subst e; exact Map.rising_cons.2 ⟨h1, h2⟩
      · next h3 h4 => exact Map.rising_cons.2 ⟨Map.above_set h1 (by omega), ih h2⟩

theorem Map.mem_del {α : Type} {m : Map α} {k : Nat} {x : Nat × α} (h : x ∈ Map.del m k) : x ∈ m := by
  induction m with
  | nil => cases h
  | cons y rest ih =>
    obtain ⟨j, b⟩ := y
    unfold Map.del at h
    split at h
    · exact List.mem_cons_of_mem _ (ih h)
    · rcases List.mem_cons.1 h with rfl | h
      · exact List.mem_cons_self ..
      · exact List.mem_cons_of_mem _ (ih h)

theorem Map.rising_del {α : Type} {m : Map α} (k : Nat) (h : Map.rising m = true) : Map.rising (Map.del m k) = true := by
  induction m with
  | nil => rfl
  | cons y rest ih =>
    obtain ⟨j, b⟩ := y
    obtain ⟨h1, h2⟩ := Map.rising_cons.1 h
    unfold Map.del
    split
    · exact ih h2
    · exact Map.rising_cons.2 ⟨fun x hx => h1 x (Map.mem_del hx), ih h2⟩

theorem Map.mem_set {α : Type} {m : Map α} {k : Nat} {a : α} {x : Nat × α} (h : x ∈ Map.set m k a) : x = (k, a) ∨ x ∈ m := by
  induction m with
  | nil => simp [Map.set] at h; exact .inl h
  | cons y rest ih =>
    obtain ⟨j, b⟩ := y
    unfold Map.set at h
    split at h
    · rcases List.mem_cons.1 h with rfl | h
      · exact .inl rfl
      · exact .inr h
    · split at h
      · rcases List.mem_cons.1 h with rfl | h
        · exact .inl rfl
        · exact .inr (List.mem_cons_of_mem _ h)
      · rcases List.mem_cons.1 h with rfl | h
        · exact .inr (List.mem_cons_self ..)
        · rcases ih h with rfl | h
          · exact .inl rfl
          · exact .inr (List.mem_cons_of_mem _ h)

end Sys2Proof.Machine
end

