-- ==== Sys2Proof/Laws/State.lean ====
section
/-! SUPPORT. What each update of the state leaves in every other field, and what it puts into its own: one lemma per field and update,
so that no proof unfolds a record update. -/
namespace Sys2Proof.Machine

/-! ## setByte -/

@[simp] theorem State.setByte_cycle (s : State) (pa : Nat) (b : Byte) : (s.setByte pa b).cycle = s.cycle := rfl
@[simp] theorem State.setByte_ctxs (s : State) (pa : Nat) (b : Byte) : (s.setByte pa b).ctxs = s.ctxs := rfl
@[simp] theorem State.setByte_launches (s : State) (pa : Nat) (b : Byte) : (s.setByte pa b).launches = s.launches := rfl
@[simp] theorem State.setByte_clusters (s : State) (pa : Nat) (b : Byte) : (s.setByte pa b).clusters = s.clusters := rfl
@[simp] theorem State.setByte_cells (s : State) (pa : Nat) (b : Byte) : (s.setByte pa b).cells = s.cells := rfl
@[simp] theorem State.setByte_threads (s : State) (pa : Nat) (b : Byte) : (s.setByte pa b).threads = s.threads := rfl
@[simp] theorem State.setByte_tiles (s : State) (pa : Nat) (b : Byte) : (s.setByte pa b).tiles = s.tiles := rfl
@[simp] theorem State.setByte_rings (s : State) (pa : Nat) (b : Byte) : (s.setByte pa b).rings = s.rings := rfl
@[simp] theorem State.setByte_ops (s : State) (pa : Nat) (b : Byte) : (s.setByte pa b).ops = s.ops := rfl
@[simp] theorem State.setByte_tags (s : State) (pa : Nat) (b : Byte) : (s.setByte pa b).tags = s.tags := rfl
@[simp] theorem State.setByte_directory (s : State) (pa : Nat) (b : Byte) : (s.setByte pa b).directory = s.directory := rfl
@[simp] theorem State.setByte_slots (s : State) (pa : Nat) (b : Byte) : (s.setByte pa b).slots = s.slots := rfl
@[simp] theorem State.setByte_walkers (s : State) (pa : Nat) (b : Byte) : (s.setByte pa b).walkers = s.walkers := rfl
@[simp] theorem State.setByte_pins (s : State) (pa : Nat) (b : Byte) : (s.setByte pa b).pins = s.pins := rfl
@[simp] theorem State.setByte_ecc (s : State) (pa : Nat) (b : Byte) : (s.setByte pa b).ecc = s.ecc := rfl
@[simp] theorem State.setByte_fltring (s : State) (pa : Nat) (b : Byte) : (s.setByte pa b).fltring = s.fltring := rfl
@[simp] theorem State.setByte_flttail (s : State) (pa : Nat) (b : Byte) : (s.setByte pa b).flttail = s.flttail := rfl
@[simp] theorem State.setByte_faults (s : State) (pa : Nat) (b : Byte) : (s.setByte pa b).faults = s.faults := rfl
@[simp] theorem State.setByte_timing (s : State) (pa : Nat) (b : Byte) : (s.setByte pa b).timing = s.timing := rfl
@[simp] theorem State.setByte_fabric (s : State) (pa : Nat) (b : Byte) : (s.setByte pa b).fabric = s.fabric := rfl
@[simp] theorem State.setByte_host (s : State) (pa : Nat) (b : Byte) : (s.setByte pa b).host = s.host := rfl
@[simp] theorem State.setByte_refphase (s : State) (pa : Nat) (b : Byte) : (s.setByte pa b).refphase = s.refphase := rfl
@[simp] theorem State.setByte_refReported (s : State) (pa : Nat) (b : Byte) : (s.setByte pa b).refReported = s.refReported := rfl
@[simp] theorem State.setByte_refresh (s : State) (pa : Nat) (b : Byte) : (s.setByte pa b).refresh = s.refresh := rfl
@[simp] theorem State.setByte_debug (s : State) (pa : Nat) (b : Byte) : (s.setByte pa b).debug = s.debug := rfl
@[simp] theorem State.setByte_trace (s : State) (pa : Nat) (b : Byte) : (s.setByte pa b).trace = s.trace := rfl
@[simp] theorem State.setByte_port (s : State) (pa : Nat) (b : Byte) : (s.setByte pa b).port = s.port := rfl
@[simp] theorem State.setByte_boot (s : State) (pa : Nat) (b : Byte) : (s.setByte pa b).boot = s.boot := rfl
@[simp] theorem State.setByte_images (s : State) (pa : Nat) (b : Byte) : (s.setByte pa b).images = s.images := rfl
@[simp] theorem State.setByte_rotor (s : State) (pa : Nat) (b : Byte) : (s.setByte pa b).rotor = s.rotor := rfl
@[simp] theorem State.setByte_issue (s : State) (pa : Nat) (b : Byte) : (s.setByte pa b).issue = s.issue := rfl
@[simp] theorem State.setByte_reinject (s : State) (pa : Nat) (b : Byte) : (s.setByte pa b).reinject = s.reinject := rfl
@[simp] theorem State.setByte_agenda (s : State) (pa : Nat) (b : Byte) : (s.setByte pa b).agenda = s.agenda := rfl
@[simp] theorem State.setByte_deferred (s : State) (pa : Nat) (b : Byte) : (s.setByte pa b).deferred = s.deferred := rfl
@[simp] theorem State.setByte_focus (s : State) (pa : Nat) (b : Byte) : (s.setByte pa b).focus = s.focus := rfl
@[simp] theorem State.setByte_nextId (s : State) (pa : Nat) (b : Byte) : (s.setByte pa b).nextId = s.nextId := rfl
@[simp] theorem State.setByte_free (s : State) (pa : Nat) (b : Byte) : (s.setByte pa b).free = s.free := rfl

/-! ## setNum -/

@[simp] theorem State.setBytes_cycle : ∀ (bs : List Byte) (s : State) (pa : Nat), (s.setBytes pa bs).cycle = s.cycle
  | [], _, _ => rfl
  | _ :: bs, s, pa => State.setBytes_cycle bs (s.setByte pa _) (pa + 1)
@[simp] theorem State.setBytes_ctxs : ∀ (bs : List Byte) (s : State) (pa : Nat), (s.setBytes pa bs).ctxs = s.ctxs
  | [], _, _ => rfl
  | _ :: bs, s, pa => State.setBytes_ctxs bs (s.setByte pa _) (pa + 1)
@[simp] theorem State.setBytes_launches : ∀ (bs : List Byte) (s : State) (pa : Nat), (s.setBytes pa bs).launches = s.launches
  | [], _, _ => rfl
  | _ :: bs, s, pa => State.setBytes_launches bs (s.setByte pa _) (pa + 1)
@[simp] theorem State.setBytes_clusters : ∀ (bs : List Byte) (s : State) (pa : Nat), (s.setBytes pa bs).clusters = s.clusters
  | [], _, _ => rfl
  | _ :: bs, s, pa => State.setBytes_clusters bs (s.setByte pa _) (pa + 1)
@[simp] theorem State.setBytes_cells : ∀ (bs : List Byte) (s : State) (pa : Nat), (s.setBytes pa bs).cells = s.cells
  | [], _, _ => rfl
  | _ :: bs, s, pa => State.setBytes_cells bs (s.setByte pa _) (pa + 1)
@[simp] theorem State.setBytes_threads : ∀ (bs : List Byte) (s : State) (pa : Nat), (s.setBytes pa bs).threads = s.threads
  | [], _, _ => rfl
  | _ :: bs, s, pa => State.setBytes_threads bs (s.setByte pa _) (pa + 1)
@[simp] theorem State.setBytes_tiles : ∀ (bs : List Byte) (s : State) (pa : Nat), (s.setBytes pa bs).tiles = s.tiles
  | [], _, _ => rfl
  | _ :: bs, s, pa => State.setBytes_tiles bs (s.setByte pa _) (pa + 1)
@[simp] theorem State.setBytes_rings : ∀ (bs : List Byte) (s : State) (pa : Nat), (s.setBytes pa bs).rings = s.rings
  | [], _, _ => rfl
  | _ :: bs, s, pa => State.setBytes_rings bs (s.setByte pa _) (pa + 1)
@[simp] theorem State.setBytes_ops : ∀ (bs : List Byte) (s : State) (pa : Nat), (s.setBytes pa bs).ops = s.ops
  | [], _, _ => rfl
  | _ :: bs, s, pa => State.setBytes_ops bs (s.setByte pa _) (pa + 1)
@[simp] theorem State.setBytes_tags : ∀ (bs : List Byte) (s : State) (pa : Nat), (s.setBytes pa bs).tags = s.tags
  | [], _, _ => rfl
  | _ :: bs, s, pa => State.setBytes_tags bs (s.setByte pa _) (pa + 1)
@[simp] theorem State.setBytes_directory : ∀ (bs : List Byte) (s : State) (pa : Nat), (s.setBytes pa bs).directory = s.directory
  | [], _, _ => rfl
  | _ :: bs, s, pa => State.setBytes_directory bs (s.setByte pa _) (pa + 1)
@[simp] theorem State.setBytes_slots : ∀ (bs : List Byte) (s : State) (pa : Nat), (s.setBytes pa bs).slots = s.slots
  | [], _, _ => rfl
  | _ :: bs, s, pa => State.setBytes_slots bs (s.setByte pa _) (pa + 1)
@[simp] theorem State.setBytes_walkers : ∀ (bs : List Byte) (s : State) (pa : Nat), (s.setBytes pa bs).walkers = s.walkers
  | [], _, _ => rfl
  | _ :: bs, s, pa => State.setBytes_walkers bs (s.setByte pa _) (pa + 1)
@[simp] theorem State.setBytes_pins : ∀ (bs : List Byte) (s : State) (pa : Nat), (s.setBytes pa bs).pins = s.pins
  | [], _, _ => rfl
  | _ :: bs, s, pa => State.setBytes_pins bs (s.setByte pa _) (pa + 1)
@[simp] theorem State.setBytes_ecc : ∀ (bs : List Byte) (s : State) (pa : Nat), (s.setBytes pa bs).ecc = s.ecc
  | [], _, _ => rfl
  | _ :: bs, s, pa => State.setBytes_ecc bs (s.setByte pa _) (pa + 1)
@[simp] theorem State.setBytes_fltring : ∀ (bs : List Byte) (s : State) (pa : Nat), (s.setBytes pa bs).fltring = s.fltring
  | [], _, _ => rfl
  | _ :: bs, s, pa => State.setBytes_fltring bs (s.setByte pa _) (pa + 1)
@[simp] theorem State.setBytes_flttail : ∀ (bs : List Byte) (s : State) (pa : Nat), (s.setBytes pa bs).flttail = s.flttail
  | [], _, _ => rfl
  | _ :: bs, s, pa => State.setBytes_flttail bs (s.setByte pa _) (pa + 1)
@[simp] theorem State.setBytes_faults : ∀ (bs : List Byte) (s : State) (pa : Nat), (s.setBytes pa bs).faults = s.faults
  | [], _, _ => rfl
  | _ :: bs, s, pa => State.setBytes_faults bs (s.setByte pa _) (pa + 1)
@[simp] theorem State.setBytes_timing : ∀ (bs : List Byte) (s : State) (pa : Nat), (s.setBytes pa bs).timing = s.timing
  | [], _, _ => rfl
  | _ :: bs, s, pa => State.setBytes_timing bs (s.setByte pa _) (pa + 1)
@[simp] theorem State.setBytes_fabric : ∀ (bs : List Byte) (s : State) (pa : Nat), (s.setBytes pa bs).fabric = s.fabric
  | [], _, _ => rfl
  | _ :: bs, s, pa => State.setBytes_fabric bs (s.setByte pa _) (pa + 1)
@[simp] theorem State.setBytes_host : ∀ (bs : List Byte) (s : State) (pa : Nat), (s.setBytes pa bs).host = s.host
  | [], _, _ => rfl
  | _ :: bs, s, pa => State.setBytes_host bs (s.setByte pa _) (pa + 1)
@[simp] theorem State.setBytes_refphase : ∀ (bs : List Byte) (s : State) (pa : Nat), (s.setBytes pa bs).refphase = s.refphase
  | [], _, _ => rfl
  | _ :: bs, s, pa => State.setBytes_refphase bs (s.setByte pa _) (pa + 1)
@[simp] theorem State.setBytes_refReported : ∀ (bs : List Byte) (s : State) (pa : Nat), (s.setBytes pa bs).refReported = s.refReported
  | [], _, _ => rfl
  | _ :: bs, s, pa => State.setBytes_refReported bs (s.setByte pa _) (pa + 1)
@[simp] theorem State.setBytes_refresh : ∀ (bs : List Byte) (s : State) (pa : Nat), (s.setBytes pa bs).refresh = s.refresh
  | [], _, _ => rfl
  | _ :: bs, s, pa => State.setBytes_refresh bs (s.setByte pa _) (pa + 1)
@[simp] theorem State.setBytes_debug : ∀ (bs : List Byte) (s : State) (pa : Nat), (s.setBytes pa bs).debug = s.debug
  | [], _, _ => rfl
  | _ :: bs, s, pa => State.setBytes_debug bs (s.setByte pa _) (pa + 1)
@[simp] theorem State.setBytes_trace : ∀ (bs : List Byte) (s : State) (pa : Nat), (s.setBytes pa bs).trace = s.trace
  | [], _, _ => rfl
  | _ :: bs, s, pa => State.setBytes_trace bs (s.setByte pa _) (pa + 1)
@[simp] theorem State.setBytes_port : ∀ (bs : List Byte) (s : State) (pa : Nat), (s.setBytes pa bs).port = s.port
  | [], _, _ => rfl
  | _ :: bs, s, pa => State.setBytes_port bs (s.setByte pa _) (pa + 1)
@[simp] theorem State.setBytes_boot : ∀ (bs : List Byte) (s : State) (pa : Nat), (s.setBytes pa bs).boot = s.boot
  | [], _, _ => rfl
  | _ :: bs, s, pa => State.setBytes_boot bs (s.setByte pa _) (pa + 1)
@[simp] theorem State.setBytes_images : ∀ (bs : List Byte) (s : State) (pa : Nat), (s.setBytes pa bs).images = s.images
  | [], _, _ => rfl
  | _ :: bs, s, pa => State.setBytes_images bs (s.setByte pa _) (pa + 1)
@[simp] theorem State.setBytes_rotor : ∀ (bs : List Byte) (s : State) (pa : Nat), (s.setBytes pa bs).rotor = s.rotor
  | [], _, _ => rfl
  | _ :: bs, s, pa => State.setBytes_rotor bs (s.setByte pa _) (pa + 1)
@[simp] theorem State.setBytes_issue : ∀ (bs : List Byte) (s : State) (pa : Nat), (s.setBytes pa bs).issue = s.issue
  | [], _, _ => rfl
  | _ :: bs, s, pa => State.setBytes_issue bs (s.setByte pa _) (pa + 1)
@[simp] theorem State.setBytes_reinject : ∀ (bs : List Byte) (s : State) (pa : Nat), (s.setBytes pa bs).reinject = s.reinject
  | [], _, _ => rfl
  | _ :: bs, s, pa => State.setBytes_reinject bs (s.setByte pa _) (pa + 1)
@[simp] theorem State.setBytes_agenda : ∀ (bs : List Byte) (s : State) (pa : Nat), (s.setBytes pa bs).agenda = s.agenda
  | [], _, _ => rfl
  | _ :: bs, s, pa => State.setBytes_agenda bs (s.setByte pa _) (pa + 1)
@[simp] theorem State.setBytes_deferred : ∀ (bs : List Byte) (s : State) (pa : Nat), (s.setBytes pa bs).deferred = s.deferred
  | [], _, _ => rfl
  | _ :: bs, s, pa => State.setBytes_deferred bs (s.setByte pa _) (pa + 1)
@[simp] theorem State.setBytes_focus : ∀ (bs : List Byte) (s : State) (pa : Nat), (s.setBytes pa bs).focus = s.focus
  | [], _, _ => rfl
  | _ :: bs, s, pa => State.setBytes_focus bs (s.setByte pa _) (pa + 1)
@[simp] theorem State.setBytes_nextId : ∀ (bs : List Byte) (s : State) (pa : Nat), (s.setBytes pa bs).nextId = s.nextId
  | [], _, _ => rfl
  | _ :: bs, s, pa => State.setBytes_nextId bs (s.setByte pa _) (pa + 1)
@[simp] theorem State.setBytes_free : ∀ (bs : List Byte) (s : State) (pa : Nat), (s.setBytes pa bs).free = s.free
  | [], _, _ => rfl
  | _ :: bs, s, pa => State.setBytes_free bs (s.setByte pa _) (pa + 1)

@[simp] theorem State.setNum_cycle (s : State) (pa n v : Nat) : (s.setNum pa n v).cycle = s.cycle := State.setBytes_cycle ..
@[simp] theorem State.setNum_ctxs (s : State) (pa n v : Nat) : (s.setNum pa n v).ctxs = s.ctxs := State.setBytes_ctxs ..
@[simp] theorem State.setNum_launches (s : State) (pa n v : Nat) : (s.setNum pa n v).launches = s.launches := State.setBytes_launches ..
@[simp] theorem State.setNum_clusters (s : State) (pa n v : Nat) : (s.setNum pa n v).clusters = s.clusters := State.setBytes_clusters ..
@[simp] theorem State.setNum_cells (s : State) (pa n v : Nat) : (s.setNum pa n v).cells = s.cells := State.setBytes_cells ..
@[simp] theorem State.setNum_threads (s : State) (pa n v : Nat) : (s.setNum pa n v).threads = s.threads := State.setBytes_threads ..
@[simp] theorem State.setNum_tiles (s : State) (pa n v : Nat) : (s.setNum pa n v).tiles = s.tiles := State.setBytes_tiles ..
@[simp] theorem State.setNum_rings (s : State) (pa n v : Nat) : (s.setNum pa n v).rings = s.rings := State.setBytes_rings ..
@[simp] theorem State.setNum_ops (s : State) (pa n v : Nat) : (s.setNum pa n v).ops = s.ops := State.setBytes_ops ..
@[simp] theorem State.setNum_tags (s : State) (pa n v : Nat) : (s.setNum pa n v).tags = s.tags := State.setBytes_tags ..
@[simp] theorem State.setNum_directory (s : State) (pa n v : Nat) : (s.setNum pa n v).directory = s.directory := State.setBytes_directory ..
@[simp] theorem State.setNum_slots (s : State) (pa n v : Nat) : (s.setNum pa n v).slots = s.slots := State.setBytes_slots ..
@[simp] theorem State.setNum_walkers (s : State) (pa n v : Nat) : (s.setNum pa n v).walkers = s.walkers := State.setBytes_walkers ..
@[simp] theorem State.setNum_pins (s : State) (pa n v : Nat) : (s.setNum pa n v).pins = s.pins := State.setBytes_pins ..
@[simp] theorem State.setNum_ecc (s : State) (pa n v : Nat) : (s.setNum pa n v).ecc = s.ecc := State.setBytes_ecc ..
@[simp] theorem State.setNum_fltring (s : State) (pa n v : Nat) : (s.setNum pa n v).fltring = s.fltring := State.setBytes_fltring ..
@[simp] theorem State.setNum_flttail (s : State) (pa n v : Nat) : (s.setNum pa n v).flttail = s.flttail := State.setBytes_flttail ..
@[simp] theorem State.setNum_faults (s : State) (pa n v : Nat) : (s.setNum pa n v).faults = s.faults := State.setBytes_faults ..
@[simp] theorem State.setNum_timing (s : State) (pa n v : Nat) : (s.setNum pa n v).timing = s.timing := State.setBytes_timing ..
@[simp] theorem State.setNum_fabric (s : State) (pa n v : Nat) : (s.setNum pa n v).fabric = s.fabric := State.setBytes_fabric ..
@[simp] theorem State.setNum_host (s : State) (pa n v : Nat) : (s.setNum pa n v).host = s.host := State.setBytes_host ..
@[simp] theorem State.setNum_refphase (s : State) (pa n v : Nat) : (s.setNum pa n v).refphase = s.refphase := State.setBytes_refphase ..
@[simp] theorem State.setNum_refReported (s : State) (pa n v : Nat) : (s.setNum pa n v).refReported = s.refReported := State.setBytes_refReported ..
@[simp] theorem State.setNum_refresh (s : State) (pa n v : Nat) : (s.setNum pa n v).refresh = s.refresh := State.setBytes_refresh ..
@[simp] theorem State.setNum_debug (s : State) (pa n v : Nat) : (s.setNum pa n v).debug = s.debug := State.setBytes_debug ..
@[simp] theorem State.setNum_trace (s : State) (pa n v : Nat) : (s.setNum pa n v).trace = s.trace := State.setBytes_trace ..
@[simp] theorem State.setNum_port (s : State) (pa n v : Nat) : (s.setNum pa n v).port = s.port := State.setBytes_port ..
@[simp] theorem State.setNum_boot (s : State) (pa n v : Nat) : (s.setNum pa n v).boot = s.boot := State.setBytes_boot ..
@[simp] theorem State.setNum_images (s : State) (pa n v : Nat) : (s.setNum pa n v).images = s.images := State.setBytes_images ..
@[simp] theorem State.setNum_rotor (s : State) (pa n v : Nat) : (s.setNum pa n v).rotor = s.rotor := State.setBytes_rotor ..
@[simp] theorem State.setNum_issue (s : State) (pa n v : Nat) : (s.setNum pa n v).issue = s.issue := State.setBytes_issue ..
@[simp] theorem State.setNum_reinject (s : State) (pa n v : Nat) : (s.setNum pa n v).reinject = s.reinject := State.setBytes_reinject ..
@[simp] theorem State.setNum_agenda (s : State) (pa n v : Nat) : (s.setNum pa n v).agenda = s.agenda := State.setBytes_agenda ..
@[simp] theorem State.setNum_deferred (s : State) (pa n v : Nat) : (s.setNum pa n v).deferred = s.deferred := State.setBytes_deferred ..
@[simp] theorem State.setNum_focus (s : State) (pa n v : Nat) : (s.setNum pa n v).focus = s.focus := State.setBytes_focus ..
@[simp] theorem State.setNum_nextId (s : State) (pa n v : Nat) : (s.setNum pa n v).nextId = s.nextId := State.setBytes_nextId ..
@[simp] theorem State.setNum_free (s : State) (pa n v : Nat) : (s.setNum pa n v).free = s.free := State.setBytes_free ..

/-! ## setTile -/

@[simp] theorem State.setTile_mem (s : State) (n : Nat) (t : Tile) : (s.setTile n t).mem = s.mem := rfl
@[simp] theorem State.setTile_cycle (s : State) (n : Nat) (t : Tile) : (s.setTile n t).cycle = s.cycle := rfl
@[simp] theorem State.setTile_ctxs (s : State) (n : Nat) (t : Tile) : (s.setTile n t).ctxs = s.ctxs := rfl
@[simp] theorem State.setTile_launches (s : State) (n : Nat) (t : Tile) : (s.setTile n t).launches = s.launches := rfl
@[simp] theorem State.setTile_clusters (s : State) (n : Nat) (t : Tile) : (s.setTile n t).clusters = s.clusters := rfl
@[simp] theorem State.setTile_cells (s : State) (n : Nat) (t : Tile) : (s.setTile n t).cells = s.cells := rfl
@[simp] theorem State.setTile_threads (s : State) (n : Nat) (t : Tile) : (s.setTile n t).threads = s.threads := rfl
@[simp] theorem State.setTile_rings (s : State) (n : Nat) (t : Tile) : (s.setTile n t).rings = s.rings := rfl
@[simp] theorem State.setTile_ops (s : State) (n : Nat) (t : Tile) : (s.setTile n t).ops = s.ops := rfl
@[simp] theorem State.setTile_tags (s : State) (n : Nat) (t : Tile) : (s.setTile n t).tags = s.tags := rfl
@[simp] theorem State.setTile_directory (s : State) (n : Nat) (t : Tile) : (s.setTile n t).directory = s.directory := rfl
@[simp] theorem State.setTile_slots (s : State) (n : Nat) (t : Tile) : (s.setTile n t).slots = s.slots := rfl
@[simp] theorem State.setTile_walkers (s : State) (n : Nat) (t : Tile) : (s.setTile n t).walkers = s.walkers := rfl
@[simp] theorem State.setTile_pins (s : State) (n : Nat) (t : Tile) : (s.setTile n t).pins = s.pins := rfl
@[simp] theorem State.setTile_ecc (s : State) (n : Nat) (t : Tile) : (s.setTile n t).ecc = s.ecc := rfl
@[simp] theorem State.setTile_fltring (s : State) (n : Nat) (t : Tile) : (s.setTile n t).fltring = s.fltring := rfl
@[simp] theorem State.setTile_flttail (s : State) (n : Nat) (t : Tile) : (s.setTile n t).flttail = s.flttail := rfl
@[simp] theorem State.setTile_faults (s : State) (n : Nat) (t : Tile) : (s.setTile n t).faults = s.faults := rfl
@[simp] theorem State.setTile_timing (s : State) (n : Nat) (t : Tile) : (s.setTile n t).timing = s.timing := rfl
@[simp] theorem State.setTile_fabric (s : State) (n : Nat) (t : Tile) : (s.setTile n t).fabric = s.fabric := rfl
@[simp] theorem State.setTile_host (s : State) (n : Nat) (t : Tile) : (s.setTile n t).host = s.host := rfl
@[simp] theorem State.setTile_refphase (s : State) (n : Nat) (t : Tile) : (s.setTile n t).refphase = s.refphase := rfl
@[simp] theorem State.setTile_refReported (s : State) (n : Nat) (t : Tile) : (s.setTile n t).refReported = s.refReported := rfl
@[simp] theorem State.setTile_refresh (s : State) (n : Nat) (t : Tile) : (s.setTile n t).refresh = s.refresh := rfl
@[simp] theorem State.setTile_debug (s : State) (n : Nat) (t : Tile) : (s.setTile n t).debug = s.debug := rfl
@[simp] theorem State.setTile_trace (s : State) (n : Nat) (t : Tile) : (s.setTile n t).trace = s.trace := rfl
@[simp] theorem State.setTile_port (s : State) (n : Nat) (t : Tile) : (s.setTile n t).port = s.port := rfl
@[simp] theorem State.setTile_boot (s : State) (n : Nat) (t : Tile) : (s.setTile n t).boot = s.boot := rfl
@[simp] theorem State.setTile_images (s : State) (n : Nat) (t : Tile) : (s.setTile n t).images = s.images := rfl
@[simp] theorem State.setTile_rotor (s : State) (n : Nat) (t : Tile) : (s.setTile n t).rotor = s.rotor := rfl
@[simp] theorem State.setTile_issue (s : State) (n : Nat) (t : Tile) : (s.setTile n t).issue = s.issue := rfl
@[simp] theorem State.setTile_reinject (s : State) (n : Nat) (t : Tile) : (s.setTile n t).reinject = s.reinject := rfl
@[simp] theorem State.setTile_agenda (s : State) (n : Nat) (t : Tile) : (s.setTile n t).agenda = s.agenda := rfl
@[simp] theorem State.setTile_deferred (s : State) (n : Nat) (t : Tile) : (s.setTile n t).deferred = s.deferred := rfl
@[simp] theorem State.setTile_focus (s : State) (n : Nat) (t : Tile) : (s.setTile n t).focus = s.focus := rfl
@[simp] theorem State.setTile_nextId (s : State) (n : Nat) (t : Tile) : (s.setTile n t).nextId = s.nextId := rfl
@[simp] theorem State.setTile_free (s : State) (n : Nat) (t : Tile) : (s.setTile n t).free = s.free := rfl

/-! ## setPartition -/

@[simp] theorem State.setPartition_mem (s : State) (n p : Nat) (q : Partition) : (s.setPartition n p q).mem = s.mem := rfl
@[simp] theorem State.setPartition_cycle (s : State) (n p : Nat) (q : Partition) : (s.setPartition n p q).cycle = s.cycle := rfl
@[simp] theorem State.setPartition_ctxs (s : State) (n p : Nat) (q : Partition) : (s.setPartition n p q).ctxs = s.ctxs := rfl
@[simp] theorem State.setPartition_launches (s : State) (n p : Nat) (q : Partition) : (s.setPartition n p q).launches = s.launches := rfl
@[simp] theorem State.setPartition_clusters (s : State) (n p : Nat) (q : Partition) : (s.setPartition n p q).clusters = s.clusters := rfl
@[simp] theorem State.setPartition_cells (s : State) (n p : Nat) (q : Partition) : (s.setPartition n p q).cells = s.cells := rfl
@[simp] theorem State.setPartition_threads (s : State) (n p : Nat) (q : Partition) : (s.setPartition n p q).threads = s.threads := rfl
@[simp] theorem State.setPartition_rings (s : State) (n p : Nat) (q : Partition) : (s.setPartition n p q).rings = s.rings := rfl
@[simp] theorem State.setPartition_ops (s : State) (n p : Nat) (q : Partition) : (s.setPartition n p q).ops = s.ops := rfl
@[simp] theorem State.setPartition_tags (s : State) (n p : Nat) (q : Partition) : (s.setPartition n p q).tags = s.tags := rfl
@[simp] theorem State.setPartition_directory (s : State) (n p : Nat) (q : Partition) : (s.setPartition n p q).directory = s.directory := rfl
@[simp] theorem State.setPartition_slots (s : State) (n p : Nat) (q : Partition) : (s.setPartition n p q).slots = s.slots := rfl
@[simp] theorem State.setPartition_walkers (s : State) (n p : Nat) (q : Partition) : (s.setPartition n p q).walkers = s.walkers := rfl
@[simp] theorem State.setPartition_pins (s : State) (n p : Nat) (q : Partition) : (s.setPartition n p q).pins = s.pins := rfl
@[simp] theorem State.setPartition_ecc (s : State) (n p : Nat) (q : Partition) : (s.setPartition n p q).ecc = s.ecc := rfl
@[simp] theorem State.setPartition_fltring (s : State) (n p : Nat) (q : Partition) : (s.setPartition n p q).fltring = s.fltring := rfl
@[simp] theorem State.setPartition_flttail (s : State) (n p : Nat) (q : Partition) : (s.setPartition n p q).flttail = s.flttail := rfl
@[simp] theorem State.setPartition_faults (s : State) (n p : Nat) (q : Partition) : (s.setPartition n p q).faults = s.faults := rfl
@[simp] theorem State.setPartition_timing (s : State) (n p : Nat) (q : Partition) : (s.setPartition n p q).timing = s.timing := rfl
@[simp] theorem State.setPartition_fabric (s : State) (n p : Nat) (q : Partition) : (s.setPartition n p q).fabric = s.fabric := rfl
@[simp] theorem State.setPartition_host (s : State) (n p : Nat) (q : Partition) : (s.setPartition n p q).host = s.host := rfl
@[simp] theorem State.setPartition_refphase (s : State) (n p : Nat) (q : Partition) : (s.setPartition n p q).refphase = s.refphase := rfl
@[simp] theorem State.setPartition_refReported (s : State) (n p : Nat) (q : Partition) : (s.setPartition n p q).refReported = s.refReported := rfl
@[simp] theorem State.setPartition_refresh (s : State) (n p : Nat) (q : Partition) : (s.setPartition n p q).refresh = s.refresh := rfl
@[simp] theorem State.setPartition_debug (s : State) (n p : Nat) (q : Partition) : (s.setPartition n p q).debug = s.debug := rfl
@[simp] theorem State.setPartition_trace (s : State) (n p : Nat) (q : Partition) : (s.setPartition n p q).trace = s.trace := rfl
@[simp] theorem State.setPartition_port (s : State) (n p : Nat) (q : Partition) : (s.setPartition n p q).port = s.port := rfl
@[simp] theorem State.setPartition_boot (s : State) (n p : Nat) (q : Partition) : (s.setPartition n p q).boot = s.boot := rfl
@[simp] theorem State.setPartition_images (s : State) (n p : Nat) (q : Partition) : (s.setPartition n p q).images = s.images := rfl
@[simp] theorem State.setPartition_rotor (s : State) (n p : Nat) (q : Partition) : (s.setPartition n p q).rotor = s.rotor := rfl
@[simp] theorem State.setPartition_issue (s : State) (n p : Nat) (q : Partition) : (s.setPartition n p q).issue = s.issue := rfl
@[simp] theorem State.setPartition_reinject (s : State) (n p : Nat) (q : Partition) : (s.setPartition n p q).reinject = s.reinject := rfl
@[simp] theorem State.setPartition_agenda (s : State) (n p : Nat) (q : Partition) : (s.setPartition n p q).agenda = s.agenda := rfl
@[simp] theorem State.setPartition_deferred (s : State) (n p : Nat) (q : Partition) : (s.setPartition n p q).deferred = s.deferred := rfl
@[simp] theorem State.setPartition_focus (s : State) (n p : Nat) (q : Partition) : (s.setPartition n p q).focus = s.focus := rfl
@[simp] theorem State.setPartition_nextId (s : State) (n p : Nat) (q : Partition) : (s.setPartition n p q).nextId = s.nextId := rfl
@[simp] theorem State.setPartition_free (s : State) (n p : Nat) (q : Partition) : (s.setPartition n p q).free = s.free := rfl

/-! ## modCtx -/

@[simp] theorem State.modCtx_mem (s : State) (n : Nat) (g : Context → Context) : (s.modCtx n g).mem = s.mem := by unfold State.modCtx; split <;> rfl
@[simp] theorem State.modCtx_cycle (s : State) (n : Nat) (g : Context → Context) : (s.modCtx n g).cycle = s.cycle := by unfold State.modCtx; split <;> rfl
@[simp] theorem State.modCtx_launches (s : State) (n : Nat) (g : Context → Context) : (s.modCtx n g).launches = s.launches := by unfold State.modCtx; split <;> rfl
@[simp] theorem State.modCtx_clusters (s : State) (n : Nat) (g : Context → Context) : (s.modCtx n g).clusters = s.clusters := by unfold State.modCtx; split <;> rfl
@[simp] theorem State.modCtx_cells (s : State) (n : Nat) (g : Context → Context) : (s.modCtx n g).cells = s.cells := by unfold State.modCtx; split <;> rfl
@[simp] theorem State.modCtx_threads (s : State) (n : Nat) (g : Context → Context) : (s.modCtx n g).threads = s.threads := by unfold State.modCtx; split <;> rfl
@[simp] theorem State.modCtx_tiles (s : State) (n : Nat) (g : Context → Context) : (s.modCtx n g).tiles = s.tiles := by unfold State.modCtx; split <;> rfl
@[simp] theorem State.modCtx_rings (s : State) (n : Nat) (g : Context → Context) : (s.modCtx n g).rings = s.rings := by unfold State.modCtx; split <;> rfl
@[simp] theorem State.modCtx_ops (s : State) (n : Nat) (g : Context → Context) : (s.modCtx n g).ops = s.ops := by unfold State.modCtx; split <;> rfl
@[simp] theorem State.modCtx_tags (s : State) (n : Nat) (g : Context → Context) : (s.modCtx n g).tags = s.tags := by unfold State.modCtx; split <;> rfl
@[simp] theorem State.modCtx_directory (s : State) (n : Nat) (g : Context → Context) : (s.modCtx n g).directory = s.directory := by unfold State.modCtx; split <;> rfl
@[simp] theorem State.modCtx_slots (s : State) (n : Nat) (g : Context → Context) : (s.modCtx n g).slots = s.slots := by unfold State.modCtx; split <;> rfl
@[simp] theorem State.modCtx_walkers (s : State) (n : Nat) (g : Context → Context) : (s.modCtx n g).walkers = s.walkers := by unfold State.modCtx; split <;> rfl
@[simp] theorem State.modCtx_pins (s : State) (n : Nat) (g : Context → Context) : (s.modCtx n g).pins = s.pins := by unfold State.modCtx; split <;> rfl
@[simp] theorem State.modCtx_ecc (s : State) (n : Nat) (g : Context → Context) : (s.modCtx n g).ecc = s.ecc := by unfold State.modCtx; split <;> rfl
@[simp] theorem State.modCtx_fltring (s : State) (n : Nat) (g : Context → Context) : (s.modCtx n g).fltring = s.fltring := by unfold State.modCtx; split <;> rfl
@[simp] theorem State.modCtx_flttail (s : State) (n : Nat) (g : Context → Context) : (s.modCtx n g).flttail = s.flttail := by unfold State.modCtx; split <;> rfl
@[simp] theorem State.modCtx_faults (s : State) (n : Nat) (g : Context → Context) : (s.modCtx n g).faults = s.faults := by unfold State.modCtx; split <;> rfl
@[simp] theorem State.modCtx_timing (s : State) (n : Nat) (g : Context → Context) : (s.modCtx n g).timing = s.timing := by unfold State.modCtx; split <;> rfl
@[simp] theorem State.modCtx_fabric (s : State) (n : Nat) (g : Context → Context) : (s.modCtx n g).fabric = s.fabric := by unfold State.modCtx; split <;> rfl
@[simp] theorem State.modCtx_host (s : State) (n : Nat) (g : Context → Context) : (s.modCtx n g).host = s.host := by unfold State.modCtx; split <;> rfl
@[simp] theorem State.modCtx_refphase (s : State) (n : Nat) (g : Context → Context) : (s.modCtx n g).refphase = s.refphase := by unfold State.modCtx; split <;> rfl
@[simp] theorem State.modCtx_refReported (s : State) (n : Nat) (g : Context → Context) : (s.modCtx n g).refReported = s.refReported := by unfold State.modCtx; split <;> rfl
@[simp] theorem State.modCtx_refresh (s : State) (n : Nat) (g : Context → Context) : (s.modCtx n g).refresh = s.refresh := by unfold State.modCtx; split <;> rfl
@[simp] theorem State.modCtx_debug (s : State) (n : Nat) (g : Context → Context) : (s.modCtx n g).debug = s.debug := by unfold State.modCtx; split <;> rfl
@[simp] theorem State.modCtx_trace (s : State) (n : Nat) (g : Context → Context) : (s.modCtx n g).trace = s.trace := by unfold State.modCtx; split <;> rfl
@[simp] theorem State.modCtx_port (s : State) (n : Nat) (g : Context → Context) : (s.modCtx n g).port = s.port := by unfold State.modCtx; split <;> rfl
@[simp] theorem State.modCtx_boot (s : State) (n : Nat) (g : Context → Context) : (s.modCtx n g).boot = s.boot := by unfold State.modCtx; split <;> rfl
@[simp] theorem State.modCtx_images (s : State) (n : Nat) (g : Context → Context) : (s.modCtx n g).images = s.images := by unfold State.modCtx; split <;> rfl
@[simp] theorem State.modCtx_rotor (s : State) (n : Nat) (g : Context → Context) : (s.modCtx n g).rotor = s.rotor := by unfold State.modCtx; split <;> rfl
@[simp] theorem State.modCtx_issue (s : State) (n : Nat) (g : Context → Context) : (s.modCtx n g).issue = s.issue := by unfold State.modCtx; split <;> rfl
@[simp] theorem State.modCtx_reinject (s : State) (n : Nat) (g : Context → Context) : (s.modCtx n g).reinject = s.reinject := by unfold State.modCtx; split <;> rfl
@[simp] theorem State.modCtx_agenda (s : State) (n : Nat) (g : Context → Context) : (s.modCtx n g).agenda = s.agenda := by unfold State.modCtx; split <;> rfl
@[simp] theorem State.modCtx_deferred (s : State) (n : Nat) (g : Context → Context) : (s.modCtx n g).deferred = s.deferred := by unfold State.modCtx; split <;> rfl
@[simp] theorem State.modCtx_focus (s : State) (n : Nat) (g : Context → Context) : (s.modCtx n g).focus = s.focus := by unfold State.modCtx; split <;> rfl
@[simp] theorem State.modCtx_nextId (s : State) (n : Nat) (g : Context → Context) : (s.modCtx n g).nextId = s.nextId := by unfold State.modCtx; split <;> rfl
@[simp] theorem State.modCtx_free (s : State) (n : Nat) (g : Context → Context) : (s.modCtx n g).free = s.free := by unfold State.modCtx; split <;> rfl

/-! ## modThread -/

@[simp] theorem State.modThread_mem (s : State) (tid : Nat) (g : Thread → Thread) : (s.modThread tid g).mem = s.mem := by unfold State.modThread; split <;> rfl
@[simp] theorem State.modThread_cycle (s : State) (tid : Nat) (g : Thread → Thread) : (s.modThread tid g).cycle = s.cycle := by unfold State.modThread; split <;> rfl
@[simp] theorem State.modThread_ctxs (s : State) (tid : Nat) (g : Thread → Thread) : (s.modThread tid g).ctxs = s.ctxs := by unfold State.modThread; split <;> rfl
@[simp] theorem State.modThread_launches (s : State) (tid : Nat) (g : Thread → Thread) : (s.modThread tid g).launches = s.launches := by unfold State.modThread; split <;> rfl
@[simp] theorem State.modThread_clusters (s : State) (tid : Nat) (g : Thread → Thread) : (s.modThread tid g).clusters = s.clusters := by unfold State.modThread; split <;> rfl
@[simp] theorem State.modThread_cells (s : State) (tid : Nat) (g : Thread → Thread) : (s.modThread tid g).cells = s.cells := by unfold State.modThread; split <;> rfl
@[simp] theorem State.modThread_tiles (s : State) (tid : Nat) (g : Thread → Thread) : (s.modThread tid g).tiles = s.tiles := by unfold State.modThread; split <;> rfl
@[simp] theorem State.modThread_rings (s : State) (tid : Nat) (g : Thread → Thread) : (s.modThread tid g).rings = s.rings := by unfold State.modThread; split <;> rfl
@[simp] theorem State.modThread_ops (s : State) (tid : Nat) (g : Thread → Thread) : (s.modThread tid g).ops = s.ops := by unfold State.modThread; split <;> rfl
@[simp] theorem State.modThread_tags (s : State) (tid : Nat) (g : Thread → Thread) : (s.modThread tid g).tags = s.tags := by unfold State.modThread; split <;> rfl
@[simp] theorem State.modThread_directory (s : State) (tid : Nat) (g : Thread → Thread) : (s.modThread tid g).directory = s.directory := by unfold State.modThread; split <;> rfl
@[simp] theorem State.modThread_slots (s : State) (tid : Nat) (g : Thread → Thread) : (s.modThread tid g).slots = s.slots := by unfold State.modThread; split <;> rfl
@[simp] theorem State.modThread_walkers (s : State) (tid : Nat) (g : Thread → Thread) : (s.modThread tid g).walkers = s.walkers := by unfold State.modThread; split <;> rfl
@[simp] theorem State.modThread_pins (s : State) (tid : Nat) (g : Thread → Thread) : (s.modThread tid g).pins = s.pins := by unfold State.modThread; split <;> rfl
@[simp] theorem State.modThread_ecc (s : State) (tid : Nat) (g : Thread → Thread) : (s.modThread tid g).ecc = s.ecc := by unfold State.modThread; split <;> rfl
@[simp] theorem State.modThread_fltring (s : State) (tid : Nat) (g : Thread → Thread) : (s.modThread tid g).fltring = s.fltring := by unfold State.modThread; split <;> rfl
@[simp] theorem State.modThread_flttail (s : State) (tid : Nat) (g : Thread → Thread) : (s.modThread tid g).flttail = s.flttail := by unfold State.modThread; split <;> rfl
@[simp] theorem State.modThread_faults (s : State) (tid : Nat) (g : Thread → Thread) : (s.modThread tid g).faults = s.faults := by unfold State.modThread; split <;> rfl
@[simp] theorem State.modThread_timing (s : State) (tid : Nat) (g : Thread → Thread) : (s.modThread tid g).timing = s.timing := by unfold State.modThread; split <;> rfl
@[simp] theorem State.modThread_fabric (s : State) (tid : Nat) (g : Thread → Thread) : (s.modThread tid g).fabric = s.fabric := by unfold State.modThread; split <;> rfl
@[simp] theorem State.modThread_host (s : State) (tid : Nat) (g : Thread → Thread) : (s.modThread tid g).host = s.host := by unfold State.modThread; split <;> rfl
@[simp] theorem State.modThread_refphase (s : State) (tid : Nat) (g : Thread → Thread) : (s.modThread tid g).refphase = s.refphase := by unfold State.modThread; split <;> rfl
@[simp] theorem State.modThread_refReported (s : State) (tid : Nat) (g : Thread → Thread) : (s.modThread tid g).refReported = s.refReported := by unfold State.modThread; split <;> rfl
@[simp] theorem State.modThread_refresh (s : State) (tid : Nat) (g : Thread → Thread) : (s.modThread tid g).refresh = s.refresh := by unfold State.modThread; split <;> rfl
@[simp] theorem State.modThread_debug (s : State) (tid : Nat) (g : Thread → Thread) : (s.modThread tid g).debug = s.debug := by unfold State.modThread; split <;> rfl
@[simp] theorem State.modThread_trace (s : State) (tid : Nat) (g : Thread → Thread) : (s.modThread tid g).trace = s.trace := by unfold State.modThread; split <;> rfl
@[simp] theorem State.modThread_port (s : State) (tid : Nat) (g : Thread → Thread) : (s.modThread tid g).port = s.port := by unfold State.modThread; split <;> rfl
@[simp] theorem State.modThread_boot (s : State) (tid : Nat) (g : Thread → Thread) : (s.modThread tid g).boot = s.boot := by unfold State.modThread; split <;> rfl
@[simp] theorem State.modThread_images (s : State) (tid : Nat) (g : Thread → Thread) : (s.modThread tid g).images = s.images := by unfold State.modThread; split <;> rfl
@[simp] theorem State.modThread_rotor (s : State) (tid : Nat) (g : Thread → Thread) : (s.modThread tid g).rotor = s.rotor := by unfold State.modThread; split <;> rfl
@[simp] theorem State.modThread_issue (s : State) (tid : Nat) (g : Thread → Thread) : (s.modThread tid g).issue = s.issue := by unfold State.modThread; split <;> rfl
@[simp] theorem State.modThread_reinject (s : State) (tid : Nat) (g : Thread → Thread) : (s.modThread tid g).reinject = s.reinject := by unfold State.modThread; split <;> rfl
@[simp] theorem State.modThread_agenda (s : State) (tid : Nat) (g : Thread → Thread) : (s.modThread tid g).agenda = s.agenda := by unfold State.modThread; split <;> rfl
@[simp] theorem State.modThread_deferred (s : State) (tid : Nat) (g : Thread → Thread) : (s.modThread tid g).deferred = s.deferred := by unfold State.modThread; split <;> rfl
@[simp] theorem State.modThread_focus (s : State) (tid : Nat) (g : Thread → Thread) : (s.modThread tid g).focus = s.focus := by unfold State.modThread; split <;> rfl
@[simp] theorem State.modThread_nextId (s : State) (tid : Nat) (g : Thread → Thread) : (s.modThread tid g).nextId = s.nextId := by unfold State.modThread; split <;> rfl
@[simp] theorem State.modThread_free (s : State) (tid : Nat) (g : Thread → Thread) : (s.modThread tid g).free = s.free := by unfold State.modThread; split <;> rfl

/-! ## modCell -/

@[simp] theorem State.modCell_mem (s : State) (n : Nat) (g : Cell → Cell) : (s.modCell n g).mem = s.mem := by unfold State.modCell; split <;> rfl
@[simp] theorem State.modCell_cycle (s : State) (n : Nat) (g : Cell → Cell) : (s.modCell n g).cycle = s.cycle := by unfold State.modCell; split <;> rfl
@[simp] theorem State.modCell_ctxs (s : State) (n : Nat) (g : Cell → Cell) : (s.modCell n g).ctxs = s.ctxs := by unfold State.modCell; split <;> rfl
@[simp] theorem State.modCell_launches (s : State) (n : Nat) (g : Cell → Cell) : (s.modCell n g).launches = s.launches := by unfold State.modCell; split <;> rfl
@[simp] theorem State.modCell_clusters (s : State) (n : Nat) (g : Cell → Cell) : (s.modCell n g).clusters = s.clusters := by unfold State.modCell; split <;> rfl
@[simp] theorem State.modCell_threads (s : State) (n : Nat) (g : Cell → Cell) : (s.modCell n g).threads = s.threads := by unfold State.modCell; split <;> rfl
@[simp] theorem State.modCell_tiles (s : State) (n : Nat) (g : Cell → Cell) : (s.modCell n g).tiles = s.tiles := by unfold State.modCell; split <;> rfl
@[simp] theorem State.modCell_rings (s : State) (n : Nat) (g : Cell → Cell) : (s.modCell n g).rings = s.rings := by unfold State.modCell; split <;> rfl
@[simp] theorem State.modCell_ops (s : State) (n : Nat) (g : Cell → Cell) : (s.modCell n g).ops = s.ops := by unfold State.modCell; split <;> rfl
@[simp] theorem State.modCell_tags (s : State) (n : Nat) (g : Cell → Cell) : (s.modCell n g).tags = s.tags := by unfold State.modCell; split <;> rfl
@[simp] theorem State.modCell_directory (s : State) (n : Nat) (g : Cell → Cell) : (s.modCell n g).directory = s.directory := by unfold State.modCell; split <;> rfl
@[simp] theorem State.modCell_slots (s : State) (n : Nat) (g : Cell → Cell) : (s.modCell n g).slots = s.slots := by unfold State.modCell; split <;> rfl
@[simp] theorem State.modCell_walkers (s : State) (n : Nat) (g : Cell → Cell) : (s.modCell n g).walkers = s.walkers := by unfold State.modCell; split <;> rfl
@[simp] theorem State.modCell_pins (s : State) (n : Nat) (g : Cell → Cell) : (s.modCell n g).pins = s.pins := by unfold State.modCell; split <;> rfl
@[simp] theorem State.modCell_ecc (s : State) (n : Nat) (g : Cell → Cell) : (s.modCell n g).ecc = s.ecc := by unfold State.modCell; split <;> rfl
@[simp] theorem State.modCell_fltring (s : State) (n : Nat) (g : Cell → Cell) : (s.modCell n g).fltring = s.fltring := by unfold State.modCell; split <;> rfl
@[simp] theorem State.modCell_flttail (s : State) (n : Nat) (g : Cell → Cell) : (s.modCell n g).flttail = s.flttail := by unfold State.modCell; split <;> rfl
@[simp] theorem State.modCell_faults (s : State) (n : Nat) (g : Cell → Cell) : (s.modCell n g).faults = s.faults := by unfold State.modCell; split <;> rfl
@[simp] theorem State.modCell_timing (s : State) (n : Nat) (g : Cell → Cell) : (s.modCell n g).timing = s.timing := by unfold State.modCell; split <;> rfl
@[simp] theorem State.modCell_fabric (s : State) (n : Nat) (g : Cell → Cell) : (s.modCell n g).fabric = s.fabric := by unfold State.modCell; split <;> rfl
@[simp] theorem State.modCell_host (s : State) (n : Nat) (g : Cell → Cell) : (s.modCell n g).host = s.host := by unfold State.modCell; split <;> rfl
@[simp] theorem State.modCell_refphase (s : State) (n : Nat) (g : Cell → Cell) : (s.modCell n g).refphase = s.refphase := by unfold State.modCell; split <;> rfl
@[simp] theorem State.modCell_refReported (s : State) (n : Nat) (g : Cell → Cell) : (s.modCell n g).refReported = s.refReported := by unfold State.modCell; split <;> rfl
@[simp] theorem State.modCell_refresh (s : State) (n : Nat) (g : Cell → Cell) : (s.modCell n g).refresh = s.refresh := by unfold State.modCell; split <;> rfl
@[simp] theorem State.modCell_debug (s : State) (n : Nat) (g : Cell → Cell) : (s.modCell n g).debug = s.debug := by unfold State.modCell; split <;> rfl
@[simp] theorem State.modCell_trace (s : State) (n : Nat) (g : Cell → Cell) : (s.modCell n g).trace = s.trace := by unfold State.modCell; split <;> rfl
@[simp] theorem State.modCell_port (s : State) (n : Nat) (g : Cell → Cell) : (s.modCell n g).port = s.port := by unfold State.modCell; split <;> rfl
@[simp] theorem State.modCell_boot (s : State) (n : Nat) (g : Cell → Cell) : (s.modCell n g).boot = s.boot := by unfold State.modCell; split <;> rfl
@[simp] theorem State.modCell_images (s : State) (n : Nat) (g : Cell → Cell) : (s.modCell n g).images = s.images := by unfold State.modCell; split <;> rfl
@[simp] theorem State.modCell_rotor (s : State) (n : Nat) (g : Cell → Cell) : (s.modCell n g).rotor = s.rotor := by unfold State.modCell; split <;> rfl
@[simp] theorem State.modCell_issue (s : State) (n : Nat) (g : Cell → Cell) : (s.modCell n g).issue = s.issue := by unfold State.modCell; split <;> rfl
@[simp] theorem State.modCell_reinject (s : State) (n : Nat) (g : Cell → Cell) : (s.modCell n g).reinject = s.reinject := by unfold State.modCell; split <;> rfl
@[simp] theorem State.modCell_agenda (s : State) (n : Nat) (g : Cell → Cell) : (s.modCell n g).agenda = s.agenda := by unfold State.modCell; split <;> rfl
@[simp] theorem State.modCell_deferred (s : State) (n : Nat) (g : Cell → Cell) : (s.modCell n g).deferred = s.deferred := by unfold State.modCell; split <;> rfl
@[simp] theorem State.modCell_focus (s : State) (n : Nat) (g : Cell → Cell) : (s.modCell n g).focus = s.focus := by unfold State.modCell; split <;> rfl
@[simp] theorem State.modCell_nextId (s : State) (n : Nat) (g : Cell → Cell) : (s.modCell n g).nextId = s.nextId := by unfold State.modCell; split <;> rfl
@[simp] theorem State.modCell_free (s : State) (n : Nat) (g : Cell → Cell) : (s.modCell n g).free = s.free := by unfold State.modCell; split <;> rfl

/-! ## modLaunch -/

@[simp] theorem State.modLaunch_mem (s : State) (n : Nat) (g : Launch → Launch) : (s.modLaunch n g).mem = s.mem := by unfold State.modLaunch; split <;> rfl
@[simp] theorem State.modLaunch_cycle (s : State) (n : Nat) (g : Launch → Launch) : (s.modLaunch n g).cycle = s.cycle := by unfold State.modLaunch; split <;> rfl
@[simp] theorem State.modLaunch_ctxs (s : State) (n : Nat) (g : Launch → Launch) : (s.modLaunch n g).ctxs = s.ctxs := by unfold State.modLaunch; split <;> rfl
@[simp] theorem State.modLaunch_clusters (s : State) (n : Nat) (g : Launch → Launch) : (s.modLaunch n g).clusters = s.clusters := by unfold State.modLaunch; split <;> rfl
@[simp] theorem State.modLaunch_cells (s : State) (n : Nat) (g : Launch → Launch) : (s.modLaunch n g).cells = s.cells := by unfold State.modLaunch; split <;> rfl
@[simp] theorem State.modLaunch_threads (s : State) (n : Nat) (g : Launch → Launch) : (s.modLaunch n g).threads = s.threads := by unfold State.modLaunch; split <;> rfl
@[simp] theorem State.modLaunch_tiles (s : State) (n : Nat) (g : Launch → Launch) : (s.modLaunch n g).tiles = s.tiles := by unfold State.modLaunch; split <;> rfl
@[simp] theorem State.modLaunch_rings (s : State) (n : Nat) (g : Launch → Launch) : (s.modLaunch n g).rings = s.rings := by unfold State.modLaunch; split <;> rfl
@[simp] theorem State.modLaunch_ops (s : State) (n : Nat) (g : Launch → Launch) : (s.modLaunch n g).ops = s.ops := by unfold State.modLaunch; split <;> rfl
@[simp] theorem State.modLaunch_tags (s : State) (n : Nat) (g : Launch → Launch) : (s.modLaunch n g).tags = s.tags := by unfold State.modLaunch; split <;> rfl
@[simp] theorem State.modLaunch_directory (s : State) (n : Nat) (g : Launch → Launch) : (s.modLaunch n g).directory = s.directory := by unfold State.modLaunch; split <;> rfl
@[simp] theorem State.modLaunch_slots (s : State) (n : Nat) (g : Launch → Launch) : (s.modLaunch n g).slots = s.slots := by unfold State.modLaunch; split <;> rfl
@[simp] theorem State.modLaunch_walkers (s : State) (n : Nat) (g : Launch → Launch) : (s.modLaunch n g).walkers = s.walkers := by unfold State.modLaunch; split <;> rfl
@[simp] theorem State.modLaunch_pins (s : State) (n : Nat) (g : Launch → Launch) : (s.modLaunch n g).pins = s.pins := by unfold State.modLaunch; split <;> rfl
@[simp] theorem State.modLaunch_ecc (s : State) (n : Nat) (g : Launch → Launch) : (s.modLaunch n g).ecc = s.ecc := by unfold State.modLaunch; split <;> rfl
@[simp] theorem State.modLaunch_fltring (s : State) (n : Nat) (g : Launch → Launch) : (s.modLaunch n g).fltring = s.fltring := by unfold State.modLaunch; split <;> rfl
@[simp] theorem State.modLaunch_flttail (s : State) (n : Nat) (g : Launch → Launch) : (s.modLaunch n g).flttail = s.flttail := by unfold State.modLaunch; split <;> rfl
@[simp] theorem State.modLaunch_faults (s : State) (n : Nat) (g : Launch → Launch) : (s.modLaunch n g).faults = s.faults := by unfold State.modLaunch; split <;> rfl
@[simp] theorem State.modLaunch_timing (s : State) (n : Nat) (g : Launch → Launch) : (s.modLaunch n g).timing = s.timing := by unfold State.modLaunch; split <;> rfl
@[simp] theorem State.modLaunch_fabric (s : State) (n : Nat) (g : Launch → Launch) : (s.modLaunch n g).fabric = s.fabric := by unfold State.modLaunch; split <;> rfl
@[simp] theorem State.modLaunch_host (s : State) (n : Nat) (g : Launch → Launch) : (s.modLaunch n g).host = s.host := by unfold State.modLaunch; split <;> rfl
@[simp] theorem State.modLaunch_refphase (s : State) (n : Nat) (g : Launch → Launch) : (s.modLaunch n g).refphase = s.refphase := by unfold State.modLaunch; split <;> rfl
@[simp] theorem State.modLaunch_refReported (s : State) (n : Nat) (g : Launch → Launch) : (s.modLaunch n g).refReported = s.refReported := by unfold State.modLaunch; split <;> rfl
@[simp] theorem State.modLaunch_refresh (s : State) (n : Nat) (g : Launch → Launch) : (s.modLaunch n g).refresh = s.refresh := by unfold State.modLaunch; split <;> rfl
@[simp] theorem State.modLaunch_debug (s : State) (n : Nat) (g : Launch → Launch) : (s.modLaunch n g).debug = s.debug := by unfold State.modLaunch; split <;> rfl
@[simp] theorem State.modLaunch_trace (s : State) (n : Nat) (g : Launch → Launch) : (s.modLaunch n g).trace = s.trace := by unfold State.modLaunch; split <;> rfl
@[simp] theorem State.modLaunch_port (s : State) (n : Nat) (g : Launch → Launch) : (s.modLaunch n g).port = s.port := by unfold State.modLaunch; split <;> rfl
@[simp] theorem State.modLaunch_boot (s : State) (n : Nat) (g : Launch → Launch) : (s.modLaunch n g).boot = s.boot := by unfold State.modLaunch; split <;> rfl
@[simp] theorem State.modLaunch_images (s : State) (n : Nat) (g : Launch → Launch) : (s.modLaunch n g).images = s.images := by unfold State.modLaunch; split <;> rfl
@[simp] theorem State.modLaunch_rotor (s : State) (n : Nat) (g : Launch → Launch) : (s.modLaunch n g).rotor = s.rotor := by unfold State.modLaunch; split <;> rfl
@[simp] theorem State.modLaunch_issue (s : State) (n : Nat) (g : Launch → Launch) : (s.modLaunch n g).issue = s.issue := by unfold State.modLaunch; split <;> rfl
@[simp] theorem State.modLaunch_reinject (s : State) (n : Nat) (g : Launch → Launch) : (s.modLaunch n g).reinject = s.reinject := by unfold State.modLaunch; split <;> rfl
@[simp] theorem State.modLaunch_agenda (s : State) (n : Nat) (g : Launch → Launch) : (s.modLaunch n g).agenda = s.agenda := by unfold State.modLaunch; split <;> rfl
@[simp] theorem State.modLaunch_deferred (s : State) (n : Nat) (g : Launch → Launch) : (s.modLaunch n g).deferred = s.deferred := by unfold State.modLaunch; split <;> rfl
@[simp] theorem State.modLaunch_focus (s : State) (n : Nat) (g : Launch → Launch) : (s.modLaunch n g).focus = s.focus := by unfold State.modLaunch; split <;> rfl
@[simp] theorem State.modLaunch_nextId (s : State) (n : Nat) (g : Launch → Launch) : (s.modLaunch n g).nextId = s.nextId := by unfold State.modLaunch; split <;> rfl
@[simp] theorem State.modLaunch_free (s : State) (n : Nat) (g : Launch → Launch) : (s.modLaunch n g).free = s.free := by unfold State.modLaunch; split <;> rfl

/-! ## endRegion -/

@[simp] theorem State.endRegion_mem (s : State) (slot : Nat) (scope : Option Nat) : (s.endRegion slot scope).mem = s.mem := rfl
@[simp] theorem State.endRegion_cycle (s : State) (slot : Nat) (scope : Option Nat) : (s.endRegion slot scope).cycle = s.cycle := rfl
@[simp] theorem State.endRegion_ctxs (s : State) (slot : Nat) (scope : Option Nat) : (s.endRegion slot scope).ctxs = s.ctxs := rfl
@[simp] theorem State.endRegion_launches (s : State) (slot : Nat) (scope : Option Nat) : (s.endRegion slot scope).launches = s.launches := rfl
@[simp] theorem State.endRegion_clusters (s : State) (slot : Nat) (scope : Option Nat) : (s.endRegion slot scope).clusters = s.clusters := rfl
@[simp] theorem State.endRegion_cells (s : State) (slot : Nat) (scope : Option Nat) : (s.endRegion slot scope).cells = s.cells := rfl
@[simp] theorem State.endRegion_threads (s : State) (slot : Nat) (scope : Option Nat) : (s.endRegion slot scope).threads = s.threads := rfl
@[simp] theorem State.endRegion_tiles (s : State) (slot : Nat) (scope : Option Nat) : (s.endRegion slot scope).tiles = s.tiles := rfl
@[simp] theorem State.endRegion_rings (s : State) (slot : Nat) (scope : Option Nat) : (s.endRegion slot scope).rings = s.rings := rfl
@[simp] theorem State.endRegion_ops (s : State) (slot : Nat) (scope : Option Nat) : (s.endRegion slot scope).ops = s.ops := rfl
@[simp] theorem State.endRegion_tags (s : State) (slot : Nat) (scope : Option Nat) : (s.endRegion slot scope).tags = s.tags := rfl
@[simp] theorem State.endRegion_directory (s : State) (slot : Nat) (scope : Option Nat) : (s.endRegion slot scope).directory = s.directory := rfl
@[simp] theorem State.endRegion_walkers (s : State) (slot : Nat) (scope : Option Nat) : (s.endRegion slot scope).walkers = s.walkers := rfl
@[simp] theorem State.endRegion_pins (s : State) (slot : Nat) (scope : Option Nat) : (s.endRegion slot scope).pins = s.pins := rfl
@[simp] theorem State.endRegion_ecc (s : State) (slot : Nat) (scope : Option Nat) : (s.endRegion slot scope).ecc = s.ecc := rfl
@[simp] theorem State.endRegion_fltring (s : State) (slot : Nat) (scope : Option Nat) : (s.endRegion slot scope).fltring = s.fltring := rfl
@[simp] theorem State.endRegion_flttail (s : State) (slot : Nat) (scope : Option Nat) : (s.endRegion slot scope).flttail = s.flttail := rfl
@[simp] theorem State.endRegion_faults (s : State) (slot : Nat) (scope : Option Nat) : (s.endRegion slot scope).faults = s.faults := rfl
@[simp] theorem State.endRegion_timing (s : State) (slot : Nat) (scope : Option Nat) : (s.endRegion slot scope).timing = s.timing := rfl
@[simp] theorem State.endRegion_fabric (s : State) (slot : Nat) (scope : Option Nat) : (s.endRegion slot scope).fabric = s.fabric := rfl
@[simp] theorem State.endRegion_host (s : State) (slot : Nat) (scope : Option Nat) : (s.endRegion slot scope).host = s.host := rfl
@[simp] theorem State.endRegion_refphase (s : State) (slot : Nat) (scope : Option Nat) : (s.endRegion slot scope).refphase = s.refphase := rfl
@[simp] theorem State.endRegion_refReported (s : State) (slot : Nat) (scope : Option Nat) : (s.endRegion slot scope).refReported = s.refReported := rfl
@[simp] theorem State.endRegion_refresh (s : State) (slot : Nat) (scope : Option Nat) : (s.endRegion slot scope).refresh = s.refresh := rfl
@[simp] theorem State.endRegion_debug (s : State) (slot : Nat) (scope : Option Nat) : (s.endRegion slot scope).debug = s.debug := rfl
@[simp] theorem State.endRegion_trace (s : State) (slot : Nat) (scope : Option Nat) : (s.endRegion slot scope).trace = s.trace := rfl
@[simp] theorem State.endRegion_port (s : State) (slot : Nat) (scope : Option Nat) : (s.endRegion slot scope).port = s.port := rfl
@[simp] theorem State.endRegion_boot (s : State) (slot : Nat) (scope : Option Nat) : (s.endRegion slot scope).boot = s.boot := rfl
@[simp] theorem State.endRegion_images (s : State) (slot : Nat) (scope : Option Nat) : (s.endRegion slot scope).images = s.images := rfl
@[simp] theorem State.endRegion_rotor (s : State) (slot : Nat) (scope : Option Nat) : (s.endRegion slot scope).rotor = s.rotor := rfl
@[simp] theorem State.endRegion_issue (s : State) (slot : Nat) (scope : Option Nat) : (s.endRegion slot scope).issue = s.issue := rfl
@[simp] theorem State.endRegion_reinject (s : State) (slot : Nat) (scope : Option Nat) : (s.endRegion slot scope).reinject = s.reinject := rfl
@[simp] theorem State.endRegion_agenda (s : State) (slot : Nat) (scope : Option Nat) : (s.endRegion slot scope).agenda = s.agenda := rfl
@[simp] theorem State.endRegion_deferred (s : State) (slot : Nat) (scope : Option Nat) : (s.endRegion slot scope).deferred = s.deferred := rfl
@[simp] theorem State.endRegion_focus (s : State) (slot : Nat) (scope : Option Nat) : (s.endRegion slot scope).focus = s.focus := rfl
@[simp] theorem State.endRegion_nextId (s : State) (slot : Nat) (scope : Option Nat) : (s.endRegion slot scope).nextId = s.nextId := rfl
@[simp] theorem State.endRegion_free (s : State) (slot : Nat) (scope : Option Nat) : (s.endRegion slot scope).free = s.free := rfl

/-! ## setPch -/

@[simp] theorem State.setPch_mem (s : State) (n : Nat) (r : Refresh) : (s.setPch n r).mem = s.mem := rfl
@[simp] theorem State.setPch_cycle (s : State) (n : Nat) (r : Refresh) : (s.setPch n r).cycle = s.cycle := rfl
@[simp] theorem State.setPch_ctxs (s : State) (n : Nat) (r : Refresh) : (s.setPch n r).ctxs = s.ctxs := rfl
@[simp] theorem State.setPch_launches (s : State) (n : Nat) (r : Refresh) : (s.setPch n r).launches = s.launches := rfl
@[simp] theorem State.setPch_clusters (s : State) (n : Nat) (r : Refresh) : (s.setPch n r).clusters = s.clusters := rfl
@[simp] theorem State.setPch_cells (s : State) (n : Nat) (r : Refresh) : (s.setPch n r).cells = s.cells := rfl
@[simp] theorem State.setPch_threads (s : State) (n : Nat) (r : Refresh) : (s.setPch n r).threads = s.threads := rfl
@[simp] theorem State.setPch_tiles (s : State) (n : Nat) (r : Refresh) : (s.setPch n r).tiles = s.tiles := rfl
@[simp] theorem State.setPch_rings (s : State) (n : Nat) (r : Refresh) : (s.setPch n r).rings = s.rings := rfl
@[simp] theorem State.setPch_ops (s : State) (n : Nat) (r : Refresh) : (s.setPch n r).ops = s.ops := rfl
@[simp] theorem State.setPch_tags (s : State) (n : Nat) (r : Refresh) : (s.setPch n r).tags = s.tags := rfl
@[simp] theorem State.setPch_directory (s : State) (n : Nat) (r : Refresh) : (s.setPch n r).directory = s.directory := rfl
@[simp] theorem State.setPch_slots (s : State) (n : Nat) (r : Refresh) : (s.setPch n r).slots = s.slots := rfl
@[simp] theorem State.setPch_walkers (s : State) (n : Nat) (r : Refresh) : (s.setPch n r).walkers = s.walkers := rfl
@[simp] theorem State.setPch_pins (s : State) (n : Nat) (r : Refresh) : (s.setPch n r).pins = s.pins := rfl
@[simp] theorem State.setPch_ecc (s : State) (n : Nat) (r : Refresh) : (s.setPch n r).ecc = s.ecc := rfl
@[simp] theorem State.setPch_fltring (s : State) (n : Nat) (r : Refresh) : (s.setPch n r).fltring = s.fltring := rfl
@[simp] theorem State.setPch_flttail (s : State) (n : Nat) (r : Refresh) : (s.setPch n r).flttail = s.flttail := rfl
@[simp] theorem State.setPch_faults (s : State) (n : Nat) (r : Refresh) : (s.setPch n r).faults = s.faults := rfl
@[simp] theorem State.setPch_timing (s : State) (n : Nat) (r : Refresh) : (s.setPch n r).timing = s.timing := rfl
@[simp] theorem State.setPch_fabric (s : State) (n : Nat) (r : Refresh) : (s.setPch n r).fabric = s.fabric := rfl
@[simp] theorem State.setPch_host (s : State) (n : Nat) (r : Refresh) : (s.setPch n r).host = s.host := rfl
@[simp] theorem State.setPch_refphase (s : State) (n : Nat) (r : Refresh) : (s.setPch n r).refphase = s.refphase := rfl
@[simp] theorem State.setPch_refReported (s : State) (n : Nat) (r : Refresh) : (s.setPch n r).refReported = s.refReported := rfl
@[simp] theorem State.setPch_debug (s : State) (n : Nat) (r : Refresh) : (s.setPch n r).debug = s.debug := rfl
@[simp] theorem State.setPch_trace (s : State) (n : Nat) (r : Refresh) : (s.setPch n r).trace = s.trace := rfl
@[simp] theorem State.setPch_port (s : State) (n : Nat) (r : Refresh) : (s.setPch n r).port = s.port := rfl
@[simp] theorem State.setPch_boot (s : State) (n : Nat) (r : Refresh) : (s.setPch n r).boot = s.boot := rfl
@[simp] theorem State.setPch_images (s : State) (n : Nat) (r : Refresh) : (s.setPch n r).images = s.images := rfl
@[simp] theorem State.setPch_rotor (s : State) (n : Nat) (r : Refresh) : (s.setPch n r).rotor = s.rotor := rfl
@[simp] theorem State.setPch_issue (s : State) (n : Nat) (r : Refresh) : (s.setPch n r).issue = s.issue := rfl
@[simp] theorem State.setPch_reinject (s : State) (n : Nat) (r : Refresh) : (s.setPch n r).reinject = s.reinject := rfl
@[simp] theorem State.setPch_agenda (s : State) (n : Nat) (r : Refresh) : (s.setPch n r).agenda = s.agenda := rfl
@[simp] theorem State.setPch_deferred (s : State) (n : Nat) (r : Refresh) : (s.setPch n r).deferred = s.deferred := rfl
@[simp] theorem State.setPch_focus (s : State) (n : Nat) (r : Refresh) : (s.setPch n r).focus = s.focus := rfl
@[simp] theorem State.setPch_nextId (s : State) (n : Nat) (r : Refresh) : (s.setPch n r).nextId = s.nextId := rfl
@[simp] theorem State.setPch_free (s : State) (n : Nat) (r : Refresh) : (s.setPch n r).free = s.free := rfl

/-! ## setBlock -/

@[simp] theorem State.setBlock_mem (s : State) (tile part : Nat) (b : DebugBlock) : (s.setBlock tile part b).mem = s.mem := rfl
@[simp] theorem State.setBlock_cycle (s : State) (tile part : Nat) (b : DebugBlock) : (s.setBlock tile part b).cycle = s.cycle := rfl
@[simp] theorem State.setBlock_ctxs (s : State) (tile part : Nat) (b : DebugBlock) : (s.setBlock tile part b).ctxs = s.ctxs := rfl
@[simp] theorem State.setBlock_launches (s : State) (tile part : Nat) (b : DebugBlock) : (s.setBlock tile part b).launches = s.launches := rfl
@[simp] theorem State.setBlock_clusters (s : State) (tile part : Nat) (b : DebugBlock) : (s.setBlock tile part b).clusters = s.clusters := rfl
@[simp] theorem State.setBlock_cells (s : State) (tile part : Nat) (b : DebugBlock) : (s.setBlock tile part b).cells = s.cells := rfl
@[simp] theorem State.setBlock_threads (s : State) (tile part : Nat) (b : DebugBlock) : (s.setBlock tile part b).threads = s.threads := rfl
@[simp] theorem State.setBlock_tiles (s : State) (tile part : Nat) (b : DebugBlock) : (s.setBlock tile part b).tiles = s.tiles := rfl
@[simp] theorem State.setBlock_rings (s : State) (tile part : Nat) (b : DebugBlock) : (s.setBlock tile part b).rings = s.rings := rfl
@[simp] theorem State.setBlock_ops (s : State) (tile part : Nat) (b : DebugBlock) : (s.setBlock tile part b).ops = s.ops := rfl
@[simp] theorem State.setBlock_tags (s : State) (tile part : Nat) (b : DebugBlock) : (s.setBlock tile part b).tags = s.tags := rfl
@[simp] theorem State.setBlock_directory (s : State) (tile part : Nat) (b : DebugBlock) : (s.setBlock tile part b).directory = s.directory := rfl
@[simp] theorem State.setBlock_slots (s : State) (tile part : Nat) (b : DebugBlock) : (s.setBlock tile part b).slots = s.slots := rfl
@[simp] theorem State.setBlock_walkers (s : State) (tile part : Nat) (b : DebugBlock) : (s.setBlock tile part b).walkers = s.walkers := rfl
@[simp] theorem State.setBlock_pins (s : State) (tile part : Nat) (b : DebugBlock) : (s.setBlock tile part b).pins = s.pins := rfl
@[simp] theorem State.setBlock_ecc (s : State) (tile part : Nat) (b : DebugBlock) : (s.setBlock tile part b).ecc = s.ecc := rfl
@[simp] theorem State.setBlock_fltring (s : State) (tile part : Nat) (b : DebugBlock) : (s.setBlock tile part b).fltring = s.fltring := rfl
@[simp] theorem State.setBlock_flttail (s : State) (tile part : Nat) (b : DebugBlock) : (s.setBlock tile part b).flttail = s.flttail := rfl
@[simp] theorem State.setBlock_faults (s : State) (tile part : Nat) (b : DebugBlock) : (s.setBlock tile part b).faults = s.faults := rfl
@[simp] theorem State.setBlock_timing (s : State) (tile part : Nat) (b : DebugBlock) : (s.setBlock tile part b).timing = s.timing := rfl
@[simp] theorem State.setBlock_fabric (s : State) (tile part : Nat) (b : DebugBlock) : (s.setBlock tile part b).fabric = s.fabric := rfl
@[simp] theorem State.setBlock_host (s : State) (tile part : Nat) (b : DebugBlock) : (s.setBlock tile part b).host = s.host := rfl
@[simp] theorem State.setBlock_refphase (s : State) (tile part : Nat) (b : DebugBlock) : (s.setBlock tile part b).refphase = s.refphase := rfl
@[simp] theorem State.setBlock_refReported (s : State) (tile part : Nat) (b : DebugBlock) : (s.setBlock tile part b).refReported = s.refReported := rfl
@[simp] theorem State.setBlock_refresh (s : State) (tile part : Nat) (b : DebugBlock) : (s.setBlock tile part b).refresh = s.refresh := rfl
@[simp] theorem State.setBlock_trace (s : State) (tile part : Nat) (b : DebugBlock) : (s.setBlock tile part b).trace = s.trace := rfl
@[simp] theorem State.setBlock_port (s : State) (tile part : Nat) (b : DebugBlock) : (s.setBlock tile part b).port = s.port := rfl
@[simp] theorem State.setBlock_boot (s : State) (tile part : Nat) (b : DebugBlock) : (s.setBlock tile part b).boot = s.boot := rfl
@[simp] theorem State.setBlock_images (s : State) (tile part : Nat) (b : DebugBlock) : (s.setBlock tile part b).images = s.images := rfl
@[simp] theorem State.setBlock_rotor (s : State) (tile part : Nat) (b : DebugBlock) : (s.setBlock tile part b).rotor = s.rotor := rfl
@[simp] theorem State.setBlock_issue (s : State) (tile part : Nat) (b : DebugBlock) : (s.setBlock tile part b).issue = s.issue := rfl
@[simp] theorem State.setBlock_reinject (s : State) (tile part : Nat) (b : DebugBlock) : (s.setBlock tile part b).reinject = s.reinject := rfl
@[simp] theorem State.setBlock_agenda (s : State) (tile part : Nat) (b : DebugBlock) : (s.setBlock tile part b).agenda = s.agenda := rfl
@[simp] theorem State.setBlock_deferred (s : State) (tile part : Nat) (b : DebugBlock) : (s.setBlock tile part b).deferred = s.deferred := rfl
@[simp] theorem State.setBlock_focus (s : State) (tile part : Nat) (b : DebugBlock) : (s.setBlock tile part b).focus = s.focus := rfl
@[simp] theorem State.setBlock_nextId (s : State) (tile part : Nat) (b : DebugBlock) : (s.setBlock tile part b).nextId = s.nextId := rfl
@[simp] theorem State.setBlock_free (s : State) (tile part : Nat) (b : DebugBlock) : (s.setBlock tile part b).free = s.free := rfl

/-! ## setRing -/

@[simp] theorem State.setRing_mem (s : State) (r : Ring) : (s.setRing r).mem = s.mem := by unfold State.setRing; split <;> rfl
@[simp] theorem State.setRing_cycle (s : State) (r : Ring) : (s.setRing r).cycle = s.cycle := by unfold State.setRing; split <;> rfl
@[simp] theorem State.setRing_ctxs (s : State) (r : Ring) : (s.setRing r).ctxs = s.ctxs := by unfold State.setRing; split <;> rfl
@[simp] theorem State.setRing_launches (s : State) (r : Ring) : (s.setRing r).launches = s.launches := by unfold State.setRing; split <;> rfl
@[simp] theorem State.setRing_clusters (s : State) (r : Ring) : (s.setRing r).clusters = s.clusters := by unfold State.setRing; split <;> rfl
@[simp] theorem State.setRing_cells (s : State) (r : Ring) : (s.setRing r).cells = s.cells := by unfold State.setRing; split <;> rfl
@[simp] theorem State.setRing_threads (s : State) (r : Ring) : (s.setRing r).threads = s.threads := by unfold State.setRing; split <;> rfl
@[simp] theorem State.setRing_tiles (s : State) (r : Ring) : (s.setRing r).tiles = s.tiles := by unfold State.setRing; split <;> rfl
@[simp] theorem State.setRing_ops (s : State) (r : Ring) : (s.setRing r).ops = s.ops := by unfold State.setRing; split <;> rfl
@[simp] theorem State.setRing_tags (s : State) (r : Ring) : (s.setRing r).tags = s.tags := by unfold State.setRing; split <;> rfl
@[simp] theorem State.setRing_directory (s : State) (r : Ring) : (s.setRing r).directory = s.directory := by unfold State.setRing; split <;> rfl
@[simp] theorem State.setRing_slots (s : State) (r : Ring) : (s.setRing r).slots = s.slots := by unfold State.setRing; split <;> rfl
@[simp] theorem State.setRing_walkers (s : State) (r : Ring) : (s.setRing r).walkers = s.walkers := by unfold State.setRing; split <;> rfl
@[simp] theorem State.setRing_pins (s : State) (r : Ring) : (s.setRing r).pins = s.pins := by unfold State.setRing; split <;> rfl
@[simp] theorem State.setRing_ecc (s : State) (r : Ring) : (s.setRing r).ecc = s.ecc := by unfold State.setRing; split <;> rfl
@[simp] theorem State.setRing_fltring (s : State) (r : Ring) : (s.setRing r).fltring = s.fltring := by unfold State.setRing; split <;> rfl
@[simp] theorem State.setRing_flttail (s : State) (r : Ring) : (s.setRing r).flttail = s.flttail := by unfold State.setRing; split <;> rfl
@[simp] theorem State.setRing_faults (s : State) (r : Ring) : (s.setRing r).faults = s.faults := by unfold State.setRing; split <;> rfl
@[simp] theorem State.setRing_timing (s : State) (r : Ring) : (s.setRing r).timing = s.timing := by unfold State.setRing; split <;> rfl
@[simp] theorem State.setRing_fabric (s : State) (r : Ring) : (s.setRing r).fabric = s.fabric := by unfold State.setRing; split <;> rfl
@[simp] theorem State.setRing_host (s : State) (r : Ring) : (s.setRing r).host = s.host := by unfold State.setRing; split <;> rfl
@[simp] theorem State.setRing_refphase (s : State) (r : Ring) : (s.setRing r).refphase = s.refphase := by unfold State.setRing; split <;> rfl
@[simp] theorem State.setRing_refReported (s : State) (r : Ring) : (s.setRing r).refReported = s.refReported := by unfold State.setRing; split <;> rfl
@[simp] theorem State.setRing_refresh (s : State) (r : Ring) : (s.setRing r).refresh = s.refresh := by unfold State.setRing; split <;> rfl
@[simp] theorem State.setRing_debug (s : State) (r : Ring) : (s.setRing r).debug = s.debug := by unfold State.setRing; split <;> rfl
@[simp] theorem State.setRing_trace (s : State) (r : Ring) : (s.setRing r).trace = s.trace := by unfold State.setRing; split <;> rfl
@[simp] theorem State.setRing_port (s : State) (r : Ring) : (s.setRing r).port = s.port := by unfold State.setRing; split <;> rfl
@[simp] theorem State.setRing_boot (s : State) (r : Ring) : (s.setRing r).boot = s.boot := by unfold State.setRing; split <;> rfl
@[simp] theorem State.setRing_images (s : State) (r : Ring) : (s.setRing r).images = s.images := by unfold State.setRing; split <;> rfl
@[simp] theorem State.setRing_rotor (s : State) (r : Ring) : (s.setRing r).rotor = s.rotor := by unfold State.setRing; split <;> rfl
@[simp] theorem State.setRing_issue (s : State) (r : Ring) : (s.setRing r).issue = s.issue := by unfold State.setRing; split <;> rfl
@[simp] theorem State.setRing_reinject (s : State) (r : Ring) : (s.setRing r).reinject = s.reinject := by unfold State.setRing; split <;> rfl
@[simp] theorem State.setRing_agenda (s : State) (r : Ring) : (s.setRing r).agenda = s.agenda := by unfold State.setRing; split <;> rfl
@[simp] theorem State.setRing_deferred (s : State) (r : Ring) : (s.setRing r).deferred = s.deferred := by unfold State.setRing; split <;> rfl
@[simp] theorem State.setRing_focus (s : State) (r : Ring) : (s.setRing r).focus = s.focus := by unfold State.setRing; split <;> rfl
@[simp] theorem State.setRing_nextId (s : State) (r : Ring) : (s.setRing r).nextId = s.nextId := by unfold State.setRing; split <;> rfl
@[simp] theorem State.setRing_free (s : State) (r : Ring) : (s.setRing r).free = s.free := by unfold State.setRing; split <;> rfl

/-! ## shareLanes -/

@[simp] theorem State.shareLanes_mem (s : State) (no : Nat) : (s.shareLanes no).mem = s.mem := rfl
@[simp] theorem State.shareLanes_cycle (s : State) (no : Nat) : (s.shareLanes no).cycle = s.cycle := rfl
@[simp] theorem State.shareLanes_ctxs (s : State) (no : Nat) : (s.shareLanes no).ctxs = s.ctxs := rfl
@[simp] theorem State.shareLanes_launches (s : State) (no : Nat) : (s.shareLanes no).launches = s.launches := rfl
@[simp] theorem State.shareLanes_clusters (s : State) (no : Nat) : (s.shareLanes no).clusters = s.clusters := rfl
@[simp] theorem State.shareLanes_cells (s : State) (no : Nat) : (s.shareLanes no).cells = s.cells := rfl
@[simp] theorem State.shareLanes_tiles (s : State) (no : Nat) : (s.shareLanes no).tiles = s.tiles := rfl
@[simp] theorem State.shareLanes_rings (s : State) (no : Nat) : (s.shareLanes no).rings = s.rings := rfl
@[simp] theorem State.shareLanes_ops (s : State) (no : Nat) : (s.shareLanes no).ops = s.ops := rfl
@[simp] theorem State.shareLanes_tags (s : State) (no : Nat) : (s.shareLanes no).tags = s.tags := rfl
@[simp] theorem State.shareLanes_directory (s : State) (no : Nat) : (s.shareLanes no).directory = s.directory := rfl
@[simp] theorem State.shareLanes_slots (s : State) (no : Nat) : (s.shareLanes no).slots = s.slots := rfl
@[simp] theorem State.shareLanes_walkers (s : State) (no : Nat) : (s.shareLanes no).walkers = s.walkers := rfl
@[simp] theorem State.shareLanes_pins (s : State) (no : Nat) : (s.shareLanes no).pins = s.pins := rfl
@[simp] theorem State.shareLanes_ecc (s : State) (no : Nat) : (s.shareLanes no).ecc = s.ecc := rfl
@[simp] theorem State.shareLanes_fltring (s : State) (no : Nat) : (s.shareLanes no).fltring = s.fltring := rfl
@[simp] theorem State.shareLanes_flttail (s : State) (no : Nat) : (s.shareLanes no).flttail = s.flttail := rfl
@[simp] theorem State.shareLanes_faults (s : State) (no : Nat) : (s.shareLanes no).faults = s.faults := rfl
@[simp] theorem State.shareLanes_timing (s : State) (no : Nat) : (s.shareLanes no).timing = s.timing := rfl
@[simp] theorem State.shareLanes_fabric (s : State) (no : Nat) : (s.shareLanes no).fabric = s.fabric := rfl
@[simp] theorem State.shareLanes_host (s : State) (no : Nat) : (s.shareLanes no).host = s.host := rfl
@[simp] theorem State.shareLanes_refphase (s : State) (no : Nat) : (s.shareLanes no).refphase = s.refphase := rfl
@[simp] theorem State.shareLanes_refReported (s : State) (no : Nat) : (s.shareLanes no).refReported = s.refReported := rfl
@[simp] theorem State.shareLanes_refresh (s : State) (no : Nat) : (s.shareLanes no).refresh = s.refresh := rfl
@[simp] theorem State.shareLanes_debug (s : State) (no : Nat) : (s.shareLanes no).debug = s.debug := rfl
@[simp] theorem State.shareLanes_trace (s : State) (no : Nat) : (s.shareLanes no).trace = s.trace := rfl
@[simp] theorem State.shareLanes_port (s : State) (no : Nat) : (s.shareLanes no).port = s.port := rfl
@[simp] theorem State.shareLanes_boot (s : State) (no : Nat) : (s.shareLanes no).boot = s.boot := rfl
@[simp] theorem State.shareLanes_images (s : State) (no : Nat) : (s.shareLanes no).images = s.images := rfl
@[simp] theorem State.shareLanes_rotor (s : State) (no : Nat) : (s.shareLanes no).rotor = s.rotor := rfl
@[simp] theorem State.shareLanes_issue (s : State) (no : Nat) : (s.shareLanes no).issue = s.issue := rfl
@[simp] theorem State.shareLanes_reinject (s : State) (no : Nat) : (s.shareLanes no).reinject = s.reinject := rfl
@[simp] theorem State.shareLanes_agenda (s : State) (no : Nat) : (s.shareLanes no).agenda = s.agenda := rfl
@[simp] theorem State.shareLanes_deferred (s : State) (no : Nat) : (s.shareLanes no).deferred = s.deferred := rfl
@[simp] theorem State.shareLanes_focus (s : State) (no : Nat) : (s.shareLanes no).focus = s.focus := rfl
@[simp] theorem State.shareLanes_nextId (s : State) (no : Nat) : (s.shareLanes no).nextId = s.nextId := rfl
@[simp] theorem State.shareLanes_free (s : State) (no : Nat) : (s.shareLanes no).free = s.free := rfl

/-! ## wake -/

@[simp] theorem State.wake_mem (s : State) (p : Wake → Bool) : (s.wake p).mem = s.mem := rfl
@[simp] theorem State.wake_cycle (s : State) (p : Wake → Bool) : (s.wake p).cycle = s.cycle := rfl
@[simp] theorem State.wake_ctxs (s : State) (p : Wake → Bool) : (s.wake p).ctxs = s.ctxs := rfl
@[simp] theorem State.wake_launches (s : State) (p : Wake → Bool) : (s.wake p).launches = s.launches := rfl
@[simp] theorem State.wake_clusters (s : State) (p : Wake → Bool) : (s.wake p).clusters = s.clusters := rfl
@[simp] theorem State.wake_cells (s : State) (p : Wake → Bool) : (s.wake p).cells = s.cells := rfl
@[simp] theorem State.wake_tiles (s : State) (p : Wake → Bool) : (s.wake p).tiles = s.tiles := rfl
@[simp] theorem State.wake_rings (s : State) (p : Wake → Bool) : (s.wake p).rings = s.rings := rfl
@[simp] theorem State.wake_ops (s : State) (p : Wake → Bool) : (s.wake p).ops = s.ops := rfl
@[simp] theorem State.wake_tags (s : State) (p : Wake → Bool) : (s.wake p).tags = s.tags := rfl
@[simp] theorem State.wake_directory (s : State) (p : Wake → Bool) : (s.wake p).directory = s.directory := rfl
@[simp] theorem State.wake_slots (s : State) (p : Wake → Bool) : (s.wake p).slots = s.slots := rfl
@[simp] theorem State.wake_walkers (s : State) (p : Wake → Bool) : (s.wake p).walkers = s.walkers := rfl
@[simp] theorem State.wake_pins (s : State) (p : Wake → Bool) : (s.wake p).pins = s.pins := rfl
@[simp] theorem State.wake_ecc (s : State) (p : Wake → Bool) : (s.wake p).ecc = s.ecc := rfl
@[simp] theorem State.wake_fltring (s : State) (p : Wake → Bool) : (s.wake p).fltring = s.fltring := rfl
@[simp] theorem State.wake_flttail (s : State) (p : Wake → Bool) : (s.wake p).flttail = s.flttail := rfl
@[simp] theorem State.wake_faults (s : State) (p : Wake → Bool) : (s.wake p).faults = s.faults := rfl
@[simp] theorem State.wake_timing (s : State) (p : Wake → Bool) : (s.wake p).timing = s.timing := rfl
@[simp] theorem State.wake_fabric (s : State) (p : Wake → Bool) : (s.wake p).fabric = s.fabric := rfl
@[simp] theorem State.wake_host (s : State) (p : Wake → Bool) : (s.wake p).host = s.host := rfl
@[simp] theorem State.wake_refphase (s : State) (p : Wake → Bool) : (s.wake p).refphase = s.refphase := rfl
@[simp] theorem State.wake_refReported (s : State) (p : Wake → Bool) : (s.wake p).refReported = s.refReported := rfl
@[simp] theorem State.wake_refresh (s : State) (p : Wake → Bool) : (s.wake p).refresh = s.refresh := rfl
@[simp] theorem State.wake_debug (s : State) (p : Wake → Bool) : (s.wake p).debug = s.debug := rfl
@[simp] theorem State.wake_trace (s : State) (p : Wake → Bool) : (s.wake p).trace = s.trace := rfl
@[simp] theorem State.wake_port (s : State) (p : Wake → Bool) : (s.wake p).port = s.port := rfl
@[simp] theorem State.wake_boot (s : State) (p : Wake → Bool) : (s.wake p).boot = s.boot := rfl
@[simp] theorem State.wake_images (s : State) (p : Wake → Bool) : (s.wake p).images = s.images := rfl
@[simp] theorem State.wake_rotor (s : State) (p : Wake → Bool) : (s.wake p).rotor = s.rotor := rfl
@[simp] theorem State.wake_issue (s : State) (p : Wake → Bool) : (s.wake p).issue = s.issue := rfl
@[simp] theorem State.wake_reinject (s : State) (p : Wake → Bool) : (s.wake p).reinject = s.reinject := rfl
@[simp] theorem State.wake_agenda (s : State) (p : Wake → Bool) : (s.wake p).agenda = s.agenda := rfl
@[simp] theorem State.wake_deferred (s : State) (p : Wake → Bool) : (s.wake p).deferred = s.deferred := rfl
@[simp] theorem State.wake_focus (s : State) (p : Wake → Bool) : (s.wake p).focus = s.focus := rfl
@[simp] theorem State.wake_nextId (s : State) (p : Wake → Bool) : (s.wake p).nextId = s.nextId := rfl
@[simp] theorem State.wake_free (s : State) (p : Wake → Bool) : (s.wake p).free = s.free := rfl

/-! ## fatal -/

@[simp] theorem State.fatal_mem (s : State) (ctx : Nat) (i : FatalInfo) : (s.fatal ctx i).mem = s.mem := State.modCtx_mem ..
@[simp] theorem State.fatal_cycle (s : State) (ctx : Nat) (i : FatalInfo) : (s.fatal ctx i).cycle = s.cycle := State.modCtx_cycle ..
@[simp] theorem State.fatal_launches (s : State) (ctx : Nat) (i : FatalInfo) : (s.fatal ctx i).launches = s.launches := State.modCtx_launches ..
@[simp] theorem State.fatal_clusters (s : State) (ctx : Nat) (i : FatalInfo) : (s.fatal ctx i).clusters = s.clusters := State.modCtx_clusters ..
@[simp] theorem State.fatal_cells (s : State) (ctx : Nat) (i : FatalInfo) : (s.fatal ctx i).cells = s.cells := State.modCtx_cells ..
@[simp] theorem State.fatal_threads (s : State) (ctx : Nat) (i : FatalInfo) : (s.fatal ctx i).threads = s.threads := State.modCtx_threads ..
@[simp] theorem State.fatal_tiles (s : State) (ctx : Nat) (i : FatalInfo) : (s.fatal ctx i).tiles = s.tiles := State.modCtx_tiles ..
@[simp] theorem State.fatal_rings (s : State) (ctx : Nat) (i : FatalInfo) : (s.fatal ctx i).rings = s.rings := State.modCtx_rings ..
@[simp] theorem State.fatal_ops (s : State) (ctx : Nat) (i : FatalInfo) : (s.fatal ctx i).ops = s.ops := State.modCtx_ops ..
@[simp] theorem State.fatal_tags (s : State) (ctx : Nat) (i : FatalInfo) : (s.fatal ctx i).tags = s.tags := State.modCtx_tags ..
@[simp] theorem State.fatal_directory (s : State) (ctx : Nat) (i : FatalInfo) : (s.fatal ctx i).directory = s.directory := State.modCtx_directory ..
@[simp] theorem State.fatal_slots (s : State) (ctx : Nat) (i : FatalInfo) : (s.fatal ctx i).slots = s.slots := State.modCtx_slots ..
@[simp] theorem State.fatal_walkers (s : State) (ctx : Nat) (i : FatalInfo) : (s.fatal ctx i).walkers = s.walkers := State.modCtx_walkers ..
@[simp] theorem State.fatal_pins (s : State) (ctx : Nat) (i : FatalInfo) : (s.fatal ctx i).pins = s.pins := State.modCtx_pins ..
@[simp] theorem State.fatal_ecc (s : State) (ctx : Nat) (i : FatalInfo) : (s.fatal ctx i).ecc = s.ecc := State.modCtx_ecc ..
@[simp] theorem State.fatal_fltring (s : State) (ctx : Nat) (i : FatalInfo) : (s.fatal ctx i).fltring = s.fltring := State.modCtx_fltring ..
@[simp] theorem State.fatal_flttail (s : State) (ctx : Nat) (i : FatalInfo) : (s.fatal ctx i).flttail = s.flttail := State.modCtx_flttail ..
@[simp] theorem State.fatal_faults (s : State) (ctx : Nat) (i : FatalInfo) : (s.fatal ctx i).faults = s.faults := State.modCtx_faults ..
@[simp] theorem State.fatal_timing (s : State) (ctx : Nat) (i : FatalInfo) : (s.fatal ctx i).timing = s.timing := State.modCtx_timing ..
@[simp] theorem State.fatal_fabric (s : State) (ctx : Nat) (i : FatalInfo) : (s.fatal ctx i).fabric = s.fabric := State.modCtx_fabric ..
@[simp] theorem State.fatal_host (s : State) (ctx : Nat) (i : FatalInfo) : (s.fatal ctx i).host = s.host := State.modCtx_host ..
@[simp] theorem State.fatal_refphase (s : State) (ctx : Nat) (i : FatalInfo) : (s.fatal ctx i).refphase = s.refphase := State.modCtx_refphase ..
@[simp] theorem State.fatal_refReported (s : State) (ctx : Nat) (i : FatalInfo) : (s.fatal ctx i).refReported = s.refReported := State.modCtx_refReported ..
@[simp] theorem State.fatal_refresh (s : State) (ctx : Nat) (i : FatalInfo) : (s.fatal ctx i).refresh = s.refresh := State.modCtx_refresh ..
@[simp] theorem State.fatal_debug (s : State) (ctx : Nat) (i : FatalInfo) : (s.fatal ctx i).debug = s.debug := State.modCtx_debug ..
@[simp] theorem State.fatal_trace (s : State) (ctx : Nat) (i : FatalInfo) : (s.fatal ctx i).trace = s.trace := State.modCtx_trace ..
@[simp] theorem State.fatal_port (s : State) (ctx : Nat) (i : FatalInfo) : (s.fatal ctx i).port = s.port := State.modCtx_port ..
@[simp] theorem State.fatal_boot (s : State) (ctx : Nat) (i : FatalInfo) : (s.fatal ctx i).boot = s.boot := State.modCtx_boot ..
@[simp] theorem State.fatal_images (s : State) (ctx : Nat) (i : FatalInfo) : (s.fatal ctx i).images = s.images := State.modCtx_images ..
@[simp] theorem State.fatal_rotor (s : State) (ctx : Nat) (i : FatalInfo) : (s.fatal ctx i).rotor = s.rotor := State.modCtx_rotor ..
@[simp] theorem State.fatal_issue (s : State) (ctx : Nat) (i : FatalInfo) : (s.fatal ctx i).issue = s.issue := State.modCtx_issue ..
@[simp] theorem State.fatal_reinject (s : State) (ctx : Nat) (i : FatalInfo) : (s.fatal ctx i).reinject = s.reinject := State.modCtx_reinject ..
@[simp] theorem State.fatal_agenda (s : State) (ctx : Nat) (i : FatalInfo) : (s.fatal ctx i).agenda = s.agenda := State.modCtx_agenda ..
@[simp] theorem State.fatal_deferred (s : State) (ctx : Nat) (i : FatalInfo) : (s.fatal ctx i).deferred = s.deferred := State.modCtx_deferred ..
@[simp] theorem State.fatal_focus (s : State) (ctx : Nat) (i : FatalInfo) : (s.fatal ctx i).focus = s.focus := State.modCtx_focus ..
@[simp] theorem State.fatal_nextId (s : State) (ctx : Nat) (i : FatalInfo) : (s.fatal ctx i).nextId = s.nextId := State.modCtx_nextId ..
@[simp] theorem State.fatal_free (s : State) (ctx : Nat) (i : FatalInfo) : (s.fatal ctx i).free = s.free := State.modCtx_free ..

/-! ## What an update puts into its own field -/

@[simp] theorem State.setTile_same (s : State) (n : Nat) (t : Tile) : (s.setTile n t).tile n = t := by
  simp [State.tile, State.setTile, Map.getD]

@[simp] theorem State.setTile_other (s : State) {n m : Nat} (t : Tile) (h : m ≠ n) : (s.setTile n t).tile m = s.tile m := by
  simp [State.tile, State.setTile, Map.getD, Map.get?_set_ne _ _ h]

@[simp] theorem State.setPch_same (s : State) (n : Nat) (r : Refresh) : (s.setPch n r).pch n = r := by
  simp [State.pch, State.setPch, Map.getD]

@[simp] theorem State.setPch_other (s : State) {n m : Nat} (r : Refresh) (h : m ≠ n) : (s.setPch n r).pch m = s.pch m := by
  simp [State.pch, State.setPch, Map.getD, Map.get?_set_ne _ _ h]

@[simp] theorem State.setBlock_same (s : State) (t p : Nat) (b : DebugBlock) : (s.setBlock t p b).block t p = b := by
  simp [State.block, State.setBlock, Map.getD]

theorem State.modThread_same (s : State) (tid : Nat) (g : Thread → Thread) :
    (s.modThread tid g).thread? tid = (s.thread? tid).map g := by
  unfold State.modThread
  cases h : s.thread? tid with
  | none => simpa using h
  | some t => simp [State.thread?]

theorem State.modThread_other (s : State) {tid n : Nat} (g : Thread → Thread) (h : n ≠ tid) :
    (s.modThread tid g).thread? n = s.thread? n := by
  unfold State.modThread
  split
  · rfl
  · simp [State.thread?, Map.get?_set_ne _ _ h]

theorem State.modCtx_same (s : State) (n : Nat) (g : Context → Context) : (s.modCtx n g).ctx? n = (s.ctx? n).map g := by
  unfold State.modCtx
  cases h : s.ctx? n with
  | none => simpa using h
  | some t => simp [State.ctx?]

theorem State.modCtx_other (s : State) {n m : Nat} (g : Context → Context) (h : m ≠ n) : (s.modCtx n g).ctx? m = s.ctx? m := by
  unfold State.modCtx
  split
  · rfl
  · simp [State.ctx?, Map.get?_set_ne _ _ h]

end Sys2Proof.Machine
end

