-- ==== Sys2Proof/Laws/Compute.lean ====
section
/-! SUPPORT. What the shared shapes of meanings do when nothing stops them: a computing word, a control word, and a word that works in
the one thread of its group. -/
namespace Sys2Proof.Machine

theorem lanes_slots {iss : Issue} {s : State} {i : Instr} {r : Nat} {x : Lane × Bool} (h : x ∈ iss.lanes s i r) :
    (x.1.slot, x.1.tid) ∈ iss.slots := by
  simp only [Issue.lanes, List.mem_filterMap] at h
  obtain ⟨y, hy, h⟩ := h
  cases ht : iss.reads s y.2 with
  | none => simp [ht] at h
  | some t => simp only [ht, Option.map_some, Option.some.injEq] at h; subst h; exact hy


theorem lowestCause_none : ∀ (vs : Verdicts), (∀ v ∈ vs, v.2.2.cause = none) → lowestCause vs = none
  | [], _ => rfl
  | (a, b, v) :: rest, h => by
    have h1 : v.cause = none := h _ (List.mem_cons_self ..)
    have h2 := lowestCause_none rest fun v hv => h v (List.mem_cons_of_mem _ hv)
    simp [lowestCause, h1, h2, lowerCause]

theorem lanes_tids (iss : Issue) (s : State) (i : Instr) (r : Nat) :
    ((iss.lanes s i r).map fun x => x.1.tid).Sublist (iss.slots.map Prod.snd) := by
  unfold Issue.lanes
  induction iss.slots with
  | nil => exact List.Sublist.slnil
  | cons y ys ih =>
    simp only [List.filterMap_cons, List.map_cons]
    cases iss.reads s y.2 with
    | none => exact ih.cons _
    | some t => exact ih.cons_cons _

theorem find_of_nodup {α : Type} {key : α → Nat} {l : List α} (h : (l.map key).Nodup) {x : α} (hx : x ∈ l) :
    l.find? (fun y => key y == key x) = some x := by
  induction l with
  | nil => cases hx
  | cons y ys ih =>
    simp only [List.map_cons, List.nodup_cons] at h
    rw [List.find?_cons]
    rcases List.mem_cons.1 hx with rfl | hx
    · simp
    · have : key y ≠ key x := fun e => h.1 (e ▸ List.mem_map_of_mem hx)
      simp [beq_eq_false_iff_ne.2 this, ih h.2 hx]

theorem laneVerdict_clear {i : Instr} {srcs : List Src} {g : Lane → LaneOut} {x : Lane × Bool}
    (h : x.2 = true → emptyCause srcs x.1.cap = none ∧ uninitCause srcs x.1.cap = none ∧ (g x.1).trap = none ∧
      condCause x.1.th.fpctl (g x.1).conds = none) :
    laneVerdict i srcs x.2 g x.1 = if x.2 then .done (g x.1) else if (prefixOf i).mz then .zeroed else .idle := by
  cases hx : x.2 with
  | false => simp [laneVerdict]
  | true => obtain ⟨h1, h2, h3, h4⟩ := h hx; simp [laneVerdict, h1, h2, h3, h4]

/-- A computing word does what `Computes` says. -/
theorem run_clear {i : Instr} {g : State → Lane → LaneOut} (hx : ∀ s, exec i s = s.run i (g s)) : Computes i g := by
  intro s iss ⟨hi, hd, hn⟩ hc
  have hls := lanes_tids iss s i 0
  have hnd := hls.nodup hn
  have hv : ∀ x ∈ iss.lanes s i 0, laneVerdict i (x.1.th.sourcesOf (s.privileged iss.ctx) 0 i) x.2 (g s) x.1 =
      if x.2 then .done (g s x.1) else if (prefixOf i).mz then .zeroed else .idle := fun x hx => laneVerdict_clear (hc x hx)
  have hr : exec i s = .next (s.compute i (g s)) := by rw [hx]; simp [State.run, State.issued, hi, hd]
  refine ⟨_, hr, ?_⟩
  simp only [State.compute, hi]
  set vs : Verdicts := (iss.lanes s i 0).map fun x =>
    (x.1.tid, x.1.slot, laneVerdict i (x.1.th.sourcesOf (s.privileged iss.ctx) 0 i) x.2 (g s) x.1) with hvs
  have hlow : lowestCause vs = none := by
    apply lowestCause_none
    intro v hmem
    obtain ⟨x, hx, rfl⟩ := List.mem_map.1 hmem
    simp only [hv x hx]
    split
    · rfl
    · split <;> rfl
  have hraise : iss.raise vs (destOf 0 i) = iss.raised := by
    unfold Issue.raise; cases iss.raised <;> simp [hlow]
  have hill : ¬ (if iss.raised.isSome = true then none else lowestCause vs) = some Cause.illeg := by rw [hlow]; split <;> simp
  refine ⟨?_, ?_, ?_⟩
  · simp only [State.settleAll, hi, Option.getD_some, hraise, if_neg hill]
  · intro tid ht
    simp only [Untouched, State.thread?, State.settleAll, if_neg hill, Map.get?_mapAll]
    have hnone : verdictOf vs tid = none := by
      unfold verdictOf
      rw [Option.map_eq_none_iff, List.find?_eq_none]
      intro v hmem
      obtain ⟨x, hx, rfl⟩ := List.mem_map.1 hmem
      simpa using ht _ (lanes_slots hx)
    cases Map.get? s.threads tid <;> simp [hnone]
  · intro x hx' t ht
    simp only [State.thread?] at ht
    simp only [State.thread?, State.settleAll, if_neg hill, Map.get?_mapAll, ht, Option.map_some, Option.some.injEq]
    have hfind : verdictOf vs x.1.tid = some (x.1.slot, laneVerdict i (x.1.th.sourcesOf (s.privileged iss.ctx) 0 i) x.2 (g s) x.1) := by
      unfold verdictOf
      rw [hvs, List.find?_map]
      have := find_of_nodup (key := fun y : Lane × Bool => y.1.tid) hnd hx'
      simp only [Function.comp_def, this, Option.map_some]
    rw [hfind, hv x hx']
    cases x.2 <;> cases hmz : (prefixOf i).mz <;> simp [Thread.settle, Thread.computed, hmz]


/-! ## Control words -/

/-- Applying a control word in one lane: its thread, where it leaves for, and nothing else. -/
theorem applySteer_goes {s : State} {f : Lane → Thread → Steer} {l : Lane} {t : Thread} {iss : Issue}
    (ht : s.thread? l.tid = some t) (hi : s.issue = some iss) (hg : (f l t).goes = true) :
    ∃ v, s.applySteer f l = { s with threads := Map.set s.threads l.tid ((f l t).after t), issue := some v } ∧
      v = { iss with leaving := v.leaving } ∧
      Map.get? v.leaving l.tid = (f l t).target (Map.get? iss.leaving l.tid) ∧
      ∀ tid, tid ≠ l.tid → Map.get? v.leaving tid = Map.get? iss.leaving tid := by
  have ht' : Map.get? s.threads l.tid = some t := ht
  unfold State.applySteer
  simp only [State.thread?, ht']
  cases hf : f l t with
  | trap c info => simp [hf, Steer.goes] at hg
  | on t' => exact ⟨iss, by simp [State.modThread, State.thread?, ht', Steer.after, hi], rfl, rfl, fun _ _ => rfl⟩
  | leave t' w =>
    refine ⟨{ iss with leaving := Map.set iss.leaving l.tid w }, ?_, rfl, ?_, ?_⟩
    · simp [State.modThread, State.thread?, ht', Steer.after, hi]
    · simp [Steer.target]
    · intro tid h; exact Map.get?_set_ne _ _ h

/-- Lanes of different threads, each going on, are applied independently. -/
theorem fold_applySteer {f : Lane → Thread → Steer} : ∀ (ls : List Lane) (s : State) (iss : Issue),
    s.issue = some iss → (ls.map Lane.tid).Nodup → (∀ l ∈ ls, ∃ t, s.thread? l.tid = some t) →
    (∀ l ∈ ls, ∀ t, s.thread? l.tid = some t → (f l t).goes = true) →
    ∃ u v, ls.foldl (fun s l => s.applySteer f l) s = u ∧ u = { s with threads := u.threads, issue := some v } ∧
      v = { iss with leaving := v.leaving } ∧
      (∀ tid, (∀ l ∈ ls, l.tid ≠ tid) → u.thread? tid = s.thread? tid ∧ Map.get? v.leaving tid = Map.get? iss.leaving tid) ∧
      ∀ l ∈ ls, ∀ t, s.thread? l.tid = some t →
        u.thread? l.tid = some ((f l t).after t) ∧ Map.get? v.leaving l.tid = (f l t).target (Map.get? iss.leaving l.tid)
  | [], s, iss, hi, _, _, _ => ⟨s, iss, rfl, by simp [← hi], rfl, fun _ _ => ⟨rfl, rfl⟩, by simp⟩
  | l :: ls, s, iss, hi, hn, hx, hg => by
    simp only [List.map_cons, List.nodup_cons] at hn
    obtain ⟨t, ht⟩ := hx l (List.mem_cons_self ..)
    obtain ⟨v, h1, h2, h3, h4⟩ := applySteer_goes (f := f) ht hi (hg l (List.mem_cons_self ..) t ht)
    have hne : ∀ m ∈ ls, m.tid ≠ l.tid := fun m hm e => hn.1 (e ▸ List.mem_map_of_mem hm)
    have hkeep : ∀ tid, tid ≠ l.tid → (s.applySteer f l).thread? tid = s.thread? tid := fun tid h => by
      rw [h1]; exact Map.get?_set_ne _ _ h
    obtain ⟨u, w, g1, g2, g3, g4, g5⟩ := fold_applySteer ls (s.applySteer f l) v (by rw [h1]) hn.2
      (fun m hm => by rw [hkeep _ (hne m hm)]; exact hx m (List.mem_cons_of_mem _ hm))
      (fun m hm t' h => by rw [hkeep _ (hne m hm)] at h; exact hg m (List.mem_cons_of_mem _ hm) t' h)
    refine ⟨u, w, g1, by rw [g2, h1], by rw [g3, h2], ?_, ?_⟩
    · intro tid h
      have h0 := g4 tid fun m hm => h m (List.mem_cons_of_mem _ hm)
      have hl : tid ≠ l.tid := fun e => h l (List.mem_cons_self ..) e.symm
      exact ⟨h0.1.trans (hkeep tid hl), h0.2.trans (h4 tid hl)⟩
    · intro m hm t' h
      rcases List.mem_cons.1 hm with rfl | hm
      · have h0 := g4 m.tid hne
        have : t' = t := by rw [ht] at h; exact (Option.some.inj h).symm
        subst this
        refine ⟨h0.1.trans ?_, h0.2.trans h3⟩
        rw [h1]; exact Map.get?_set_same _ _ _
      · have h0 := g5 m hm t' (by rw [hkeep _ (hne m hm)]; exact h)
        exact ⟨h0.1, by rw [h0.2, h4 _ (hne m hm)]⟩

theorem steerVerdict_goes {i : Instr} {f : Lane → Thread → Steer} {s : State} {l : Lane} {t : Thread}
    (he : emptyCause (staticSources i) l.cap = none) (ht : s.thread? l.tid = some t) (hg : (f l t).goes = true) :
    steerVerdict i f s l = .idle := by
  unfold steerVerdict
  rw [he, ht]
  cases hf : f l t <;> simp [hf, Steer.goes] at hg ⊢

/-- Verdicts whose cause is not ILLEG settle every thread. -/
theorem settleAll_issues {s : State} {iss : Issue} {i : Instr} {d : Dest} {vs : Verdicts}
    (h : ¬ (if iss.raised.isSome = true then none else lowestCause vs) = some Cause.illeg) :
    s.settleAll iss i d vs = { s with
      threads := Map.mapAll s.threads fun tid t =>
        match verdictOf vs tid with
        | some (slot, v) => t.settle (if iss.raised.isSome = true then none else lowestCause vs)
            (fun cap => { unperformedEntry s iss i (heldMask vs (if iss.raised.isSome = true then none else lowestCause vs)) cap d with slot := slot }) d v
        | none => t
      issue := some { (s.issue.getD iss) with raised := iss.raise vs d }
      nextId := s.nextId + 1 } := by
  unfold State.settleAll
  exact if_neg h

/-- Verdicts whose cause is ILLEG settle no thread, and nothing of the chain is left to issue. -/
theorem settleAll_illeg {s : State} {iss : Issue} {i : Instr} {d : Dest} {vs : Verdicts} (hr : iss.raised = none)
    (h : lowestCause vs = some Cause.illeg) :
    s.settleAll iss i d vs = { s with issue := some { (s.issue.getD iss) with raised := iss.raise vs d, todo := [] } } := by
  unfold State.settleAll
  exact if_pos (by simp [hr, h])

/-- Verdicts that are all idle settle nothing, and raise nothing more than the chain had raised before. -/
theorem settleAll_none {s : State} {iss : Issue} {i : Instr} {d : Dest} {vs : Verdicts} (hv : ∀ v ∈ vs, v.2.2 = .idle) :
    s.settleAll iss i d vs = { s with issue := some { s.issue.getD iss with raised := iss.raised }, nextId := s.nextId + 1 } := by
  have hlow : lowestCause vs = none := lowestCause_none vs fun v h => by rw [hv v h]; rfl
  have hr : iss.raise vs d = iss.raised := by unfold Issue.raise; cases iss.raised <;> simp [hlow]
  have hf : (fun tid t => match verdictOf vs tid with
      | some (slot, v) => Thread.settle t (if iss.raised.isSome = true then none else lowestCause vs)
          (fun cap => { unperformedEntry s iss i (heldMask vs (if iss.raised.isSome = true then none else lowestCause vs)) cap d with slot := slot }) d v
      | none => t) = fun (_ : Nat) (t : Thread) => t := by
    funext tid t
    cases h : verdictOf vs tid with
    | none => rfl
    | some x =>
      obtain ⟨slot, v⟩ := x
      unfold verdictOf at h
      simp only [Option.map_eq_some_iff] at h
      obtain ⟨y, hy, hxy⟩ := h
      have := hv y (List.mem_of_find?_eq_some hy)
      have e : v = .idle := by rw [← this, hxy]
      subst e; rfl
  have hid : ∀ m : Map Thread, Map.mapAll m (fun (_ : Nat) (t : Thread) => t) = m := fun m => by
    induction m with
    | nil => rfl
    | cons x rest ih => obtain ⟨k, a⟩ := x; simp [Map.mapAll, ih]
  have key : s.threads.mapAll (fun tid t => match verdictOf vs tid with
      | some (slot, v) => Thread.settle t (if iss.raised.isSome = true then none else lowestCause vs)
          (fun cap => { unperformedEntry s iss i (heldMask vs (if iss.raised.isSome = true then none else lowestCause vs)) cap d with slot := slot }) d v
      | none => t) = s.threads := by rw [hf]; exact hid _
  rw [settleAll_issues (by rw [hlow]; split <;> simp), hr]
  exact congrArg (fun m => ({ s with threads := m, issue := some { s.issue.getD iss with raised := iss.raised }
                                     nextId := s.nextId + 1 } : State)) key

theorem settleAll_idle {s : State} {iss : Issue} {i : Instr} {d : Dest} {vs : Verdicts} (hi : s.issue = some iss)
    (hv : ∀ v ∈ vs, v.2.2 = .idle) : s.settleAll iss i d vs = { s with nextId := s.nextId + 1 } := by
  rw [settleAll_none hv]
  refine congrArg (fun k => ({ s with issue := k, nextId := s.nextId + 1 } : State)) ?_
  rw [hi]; rfl

/-- A control word does what `Steers` says. -/
theorem steer_goes {i : Instr} {f : State → Issue → Lane → Thread → Steer} (hx : ∀ s, exec i s = .next (s.steer i (f s))) :
    Steers i f := by
  intro s iss ⟨hi, hd, hn⟩ hc
  have hnd := (lanes_tids iss s i 0).nodup hn
  set ls := (iss.lanes s i 0).map Prod.fst with hls
  have hmem : ∀ l ∈ ls, ∃ x ∈ iss.lanes s i 0, x.1 = l := fun l hl => by
    simpa [hls] using hl
  have hidle : ∀ v ∈ ls.map (fun l => (l.tid, l.slot, steerVerdict i (f s iss) s l)), v.2.2 = .idle := by
    intro v hv
    obtain ⟨l, hl, rfl⟩ := List.mem_map.1 hv
    obtain ⟨x, hx, rfl⟩ := hmem l hl
    obtain ⟨h1, t, h2, h3⟩ := hc x hx
    exact steerVerdict_goes h1 h2 h3
  have hset := settleAll_idle (s := s) (iss := iss) (i := i) (d := destOf 0 i) hi hidle
  have hfilter : (ls.filter fun l => ((verdictOf (ls.map fun l => (l.tid, l.slot, steerVerdict i (f s iss) s l)) l.tid).bind
      fun v => v.2.cause).isNone) = ls := by
    apply List.filter_eq_self.2
    intro l _
    cases hv : verdictOf (ls.map fun l => (l.tid, l.slot, steerVerdict i (f s iss) s l)) l.tid with
    | none => rfl
    | some y =>
      unfold verdictOf at hv
      simp only [Option.map_eq_some_iff] at hv
      obtain ⟨z, hz, rfl⟩ := hv
      simp [hidle z (List.mem_of_find?_eq_some hz), Verdict.cause]
  obtain ⟨u, v, g1, g2, g3, g4, g5⟩ := fold_applySteer (f := f s iss) ls { s with nextId := s.nextId + 1 } iss hi
    (by simpa [hls, List.map_map, Function.comp_def] using hnd)
    (fun l hl => by obtain ⟨x, hx, rfl⟩ := hmem l hl; obtain ⟨_, t, h, _⟩ := hc x hx; exact ⟨t, h⟩)
    (fun l hl t ht => by
      obtain ⟨x, hx, rfl⟩ := hmem l hl; obtain ⟨_, t', h, hg⟩ := hc x hx
      have : t' = t := Option.some.inj (h.symm.trans ht)
      exact this ▸ hg)
  have hlow : ¬ lowestCause (ls.map fun l => (l.tid, l.slot, steerVerdict i (f s iss) s l)) = some .illeg := by
    rw [lowestCause_none _ fun v h => by rw [hidle v h]; rfl]; simp
  refine ⟨u, v, ?_, g2, g3, ?_, ?_⟩
  · rw [hx]
    simp only [State.steer, State.issued, hi, hd]
    rw [← hls, if_neg hlow, hset, hfilter]
    simpa using g1
  · intro tid ht
    exact g4 tid fun l hl => by
      obtain ⟨x, hx, rfl⟩ := hmem l hl
      exact ht _ (lanes_slots hx)
  · intro x hx t ht
    exact g5 x.1 (List.mem_map_of_mem hx) t ht

/-! ## A word in a group of one thread -/

theorem issued_eq {s : State} {iss : Issue} {i : Instr} {k : Issue → State} (hi : s.issue = some iss)
    (hd : s.decodeTraps iss i 0 = none) : s.issued i k = k iss := by simp [State.issued, hi, hd]

/-- Work in the one thread of a group that finds nothing to stop for. -/
theorem eachLane_one {i : Instr} {w : Issue → Nat → Lane → Work Unit} {s : State} {iss : Issue} {l : Lane} {u : State}
    (h : Solo s iss i l) (hw : w iss s.nextId l s.issuing = .ok ((), u)) : s.eachLane i w = u.goesOn iss s.nextId := by
  obtain ⟨hi, hd, hl, _, he, hu⟩ := h
  unfold State.eachLane
  rw [issued_eq hi hd]
  simp only [hl, List.filter_cons_of_pos, List.filter_nil, List.map_cons, List.map_nil, List.foldl_cons, List.foldl_nil]
  have hlane : engineLane i iss s.nextId (w iss s.nextId) ([], { s with nextId := s.nextId + 1 }) l =
      ([(l.tid, l.slot, .idle)], u) := by
    change w iss s.nextId l { s with nextId := s.nextId + 1 } = _ at hw
    simp [engineLane, he, hu, hw]
  rw [hlane]
  have hlow : ¬ lowestCause [(l.tid, l.slot, Verdict.idle)] = some Cause.illeg := by simp [lowestCause, Verdict.cause, lowerCause]
  rw [if_neg hlow, settleAll_none (vs := [(l.tid, l.slot, Verdict.idle)]) (by simp)]
  have hm : ∀ v : State, v.countMmx iss.ctx [(l.tid, l.slot, Verdict.idle)] = v := fun v => by simp [State.countMmx, Verdict.cause]
  rw [hm]
  rfl

/-- A word of the shape `eachLane` does what `Acts` says. -/
theorem eachLane_acts {i : Instr} {w : Issue → Nat → Lane → Work Unit} (hx : ∀ s, exec i s = .next (s.eachLane i w)) : Acts i w :=
  fun s iss l u h hw => by rw [hx, eachLane_one h hw]

/-- Where the work kept the issue with what it had raised, going on is settling. -/
theorem State.goesOn_settled {u : State} {iss v : Issue} {no : Nat} (hi : u.issue = some v) (hr : v.raised = iss.raised) :
    u.goesOn iss no = u.settled no := by
  unfold State.goesOn
  rw [hi]
  refine congrArg (fun k => ({ u.settled no with issue := k } : State)) (a₂ := (u.settled no).issue) ?_
  rw [show (u.settled no).issue = some v from hi, ← hr]
  rfl

/-! ## Conditions in a group of one thread -/

theorem Thread.markV_fpctl (st : RState) : ∀ (c n : Nat) (t : Thread), (t.markV n st c).fpctl = t.fpctl
  | 0, _, _ => rfl
  | c + 1, n, t => by rw [Thread.markV, Thread.markV_fpctl]; rfl

theorem Thread.markW_fpctl (st : RState) : ∀ (c n : Nat) (t : Thread), (t.markW n st c).fpctl = t.fpctl
  | 0, _, _ => rfl
  | c + 1, n, t => by rw [Thread.markW, Thread.markW_fpctl]; rfl

theorem Thread.markDest_fpctl (t : Thread) (d : Dest) (st : RState) : (t.markDest d st).fpctl = t.fpctl := by
  unfold Thread.markDest
  split
  · exact Thread.markV_fpctl _ _ _ _
  · split
    · exact Thread.markW_fpctl _ _ _ _
    · rfl

/-- What one verdict that is a condition raises. -/
theorem raise_one {iss : Issue} {i : Instr} {l : Lane} {c : Cause} {info : BitVec 64} {cap : Captured} {conds : Conds}
    (hr : iss.raised = none) :
    iss.raise [(l.tid, l.slot, .trapped c info cap conds)] (destOf 0 i) = (iss.raisedBy i l c info).raised := by
  have hl : lowestCause [(l.tid, l.slot, Verdict.trapped c info cap conds)] = some c := by simp [lowestCause, Verdict.cause, lowerCause]
  have hm : causeMask [(l.tid, l.slot, Verdict.trapped c info cap conds)] c = slotBit l.slot := by simp [causeMask, Verdict.cause]
  have hf : causeInfos [(l.tid, l.slot, Verdict.trapped c info cap conds)] c = [(l.slot, info)] := by
    unfold causeInfos; split <;> simp
  simp [Issue.raise, hr, hl, hm, hf, Issue.raisedBy]

/-- One verdict that is a condition: what it raises, and what becomes of its thread; under ILLEG nothing does. -/
theorem settleAll_one {s : State} {iss : Issue} {i : Instr} {l : Lane} {c : Cause} {info : BitVec 64} {cap : Captured} {conds : Conds}
    (hi : s.issue = some iss) (hr : iss.raised = none) :
    ∃ u, s.settleAll iss i (destOf 0 i) [(l.tid, l.slot, .trapped c info cap conds)] = u ∧
      u = { s with threads := u.threads, issue := some (iss.raisedBy i l c info), nextId := if c = .illeg then s.nextId else s.nextId + 1 } ∧
      (c = .illeg → u.threads = s.threads) ∧
      (c ≠ .illeg → ∀ t, s.thread? l.tid = some t →
        u.thread? l.tid = some { t.markDest (destOf 0 i) .trapEmpty with fpctl := orFlags t.fpctl conds }) ∧
      ∀ tid, tid ≠ l.tid → u.thread? tid = s.thread? tid := by
  have hl : lowestCause [(l.tid, l.slot, Verdict.trapped c info cap conds)] = some c := by simp [lowestCause, Verdict.cause, lowerCause]
  have hraise := raise_one (i := i) (l := l) (c := c) (info := info) (cap := cap) (conds := conds) hr
  by_cases hc : c = .illeg
  · subst hc
    refine ⟨_, settleAll_illeg hr hl, ?_, fun _ => rfl, fun h => absurd rfl h, fun _ _ => rfl⟩
    rw [hraise, hi, if_pos rfl]
    rfl
  · have hn : ¬ (if iss.raised.isSome = true then none else lowestCause [(l.tid, l.slot, Verdict.trapped c info cap conds)]) =
        some Cause.illeg := by simp [hr, hl, hc]
    refine ⟨_, settleAll_issues hn, ?_, fun h => absurd h hc, fun _ t ht => ?_, fun tid h => ?_⟩
    · rw [hraise, hi, if_neg hc]
      simp only [Option.getD_some, Issue.raisedBy, if_neg hc]
    · have ht' : Map.get? s.threads l.tid = some t := ht
      simp [State.thread?, Map.get?_mapAll, ht', verdictOf, hr, hl, Thread.settle]
    · have h' : l.tid ≠ tid := fun e => h e.symm
      simp only [State.thread?, Map.get?_mapAll]
      have : verdictOf [(l.tid, l.slot, Verdict.trapped c info cap conds)] tid = none := by simp [verdictOf, h']
      rw [this]; cases Map.get? s.threads tid <;> rfl

/-- The thread of one verdict as `Trapped` has it. -/
theorem trapped_thread {s u : State} {l : Lane} {d : Dest} {c : Cause} {conds : Conds} (ht : s.thread? l.tid = some l.th)
    (h1 : c = .illeg → u.threads = s.threads)
    (h2 : c ≠ .illeg → ∀ t, s.thread? l.tid = some t →
      u.thread? l.tid = some { t.markDest d .trapEmpty with fpctl := orFlags t.fpctl conds }) :
    u.thread? l.tid = some (if c = .illeg then l.th else { l.th.markDest d .trapEmpty with fpctl := orFlags l.th.fpctl conds }) := by
  by_cases hc : c = .illeg
  · rw [if_pos hc, State.thread?, h1 hc]; exact ht
  · rw [if_neg hc]; exact h2 hc _ ht

/-- A computing word raises its conditions as `Conditions` says. -/
theorem run_conditions {i : Instr} {g : State → Lane → LaneOut} (hx : ∀ s, exec i s = s.run i (g s)) : Conditions i g := by
  intro s iss l ⟨hi, hd, hr, hl, ht⟩
  have key : ∀ c info conds, laneVerdict i (l.th.sourcesOf (s.privileged iss.ctx) 0 i) true (g s) l = .trapped c info l.cap conds →
      Trapped s iss i l c info conds := by
    intro c info conds hv
    obtain ⟨u, h1, h2, h3, h4, h5⟩ := settleAll_one (s := s) (i := i) (l := l) (c := c) (info := info) (cap := l.cap) (conds := conds) hi hr
    refine ⟨u, ?_, h2, trapped_thread ht h3 h4, h5⟩
    rw [hx, State.run, issued_eq hi hd]
    simp only [State.compute, hi, hl, List.map_cons, List.map_nil, hv, h1]
  refine ⟨fun info h => key _ _ _ ?_, fun info h h' => key _ _ _ ?_, fun c h h' ht hc => key _ _ _ ?_⟩
  · simp [laneVerdict, h]
  · simp [laneVerdict, h, h']
  · simp [laneVerdict, h, h', ht, hc]

/-- A control word raises its own trap as `SteerTraps` says. -/
theorem steer_traps {i : Instr} {f : State → Issue → Lane → Thread → Steer} {e : Bool}
    (hx : ∀ s, exec i s = .next (s.steer i (f s) e)) : SteerTraps i f := by
  intro s iss l c info ⟨hi, hd, hr, hl, ht⟩ he hf
  obtain ⟨u, h1, h2, h3, h4, h5⟩ := settleAll_one (s := s) (i := i) (l := l) (c := c) (info := BitVec.ofNat 64 info) (cap := l.cap)
    (conds := {}) hi hr
  have hv : steerVerdict i (f s iss) s l = .trapped c (BitVec.ofNat 64 info) l.cap {} := by simp [steerVerdict, he, ht, hf]
  refine ⟨u, ?_, h2, trapped_thread ht h3 h4, h5⟩
  rw [hx, State.steer, issued_eq hi hd]
  simp [hl, hv, h1, verdictOf, Verdict.cause]

/-- Work in the one thread of a group that finds a trap. -/
theorem eachLane_stop {i : Instr} {w : Issue → Nat → Lane → Work Unit} {s0 s : State} {iss : Issue} {l : Lane} {c : Cause} {info : Nat}
    (hx : exec i s = .next (s0.eachLane i w))
    (h : Alone s0 iss i l) (he : emptyCause (staticSources i) l.cap = none) (hu : uninitCause (staticSources i) l.cap = none)
    (hw : w iss s0.nextId l { s0 with nextId := s0.nextId + 1 } = .error (.trap c info)) (hc : c ≠ .mmx) :
    StoppedFrom s0 s iss i l c info := by
  obtain ⟨hi, hd, hr, hl, ht⟩ := h
  set s1 : State := { s0 with nextId := s0.nextId + 1 } with hs1
  have hlane : engineLane i iss s0.nextId (w iss s0.nextId) ([], s1) l =
      ([(l.tid, l.slot, .trapped c (BitVec.ofNat 64 info) l.cap {})], s1) := by simp [engineLane, he, hu, hw]
  have hlow : lowestCause [(l.tid, l.slot, Verdict.trapped c (BitVec.ofNat 64 info) l.cap {})] = some c := by
    simp [lowestCause, Verdict.cause, lowerCause]
  have hex : exec i s = .next (if c = .illeg
      then s0.settleAll iss i (destOf 0 i) [(l.tid, l.slot, .trapped c (BitVec.ofNat 64 info) l.cap {})]
      else (s1.shareLanes s0.nextId).settleAll iss i (destOf 0 i) [(l.tid, l.slot, .trapped c (BitVec.ofNat 64 info) l.cap {})]) := by
    rw [hx, State.eachLane, issued_eq hi hd]
    simp only [hl, List.filter_cons_of_pos, List.filter_nil, List.map_cons, List.map_nil, List.foldl_cons, List.foldl_nil]
    rw [← hs1, hlane, hlow]
    by_cases h : c = .illeg
    · simp [h]
    · simp [h, State.countMmx, Verdict.cause, hc]
  by_cases hill : c = .illeg
  · obtain ⟨u, h1, h2, h3, h4, h5⟩ := settleAll_one (s := s0) (iss := iss) (i := i) (l := l) (c := c)
      (info := BitVec.ofNat 64 info) (cap := l.cap) (conds := {}) hi hr
    exact ⟨u, by rw [hex, if_pos hill, h1], by simpa [hill] using h2, h3, fun h => absurd hill h⟩
  · obtain ⟨u, h1, h2, h3, h4, h5⟩ := settleAll_one (s := s1.shareLanes s0.nextId) (iss := iss) (i := i) (l := l) (c := c)
      (info := BitVec.ofNat 64 info) (cap := l.cap) (conds := {}) hi hr
    refine ⟨u, by rw [hex, if_neg hill, h1], by rw [if_neg hill]; rw [if_neg hill] at h2; exact h2, fun h => absurd h hill, fun _ tid t h => ?_⟩
    have hf : ∀ t : Thread, orFlags t.fpctl {} = (t.markDest (destOf 0 i) .trapEmpty).fpctl := fun t => by
      rw [Thread.markDest_fpctl]; simp [orFlags, Conds.bits]
    by_cases hk : tid = l.tid
    · subst hk
      rw [h4 hill t h, if_pos rfl, hf]
    · rw [if_neg hk, ← h]
      exact h5 tid hk

/-- A word of the shape `eachLane` raises the traps of its work as `WorkTraps` says. -/
theorem eachLane_traps {i : Instr} {w : Issue → Nat → Lane → Work Unit} (hx : ∀ s, exec i s = .next (s.eachLane i w)) : WorkTraps i w :=
  fun s _ _ _ _ h he hu hw hc => eachLane_stop (hx s) h he hu hw hc

/-- A word of the shape `eachLane` whose work, where P holds, is an effect that keeps the issue, does it. -/
theorem eachLane_does {i : Instr} {w : Issue → Nat → Lane → Work Unit} {P : State → Lane → Prop} {e : State → Issue → Lane → State → State}
    (hx : ∀ s, exec i s = .next (s.eachLane i w))
    (hw : ∀ s iss l, s.thread? l.tid = some l.th → P s l →
      w iss s.nextId l { s with nextId := s.nextId + 1 } = .ok ((), e s iss l { s with nextId := s.nextId + 1 }))
    (hi : ∀ s iss l, s.issue = some iss → P s l → ∃ v, (e s iss l { s with nextId := s.nextId + 1 }).issue = some v ∧
      v.raised = iss.raised) : Does i P e := by
  intro s iss l hs hp
  obtain ⟨v, hv, hr⟩ := hi s iss l hs.1 hp
  rw [eachLane_acts hx s iss l _ hs (hw s iss l hs.2.2.2.1 hp), State.goesOn_settled hv hr]
  rfl

/-- A word of the shape `eachLane` whose work, where P holds, is a trap, raises it. -/
theorem eachLane_raises {i : Instr} {w : Issue → Nat → Lane → Work Unit} {P : State → Lane → Prop} {c : Cause} {info : State → Lane → Nat}
    (hx : ∀ s, exec i s = .next (s.eachLane i w)) (hc : c ≠ .mmx)
    (hw : ∀ s iss l, s.thread? l.tid = some l.th → P s l →
      w iss s.nextId l { s with nextId := s.nextId + 1 } = .error (.trap c (info s l))) : Raises i P c info :=
  fun s iss l hs he hu hp => eachLane_traps hx s iss l c _ hs he hu (hw s iss l hs.2.2.2.2 hp) hc

end Sys2Proof.Machine
end

