-- ==== Sys2Proof/Laws/Access.lean ====
section
/-! SUPPORT. What an access instruction does in a group of one thread, from the shared operations it is written over. -/
namespace Sys2Proof.Machine

theorem slotBit_mask (l : Lane) : laneMask [l] = slotBit l.slot := by simp [laneMask]

/-- A lane whose access passes its checks goes on. -/
theorem planLane_ok {i : Instr} {access : Lane → Access} {acc : AccessPlan × State} {s1 : State} {x : Lane × Bool} {r : Reached}
    (hx : x.2 = true) (he : emptyCause (staticSources i) x.1.cap = none)
    (hc : acc.2.check x.1.th (access x.1) = (.ok r, s1)) :
    planLane i access acc x =
      ({ acc.1 with verdicts := acc.1.verdicts ++ [(x.1.tid, x.1.slot, .idle)], going := acc.1.going ++ [(x.1, r)] }, s1) := by
  unfold planLane
  rw [if_neg (by simp [hx]), he]
  generalize State.check acc.2 x.1.th (access x.1) = k at hc
  subst hc
  rfl

/-- A lane whose access fails its checks traps. -/
theorem planLane_trap {i : Instr} {access : Lane → Access} {acc : AccessPlan × State} {s1 : State} {x : Lane × Bool} {c : Cause}
    {info : Nat} (hx : x.2 = true) (he : emptyCause (staticSources i) x.1.cap = none)
    (hc : acc.2.check x.1.th (access x.1) = (.trapped c info, s1)) :
    planLane i access acc x =
      ({ acc.1 with verdicts := acc.1.verdicts ++ [(x.1.tid, x.1.slot, .trapped c (BitVec.ofNat 64 info) x.1.cap {})] }, s1) := by
  unfold planLane
  rw [if_neg (by simp [hx]), he]
  generalize State.check acc.2 x.1.th (access x.1) = k at hc
  subst hc
  rfl

/-- The plan of a group of one thread settled and performed. -/
theorem accesses_one {s s1 : State} {i : Instr} {order : Nat} {access : Lane → Access}
    {perform : State → Issue → Lane → Reached → BitVec 32 → Nat → State} {iss : Issue} {l : Lane} {p : AccessPlan}
    (hi : s.issue = some iss) (hl : iss.lanes s i 0 = [(l, true)]) (hp : planLane i access ({}, s) (l, true) = (p, s1)) :
    s.accesses i order access perform =
      (let s := (s1.settleAll iss i (destOf 0 i) p.verdicts).countMmx iss.ctx p.verdicts
       let no := s.nextId
       let s := { s with nextId := no + 1 }
       let lanes := laneMask (p.going.map Prod.fst ++ p.parked.map Prod.fst)
       let s := p.parked.foldl (fun s x => s.park iss i (destOf 0 i) lanes no order x) s
       p.going.foldl (fun s x => perform s iss x.1 x.2 lanes no) s) := by
  unfold State.accesses
  simp only [hi, hl, List.foldl_cons, List.foldl_nil, hp]

theorem countMmx_none {s : State} {ctx : Nat} {vs : Verdicts} (h : (vs.any fun v => v.2.2.cause == some .mmx) = false) :
    s.countMmx ctx vs = s := by simp [State.countMmx, h]

/-- An access that passes its checks performs. -/
theorem accesses_ok {s s1 : State} {i : Instr} {order : Nat} {access : Lane → Access}
    {perform : State → Issue → Lane → Reached → BitVec 32 → Nat → State} {iss : Issue} {l : Lane} {r : Reached}
    (hi : s.issue = some iss) (hl : iss.lanes s i 0 = [(l, true)]) (he : emptyCause (staticSources i) l.cap = none)
    (hc : s.check l.th (access l) = (.ok r, s1)) (his : s1.issue = some iss) :
    s.accesses i order access perform =
      perform { s1 with nextId := s1.nextId + 1 + 1 } iss l r (slotBit l.slot) (s1.nextId + 1) := by
  rw [accesses_one hi hl (planLane_ok (x := (l, true)) (acc := ({}, s)) rfl he hc), ← slotBit_mask]
  have hs := settleAll_idle (s := s1) (iss := iss) (i := i) (d := destOf 0 i) (vs := [(l.tid, l.slot, Verdict.idle)]) his (by simp)
  have hm := countMmx_none (s := { s1 with nextId := s1.nextId + 1 }) (ctx := iss.ctx) (vs := [(l.tid, l.slot, Verdict.idle)]) rfl
  simp only [List.nil_append, hs, hm, List.map_cons, List.map_nil, List.append_nil, List.foldl_cons, List.foldl_nil]

/-- An access that fails its checks raises their cause. -/
theorem accesses_trap {s s1 : State} {i : Instr} {order : Nat} {access : Lane → Access}
    {perform : State → Issue → Lane → Reached → BitVec 32 → Nat → State} {iss : Issue} {l : Lane} {c : Cause} {info : Nat}
    (hi : s.issue = some iss) (hl : iss.lanes s i 0 = [(l, true)]) (he : emptyCause (staticSources i) l.cap = none)
    (hc : s.check l.th (access l) = (.trapped c info, s1)) (his : s1.issue = some iss) (hr : iss.raised = none) (hm : c ≠ .mmx) :
    ∃ u : State, s.accesses i order access perform = { u with nextId := u.nextId + 1 } ∧
      u = { s1 with threads := u.threads, issue := some (iss.raisedBy i l c (BitVec.ofNat 64 info))
                    nextId := if c = .illeg then s1.nextId else s1.nextId + 1 } ∧
      (c ≠ .illeg → ∀ tid t, s1.thread? tid = some t → u.thread? tid = some (if tid = l.tid then t.markDest (destOf 0 i) .trapEmpty else t)) := by
  rw [accesses_one hi hl (planLane_trap (x := (l, true)) (acc := ({}, s)) rfl he hc)]
  obtain ⟨u, h1, h2, -, h4, h5⟩ := settleAll_one (s := s1) (iss := iss) (i := i) (l := l) (c := c) (info := BitVec.ofNat 64 info)
    (cap := l.cap) (conds := {}) his hr
  have hcm : u.countMmx iss.ctx [(l.tid, l.slot, Verdict.trapped c (BitVec.ofNat 64 info) l.cap {})] = u :=
    countMmx_none (by simp [Verdict.cause, hm])
  refine ⟨u, ?_, h2, fun hill tid t h => ?_⟩
  · simp only [List.nil_append, h1, hcm, List.foldl_nil]
  · have hf : ∀ t : Thread, orFlags t.fpctl {} = (t.markDest (destOf 0 i) .trapEmpty).fpctl := fun t => by
      rw [Thread.markDest_fpctl]; simp [orFlags, Conds.bits]
    by_cases hk : tid = l.tid
    · subst hk
      rw [h4 hill t h, if_pos rfl, hf]
    · rw [if_neg hk, ← h]
      exact h5 tid hk

/-- A memory instruction whose access passes its checks has its entry. -/
theorem memory_accesses {i : Instr} (hx : ∀ s, exec i s = .next (s.memory i)) :
    Accesses i fun iss no l r u => u.enterAccess l.tid (iss.entryFor i (destOf 0 i) (slotBit l.slot) no l) r := by
  intro s iss l x r s1 ⟨hi, hd, hl, ht, he, hu⟩ hacc hc his
  rw [hx, State.memory, issued_eq hi hd, accesses_ok hi hl he (by rw [hacc]; exact hc) (his.trans hi)]

/-- A memory instruction whose access fails its checks raises their cause. -/
theorem memory_traps {i : Instr} (hx : ∀ s, exec i s = .next (s.memory i)) : AccessTraps i := by
  intro s iss l x c info s1 ⟨hi, hd, hr, hl, ht⟩ he hacc hc his hm
  obtain ⟨u, h1, h2, h3⟩ := accesses_trap (order := orderMask i)
    (perform := fun s iss l r lanes no => s.enterAccess l.tid (iss.entryFor i (destOf 0 i) lanes no l) r)
    (access := fun l => (accessOf i l.cap).getD { off := 0, size := 1, kind := .read, asWrite := false })
    hi hl he (by rw [hacc]; exact hc) (his.trans hi) hr hm
  refine ⟨{ u with nextId := u.nextId + 1 }, ?_, ?_, h3⟩
  · rw [hx, State.memory, issued_eq hi hd]
    exact congrArg Host.Outcome.next h1
  · have h := congrArg (fun v : State => ({ v with nextId := v.nextId + 1 } : State)) h2
    by_cases hc : c = .illeg
    · simpa [hc] using h
    · simpa [hc] using h

end Sys2Proof.Machine
end

