-- ==== Sys2Proof/Laws/Engine.lean ====
section
/-! SUPPORT. What the words of the Anvil do in a group of one thread, and what performing an operation does. -/
namespace Sys2Proof.Machine

/-- What a check of an object-table entry that passes says: the entry read holds an object of one of the kinds, with the rights (R238). -/
theorem checkEntry_iff {tile ctx idx : Nat} {kinds : List ObjKind} {rights : Nat} {s u : State} {o : Obj} :
    checkEntry tile ctx idx kinds rights s = .ok (o, u) ↔
      readEntry tile ctx idx s = .ok (o, u) ∧ Obj.holds o = true ∧ ((Obj.kind? o).map fun k => kinds.contains k).getD false = true ∧
        rights &&& (63 - Obj.rights o) = 0 := by
  have hb : ∀ (b : Bool) (x : Stop) (k : Unit → Work Obj) (v : State),
      ((Work.need b x >>= k) v = .ok (o, u)) ↔ b = true ∧ k () v = .ok (o, u) := fun b x k v => by
    cases b <;> simp [Work.need, Work.stop, Bind.bind, StateT.bind, Except.bind, Pure.pure, StateT.pure, Except.pure]
  unfold checkEntry
  cases hr : readEntry tile ctx idx s with
  | error e => simp [Bind.bind, StateT.bind, Except.bind, hr]
  | ok a =>
    have : (readEntry tile ctx idx >>= fun o => do
        Work.within o.holds idx
        Work.need ((o.kind?.map fun k => kinds.contains k).getD false) (.trap .rights idx)
        let missing := rights &&& (63 - o.rights)
        Work.need (missing == 0) (.trap .rights (idx + missing * 2 ^ 16))
        pure o : Work Obj) s = (do
        Work.within a.1.holds idx
        Work.need ((a.1.kind?.map fun k => kinds.contains k).getD false) (.trap .rights idx)
        let missing := rights &&& (63 - a.1.rights)
        Work.need (missing == 0) (.trap .rights (idx + missing * 2 ^ 16))
        pure a.1 : Work Obj) a.2 := by
      simp [Bind.bind, StateT.bind, Except.bind, hr]
    rw [this]
    unfold Work.within
    rw [hb, hb, hb]
    constructor
    · rintro ⟨h1, h2, h3, h4⟩
      cases h4
      exact ⟨rfl, h1, h2, by simpa using h3⟩
    · rintro ⟨h0, h1, h2, h3⟩
      cases h0
      exact ⟨h1, h2, by simpa using h3, rfl⟩

/-- A word submitted for a thread that is there always enters its queue: as the operation that the number names, after its region has
ended (R244, R328). -/
theorem submit_ok {iss : Issue} {i : Instr} {l : Lane} {no q bytes : Nat} {objs : List Obj} {args : List Word} {s : State} {t : Thread}
    (h : s.thread? l.tid = some t) :
    ∃ u op, submit iss i l no q objs args bytes s = .ok ((s.regionEnd l.tid (some (if q = 6 then 4 else 3))).nextId, u) ∧
      Map.get? u.ops (s.regionEnd l.tid (some (if q = 6 then 4 else 3))).nextId = some op ∧
      op.instr = i ∧ op.queue = q ∧ op.objs = objs ∧ op.args = args ∧ op.bytes = bytes ∧ op.tid = l.tid := by
  unfold submit
  rw [h]
  have hk : ∀ (v : State) (op : Op) (id : Nat) (e : Entry),
      Map.get? (State.addEntry { v with nextId := id + 1, ops := Map.set v.ops id op } l.tid e).ops id = some op := fun v op id e => by
    unfold State.addEntry
    rw [State.modThread_ops]
    exact Map.get?_set_same _ _ _
  exact ⟨_, _, rfl, hk _ _ _ _, rfl, rfl, rfl, rfl, rfl, rfl⟩

/-- The work of a word of the Anvil: it waits while another context holds the state. -/
def anvilWork (w : Issue → Nat → Lane → Work Unit) (iss : Issue) (no : Nat) (l : Lane) : Work Unit := do
  let s ← get
  if s.anvilTaken l.th then modify fun s => s.leaveAs l.tid (.again .anvil) else w iss no l

/-- Claiming an Anvil changes only its tile. -/
theorem claimAnvil_same (s : State) (h c : Nat) : ∃ ts, s.claimAnvil h c = { s with tiles := ts } := by
  unfold State.claimAnvil
  dsimp only
  cases (s.tile h).anvil.owner with
  | none => exact ⟨_, rfl⟩
  | some _ => exact ⟨s.tiles, rfl⟩

/-- The one thread of a group, as it stands. -/
theorem lanes_one {iss : Issue} {s : State} {i : Instr} {l : Lane} : ∀ (slots : List (Nat × Nat)),
    (slots.filterMap fun x => (iss.reads s x.2).map fun t => (iss.lane s i x.1 x.2 t 0, iss.active t (prefixOf i))) = [(l, true)] →
    s.thread? l.tid = some l.th → slots.filterMap (fun x => s.thread? x.2) = [l.th]
  | [], h, _ => by simp at h
  | y :: ys, h, ht => by
    have none_of : ∀ tid, iss.reads s tid = none → s.thread? tid = none := fun tid h => by
      unfold Issue.reads at h
      split at h
      · exact absurd h (by simp)
      · exact h
    cases hr : iss.reads s y.2 with
    | none =>
      rw [List.filterMap_cons, hr] at h
      rw [List.filterMap_cons, none_of _ hr]
      exact lanes_one ys h ht
    | some t =>
      rw [List.filterMap_cons, hr] at h
      simp only [Option.map_some, List.cons.injEq, Prod.mk.injEq, List.filterMap_eq_nil_iff, Option.map_eq_none_iff] at h
      obtain ⟨⟨hl, -⟩, hrest⟩ := h
      have htid : y.2 = l.tid := by rw [← hl]; rfl
      rw [List.filterMap_cons, htid, ht]
      simp only [List.cons.injEq, true_and, List.filterMap_eq_nil_iff]
      exact fun z hz => none_of _ (hrest z hz)

/-- A word of the Anvil in a group of one thread claims the state of its home tile. -/
theorem anvilLanes_one {s : State} {iss : Issue} {i : Instr} {l : Lane} {w : Issue → Nat → Lane → Work Unit}
    (hi : s.issue = some iss) (hd : s.decodeTraps iss i 0 = none) (hl : iss.lanes s i 0 = [(l, true)]) (ht : s.thread? l.tid = some l.th) :
    s.anvilLanes i w = (s.claimAnvil (s.homeTile l.th) iss.ctx).eachLane i (anvilWork w) := by
  unfold State.anvilLanes
  rw [issued_eq hi hd, lanes_one iss.slots hl ht]
  simp only [List.map_cons, List.map_nil, List.eraseDups_cons, List.foldl_cons]
  rfl

/-- The word's group in the state with its Anvil claimed. -/
theorem claimed_solo {s : State} {iss : Issue} {i : Instr} {l : Lane} (h : Solo s iss i l) (n c : Nat) : Solo (s.claimAnvil n c) iss i l := by
  obtain ⟨ts, hts⟩ := claimAnvil_same s n c
  rw [hts]
  exact h

theorem claimed_alone {s : State} {iss : Issue} {i : Instr} {l : Lane} (h : Alone s iss i l) (n c : Nat) : Alone (s.claimAnvil n c) iss i l := by
  obtain ⟨ts, hts⟩ := claimAnvil_same s n c
  rw [hts]
  exact h

theorem claimed_next (s : State) (n c : Nat) : (s.claimAnvil n c).nextId = s.nextId := by
  obtain ⟨ts, hts⟩ := claimAnvil_same s n c
  rw [hts]

theorem claimed_issue (s : State) (n c : Nat) : (s.claimAnvil n c).issue = s.issue := by
  obtain ⟨ts, hts⟩ := claimAnvil_same s n c
  rw [hts]

/-- A word of the Anvil does what `ActsOnAnvil` says. -/
theorem anvil_acts {i : Instr} {w : Issue → Nat → Lane → Work Unit} (hx : ∀ s, exec i s = .next (s.anvilLanes i w)) : ActsOnAnvil i w := by
  intro s iss l h
  have hone := anvilLanes_one (w := w) h.1 h.2.1 h.2.2.1 h.2.2.2.1
  have hs := claimed_solo h (s.homeTile l.th) iss.ctx
  have hn := claimed_next s (s.homeTile l.th) iss.ctx
  have hi := (claimed_issue s (s.homeTile l.th) iss.ctx).trans h.1
  rw [hx, hone]
  generalize s.claimAnvil (s.homeTile l.th) iss.ctx = s0 at hs hn hi ⊢
  refine ⟨fun ht => ?_, fun ht s' hw => ?_⟩
  · rw [← hn]
    refine congrArg _ (eachLane_one hs ?_)
    show (if s0.anvilTaken l.th then _ else _ : Work Unit) _ = _
    rw [if_pos ht]; rfl
  · rw [← hn] at hw ⊢
    refine congrArg _ (eachLane_one hs ?_)
    show (if s0.anvilTaken l.th then _ else _ : Work Unit) _ = _
    rw [if_neg (by simp [ht])]; exact hw

/-- A word of the Anvil raises the traps of its work. -/
theorem anvil_traps {i : Instr} {w : Issue → Nat → Lane → Work Unit} (hx : ∀ s, exec i s = .next (s.anvilLanes i w)) : TrapsOnAnvil i w := by
  intro s iss l c info h he hu
  have hone := anvilLanes_one (w := w) h.1 h.2.1 h.2.2.2.1 h.2.2.2.2
  have hs := claimed_alone h (s.homeTile l.th) iss.ctx
  have hn := claimed_next s (s.homeTile l.th) iss.ctx
  have hex : exec i s = .next ((s.claimAnvil (s.homeTile l.th) iss.ctx).eachLane i (anvilWork w)) := by rw [hx, hone]
  generalize s.claimAnvil (s.homeTile l.th) iss.ctx = s0 at hs hn hex ⊢
  intro s1 ht hw hc
  change s0.anvilTaken l.th = false at ht
  change w iss s.nextId l { s0 with nextId := s0.nextId + 1 } = _ at hw
  rw [← hn] at hw
  exact eachLane_stop (w := anvilWork w) hex hs he hu (by
    show (if s0.anvilTaken l.th then _ else _ : Work Unit) _ = _
    rw [if_neg (by simp [ht])]; exact hw) hc

end Sys2Proof.Machine
end

