-- ==== Sys2Proof/Laws/Integer.lean ====
section
/-! SUPPORT. The integer functions of the model, which compute on numbers, agree with bit-vector arithmetic. -/
namespace Sys2Proof.Machine

theorem Opnd.word_lt (o : Opnd) (i : Nat) : Opnd.word o i < 2 ^ 32 := by
  unfold Opnd.word; cases o[i]? <;> simp; exact BitVec.isLt _
theorem Lane.a_lt (l : Lane) : l.a < 2 ^ 32 := Opnd.word_lt _ _
theorem Lane.b_lt (l : Lane) : l.b < 2 ^ 32 := Opnd.word_lt _ _
theorem Lane.c_lt (l : Lane) : l.c < 2 ^ 32 := Opnd.word_lt _ _
theorem Lane.a_eq (l : Lane) : l.a = l.x.toNat := by rw [Lane.x, BitVec.toNat_ofNat, Nat.mod_eq_of_lt l.a_lt]
theorem Lane.b_eq (l : Lane) : l.b = l.y.toNat := by rw [Lane.y, BitVec.toNat_ofNat, Nat.mod_eq_of_lt l.b_lt]
theorem Lane.c_eq (l : Lane) : l.c = l.z.toNat := by rw [Lane.z, BitVec.toNat_ofNat, Nat.mod_eq_of_lt l.c_lt]
theorem LaneOut.one_eq {v : Nat} {r : Word} (h : BitVec.ofNat 32 v = r) : LaneOut.one v = LaneOut.word r := by
  simp [LaneOut.one, LaneOut.word, h]

/-- packed in bit-vector form -/
theorem packed2 (f : Nat → Nat → Nat) (g : BitVec 16 → BitVec 16 → BitVec 16)
    (h : ∀ a b : BitVec 16, f a.toNat b.toNat % 2 ^ 16 = (g a b).toNat) (x y : Word) :
    BitVec.ofNat 32 (packed 16 f 2 x.toNat y.toNat) = g (x.extractLsb' 16 16) (y.extractLsb' 16 16) ++ g (x.extractLsb' 0 16) (y.extractLsb' 0 16) := by
  have e0 : ∀ x : Word, x.toNat % 2 ^ 16 = (x.extractLsb' 0 16).toNat := fun x => by simp [BitVec.extractLsb'_toNat]
  have e1 : ∀ x : Word, x.toNat / 2 ^ 16 % 2 ^ 16 = (x.extractLsb' 16 16).toNat := fun x => by simp [BitVec.extractLsb'_toNat, Nat.shiftRight_eq_div_pow]
  apply BitVec.eq_of_toNat_eq
  simp only [packed, e0, e1, h, Nat.mul_zero, Nat.add_zero, BitVec.toNat_append, BitVec.toNat_ofNat]
  rw [Nat.mod_eq_of_lt (by have := (g (x.extractLsb' 0 16) (y.extractLsb' 0 16)).isLt; have := (g (x.extractLsb' 16 16) (y.extractLsb' 16 16)).isLt; omega)]
  rw [← Nat.shiftLeft_add_eq_or_of_lt (BitVec.isLt _), Nat.shiftLeft_eq]; omega

theorem packed4 (f : Nat → Nat → Nat) (g : BitVec 8 → BitVec 8 → BitVec 8)
    (h : ∀ a b : BitVec 8, f a.toNat b.toNat % 2 ^ 8 = (g a b).toNat) (x y : Word) :
    BitVec.ofNat 32 (packed 8 f 4 x.toNat y.toNat) = g (x.extractLsb' 24 8) (y.extractLsb' 24 8) ++ g (x.extractLsb' 16 8) (y.extractLsb' 16 8) ++
      g (x.extractLsb' 8 8) (y.extractLsb' 8 8) ++ g (x.extractLsb' 0 8) (y.extractLsb' 0 8) := by
  have e0 : ∀ x : Word, x.toNat % 2 ^ 8 = (x.extractLsb' 0 8).toNat := fun x => by simp [BitVec.extractLsb'_toNat]
  have e1 : ∀ x : Word, x.toNat / 2 ^ 8 % 2 ^ 8 = (x.extractLsb' 8 8).toNat := fun x => by simp [BitVec.extractLsb'_toNat, Nat.shiftRight_eq_div_pow]
  have e2 : ∀ x : Word, x.toNat / 2 ^ 8 / 2 ^ 8 % 2 ^ 8 = (x.extractLsb' 16 8).toNat := fun x => by
    simp [BitVec.extractLsb'_toNat, Nat.shiftRight_eq_div_pow, Nat.div_div_eq_div_mul]
  have e3 : ∀ x : Word, x.toNat / 2 ^ 8 / 2 ^ 8 / 2 ^ 8 % 2 ^ 8 = (x.extractLsb' 24 8).toNat := fun x => by
    simp [BitVec.extractLsb'_toNat, Nat.shiftRight_eq_div_pow, Nat.div_div_eq_div_mul]
  apply BitVec.eq_of_toNat_eq
  simp only [packed, e0, e1, e2, e3, h, Nat.mul_zero, Nat.add_zero, BitVec.toNat_append, BitVec.toNat_ofNat]
  generalize g (x.extractLsb' 0 8) (y.extractLsb' 0 8) = a
  generalize g (x.extractLsb' 8 8) (y.extractLsb' 8 8) = b
  generalize g (x.extractLsb' 16 8) (y.extractLsb' 16 8) = c
  generalize g (x.extractLsb' 24 8) (y.extractLsb' 24 8) = d
  have := a.isLt; have := b.isLt; have := c.isLt; have := d.isLt
  rw [← Nat.shiftLeft_add_eq_or_of_lt (by omega), ← Nat.shiftLeft_add_eq_or_of_lt (by omega), ← Nat.shiftLeft_add_eq_or_of_lt (by omega)]
  simp only [Nat.shiftLeft_eq]
  omega

theorem byElements_eq (et : Nat) (f : Nat → Nat → Nat → Nat) (g : (w : Nat) → BitVec w → BitVec w → BitVec w)
    (h : ∀ w (a b : BitVec w), f w a.toNat b.toNat % 2 ^ w = (g w a b).toNat) (x y : Word) :
    BitVec.ofNat 32 (byElements et f x.toNat y.toNat) = perElement et g x y := by
  unfold byElements perElement
  split
  · exact packed2 _ _ (h 16) x y
  · split
    · exact packed4 _ _ (h 8) x y
    · rw [h 32]; simp

theorem pickInt_eq (greater u : Bool) (w : Nat) (a b : BitVec w) :
    pickInt greater u w a.toNat b.toNat % 2 ^ w = (if isLess u a b = greater then b else a).toNat := by
  have hs : ∀ x : BitVec w, sw w x.toNat = x.toInt := fun x => by simp [sw]
  simp only [pickInt, isLess, hs]
  have hu : decide (a.toNat < b.toNat) = a.ult b := rfl
  have hl : decide (a.toInt < b.toInt) = a.slt b := rfl
  rw [hu, hl]
  cases u <;> simp only [if_true, if_false, Bool.false_eq_true] <;> split <;> simp_all


theorem s32_eq (x : Word) : s32 x.toNat = x.toInt := by simp [s32]

theorem ofNat_low32 (z : Int) : BitVec.ofNat 32 (low32 z) = BitVec.ofInt 32 z := by rw [low32, BitVec.ofNat_toNat, BitVec.setWidth_eq]

/-- Bits 63:32 of a product are its quotient by 2^32. -/
theorem high_of_product (p : Int) : BitVec.ofInt 32 (p / 2 ^ 32) = (BitVec.ofInt 64 p).extractLsb' 32 32 := by
  apply BitVec.eq_of_toNat_eq
  simp only [BitVec.toNat_ofInt, BitVec.extractLsb'_toNat, Nat.shiftRight_eq_div_pow]
  omega

theorem mulHigh_eq (u : Bool) (x y : Word) : BitVec.ofNat 32 (mulHigh u x.toNat y.toNat) = highProduct u x y := by
  simp only [mulHigh, readInt, ofNat_low32, highProduct, s32_eq]
  rw [high_of_product]
  cases u
  · simp only [Bool.false_eq_true, reduceIte]
    congr 1
    apply BitVec.eq_of_toInt_eq
    rw [BitVec.toInt_mul, BitVec.toInt_signExtend_of_le (by decide), BitVec.toInt_signExtend_of_le (by decide), BitVec.toInt_ofInt]
  · simp only [reduceIte]
    congr 1

theorem abs_eq (x : Word) : BitVec.ofNat 32 (low32 (s32 x.toNat).natAbs) = x.abs := by
  rw [ofNat_low32, s32_eq]
  apply BitVec.eq_of_toNat_eq
  rw [BitVec.toNat_abs, BitVec.toNat_ofInt, BitVec.toInt_eq_msb_cond]
  have h := x.isLt
  cases hm : x.msb
  · simp only [Bool.false_eq_true, if_false]; omega
  · simp only [if_true]; have := BitVec.le_toNat_of_msb_true hm; omega

theorem neg_eq (x : Word) : BitVec.ofNat 32 (2 ^ 32 - x.toNat) = -x := by
  apply BitVec.eq_of_toNat_eq; simp [BitVec.toNat_neg]

theorem andn_eq (x y : Word) : BitVec.ofNat 32 (x.toNat &&& (2 ^ 32 - 1 - y.toNat)) = x &&& ~~~y := by
  apply BitVec.eq_of_toNat_eq
  rw [BitVec.toNat_and, BitVec.toNat_not, BitVec.toNat_ofNat, Nat.mod_eq_of_lt]
  exact lt_of_le_of_lt Nat.and_le_left x.isLt

theorem shl_eq (x : Word) (n : Nat) : BitVec.ofNat 32 (shiftLeft 32 x.toNat n) = x <<< n := by
  unfold shiftLeft
  split
  · next h => rw [BitVec.shiftLeft_eq_zero h]
  · apply BitVec.eq_of_toNat_eq; simp [Nat.shiftLeft_eq]

theorem shr_eq (x : Word) (n : Nat) : BitVec.ofNat 32 (shiftRight 32 x.toNat n) = x >>> n := by
  unfold shiftRight
  split
  · next h => rw [BitVec.ushiftRight_eq_zero h]
  · apply BitVec.eq_of_toNat_eq
    rw [BitVec.toNat_ofNat, BitVec.toNat_ushiftRight, Nat.shiftRight_eq_div_pow, Nat.mod_eq_of_lt]
    exact lt_of_le_of_lt (Nat.div_le_self _ _) x.isLt

theorem sar_eq (x : Word) (n : Nat) : BitVec.ofNat 32 (shiftArith x.toNat n) = x.sshiftRight (min n 31) := by
  unfold shiftArith
  rw [ofNat_low32, s32_eq]
  apply BitVec.eq_of_toInt_eq
  rw [BitVec.toInt_sshiftRight, Int.shiftRight_eq_div_pow, BitVec.toInt_ofInt]
  have h1 := BitVec.two_mul_toInt_lt (x := x)
  have h2 := BitVec.le_two_mul_toInt (x := x)
  have hp : (0 : Int) < ((2 ^ min n 31 : Nat) : Int) := by positivity
  have h3 : x.toInt / ((2 ^ min n 31 : Nat) : Int) ≤ max x.toInt 0 := by
    rcases le_or_gt 0 x.toInt with h | h
    · exact le_trans (Int.ediv_le_self _ h) (le_max_left _ _)
    · exact le_trans (le_of_lt (Int.ediv_lt_of_lt_mul hp (by simpa using h))) (le_max_right _ _)
  have h4 : min x.toInt 0 ≤ x.toInt / ((2 ^ min n 31 : Nat) : Int) := by
    apply (Int.le_ediv_iff_mul_le hp).2
    rcases le_or_gt 0 x.toInt with h | h
    · rw [min_eq_right h]; simpa using h
    · rw [min_eq_left h.le]; nlinarith
  push_cast at *
  apply Int.bmod_eq_of_le <;> omega

theorem rol_eq (x : Word) (n : Nat) : BitVec.ofNat 32 (rotateLeft x.toNat n) = x.rotateLeft n := by
  apply BitVec.eq_of_toNat_eq
  rw [BitVec.toNat_rotateLeft]
  unfold rotateLeft
  have hk : n % 32 < 32 := Nat.mod_lt _ (by decide)
  generalize n % 32 = k at hk
  have hx := x.isLt
  generalize x.toNat = v at hx
  rw [Nat.shiftLeft_eq, Nat.shiftRight_eq_div_pow, BitVec.toNat_ofNat, Nat.mod_mod]
  have hp : 2 ^ 32 = 2 ^ k * 2 ^ (32 - k) := by rw [← pow_add]; congr 1; omega
  have hlo : v / 2 ^ (32 - k) < 2 ^ k := Nat.div_lt_of_lt_mul (by rw [Nat.mul_comm, ← hp]; exact hx)
  have hhi : v * 2 ^ k % 2 ^ 32 = (v % 2 ^ (32 - k)) <<< k := by
    rw [Nat.shiftLeft_eq, hp, Nat.mul_comm v, Nat.mul_mod_mul_left, Nat.mul_comm]
  have hsum : v * 2 ^ k % 2 ^ 32 + v / 2 ^ (32 - k) < 2 ^ 32 := by
    rw [hhi, Nat.shiftLeft_add_eq_or_of_lt hlo]
    apply Nat.or_lt_two_pow
    · rw [← hhi]; exact Nat.mod_lt _ (by decide)
    · exact lt_of_le_of_lt (Nat.div_le_self _ _) hx
  rw [Nat.add_mod, Nat.mod_eq_of_lt (lt_of_le_of_lt (Nat.div_le_self v (2 ^ (32 - k))) hx), Nat.mod_eq_of_lt hsum, hhi,
    Nat.shiftLeft_add_eq_or_of_lt hlo]

theorem sad_eq (x y : Word) : sadBytes 4 x.toNat y.toNat = byteDistances x y := by
  have e : ∀ (x : Word) k, (x.extractLsb' (8 * k) 8).toNat = x.toNat / 2 ^ (8 * k) % 256 := fun x k => by
    simp [BitVec.extractLsb'_toNat, Nat.shiftRight_eq_div_pow]
  have hr : List.range 4 = [0, 1, 2, 3] := rfl
  simp only [sadBytes, absDiff, byteDistances, hr, List.map_cons, List.map_nil, List.sum_cons, List.sum_nil, e, Nat.div_div_eq_div_mul]
  norm_num

theorem distance_eq (u : Bool) (x y : Word) : absDiff (readInt u x.toNat) (readInt u y.toNat) = distance u x y := by
  cases u <;> simp [absDiff, readInt, distance, s32_eq]

theorem field_eq (x y : Word) : BitVec.ofNat 32 (bitField x.toNat y.toNat) = fieldOf x y := by
  unfold bitField fieldOf
  have e0 : y.toNat % 32 = (y.extractLsb' 0 5).toNat := by simp [BitVec.extractLsb'_toNat]
  have e1 : y.toNat / 32 % 64 = (y.extractLsb' 5 6).toNat := by simp [BitVec.extractLsb'_toNat, Nat.shiftRight_eq_div_pow]
  simp only [e0, e1]
  have hp := (y.extractLsb' 0 5).isLt
  generalize (y.extractLsb' 0 5).toNat = p at hp
  have hw : min (y.extractLsb' 5 6).toNat (32 - p) ≤ 32 := by omega
  generalize min (y.extractLsb' 5 6).toNat (32 - p) = w at hw
  apply BitVec.eq_of_toNat_eq
  have h2 : 2 ^ w - 1 < 2 ^ 32 := by
    have := Nat.pow_le_pow_right (n := 2) (by decide) hw; have := Nat.two_pow_pos w; omega
  rw [BitVec.toNat_and, BitVec.toNat_ushiftRight, BitVec.toNat_ofNat, BitVec.toNat_ofNat, Nat.mod_eq_of_lt h2,
    Nat.and_two_pow_sub_one_eq_mod, Nat.shiftRight_eq_div_pow, Nat.mod_eq_of_lt]
  exact lt_of_le_of_lt (Nat.mod_le _ _) (lt_of_le_of_lt (Nat.div_le_self _ _) x.isLt)

theorem div_eq (u : Bool) (x y : Word) : BitVec.ofNat 32 (divRem u x.toNat y.toNat).1 = quotient u x y := by
  have hz : y.toNat = 0 ↔ y = 0 := by rw [← BitVec.toNat_inj]; simp
  unfold divRem quotient
  by_cases h0 : y = 0
  · simp [h0]
  · simp only [h0, hz, if_false]
    cases u
    · split
      · next h =>
        have hx : x = 0x80000000 := BitVec.eq_of_toNat_eq (by simpa using h.2.1)
        have hy : y = 0xFFFFFFFF := BitVec.eq_of_toNat_eq (by simpa using h.2.2)
        subst hx hy; rfl
      · next h =>
        simp only [Bool.false_eq_true, if_false, readInt, s32_eq, ofNat_low32]
        apply BitVec.eq_of_toInt_eq
        rw [BitVec.toInt_ofInt, BitVec.toInt_sdiv]
    · simp only [Bool.not_true, Bool.false_eq_true, false_and, if_false, if_true, readInt, ofNat_low32]
      apply BitVec.eq_of_toNat_eq
      rw [BitVec.toNat_ofInt, BitVec.toNat_udiv, ← Int.ofNat_tdiv]
      rw [Int.toNat_emod (by positivity) (by positivity)]
      simp
      exact Nat.mod_eq_of_lt (lt_of_le_of_lt (Nat.div_le_self _ _) x.isLt)

theorem rem_eq (u : Bool) (x y : Word) : BitVec.ofNat 32 (divRem u x.toNat y.toNat).2 = remainder u x y := by
  have hz : y.toNat = 0 ↔ y = 0 := by rw [← BitVec.toNat_inj]; simp
  unfold divRem remainder
  by_cases h0 : y = 0
  · simp [h0]
  · simp only [h0, hz, if_false]
    cases u
    · split
      · next h =>
        have hx : x = 0x80000000 := BitVec.eq_of_toNat_eq (by simpa using h.2.1)
        have hy : y = 0xFFFFFFFF := BitVec.eq_of_toNat_eq (by simpa using h.2.2)
        subst hx hy; rfl
      · next h =>
        simp only [Bool.false_eq_true, if_false, readInt, s32_eq, ofNat_low32]
        apply BitVec.eq_of_toInt_eq
        rw [← Int.tmod_def, ← BitVec.toInt_srem, BitVec.ofInt_toInt]
    · simp only [Bool.not_true, Bool.false_eq_true, false_and, if_false, if_true, readInt, ofNat_low32, ← Int.tmod_def, ← Int.ofNat_tmod]
      apply BitVec.eq_of_toNat_eq
      rw [BitVec.toNat_ofInt, BitVec.toNat_umod]
      rw [Int.toNat_emod (by positivity) (by positivity)]
      simp
      exact Nat.mod_eq_of_lt (lt_of_le_of_lt (Nat.mod_le _ _) x.isLt)

theorem cond_eq (u : Bool) (n : Nat) (x y : Word) : intCond n (readInt u x.toNat) (readInt u y.toNat) = holds u n x y := by
  have hlt : ∀ x y : Word, decide (readInt u x.toNat < readInt u y.toNat) = isLess u x y := fun x y => by
    cases u <;> simp [readInt, s32_eq, isLess, BitVec.slt, BitVec.ult]
  have heq : (readInt u x.toNat == readInt u y.toNat) = (x == y) := by
    cases u <;> simp only [readInt, s32_eq, Bool.false_eq_true, if_false, if_true] <;>
      (rw [Bool.eq_iff_iff]; simp [BitVec.toInt_inj, BitVec.toNat_inj])
  have hle : ∀ x y : Word, decide (readInt u x.toNat ≤ readInt u y.toNat) = !isLess u y x := fun x y => by
    rw [← hlt]; rw [Bool.eq_iff_iff]; simp
  unfold intCond holds
  split <;> simp_all [bne]

theorem isLess_min (greater u : Bool) (et : Nat) (x y : Word) :
    BitVec.ofNat 32 (byElements et (fun w a b => pickInt greater u w a b) x.toNat y.toNat) =
      perElement et (fun _ a b => if isLess u a b = greater then b else a) x y :=
  byElements_eq _ _ _ (fun w a b => pickInt_eq greater u w a b) x y


theorem bit_eq (v n : Nat) : (v / 2 ^ n % 2 = 1) = (v.testBit n = true) := by
  rw [Nat.testBit_eq_decide_div_mod_eq]; simp

theorem popcount_bits : ∀ n v, popcount n v = ((List.range n).map fun k => (v.testBit k).toNat).sum
  | 0, v => rfl
  | n + 1, v => by
    rw [popcount, popcount_bits n, List.range_succ_eq_map, List.map_cons, List.sum_cons, List.map_map]
    congr 1
    · simp only [Nat.testBit_zero]; rcases Nat.mod_two_eq_zero_or_one v with h | h <;> simp [h]
    · congr 1; apply List.map_congr_left; intro k _; simp [Nat.testBit_succ]

theorem cpopNatRec_eq (x : Word) : ∀ n acc, x.cpopNatRec n acc = acc + ((List.range n).map fun k => (x.getLsbD k).toNat).sum
  | 0, acc => by simp
  | n + 1, acc => by
    rw [BitVec.cpopNatRec_succ, cpopNatRec_eq x n, List.range_succ, List.map_append, List.sum_append]
    simp; omega

theorem popcount_eq (x : Word) : BitVec.ofNat 32 (popcount 32 x.toNat) = x.cpop := by
  rw [popcount_bits]
  unfold BitVec.cpop
  rw [cpopNatRec_eq]; simp [BitVec.getLsbD]

theorem leadingZeros_le : ∀ n v, leadingZeros n v ≤ n
  | 0, _ => Nat.le_refl _
  | n + 1, v => by unfold leadingZeros; split <;> [omega; (have := leadingZeros_le n v; omega)]

theorem clzAux_eq (x : Word) : ∀ n, n ≤ 31 → x.clzAuxRec n = BitVec.ofNat 32 (31 - n + leadingZeros (n + 1) x.toNat)
  | 0, _ => by
    rw [leadingZeros, leadingZeros, BitVec.clzAuxRec_zero]
    have : (x.toNat / 2 ^ 0 % 2 = 1) = (x.getLsbD 0 = true) := bit_eq _ _
    simp only [this]
    split <;> rfl
  | n + 1, h => by
    have e : leadingZeros (n + 1 + 1) x.toNat = if x.toNat / 2 ^ (n + 1) % 2 = 1 then 0 else 1 + leadingZeros (n + 1) x.toNat := rfl
    have : (x.toNat / 2 ^ (n + 1) % 2 = 1) = (x.getLsbD (n + 1) = true) := bit_eq _ _
    rw [BitVec.clzAuxRec_succ, clzAux_eq x n (by omega), e]
    simp only [this]
    split
    · congr 1
    · congr 1; omega

theorem clz_eq (x : Word) : BitVec.ofNat 32 (leadingZeros 32 x.toNat) = x.clz := by
  unfold BitVec.clz; rw [clzAux_eq x 31 (by decide)]; simp

theorem leadingZeros_reverse (x : Word) : ∀ m, m ≤ 32 → leadingZeros m x.reverse.toNat = trailingZeros m (x.toNat / 2 ^ (32 - m))
  | 0, _ => rfl
  | m + 1, h => by
    rw [leadingZeros, trailingZeros, leadingZeros_reverse x m (by omega)]
    have e1 : (x.reverse.toNat / 2 ^ m % 2 = 1) = (x.getLsbD (31 - m) = true) := by
      rw [bit_eq]; change (x.reverse.getLsbD m = true) = _
      rw [BitVec.getLsbD_reverse, BitVec.getMsbD]; simp; omega
    have e2 : (x.toNat / 2 ^ (32 - (m + 1)) % 2 = 1) = (x.getLsbD (31 - m) = true) := by
      rw [show 32 - (m + 1) = 31 - m by omega]; exact bit_eq _ _
    have e3 : x.toNat / 2 ^ (32 - (m + 1)) / 2 = x.toNat / 2 ^ (32 - m) := by
      rw [Nat.div_div_eq_div_mul, ← Nat.pow_succ]; congr 2; omega
    rw [e3]; simp only [e1, e2]

theorem ctz_eq (x : Word) : BitVec.ofNat 32 (trailingZeros 32 x.toNat) = x.ctz := by
  rw [BitVec.ctz_eq_reverse_clz, ← clz_eq, leadingZeros_reverse x 32 (by decide)]; simp

theorem reverseBits_lt : ∀ n v, reverseBits n v < 2 ^ n
  | 0, _ => by simp [reverseBits]
  | n + 1, v => by
    have := reverseBits_lt n (v / 2)
    unfold reverseBits
    rcases Nat.mod_two_eq_zero_or_one v with h | h <;> rw [h, pow_succ] <;> omega

theorem reverseBits_bit : ∀ n v i, i < n → (reverseBits n v).testBit i = v.testBit (n - 1 - i)
  | 0, _, _, h => by omega
  | n + 1, v, i, h => by
    unfold reverseBits
    rw [Nat.mul_comm, Nat.testBit_two_pow_mul_add _ (reverseBits_lt n _)]
    split
    · next hi =>
      rw [reverseBits_bit n _ i hi, Nat.testBit_div_two]; congr 1; omega
    · have : i = n := by omega
      subst this
      simp [Nat.testBit_zero]

theorem reverse_eq (x : Word) : BitVec.ofNat 32 (reverseBits 32 x.toNat) = x.reverse := by
  apply BitVec.eq_of_getLsbD_eq
  intro i hi
  rw [BitVec.getLsbD_reverse, BitVec.getMsbD, BitVec.getLsbD_ofNat, reverseBits_bit 32 _ i hi]
  simp [hi, BitVec.getLsbD]

theorem Opnd.dword_eq (o : Opnd) : Opnd.dword o = (BitVec.ofNat 64 (Opnd.dword o)).toNat := by
  have := Opnd.word_lt o 0; have := Opnd.word_lt o 1
  rw [BitVec.toNat_ofNat, Nat.mod_eq_of_lt]; unfold Opnd.dword; omega

theorem LaneOut.pair_eq {v : Nat} {r : DWord} (h : BitVec.ofNat 64 v = r) : LaneOut.pair v = LaneOut.dword r := by
  subst h
  unfold LaneOut.pair LaneOut.dword
  congr 2
  · apply BitVec.eq_of_toNat_eq; simp
  · congr 1
    apply BitVec.eq_of_toNat_eq
    simp [Nat.shiftRight_eq_div_pow]
    omega

theorem shl64_eq (x : DWord) (n : Nat) : BitVec.ofNat 64 (shiftLeft 64 x.toNat n) = x <<< n := by
  unfold shiftLeft
  split
  · next h => rw [BitVec.shiftLeft_eq_zero h]
  · apply BitVec.eq_of_toNat_eq; simp [Nat.shiftLeft_eq]

theorem shr64_eq (x : DWord) (n : Nat) : BitVec.ofNat 64 (shiftRight 64 x.toNat n) = x >>> n := by
  unfold shiftRight
  split
  · next h => rw [BitVec.ushiftRight_eq_zero h]
  · apply BitVec.eq_of_toNat_eq
    rw [BitVec.toNat_ofNat, BitVec.toNat_ushiftRight, Nat.shiftRight_eq_div_pow, Nat.mod_eq_of_lt]
    exact lt_of_le_of_lt (Nat.div_le_self _ _) x.isLt

end Sys2Proof.Machine
end

