-- ==== Sys2Proof/Laws/Memory.lean ====
section
/-! SUPPORT. The laws of memory: a byte read back after a write, and that every operation on memory keeps its canonical form. -/
namespace Sys2Proof.Machine

theorem Map.getD_set_same {α : Type} (m : Map α) (k : Nat) (a d : α) : Map.getD (Map.set m k a) k d = a := by simp [Map.getD]

theorem Map.getD_set_ne {α : Type} (m : Map α) {k n : Nat} (a d : α) (h : n ≠ k) : Map.getD (Map.set m k a) n d = Map.getD m n d := by
  simp [Map.getD, Map.get?_set_ne m a h]

/-- A byte of memory after one is written: the byte written at its address, and every other byte as before (R311). -/
theorem getD_memSet (m : List Host.Cell) (pa : Nat) (b : Byte) (k : Nat) :
    Map.getD (memSet m pa b) k 0 = if k = pa then b else Map.getD m k 0 := by
  unfold memSet
  split
  · next hb =>
    subst hb
    split
    · next e => subst e; simp [Map.getD]
    · next e => simp [Map.getD, Map.get?_del_ne m e]
  · split
    · next e => subst e; simp [Map.getD]
    · next e => exact Map.getD_set_ne m b 0 e

theorem Memory.wf_iff (m : List Host.Cell) : Memory.wf m = true ↔ Map.rising m = true ∧ ∀ c ∈ m, c.2 ≠ 0 := by
  simp [Memory.wf, List.all_eq_true]

/-- Writing one byte keeps the canonical form: the value of an unlisted address removes the entry. -/
theorem memSet_wf {m : List Host.Cell} (pa : Nat) (b : Byte) (h : Memory.wf m = true) : Memory.wf (memSet m pa b) = true := by
  rw [Memory.wf_iff] at h ⊢
  unfold memSet
  split
  · exact ⟨Map.rising_del pa h.1, fun c hc => h.2 c (Map.mem_del hc)⟩
  · next hb =>
    refine ⟨Map.rising_set pa b h.1, fun c hc => ?_⟩
    rcases Map.mem_set hc with rfl | hc
    · exact hb
    · exact h.2 c hc

theorem State.byte_setByte (s : State) (pa : Nat) (b : Byte) (k : Nat) : (s.setByte pa b).byte k = if k = pa then b else s.byte k :=
  getD_memSet s.mem pa b k

theorem State.setByte_wf {s : State} (pa : Nat) (b : Byte) (h : Memory.wf s.mem = true) : Memory.wf (s.setByte pa b).mem = true :=
  memSet_wf pa b h

theorem State.setBytes_wf {s : State} (pa : Nat) (bs : List Byte) (h : Memory.wf s.mem = true) : Memory.wf (s.setBytes pa bs).mem = true := by
  induction bs generalizing s pa with
  | nil => exact h
  | cons b bs ih => exact ih (pa + 1) (State.setByte_wf pa b h)

theorem State.setNum_wf {s : State} (pa n v : Nat) (h : Memory.wf s.mem = true) : Memory.wf (s.setNum pa n v).mem = true :=
  State.setBytes_wf pa (toBytes n v) h

theorem Map.rising_filter {α : Type} (p : Nat × α → Bool) : ∀ {m : Map α}, Map.rising m = true → Map.rising (m.filter p) = true
  | [], _ => rfl
  | x :: rest, h => by
    obtain ⟨h1, h2⟩ := Map.rising_cons.1 h
    have ih := Map.rising_filter p h2
    unfold List.filter
    split
    · exact Map.rising_cons.2 ⟨fun y hy => h1 y (List.mem_filter.1 hy).1, ih⟩
    · exact ih

/-- The zeroing of a slice allocation (R40) keeps the canonical form. -/
theorem State.zero_wf {s : State} (pa n : Nat) (h : Memory.wf s.mem = true) : Memory.wf (s.zero pa n).mem = true := by
  rw [Memory.wf_iff] at h ⊢
  exact ⟨Map.rising_filter _ h.1, fun c hc => h.2 c (List.mem_filter.1 hc).1⟩

theorem State.reset_wf : Memory.wf State.reset.mem = true := by decide

end Sys2Proof.Machine
end

