-- ==== Sys2Proof/Tests/Slice0.lean ====
section
/-! SUPPORT. Tests: forms that each check of an encoding refuses, words written out from the encodings, values from the spec's worked
examples, and for the statements states and operands that meet their hypotheses. -/
namespace Sys2Proof.Tests

open Sys2Proof Sys2Proof.Machine

set_option Elab.async false

/-! ## Forms that are refused (R63 to R72, R82, and each family's own limits) -/

/-- A prefix with nothing in it but its fourth operand. -/
def pfx (c : Nat) : Pfx := ⟨0, false, 0, BitVec.ofNat 7 c, false, 0⟩

theorem test_refused_prefixes : (Pfx.defined ⟨0, false, 6, 0, false, 0⟩ = false ∧ Pfx.defined ⟨0, false, 0, 0, false, 7⟩ = false) ∧
    (Instr.iadd ⟨some ⟨0, false, 1, 0, false, 0⟩, false, 1, 2, 3, false, false⟩).wellFormed = false ∧
    (Instr.iadd ⟨some ⟨0, false, 0, 0, false, 2⟩, false, 1, 2, 3, false, false⟩).wellFormed = false ∧
    (Instr.iadd ⟨some (pfx 5), false, 1, 2, 3, false, false⟩).wellFormed = false ∧
    (Instr.st ⟨some ⟨0, false, 0, 0, true, 0⟩, false, 4, 1, 2, false, 0⟩).wellFormed = false ∧
    (Instr.ffma ⟨none, false, 9, 6, 7, false, false⟩).wellFormed = false := by decide

theorem test_refused_fourth_operands : (Instr.sfma ⟨some (pfx 32), false, 1, 2, 3, false, false⟩).wellFormed = false ∧
    (Instr.sel ⟨some (pfx 16), false, 1, 2, 3, false, false⟩).wellFormed = false ∧
    (Instr.dfma ⟨some (pfx 5), false, 2, 4, 6, false, false⟩).wellFormed = false := by decide

theorem test_refused_integer_forms : (Instr.iadd64 ⟨none, false, 3, 2, 4, false, false⟩).wellFormed = false ∧
    (Instr.ishl64 ⟨none, false, 2, 3, 4, false, false⟩).wellFormed = false ∧
    (Instr.icmp ⟨none, false, 6, 1, 2, 3, false, false⟩).wellFormed = false ∧
    (Instr.icmpi ⟨none, false, 7, 1, 2, false, 0⟩).wellFormed = false ∧
    (Instr.fcmp ⟨none, false, 7, 1, 2, 3, false, false⟩).wellFormed = false ∧
    (Instr.dcmp ⟨none, false, 0, 1, 3, 2, false, false⟩).wellFormed = false := by decide

theorem test_refused_conversions : (Instr.cvt ⟨none, false, 2, 1, 0, 0, false⟩).wellFormed = false ∧
    (Instr.cvt ⟨none, false, 3, 1, 0, 1, false⟩).wellFormed = false ∧ (Instr.cvt ⟨none, false, 2, 2, 2, 1, false⟩).wellFormed = false ∧
    (Instr.pack ⟨none, false, 2, 1, 0, 0, false⟩).wellFormed = false ∧ (Instr.pack ⟨none, false, 2, 1, 2, 2, false⟩).wellFormed = false ∧
    (Instr.scvtNarrow ⟨none, false, 3, 1, 0, 0, false⟩).wellFormed = false := by decide

theorem test_refused_memory_forms : (Instr.ld ⟨none, false, 7, 1, 2, false, 0⟩).wellFormed = false ∧
    (Instr.ld ⟨none, false, 5, 1, 2, false, 0⟩).wellFormed = false ∧ (Instr.ld ⟨none, false, 6, 32, 2, false, 0⟩).wellFormed = false ∧
    (Instr.st ⟨none, false, 1, 1, 2, false, 0⟩).wellFormed = false ∧ (Instr.ldAcq ⟨none, false, 6, 1, 2, false, 3⟩).wellFormed = false ∧
    (Instr.stRel ⟨none, false, 4, 1, 2, false, 6⟩).wellFormed = false := by decide

theorem test_refused_atomics : (Instr.redAdd ⟨none, false, 1, 2, false, false⟩).wellFormed = false ∧
    (Instr.atomAdd ⟨some (pfx 8), false, 1, 2, 3, false, false⟩).wellFormed = false ∧
    (Instr.atomAdd ⟨some (pfx 6), false, 1, 2, 3, false, false⟩).wellFormed = false ∧
    (Instr.atomAdd ⟨some (pfx 64), false, 1, 2, 3, false, false⟩).wellFormed = false ∧
    (Instr.atomCas ⟨none, false, 1, 2, 3, false, false⟩).wellFormed = false := by decide

theorem test_refused_system_forms : (Instr.tlbinv ⟨false, 3, 2⟩).wellFormed = false ∧ (Instr.ctxsave ⟨false, 3⟩).wellFormed = false ∧
    (Instr.srd ⟨false, 0x12, 0, 2⟩).wellFormed = false ∧ (Instr.srd ⟨false, 0, 3, 2⟩).wellFormed = false ∧
    (Instr.srd ⟨false, 0, 0, 3⟩).wellFormed = false ∧ (Instr.swr ⟨false, 0x10, 1, 2⟩).wellFormed = false ∧
    (Instr.reformX ⟨some ⟨120, 16, 0, 0⟩, false, false, 0, 0⟩).wellFormed = false ∧
    (Instr.reformX ⟨some ⟨1, 0, 0, 0⟩, false, false, 0, 0⟩).wellFormed = false ∧
    (Instr.reformX ⟨none, false, false, 0, 0⟩).wellFormed = false := by decide

theorem test_refused_synchronisation_forms : (Instr.fence ⟨false, 6⟩).wellFormed = false ∧ (Instr.tfence ⟨false, 7⟩).wellFormed = false ∧
    (Instr.qfence ⟨false, 0, 1⟩).wellFormed = false ∧ (Instr.qfence ⟨false, 1, 0⟩).wellFormed = false := by decide

theorem test_refused_engine_forms : (Instr.trace ⟨none, false, 2, 1⟩).wellFormed = false ∧ (Instr.trace ⟨some 1, false, 3, 1⟩).wellFormed = false ∧
    (Instr.trace ⟨some 1, false, 2, 31⟩).wellFormed = false ∧ (Instr.visrd ⟨some 1, false, 3, 1, 2⟩).wellFormed = false ∧
    (Instr.cast ⟨none, false, 0, 0, 1⟩).wellFormed = false ∧ (Instr.accst ⟨some 1, false, 0, 0, 3⟩).wellFormed = false ∧
    (Instr.accrd ⟨false, 0, 0, 3, 1⟩).wellFormed = false ∧ (Instr.rclampW ⟨some 1, false, 3, 2⟩).wellFormed = false ∧
    (Instr.rssumW ⟨some 1, false, 30, 2⟩).wellFormed = false ∧ (Instr.rmaxWCr ⟨false, 2, 1, 4, 3, false⟩).wellFormed = false ∧
    (Instr.rmedWCr ⟨false, 2, 1, 4, 1, false⟩).wellFormed = false ∧ (Instr.fcoll ⟨false, 3, 1⟩).wellFormed = false ∧
    (Instr.fsend ⟨false, 126, 1⟩).wellFormed = false ∧ (Instr.spol ⟨none, false, 29, 0, 4, false, false⟩).wellFormed = false ∧
    (Instr.swls ⟨none, false, 1, 2, 63, false⟩).wellFormed = false := by decide

/-! ## Words written out from the encodings -/

/-- The worked encodings after R72. -/
theorem test_decode_worked_encodings :
    decodeWords [0x7C002000, 0xA024307C] = .ok (.ffma ⟨some (pfx 8), true, 9, 6, 7, false, false⟩, 2) ∧
    decodeWords [0x42302800] = .ok (.ld ⟨none, false, 4, 12, 5, false, 0⟩, 1) ∧
    decodeWords [0x42100801] = .ok (.ld ⟨none, false, 4, 4, 1, false, 1⟩, 1) ∧
    decodeWords [0x1E080002] = .ok (.ishli ⟨none, false, 2, 0, false, 2⟩, 1) ∧
    decodeWords [0x3A080000] = .ok (.icmpi ⟨none, false, 0, 2, 0, false, 0⟩, 1) ∧
    decodeWords [0x04001002] = .ok (.loopImm ⟨false, 4, 2⟩, 1) ∧ decodeWords [0x02060001] = .ok (.br ⟨false, 1, 1, 1⟩, 1) ∧
    decodeWords [0x4A341823] = .ok (.stRel ⟨none, false, 4, 13, 3, false, 3⟩, 1) := by decide

/-- The table of encodings after R300. -/
theorem test_decode_synchronisation_encodings :
    decodeWords [0x01000002, 0x78080004] = .ok (.rmaxW ⟨some 2, false, 8, 4⟩, 2) ∧
    decodeWords [0x01000003, 0x78C60006] = .ok (.rclampW ⟨some 3, false, 6, 6⟩, 2) ∧
    decodeWords [0x01000009, 0x794C0006] = .ok (.adjb ⟨some 9, false, 12, 6⟩, 2) ∧
    decodeWords [0x79800004] = .ok (.wrel ⟨false, 4⟩, 1) ∧ decodeWords [0x78220424] = .ok (.rmaxWCr ⟨false, 2, 1, 4, 2, false⟩, 1) ∧
    decodeWords [0x4C140820] = .ok (.atomAdd ⟨none, false, 5, 1, 2, false, false⟩, 1) ∧
    decodeWords [0x7C002C00, 0x4C000820] = .ok (.redAdd ⟨some (pfx 11), false, 1, 2, false, false⟩, 2) ∧
    decodeWords [0x4E0C206C] = .ok (.atomCas ⟨none, false, 3, 4, 6, false, false⟩, 1) ∧
    decodeWords [0x50000003] = .ok (.fence ⟨false, 3⟩, 1) := by decide

theorem test_decode_barrier_encodings :
    decodeWords [0x51000005] = .ok (.tfence ⟨false, 5⟩, 1) ∧
    decodeWords [0x53000000] = .ok (.barSync ⟨false, 0⟩, 1) ∧ decodeWords [0x52800003] = .ok (.barWait ⟨false, 3⟩, 1) ∧
    decodeWords [0x540E0007] = .ok (.abarInit ⟨false, 14, 7⟩, 1) ∧ decodeWords [0x550F0007] = .ok (.abarWait ⟨false, 15, 7⟩, 1) ∧
    decodeWords [0x56000001] = .ok (.qpush ⟨false, 0, 1⟩, 1) ∧ decodeWords [0x568C0002] = .ok (.qpop ⟨false, 12, 2⟩, 1) ∧
    decodeWords [0x57800000] = .ok (.qclose ⟨false, 0⟩, 1) := by decide

/-- R62 and R81, bit by bit: integer, special-register, vector and spectral words. -/
theorem test_decode_written_out :
    decodeWords [0b0_000100_0000011_0000001_0000010_00_1_0] = .ok (.iadd ⟨none, false, 3, 1, 2, true, false⟩, 1) ∧
    decodeWords [0b1_000011_000010000_00_00000_00_0000101] = .ok (.srd ⟨true, 0x10, 0, 5⟩, 1) ∧
    decodeWords [0b0_010010_0000111_0001000_0001001_00_00] = .ok (.fdiv ⟨none, false, 7, 8, 9, false, false⟩, 1) ∧
    decodeWords [0b0_101100_00_00011_00_00100_00_00101_00_01] = .ok (.sadd ⟨none, false, 3, 4, 5, false, true⟩, 1) := by decide

/-- Words that R82 gives as examples: a reserved major, a prefix with a reserved bit, a word with no cell. -/
theorem test_decode_refuses : decodeWords [0x2C000000] = .error .unassigned ∧ decodeWords [0x7C000001, 0x20000000] = .error .badPrefix ∧
    decodeWords [0x7C002000, 0x04001002] = .error .prefixRefused ∧ decodeWords [0x81000003, 0x68000000] = .error .objectRefused := by decide

/-- The stamp of R76's example: die fmac fills d, a and b and carries C to the base. -/
theorem test_stamp_of_the_example : expandWords ⟨0x7C044000, 0x2000000C, 0xC9040180⟩ ⟨true, 5, 2, 4, 5⟩ = .ok [0x7C044000, 0xA048205C] ∧
    decodeWords [0x7C044000, 0xA048205C] = .ok (.ffma ⟨some ⟨0, false, 2, 16, false, 0⟩, true, 18, 4, 5, false, false⟩, 2) := by decide

/-- Whether each word, with what is bound before it, decodes to its instruction and takes all the words. -/
def decodes (rows : List (List Nat × Instr)) : Bool :=
  rows.all fun r => decide (decodeWords r.1 = .ok (r.2, r.1.length))

/-- R81: a word of each of nop to ctxload, its fixed bits and fields laid out as the opcode table gives them. -/
theorem test_decode_nop : decodes [
    ([0x00000000], .nop ⟨false⟩),
    ([0x80010000], .exit ⟨true⟩),
    ([0x00020000], .yield ⟨false⟩),
    ([0x80030000], .rte ⟨true⟩),
    ([0x000300A4], .rtePc ⟨false, 36⟩),
    ([0x8004002B], .tfill ⟨true, 43⟩),
    ([0x00050032], .rqcount ⟨false, 50⟩),
    ([0x80069E43], .rqread ⟨true, 9, 14, 67⟩),
    ([0x0007054A], .rqwrite ⟨false, 0, 5, 74⟩),
    ([0x80080700], .rqdrop ⟨true, 7⟩),
    ([0x00090000], .dield ⟨false, 0⟩),
    ([0x800A0001], .diebank ⟨true, 1⟩),
    ([0x000B0000], .syncDie ⟨false⟩),
    ([0x800C31E8], .launch ⟨true, 99, 104⟩),
    ([0x000D006A], .trap ⟨false, 106⟩),
    ([0x800E0071], .bkpt ⟨true, 113⟩),
    ([0x0180007D], .tlbinv ⟨false, 0, 125⟩),
    ([0x81810084], .otinv ⟨true, 1, 4⟩),
    ([0x01820006], .ctxsave ⟨false, 6⟩),
    ([0x8183000D], .ctxload ⟨true, 13⟩)] = true := by decide

/-- R81: a word of each of br to iand, its fixed bits and fields laid out as the opcode table gives them. -/
theorem test_decode_br : decodes [
    ([0x0212009E], .br ⟨false, 4, 1, 158⟩),
    ([0x8240009B], .call ⟨true, 155⟩),
    ([0x02800000], .ret ⟨false⟩),
    ([0x82EB80B3], .reform ⟨true, true, 46, 179⟩),
    ([0x03C03024, 0x030D40BA], .reformX ⟨some ⟨0, 12, 1, 2⟩, false, false, 53, 186⟩),
    ([0x836F0000], .calli ⟨true, true, 60⟩),
    ([0x0402F8C3], .loopImm ⟨false, 190, 195⟩),
    ([0x84C128CF], .loopReg ⟨true, true, 74, 207⟩),
    ([0x06CC00D6], .srd ⟨false, 204, 1, 86⟩),
    ([0x86D3405D], .swr ⟨true, 211, 0, 93⟩),
    ([0x061A805F], .movConst ⟨false, 26, 95⟩),
    ([0x898736B1], .iadd ⟨none, true, 97, 102, 107, false, true⟩),
    ([0x09A36F26], .isub ⟨none, false, 104, 109, 114, true, false⟩),
    ([0x89BFA799], .imul ⟨none, true, 111, 116, 121, false, true⟩),
    ([0x09DBD80E], .imulh ⟨none, false, 118, 123, 0, true, false⟩),
    ([0x8BF41071], .imin ⟨none, true, 125, 2, 7, false, true⟩),
    ([0x0A1048E6], .imax ⟨none, false, 4, 9, 14, true, false⟩),
    ([0x8A2C800A], .iabs ⟨none, true, 11, 16, true⟩),
    ([0x0A48B80C], .ineg ⟨none, false, 18, 23, false⟩),
    ([0x8C64F231], .iand ⟨none, true, 25, 30, 35, false, true⟩)] = true := by decide

/-- R81: a word of each of ior to isub64, its fixed bits and fields laid out as the opcode table gives them. -/
theorem test_decode_ior : decodes [
    ([0x0C812AA6], .ior ⟨none, false, 32, 37, 42, true, false⟩),
    ([0x8C9D6319], .ixor ⟨none, true, 39, 44, 49, false, true⟩),
    ([0x0CB99B8E], .iandn ⟨none, false, 46, 51, 56, true, false⟩),
    ([0x8ED5D3F1], .ishl ⟨none, true, 53, 58, 63, false, true⟩),
    ([0x0EF20C66], .ishr ⟨none, false, 60, 65, 70, true, false⟩),
    ([0x8F0E44D9], .isar ⟨none, true, 67, 72, 77, false, true⟩),
    ([0x0F2A7D4E], .irol ⟨none, false, 74, 79, 84, true, false⟩),
    ([0x9146B5B1], .imad ⟨none, true, 81, 86, 91, false, true⟩),
    ([0x1162EE26], .imadh ⟨none, false, 88, 93, 98, true, false⟩),
    ([0x917F2699], .isad ⟨none, true, 95, 100, 105, false, true⟩),
    ([0x119B580C], .ipopc ⟨none, false, 102, 107, false⟩),
    ([0x93B79002], .iclz ⟨none, true, 109, 114, true⟩),
    ([0x13D3C804], .ictz ⟨none, false, 116, 121, false⟩),
    ([0x93EC000A], .ibrev ⟨none, true, 123, 0, true⟩),
    ([0x120838CE], .ibfx ⟨none, false, 2, 7, 12, true, false⟩),
    ([0x94247131], .idiv ⟨none, true, 9, 14, 19, false, true⟩),
    ([0x1440A9A6], .irem ⟨none, false, 16, 21, 26, true, false⟩),
    ([0x945CE00A], .mov ⟨none, true, 23, 28, true⟩),
    ([0x16791A82], .iadd64 ⟨none, false, 30, 35, 40, true, false⟩),
    ([0x969552F5], .isub64 ⟨none, true, 37, 42, 47, false, true⟩)] = true := by decide

/-- R81: a word of each of ishl64 to fdiv, its fixed bits and fields laid out as the opcode table gives them. -/
theorem test_decode_ishl64 : decodes [
    ([0x16B18B6A], .ishl64 ⟨none, false, 44, 49, 54, true, false⟩),
    ([0x96CDC3DD], .ishr64 ⟨none, true, 51, 56, 61, false, true⟩),
    ([0x18E9F9C9], .iaddi ⟨none, false, 58, 63, false, 457⟩),
    ([0x9B0635D0], .imuli ⟨none, true, 65, 70, true, 464⟩),
    ([0x1D2268D7], .iandi ⟨none, false, 72, 77, false, 215⟩),
    ([0x9D3EA5DE], .iori ⟨none, true, 79, 84, true, 222⟩),
    ([0x1D5ADAE5], .ixori ⟨none, false, 86, 91, false, 229⟩),
    ([0x9F77140C], .ishli ⟨none, true, 93, 98, true, 12⟩),
    ([0x1F934913], .ishri ⟨none, false, 100, 105, false, 19⟩),
    ([0x9FAF861A], .isari ⟨none, true, 107, 112, true, 26⟩),
    ([0x1FCBBB01], .iroli ⟨none, false, 114, 119, false, 1⟩),
    ([0xA1E7F031], .fadd ⟨none, true, 121, 126, 3, false, true⟩),
    ([0x200028A6], .fsub ⟨none, false, 0, 5, 10, true, false⟩),
    ([0xA01C6119], .fmul ⟨none, true, 7, 12, 17, false, true⟩),
    ([0x2038998E], .ffma ⟨none, false, 14, 19, 24, true, false⟩),
    ([0xA254D1F1], .fmin ⟨none, true, 21, 26, 31, false, true⟩),
    ([0x22710A66], .fmax ⟨none, false, 28, 33, 38, true, false⟩),
    ([0xA28D400A], .fabs ⟨none, true, 35, 40, true⟩),
    ([0x22A9780C], .fneg ⟨none, false, 42, 47, false⟩),
    ([0xA4C5B3B1], .fdiv ⟨none, true, 49, 54, 59, false, true⟩)] = true := by decide

/-- R81: a word of each of fsqrt to dadd, its fixed bits and fields laid out as the opcode table gives them. -/
theorem test_decode_fsqrt : decodes [
    ([0x24E1E804], .fsqrt ⟨none, false, 56, 61, false⟩),
    ([0xA4FE200A], .frcp ⟨none, true, 63, 68, true⟩),
    ([0x251A580C], .frsq ⟨none, false, 70, 75, false⟩),
    ([0xA7369002], .ffloor ⟨none, true, 77, 82, true⟩),
    ([0x2752C804], .fceil ⟨none, false, 84, 89, false⟩),
    ([0xA76F000A], .ftrunc ⟨none, true, 91, 96, true⟩),
    ([0x278B380C], .frint ⟨none, false, 98, 103, false⟩),
    ([0xA9A77002], .fclass ⟨none, true, 105, 110, true⟩),
    ([0x29C3AFA6], .fcopys ⟨none, false, 112, 117, 122, true, false⟩),
    ([0xA9DFE019], .fscale ⟨none, true, 119, 124, 1, false, true⟩),
    ([0x29F8180C], .ffrac ⟨none, false, 126, 3, false⟩),
    ([0xAA145030], .ftab ⟨none, true, 5, 10, 3, false⟩),
    ([0x2A006066], .ftabld ⟨none, false, 12, 1, 2, true⟩),
    ([0xAA000048], .ftabbank ⟨none, true, 1, 0⟩),
    ([0x2A68FA4E], .rand ⟨none, false, 26, 31, 36, true, false⟩),
    ([0xB08532B1], .hadd ⟨none, true, 33, 38, 43, false, true⟩),
    ([0x30A16B26], .hsub ⟨none, false, 40, 45, 50, true, false⟩),
    ([0xB0BDA399], .hmul ⟨none, true, 47, 52, 57, false, true⟩),
    ([0x30D9DC0E], .hfma ⟨none, false, 54, 59, 64, true, false⟩),
    ([0xB2F61471], .dadd ⟨none, true, 61, 66, 71, false, true⟩)] = true := by decide

/-- R81: a word of each of dsub to pandn, its fixed bits and fields laid out as the opcode table gives them. -/
theorem test_decode_dsub : decodes [
    ([0x33124CE6], .dsub ⟨none, false, 68, 73, 78, true, false⟩),
    ([0xB32E8559], .dmul ⟨none, true, 75, 80, 85, false, true⟩),
    ([0x334ABDCE], .dfma ⟨none, false, 82, 87, 92, true, false⟩),
    ([0xB566F702], .cvt ⟨none, true, 89, 94, 3, 8, true⟩),
    ([0x35832DE4], .cvts ⟨none, false, 96, 101, 2, 15, false⟩),
    ([0xB59F60EA], .pack ⟨none, true, 103, 108, 1, 6, true⟩),
    ([0x35BB9C5C], .unpack ⟨none, false, 110, 115, 8, 5, false⟩),
    ([0xB7D7D002], .fexp2 ⟨none, true, 117, 122, true⟩),
    ([0x37F00804], .flog2 ⟨none, false, 124, 1, false⟩),
    ([0xB60C400A], .fsin ⟨none, true, 3, 8, true⟩),
    ([0x3628780C], .fcos ⟨none, false, 10, 15, false⟩),
    ([0xB858DA02], .icmp ⟨none, true, 1, 6, 27, 32, true, false⟩),
    ([0x38351275], .fcmp ⟨none, false, 0, 13, 34, 39, false, true⟩),
    ([0xB9D14AEA], .hcmp ⟨none, true, 7, 4, 41, 46, true, false⟩),
    ([0x39AD835D], .dcmp ⟨none, false, 6, 11, 48, 53, false, true⟩),
    ([0xBB49BB41], .icmpi ⟨none, true, 5, 2, 55, false, 833⟩),
    ([0x3C1048E0], .pand ⟨none, false, 4, 9, 14⟩),
    ([0xBC2C0054], .por ⟨none, true, 11, 0, 5⟩),
    ([0x3C0838C8], .pxor ⟨none, false, 2, 7, 12⟩),
    ([0xBC24703C], .pandn ⟨none, true, 9, 14, 3⟩)] = true := by decide

/-- R81: a word of each of sel to redAnd, its fixed bits and fields laid out as the opcode table gives them. -/
theorem test_decode_sel : decodes [
    ([0x3F42ADA2], .sel ⟨none, false, 80, 85, 90, true, false⟩),
    ([0xBF5C6004], .ktov ⟨none, true, 87, 12⟩),
    ([0x3E3B1808], .vtok ⟨none, false, 14, 99, false⟩),
    ([0xC3AB797E], .ld ⟨none, true, 5, 106, 111, false, 126⟩),
    ([0x45C7B485], .st ⟨none, false, 0, 113, 118, true, 133⟩),
    ([0xCBE3EB04], .ldAcq ⟨none, true, 7, 120, 125, false, 4⟩),
    ([0x49FC2623], .stRel ⟨none, false, 2, 127, 4, true, 3⟩),
    ([0xCA043440], .waitv ⟨none, true, 1, 6, true⟩),
    ([0x4C206922], .atomAdd ⟨none, false, 8, 13, 18, true, false⟩),
    ([0xCC3CA195], .atomMin ⟨none, true, 15, 20, 25, false, true⟩),
    ([0x4C58DA0A], .atomMax ⟨none, false, 22, 27, 32, true, false⟩),
    ([0xCC75127D], .atomExch ⟨none, true, 29, 34, 39, false, true⟩),
    ([0x4E914AE2], .atomAnd ⟨none, false, 36, 41, 46, true, false⟩),
    ([0xCEAD8355], .atomOr ⟨none, true, 43, 48, 53, false, true⟩),
    ([0x4EC9BBCA], .atomXor ⟨none, false, 50, 55, 60, true, false⟩),
    ([0xCEE5F43D], .atomCas ⟨none, true, 57, 62, 67, false, true⟩),
    ([0x7C002000, 0x4C020451], .redAdd ⟨some (pfx 8), false, 64, 69, false, true⟩),
    ([0x7C002000, 0xCC023CC6], .redMin ⟨some (pfx 8), true, 71, 76, true, false⟩),
    ([0x7C002000, 0x4C027539], .redMax ⟨some (pfx 8), false, 78, 83, false, true⟩),
    ([0x7C002000, 0xCE02ADA2], .redAnd ⟨some (pfx 8), true, 85, 90, true, false⟩)] = true := by decide

/-- R81: a word of each of redOr to smul, its fixed bits and fields laid out as the opcode table gives them. -/
theorem test_decode_redOr : decodes [
    ([0x7C002000, 0x4E02E615], .redOr ⟨some (pfx 8), false, 92, 97, false, true⟩),
    ([0x7C002000, 0xCE031E8A], .redXor ⟨some (pfx 8), true, 99, 104, true, false⟩),
    ([0x50000002], .fence ⟨false, 2⟩),
    ([0xD08038F6], .qfence ⟨true, 113, 118⟩),
    ([0x51000000], .tfence ⟨false, 0⟩),
    ([0xD20000FF], .barArrive ⟨true, 255⟩),
    ([0x52800006], .barWait ⟨false, 6⟩),
    ([0xD300000D], .barSync ⟨true, 13⟩),
    ([0x53940019], .cvdecl ⟨false, 20, 25⟩),
    ([0xD41B0420], .abarInit ⟨true, 27, 1056⟩),
    ([0x54A20427], .abarArrive ⟨false, 34, 1063⟩),
    ([0xD529042E], .abarWait ⟨true, 41, 1070⟩),
    ([0x55B00435], .abarTest ⟨false, 48, 1077⟩),
    ([0xD637001C], .qpush ⟨true, 55, 28⟩),
    ([0x56BE0003], .qpop ⟨false, 62, 3⟩),
    ([0xD745000A], .qcount ⟨true, 69, 10⟩),
    ([0x5780000C], .qclose ⟨false, 12⟩),
    ([0xD84CC1D1], .sadd ⟨none, true, 19, 24, 29, false, true⟩),
    ([0x5868F846], .ssub ⟨none, false, 26, 31, 4, true, false⟩),
    ([0xD80430B9], .smul ⟨none, true, 1, 6, 11, false, true⟩)] = true := by decide

/-- R81: a word of each of sfma to filmAdd, its fixed bits and fields laid out as the opcode table gives them. -/
theorem test_decode_sfma : decodes [
    ([0x5820692E], .sfma ⟨none, false, 8, 13, 18, true, false⟩),
    ([0xDA3CA191], .smin ⟨none, true, 15, 20, 25, false, true⟩),
    ([0x5A58D806], .smax ⟨none, false, 22, 27, 0, true, false⟩),
    ([0xDA741079], .sdiv ⟨none, true, 29, 2, 7, false, true⟩),
    ([0x5A10480C], .ssqrt ⟨none, false, 4, 9, false⟩),
    ([0xDC2C8002], .sexp ⟨none, true, 11, 16, true⟩),
    ([0x5C48B804], .shsum ⟨none, false, 18, 23, false⟩),
    ([0xDC64F039], .sdot ⟨none, true, 25, 30, 3, false, true⟩),
    ([0x5C01280C], .sbcast ⟨none, false, 0, 37, false⟩),
    ([0xDE9C6010], .slane ⟨none, true, 39, 12, 1, false⟩),
    ([0x5E399806], .sins ⟨none, false, 14, 51, 0, true⟩),
    ([0xDF68F84A], .scmp ⟨none, true, 5, 10, 31, 4, true, false⟩),
    ([0x5E70086E], .ssel ⟨none, false, 28, 1, 6, true, false⟩),
    ([0xE10C40C2], .scvtNarrow ⟨none, true, 67, 8, 1, 2, true⟩),
    ([0x602A7812], .scvtWiden ⟨none, false, 10, 79, 0, true⟩),
    ([0xE046B1B4], .swls ⟨none, true, 17, 86, 27, false⟩),
    ([0x6260E822], .spol ⟨none, false, 24, 29, 2, true, false⟩),
    ([0xE27F2095], .sfres ⟨none, true, 31, 100, 9, false, true⟩),
    ([0x6218590A], .smdiel ⟨none, false, 6, 11, 16, true, false⟩),
    ([0xE66D95C0], .filmAdd ⟨none, true, 109, 18, 23⟩)] = true := by decide

/-- R81: a word of each of filmRd to accld, its fixed bits and fields laid out as the opcode table gives them. -/
theorem test_decode_filmRd : decodes [
    ([0x010000B5, 0x66F4F3F8], .filmRd ⟨some 181, false, 116, 121, 126⟩),
    ([0xE77B0000], .rast ⟨none, true, 123, 0⟩),
    ([0x67820E30], .visrd ⟨none, false, 2, 7, 12⟩),
    ([0x010000B8, 0xE8097000], .trace ⟨some 184, true, 9, 14⟩),
    ([0x6890A800], .tracea ⟨none, false, 16, 21⟩),
    ([0xE9173800], .callsh ⟨true, 23, 28⟩),
    ([0x69800000], .retsh ⟨false⟩),
    ([0xEA1453C0], .stex ⟨none, true, 5, 10, 15⟩),
    ([0x6AB08D80], .stexup ⟨none, false, 12, 17, 22⟩),
    ([0x010000BE, 0xEB4CC740], .scmf ⟨some 190, true, 19, 24, 29⟩),
    ([0x6C5F0544], .cast ⟨none, false, 2, 31, 1348⟩),
    ([0xECA6054B], .castT8 ⟨none, true, 1, 6, 1355⟩),
    ([0x010000C1, 0x6D0D0552], .castT16 ⟨some 193, false, 0, 13, 1362⟩),
    ([0xEE60A800], .castw ⟨none, true, 3, 84⟩),
    ([0x6E50B600], .castwCb3 ⟨none, false, 2, 91⟩),
    ([0x010000C4, 0xEEA0C59C], .casttab ⟨some 196, true, 1, 98, 103⟩),
    ([0x74487700], .mma ⟨none, false, 36, 1, 110⟩),
    ([0xF4D63AFA], .mmas ⟨none, true, 43, 0, 117, 122⟩),
    ([0x7565C000], .accz ⟨false, 50, 7⟩),
    ([0xF5F38000], .accld ⟨none, true, 57, 6⟩)] = true := by decide

/-- R81: a word of each of accst to stamp, its fixed bits and fields laid out as the opcode table gives them. -/
theorem test_decode_accst : decodes [
    ([0x76014100], .accst ⟨none, false, 0, 5, 2⟩),
    ([0x010000CA, 0xF68F0080], .accstAdd ⟨some 202, true, 7, 4, 1⟩),
    ([0x771CCC1D], .accrd ⟨false, 14, 3, 24, 29⟩),
    ([0xF7AA8000], .mseq ⟨none, true, 21, 2⟩),
    ([0x010000CD, 0x781C05A1], .rmaxW ⟨some 205, false, 28, 1441⟩),
    ([0xF84305A8], .rminW ⟨none, true, 3, 1448⟩),
    ([0x788A05AF], .rmedW ⟨none, false, 10, 1455⟩),
    ([0x010000D0, 0xF8D105B6], .rclampW ⟨some 208, true, 17, 1462⟩),
    ([0x791805BD], .rssumW ⟨none, false, 24, 1469⟩),
    ([0xF95F05C4], .adjb ⟨none, true, 31, 1476⟩),
    ([0x798005C6], .wrel ⟨false, 1478⟩),
    ([0xF82D4AB9], .rmaxWCr ⟨true, 13, 18, 87, 0, true⟩),
    ([0x787466F6], .rminWCr ⟨false, 20, 25, 94, 3, false⟩),
    ([0xF8BB832D], .rmedWCr ⟨true, 27, 32, 101, 2, true⟩),
    ([0x78E29F62], .rclampWCr ⟨false, 2, 39, 108, 1, false⟩),
    ([0xF929BB99], .rssumWCr ⟨true, 9, 46, 115, 0, true⟩),
    ([0x7A7005F5], .fcoll ⟨false, 112, 1525⟩),
    ([0xFAF705FC], .fsend ⟨true, 119, 1532⟩),
    ([0x7B7E0603], .fwin ⟨false, 126, 1539⟩),
    ([0xFF02A9F4], .stamp ⟨true, 517, 10, 15, 20⟩)] = true := by decide

/-! ## Small states -/

/-- v0 to v31, each full and holding its number; w0 to w15, each lane 1.0. -/
def fullRegs : Map VReg := (List.range 32).map fun n => (n, ⟨BitVec.ofNat 32 n, .full⟩)
def fullLanes : Map WReg := (List.range 16).map fun n => (n, ⟨0x3F800000, 0x3F800000, 0x3F800000, 0x3F800000, .full⟩)

/-- A thread of context 0 in cell 1 of launch 1, in the first crucible of its partition. -/
def aThread : Thread :=
  { ctx := 0, launch := 1, cell := 1, vregs := 32, wregs := 16, v := fullRegs, w := fullLanes, place := .crucible 0 }

/-- The chain of one instruction that thread 1 issues in slot 0, at word 0 unless said. -/
def aChain (i : Instr) (pc : Nat := 0) : Issue :=
  { ctx := 0, tile := 0, part := 0, slots := [(0, 1)], first := pc, rpc := pc + lengthOf i, cur := { instr := i, pc := pc } }

/-- The page of 2^30 bytes at address 0 of context 0, for every access. -/
def aPage : Tlb := { ctx := 0, vpage := 0, bits := 30, base := 0, r := true, w := true, x := true, priv := false, nrd := true, cow := false }

/-- A tile that holds the page and the object-table entries given, by index. -/
def aTile (objs : List (Nat × List (BitVec 64)) := []) : Tile :=
  { tlb := [aPage], otCache := objs.map fun o => { ctx := 0, index := o.1, words := o.2 } }

/-- A privileged context with 16 object-table entries, and a cell with a slice of 4,096 bytes. -/
def aContext : Context := { privileged := true, otcount := 16 }
def aCell : Cell := { ctx := 0, launch := 1, tile := 0, slice := 0x8000000000, sliceLen := 4096 }

/-- Thread 1 with nothing issuing. -/
def still (t : Thread := aThread) (objs : List (Nat × List (BitVec 64)) := []) : State :=
  { ctxs := [(0, aContext)], threads := [(1, t)], nextId := 2, cells := [(1, aCell)], tiles := [(0, aTile objs)] }

/-- Thread 1 issuing one instruction. -/
def one (i : Instr) (t : Thread := aThread) (objs : List (Nat × List (BitVec 64)) := []) : State :=
  { still t objs with issue := some (aChain i) }

/-- The lane of thread 1 for an instruction. -/
def laneOf (s : State) (i : Instr) : Lane := (((aChain i).lanes s i 0).head?.map Prod.fst).getD ⟨1, 0, aThread, {}, .rne, 0⟩

/-! ## Statements about computing words -/

/-- Thread 1 issues the instruction, and its sources stop it nowhere. -/
def Ready (i : Instr) : Prop :=
  Issues (one i) (aChain i) i ∧ (aChain i).lanes (one i) i 0 ≠ [] ∧ ∀ x ∈ (aChain i).lanes (one i) i 0,
    x.2 = true ∧ emptyCause (x.1.th.sourcesOf ((one i).privileged 0) 0 i) x.1.cap = none ∧
    uninitCause (x.1.th.sourcesOf ((one i).privileged 0) 0 i) x.1.cap = none ∧ x.1.th.fpctl = 0

theorem condCause_masked (c : Conds) : condCause 0 c = none := by rcases c with ⟨a, b, c, d, e⟩; revert a b c d e; decide +kernel

/-- A word that is ready meets the hypotheses of `Computes` with every outcome that is no trap: FPCTL enables no exception. -/
theorem ready_clear {i : Instr} {g : Lane → LaneOut} (h : Ready i) (hg : ∀ l, (g l).trap = none) :
    Issues (one i) (aChain i) i ∧ Clear (one i) (aChain i) i g := by
  refine ⟨h.1, fun x hx _ => ?_⟩
  obtain ⟨-, h1, h2, h3⟩ := h.2.2 x hx
  exact ⟨h1, h2, hg _, by rw [h3]; exact condCause_masked _⟩

/-- Forms with registers that every operand length admits. -/
def a3 : A3Form := ⟨none, false, 4, 2, 6, false, false⟩
def a2 : A2Form := ⟨none, false, 4, 2, false⟩
def i10 : I10Form := ⟨none, false, 4, 2, false, 5⟩
def i8 : I8Form := ⟨none, false, 4, 2, false, 5⟩
def i5 : I5Form := ⟨none, false, 4, 2, false, 31⟩
def s3 : S3Form := ⟨none, false, 4, 0, 8, false, false⟩
def cmp : CmpForm := ⟨none, false, 5, 1, 2, 6, false, false⟩

theorem witness_IntegerSumsAndProducts : ∀ i ∈ [Instr.iadd a3, .isub a3, .imul a3, .imulh a3, .imad ⟨some (pfx 8), false, 4, 2, 6, false, false⟩,
    .imadh ⟨some (pfx 8), false, 4, 2, 6, false, false⟩, .isad ⟨some (pfx 8), false, 4, 2, 6, false, false⟩], Ready i := by
  unfold Ready Issues; decide +kernel

theorem witness_IntegerSelectsShiftsAndBits : ∀ i ∈ [Instr.imin a3, .imax a3, .iabs a2, .ineg a2, .iand a3, .ior a3, .ixor a3, .iandn a3,
    .ishl a3, .ishr a3, .isar a3, .irol a3, .ipopc a2, .iclz a2, .ictz a2, .ibrev a2, .ibfx a3], Ready i := by
  unfold Ready Issues; decide +kernel

theorem witness_DivisionMovesAndPairs : ∀ i ∈ [Instr.idiv a3, .irem a3, .mov a2, .iaddi i10, .imuli i10, .iandi i8, .iori i8, .ixori i8,
    .ishli i5, .ishri i5, .isari i5, .iroli i5, .iadd64 a3, .isub64 a3, .ishl64 a3, .ishr64 a3], Ready i := by
  unfold Ready Issues; decide +kernel

theorem witness_ComparesAndPredicates : ∀ i ∈ [Instr.icmp cmp, .icmpi ⟨none, false, 5, 1, 2, false, 1023⟩, .pand ⟨none, false, 1, 0, 2⟩,
    .por ⟨none, false, 1, 0, 2⟩, .pxor ⟨none, false, 1, 0, 2⟩, .pandn ⟨none, false, 1, 0, 2⟩,
    .sel ⟨some (pfx 15), false, 4, 2, 6, false, false⟩, .ktov ⟨none, false, 4, 15⟩, .vtok ⟨none, false, 15, 2, false⟩], Ready i := by
  unfold Ready Issues; decide +kernel

theorem witness_SinglePrecisionArithmetic : ∀ i ∈ [Instr.fadd a3, .fsub a3, .fmul a3, .ffma ⟨some (pfx 8), false, 4, 2, 6, false, false⟩, .fdiv a3,
    .fmin a3, .fmax a3, .fscale a3, .fcmp cmp], Ready i := by unfold Ready Issues; decide +kernel

theorem witness_SinglePrecisionFunctions : ∀ i ∈ [Instr.fabs a2, .fneg a2, .fcopys a3, .fsqrt a2, .frcp a2, .frsq a2, .ffloor a2, .fceil a2,
    .ftrunc a2, .frint a2, .ffrac a2, .fexp2 a2, .flog2 a2, .fsin a2, .fcos a2, .fclass a2, .rand a3, .ftab ⟨none, false, 4, 2, 3, false⟩],
    Ready i := by unfold Ready Issues; decide +kernel

theorem witness_HalvesDoublesAndConversions : ∀ i ∈ [Instr.hadd a3, .hsub a3, .hmul a3, .hfma ⟨some (pfx 8), false, 4, 2, 6, false, false⟩, .hcmp cmp,
    .dadd a3, .dsub a3, .dmul a3, .dfma ⟨some (pfx 8), false, 4, 2, 6, false, false⟩, .dcmp cmp, .cvt ⟨none, false, 4, 2, 1, 15, false⟩,
    .cvts ⟨none, false, 4, 2, 0, 3, false⟩, .pack ⟨none, false, 4, 2, 2, 1, false⟩, .unpack ⟨none, false, 4, 2, 15, 7, false⟩], Ready i := by
  unfold Ready Issues; decide +kernel

theorem witness_SpectralWords : ∀ i ∈ [Instr.sadd s3, .ssub s3, .smul s3, .sfma ⟨some (pfx 12), false, 4, 0, 8, false, false⟩, .smin s3, .smax s3,
    .sdiv s3, .ssqrt ⟨none, false, 4, 0, false⟩, .sexp ⟨none, false, 4, 0, false⟩, .shsum ⟨none, false, 4, 0, false⟩,
    .sdot ⟨none, false, 4, 0, 8, false, false⟩, .swls ⟨none, false, 1, 2, 62, false⟩, .spol s3, .sfres ⟨none, false, 4, 2, 0, false, false⟩,
    .smdiel s3, .sbcast ⟨none, false, 4, 2, false⟩, .slane ⟨none, false, 4, 2, 3, false⟩, .sins ⟨none, false, 4, 2, 3, false⟩,
    .ssel ⟨some (pfx 8), false, 4, 0, 8, false, false⟩, .scmp ⟨none, false, 5, 1, 0, 8, false, false⟩,
    .scvtNarrow ⟨none, false, 4, 0, 0, 0, false⟩, .scvtWiden ⟨none, false, 4, 2, 0, false⟩], Ready i := by unfold Ready Issues; decide +kernel

/-- The words that trap where nothing traps: the conversions and the reads of special registers. -/
theorem witness_SpecialReads : ∀ i ∈ [Instr.srd ⟨false, 0x10, 0, 4⟩, .srd ⟨false, 0x101, 2, 4⟩, .srd ⟨false, 0x0A, 0, 4⟩, .movConst ⟨false, 63, 4⟩],
    Ready i := by unfold Ready Issues; decide +kernel

/-- A thread in a handler, which TRAP at word 3 with code 1 entered, with one held entry in its frozen queue. -/
def inHandler : Thread :=
  { aThread with
    place := .pinned 9, frozen := true, utvec := 30
    frame := some { group := 9, slot := 0, pc := 3, rpc := 4, stamp := false, db := false, cause := 17, mask := 1, info := 1, dst := { cls := 0, num := 4, count := 1 }, hfloor := 0 }
    replay := [{ id := 1, instr := .ld ⟨none, false, 4, 12, 5, false, 0⟩, pc := 2, lanes := 1, dst := { cls := 0, num := 12, count := 1 }, stopped := true }] }

/-- An instruction meets the hypotheses of `Solo` in a thread. -/
def Meets (i : Instr) (t : Thread := aThread) (objs : List (Nat × List (BitVec 64)) := []) : Prop :=
  Solo (one i t objs) (aChain i) i (laneOf (one i t objs) i)

/-- An instruction meets those of `Alone`, and no source of its stops it. -/
def MeetsAlone (i : Instr) (t : Thread := aThread) (objs : List (Nat × List (BitVec 64)) := []) : Prop :=
  Alone (one i t objs) (aChain i) i (laneOf (one i t objs) i) ∧ emptyCause (staticSources i) (laneOf (one i t objs) i).cap = none ∧
    uninitCause (staticSources i) (laneOf (one i t objs) i).cap = none

theorem witness_SpecialReads_handler : ∀ i ∈ [Instr.rqcount ⟨false, 4⟩, .rqread ⟨false, 0, 0, 4⟩, .rqread ⟨false, 3, 15, 4⟩],
    Issues (one i inHandler) (aChain i) i ∧ ∀ x ∈ (aChain i).lanes (one i inHandler) i 0, x.2 = true ∧
      emptyCause (x.1.th.sourcesOf ((one i inHandler).privileged 0) 0 i) x.1.cap = none ∧
      uninitCause (x.1.th.sourcesOf ((one i inHandler).privileged 0) 0 i) x.1.cap = none := by
  unfold Issues; decide +kernel

/-- Every register that SWR may name, and the values at the edges of those that refuse some. -/
theorem witness_SpecialRegisterWrites : ∀ n ∈ [0x005, 0x006, 0x009, 0x00A, 0x010, 0x011, 0x100, 0x101, 0x102, 0x103, 0x104, 0x106, 0x110, 0x11F, 0x122, 0x124,
    0x000, 0x001, 0x002, 0x003, 0x004, 0x007, 0x008, 0x00B, 0x00C, 0x00D, 0x00E, 0x00F, 0x020, 0x021, 0x022, 0x023, 0x024, 0x105, 0x121, 0x123, 0x125],
    Meets (.swr ⟨false, BitVec.ofNat 9 n, 0, 0⟩) := by unfold Meets Solo; decide +kernel

theorem witness_SpecialRegisterWrites_refused : MeetsAlone (.swr ⟨false, 0x005, 0, 2⟩) ∧ MeetsAlone (.swr ⟨false, 0x011, 0, 2⟩) ∧
    MeetsAlone (.swr ⟨false, 0x010, 0, 2⟩) { aThread with v := [(2, ⟨96, .full⟩)] } ∧ (96 : Nat) / 16 % 8 = 6 ∧
    (laneOf (one (.swr ⟨false, 0x010, 0, 2⟩) { aThread with v := [(2, ⟨96, .full⟩)] }) (.swr ⟨false, 0x010, 0, 2⟩)).a = 96 := by
  unfold MeetsAlone Alone; decide +kernel

theorem witness_SpecialRegisterWrites_refphase :
    (still.reach aThread 0 1 .read).1 = .ok 0 true ∧ regionOf ((still.reach aThread 0 1 .read).2.localPa 0) = .hbm ∧
    (still.reach aThread 0xFFC00000 1 .read).1 = .ok 0x8000000000 false := by decide +kernel

theorem witness_DestinationWrites : ∃ d d' d'' : Dest, d.cls = 0 ∧ d.count ≤ [1#32, 2#32].length ∧ d.count = 2 ∧ d'.cls = 1 ∧ d''.cls = 2 ∧ d''.num < 16 ∧
    d''.num = 15 := ⟨⟨0, 126, 2⟩, ⟨1, 31, 1⟩, ⟨2, 15, 1⟩, by decide⟩

/-! ## Statements about traps and control words -/

/-- A thread whose FPCTL enables the invalid-operation trap; v2 holds a signalling NaN, v8 is empty and v10 was never written. -/
def trapping : Thread := { aThread with fpctl := 0x13, v := [(2, ⟨0x7F800001, .full⟩), (6, ⟨0, .full⟩), (8, ⟨0, .empty⟩), (10, ⟨0, .uninit⟩)] }

theorem witness_ConditionsRaised :
    (∀ i ∈ [Instr.fadd ⟨none, false, 4, 2, 6, false, false⟩, .fadd ⟨none, false, 4, 2, 8, false, false⟩, .fadd ⟨none, false, 4, 2, 10, false, false⟩],
      Alone (one i trapping) (aChain i) i (laneOf (one i trapping) i)) ∧
    (let i : Instr := .fadd ⟨none, false, 4, 2, 8, true, true⟩
     (emptyCause (trapping.sourcesOf true 0 i) (laneOf (one i trapping) i).cap).isSome) ∧
    (let i : Instr := .fadd ⟨none, false, 4, 2, 10, false, false⟩
     (uninitCause (trapping.sourcesOf true 0 i) (laneOf (one i trapping) i).cap).isSome) ∧
    condCause trapping.fpctl (Fmt.fp32.add .rne 0x7F800001 0).2 = some .fpinv := by
  unfold Alone; decide +kernel

/-- An instruction that is clear to steer: thread 1 issues it, and its sources are not empty. -/
def Steerable (i : Instr) (t : Thread := aThread) (pc : Nat := 0) : Prop :=
  let s : State := { one i t with issue := some (aChain i pc) }
  Issues s (aChain i pc) i ∧ ((aChain i pc).lanes s i 0).map Prod.snd = [true] ∧
    ∀ x ∈ (aChain i pc).lanes s i 0, emptyCause (staticSources i) x.1.cap = none ∧ s.thread? x.1.tid = some t

theorem witness_DecodeTraps :
    (one (.ld ⟨none, false, 7, 1, 2, false, 0⟩)).decodeTraps (aChain (.ld ⟨none, false, 7, 1, 2, false, 0⟩)) (.ld ⟨none, false, 7, 1, 2, false, 0⟩) 0 ≠ none ∧
    (Instr.ld ⟨none, false, 7, 1, 2, false, 0⟩).wellFormed = false ∧
    ∀ i ∈ [Instr.tlbinv ⟨false, 0, 2⟩, .otinv ⟨false, 0, 2⟩, .ctxsave ⟨false, 2⟩, .ctxload ⟨false, 2⟩, .srd ⟨false, 0x100, 0, 4⟩, .srd ⟨false, 0xFF, 0, 4⟩,
      .swr ⟨false, 0x103, 0, 4⟩, .iadd a3],
      (i.wellFormed = true ∨ i = .srd ⟨false, 0xFF, 0, 4⟩) ∧ still.undeclared aThread false 0 i = none ∧ illegHere aThread false i = false := by decide +kernel

theorem witness_TrapEntry :
    (∀ i ∈ [Instr.trap ⟨false, 0⟩, .trap ⟨false, 65535⟩, .bkpt ⟨false, 65535⟩], Issues (one i) (aChain i) i ∧ (aChain i).raised = none ∧
      (aChain i).slots ≠ [] ∧ ∀ x ∈ (aChain i).slots, x.1 < 32) ∧
    Map.get? [(0, 1)] (lowestSlot 1) = some 1 ∧ (still { aThread with utvec := 30 }).thread? 1 = some { aThread with utvec := 30 } ∧
    still.ctx? 0 = some aContext ∧ trapIsFatal aContext { aThread with utvec := 30 } .user = false := by unfold Issues; decide +kernel

theorem witness_FatalTrapsAndReturn : trapIsFatal aContext aThread .user = true ∧ trapIsFatal aContext { aThread with utvec := 30 } .pgfatal = true ∧
    trapIsFatal { aContext with trapfatal := 2 ^ Cause.user.code } { aThread with utvec := 30 } .user = true ∧ trapIsFatal aContext inHandler .user = true ∧
    aContext.fatal = none ∧ inHandler.frame.isSome ∧ inHandler.ended = false := by decide +kernel

theorem witness_HandlerWords : ∀ i ∈ [Instr.tfill ⟨false, 2⟩, .rqwrite ⟨false, 4, 0, 2⟩, .rqwrite ⟨false, 15, 1, 2⟩, .rqdrop ⟨false, 0⟩, .rqdrop ⟨false, 15⟩],
    Meets i inHandler := by unfold Meets Solo; decide +kernel

theorem witness_HandlerWords_cases :
    (inHandler.frame.map fun fr => fr.mask.getLsbD fr.slot && fr.dst.cls != 3) = some true ∧ inHandler.visible[0]?.isSome ∧ inHandler.visible[1]? = none ∧
    emptyCause (inHandler.sourcesOf false 0 (.tfill ⟨false, 2⟩)) (laneOf (one (.tfill ⟨false, 2⟩) inHandler) (.tfill ⟨false, 2⟩)).cap = none ∧
    Meets (.tfill ⟨false, 2⟩) { inHandler with frame := inHandler.frame.map fun fr => { fr with mask := 2 } } := by
  unfold Meets Solo; decide +kernel

theorem witness_BranchesAndCalls : Steerable (.br ⟨false, 0, 0, 1⟩) ∧ Steerable (.br ⟨false, 1, 1, 1⟩) ∧ Steerable (.call ⟨false, 8191⟩) ∧
    Steerable (.calli ⟨false, false, 3⟩) ∧ Steerable (.ret ⟨false⟩) ∧ MeetsAlone (.calli ⟨false, false, 2⟩) ∧ (3 : Nat) % 3 = 0 ∧ (2 : Nat) % 3 ≠ 0 := by
  unfold Steerable Issues MeetsAlone Alone; decide +kernel

theorem witness_BranchesAndCalls_target : let iss := aChain (.br ⟨false, 0, 0, 0x3FFF⟩) 3
    ((packetOf iss.cur.pc : Int) + (0x3FFF : BitVec 14).toInt) * 3 = 0 ∧ aThread.floor < 8 ∧ aThread.loops.length < 8 := by decide +kernel

/-- A thread in a loop of packets 1 and 2 with two rounds left. -/
def looping : Thread := { aThread with loops := [{ count := 2, start := 1, len := 1 }], link := 0x100000006 }

theorem witness_Loops : Steerable (.loopImm ⟨false, 0, 1023⟩) ∧ Steerable (.loopImm ⟨false, 4095, 1⟩) ∧ Steerable (.loopReg ⟨false, false, 2, 1⟩) ∧
    Steerable (.loopReg ⟨false, false, 0, 1⟩) ∧
    MeetsAlone (.loopImm ⟨false, 1, 0⟩) { aThread with loops := List.replicate 4 ⟨2, 0, 9⟩ } ∧
    MeetsAlone (.loopReg ⟨false, false, 2, 0⟩) { aThread with loops := List.replicate 4 ⟨2, 0, 9⟩ } := by
  unfold Steerable Issues MeetsAlone Alone; decide +kernel

theorem witness_Loops_leaving : packetOf 8 ≠ packetOf 9 ∧ looping.loops = [] ++ [⟨2, 1, 1⟩] ∧ looping.floor < looping.loops.length ∧ packetOf 8 = 1 + 1 ∧
    packetOf 3 ≠ 1 + 1 ∧ packetOf 6 = packetOf 7 ∧ aThread.loops.length = aThread.floor ∧ (looping.unwind 2).loops.getLast? = some ⟨2, 1, 1⟩ ∧
    (looping.unwind 3).loops = [] := by decide +kernel

theorem witness_RegroupExitAndHitPrograms :
    (∀ i ∈ [Instr.reform ⟨false, false, 2, 1⟩, .reformX ⟨some ⟨0, 16, 0, 8⟩, false, false, 2, 1⟩, .exit ⟨false⟩, .syncDie ⟨false⟩], Steerable i) ∧
    (∀ i ∈ [Instr.rte ⟨false⟩, .rtePc ⟨false, 3⟩], Steerable i inHandler) ∧ MeetsAlone (.rtePc ⟨false, 2⟩) inHandler ∧
    ∀ i ∈ [Instr.nop ⟨false⟩, .yield ⟨false⟩], Issues (one i) (aChain i) i := by
  unfold Steerable Issues MeetsAlone Alone; decide +kernel

/-- Hit programs: a launch of one stage with a shader stack of one frame. -/
def withShaders (i : Instr) (t : Thread) : State :=
  { one i t with launches := [(1, { ctx := 0, recPa := 0, recOff := 0, phase := .running, stages := [{ depth := 1, vregs := 32, wregs := 16 }] })] }

theorem witness_RegroupExitAndHitPrograms_shaders :
    (let i : Instr := .callsh ⟨false, 3, 2⟩
     Alone (withShaders i aThread) (aChain i) i (laneOf (withShaders i aThread) i) ∧ emptyCause (staticSources i) (laneOf (withShaders i aThread) i).cap = none ∧
     (laneOf (withShaders i aThread) i).a % 3 = 0 ∧ aThread.shaders.length < ((withShaders i aThread).stageOf aThread).depth) ∧
    (let i : Instr := .callsh ⟨false, 3, 2⟩
     let t : Thread := { aThread with shaders := [⟨9, 0, 0, 0, 5⟩] }
     Alone (withShaders i t) (aChain i) i (laneOf (withShaders i t) i) ∧ ((withShaders i t).stageOf t).depth ≤ t.shaders.length) ∧
    (let i : Instr := .retsh ⟨false⟩
     let t : Thread := { aThread with shaders := [⟨9, 0, 0, 0, 5⟩] }
     Alone (withShaders i t) (aChain i) i (laneOf (withShaders i t) i)) := by unfold Alone; decide +kernel

/-! ## Objects -/

/-- Whether work ends without a stop, in a state and with an answer that p accepts; whether it stops with x. -/
def passes {α : Type} (w : Work α) (s : State) (p : α → State → Bool := fun _ _ => true) : Bool :=
  match w s with
  | .ok (a, s') => p a s'
  | .error _ => false
def stops {α : Type} (w : Work α) (s : State) (x : Stop) : Bool :=
  match w s with
  | .ok _ => false
  | .error y => decide (x = y)

theorem passes_ok {α : Type} {w : Work α} {s : State} {p : α → State → Bool} (h : passes w s p = true) : ∃ a s', w s = .ok (a, s') ∧ p a s' = true := by
  unfold passes at h
  split at h
  · exact ⟨_, _, by assumption, h⟩
  · cases h

theorem stops_error {α : Type} {w : Work α} {s : State} {x : Stop} (h : stops w s x = true) : w s = .error x := by
  unfold stops at h
  split at h
  · cases h
  · rw [of_decide_eq_true h]; assumption

/-- An entry by R235: its kind, byte 1, rights, scope, generation and base, and its kind's fields as offset and value. -/
def entry (kind b1 rights scope base : Nat) (area : List (Nat × Nat) := []) (gen : Nat := 0) : List (BitVec 64) :=
  let n := kind + (b1 <<< 8) + (rights <<< 16) + (scope <<< 24) + (gen <<< 32) + ((base / 16) <<< 64) + (area.map fun x => x.2 <<< (8 * x.1)).sum
  (List.range 8).map fun k => BitVec.ofNat 64 (n >>> (64 * k))

/-- Objects of every kind, each with every right, in global memory. -/
def objects : List (Nat × List (BitVec 64)) :=
  [(1, entry 1 0 63 3 0x100000 [(0x10, 65536)]), (2, entry 1 0 63 3 0x200000 [(0x10, 65536)]), (3, entry 5 0 63 3 0x300000),
   (4, entry 4 0 63 3 0x310000 [(0x10, 4), (0x14, 8)]), (5, entry 6 0 63 3 0x320000 [(0x10, 12288)]), (6, entry 7 0 63 3 0 [(0x0E, 1)]),
   (7, entry 8 0 63 3 0 [(0x0E, 1), (0x10, 1), (0x12, 1), (0x14, 1), (0x16, 1), (0x18, 0x3F800000), (0x1C, 0x3F800000)]),
   (8, entry 8 0 63 3 0 [(0x0E, 1), (0x10, 2), (0x12, 2), (0x14, 2), (0x16, 3), (0x18, 0x3F800000), (0x1C, 0x3F800000)]),
   (9, entry 8 0 63 3 0 [(0x0E, 1), (0x10, 1), (0x12, 1), (0x14, 3), (0x16, 1), (0x18, 0x3F800000), (0x1C, 0x3F800000)]),
   (10, entry 9 0 63 3 0x330000 [(0x0E, 1), (0x10, 1), (0x12, 1), (0x14, 0x3F800000), (0x18, 0x3F800000)]),
   (11, entry 10 0 63 3 0 [(0x0E, 1), (0x10, 1), (0x14, 12)]), (12, entry 11 0 63 3 0 [(0x0E, 1), (0x10, 1), (0x12, 1), (0x14, 2)]),
   (13, entry 3 0 63 3 0x340000), (14, entry 3 0 63 3 0x350000),
   (15, entry 12 0 63 3 0x360000 [(0x0E, 14)]), (16, entry 12 0 63 3 0x370000 [(0x0E, 14), (0x14, 2)]), (17, entry 12 0 63 3 0x380000 [(0x0E, 14), (0x14, 3)]),
   (18, entry 13 0 63 3 0x390000), (19, entry 2 0 63 3 0x400000 [(0x0E, 16383)]), (20, entry 2 2 63 3 0x500000 [(0x0E, 127)]),
   (21, entry 3 2 63 3 0x510000), (22, entry 3 4 63 3 0x520000),
   (23, entry 2 20 63 3 0x530000), (24, entry 2 20 63 3 0x531000), (25, entry 2 16 63 3 0x532000), (26, entry 3 4 63 1 0 [(0x0E, 127), (0x10, 127)]), (27, entry 3 3 63 3 0x540000)]

/-- Thread 1 with the objects at hand, issuing an instruction or nothing. -/
def withObjects (t : Thread := aThread) (i : Option Instr := none) : State :=
  { still t objects with ctxs := [(0, { aContext with otcount := 64 })], issue := i.map fun i => aChain i }

/-- The hypotheses of `Acts` for an instruction and its work; those of `WorkTraps` for a trap. -/
def ActsHere (i : Instr) (w : Issue → Nat → Lane → Work Unit) (s : State) : Prop :=
  let l := laneOf s i
  Solo s (aChain i) i l ∧ passes (w (aChain i) s.nextId l) { s with nextId := s.nextId + 1 } (fun _ s' =>
    s'.issue.isSome && decide ((s'.issue.bind Issue.raised) = none)) = true
def TrapsHere (i : Instr) (w : Issue → Nat → Lane → Work Unit) (c : Cause) (info : Nat) (s : State) : Prop :=
  let l := laneOf s i
  Alone s (aChain i) i l ∧ emptyCause (staticSources i) l.cap = none ∧ uninitCause (staticSources i) l.cap = none ∧
    stops (w (aChain i) s.nextId l) { s with nextId := s.nextId + 1 } (.trap c info) = true ∧ c ≠ .mmx

/-- The works that the statement spells out for the words of rays and textures. -/
def traversal (i : Instr) (f : TraceForm) (iss : Issue) (no : Nat) (l : Lane) : Work Unit := do
  let h ← checkEntry l.th.tile l.th.ctx (f.obj.getD 0).toNat [.hier] rightR
  let n ← checkEntry l.th.tile l.th.ctx (Obj.hierNodes h) [.buffer] rightR
  checkFootprint l.th.cell n 0 (Obj.field n 0x10 8)
  let _ ← submit iss i l no 5 [h, n] l.cap.words 0
def texture (i : Instr) (f : StexForm) (shape : Obj → Bool) (iss : Issue) (no : Nat) (l : Lane) : Work Unit := do
  let t ← checkEntry l.th.tile l.th.ctx (f.obj.getD 0).toNat [.spectral] rightT
  let b ← checkEntry l.th.tile l.th.ctx (Obj.texels t) [.buffer] rightR
  Work.within (Obj.spectralOk t && shape t) t.1
  checkFootprint l.th.cell b 0 (Obj.texelBytes t)
  let _ ← submit iss i l no 5 [t, b] l.cap.words 0

/-- The claim of the Anvil of the thread's home tile, which its context gets. -/
def AnvilHere (i : Instr) (w : Issue → Nat → Lane → Work Unit) (s : State) : Prop :=
  let l := laneOf s i
  let s0 := s.claimAnvil (s.homeTile l.th) 0
  Solo s (aChain i) i l ∧ s0.anvilTaken l.th = false ∧ passes (w (aChain i) s0.nextId l) { s0 with nextId := s0.nextId + 1 } (fun _ s' =>
    s'.issue.isSome && decide ((s'.issue.bind Issue.raised) = none)) = true
def AnvilTraps (i : Instr) (w : Issue → Nat → Lane → Work Unit) (c : Cause) (info : Nat) (s : State) : Prop :=
  let l := laneOf s i
  let s0 := s.claimAnvil (s.homeTile l.th) 0
  Alone s (aChain i) i l ∧ emptyCause (staticSources i) l.cap = none ∧ uninitCause (staticSources i) l.cap = none ∧ s0.anvilTaken l.th = false ∧
    stops (w (aChain i) s0.nextId l) { s0 with nextId := s0.nextId + 1 } (.trap c info) = true ∧ c ≠ .mmx

/-- Another context has the Anvil. -/
def AnvilElsewhere (i : Instr) (s : State) : Prop :=
  let s := { s with tiles := Map.mapAll s.tiles fun _ t => { t with anvil := { t.anvil with owner := some 1 } } }
  Solo s (aChain i) i (laneOf s i) ∧ (s.claimAnvil (s.homeTile (laneOf s i).th) 0).anvilTaken (laneOf s i).th = true

/-- An instruction with its work, and for those that trap what they find. -/
abbrev Word4 := Instr × (Issue → Nat → Lane → Work Unit)

def tracing (o : Option (BitVec 16)) : TraceForm := ⟨o, false, 4, 0⟩
def sampling (o : Option (BitVec 16)) : StexForm := ⟨o, false, 4, 0, 1⟩

theorem witness_TraversalUnitAndCasterWords_units : ∀ x ∈ ([
    (.trace (tracing (some 6)), traversal (.trace (tracing (some 6))) (tracing (some 6))),
    (.tracea (tracing (some 6)), traversal (.tracea (tracing (some 6))) (tracing (some 6))),
    (.stex (sampling (some 7)), texture (.stex (sampling (some 7))) (sampling (some 7)) fun _ => true),
    (.stexup (sampling (some 8)), texture (.stexup (sampling (some 8))) (sampling (some 8)) Obj.isGrid),
    (.scmf (sampling (some 9)), texture (.scmf (sampling (some 9))) (sampling (some 9)) Obj.isMatching),
    (.filmAdd ⟨some 10, false, 0, 0, 1⟩, filmAddWork ⟨some 10, false, 0, 0, 1⟩), (.filmRd ⟨some 10, false, 4, 0, 0⟩, filmRdWork ⟨some 10, false, 4, 0, 0⟩),
    (.rast ⟨some 11, false, 0, 1⟩, rastWork ⟨some 11, false, 0, 1⟩), (.visrd ⟨some 12, false, 4, 0, 0⟩, visrdWork ⟨some 12, false, 4, 0, 0⟩)] : List Word4),
    ActsHere x.1 x.2 (withObjects aThread (some x.1)) := by unfold ActsHere Solo; decide +kernel

/-- Of each word one thing that it finds wrong: an index beyond the table, another kind, a value out of range. -/
theorem witness_TraversalUnitAndCasterWords_traps : ∀ x ∈ ([
    ((.trace (tracing (some 64)), traversal (.trace (tracing (some 64))) (tracing (some 64))), .bounds, 64),
    ((.tracea (tracing (some 1)), traversal (.tracea (tracing (some 1))) (tracing (some 1))), .rights, 1),
    ((.stex (sampling (some 64)), texture (.stex (sampling (some 64))) (sampling (some 64)) fun _ => true), .bounds, 64),
    ((.stexup (sampling (some 7)), texture (.stexup (sampling (some 7))) (sampling (some 7)) Obj.isGrid), .bounds, 7),
    ((.scmf (sampling (some 7)), texture (.scmf (sampling (some 7))) (sampling (some 7)) Obj.isMatching), .bounds, 7),
    ((.filmAdd ⟨some 10, false, 1, 0, 1⟩, filmAddWork ⟨some 10, false, 1, 0, 1⟩), .bounds, 10),
    ((.filmRd ⟨some 10, false, 4, 0, 1⟩, filmRdWork ⟨some 10, false, 4, 0, 1⟩), .bounds, 10),
    ((.rast ⟨some 11, false, 0, 2⟩, rastWork ⟨some 11, false, 0, 2⟩), .bounds, 11),
    ((.visrd ⟨some 12, false, 4, 1, 0⟩, visrdWork ⟨some 12, false, 4, 1, 0⟩), .bounds, 12),
    ((.cast ⟨some 1, false, 0, 3, 20⟩, castWork (.cast ⟨some 1, false, 0, 3, 20⟩) ⟨some 1, false, 0, 3, 20⟩), .bounds, 20),
    ((.castT8 ⟨some 19, false, 3, 0, 19⟩, castWork (.castT8 ⟨some 19, false, 3, 0, 19⟩) ⟨some 19, false, 3, 0, 19⟩), .illeg, 0),
    ((.castT16 ⟨some 3, false, 0, 0, 2⟩, castWork (.castT16 ⟨some 3, false, 0, 0, 2⟩) ⟨some 3, false, 0, 0, 2⟩), .rights, 3)] :
    List (Word4 × Cause × Nat)), TrapsHere x.1.1 x.1.2 x.2.1 x.2.2 (withObjects aThread (some x.1.1)) := by unfold TrapsHere Alone; decide +kernel

theorem witness_TraversalUnitAndCasterWords_casts : ∀ x ∈ ([
    (.cast ⟨some 1, false, 0, 3, 2⟩, castWork (.cast ⟨some 1, false, 0, 3, 2⟩) ⟨some 1, false, 0, 3, 2⟩),
    (.castT8 ⟨some 22, false, 3, 0, 22⟩, castWork (.castT8 ⟨some 22, false, 3, 0, 22⟩) ⟨some 22, false, 3, 0, 22⟩),
    (.castT16 ⟨some 21, false, 3, 0, 21⟩, castWork (.castT16 ⟨some 21, false, 3, 0, 21⟩) ⟨some 21, false, 3, 0, 21⟩)] : List Word4),
    ActsHere x.1 x.2 (withObjects aThread (some x.1)) := by unfold ActsHere Solo; decide +kernel

theorem witness_TraversalUnitAndCasterWords_weights : ∀ x ∈ ([
    (.castw ⟨some 20, false, 0, 1⟩, castwWork (.castw ⟨some 20, false, 0, 1⟩) false ⟨some 20, false, 0, 1⟩),
    (.castwCb3 ⟨some 1, false, 0, 1⟩, castwWork (.castwCb3 ⟨some 1, false, 0, 1⟩) true ⟨some 1, false, 0, 1⟩),
    (.casttab ⟨some 1, false, 0, 0, 0⟩, casttabWork ⟨some 1, false, 0, 0, 0⟩)] : List Word4),
    AnvilHere x.1 x.2 (withObjects aThread (some x.1)) ∧ AnvilElsewhere x.1 (withObjects aThread (some x.1)) := by
  unfold AnvilHere AnvilElsewhere Solo; decide +kernel

theorem witness_TraversalUnitAndCasterWords_weightTraps : ∀ x ∈ ([
    ((.castw ⟨some 20, false, 0, 0⟩, castwWork (.castw ⟨some 20, false, 0, 0⟩) false ⟨some 20, false, 0, 0⟩), .illeg, 0),
    ((.castwCb3 ⟨some 3, false, 0, 1⟩, castwWork (.castwCb3 ⟨some 3, false, 0, 1⟩) true ⟨some 3, false, 0, 1⟩), .rights, 3),
    ((.casttab ⟨some 64, false, 0, 0, 0⟩, casttabWork ⟨some 64, false, 0, 0, 0⟩), .bounds, 64)] : List (Word4 × Cause × Nat)),
    AnvilTraps x.1.1 x.1.2 x.2.1 x.2.2 (withObjects aThread (some x.1.1)) := by unfold AnvilTraps Alone; decide +kernel

/-- A launch of one stage that declares what the words name. -/
def aLaunch : Launch := { ctx := 0, recPa := 0, recOff := 0, phase := .running, stages := [{ vregs := 32, wregs := 16, ncv := 2, nbar := 256, depth := 1 }] }

/-- A cell whose convergence register 0 gathers two signatures and whose descriptor 0 is bound to the ring queue. -/
def signing (t : Thread := aThread) (i : Option Instr := none) : State :=
  { withObjects t i with cells := [(1, { aCell with cvs := [(0, { count := 2 })], qbind := [(0, 4)] })], launches := [(1, aLaunch)] }

/-- Registers for the words of the Anvil, the reductions and the fabric: v8 and v9 name object 22 as B and 18 as both scales; v0 the
window of one element, v4 and v5 the bounds 0 and 1.0, v12 to v15 a send of 16 bytes to offset 0x200000 without a barrier, v16 and v17
a push of chunk 0 of tree 0, v18 and v19 the closing of tree 0 with barrier 3, v20 and v21 object 13 without boundaries and the window. -/
def operandsOf : Thread :=
  { aThread with
    v := ([(0, 0x1111), (1, 0), (2, 0x3F800000), (4, 0), (5, 0x3F800000), (8, 0x80000016), (9, 0x120012), (12, 0), (13, 16), (14, 0x200000),
           (15, 0xFFFF), (16, 0), (17, 0), (18, 0), (19, 3), (20, 0xFFFF000D), (21, 0x1111)] : List (Nat × Nat)).map
      fun x => (x.1, ⟨BitVec.ofNat 32 x.2, .full⟩) }

theorem witness_AnvilWords : ∀ x ∈ ([
    (.mma ⟨some 22, false, 0, 0, 8⟩, mmaWork (.mma ⟨some 22, false, 0, 0, 8⟩) 22 false),
    (.mmas ⟨some 22, false, 0, 0, 8, 9⟩, mmaWork (.mmas ⟨some 22, false, 0, 0, 8, 9⟩) 22 true),
    (.accz ⟨false, 0, 7⟩, fun iss no l => do maySign (.accz ⟨false, 0, 7⟩) l; sign (.accz ⟨false, 0, 7⟩) iss no l [] []),
    (.accld ⟨some 19, false, 0, 0⟩, accWork (.accld ⟨some 19, false, 0, 0⟩) 19 rightR fun o => [0, 1, 8].contains (Obj.fmtCode o)),
    (.accst ⟨some 19, false, 0, 0, 0⟩, accWork (.accst ⟨some 19, false, 0, 0, 0⟩) 19 rightW fun _ => true),
    (.accstAdd ⟨some 19, false, 0, 0, 0⟩, accWork (.accstAdd ⟨some 19, false, 0, 0, 0⟩) 19 (rightR + rightW) fun _ => true),
    (.accrd ⟨false, 0, 0, 4, 2⟩, fun iss no l => do maySign (.accrd ⟨false, 0, 0, 4, 2⟩) l; sign (.accrd ⟨false, 0, 0, 4, 2⟩) iss no l [] l.cap.words)] :
    List Word4), AnvilHere x.1 x.2 (signing operandsOf (some x.1)) := by unfold AnvilHere Solo; decide +kernel

/-- With no count declared each word of a convergence set is ILLEG. -/
theorem witness_AnvilWords_traps : ∀ x ∈ ([
    (.mma ⟨some 21, false, 0, 0, 8⟩, mmaWork (.mma ⟨some 21, false, 0, 0, 8⟩) 21 false),
    (.mmas ⟨some 21, false, 0, 0, 8, 2⟩, mmaWork (.mmas ⟨some 21, false, 0, 0, 8, 2⟩) 21 true),
    (.accz ⟨false, 0, 7⟩, fun iss no l => do maySign (.accz ⟨false, 0, 7⟩) l; sign (.accz ⟨false, 0, 7⟩) iss no l [] []),
    (.accld ⟨some 19, false, 0, 0⟩, accWork (.accld ⟨some 19, false, 0, 0⟩) 19 rightR fun o => [0, 1, 8].contains (Obj.fmtCode o)),
    (.accst ⟨some 19, false, 0, 0, 0⟩, accWork (.accst ⟨some 19, false, 0, 0, 0⟩) 19 rightW fun _ => true),
    (.accstAdd ⟨some 19, false, 0, 0, 0⟩, accWork (.accstAdd ⟨some 19, false, 0, 0, 0⟩) 19 (rightR + rightW) fun _ => true),
    (.accrd ⟨false, 0, 0, 4, 2⟩, fun iss no l => do maySign (.accrd ⟨false, 0, 0, 4, 2⟩) l; sign (.accrd ⟨false, 0, 0, 4, 2⟩) iss no l [] l.cap.words),
    (.mseq ⟨some 1, false, 0, 0⟩, mseqWork ⟨some 1, false, 0, 0⟩)] : List Word4),
    AnvilTraps x.1 x.2 .illeg 0 { signing operandsOf (some x.1) with cells := [(1, aCell)] } := by unfold AnvilTraps Alone; decide +kernel

theorem witness_ReductionAndFabricWords : ∀ x ∈ ([
    (.rmaxW ⟨some 13, false, 0, 15⟩, reduceWork (.rmaxW ⟨some 13, false, 0, 15⟩) .max ⟨some 13, false, 0, 15⟩),
    (.rminW ⟨some 13, false, 0, 15⟩, reduceWork (.rminW ⟨some 13, false, 0, 15⟩) .min ⟨some 13, false, 0, 15⟩),
    (.rmedW ⟨some 13, false, 0, 15⟩, reduceWork (.rmedW ⟨some 13, false, 0, 15⟩) .med ⟨some 13, false, 0, 15⟩),
    (.rclampW ⟨some 13, false, 4, 16⟩, reduceWork (.rclampW ⟨some 13, false, 4, 16⟩) .clamp ⟨some 13, false, 4, 16⟩),
    (.rssumW ⟨some 13, false, 0, 17⟩, reduceWork (.rssumW ⟨some 13, false, 0, 17⟩) .sum ⟨some 13, false, 0, 17⟩),
    (.adjb ⟨some 14, false, 20, 15⟩, adjbWork ⟨some 14, false, 20, 15⟩), (.wrel ⟨false, 15⟩, wrelWork ⟨false, 15⟩),
    (.rmaxWCr ⟨false, 0, 0, 4, 0, false⟩, crWork (.rmaxWCr ⟨false, 0, 0, 4, 0, false⟩) ⟨false, 0, 0, 4, 0, false⟩ false),
    (.rminWCr ⟨false, 0, 0, 4, 2, false⟩, crWork (.rminWCr ⟨false, 0, 0, 4, 2, false⟩) ⟨false, 0, 0, 4, 2, false⟩ false),
    (.rmedWCr ⟨false, 0, 0, 4, 0, true⟩, crWork (.rmedWCr ⟨false, 0, 0, 4, 0, true⟩) ⟨false, 0, 0, 4, 0, true⟩ false),
    (.rclampWCr ⟨false, 0, 0, 4, 0, false⟩, crWork (.rclampWCr ⟨false, 0, 0, 4, 0, false⟩) ⟨false, 0, 0, 4, 0, false⟩ true),
    (.rssumWCr ⟨false, 0, 0, 4, 0, false⟩, crWork (.rssumWCr ⟨false, 0, 0, 4, 0, false⟩) ⟨false, 0, 0, 4, 0, false⟩ true),
    (.fsend ⟨false, 12, 1⟩, fsendWork ⟨false, 12, 1⟩), (.fwin ⟨false, 18, 2⟩, fwinWork ⟨false, 18, 2⟩)] : List Word4),
    ActsHere x.1 x.2 (signing operandsOf (some x.1)) := by unfold ActsHere Solo; decide +kernel

theorem witness_ReductionAndFabricWords_traps : ∀ x ∈ ([
    ((.rmaxW ⟨some 13, false, 1, 15⟩, reduceWork (.rmaxW ⟨some 13, false, 1, 15⟩) .max ⟨some 13, false, 1, 15⟩), .illeg, 0),
    ((.rminW ⟨some 13, false, 0, 13⟩, reduceWork (.rminW ⟨some 13, false, 0, 13⟩) .min ⟨some 13, false, 0, 13⟩), .rights, 13),
    ((.rmedW ⟨some 64, false, 0, 15⟩, reduceWork (.rmedW ⟨some 64, false, 0, 15⟩) .med ⟨some 64, false, 0, 15⟩), .bounds, 64),
    ((.rclampW ⟨some 13, false, 4, 15⟩, reduceWork (.rclampW ⟨some 13, false, 4, 15⟩) .clamp ⟨some 13, false, 4, 15⟩), .illeg, 0),
    ((.rssumW ⟨some 13, false, 0, 16⟩, reduceWork (.rssumW ⟨some 13, false, 0, 16⟩) .sum ⟨some 13, false, 0, 16⟩), .illeg, 0),
    ((.adjb ⟨some 14, false, 4, 15⟩, adjbWork ⟨some 14, false, 4, 15⟩), .illeg, 0), ((.wrel ⟨false, 13⟩, wrelWork ⟨false, 13⟩), .rights, 13),
    ((.rclampWCr ⟨false, 1, 0, 4, 0, false⟩, crWork (.rclampWCr ⟨false, 1, 0, 4, 0, false⟩) ⟨false, 1, 0, 4, 0, false⟩ true), .illeg, 0),
    ((.fsend ⟨false, 12, 64⟩, fsendWork ⟨false, 12, 64⟩), .bounds, 64), ((.fwin ⟨false, 18, 64⟩, fwinWork ⟨false, 18, 64⟩), .bounds, 64),
    ((.fcoll ⟨false, 16, 1⟩, fcollWork ⟨false, 16, 1⟩), .rights, 0xFFFF + 2 ^ 21)] : List (Word4 × Cause × Nat)),
    TrapsHere x.1.1 x.1.2 x.2.1 x.2.2 (signing { operandsOf with v := Map.set operandsOf.v 1 ⟨0x80000000, .full⟩ } (some x.1.1)) := by
  unfold TrapsHere Alone; decide +kernel

/-- Tree 0 open for context 0, with room for one push or with one outstanding. -/
def collecting (i : Instr) (full : Bool) : State :=
  let s := signing operandsOf (some i)
  { s with fabric := { s.fabric with opens := [(0, { ctx := 0, cell := 1 })], outstanding := if full then [(0, 1)] else [] } }

theorem witness_ReductionAndFabricWords_pushes : ActsHere (.fcoll ⟨false, 16, 1⟩) (fcollWork ⟨false, 16, 1⟩) (collecting (.fcoll ⟨false, 16, 1⟩) false) ∧
    ActsHere (.fcoll ⟨false, 16, 1⟩) (fcollWork ⟨false, 16, 1⟩) (collecting (.fcoll ⟨false, 16, 1⟩) true) ∧
    (let s := collecting (.fcoll ⟨false, 16, 1⟩) true
     passes (checkEntry 0 0 1 [.buffer] (rightR + rightF)) s (fun src s1 => passes (checkFootprint 1 src 0 chunkBytes) s1) = true ∧
     (Map.get? s.fabric.opens 0).map OpenTree.width = some 1 ∧ (s.fabric.outstanding.filter fun x => x.1 == 0).length = 1) := by
  unfold ActsHere Solo; decide +kernel

/-- A plan in memory: A, B and C by objects 23 to 25, both staging tiles by 26, one K dimension, no flag. -/
def planned (i : Instr) : State :=
  let s := signing operandsOf (some i)
  { s with mem := [(0x100000, 23), (0x100002, 24), (0x100004, 25), (0x100006, 26), (0x100008, 26), (0x10000C, 1)]
           cells := [(1, { aCell with sliceLen := 32768, cvs := [(0, { count := 2 })] })] }

theorem witness_AnvilWords_mseq : AnvilHere (.mseq ⟨some 1, false, 0, 0⟩) (mseqWork ⟨some 1, false, 0, 0⟩) (planned (.mseq ⟨some 1, false, 0, 0⟩)) := by
  unfold AnvilHere Solo; decide +kernel

/-! ## Memory -/

theorem witness_MemoryHoldsWhatWasWritten : Memory.wf ([] : List Host.Cell) = true ∧ Memory.wf [(5, 1), (6, 255)] = true ∧
    (State.reset.setBytes 5 [1, 0, 255]).mem = [(5, 1), (7, 255)] := by decide

/-- A step that writes memory from a canonical one: the drain of a line. -/
theorem witness_MemoryStaysCanonical : Memory.wf still.mem = true ∧
    (nextOr State.reset (step { still with agenda := [.hostWrite 0 0x400000 [1]] })).cycle = 0 := by decide

/-- The hypotheses of `Accesses`: the word is clear in thread 1 and its access passes its checks. -/
def AccessHere (i : Instr) (s : State) : Prop :=
  let l := laneOf s i
  Solo s (aChain i) i l ∧ ((accessOf i l.cap).map fun x => ((s.check l.th x).1 matches .ok _) && decide ((s.check l.th x).2.issue = s.issue)) = some true

/-- Those of `AccessTraps`: its access fails them with a cause. -/
def AccessTrapped (i : Instr) (c : Cause) (info : Nat) (s : State) : Prop :=
  let l := laneOf s i
  Alone s (aChain i) i l ∧ emptyCause (staticSources i) l.cap = none ∧
    ((accessOf i l.cap).map fun x => decide ((s.check l.th x).1 = .trapped c info) && decide ((s.check l.th x).2.issue = s.issue)) = some true

/-- v0 is 0, v1 misaligned, v2 within a page that nothing maps, v3 beyond the cell's allocation, v4 a word. -/
def pointers : Thread :=
  { aThread with v := ([(0, 0), (1, 2), (2, 0x40000000), (3, 0xFFC01000), (4, 7), (8, 1), (9, 2)] : List (Nat × Nat)).map fun x => (x.1, ⟨BitVec.ofNat 32 x.2, .full⟩) }

def accessWords (base : BitVec 7) : List Instr :=
  [.ld ⟨none, false, 4, 12, base, false, 0⟩, .st ⟨none, false, 4, 4, base, false, 0⟩, .ldAcq ⟨none, false, 4, 12, base, false, 5⟩,
   .stRel ⟨none, false, 4, 4, base, false, 0⟩, .waitv ⟨none, false, 4, base, false⟩]
def atomicWords (base : BitVec 7) : List Instr :=
  [.atomAdd ⟨none, false, 12, base, 4, false, false⟩, .atomMin ⟨none, false, 12, base, 4, false, false⟩, .atomMax ⟨none, false, 12, base, 4, false, false⟩,
   .atomExch ⟨none, false, 12, base, 4, false, false⟩, .atomAnd ⟨none, false, 12, base, 4, false, false⟩, .atomOr ⟨none, false, 12, base, 4, false, false⟩,
   .atomXor ⟨none, false, 12, base, 4, false, false⟩, .atomCas ⟨none, false, 12, base, 8, false, false⟩,
   .redAdd ⟨some (pfx 8), false, base, 4, false, false⟩, .redMin ⟨some (pfx 8), false, base, 4, false, false⟩,
   .redMax ⟨some (pfx 8), false, base, 4, false, false⟩, .redAnd ⟨some (pfx 8), false, base, 4, false, false⟩,
   .redOr ⟨some (pfx 8), false, base, 4, false, false⟩, .redXor ⟨some (pfx 8), false, base, 4, false, false⟩]

theorem witness_OrderedAccesses_and_others : ∀ i ∈ accessWords 0 ++ atomicWords 0, AccessHere i (one i pointers) := by unfold AccessHere Solo; decide +kernel

/-- The same words at a misaligned address, and beyond the cell's allocation. -/
theorem witness_OrderedAccesses_traps : ∀ i ∈ accessWords 1 ++ atomicWords 1, AccessTrapped i .align 2 (one i pointers) := by
  unfold AccessTrapped Alone; decide +kernel
theorem witness_OrderedAccesses_bounds : ∀ i ∈ accessWords 3 ++ atomicWords 3, AccessTrapped i .bounds 0xFFFF (one i pointers) := by
  unfold AccessTrapped Alone; decide +kernel

/-- A page whose first write must copy it, with the fault ring on. -/
def copied : State := { still with fltring := 1, tiles := [(0, { tlb := [{ aPage with w := false, cow := true }] })] }

theorem witness_LoadsAndStores_checks :
    (let x : Access := { off := 0xFFC01000, size := 4, kind := .read, asWrite := false }
     aThread.vaOf x.off % x.size = 0 ∧ cellWindow ≤ x.off ∧ aCell.sliceLen < x.off - cellWindow + x.size) ∧
    (let x : Access := { off := 0xFFC00FFC, size := 4, kind := .read, asWrite := false }
     x.off - cellWindow + x.size = aCell.sliceLen) ∧
    (let x : Access := { off := 0x40000000, size := 4, kind := .write, asWrite := true }
     aThread.vaOf x.off % x.size = 0 ∧ x.off < cellWindow ∧ (still.translate 0 0 (aThread.vaOf x.off) x.kind).1 = .pgfatal) ∧
    ((copied.translate 0 0 (aThread.vaOf 0) .write).1 matches .pgfault _) = true := by decide +kernel

theorem witness_Atomics : regionOf 0 = .hbm ∧ regionOf 0x7FFFFFFFFF = .hbm ∧ regionOf 0x8000000000 = .slice ∧ regionOf 0x8030800000 ≠ .slice := by decide

/-- Thread 1 with one entry that is on its way, of an instruction with its reply. -/
def waiting (i : Instr) (reply : Option (List Word)) (st : EState := .flight) (cap : Captured := {}) : Thread :=
  { aThread with replay := [{ id := 1, instr := i, pc := 0, state := st, lanes := 1, cap := cap, dst := { cls := 0, num := 12, count := 1 }, reply := reply }] }
def atZero : Captured := { a := [(0, .full)], b := [(7, .full)] }

theorem witness_RepliesComplete : ∀ i ∈ [Instr.ld ⟨none, false, 4, 12, 0, false, 0⟩, .ldAcq ⟨none, false, 4, 12, 0, false, 5⟩, .atomAdd ⟨none, false, 12, 0, 4, false, false⟩],
    let t := waiting i (some [5]) .flight atZero
    (still t).thread? 1 = some t ∧ t.entry? 1 = t.replay[0]? ∧ t.replay.map Entry.state = [.flight] ∧ (still t).isHalted 0 = false ∧ t.frozen = false := by
  decide +kernel

theorem witness_RepliesComplete_atomic :
    let t := waiting (.atomAdd ⟨none, false, 12, 0, 4, false, false⟩) none .flight atZero
    let e := (t.entry? 1).getD { id := 0, instr := .nop ⟨false⟩, pc := 0 }
    e.atomicFlight = true ∧ (accessOf e.instr e.cap).any Access.atomic = true ∧ ((still t).entryPa t e).1 = some 0 ∧
      (((still t).entryPa t e).2.issueEntries e.issueNo) = [(1, e)] ∧ ((still t).entryPa t e).2.thread? 1 = some t := by decide +kernel

/-- A thread with a parked access, the ring enabled, disabled or full, and a record that software has not finished. -/
def parkedThread : Thread :=
  { aThread with replay := [{ id := 1, instr := .ld ⟨none, false, 4, 12, 0, false, 0⟩, pc := 0, state := .fault, lanes := 1, fault := some { va := 0 } }] }
def faulting (ring : BitVec 64) (n : Nat := 0) : State :=
  { still parkedThread with fltring := ring, flttail := 512, faults := if n = 0 then [] else [(n - 1, 1, 0, { va := 0 })] }

theorem witness_MemoryEvents :
    (({ still with tiles := [(0, { lines := [{ tid := 1, block := 0, bytes := [(0, 1)] }] })] } : State).tile 0).lines[0]?.isSome ∧
    (still.tile 0).lines[0]? = none ∧ still.unposted = none ∧ (faulting 0).unposted.isSome ∧ (faulting 0).fltring.getLsbD 0 = false ∧
    ((faulting 1 1).unposted.isSome ∧ (faulting 1 1).faults.any fun r => r.1 == ((faulting 1 1).flttail.toNat + 2 ^ 32 - 512) % 2 ^ 32) = true ∧
    ((faulting 1 2).unposted.isSome ∧ !(faulting 1 2).faults.any fun r => r.1 == ((faulting 1 2).flttail.toNat + 2 ^ 32 - 512) % 2 ^ 32) = true ∧
    ((faulting 1 1).faults.find? fun r => r.1 == (0 : BitVec 64).toNat % 2 ^ 32).isSome ∧
    ((faulting 1 1).faults.find? fun r => r.1 == (1 : BitVec 64).toNat % 2 ^ 32) = none := by decide +kernel

/-- A held entry whose access is to be checked, at an address. -/
def unchecked (i : Instr) (a : Nat) : Entry :=
  { id := 1, instr := i, pc := 0, checked := false, lanes := 1, cap := { a := [(BitVec.ofNat 32 a, .full)], d := [(7, .full)] }, dst := { cls := 0, num := 12, count := 1 } }

/-- The access passes, is misaligned, or faults again. -/
theorem witness_MemoryEvents_checks : ∀ i ∈ [Instr.ld ⟨none, false, 4, 12, 0, false, 0⟩, .st ⟨none, false, 4, 12, 0, false, 0⟩],
    ∀ a ∈ [0, 2], ({ aThread with replay := [unchecked i a] } : Thread).entry? 1 = some (unchecked i a) ∧
      (accessOf i (unchecked i a).cap).map Access.off = some a := by decide +kernel
theorem witness_MemoryEvents_outcomes :
    let load (a : Nat) : Access := { off := a, size := 4, kind := .read, asWrite := false }
    (still.check aThread (load 0)).1 = .ok { pa := 0 } ∧ (still.check aThread (load 2)).1 = .trapped .align 2 ∧
    ((copied.check aThread { off := 0, size := 4, kind := .write, asWrite := true }).1 matches .parked _) = true := by decide +kernel

/-! ## Banks, synchronisation and queues -/

/-- A launch with a die set, and one segment of a function table in memory. -/
def withTables (t : Thread) (i : Option Instr) : State :=
  { withObjects t i with launches := [(1, { aLaunch with dieset := some 5 })], mem := [(0x100008, 1), (0x100010, 5)] }

theorem witness_BanksAndInvalidations :
    (let i : Instr := .dield ⟨false, 1⟩
     (withTables aThread (some i)).decodeTraps (aChain i) i 0 = none ∧
     (aChain i).lanes (withTables aThread (some i)) i 0 = [(laneOf (withTables aThread (some i)) i, true)] ∧
     passes (checkDield (laneOf (withTables aThread (some i)) i)) (withTables aThread (some i)) = true) ∧
    (let i : Instr := .ftabld ⟨none, false, 1, 1, 3, false⟩
     Solo (withTables aThread (some i)) (aChain i) i (laneOf (withTables aThread (some i)) i) ∧
     passes (checkFtabld (laneOf (withTables aThread (some i)) i)) (withTables aThread (some i)) (fun ws s => ws.length == 6 && decide (s.issue = some (aChain i))) = true) ∧
    (∀ i ∈ [Instr.ftabbank ⟨none, false, 1, 3⟩, .otinv ⟨false, 0, 2⟩, .otinv ⟨false, 1, 2⟩, .tlbinv ⟨false, 0, 2⟩, .tlbinv ⟨false, 2, 2⟩], Meets i) ∧
    Issues (one (.diebank ⟨false, 1⟩)) (aChain (.diebank ⟨false, 1⟩)) (.diebank ⟨false, 1⟩) := by
  unfold Solo Meets Issues Solo; decide +kernel

theorem witness_BanksAndInvalidations_replies :
    (let t := waiting (.dield ⟨false, 1⟩) (some [0x320000, 0])
     (still t).thread? 1 = some t ∧ ((t.entry? 1).map Entry.state) = some .flight ∧
     ([0x320000].any fun p => (still t).eccAt ((still t).localPa p) 12288) = false) ∧
    (let t := waiting (.ftabld ⟨none, false, 1, 1, 3, false⟩) (some [0, 0, 1, 0, 5, 6])
     (still t).thread? 1 = some t ∧ ((t.entry? 1).map Entry.state) = some .flight ∧
     0 < (([0, 0, 1, 0, 5, 6] : List Word).getD 2 0).toNat ∧ (([0, 0, 1, 0, 5, 6] : List Word).getD 2 0).toNat ≤ 1) := by decide +kernel

theorem witness_FencesAndBarriers :
    (∀ i ∈ [Instr.fence ⟨false, 0⟩, .fence ⟨false, 5⟩, .qfence ⟨false, 1, 126⟩, .tfence ⟨false, 0⟩], Meets i) ∧
    (∀ i ∈ [Instr.barArrive ⟨false, 0⟩, .barArrive ⟨false, 255⟩, .barSync ⟨false, 0⟩, .barSync ⟨false, 255⟩],
      Solo (signing aThread (some i)) (aChain i) i (laneOf (signing aThread (some i)) i) ∧ (signing aThread (some i)).hasArrived aThread 0 = false ∧
        (signing aThread (some i)).hasArrived aThread 255 = false) ∧
    (∀ i ∈ [Instr.barArrive ⟨false, 0⟩, .barSync ⟨false, 0⟩, .barWait ⟨false, 0⟩],
      let t : Thread := { aThread with arrived := [(0, 0)] }
      Solo (signing t (some i)) (aChain i) i (laneOf (signing t (some i)) i) ∧ (signing t (some i)).hasArrived t 0 = true) ∧
    (let i : Instr := .barWait ⟨false, 0⟩
     let t : Thread := { aThread with arrived := [(0, 5)] }
     Solo (signing t (some i)) (aChain i) i (laneOf (signing t (some i)) i) ∧ Map.get? t.arrived 0 = some 5 ∧ 5 ≠ ((signing t (some i)).namedBar t 0).phase) ∧
    (let i : Instr := .barWait ⟨false, 1⟩
     Alone (signing aThread (some i)) (aChain i) i (laneOf (signing aThread (some i)) i) ∧ Map.get? aThread.arrived 1 = none) := by
  unfold Meets Solo Alone; decide +kernel

theorem witness_FencesAndBarriers_counts : ({ phase := 0, arrivals := 2 } : NamedBar).arrivals < 3 ∧ 2 ≤ ({ phase := 0, arrivals := 2 } : NamedBar).arrivals ∧
    Map.get? still.cells 1 = some aCell ∧ still.thread? 1 = some aThread ∧ ([1] : List Nat) ≠ [] := by decide

/-- An asynchronous barrier in memory: armed with a count of zero, or of one, or not armed. -/
def barred (i : Instr) (low armed : Byte) : State :=
  { withObjects aThread (some i) with mem := if low = 0 then (if armed = 0 then [] else [(0x300007, armed)]) else [(0x300000, low), (0x300007, armed)] }

theorem witness_AsynchronousBarriers : ∀ i ∈ [Instr.abarInit ⟨false, 2, 3⟩, .abarArrive ⟨false, 2, 3⟩, .abarWait ⟨false, 2, 3⟩, .abarTest ⟨false, 2, 3⟩],
    Solo (barred i 0 0x80) (aChain i) i (laneOf (barred i 0 0x80) i) ∧
    passes (barrierOf (laneOf (barred i 0 0x80) i) 3 rightW .write) (barred i 0 0x80) (fun pa s => pa == 0x300000 && decide (s.issue = some (aChain i)) &&
      passes (readBarrier (laneOf (barred i 0 0x80) i) pa 16) s (fun v _ => v == 2 ^ 63)) = true ∧
    passes (readBarrier (laneOf (barred i 1 0x80) i) 0x300000 8) (barred i 1 0x80) (fun v s => v % 2 ^ 48 == 1 && decide (s.issue = some (aChain i))) = true ∧
    passes (readBarrier (laneOf (barred i 0 0) i) 0x300000 8) (barred i 0 0) (fun v _ => v / 2 ^ 63 % 2 == 0) = true := by unfold Solo; decide +kernel

theorem witness_AsynchronousBarriers_arrivals :
    still.isOut 1 = false ∧
    passes (checkEntry 0 0 3 [.barrier] 0) (withObjects) (fun o s1 => passes (Op.reach { tid := 0, ctx := 0, cell := 1, tile := 0, queue := 7, instr := .faultRecordPost, privileged := true } o 0 .write) s1) = true ∧
    stops (checkEntry 0 0 13 [.barrier] 0) (withObjects) (.trap .rights 13) = true ∧
    (2 ^ 63 + 5) / 2 ^ 63 % 2 = 1 ∧ 5 ≤ (2 ^ 63 + 5) % 2 ^ 48 ∧ (2 ^ 63 + 5) / 2 ^ 48 % 2 ^ 14 = 0 ∧ (2 ^ 63 + 5) % 2 ^ 48 < 6 := by decide +kernel

/-- A ring queue bound to descriptor 0, with its counters. -/
def ringed (i : Instr) (tail done head freed : Nat) (closed : Bool := false) (inflight : List Push := []) : State :=
  { signing aThread (some i) with rings := [{ launch := 1, obj := 4, host := 0, tail := tail, done := done, head := head, freed := freed, closed := closed, slots := 4, inflight := inflight }] }

theorem witness_RingQueues : ∀ i ∈ [Instr.qpush ⟨false, 30, 0⟩, .qpop ⟨false, 30, 0⟩, .qcount ⟨false, 4, 0⟩, .qclose ⟨false, 0⟩], ∀ x ∈ [(3, false), (4, false), (4, true)],
    let s := ringed i x.1 0 0 0 x.2
    Solo s (aChain i) i (laneOf s i) ∧ passes (ringOf (laneOf s i) 0 (rightR + rightW)) s (fun o s1 =>
      let r := s1.ring 1 o.1
      Obj.recordWords o == 2 && 30 + Obj.recordWords o == aThread.vregs && r.closed == x.2 && decide (s1.issue = some (aChain i)) &&
        (decide (Obj.slots o ≤ r.tail - r.freed) == (x.1 == 4)) && passes (slotPa (laneOf s i) o r.tail .write) s1 (fun _ s2 => decide (s2.issue = some (aChain i)))) = true := by
  unfold Solo; decide +kernel

/-- A ring whose second record is in flight, its first committed. -/
def aPush : Push := { pos := 1, pa := 0x310008, words := [1, 2], tid := 1 }
def held (after : List Nat) : State :=
  { still (waiting (.ld ⟨none, false, 4, 12, 0, false, 0⟩) none) with
    rings := [{ launch := 1, obj := 4, host := 0, tail := 2, done := 1, slots := 4, inflight := [{ aPush with after := after }] }] }
theorem witness_RingQueues_commit :
    (((held []).rings[0]?).map fun r => (r.inflight.find? fun p => p.pos == 1).isSome) = some true ∧
    ((held [1]).thread? 1).map (fun t => (held [1]).unfinished t 1) = some true := by decide +kernel

/-- A pop on its way, of position 0 in the slot at 0x310000 of queue 4. -/
def popping (done : Nat) (freed : Nat) (closed : Bool) : State :=
  { still (waiting (.qpop ⟨false, 12, 0⟩) (some (numWords (0 + 0x310000 * 2 ^ 64 + 4 * 2 ^ 128) 5))) with
    rings := [{ launch := 1, obj := 4, host := 0, tail := done, done := done, head := 1, freed := freed, closed := closed, slots := 4 }] }
theorem witness_RingQueues_replies : ∀ x ∈ [(1, 0, false), (1, 2, false), (0, 0, true), (0, 0, false)],
    let s := popping x.1 x.2.1 x.2.2
    ((s.thread? 1).bind fun t => (t.entry? 1).map fun e => (e.state, wordsNum (e.reply.getD []))) = some (.flight, 0x310000 * 2 ^ 64 + 4 * 2 ^ 128) ∧
      (s.ring 1 4).done = x.1 ∧ (s.ring 1 4).freed = x.2.1 ∧ (s.ring 1 4).closed = x.2.2 := by decide +kernel

/-- Convergence register 0 of cell 1: without a count, with one, and with an operation open. -/
def declared (i : Instr) (v : Cv) : State := { signing aThread (some i) with cells := [(1, { aCell with cvs := [(0, v)] })] }
theorem witness_ConvergenceSets : let i : Instr := .cvdecl ⟨false, 0, 1023⟩
    ∀ v ∈ [({} : Cv), { count := 1024 }, { count := 2, opens := [{ k := 0, instr := .accz ⟨false, 0, 0⟩ }] }],
      Solo (declared i v) (aChain i) i (laneOf (declared i v) i) ∧ Alone (declared i v) (aChain i) i (laneOf (declared i v) i) ∧
      (declared i v).cvOf aThread 0 = v := by unfold Solo Alone; decide +kernel

/-- A signature that joins a set of two, as the first or as the second. -/
theorem witness_ConvergenceSets_joins : ∀ n ∈ [0, 1],
    let op : Op := { tid := 1, ctx := 0, cell := 1, queue := 4, instr := .accz ⟨false, 0, 0⟩ }
    let v : Cv := { count := 2, opens := if n = 0 then [] else [{ k := 0, instr := .accz ⟨false, 0, 0⟩, signers := [3] }] }
    let s : State := { still with ops := [(7, op)], cells := [(1, { aCell with cvs := [(0, v)] })] }
    s.thread? 1 = some aThread ∧ Map.get? s.ops 7 = some op ∧ (Map.get? s.cells 1).isSome ∧ cvName (.accz ⟨false, 0, 0⟩) = 0 ∧
      ((s.cvOf aThread 0).opens.find? fun o => o.k == aThread.signedOn 0).map (fun o => o.signers.length) = (if n = 0 then none else some n) := by
  decide +kernel

theorem witness_ObjectChecks :
    (withObjects).ctx? 0 = some { aContext with otcount := 64 } ∧ ({ aContext with otcount := 64 } : Context).otcount.toNat % 2 ^ 17 ≤ 64 ∧
    passes (readEntry 0 0 40) (withObjects) (fun o _ => !Obj.holds o) = true ∧
    passes (readEntry 0 0 3) (withObjects) (fun o _ => Obj.holds o && Obj.kind? o == some .barrier) = true ∧
    (ObjKind.barrier ∉ [ObjKind.buffer]) ∧
    (let o : Obj := (3, halves (entry 5 0 1 3 0x300000)); Obj.holds o = true ∧ Obj.kind? o = some .barrier ∧ rightW &&& (63 - Obj.rights o) ≠ 0 ∧
      rightR &&& (63 - Obj.rights o) = 0) := by decide +kernel

theorem witness_EngineSubmission : let i : Instr := .cast ⟨some 1, false, 0, 0, 2⟩
    passes (submit (aChain i) i (laneOf (withObjects aThread (some i)) i) 2 0 [] [] 0) (withObjects aThread (some i)) (fun id _ => id == 2) = true := by
  decide +kernel

/-! ## Operations that perform -/

/-- An object of the table as an operation holds it. -/
def objOf (n : Nat) : Obj := (n, halves ((Map.get? objects n).getD []))

/-- Operation 7 of thread 1, alone in its queue. -/
def anOp (q : Nat) (i : Instr) (objs : List Nat) (args : List Nat := []) (signers : List Nat := []) : Op :=
  { tid := 1, ctx := 0, cell := 1, queue := q, instr := i, privileged := true, args := args.map (BitVec.ofNat 32), objs := objs.map objOf, signers := signers }
def due (op : Op) : State := { signing with ops := [(7, op)] }

/-- It may perform. -/
def IsDue (op : Op) : Prop := Due (due op) 7 op

/-- Its event leaves it done: out of its queue. -/
def performs (ev : Nat → Instr) (op : Op) : Bool :=
  match exec (ev 7) (due op) with
  | .next u => (Map.get? u.ops 7).isNone
  | _ => false

theorem witness_CasterPerforms : ∀ x ∈ ([(.casterCopy, anOp 0 (.cast ⟨some 21, false, 0, 0, 21⟩) [21, 21]), (.casterCopy, anOp 0 (.castT8 ⟨some 22, false, 0, 0, 22⟩) [22, 22]),
   (.casterCopy, anOp 3 (.castT16 ⟨some 21, false, 3, 0, 21⟩) [21, 21]), (.castwPerform, anOp 0 (.castw ⟨some 20, false, 0, 1⟩) [20] [1]),
   (.castwPerform, anOp 0 (.castwCb3 ⟨some 1, false, 0, 1⟩) [1] [1]), (.casttabPerform, anOp 0 (.casttab ⟨some 1, false, 0, 0, 0⟩) [1] [0, 0])] : List ((Nat → Instr) × Op)),
    (Map.get? (due x.2).ops 7 = some x.2 ∧ (due x.2).opReady 7 x.2 = true) ∧ performs x.1 x.2 = true := by decide +kernel

/-- A copy with a barrier stays until its bytes have arrived. -/
theorem witness_CasterPerforms_barrier :
    let op : Op := { anOp 0 (.cast ⟨some 21, false, 0, 3, 21⟩) [21, 21, 3] with performed := true, bytes := 2 }
    Map.get? (due op).ops 7 = some op ∧ op.performed = true ∧ op.fault = none ∧ (due op).working op.ctx = true ∧
      passes (op.reach (objOf 3) 0 .write) (due op) = true ∧ Map.get? (due (anOp 0 op.instr [21, 21, 3])).ops 7 = some (anOp 0 op.instr [21, 21, 3]) := by
  decide +kernel

def anvilOps : List Op :=
  [anOp 4 (.accz ⟨false, 0, 7⟩) [] [] [7], anOp 4 (.accld ⟨some 19, false, 0, 0⟩) [19] [] [7], anOp 4 (.accst ⟨some 19, false, 0, 0, 0⟩) [19] [] [7],
   anOp 4 (.accstAdd ⟨some 19, false, 0, 0, 0⟩) [19] [] [7], anOp 4 (.accrd ⟨false, 0, 0, 4, 2⟩) [] [2] [7],
   anOp 4 (.mma ⟨some 22, false, 0, 0, 8⟩) [22, 22] [0x80000016] [7], anOp 4 (.mmas ⟨some 22, false, 0, 0, 8, 9⟩) [22, 22, 18, 18] [0x80000016, 0x120012] [7],
   anOp 4 (.mseq ⟨some 1, false, 0, 0⟩) [23, 24, 25, 26, 26] [1, 0] [7]]

theorem witness_AnvilPerforms : ∀ op ∈ anvilOps, IsDue op ∧ op.signers ≠ [] := by unfold IsDue Due; decide +kernel

/-- A zeroing, a read and a product complete; so does the product of a CB3 slot once its columns are expanded. -/
theorem witness_AnvilPerforms_done : ∀ x ∈ ([(.acczPerform, anOp 4 (.accz ⟨false, 0, 7⟩) [] [] [7]), (.accrdPerform, anOp 4 (.accrd ⟨false, 0, 0, 4, 2⟩) [] [2] [7]),
    (.mmaPerform, anOp 4 (.mma ⟨some 22, false, 0, 0, 8⟩) [22, 22] [0x80000016] [7])] : List ((Nat → Instr) × Op)), performs x.1 x.2 = true := by
  decide +kernel

/-- An MMA on a CB3 slot of one column: not expanded yet, and with the table of its block at hand. -/
def cb3Op : Op := anOp 4 (.mma ⟨some 27, false, 0, 0, 0⟩) [27] [0] [7]
def cb3State : State :=
  { due cb3Op with tiles := [(0, { aTile objects with anvil := { owner := some 0, slots := [(0, { fmt := some stampCb3, rows := 128, cols := 1, tables := [(0, List.replicate 8 0)] })] } })] }
theorem witness_AnvilPerforms_cb3 :
    let op := cb3State.startCb3 cb3Op
    Map.get? cb3State.ops 7 = some cb3Op ∧ cb3State.opReady 7 cb3Op = true ∧ op.mmaParts.isSome ∧ (op.mmaParts.bind MmaParts.slot) = some 0 ∧ op.bytes ≠ 0 ∧
      op.signArgs.length < cb3Cols op.bytes ∧ 0 < cb3Cols op.bytes ∧ (Map.get? (cb3State.weightSlot op.tile 0).tables (cb3Bank op.bytes * 128 + 0)).isSome ∧
      Map.get? op.signArgs 0 = none := by decide +kernel

/-- Nothing waits in a state without operations, nor where what it follows has not performed. -/
theorem witness_Waits : (Map.get? still.ops 7 = none) ∧
    (let s : State := { signing with ops := [(6, anOp 4 (.accz ⟨false, 0, 7⟩) [] [] [6]), (7, { anOp 4 (.accz ⟨false, 0, 7⟩) [] [] [7] with after := [6] })] }
     (Map.get? s.ops 7).map (s.opReady 7) = some false) := by decide +kernel

theorem witness_ReductionsPerform : ∀ x ∈ ([(.tileReductionPerform, anOp 4 (.rmaxW ⟨some 13, false, 0, 15⟩) [15, 14, 13] [0x1111]), (.tileReductionPerform, anOp 4 (.rminW ⟨some 13, false, 0, 15⟩) [15, 14, 13] [0x1111]),
   (.tileReductionPerform, anOp 4 (.rmedW ⟨some 13, false, 0, 15⟩) [15, 14, 13] [0x1111]),
   (.clampSumPerform, anOp 4 (.rclampW ⟨some 13, false, 4, 16⟩) [16, 14, 13] [0, 0x3F800000]),
   (.clampSumPerform, anOp 4 (.rssumW ⟨some 13, false, 0, 17⟩) [17, 14, 13] [0x1111, 0, 0x3F800000]),
   (.adjbPerform, anOp 4 (.adjb ⟨some 14, false, 20, 15⟩) [15, 14, 13] [0xFFFF000D, 0x1111]),
   (.crSetReduction, anOp 4 (.rmaxWCr ⟨false, 0, 0, 4, 0, false⟩) [] [5] [7])] : List ((Nat → Instr) × Op)),
    (Map.get? (due x.2).ops 7 = some x.2 ∧ (due x.2).opReady 7 x.2 = true) ∧ performs x.1 x.2 = true := by decide +kernel

theorem witness_TraversalUnitPerforms : ∀ x ∈ ([(.traceWalk, anOp 5 (.trace ⟨some 6, false, 4, 0⟩) [6, 1] (List.replicate 8 0x3F800000)), (.traceWalk, anOp 5 (.tracea ⟨some 6, false, 4, 0⟩) [6, 1] (List.replicate 8 0x3F800000)),
   (.spectralFetch, anOp 5 (.stex ⟨some 7, false, 4, 0, 1⟩) [7, 1] (List.replicate 8 0x3F800000)),
   (.rgbUpsampleFetch, anOp 5 (.stexup ⟨some 8, false, 4, 0, 1⟩) [8, 1] (List.replicate 8 0x3F800000)),
   (.cmfProjectFetch, anOp 5 (.scmf ⟨some 9, false, 4, 0, 1⟩) [9, 1] (List.replicate 8 0x3F800000)),
   (.filmAddPerform, anOp 5 (.filmAdd ⟨some 10, false, 0, 0, 1⟩) [10] (0 :: List.replicate 8 0x3F800000)), (.filmRdPerform, anOp 5 (.filmRd ⟨some 10, false, 4, 0, 0⟩) [10] [0, 0]),
   (.rastPerform, anOp 5 (.rast ⟨some 11, false, 0, 1⟩) [1, 12, 2] [0, 1]), (.visrdPerform, anOp 5 (.visrd ⟨some 12, false, 4, 0, 0⟩) [12, 2] [0, 0])] : List ((Nat → Instr) × Op)),
    (Map.get? (due x.2).ops 7 = some x.2 ∧ (due x.2).opReady 7 x.2 = true) ∧ performs x.1 x.2 = true := by decide +kernel

/-- A send within the package. -/
theorem witness_CollectivesPerform : let op := anOp 6 (.fsend ⟨false, 12, 1⟩) [1] [0, 16, 0x200000, 0xFFFF]
    (Map.get? (due op).ops 7 = some op ∧ (due op).opReady 7 op = true) ∧ performs .fsendPerform op = true := by decide +kernel

/-- A tree's first entry sends the chunk on, its window is open or aborted, and a result waits for it. -/
def aPacket : CollPacket := { job := 1, tree := 0, chunk := 0, op := 0, ty := 0, hops := 3, rank := 0, entries := [], data := [], resent := false }
def onTree (aborted : Bool) : Fabric :=
  { opens := [(0, { ctx := 0, cell := 1, dst := BitVec.ofNat 32 2 :: (objOf 2).2, barrier := (objOf 3).2, barIndex := 3, aborted := aborted })], deliveries := [aPacket] }
theorem witness_CollectivesPerform_trees :
    ((Map.get? (onTree true).opens 0).any OpenTree.aborted = true ∧ (Map.get? (onTree false).opens 0).any OpenTree.aborted = false) ∧
    ((onTree false).deliveries.find? fun p => p.tree == 0 && p.chunk == 0) = some aPacket ∧ ((onTree false).deliveries.find? fun p => p.tree == 0 && p.chunk == 1) = none ∧
    Map.get? (onTree false).opens 1 = none ∧ ((Map.get? (onTree false).opens 0).map OpenTree.fault) = some none ∧
    (let s : State := { still with fabric := { aborts := [(1, 2)] } }; s.fabric.aborts.contains (1, 2) = true ∧ s.fabric.aborts.contains (1, 3) = false) ∧
    (let op : Op := { anOp 6 (.fsend ⟨false, 12, 1⟩) [1, 3] [0, 16, 0x200000, 3] with performed := true }
     Map.get? (due op).ops 7 = some op ∧ op.progress ≠ 1 ∧ op.fault = none ∧ (due op).working op.ctx = true ∧ passes (op.reach (objOf 3) 0 .write) (due op) = true) := by
  decide +kernel

/-! ## Launches, cells, threads and contexts -/

/-- A record of one FLAT stage at offset 0x600000, as R35 and R36 lay it out: a cell of one thread at word 0 with 8 v registers and no queue. -/
def aRecord : List Host.Cell :=
  [(0x600000, 0x02), (0x600001, 0x0C), (0x600005, 1), (0x600144, 8), (0x60015C, 1)] ++ (List.range 64).map fun k => (0x600180 + k, 255)

/-- Thread 1 with LAUNCH's entry on its way, the record at hand, on tile 0 and on the tile of the I/O die. -/
def launching (off : Nat) (cow : Bool := false) : State :=
  let page : Tlb := { aPage with w := !cow, cow := cow }
  { still (waiting (.launch ⟨false, 12, 2⟩) none .flight { a := [(BitVec.ofNat 32 off, .full), (0, .full)] }) with
    mem := aRecord, fltring := 1, tiles := [(0, { tlb := [page] }), (ioTile, { tlb := [page] })] }

theorem witness_LaunchWords : (∀ i ∈ [Instr.launch ⟨false, 4, 0⟩, .launch ⟨false, 4, 2⟩], Meets i ∧
      (let srcs := aThread.sourcesOf true 0 i; emptyCause srcs (aThread.capture srcs) = none) ∧ MeetsAlone i) ∧
    (laneOf (one (.launch ⟨false, 4, 0⟩)) (.launch ⟨false, 4, 0⟩)).a % 64 = 0 ∧ (laneOf (one (.launch ⟨false, 4, 2⟩)) (.launch ⟨false, 4, 2⟩)).a % 64 ≠ 0 ∧
    passes (enqueueRecord 0 0 0x600000) (launching 0x600000) (fun code _ => code == 0) = true ∧
    passes (enqueueRecord 0 0 0x40000000) (launching 0x40000000) (fun code _ => code == 1) = true ∧
    (match enqueueRecord 0 0 0x600000 (launching 0x600000 true) with | .error (.parked _) => true | _ => false) = true := by
  unfold Meets MeetsAlone Solo Alone; decide +kernel

/-- The record queued, as the first of priority 0; accepted, to be placed; or beyond what a page maps. -/
def queued (phase : LaunchPhase) (off : Nat := 0x600000) : State :=
  let s := launching off
  { s with threads := [], cells := [], ctxs := [(0, { aContext with queues := [(0, [5])] })]
           launches := [(5, { ctx := 0, recPa := off, recOff := off, phase := phase, stages := [{ vregs := 8, widths := [1, 0, 0, 0, 0, 0], extents := [1, 1, 1, 1, 1, 1] }] })] }
theorem witness_Distribution :
    ((queued .queued).takesLaunches 0 = true ∧ State.reset.takesLaunches 0 = false) ∧
    (Map.get? (queued .queued).launches 5).any (fun l => l.phase == .queued && l.fault.isNone &&
      passes (examine l) (queued .queued) (fun x _ => x.1 == 1 && x.2.stages.length == 1)) = true ∧
    (Map.get? (queued .queued 0x700000).launches 5).any (fun l => passes (examine l) (queued .queued 0x700000) (fun x _ => x.1 == 0x10)) = true := by decide +kernel
theorem witness_Distribution_place : let s := queued .accepted
    ((s.parkDependence.offers.findSome? fun x => if s.parkDependence.eligible x.2 then (s.parkDependence.firstFit x.1 x.2 47).map fun f => (x.1, f.1) else none) =
      some (5, 0)) := by decide +kernel

/-- A cell whose one thread has ended with all done, of a FLAT, a LAZY or an EVEN launch, or of none. -/
def spent (dist : Option Nat) : State :=
  { still { aThread with ended := true } with launches := dist.toList.map fun d => (1, { aLaunch with dist := d }) }
theorem witness_CellsAndStealing : still.cellSpent 1 = false ∧ aCell.complete = false ∧ still.spent 1 aThread = false ∧
    ∀ d ∈ [none, some 0, some 1, some 2], (spent d).cellSpent 1 = true ∧ Map.get? (spent d).cells 1 = some aCell ∧
      (Map.get? (spent d).launches 1).map (fun l => (ranged l ((spent d).stageRec 1 0), l.dist == 2)) = d.map fun n => (n != 0, n == 2) := by decide +kernel

/-- Cluster 2 idle beside cluster 3 that holds values or none. -/
def stealing (c : Cluster) (hi : Nat) : State :=
  { still with clusters := [(2, c), (3, { launch := 1, quad := 0, cells := [1], d := some 0, lo := 0, hi := hi })], cells := [(1, aCell), (4, { aCell with cluster := 2 })]
               launches := [(1, { aLaunch with dist := 1, stages := [{ divided := true }] })] }
def idling : Cluster := { launch := 1, quad := 0, cells := [4] }
theorem witness_CellsAndStealing_steals :
    (stealing idling 0).idle 2 = some idling ∧ idling.idleSince = none ∧ (stealing { idling with d := some 0 } 0).idle 2 = none ∧
    (let c := { idling with idleSince := some 0, asking := true }
     (stealing c 0).idle 2 = some c ∧ ((stealing c 0).stealPath 2 c).find? (fun x => decide (1 ≤ x.2.spare)) = none ∧
     (((stealing c 9).stealPath 2 c).find? (fun x => decide (1 ≤ x.2.spare))).map Prod.fst = some 3) ∧
    (let c := { idling with idleSince := some 0 }
     (stealing c 0).idle 2 = some c ∧ c.asking = false ∧ c.mesh = false) := by decide +kernel

/-- A pipeline whose second stage reads ring queue 4, open or closed, drained or not, before or at its epoch. -/
def piped (closed : Bool) (tail : Nat) (epoch : Nat) : State :=
  { still with cells := [], threads := [], rings := [{ launch := 1, obj := 4, host := 0, tail := tail, done := tail, closed := closed, slots := 4 }]
               launches := [(1, { aLaunch with pipeline := true, epoch := epoch, stages := [{ closed := true, outmask := 1, qbind := [(0, 4)] }, { input := some 0, qbind := [(0, 4)] }] })] }
theorem witness_StagePipelines : ∀ x ∈ [(false, 0), (true, 0), (true, 2)],
    let s := piped x.1 x.2 0
    ((Map.get? s.launches 1).any fun l => (l.stages[1]?).any fun t => l.pipeline && !t.closed && l.phase == .running &&
      decide (s.inputRing 1 t = some { launch := 1, obj := 4, host := 0, tail := x.2, done := x.2, closed := x.1, slots := 4 })) = true ∧
      s.clustersOf 1 1 = [] ∧ (Map.get? s.launches 1).map Launch.epoch = some 0 ∧ (Map.get? (piped true 0 1).launches 1).map Launch.epoch = some 1 := by
  decide +kernel

/-- Mobile threads of one key on two partitions of tile 0 and on tile 1. -/
def mobile (tile part pos : Nat) : Thread := { aThread with mobile := true, tile := tile, part := part, pos := pos, place := .crucible 0 }
def gathering : State :=
  let p : Partition := { crucibles := [(0, { ctx := 0, pc := 0, key := 0 })] }
  { still with threads := [(1, mobile 0 0 0), (2, mobile 0 1 0), (3, mobile 1 0 0), (4, mobile 1 0 1)]
               tiles := [(0, { aTile with parts := [(0, p), (1, p)] }), (1, { aTile with parts := [(0, p)] })] }
theorem witness_RiddleMoves : gathering.riddleTarget 0 ⟨0, 0, 0⟩ = some 0 ∧ (∀ p ∈ List.range 4, gathering.heldFor 0 p ⟨0, 3, 0⟩ = []) ∧
    gathering.mayMove 1 (mobile 0 0 0) = true ∧ still.mayMove 1 aThread = false ∧
    (gathering.thread? 1 = some (mobile 0 0 0) ∧ Map.get? (gathering.partition 0 0).crucibles 0 = some ⟨0, 0, 0⟩ ∧ gathering.isStopped 0 0 = false ∧
     gathering.ageOf (mobile 0 0 0) ≤ Map.getD ({ gathering.partition 0 0 with low := [(0, 100000)] } : Partition).low 0 0 ∧
     gathering.exportTo 0 ⟨0, 0, 0⟩ = some (1, 0, 2) ∧ gathering.readyFor 0 0 ⟨0, 0, 0⟩ < 2 ∧ gathering.slotFor (mobile 0 0 0) 1 0 = true) ∧
    ({ aThread with going := some (1, 0) } : Thread).going = some (1, 0) ∧ aThread.going = none := by decide +kernel

/-- Context 3 without threads beside context 0, which saves it at 0x700000. -/
def saver : Thread := { aThread with v := [(2, ⟨3, .full⟩), (3, ⟨0x700000, .full⟩), (4, ⟨4, .full⟩), (5, ⟨0x700000, .full⟩)] }
def saving (i : Instr) : State := { withObjects saver (some i) with ctxs := [(0, aContext), (3, {})] }

theorem witness_ContextEvents_save : let i : Instr := .ctxsave ⟨false, 2⟩
    let s := (saving i).stopNamed (aChain i) i
    Solo (saving i) (aChain i) i (laneOf (saving i) i) ∧ Solo s (aChain i) i (laneOf (saving i) i) ∧ s.nextId = (saving i).nextId ∧
      passes (ctxsaveWork (laneOf (saving i) i)) { s with nextId := s.nextId + 1 } (fun _ s' => s'.issue.isSome && decide ((s'.issue.bind Issue.raised) = none)) = true := by
  unfold Solo; decide +kernel

/-- An area that holds a header of one empty section, as a save with token 9 leaves it, and the image it names. -/
def areaHeader : List Host.Cell :=
  [(0x700000, 0x43), (0x700001, 0x58), (0x700002, 0x53), (0x700003, 0x32), (0x700004, 2), (0x700006, 1), (0x700008, 0xC0), (0x700040, 1), (0x700044, 0x40),
   (0x700048, 0x80)]
def loadable (i : Option Instr) : State :=
  { withObjects saver i with mem := areaHeader, images := [(0, { ctx := 3, context := {} })] }
theorem witness_ContextEvents_load : let i : Instr := .ctxload ⟨false, 4⟩
    Solo (loadable (some i)) (aChain i) i (laneOf (loadable (some i)) i) ∧
      passes (ctxloadWork (laneOf (loadable (some i)) i)) (loadable (some i)) (fun _ s' => s'.issue.isSome && decide ((s'.issue.bind Issue.raised) = none)) = true ∧
      stops (ctxloadWork (laneOf (loadable (some i)) i)) { loadable (some i) with mem := [] } (.trap .bounds 0) = true := by unfold Solo; decide +kernel

/-- A restore that waits for slot 3 or 4, and a detached reply of a saved thread. -/
def restoring (slot : Nat) : State :=
  { still with images := [(0, { ctx := 3, context := {}, loading := some { slot := slot, tid := 1, pages := [(0x700000, 0x10000)] } })] }
def aDetached : Image := { ctx := 3, context := {}, threads := [(8, { waiting (.ld ⟨none, false, 4, 12, 0, false, 0⟩) (some [5]) with ctx := 3 })], order := [8] }
theorem witness_ContextEvents_restore :
    ((restoring 4).images.all fun x => x.2.loading.all fun g => g.slot != 3) = true ∧
    (((restoring 3).images.findSome? fun x => (x.2.loading.filter fun g => g.slot == 3).map fun g => x.1) = some 0) ∧ ((restoring 3).ctx? 3).isSome = false ∧
    ({ ctx := 3, context := {} } : Image).answered [] = true ∧
    (let s : State := { still with images := [(0, aDetached)] }
     (s.images.find? fun x => x.2.ctx == 3 && (Map.get? x.2.threads 8).isSome) = some (0, aDetached) ∧ aDetached.recordAt 8 = some 0 ∧
     (Map.get? aDetached.threads 8).any (fun t => (t.entry? 1).any fun e => e.state == .flight && !e.attached && (s.detachedReply aDetached e).isSome) = true) := by
  decide +kernel

theorem witness_ContextEvents_rows : (still.ctx? 15 = none ∧ still.boot.phase ≠ .recovery ∧ still.ctx? 0 = some aContext) ∧
    (let s : State := { still with threads := [], ctxs := [(0, { aContext with phase := .halting })] }
     s.ctx? 0 = some { aContext with phase := .halting } ∧ s.haltPending 0 = false) := by decide +kernel

/-! ## Other agents and devices -/

theorem witness_RemoteRequests : State.reset.fabric.seen.contains (1, 0) = false ∧ shared 0 4 = true ∧ shared 0x7FFFFFFFFC 4 = true ∧ shared 0x8000000000 4 = true ∧
    shared 0x10000000000 4 = false ∧ shared 0 65536 = true ∧ (still.writeOutside [(5, 1)]).isSome ∧ (still.atomicOutside 0 4 .add 1 0).isSome ∧
    (still.vectorLanes 1 0 4 .load [] [⟨0, 0, 0⟩]).isSome ∧
    (let s : State := { still with fabric := { seen := [(1, 0)] } }; s.fabric.seen.contains (1, 0) = true) := by decide +kernel

/-- A held release whose stream is complete or not, and copies in the retry store that have been sent again up to eight times. -/
theorem witness_RemoteRequests_held : (∀ n ∈ [0, 1],
      let h : HeldRelease := { src := 1, seq := 0, payload := .release 0 [(0, 1)] 2, missing := n }
      (({ held := [h] } : Fabric).held.find? fun h => h.src == 1 && h.seq == 0) = some h) ∧
    (∀ p ∈ [Payload.load 0 4, .push aPacket], ∀ n ∈ [0, 7, 8],
      Map.get? ({ retry := [(3, { target := 1, payload := p, resends := n })] } : Fabric).retry 3 = some { target := 1, payload := p, resends := n }) := by decide +kernel

theorem witness_HostRequests : (2 ^ 26 - 1 < 2 ^ 26 ∧ 2 ^ 26 ≤ 2 ^ 40) ∧ (0 < 2 ∧ 1 < 2 ∧ 2 ≤ 2) ∧ atomNew .add 32 1 2 0 = some 3 ∧ atomNew .cas 64 1 1 7 = some 7 ∧
    MemOp.min true ≠ .add := by decide +kernel

/-- A port with all lanes, with one spared, or dead. -/
theorem witness_LinkEvents : ∀ x ∈ [(false, false), (true, false), (true, true)],
    let f : Fabric := { links := [(23, { up := !x.2, spared := x.1, dead := x.2 })] }
    (f.link 23).spared = x.1 ∧ (f.link 23).dead = x.2 ∧ (f.link 23).disable = false := by decide

theorem witness_RegisterAndRefreshRows : still.ctx? 0 = some aContext ∧ still.thread? 1 = some aThread ∧ still.ctx? 1 = none ∧ still.thread? 2 = none ∧
    (∀ x ∈ [(1, 0), (1, 7), (1, 8), (0, 0), (0, 7), (0, 8)],
      let s : State := { still with refresh := [(0, { step := x.1, owed := x.2 })] }
      (s.pch 0).step = x.1 ∧ (s.pch 0).owed = x.2 ∧ s.bankBusy 0 (s.pch 0).bank = false) ∧
    regionOf 0x800 = .hbm ∧ 1 ∉ still.boot.rows ∧ regionOf 0x8000000000 ≠ .hbm ∧ still.oldestAccess 0 = none := by decide +kernel

theorem witness_RegisterAndRefreshRows_access :
    let s := still (waiting (.ld ⟨none, false, 4, 12, 0, false, 0⟩) none .flight atZero)
    (s.oldestAccess (pchOf 0)).isSome = true := by decide +kernel

theorem witness_TimingBlock : State.reset.timing.src ≠ 2 ∧ (let s : State := { State.reset with timing := { src := 2 } }; s.timing.src = 2) ∧
    (let s : State := { State.reset with deferred := [.fire 15, .fireFailed 0] }
     .fire 15 ∈ s.deferred ∧ .fire 0 ∉ s.deferred ∧ .fireFailed 0 ∈ s.deferred ∧ .fireFailed 15 ∉ s.deferred) ∧
    (let s : State := { launching 0x600000 with timing := ({} : Timing).setTrigger 3 { record := 0x600000 } }
     (s.timing.trigger 3).record.toNat % 2 ^ 32 % 64 = 0 ∧
       passes (enqueueRecord ioTile ((s.timing.trigger 3).record.toNat / 2 ^ 32 % 16) ((s.timing.trigger 3).record.toNat % 2 ^ 32)) s (fun code _ => code == 0) = true) ∧
    (({} : Timing).setTrigger 3 { record := 0x600001 }).trigger 3 = { record := 0x600001 } := by decide +kernel

/-- The port unlocked, and a partition stopped or sampled. Whether an owner key is fused is each device's own, so that of the two cases
of DBGAUTH one is met by any device. -/
def debugging (stopped : Bool) (cls num : Nat) : State :=
  { still with port := { State.reset.port with locked := false }, debug := [(0, { stopped := stopped, sampctl := 0x80000000, reg := BitVec.ofNat 32 (num + 512 * cls) })] }
theorem witness_DebugAccess : (∀ b ∈ [false, true], (debugging b 0 0).port.locked = false ∧ ((debugging b 0 0).block 0 0).stopped = b ∧
      ((debugging b 0 0).block 0 0).sampctl.getLsbD 31 = true ∧ ((debugging b 0 0).selected 0 0).map Prod.fst = some 1 ∧
      ((debugging b 0 0).nextSample 0 0 none).map Prod.fst = some 1 ∧ (debugging b 0 0).selected 0 1 = none) ∧
    aThread.refuses 0 1 = false ∧ aThread.refuses 0 32 = true ∧ State.reset.port.locked = true ∧ State.reset.port.addr.getLsbD 63 = false ∧
    (Config.ownerKey = none ∨ ∃ key, Config.ownerKey = some key) := by
  refine ⟨by decide +kernel, by decide +kernel, by decide +kernel, by decide, by decide, ?_⟩
  cases h : Config.ownerKey
  · exact .inl rfl
  · exact .inr ⟨_, rfl⟩

theorem witness_PowerAndFirmware : (still.tile 0).power = .run ∧ still.hasReady 1 = false ∧ still.hasWork 1 = false ∧ still.resident 0 = true ∧
    (let s : State := { still with cycle := 3600000 }
     (s.tile 1).power ≠ .retain ∧ s.resident 1 = false ∧ (s.tile 1).busy + 1000 * (s.tile 1).tfreq ≤ s.cycle) ∧
    still.boot.phase ≠ .recovery ∧ still.boot.retired.contains 5 = false ∧ still.boot.virtual 5 = some 5 ∧
    ({ retired := [5] } : Boot).retired.contains 5 = true ∧
    ((Config.imagePasses [] = true) ∨ (Config.imagePasses [] = false)) := by
  refine ⟨by decide, by decide +kernel, by decide +kernel, by decide +kernel, by decide +kernel, by decide, by decide, by decide, by decide, ?_⟩
  cases Config.imagePasses []
  · exact .inr rfl
  · exact .inl rfl

/-- A chain in progress, one at its end, a selector's turn with a ready thread, an agenda, a write's consequence, and nothing at all. -/
def ready : State :=
  { still with tiles := [(0, { aTile with parts := [(0, { crucibles := [(0, { ctx := 0, pc := 0, key := 0 })] })] })] }
theorem witness_StepRunsDecoded :
    (∃ iss, (one (.iadd a3)).issue = some iss ∧ iss.todo = []) ∧
    (∃ iss, ({ one (.iadd a3) with issue := some { aChain (.iadd a3) with todo := [{ instr := .nop ⟨false⟩, pc := 0 }] } } : State).issue = some iss ∧
      iss.todo = { instr := .nop ⟨false⟩, pc := 0 } :: []) ∧
    ready.Idle ∧ ready.nextPartition (ready.focus.1 * 4 + ready.focus.2) = some 0 ∧ ready.dispatched 0 0 = ready ∧
    ({ still with threads := [] } : State).nextPartition 0 = none ∧
    (ready.isStopped 0 0 = false ∧ (ready.tile 0).power = .run ∧ (ready.block 0 0).held = none ∧ (ready.chosenSource 0 0).isSome ∧
      ((ready.chosenSource 0 0).map fun c => c.drawn.map Prod.fst) = some [1]) ∧
    ((ready.fetchPacket 0 0 0).1 matches .ok _) = true ∧
    decodeWords (wordsFrom 0 ([0, 4, 8].map (ready.textWord aThread))) = .ok (.nop ⟨false⟩, 1) ∧ chainedOf (.nop ⟨false⟩) = false := by
  refine ⟨⟨_, rfl, rfl⟩, ⟨_, rfl, rfl⟩, ⟨rfl, rfl, rfl, rfl⟩, ?_⟩
  decide +kernel

theorem witness_StampExpansion :
    expandStamp ⟨0x7C044000, 0x2000000C, 0xC9040180⟩ ⟨true, 5, 2, 4, 5⟩ = .ok (.ffma ⟨some ⟨0, false, 2, 16, false, 0⟩, true, 18, 4, 5, false, false⟩) ∧
    expandStamp ⟨0, 0, 0⟩ ⟨true, 5, 2, 4, 5⟩ = .error (.dieundef, 5) := by decide

/-- IADD's word as the base of a die with two register holes, 97 added in the first: the greatest register that fits, and one past it. -/
theorem witness_StampExpansion_holes : let d : Die := ⟨0, 0x08000000, BitVec.ofNat 32 (2 ^ 31 + (128 + 97) * 2 ^ 20 + 256 * 2 ^ 10)⟩
    d.holes.getLsbD 31 = true ∧ d.holes.getLsbD 30 = false ∧ d.hole 1 = (1, 97) ∧ d.hole 2 = (2, 0) ∧ d.hole 3 = (0, 0) ∧
      d.base.toNat / 2 ^ 25 % 64 = 4 ∧ aFormat 4 = true ∧ (holeField 4 false 1).isSome = true ∧
      ((holeField 4 false 1).all fun x => decide (2 ^ x.2.2 ≤ 97 + 31)) = true ∧ 97 + 30 < 128 ∧
      ((expandWords d ⟨true, 5, 30, 31, 0⟩) matches .ok _) = true ∧ ((expandStamp d ⟨true, 5, 31, 0, 0⟩) matches .error (.illeg, _)) = true := by decide

/-! ## Results of one instruction, computed by hand from the rules named -/

/-- A v register of thread 1 after it has issued an instruction, with v2 and v6 as given. -/
def result (i : Instr) (v2 v6 : Nat) (n : Nat) : Option Nat :=
  match exec i (one i { aThread with v := [(2, ⟨BitVec.ofNat 32 v2, .full⟩), (3, ⟨1, .full⟩), (6, ⟨BitVec.ofNat 32 v6, .full⟩), (7, ⟨0, .full⟩)] }) with
  | .next s => (s.thread? 1).map fun t => (t.vreg n).val.toNat
  | _ => none

-- R85: low 32 bits of the exact value; the bits above them; a count of 32 or more; an extract that meets the top
theorem test_iadd_wraps : result (.iadd a3) 0xFFFFFFFF 2 4 = some 1 := by decide +kernel
theorem test_isub_order : result (.isub a3) 5 7 4 = some 0xFFFFFFFE := by decide +kernel
theorem test_imulh_signs : result (.imulh a3) 0xFFFFFFFF 2 4 = some 0xFFFFFFFF := by decide +kernel
theorem test_iabs_least : result (.iabs a2) 0x80000000 0 4 = some 0x80000000 := by decide +kernel
theorem test_iandn_order : result (.iandn a3) 0xFF 0x0F 4 = some 0xF0 := by decide +kernel
theorem test_ishl_width : result (.ishl a3) 1 32 4 = some 0 := by decide +kernel
theorem test_isar_beyond : result (.isar a3) 0x80000000 200 4 = some 0xFFFFFFFF := by decide +kernel
theorem test_ibfx_top : result (.ibfx a3) 0xABCDEF01 (28 + 63 * 32) 4 = some 0xA := by decide +kernel
-- R86: a zero divisor, the quotient that overflows, and truncation toward zero
theorem test_idiv_zero : result (.idiv a3) 7 0 4 = some 0xFFFFFFFF ∧ result (.idiv a3) 0x80000000 0xFFFFFFFF 4 = some 0x80000000 := by decide +kernel
theorem test_irem_sign : result (.irem a3) 0xFFFFFFF9 2 4 = some 0xFFFFFFFF ∧ result (.irem a3) 7 0 4 = some 7 := by decide +kernel
-- R88: the borrow reaches the high half
theorem test_isub64_borrow : result (.isub64 a3) 0 1 4 = some 0xFFFFFFFF ∧ result (.isub64 a3) 0 1 5 = some 0 := by decide +kernel
-- R123, R124: the example of FFRAC, and the order of the zeros
theorem test_ffrac_example : result (.ffrac a2) 0xB0800000 0 4 = some 0x3F800000 := by decide +kernel
theorem test_fmin_zeros : result (.fmin a3) 0 0x80000000 4 = some 0x80000000 := by decide +kernel
theorem test_fadd_ties : result (.fadd a3) 0x3F800000 0x33800000 4 = some 0x3F800000 := by decide +kernel

/-! ## Words of the remaining statements -/

/-- A number, an infinity, a zero, and NaNs of both kinds. -/
theorem witness_FloatingPointValues : Fmt.fp32.val 0x7F800000 = .inf false ∧ Fmt.fp32.val 0xFF800000 = .inf true ∧
    (Fmt.fp32.val 0x7FC00001 matches .nan false _) = true ∧ (Fmt.fp32.val 0x7F800001 matches .nan true _) = true ∧
    (Fmt.fp32.val 0x80000000 matches .fin true 0 _) = true ∧ (Fmt.fp32.val 0 matches .fin false 0 _) = true ∧
    (Fmt.fp32.val 0xBF800000 matches .fin true (_ + 1) _) = true ∧ (Fmt.fp32.val 0xFFFFFFFF matches .nan _ _) = true ∧
    (∀ F ∈ [Fmt.fp64, Fmt.fp16, Fmt.bf16], (F.val (F.infBits + 1) matches .nan true _) = true ∧ (F.val (F.infBits + F.quietBit) matches .nan false _) = true) := by
  decide +kernel

theorem witness_DecodeOfEncode : (Instr.iadd a3).wellFormed = true ∧ (Instr.ld ⟨none, false, 4, 127, 127, false, -256⟩).wellFormed = true ∧
    (Instr.cast ⟨some 3, false, 1, 5, 4⟩).wellFormed = true := by decide

/-! ## Objects within reach of an operation -/

/-- A tile that holds the page of 2^30 bytes reaches an object of any scope but CELL in it, at its own address. -/
theorem reach_page {op : Op} {s : State} {o : Obj} {off : Nat} {kind : AccKind} (hs : Obj.scope o ≠ 1) (ht : (s.tile op.tile).tlb = [aPage])
    (hc : op.ctx = 0) (hlt : Obj.base o + off < 2 ^ 30) : op.reach o off kind s = .ok (Obj.base o + off, s) := by
  have h1 : (Obj.base o + off) % 2 ^ 52 = Obj.base o + off := Nat.mod_eq_of_lt (by omega)
  have h2 : (Obj.base o + off) / 2 ^ 30 = 0 := Nat.div_eq_of_lt hlt
  have h3 : (Obj.base o + off) % 2 ^ 30 = Obj.base o + off := Nat.mod_eq_of_lt hlt
  have hr : regionOf (Obj.base o + off) = .hbm := by unfold regionOf; rw [if_pos (by omega)]
  have hx : s.translateAs op.privileged op.tile op.ctx (Obj.base o + off) kind = (.ok (Obj.base o + off) true, s) := by
    unfold State.translateAs
    dsimp only
    rw [ht, hc]
    have hf : [aPage].find? (fun e => e.ctx == 0 && e.vpage == (Obj.base o + off) / 2 ^ e.bits) = some aPage := by
      simp [aPage]
      omega
    simp only [hf]
    have hl : leafCheck aPage op.privileged kind (Obj.base o + off) = .ok (Obj.base o + off) true := by
      unfold leafCheck
      simp only [aPage, h3, Nat.zero_add, hr]
      cases kind <;> simp
    rw [hl]
  unfold Op.reach
  rw [if_neg hs, h1, hx]
  have hu : s.unreachable (Obj.base o + off) = false := by unfold State.unreachable; rw [hr]
  have hl : s.localPa (Obj.base o + off) = Obj.base o + off := by unfold State.localPa; rw [hr]
  simp [hu, hr, hl]

theorem pageParts_lt {a n : Nat} : ∀ p ∈ pageParts a n, p.1 ≤ n := fun p hp => by
  unfold pageParts at hp
  dsimp only at hp
  split at hp <;> simp at hp
  · rw [hp]; simp
  · rcases hp with rfl | rfl
    · simp
    · exact Nat.min_le_left _ _

theorem served_page {op : Op} {s : State} {o : Obj} {off n : Nat} {kind : AccKind} (hs : Obj.scope o ≠ 1) (ht : (s.tile op.tile).tlb = [aPage])
    (hc : op.ctx = 0) (he : s.ecc = []) (hlt : Obj.base o + off + n < 2 ^ 30) : op.Served s kind o off n := by
  refine ⟨he, fun p hp => ⟨_, reach_page hs ht hc ?_, .inl ?_⟩⟩ <;> have := pageParts_lt p hp
  · omega
  · unfold regionOf
    rw [if_pos (by omega)]

theorem served_cell {op : Op} {s : State} {o : Obj} {off n : Nat} {kind : AccKind} {c : Cell} (hs : Obj.scope o = 1)
    (hc : Map.get? s.cells op.cell = some c) (he : s.ecc = []) (h1 : 0x8000000000 ≤ c.slice) (h2 : c.slice + Obj.base o + off + n < 0x8030800000) :
    op.Served s kind o off n := by
  refine ⟨he, fun p hp => ⟨c.slice + Obj.base o + (off + p.1), ?_, .inr ?_⟩⟩ <;> have := pageParts_lt p hp
  · unfold Op.reach
    rw [if_pos hs, hc]
    rfl
  · unfold regionOf
    rw [if_neg (by omega), if_pos (by omega)]

/-! ## Clauses with conditions of their own: registers, handlers and accesses -/

theorem witness_SpecialReads_entries : Meets (.rqcount ⟨false, 4⟩) inHandler ∧ Meets (.rqread ⟨false, 0, 0, 4⟩) inHandler ∧
    ((inHandler.replay.filter fun e => !e.dropped)[0]?).isSome = true ∧ Meets (.rqread ⟨false, 1, 0, 4⟩) inHandler ∧
    (inHandler.replay.filter fun e => !e.dropped).length ≤ 1 := by unfold Meets Solo; decide +kernel

/-- DIELD's die set, and FTABLD's table of one segment, each with its checks in order. -/
theorem witness_BanksAndInvalidations_objects :
    (let i : Instr := .dield ⟨false, 1⟩
     let s := withTables aThread (some i)
     let l := laneOf s i
     s.issue = some (aChain i) ∧ s.decodeTraps (aChain i) i 0 = none ∧ ((aChain i).lanes s i 0).map Prod.fst = [l] ∧
     (Map.get? s.launches l.th.launch).bind Launch.dieset = some 5 ∧
     passes (checkEntry 0 0 5 [.dieset] rightR) s.issuing (fun o u => decide (12288 ≤ Obj.field o 0x10 8) && Obj.scope o != 1 &&
       passes (dieSetPages 0 0 1 o) u) = true) ∧
    (let i : Instr := .ftabld ⟨none, false, 1, 1, 3, false⟩
     let s := withTables aThread (some i)
     let l := laneOf s i
     Solo s (aChain i) i l ∧ l.a % 65536 = 1 ∧ passes (checkEntry 0 0 1 [.buffer] rightR) s.issuing (fun o u => Obj.scope o != 1 &&
       decide (24 ≤ Obj.field o 0x10 8) && passes (l.readObj o 0 16) u (fun head v => ofBytes ((head.drop 8).take 4) == 1 &&
         ofBytes (head.drop 12) == 0 && passes (l.checkRead o 0 24) v (fun _ w => passes (l.readObj o 16 8) w))) = true) := by
  unfold Solo; decide +kernel

/-- The computing words of an instruction by its operation. -/
theorem witness_ConditionsRaised_run : ∃ (i : Instr) (g : State → Lane → LaneOut), ∀ s, exec i s = s.run i (g s) := ⟨.iadd a3, _, fun _ => rfl⟩

/-- A thread in the handler of a trap whose destination is a pair, four lanes or a predicate. -/
def filling (cls count : Nat) : Thread :=
  { inHandler with frame := inHandler.frame.map fun fr => { fr with dst := { cls := cls, num := if cls = 2 then 3 else 4, count := count } } }
theorem witness_HandlerWords_fills : ∀ x ∈ [(0, 2), (0, 1), (1, 1), (1, 4), (2, 1), (3, 0)], Meets (.tfill ⟨false, 2⟩) (filling x.1 x.2) ∧
    ((filling x.1 x.2).frame.any fun fr => fr.mask.getLsbD fr.slot && fr.dst.cls == x.1 && fr.dst.count == x.2) = true ∧
    emptyCause ((filling x.1 x.2).sourcesOf false 0 (.tfill ⟨false, 2⟩)) (laneOf (one (.tfill ⟨false, 2⟩) (filling x.1 x.2)) (.tfill ⟨false, 2⟩)).cap =
      none := by unfold Meets Solo; decide +kernel

/-- A handler whose first entry is in flight, held with an operation, or held without one. -/
def dropping (st : EState) (op : Option Nat) : Thread :=
  { inHandler with replay := inHandler.replay.map fun e => { e with state := st, op := op } }
theorem witness_HandlerWords_drops : ∀ x ∈ [(EState.flight, none), (.held, some 3), (.held, none), (.done, some 3)],
    Meets (.rqdrop ⟨false, 0⟩) (dropping x.1 x.2) ∧
    (((dropping x.1 x.2).replay.filter fun e => !e.dropped)[0]?).map (fun e => (e.state, e.op)) = some x := by unfold Meets Solo; decide +kernel
theorem witness_HandlerWords_writes : Meets (.rqwrite ⟨false, 15, 1, 2⟩) inHandler ∧ (inHandler.replay.filter fun e => !e.dropped).length ≤ 1 ∧
    (inHandler.replay.map Entry.state = [.held]) ∧ EState.flight ≠ .held := by unfold Meets Solo; decide +kernel

/-- SYNC.DIE in a group of one thread, whose held store drains first. -/
theorem witness_RegroupExitAndHitPrograms_syncDie :
    let i : Instr := .syncDie ⟨false⟩
    let e : Entry := { id := 1, instr := .st ⟨none, false, 4, 4, 0, false, 0⟩, pc := 0, cap := { a := [(0, .full)], d := [(7, .full)] } }
    let t : Thread := { aThread with replay := [e] }
    Issues (one i t).flushGroup (aChain i) i ∧ ((one i t).flushGroup.thread? 1).map Thread.replay = some [] ∧ (one i t).flushGroup.byte 0 = 7 := by
  unfold Issues; decide +kernel

/-- Thread 1 with one held entry, of an access at an address, that nothing keeps. -/
def leaving (i : Instr) (a : Nat) : Thread :=
  { aThread with replay := [{ id := 1, instr := i, pc := 0, lanes := 1, cap := { a := [(BitVec.ofNat 32 a, .full)], d := [(0, .full)] } }] }
def mayLeave (a : Nat) (s : State) : Bool :=
  ((s.thread? 1).bind fun t => (t.entry? 1).map fun e => e.state == .held && !e.unperformed && e.checked && !t.stops e &&
    (e.after.all fun o => !s.unfinished t o) && (accessOf e.instr e.cap).any (fun x => decide (x.off = a) &&
      match s.reach t x.off x.size x.kind with
      | (.ok raw _, s1) => decide (s1.localPa raw = a) && regionOf (s1.localPa raw) == .hbm && !s1.behindEngine t 1 e x a && !t.behindAtomic e x &&
          !s1.eccAt a x.size && !s1.isAwaited t 1 && !t.ended
      | _ => false)).getD false
theorem witness_LoadsAndStores_leave : ∀ i ∈ accessWords 0, ∀ a ∈ ([0, 0x3FFFFFFC] : List Nat), mayLeave a (still (leaving i a)) = true := by decide +kernel

theorem witness_LoadsAndStores_forwards : (still.tile aThread.tile).lines.length < 64 ∧ ([1, 2] : List Byte).length = 2 ∧ 0x3FFFFFFE % 2 = 0 ∧
    (2 : Nat) ∈ [1, 2, 4, 8, 16] := by decide

/-- A release whose thread has a store of package 3 unacknowledged or none: to HBM it waits, to package 3 it does not. -/
def owing (sent : Bool) : State :=
  { still with fabric := { retry := if sent then [(1, { target := 3, tid := 1, payload := .store 0 [(0, 1)] })] else [] } }
theorem witness_OrderedAccesses_release : ((owing false).drainThread 1).releaseWaits 1 5 0 = false ∧ ((owing false).drainThread 1).roomAway 0 = true ∧
    ((owing true).drainThread 1).releaseWaits 1 4 0 = true ∧ ((owing true).drainThread 1).releaseWaits 1 3 0 = false ∧
    ((owing true).drainThread 1).releaseWaits 1 4 (0x4000000000000 + 3 * 2 ^ 40) = false := by decide +kernel

/-- A reply due at the cycle, one due later, and one of a context that halted. -/
theorem witness_RepliesComplete_due :
    (let t := waiting (.atomAdd ⟨none, false, 12, 0, 4, false, false⟩) none .flight atZero
     ∀ d ∈ [0, 1], let u := { t with replay := t.replay.map fun e => { e with due := d } }
       ((still u).thread? 1).bind (fun t => (t.entry? 1).map fun e => (e.atomicFlight, decide (e.due ≤ ((still u).entryPa t e).2.cycle))) =
         some (true, d == 0)) ∧
    (let s : State := { still with ctxs := [(0, { aContext with phase := .halted })] }; s.isHalted 0 = true ∧ still.isHalted 0 = false) ∧
    ((waiting (.ld ⟨none, false, 4, 12, 0, false, 0⟩) (some [5])).entry? 1).map (fun e => (e.dropped, decide (e.due ≤ 0))) = some (false, true) := by
  decide +kernel

/-- A line that has been untouched for 256 cycles, or for fewer; a tag that the sweeper leaves or takes. -/
theorem witness_MemoryEvents_checked : ∀ x ∈ [(true, EState.held, false), (false, .flight, false), (false, .held, true)],
    let e : Entry := { unchecked (.ld ⟨none, false, 4, 12, 0, false, 0⟩) 0 with checked := x.1, state := x.2.1, unperformed := x.2.2 }
    let t : Thread := { aThread with replay := [e] }
    (still t).thread? 1 = some t ∧ t.entry? 1 = some e ∧ (e.checked = true ∨ e.state ≠ .held ∨ e.unperformed = true) := by decide +kernel

/-! ## Clauses with conditions of their own: synchronisation -/

/-- Thread 1 with a fence on an entry that has not performed. -/
def fenced : Thread :=
  { waiting (.ld ⟨none, false, 4, 12, 0, false, 0⟩) none with fences := [{ mask := 255, ids := [1] }] }
theorem witness_FencesAndBarriers_fences :
    (∀ p ∈ [0, 5], ((one (.fence ⟨false, BitVec.ofNat 3 p⟩)).issuing.regionEnd 1 (some p)).thread? 1 ≠ none) ∧
    ({ mask := 255, ids := [1] } : Fence) ∈ fenced.fences ∧ (still fenced).unfinished fenced 1 = true ∧ 255 / 2 ^ 7 % 2 = 1 ∧ 255 / 2 ^ 0 % 2 = 1 := by
  decide +kernel

/-- Thread 1 arrives with nothing outstanding, or with a load on its way. -/
theorem witness_FencesAndBarriers_arrivals :
    (let v := still.regionEnd 1 (some 1)
     (v.thread? 1).any (fun t => t.arriving == [] && v.outstanding t 1 == []) = true) ∧
    (let v := (still (waiting (.ld ⟨none, false, 4, 12, 0, false, 0⟩) none)).regionEnd 1 (some 1)
     (v.thread? 1).any (fun t => t.arriving == [] && (v.outstanding t 1).any fun o => v.unfinished t o) = true) ∧
    ({ arrivals := 2 } : NamedBar).arrivals < 3 ∧ 2 ≤ ({ arrivals := 2 } : NamedBar).arrivals ∧ ({ arrivals := 2 } : NamedBar).arrivals ≠ 0 ∧
    still.trace.ctl.getLsbD 31 = false ∧ (∀ a ∈ aThread.arriving, a.named ≠ some 0) := by decide +kernel

/-- A page table that maps the 2^30 bytes at address 0 for every access. -/
def pageTable : List Host.Cell := [(0x800000, 1), (0x800002, 0x81), (0x810000, 0x3B), (0x810001, 1)]

/-- A context that is out with the cell of one of its barriers, at index 3 of its table: its allocation kept or not. -/
def away (keep : Bool) (scope : Nat) : State :=
  { still with
    cells := [], threads := [], ctxs := []
    images := [(0, { ctx := 0, context := { aContext with otcount := 64, otbase := 0x700000, ptbase := 0x800000 }, cells := [(1, aCell)], keep := keep })]
    mem := ((((entry 5 0 63 scope 0x100).flatMap fun w => toBytes 8 w.toNat).zipIdx.filter fun b => b.1 != 0).map fun b => (0x7000C0 + b.2, b.1)) ++ pageTable }
theorem witness_AsynchronousBarriers_away : ∀ x ∈ [(false, 1, true), (true, 1, false), (false, 3, true)],
    Map.get? (away x.1 x.2.1).cells 1 = none ∧ passes (findBarrier 0 1 3) ((away x.1 x.2.1).withSaved 1) (fun r _ => Obj.scope r.1 == x.2.1) = true ∧
    (away x.1 x.2.1).isOut 1 = x.2.2 ∧ stops (findBarrier 0 1 64) ((away x.1 x.2.1).withSaved 1) (.trap .bounds 64) = true := by decide +kernel

def resident : State := withObjects
theorem witness_AsynchronousBarriers_found : (Map.get? resident.cells 1).isSome = true ∧ passes (findBarrier 0 1 3) resident = true ∧
    (∃ x, findBarrier 0 1 13 resident = .error x) := by
  refine ⟨by decide, by decide +kernel, .trap .rights 13, stops_error (by decide +kernel)⟩

/-- A push of a thread whose ring is closed; a launch's ring with a push of the thread still in flight. -/
theorem witness_RingQueues_closed :
    (let i : Instr := .qpush ⟨false, 30, 0⟩
     let s := ringed i 3 0 0 0 true
     Alone s (aChain i) i (laneOf s i) ∧ emptyCause (staticSources i) (laneOf s i).cap = none ∧ uninitCause (staticSources i) (laneOf s i).cap = none ∧
     passes (ringOf (laneOf s i) 0 rightW) s.issuing (fun o s1 => (s1.ring 1 o.1).closed && decide (30 + Obj.recordWords o ≤ aThread.vregs) &&
       (emptyCause [vRun 0 30 (Obj.recordWords o) false false] ((laneOf s i).th.capture [vRun 0 30 (Obj.recordWords o) false false])).isNone) = true) ∧
    (∀ b ∈ [false, true], let i : Instr := .qclose ⟨false, 0⟩
     let s := ringed i 3 0 0 0 false (if b then [{ pos := 1, pa := 0x310008, words := [1, 2], tid := 1 }] else [])
     Solo s (aChain i) i (laneOf s i) ∧ passes (ringOf (laneOf s i) 0 rightW) s.issuing (fun _ s1 => decide (s1.issue = s.issue) &&
       (s1.rings.any fun r => r.inflight.any fun p => p.tid == 1) == b) = true) := by unfold Alone Solo; decide +kernel

/-! ## Clauses with conditions of their own: the words of the engines -/

/-- The checks of an entry pass, in a state and with an object that p accepts, as `Checks` asks. -/
def entryPasses (s : State) (l : Lane) (idx : Nat) (kinds : List ObjKind) (rights : Nat) (p : Obj → State → Bool := fun _ _ => true) : Bool :=
  passes (checkEntry l.th.tile l.th.ctx idx kinds rights) s p

theorem entryPasses_checks {s : State} {l : Lane} {idx : Nat} {kinds : List ObjKind} {rights : Nat} {p : Obj → State → Bool}
    (h : entryPasses s l idx kinds rights p = true) : ∃ o u, Checks s l idx kinds rights o u ∧ p o u = true := passes_ok h

/-- The bytes fit, as `Fits` asks. -/
def fits (s : State) (l : Lane) (o : Obj) (off n : Nat) : Bool :=
  decide ((Obj.isKind o .buffer = true ∨ Obj.isKind o .dieset = true → off + n ≤ Obj.field o 0x10 8) ∧
    (Obj.scope o = 1 → Obj.base o + off + n ≤ s.sliceLen l.th.cell))

theorem fits_iff {s : State} {l : Lane} {o : Obj} {off n : Nat} : fits s l o off n = true ↔ Fits s l o off n := decide_eq_true_iff

/-- The state and the lane of thread 1 as it issues a word. -/
def atWord (i : Instr) : State := withObjects aThread (some i)
def laneAt (i : Instr) : Lane := laneOf (atWord i) i

theorem witness_TraversalUnitAndCasterWords_rays : ∀ x ∈ [(Instr.trace (tracing (some 6)), 6), (.tracea (tracing (some 6)), 6)],
    Solo (atWord x.1) (aChain x.1) x.1 (laneAt x.1) ∧ entryPasses (atWord x.1).issuing (laneAt x.1) x.2 [.hier] rightR (fun h s1 =>
      entryPasses s1 (laneAt x.1) (Obj.hierNodes h) [.buffer] rightR fun n s2 => fits s2 (laneAt x.1) n 0 (Obj.field n 0x10 8)) = true := by
  unfold Solo; decide +kernel

theorem witness_TraversalUnitAndCasterWords_textures : ∀ x ∈ ([(.stex (sampling (some 7)), 7, fun _ => true), (.stexup (sampling (some 8)), 8, Obj.isGrid),
    (.scmf (sampling (some 9)), 9, Obj.isMatching)] : List (Instr × Nat × (Obj → Bool))),
    Solo (atWord x.1) (aChain x.1) x.1 (laneAt x.1) ∧ entryPasses (atWord x.1).issuing (laneAt x.1) x.2.1 [.spectral] rightT (fun t s1 =>
      entryPasses s1 (laneAt x.1) (Obj.texels t) [.buffer] rightR fun b s2 =>
        Obj.spectralOk t && x.2.2 t && fits s2 (laneAt x.1) b 0 (Obj.texelBytes t)) = true := by unfold Solo; decide +kernel

theorem witness_TraversalUnitAndCasterWords_film :
    (∀ x ∈ [(Instr.filmAdd ⟨some 10, false, 0, 0, 1⟩, true), (.filmRd ⟨some 10, false, 4, 0, 0⟩, false)],
      Solo (atWord x.1) (aChain x.1) x.1 (laneAt x.1) ∧ entryPasses (atWord x.1).issuing (laneAt x.1) 10 [.film] (if x.2 then rightW else rightR) (fun o s1 =>
        Obj.filmOk o && fits s1 (laneAt x.1) o 0 (Obj.filmPixels o * Obj.filmBins o * 8) && decide ((laneAt x.1).a < Obj.filmPixels o) &&
        (x.2 || decide ((laneAt x.1).b < Obj.filmBins o)) &&
        (if x.2 then passes ((filmDeposits o ((laneAt x.1).cap.words.map BitVec.toNat)).forM fun y => (laneAt x.1).checkUpdate o (Obj.channel o (laneAt x.1).a y.1) 8 true) s1
         else passes ((laneAt x.1).checkUpdate o (Obj.channel o (laneAt x.1).a (laneAt x.1).b) 8 false) s1)) = true) := by unfold Solo; decide +kernel

/-- The visibility buffer of an index, as RAST and VISRD check it. -/
def seen (s : State) (l : Lane) (idx rights : Nat) (p : Obj → Obj → State → Bool) : Bool :=
  entryPasses s l idx [.visbuf] 0 fun v s1 => entryPasses s1 l (Obj.visStore v) [.buffer] rights fun b s2 =>
    Obj.visOk v && fits s2 l b 0 (16 * Obj.visCount v) && p v b s2
theorem witness_TraversalUnitAndCasterWords_visible :
    (let i : Instr := .rast ⟨some 11, false, 0, 1⟩
     let l := laneAt i
     Solo (atWord i) (aChain i) i l ∧ entryPasses (atWord i).issuing l 11 [.primb] rightR (fun p s1 =>
       entryPasses s1 l (Obj.primRecords p) [.buffer] rightR fun r s2 => decide (1 ≤ Obj.primCount p ∧ Obj.primCount p ≤ 2 ^ 24) &&
         fits s2 l r 0 (48 * Obj.primCount p) && seen s2 l (Obj.primTarget p) rightW fun v b s3 => decide (l.a + l.b ≤ Obj.primCount p) &&
           passes (l.checkRast i r v b l.a l.b) s3) = true) ∧
    (let i : Instr := .visrd ⟨some 12, false, 4, 0, 0⟩
     let l := laneAt i
     Solo (atWord i) (aChain i) i l ∧ seen (atWord i).issuing l 12 rightR (fun v b s1 => decide (l.a < Obj.visWidth v * Obj.visHeight v ∧ l.b < Obj.visSamples v) &&
       passes (l.checkUpdate b (16 * (l.a * Obj.visSamples v + l.b)) 16 false) s1) = true) := by unfold Solo; decide +kernel

/-- A copy with or without a barrier, of each width. -/
theorem witness_TraversalUnitAndCasterWords_copies : ∀ x ∈ [(Instr.cast ⟨some 1, false, 0, 0, 2⟩, 1, 2), (.cast ⟨some 1, false, 0, 3, 2⟩, 1, 2),
    (.castT8 ⟨some 22, false, 3, 0, 22⟩, 22, 22), (.castT16 ⟨some 21, false, 3, 0, 21⟩, 21, 21)],
    let i := x.1
    let l := laneAt i
    Solo (atWord i) (aChain i) i l ∧ entryPasses (atWord i).issuing l x.2.1 copyKinds (rightR + rightC) (fun src s1 =>
      entryPasses s1 l x.2.2 copyKinds (rightW + rightC) fun dst s2 => (Obj.count? src).isSome && Obj.count? src == Obj.count? dst &&
        fits s2 l src 0 (Obj.span src) && fits s2 l dst 0 (Obj.span dst) &&
        ((castWidth i).all fun w => Obj.bits src == w && Obj.bits dst == w && Obj.transposable src) && decide (l.a < 2 ^ 16) &&
        (l.a != 3 || entryPasses s2 l l.a [.barrier] rightW fun b s3 => fits s3 l b 0 16)) = true := by unfold Solo; decide +kernel

/-- The Anvil's state free or the context's, as `Claimed` asks: the state in which the word works. -/
def claimed (s : State) (l : Lane) : Bool := !((s.claimAnvil (s.homeTile l.th) 0).anvilTaken l.th)
def inClaim (s : State) (l : Lane) : State := (s.claimAnvil (s.homeTile l.th) 0).issuing
theorem claimed_iff {s : State} {i : Instr} {l : Lane} {v : State} : Claimed s (aChain i) l v ↔ claimed s l = true ∧ v = inClaim s l := by
  unfold Claimed claimed inClaim; simp [aChain]

theorem witness_TraversalUnitAndCasterWords_loads : ∀ x ∈ [(Instr.castw ⟨some 20, false, 0, 1⟩, 20, false), (.castwCb3 ⟨some 1, false, 0, 1⟩, 1, true)],
    let i := x.1
    let l := laneAt i
    Solo (atWord i) (aChain i) i l ∧ claimed (atWord i) l = true ∧ castwLegal l.a = true ∧
    entryPasses (inClaim (atWord i) l) l x.2.1 (if x.2.2 then [.buffer] else copyKinds) (rightR + rightC) (fun src s1 =>
      if x.2.2 then fits s1 l src 0 (48 * castwCols l.a)
      else Obj.count? src == some (castwCols l.a * 128) && fits s1 l src 0 (Obj.span src) && weightFormat (Obj.fmtCode src)) = true := by
  unfold Solo; decide +kernel
theorem witness_TraversalUnitAndCasterWords_table : let i : Instr := .casttab ⟨some 1, false, 0, 0, 0⟩
    let l := laneAt i
    Solo (atWord i) (aChain i) i l ∧ claimed (atWord i) l = true ∧ casttabLegal l.a = true ∧
    entryPasses (inClaim (atWord i) l) l 1 [.buffer] (rightR + rightC) (fun src s1 => fits s1 l src l.b 16) = true := by
  unfold Solo; decide +kernel
theorem witness_TraversalUnitAndCasterWords_legal : castwLegal 0x1F0080 = true ∧ castwLegal 0x1F0081 = false ∧ castwLegal 0x200001 = false ∧
    castwLegal 0x100 = false ∧ castwLegal 0 = false ∧ casttabLegal 0x1F0000 = true ∧ casttabLegal 0x80 = false := by decide

/-- The convergence register that a word names has a count, and its next operation no signature of another form, as `MaySign` asks. -/
def maySignHere (s : State) (l : Lane) (i : Instr) : Bool :=
  (s.cvOf l.th (cvName i)).count != 0 && (((s.cvOf l.th (cvName i)).opens.find? fun o => o.k == l.th.signedOn (cvName i)).all fun o => signForm o.instr == signForm i)
theorem maySignHere_iff {s : State} {l : Lane} {i : Instr} (h : maySignHere s l i = true) : MaySign s l i := by
  unfold maySignHere at h
  simp only [Bool.and_eq_true, bne_iff_ne, ne_eq] at h
  refine ⟨h.1, fun o ho => ?_⟩
  rw [ho] at h
  simpa using h.2

/-- A set without signatures, or with one of another thread's. -/
def setting (i : Instr) (signed : Bool) : State :=
  let s := signing operandsOf (some i)
  if signed then { s with cells := [(1, { aCell with cvs := [(0, { count := 2, opens := [{ k := 0, instr := i, signers := [9] }] })] })] } else s

theorem witness_AnvilWords_bare : ∀ i ∈ [Instr.accz ⟨false, 0, 7⟩, .accrd ⟨false, 0, 0, 4, 2⟩], ∀ b ∈ [false, true],
    let s := setting i b
    Solo s (aChain i) i (laneOf s i) ∧ claimed s (laneOf s i) = true ∧ maySignHere s (laneOf s i) i = true := by unfold Solo; decide +kernel

theorem witness_AnvilWords_whole : ∀ x ∈ [(Instr.accld ⟨some 19, false, 0, 0⟩, rightR), (.accst ⟨some 19, false, 0, 0, 0⟩, rightW),
    (.accstAdd ⟨some 19, false, 0, 0, 0⟩, rightR + rightW)],
    let i := x.1
    let s := setting i true
    let l := laneOf s i
    Solo s (aChain i) i l ∧ claimed s l = true ∧ maySignHere s l i = true ∧ entryPasses (inClaim s l) l 19 copyKinds x.2 (fun o s1 =>
      Obj.count? o == some 16384 && fits s1 l o 0 (Obj.span o) && [0, 1, 8].contains (Obj.fmtCode o)) = true := by unfold Solo; decide +kernel

/-- B a tile of its own, or the columns of weight slot 3, stamped with A's format. -/
def multiplying (i : Instr) (b : Option Nat) : State :=
  let s := signing (match b with
    | none => operandsOf
    | some n => { operandsOf with v := Map.set operandsOf.v 8 ⟨BitVec.ofNat 32 (n * 65536), .full⟩ }) (some i)
  { s with tiles := Map.mapAll s.tiles fun _ t => { t with anvil := { owner := some 0, slots := [(3, { fmt := some 4, rows := 128, cols := 1 })] } } }

theorem witness_AnvilWords_products : ∀ x ∈ [(Instr.mma ⟨some 22, false, 0, 0, 8⟩, none, false), (.mma ⟨some 22, false, 0, 0, 8⟩, some 3, false),
    (.mmas ⟨some 22, false, 0, 0, 8, 9⟩, none, true), (.mmas ⟨some 22, false, 0, 0, 8, 9⟩, some 3, true)],
    let i := x.1
    let s := multiplying i x.2.1
    let l := laneOf s i
    Solo s (aChain i) i l ∧ claimed s l = true ∧ maySignHere s l i = true ∧ entryPasses (inClaim s l) l 22 [.tile] rightA (fun ao s1 =>
      decide (Obj.rows ao ≤ 128) &&
      (match bOperand l.b with
        | none => false
        | some (.inl n) => x.2.1 == some n && decide (Obj.cols ao ≤ 128) &&
          ((inClaim s l).weightSlot ((inClaim s l).homeTile l.th) n).fmt.any fun st => fmtPair (Obj.fmt ao) (stampFmt st)
        | some (.inr n) => x.2.1 == none && entryPasses s1 l n [.tile] rightA fun o s2 => decide (Obj.cols o ≤ 128 ∧ Obj.rows o = Obj.cols ao) &&
          fmtPair (Obj.fmt ao) (Obj.fmt o) && fits s2 l o 0 (Obj.span o)) &&
      (!x.2.2 || entryPasses s1 l (l.c % 2 ^ 16) [.scale] rightA fun y s' => entryPasses s' l (l.c / 2 ^ 16) [.scale] rightA fun z s3 =>
        decide (Obj.rows ao ≤ Obj.rows y ∧ (Obj.cols ao + 127) / 128 ≤ Obj.cols y ∧ (Obj.cols ao + 127) / 128 ≤ Obj.cols z) && (Obj.fmt ao).scalable &&
        fits s3 l y 0 (Obj.span y) && fits s3 l z 0 (Obj.span z)) && fits s1 l ao 0 (Obj.span ao)) = true := by unfold Solo; decide +kernel

/-- An entry and room for its bytes. -/
def entryFits (s : State) (l : Lane) (idx : Nat) (kinds : List ObjKind) (rights n : Nat) (p : Obj → State → Bool := fun _ _ => true) : Bool :=
  entryPasses s l idx kinds rights fun o u => fits u l o 0 (if n = 0 then Obj.span o else n) && p o u

/-- The plan of `planned`, with a barrier or without. -/
theorem witness_AnvilWords_plan : ∀ b ∈ [false, true],
    let i : Instr := .mseq ⟨some 1, false, 0, 0⟩
    let s : State := if b then { planned i with mem := Map.set (Map.set (planned i).mem 0x10000A (3 : Byte)) 0x10000D (8 : Byte) } else planned i
    let l := laneOf s i
    Solo s (aChain i) i l ∧ claimed s l = true ∧ maySignHere s l i = true ∧ entryPasses (inClaim s l) l 1 [.buffer] rightR (fun plan s1 =>
      fits s1 l plan 0 64 && passes (l.readObj plan 0 64) s1 (fun p s2 =>
        planField p 0x0C 1 == 1 && planField p 0x0D 1 == (if b then 8 else 0) && planField p 0x0E 50 == 0 &&
        entryPasses s2 l (planField p 0 2) [.tensor] rightC fun a s3 => entryPasses s3 l (planField p 2 2) [.tensor] rightC fun bo s4 =>
        entryPasses s4 l (planField p 4 2) [.tensor] rightW fun c s5 => entryPasses s5 l (planField p 6 2) [.tile] (rightW + rightA) fun sa s6 =>
        entryPasses s6 l (planField p 8 2) [.tile] (rightW + rightA) fun sb s7 =>
          (let sh := mseqShape 1 a bo
           let s8 := if b then (match checkEntry l.th.tile l.th.ctx (planField p 0x0A 2) [.barrier] rightW s7 with | .ok (_, u) => u | .error _ => s7) else s7
           Obj.ndim bo == 1 && Obj.ndim c == 1 && decide (1 ≤ Obj.ndim a) && (Obj.extents bo).getD 1 1 == sh.k && (Obj.extents c).getD 0 1 == sh.n &&
           (Obj.extents c).getD 1 1 == sh.m && [a, bo, c, sa, sb].all (fun o => fits s8 l o 0 (Obj.span o)) &&
           [sa, sb].all (fun o => Obj.rows o == 128 && Obj.cols o == 128 && Obj.scope o == 1) && Obj.fmtCode sa == Obj.fmtCode a &&
           Obj.fmtCode sb == Obj.fmtCode bo && fmtPair (Obj.fmt a) (Obj.fmt bo)) &&
          (!b || entryFits s7 l (planField p 0x0A 2) [.barrier] rightW 16))) = true := by unfold Solo; decide +kernel

/-! ## Clauses with conditions of their own: reductions and fabric words -/

theorem witness_ReductionAndFabricWords_reduces : ∀ x ∈ ([(.rmaxW ⟨some 13, false, 0, 15⟩, .max, ⟨some 13, false, 0, 15⟩),
    (.rminW ⟨some 13, false, 0, 15⟩, .min, ⟨some 13, false, 0, 15⟩), (.rmedW ⟨some 13, false, 0, 15⟩, .med, ⟨some 13, false, 0, 15⟩),
    (.rclampW ⟨some 13, false, 4, 16⟩, .clamp, ⟨some 13, false, 4, 16⟩), (.rssumW ⟨some 13, false, 0, 17⟩, .sum, ⟨some 13, false, 0, 17⟩)] :
    List (Instr × RedOp × Red1Form)),
    let i := x.1
    let op := x.2.1
    let s := signing operandsOf (some i)
    let l := laneOf s i
    Solo s (aChain i) i l ∧ ((op.operands (Opnd.nums l.cap.a)).map fun d =>
      entryPasses s.issuing l x.2.2.o.toNat [.witness] (rightW + rightA) fun wit s1 => entryPasses s1 l (Obj.witResult wit) [.tile] (rightW + rightA) fun res s2 =>
      entryPasses s2 l 13 [.tile] (rightR + rightA) fun src s3 => decide (Obj.rows src ≤ 128 ∧ Obj.cols src ≤ 128) &&
        (!(op == .clamp || op == .sum) || (!boundsHopeless d.2.1 d.2.2 && boundsOk (Obj.fmt src) d.2.1 d.2.2)) &&
        d.1.shape (Obj.rows src) (Obj.cols src) == some (Obj.rows res, Obj.cols res) && Obj.witRows wit == Obj.rows res && Obj.witCols wit == Obj.cols res &&
        fits s3 l wit 0 (Obj.witBytes wit) && fits s3 l res 0 (Obj.span res) && fits s3 l src 0 (Obj.span src) && reduceFormat (Obj.fmtCode src) &&
        Obj.fmtCode res == Obj.fmtCode src && op.fits (Obj.witForm wit) d.1.tie && (d.1.tie != 2 || decide (d.1.count (Obj.rows src) (Obj.cols src) ≤ 16)) &&
        passes (writeGeneration l wit.1 (Obj.gen wit % 2 ^ 31 + Obj.gen res * 2 ^ 32)) s3) = some true := by unfold Solo; decide +kernel

theorem witness_ReductionAndFabricWords_answers : ∀ x ∈ ([(.rmaxWCr ⟨false, 0, 0, 4, 0, false⟩, ⟨false, 0, 0, 4, 0, false⟩, false),
    (.rminWCr ⟨false, 0, 0, 4, 2, false⟩, ⟨false, 0, 0, 4, 2, false⟩, false), (.rmedWCr ⟨false, 0, 0, 4, 0, true⟩, ⟨false, 0, 0, 4, 0, true⟩, false),
    (.rclampWCr ⟨false, 0, 0, 4, 0, false⟩, ⟨false, 0, 0, 4, 0, false⟩, true), (.rssumWCr ⟨false, 0, 0, 4, 0, false⟩, ⟨false, 0, 0, 4, 0, false⟩, true)] :
    List (Instr × RedCrForm × Bool)), ∀ b ∈ [false, true],
    let s := setting x.1 b
    let l := laneOf s x.1
    Solo s (aChain x.1) x.1 l ∧ maySignHere s.issuing l x.1 = true ∧ (x.2.2 = true → boundsOk (crFormat x.2.1) (Opnd.word l.cap.a 1) (Opnd.word l.cap.a 2) = true) := by
  unfold Solo; decide +kernel

/-- ADJB without boundaries and with those of an object of two columns. -/
def adjoining (i : Instr) (bnd : Bool) : State :=
  let t : Thread := { operandsOf with v := Map.set operandsOf.v 20 ⟨if bnd then 0x1C000D else 0xFFFF000D, .full⟩ }
  let objs := objects ++ [(28, entry 3 0 63 3 0x3A0000 [(0x10, 1)])]
  { signing t (some i) with tiles := [(0, aTile objs)] }
theorem witness_ReductionAndFabricWords_adjb : ∀ b ∈ [false, true],
    let i : Instr := .adjb ⟨some 14, false, 20, 15⟩
    let s := adjoining i b
    let l := laneOf s i
    Solo s (aChain i) i l ∧ ((Window.ofWord (Opnd.word l.cap.a 1)).map fun d => (d.tie != 2 || d.mode != 0 || decide (d.ww * d.wh ≤ 16)) &&
      entryPasses s.issuing l 15 [.witness] (rightR + rightA) fun wit s1 => entryPasses s1 l 14 [.tile] (rightR + rightA) fun grad s2 =>
      entryPasses s2 l (Opnd.word l.cap.a 0 % 2 ^ 16) [.tile] (rightR + rightW + rightA) fun input s3 =>
        (let rest (bnd : List Obj) (s4 : State) : Bool := Obj.rows grad == Obj.witRows wit && Obj.cols grad == Obj.witCols wit &&
           decide (Obj.rows input ≤ 128 ∧ Obj.cols input ≤ 128) && d.shape (Obj.rows input) (Obj.cols input) == some (Obj.witRows wit, Obj.witCols wit) &&
           fits s4 l wit 0 (Obj.witBytes wit) && (grad :: input :: bnd).all (fun o => fits s4 l o 0 (Obj.span o) && Obj.fmtCode o == 0) &&
           adjbFits (Obj.witForm wit) d (Opnd.word l.cap.a 1) (d.count (Obj.rows input) (Obj.cols input)) &&
           passes (readEntry l.th.tile l.th.ctx (Obj.witResult wit)) s4 (fun res _ => witLive wit res)
         if b then Opnd.word l.cap.a 0 / 2 ^ 16 != 0xFFFF && entryPasses s3 l (Opnd.word l.cap.a 0 / 2 ^ 16) [.tile] (rightR + rightW + rightA) fun o s4 =>
           decide (2 ≤ Obj.cols o) && rest [o] s4
         else Opnd.word l.cap.a 0 / 2 ^ 16 == 0xFFFF && rest [] s3)) = some true := by unfold Solo; decide +kernel

theorem witness_ReductionAndFabricWords_wrel : let i : Instr := .wrel ⟨false, 15⟩
    let s := signing operandsOf (some i)
    let l := laneOf s i
    Solo s (aChain i) i l ∧ entryPasses s.issuing l 15 [.witness] rightW (fun wit s1 =>
      passes (writeGeneration l wit.1 (2 ^ 31 + Obj.field wit 0x18 4 % 2 ^ 31 + Obj.field wit 0x1C 4 * 2 ^ 32)) (s1.regionEnd l.tid (some 3))) = true := by
  unfold Solo; decide +kernel

/-- A send without a barrier or with barrier 3, within the window's low part, above it, and within the slice. -/
def sending (dst bar : Nat) : State :=
  signing { operandsOf with v := Map.set (Map.set operandsOf.v 14 ⟨BitVec.ofNat 32 dst, .full⟩) 15 ⟨BitVec.ofNat 32 bar, .full⟩ } (some (.fsend ⟨false, 12, 1⟩))
theorem witness_ReductionAndFabricWords_sends : ∀ x ∈ [(0x200000, 0xFFFF), (0x200000, 3), (cellWindow - 16, 0xFFFF), (cellWindow + 4080, 0xFFFF)],
    let i : Instr := .fsend ⟨false, 12, 1⟩
    let s := sending x.1 x.2
    let l := laneOf s i
    let w (i : Nat) : Nat := Opnd.word l.cap.a i
    Solo s (aChain i) i l ∧ 1 ≤ w 1 ∧ w 1 ≤ 2 ^ 24 ∧ w 3 < 2 ^ 16 ∧ entryPasses s.issuing l 1 [.buffer] (rightR + rightF) (fun src s1 =>
      (if x.2 = 0xFFFF then fits s1 l src (w 0) (w 1) else entryPasses s1 l (w 3) [.barrier] rightW fun b s2 => fits s2 l b 0 16 && fits s2 l src (w 0) (w 1)) &&
      decide (w 2 + w 1 ≤ cellWindow ∨ w 2 + w 1 - cellWindow ≤ s1.sliceLen l.th.cell)) = true := by unfold Solo; decide +kernel

/-- FWIN opens tree 0, of the job of context 0, or closes it. -/
def windowing (v : Nat) : State :=
  let s := signing { operandsOf with v := Map.set operandsOf.v 18 ⟨BitVec.ofNat 32 v, .full⟩ } (some (.fwin ⟨false, 18, 2⟩))
  { s with fabric := { s.fabric with trees := [(0, 0x10007)], fjob := [(0, 0x10007)] } }
theorem witness_ReductionAndFabricWords_windows : ∀ v ∈ [0, 0x80000000],
    let i : Instr := .fwin ⟨false, 18, 2⟩
    let s := windowing v
    let l := laneOf s i
    Solo s (aChain i) i l ∧ Opnd.word l.cap.a 0 = v ∧ Opnd.word l.cap.a 1 = 3 ∧ entryPasses s.issuing l 2 [.buffer] (rightW + rightF) (fun dst s1 =>
      entryPasses s1 l 3 [.barrier] rightW fun bar s2 => fits s2 l dst 0 16384 && fits s2 l bar 0 16 && s2.fabric.treeValid 0 &&
        s2.jobOf l.th.ctx == some (s2.fabric.treeJob 0)) = true := by unfold Solo; decide +kernel

/-- A push into a tree that is not open, that has room, whose window's width is used, or whose chunk is outstanding. -/
def pushing (o : Option Nat) (out : List (Nat × Nat)) : State :=
  let s := signing operandsOf (some (.fcoll ⟨false, 16, 1⟩))
  { s with fabric := { s.fabric with opens := o.toList.map fun w => (0, { ctx := 0, cell := 1, width := w }), outstanding := out } }
theorem witness_ReductionAndFabricWords_room : ∀ x ∈ [(none, [], none), (some 2, [(0, 1)], some false), (some 1, [(0, 1)], some true), (some 2, [(0, 0)], some true)],
    let i : Instr := .fcoll ⟨false, 16, 1⟩
    let s := pushing x.1 x.2.1
    let l := laneOf s i
    Solo s (aChain i) i l ∧ entryPasses s.issuing l 1 [.buffer] (rightR + rightF) (fun src s1 => fits s1 l src l.a 16384 &&
      ((s1.windowOf l.tid 0).map fun o => o.full (s1.pushesOf 0) 0) == x.2.2) = true := by unfold Solo; decide +kernel

/-! ## Operations whose objects are within reach -/

/-- Bytes of an object that no CELL scope moves, in the page that the tile holds. -/
def within (o : Obj) (off n : Nat) : Bool := Obj.scope o != 1 && decide (Obj.base o + off + n < 2 ^ 30)
/-- Bytes of a CELL object in the slice memory behind cell 1's slice. -/
def inSlice (o : Obj) (off n : Nat) : Bool := Obj.scope o == 1 && decide (Obj.base o + off + n < 2 ^ 20)

theorem served_within {op : Op} (h : op.tile = 0 ∧ op.ctx = 0 ∧ op.cell = 1) {kind : AccKind} {o : Obj} {off n : Nat}
    (hw : (within o off n || inSlice o off n) = true) : op.Served (due op) kind o off n := by
  rcases Bool.or_eq_true_iff.1 hw with hw | hw
  · simp only [within, Bool.and_eq_true, bne_iff_ne, ne_eq, decide_eq_true_eq] at hw
    exact served_page hw.1 (by rw [h.1]; rfl) h.2.1 rfl hw.2
  · simp only [inSlice, Bool.and_eq_true, beq_iff_eq, decide_eq_true_eq] at hw
    exact served_cell hw.1 (c := { aCell with cvs := [(0, { count := 2 })], qbind := [(0, 4)] }) (by rw [h.2.2]; rfl) rfl (by decide)
      (by have := hw.2; show 0x8000000000 + _ + _ + _ < _; omega)

/-- Element n of an object. -/
def elemWithin (o : Obj) (t : Bool) (k : Nat) : Bool :=
  within o (Obj.elemBit o t k / 8) ((Obj.bits o + 7) / 8) || inSlice o (Obj.elemBit o t k / 8) ((Obj.bits o + 7) / 8)
theorem whole_within {op : Op} (h : op.tile = 0 ∧ op.ctx = 0 ∧ op.cell = 1) {kind : AccKind} {o : Obj} {t : Bool} {n : Nat}
    (hw : ∀ k < n, elemWithin o t k = true) : op.ServedWhole (due op) kind o t n := fun k hk => served_within h (hw k hk)
theorem stores_within {op : Op} (h : op.tile = 0 ∧ op.ctx = 0 ∧ op.cell = 1) {o : Obj} {n : Nat}
    (hw : ∀ k < n, elemWithin o false k = true) : op.Stores (due op) o n := ⟨whole_within h hw, fun _ => whole_within h hw⟩
def tileWithin (o : Obj) (r c : Nat) : Bool :=
  let off := tileBit (Obj.bits o) (Obj.cols o) r c / 8
  within o off ((Obj.bits o + 7) / 8) || inSlice o off ((Obj.bits o + 7) / 8)
theorem tile_within {op : Op} (h : op.tile = 0 ∧ op.ctx = 0 ∧ op.cell = 1) {kind : AccKind} {o : Obj} {rows cols : Nat}
    (hw : ∀ r < rows, ∀ c < cols, tileWithin o r c = true) : op.ServedTile (due op) kind o rows cols := fun r hr c hc => served_within h (hw r hr c hc)

/-- The elements of a buffer of 16,384 words, one after the other. -/
theorem buffer_within (t : Bool) : ∀ k < accElems, elemWithin (objOf 1) t k = true := fun k hk => by
  have h1 : Obj.elemBit (objOf 1) t k = k * 32 := by
    unfold Obj.elemBit
    rw [show Obj.kind? (objOf 1) = some .buffer by decide +kernel]
    simp only [show Obj.bits (objOf 1) = 32 by decide +kernel]
  have h2 : Obj.scope (objOf 1) = 3 := by decide +kernel
  have h3 : Obj.base (objOf 1) = 0x100000 := by decide +kernel
  have h4 : Obj.bits (objOf 1) = 32 := by decide +kernel
  unfold accElems at hk
  unfold elemWithin within
  rw [h1, h2, h3, h4]
  simp
  left
  omega

theorem witness_CasterPerforms_served : ∀ x ∈ [(Instr.cast ⟨some 21, false, 0, 0, 21⟩, 21), (.castT8 ⟨some 22, false, 0, 0, 22⟩, 22),
    (.castT16 ⟨some 21, false, 0, 0, 21⟩, 21)],
    let op := anOp 0 x.1 [x.2, x.2]
    IsDue op ∧ Obj.count? (objOf x.2) = some 1 ∧ op.Served (due op) .read (objOf x.2) 0 0 ∧ op.Served (due op) .write (objOf x.2) 0 0 ∧
      op.ServedWhole (due op) .read (objOf x.2) (castWidth x.1).isSome 1 ∧ op.Stores (due op) (objOf x.2) 1 := by
  intro x hx
  simp only [List.mem_cons, List.not_mem_nil, or_false] at hx
  rcases hx with rfl | rfl | rfl <;>
    exact ⟨by unfold IsDue Due; decide +kernel, by decide +kernel, served_within ⟨rfl, rfl, rfl⟩ (by decide +kernel), served_within ⟨rfl, rfl, rfl⟩ (by decide +kernel),
      whole_within ⟨rfl, rfl, rfl⟩ (by decide +kernel), stores_within ⟨rfl, rfl, rfl⟩ (by decide +kernel)⟩

theorem witness_CasterPerforms_loads :
    (let op := anOp 0 (.castw ⟨some 20, false, 0, 1⟩) [20] [1]
     IsDue op ∧ op.ServedWhole (due op) .read (objOf 20) false (castwCols 1 * 128)) ∧
    (let op := anOp 0 (.castwCb3 ⟨some 1, false, 0, 1⟩) [1] [1]
     IsDue op ∧ op.ServedWhole (due op) .read (objOf 1) false ((48 * castwCols 1 * 8 - 1) / Obj.bits (objOf 1) + 1)) ∧
    (let op := anOp 0 (.casttab ⟨some 1, false, 0, 0, 0⟩) [1] [0, 0]
     IsDue op ∧ ∀ k, 0 * 8 / Obj.bits (objOf 1) ≤ k → k ≤ (0 * 8 + 127) / Obj.bits (objOf 1) →
       op.Served (due op) .read (objOf 1) (Obj.elemBit (objOf 1) false k / 8) ((Obj.bits (objOf 1) + 7) / 8)) := by
  refine ⟨⟨by unfold IsDue Due; decide +kernel, whole_within ⟨rfl, rfl, rfl⟩ (by decide +kernel)⟩,
    ⟨by unfold IsDue Due; decide +kernel, whole_within ⟨rfl, rfl, rfl⟩ (by decide +kernel)⟩,
    ⟨by unfold IsDue Due; decide +kernel, fun k _ hk => served_within ⟨rfl, rfl, rfl⟩ (buffer_within false k ?_)⟩⟩
  rw [show Obj.bits (objOf 1) = 32 by decide +kernel] at hk
  unfold accElems
  omega

/-- A copy that awaits the answer of another package, one that has it, one that awaits nothing, and one that has not performed. -/
def copying (after : List Nat) (bar : Bool) : Op :=
  { anOp 0 (.cast ⟨some 21, false, 0, if bar then 3 else 0, 21⟩) ([21, 21] ++ if bar then [3] else []) with performed := true, bytes := 2, progress := 2, after := after }
theorem witness_CasterPerforms_arrival :
    (let s : State := { due (copying [4] true) with fabric := { retry := [(1, { target := 3, id := 4, payload := .store 0 [] })] } }
     Map.get? s.ops 7 = some (copying [4] true) ∧ s.awaitsFar (copying [4] true) = true) ∧
    (∀ b ∈ [false, true], ∀ a ∈ [[], [4]], let op := copying a b
      Map.get? (due op).ops 7 = some op ∧ (due op).awaitsFar op = false ∧ op.fault = none ∧ (due op).working op.ctx = true ∧
      (b = true → ∃ s1, op.reach (objOf 3) 0 .write (if a = [] then due op else (due op).endCast op 0) = .ok (0x300000, s1))) ∧
    (anOp 0 (.cast ⟨some 21, false, 0, 0, 21⟩) [21, 21]).performed = false ∧ Map.get? (due (copying [] true)).ops 8 = none := by
  refine ⟨by decide +kernel, ?_, by decide, by decide +kernel⟩
  intro b hb a ha
  simp only [List.mem_cons, List.not_mem_nil, or_false] at hb ha
  rcases hb with rfl | rfl <;> rcases ha with rfl | rfl <;> refine ⟨by decide +kernel, by decide +kernel, by decide, by decide +kernel, ?_⟩
  · intro h; cases h
  · intro h; cases h
  · exact fun _ => ⟨_, reach_page (by decide +kernel) rfl rfl (by decide +kernel)⟩
  · exact fun _ => ⟨_, reach_page (by decide +kernel) (by decide +kernel) rfl (by decide +kernel)⟩

theorem witness_AnvilPerforms_served :
    (let op := anOp 4 (.accld ⟨some 1, false, 0, 0⟩) [1] [] [7]
     IsDue op ∧ op.ServedWhole (due op) .read (objOf 1) false accElems) ∧
    (let op := anOp 4 (.accst ⟨some 1, false, 0, 0, 0⟩) [1] [] [7]
     IsDue op ∧ op.Stores (due op) (objOf 1) accElems) ∧
    (let op := anOp 4 (.accstAdd ⟨some 1, false, 0, 0, 0⟩) [1] [] [7]
     IsDue op ∧ op.Stores (due op) (objOf 1) accElems ∧ op.ServedWhole (due op) .read (objOf 1) false accElems) := by
  refine ⟨⟨by unfold IsDue Due; decide +kernel, whole_within ⟨rfl, rfl, rfl⟩ (buffer_within false)⟩,
    ⟨by unfold IsDue Due; decide +kernel, stores_within ⟨rfl, rfl, rfl⟩ (buffer_within false)⟩,
    ⟨by unfold IsDue Due; decide +kernel, stores_within ⟨rfl, rfl, rfl⟩ (buffer_within false), whole_within ⟨rfl, rfl, rfl⟩ (buffer_within false)⟩⟩

theorem witness_AnvilPerforms_products :
    (let op := anOp 4 (.mma ⟨some 22, false, 0, 0, 8⟩) [22, 22] [0x80000016] [7]
     (due op).startCb3 op = op ∧ op.mmaParts = some ⟨0, objOf 22, none, some (objOf 22), none⟩ ∧ op.bytes = 0 ∧
      op.ServedTile (due op) .read (objOf 22) (Obj.rows (objOf 22)) (Obj.cols (objOf 22))) ∧
    (let op := anOp 4 (.mmas ⟨some 22, false, 0, 0, 8, 9⟩) [22, 22, 18, 18] [0x80000016, 0x120012] [7]
     (due op).startCb3 op = op ∧ op.mmaParts = some ⟨0, objOf 22, none, some (objOf 22), some (objOf 18, objOf 18)⟩ ∧ op.bytes = 0 ∧
      op.ServedTile (due op) .read (objOf 22) (Obj.rows (objOf 22)) (Obj.cols (objOf 22)) ∧ ∀ b < (Obj.cols (objOf 22) + 127) / 128,
        op.Served (due op) .read (objOf 18) (32 * b / 8) ((Obj.bits (objOf 18) + 7) / 8) ∧
        ∀ r < Obj.rows (objOf 22), op.Served (due op) .read (objOf 18) (32 * (r * Obj.cols (objOf 18) + b) / 8) ((Obj.bits (objOf 18) + 7) / 8)) := by
  refine ⟨⟨by decide +kernel, by decide +kernel, rfl, tile_within ⟨rfl, rfl, rfl⟩ (by decide +kernel)⟩,
    ⟨by decide +kernel, by decide +kernel, rfl, tile_within ⟨rfl, rfl, rfl⟩ (by decide +kernel), fun b hb => ?_⟩⟩
  have hb : b = 0 := by
    rw [show (Obj.cols (objOf 22) + 127) / 128 = 1 by decide +kernel] at hb
    omega
  subst hb
  refine ⟨served_within ⟨rfl, rfl, rfl⟩ (by decide +kernel), fun r hr => ?_⟩
  have hr : r = 0 := by
    rw [show Obj.rows (objOf 22) = 1 by decide +kernel] at hr
    omega
  subst hr
  exact served_within ⟨rfl, rfl, rfl⟩ (by decide +kernel)

/-- A sequence of one block with barrier 3, before it and after its last. -/
theorem witness_AnvilPerforms_sequence :
    let sh := mseqShape 1 (objOf 23) (objOf 24)
    let op (n : Nat) : Op := { anOp 4 (.mseq ⟨some 1, false, 0, 0⟩) [23, 24, 25, 26, 26, 3] [1, 9] [7] with progress := n }
    sh.blocks = 1 ∧ IsDue (op 0) ∧ IsDue (op 1) ∧ (op 1).Served (due (op 1)) .write (objOf 3) 0 0 ∧ (op 0).Served (due (op 0)) .write (objOf 3) 0 0 ∧
    (op 0).ServedWhole (due (op 0)) .read (objOf 23) false (sh.k * sh.m) ∧ (op 0).ServedWhole (due (op 0)) .read (objOf 24) false (sh.n * sh.k) ∧
    Obj.cols (objOf 26) = 128 ∧ (op 0).ServedTile (due (op 0)) .write (objOf 26) 128 128 ∧ Obj.bits (objOf 26) ≠ 4 ∧
    (op 0).Stores (due (op 0)) (objOf 25) (sh.n * sh.m) ∧ (op 0).ServedWhole (due (op 0)) .read (objOf 25) false (sh.n * sh.m) := by
  refine ⟨by decide +kernel, by unfold IsDue Due; decide +kernel, by unfold IsDue Due; decide +kernel, served_within ⟨rfl, rfl, rfl⟩ (by decide +kernel),
    served_within ⟨rfl, rfl, rfl⟩ (by decide +kernel), whole_within ⟨rfl, rfl, rfl⟩ (by decide +kernel), whole_within ⟨rfl, rfl, rfl⟩ (by decide +kernel),
    by decide +kernel, tile_within ⟨rfl, rfl, rfl⟩ (by decide +kernel), by decide +kernel, stores_within ⟨rfl, rfl, rfl⟩ (by decide +kernel),
    whole_within ⟨rfl, rfl, rfl⟩ (by decide +kernel)⟩

theorem witness_ReductionsPerform_served : ∀ x ∈ ([(.rmaxW ⟨some 13, false, 0, 15⟩, .max, 15), (.rminW ⟨some 13, false, 0, 15⟩, .min, 15),
    (.rmedW ⟨some 13, false, 0, 15⟩, .med, 15), (.rclampW ⟨some 13, false, 4, 16⟩, .clamp, 16), (.rssumW ⟨some 13, false, 0, 17⟩, .sum, 17)] :
    List (Instr × RedOp × Nat)),
    let op := anOp 4 x.1 [x.2.2, 14, 13] [0x1111]
    IsDue op ∧ redOpOf op.instr = some x.2.1 ∧ op.ServedTile (due op) .read (objOf 13) (Obj.rows (objOf 13)) (Obj.cols (objOf 13)) ∧
      op.Stores (due op) (objOf 14) (Obj.rows (objOf 14) * Obj.cols (objOf 14)) ∧
      op.Witnesses (due op) (objOf x.2.2) (Obj.rows (objOf 14) * Obj.cols (objOf 14)) := by
  have one : Obj.rows (objOf 14) * Obj.cols (objOf 14) = 1 := by decide +kernel
  intro x hx
  simp only [List.mem_cons, List.not_mem_nil, or_false] at hx
  rw [one]
  rcases hx with rfl | rfl | rfl | rfl | rfl <;>
    refine ⟨by unfold IsDue Due; decide +kernel, rfl, tile_within ⟨rfl, rfl, rfl⟩ (by decide +kernel), stores_within ⟨rfl, rfl, rfl⟩ (by decide +kernel),
      fun e he => ?_⟩ <;>
    (obtain rfl : e = 0 := by omega) <;>
    exact ⟨served_within ⟨rfl, rfl, rfl⟩ (by decide +kernel), served_within ⟨rfl, rfl, rfl⟩ (by decide +kernel)⟩

/-- ADJB without boundaries and with those of object 28. -/
theorem witness_ReductionsPerform_routes : ∀ bnd ∈ [([] : List Nat), [25]],
    let op := anOp 4 (.adjb ⟨some 14, false, 20, 15⟩) ([15, 14, 13] ++ bnd) [0xFFFF000D, 0x1111]
    IsDue op ∧ Obj.witRows (objOf 15) * Obj.witCols (objOf 15) = 1 ∧ op.ServedWhole (due op) .read (objOf 14) false 1 ∧ op.Witnesses (due op) (objOf 15) 1 ∧
    (Window.ofWord 0x1111).map (fun d => (d.count (Obj.rows (objOf 13)) (Obj.cols (objOf 13)), d.contributor 0 0 0)) = some (1, (0, 0)) ∧
    (∀ kind : AccKind, op.Served (due op) kind (objOf 13) (Obj.elemBit (objOf 13) false 0 / 8) ((Obj.bits (objOf 13) + 7) / 8)) ∧
    ∀ o ∈ bnd, ∀ kind : AccKind, ∀ n < 2, op.Served (due op) kind (objOf o) (Obj.elemBit (objOf o) false n / 8) ((Obj.bits (objOf o) + 7) / 8) := by
  intro bnd hb
  simp only [List.mem_cons, List.not_mem_nil, or_false] at hb
  rcases hb with rfl | rfl <;>
    refine ⟨by unfold IsDue Due; decide +kernel, by decide +kernel, whole_within ⟨rfl, rfl, rfl⟩ (by decide +kernel), fun e he => ?_, by decide +kernel,
      fun kind => served_within ⟨rfl, rfl, rfl⟩ (by decide +kernel), fun o ho kind n hn => ?_⟩
  · obtain rfl : e = 0 := by omega
    exact ⟨served_within ⟨rfl, rfl, rfl⟩ (by decide +kernel), served_within ⟨rfl, rfl, rfl⟩ (by decide +kernel)⟩
  · cases ho
  · obtain rfl : e = 0 := by omega
    exact ⟨served_within ⟨rfl, rfl, rfl⟩ (by decide +kernel), served_within ⟨rfl, rfl, rfl⟩ (by decide +kernel)⟩
  · obtain rfl : o = 25 := by simpa using ho
    exact served_within ⟨rfl, rfl, rfl⟩ ((by decide +kernel : ∀ k < 2, elemWithin (objOf 25) false k = true) n hn)

theorem witness_TraversalUnitPerforms_rays : ∀ i ∈ [Instr.trace ⟨some 6, false, 4, 0⟩, .tracea ⟨some 6, false, 4, 0⟩],
    let op := anOp 5 i [6, 1] (List.replicate 8 0x3F800000)
    IsDue op ∧ ∀ off k, off + k ≤ Obj.field (objOf 1) 0x10 8 → op.Served (due op) .read (objOf 1) off k := by
  intro i hi
  simp only [List.mem_cons, List.not_mem_nil, or_false] at hi
  have h1 : Obj.field (objOf 1) 0x10 8 = 65536 := by decide +kernel
  have h2 : Obj.scope (objOf 1) = 3 := by decide +kernel
  have h3 : Obj.base (objOf 1) = 0x100000 := by decide +kernel
  rcases hi with rfl | rfl <;> refine ⟨by unfold IsDue Due; decide +kernel, fun off k h => served_within ⟨rfl, rfl, rfl⟩ ?_⟩ <;> rw [h1] at h <;>
    simp only [within, h2, h3] <;> simp <;> left <;> omega

theorem witness_TraversalUnitPerforms_textures : ∀ x ∈ ([(.stex ⟨some 7, false, 4, 0, 1⟩, 7, fun _ => true), (.stexup ⟨some 8, false, 4, 0, 1⟩, 8, Obj.isGrid),
    (.scmf ⟨some 9, false, 4, 0, 1⟩, 9, Obj.isMatching)] : List (Instr × Nat × (Obj → Bool))),
    let op := anOp 5 x.1 [x.2.1, 1] (List.replicate 8 0x3F800000)
    let t := objOf x.2.1
    let sp := Obj.spectrum t
    let size := Obj.bits t / 8
    IsDue op ∧ Obj.spectralOk t = true ∧ x.2.2 t = true ∧ ∀ x < sp.w, ∀ y < sp.h, ∀ l < sp.l, ∀ k < sp.n,
      op.Served (due op) .read (objOf 1) ((((l * sp.h + y) * sp.w + x) * sp.n + k) * size) size := by
  have h {t : Obj} (h : ∀ x < (Obj.spectrum t).w, ∀ y < (Obj.spectrum t).h, ∀ l < (Obj.spectrum t).l, ∀ k < (Obj.spectrum t).n,
      within (objOf 1) ((((l * (Obj.spectrum t).h + y) * (Obj.spectrum t).w + x) * (Obj.spectrum t).n + k) * (Obj.bits t / 8)) (Obj.bits t / 8) = true)
      {op : Op} (ho : op.tile = 0 ∧ op.ctx = 0 ∧ op.cell = 1) : ∀ x < (Obj.spectrum t).w, ∀ y < (Obj.spectrum t).h, ∀ l < (Obj.spectrum t).l, ∀ k < (Obj.spectrum t).n,
      op.Served (due op) .read (objOf 1) ((((l * (Obj.spectrum t).h + y) * (Obj.spectrum t).w + x) * (Obj.spectrum t).n + k) * (Obj.bits t / 8)) (Obj.bits t / 8) :=
    fun x hx y hy l hl k hk => served_within ho (by rw [h x hx y hy l hl k hk]; rfl)
  intro x hx
  simp only [List.mem_cons, List.not_mem_nil, or_false] at hx
  rcases hx with rfl | rfl | rfl <;>
    exact ⟨by unfold IsDue Due; decide +kernel, by decide +kernel, by decide +kernel, h (by decide +kernel) ⟨rfl, rfl, rfl⟩⟩

theorem witness_TraversalUnitPerforms_films :
    (let op := anOp 5 (.filmAdd ⟨some 10, false, 0, 0, 1⟩) [10] (0 :: List.replicate 8 0x3F800000)
     IsDue op ∧ (due op).savedFilm 7 = none ∧ filmDeposits (objOf 10) (op.args.map BitVec.toNat) ≠ [] ∧
     ∀ x ∈ filmDeposits (objOf 10) (op.args.map BitVec.toNat), ∀ kind : AccKind, op.Served (due op) kind (objOf 10) (Obj.channel (objOf 10) 0 x.1) 8) ∧
    (let op := anOp 5 (.filmRd ⟨some 10, false, 4, 0, 0⟩) [10] [0, 0]
     IsDue op ∧ op.Served (due op) .read (objOf 10) (Obj.channel (objOf 10) 0 0) 8) ∧
    (let op := anOp 5 (.rast ⟨some 11, false, 0, 1⟩) [1, 12, 2] [0, 1]
     IsDue op ∧ Obj.visCount (objOf 12) ≠ 0 ∧ op.Served (due op) .read (objOf 1) (48 * (0 + 0)) 48 ∧
     ∀ i < Obj.visCount (objOf 12), ∀ kind : AccKind, op.Served (due op) kind (objOf 2) (16 * i) 16) ∧
    (let op := anOp 5 (.visrd ⟨some 12, false, 4, 0, 0⟩) [12, 2] [0, 0]
     IsDue op ∧ op.Served (due op) .read (objOf 2) (16 * (0 * Obj.visSamples (objOf 12) + 0)) 16) := by
  refine ⟨⟨by unfold IsDue Due; decide +kernel, by decide, by decide +kernel, fun x hx kind => served_within ⟨rfl, rfl, rfl⟩ ?_⟩,
    ⟨by unfold IsDue Due; decide +kernel, served_within ⟨rfl, rfl, rfl⟩ (by decide +kernel)⟩,
    ⟨by unfold IsDue Due; decide +kernel, by decide +kernel, served_within ⟨rfl, rfl, rfl⟩ (by decide +kernel), fun i hi kind => served_within ⟨rfl, rfl, rfl⟩ ?_⟩,
    ⟨by unfold IsDue Due; decide +kernel, served_within ⟨rfl, rfl, rfl⟩ (by decide +kernel)⟩⟩
  · have h : ∀ x ∈ filmDeposits (objOf 10) (((0 :: List.replicate 8 0x3F800000 : List Nat).map (BitVec.ofNat 32)).map BitVec.toNat),
        within (objOf 10) (Obj.channel (objOf 10) 0 x.1) 8 = true := by decide +kernel
    rw [h x hx]; rfl
  · rw [(by decide +kernel : ∀ i < Obj.visCount (objOf 12), within (objOf 2) (16 * i) 16 = true) i hi]; rfl

/-- A FILM.ADD of a saved context to a CELL film, kept or not. -/
def aFilm : Obj := (30, halves (entry 9 0 63 1 0x100 [(0x0E, 1), (0x10, 1), (0x12, 1), (0x14, 0x3F800000), (0x18, 0x3F800000)]))
def savedAdd (keep : Bool) : State :=
  let op := { anOp 5 (.filmAdd ⟨some 30, false, 0, 0, 1⟩) [] (0 :: List.replicate 8 0x3F800000) with objs := [aFilm] }
  { still with
    cells := [], threads := [], ctxs := []
    images := [(0, { ctx := 3, context := {}, keep := keep, cells := [(1, aCell)], ops := [(7, op)] })] }
theorem witness_TraversalUnitPerforms_saved : Obj.scope aFilm = 1 ∧ ∀ b ∈ [false, true], ((savedAdd b).savedFilm 7).any (fun x => x.1 == 0 && x.2.1.keep == b &&
      decide (x.2.2.objs = [aFilm]) && (!b || passes (x.2.2.deposit aFilm)
        ({ savedAdd b with images := [(0, { x.2.1 with ops := [] })] }))) = true := by decide +kernel

theorem witness_CollectivesPerform_sends : ∀ bar ∈ [([] : List Nat), [3]],
    let op := anOp 6 (.fsend ⟨false, 12, 1⟩) ([1] ++ bar) [120, 16, 0x200078, 0xFFFF]
    IsDue op ∧ passes (op.windowPa 0x200078) (due op) (fun pa s => decide (s = due op ∧ regionOf pa = .hbm)) = true ∧
    (∀ b ∈ bar, op.Served (due op) .write (objOf b) 0 0) ∧ blockPieces 0x200078 16 = [(0, 8), (8, 8)] ∧
    ∀ x ∈ blockPieces 0x200078 16, op.Served (due op) .read (objOf 1) (120 + x.1) x.2 ∧
      passes (op.windowPa (0x200078 + x.1)) (due op) (fun pa s => decide (s = due op ∧ regionOf pa = .hbm)) = true := by
  have hp : blockPieces 0x200078 16 = [(0, 8), (8, 8)] := by decide +kernel
  intro bar hb
  simp only [List.mem_cons, List.not_mem_nil, or_false] at hb
  rw [hp]
  rcases hb with rfl | rfl <;> refine ⟨by unfold IsDue Due; decide +kernel, by decide +kernel, fun b hb => ?_, rfl, fun x hx => ⟨?_, ?_⟩⟩
  · cases hb
  · exact served_within ⟨rfl, rfl, rfl⟩ ((by decide +kernel : ∀ x ∈ [((0 : Nat), (8 : Nat)), (8, 8)], (within (objOf 1) (120 + x.1) x.2 || inSlice (objOf 1) (120 + x.1) x.2) = true) x hx)
  · revert x; decide +kernel
  · obtain rfl : b = 3 := by simpa using hb
    exact served_within ⟨rfl, rfl, rfl⟩ (by decide +kernel)
  · exact served_within ⟨rfl, rfl, rfl⟩ ((by decide +kernel : ∀ x ∈ [((0 : Nat), (8 : Nat)), (8, 8)], (within (objOf 1) (120 + x.1) x.2 || inSlice (objOf 1) (120 + x.1) x.2) = true) x hx)
  · revert x; decide +kernel

/-- A send into another package, complete there and not yet here. -/
theorem witness_CollectivesPerform_complete : (∀ x ∈ [(false, 0), (true, 1), (true, 0)],
      let op : Op := { anOp 6 (.fsend ⟨false, 12, 1⟩) [1, 3] [0, 16, 0x200000, 3] with performed := x.1, progress := x.2 }
      Map.get? (due op).ops 7 = some op ∧ op.fault = none ∧ (due op).working op.ctx = true) ∧
    (let op : Op := { anOp 6 (.fsend ⟨false, 12, 1⟩) [1, 3] [0, 16, 0x200000, 3] with performed := true }
     op.reach (objOf 3) 0 .write (due op) = .ok (0x300000, due op)) :=
  ⟨by decide +kernel, reach_page (by decide +kernel) rfl rfl (by decide +kernel)⟩

/-- FWIN opens a window of width 1 on tree 0, or closes it. -/
theorem witness_CollectivesPerform_windows : ∀ v ∈ [0x80000000, 0],
    let op := anOp 6 (.fwin ⟨false, 18, 2⟩) [2, 3] [v, 3]
    Map.get? (due op).ops 7 = some op ∧ (due op).opReady 7 op = true ∧ (op.window.map fun w => (w.1, w.2.isSome)) = some (0, v != 0) := by decide +kernel

/-- A push of chunk 0 into tree 0: its window aborted or open, its first entry the port 3 or this router, in a store with or without room. -/
def aPush0 : Op := anOp 6 (.fcoll ⟨false, 16, 1⟩) [1] [0, 0]
def colliding (aborted leaves : Bool) (room : Bool) (data : List (BitVec 32) := []) : State :=
  { due aPush0 with fabric :=
    { opens := (onTree aborted).opens, trees := [(0, 0x10007), (1, 0x10000), (2, if leaves then 0x03000000 else 0x20080000)]
      retry := if room then [] else [(1, { target := 3, payload := .push { aPacket with data := data } })] } }
theorem witness_CollectivesPerform_pushes : (∀ a ∈ [false, true], ∀ v ∈ [false, true],
      let s := colliding a v true
      Map.get? s.ops 7 = some aPush0 ∧ s.opReady 7 aPush0 = true ∧ (Map.get? s.fabric.opens 0).any OpenTree.aborted = a ∧
      (match s.fabric.treeEntries 0 with | e :: _ => hopAct e == 0 | [] => false) = v ∧ s.fabric.retryRoom (8 * chunkBytes) = true) ∧
    (∃ data, let s := colliding false true false data
     Map.get? s.ops 7 = some aPush0 ∧ (Map.get? s.fabric.opens 0).any OpenTree.aborted = false ∧ s.fabric.retryRoom (8 * chunkBytes) = false) ∧
    aPush0.Served (colliding false false true) .read (objOf 1) 0 chunkBytes ∧ aPush0.Served (colliding false true true) .read (objOf 1) 0 chunkBytes := by
  refine ⟨by decide +kernel, ?_, ?_, ?_⟩
  · have h (data : List (BitVec 32)) (hd : data.length = 2 ^ 22) : (colliding false true false data).fabric.retryRoom (8 * chunkBytes) = false := by
      simp [colliding, Fabric.retryRoom, Fabric.retryBytes, Payload.size, hd, chunkBytes]
    exact ⟨_, rfl, rfl, h (List.replicate (2 ^ 22) 0) List.length_replicate⟩
  all_goals exact served_page (by decide +kernel) rfl rfl rfl (by decide +kernel)

/-- A packet that this router takes, one that only passes, one whose entry is not well formed. -/
theorem witness_CollectivesPerform_packets : endsHere { aPacket with entries := [0x20080000] } = true ∧ endsHere { aPacket with entries := [0x03000000] } = false ∧
    endsHere aPacket = false ∧ (∀ b ∈ [false, true], let s : State := { still with fabric := { seen := if b then [(1, 0)] else [] } }
      s.retryWaiting.fabric.seen.contains (1, 0) = b) := by decide +kernel

/-- A result of chunk 0 for the open window of tree 0, whose delivery is parked or not. -/
def delivering (parked : Bool) (chunk : Nat) : State :=
  let o : OpenTree := { ctx := 0, cell := 1, dst := BitVec.ofNat 32 2 :: (objOf 2).2, barrier := (objOf 3).2, barIndex := 3, fault := if parked then some { va := 0 } else none }
  { withObjects with fabric := { opens := [(0, o)], deliveries := [{ aPacket with chunk := chunk, data := [1, 2] }] } }
theorem witness_CollectivesPerform_deliveries : ∀ x ∈ [(false, 0), (true, 0), (false, 4)],
    let s := delivering x.1 x.2
    let taken : State := { s with fabric := { s.fabric with deliveries := [] } }
    ∃ o, Map.get? s.fabric.opens 0 = some o ∧ (o.fault.isSome = x.1) ∧ s.savedCell o.cell = none ∧
      (s.tile (((s.anyCell o.cell).map Cell.tile).getD 0)).deferrals.length ≤ 512 ∧ (o.agent taken).Served taken .write o.barObj 0 0 ∧
      (x.2 = 4 → Obj.field o.dstObj 0x10 8 < chunkBytes * x.2 + chunkBytes) ∧ (x.2 = 0 → (o.agent taken).Served taken .write o.dstObj (chunkBytes * x.2) (4 * 2)) := by
  intro x hx
  simp only [List.mem_cons, List.not_mem_nil, or_false] at hx
  rcases hx with rfl | rfl | rfl <;> exact ⟨_, rfl, by decide, by decide +kernel, by decide +kernel, served_page (by decide +kernel) rfl rfl rfl (by decide +kernel),
    by decide +kernel, fun _ => served_page (by decide +kernel) rfl rfl rfl (by decide +kernel)⟩

/-! ## Clauses with conditions of their own: launches, cells and contexts -/

/-- A record whose page no table maps, of a context that takes launches. -/
theorem witness_LaunchWords_unreachable : (launching 0x40000000).takesLaunches 0 = true ∧
    (match recordPa 0 0 0x40000000 64 .atomic (launching 0x40000000) with | .error (.fatal _) => true | _ => false) = true ∧
    ((launching 0x600000).thread? 1).any (fun t => (t.entry? 1).any fun e => e.state == .flight && e.instr == .launch ⟨false, 12, 2⟩) = true := by decide +kernel

/-- A queued record on a page that is not at hand yet. -/
theorem witness_Distribution_parked : let s : State := { queued .queued with tiles := [], ctxs := [(0, { aContext with ptbase := 0x800000, queues := [(0, [5])] })], mem := [(0x800000, 0x40)] }
    s.takesLaunches 0 = true ∧ (Map.get? s.launches 5).any (fun l => l.fault.isNone && match examine l s with | .error (.parked _) => true | _ => false) = true := by
  decide +kernel

/-- Clusters of more cells than a quad has tiles, and no launch at all. -/
theorem witness_Distribution_full : (let s := queued .accepted
    let s : State := { s with launches := [(5, { ctx := 0, recPa := 0x600000, recOff := 0x600000, phase := .accepted, stages := [{ vregs := 8, extents := [1, 5, 1, 1, 1, 1] }] })] }
    s.parkDependence.offers ≠ [] ∧ ∀ x ∈ s.parkDependence.offers, s.parkDependence.eligible x.2 = true → s.parkDependence.firstFit x.1 x.2 47 = none) ∧
    State.reset.parkDependence.offers = [] := by decide +kernel

/-- A cell of a context that does not run. -/
theorem witness_CellsAndStealing_halted : (∀ p ∈ [CtxPhase.running, .halting, .halted], let s : State := { spent none with ctxs := [(0, { aContext with phase := p })] }
    ((s.ctx? 0).any fun x => x.phase == .running) = (p == .running) ∧ Map.get? s.cells 1 = some aCell ∧ s.cellSpent 1 = true) ∧
    Map.get? still.cells 2 = none ∧ ({ aThread with ended := true } : Thread).ended = true ∧ (spent none).spent 1 { aThread with ended := true } = true := by decide +kernel
/-- A cluster that asks after 1,024 cycles, and one that turns to the mesh after 4,096. -/
theorem witness_CellsAndStealing_times : ∀ c ∈ [1023, 1024, 4095, 4096], let g := { idling with idleSince := some 0 }
    let s : State := { stealing g 0 with cycle := c }
    s.idle 2 = some g ∧ decide (g.lastAsk + 1024 ≤ s.cycle) = decide (1024 ≤ c) ∧ decide (0 + 4096 ≤ s.cycle) = decide (4096 ≤ c) := by decide +kernel

/-- A stage fed by ring queue 4 that holds n records, the oldest since cycle 0, under a threshold of 2; the producer is closed or not. -/
def feeding (n : Nat) (closed : Bool) (cycle : Nat) (phase : LaunchPhase) : State :=
  { still with
    cells := [], threads := [], cycle := cycle, rings := [{ launch := 1, obj := 4, host := 0, tail := n, done := n, slots := 4, times := [(0, 0)] }]
    launches := [(1, { aLaunch with pipeline := true, phase := phase, stages := [{ closed := closed, outmask := 1, qbind := [(0, 4)] }, { input := some 0, qbind := [(0, 4)], threshold := 2, qage := 100 }] })] }
def readiness (s : State) : Option (Bool × Bool × Bool × Bool) :=
  (Map.get? s.launches 1).bind fun l => (l.stages[1]?).bind fun t => (s.inputRing 1 t).map fun r => (s.eligible l && !t.closed, decide (t.threshold ≤ r.done - r.head),
    decide (1 ≤ r.done - r.head) && (Map.get? r.times r.head).any (fun c => decide (c + t.qage ≤ s.cycle)), (producers l r.obj).all Stage.closed)
theorem witness_StagePipelines_ready : ∀ x ∈ [(feeding 2 false 0 .accepted, true, true, false, false), (feeding 1 false 99 .accepted, true, false, false, false),
    (feeding 1 false 100 .accepted, true, false, true, false), (feeding 1 true 0 .accepted, true, false, false, true), (feeding 0 true 200 .accepted, true, false, false, true),
    (feeding 2 false 0 .running, true, true, false, false), (feeding 2 false 0 .queued, false, true, false, false)], readiness x.1 = some x.2 := by decide +kernel

/-- The first stage, which no queue feeds, with its run over or not; a launch without a pipeline, and one before its epoch. -/
theorem witness_StagePipelines_first : (∀ b ∈ [false, true], let s := feeding 0 b 0 .running
    (Map.get? s.launches 1).any (fun l => (l.stages[0]?).any fun t => (s.inputRing 1 t).isNone && t.closed == b) = true) ∧
    (Map.get? still.launches 1 = none) ∧ ({ aLaunch with pipeline := false } : Launch).pipeline = false ∧ (0 : Nat) < 4096 := by decide +kernel

/-- The riddle's target stopped or not, 32 threads ready there or fewer, a slot free or none. -/
theorem witness_RiddleMoves_limits :
    (∀ b ∈ [false, true], let s : State := { gathering with debug := [(0, { stopped := b })] }
      s.riddleTarget 0 ⟨0, 0, 0⟩ = some 0 ∧ s.isStopped 0 0 = b) ∧
    gathering.readyFor 0 0 ⟨0, 0, 0⟩ < 32 ∧ gathering.slotFor (mobile 0 1 0) 0 0 = true ∧
    (let s : State := { gathering with threads := (List.range 32).map fun k => (k, mobile 0 0 k) }
     32 ≤ s.readyFor 0 0 ⟨0, 0, 0⟩) ∧
    (let s : State := { gathering with threads := (List.range 512).map fun k => (k, mobile 0 0 k) }
     s.slotFor (mobile 0 1 0) 0 0 = false) ∧
    (∀ b ∈ [false, true], let s : State := { gathering with debug := [(4, { stopped := b })] }
      s.isStopped 1 0 = b ∧ s.isStopped 0 0 = false) ∧ still.thread? 2 = none := by decide +kernel

/-- CTXSAVE of a context that is not resident, of one that halts, and of contexts 3 and 0 that run. -/
def savingOf (n off : Nat) (phase : Option CtxPhase) : State :=
  let i : Instr := .ctxsave ⟨false, 2⟩
  let t : Thread := { saver with v := Map.set (Map.set saver.v 2 ⟨BitVec.ofNat 32 n, .full⟩) 3 ⟨BitVec.ofNat 32 off, .full⟩ }
  { withObjects t (some i) with ctxs := (0, aContext) :: phase.toList.map fun p => (3, ({ phase := p } : Context)) }
theorem witness_ContextEvents_saves : let i : Instr := .ctxsave ⟨false, 2⟩
    (∀ x ∈ [(3, 0x700000, none), (3, 0x700000, some CtxPhase.halting), (3, 0x700000, some .running), (19, 0x700000, some .running), (0, 0x700000, none)],
      let s := savingOf x.1 x.2.1 x.2.2
      let l := laneOf s i
      Solo s (aChain i) i l ∧ l.a / 32 % 2 ^ 27 = 0 ∧ Opnd.word l.cap.a 1 % 64 = 0 ∧ (s.ctx? (l.a % 16)).map Context.phase = (if x.1 = 0 then some .running else x.2.2)) ∧
    (let s := savingOf 0 0x700000 none
     passes (savePages (laneOf s i) 0 0x700000 false) ((s.stopNamed (aChain i) i).issuing.fence 1 5) = true) ∧
    (∀ k ∈ [false, true], let s := savingOf (if k then 19 else 3) 0x700000 (some .running)
     let q := ((s.stopNamed (aChain i) i).issuing.fence 1 5).quiesce 3
     (q.ctx? 3).any (fun c => passes ((laneOf s i).areaPages 0x700000 (areaBytes k (q.saveSections (q.imageOf 3 (outName q.nextId) c k) q.nextId)).length .write) q) = true) ∧
    (let s := savingOf 3 0x700020 (some .running)
     let l := laneOf s i
     Alone s (aChain i) i l ∧ Opnd.word l.cap.a 1 % 64 ≠ 0) ∧
    (let s := savingOf 0x23 0x700000 (some .running)
     let l := laneOf s i
     Alone s (aChain i) i l ∧ l.a / 32 % 2 ^ 27 ≠ 0) := by unfold Solo Alone; decide +kernel

theorem witness_ContextEvents_loads : let i : Instr := .ctxload ⟨false, 4⟩
    let s := loadable (some i)
    let l := laneOf s i
    Solo s (aChain i) i l ∧ l.a / 32 % 2 ^ 27 = 0 ∧ Opnd.word l.cap.a 1 % 64 = 0 ∧ passes (l.areaPages 0x700000 64 .read) s.issuing (fun hp s1 =>
      fieldAt (s1.pageBytes hp 0 64) 6 2 == 1 && passes (l.areaPages 0x700000 (64 + 16 * 1) .read) s1 (fun dp s2 =>
        (headerFault (s2.pageBytes dp 0 (64 + 16 * 1))).isNone && passes (l.areaPages 0x700000 (fieldAt (s2.pageBytes dp 0 80) 8 8) .read) s2 (fun pages s3 =>
          (Map.get? s3.images (((sectionAt (s2.pageBytes dp 0 80) 1).map fun o => ofBytes (s3.pageBytes pages o 8)).getD 0)).any fun x => x.loading.isNone))) = true := by
  unfold Solo; decide +kernel

/-- A restore that finds no room for a slice, one that finds all it needs, one whose slot is taken, and one whose reply is out. -/
theorem witness_ContextEvents_restores :
    (let s := restoring 3
     s.placeSaved { ctx := 3, context := {} } 3 = some s ∧ passes (refillContext 0 { ctx := 3, context := {} } { slot := 3, tid := 1, pages := [(0x700000, 0x10000)] } [] []) s = true) ∧
    (restoring 3).placeSaved { ctx := 3, context := {}, cells := [(1, { aCell with sliceLen := 2 ^ 30 })] } 3 = none ∧
    ((restoring 0).ctx? 0).isSome = true ∧
    (let x : Image := { aDetached with threads := [(8, { waiting (.ld ⟨none, false, 4, 12, 0, false, 0⟩) none with ctx := 3 })] }
     x.answered [] = false) ∧
    ({ aDetached with order := [] } : Image).recordAt 8 = none ∧
    ((({ still with images := [(0, aDetached)] } : State).images.find? fun x => x.2.ctx == 4 && (Map.get? x.2.threads 8).isSome) = none) := by decide +kernel

/-- A context that is killed, one that is not there, a halting one whose work is complete or not. -/
theorem witness_ContextEvents_ends : still.ctx? 0 = some aContext ∧ still.ctx? 1 = none ∧ (16 ≤ 16 ∧ (still.ctx? 0).isSome) ∧
    (let s : State := { still with boot := { phase := .recovery } }; s.boot.phase = .recovery) ∧
    (∀ b ∈ [false, true], let c := { aContext with phase := .halting }
     let op := anOp 0 (.cast ⟨some 21, false, 0, 0, 21⟩) [21, 21]
     let s : State := { due op with ctxs := [(0, c)], ops := if b then [(7, op)] else [] }
     s.ctx? 0 = some c ∧ c.phase = .halting ∧ s.haltPending 0 = b) ∧ aContext.phase ≠ .halting := by decide +kernel

/-! ## Clauses with conditions of their own: other agents and devices -/

/-- A merged write whose words lie within 128 bytes, a vector of each operation, and a queue of a saved cell that is full. -/
theorem witness_RemoteRequests_words : (let bytes : List (Nat × Byte) := [(0, 1), (127, 2)]
      let line : Map Byte := bytes.foldl (fun m b => Map.set m (0x1000 + b.1) b.2) []
      (((line.getLast?).map Prod.fst).getD 0x1000 + 1 - 0x1000 = 128) ∧ shared 0x1000 128 = true ∧ (still.writeOutside line).isSome = true) ∧
    (∀ op ∈ [MemOp.load, .store, .add], (still.vectorLanes 1 0 4 op [] [⟨0, 5, 0⟩]).isSome = true) := by decide +kernel

/-- A full deferral queue holds a write to a saved cell's slice back. -/
def deferring : State :=
  { still with
    cells := [], images := [(0, { ctx := 3, context := {}, cells := [(1, aCell)], keep := false })]
    tiles := [(0, { aTile with deferrals := List.replicate 513 { ctx := 3, cell := 1 } })] }
theorem witness_RemoteRequests_full : deferring.writeOutside [(0x8000000000, 1)] = none ∧ deferring.atomicOutside 0x8000000000 4 .add 1 0 = none ∧
    deferring.vectorLanes 1 0x8000000000 4 .store [] [⟨0, 1, 0⟩] = none ∧ shared 0x8000000000 65536 = true := by decide +kernel

/-- A held release of a write or of an atomic whose stream is complete or not. -/
theorem witness_RemoteRequests_releases : ∀ p ∈ [Payload.release 0 [(0, 1)] 2, .atomic 0 .add 1 0 (some 2)], ∀ n ∈ [0, 1],
    let h : HeldRelease := { src := 1, seq := 0, payload := p, missing := n }
    let s : State := { still with fabric := { held := [h] } }
    (s.fabric.held.find? fun h => h.src == 1 && h.seq == 0) = some h ∧ (s.fabric.held.find? fun h => h.src == 2 && h.seq == 0) = none ∧
    (let freed : State := { s with fabric := { s.fabric with held := s.fabric.held.erase h } }
     (freed.writeOutside [(0, 1)]).isSome = true ∧ (freed.atomicOutside 0 4 .add 1 0).isSome = true) := by decide +kernel

/-- Copies of a store, of an operation's store and of a push, sent at cycle 0 and looked at before and after 50 microseconds. -/
theorem witness_RemoteRequests_copies : (∀ x ∈ [(Payload.store 0 [(0, 1)], none, 0), (.store 0 [(0, 1)], some 7, 7), (.push aPacket, none, 8)], ∀ c ∈ [179999, 180000],
    let r : Retry := { target := 3, payload := x.1, op := x.2.1, resends := x.2.2 }
    let s : State := { still with cycle := c, fabric := { retry := [(5, r)] } }
    Map.get? s.fabric.retry 5 = some r ∧ (decide (s.cycle < r.since + 180000)) = (c == 179999) ∧ decide (8 ≤ r.resends) = (x.2.2 == 8) ∧ Map.get? s.fabric.retry 6 = none) ∧
    ∀ p, Payload.store 0 [(0, 1)] ≠ .push p := by
  refine ⟨by decide +kernel, fun p h => by cases h⟩

theorem witness_SpecialRegisterWrites_settled : (still.settleAccesses 1).thread? 1 = some aThread ∧
    (∀ x ∈ [(0, true), (0xFFC00000, false)], (match (still.settleAccesses 1).reach aThread x.1 1 .read with
      | (.ok pa _, s1) => decide (regionOf (s1.localPa pa) = .hbm) == x.2
      | _ => false) = true) ∧
    (((still.settleAccesses 1).reach aThread 0xFFC01000 1 .read).1 matches .trap _ _) = true ∧
    (let s : State := { still with fltring := 1, tiles := [], ctxs := [(0, { aContext with ptbase := 0x800000 })], mem := [(0x800000, 0x40)] }
     ((s.settleAccesses 1).reach aThread 0 1 .read).1 matches .fault _) = true := by decide +kernel

theorem witness_RegisterAndRefreshRows_points : (∀ x ∈ [(1, 7, true), (1, 8, true), (0, 8, false), (0, 7, false), (0, 0, false)],
      let s : State := { still with refresh := [(0, { step := x.1, owed := x.2.1 })] }
      decide ((s.pch 0).step ≠ 0) = x.2.2 ∧ (s.pch 0).owed = x.2.1 ∧ (s.bankBusy 0 (s.pch 0).bank) = false) ∧
    (let s : State := { still (waiting (.ld ⟨none, false, 4, 12, 0, false, 0⟩) none .flight atZero) with refresh := [(0, { owed := 3 })] }
     s.bankBusy 0 (s.pch 0).bank = true ∧ 0 < (s.pch 0).owed) ∧
    (∀ s : State, s.intervalDue 0 0 = s.intervalDue 0 0) ∧ (0 : Nat) < 879 ∧ ((879 - 0) * 5 / 12 / 366 ≠ (879 - 1 - 0) * 5 / 12 / 366) ∧
    ((878 - 0) * 5 / 12 / 366 = (877 - 0) * 5 / 12 / 366) ∧ ((440 - 0) * 5 / 12 / 183 ≠ (439 - 0) * 5 / 12 / 183) := by
  refine ⟨by decide +kernel, by decide +kernel, fun _ => rfl, by decide, by decide, by decide, by decide⟩

/-- Every bank holds nothing at reset, and a hold of it lasts from then. -/
theorem witness_RegisterAndRefreshRows_holds : Map.get? (({} : Refresh).hold [3] 100 210 false).held 3 = some (100 + ofMemCycles 210, false) ∧
    Map.get? (({} : Refresh).hold [3] 100 210 false).held 4 = none := by decide +kernel

/-- A clock that is moved past triggers 0 and 15, not past 1, and one moved backward. -/
theorem witness_TimingBlock_passed :
    let t : Timing := ((({ clock := 100 } : Timing).setTrigger 0 { ctl := 0x80000000, time := 200 }).setTrigger 15 { ctl := 0x80000000, time := 101 }).setTrigger 1 { ctl := 0x80000000, time := 300 }
    t.passed 250 = [0, 15] ∧ t.passed 50 = [] ∧ ((100 : Int) + (0xFFFFFFFFFFFFFF00#64).toInt < 0) := by decide +kernel

/-- Codes that select a register of the port, and codes that select BYPASS. -/
theorem witness_DebugAccess_codes : (0x01 : BitVec 8) ∈ portCodes ∧ (0xFF : BitVec 8) = 0xFF ∧ (∃ c : BitVec 8, c ∉ portCodes ∧ c ≠ 0xFF) := by
  have h (a b : BitVec 8) : ∃ c : BitVec 8, (c = 2 ∨ c = 3 ∨ c = 4) ∧ c ≠ a ∧ c ≠ b := by
    by_cases h2 : (2 : BitVec 8) ≠ a ∧ (2 : BitVec 8) ≠ b
    · exact ⟨2, .inl rfl, h2⟩
    · by_cases h3 : (3 : BitVec 8) ≠ a ∧ (3 : BitVec 8) ≠ b
      · exact ⟨3, .inr (.inl rfl), h3⟩
      · refine ⟨4, .inr (.inr rfl), ?_, ?_⟩ <;> rintro rfl <;> simp at h2 h3 <;> subst h2 <;> simp at h3
  obtain ⟨c, hc, h1, h2⟩ := h Config.sampleCode Config.extestCode
  refine ⟨List.mem_cons_self, rfl, c, ?_, ?_⟩
  · simp only [portCodes, List.mem_cons, List.not_mem_nil, or_false, not_or]
    rcases hc with rfl | rfl | rfl <;> exact ⟨by decide, by decide, by decide, by decide, h1, h2⟩
  · rcases hc with rfl | rfl | rfl <;> decide

theorem witness_DebugAccess_ports : ∀ w ∈ [false, true], ∀ l ∈ [false, true],
    let s : State := { still with port := { State.reset.port with locked := l, addr := if w then 0x8000000000000008 else 8, nonces := 1 } }
    s.port.addr.getLsbD 63 = w ∧ s.port.locked = l ∧ 0 < s.port.nonces := by decide

/-- THRDATA that names a register, which is refused or not, with a thread selected. -/
theorem witness_DebugAccess_writes : ∀ x ∈ [(0, 1, false), (0, 32, true)],
    let s := debugging true x.1 x.2.1
    s.port.locked = false ∧ (s.block 0 0).stopped = true ∧ (s.selected 0 0).any (fun t => t.2.refuses (s.block 0 0).cls (s.block 0 0).num == x.2.2) = true ∧
      s.trace.ctl.getLsbD 31 = false := by decide +kernel

/-! ## Clauses with conditions of their own: how work stops, and the step -/

/-- An operation whose object's page is not at hand yet, is not mapped, or holds a word with an error. -/
def awayFrom (op : Op) : State :=
  { due op with fltring := 1, tiles := [], ctxs := [(0, { aContext with ptbase := 0x800000 })], mem := [(0x800000, 0x40)] }
theorem witness_Performs_stops : let op := anOp 5 (.filmRd ⟨some 10, false, 4, 0, 0⟩) [10] [0, 0]
    (Map.get? (awayFrom op).ops 7 = some op ∧ (awayFrom op).opReady 7 op = true ∧
      (match op.unitBytes (objOf 10) 0 8 (awayFrom op) with | .error (.parked _) => true | _ => false) = true) ∧
    (let s : State := { awayFrom op with mem := [] }
     s.opReady 7 op = true ∧ (match op.unitBytes (objOf 10) 0 8 s with | .error (.fatal _) => true | _ => false) = true) ∧
    (let s : State := { due op with ecc := [0x330000 / 8] }
     s.opReady 7 op = true ∧ (match op.unitBytes (objOf 10) 0 8 s with | .error (.ecc 0x330000) => true | _ => false) = true) := by decide +kernel

/-- A drawn chain of an instruction that traps at decode after one that does not, and one without. -/
def drawnChain (is : List Instr) : State :=
  { one (.iadd a3) with issue := some { aChain (.iadd a3) with drawn := true, todo := is.zipIdx.map fun x => { instr := x.1, pc := x.2 } } }
theorem witness_StepRunsDecoded_chains :
    (∃ v, (drawnChain [.iadd a3, .swr ⟨false, 0x010, 0, 2⟩]).issue = some v ∧ v.drawn = true ∧ v.todo.length = 2) ∧
    (let i : Instr := .swr ⟨false, 0x010, 0, 2⟩
     let s : State := { still { aThread with v := [(2, ⟨96, .full⟩)] } with
       issue := some { aChain i with drawn := true, todo := [{ instr := .nop ⟨false⟩, pc := 0 }, { instr := i, pc := 1 }] } }
     (s.issue.any fun v => (v.todo.findSome? (s.foresee exec v)).any fun r => r.pc == 1 && r.cause == .illeg) = true) ∧
    (let s := drawnChain [.iadd a3, .nop ⟨false⟩]
     (s.issue.any fun v => (v.todo.findSome? (s.foresee exec v)).isNone) = true) := by
  refine ⟨⟨_, rfl, rfl, rfl⟩, by decide +kernel, by decide +kernel⟩

/-- NOP at word 0 of thread 1 in slot 0: nothing keeps it from issuing. -/
theorem witness_StepRunsDecoded_unhindered : (∀ b ∈ [false, true], ready.Unhindered (aChain (.nop ⟨false⟩)) (.nop ⟨false⟩) b) ∧
    (ready.dispatched 0 0 = ready ∧ ready.thread? 1 = some aThread ∧ ((ready.fetchPacket 0 0 0).1 matches .ok _) = true) := by
  refine ⟨fun b hb => ⟨(fun f h => by cases h), ?_⟩, by decide +kernel⟩
  simp only [List.mem_cons, List.not_mem_nil, or_false] at hb
  rcases hb with rfl | rfl <;> decide +kernel

/-- An entry of a released pin whose context runs, and one whose context has halted. -/
theorem witness_StepRunsDecoded_reinject : ∀ p ∈ [CtxPhase.running, .halted],
    let s : State := { still with reinject := [{ tid := 1, slot := 0, entry := none, resume := 3 }], ctxs := [(0, { aContext with phase := p })] }
    s.issue = none ∧ s.deferred = [] ∧ s.agenda = [] ∧ s.nextReinject.isSome = (p == .running) := by decide +kernel

theorem witness_StepRunsDecoded_rest : ({ still with deferred := [.fire 3] } : State).issue = none ∧
    ({ still with agenda := [.timensRead] } : State).deferred = [] ∧ still.issue = none ∧ (one (.iadd a3)).issue.isSome = true := by decide

/-- Thread 1 issues a stamp of entry 5, which is valid with IADD's word, or not valid. -/
def stamping (d : Die) : State := { one (.stamp ⟨true, 5, 2, 4, 5⟩) with ctxs := [(0, { aContext with dies := [(5, d)] })] }
theorem witness_StampExpansion_entries : let d : Die := ⟨0x7C044000, 0x2000000C, 0xC9040180⟩
    (∀ x ∈ [(d, true), (⟨0, 0, 0⟩, false)], (stamping x.1).issue = some (aChain (.stamp ⟨true, 5, 2, 4, 5⟩)) ∧ (stamping x.1).dieEntry 0 false 5 = x.1 ∧
      ((expandStamp ((stamping x.1).dieEntry 0 false 5) ⟨true, 5, 2, 4, 5⟩) matches .ok _) = x.2 ∧ x.1.holes.getLsbD 31 = x.2) ∧
    (aChain (.nop ⟨false⟩)).raised = none := by decide +kernel
end Sys2Proof.Tests
end

section
/-! PROOFS. What memory holds after a write, and that its canonical form is unique (R3, R311, R314). -/
namespace Sys2Proof.Machine

/-! ## Reading back what was written -/

/-- A byte after a run of bytes is written: within the run the one written there, and every other byte as before. -/
theorem State.byte_setBytes (bs : List Byte) (s : State) (pa k : Nat) :
    (s.setBytes pa bs).byte k = if pa ≤ k ∧ k < pa + bs.length then bs.getD (k - pa) 0 else s.byte k := by
  induction bs generalizing s pa with
  | nil =>
    rw [if_neg (by rw [List.length_nil]; omega)]
    rfl
  | cons b bs ih =>
    rw [State.setBytes, ih, State.byte_setByte, List.length_cons]
    rcases Nat.lt_trichotomy k pa with h | rfl | h
    · rw [if_neg (by omega), if_neg (by omega), if_neg (by omega)]
    · rw [if_neg (by omega), if_pos rfl, if_pos (by omega), Nat.sub_self, List.getD_cons_zero]
    · obtain ⟨j, rfl⟩ := Nat.exists_eq_add_of_lt h
      have hj : pa + j + 1 - pa = j + 1 := by omega
      have hj' : pa + j + 1 - (pa + 1) = j := by omega
      rw [hj, hj', List.getD_cons_succ, if_neg (Nat.ne_of_gt h)]
      exact if_congr (by omega) rfl rfl

theorem State.bytes_setBytes (bs : List Byte) (s : State) (pa : Nat) : (s.setBytes pa bs).bytes pa bs.length = bs := by
  induction bs generalizing s pa with
  | nil => rfl
  | cons b bs ih =>
    have head : ((s.setByte pa b).setBytes (pa + 1) bs).byte pa = b := by
      rw [State.byte_setBytes, if_neg (by omega), State.byte_setByte, if_pos rfl]
    rw [State.setBytes, List.length_cons, State.bytes, head, ih]

@[simp] theorem toBytes_length (n v : Nat) : (toBytes n v).length = n := by
  induction n generalizing v with
  | zero => rfl
  | succ n ih => rw [toBytes, List.length_cons, ih]

/-- The least significant byte first (R3): n bytes hold a number modulo 256 to the n. -/
theorem ofBytes_toBytes (n v : Nat) : ofBytes (toBytes n v) = v % 256 ^ n := by
  induction n generalizing v with
  | zero => rw [Nat.pow_zero, Nat.mod_one]; rfl
  | succ n ih => rw [toBytes, ofBytes, ih, BitVec.toNat_ofNat, Nat.pow_succ' (n := n), Nat.mod_mul]

theorem State.num_setNum (s : State) (pa n v : Nat) : (s.setNum pa n v).num pa n = v % 256 ^ n := by
  have read : (s.setNum pa n v).bytes pa n = toBytes n v := by
    simpa only [toBytes_length, State.setNum] using State.bytes_setBytes (toBytes n v) s pa
  rw [State.num, read, ofBytes_toBytes]

theorem State.setBytes_frame (bs : List Byte) (s : State) (pa : Nat) : s.setBytes pa bs = { s with mem := (s.setBytes pa bs).mem } := by
  induction bs generalizing s pa with
  | nil => rfl
  | cons b bs ih => exact ih (s.setByte pa b) (pa + 1)

/-! ## Equal contents are equal memories -/

theorem Map.above_cons {α : Type} {lo : Nat} {x : Nat × α} {m : Map α} : Map.above lo (x :: m) ↔ lo < x.1 ∧ Map.above lo m :=
  List.forall_mem_cons

theorem Map.getD_cons {α : Type} (x : Nat × α) (m : Map α) (k : Nat) (d : α) :
    Map.getD (x :: m) k d = if x.1 = k then x.2 else Map.getD m k d := by
  simp only [Map.getD, Map.get?]
  split <;> rfl

/-- Up to a bound that all its keys exceed, a table lists nothing. -/
theorem Map.getD_of_above {α : Type} {lo k : Nat} {m : Map α} (d : α) (h : Map.above lo m) (hk : k ≤ lo) : Map.getD m k d = d := by
  induction m with
  | nil => rfl
  | cons x rest ih =>
    obtain ⟨first, others⟩ := Map.above_cons.1 h
    rw [Map.getD_cons, if_neg (by omega), ih others]

theorem Memory.wf_cons {c : Host.Cell} {m : List Host.Cell} :
    Memory.wf (c :: m) = true ↔ Map.above c.1 m ∧ c.2 ≠ 0 ∧ Memory.wf m = true := by
  simp only [Memory.wf_iff, Map.rising_cons, List.forall_mem_cons]
  tauto

/-- A memory with the contents of a canonical one lists a cell at or below the first address of that one. -/
theorem Memory.not_above_head {c : Host.Cell} {m m' : List Host.Cell} (h : Memory.wf (c :: m) = true)
    (e : ∀ k, Map.getD (c :: m) k 0 = Map.getD m' k 0) : ¬ Map.above c.1 m' := by
  obtain ⟨-, nonzero, -⟩ := Memory.wf_cons.1 h
  intro above
  apply nonzero
  rw [← Map.getD_of_above 0 above le_rfl, ← e c.1, Map.getD_cons, if_pos rfl]

/-- Canonical memories with equal first cells and equal contents have equal contents behind those cells. -/
theorem Memory.tails_agree {c : Host.Cell} {m m' : List Host.Cell} (h : Map.above c.1 m) (h' : Map.above c.1 m')
    (e : ∀ k, Map.getD (c :: m) k 0 = Map.getD (c :: m') k 0) (k : Nat) : Map.getD m k 0 = Map.getD m' k 0 := by
  by_cases hk : c.1 = k
  · subst hk
    rw [Map.getD_of_above 0 h le_rfl, Map.getD_of_above 0 h' le_rfl]
  · simpa only [Map.getD_cons, if_neg hk] using e k

theorem Memory.eq_of_contents {m m' : List Host.Cell} (h : Memory.wf m = true) (h' : Memory.wf m' = true)
    (e : ∀ k, Map.getD m k 0 = Map.getD m' k 0) : m = m' := by
  induction m generalizing m' with
  | nil =>
    cases m' with
    | nil => rfl
    | cons c' rest' => exact absurd (fun _ hx => nomatch hx) (Memory.not_above_head (m' := []) h' fun k => (e k).symm)
  | cons c rest ih =>
    cases m' with
    | nil => exact absurd (fun _ hx => nomatch hx) (Memory.not_above_head h e)
    | cons c' rest' =>
      obtain ⟨above, -, hr⟩ := Memory.wf_cons.1 h
      obtain ⟨above', -, hr'⟩ := Memory.wf_cons.1 h'
      have address : c.1 = c'.1 := by
        rcases Nat.lt_trichotomy c.1 c'.1 with lt | eq | gt
        · exact absurd (Map.above_cons.2 ⟨lt, fun x hx => lt.trans (above' x hx)⟩) (Memory.not_above_head h e)
        · exact eq
        · exact absurd (Map.above_cons.2 ⟨gt, fun x hx => gt.trans (above x hx)⟩) (Memory.not_above_head h' fun k => (e k).symm)
      have cell : c = c' := Prod.ext address (by simpa only [Map.getD_cons, if_pos, address] using e c'.1)
      subst cell
      rw [ih hr hr' (Memory.tails_agree above above' e)]

/-- Settles O22: a run of bytes is read back by induction on the run, and canonical memories are compared cell by cell. -/
theorem memoryHoldsWhatWasWritten : Obligations.MemoryHoldsWhatWasWritten :=
  ⟨fun s pa bs k _ => s.byte_setBytes bs pa k, fun s pa n v _ => s.num_setNum pa n v, fun _ _ => Memory.eq_of_contents,
    fun s pa bs h => ⟨State.setBytes_wf pa bs h, s.setBytes_frame bs pa⟩⟩

end Sys2Proof.Machine
end

section
/-! PROOFS. The register-write rows (R4, R5, R92, R114, R142, R234, R303, R382, R383) and refresh in both modes (R303 to R306, R318). -/
namespace Sys2Proof.Machine

/-! ## Fields of a register: a value with some of its bits kept is the value under a mask -/

theorem testBit_bitsKept (v hi lo i : Nat) : (bitsKept v hi lo).testBit i = (decide (lo ≤ i) && decide (i ≤ hi) && v.testBit i) := by
  rw [bitsKept, Nat.testBit_mul_two_pow, Nat.testBit_div_two_pow, Nat.testBit_mod_two_pow]
  by_cases h : lo ≤ i <;> simp [h]

/-- Bits below a kept field are added to it without a carry. -/
theorem bitsKept_add_low (v hi : Nat) {lo x : Nat} (h : x < 2 ^ lo) : bitsKept v hi lo + x = bitsKept v hi lo ||| x := by
  rw [bitsKept, Nat.mul_comm]
  exact Nat.two_pow_add_eq_or_of_lt h _

theorem bitsKept_lt (v hi lo : Nat) : bitsKept v hi lo < 2 ^ (hi + 1) :=
  (Nat.div_mul_le_self _ _).trans_lt (Nat.mod_lt _ (Nat.two_pow_pos _))

/-- OTBASE keeps bits 51:6 (R234). -/
theorem otbase_mask (v : BitVec 64) : BitVec.ofNat 64 (bitsKept v.toNat 51 6) = v &&& 0x000FFFFFFFFFFFC0#64 := by
  have mask : ∀ i < 64, (0x000FFFFFFFFFFFC0#64).getLsbD i = (decide (6 ≤ i) && decide (i ≤ 51)) := by decide
  refine BitVec.eq_of_getLsbD_eq fun i hi => ?_
  rw [BitVec.getLsbD_ofNat, testBit_bitsKept, BitVec.getLsbD_and, mask i hi, BitVec.testBit_toNat, decide_eq_true hi, Bool.true_and,
    Bool.and_comm]

/-- DUMPCTL keeps bits 51:16, 11:8 and 1:0 (R382). -/
theorem dumpctl_mask (v : BitVec 64) : BitVec.ofNat 64 (bitsKept v.toNat 51 16 + bitsKept (v.toNat % 4096) 11 8 + v.toNat % 4) =
    v &&& 0x000FFFFFFFFF0F03#64 := by
  have mask : ∀ i < 64, (0x000FFFFFFFFF0F03#64).getLsbD i =
      (decide (16 ≤ i) && decide (i ≤ 51) || (decide (8 ≤ i) && decide (i ≤ 11) && decide (i < 12) || decide (i < 2))) := by decide
  have low : v.toNat % 4 < 2 ^ 8 := by omega
  have middle : bitsKept (v.toNat % 4096) 11 8 ||| v.toNat % 4 < 2 ^ 16 :=
    Nat.or_lt_two_pow ((bitsKept_lt ..).trans (by decide)) (by omega)
  rw [Nat.add_assoc, bitsKept_add_low _ _ low, bitsKept_add_low _ _ middle, show 4096 = 2 ^ 12 from rfl, show 4 = 2 ^ 2 from rfl]
  refine BitVec.eq_of_getLsbD_eq fun i hi => ?_
  rw [BitVec.getLsbD_ofNat, BitVec.getLsbD_and, mask i hi, Nat.testBit_or, Nat.testBit_or, testBit_bitsKept, testBit_bitsKept,
    Nat.testBit_mod_two_pow v.toNat 12, Nat.testBit_mod_two_pow v.toNat 2, BitVec.testBit_toNat, decide_eq_true hi]
  cases v.getLsbD i <;> simp

/-- REFPHASE reads back its bits 31:11 and 7:0 (R303). -/
theorem refphase_mask (v : BitVec 32) : BitVec.ofNat 32 (bitsKept v.toNat 31 11 + v.toNat % 256) = v &&& 0xFFFFF8FF#32 := by
  have mask : ∀ i < 32, (0xFFFFF8FF#32).getLsbD i = (decide (11 ≤ i) && decide (i ≤ 31) || decide (i < 8)) := by decide
  have low : v.toNat % 256 < 2 ^ 11 := by omega
  rw [bitsKept_add_low _ _ low, show 256 = 2 ^ 8 from rfl]
  refine BitVec.eq_of_getLsbD_eq fun i hi => ?_
  rw [BitVec.getLsbD_ofNat, BitVec.getLsbD_and, mask i hi, Nat.testBit_or, testBit_bitsKept, Nat.testBit_mod_two_pow v.toNat 8,
    BitVec.testBit_toNat, decide_eq_true hi]
  cases v.getLsbD i <;> simp

/-- DUMPSTAT without its bits 31:29 (R383). -/
theorem dumpstat_mask (x : BitVec 32) : BitVec.ofNat 32 (x.toNat % 2 ^ 29) = x &&& 0x1FFFFFFF#32 := by
  apply BitVec.eq_of_toNat_eq
  rw [BitVec.toNat_ofNat, BitVec.toNat_and, Nat.mod_eq_of_lt (by omega)]
  exact (Nat.and_two_pow_sub_one_eq_mod x.toNat 29).symm

/-- OTCOUNT keeps bits 16:0 (R234). -/
theorem otcount_field (v : BitVec 64) : BitVec.ofNat 32 (v.toNat % 2 ^ 17) = (v.setWidth 17).setWidth 32 := by
  rw [← BitVec.toNat_setWidth, BitVec.ofNat_toNat]

theorem extractLsb'_toNat_div {w : Nat} (v : BitVec w) (lo n : Nat) : (v.extractLsb' lo n).toNat = v.toNat / 2 ^ lo % 2 ^ n := by
  rw [BitVec.extractLsb'_toNat, Nat.shiftRight_eq_div_pow]

/-! ## One context, thread or pseudo-channel changed -/

theorem State.modCtx_frame (s : State) (n : Nat) (g : Context → Context) : s.modCtx n g = { s with ctxs := (s.modCtx n g).ctxs } := by
  unfold State.modCtx
  split <;> rfl

theorem State.modCtx_absent {s : State} {n : Nat} (h : s.ctx? n = none) (g : Context → Context) : s.modCtx n g = s := by
  rw [State.modCtx, h]

theorem State.modThread_frame (s : State) (tid : Nat) (g : Thread → Thread) :
    s.modThread tid g = { s with threads := (s.modThread tid g).threads } := by
  unfold State.modThread
  split <;> rfl

@[simp] theorem State.charge_pch (s : State) (tid field n p : Nat) : (s.charge tid field n).pch p = s.pch p := by
  rw [State.pch, State.charge, State.modThread_refresh]
  rfl

/-- What a row that writes a register of one context leaves: that context as given, every other one and all else as before. -/
theorem State.modCtx_row {s : State} {ctx : Nat} {c : Context} (h : s.ctx? ctx = some c) (g : Context → Context) :
    s.modCtx ctx g = { s with ctxs := (s.modCtx ctx g).ctxs } ∧ (s.modCtx ctx g).ctx? ctx = some (g c) ∧
      ∀ n, n ≠ ctx → (s.modCtx ctx g).ctx? n = s.ctx? n :=
  ⟨s.modCtx_frame ctx g, by rw [State.modCtx_same, h, Option.map_some], fun _ => s.modCtx_other g⟩

/-- What a row that writes a register of one thread leaves: that thread as given, every other one and all else as before. -/
theorem State.modThread_row {s : State} {tid : Nat} {t : Thread} (h : s.thread? tid = some t) (g : Thread → Thread) :
    s.modThread tid g = { s with threads := (s.modThread tid g).threads } ∧ (s.modThread tid g).thread? tid = some (g t) ∧
      ∀ n, n ≠ tid → Untouched s (s.modThread tid g) n :=
  ⟨s.modThread_frame tid g, by rw [State.modThread_same, h, Option.map_some], fun _ => s.modThread_other g⟩

/-- What a refresh row leaves: its pseudo-channel as given, every other one and all else as before. -/
theorem State.setPch_row (s : State) (pch : Nat) (r : Refresh) :
    s.setPch pch r = { s with refresh := (s.setPch pch r).refresh } ∧ (s.setPch pch r).pch pch = r ∧
      ∀ p, p ≠ pch → (s.setPch pch r).pch p = s.pch p :=
  ⟨rfl, s.setPch_same pch r, fun _ => s.setPch_other r⟩

/-! ## Rows of a context's registers -/

theorem exec_otbaseWrite {s : State} {ctx : Nat} {c : Context} (count : Bool) (v : BitVec 64) (h : s.ctx? ctx = some c) :
    ∃ u, exec (.otbaseWrite ctx count v) s = .next u ∧
      u.ctx? ctx = some (if count then { c with otcount := (v.setWidth 17).setWidth 32 }
        else { c with otbase := v &&& 0x000FFFFFFFFFFFC0#64 }) ∧
      (∀ n, n ≠ ctx → u.ctx? n = s.ctx? n) ∧ u.threads = s.threads ∧ u.mem = s.mem := by
  obtain ⟨-, written, others⟩ := State.modCtx_row h fun c =>
    if count then { c with otcount := BitVec.ofNat 32 (v.toNat % 2 ^ 17) } else { c with otbase := BitVec.ofNat 64 (bitsKept v.toNat 51 6) }
  refine ⟨s.writeObjectTable ctx count v.toNat, rfl, ?_, others, State.modCtx_threads .., State.modCtx_mem ..⟩
  rw [← otcount_field, ← otbase_mask]
  exact written

theorem exec_nbvWrite {s : State} {ctx : Nat} {c : Context} (v : BitVec 32) (h : s.ctx? ctx = some c) :
    ∃ u, exec (.nbvWrite ctx v) s = .next u ∧ u = { s with ctxs := u.ctxs } ∧
      u.ctx? ctx = some (if v = 0 ∨ v = 1 then { c with nbv := v } else c) ∧ ∀ n, n ≠ ctx → u.ctx? n = s.ctx? n := by
  have legal : v.toNat < 2 ↔ v = 0 ∨ v = 1 := by bv_omega
  refine ⟨if v.toNat < 2 then s.modCtx ctx fun c => { c with nbv := v } else s, rfl, ?_⟩
  by_cases hv : v.toNat < 2
  · rw [if_pos hv, if_pos (legal.1 hv)]
    exact State.modCtx_row h _
  · rw [if_neg hv, if_neg (mt legal.2 hv)]
    exact ⟨rfl, h, fun _ _ => rfl⟩

theorem exec_nbvWrite_absent {s : State} {ctx : Nat} (v : BitVec 32) (h : s.ctx? ctx = none) :
    exec (.nbvWrite ctx v) s = .next s := by
  show Host.Outcome.next (if v.toNat < 2 then s.modCtx ctx fun c => { c with nbv := v } else s) = .next s
  rw [State.modCtx_absent h, ite_self]

theorem exec_dumpctlWrite {s : State} {ctx : Nat} {c : Context} (v : BitVec 64) (h : s.ctx? ctx = some c) :
    ∃ u c', exec (.dumpctlWrite ctx v) s = .next u ∧ u = { s with ctxs := u.ctxs } ∧
      u.ctx? ctx = some c' ∧ c' = { c with dumpctl := c'.dumpctl, dumpstat := c'.dumpstat } ∧
      c'.dumpctl = v &&& 0x000FFFFFFFFF0F03#64 ∧ c'.dumpstat = c.dumpstat &&& 0x1FFFFFFF#32 ∧ ∀ n, n ≠ ctx → u.ctx? n = s.ctx? n := by
  obtain ⟨frame, written, others⟩ := State.modCtx_row h fun c =>
    { c with dumpctl := BitVec.ofNat 64 (bitsKept v.toNat 51 16 + bitsKept (v.toNat % 4096) 11 8 + v.toNat % 4)
             dumpstat := BitVec.ofNat 32 (c.dumpstat.toNat % 2 ^ 29) }
  exact ⟨s.writeDumpctl ctx v.toNat, _, rfl, frame, written, rfl, dumpctl_mask v, dumpstat_mask c.dumpstat, others⟩

theorem exec_dumpctlWrite_absent {s : State} {ctx : Nat} (v : BitVec 64) (h : s.ctx? ctx = none) :
    exec (.dumpctlWrite ctx v) s = .next s :=
  congrArg Host.Outcome.next (State.modCtx_absent h _)

/-! ## Rows of a thread's registers -/

theorem swrite_absent {s : State} {tid : Nat} (n : Nat) (hf : BitVec 2) (w : Nat) (h : s.thread? tid = none) :
    swrite tid n hf w s = .ok ((), s) := by
  simp only [swrite, h]

theorem swrite_utvec {s : State} {tid : Nat} {t : Thread} (v : Nat) (h : s.thread? tid = some t) : swrite tid 0x011 0 v s =
    if v % 3 ≠ 0 then .error (.trap .align v) else .ok ((), s.modThread tid fun t => { t with utvec := BitVec.ofNat 32 v }) := by
  simp only [swrite, h, mergeHalf, if_true]

theorem swrite_fpctl {s : State} {tid : Nat} {t : Thread} (v : Nat) (h : s.thread? tid = some t) : swrite tid 0x010 0 v s =
    if v / 16 % 8 ≥ 6 then .error (.trap .illeg 0) else .ok ((), s.modThread tid fun t => { t with fpctl := fpctlWritten t.fpctl v }) := by
  simp only [swrite, h, mergeHalf, if_true]

section
variable {s : State} {tid : Nat} {w : Work Unit}

theorem State.swriteOr_ok {u : State} (h : w s = .ok ((), u)) : s.swriteOr tid w = u := by
  rw [State.swriteOr, h]

theorem State.swriteOr_trap {c : Cause} {info : Nat} (h : w s = .error (.trap c info)) : s.swriteOr tid w = s := by
  rw [State.swriteOr, h]

theorem State.swriteOr_parked {f : FaultInfo} (h : w s = .error (.parked f)) :
    s.swriteOr tid w = s.modThread tid fun t => { t with parked := some f }.block .fault := by
  rw [State.swriteOr, h]

end

theorem exec_utvecWrite {s : State} {tid : Nat} {t : Thread} (v : BitVec 32) (h : s.thread? tid = some t) :
    ∃ u, exec (.utvecWrite tid v) s = .next u ∧ u = { s with threads := u.threads } ∧
      u.thread? tid = some (if v.toNat % 3 = 0 then { t with utvec := v } else t) ∧ ∀ n, n ≠ tid → Untouched s u n := by
  have write := swrite_utvec v.toNat h
  by_cases hv : v.toNat % 3 = 0
  · rw [if_neg (not_not.2 hv), BitVec.ofNat_toNat, BitVec.setWidth_eq] at write
    rw [if_pos hv]
    exact ⟨_, congrArg Host.Outcome.next (State.swriteOr_ok write), State.modThread_row h _⟩
  · rw [if_pos hv] at write
    rw [if_neg hv]
    exact ⟨s, congrArg Host.Outcome.next (State.swriteOr_trap write), rfl, h, fun _ _ => rfl⟩

theorem exec_fpctlWrite {s : State} {tid : Nat} {t : Thread} (v : BitVec 32) (h : s.thread? tid = some t) :
    ∃ u, exec (.fpctlWrite tid v) s = .next u ∧ u = { s with threads := u.threads } ∧
      u.thread? tid = some (if (v.extractLsb' 4 3).toNat < 6 then { t with fpctl := fpctlWritten t.fpctl v.toNat } else t) ∧
      ∀ n, n ≠ tid → Untouched s u n := by
  have mode : (v.extractLsb' 4 3).toNat = v.toNat / 16 % 8 := extractLsb'_toNat_div v 4 3
  have write := swrite_fpctl v.toNat h
  rw [← mode] at write
  by_cases hv : (v.extractLsb' 4 3).toNat < 6
  · rw [if_neg (not_le.2 hv)] at write
    rw [if_pos hv]
    exact ⟨_, congrArg Host.Outcome.next (State.swriteOr_ok write), State.modThread_row h _⟩
  · rw [if_pos (not_lt.1 hv)] at write
    rw [if_neg hv]
    exact ⟨s, congrArg Host.Outcome.next (State.swriteOr_trap write), rfl, h, fun _ _ => rfl⟩

theorem exec_utvecWrite_absent {s : State} {tid : Nat} (v : BitVec 32) (h : s.thread? tid = none) :
    exec (.utvecWrite tid v) s = .next s :=
  congrArg Host.Outcome.next (State.swriteOr_ok (swrite_absent 0x011 0 v.toNat h))

theorem exec_fpctlWrite_absent {s : State} {tid : Nat} (v : BitVec 32) (h : s.thread? tid = none) :
    exec (.fpctlWrite tid v) s = .next s :=
  congrArg Host.Outcome.next (State.swriteOr_ok (swrite_absent 0x010 0 v.toNat h))

/-! ## REFPHASE: the block that the value names is translated, and its pseudo-channel starts afresh (R303) -/

/-- How the settled thread reaches the block that a REFPHASE value names. -/
def refphaseReach (s : State) (tid : Nat) (t : Thread) (v : BitVec 32) : Reach × State :=
  (s.settleAccesses tid).reach t ((v.extractLsb' 11 21).toNat * 2 ^ 11) 1 .read

/-- A pseudo-channel of which REFPHASE names a block, in the cycle in which it does. -/
def Refresh.restarted (r : Refresh) (v : BitVec 32) (pa cycle : Nat) : Refresh :=
  { r with step := (v.extractLsb' 0 8).toNat, block := some (pa / 2048), owed := 0, bank := bankOf pa, reads := 0
           forced := 0, postp := 0, guard := 0, since := cycle, phase := cycle }

/-- The state after REFPHASE has named the block at an HBM address. -/
def State.refphaseNamed (s : State) (v : BitVec 32) (pa : Nat) : State :=
  { s.setPch (pchOf pa) ((s.pch (pchOf pa)).restarted v pa s.cycle) with
    refReported := some (pchOf pa), refphase := v &&& 0xFFFFF8FF#32 }

/-- What a REFPHASE write comes to, by how the named block is reached. -/
def refphaseOutcome (v : BitVec 32) : Reach × State → Except Stop (Unit × State)
  | (.trap c info, _) => .error (if c = .pgfatal then .trap .pgfatal info else .trap .bounds 0xFFFF)
  | (.fault f, _) => .error (.parked f)
  | (.ok pa _, s) =>
    if regionOf (s.localPa pa) = .hbm then .ok ((), s.refphaseNamed v (s.localPa pa)) else .error (.trap .bounds 0xFFFF)

section
variable {s s1 : State} {tid : Nat} {t : Thread} {v : BitVec 32}

theorem writeRefphase_absent (n : Nat) (h : (s.settleAccesses tid).thread? tid = none) :
    writeRefphase tid n s = .ok ((), s.settleAccesses tid) := by
  unfold writeRefphase
  simp only [h]

/-- The one account of REFPHASE's write. Address resolution is made a variable first: the kernel would otherwise evaluate the compare
of the offset with the cell window, number by number. -/
theorem writeRefphase_eq (h : (s.settleAccesses tid).thread? tid = some t) :
    writeRefphase tid v.toNat s = refphaseOutcome v (refphaseReach s tid t v) := by
  unfold writeRefphase refphaseReach
  obtain ⟨reach, named⟩ : ∃ f, State.reach = f := ⟨_, rfl⟩
  rw [named, extractLsb'_toNat_div]
  simp only [h]
  rcases reach (s.settleAccesses tid) t (v.toNat / 2 ^ 11 % 2 ^ 21 * 2 ^ 11) 1 .read with ⟨pa | ⟨c, info⟩ | f, s1⟩
  · have mode : (v.extractLsb' 0 8).toNat = v.toNat % 256 := BitVec.extractLsb'_toNat 0 8 v
    simp only [refphaseOutcome, State.refphaseNamed, Refresh.restarted, mode, refphase_mask, ite_not]
  · cases c <;> rfl
  · rfl

theorem exec_refphaseWrite_hbm {pa : Nat} {nrd : Bool} (h : (s.settleAccesses tid).thread? tid = some t)
    (hr : refphaseReach s tid t v = (.ok pa nrd, s1)) (hm : regionOf (s1.localPa pa) = .hbm) :
    exec (.refphaseWrite tid v) s = .next (s1.refphaseNamed v (s1.localPa pa)) := by
  have write := writeRefphase_eq h (v := v)
  rw [hr, refphaseOutcome, if_pos hm] at write
  exact congrArg Host.Outcome.next (State.swriteOr_ok write)

theorem exec_refphaseWrite_elsewhere {pa : Nat} {nrd : Bool} (h : (s.settleAccesses tid).thread? tid = some t)
    (hr : refphaseReach s tid t v = (.ok pa nrd, s1)) (hm : regionOf (s1.localPa pa) ≠ .hbm) :
    exec (.refphaseWrite tid v) s = .next s := by
  have write := writeRefphase_eq h (v := v)
  rw [hr, refphaseOutcome, if_neg hm] at write
  exact congrArg Host.Outcome.next (State.swriteOr_trap write)

theorem exec_refphaseWrite_trap {c : Cause} {info : Nat} (h : (s.settleAccesses tid).thread? tid = some t)
    (hr : refphaseReach s tid t v = (.trap c info, s1)) : exec (.refphaseWrite tid v) s = .next s := by
  have write := writeRefphase_eq h (v := v)
  rw [hr, refphaseOutcome] at write
  split at write
  · exact congrArg Host.Outcome.next (State.swriteOr_trap write)
  · exact congrArg Host.Outcome.next (State.swriteOr_trap write)

theorem exec_refphaseWrite_fault {f : FaultInfo} (h : (s.settleAccesses tid).thread? tid = some t)
    (hr : refphaseReach s tid t v = (.fault f, s1)) :
    exec (.refphaseWrite tid v) s = .next (s.modThread tid fun t => { t with parked := some f }.block .fault) := by
  have write := writeRefphase_eq h (v := v)
  rw [hr, refphaseOutcome] at write
  exact congrArg Host.Outcome.next (State.swriteOr_parked write)

theorem exec_refphaseWrite_absent (v : BitVec 32) (h : (s.settleAccesses tid).thread? tid = none) :
    exec (.refphaseWrite tid v) s = .next (s.settleAccesses tid) :=
  congrArg Host.Outcome.next (State.swriteOr_ok (writeRefphase_absent v.toNat h))

end

/-! ## Refresh under a step (R304, R306) -/

theorem duePoint_postpones {s : State} {pch : Nat} (tid : Nat) (hs : (s.pch pch).step ≠ 0) (ho : (s.pch pch).owed < 8) :
    exec (.refreshDuePoint pch tid) s =
      .next (s.setPch pch { s.pch pch with owed := (s.pch pch).owed + 1, postp := (s.pch pch).postp + 1 }) := by
  show Host.Outcome.next (if (s.pch pch).step = 0 then s else s.duePoint pch tid) = _
  rw [if_neg hs, State.duePoint, if_pos ho]

/-- The pseudo-channel after a forced refresh of every bank under a step (R304). -/
def Refresh.forcedUnderStep (r : Refresh) (cycle : Nat) : Refresh :=
  { r with owed := 0, forced := r.forced + 1, since := cycle }.hold (List.range 16) cycle 540 false

theorem duePoint_forces {s : State} {pch tid : Nat} {t : Thread} (hs : (s.pch pch).step ≠ 0) (ho : 8 ≤ (s.pch pch).owed)
    (ht : s.thread? tid = some t) : ∃ u, exec (.refreshDuePoint pch tid) s = .next u ∧
      u = { s with refresh := u.refresh, threads := u.threads } ∧ u.pch pch = (s.pch pch).forcedUnderStep s.cycle ∧
      (∀ p, p ≠ pch → u.pch p = s.pch p) ∧ u.thread? tid = some { t with latcnt := chargeField t.latcnt 2 540 } ∧
      ∀ n, n ≠ tid → Untouched s u n := by
  let r := (s.pch pch).forcedUnderStep s.cycle
  have runs : exec (.refreshDuePoint pch tid) s = .next ((s.setPch pch r).charge tid 2 540) := by
    show Host.Outcome.next (if (s.pch pch).step = 0 then s else s.duePoint pch tid) = _
    rw [if_neg hs, State.duePoint, if_neg (not_lt.2 ho)]
    rfl
  obtain ⟨frame, charged, others⟩ := State.modThread_row (s := s.setPch pch r) ht fun t =>
    { t with latcnt := chargeField t.latcnt 2 540 }
  refine ⟨_, runs, ?_, ?_, fun p hp => ?_, charged, others⟩
  · rw [State.charge, frame]
    rfl
  · rw [State.charge_pch, State.setPch_same]
  · rw [State.charge_pch, State.setPch_other _ _ hp]

theorem guardRefresh_counts {s : State} {pch : Nat} (hs : (s.pch pch).step ≠ 0) : exec (.guardRefresh pch) s =
    .next (s.setPch pch ({ s.pch pch with guard := (s.pch pch).guard + 1, since := s.cycle }.hold (List.range 16) s.cycle 540 true)) :=
  congrArg Host.Outcome.next (if_neg hs)

theorem stepped_rows_idle {s : State} {pch : Nat} (tid : Nat) (hs : (s.pch pch).step = 0) :
    exec (.refreshDuePoint pch tid) s = .next s ∧ exec (.guardRefresh pch) s = .next s :=
  ⟨congrArg Host.Outcome.next (if_pos hs), congrArg Host.Outcome.next (if_pos hs)⟩

/-! ## Refresh by time (R318) -/

theorem timed_rows_idle {s : State} {pch : Nat} (hs : (s.pch pch).step ≠ 0) :
    exec (.refreshInterval pch) s = .next s ∧ exec (.perBankRefresh pch) s = .next s :=
  ⟨congrArg Host.Outcome.next (if_pos hs), congrArg Host.Outcome.next (if_pos (.inl hs))⟩

theorem refreshInterval_forces {s : State} {pch : Nat} (hs : (s.pch pch).step = 0) (ho : (s.pch pch).owed = 8) :
    exec (.refreshInterval pch) s =
      .next (s.setPch pch ({ s.pch pch with owed := 0, forced := (s.pch pch).forced + 1 }.hold (List.range 16) s.cycle 540 false)) := by
  refine congrArg Host.Outcome.next ?_
  rw [if_neg (not_not.2 hs), if_pos (by rw [ho])]

theorem refreshInterval_postpones {s : State} {pch : Nat} (hs : (s.pch pch).step = 0) (ho : (s.pch pch).owed ≠ 8) :
    exec (.refreshInterval pch) s = .next (s.setPch pch { s.pch pch with
      owed := (s.pch pch).owed + 1, postp := (s.pch pch).postp + (if s.bankBusy pch (s.pch pch).bank then 1 else 0) }) := by
  refine congrArg Host.Outcome.next ?_
  rw [if_neg (not_not.2 hs), if_neg (by omega)]

theorem exec_refreshInterval {s : State} {pch : Nat} (hs : (s.pch pch).step = 0) : ∃ u, exec (.refreshInterval pch) s = .next u ∧
    u = { s with refresh := u.refresh } ∧ (∀ p, p ≠ pch → u.pch p = s.pch p) ∧
    ((s.pch pch).owed = 8 → u.pch pch =
      { s.pch pch with owed := 0, forced := (s.pch pch).forced + 1 }.hold (List.range 16) s.cycle 540 false) ∧
    ((s.pch pch).owed ≠ 8 → u.pch pch = { s.pch pch with
      owed := (s.pch pch).owed + 1, postp := (s.pch pch).postp + (if s.bankBusy pch (s.pch pch).bank then 1 else 0) }) := by
  by_cases ho : (s.pch pch).owed = 8
  · obtain ⟨frame, written, others⟩ := s.setPch_row pch _
    exact ⟨_, refreshInterval_forces hs ho, frame, others, fun _ => written, fun h => absurd ho h⟩
  · obtain ⟨frame, written, others⟩ := s.setPch_row pch _
    exact ⟨_, refreshInterval_postpones hs ho, frame, others, fun h => absurd h ho, fun _ => written⟩

theorem perBankRefresh_runs {s : State} {pch : Nat} (hs : (s.pch pch).step = 0) (ho : 0 < (s.pch pch).owed)
    (hb : s.bankBusy pch (s.pch pch).bank = false) : exec (.perBankRefresh pch) s = .next (s.setPch pch
      ({ s.pch pch with owed := (s.pch pch).owed - 1, bank := ((s.pch pch).bank + 1) % 16 }.hold [(s.pch pch).bank] s.cycle 210 false)) := by
  refine congrArg Host.Outcome.next (if_neg ?_)
  rintro (h | h | h)
  · exact h hs
  · omega
  · exact absurd (hb.symm.trans h) Bool.false_ne_true

theorem perBankRefresh_waits {s : State} {pch : Nat} (h : (s.pch pch).owed = 0 ∨ s.bankBusy pch (s.pch pch).bank = true) :
    exec (.perBankRefresh pch) s = .next s :=
  congrArg Host.Outcome.next (if_pos (.inr h))

theorem Refresh.hold_bank (r : Refresh) (b now cycles : Nat) (guard : Bool) :
    Map.get? (r.hold [b] now cycles guard).held b = some (now + ofMemCycles cycles, guard) :=
  Map.get?_set_same ..

/-- A tile cycle lasts less than half a memory cycle (R1). -/
theorem toMemCycles_pred (n : Nat) : toMemCycles n = toMemCycles (n - 1) ∨ toMemCycles n = toMemCycles (n - 1) + 1 := by
  unfold toMemCycles
  omega

/-- A memory cycle passes at most one of the half intervals of 183, and every second of these ends an interval of 366 (R318). -/
theorem half_intervals {c d : Nat} (h : c = d ∨ c = d + 1) : (c / 183 ≠ d / 183 ∧ c / 183 % 2 = 0) ↔ c / 366 ≠ d / 366 := by
  have next : c / 183 = d / 183 ∨ c / 183 = d / 183 + 1 := by omega
  have whole (x : Nat) : x / 366 = x / 183 / 2 := (Nat.div_div_eq_div_mul x 183 2).symm
  rw [whole, whole]
  omega

theorem intervalDue_iff {s : State} {pch phase : Nat} (h : phase < s.cycle) : s.intervalDue pch phase = true ↔
    toMemCycles (s.cycle - phase) / 183 ≠ toMemCycles (s.cycle - 1 - phase) / 183 ∧
      (toMemCycles (s.cycle - phase) / 183 % 2 = 0 ∨ Config.hotStack s.cycle (pch / 64) = true) := by
  simp [State.intervalDue, h]

theorem intervalDue_cold {s : State} {pch phase : Nat} (h : phase < s.cycle) (hot : Config.hotStack s.cycle (pch / 64) = false) :
    s.intervalDue pch phase = true ↔ toMemCycles (s.cycle - phase) / 366 ≠ toMemCycles (s.cycle - 1 - phase) / 366 := by
  rw [intervalDue_iff h, hot, or_iff_left Bool.false_ne_true, Nat.sub_right_comm]
  exact half_intervals (toMemCycles_pred _)

theorem intervalDue_hot {s : State} {pch phase : Nat} (h : phase < s.cycle) (hot : Config.hotStack s.cycle (pch / 64) = true) :
    s.intervalDue pch phase = true ↔ toMemCycles (s.cycle - phase) / 183 ≠ toMemCycles (s.cycle - 1 - phase) / 183 := by
  rw [intervalDue_iff h, and_iff_left (.inr hot)]

/-! ## The reorder limit and row repair (R317, R419) -/

theorem reorderLimit_idle {s : State} {pch : Nat} (h : s.oldestAccess pch = none) : exec (.reorderLimit pch) s = .next s := by
  show execReorderLimit pch s = _
  simp only [execReorderLimit, h]

theorem reorderLimit_serves {s : State} {pch tid e : Nat} (h : s.oldestAccess pch = some (tid, e)) : exec (.reorderLimit pch) s =
    .next (nextOr s (exec (.atomicPerform tid e) (nextOr s (exec (.loadDataArrival tid e) s)))) := by
  show execReorderLimit pch s = .next (nextOr s (execAtomicPerform tid e (nextOr s (execLoadDataArrival tid e s))))
  simp only [execReorderLimit, h]

theorem rowRepair_remaps {s : State} {addr : Nat} (hm : regionOf addr = .hbm) (hr : addr / 2048 ∉ s.boot.rows) :
    exec (.rowRepair addr) s = .next { s with boot := { s.boot with rows := addr / 2048 :: s.boot.rows } } :=
  congrArg Host.Outcome.next (if_neg (by simp [hm, hr]))

theorem rowRepair_refused {s : State} {addr : Nat} (h : regionOf addr ≠ .hbm ∨ addr / 2048 ∈ s.boot.rows) :
    exec (.rowRepair addr) s = .next s :=
  congrArg Host.Outcome.next (if_pos (by simpa using h))

/-! ## The obligation -/

/-- Settles O52: row by row, each a change of one context, thread or pseudo-channel. -/
theorem registerAndRefreshRows : Obligations.RegisterAndRefreshRows := by
  refine ⟨⟨fun s ctx c count v => exec_otbaseWrite count v, fun s ctx c => exec_nbvWrite, fun s tid t => exec_utvecWrite,
      fun s tid t => exec_fpctlWrite, fun s ctx c => exec_dumpctlWrite,
      fun s tid t v ht => ⟨fun pa nrd s1 hr => ⟨exec_refphaseWrite_hbm ht hr, exec_refphaseWrite_elsewhere ht hr⟩,
        fun c info s1 => exec_refphaseWrite_trap ht, fun f s1 => exec_refphaseWrite_fault ht⟩,
      fun s ctx h => ⟨fun v => exec_nbvWrite_absent v h, fun v => exec_dumpctlWrite_absent v h⟩,
      fun s tid h => ⟨fun v => exec_utvecWrite_absent v h, fun v => exec_fpctlWrite_absent v h, exec_refphaseWrite_absent⟩,
      fun s offset size v => rfl⟩,
    fun s pch tid => stepped_rows_idle tid, ?_, fun s pch tid t => duePoint_forces, ?_, fun s pch => timed_rows_idle,
    fun s pch => exec_refreshInterval, ?_, Refresh.hold_bank,
    fun s pch phase h => ⟨intervalDue_cold h, intervalDue_hot h⟩, fun s pch => perBankRefresh_waits,
    fun s pch => reorderLimit_idle, fun s pch tid e => reorderLimit_serves, fun s addr => rowRepair_remaps, fun s addr => rowRepair_refused⟩
  · exact fun s pch tid hs ho => ⟨_, duePoint_postpones tid hs ho, s.setPch_row pch _⟩
  · exact fun s pch hs => ⟨_, guardRefresh_counts hs, s.setPch_row pch _⟩
  · exact fun s pch hs ho hb => ⟨_, perBankRefresh_runs hs ho hb, s.setPch_row pch _⟩

end Sys2Proof.Machine
end

section
/-! PROOFS. Which condition of a group is delivered, and to which of its slots (R121, R122). -/
namespace Sys2Proof.Machine

/-! ## The lower of two causes -/

theorem lowerCause_eq_none {a b : Option Cause} : lowerCause a b = none ↔ a = none ∧ b = none := by
  cases a with
  | none => simp [lowerCause]
  | some x =>
    cases b with
    | none => simp [lowerCause]
    | some y => by_cases h : x.code ≤ y.code <;> simp [lowerCause, h]

/-- The lower cause is one of the two, and no code of the two is lower than its own. -/
theorem lowerCause_eq_some {a b : Option Cause} {c : Cause} (h : lowerCause a b = some c) :
    (a = some c ∨ b = some c) ∧ (∀ d, a = some d → c.code ≤ d.code) ∧ ∀ d, b = some d → c.code ≤ d.code := by
  cases a with
  | none =>
    obtain rfl : b = some c := h
    simp
  | some x =>
    cases b with
    | none =>
      obtain rfl : x = c := Option.some.inj h
      simp
    | some y =>
      by_cases hle : x.code ≤ y.code
      · obtain rfl : x = c := by simpa [lowerCause, hle] using h
        simp [hle]
      · obtain rfl : y = c := by simpa [lowerCause, hle] using h
        simpa using le_of_not_ge hle

/-! ## The cause that a group delivers -/

theorem lowestCause_eq_none {vs : Verdicts} : lowestCause vs = none ↔ ∀ v ∈ vs, v.2.2.cause = none := by
  refine ⟨?_, lowestCause_none vs⟩
  induction vs with
  | nil => exact fun _ _ h => nomatch h
  | cons v rest ih =>
    intro h
    obtain ⟨first, others⟩ := lowerCause_eq_none.1 h
    exact List.forall_mem_cons.2 ⟨first, ih others⟩

theorem lowestCause_raised {vs : Verdicts} {c : Cause} (h : lowestCause vs = some c) : ∃ v ∈ vs, v.2.2.cause = some c := by
  induction vs with
  | nil => exact nomatch h
  | cons v rest ih =>
    rcases (lowerCause_eq_some h).1 with first | later
    · exact ⟨v, List.mem_cons_self .., first⟩
    · obtain ⟨w, hw, raised⟩ := ih later
      exact ⟨w, List.mem_cons_of_mem _ hw, raised⟩

theorem lowestCause_lowest {vs : Verdicts} {c : Cause} (h : lowestCause vs = some c) :
    ∀ v ∈ vs, ∀ d, v.2.2.cause = some d → c.code ≤ d.code := by
  induction vs generalizing c with
  | nil => exact fun _ hv => nomatch hv
  | cons v rest ih =>
    obtain ⟨-, first, others⟩ := lowerCause_eq_some h
    refine List.forall_mem_cons.2 ⟨first, fun w hw d hd => ?_⟩
    cases hr : lowestCause rest with
    | none => exact nomatch (lowestCause_eq_none.1 hr w hw).symm.trans hd
    | some e => exact (others e hr).trans (ih hr w hw d hd)

/-! ## TFMASK -/

theorem getLsbD_slotBit {n : Nat} (slot : Nat) (h : n < 32) : (slotBit slot).getLsbD n = true ↔ slot = n := by
  rw [slotBit, BitVec.getLsbD_ofNat, Nat.testBit_two_pow, decide_eq_true h, Bool.true_and, decide_eq_true_iff]

/-- Slots gathered into a mask: those that were in it, and those whose thread raised the cause. -/
theorem getLsbD_causeMask_from (c : Cause) {n : Nat} (h : n < 32) (vs : Verdicts) (m : BitVec 32) :
    (vs.foldl (fun m x => if x.2.2.cause = some c then m ||| slotBit x.2.1 else m) m).getLsbD n = true ↔
      m.getLsbD n = true ∨ ∃ v ∈ vs, v.2.2.cause = some c ∧ v.2.1 = n := by
  induction vs generalizing m with
  | nil => simp
  | cons v rest ih =>
    rw [List.foldl_cons, ih]
    by_cases hv : v.2.2.cause = some c
    · simp [hv, getLsbD_slotBit _ h, or_assoc]
    · simp [hv]

theorem getLsbD_causeMask (vs : Verdicts) (c : Cause) {n : Nat} (h : n < 32) :
    (causeMask vs c).getLsbD n = true ↔ ∃ v ∈ vs, v.2.2.cause = some c ∧ v.2.1 = n :=
  (getLsbD_causeMask_from c h vs 0).trans (by simp)

/-- Settles O14: a computing word raises its one condition, and of a group's conditions the lowest code is delivered, by induction on
the verdicts. -/
theorem conditionsRaised : Obligations.ConditionsRaised :=
  ⟨fun _ _ => run_conditions, fun vs => ⟨lowestCause_eq_none, fun c h =>
    ⟨lowestCause_raised h, lowestCause_lowest h, fun _ hn => getLsbD_causeMask vs c hn⟩⟩⟩

end Sys2Proof.Machine
end

section
/-! PROOFS. The distributor (R37, R38, R41 to R43, R202). -/
namespace Sys2Proof.Machine

/-! ## Examining a record (R37, R38) -/

/-- The first queued launch of a priority queue (R38). -/
def State.firstQueued (s : State) (ctx prio : Nat) : Option (Nat × Launch) :=
  (Map.getD (((s.ctx? ctx).map Context.queues).getD []) prio []).findSome? fun id =>
    (Map.get? s.launches id).bind fun l => if l.phase = .queued then some (id, l) else none

/-- What the examination of a queued launch comes to (R37, R38). -/
def State.examined (s : State) (id : Nat) (l : Launch) : State :=
  match examine l s with
  | .ok ((code, l'), u) =>
    if code = 1 then { u with launches := Map.set u.launches id l' }.writeStatus l' 1 else u.finishLaunch id code
  | .error (.parked f) => s.modLaunch id fun l => { l with fault := some f }
  | .error _ => s.finishLaunch id 0x10

/-- The distributor examines the first queued launch of a context that takes launches, unless it is parked on a page. -/
theorem exec_distributorExamine (s : State) (ctx prio : Nat) :
    exec (.distributorExamine ctx prio) s = .next ((s.firstQueued ctx prio).elim s fun x =>
      if !s.takesLaunches ctx || x.2.fault.isSome then s else s.examined x.1 x.2) := by
  refine congrArg Host.Outcome.next ?_
  show (match s.firstQueued ctx prio with
    | none => s
    | some (id, l) => _) = _
  cases s.firstQueued ctx prio with
  | none => rfl
  | some x =>
    refine if_congr Iff.rfl rfl ?_
    unfold State.examined
    rcases examine x.2 s with e | ⟨⟨code, l'⟩, u⟩
    · cases e <;> rfl
    · by_cases h : code = 1
      · subst h
        rfl
      · simp only [if_neg h]

theorem distributorExamine_refused {s : State} {ctx : Nat} (prio : Nat) (h : s.takesLaunches ctx = false) :
    exec (.distributorExamine ctx prio) s = .next s := by
  rw [exec_distributorExamine]
  cases s.firstQueued ctx prio with
  | none => rfl
  | some x => exact congrArg Host.Outcome.next (if_pos (by rw [h]; rfl))

section
variable {s u : State} {ctx prio id code : Nat} {l l' : Launch}

theorem distributorExamine_first (ht : s.takesLaunches ctx = true) (hf : l.fault = none) (hq : s.firstQueued ctx prio = some (id, l)) :
    exec (.distributorExamine ctx prio) s = .next (s.examined id l) := by
  rw [exec_distributorExamine, hq]
  exact congrArg Host.Outcome.next (if_neg (by simp [ht, hf]))

theorem examined_accepted (h : examine l s = .ok ((1, l'), u)) :
    s.examined id l = { u with launches := Map.set u.launches id l' }.writeStatus l' 1 := by
  rw [State.examined, h]
  exact if_pos rfl

theorem examined_final (hc : code ≠ 1) (h : examine l s = .ok ((code, l'), u)) : s.examined id l = u.finishLaunch id code := by
  rw [State.examined, h]
  exact if_neg hc

theorem examined_parked {f : FaultInfo} (h : examine l s = .error (.parked f)) :
    s.examined id l = s.modLaunch id fun l => { l with fault := some f } := by
  rw [State.examined, h]

end

/-! ## Placing a cluster (R41 to R43, R202) -/

/-- A launch of those offered, with the stage and the sites at which its next cluster fits a quad. -/
abbrev Fit := (Nat × Launch) × Nat × Stage × List (Nat × List Nat)

/-- The first eligible launch whose next cluster fits a quad (R41). -/
def State.firstFitting (s : State) (quad : Nat) : Option Fit :=
  s.offers.findSome? fun x => if s.eligible x.2 then (s.firstFit x.1 x.2 quad).map fun f => (x, f) else none

/-- What the quad takes of it. -/
def Fit.offer (y : Fit) : Offer := { id := y.1.1, launch := y.1.2, stage := y.2.1, block := y.2.2.1, sites := y.2.2.2 }

theorem takes_of_quad (s : State) {quad : Nat} (h : quad < 48) : s.takes quad = (s.firstFitting quad).map Fit.offer := by
  rw [State.firstFitting, List.map_findSome?]
  refine congrArg s.offers.findSome? (funext fun x => ?_)
  cases he : s.eligible x.2 with
  | false => simp [he]
  | true => simp [he, h, Fit.offer, Function.comp_def]

/-- Beyond the 48 quads nothing is placed. -/
theorem takes_of_no_quad (s : State) {quad : Nat} (h : 48 ≤ quad) : s.takes quad = none :=
  List.findSome?_eq_none_iff.2 fun x _ => if_neg (by simp [h])

/-- Where no eligible launch fits there is no first one that does. -/
theorem firstFitting_none {s : State} {quad : Nat}
    (h : ∀ x ∈ s.offers, s.eligible x.2 = true → s.firstFit x.1 x.2 quad = none) : s.firstFitting quad = none :=
  List.findSome?_eq_none_iff.2 fun x hx => by
    by_cases he : s.eligible x.2 = true
    · rw [if_pos he, h x hx he, Option.map_none]
    · rw [if_neg he]

theorem exec_placeCluster (s : State) (quad : Nat) : exec (.placeCluster quad) s =
    .next ((s.parkDependence.takes quad).elim s.parkDependence (s.parkDependence.place quad)) := by
  refine congrArg Host.Outcome.next ?_
  show (match s.parkDependence.takes quad with
    | none => s.parkDependence
    | some o => s.parkDependence.place quad o) = _
  cases s.parkDependence.takes quad <;> rfl

theorem placeCluster_places {s : State} {quad : Nat} {y : Fit} (h : quad < 48) (hf : s.parkDependence.firstFitting quad = some y) :
    exec (.placeCluster quad) s = .next (s.parkDependence.place quad y.offer) := by
  rw [exec_placeCluster, takes_of_quad _ h, hf]
  rfl

theorem placeCluster_idle {s : State} {quad : Nat} (h : s.parkDependence.takes quad = none) :
    exec (.placeCluster quad) s = .next s.parkDependence := by
  rw [exec_placeCluster, h]
  rfl

theorem placeCluster_without_fit {s : State} {quad : Nat} (h : s.parkDependence.firstFitting quad = none) :
    exec (.placeCluster quad) s = .next s.parkDependence := by
  rcases Nat.lt_or_ge quad 48 with hq | hq
  · exact placeCluster_idle (by rw [takes_of_quad _ hq, h, Option.map_none])
  · exact placeCluster_idle (takes_of_no_quad _ hq)

/-- Settles O44: an examination by what it comes to, and a placement by the first launch that fits. -/
theorem distribution : Obligations.Distribution := by
  refine ⟨fun s ctx prio id l ht hf hq => ?_, fun s ctx prio => distributorExamine_refused prio,
    fun s quad id l stage t sites h hf => placeCluster_places h hf, fun s quad h => placeCluster_without_fit (firstFitting_none h),
    fun s quad h => placeCluster_idle (takes_of_no_quad _ h)⟩
  rw [distributorExamine_first ht hf hq]
  exact ⟨fun l' s1 h => congrArg Host.Outcome.next (examined_accepted h), fun code l' s1 hc h => congrArg _ (examined_final hc h),
    fun g h => congrArg Host.Outcome.next (examined_parked h)⟩

end Sys2Proof.Machine
end

section
/-! PROOFS. Cells complete (R42, R43, R46, R384), and clusters of a LAZY launch steal values (R44). -/
namespace Sys2Proof.Machine

/-! ## Completion (R42, R43, R46) -/

/-- What a cell that is done leaves, by its launch: an EVEN or a LAZY one takes its next values, another frees the cell (R42, R43, R46). -/
def State.cellEnds (s : State) (cell : Nat) (c : Cell) : State :=
  match Map.get? s.launches c.launch with
  | none => s.freeCell cell
  | some l =>
    if ranged l (s.stageRec c.launch c.stage) then
      if l.dist = 2 then s.nextEven cell c
      else (s.modCell cell fun c => { c with complete := true, bars := [], cvs := [] }).nextLazy c
    else (s.freeCell cell).launchOver c.launch

theorem cellComplete_absent {s : State} {cell : Nat} (h : Map.get? s.cells cell = none) : exec (.cellComplete cell) s = .next s := by
  show execCellComplete cell s = _
  simp only [execCellComplete, h]

section
variable {s : State} {cell : Nat} {c : Cell} (hc : Map.get? s.cells cell = some c)
include hc

theorem cellComplete_waits (h : c.complete = true ∨ s.cellSpent cell = false ∨ ((s.ctx? c.ctx).any fun x => x.phase == .running) = false) :
    exec (.cellComplete cell) s = .next s := by
  show execCellComplete cell s = _
  simp only [execCellComplete, hc]
  refine congrArg Host.Outcome.next (if_pos ?_)
  rcases h with h | h | h <;> simp [h]

variable (hd : c.complete = false) (hs : s.cellSpent cell = true) (hr : ((s.ctx? c.ctx).any fun x => x.phase == .running) = true)
include hd hs hr

theorem cellComplete_ends : exec (.cellComplete cell) s = .next (s.cellEnds cell c) := by
  show execCellComplete cell s = _
  simp only [execCellComplete, hc]
  exact congrArg Host.Outcome.next (if_neg (by simp [hd, hs, hr]))

end

section
variable {s : State} {cell : Nat} {c : Cell}

/-- A cell whose launch has gone leaves its resources. -/
theorem cellEnds_orphan (hl : Map.get? s.launches c.launch = none) : s.cellEnds cell c = s.freeCell cell := by
  rw [State.cellEnds, hl]

variable {l : Launch} (hl : Map.get? s.launches c.launch = some l)
include hl

theorem cellEnds_flat (h : ranged l (s.stageRec c.launch c.stage) = false) :
    s.cellEnds cell c = (s.freeCell cell).launchOver c.launch := by
  rw [State.cellEnds, hl]
  exact if_neg (Bool.eq_false_iff.1 h)

theorem cellEnds_even (h : ranged l (s.stageRec c.launch c.stage) = true) (he : l.dist = 2) :
    s.cellEnds cell c = s.nextEven cell c := by
  rw [State.cellEnds, hl]
  exact (if_pos h).trans (if_pos he)

theorem cellEnds_lazy (h : ranged l (s.stageRec c.launch c.stage) = true) (he : l.dist ≠ 2) :
    s.cellEnds cell c = (s.modCell cell fun c => { c with complete := true, bars := [], cvs := [] }).nextLazy c := by
  rw [State.cellEnds, hl]
  exact (if_pos h).trans (if_neg he)

end

/-- Of a thread that is spent nothing is under way: no entry, arrival, operation, line or push. -/
theorem spent_quiet {s : State} {tid : Nat} {t : Thread} (h : s.spent tid t = true) :
    t.ended = true ∧ t.replay = [] ∧ t.arriving = [] ∧ (∀ o ∈ s.ops, o.2.tid ≠ tid) ∧ (∀ l ∈ (s.tile t.tile).lines, l.tid ≠ tid) ∧
      ∀ r ∈ s.rings, ∀ p ∈ r.inflight, p.tid ≠ tid := by
  simp only [State.spent, Bool.and_eq_true, List.isEmpty_iff, Bool.not_eq_true', List.any_eq_false, beq_iff_eq] at h
  obtain ⟨⟨⟨⟨⟨⟨ended, replay⟩, arriving⟩, ops⟩, lines⟩, pushes⟩, -⟩ := h
  exact ⟨ended, replay, arriving, ops, lines, by simpa using pushes⟩

/-! ## Stealing (R44) -/

/-- An idle cluster has no value in progress and none left in its range. -/
theorem idle_empty {s : State} {n : Nat} {c : Cluster} (h : s.idle n = some c) : c.d = none ∧ c.hi ≤ c.lo := by
  obtain ⟨k, -, hk⟩ := Option.bind_eq_some_iff.1 h
  split at hk
  · rename_i held
    obtain rfl := Option.some.inj hk
    simp only [Bool.and_eq_true, Option.isNone_iff_eq_none, decide_eq_true_eq] at held
    exact held.1.1
  · exact nomatch hk

/-- A cluster that is not idle asks for nothing and is given nothing. -/
theorem steal_busy {s : State} {n : Nat} (h : s.idle n = none) : exec (.stealRequest n) s = .next s ∧ exec (.stealRetry n) s = .next s ∧
    exec (.stealMeshSwitch n) s = .next s ∧ ∀ holder, exec (.stealResponse holder n) s = .next s := by
  refine ⟨?_, ?_, ?_, fun holder => ?_⟩
  · show execStealRequest n s = _
    simp only [execStealRequest, h]
  · show execStealRetry n s = _
    simp only [execStealRetry, h]
  · show execStealMeshSwitch n s = _
    simp only [execStealMeshSwitch, h]
  · show execStealResponse holder n s = _
    simp only [execStealResponse, h]

section
variable {s : State} {n : Nat} {c : Cluster} (h : s.idle n = some c)
include h

theorem stealRequest_asks (hi : c.idleSince = none) : exec (.stealRequest n) s = .next (s.ask n) := by
  show execStealRequest n s = _
  simp [execStealRequest, h, hi]

theorem stealResponse_fails (ha : c.asking = true) (hp : (s.stealPath n c).find? (fun x => decide (1 ≤ x.2.spare)) = none) (holder : Nat) :
    exec (.stealResponse holder n) s = .next (s.modCluster n fun c => { c with asking := false }) := by
  show execStealResponse holder n s = _
  simp only [execStealResponse, h, ha, hp, Bool.not_true, Bool.false_eq_true, if_false]

theorem stealResponse_gives {holder : Nat} {g : Cluster} (ha : c.asking = true)
    (hp : (s.stealPath n c).find? (fun x => decide (1 ≤ x.2.spare)) = some (holder, g)) : exec (.stealResponse holder n) s =
    .next (((s.modCluster holder fun x => { x with hi := x.hi - g.spare }).modCluster n fun c =>
      { c with lo := g.hi - g.spare, hi := g.hi }).takeValue n) := by
  show execStealResponse holder n s = _
  simp only [execStealResponse, h, ha, hp, Bool.not_true, Bool.false_eq_true, if_false, ne_eq, not_true_eq_false]

theorem stealRetry_asks (hi : c.idleSince.isSome = true) (ha : c.asking = false) :
    exec (.stealRetry n) s = .next (if c.lastAsk + 1024 ≤ s.cycle then s.ask n else s) := by
  show execStealRetry n s = _
  simp [execStealRetry, h, hi, ha]

theorem stealMeshSwitch_asks {since : Nat} (hi : c.idleSince = some since) (hm : c.mesh = false) : exec (.stealMeshSwitch n) s =
    .next (if since + 4096 ≤ s.cycle then (s.modCluster n fun c => { c with mesh := true }).ask n else s) := by
  show execStealMeshSwitch n s = _
  simp [execStealMeshSwitch, h, hi, hm]

end

/-- Settles O45: a completion by what its launch is, and a request by what its path meets. -/
theorem cellsAndStealing : Obligations.CellsAndStealing := by
  refine ⟨⟨fun _ _ => cellComplete_absent, fun _ _ _ => cellComplete_waits, fun s cell c hc hd hs hr => ?_, fun _ _ _ => spent_quiet⟩,
    fun _ _ _ => idle_empty, fun _ _ _ => stealRequest_asks, fun _ _ _ => stealResponse_fails, fun _ _ _ _ _ h ha => stealResponse_gives h ha,
    fun _ _ _ => stealRetry_asks, fun _ _ _ _ h hi => stealMeshSwitch_asks h hi, fun _ _ => steal_busy⟩
  rw [cellComplete_ends hc hd hs hr]
  exact ⟨fun hl => congrArg Host.Outcome.next (cellEnds_orphan hl), fun l hl => ⟨fun h => congrArg Host.Outcome.next (cellEnds_flat hl h),
    fun h he => congrArg Host.Outcome.next (cellEnds_even hl h he), fun h he => congrArg Host.Outcome.next (cellEnds_lazy hl h he)⟩⟩

end Sys2Proof.Machine
end

section
/-! PROOFS. The stages of a pipeline: the cells they owe, their closing and their epochs (R41, R200 to R203). -/
namespace Sys2Proof.Machine

/-! ## A launch or a stage changed -/

theorem State.modLaunch_same (s : State) (n : Nat) (g : Launch → Launch) :
    Map.get? (s.modLaunch n g).launches n = (Map.get? s.launches n).map g := by
  unfold State.modLaunch
  cases h : Map.get? s.launches n with
  | none => simpa using h
  | some l => simp

/-! ## The cells that a stage owes (R41, R202) -/

/-- The first quad that takes a cell of a stage, with what it takes (R41). -/
def State.turnOf (s : State) (id stage : Nat) : Option (Nat × Offer) :=
  (List.range 48).findSome? fun q => (s.takes q).bind fun o => if o.id = id ∧ o.stage = stage then some (q, o) else none

/-- The quad takes it, if there is one. -/
def State.placeOwed (s : State) (id stage : Nat) : State :=
  match s.turnOf id stage with
  | none => s
  | some (q, o) => s.place q o

theorem placeFed_eq (s : State) (id stage : Nat) (ready : Launch → Stage → Ring → Bool) :
    s.placeFed id stage ready = (s.oweCell id stage ready).placeOwed id stage := by
  have turn (u : State) : u.turnOf id stage = (List.range 48).findSome? fun q =>
      (u.takes q).bind fun o => if o.id = id && o.stage = stage then some (q, o) else none := by
    simp only [State.turnOf, Bool.and_eq_true, decide_eq_true_eq]
  rw [State.placeOwed, turn]
  rfl

section
variable {s : State} {id stage : Nat} {l : Launch} {t : Stage} {r : Ring} (ready : Launch → Stage → Ring → Bool)
  (hl : Map.get? s.launches id = some l) (ht : l.stages[stage]? = some t) (hr : s.inputRing id t = some r)
include hl ht hr

theorem oweCell_owes (he : s.eligible l = true) (hc : t.closed = false) (h : ready l t r = true) :
    s.oweCell id stage ready = s.modStage id stage fun t => { t with owes := true } := by
  simp only [State.oweCell, hl, ht, hr]
  exact if_neg (by simp [he, hc, h])

theorem oweCell_waits (h : s.eligible l = false ∨ t.closed = true ∨ ready l t r = false) : s.oweCell id stage ready = s := by
  simp only [State.oweCell, hl, ht, hr]
  refine if_pos ?_
  rcases h with h | h | h <;> simp [h]

end

/-- What a queue-fed stage owes under a condition that ready decides. -/
theorem placeFed_ripe {s : State} {id stage : Nat} {l : Launch} {t : Stage} {r : Ring} {ready : Launch → Stage → Ring → Bool} {P : Prop}
    (hP : ready l t r = true ↔ P) (hl : Map.get? s.launches id = some l) (ht : l.stages[stage]? = some t)
    (hr : s.inputRing id t = some r) :
    (s.eligible l = true → t.closed = false → P →
      s.placeFed id stage ready = (s.modStage id stage fun t => { t with owes := true }).placeOwed id stage) ∧
    ((s.eligible l = false ∨ t.closed = true ∨ ¬P) → s.placeFed id stage ready = s.placeOwed id stage) := by
  refine ⟨fun he hc h => ?_, fun h => ?_⟩
  · rw [placeFed_eq, oweCell_owes ready hl ht hr he hc (hP.2 h)]
  · rw [placeFed_eq, oweCell_waits ready hl ht hr (h.imp_right (Or.imp_right fun h => Bool.eq_false_iff.2 (mt hP.1 h)))]

/-- A queue-fed stage's input has held a record for QAGE cycles, or behind closed producers (R202). -/
def agedInput (s : State) (l : Launch) (t : Stage) (r : Ring) : Bool :=
  decide (1 ≤ r.done - r.head) &&
    (((Map.get? r.times r.head).any fun c => decide (c + t.qage ≤ s.cycle)) || (producers l r.obj).all Stage.closed)

theorem agedInput_iff {s : State} {l : Launch} {t : Stage} {r : Ring} : agedInput s l t r = true ↔ 1 ≤ r.done - r.head ∧
    ((∃ c, Map.get? r.times r.head = some c ∧ c + t.qage ≤ s.cycle) ∨ ∀ p ∈ producers l r.obj, p.closed = true) := by
  simp only [agedInput, Bool.and_eq_true, Bool.or_eq_true, decide_eq_true_eq, Option.any_eq_true, List.all_eq_true]

/-! ## A stage closes (R203) -/

/-- A stage closed, its outputs with it, and with the last one its launch over (R203). -/
def State.closeStage (s : State) (id stage : Nat) : State :=
  let u := (s.modStage id stage fun t => { t with closed := true }).closeOutputs id stage
  if (Map.get? u.launches id).any (fun l => l.stages.all Stage.closed) then u.finishLaunch id 3 else u

/-- The input of a stage is closed and drained, and nothing of the stage runs (R203). -/
def State.drained (s : State) (id stage : Nat) (r : Ring) : Prop :=
  r.closed = true ∧ r.done = r.tail ∧ r.tail ≤ r.head ∧ s.clustersOf id stage = []

section
variable {s : State} {id stage : Nat} {l : Launch} {t : Stage} (hl : Map.get? s.launches id = some l)
  (ht : l.stages[stage]? = some t) (hp : l.pipeline = true) (hc : t.closed = false) (hr : l.phase = .running)
include hl ht hp hc hr

theorem stageClose_fed {r : Ring} (hi : s.inputRing id t = some r) :
    (¬s.drained id stage r → exec (.stageClose id stage) s = .next s) ∧
      (s.drained id stage r → exec (.stageClose id stage) s = .next (s.closeStage id stage)) := by
  have finished : (r.closed && r.done == r.tail && decide (r.tail ≤ r.head) && (s.clustersOf id stage).isEmpty) = true ↔
      s.drained id stage r := by
    simp [State.drained, and_assoc]
  have runs : exec (.stageClose id stage) s = .next (if !l.pipeline || t.closed || l.phase != .running ||
      !(r.closed && r.done == r.tail && decide (r.tail ≤ r.head) && (s.clustersOf id stage).isEmpty) then s else s.closeStage id stage) := by
    show execStageClose id stage s = _
    simp only [execStageClose, hl, ht, hi]
    rfl
  rw [runs]
  refine ⟨fun h => congrArg Host.Outcome.next (if_pos ?_), fun h => congrArg _ (if_neg ?_)⟩
  · simp [Bool.eq_false_iff.2 (mt finished.1 h)]
  · simp [finished.2 h, hp, hc, hr]

theorem stageClose_first (hi : s.inputRing id t = none) :
    exec (.stageClose id stage) s = .next (if s.stageRun id l stage t then s.closeStage id stage else s) := by
  show execStageClose id stage s = _
  simp only [execStageClose, hl, ht, hi, hp, hc, hr]
  cases s.stageRun id l stage t <;> rfl

end

/-! ## Epochs (R201) -/

/-- A state in which launch id stands with the epoch e, and threads and memory are those of s. -/
def EpochStands (s : State) (id e : Nat) (u : State) : Prop :=
  (Map.get? u.launches id).map Launch.epoch = some e ∧ u.threads = s.threads ∧ u.mem = s.mem

theorem EpochStands.modStage {s u : State} {id e : Nat} (h : EpochStands s id e u) (stage : Nat) (g : Stage → Stage) :
    EpochStands s id e (u.modStage id stage g) := by
  obtain ⟨epoch, threads, mem⟩ := h
  refine ⟨?_, (State.modLaunch_threads ..).trans threads, (State.modLaunch_mem ..).trans mem⟩
  rw [State.modStage, State.modLaunch_same, Option.map_map]
  exact epoch

/-- Moving a partition moves no epoch. -/
theorem EpochStands.movePart {s u : State} {id e : Nat} (h : EpochStands s id e u) (a b : Nat) : EpochStands s id e (u.movePart id a b) := by
  unfold State.movePart
  split
  · exact h
  · exact (h.modStage a _).modStage b _

/-- The epoch ends after at most one partition has moved. -/
theorem stageEpoch_moves {s : State} {id : Nat} {l : Launch} (hl : Map.get? s.launches id = some l) (hp : l.pipeline = true)
    (he : l.epoch ≤ s.cycle) : ∃ u, EpochStands s id l.epoch u ∧ exec (.stageEpoch id) s = .next (u.modLaunch id fun l => { l with
      epoch := l.epoch + 4096, stages := l.stages.map fun t => { t with blockedFor := 0, pressedFor := 0 } }) := by
  have start : EpochStands s id l.epoch s := ⟨by rw [hl]; rfl, rfl, rfl⟩
  have due : ¬(!l.pipeline || s.cycle < l.epoch) = true := by simp [hp, he]
  show ∃ u, _ ∧ execStageEpoch id s = _
  simp only [execStageEpoch, hl, if_neg due]
  refine ⟨_, ?_, rfl⟩
  split
  · exact start.movePart _ _
  · split
    · split
      · exact start
      · exact start.movePart _ _
    · exact start
  · exact start

theorem stageEpoch_waits {s : State} {id : Nat} {l : Launch} (hl : Map.get? s.launches id = some l)
    (h : l.pipeline = false ∨ s.cycle < l.epoch) : exec (.stageEpoch id) s = .next s := by
  have early : (!l.pipeline || s.cycle < l.epoch) = true := by rcases h with h | h <;> simp [h]
  show execStageEpoch id s = _
  simp only [execStageEpoch, hl, if_pos early]

theorem stageEpoch_ends {s : State} {id : Nat} {l : Launch} (hl : Map.get? s.launches id = some l) (hp : l.pipeline = true)
    (he : l.epoch ≤ s.cycle) : ∃ u l', exec (.stageEpoch id) s = .next u ∧ Map.get? u.launches id = some l' ∧ l'.epoch = l.epoch + 4096 ∧
      (∀ t ∈ l'.stages, t.blockedFor = 0 ∧ t.pressedFor = 0) ∧ u.threads = s.threads ∧ u.mem = s.mem := by
  obtain ⟨u, ⟨epoch, threads, mem⟩, runs⟩ := stageEpoch_moves hl hp he
  obtain ⟨k, hk, same⟩ := Option.map_eq_some_iff.1 epoch
  refine ⟨_, _, runs, by rw [State.modLaunch_same, hk, Option.map_some], congrArg (· + 4096) same, fun t ht => ?_,
    (State.modLaunch_threads ..).trans threads, (State.modLaunch_mem ..).trans mem⟩
  obtain ⟨t, -, rfl⟩ := List.mem_map.1 ht
  exact ⟨rfl, rfl⟩

/-- Settles O46: a stage's cell by whether it is owed, its closing by whether it is drained, and its epoch by the partition moved. -/
theorem stagePipelines : Obligations.StagePipelines := by
  refine ⟨⟨fun s id stage l t r hl ht hr => ?_, fun s id stage l t r hl ht hr => ?_⟩, fun s id stage l t hl ht hp hc hr => ?_,
    fun s id l => stageEpoch_waits, fun s id l => stageEpoch_ends⟩
  · obtain ⟨owes, waits⟩ := placeFed_ripe (ready := fun _ t r => decide (t.threshold ≤ r.done - r.head)) decide_eq_true_iff hl ht hr
    exact ⟨fun he hc h => congrArg Host.Outcome.next (owes he hc h), fun h => congrArg Host.Outcome.next (waits h)⟩
  · obtain ⟨owes, waits⟩ := placeFed_ripe agedInput_iff hl ht hr
    exact ⟨fun he hc h => congrArg Host.Outcome.next (owes he hc h), fun h => congrArg Host.Outcome.next (waits h)⟩
  · refine ⟨fun r hi => ?_, stageClose_first hl ht hp hc hr⟩
    obtain ⟨waits, closes⟩ := stageClose_fed hl ht hp hc hr hi
    refine ⟨fun h => waits fun d => ?_, fun h1 h2 h3 h4 => closes ⟨h1, h2, h3, h4⟩⟩
    obtain ⟨h1, h2, h3, h4⟩ := d
    rcases h with h | h | h | h
    · exact nomatch h.symm.trans h1
    · exact h h2
    · exact absurd h3 (not_le.2 h)
    · exact h h4

end Sys2Proof.Machine
end

section
/-! PROOFS. What a step does: the chain in progress, what stands before it, and a selector's turn (R51, R57, R59, R61). -/
namespace Sys2Proof.Machine

/-! ## A chain in progress (R57, R61) -/

/-- An instruction of a chain issues, the rest of the chain still to come. -/
def State.issuesItem (s : State) (iss : Issue) (i : ChainItem) (is : List ChainItem) : Host.Outcome State Fault Refusal :=
  andThen (exec i.instr { s with issue := some { iss with cur := i, todo := is, drawn := false } }) State.settleChain

theorem issueItem_cons {s : State} {iss : Issue} {i : ChainItem} {is : List ChainItem} (h : iss.todo = i :: is) :
    s.issueItem exec iss = s.issuesItem iss i is := by
  simp only [State.issueItem, h]
  rfl

theorem issueItem_nil {s : State} {iss : Issue} (h : iss.todo = []) : s.issueItem exec iss = .next s.retire := by
  simp only [State.issueItem, h]

section
variable {s : State} {iss : Issue} (hi : s.issue = some iss)
include hi

theorem issueNext_begun (h : iss.drawn = false) : s.issueNext exec = s.issueItem exec iss := by
  simp only [State.issueNext, hi, h]
  rfl

/-- The earliest decode trap of a drawn chain is taken before anything of it issues (R61). -/
theorem issueNext_foreseen {r : Raised} (h : iss.drawn = true) (hf : iss.todo.findSome? (s.foresee exec iss) = some r) :
    s.issueNext exec = .next (State.retire { s with issue := some { iss with drawn := false, todo := [], raised := some r } }) := by
  simp only [State.issueNext, hi, h, hf]
  rfl

theorem issueNext_counted (h : iss.drawn = true) (hf : iss.todo.findSome? (s.foresee exec iss) = none) :
    s.issueNext exec = (s.countIssue iss (iss.todo.map fun x => (s.expanded iss x).instr)).issueItem exec iss := by
  simp only [State.issueNext, hi, h, hf]
  rfl

theorem step_of_chain : step s = s.issueNext exec := if_pos (by rw [hi]; rfl)

end

/-- How a chain begins: with its trap, or with its first instruction, the chain accounted for. -/
theorem issueNext_begins {s : State} {v : Issue} {i : ChainItem} {is : List ChainItem} (hv : s.issue = some v) (hd : v.drawn = true)
    (ht : v.todo = i :: is) :
    (∀ r, v.todo.findSome? (s.foresee exec v) = some r → s.issueNext exec =
      .next (State.retire { s with issue := some { v with drawn := false, todo := [], raised := some r } })) ∧
    (v.todo.findSome? (s.foresee exec v) = none →
      s.issueNext exec = (s.countIssue v (v.todo.map fun x => (s.expanded v x).instr)).issuesItem v i is) :=
  ⟨fun _ => issueNext_foreseen hv hd, fun hf => (issueNext_counted hv hd hf).trans (issueItem_cons ht)⟩

/-! ## What comes before a selector's turn -/

theorem step_deferred {s : State} {d : Deferred} {ds : List Deferred} (hi : s.issue = none) (hd : s.deferred = d :: ds) :
    step s = { s with deferred := ds }.runDeferred d := by
  rw [step, State.stepWith, if_neg (by simp [hi]), hd]

theorem step_agenda {s : State} {i : Instr} {is : List Instr} (hi : s.issue = none) (hd : s.deferred = []) (ha : s.agenda = i :: is) :
    step s = exec i { s with agenda := is } := by
  rw [step, State.stepWith, if_neg (by simp [hi]), hd, ha]

theorem step_reinject {s : State} {r : Reinject} (hi : s.issue = none) (hd : s.deferred = []) (ha : s.agenda = [])
    (hr : s.nextReinject = some r) : step s = .next (s.reinjectStep fun i s => nextOr s (exec i s)) := by
  rw [step, State.stepWith, if_neg (by simp [hi]), hd, ha]
  exact if_neg (by simp [hr])

/-! ## A selector's turn (R51) -/

theorem step_of_idle {s : State} (h : s.Idle) : step s = s.turn exec := by
  obtain ⟨hi, hd, ha, hr⟩ := h
  rw [step, State.stepWith, if_neg (by simp [hi]), hd, ha]
  exact if_pos (by simp [State.nextReinject, hr])

/-- The state with the next partition drawn, the turn gone to the one after it. -/
def State.drawnAt (s : State) (k : Nat) : State := State.draw { s with focus := ((k + 1) / 4, (k + 1) % 4) } (k / 4) (k % 4)

theorem selectorDraw_free {s : State} (tile part : Nat) (h : s.issue = none) : exec (.selectorDraw tile part) s = .next (s.draw tile part) :=
  congrArg Host.Outcome.next (if_neg (by simp [h]))

theorem selectorDraw_held {s : State} (tile part : Nat) (h : s.issue.isSome) : exec (.selectorDraw tile part) s = .next s :=
  congrArg Host.Outcome.next (if_pos h)

theorem step_draws {s : State} {k : Nat} (h : s.Idle) (hk : s.nextPartition (s.focus.1 * 4 + s.focus.2) = some k) :
    step s = (s.drawnAt k).issueNext exec := by
  have draws : execSelectorDraw (k / 4) (k % 4) { s with focus := ((k + 1) / 4, (k + 1) % 4) } = .next (s.drawnAt k) :=
    selectorDraw_free (k / 4) (k % 4) h.1
  rw [step_of_idle h, State.turn]
  simp only [hk, draws]

theorem step_ends_cycle {s : State} (h : s.Idle) (hk : s.nextPartition (s.focus.1 * 4 + s.focus.2) = none) :
    step s = .next { s.tick with focus := (0, 0) } := by
  rw [step_of_idle h, State.turn]
  simp only [hk]

/-! ## The draw (R50, R55, R57) -/

/-- A running partition draws the group of its chosen source. -/
theorem draw_group {s : State} {tile part : Nat} {x : Nat × Thread} {xs : List (Nat × Thread)} (hs : s.dispatched tile part = s)
    (hd : s.Draws tile part x xs) : s.draw tile part = s.drawGroup tile part x.1 (s.slotsFor (x :: xs)) false := by
  obtain ⟨runs, power, free, c, chosen, drawn⟩ := hd
  unfold State.dispatched at hs
  simp only [State.draw, hs, runs, power, free, chosen, drawn]
  rfl

/-- What a draw that has fetched its packet gives to the issue unit: the threads that see the same words as the first (R55, R80). -/
theorem drawGroup_fetched {s u : State} {tile part lead : Nat} {t : Thread} {pas : List Nat} {slots : List (Nat × Nat)} {again : Bool}
    (ht : s.thread? lead = some t) (hf : s.fetchPacket tile t.ctx t.pc = (.ok pas, u)) :
    let v := u.acceptRead lead (pas.headD 0)
    s.drawGroup tile part lead slots again = v.drawChain
      { ctx := t.ctx, tile := tile, part := part, first := t.pc, rpc := t.pc, cur := { instr := .nop ⟨false⟩, pc := t.pc }
        slots := slots.filter fun y => (v.thread? y.2).any fun w => (w.stale.isEmpty && t.stale.isEmpty) || v.chainAt w pas == u.chainAt t pas }
      (u.chainAt t pas) again := by
  simp only [State.drawGroup, ht, hf]

/-! ## A packet of one instruction (R57, R59) -/

theorem decodeItem_plain {die : Nat → Die} {pc : Nat} {i : Instr} (hs : ∀ f, i ≠ .stamp f) :
    decodeItem die pc i = { pc := pc, word := some i, instr := some i } := by
  unfold decodeItem
  split
  · exact absurd rfl (hs _)
  · rfl

theorem decodeChain_one {die : Nat → Die} {pc : Nat} {ws : List Nat} {i : Instr} {n : Nat} (k : Nat) (hw : decodeWords ws = .ok (i, n))
    (hc : chainedOf i = false) : decodeChain die (k + 1) pc ws = [decodeItem die pc i] := by
  simp [decodeChain, hw, hc]

/-- No rule of R59 is about a chain of one instruction that names no next. -/
theorem chainRules_one {t : Thread} {record : Instr → Nat} {pc : Nat} {i : Instr} (hc : chainedOf i = false) :
    chainRules t record [] [] [{ pc := pc, word := some i, instr := some i }] = [{ pc := pc, word := some i, instr := some i }] := by
  simp [chainRules, Decoded.illegal, hc]

theorem chainAt_one {s : State} {t : Thread} {pas : List Nat} {i : Instr} {n : Nat}
    (hw : decodeWords (wordsFrom t.pc (pas.map (s.textWord t))) = .ok (i, n)) (hc : chainedOf i = false) (hs : ∀ f, i ≠ .stamp f) :
    s.chainAt t pas = [{ pc := t.pc, word := some i, instr := some i }] := by
  rw [State.chainAt, decodeChain_one 2 hw hc, decodeItem_plain hs, chainRules_one hc]
  rfl

/-! ## A chain that nothing hinders (R50, R61, R402 to R404) -/

theorem claimed_plain {d : Decoded} {i : Instr} (hd : d.instr = some i) (hb : ∀ f, i ≠ .bkpt f) : d.claimed = d := by
  unfold Decoded.claimed
  split
  · rename_i f h
    exact absurd (Option.some.inj (hd.symm.trans h)) (hb f)
  · rfl

/-- A chain of one instruction that no trap has stopped stands drawn, the instruction to issue first. -/
theorem startChain_one (s : State) (iss : Issue) (pc : Nat) (i : Instr) :
    (s.startChain iss [{ pc := pc, word := some i, instr := some i }] none).issue =
      some { iss with todo := [{ instr := i, pc := pc }], before := [], drawn := true } := rfl

theorem drawChain_unhindered {s : State} {iss : Issue} {i : Instr} {again : Bool} (h : s.Unhindered iss i again) :
    s.drawChain iss [{ pc := iss.first, word := some i, instr := some i }] again =
      s.startChain { iss with rpc := (iss.first + lengthOf i) % 2 ^ 24 } [{ pc := iss.first, word := some i, instr := some i }] none := by
  obtain ⟨plain, noBreak, noTrap, noWait, noWatch⟩ := h
  have claimed : [({ pc := iss.first, word := some i, instr := some i } : Decoded)].map Decoded.claimed =
      [{ pc := iss.first, word := some i, instr := some i }] := by rw [List.map_singleton, claimed_plain rfl plain]
  simp only [State.drawChain, claimed, ite_self, List.getLast?_singleton, Option.map_some, Option.getD_some, List.map_singleton,
    List.filterMap_cons, List.filterMap_nil, noBreak, noWait, noWatch, noTrap, List.isEmpty_nil, Bool.not_true, Bool.false_eq_true,
    if_false]
  refine if_neg fun held => ?_
  rw [Bool.and_eq_true, List.any_cons, List.any_nil, Bool.or_false] at held
  obtain ⟨-, bkpt⟩ := held
  split at bkpt
  · exact plain _ rfl
  · exact nomatch bkpt

/-! ## The obligation -/

/-- Settles O56: a step by what is in progress, each in its order, and a draw by the chain at its packet. -/
theorem stepRunsDecoded : Obligations.StepRunsDecoded := by
  refine ⟨fun s iss i is hi hd ht => ?_, fun s iss hi hd ht => ?_,
    ⟨fun s v i is hv hd ht => ?_, fun s k h hk => ⟨fun hn => ?_, fun v i is hv hd ht => ?_, fun v hv hd ht => ?_⟩⟩,
    fun s h hk => step_ends_cycle h hk, fun s tile part x xs hs hd ht pas u hf => ?_, fun s t pas i n => chainAt_one,
    fun s iss i again h => ?_, fun s d ds => step_deferred, fun s i is => step_agenda, fun s r => step_reinject,
    fun s tile part => selectorDraw_free tile part, fun s tile part => selectorDraw_held tile part⟩
  · exact (step_of_chain hi).trans ((issueNext_begun hi hd).trans (issueItem_cons ht))
  · exact (step_of_chain hi).trans ((issueNext_begun hi hd).trans (issueItem_nil ht))
  · rw [step_of_chain hv]
    exact issueNext_begins hv hd ht
  · rw [step_draws h hk, State.issueNext]
    simp only [State.drawnAt, hn]
  · rw [step_draws h hk]
    exact issueNext_begins hv hd ht
  · exact (step_draws h hk).trans ((issueNext_begun hv hd).trans (issueItem_nil ht))
  · exact (draw_group hs hd).trans (drawGroup_fetched ht hf)
  · rw [drawChain_unhindered h]
    exact ⟨_, startChain_one .., rfl, rfl, rfl, rfl, rfl, rfl, rfl, rfl, rfl⟩

end Sys2Proof.Machine
end

section
/-! PROOFS. The encoder and the decoder agree on every instruction (R55 to R82), and words written out decode to what they stand for. -/
namespace Sys2Proof.Laws.RoundTrip

/-- Settles O58: each constructor by the layout of its own word; an event has no words. -/
theorem decodeOfEncode : Obligations.DecodeOfEncode := by
  intro i
  cases i with
  | nop f => exact nop f | exit f => exact exit f | yield f => exact yield f | rte f => exact rte f | rtePc f => exact rtePc f
  | tfill f => exact tfill f | rqcount f => exact rqcount f | rqread f => exact rqread f | rqwrite f => exact rqwrite f
  | rqdrop f => exact rqdrop f | dield f => exact dield f | diebank f => exact diebank f | syncDie f => exact syncDie f
  | launch f => exact launch f | trap f => exact trap f | bkpt f => exact bkpt f | tlbinv f => exact tlbinv f
  | otinv f => exact otinv f | ctxsave f => exact ctxsave f | ctxload f => exact ctxload f | br f => exact br f
  | call f => exact call f | ret f => exact ret f | reform f => exact reform f | reformX f => exact reformX f
  | calli f => exact calli f | loopImm f => exact loopImm f | loopReg f => exact loopReg f | srd f => exact srd f
  | swr f => exact swr f | movConst f => exact movConst f | iadd f => exact iadd f | isub f => exact isub f | imul f => exact imul f
  | imulh f => exact imulh f | imin f => exact imin f | imax f => exact imax f | iabs f => exact iabs f | ineg f => exact ineg f
  | iand f => exact iand f | ior f => exact ior f | ixor f => exact ixor f | iandn f => exact iandn f | ishl f => exact ishl f
  | ishr f => exact ishr f | isar f => exact isar f | irol f => exact irol f | imad f => exact imad f | imadh f => exact imadh f
  | isad f => exact isad f | ipopc f => exact ipopc f | iclz f => exact iclz f | ictz f => exact ictz f | ibrev f => exact ibrev f
  | ibfx f => exact ibfx f | idiv f => exact idiv f | irem f => exact irem f | mov f => exact mov f | iadd64 f => exact iadd64 f
  | isub64 f => exact isub64 f | ishl64 f => exact ishl64 f | ishr64 f => exact ishr64 f | iaddi f => exact iaddi f
  | imuli f => exact imuli f | iandi f => exact iandi f | iori f => exact iori f | ixori f => exact ixori f
  | ishli f => exact ishli f | ishri f => exact ishri f | isari f => exact isari f | iroli f => exact iroli f
  | fadd f => exact fadd f | fsub f => exact fsub f | fmul f => exact fmul f | ffma f => exact ffma f | fmin f => exact fmin f
  | fmax f => exact fmax f | fabs f => exact fabs f | fneg f => exact fneg f | fdiv f => exact fdiv f | fsqrt f => exact fsqrt f
  | frcp f => exact frcp f | frsq f => exact frsq f | ffloor f => exact ffloor f | fceil f => exact fceil f
  | ftrunc f => exact ftrunc f | frint f => exact frint f | fclass f => exact fclass f | fcopys f => exact fcopys f
  | fscale f => exact fscale f | ffrac f => exact ffrac f | ftab f => exact ftab f | ftabld f => exact ftabld f
  | ftabbank f => exact ftabbank f | rand f => exact rand f | hadd f => exact hadd f | hsub f => exact hsub f
  | hmul f => exact hmul f | hfma f => exact hfma f | dadd f => exact dadd f | dsub f => exact dsub f | dmul f => exact dmul f
  | dfma f => exact dfma f | cvt f => exact cvt f | cvts f => exact cvts f | pack f => exact pack f | unpack f => exact unpack f
  | fexp2 f => exact fexp2 f | flog2 f => exact flog2 f | fsin f => exact fsin f | fcos f => exact fcos f | icmp f => exact icmp f
  | fcmp f => exact fcmp f | hcmp f => exact hcmp f | dcmp f => exact dcmp f | icmpi f => exact icmpi f | pand f => exact pand f
  | por f => exact por f | pxor f => exact pxor f | pandn f => exact pandn f | sel f => exact sel f | ktov f => exact ktov f
  | vtok f => exact vtok f | ld f => exact ld f | st f => exact st f | ldAcq f => exact ldAcq f | stRel f => exact stRel f
  | waitv f => exact waitv f | atomAdd f => exact atomAdd f | atomMin f => exact atomMin f | atomMax f => exact atomMax f
  | atomExch f => exact atomExch f | atomAnd f => exact atomAnd f | atomOr f => exact atomOr f | atomXor f => exact atomXor f
  | atomCas f => exact atomCas f | redAdd f => exact redAdd f | redMin f => exact redMin f | redMax f => exact redMax f
  | redAnd f => exact redAnd f | redOr f => exact redOr f | redXor f => exact redXor f | fence f => exact fence f
  | qfence f => exact qfence f | tfence f => exact tfence f | barArrive f => exact barArrive f | barWait f => exact barWait f
  | barSync f => exact barSync f | cvdecl f => exact cvdecl f | abarInit f => exact abarInit f | abarArrive f => exact abarArrive f
  | abarWait f => exact abarWait f | abarTest f => exact abarTest f | qpush f => exact qpush f | qpop f => exact qpop f
  | qcount f => exact qcount f | qclose f => exact qclose f | sadd f => exact sadd f | ssub f => exact ssub f
  | smul f => exact smul f | sfma f => exact sfma f | smin f => exact smin f | smax f => exact smax f | sdiv f => exact sdiv f
  | ssqrt f => exact ssqrt f | sexp f => exact sexp f | shsum f => exact shsum f | sdot f => exact sdot f
  | sbcast f => exact sbcast f | slane f => exact slane f | sins f => exact sins f | scmp f => exact scmp f | ssel f => exact ssel f
  | scvtNarrow f => exact scvtNarrow f | scvtWiden f => exact scvtWiden f | swls f => exact swls f | spol f => exact spol f
  | sfres f => exact sfres f | smdiel f => exact smdiel f | filmAdd f => exact filmAdd f | filmRd f => exact filmRd f
  | rast f => exact rast f | visrd f => exact visrd f | trace f => exact trace f | tracea f => exact tracea f
  | callsh f => exact callsh f | retsh f => exact retsh f | stex f => exact stex f | stexup f => exact stexup f
  | scmf f => exact scmf f | cast f => exact cast f | castT8 f => exact castT8 f | castT16 f => exact castT16 f
  | castw f => exact castw f | castwCb3 f => exact castwCb3 f | casttab f => exact casttab f | mma f => exact mma f
  | mmas f => exact mmas f | accz f => exact accz f | accld f => exact accld f | accst f => exact accst f
  | accstAdd f => exact accstAdd f | accrd f => exact accrd f | mseq f => exact mseq f | rmaxW f => exact rmaxW f
  | rminW f => exact rminW f | rmedW f => exact rmedW f | rclampW f => exact rclampW f | rssumW f => exact rssumW f
  | adjb f => exact adjb f | wrel f => exact wrel f | rmaxWCr f => exact rmaxWCr f | rminWCr f => exact rminWCr f
  | rmedWCr f => exact rmedWCr f | rclampWCr f => exact rclampWCr f | rssumWCr f => exact rssumWCr f | fcoll f => exact fcoll f
  | fsend f => exact fsend f | fwin f => exact fwin f | stamp f => exact stamp f
  | _ => exact fun encoded _ => no_some rfl encoded

/-! ## Words written out (R62, R69, R72, R81) -/

/-- Settles O59: the decoder is run on each word. -/
theorem decodeWords : Obligations.DecodeWords := by
  unfold Obligations.DecodeWords
  refine ⟨by decide, by decide, by decide, by decide, by decide, by decide, by decide, by decide, by decide, by decide, by decide,
    by decide, by decide, by decide, by decide, by decide, by decide, by decide, by decide, by decide, by decide, by decide,
    ⟨.unassigned, by decide⟩, ⟨.badPrefix, by decide⟩, ⟨.ffma ⟨none, true, 9, 6, 7, false, false⟩, by decide⟩⟩

end Sys2Proof.Laws.RoundTrip
end

section
/-! PROOFS. What a write of a destination changes (R63, R67, R89, R162). -/
namespace Sys2Proof.Machine

/-! ## One register written -/

theorem Thread.vreg_setV (t : Thread) (n : Nat) (x : Word) (st : RState) (k : Nat) :
    (t.setV n x st).vreg k = if k = n then ⟨x, st⟩ else t.vreg k := by
  unfold Thread.vreg Thread.setV
  split
  · next h => subst h; exact Map.getD_set_same ..
  · next h => exact Map.getD_set_ne _ _ _ h

theorem Thread.wreg_setW (t : Thread) (n : Nat) (ws : List Word) (st : RState) (k : Nat) :
    (t.setW n ws st).wreg k = if k = n then WReg.ofWords ws st else t.wreg k := by
  unfold Thread.wreg Thread.setW
  split
  · next h => subst h; exact Map.getD_set_same ..
  · next h => exact Map.getD_set_ne _ _ _ h

/-! ## A run of registers written, in register order -/

theorem Thread.setVs_frame (st : RState) : ∀ (ws : List Word) (t : Thread) (n : Nat),
    t.setVs n st ws = { t with v := (t.setVs n st ws).v }
  | [], _, _ => rfl
  | x :: xs, t, n => Thread.setVs_frame st xs (t.setV n x st) (n + 1)

theorem Thread.vreg_setVs (st : RState) (ws : List Word) (t : Thread) (n k : Nat) :
    (t.setVs n st ws).vreg k = if n ≤ k ∧ k < n + ws.length then ⟨ws.getD (k - n) 0, st⟩ else t.vreg k := by
  induction ws generalizing t n with
  | nil => rw [if_neg (by simp), Thread.setVs]
  | cons x xs ih =>
    rw [Thread.setVs, ih, Thread.vreg_setV]
    rcases Nat.lt_trichotomy k n with below | first | above
    · rw [if_neg (by omega), if_neg (by omega), if_neg (by omega)]
    · subst first
      rw [if_neg (by omega), if_pos rfl, if_pos (by simp), Nat.sub_self, List.getD_cons_zero]
    · obtain ⟨j, rfl⟩ := Nat.exists_eq_add_of_lt above
      rw [if_neg (show ¬ n + j + 1 = n by omega), show n + j + 1 - n = j + 1 by omega, show n + j + 1 - (n + 1) = j by omega,
        List.getD_cons_succ, List.length_cons]
      exact if_congr (by omega) rfl rfl

theorem Thread.setWs_frame (st : RState) : ∀ (count : Nat) (ws : List Word) (t : Thread) (n : Nat),
    t.setWs n st ws count = { t with w := (t.setWs n st ws count).w }
  | 0, _, _, _ => rfl
  | c + 1, ws, t, n => Thread.setWs_frame st c (ws.drop 4) (t.setW n (ws.take 4) st) (n + 1)

/-- Register n + j of the run takes words 4j to 4j + 3. -/
theorem Thread.wreg_setWs (st : RState) (count : Nat) (ws : List Word) (t : Thread) (n k : Nat) :
    (t.setWs n st ws count).wreg k = if n ≤ k ∧ k < n + count then WReg.ofWords (ws.drop (4 * (k - n))) st else t.wreg k := by
  induction count generalizing ws t n with
  | zero => rw [if_neg (by omega), Thread.setWs]
  | succ c ih =>
    rw [Thread.setWs, ih, Thread.wreg_setW]
    rcases Nat.lt_trichotomy k n with below | first | above
    · rw [if_neg (by omega), if_neg (by omega), if_neg (by omega)]
    · subst first
      rw [if_neg (by omega), if_pos rfl, if_pos (by omega), Nat.sub_self]
      simp [WReg.ofWords]
    · obtain ⟨j, rfl⟩ := Nat.exists_eq_add_of_lt above
      rw [if_neg (show ¬ n + j + 1 = n by omega), List.drop_drop, show 4 + 4 * (n + j + 1 - (n + 1)) = 4 * (n + j + 1 - n) by omega]
      exact if_congr (by omega) rfl rfl

/-! ## A predicate written (R89) -/

theorem getLsbD_two_pow (n k : Nat) : (BitVec.ofNat 16 (2 ^ n)).getLsbD k = (decide (k < 16) && decide (n = k)) := by
  rw [BitVec.getLsbD_ofNat, Nat.testBit_two_pow]

theorem Thread.pred_setK (t : Thread) (n : Nat) (b : Bool) {k : Nat} (hk : k < 16) :
    (t.setK n b).pred k = if n ≠ 0 ∧ k = n then b else t.pred k := by
  unfold Thread.setK Thread.pred
  by_cases hn : n = 0
  · simp [hn]
  · by_cases e : k = n
    · subst e
      cases b <;> simp [hn, hk, getLsbD_two_pow, -BitVec.ofNat_pow]
    · cases b <;> simp [hn, hk, e, Ne.symm e, getLsbD_two_pow, -BitVec.ofNat_pow, -BitVec.getLsbD_eq_getElem]

/-! ## A destination written, by its class (R63) -/

theorem Thread.writeDest_v (t : Thread) {d : Dest} (ws : List Word) (st : RState) (h : d.cls = 0) :
    t.writeDest d ws st = t.setVs d.num st (ws.take d.count) := by simp [Thread.writeDest, h]

theorem Thread.writeDest_w (t : Thread) {d : Dest} (ws : List Word) (st : RState) (h : d.cls = 1) :
    t.writeDest d ws st = t.setWs d.num st ws d.count := by simp [Thread.writeDest, h]

theorem Thread.writeDest_k (t : Thread) {d : Dest} (ws : List Word) (st : RState) (h : d.cls = 2) :
    t.writeDest d ws st = t.setK d.num ((ws.getD 0 0).getLsbD 0) := by simp [Thread.writeDest, h]

/-- Settles O12: by the class of the destination, a run of registers written one after the other. -/
theorem destinationWrites : Obligations.DestinationWrites := by
  refine ⟨fun t d ws st hv hc => ?_, fun t d ws st hw => ?_, fun t d ws st hk hn => ?_, fun t => rfl⟩
  · have len : (ws.take d.count).length = d.count := List.length_take_of_le hc
    rw [Thread.writeDest_v t ws st hv]
    refine ⟨fun i hi => ?_, fun n hn => ?_, Thread.setVs_frame ..⟩
    · rw [Thread.vreg_setVs, if_pos (by omega), Nat.add_sub_cancel_left]
      simp [List.getD, hi]
    · rw [Thread.vreg_setVs, if_neg (by omega)]
  · rw [Thread.writeDest_w t ws st hw]
    refine ⟨fun i hi => ?_, fun n hn => ?_, Thread.setWs_frame ..⟩
    · rw [Thread.wreg_setWs, if_pos (by omega), Nat.add_sub_cancel_left]
      simp [WReg.ofWords, List.getD]
    · rw [Thread.wreg_setWs, if_neg (by omega)]
  · rw [Thread.writeDest_k t ws st hk]
    refine ⟨fun h0 => if_pos h0, fun h0 => by rw [Thread.pred_setK t _ _ hn, if_pos ⟨h0, rfl⟩],
      fun n hn' hne => by rw [Thread.pred_setK t _ _ hn', if_neg fun h => hne h.2], ?_⟩
    unfold Thread.setK
    split <;> rfl

end Sys2Proof.Machine
end

section
/-! PROOFS. What a trap at decode leaves, and which words raise PRIV (R61, R82, R93, R112). -/
namespace Sys2Proof.Machine

/-! ## A decode trap issues nothing (R61) -/

/-- An instruction that begins with the decode traps of its group, whatever it goes on to do. -/
def ChecksDecode (i : Instr) : Prop := ∀ s, ∃ k, exec i s = .next (s.issued i k)

theorem issued_traps {s : State} {iss : Issue} {i : Instr} {r : Raised} (k : Issue → State) (hi : s.issue = some iss)
    (hr : s.decodeTraps iss i 0 = some r) :
    s.issued i k = { s with issue := some { iss with raised := some (iss.raised.getD r), todo := [] } } := by
  simp only [State.issued, hi, hr]

theorem ChecksDecode.traps {s : State} {iss : Issue} {i : Instr} {r : Raised} (h : ChecksDecode i) (hi : s.issue = some iss)
    (hr : s.decodeTraps iss i 0 = some r) :
    exec i s = .next { s with issue := some { iss with raised := some (iss.raised.getD r), todo := [] } } := by
  obtain ⟨k, hk⟩ := h s
  rw [hk, issued_traps k hi hr]

/-- Every encoded instruction but a stamp, which the die it names replaces, and SYNC.DIE, which drains its threads' lines first, checks
its decode traps before anything else. -/
theorem encoded_checksDecode {i : Instr} (encoded : i.isEncoded = true) (stamp : ∀ f, i ≠ .stamp f) (sync : ∀ f, i ≠ .syncDie f) :
    ChecksDecode i := by
  cases i with
  | stamp f => exact absurd rfl (stamp f)
  | syncDie f => exact absurd rfl (sync f)
  | selectorDraw | dumpWrite | distributorExamine | placeCluster | cellComplete | stealRequest | stealResponse | stealRetry
  | stealMeshSwitch | loadDataArrival | atomicPerform | atomReply | combineLineIdleDrain | raceCheckResult | tagSweep
  | faultRecordPost | fltdoneWrite | dieldComplete | ftabldComplete | launchEnqueue | casterCopy | castBarrierArrival | castwPerform
  | casttabPerform | mmaPerform | blockExpand | acczPerform | accldPerform | accstPerform | accstAddPerform | accrdPerform
  | mseqPerform | tileReductionPerform | clampSumPerform | adjbPerform | crSetReduction | traceWalk | spectralFetch
  | rgbUpsampleFetch | cmfProjectFetch | filmAddPerform | filmRdPerform | rastPerform | visrdPerform | qpushCommit | qpopReply
  | queueFedPlace | qageTimeout | stageClose | stageEpoch | riddleMove | threadExport | threadArrival | abarArrivalPerform
  | ctxloadRestore | detachedReplyAfterSave | remoteLoadRequest | remoteWriteRequest | remoteAtomicRequest | vectorRequest
  | fabricReleasePerform | endToEndAck | negativeAck | resendTimeout | fsendPerform | fsendLocalComplete | fcollPushPerform
  | collectivePacketArrival | collectiveDelivery | contextKill | abortReceive | hostWrite | hostRead | hostAtomic | otbaseWrite
  | nbvWrite | utvecWrite | fpctlWrite | dumpctlWrite | refphaseWrite | refreshDuePoint | guardRefresh | refreshInterval
  | perBankRefresh | reorderLimit | rowRepair | timensRead | timeadjWrite | timestepWrite | ppsEdge | trigsecWrite | triggerFire
  | bypass | samplePreload | extest | idcode | dbgaddr | dbgdataCapture | dbgdataUpdate | dbgauthCapture | dbgauthUpdate
  | debugStopRequest | debugRelease | debugStep | thrdataWrite | laneCounterClear | pcSample | powerGateEntry | retainEntry
  | powerWake | powerLimitWindow | deviceReset | firmwareImageDoe | getVersion | getCapabilities | negotiateAlgorithms | getDigests
  | getCertificate | challenge | getMeasurements | tileRetire | linkRetrain | linkDown | linkDisable | mmioRegisterWrite
  | linkTrained | flitCrcFailure | contextCreate => exact nomatch encoded
  | _ => exact fun s => ⟨_, rfl⟩

/-! ## SYNC.DIE has no trap at decode -/

theorem decodeTrap_syncDie (s : State) (t : Thread) (priv : Bool) (f : BareForm) : s.decodeTrap t priv 0 (.syncDie f) = none := by
  cases priv <;> rfl

theorem decodeRaise_none {iss : Issue} {found : List (Nat × Option (Cause × BitVec 64))} (h : ∀ x ∈ found, x.2 = none) :
    iss.decodeRaise found = none := by
  refine Option.map_eq_none_iff.2 (lowestCause_none _ fun v hv => ?_)
  obtain ⟨x, hx, rfl⟩ := List.mem_map.1 hv
  rw [h x hx]
  rfl

theorem decodeTraps_syncDie (s : State) (iss : Issue) (f : BareForm) : s.decodeTraps iss (.syncDie f) 0 = none := by
  refine decodeRaise_none fun x hx => ?_
  obtain ⟨y, -, hy⟩ := List.mem_filterMap.1 hx
  obtain ⟨t, -, ht⟩ := Option.map_eq_some_iff.1 hy
  rw [← ht]
  exact decodeTrap_syncDie s t _ f

/-! ## ILLEG before PRIV (R82, R93) -/

theorem decodeTrap_malformed (s : State) (t : Thread) (record : Nat) {i : Instr} (h : i.wellFormed = false) (priv : Bool) :
    s.decodeTrap t priv record i = some (.illeg, 0) := by
  simp only [State.decodeTrap, h, Bool.not_false, if_true]

theorem decodeTrap_legal {s : State} {t : Thread} {record : Nat} {i : Instr} {priv : Bool} (hw : i.wellFormed = true)
    (hd : s.undeclared t priv record i = none) (hl : illegHere t priv i = false) :
    s.decodeTrap t priv record i = (privHere priv i).map fun x => (.priv, x) := by
  simp only [State.decodeTrap, hw, hd, hl, Bool.not_true, Bool.false_eq_true, if_false]

/-- The number of a privileged register, raised as PRIV's. -/
theorem privNumber (n : BitVec 9) :
    ((if n.toNat ≥ 0x100 then some (BitVec.ofNat 64 n.toNat) else none).map fun x => (Cause.priv, x)) =
      if n.toNat ≥ 0x100 then some (Cause.priv, BitVec.ofNat 64 n.toNat) else none :=
  apply_ite (Option.map fun x => (Cause.priv, x)) ..

/-- Settles O15: the shared shape of the encoded instructions checks for traps at decode first, ILLEG before PRIV. -/
theorem decodeTraps : Obligations.DecodeTraps := by
  refine ⟨fun i encoded stamp s iss r hi hr => ?_, fun s t record i => decodeTrap_malformed s t record,
    fun s t record i hw hd hl => ?_⟩
  · by_cases sync : ∃ f, i = .syncDie f
    · obtain ⟨f, rfl⟩ := sync
      exact absurd hr (by rw [decodeTraps_syncDie]; exact nofun)
    · exact (encoded_checksDecode encoded stamp fun f e => sync ⟨f, e⟩).traps hi hr
  · rw [decodeTrap_legal hw hd hl]
    cases i with
    | srd f => exact privNumber f.s
    | swr f => exact privNumber f.s
    | _ => rfl

end Sys2Proof.Machine
end

section
/-! PROOFS. Branches and calls (R67, R95, R96). -/
namespace Sys2Proof.Machine

/-! ## LINK (R94, R96) -/

/-- Three fields of 32, 3 and any more bits, as arithmetic takes them apart. -/
theorem linkFor_toNat (t : Thread) (rpc : Nat) (hf : t.floor < 8) (hl : t.loops.length < 8) :
    (t.linkFor rpc).toNat = t.floor * 2 ^ 35 + t.loops.length * 2 ^ 32 + rpc % 2 ^ 32 := by
  rw [Thread.linkFor, BitVec.toNat_ofNat, Nat.mod_eq_of_lt (by omega)]

/-! ## The predicate of a branch (R67) -/

theorem Lane.x_bne_zero (l : Lane) : (l.x != 0) = (l.a != 0) := by
  rw [Lane.a_eq, Bool.eq_iff_iff, bne_iff_ne, bne_iff_ne, Ne, Ne, BitVec.toNat_eq]
  rfl

/-! ## The target of a B word (R67) -/

/-- A packet whose first word lies in the 24 bits of a PC is the target itself. -/
theorem target_of_inside {iss : Issue} {o : BitVec 14} (lo : ((packetOf iss.cur.pc : Int) + o.toInt) * 3 ≥ 0)
    (hi : ((packetOf iss.cur.pc : Int) + o.toInt) * 3 < 2 ^ 24) : (iss.target o : Int) = packetOf iss.cur.pc + o.toInt := by
  unfold Issue.target
  generalize (packetOf iss.cur.pc : Int) + o.toInt = p at lo hi ⊢
  rw [wordOf, Int.emod_eq_of_lt lo hi, packetOf]
  omega

/-! ## The obligation -/

/-- Settles O19: each word has the shape of a control word, and its effect is the one stated. -/
theorem branchesAndCalls : Obligations.BranchesAndCalls := by
  refine ⟨fun f => ?_, fun f => steer_goes fun _ => rfl, fun f => steer_goes fun _ => rfl,
    fun f => steer_traps fun _ => rfl, fun f => steer_goes fun _ => rfl, fun t rpc hf hl => ?_, fun _ _ => target_of_inside⟩
  · simp only [Lane.x_bne_zero]
    exact steer_goes fun _ => rfl
  · rw [linkFor_toNat t rpc hf hl]
    omega

end Sys2Proof.Machine
end

section
/-! PROOFS. Loads and stores: their entries, what they find and leave in the combining buffer, and the checks of an access (R65, R101,
R102, R148, R314, R319). -/
namespace Sys2Proof.Machine

/-! ## The entry of a plain access (R102, R148) -/

/-- A word that only loads or stores: it orders nothing, releases nothing and ends no region (R103, R289, R328). -/
structure PlainAccess (i : Instr) : Prop where
  orders : orderMask i = 0
  releases : releaseScope i = none
  ends : regionEndOf i = none
  atomic : (accessOf i {}).any Access.atomic = false

theorem regionEndOf_plain {i : Instr} (hr : releaseScope i = none) (ha : (accessOf i {}).any Access.atomic = false)
    (acquires : ∀ f, i ≠ .ldAcq f) : regionEndOf i = none := by
  unfold regionEndOf
  split
  · next f => exact absurd rfl (acquires f)
  · next f => exact nomatch hr
  · rw [hr, ha, Bool.and_false]
    rfl

theorem plainAccess_ld (f : MemForm) : PlainAccess (.ld f) := ⟨rfl, rfl, regionEndOf_plain rfl rfl nofun, rfl⟩

theorem plainAccess_st (f : MemForm) : PlainAccess (.st f) := ⟨rfl, rfl, regionEndOf_plain rfl rfl nofun, rfl⟩

theorem enterAccess_plain {s : State} {tid : Nat} {t : Thread} {e : Entry} (r : Reached) (ht : s.thread? tid = some t)
    (h : PlainAccess e.instr) : s.enterAccess tid e r = s.addEntry tid { e with region := r.region, after := s.fencedBy t 7 } := by
  obtain ⟨orders, releases, ends, atomic⟩ := h
  simp [State.enterAccess, State.mustPrecede, State.beforeAccess, ht, orders, releases, ends, atomic]

theorem enterAccess_absent {s : State} {tid : Nat} (e : Entry) (r : Reached) (ht : s.thread? tid = none) : s.enterAccess tid e r = s := by
  simp only [State.enterAccess, ht]

theorem accesses_congr {i : Instr} {e e' : Issue → Nat → Lane → Reached → State → State} (h : Accesses i e)
    (same : ∀ iss no l r u, e iss no l r u = e' iss no l r u) : Accesses i e' := by
  intro s iss l x r s1 solo access passes issue
  rw [← same]
  exact h s iss l x r s1 solo access passes issue

theorem plainAccess_accesses {i : Instr} (hx : ∀ s, exec i s = .next (s.memory i)) (h : PlainAccess i) :
    Accesses i fun iss no l r u =>
      match u.thread? l.tid with
      | none => u
      | some t => u.addEntry l.tid { iss.entryFor i (destOf 0 i) (slotBit l.slot) no l with
          region := r.region, after := u.fencedBy t 7 } := by
  refine accesses_congr (memory_accesses hx) fun iss no l r u => ?_
  cases ht : u.thread? l.tid with
  | none => exact enterAccess_absent _ r ht
  | some t => exact enterAccess_plain r ht h

theorem State.addEntry_eq {s : State} {tid : Nat} {t : Thread} (e : Entry) (ht : s.thread? tid = some t) : s.addEntry tid e = { s with
    nextId := s.nextId + 1
    threads := Map.set s.threads tid { t.markDest e.dst .empty with replay := t.replay ++ [{ e with id := s.nextId }] } } := by
  have ht' : ({ s with nextId := s.nextId + 1 } : State).thread? tid = some t := ht
  simp only [State.addEntry, State.modThread, ht']

/-! ## Leaving the partition (R148) -/

/-- Where an access resolves, its entry leaves unless it must follow another. The definition is unfolded as a function, away from its
arguments: the kernel, shown it applied, would compute the address. -/
theorem dispatchAccess_reached {s s1 : State} {tid raw : Nat} {nrd : Bool} {t : Thread} {e : Entry} {x : Access}
    (h : s.reach t x.off x.size x.kind = (.ok raw nrd, s1)) : s.dispatchAccess t tid e x =
      if s1.behindEngine t tid e x (s1.localPa raw) || t.behindAtomic e x then (false, s1)
      else s1.leaveFor t tid e (s1.localPa raw) x.size := by
  generalize hf : @State.dispatchAccess = dispatch
  delta State.dispatchAccess at hf
  subst hf
  beta_reduce
  rw [h]

theorem dispatchEntry_leaves {s s1 : State} {tid pa : Nat} {t : Thread} {e : Entry} {x : Access} (h : s.MayLeave tid t e x pa s1) :
    s.dispatchEntry tid e = s1.leaveFor t tid e pa x.size := by
  obtain ⟨ht, held, perf, checked, thawed, first, access, ⟨raw, nrd, reached, rfl⟩, engine, atomic⟩ := h
  have free : e.after.any (s.unfinished t) = false := List.any_eq_false.2 fun o ho => by simp [first o ho]
  have goes : s.dispatchEntry tid e = s.dispatchAccess t tid e x := by
    simp only [State.dispatchEntry, ht, held, perf, checked, thawed, free, access, bne_self_eq_false, Bool.or_false, Bool.not_true,
      Bool.false_eq_true, if_false]
  rw [goes, dispatchAccess_reached reached]
  exact if_neg (by simp [engine, atomic])

theorem leaveFor_ld {s : State} {t : Thread} {tid pa n : Nat} {e : Entry} {f : MemForm} (hi : e.instr = .ld f)
    (hecc : s.eccAt pa n = false) : s.leaveFor t tid e pa n = (true, (s.readAt t tid e.issueNo pa n).2.modThread tid fun u =>
      u.modEntry e.id fun y => { y with
        state := .flight, reply := some (loadWords f.sz (s.readAt t tid e.issueNo pa n).1)
        due := (s.readAt t tid e.issueNo pa n).2.servedFrom pa }) := by
  simp only [State.leaveFor, State.loadAt, hi, hecc, Bool.false_eq_true, if_false]

theorem roomAway_own {s : State} {pa : Nat} (hr : regionOf pa = .hbm ∨ regionOf pa = .slice) : s.roomAway pa = true := by
  rcases hr with hr | hr <;> simp only [State.roomAway, hr]

theorem storeAt_own {s : State} {t : Thread} {pa : Nat} (tid no : Nat) (bs : List Byte) (hr : regionOf pa = .hbm ∨ regionOf pa = .slice) :
    s.storeAt t tid no pa bs = (s.storeBytes t tid pa bs).accessEnergy t.tile t.ctx pa bs.length := by
  rcases hr with hr | hr <;> simp only [State.storeAt, hr]

/-- A store stays in its thread's line where nothing waits for it. -/
theorem leaveFor_st {s : State} {t : Thread} {tid pa n : Nat} {e : Entry} {f : MemForm} (hi : e.instr = .st f)
    (room : s.roomAway pa = true) (he : t.ended = false)
    (hw : (s.storeAt t tid e.issueNo pa (Opnd.bytes e.cap.d n)).isAwaited t e.id = false) :
    s.leaveFor t tid e pa n = (true, (s.storeAt t tid e.issueNo pa (Opnd.bytes e.cap.d n)).finishEntry tid e.id) := by
  simp only [State.leaveFor, State.storeLeft, hi, room, hw, he, Bool.not_true, Bool.or_false, Bool.false_eq_true, if_false]

/-! ## What a read leaves as it was (R304, R306, R412) -/

@[simp] theorem State.charge_tiles_mem (s : State) (tid field n : Nat) :
    (s.charge tid field n).tiles = s.tiles ∧ (s.charge tid field n).mem = s.mem := ⟨State.modThread_tiles .., State.modThread_mem ..⟩

@[simp] theorem State.chargeHeld_tiles_mem (s : State) (tid pa : Nat) :
    (s.chargeHeld tid pa).tiles = s.tiles ∧ (s.chargeHeld tid pa).mem = s.mem := by
  unfold State.chargeHeld
  split
  · exact ⟨rfl, rfl⟩
  · split
    · simp
    · split <;> simp

@[simp] theorem State.chargeAccess_tiles_mem (s : State) (tid pa : Nat) :
    (s.chargeAccess tid pa).tiles = s.tiles ∧ (s.chargeAccess tid pa).mem = s.mem := by
  unfold State.chargeAccess
  split
  · exact ⟨rfl, rfl⟩
  · by_cases h : regionOf pa = .hbm <;> simp [h]

@[simp] theorem State.duePoint_tiles_mem (s : State) (pch tid : Nat) :
    (s.duePoint pch tid).tiles = s.tiles ∧ (s.duePoint pch tid).mem = s.mem := by
  simp only [State.duePoint]
  split <;> simp

@[simp] theorem State.acceptRead_tiles_mem (s : State) (tid pa : Nat) :
    (s.acceptRead tid pa).tiles = s.tiles ∧ (s.acceptRead tid pa).mem = s.mem := by
  simp only [State.acceptRead]
  split
  · simp
  · split
    · split <;> simp
    · simp

@[simp] theorem State.tile_setTile_same (s : State) (n : Nat) (t : Tile) : (s.setTile n t).tile n = t := Map.getD_set_same ..

@[simp] theorem State.energy_lines (s : State) (tile ctx n k : Nat) : ((s.energy tile ctx n k).tile tile).lines = (s.tile tile).lines := by
  simp [State.energy]

@[simp] theorem State.accessEnergy_lines (s : State) (tile ctx pa n : Nat) :
    ((s.accessEnergy tile ctx pa n).tile tile).lines = (s.tile tile).lines := by
  unfold State.accessEnergy
  split <;> simp

@[simp] theorem State.accessEnergy_mem (s : State) (tile ctx pa n : Nat) : (s.accessEnergy tile ctx pa n).mem = s.mem := by
  unfold State.accessEnergy
  split <;> rfl

/-- A thread's own lines, over what memory gives, are those of any state with the lines of its tile. -/
theorem overLine_congr {s u : State} {t : Thread} (h : (u.tile t.tile).lines = (s.tile t.tile).lines) (tid pa : Nat) (bs : List Byte) :
    u.overLine t tid pa bs = s.overLine t tid pa bs := by
  simp only [State.overLine, Tile.lineOf, h]

/-- A read of the device's own memory: what the thread's line holds over what memory holds, with memory as it was. -/
theorem readAt_own {s : State} {t : Thread} {pa : Nat} (tid no n : Nat) (hr : regionOf pa = .hbm ∨ regionOf pa = .slice) :
    (s.readAt t tid no pa n).1 = ((s.acceptRead tid pa).accessEnergy t.tile t.ctx pa n).loadBytes t tid pa n ∧
      (s.readAt t tid no pa n).2.mem = s.mem := by
  have beyond : s.readBeyond t tid no pa n =
      (((s.acceptRead tid pa).accessEnergy t.tile t.ctx pa n).bytes pa n, (s.acceptRead tid pa).accessEnergy t.tile t.ctx pa n) := by
    rcases hr with hr | hr <;> simp only [State.readBeyond, hr]
  rw [State.readAt, beyond]
  refine ⟨(overLine_congr ?_ tid pa _).symm, by simp⟩
  obtain ⟨tiles, -⟩ := s.acceptRead_tiles_mem tid pa
  rw [State.accessEnergy_lines, State.tile, tiles, State.tile]

/-! ## A store found by its thread's loads (R314) -/

theorem State.bytes_length (s : State) (pa n : Nat) : (s.bytes pa n).length = n := by
  induction n generalizing pa with
  | zero => rfl
  | succ n ih => rw [State.bytes, List.length_cons, ih]

/-- A run of bytes set one after the other, from the k-th of an address on: each is found at its place. -/
theorem Map.get?_setRun (pa j : Nat) (bs : List Byte) (k : Nat) (m : Map Byte) :
    Map.get? ((bs.zipIdx k).foldl (fun m (b : Byte × Nat) => Map.set m (pa + b.2) b.1) m) (pa + j) =
      if k ≤ j ∧ j < k + bs.length then bs[j - k]? else Map.get? m (pa + j) := by
  induction bs generalizing k m with
  | nil => exact (if_neg (by rw [List.length_nil]; omega)).symm
  | cons b bs ih =>
    rw [List.zipIdx_cons, List.foldl_cons, ih, List.length_cons]
    rcases Nat.lt_trichotomy j k with below | first | above
    · rw [if_neg (by omega), if_neg (by omega), Map.get?_set_ne m b (by omega)]
    · subst first
      rw [if_neg (by omega), if_pos (by omega), Map.get?_set_same, Nat.sub_self, List.getElem?_cons_zero]
    · obtain ⟨i, rfl⟩ := Nat.exists_eq_add_of_lt above
      rw [Map.get?_set_ne m b (by omega), show k + i + 1 - k = i + 1 by omega, show k + i + 1 - (k + 1) = i by omega,
        List.getElem?_cons_succ]
      exact if_congr (by omega) rfl rfl

/-- The line that a store leaves for its thread and block: the one there was, or a new one, with the store's bytes set. -/
def State.storedLine (s : State) (t : Thread) (tid pa : Nat) (bs : List Byte) : Line :=
  let l : Line := ((s.tile t.tile).lineOf tid (pa / 128 * 128)).getD { tid := tid, block := pa / 128 * 128, order := s.nextId }
  { l with bytes := bs.zipIdx.foldl (fun m (b : Byte × Nat) => Map.set m (pa + b.2) b.1) l.bytes, touched := s.cycle }

theorem Tile.lineOf_names {tl : Tile} {tid block : Nat} {l : Line} (h : tl.lineOf tid block = some l) :
    l.tid = tid ∧ l.block = block := by
  simpa using List.find?_some h

theorem storedLine_names (s : State) (t : Thread) (tid pa : Nat) (bs : List Byte) :
    (s.storedLine t tid pa bs).tid = tid ∧ (s.storedLine t tid pa bs).block = pa / 128 * 128 := by
  unfold State.storedLine
  cases h : (s.tile t.tile).lineOf tid (pa / 128 * 128) with
  | none => exact ⟨rfl, rfl⟩
  | some l => exact Tile.lineOf_names (l := l) h

/-- With a line to spare, a store only puts its line in the place of the one there was. -/
theorem storeBytes_eq {s : State} {t : Thread} (tid pa : Nat) (bs : List Byte) (room : (s.tile t.tile).lines.length < 64) :
    s.storeBytes t tid pa bs = { s.setTile t.tile { s.tile t.tile with
      lines := ((s.tile t.tile).lines.filter fun x => !(x.tid == tid && x.block == pa / 128 * 128)) ++ [s.storedLine t tid pa bs] } with
      nextId := s.nextId + 1 } := by
  have spare : (((s.tile t.tile).lineOf tid (pa / 128 * 128)).isNone && decide ((s.tile t.tile).lines.length ≥ 64)) = false := by
    simp [room]
  simp only [State.storeBytes, spare, Bool.false_eq_true, if_false, State.storedLine]

theorem lineOf_storeBytes {s : State} {t : Thread} (tid pa : Nat) (bs : List Byte) (room : (s.tile t.tile).lines.length < 64) :
    ((s.storeBytes t tid pa bs).tile t.tile).lineOf tid (pa / 128 * 128) = some (s.storedLine t tid pa bs) := by
  obtain ⟨htid, hblock⟩ := storedLine_names s t tid pa bs
  have tile : (s.storeBytes t tid pa bs).tile t.tile = { s.tile t.tile with
      lines := ((s.tile t.tile).lines.filter fun x => !(x.tid == tid && x.block == pa / 128 * 128)) ++ [s.storedLine t tid pa bs] } := by
    rw [storeBytes_eq tid pa bs room]
    exact State.tile_setTile_same ..
  have others : ((s.tile t.tile).lines.filter fun x => !(x.tid == tid && x.block == pa / 128 * 128)).find?
      (fun l => l.tid == tid && l.block == pa / 128 * 128) = none := by
    rw [List.find?_eq_none]
    intro x hx
    simpa only [Bool.not_eq_true', Bool.not_eq_true] using (List.mem_filter.1 hx).2
  rw [Tile.lineOf, tile, List.find?_append, others, Option.none_or, List.find?_singleton]
  simp [htid, hblock]

theorem loadBytes_storeBytes {s : State} {t : Thread} (tid pa : Nat) (bs : List Byte) (room : (s.tile t.tile).lines.length < 64) :
    (s.storeBytes t tid pa bs).loadBytes t tid pa bs.length = bs := by
  rw [State.loadBytes, State.overLine, lineOf_storeBytes tid pa bs room]
  refine List.ext_getElem (by simp [State.bytes_length]) fun j _ hj => ?_
  simp [State.storedLine, Map.get?_setRun, hj]

theorem storeBytes_mem {s : State} {t : Thread} (tid pa : Nat) (bs : List Byte) (room : (s.tile t.tile).lines.length < 64) :
    (s.storeBytes t tid pa bs).mem = s.mem := by
  rw [storeBytes_eq tid pa bs room]
  rfl

/-! ## The checks of an access (R101, R319) -/

section
variable {s s1 : State} {t : Thread} {x : Access}

/-- The check of an access that does not resolve is what it meets there; unfolded as a function, as in `dispatchAccess_reached`. -/
theorem check_unresolved {r : Reach} (h : s.reach t x.off x.size x.kind = (r, s1)) :
    (∀ c info, r = .trap c info → s.check t x = (.trapped c info, s1)) ∧ ∀ f, r = .fault f → s.check t x = (.parked f, s1) := by
  generalize hf : @State.check = check
  delta State.check at hf
  subst hf
  beta_reduce
  exact ⟨fun c info hr => by rw [h, hr], fun f hr => by rw [h, hr]⟩

theorem check_trapped {c : Cause} {info : Nat} (h : s.reach t x.off x.size x.kind = (.trap c info, s1)) :
    s.check t x = (.trapped c info, s1) := (check_unresolved h).1 c info rfl

theorem check_parked {f : FaultInfo} (h : s.reach t x.off x.size x.kind = (.fault f, s1)) : s.check t x = (.parked f, s1) :=
  (check_unresolved h).2 f rfl

theorem check_misaligned (h : t.vaOf x.off % x.size ≠ 0) : s.check t x = (.trapped .align (t.vaOf x.off), s) :=
  check_trapped (if_pos h)

theorem reach_beyond (ha : t.vaOf x.off % x.size = 0) (hw : cellWindow ≤ x.off) {c : Cell} (hc : Map.get? s.cells t.cell = some c)
    (hb : c.sliceLen < x.off - cellWindow + x.size) : s.reach t x.off x.size x.kind = (.trap .bounds 0xFFFF, s) := by
  rw [State.reach, if_neg (not_not_intro ha), if_pos hw, hc]
  exact if_neg (Nat.not_le.2 hb)

theorem check_beyond {c : Cell} (ha : t.vaOf x.off % x.size = 0) (hw : cellWindow ≤ x.off) (hc : Map.get? s.cells t.cell = some c)
    (hb : c.sliceLen < x.off - cellWindow + x.size) : s.check t x = (.trapped .bounds 0xFFFF, s) :=
  check_trapped (reach_beyond ha hw hc hb)

theorem check_pgfatal (ha : t.vaOf x.off % x.size = 0) (hw : x.off < cellWindow)
    (hx : s.translate t.tile t.ctx (t.vaOf x.off) x.kind = (.pgfatal, s1)) : s.check t x = (.trapped .pgfatal (t.vaOf x.off), s1) :=
  check_trapped (by rw [State.reach, if_neg (not_not_intro ha), if_neg (Nat.not_le.2 hw), hx])

theorem check_pgfault {f : FaultInfo} (ha : t.vaOf x.off % x.size = 0) (hw : x.off < cellWindow)
    (hx : s.translate t.tile t.ctx (t.vaOf x.off) x.kind = (.pgfault f, s1)) : s.check t x = (.parked f, s1) :=
  check_parked (by rw [State.reach, if_neg (not_not_intro ha), if_neg (Nat.not_le.2 hw), hx])

end

/-! ## The obligation -/

/-- Settles O24: the entry at issue, what leaves with it, and the checks of the access, each by its own lemma. -/
theorem loadsAndStores : Obligations.LoadsAndStores := by
  refine ⟨⟨fun f => plainAccess_accesses (fun _ => rfl) (plainAccess_ld f),
      fun f => plainAccess_accesses (fun _ => rfl) (plainAccess_st f),
      fun f => memory_traps fun _ => rfl, fun f => memory_traps fun _ => rfl, fun f c => rfl, fun f c => rfl,
      fun s tid t e => State.addEntry_eq e⟩,
    ⟨fun s tid t e f x pa s1 hi hl hecc => ?_, fun s t tid no pa n => readAt_own tid no n, fun s tid t e f x pa s1 hi hl hr => ?_,
      fun s t tid pa n bs room hn _ _ => ?_⟩,
    fun s t x => check_misaligned, fun s t x c => check_beyond, fun s t x s1 => check_pgfatal, fun s t x s1 f => check_pgfault⟩
  · exact (dispatchEntry_leaves hl).trans (leaveFor_ld hi hecc)
  · intro bs v hw he
    have own := storeAt_own (s := s1) (t := t) tid e.issueNo bs hr
    rw [dispatchEntry_leaves hl, leaveFor_st hi (roomAway_own hr) he (own ▸ hw), own]
  · subst hn
    exact ⟨loadBytes_storeBytes tid pa bs room, storeBytes_mem tid pa bs room⟩

end Sys2Proof.Machine
end

section
/-! PROOFS. The FP32 words: each has the shape of a computing word, and its result is the one stated (R89, R123 to R126, R137, R139). -/
namespace Sys2Proof.Machine

/-! ## A computing word's result, in the terms of its statement -/

/-- A word whose results in every lane are those of g computes g. -/
theorem computes_of_results {i : Instr} {f g : State → Lane → LaneOut} (hx : ∀ s, exec i s = s.run i (f s)) (h : ∀ s l, f s l = g s l) :
    Computes i g :=
  run_clear fun s => (hx s).trans (congrArg (s.run i) (funext (h s)))

/-! ## The sign bit, in numbers and in bit vectors (R123) -/

/-- A word is its sign bit above the other 31. -/
theorem exists_sign_append (x : Word) : ∃ (s : BitVec 1) (r : BitVec 31), x = s ++ r :=
  ⟨x.extractLsb' 31 1, x.extractLsb' 0 31, (BitVec.extractLsb'_append_extractLsb' (w := 1) (len := 31)).symm⟩

theorem toNat_sign_append (s : BitVec 1) (r : BitVec 31) : (s ++ r).toNat = s.toNat * 2 ^ 31 + r.toNat := by
  rw [BitVec.toNat_append, ← Nat.shiftLeft_add_eq_or_of_lt r.isLt, Nat.shiftLeft_eq]

theorem ofNat_eq_sign_append {n : Nat} {s : BitVec 1} {r : BitVec 31} (h : n = s.toNat * 2 ^ 31 + r.toNat) :
    BitVec.ofNat 32 n = s ++ r := by
  rw [h, ← toNat_sign_append]
  exact (BitVec.ofNat_toNat ..).trans (BitVec.setWidth_eq _)

theorem sign_append_and_rest (s : BitVec 1) (r : BitVec 31) : s ++ r &&& (0x7FFFFFFF : Word) = 0#1 ++ r :=
  (BitVec.and_append (x₂ := 0#1) (y₂ := BitVec.allOnes 31)).trans (by rw [BitVec.and_zero, BitVec.and_allOnes])

theorem sign_append_and_sign (s : BitVec 1) (r : BitVec 31) : s ++ r &&& (0x80000000 : Word) = s ++ 0#31 :=
  (BitVec.and_append (x₂ := BitVec.allOnes 1) (y₂ := 0#31)).trans (by rw [BitVec.and_zero, BitVec.and_allOnes])

theorem sign_append_xor_sign (s : BitVec 1) (r : BitVec 31) : s ++ r ^^^ (0x80000000 : Word) = (s ^^^ 1#1) ++ r :=
  (BitVec.xor_append (x₂ := 1#1) (y₂ := 0#31)).trans (by rw [BitVec.xor_zero])

/-- FABS: bit 31 cleared. -/
theorem clearSign_eq (x : Word) : BitVec.ofNat 32 (x.toNat % 2 ^ 31) = x &&& 0x7FFFFFFF := by
  obtain ⟨s, r, rfl⟩ := exists_sign_append x
  rw [sign_append_and_rest]
  apply ofNat_eq_sign_append
  rw [toNat_sign_append, Nat.mul_add_mod_self_right, Nat.mod_eq_of_lt r.isLt, BitVec.toNat_zero, Nat.zero_mul, Nat.zero_add]

/-- FNEG: bit 31 inverted. -/
theorem flip_eq (x : Word) : BitVec.ofNat 32 (Fmt.fp32.flip x.toNat) = x ^^^ 0x80000000 := by
  obtain ⟨s, r, rfl⟩ := exists_sign_append x
  have hr := r.isLt
  rw [sign_append_xor_sign]
  apply ofNat_eq_sign_append
  rw [Fmt.flip, toNat_sign_append, show Fmt.fp32.signBit = 2 ^ 31 from rfl]
  rcases BitVec.eq_zero_or_eq_one s with rfl | rfl
  · rw [if_neg (by simp; omega), BitVec.zero_xor, BitVec.toNat_zero, BitVec.toNat_one Nat.zero_lt_one]
    omega
  · rw [if_pos (by simp; omega), BitVec.xor_self, BitVec.toNat_zero, BitVec.toNat_one Nat.zero_lt_one]
    omega

/-- FCOPYS: bit 31 of b above the other bits of a. -/
theorem copySign_eq (x y : Word) : BitVec.ofNat 32 (copySign x.toNat y.toNat) = (x &&& 0x7FFFFFFF) ||| (y &&& 0x80000000) := by
  obtain ⟨s, r, rfl⟩ := exists_sign_append x
  obtain ⟨s', r', rfl⟩ := exists_sign_append y
  have hr := r.isLt
  have hr' := r'.isLt
  rw [sign_append_and_rest, sign_append_and_sign, BitVec.or_append, BitVec.or_zero, BitVec.zero_or]
  apply ofNat_eq_sign_append
  rw [copySign, toNat_sign_append, toNat_sign_append]
  omega

/-! ## The obligations -/

/-- Settles O5: each word has the shape of a computing word, and FSCALE reads its second operand as a signed word. -/
theorem singlePrecisionArithmetic : Obligations.SinglePrecisionArithmetic := by
  refine ⟨fun f => run_clear fun _ => rfl, fun f => run_clear fun _ => rfl, fun f => run_clear fun _ => rfl,
    fun f => run_clear fun _ => rfl, fun f => run_clear fun _ => rfl, fun f => run_clear fun _ => rfl, fun f => run_clear fun _ => rfl,
    fun f => computes_of_results (fun _ => rfl) fun s l => ?fscale, fun f => run_clear fun _ => rfl⟩
  rw [l.b_eq, s32_eq]

/-- Settles O6: each word has the shape of a computing word; the sign words act on bit 31 alone, FRCP divides 1.0, and RAND's word is
written as it is. -/
theorem singlePrecisionFunctions : Obligations.SinglePrecisionFunctions := by
  refine ⟨fun f => computes_of_results (fun _ => rfl) fun s l => ?fabs, fun f => computes_of_results (fun _ => rfl) fun s l => ?fneg,
    fun f => computes_of_results (fun _ => rfl) fun s l => ?fcopys, fun f => run_clear fun _ => rfl, fun f => run_clear fun _ => rfl,
    fun f => run_clear fun _ => rfl, fun f => run_clear fun _ => rfl, fun f => run_clear fun _ => rfl, fun f => run_clear fun _ => rfl,
    fun f => run_clear fun _ => rfl, fun f => run_clear fun _ => rfl, fun f => run_clear fun _ => rfl, fun f => run_clear fun _ => rfl,
    fun f => run_clear fun _ => rfl, fun f => run_clear fun _ => rfl, fun f => run_clear fun _ => rfl,
    fun f => computes_of_results (fun _ => rfl) fun s l => ?rand, fun f => run_clear fun _ => rfl⟩
  case fabs => rw [l.a_eq, LaneOut.one_eq (clearSign_eq l.x)]
  case fneg => rw [l.a_eq, LaneOut.one_eq (flip_eq l.x)]
  case fcopys => rw [l.a_eq, l.b_eq, LaneOut.one_eq (copySign_eq l.x l.y)]
  case rand => exact LaneOut.one_eq ((BitVec.ofNat_toNat ..).trans (BitVec.setWidth_eq _))

end Sys2Proof.Machine
end

section
/-! PROOFS. Floating-point values: NaN operands, zero sums, the corners of a division, rounding a value that is held, and the lesser and
the greater (R116, R118, R119, R124, R127). -/
namespace Sys2Proof.Machine

/-! ## The NaN of two operands (R119) -/

theorem Fmt.nanOf_both (F : Fmt) (sg sg' : Bool) (x y : Nat) :
    F.nanOf [.nan sg x, .nan sg' y] = some (F.quiet (if sg then x else if sg' then y else x), { nv := sg || sg' }) := by
  cases sg <;> cases sg' <;> rfl

theorem Fmt.nanOf_signalling_first (F : Fmt) (x : Nat) (v : FVal) : F.nanOf [.nan true x, v] = some (F.quiet x, { nv := true }) := rfl

theorem Fmt.nanOf_quiet_first (F : Fmt) (x : Nat) {v : FVal} (h : ∀ y, v ≠ .nan true y) :
    F.nanOf [.nan false x, v] = some (F.quiet x, {}) := by
  match v, h with
  | .nan true y, h => exact absurd rfl (h y)
  | .nan false _, _ | .inf _, _ | .fin .., _ => rfl

theorem Fmt.nanOf_first (F : Fmt) (sg : Bool) (x : Nat) {v : FVal} (h : ∀ sg' y, v ≠ .nan sg' y) :
    F.nanOf [.nan sg x, v] = some (F.quiet x, { nv := sg }) := by
  cases sg with
  | true => exact F.nanOf_signalling_first x v
  | false => exact F.nanOf_quiet_first x (h true)

theorem Fmt.nanOf_second (F : Fmt) {v : FVal} (h : ∀ sg x, v ≠ .nan sg x) (sg : Bool) (y : Nat) :
    F.nanOf [v, .nan sg y] = some (F.quiet y, { nv := sg }) := by
  match v, h with
  | .nan sg' x, h => exact absurd rfl (h sg' x)
  | .inf _, _ | .fin .., _ => cases sg <;> rfl

/-- The sum, the difference, the product and the quotient give the NaN of their operands wherever there is one. -/
theorem Fmt.propagates_nan {F : Fmt} {op : RMode → Nat → Nat → Nat × Conds} (hop : op ∈ [F.add, F.sub, F.mul, F.div]) (mode : RMode)
    {a b : Nat} {r : Nat × Conds} (h : F.nanOf [F.val a, F.val b] = some r) : op mode a b = r := by
  simp only [List.mem_cons, List.not_mem_nil, or_false] at hop
  rcases hop with rfl | rfl | rfl | rfl
  · simp only [Fmt.add, h]
  · simp only [Fmt.sub, h]
  · simp only [Fmt.mul, h]
  · simp only [Fmt.div, h]

/-! ## Zero sums and the corners of a division (R118, R127) -/

theorem sumExact_opposite (n : Bool) (m : Nat) (e : Int) : sumExact n m e (!n) m e = (n, 0, e) := by simp [sumExact]

theorem Fmt.roundSum_opposite (F : Fmt) (mode : RMode) (n : Bool) (m : Nat) (e : Int) :
    F.roundSum mode n m e (!n) m e = (F.signed (mode == .rdn) 0, {}) := by
  simp [Fmt.roundSum, sumExact_opposite]

@[simp] theorem Fmt.nanOf_fin (F : Fmt) (n : Bool) (m : Nat) (e : Int) : F.nanOf [.fin n m e] = none := rfl

@[simp] theorem Fmt.nanOf_fin_fin (F : Fmt) (n n' : Bool) (m m' : Nat) (e e' : Int) : F.nanOf [.fin n m e, .fin n' m' e'] = none := rfl

@[simp] theorem Fmt.nanOf_inf_inf (F : Fmt) (n n' : Bool) : F.nanOf [.inf n, .inf n'] = none := rfl

section
variable {F : Fmt} {a b m : Nat} {e e' : Int} {n n' : Bool} (mode : RMode)

theorem Fmt.div_by_zero (ha : F.val a = .fin n m e) (hb : F.val b = .fin n' 0 e') (hm : m ≠ 0) :
    F.div mode a b = (F.infinity (n != n'), { dz := true }) := by
  simp [Fmt.div, ha, hb, hm]

theorem Fmt.div_zero_zero (ha : F.val a = .fin n 0 e) (hb : F.val b = .fin n' 0 e') : F.div mode a b = F.invalid := by
  simp [Fmt.div, ha, hb]

theorem Fmt.div_inf_inf (ha : F.val a = .inf n) (hb : F.val b = .inf n') : F.div mode a b = F.invalid := by
  simp [Fmt.div, ha, hb]

theorem Fmt.add_inf_inf (ha : F.val a = .inf n) (hb : F.val b = .inf n') :
    F.add mode a b = if n = n' then (F.infinity n, {}) else F.invalid := by
  simp [Fmt.add, ha, hb]

/-- The roots and the logarithm of a number below zero are invalid. -/
theorem Fmt.invalid_below_zero (ha : F.val a = .fin true m e) (hm : m ≠ 0) :
    F.sqrt mode a = F.invalid ∧ F.rsqrt mode a = F.invalid ∧ F.log2 mode a = F.invalid := by
  refine ⟨?_, ?_, ?_⟩
  · simp [Fmt.sqrt, ha, hm]
  · simp [Fmt.rsqrt, ha, hm]
  · simp [Fmt.log2, ha, hm]

theorem Fmt.sqrt_zero (ha : F.val a = .fin n 0 e) : F.sqrt mode a = (F.signed n 0, {}) := by simp [Fmt.sqrt, ha]

theorem Fmt.rsqrt_zero (ha : F.val a = .fin n 0 e) : F.rsqrt mode a = (F.infinity n, { dz := true }) := by simp [Fmt.rsqrt, ha]

theorem Fmt.log2_zero (ha : F.val a = .fin n 0 e) : F.log2 mode a = (F.infinity true, { dz := true }) := by simp [Fmt.log2, ha]

end

theorem fp32_signed_zero (n : Bool) : Fmt.fp32.signed n 0 = if n then 0x80000000 else 0 := by cases n <;> rfl

theorem fp32_infinity (n : Bool) : Fmt.fp32.infinity n = if n then 0xFF800000 else 0x7F800000 := by cases n <;> rfl

/-! ## Rounding a value that the format holds (R116) -/

/-- The bits of the value m * 2^e, where e is the exponent of the value's last place. -/
def Fmt.bitsOf (F : Fmt) (neg : Bool) (m : Nat) (e : Int) : Nat :=
  F.signed neg ((e - F.emin + F.p).toNat * 2 ^ (F.p - 1) + m - 2 ^ (F.p - 1))

/-- A value within the range of its format, given in the unit that its rounding chooses, is not rounded. -/
theorem Fmt.round_of_unit {F : Fmt} {m : Nat} {e : Int} (hm : m ≠ 0) (unit : max ((m.log2 : Int) + e) F.emin - F.p + 1 = e)
    (hmax : e ≤ F.emax - F.p + 1) (hsig : e = F.emax - F.p + 1 → m ≤ F.maxSig) (mode : RMode) (n : Bool) :
    F.round mode n m e = (F.bitsOf n m e, {}) := by
  have low : ¬ (m.log2 : Int) + e > F.emax + 1 := by omega
  have near : ¬ (m.log2 : Int) + e < F.emin - F.p - 2 := by omega
  have range : ¬ (e > F.emax - F.p + 1 ∨ e = F.emax - F.p + 1 ∧ F.maxSig < m) := by omega
  unfold Fmt.round Fmt.bitsOf
  simp [hm, low, near, unit, range]

/-- A pattern with the exponent field all ones is no finite value. -/
theorem fp32_val_special {bits : Nat} (h : bits / 2 ^ 23 % 2 ^ 8 = 255) (n : Bool) (m : Nat) (e : Int) :
    Fmt.fp32.val bits ≠ .fin n m e := by
  have field : (bits / 2 ^ (Fmt.fp32.p - 1) % 2 ^ (Fmt.fp32.width - Fmt.fp32.p) == 2 ^ (Fmt.fp32.width - Fmt.fp32.p) - 1) = true :=
    beq_iff_eq.2 h
  rw [Fmt.val, field]
  simp only [show Fmt.fp32.inf = true from rfl, Bool.and_self, if_true]
  split <;> nofun

/-- Every other pattern is a finite value, subnormal where the exponent field is zero. -/
theorem fp32_val_finite {bits : Nat} (h : bits / 2 ^ 23 % 2 ^ 8 ≠ 255) :
    Fmt.fp32.val bits = .fin (bits / 2 ^ 31 % 2 == 1) (if bits / 2 ^ 23 % 2 ^ 8 = 0 then bits % 2 ^ 23 else 2 ^ 23 + bits % 2 ^ 23)
      (if bits / 2 ^ 23 % 2 ^ 8 = 0 then -149 else -150 + (bits / 2 ^ 23 % 2 ^ 8 : Nat)) := by
  have field : (bits / 2 ^ (Fmt.fp32.p - 1) % 2 ^ (Fmt.fp32.width - Fmt.fp32.p) == 2 ^ (Fmt.fp32.width - Fmt.fp32.p) - 1) = false :=
    beq_eq_false_iff_ne.2 h
  rw [Fmt.val, field]
  simp only [Bool.and_false, Bool.false_and, Bool.false_eq_true, if_false, beq_iff_eq]
  by_cases h0 : bits / 2 ^ 23 % 2 ^ 8 = 0
  · rw [if_pos h0, if_pos h0]
    exact if_pos h0
  · rw [if_neg h0, if_neg h0]
    exact if_neg h0

theorem fp32_bitsOf (n : Bool) (m : Nat) (e : Int) :
    Fmt.fp32.bitsOf n m e = Fmt.fp32.signed n ((e + 150).toNat * 2 ^ 23 + m - 2 ^ 23) := by
  have offset : e - Fmt.fp32.emin + Fmt.fp32.p = e + 150 := by simp only [Fmt.fp32]; omega
  rw [Fmt.bitsOf, offset]
  rfl

/-- A pattern is its sign bit above its other bits. -/
theorem fp32_signed_rest {bits : Nat} (hb : bits < 2 ^ 32) : Fmt.fp32.signed (bits / 2 ^ 31 % 2 == 1) (bits % 2 ^ 31) = bits := by
  rw [Fmt.signed, show Fmt.fp32.signBit = 2 ^ 31 from rfl]
  simp only [beq_iff_eq]
  split <;> omega

/-- A finite value read from FP32 gives its bits back, and has at most 24 bits, fewer only at the lowest exponent. -/
theorem fp32_of_val {bits m : Nat} {n : Bool} {e : Int} (hb : bits < 2 ^ 32) (h : Fmt.fp32.val bits = .fin n m e) :
    Fmt.fp32.bitsOf n m e = bits ∧ m < 2 ^ 24 ∧ e ≤ 104 ∧ -149 ≤ e ∧ (e = -149 ∨ 2 ^ 23 ≤ m) := by
  have finite : bits / 2 ^ 23 % 2 ^ 8 ≠ 255 := fun special => fp32_val_special special n m e h
  have recombine : ∀ m (e : Int), (e + 150).toNat * 2 ^ 23 + m - 2 ^ 23 = bits % 2 ^ 31 →
      Fmt.fp32.bitsOf (bits / 2 ^ 31 % 2 == 1) m e = bits := fun m e hk => by rw [fp32_bitsOf, hk, fp32_signed_rest hb]
  obtain ⟨rfl, rfl, rfl⟩ := FVal.fin.inj ((fp32_val_finite finite).symm.trans h)
  by_cases h0 : bits / 2 ^ 23 % 2 ^ 8 = 0
  · rw [if_pos h0, if_pos h0]
    exact ⟨recombine _ _ (by omega), by omega, by omega, by omega, by omega⟩
  · rw [if_neg h0, if_neg h0]
    exact ⟨recombine _ _ (by omega), by omega, by omega, by omega, by omega⟩

theorem fp32_round_val {bits m : Nat} {n : Bool} {e : Int} (hb : bits < 2 ^ 32) (h : Fmt.fp32.val bits = .fin n m e) (mode : RMode) :
    Fmt.fp32.round mode n m e = (bits, {}) := by
  obtain ⟨rfl, hm, hmax, hmin, normal⟩ := fp32_of_val hb h
  by_cases h0 : m = 0
  · obtain rfl : e = -149 := by omega
    subst h0
    rfl
  · have above : m.log2 < 24 := (Nat.log2_lt h0).2 hm
    have below : 2 ^ 23 ≤ m → 23 ≤ m.log2 := (Nat.le_log2 h0).2
    apply Fmt.round_of_unit h0 <;> simp only [Fmt.fp32] <;> omega

/-! ## The lesser and the greater (R124) -/

section
variable {F : Fmt} {a b x y : Nat} {sg sg' : Bool} (g : Bool)

theorem Fmt.minMax_nan_number (ha : F.val a = .nan sg x) (hb : ∀ sg' y, F.val b ≠ .nan sg' y) :
    F.minMax g a b = (b, { nv := sg }) := by
  simp only [Fmt.minMax, ha, F.nanOf_first sg x hb]

theorem Fmt.minMax_number_nan (ha : ∀ sg' y, F.val a ≠ .nan sg' y) (hb : F.val b = .nan sg x) :
    F.minMax g a b = (a, { nv := sg }) := by
  simp only [Fmt.minMax, hb, F.nanOf_second ha sg x]

theorem Fmt.minMax_nan_nan (ha : F.val a = .nan sg x) (hb : F.val b = .nan sg' y) :
    F.minMax g a b = (F.quiet (if sg then x else if sg' then y else x), { nv := sg || sg' }) := by
  simp only [Fmt.minMax, ha, hb, F.nanOf_both]

end

/-! ## The obligation -/

/-- Settles O8: a NaN by which of the operands are NaNs, the corners by the values of the operands, and a held value by its exponent
field, which says in what unit it is given. -/
theorem floatingPointValues : Obligations.FloatingPointValues := by
  refine ⟨fun F _ op hop mode a b => ⟨fun x ha => ?_, fun x ha hb => ?_, fun x y ha hb => ?_, fun sg y ha hb => ?_⟩,
    ⟨fun mode n m e => ?_, fun mode a b n n' m e e' ha hb hm => ?_, fun mode a b n n' e e' ha hb => Fmt.div_zero_zero mode ha hb,
      fun mode a b n n' ha hb => ⟨Fmt.div_inf_inf mode ha hb, ?_⟩, fun mode a m e ha hm => Fmt.invalid_below_zero mode ha hm,
      fun mode a n e ha => ⟨?_, ?_, Fmt.log2_zero mode ha⟩⟩,
    fun mode bits n m e hb h => fp32_round_val hb h mode,
    ⟨fun g a b sg x ha hb => ⟨Fmt.minMax_nan_number g ha hb, Fmt.minMax_number_nan g hb ha⟩,
      fun g a b sg x sg' y ha hb => Fmt.minMax_nan_nan g ha hb, by decide, by decide, by decide, by decide⟩⟩
  · exact Fmt.propagates_nan hop mode (ha ▸ F.nanOf_signalling_first x _)
  · exact Fmt.propagates_nan hop mode (ha ▸ F.nanOf_quiet_first x hb)
  · exact Fmt.propagates_nan hop mode (by rw [ha, hb, F.nanOf_both]; rfl)
  · exact Fmt.propagates_nan hop mode (hb ▸ F.nanOf_second ha sg y)
  · rw [Fmt.roundSum_opposite, fp32_signed_zero]
    simp only [beq_iff_eq]
  · rw [Fmt.div_by_zero mode ha hb hm, fp32_infinity]
    simp only [bne_iff_ne, ne_eq, ite_not]
  · rw [Fmt.add_inf_inf mode ha hb, fp32_infinity]
    rfl
  · rw [Fmt.sqrt_zero mode ha, fp32_signed_zero]
  · rw [Fmt.rsqrt_zero mode ha, fp32_infinity]

end Sys2Proof.Machine
end

section
/-! PROOFS. What an engine word leaves when it enters its queue (R148, R199, R244, R245, R328, R336). -/
namespace Sys2Proof.Machine

/-! ## An entry added (R148) -/

theorem State.addEntry_frame (s : State) (tid : Nat) (e : Entry) :
    s.addEntry tid e = { s with threads := (s.addEntry tid e).threads, nextId := s.nextId + 1 } :=
  State.modThread_frame { s with nextId := s.nextId + 1 } tid _

theorem State.addEntry_same {s : State} {tid : Nat} {t : Thread} (e : Entry) (h : s.thread? tid = some t) :
    (s.addEntry tid e).thread? tid = some { t.markDest e.dst .empty with replay := t.replay ++ [{ e with id := s.nextId }] } := by
  rw [State.addEntry_eq e h]
  exact Map.get?_set_same ..

theorem State.addEntry_other (s : State) {tid k : Nat} (e : Entry) (h : k ≠ tid) : (s.addEntry tid e).thread? k = s.thread? k :=
  State.modThread_other { s with nextId := s.nextId + 1 } _ h

/-! ## The operation that a word enters (R199, R244, R245) -/

/-- The state in which a word of queue q enters it: its thread's region ended (R328). -/
def State.submitting (s : State) (tid q : Nat) : State := s.regionEnd tid (some (if q = 6 then 4 else 3))

/-- The operation that a word of thread t places. -/
def State.opFor (v : State) (t : Thread) (i : Instr) (l : Lane) (q : Nat) (objs : List Obj) (args : List Word) (bytes : Nat) : Op :=
  { tid := l.tid, ctx := t.ctx, cell := t.cell, tile := if anvilWord i then v.homeTile t else t.tile, queue := q, instr := i
    privileged := v.privileged t.ctx, args := args, objs := objs, after := v.mustFollow t l.tid q, bytes := bytes
    nbv := ((v.ctx? t.ctx).map fun c => c.nbv == 1).getD false }

/-- An operation placed under the next number. -/
def State.placeOp (v : State) (op : Op) : State := { v with nextId := v.nextId + 1, ops := Map.set v.ops v.nextId op }

/-- A word enters its queue wherever its thread is there, and nowhere else. -/
theorem submit_iff {iss : Issue} {i : Instr} {l : Lane} {no q bytes id : Nat} {objs : List Obj} {args : List Word} {s s' : State} :
    submit iss i l no q objs args bytes s = .ok (id, s') ↔ ∃ t, s.thread? l.tid = some t ∧ id = (s.submitting l.tid q).nextId ∧
      s' = ((s.submitting l.tid q).placeOp ((s.submitting l.tid q).opFor t i l q objs args bytes)).addEntry l.tid
        { iss.entryFor i (destOf 0 i) (slotBit l.slot) no l with op := some id } := by
  unfold submit
  cases ht : s.thread? l.tid with
  | none => simp
  | some t =>
    constructor
    · intro h
      cases h
      exact ⟨t, rfl, rfl, rfl⟩
    · rintro ⟨_, h, rfl, rfl⟩
      cases h
      rfl

/-- Settles O34: the operation takes the next number, the entry the one after it. -/
theorem engineSubmission : Obligations.EngineSubmission := by
  intro iss i l no q objs args bytes s id s' h
  obtain ⟨t, ht, hid, hs⟩ := submit_iff.1 h
  refine ⟨t, ht, ?_⟩
  intro v waits
  rw [show s.submitting l.tid q = v from rfl] at hid hs
  subst hid hs
  set e : Entry := { iss.entryFor i (destOf 0 i) (slotBit l.slot) no l with op := some v.nextId }
  set w := v.placeOp (v.opFor t i l q objs args bytes)
  have frame := w.addEntry_frame l.tid e
  have ops : (w.addEntry l.tid e).ops = Map.set v.ops v.nextId (v.opFor t i l q objs args bytes) := by rw [frame]; rfl
  have next : (w.addEntry l.tid e).nextId = v.nextId + 2 := by rw [frame]; rfl
  refine ⟨rfl, next, ⟨v.opFor t i l q objs args bytes, by rw [ops, Map.get?_set_same], rfl, rfl, rfl, rfl, rfl, rfl, rfl, rfl, rfl, rfl,
    rfl, rfl, rfl, rfl, rfl⟩, fun k hk => by rw [ops, Map.get?_set_ne _ _ hk], fun u hu => State.addEntry_same e hu,
    fun k hk => w.addEntry_other e hk, ?_⟩
  rw [ops, next]
  exact frame

end Sys2Proof.Machine
end

section
/-! PROOFS. Fatal traps, and the release of a pinned thread (R142, R146, R152, R336, R384). -/
namespace Sys2Proof.Machine

/-! ## Which traps are fatal, and what they leave (R142, R146, R384) -/

theorem trapIsFatal_iff {c : Context} {u : Thread} {cause : Cause} : trapIsFatal c u cause = true ↔
    cause = .pgfatal ∨ (c.trapfatal.getLsbD cause.code = true ∧ cause ≠ .pgfault) ∨ u.utvec = 0 ∨ u.frame.isSome := by
  simp only [trapIsFatal, Bool.or_eq_true, Bool.and_eq_true, beq_iff_eq, bne_iff_ne, or_assoc]

/-- The first fatal fault of a context: it halts, with the fault recorded at this cycle. -/
theorem State.fatal_first {s : State} {ctx : Nat} {c : Context} (i : FatalInfo) (h : s.ctx? ctx = some c) (first : c.fatal = none) :
    s.fatal ctx i = { s with ctxs := Map.set s.ctxs ctx { c with phase := .halting, fatal := some { i with cycle := s.cycle } } } := by
  simp only [State.fatal, State.modCtx, h, first]

/-- The thread whose WID the record of a double fault names: the lowest of the first trap's mask, by its pinned set (R386). -/
def State.firstRaiser (s : State) (f : Frame) : Option Thread :=
  ((Map.get? s.pins f.group).bind fun p => p.lowest f.mask) >>= s.thread?

theorem State.firstRaiser_eq {s : State} {f : Frame} {p : PinSet} {k : Nat} {v : Thread} (hp : Map.get? s.pins f.group = some p)
    (hk : p.lowest f.mask = some k) (hv : s.thread? k = some v) : s.firstRaiser f = some v := by
  simp only [State.firstRaiser, hp, Option.bind_some, hk]
  exact hv

/-- What a fatal trap of thread u records: its own cause, or in a handler the first trap's frame with the second cause (R142, R146). -/
def State.trapRecord (s : State) (u : Thread) (r : Raised) (rpc : Nat) : FatalInfo :=
  match u.frame with
  | some f => { doubleFault u f r.cause with wid := ((s.firstRaiser f).map Thread.wid).getD u.wid }
  | none => fatalInfo u r.cause r.pc rpc r.stamp r.mask (r.infoOf (lowestSlot r.mask)) r.dst

theorem State.trapRecord_site (s : State) (u : Thread) (r : Raised) (rpc : Nat) :
    (s.trapRecord u r rpc).tile = u.tile ∧ (s.trapRecord u r rpc).part = u.part := by
  unfold State.trapRecord
  cases u.frame with
  | none => exact ⟨rfl, rfl⟩
  | some f => exact ⟨rfl, rfl⟩

theorem State.trapRecord_single (s : State) {u : Thread} (r : Raised) (rpc : Nat) (h : u.frame = none) :
    s.trapRecord u r rpc = fatalInfo u r.cause r.pc rpc r.stamp r.mask (r.infoOf (lowestSlot r.mask)) r.dst := by
  rw [State.trapRecord, h]

theorem State.trapRecord_double (s : State) {u : Thread} {f : Frame} (r : Raised) (rpc : Nat) (h : u.frame = some f) :
    s.trapRecord u r rpc = { doubleFault u f r.cause with wid := ((s.firstRaiser f).map Thread.wid).getD u.wid } := by
  rw [State.trapRecord, h]

/-- A fatal trap takes no handler: it is a fatal fault of its context. -/
theorem takeTrap_fatal {s : State} {ctx tile part tid : Nat} {members : List (Nat × Nat)} {r : Raised} {rpc : Nat → Nat} {u : Thread}
    {c : Context} (hm : Map.get? members (lowestSlot r.mask) = some tid) (hu : s.thread? tid = some u) (hc : s.ctx? ctx = some c)
    (hf : trapIsFatal c u r.cause = true) :
    s.takeTrap ctx tile part members r rpc =
      s.fatal ctx { s.trapRecord u r (rpc tid) with trapped := r.trapped members, pc := r.pc } := by
  have raiser : (some tid >>= s.thread?) = some u := hu
  simp only [State.takeTrap, hm, raiser, hc, if_pos hf]
  rfl

/-! ## The release of a pinned thread (R152, R336) -/

/-- Of the entries that are not DONE those held back come last, each kept in its order. -/
theorem inOrder_undone (es : List Entry) : inOrder (es.filter fun e => e.state != .done) =
    (es.filter fun e => e.state != .done && !e.heldBack) ++ es.filter Entry.heldBack := by
  have undone (e : Entry) : (e.heldBack && e.state != .done) = e.heldBack := by
    unfold Entry.heldBack
    cases e.state with
    | held => exact Bool.and_true _
    | _ => rfl
  simp only [inOrder, List.filter_filter, undone]
  refine congrArg (fun l => l ++ _) (List.filter_congr fun e _ => Bool.and_comm ..)

theorem unpin_replay {t : Thread} (h : t.ended = false) :
    t.unpin.replay = (t.replay.filter fun e => e.state != .done && !e.heldBack) ++ t.replay.filter Entry.heldBack := by
  rw [← inOrder_undone]
  simp only [Thread.unpin, h, Bool.false_and, Bool.not_false, Bool.and_true]

theorem unpin_frame {t : Thread} {f : Frame} (h : t.frame = some f) :
    t.unpin = { t with floor := min f.hfloor t.loops.length, frame := none, frozen := false, place := .nowhere, wait := .ready, also := []
                       replay := t.unpin.replay } := by
  simp only [Thread.unpin, h]

/-- Settles O17: a fatal trap by whether its raiser has a frame, a release by the one update that it is. -/
theorem fatalTrapsAndReturn : Obligations.FatalTrapsAndReturn := by
  refine ⟨⟨fun c u cause => trapIsFatal_iff, fun s ctx tile part members r rpc tid u c hm hu hc hf first => ?_⟩,
    fun t f h => ⟨unpin_frame h, unpin_replay, fun m resume => rfl⟩⟩
  obtain ⟨tile_eq, part_eq⟩ := s.trapRecord_site u r (rpc tid)
  refine ⟨_, (takeTrap_fatal hm hu hc hf).trans (State.fatal_first _ hc first), tile_eq, part_eq, rfl, rfl, rfl, fun h => ?_,
    fun f h => ?_⟩
  · rw [s.trapRecord_single r (rpc tid) h]
    exact ⟨rfl, rfl, rfl, rfl, rfl⟩
  · rw [s.trapRecord_double r (rpc tid) h]
    refine ⟨rfl, rfl, rfl, fun p k v hp hk hv => ?_⟩
    simp only [State.firstRaiser_eq hp hk hv, Option.map_some, Option.getD_some]

end Sys2Proof.Machine
end

section
/-! PROOFS. The words of a handler: TFILL, RQWRITE and RQDROP (R149 to R151, R164). -/
namespace Sys2Proof.Machine

/-- A narrower condition, under which the effect is the same. -/
theorem Does.narrowed {i : Instr} {P Q : State → Lane → Prop} {e e' : State → Issue → Lane → State → State} (h : Does i P e)
    (hP : ∀ s l, Q s l → P s l) (he : ∀ s iss l u, Q s l → e s iss l u = e' s iss l u) : Does i Q e' := by
  intro s iss l solo hq
  rw [← he s iss l _ hq]
  exact h s iss l solo (hP s l hq)

/-! ## TFILL (R151, R164) -/

/-- The thread is one of those that raised the trap, the trapped instruction has a destination, and TFILL's sources can fill it. -/
def Lane.fills (l : Lane) (f : RegAForm) (fr : Frame) : Prop :=
  l.th.frame = some fr ∧ fr.mask.getLsbD fr.slot = true ∧ fr.dst.cls ≠ 3 ∧
    emptyCause (l.th.sourcesOf false 0 (.tfill f)) l.cap = none

theorem tfill_fills (f : RegAForm) (fr : Frame) : Does (.tfill f) (fun _ l => l.fills f fr) fun _ _ l u =>
    u.modThread l.tid fun t => t.writeDest fr.dst.mended (tfillWords fr.dst l.cap.a) .full := by
  refine eachLane_does (fun _ => rfl) (fun s iss l _ h => ?_) fun s iss l hi _ => ⟨iss, (State.modThread_issue ..).trans hi, rfl⟩
  obtain ⟨frame, raised, dst, full⟩ := h
  simp only [frame, raised, bne_iff_ne.2 dst, Bool.and_self, if_true, full]
  rfl

/-- In a thread that did not raise the trap, and of an instruction without a destination, nothing is filled. -/
theorem tfill_spares (f : RegAForm) (fr : Frame) :
    Does (.tfill f) (fun _ l => l.th.frame = some fr ∧ (fr.mask.getLsbD fr.slot = false ∨ fr.dst.cls = 3)) fun _ _ _ u => u := by
  refine eachLane_does (fun _ => rfl) (fun s iss l _ h => ?_) fun s iss l hi _ => ⟨iss, hi, rfl⟩
  obtain ⟨frame, spared⟩ := h
  have skip : (fr.mask.getLsbD fr.slot && fr.dst.cls != 3) = false := by rcases spared with h | h <;> simp [h]
  simp only [frame, skip, Bool.false_eq_true, if_false]
  rfl

theorem mended_pair {d : Dest} (hc : d.cls = 0) (hn : d.count = 2) : d.mended = ⟨0, d.num, 2⟩ := by
  rw [Dest.mended, if_pos ⟨hc, hn⟩, ← hc, ← hn]

/-- Of several registers the first alone (R164). -/
theorem mended_first {d : Dest} (hn : 1 ≤ d.count) (single : d.cls = 0 → d.count ≠ 2) : d.mended = ⟨d.cls, d.num, 1⟩ := by
  rw [Dest.mended, if_neg fun h => single h.1 h.2, Nat.min_eq_right hn]

theorem highWord_eq (o : Opnd) : (BitVec.ofNat 64 (Opnd.dword o) >>> 32).setWidth 32 = BitVec.ofNat 32 (Opnd.word o 1) := by
  have low := Opnd.word_lt o 0
  have high := Opnd.word_lt o 1
  apply BitVec.eq_of_toNat_eq
  rw [BitVec.toNat_setWidth, BitVec.toNat_ushiftRight, ← Opnd.dword_eq, Nat.shiftRight_eq_div_pow, BitVec.toNat_ofNat, Opnd.dword]
  omega

theorem tfillWords_pair {d : Dest} (l : Lane) (hc : d.cls = 0) (hn : d.count = 2) :
    tfillWords d l.cap.a = [l.x, (l.xx >>> 32).setWidth 32] := by
  rw [Lane.xx, highWord_eq]
  exact if_pos ⟨hc, hn⟩

theorem tfillWords_four {d : Dest} (l : Lane) (hc : d.cls = 1) : tfillWords d l.cap.a = [l.x, l.x, l.x, l.x] :=
  (if_neg (by simp [hc])).trans (if_pos hc)

theorem tfillWords_one {d : Dest} (l : Lane) (single : d.cls = 0 → d.count ≠ 2) (hc : d.cls ≠ 1) : tfillWords d l.cap.a = [l.x] :=
  (if_neg fun h => single h.1 h.2).trans (if_neg hc)

/-- What TFILL writes of a destination whose mended registers and words are known. -/
theorem tfill_writes {f : RegAForm} {fr : Frame} {Q : Lane → Prop} {d : Dest} {ws : Lane → List Word}
    (hQ : ∀ l, Q l → l.fills f fr ∧ fr.dst.mended = d ∧ tfillWords fr.dst l.cap.a = ws l) :
    Does (.tfill f) (fun _ l => Q l) fun _ _ l u => u.modThread l.tid fun t => t.writeDest d (ws l) .full :=
  (tfill_fills f fr).narrowed (fun _ l h => (hQ l h).1) fun _ _ l _ h => by rw [(hQ l h).2.1, (hQ l h).2.2]

/-! ## The entry that a word names (R150) -/

theorem visible_of_thread {s : State} {tid : Nat} {t : Thread} (k : Nat) (h : s.thread? tid = some t) :
    ((s.thread? tid).bind fun t => t.visible[k]?) = t.visible[k]? := by
  rw [h]
  rfl

/-! ## RQWRITE (R149, R150) -/

theorem rqwrite_writes (f : RqWriteForm) (e : Entry) : Does (.rqwrite f) (fun _ l => l.th.visible[f.e.toNat]? = some e) fun _ _ l u =>
    u.modThread l.tid fun t => t.modEntry e.id fun e => e.putField f.f.toNat l.x := by
  refine eachLane_does (fun _ => rfl) (fun s iss l ht h => ?_) fun s iss l hi _ => ⟨iss, (State.modThread_issue ..).trans hi, rfl⟩
  have entry := (visible_of_thread (s := { s with nextId := s.nextId + 1 }) f.e.toNat ht).trans h
  simp only [modify, modifyGet, MonadStateOf.modifyGet, StateT.modifyGet, entry]
  rfl

theorem rqwrite_past (f : RqWriteForm) : Does (.rqwrite f) (fun _ l => l.th.visible.length ≤ f.e.toNat) fun _ _ _ u => u := by
  refine eachLane_does (fun _ => rfl) (fun s iss l ht h => ?_) fun s iss l hi _ => ⟨iss, hi, rfl⟩
  have past := (visible_of_thread (s := { s with nextId := s.nextId + 1 }) f.e.toNat ht).trans (List.getElem?_eq_none h)
  simp only [modify, modifyGet, MonadStateOf.modifyGet, StateT.modifyGet, past]
  rfl

theorem Opnd.word_put_same (o : Opnd) (k : Nat) (w : Word) : Opnd.word (Opnd.put o k w) k = w.toNat := by
  have room : k < (o ++ List.replicate (k + 1 - o.length) ((0, RState.full) : Word × RState)).length := by
    rw [List.length_append, List.length_replicate]
    omega
  rw [Opnd.word, Opnd.put, List.getElem?_set_self room]
  rfl

theorem Opnd.word_put_other (o : Opnd) {k j : Nat} (w : Word) (h : j ≠ k) : Opnd.word (Opnd.put o k w) j = Opnd.word o j := by
  rw [Opnd.word, Opnd.put, List.getElem?_set_ne h.symm, List.getElem?_append]
  split
  · rfl
  · next past =>
    rw [Opnd.word, List.getElem?_eq_none (not_lt.1 past), List.getElem?_replicate]
    split <;> rfl

section
variable (e : Entry) (o : Opnd) {k : Nat}

/-! Each field that holds an operand's word is the only one that its operand shows in. -/

theorem Entry.field_of_a (h : k ≠ 4) : ({ e with cap := { e.cap with a := o } } : Entry).field k = e.field k := by
  unfold Entry.field
  split
  case h_5 => exact absurd rfl h
  all_goals rfl

theorem Entry.field_of_b (h : k ≠ 5) : ({ e with cap := { e.cap with b := o } } : Entry).field k = e.field k := by
  unfold Entry.field
  split
  case h_6 => exact absurd rfl h
  all_goals rfl

theorem Entry.field_of_c (h : k ≠ 6) : ({ e with cap := { e.cap with c := o } } : Entry).field k = e.field k := by
  unfold Entry.field
  split
  case h_7 => exact absurd rfl h
  all_goals rfl

/-- The words of operand d show in the fields 8 to 11. -/
theorem Entry.field_of_d {n : Nat} (w : Word) (hn : n ∈ [8, 9, 10, 11]) (h : k ≠ n) :
    ({ e with cap := { e.cap with d := Opnd.put e.cap.d (n - 8) w } } : Entry).field k = e.field k := by
  have low : 8 ≤ n := by simp only [List.mem_cons, List.not_mem_nil, or_false] at hn; omega
  unfold Entry.field
  split
  case h_9 => exact Opnd.word_put_other _ w (by omega)
  case h_10 => exact Opnd.word_put_other _ w (by omega)
  case h_11 => exact Opnd.word_put_other _ w (by omega)
  case h_12 => exact Opnd.word_put_other _ w (by omega)
  all_goals rfl

end

theorem Entry.putField_kept {e : Entry} (n : Nat) (w : Word) (h : e.state ≠ .held) : e.putField n w = e := if_pos h

/-- A field of a HELD entry reads back as it was written, and no other has changed. -/
theorem Entry.field_putField {e : Entry} {n : Nat} (w : Word) (held : e.state = .held) (hn : n ∈ [4, 5, 6, 8, 9, 10, 11]) :
    (e.putField n w).field n = w.toNat ∧ ∀ k, k ≠ n → (e.putField n w).field k = e.field k := by
  simp only [List.mem_cons, List.not_mem_nil, or_false] at hn
  unfold Entry.putField
  rw [if_neg (not_not.2 held)]
  rcases hn with rfl | rfl | rfl | hd
  · exact ⟨Opnd.word_put_same .., fun k hk => e.field_of_a _ hk⟩
  · exact ⟨Opnd.word_put_same .., fun k hk => e.field_of_b _ hk⟩
  · exact ⟨Opnd.word_put_same .., fun k hk => e.field_of_c _ hk⟩
  · have one : n ∈ [8, 9, 10, 11] := by simpa only [List.mem_cons, List.not_mem_nil, or_false] using hd
    rcases hd with rfl | rfl | rfl | rfl <;> exact ⟨Opnd.word_put_same .., fun k hk => e.field_of_d w one hk⟩

/-! ## RQDROP (R150) -/

@[simp] theorem State.withdrawOp_issue (s : State) (id : Nat) : (s.withdrawOp id).issue = s.issue := by
  unfold State.withdrawOp
  cases Map.get? s.ops id with
  | none => rfl
  | some op =>
    dsimp only
    split_ifs
    · split
      · rw [State.modThread_issue, State.modCell_issue]
        rfl
      · exact State.modCell_issue ..
    · rfl

section
variable {s : State} {tid k : Nat} {t : Thread} {e : Entry} (ht : s.thread? tid = some t)
include ht

theorem rqdrop_past (h : t.visible.length ≤ k) : s.rqdrop tid k = s := by
  simp only [State.rqdrop, visible_of_thread k ht, List.getElem?_eq_none h]

variable (he : t.visible[k]? = some e)
include he

/-- One in flight stays until its reply, which is discarded. -/
theorem rqdrop_flight (hf : e.state = .flight) : s.rqdrop tid k =
    (s.modThread tid fun t => t.markDest e.dst .trapEmpty).modThread tid fun t => t.modEntry e.id fun e => { e with dropped := true } := by
  simp only [State.rqdrop, visible_of_thread k ht, he, if_pos hf]

/-- A HELD one goes with the operation it would have submitted. -/
theorem rqdrop_withdraws {id : Nat} (hh : e.state = .held) (ho : e.op = some id) : s.rqdrop tid k =
    ((s.modThread tid fun t => t.markDest e.dst .trapEmpty).withdrawOp id).modThread tid fun t =>
      { t with replay := t.replay.filter fun x => x.id != e.id } := by
  have landed : e.state ≠ .flight := by rw [hh]; exact nofun
  simp only [State.rqdrop, visible_of_thread k ht, he, if_neg landed, ho, if_pos hh]

/-- Any other goes alone. -/
theorem rqdrop_alone (landed : e.state ≠ .flight) (ho : e.state = .held → e.op = none) : s.rqdrop tid k =
    (s.modThread tid fun t => t.markDest e.dst .trapEmpty).modThread tid fun t =>
      { t with replay := t.replay.filter fun x => x.id != e.id } := by
  simp only [State.rqdrop, visible_of_thread k ht, he, if_neg landed]
  cases op : e.op with
  | none => rfl
  | some id => simp only [if_neg fun held => nomatch (ho held).symm.trans op]

end

/-- RQDROP does what dropping its entry comes to, where that keeps the issue. -/
theorem rqdrop_does {f : RqDropForm} {Q : Lane → Prop} {e : Lane → State → State}
    (drops : ∀ (s : State) l, s.thread? l.tid = some l.th → Q l → s.rqdrop l.tid f.e.toNat = e l s)
    (issue : ∀ (s : State) l, (e l s).issue = s.issue) : Does (.rqdrop f) (fun _ l => Q l) fun _ _ l u => e l u :=
  eachLane_does (fun _ => rfl) (fun s _ l ht h => congrArg (fun u => Except.ok ((), u)) (drops { s with nextId := s.nextId + 1 } l ht h))
    fun s iss l hi _ => ⟨iss, (issue { s with nextId := s.nextId + 1 } l).trans hi, rfl⟩

/-- Settles O18: TFILL by the class of the destination, RQWRITE by the operand that the field shows, RQDROP by the state of the entry. -/
theorem handlerWords : Obligations.HandlerWords := by
  refine ⟨fun f fr => tfill_writes (fr := fr) fun l h => ?pair, fun f fr => tfill_writes (fr := fr) fun l h => ?single,
    fun f fr => tfill_writes (fr := fr) fun l h => ?four, fun f fr => tfill_writes (fr := fr) fun l h => ?predicate, tfill_spares,
    rqwrite_writes, rqwrite_past, fun e n w => Entry.field_putField w, fun e n w => Entry.putField_kept n w,
    fun f e => rqdrop_does (fun s l ht h => rqdrop_flight ht h.1 h.2) ?_,
    fun f e id => rqdrop_does (fun s l ht h => rqdrop_withdraws ht h.1 h.2.1 h.2.2) ?_,
    fun f e => rqdrop_does (fun s l ht h => rqdrop_alone ht h.1 h.2.1 h.2.2) ?_,
    fun f => rqdrop_does (fun s l ht h => rqdrop_past ht h) fun _ _ => rfl⟩
  case pair =>
    obtain ⟨frame, raised, cls, count, full⟩ := h
    exact ⟨⟨frame, raised, by rw [cls]; decide, full⟩, mended_pair cls count, tfillWords_pair l cls count⟩
  case single =>
    obtain ⟨frame, raised, cls, count, single, full⟩ := h
    exact ⟨⟨frame, raised, by rw [cls]; decide, full⟩, cls ▸ mended_first count fun _ => single,
      tfillWords_one l (fun _ => single) (by rw [cls]; decide)⟩
  case four =>
    obtain ⟨frame, raised, cls, count, full⟩ := h
    exact ⟨⟨frame, raised, by rw [cls]; decide, full⟩, cls ▸ mended_first count (by rw [cls]; exact nofun), tfillWords_four l cls⟩
  case predicate =>
    obtain ⟨frame, raised, cls, count, full⟩ := h
    exact ⟨⟨frame, raised, by rw [cls]; decide, full⟩, cls ▸ mended_first count (by rw [cls]; exact nofun),
      tfillWords_one l (by rw [cls]; exact nofun) (by rw [cls]; decide)⟩
  all_goals
    intro s l
    simp only [State.modThread_issue, State.withdrawOp_issue]

end Sys2Proof.Machine
end

section
/-! PROOFS. Contexts stopped, saved, loaded, created, killed and halted (R37, R73, R135, R153, R156, R157, R384, R385, R393, R415). -/
namespace Sys2Proof.Machine

/-! ## Work step by step -/

theorem Work.need_holds {α : Type} {b : Bool} (x : Stop) (k : Unit → Work α) (h : b = true) : (Work.need b x >>= k) = k () := by
  rw [h]
  rfl

theorem Work.need_fails {α : Type} {b : Bool} (x : Stop) (k : Unit → Work α) (s : State) (h : b = false) :
    (Work.need b x >>= k) s = .error x := by
  rw [h]
  rfl

theorem Work.bind_ok {α β : Type} {w : Work α} {k : α → Work β} {s u : State} {a : α} (h : w s = .ok (a, u)) :
    (w >>= k) s = k a u := by
  simp only [Bind.bind, StateT.bind, Except.bind, h]

/-! ## CTXSAVE stops the context that it names (R153) -/

/-- A context that takes no further work; one that halts goes on halting. -/
def Context.stopNow (c : Context) : Context := { c with phase := if c.phase == .running then .stopped else c.phase }

theorem Context.stopNow_halting (c : Context) : c.stopNow.phase = .halting ↔ c.phase = .halting := by
  show (if c.phase == .running then .stopped else c.phase) = CtxPhase.halting ↔ _
  cases c.phase <;> decide

section
variable {s : State} {iss : Issue} {i : Instr} {l : Lane}

theorem Solo.lanes (h : Solo s iss i l) : iss.lanes s i 0 = [(l, true)] := by
  obtain ⟨-, -, hl, -⟩ := h
  exact hl

theorem stopNamed_one (hl : iss.lanes s i 0 = [(l, true)]) : s.stopNamed iss i =
    if (emptyCause (staticSources i) l.cap).isNone && ctxLegal l.a && Opnd.word l.cap.a 1 % 64 == 0 then
      s.modCtx (l.a % 16) Context.stopNow else s := by
  rw [State.stopNamed, hl, List.filter_cons]
  simp only [Bool.true_and, List.filter_nil]
  split <;> rfl

/-- An area that is no multiple of 64, or a register with a reserved bit, stops nothing. -/
theorem stopNamed_refused (hl : iss.lanes s i 0 = [(l, true)]) (h : ctxLegal l.a = false ∨ Opnd.word l.cap.a 1 % 64 ≠ 0) :
    s.stopNamed iss i = s := by
  rw [stopNamed_one hl]
  refine if_neg ?_
  rcases h with h | h <;> simp [h]

/-- What stopping can do: nothing, or the named context stops. -/
theorem stopNamed_cases (hl : iss.lanes s i 0 = [(l, true)]) :
    s.stopNamed iss i = s ∨ s.stopNamed iss i = s.modCtx (l.a % 16) Context.stopNow := by
  rw [stopNamed_one hl]
  split
  · exact .inr rfl
  · exact .inl rfl

theorem stopNamed_frame (hl : iss.lanes s i 0 = [(l, true)]) : s.stopNamed iss i = { s with ctxs := (s.stopNamed iss i).ctxs } := by
  rcases stopNamed_cases hl with h | h
  · rw [h]
  · rw [h]
    exact s.modCtx_frame ..

theorem stopNamed_absent (hl : iss.lanes s i 0 = [(l, true)]) (h : s.ctx? (l.a % 16) = none) : s.stopNamed iss i = s := by
  rcases stopNamed_cases hl with h' | h'
  · exact h'
  · rw [h', State.modCtx_absent h]

/-- The named context stays resident, and halts if it did. -/
theorem stopNamed_named {c : Context} (hl : iss.lanes s i 0 = [(l, true)]) (h : s.ctx? (l.a % 16) = some c) :
    ∃ c', (s.stopNamed iss i).ctx? (l.a % 16) = some c' ∧ (c'.phase = .halting ↔ c.phase = .halting) := by
  rcases stopNamed_cases hl with h' | h'
  · rw [h']
    exact ⟨c, h, Iff.rfl⟩
  · rw [h', State.modCtx_same, h]
    exact ⟨_, rfl, c.stopNow_halting⟩

theorem privileged_modCtx (n : Nat) {g : Context → Context} (hg : ∀ c, (g c).privileged = c.privileged) (m : Nat) :
    (s.modCtx n g).privileged m = s.privileged m := by
  unfold State.privileged
  by_cases h : m = n
  · subst h
    rw [State.modCtx_same, Option.map_map]
    exact congrArg (fun k => (Option.map k (s.ctx? m)).getD false) (funext hg)
  · rw [State.modCtx_other _ _ h]

theorem stopNamed_privileged (hl : iss.lanes s i 0 = [(l, true)]) (n : Nat) : (s.stopNamed iss i).privileged n = s.privileged n := by
  rcases stopNamed_cases hl with h | h
  · rw [h]
  · rw [h]
    exact privileged_modCtx _ (g := Context.stopNow) (fun _ => rfl) n

/-- Of the contexts the traps at decode and the lanes see the privilege alone. -/
theorem decodeTraps_of_privileged {m : Map Context} (r : Nat)
    (h : State.privileged { s with ctxs := m } iss.ctx = s.privileged iss.ctx) :
    State.decodeTraps { s with ctxs := m } iss i r = s.decodeTraps iss i r := by
  simp only [State.decodeTraps, h]
  rfl

theorem lanes_of_privileged {m : Map Context} (r : Nat)
    (h : State.privileged { s with ctxs := m } iss.ctx = s.privileged iss.ctx) :
    iss.lanes { s with ctxs := m } i r = iss.lanes s i r := by
  simp only [Issue.lanes, Issue.lane, h]
  rfl

/-- The group is the same in the state with the named context stopped. -/
theorem stopNamed_solo (h : Solo s iss i l) : Solo (s.stopNamed iss i) iss i l := by
  obtain ⟨hi, hd, hl, ht, he, hu⟩ := h
  have priv := stopNamed_privileged hl iss.ctx
  rw [stopNamed_frame hl] at priv ⊢
  exact ⟨hi, (decodeTraps_of_privileged 0 priv).trans hd, (lanes_of_privileged 0 priv).trans hl, ht, he, hu⟩

end

theorem ctxLegal_iff {v : Nat} : ctxLegal v = true ↔ v / 32 % 2 ^ 27 = 0 := beq_iff_eq

theorem exec_ctxsave {f : CtxRegForm} {s : State} {iss : Issue} (hi : s.issue = some iss)
    (hd : s.decodeTraps iss (.ctxsave f) 0 = none) :
    exec (.ctxsave f) s = .next ((s.stopNamed iss (.ctxsave f)).eachLane (.ctxsave f) fun _ _ l => ctxsaveWork l) :=
  congrArg Host.Outcome.next (issued_eq hi hd)

/-- A CTXSAVE that finds nothing to stop for leaves what its work leaves. -/
theorem ctxsave_acts {f : CtxRegForm} {s : State} {iss : Issue} {l : Lane} {u : State} (h : Solo s iss (.ctxsave f) l)
    (hw : ctxsaveWork l (s.stopNamed iss (.ctxsave f)).issuing = .ok ((), u)) : exec (.ctxsave f) s = .next (u.goesOn iss s.nextId) := by
  have next : (s.stopNamed iss (.ctxsave f)).nextId = s.nextId := by rw [stopNamed_frame h.lanes]
  have stopped := stopNamed_solo h
  obtain ⟨hi, hd, -⟩ := h
  rw [exec_ctxsave hi hd, ← next]
  exact congrArg Host.Outcome.next (eachLane_one stopped hw)

/-- A CTXSAVE whose area or register is refused raises its trap, and no context has stopped. -/
theorem ctxsave_raises {f : CtxRegForm} {P : State → Lane → Prop} {c : Cause} {info : State → Lane → Nat} (hc : c ≠ .mmx)
    (hP : ∀ s l, P s l → ctxLegal l.a = false ∨ Opnd.word l.cap.a 1 % 64 ≠ 0)
    (hw : ∀ s l, P s l → ctxsaveWork l s.issuing = .error (.trap c (info s l))) : Raises (.ctxsave f) P c info := by
  intro s iss l alone he hu hp
  obtain ⟨hi, hd, hr, hl, ht⟩ := alone
  have runs := exec_ctxsave hi hd
  rw [stopNamed_refused hl (hP s l hp)] at runs
  exact eachLane_stop runs ⟨hi, hd, hr, hl, ht⟩ he hu (hw s l hp) hc

/-! ## The work of CTXSAVE (R153, R393) -/

section
variable {l : Lane} {s : State}

theorem ctxsaveWork_illegal (h : ctxLegal l.a = false) : ctxsaveWork l s = .error (.trap .illeg 0) := Work.need_fails _ _ _ h

variable (legal : ctxLegal l.a = true)
include legal

theorem ctxsaveWork_absent (h : s.ctx? (l.a % 16) = none) : ctxsaveWork l s = .ok ((), s) := by
  rw [ctxsaveWork, Work.legal, Work.need_holds _ _ legal, Work.bind_ok (s := s) (a := s) (u := s) rfl, h]
  rfl

variable {c : Context} (hc : s.ctx? (l.a % 16) = some c)
include hc

theorem ctxsaveWork_halting (h : c.phase = .halting) : ctxsaveWork l s = .ok ((), s.leaveAs l.tid (.again .earlier)) := by
  rw [ctxsaveWork, Work.legal, Work.need_holds _ _ legal, Work.bind_ok (s := s) (a := s) (u := s) rfl, hc]
  simp only [h, BEq.rfl, if_true]
  rfl

variable (hp : c.phase ≠ .halting)
include hp

theorem ctxsaveWork_unaligned (h : Opnd.word l.cap.a 1 % 64 ≠ 0) :
    ctxsaveWork l s = .error (.trap .align (l.th.vaOf (Opnd.word l.cap.a 1))) := by
  rw [ctxsaveWork, Work.legal, Work.need_holds _ _ legal, Work.bind_ok (s := s) (a := s) (u := s) rfl, hc]
  simp only [beq_eq_false_iff_ne.2 hp, Bool.false_eq_true, if_false]
  exact Work.need_fails _ _ _ (beq_eq_false_iff_ne.2 h)

variable (aligned : Opnd.word l.cap.a 1 % 64 = 0)
include aligned

/-- The fence made, the save of the own context is left for the end of the chain, and another's is made. -/
theorem ctxsaveWork_saves : ctxsaveWork l s =
    (if l.a % 16 = l.th.ctx then do
      savePages l (l.a % 16) (Opnd.word l.cap.a 1) (l.a.testBit 4)
      modify fun s => { s with deferred := s.deferred ++ [.save l.tid l.th.ctx (Opnd.word l.cap.a 1) (l.a.testBit 4)] }
    else saveContext l (l.a % 16) (Opnd.word l.cap.a 1) (l.a.testBit 4) : Work Unit) (s.fence l.tid 5) := by
  have keep : l.a.testBit 4 = (l.a / 16 % 2 == 1) := Nat.testBit_eq_decide_div_mod_eq ..
  rw [ctxsaveWork, Work.legal, Work.need_holds _ _ legal, Work.bind_ok (s := s) (a := s) (u := s) rfl, hc]
  simp only [beq_eq_false_iff_ne.2 hp, Bool.false_eq_true, if_false, Work.need_holds _ _ (beq_iff_eq.2 aligned), ← keep]
  rfl

end

/-- The save of a stopped context: its area written, and the context off the device. -/
theorem saveContext_ok {l : Lane} {ctx off : Nat} {keep : Bool} {s u : State} {c : Context} {pages : Pages}
    (hc : (s.quiesce ctx).ctx? ctx = some c) :
    let q := s.quiesce ctx
    let x := q.imageOf ctx (outName q.nextId) c keep
    let bs := areaBytes keep (q.saveSections x q.nextId)
    let records := ((sectionsFrom (firstSection (if keep then 5 else 6)) (q.saveSections x q.nextId)).find? fun y => y.1 == 3).map fun y =>
      y.2.1
    l.areaPages off bs.length .write q = .ok (pages, u) →
    let saved := ({ u with nextId := q.nextId + 1 } : State).writePages l.tid pages bs
    let image := { x with pages := pages, records := records.getD 0 }
    let imaged := { saved with images := Map.set saved.images q.nextId image }
    saveContext l ctx off keep s = .ok ((), (imaged.dropContext ctx).renameCtx ctx (outName q.nextId)) := by
  intro q x bs records reached
  rw [saveContext, Work.bind_ok (s := s) (a := ()) (u := q) rfl, Work.bind_ok (s := q) (a := q) (u := q) rfl, hc]
  exact Work.bind_ok reached

/-! ## CTXLOAD and the restore (R153) -/

/-- A CTXLOAD whose header and image pass waits for the restore, which the image then awaits. -/
theorem ctxloadWork_ok {l : Lane} {s s1 s2 s3 : State} {hp dp pages : Pages} {x : Image} (legal : ctxLegal l.a = true)
    (aligned : Opnd.word l.cap.a 1 % 64 = 0) (h1 : l.areaPages (Opnd.word l.cap.a 1) 64 .read s = .ok (hp, s1)) :
    let n := fieldAt (s1.pageBytes hp 0 64) 6 2
    n ≤ 16 → l.areaPages (Opnd.word l.cap.a 1) (64 + 16 * n) .read s1 = .ok (dp, s2) →
    let h := s2.pageBytes dp 0 (64 + 16 * n)
    headerFault h = none → l.areaPages (Opnd.word l.cap.a 1) (fieldAt h 8 8) .read s2 = .ok (pages, s3) →
    let token := ((sectionAt h 1).map fun o => ofBytes (s3.pageBytes pages o 8)).getD 0
    Map.get? s3.images token = some x → x.loading = none →
    let load : Loading := { slot := l.a % 16, tid := l.tid, pages := pages }
    let imaged := { s3 with images := Map.set s3.images token { x with loading := some load } }
    ctxloadWork l s = .ok ((), imaged.modThread l.tid fun t => t.block (.ctxload token)) := by
  intro n few h2 h good h3 token hx free
  have dir : l.areaPages (Opnd.word l.cap.a 1) (if n ≤ 16 then 64 + 16 * n else 64) .read s1 = .ok (dp, s2) := by rw [if_pos few, h2]
  rw [ctxloadWork, Work.legal, Work.need_holds _ _ legal, Work.need_holds _ _ (beq_iff_eq.2 aligned), Work.bind_ok h1,
    Work.bind_ok (s := s1) (a := s1) (u := s1) rfl, Work.bind_ok dir, Work.bind_ok (s := s2) (a := s2) (u := s2) rfl, good]
  dsimp only
  rw [Work.bind_ok h3, Work.bind_ok (s := s3) (a := s3) (u := s3) rfl, hx]
  dsimp only
  rw [Work.within, Work.need_holds _ _ (by rw [free]; rfl)]
  rfl

/-- The image that waits for a slot, with its restore (R153). -/
def State.awaiting (s : State) (slot : Nat) : Option (Nat × Image × Loading) :=
  s.images.findSome? fun x => (x.2.loading.filter fun g => g.slot == slot).map fun g => (x.1, x.2, g)

theorem awaiting_none {s : State} {slot : Nat} (h : ∀ x ∈ s.images, ∀ g, x.2.loading = some g → g.slot ≠ slot) :
    s.awaiting slot = none := by
  refine List.findSome?_eq_none_iff.2 fun x hx => Option.map_eq_none_iff.2 (Option.filter_eq_none_iff.2 fun g hg => ?_)
  simpa using h x hx g hg

/-- The saved context in its slot, its launches with it, its cells yet to be placed. -/
def State.backIn (s : State) (token : Nat) (x : Image) (g : Loading) : State :=
  { s with
    images := Map.del s.images token, ctxs := Map.set s.ctxs g.slot x.context
    launches := installed (fun l => l.resumed g.slot (s.cycle - x.cycle)) s.launches x.launches }

section
variable {s u v : State} {token : Nat} {x : Image} {g : Loading} {h : List Byte} {records : Map (List Byte)}

theorem restoreContext_without_room (hr : (s.backIn token x g).placeSaved x g.slot = none) : s.restoreContext token x g h records = s := by
  unfold State.backIn at hr
  simp only [State.restoreContext, hr]

theorem restoreContext_refilled (hv : (s.backIn token x g).placeSaved x g.slot = some v)
    (hu : refillContext token x g h records v = .ok ((), u)) : s.restoreContext token x g h records = u := by
  unfold State.backIn at hv
  simp only [State.restoreContext, hv, hu]

/-- With no Anvil to refill the restore meets no fault. -/
theorem refillContext_without_anvils (ha : x.anvils = []) : ∃ u, refillContext token x g h records v = .ok ((), u) := by
  unfold refillContext
  rw [ha]
  exact ⟨_, rfl⟩

end

/-- A restore is made once its slot is free, it is not parked, its replies have come, and its Anvils are free. -/
theorem exec_ctxloadRestore (s : State) (ctx : Nat) : exec (.ctxloadRestore ctx) s = .next ((s.awaiting ctx).elim s fun y =>
    let h := s.pageBytes y.2.2.pages 0 0x140
    let records := y.2.1.readRecords s y.2.2.pages ((sectionAt h 3).getD 0)
    if (s.ctx? ctx).isSome || y.2.2.fault.isSome || !y.2.1.answered records ||
      y.2.1.anvils.any (fun a => (s.tile a.1).anvil.owner.isSome) then s
    else s.restoreContext y.1 y.2.1 y.2.2 h records) := by
  refine congrArg Host.Outcome.next ?_
  show (match s.awaiting ctx with
    | none => s
    | some (token, x, g) => _) = _
  cases s.awaiting ctx <;> rfl

section
variable {s : State} {ctx token : Nat} {x : Image} {g : Loading} (hg : s.awaiting ctx = some (token, x, g))
include hg

theorem ctxloadRestore_waits (h : (s.ctx? ctx).isSome ∨ g.fault.isSome ∨
      x.answered (x.readRecords s g.pages ((sectionAt (s.pageBytes g.pages 0 0x140) 3).getD 0)) = false ∨
      (x.anvils.any fun a => (s.tile a.1).anvil.owner.isSome) = true) : exec (.ctxloadRestore ctx) s = .next s := by
  rw [exec_ctxloadRestore, hg]
  refine congrArg Host.Outcome.next (if_pos ?_)
  rcases h with h | h | h | h <;> simp [h]

theorem ctxloadRestore_made (free : (s.ctx? ctx).isSome = false) (fault : g.fault = none)
    (answered : x.answered (x.readRecords s g.pages ((sectionAt (s.pageBytes g.pages 0 0x140) 3).getD 0)) = true)
    (anvils : (x.anvils.any fun a => (s.tile a.1).anvil.owner.isSome) = false) : exec (.ctxloadRestore ctx) s =
      .next (s.restoreContext token x g (s.pageBytes g.pages 0 0x140)
        (x.readRecords s g.pages ((sectionAt (s.pageBytes g.pages 0 0x140) 3).getD 0))) := by
  rw [exec_ctxloadRestore, hg]
  exact congrArg Host.Outcome.next (if_neg (by simp [free, fault, answered, anvils]))

end

/-! ## A reply while the context is out (R156) -/

/-- The image of a context that is out, by a number it had and a thread of its own. -/
def State.imageWith (s : State) (ctx tid : Nat) : Option (Nat × Image) :=
  s.images.find? fun x => x.2.ctx == ctx && (Map.get? x.2.threads tid).isSome

theorem detachedReplyAfterSave_absent {s : State} {ctx tid : Nat} (entry : Nat) (h : s.imageWith ctx tid = none) :
    exec (.detachedReplyAfterSave ctx tid entry) s = .next s := by
  unfold State.imageWith at h
  show execDetachedReplyAfterSave ctx tid entry s = _
  simp only [execDetachedReplyAfterSave, h]

/-- The reply's value goes to the saved thread, its entry is DONE, and its record, where it has one, holds both. -/
theorem detachedReplyAfterSave_writes {s u : State} {ctx tid entry token : Nat} {x : Image} {t : Thread} {e : Entry} {ws : List Word}
    {c : Context} (hx : s.imageWith ctx tid = some (token, x)) (ht : Map.get? x.threads tid = some t) (he : t.entry? entry = some e)
    (flight : e.state = .flight) (detached : e.attached = false) (reply : s.detachedReply x e = some (ws, c, u)) :
    let t' := (t.writeDest e.dst ws .full).modEntry entry fun e => { e with state := .done }
    let v : State := { u with images := Map.set u.images token { x with context := c, threads := Map.set x.threads tid t' } }
    exec (.detachedReplyAfterSave ctx tid entry) s = .next ((x.recordAt tid).elim v fun off =>
      let w := v.fillRecord x.pages (x.records + off) t e.dst ws
      let pos := x.records + off + t.entryOffset ((t.replay.findIdx? fun y => y.id == entry).getD 0) + 3
      w.patchPages x.pages pos [BitVec.ofNat 8 (ofBytes (w.pageBytes x.pages pos 1) / 4 * 4 + 2)]) := by
  unfold State.imageWith at hx
  have waits : ¬(decide (e.state ≠ .flight) || e.attached) = true := by simp [flight, detached]
  show execDetachedReplyAfterSave ctx tid entry s = _
  simp only [execDetachedReplyAfterSave, hx, ht, Option.bind_some, he, if_neg waits, reply]
  cases x.recordAt tid <;> rfl

/-- Every entry whose value has come has a reply to give. -/
theorem detachedReply_exists (s : State) (x : Image) {e : Entry} {ws : List Word} (h : e.reply = some ws) :
    ∃ r, s.detachedReply x e = some r := by
  unfold State.detachedReply
  split
  · exact ⟨_, rfl⟩
  · exact ⟨_, rfl⟩
  · rw [h]
    exact ⟨_, rfl⟩

/-! ## Creation (R73, R135, R415) -/

/-- A field that keeps the bits from lo up is a multiple of 2^lo. -/
theorem bitsKept_aligned (v hi : Nat) {lo : Nat} (h : lo ≤ 64) : (BitVec.ofNat 64 (bitsKept v hi lo)).toNat % 2 ^ lo = 0 := by
  rw [BitVec.toNat_ofNat, Nat.mod_mod_of_dvd _ (Nat.pow_dvd_pow 2 h), bitsKept, Nat.mul_mod_left]

/-- The context that the driver sets up, all else zero. -/
def createdContext (x : ContextSetup) : Context :=
  { privileged := x.privileged, textBase := x.textBase.toNat
    window := BitVec.ofNat 64 (bitsKept x.window.toNat 51 32), ptbase := BitVec.ofNat 64 (bitsKept x.ptbase.toNat 51 16)
    otbase := BitVec.ofNat 64 (bitsKept x.otbase.toNat 51 6), otcount := BitVec.ofNat 32 (x.otcount.toNat % 2 ^ 17) }

section
variable {s : State} {ctx : Nat} (x : ContextSetup)

theorem contextCreate_refused (h : 16 ≤ ctx ∨ (s.ctx? ctx).isSome ∨ s.boot.phase = .recovery) :
    exec (.contextCreate ctx x) s = .next s := by
  refine congrArg Host.Outcome.next (if_pos ?_)
  rcases h with h | h | h <;> simp [h]

theorem contextCreate_fills (h : ctx < 16) (free : s.ctx? ctx = none) (boot : s.boot.phase ≠ .recovery) :
    exec (.contextCreate ctx x) s = .next { s with ctxs := Map.set s.ctxs ctx (createdContext x) } :=
  congrArg Host.Outcome.next (if_neg (by simp [h, free, boot]))

end

/-! ## Killing (R37, R249, R375) -/

/-- Nothing of a context is on the device: it is not resident, and no launch, cell or operation is its own. -/
structure State.Without (s : State) (ctx : Nat) : Prop where
  context : s.ctx? ctx = none
  launches : ∀ x ∈ s.launches, x.2.ctx ≠ ctx
  cells : ∀ x ∈ s.cells, x.2.ctx ≠ ctx
  ops : ∀ x ∈ s.ops, x.2.ctx ≠ ctx

theorem freeAnvil_frame (s : State) (n : Nat) : ∃ tiles threads, s.freeAnvil n = { s with tiles := tiles, threads := threads } := by
  unfold State.freeAnvil
  split
  · exact ⟨_, _, rfl⟩
  · split
    · exact ⟨_, _, rfl⟩
    · exact ⟨_, _, rfl⟩

/-- Freeing Anvils puts nothing of a context on the device. -/
theorem State.Without.freeAnvils {ctx : Nat} : ∀ (ns : List Nat) {s : State}, s.Without ctx →
    (ns.foldl (fun s n => if (s.tile n).anvil.owner = some ctx then s.freeAnvil n else s) s).Without ctx
  | [], _, h => h
  | n :: ns, s, h => by
    refine State.Without.freeAnvils ns ?_
    dsimp only
    split
    · obtain ⟨tiles, threads, hs⟩ := freeAnvil_frame s n
      rw [hs]
      exact ⟨h.context, h.launches, h.cells, h.ops⟩
    · exact h

theorem mem_others {α : Type} {m : Map α} {key : α → Nat} {ctx : Nat} {x : Nat × α} (h : x ∈ m.filter fun x => key x.2 != ctx) :
    key x.2 ≠ ctx := bne_iff_ne.1 (List.mem_filter.1 h).2

theorem dropContext_without (s : State) (ctx : Nat) : (s.dropContext ctx).Without ctx := by
  unfold State.dropContext
  refine State.Without.freeAnvils _ ⟨Map.get?_del_same .., fun x hx => ?_, fun x hx => ?_, fun x hx => ?_⟩
  · exact mem_others (key := Launch.ctx) hx
  · exact mem_others (key := Cell.ctx) hx
  · exact mem_others (key := Op.ctx) hx

theorem contextKill_absent {s : State} {ctx : Nat} (h : s.ctx? ctx = none) : exec (.contextKill ctx) s = .next s := by
  show execContextKill ctx s = _
  simp only [execContextKill, h]

/-- A kill ends with the context dropped, and its fault records and windows with it. -/
theorem contextKill_drops {s : State} {ctx : Nat} {c : Context} (h : s.ctx? ctx = some c) : ∃ v : State, exec (.contextKill ctx) s = .next
    { v.dropContext ctx with
      faults := (v.dropContext ctx).faults.filter fun r => r.2.1 != ctx
      fabric := { (v.dropContext ctx).fabric with opens := (v.dropContext ctx).fabric.opens.filter fun o => o.2.ctx != ctx } } := by
  show ∃ v, execContextKill ctx s = _
  simp only [execContextKill, h]
  exact ⟨_, rfl⟩

/-! ## The end of a halt (R384, R385) -/

theorem dumpWrite_absent {s : State} {ctx : Nat} (h : s.ctx? ctx = none) : exec (.dumpWrite ctx) s = .next s := by
  show execDumpWrite ctx s = _
  simp only [execDumpWrite, h]

section
variable {s : State} {ctx : Nat} {c : Context} (hc : s.ctx? ctx = some c)
include hc

theorem dumpWrite_waits (h : c.phase ≠ .halting ∨ s.haltPending ctx = true) : exec (.dumpWrite ctx) s = .next s := by
  have waits : (c.phase != .halting || s.haltPending ctx) = true := by rcases h with h | h <;> simp [h]
  show execDumpWrite ctx s = _
  simp only [execDumpWrite, hc, if_pos waits]

theorem dumpWrite_halts (h : c.phase = .halting) (done : s.haltPending ctx = false) : exec (.dumpWrite ctx) s =
    .next (((if c.dumpctl.getLsbD 0 then (s.completeHalt ctx).writeDump ctx c else s.completeHalt ctx).failLaunches ctx 0x13).modCtx ctx
      fun c => { c with phase := .halted }) := by
  have ready : ¬(c.phase != .halting || s.haltPending ctx) = true := by simp [h, done]
  show execDumpWrite ctx s = _
  simp only [execDumpWrite, hc, if_neg ready]

end

/-- Settles O48: CTXSAVE by the context that it names, the restore by what it waits for, a kill by what is dropped last. -/
theorem contextEvents : Obligations.ContextEvents := by
  refine ⟨⟨fun f s iss l solo hc legal => ?absent, fun f s iss l c solo hc legal => ?saves, fun f c => ?unaligned, fun f => ?illegal,
      fun f s iss l hp s1 dp s2 pages s3 x solo legal aligned h1 few h2 good h3 hx free => ?loads,
      fun f => eachLane_acts fun _ => rfl, fun f => eachLane_traps fun _ => rfl, fun s ctx h => ?idle,
      fun s ctx token x g hg => ?restores, fun s ctx tid entry => detachedReplyAfterSave_absent entry,
      fun s x e ws => detachedReply_exists s x, fun s ctx tid entry token x t e ws c u off hx ht he flight detached reply => ?replies⟩,
    ⟨fun s ctx x h free boot => ?creates, fun s ctx x => contextCreate_refused x, fun s ctx => contextKill_absent,
      fun s ctx c hc => ?kills⟩, fun s ctx => dumpWrite_absent, fun s ctx c => dumpWrite_waits, fun s ctx c => dumpWrite_halts⟩
  case absent =>
    refine ctxsave_acts solo ?_
    rw [stopNamed_absent solo.lanes hc]
    exact ctxsaveWork_absent (ctxLegal_iff.2 legal) hc
  case saves =>
    obtain ⟨c', hc', halts⟩ := stopNamed_named solo.lanes hc
    intro v off keep
    refine ⟨fun h => ctxsave_acts solo (ctxsaveWork_halting (ctxLegal_iff.2 legal) hc' (halts.2 h)), fun h aligned => ?_⟩
    have work := ctxsaveWork_saves (s := v.issuing) (ctxLegal_iff.2 legal) hc' (mt halts.1 h) aligned
    refine ⟨fun own u hu => ctxsave_acts solo ?_, fun other c' pages u hq reached => ctxsave_acts solo ?_⟩
    · rw [work, if_pos own]
      exact Work.bind_ok hu
    · rw [work, if_neg other]
      exact saveContext_ok hq reached
  case unaligned =>
    exact ctxsave_raises (by decide) (fun s l ⟨_, _, _, unaligned⟩ => .inr unaligned)
      fun s l ⟨hc, running, legal, unaligned⟩ => ctxsaveWork_unaligned (ctxLegal_iff.2 legal) hc running unaligned
  case illegal =>
    have refused {l : Lane} (h : l.a / 32 % 2 ^ 27 ≠ 0) : ctxLegal l.a = false := Bool.eq_false_iff.2 (mt ctxLegal_iff.1 h)
    exact ctxsave_raises (by decide) (fun s l h => .inl (refused h)) fun s l h => ctxsaveWork_illegal (refused h)
  case loads =>
    exact eachLane_acts (fun _ => rfl) s iss l _ solo (ctxloadWork_ok (ctxLegal_iff.2 legal) aligned h1 few h2 good h3 hx free)
  case idle =>
    rw [exec_ctxloadRestore, awaiting_none h]
    rfl
  case restores =>
    refine ⟨ctxloadRestore_waits hg, fun free fault answered anvils => ?_⟩
    rw [ctxloadRestore_made hg free fault answered anvils]
    refine ⟨fun room => congrArg Host.Outcome.next (restoreContext_without_room room), fun v hv =>
      ⟨fun u hu => congrArg Host.Outcome.next (restoreContext_refilled hv hu), fun bare => ?_⟩⟩
    obtain ⟨u, hu⟩ := refillContext_without_anvils bare
    exact ⟨u, hu, congrArg Host.Outcome.next (restoreContext_refilled hv hu)⟩
  case replies =>
    intro t' v
    rw [detachedReplyAfterSave_writes hx ht he flight detached reply]
    exact ⟨fun h => by rw [h]; rfl, fun h => by rw [h]; rfl⟩
  case creates =>
    refine ⟨_, createdContext x, contextCreate_fills x h free boot, rfl, Map.get?_set_same .., fun n hn => Map.get?_set_ne _ _ hn,
      rfl, rfl, rfl, rfl, ?_, bitsKept_aligned _ 51 (lo := 6) (by decide), bitsKept_aligned _ 51 (lo := 16) (by decide),
      bitsKept_aligned _ 51 (lo := 32) (by decide)⟩
    show (BitVec.ofNat 32 (x.otcount.toNat % 2 ^ 17)).toNat < 2 ^ 17
    rw [BitVec.toNat_ofNat]
    omega
  case kills =>
    obtain ⟨v, runs⟩ := contextKill_drops hc
    have gone := dropContext_without v ctx
    exact ⟨_, runs, gone.context, fun r hr => bne_iff_ne.1 (List.mem_filter.1 hr).2, gone.launches, gone.cells, gone.ops,
      fun o ho => bne_iff_ne.1 (List.mem_filter.1 ho).2⟩

end Sys2Proof.Machine
end

section
/-! PROOFS. The words that compute on the lanes of w registers: each has the shape of a computing word (R165 to R173). -/
namespace Sys2Proof.Machine

theorem Lane.aa_eq (l : Lane) : l.aa = l.xx.toNat := Opnd.dword_eq _

/-- SSEL: bit i of the third operand chooses lane i (R167). -/
theorem selectLanes_eq (as bs : List Nat) (z : Word) :
    selectLanes as bs z.toNat = (List.range 4).map fun i => if z.getLsbD i then as.getD i 0 else bs.getD i 0 := by
  refine List.map_congr_left fun i _ => ?_
  simp only [BitVec.getLsbD, Nat.testBit_eq_decide_div_mod_eq, decide_eq_true_eq]

/-- Settles O9: each word has the shape of a computing word; SSEL reads the bits of its third operand, and SCVT widens a pair. -/
theorem spectralWords : Obligations.SpectralWords := by
  refine ⟨⟨fun f => run_clear fun _ => rfl, fun f => run_clear fun _ => rfl, fun f => run_clear fun _ => rfl,
    fun f => run_clear fun _ => rfl, fun f => run_clear fun _ => rfl, fun f => run_clear fun _ => rfl, fun f => run_clear fun _ => rfl,
    fun f => run_clear fun _ => rfl, fun f => run_clear fun _ => rfl, fun f => run_clear fun _ => rfl, fun f => run_clear fun _ => rfl,
    fun f => run_clear fun _ => rfl, fun f => run_clear fun _ => rfl, fun f => run_clear fun _ => rfl, fun f => run_clear fun _ => rfl⟩,
    fun f => run_clear fun _ => rfl, fun f => run_clear fun _ => rfl, fun f => run_clear fun _ => rfl,
    fun f => computes_of_results (fun _ => rfl) fun s l => ?ssel, fun f => run_clear fun _ => rfl, fun f => run_clear fun _ => rfl,
    fun f => computes_of_results (fun _ => rfl) fun s l => ?widen⟩
  case ssel => rw [l.c_eq, selectLanes_eq]
  case widen => rw [l.aa_eq]

end Sys2Proof.Machine
end

section
/-! PROOFS. What an operation's work leaves as it was of what resolves addresses, and why it completes in memory that is in reach
(R246, R304, R306, R315, R319, R412). -/
namespace Sys2Proof.Machine

/-! ## What resolves an address -/

/-- What decides where an address of an operation that is held translated lies: the words in error, the tiles' TLBs, FLTRING, the cells,
the images of saved contexts, and the fabric's windows and routes (R237, R246, R315, R319, R361). -/
def State.resolution (s : State) : List Nat × (Nat → List Tlb) × BitVec 64 × Map Cell × Map Image × Fabric :=
  (s.ecc, fun n => (s.tile n).tlb, s.fltring, s.cells, s.images, s.fabric)

theorem State.resolution_iff {s u : State} : u.resolution = s.resolution ↔ u.ecc = s.ecc ∧ (∀ n, (u.tile n).tlb = (s.tile n).tlb) ∧
    u.fltring = s.fltring ∧ u.cells = s.cells ∧ u.images = s.images ∧ u.fabric = s.fabric := by
  simp only [State.resolution, Prod.mk.injEq, funext_iff]

/-- Steps that each keep a part of the state keep it together. -/
theorem foldl_keeps {α β : Type} {f : State → β} {g : State → α → State} (h : ∀ s x, f (g s x) = f s) (xs : List α) (s : State) :
    f (xs.foldl g s) = f s := by
  induction xs generalizing s with
  | nil => rfl
  | cons x xs ih => rw [List.foldl_cons, ih, h]

@[simp] theorem State.setByte_resolution (s : State) (pa : Nat) (b : Byte) : (s.setByte pa b).resolution = s.resolution := rfl

@[simp] theorem State.setPch_resolution (s : State) (n : Nat) (r : Refresh) : (s.setPch n r).resolution = s.resolution := rfl

@[simp] theorem State.wakeGranules_resolution (s : State) (pa n : Nat) : (s.wakeGranules pa n).resolution = s.resolution := rfl

@[simp] theorem State.charge_resolution (s : State) (tid field n : Nat) : (s.charge tid field n).resolution = s.resolution := by
  simp [State.charge, State.resolution, State.tile]

@[simp] theorem State.chargeHeld_resolution (s : State) (tid pa : Nat) : (s.chargeHeld tid pa).resolution = s.resolution := by
  unfold State.chargeHeld
  split
  · rfl
  · split
    · simp
    · split <;> simp

@[simp] theorem State.chargeAccess_resolution (s : State) (tid pa : Nat) : (s.chargeAccess tid pa).resolution = s.resolution := by
  unfold State.chargeAccess
  split
  · rfl
  · refine (State.charge_resolution ..).trans ?_
    split <;> simp

@[simp] theorem State.duePoint_resolution (s : State) (pch tid : Nat) : (s.duePoint pch tid).resolution = s.resolution := by
  simp only [State.duePoint]
  split <;> simp

@[simp] theorem State.acceptRead_resolution (s : State) (tid pa : Nat) : (s.acceptRead tid pa).resolution = s.resolution := by
  simp only [State.acceptRead]
  split
  · simp
  · split
    · split <;> simp
    · simp

@[simp] theorem State.acceptReads_resolution (s : State) (tid pa n : Nat) : (s.acceptReads tid pa n).resolution = s.resolution :=
  foldl_keeps (fun v _ => v.acceptRead_resolution tid _) _ s

/-- A tile replaced by one with the same TLB resolves as before. -/
theorem State.setTile_resolution {s : State} {n : Nat} {t : Tile} (h : t.tlb = (s.tile n).tlb) :
    (s.setTile n t).resolution = s.resolution := by
  refine State.resolution_iff.2 ⟨rfl, fun k => ?_, rfl, rfl, rfl, rfl⟩
  by_cases hk : k = n
  · rw [hk, State.tile_setTile_same, h]
  · rw [State.tile, State.setTile, Map.getD_set_ne _ _ _ hk, State.tile]

@[simp] theorem State.energy_resolution (s : State) (tile ctx n k : Nat) : (s.energy tile ctx n k).resolution = s.resolution :=
  State.setTile_resolution rfl

@[simp] theorem State.accessEnergy_resolution (s : State) (tile ctx pa n : Nat) :
    (s.accessEnergy tile ctx pa n).resolution = s.resolution := by
  unfold State.accessEnergy
  split <;> simp

/-- Bytes written into the device's own memory. -/
theorem State.perform_resolution (s : State) (tid : Nat) {pa : Nat} (bs : List Byte) (hr : regionOf pa = .hbm ∨ regionOf pa = .slice) :
    (s.perform tid (bytesAt pa bs)).resolution = s.resolution := by
  cases bs with
  | nil => rfl
  | cons b bs =>
    have head : bytesAt pa (b :: bs) = (pa, b) :: (bytesAt pa (b :: bs)).tail := by simp [bytesAt]
    rw [head]
    generalize (bytesAt pa (b :: bs)).tail = rest
    have written : s.perform tid ((pa, b) :: rest) = ((pa, b) :: rest).foldl (fun v c => v.wakeGranules c.1 1)
        (((pa, b) :: rest).foldl (fun v (c : Nat × Byte) => v.setByte c.1 c.2) (s.chargeAccess tid pa)) := by
      rcases hr with hr | hr <;> simp only [State.perform, hr]
    rw [written, foldl_keeps fun v (c : Nat × Byte) => v.wakeGranules_resolution c.1 1,
      foldl_keeps fun v (c : Nat × Byte) => v.setByte_resolution c.1 c.2, State.chargeAccess_resolution]

/-! ## Translation from the TLB (R319 to R322) -/

/-- A walk ends at a leaf of its context that holds its address, or fails. -/
def WalkEnds (ctx va : Nat) : (Tlb × List WalkEntry) ⊕ Xlate → Prop
  | .inl (t, _) => t.ctx = ctx ∧ t.vpage = va / 2 ^ t.bits
  | .inr x => ∀ pa nrd, x ≠ .ok pa nrd

theorem walk_ends (die ctx va : Nat) (kind : AccKind) : ∀ (fuel level table : Nat) (s : State),
    WalkEnds ctx va (s.walk die ctx va kind fuel level table).1
  | 0, _, _, _ => nofun
  | fuel + 1, level, table, s => by
    simp only [State.walk]
    generalize s.walkRead die ctx level (table + 8 * (va / 2 ^ levelShift level % levelEntries level)) = r
    split
    · split <;> nofun
    · split
      · nofun
      · split
        · split
          · nofun
          · exact ⟨rfl, rfl⟩
        · have deeper := walk_ends die ctx va kind fuel (level + 1) (r.1 / 2 ^ 12 % 2 ^ 40 * 2 ^ 12) r.2
          split
          · rename_i t es u hw
            rw [hw] at deeper
            exact deeper
          · exact deeper

/-- The entry of a tile's TLB that holds an address (R322). -/
def State.tlbEntry (s : State) (tile ctx va : Nat) : Option Tlb :=
  (s.tile tile).tlb.find? fun e => e.ctx == ctx && e.vpage == va / 2 ^ e.bits

/-- Where the fault ring is off a recoverable fault is fatal (R324). -/
def Xlate.taken (r : Xlate) (s : State) : Xlate :=
  match r with
  | .pgfault _ => if s.fltring.getLsbD 0 then r else .pgfatal
  | _ => r

theorem Xlate.taken_ok {r : Xlate} {s : State} {pa : Nat} {nrd : Bool} : r.taken s = .ok pa nrd ↔ r = .ok pa nrd := by
  cases r with
  | ok p n => rfl
  | pgfault f =>
    refine iff_of_false (fun h => ?_) nofun
    rw [Xlate.taken] at h
    split at h <;> cases h
  | pgfatal => rfl

/-- A walk filling the TLB, as a translation that misses it does (R320 to R322). -/
def State.walkFill (s : State) (priv : Bool) (tile ctx va : Nat) (kind : AccKind) (root : Nat) : Xlate × State :=
  match s.walk (dieOf tile) ctx va kind 4 0 root with
  | (.inr x, u) => (x.taken s, u)
  | (.inl (e, es), u) =>
    match (leafCheck e priv kind va).taken s with
    | .ok pa nrd => (.ok pa nrd, (u.keepWalk (dieOf tile) es).setTile tile
        { (u.keepWalk (dieOf tile) es).tile tile with tlb := (e :: ((u.keepWalk (dieOf tile) es).tile tile).tlb).take 2048 })
    | x => (x, u)

section
variable {s : State} {priv : Bool} {tile ctx va pa : Nat} {kind : AccKind} {nrd : Bool}

theorem translateAs_hit {e : Tlb} (h : s.tlbEntry tile ctx va = some e) :
    s.translateAs priv tile ctx va kind = ((leafCheck e priv kind va).taken s, s) := by
  rw [State.tlbEntry] at h
  simp only [State.translateAs, h]
  rfl

theorem translateAs_miss (h : s.tlbEntry tile ctx va = none) : s.translateAs priv tile ctx va kind = (.pgfatal, s) ∨
    ∃ root, s.translateAs priv tile ctx va kind = s.walkFill priv tile ctx va kind root := by
  rw [State.tlbEntry] at h
  simp only [State.translateAs, h]
  split
  · exact .inl rfl
  · exact .inr ⟨_, rfl⟩

/-- A walk that fills the TLB leaves the address held there. -/
theorem walkFill_held {u : State} {root : Nat} (h : s.walkFill priv tile ctx va kind root = (.ok pa nrd, u)) :
    u.tlbEntry tile ctx va ≠ none := by
  have ends := walk_ends (dieOf tile) ctx va kind 4 0 root s
  unfold State.walkFill at h
  split at h
  · rename_i x v hw
    rw [hw] at ends
    exact absurd (Xlate.taken_ok.1 (Prod.mk.inj h).1) (ends pa nrd)
  · rename_i e es v hw
    rw [hw] at ends
    obtain ⟨named, page⟩ := ends
    split at h
    · rw [← (Prod.mk.inj h).2, State.tlbEntry, State.tile_setTile_same, List.take_succ_cons,
        List.find?_cons_of_pos (by simp [named, page])]
      nofun
    · rename_i x miss
      exact absurd (Prod.mk.inj h).1 (miss _ _)

/-- A translation that leaves the state as it is was held in the TLB (R322). -/
theorem translateAs_held (h : s.translateAs priv tile ctx va kind = (.ok pa nrd, s)) :
    ∃ e, s.tlbEntry tile ctx va = some e ∧ leafCheck e priv kind va = .ok pa nrd := by
  cases he : s.tlbEntry tile ctx va with
  | some e =>
    rw [translateAs_hit he] at h
    exact ⟨e, rfl, Xlate.taken_ok.1 (Prod.mk.inj h).1⟩
  | none =>
    rcases translateAs_miss (priv := priv) (kind := kind) he with hx | ⟨root, hx⟩
    · rw [hx] at h
      cases h
    · rw [hx] at h
      exact absurd he (walkFill_held h)

/-- A translation that the TLB holds is the same in every state that resolves as this one does. -/
theorem translateAs_of_resolution {u : State} (h : s.translateAs priv tile ctx va kind = (.ok pa nrd, s))
    (hr : u.resolution = s.resolution) : u.translateAs priv tile ctx va kind = (.ok pa nrd, u) := by
  obtain ⟨e, he, leaf⟩ := translateAs_held h
  obtain ⟨-, tlb, -⟩ := State.resolution_iff.1 hr
  rw [State.tlbEntry, ← tlb] at he
  rw [translateAs_hit he, Xlate.taken_ok.2 leaf]

end

/-! ## Memory in reach of an operation (R237, R246, R315) -/

/-- A byte in reach without a change of the state is in reach of every state that resolves as this one does. -/
theorem Op.reach_of_resolution {op : Op} {o : Obj} {off pa : Nat} {kind : AccKind} {s u : State}
    (h : op.reach o off kind s = .ok (pa, s)) (hr : u.resolution = s.resolution) : op.reach o off kind u = .ok (pa, u) := by
  obtain ⟨-, -, -, cells, images, fabric⟩ := State.resolution_iff.1 hr
  unfold Op.reach at h ⊢
  split at h
  · rename_i scope
    rw [if_pos scope, cells, images]
    split at h
    · cases h
      rfl
    · cases h
  · rename_i scope
    rw [if_neg scope]
    split at h
    · rename_i p nrd v hx
      split at h
      · cases h
      · rename_i near
        cases h
        rw [translateAs_of_resolution hx hr]
        simp only [State.unreachable, State.localPa, fabric] at near ⊢
        rw [if_neg near]
    · cases h
    · cases h

theorem Op.Served.of_resolution {op : Op} {s u : State} {kind : AccKind} {o : Obj} {off n : Nat} (h : op.Served s kind o off n)
    (hr : u.resolution = s.resolution) : op.Served u kind o off n := by
  obtain ⟨ecc, parts⟩ := h
  refine ⟨(State.resolution_iff.1 hr).1.trans ecc, fun p hp => ?_⟩
  obtain ⟨pa, reach, region⟩ := parts p hp
  exact ⟨pa, Op.reach_of_resolution reach hr, region⟩

/-- The first byte of a range in reach. -/
theorem Op.Served.first {op : Op} {s : State} {kind : AccKind} {o : Obj} {off n : Nat} (h : op.Served s kind o off n) :
    ∃ pa, op.reach o off kind s = .ok (pa, s) ∧ (regionOf pa = .hbm ∨ regionOf pa = .slice) := by
  have head : ∃ k, (0, k) ∈ pageParts (Obj.base o + off) n := by
    simp only [pageParts]
    split
    · exact ⟨_, List.mem_cons_self ..⟩
    · exact ⟨_, List.mem_cons_self ..⟩
  obtain ⟨k, hk⟩ := head
  obtain ⟨-, parts⟩ := h
  exact parts _ hk

/-! ## Work that completes -/

/-- From every state that resolves addresses so, the work ends without a stop, in a state that resolves them so too. -/
def Work.Completes {α : Type} (w : Work α) (s : State) : Prop :=
  ∀ v, v.resolution = s.resolution → ∃ a u, w v = .ok (a, u) ∧ u.resolution = s.resolution

section
variable {α β : Type} {s : State}

theorem Work.Completes.pure (a : α) : (Pure.pure a : Work α).Completes s := fun v hv => ⟨a, v, rfl, hv⟩

theorem Work.Completes.bind {w : Work α} {k : α → Work β} (hw : w.Completes s) (hk : ∀ a, (k a).Completes s) :
    (w >>= k).Completes s := fun v hv => by
  obtain ⟨a, u, run, hu⟩ := hw v hv
  rw [Work.bind_ok run]
  exact hk a u hu

theorem Work.Completes.change {f : State → State} (hf : ∀ v, (f v).resolution = v.resolution) : (modify f : Work Unit).Completes s :=
  fun v hv => ⟨(), f v, rfl, (hf v).trans hv⟩

theorem Work.Completes.ite {c : Prop} [Decidable c] {w w' : Work α} (hw : c → w.Completes s) (hw' : ¬ c → w'.Completes s) :
    (if c then w else w').Completes s := by
  split
  · exact hw ‹_›
  · exact hw' ‹_›

theorem Work.Completes.forM {w : α → Work Unit} : ∀ {xs : List α}, (∀ x ∈ xs, (w x).Completes s) → (xs.forM w).Completes s
  | [], _ => .pure ()
  | x :: _, h => .bind (h x (List.mem_cons_self ..)) fun _ => .forM fun y hy => h y (List.mem_cons_of_mem _ hy)

theorem Work.Completes.mapM {w : α → Work β} : ∀ {xs : List α}, (∀ x ∈ xs, (w x).Completes s) → (xs.mapM w).Completes s
  | [], _ => .pure []
  | x :: xs, h => by
    rw [List.mapM_cons]
    exact .bind (h x (List.mem_cons_self ..)) fun _ => .bind (.mapM fun y hy => h y (List.mem_cons_of_mem _ hy)) fun _ => .pure _

/-- Work that completes, with a last part after it that never stops. -/
theorem Work.Completes.ends {w : Work α} {k : α → Work Unit} (hw : w.Completes s) (hk : ∀ a v, ∃ u, k a v = .ok ((), u)) :
    ∃ u, (w >>= k) s = .ok ((), u) := by
  obtain ⟨a, v, run, -⟩ := hw s rfl
  rw [Work.bind_ok run]
  exact hk a v

end

/-! ## Reads and updates of an operation -/

section
variable {op : Op} {o : Obj} {off n : Nat} {s : State}

/-- Work that goes on from the first byte of a range in reach. -/
theorem Op.Served.reach_bind {α : Type} {kind : AccKind} {k : Nat → Work α} (h : op.Served s kind o off n)
    (hk : ∀ pa, regionOf pa = .hbm ∨ regionOf pa = .slice → (k pa).Completes s) :
    (op.reach o off kind >>= k).Completes s := fun v hv => by
  obtain ⟨pa, reach, region⟩ := (h.of_resolution hv).first
  rw [Work.bind_ok reach]
  exact hk pa region v hv

theorem Op.readPa_completes {pa : Nat} (n : Nat) (hr : regionOf pa = .hbm ∨ regionOf pa = .slice) :
    (op.readPa pa n).Completes s := fun v hv => by
  refine ⟨v.bytes pa n, (v.acceptReads op.tid pa n).accessEnergy op.tile op.ctx pa n, ?_, by simp [hv]⟩
  rcases hr with hr | hr <;> simp only [Op.readPa, hr]

theorem Op.readBytes_completes (h : op.Served s .read o off n) : (op.readBytes o off n).Completes s := by
  refine .bind (.mapM fun p hp v hv => ?_) fun _ => .pure _
  obtain ⟨-, parts⟩ := h.of_resolution hv
  obtain ⟨pa, reach, region⟩ := parts p hp
  rw [Work.bind_ok reach]
  exact Op.readPa_completes p.2 region v hv

theorem Op.unitBytes_completes (h : op.Served s .read o off n) : (op.unitBytes o off n).Completes s := by
  refine h.reach_bind fun pa _ v hv => ?_
  obtain ⟨sound, -⟩ := h.of_resolution hv
  have clean : v.eccAt pa n = false := by rw [State.eccAt, sound]; rfl
  rw [Work.bind_ok (show (get : Work State) v = .ok (v, v) from rfl), clean]
  exact Op.readBytes_completes h v hv

theorem Op.update_completes (bs : List Byte) (h : op.Served s .write o off n) : (op.update o off bs).Completes s :=
  h.reach_bind fun pa region => .change fun v => by rw [State.accessEnergy_resolution, State.perform_resolution _ _ _ region]

end

/-! ## An operation performs (R246) -/

theorem State.withOp_due {s : State} {id : Nat} {op : Op} (h : Due s id op) (k : Op → State) : s.withOp id k = k op := by
  obtain ⟨present, ready⟩ := h
  simp only [State.withOp, present, ready, if_true]

theorem State.withOp_waits {s : State} {id : Nat} (h : ∀ op, Map.get? s.ops id = some op → s.opReady id op = false) (k : Op → State) :
    s.withOp id k = s := by
  unfold State.withOp
  cases ho : Map.get? s.ops id with
  | none => rfl
  | some op => simp only [h op ho, Bool.false_eq_true, if_false]

/-- An event that does the work w at its operation performs so, where w completes in memory that is in reach. -/
theorem performs_of_work {ev : Nat → Instr} {ok : Prop} {w : Work Unit} {s : State} {id : Nat} {op : Op}
    (hx : exec (ev id) s = .next (s.opWork id op w)) (hw : ok → ∃ u, w s = .ok ((), u)) : Performs ev ok w s id op := by
  have does : ∀ u, w s = .ok ((), u) → exec (ev id) s = .next u := fun u h => by rw [hx, State.opWork, h]
  refine ⟨fun h => ?_, does, fun f h => ?_, fun pa h => ?_, fun v h => ?_⟩
  · obtain ⟨u, hu⟩ := hw h
    exact ⟨u, hu, does u hu⟩
  · rw [hx, State.opWork, h]
  · rw [hx, State.opWork, h]
  · rw [hx, State.opWork, h]

end Sys2Proof.Machine
end

section
/-! PROOFS. What the operations of tq do when they perform, and why each completes where its memory is in reach (R177 to R189, R205 to
R212). -/
namespace Sys2Proof.Machine

/-! ## Traversals (R183 to R189) -/

section
variable {s : State} {op : Op}

/-- A node buffer's reads: past its end nothing is read, and all of it is in reach. -/
theorem Op.nodeRead_completes {buf : Obj} (h : ∀ off n, off + n ≤ Obj.field buf 0x10 8 → op.Served s .read buf off n) (off n : Nat) :
    (op.nodeRead buf off n).Completes s := by
  refine .ite (fun _ => .pure _) fun inside => ?_
  exact .bind (op.unitBytes_completes (h off n (by omega))) fun _ =>
    .ite (fun _ => .bind (.change fun v => v.energy_resolution _ _ _ _) fun _ => .pure _) fun _ => .pure _

variable {rd : NodeReader Work} (hrd : ∀ off n, (rd off n).Completes s)
include hrd

theorem walkLeaf_completes (ray : Ray) (any : Bool) : ∀ (n off : Nat) (b : Best), (walkLeaf rd ray any n off b).Completes s
  | 0, _, _ => .pure _
  | n + 1, off, b => by
    rw [walkLeaf]
    refine .bind (hrd off 48) fun x => ?_
    cases x with
    | none => exact .pure _
    | some x =>
      refine .ite (fun _ => .pure _) fun _ => ?_
      dsimp only
      split
      · exact .ite (fun _ => .pure _) fun _ => .ite (fun _ => walkLeaf_completes ray any n _ _) fun _ => walkLeaf_completes ray any n _ _
      · exact walkLeaf_completes ray any n _ _

theorem walk_completes (ray : Ray) (any : Bool) : ∀ (fuel visits : Nat) (todo : List Pending) (b : Best),
    (walk rd ray any fuel visits todo b).Completes s
  | 0, _, _, _ => by rw [walk]; exact .pure _
  | fuel + 1, _, [], _ => by rw [walk]; exact .pure _; nofun
  | fuel + 1, visits, p :: rest, b => by
    rw [walk]
    refine .ite (fun _ => walk_completes ray any fuel _ _ _) fun _ => .ite (fun _ => .ite (fun _ => .pure _) fun _ => ?_) fun _ =>
      .ite (fun _ => .pure _) fun _ => ?_
    · refine .bind (walkLeaf_completes hrd ray any _ _ b) fun x => ?_
      split
      · exact .pure _
      · exact .pure _
      · exact walk_completes ray any fuel _ _ _
    · refine .bind (hrd _ _) fun x => ?_
      cases x with
      | none => exact .pure _
      | some node =>
        dsimp only
        split
        · exact .pure _
        · exact walk_completes ray any fuel _ _ _

theorem traceRay_completes (any : Bool) (ray : Ray) : (traceRay rd any ray).Completes s :=
  .ite (fun _ => .pure _) fun _ => walk_completes hrd ray any _ _ _ _

end

/-! ## Texture words (R177 to R182) -/

section
variable {s : State}

theorem lerp3_completes {A : Bool → Bool → Bool → Work Nat} (hA : ∀ i j k, (A i j k).Completes s) (fx fy fl : FVal) :
    (lerp3 A fx fy fl).Completes s := by
  have layer (k : Bool) {β : Type} {g : Nat → Nat → Nat → Nat → Work β} (hg : ∀ a b c d, (g a b c d).Completes s) :
      (do let a ← A false false k; let b ← A true false k; let c ← A false true k; let d ← A true true k; g a b c d
        : Work β).Completes s :=
    .bind (hA _ _ _) fun _ => .bind (hA _ _ _) fun _ => .bind (hA _ _ _) fun _ => .bind (hA _ _ _) fun _ => hg _ _ _ _
  exact .bind (layer false fun _ _ _ _ => .pure _) fun _ => .bind (layer true fun _ _ _ _ => .pure _) fun _ => .pure _

/-- Of a spectrum of at least one sample, samples below its number are read. -/
theorem Spectrum.at_completes {T : Spectrum} {A : Nat → Work Nat} (hn : 1 ≤ T.n) (hA : ∀ i < T.n, (A i).Completes s) (lam : Nat) :
    (T.at A lam).Completes s := by
  refine .ite (fun _ => .pure _) fun _ => .ite (fun _ => .ite (fun _ => .pure _) fun _ => hA _ (by omega)) fun _ =>
    .ite (fun _ => .ite (fun _ => .pure _) fun _ => hA _ (by omega)) fun _ => .ite (fun _ => hA _ (by omega)) fun one => ?_
  have many : T.n ≠ 1 := fun h => one (by rw [h]; rfl)
  exact .bind (hA _ (by omega)) fun _ => .bind (hA _ (by omega)) fun _ => .pure _

theorem texAddr_lt (wrap : Bool) (x : Int) {w : Nat} (hw : 1 ≤ w) : texAddr wrap x w < w := by
  unfold texAddr
  split
  · have := Int.emod_lt_of_pos x (b := w) (by omega)
    omega
  · omega

/-- The texels of an entry's ranges are in reach of a sampler. -/
def Samples (s : State) (T : Spectrum) (S : Sampler Work) : Prop :=
  1 ≤ T.w ∧ 1 ≤ T.h ∧ 1 ≤ T.l ∧ 1 ≤ T.n ∧ ∀ x < T.w, ∀ y < T.h, ∀ l < T.l, ∀ k < T.n, (S x y l k).Completes s

variable {T : Spectrum} {S : Sampler Work}

theorem Spectrum.fetch_completes (h : Samples s T S) (u v l lam : Nat) : (T.fetch S u v l lam).Completes s := by
  obtain ⟨hw, hh, hl, hn, read⟩ := h
  refine .ite (fun _ => T.at_completes hn (fun _ _ => .pure _) lam) fun _ => T.at_completes hn (fun i hi => lerp3_completes (fun _ _ k =>
    read _ (texAddr_lt _ _ hw) _ (texAddr_lt _ _ hh) _ ?_ i hi) _ _ _) lam
  split <;> omega

theorem stexLanes_completes (h : Samples s T S) (a b : List Nat) : (stexLanes T S a b).Completes s :=
  .mapM fun _ _ => T.fetch_completes h _ _ _ _

theorem scmfLanes_completes (h : Samples s T S) (a b : List Nat) : (scmfLanes T S a b).Completes s :=
  .bind (.mapM fun _ _ => .bind (.mapM fun _ _ => T.fetch_completes h _ _ _ _) fun _ => .pure _) fun _ => .pure _

/-- Both nodes of a channel lie on a grid of at least two (R181). -/
theorem gridNode_lt {g : Nat} (hg : 2 ≤ g) (c : Nat) (upper : Bool) : (gridNode g c).1 + upper.toNat < g := by
  have lower : (gridNode g c).1 ≤ g - 2 := by simp only [gridNode]; omega
  have := upper.toNat_le
  omega

theorem stexupLanes_completes (h : Samples s T S) (hw : 2 ≤ T.w) (square : T.w = T.h) (cubic : T.h = T.l) (hn : T.n = 3) (a b : List Nat) :
    (stexupLanes T S a b).Completes s := by
  obtain ⟨-, -, -, -, read⟩ := h
  have channel (j : Nat) (hj : j < 3) : (lerp3 (fun x y z => S ((gridNode T.w (a.getD 0 0)).1 + x.toNat)
      ((gridNode T.w (a.getD 1 0)).1 + y.toNat) ((gridNode T.w (a.getD 2 0)).1 + z.toNat) j) (Fmt.fp32.val (gridNode T.w (a.getD 0 0)).2)
      (Fmt.fp32.val (gridNode T.w (a.getD 1 0)).2) (Fmt.fp32.val (gridNode T.w (a.getD 2 0)).2)).Completes s :=
    lerp3_completes (fun x y z => read _ (gridNode_lt hw _ x) _ (square ▸ gridNode_lt hw _ y) _ (cubic ▸ square ▸ gridNode_lt hw _ z) j
      (hn ▸ hj)) _ _ _
  exact .bind (channel 0 (by omega)) fun _ => .bind (channel 1 (by omega)) fun _ => .bind (channel 2 (by omega)) fun _ => .pure _

end

theorem spectralOk_sizes {t : Obj} (h : Obj.spectralOk t = true) :
    1 ≤ (Obj.spectrum t).w ∧ 1 ≤ (Obj.spectrum t).h ∧ 1 ≤ (Obj.spectrum t).l ∧ 1 ≤ (Obj.spectrum t).n := by
  simp only [Obj.spectralOk, Bool.and_eq_true, decide_eq_true_eq] at h
  omega

theorem isGrid_sizes {t : Obj} (h : Obj.isGrid t = true) : (Obj.spectrum t).w = (Obj.spectrum t).h ∧
    (Obj.spectrum t).h = (Obj.spectrum t).l ∧ 2 ≤ (Obj.spectrum t).w ∧ (Obj.spectrum t).n = 3 := by
  simp only [Obj.isGrid, Bool.and_eq_true, beq_iff_eq, decide_eq_true_eq] at h
  omega

/-- The samples of an entry whose texels are in reach. -/
theorem Op.sample_completes {s : State} {op : Op} {t b : Obj} (ok : Obj.spectralOk t = true)
    (h : ∀ x < (Obj.spectrum t).w, ∀ y < (Obj.spectrum t).h, ∀ l < (Obj.spectrum t).l, ∀ k < (Obj.spectrum t).n,
      op.Served s .read b ((((l * (Obj.spectrum t).h + y) * (Obj.spectrum t).w + x) * (Obj.spectrum t).n + k) * (Obj.bits t / 8))
        (Obj.bits t / 8)) : Samples s (Obj.spectrum t) (op.sample t b) := by
  obtain ⟨hw, hh, hl, hn⟩ := spectralOk_sizes ok
  exact ⟨hw, hh, hl, hn, fun x hx y hy l hl k hk => .bind (op.unitBytes_completes (h x hx y hy l hl k hk)) fun _ => .pure _⟩

/-! ## The film and the rasteriser (R205 to R211) -/

section
variable {s : State} {op : Op}

theorem Op.deposit_completes {o : Obj} (h : ∀ x ∈ filmDeposits o (op.args.map BitVec.toNat),
    op.Served s .read o (Obj.channel o ((op.args.map BitVec.toNat).getD 0 0) x.1) 8 ∧
      op.Served s .write o (Obj.channel o ((op.args.map BitVec.toNat).getD 0 0) x.1) 8) : (op.deposit o).Completes s := by
  refine .bind (.forM fun x hx => ?_) fun _ => .change fun v => v.energy_resolution _ _ _ _
  obtain ⟨read, write⟩ := h x hx
  exact .bind (op.unitBytes_completes read) fun _ => op.update_completes _ write

theorem rastSamples_lt {vis : Obj} {bs : List Byte} {x : Nat × Nat} (h : x ∈ rastSamples vis bs) : x.1 < Obj.visCount vis := by
  simp only [rastSamples, List.mem_filterMap, List.mem_range, Option.map_eq_some_iff] at h
  obtain ⟨i, hi, z, -, rfl⟩ := h
  exact hi

theorem Op.rastRecord_completes {records vis store : Obj} {k : Nat} (hr : op.Served s .read records (48 * k) 48)
    (hs : ∀ i < Obj.visCount vis, op.Served s .read store (16 * i) 16 ∧ op.Served s .write store (16 * i) 16) :
    (op.rastRecord records vis store k).Completes s := by
  refine .bind (op.unitBytes_completes hr) fun bs => .forM fun x hx => ?_
  obtain ⟨read, write⟩ := hs x.1 (rastSamples_lt hx)
  exact .bind (op.unitBytes_completes read) fun _ => .ite (fun _ => op.update_completes _ write) fun _ => .pure _

end

/-! ## A FILM.ADD of a context that is out (R157, R212) -/

section
variable {s : State} {id token : Nat} {x : Image} {op : Op} {f : FilmAddForm} {o : Obj} (hi : op.instr = .filmAdd f) (ho : op.objs = [o])
  (scope : Obj.scope o = 1)
include hi ho scope

theorem filmOut_held (keep : x.keep = false) : s.filmOut token id x op =
    State.holdUpdate { s with images := Map.set s.images token { x with ops := Map.del x.ops id } } op.cell
      { ctx := ((s.anyCell op.cell).map Cell.ctx).getD op.ctx, cell := op.cell, film := some op } := by
  simp only [State.filmOut, hi, ho]
  rw [if_neg (not_not.2 scope), if_neg (Bool.eq_false_iff.1 keep)]

theorem filmOut_kept {u : State} (keep : x.keep = true)
    (h : op.deposit o { s with images := Map.set s.images token { x with ops := Map.del x.ops id } } = .ok ((), u)) :
    s.filmOut token id x op = u := by
  simp only [State.filmOut, hi, ho]
  rw [if_neg (not_not.2 scope), if_pos keep, h]

end

/-! ## The obligation -/

/-- An event that does the work w at an operation of a word performs it so, where that work completes. -/
theorem performsAs_of_work {ev : Nat → Instr} {k : Nat → State → Op → State} {i : Instr} {os : List Obj} {ok : State → Op → Prop}
    {w : Nat → Op → Work Unit} (hx : ∀ id s, exec (ev id) s = .next (s.withOp id (k id s)))
    (hk : ∀ id s op, op.instr = i → op.objs = os → k id s op = s.opWork id op (w id op))
    (hw : ∀ id s op, ok s op → ∃ u, w id op s = .ok ((), u)) : PerformsAs ev (fun op => op.instr = i ∧ op.objs = os) ok w :=
  fun s id op due ⟨hi, ho⟩ => performs_of_work (by rw [hx, State.withOp_due due, hk id s op hi ho]) (hw id s op)

/-- An event that looks for its operation does nothing where it is not there or may not perform. -/
theorem waits_of_withOp {ev : Nat → Instr} {k : Nat → State → Op → State} (hx : ∀ id s, exec (ev id) s = .next (s.withOp id (k id s))) :
    Waits ev := fun s id h => by rw [hx, State.withOp_waits h]

/-- The deposit of a FILM.ADD whose context is in. -/
def State.filmIn (s : State) (id : Nat) (op : Op) : State :=
  match op.instr, op.objs with
  | .filmAdd _, [o] => s.opWork id op do
      op.deposit o
      modify fun s => (s.dropOp id).finishOpEntries id
  | _, _ => s

theorem exec_filmAddPerform_in {s : State} {id : Nat} (h : s.savedFilm id = none) :
    exec (.filmAddPerform id) s = .next (s.withOp id (s.filmIn id)) := by
  show Host.Outcome.next _ = _
  rw [h]
  rfl

theorem exec_filmAddPerform_out {s : State} {id token : Nat} {x : Image} {op : Op} (h : s.savedFilm id = some (token, x, op)) :
    exec (.filmAddPerform id) s = .next (s.filmOut token id x op) := by
  show Host.Outcome.next _ = _
  rw [h]

/-- Settles O41: each event does its unit's work at an operation of its word, and that work completes where its memory is in reach. -/
theorem traversalUnitPerforms : Obligations.TraversalUnitPerforms := by
  refine ⟨fun f h n => ?trace, fun f h n => ?tracea, fun f t b => ?stex, fun f t b => ?stexup, fun f t b => ?scmf,
    fun s id op f o present due hi ho => ?filmAdd, fun _ _ => rfl, fun s id token x op f o saved hi ho scope => ?filmOut, fun f o => ?filmRd,
    fun f r v b => ?rast, fun f v b => ?visrd, fun s id present h => ?filmWaits, waits_of_withOp fun _ _ => rfl,
    waits_of_withOp fun _ _ => rfl, waits_of_withOp fun _ _ => rfl, waits_of_withOp fun _ _ => rfl, waits_of_withOp fun _ _ => rfl,
    waits_of_withOp fun _ _ => rfl, waits_of_withOp fun _ _ => rfl⟩
  case trace =>
    exact performsAs_of_work (fun _ _ => rfl) (fun id s op hi ho => by simp only [hi, ho]) fun id s op reach =>
      (traceRay_completes (op.nodeRead_completes reach) _ _).ends fun _ _ => ⟨_, rfl⟩
  case tracea =>
    exact performsAs_of_work (fun _ _ => rfl) (fun id s op hi ho => by simp only [hi, ho]) fun id s op reach =>
      (traceRay_completes (op.nodeRead_completes reach) _ _).ends fun _ _ => ⟨_, rfl⟩
  case stex =>
    refine performsAs_of_work (fun _ _ => rfl) (fun id s op hi ho => by simp only [hi, ho]; rfl) fun id s op ⟨ok, _, texels⟩ => ?_
    exact (stexLanes_completes (op.sample_completes ok texels) _ _).ends fun _ _ => ⟨_, rfl⟩
  case stexup =>
    refine performsAs_of_work (fun _ _ => rfl) (fun id s op hi ho => by simp only [hi, ho]; rfl) fun id s op ⟨ok, grid, texels⟩ => ?_
    obtain ⟨square, cubic, two, three⟩ := isGrid_sizes grid
    exact (stexupLanes_completes (op.sample_completes ok texels) two square cubic three _ _).ends fun _ _ => ⟨_, rfl⟩
  case scmf =>
    refine performsAs_of_work (fun _ _ => rfl) (fun id s op hi ho => by simp only [hi, ho]; rfl) fun id s op ⟨ok, _, texels⟩ => ?_
    exact (scmfLanes_completes (op.sample_completes ok texels) _ _).ends fun _ _ => ⟨_, rfl⟩
  case filmAdd =>
    refine performs_of_work ?_ fun reach => (op.deposit_completes reach).ends fun _ _ => ⟨_, rfl⟩
    rw [exec_filmAddPerform_in present, State.withOp_due due]
    simp only [State.filmIn, hi, ho]
  case filmOut =>
    exact ⟨fun keep => by rw [exec_filmAddPerform_out saved, filmOut_held hi ho scope keep],
      fun u keep h => by rw [exec_filmAddPerform_out saved, filmOut_kept hi ho scope keep h]⟩
  case filmRd =>
    exact performsAs_of_work (fun _ _ => rfl) (fun id s op hi ho => by simp only [hi, ho]) fun id s op reach =>
      (op.unitBytes_completes reach).ends fun _ _ => ⟨_, rfl⟩
  case rast =>
    refine performsAs_of_work (fun _ _ => rfl) (fun id s op hi ho => by simp only [hi, ho]) fun id s op ⟨records, samples⟩ => ?_
    exact (Work.Completes.forM fun k hk => op.rastRecord_completes (records k (List.mem_range.1 hk)) samples).ends fun _ _ => ⟨_, rfl⟩
  case visrd =>
    exact performsAs_of_work (fun _ _ => rfl) (fun id s op hi ho => by simp only [hi, ho]) fun id s op reach =>
      (op.unitBytes_completes reach).ends fun _ _ => ⟨_, rfl⟩
  case filmWaits => rw [exec_filmAddPerform_in present, State.withOp_waits h]

end Sys2Proof.Machine
end

section
/-! PROOFS. The words of tq and of the Caster check what they name and then enter their queue (R175 to R189, R204 to R211, R238, R247 to
R253). -/
namespace Sys2Proof.Machine

/-! ## Checks leave every thread and every cell as it is (R238) -/

/-- The threads and the cells. -/
def State.population (s : State) : Map Thread × Map Cell := (s.threads, s.cells)

theorem State.tableWord_population (s : State) (pa : Nat) : (s.tableWord pa).2.population = s.population := by
  unfold State.tableWord
  split
  · rfl
  · rfl
  · simp only [State.mmioRead]
    split <;> rfl
  · rfl

theorem State.walkRead_population (s : State) (die ctx level pa : Nat) : (s.walkRead die ctx level pa).2.population = s.population := by
  unfold State.walkRead
  split
  · rfl
  · exact s.tableWord_population pa

theorem State.walk_population {die ctx va : Nat} {kind : AccKind} : ∀ (fuel level table : Nat) (s : State),
    (s.walk die ctx va kind fuel level table).2.population = s.population
  | 0, _, _, _ => rfl
  | fuel + 1, level, table, s => by
    have read := s.walkRead_population die ctx level (table + 8 * (va / 2 ^ levelShift level % levelEntries level))
    simp only [State.walk]
    generalize s.walkRead die ctx level (table + 8 * (va / 2 ^ levelShift level % levelEntries level)) = r at read ⊢
    have deeper := State.walk_population (die := die) (ctx := ctx) (va := va) (kind := kind) fuel (level + 1)
      (r.1 / 2 ^ 12 % 2 ^ 40 * 2 ^ 12) r.2
    split
    · split <;> exact read
    · split
      · exact read
      · split
        · split <;> exact read
        · split
          · rename_i hw
            rw [hw] at deeper
            exact deeper.trans read
          · exact deeper.trans read

theorem State.keepWalk_population (s : State) (die : Nat) (es : List WalkEntry) : (s.keepWalk die es).population = s.population := by
  simp only [State.keepWalk]
  split <;> rfl

theorem State.translateAs_population (s : State) (priv : Bool) (tile ctx va : Nat) (kind : AccKind) :
    (s.translateAs priv tile ctx va kind).2.population = s.population := by
  cases he : s.tlbEntry tile ctx va with
  | some e => rw [translateAs_hit he]
  | none =>
    rcases translateAs_miss (priv := priv) (kind := kind) he with hx | ⟨root, hx⟩
    · rw [hx]
    · have walked := State.walk_population (die := dieOf tile) (ctx := ctx) (va := va) (kind := kind) 4 0 root s
      rw [hx, State.walkFill]
      split
      · rename_i hw
        rw [hw] at walked
        exact walked
      · rename_i hw
        rw [hw] at walked
        split
        · exact (State.keepWalk_population ..).trans walked
        · exact walked

theorem State.accessEnergy_population (s : State) (tile ctx pa n : Nat) : (s.accessEnergy tile ctx pa n).population = s.population := by
  unfold State.accessEnergy
  split <;> rfl

theorem State.tagFor_population (s : State) (ctx pa : Nat) : (s.tagFor ctx pa).2.population = s.population := by
  unfold State.tagFor
  split
  · rfl
  · dsimp only
    split
    · rfl
    · split
      · split
        · simp [State.population]
        · rfl
      · rfl

theorem State.putTag_population (s : State) (pa : Nat) (tag : Tag) : (s.putTag pa tag).population = s.population := by
  unfold State.putTag
  split <;> rfl

theorem State.raceCheck_population (s : State) (t : Thread) (pa size : Nat) (nrd asWrite atomic : Bool) :
    (s.raceCheck t pa size nrd asWrite atomic).2.population = s.population := by
  have tag := s.tagFor_population t.ctx pa
  simp only [State.raceCheck]
  split
  · rfl
  · split
    · exact tag
    · exact (State.putTag_population ..).trans tag

/-- Work that, where it ends, leaves the threads and the cells as they are. -/
def Work.Keeps {α : Type} (w : Work α) : Prop := ∀ s a u, w s = .ok (a, u) → u.population = s.population

theorem Work.bind_ok_iff {α β : Type} {w : Work α} {k : α → Work β} {s u : State} {b : β} :
    (w >>= k) s = .ok (b, u) ↔ ∃ a v, w s = .ok (a, v) ∧ k a v = .ok (b, u) := by
  cases h : w s with
  | error e => simp [Bind.bind, StateT.bind, Except.bind, h]
  | ok x =>
    obtain ⟨a, v⟩ := x
    rw [Work.bind_ok h]
    simp

theorem Work.Keeps.pure {α : Type} (a : α) : (Pure.pure a : Work α).Keeps := fun _ _ _ h => by
  cases h
  rfl

theorem Work.Keeps.get : (get : Work State).Keeps := fun _ _ _ h => by
  cases h
  rfl

theorem Work.Keeps.bind {α β : Type} {w : Work α} {k : α → Work β} (hw : w.Keeps) (hk : ∀ a, (k a).Keeps) : (w >>= k).Keeps :=
  fun _ _ _ h => by
    obtain ⟨a, v, first, rest⟩ := Work.bind_ok_iff.1 h
    exact (hk a _ _ _ rest).trans (hw _ _ _ first)

theorem Work.Keeps.forM {α : Type} {w : α → Work Unit} (h : ∀ x, (w x).Keeps) : ∀ xs : List α, (xs.forM w).Keeps
  | [] => .pure ()
  | x :: xs => .bind (h x) fun _ => .forM h xs

theorem readEntry_keeps (tile ctx idx : Nat) : (readEntry tile ctx idx).Keeps := fun s o u h => by
  unfold readEntry at h
  split at h
  · cases h
  · split at h
    · cases h
    · split at h
      · cases h
        rfl
      · rename_i c _ _ _ _
        have moved := s.translateAs_population true tile ctx (c.entryVa idx) .read
        dsimp only at h
        split at h
        · cases h
        · cases h
        · rename_i hx
          rw [hx] at moved
          split at h
          · cases h
          · cases h
            exact (State.accessEnergy_population ..).trans moved

theorem checkEntry_keeps (tile ctx idx : Nat) (kinds : List ObjKind) (rights : Nat) : (checkEntry tile ctx idx kinds rights).Keeps :=
  fun _ _ _ h => readEntry_keeps _ _ _ _ _ _ (checkEntry_iff.1 h).1

theorem Lane.reachObj_keeps (l : Lane) (o : Obj) (off : Nat) (kind : AccKind) : (l.reachObj o off kind).Keeps := fun s a u h => by
  unfold Lane.reachObj at h
  split at h
  · split at h
    · cases h
      rfl
    · cases h
  · have moved := s.translateAs_population (s.privileged l.th.ctx) l.th.tile l.th.ctx ((Obj.base o + off) % 2 ^ 52) kind
    dsimp only [State.translate] at h
    split at h
    · rename_i hx
      rw [hx] at moved
      split at h
      · cases h
      · cases h
        exact moved
    · cases h
    · cases h

theorem Lane.checkUpdate_keeps (l : Lane) (o : Obj) (off n : Nat) (asWrite : Bool) : (l.checkUpdate o off n asWrite).Keeps := by
  refine .bind (l.reachObj_keeps _ _ _) fun r s a u h => ?_
  have raced := s.raceCheck_population l.th r.1 n r.2 asWrite true
  rw [Work.bind_ok (show (get : Work State) s = .ok (s, s) from rfl)] at h
  generalize s.raceCheck l.th r.1 n r.2 asWrite true = x at raced h
  obtain ⟨conflict, v⟩ := x
  cases conflict with
  | true => cases h
  | false =>
    cases h
    exact raced

theorem Lane.checkRast_keeps (l : Lane) (i : Instr) (records vis store : Obj) (first n : Nat) :
    (l.checkRast i records vis store first n).Keeps := by
  refine .forM (fun k => .bind .get fun s => ?_) _
  dsimp only
  split
  · exact .forM (fun x => l.checkUpdate_keeps _ _ _ _) _
  · exact .pure ()

theorem Checks.population {s u : State} {l : Lane} {idx rights : Nat} {kinds : List ObjKind} {o : Obj}
    (h : Checks s l idx kinds rights o u) : u.population = s.population := checkEntry_keeps _ _ _ _ _ _ _ _ h

/-! ## Checks that pass (R238) -/

section
variable {s u : State}

theorem Work.within_ok {b : Bool} (idx : Nat) (h : b = true) : Work.within b idx s = .ok ((), s) := by
  rw [h]
  rfl

theorem Work.legal_ok {b : Bool} (h : b = true) : Work.legal b s = .ok ((), s) := by
  rw [h]
  rfl

theorem Work.forM_ok {α : Type} {w : α → Work Unit} : ∀ {xs : List α}, (∀ x ∈ xs, w x s = .ok ((), s)) →
    xs.forM w s = .ok ((), s)
  | [], _ => rfl
  | x :: _, h => (Work.bind_ok (h x (List.mem_cons_self ..))).trans (Work.forM_ok fun y hy => h y (List.mem_cons_of_mem _ hy))

theorem checkCount_ok {o : Obj} {n : Nat} (h : Obj.count? o = some n) : checkCount o s = .ok (n, s) := by
  rw [checkCount, h]
  rfl

theorem Fits.of_population {l : Lane} {o : Obj} {off n : Nat} (h : Fits s l o off n) (hp : u.population = s.population) :
    Fits u l o off n := by
  have cells : u.sliceLen l.th.cell = s.sliceLen l.th.cell := by rw [State.sliceLen, (Prod.mk.inj hp).2, State.sliceLen]
  rw [Fits, cells]
  exact h

theorem checkFootprint_ok {l : Lane} {o : Obj} {off n : Nat} (h : Fits s l o off n) : checkFootprint l.th.cell o off n s = .ok ((), s) := by
  obtain ⟨extent, slice⟩ := h
  have held : (Obj.scope o != 1 || decide (Obj.base o + off + n ≤ s.sliceLen l.th.cell)) = true := by
    rw [Bool.or_eq_true, bne_iff_ne, decide_eq_true_eq]
    exact (em (Obj.scope o = 1)).symm.imp_right slice
  unfold checkFootprint
  rw [Work.bind_ok (show (get : Work State) s = .ok (s, s) from rfl)]
  refine (Work.bind_ok (Work.within_ok _ ?_)).trans (Work.within_ok _ held)
  simp only [Obj.isKind, beq_iff_eq] at extent
  split
  · rename_i kind
    exact decide_eq_true (extent (.inl kind))
  · rename_i kind
    exact decide_eq_true (extent (.inr kind))
  · rfl

end

/-! ## A word that enters its queue (R244) -/

section
variable {s v : State} {iss : Issue} {l : Lane} {i : Instr} {q bytes : Nat} {objs : List Obj} {args : List Word}

/-- A thread that issues is there in every state with the same threads, and its word is submitted. -/
theorem submit_of_population (solo : Solo s iss i l) (hp : v.population = s.population) :
    ∃ id u, submit iss i l s.nextId q objs args bytes v = .ok (id, u) := by
  obtain ⟨-, -, -, ht, -⟩ := solo
  have here : v.thread? l.tid = some l.th := by rw [State.thread?, (Prod.mk.inj hp).1]; exact ht
  obtain ⟨u, -, h, -⟩ := submit_ok here
  exact ⟨_, u, h⟩

/-- A word whose work comes to its submission, the checks before it passed, enters its queue. -/
theorem enters_of_work {w : Issue → Nat → Lane → Work Unit} (hx : ∀ s, exec i s = .next (s.eachLane i w)) (solo : Solo s iss i l)
    (hp : v.population = s.population)
    (hw : w iss s.nextId l s.issuing = (submit iss i l s.nextId q objs args bytes >>= fun _ => pure ()) v) :
    Enters s iss i l v q objs args bytes := by
  obtain ⟨id, u, h⟩ := submit_of_population solo hp
  exact ⟨id, u, h, eachLane_acts hx s iss l u solo (by rw [hw, Work.bind_ok h]; rfl)⟩

theorem Claimed.population (h : Claimed s iss l v) : v.population = s.population := by
  obtain ⟨-, rfl⟩ := h
  obtain ⟨tiles, claimed⟩ := claimAnvil_same s (s.homeTile l.th) iss.ctx
  rw [claimed]
  rfl

/-- A word of the Anvil in the state that it has claimed (R250). -/
theorem anvil_of_work {u : State} {w : Issue → Nat → Lane → Work Unit} (hx : ∀ s, exec i s = .next (s.anvilLanes i w))
    (solo : Solo s iss i l) (claimed : Claimed s iss l v) (hw : w iss s.nextId l v = .ok ((), u)) :
    exec i s = .next (u.goesOn iss s.nextId) := by
  obtain ⟨free, rfl⟩ := claimed
  obtain ⟨-, acts⟩ := anvil_acts hx s iss l solo
  exact acts free u hw

end

/-! ## The words of tq (R175, R177, R204, R209 to R211) -/

section
variable {s s1 s2 : State} {iss : Issue} {l : Lane} {i : Instr}

theorem trace_enters {f : TraceForm} {h n : Obj} (hx : ∀ s, exec i s = .next (s.eachLane i (traceWork i f))) (solo : Solo s iss i l)
    (hier : Checks s.issuing l (f.obj.getD 0).toNat [.hier] rightR h s1) (nodes : Checks s1 l (Obj.hierNodes h) [.buffer] rightR n s2)
    (fits : Fits s2 l n 0 (Obj.field n 0x10 8)) : Enters s iss i l s2 5 [h, n] l.cap.words 0 :=
  enters_of_work hx solo (nodes.population.trans hier.population) (by
    rw [traceWork, Work.bind_ok hier, Work.bind_ok nodes, Work.bind_ok (checkFootprint_ok fits)])

theorem texture_enters {f : StexForm} {shape : Obj → Bool} {t b : Obj}
    (hx : ∀ s, exec i s = .next (s.eachLane i (stexWork i f shape))) (solo : Solo s iss i l)
    (entry : Checks s.issuing l (f.obj.getD 0).toNat [.spectral] rightT t s1) (texels : Checks s1 l (Obj.texels t) [.buffer] rightR b s2)
    (ok : Obj.spectralOk t = true) (form : shape t = true) (fits : Fits s2 l b 0 (Obj.texelBytes t)) :
    Enters s iss i l s2 5 [t, b] l.cap.words 0 :=
  enters_of_work hx solo (texels.population.trans entry.population) (by
    rw [stexWork, Work.bind_ok entry, Work.bind_ok texels, Work.bind_ok (Work.within_ok _ (by rw [ok, form]; rfl)),
      Work.bind_ok (checkFootprint_ok fits)])

theorem filmOf_ok {idx rights : Nat} {o : Obj} (entry : Checks s l idx [.film] rights o s1) (ok : Obj.filmOk o = true)
    (fits : Fits s1 l o 0 (Obj.filmPixels o * Obj.filmBins o * 8)) : filmOf l idx rights s = .ok (o, s1) := by
  rw [filmOf, Work.bind_ok entry, Work.bind_ok (Work.within_ok _ ok), Work.bind_ok (checkFootprint_ok fits)]
  rfl

theorem visOf_ok {idx rights : Nat} {v b : Obj} (entry : Checks s l idx [.visbuf] 0 v s1)
    (store : Checks s1 l (Obj.visStore v) [.buffer] rights b s2) (ok : Obj.visOk v = true) (fits : Fits s2 l b 0 (16 * Obj.visCount v)) :
    visOf l idx rights s = .ok ((v, b), s2) := by
  rw [visOf, Work.bind_ok entry, Work.bind_ok store, Work.bind_ok (Work.within_ok _ ok), Work.bind_ok (checkFootprint_ok fits)]
  rfl

end

/-! ## The words of the Caster (R247 to R253) -/

/-- What is left of a copy's checks and its submission, its objects found. -/
def castRest (i : Instr) (f : CastForm) (iss : Issue) (no : Nat) (l : Lane) (src dst : Obj) (bar : List Obj) : Work Unit := do
  let ns ← checkCount src
  let nd ← checkCount dst
  Work.within (ns == nd) dst.1
  checkFootprint l.th.cell src 0 (Obj.span src)
  checkFootprint l.th.cell dst 0 (Obj.span dst)
  bar.forM fun b => checkFootprint l.th.cell b 0 16
  match castWidth i with
  | none => pure ()
  | some w => Work.legal (Obj.bits src == w && Obj.bits dst == w && Obj.transposable src)
  let _ ← submit iss i l no f.q.toNat (src :: dst :: bar) l.cap.words ((nd * Obj.bits dst + 7) / 8)

section
variable {i : Instr} {f : CastForm} {iss : Issue} {no : Nat} {l : Lane} {s s1 s2 s3 : State} {src dst b : Obj}

/-- A copy without a barrier finds its two objects. -/
theorem castWork_bare (hv : f.v = 0) (hs : Checks s l (f.obj.getD 0).toNat copyKinds (rightR + rightC) src s1)
    (hd : Checks s1 l f.o.toNat copyKinds (rightW + rightC) dst s2) :
    castWork i f iss no l s = castRest i f iss no l src dst [] s2 := by
  simp only [castWork, if_pos hv]
  rw [Work.bind_ok (Work.legal_ok (b := 0 / 2 ^ 16 == 0) rfl), Work.bind_ok hs, Work.bind_ok hd]
  rfl

/-- A copy with a barrier finds that too. -/
theorem castWork_barrier (hv : f.v ≠ 0) (legal : l.a < 2 ^ 16)
    (hs : Checks s l (f.obj.getD 0).toNat copyKinds (rightR + rightC) src s1)
    (hd : Checks s1 l f.o.toNat copyKinds (rightW + rightC) dst s2) (hb : Checks s2 l l.a [.barrier] rightW b s3) :
    castWork i f iss no l s = castRest i f iss no l src dst [b] s3 := by
  simp only [castWork, if_neg hv]
  rw [Work.bind_ok (Work.legal_ok (by rw [Nat.div_eq_of_lt legal]; rfl)), Work.bind_ok hs, Work.bind_ok hd, Work.bind_ok hb]
  rfl

theorem castRest_submits {n : Nat} {bar : List Obj} (hs : Obj.count? src = some n) (hd : Obj.count? dst = some n)
    (fits : Fits s l src 0 (Obj.span src)) (fitd : Fits s l dst 0 (Obj.span dst)) (fitb : ∀ b ∈ bar, Fits s l b 0 16)
    (wide : ∀ w, castWidth i = some w → Obj.bits src = w ∧ Obj.bits dst = w ∧ Obj.transposable src = true) :
    castRest i f iss no l src dst bar s =
      (submit iss i l no f.q.toNat (src :: dst :: bar) l.cap.words ((n * Obj.bits dst + 7) / 8) >>= fun _ => pure ()) s := by
  rw [castRest, Work.bind_ok (checkCount_ok hs), Work.bind_ok (checkCount_ok hd), Work.bind_ok (Work.within_ok _ (beq_self_eq_true n)),
    Work.bind_ok (checkFootprint_ok fits), Work.bind_ok (checkFootprint_ok fitd),
    Work.bind_ok (Work.forM_ok fun b hb => checkFootprint_ok (fitb b hb))]
  cases hw : castWidth i with
  | none => rfl
  | some w =>
    obtain ⟨hs, hd, ht⟩ := wide w hw
    exact Work.bind_ok (Work.legal_ok (by simp [hs, hd, ht]))

/-- A copy whose checks pass enters its queue, with its barrier where it names one. -/
theorem cast_enters (hx : ∀ s, exec i s = .next (s.eachLane i (castWork i f))) {n : Nat} (solo : Solo s iss i l)
    (hs : Checks s.issuing l (f.obj.getD 0).toNat copyKinds (rightR + rightC) src s1)
    (hd : Checks s1 l f.o.toNat copyKinds (rightW + rightC) dst s2) (cs : Obj.count? src = some n) (cd : Obj.count? dst = some n)
    (fits : Fits s2 l src 0 (Obj.span src)) (fitd : Fits s2 l dst 0 (Obj.span dst))
    (wide : ∀ w, castWidth i = some w → Obj.bits src = w ∧ Obj.bits dst = w ∧ Obj.transposable src = true) :
    (f.v = 0 → Enters s iss i l s2 f.q.toNat [src, dst] l.cap.words ((n * Obj.bits dst + 7) / 8)) ∧
    ∀ b s3, f.v ≠ 0 → l.a < 2 ^ 16 → Checks s2 l l.a [.barrier] rightW b s3 → Fits s3 l b 0 16 →
      Enters s iss i l s3 f.q.toNat [src, dst, b] l.cap.words ((n * Obj.bits dst + 7) / 8) := by
  have found := hd.population.trans hs.population
  refine ⟨fun hv => enters_of_work hx solo found ?_, fun b s3 hv legal hb fitb => enters_of_work hx solo (hb.population.trans found) ?_⟩
  · rw [castWork_bare hv hs hd, castRest_submits cs cd fits fitd (fun _ hb => absurd hb List.not_mem_nil) wide]
  · rw [castWork_barrier hv legal hs hd hb, castRest_submits cs cd (fits.of_population hb.population) (fitd.of_population hb.population)
      (fun x hx => by rw [List.mem_singleton.1 hx]; exact fitb) wide]

end

/-- A weight load's submission and its stamp, its checks passed. -/
def castwRest (i : Instr) (cb3 : Bool) (f : CastwForm) (iss : Issue) (no : Nat) (l : Lane) (src : Obj) : Work Unit := do
  let _ ← submit iss i l no f.q.toNat [src] l.cap.words (if cb3 then 48 * castwCols l.a else 16 * Obj.bits src * castwCols l.a)
  modify fun s => s.stampSlot l.th (castwSlot l.a) (if cb3 then stampCb3 else Obj.fmtCode src)

section
variable {i : Instr} {f : CastwForm} {iss : Issue} {no : Nat} {l : Lane} {s v s1 : State} {src : Obj}

theorem castwWork_dense (legal : castwLegal l.a = true) (hs : Checks v l (f.obj.getD 0).toNat copyKinds (rightR + rightC) src s1)
    (count : Obj.count? src = some (castwCols l.a * 128)) (fits : Fits s1 l src 0 (Obj.span src))
    (format : weightFormat (Obj.fmtCode src) = true) : castwWork i false f iss no l v = castwRest i false f iss no l src s1 := by
  simp only [castwWork, Bool.false_eq_true, if_false]
  rw [Work.bind_ok (Work.legal_ok legal), Work.bind_ok hs, Work.bind_ok (checkCount_ok count),
    Work.bind_ok (Work.within_ok _ (beq_self_eq_true _)), Work.bind_ok (checkFootprint_ok fits), Work.bind_ok (Work.legal_ok format)]
  rfl

theorem castwWork_cb3 (legal : castwLegal l.a = true) (hs : Checks v l (f.obj.getD 0).toNat [.buffer] (rightR + rightC) src s1)
    (fits : Fits s1 l src 0 (48 * castwCols l.a)) : castwWork i true f iss no l v = castwRest i true f iss no l src s1 := by
  simp only [castwWork, if_true]
  rw [Work.bind_ok (Work.legal_ok legal), Work.bind_ok hs, Work.bind_ok (checkFootprint_ok fits)]
  rfl

/-- A weight load whose checks pass enters its queue and stamps its slot. -/
theorem castw_loads {cb3 : Bool} (hx : ∀ s, exec i s = .next (s.anvilLanes i (castwWork i cb3 f))) (solo : Solo s iss i l)
    (claimed : Claimed s iss l v) (hp : s1.population = v.population)
    (hw : castwWork i cb3 f iss s.nextId l v = castwRest i cb3 f iss s.nextId l src s1) :
    ∃ id u, submit iss i l s.nextId f.q.toNat [src] l.cap.words
        (if cb3 then 48 * castwCols l.a else 16 * Obj.bits src * castwCols l.a) s1 = .ok (id, u) ∧
      exec i s = .next ((u.stampSlot l.th (castwSlot l.a) (if cb3 then stampCb3 else Obj.fmtCode src)).goesOn iss s.nextId) := by
  obtain ⟨id, u, h⟩ := submit_of_population solo (hp.trans claimed.population)
  exact ⟨id, u, h, anvil_of_work hx solo claimed (by rw [hw, castwRest, Work.bind_ok h]; rfl)⟩

end

theorem casttab_enters {f : CasttabForm} {s v s1 : State} {iss : Issue} {l : Lane} {src : Obj} (solo : Solo s iss (.casttab f) l)
    (claimed : Claimed s iss l v) (legal : casttabLegal l.a = true)
    (hs : Checks v l (f.obj.getD 0).toNat [.buffer] (rightR + rightC) src s1) (fits : Fits s1 l src l.b 16) :
    Enters s iss (.casttab f) l s1 f.q.toNat [src] l.cap.words 16 := by
  obtain ⟨id, u, h⟩ := submit_of_population solo (hs.population.trans claimed.population)
  refine ⟨id, u, h, anvil_of_work (fun _ => rfl) solo claimed ?_⟩
  rw [casttabWork, Work.bind_ok (Work.legal_ok legal), Work.bind_ok hs, Work.bind_ok (checkFootprint_ok fits), Work.bind_ok h]
  rfl

/-- CASTW's register: a slot below 32 and 1 to 128 columns, its other bits zero (R251). -/
theorem castwLegal_iff (v : Nat) : castwLegal v = true ↔
    v < 2 ^ 24 ∧ v / 2 ^ 8 % 256 = 0 ∧ v / 2 ^ 16 < 32 ∧ 1 ≤ v % 256 ∧ v % 256 ≤ 128 := by
  simp only [castwLegal, Bool.and_eq_true, beq_iff_eq, decide_eq_true_eq]
  unfold castwSlot castwCols
  omega

/-- CASTTAB's register: a slot below 32, its reserved bits zero (R251). -/
theorem casttabLegal_iff (v : Nat) : casttabLegal v = true ↔ v / 2 ^ 16 < 32 ∧ v / 2 ^ 10 % 64 = 0 ∧ v.testBit 7 = false := by
  simp only [casttabLegal, Nat.testBit_eq_decide_div_mod_eq, Bool.and_eq_true, beq_iff_eq, decide_eq_true_eq, decide_eq_false_iff_not]
  unfold casttabSlot
  omega

/-! ## The obligation -/

/-- A word that works in each lane acts as its work does, and raises what its work finds wrong. -/
theorem eachLane_acts_traps {i : Instr} {w : Issue → Nat → Lane → Work Unit} (hx : ∀ s, exec i s = .next (s.eachLane i w)) :
    Acts i w ∧ WorkTraps i w := ⟨eachLane_acts hx, eachLane_traps hx⟩

/-- Settles O35: the checks of each word leave its thread where it is, so that a word whose checks pass enters its queue. -/
theorem traversalUnitAndCasterWords : Obligations.TraversalUnitAndCasterWords := by
  refine ⟨⟨fun f => ⟨eachLane_acts_traps fun _ => rfl, fun s iss l h s1 n s2 => trace_enters fun _ => rfl⟩,
    fun f => ⟨eachLane_acts_traps fun _ => rfl, fun s iss l h s1 n s2 => trace_enters fun _ => rfl⟩,
    fun f => ⟨eachLane_acts_traps fun _ => rfl, fun s iss l t s1 b s2 => texture_enters (shape := fun _ => true) fun _ => rfl⟩,
    fun f => ⟨eachLane_acts_traps fun _ => rfl, fun s iss l t s1 b s2 => texture_enters fun _ => rfl⟩,
    fun f => ⟨eachLane_acts_traps fun _ => rfl, fun s iss l t s1 b s2 => texture_enters fun _ => rfl⟩,
    fun f => eachLane_acts_traps fun _ => rfl, fun f => eachLane_acts_traps fun _ => rfl, fun f => eachLane_acts_traps fun _ => rfl,
    fun f => eachLane_acts_traps fun _ => rfl, fun f s iss l o s1 s2 solo ⟨entry, ok, fits⟩ pixel race => ?filmAdd,
    fun f s iss l o s1 s2 solo ⟨entry, ok, fits⟩ pixel bin race => ?filmRd,
    fun f s iss l p s1 r s2 v b s3 s4 solo prim records least most fits ⟨s', vis, store, ok, fitb⟩ range race => ?rast,
    fun f s iss l v b s1 s2 solo ⟨s', vis, store, ok, fitb⟩ pixel sample race => ?visrd⟩,
    fun f => ⟨eachLane_acts fun _ => rfl, eachLane_traps fun _ => rfl, fun s iss l src s1 dst s2 n => cast_enters fun _ => rfl⟩,
    fun f => ⟨eachLane_acts fun _ => rfl, eachLane_traps fun _ => rfl, fun s iss l src s1 dst s2 n => cast_enters fun _ => rfl⟩,
    fun f => ⟨eachLane_acts fun _ => rfl, eachLane_traps fun _ => rfl, fun s iss l src s1 dst s2 n => cast_enters fun _ => rfl⟩,
    fun f => ⟨anvil_acts fun _ => rfl, anvil_traps fun _ => rfl,
      fun s iss l v src s1 solo claimed legal hs ⟨count, fits, format⟩ => ?castw⟩,
    fun f => ⟨anvil_acts fun _ => rfl, anvil_traps fun _ => rfl, fun s iss l v src s1 solo claimed legal hs fits => ?castwCb3⟩,
    fun f => ⟨anvil_acts fun _ => rfl, anvil_traps fun _ => rfl⟩, fun f s iss l v src s1 => casttab_enters, castwLegal_iff,
    casttabLegal_iff⟩
  case filmAdd =>
    have updated : s2.population = s1.population := Work.Keeps.forM (fun x => l.checkUpdate_keeps _ _ _ _) _ _ _ _ race
    refine enters_of_work (w := filmAddWork f) (fun _ => rfl) solo (updated.trans entry.population) ?_
    rw [filmAddWork, Work.bind_ok (filmOf_ok entry ok fits), Work.bind_ok (Work.within_ok _ (decide_eq_true pixel)),
      Work.bind_ok race]
  case filmRd =>
    refine enters_of_work (w := filmRdWork f) (fun _ => rfl) solo ((l.checkUpdate_keeps _ _ _ _ _ _ _ race).trans entry.population) ?_
    rw [filmRdWork, Work.bind_ok (filmOf_ok entry ok fits), Work.bind_ok (Work.within_ok _ (decide_eq_true ⟨pixel, bin⟩)),
      Work.bind_ok race]
  case rast =>
    have found : s3.population = s.population :=
      store.population.trans (vis.population.trans (records.population.trans prim.population))
    refine enters_of_work (w := rastWork f) (fun _ => rfl) solo ((l.checkRast_keeps _ _ _ _ _ _ _ _ _ race).trans found) ?_
    rw [rastWork, Work.bind_ok prim, Work.bind_ok records, Work.bind_ok (Work.within_ok _ (decide_eq_true ⟨least, most⟩)),
      Work.bind_ok (checkFootprint_ok fits), Work.bind_ok (visOf_ok vis store ok fitb),
      Work.bind_ok (Work.within_ok _ (decide_eq_true range)), Work.bind_ok race]
  case visrd =>
    refine enters_of_work (w := visrdWork f) (fun _ => rfl) solo
      ((l.checkUpdate_keeps _ _ _ _ _ _ _ race).trans (store.population.trans vis.population)) ?_
    rw [visrdWork, Work.bind_ok (visOf_ok vis store ok fitb), Work.bind_ok (Work.within_ok _ (decide_eq_true ⟨pixel, sample⟩)),
      Work.bind_ok race]
  case castw => exact castw_loads (cb3 := false) (fun _ => rfl) solo claimed hs.population (castwWork_dense legal hs count fits format)
  case castwCb3 => exact castw_loads (cb3 := true) (fun _ => rfl) solo claimed hs.population (castwWork_cb3 legal hs fits)

end Sys2Proof.Machine
end

section
/-! PROOFS. What performs at memory, at a register or at another package leaves the cycle as it is, and so does the end of a region, whose
lines drain first (R314, R328, R348, R379). -/
namespace Sys2Proof.Machine

/-! ## Accesses (R306, R313, R365, R379) -/

@[simp] theorem State.charge_cycle (s : State) (tid field n : Nat) : (s.charge tid field n).cycle = s.cycle := State.modThread_cycle ..

@[simp] theorem State.chargeHeld_cycle (s : State) (tid pa : Nat) : (s.chargeHeld tid pa).cycle = s.cycle := by
  unfold State.chargeHeld
  split
  · rfl
  · split
    · simp
    · split <;> simp

@[simp] theorem State.chargeAccess_cycle (s : State) (tid pa : Nat) : (s.chargeAccess tid pa).cycle = s.cycle := by
  unfold State.chargeAccess
  split
  · rfl
  · refine (State.charge_cycle ..).trans ?_
    split <;> simp

@[simp] theorem State.wakeGranules_cycle (s : State) (pa n : Nat) : (s.wakeGranules pa n).cycle = s.cycle := rfl

theorem ite_cycle {p : Prop} [Decidable p] {u v : State} {n : Nat} (hu : u.cycle = n) (hv : v.cycle = n) :
    (if p then u else v).cycle = n := by
  split
  · exact hu
  · exact hv

theorem ofTiming_cycle (s : State) (t : Timing) (d : List Deferred) : ({ s with timing := t, deferred := d } : State).cycle = s.cycle := rfl

@[simp] theorem State.moveClock_cycle (s : State) (new : Int) : (s.moveClock new).cycle = s.cycle := ofTiming_cycle ..

/-- By the branches of the register map, one after another. -/
@[simp] theorem State.mmioSetWord_cycle (s : State) (off v : Nat) : (s.mmioSetWord off v).cycle = s.cycle := by
  unfold State.mmioSetWord
  refine ite_cycle (s.moveClock_cycle _) ?_
  repeat refine ite_cycle rfl ?_
  rfl

@[simp] theorem State.mmioPut_cycle (s : State) (w v : Nat) : (s.mmioPut w v).cycle = s.cycle := by
  unfold State.mmioPut
  split
  · rfl
  · exact s.mmioSetWord_cycle w v

@[simp] theorem State.mmioWrite_cycle (s : State) (off n v : Nat) : (s.mmioWrite off n v).cycle = s.cycle := by
  simp only [State.mmioWrite]
  split
  · rfl
  · split <;> simp

@[simp] theorem State.mmioStore_cycle (s : State) (base : Nat) (bs : Map Byte) : (s.mmioStore base bs).cycle = s.cycle :=
  foldl_keeps (f := State.cycle) (fun _ _ => (State.wakeGranules_cycle ..).trans (State.mmioWrite_cycle ..)) _ s

@[simp] theorem State.sendLane_cycle (s : State) (no pa : Nat) (r : Retry) : (s.sendLane no pa r).cycle = s.cycle := by
  unfold State.sendLane
  split
  · rfl
  · split <;> rfl

@[simp] theorem State.sendStore_cycle (s : State) (no tid p pa : Nat) (bs : Map Byte) : (s.sendStore no tid p pa bs).cycle = s.cycle :=
  (State.modThread_cycle ..).trans (State.sendLane_cycle ..)

@[simp] theorem State.fatalThread_cycle (s : State) (tid : Nat) : (s.fatalThread tid).cycle = s.cycle := by
  unfold State.fatalThread
  split <;> simp

/-- Bytes written one by one, each then waking what waits on it. -/
theorem writtenBytes_cycle (s : State) (bs : Map Byte) (place : Nat → Nat) :
    (bs.foldl (fun v (c : Nat × Byte) => v.wakeGranules (place c.1) 1)
      (bs.foldl (fun v (c : Nat × Byte) => v.setByte (place c.1) c.2) s)).cycle = s.cycle :=
  (foldl_keeps (f := State.cycle) (fun _ _ => State.wakeGranules_cycle ..) bs _).trans
    (foldl_keeps (f := State.cycle) (fun _ _ => State.setByte_cycle ..) bs s)

@[simp] theorem State.perform_cycle (s : State) (tid : Nat) (bs : Map Byte) : (s.perform tid bs).cycle = s.cycle := by
  unfold State.perform
  split
  case h_1 => rfl
  case h_2 pa _ _ =>
    split
    case h_1 => exact s.mmioStore_cycle _ _
    case h_2 =>
      split
      · exact writtenBytes_cycle s _ (· % 2 ^ 40)
      · split
        · exact s.sendStore_cycle ..
        · exact s.fatalThread_cycle tid
    case h_3 => rfl
    case h_4 => rfl
    case h_5 => exact (State.modThread_cycle ..).trans (foldl_keeps (f := State.cycle) (fun _ _ => State.setByte_cycle ..) _ s)
    case h_6 => exact (writtenBytes_cycle (s.chargeAccess tid pa) _ id).trans (s.chargeAccess_cycle tid pa)

/-! ## Lines and regions (R314, R328) -/

@[simp] theorem State.drainLine_cycle (s : State) (tile : Nat) (l : Line) : (s.drainLine tile l).cycle = s.cycle := by
  simp [State.drainLine, State.noteStale]

@[simp] theorem State.drainThread_cycle (s : State) (tid : Nat) : (s.drainThread tid).cycle = s.cycle := by
  unfold State.drainThread
  split
  · rfl
  · exact foldl_keeps (f := State.cycle) (fun _ _ => State.drainLine_cycle ..) _ s

@[simp] theorem State.regionEnd_cycle (s : State) (tid : Nat) (scope : Option Nat) : (s.regionEnd tid scope).cycle = s.cycle := by
  unfold State.regionEnd
  split
  · rfl
  · refine (State.endRegion_cycle ..).trans ?_
    exact ite_cycle (s.drainThread_cycle tid) (s.drainThread_cycle tid)

@[simp] theorem State.unfile_cycle (s : State) (tid : Nat) : (s.unfile tid).cycle = s.cycle := by
  unfold State.unfile
  split
  · rfl
  · split
    · refine ite_cycle ?_ ?_ <;> simp
    · simp
    · simp

end Sys2Proof.Machine
end

section
/-! PROOFS. Threads gathered by the riddle, exported and arriving (R197 to R199, R399). -/
namespace Sys2Proof.Machine

/-! ## The fullest partition (R197) -/

theorem mostFree_eq_none {ps : List (Nat × Nat)} (h : mostFree ps = none) : ps = [] := by
  cases ps with
  | nil => rfl
  | cons p ps =>
    unfold mostFree at h
    split at h
    · exact nomatch h
    · split at h <;> exact nomatch h

/-- Of a list in rising order of numbers, the choice has the most, and more than each that stands before it. -/
theorem mostFree_greatest {ps : List (Nat × Nat)} {q : Nat × Nat} (rising : ps.Pairwise fun x y => x.1 < y.1)
    (h : mostFree ps = some q) : q ∈ ps ∧ ∀ x ∈ ps, x.2 ≤ q.2 ∧ (x.1 < q.1 → x.2 < q.2) := by
  induction ps generalizing q with
  | nil => exact nomatch h
  | cons p ps ih =>
    obtain ⟨first, rest⟩ := List.pairwise_cons.1 rising
    unfold mostFree at h
    split at h
    case h_1 empty =>
      obtain rfl := Option.some.inj h
      simp [mostFree_eq_none empty]
    case h_2 r chosen =>
      obtain ⟨member, greatest⟩ := ih rest chosen
      split at h
      case isTrue ge =>
        obtain rfl := Option.some.inj h
        refine ⟨List.mem_cons_self, List.forall_mem_cons.2 ⟨⟨le_rfl, fun lt => absurd lt (lt_irrefl _)⟩, fun x hx => ?_⟩⟩
        exact ⟨(greatest x hx).1.trans ge, fun lt => absurd lt (first x hx).not_gt⟩
      case isFalse lt =>
        obtain rfl := Option.some.inj h
        have less : p.2 < r.2 := not_le.1 lt
        exact ⟨List.mem_cons_of_mem _ member, List.forall_mem_cons.2 ⟨⟨less.le, fun _ => less⟩, greatest⟩⟩

theorem riddleTarget_fullest {s : State} {tile target : Nat} {k : CrucKey} (h : s.riddleTarget tile k = some target) :
    target < 4 ∧ ∀ p < 4, (s.heldFor tile p k).length ≤ (s.heldFor tile target k).length ∧
      (p < target → (s.heldFor tile p k).length < (s.heldFor tile target k).length) := by
  obtain ⟨q, most, rfl⟩ := Option.map_eq_some_iff.1 h
  obtain ⟨member, greatest⟩ := mostFree_greatest (List.pairwise_map.2 List.pairwise_lt_range) most
  obtain ⟨n, small, rfl⟩ := List.mem_map.1 member
  exact ⟨List.mem_range.1 small, fun p hp => greatest _ (List.mem_map_of_mem (List.mem_range.2 hp))⟩

/-! ## The riddle (R197, R399) -/

/-- The threads of a key that may move to a partition, from the others that are not stopped, the longest waiting first (R197, R399). -/
def State.riddleMovers (s : State) (tile target : Nat) (k : CrucKey) : List (Nat × Thread) :=
  ((List.range 4).filter fun p => p != target && !s.isStopped tile p).flatMap fun p =>
    byWait ((s.heldFor tile p k).filter fun x => s.mayMove x.1 x.2)

section
variable {s : State} {tile ctx pc key target : Nat}

theorem riddleMove_untargeted (h : s.riddleTarget tile ⟨ctx, pc, BitVec.ofNat 16 key⟩ = none) :
    exec (.riddleMove tile ctx pc key) s = .next s := by
  show execRiddleMove tile ctx pc key s = _
  simp only [execRiddleMove, h]

theorem riddleMove_gathers (h : s.riddleTarget tile ⟨ctx, pc, BitVec.ofNat 16 key⟩ = some target) :
    exec (.riddleMove tile ctx pc key) s = .next (if s.isStopped tile target then s else
      s.riddleMoves tile target ⟨ctx, pc, BitVec.ofNat 16 key⟩ (s.riddleMovers tile target ⟨ctx, pc, BitVec.ofNat 16 key⟩)) := by
  show execRiddleMove tile ctx pc key s = _
  simp only [execRiddleMove, h]
  rfl

theorem riddleMovers_nil {k : CrucKey} (h : ∀ p < 4, s.heldFor tile p k = []) : s.riddleMovers tile target k = [] := by
  refine List.flatMap_eq_nil_iff.2 fun p hp => ?_
  rw [h p (List.mem_range.1 (List.mem_filter.1 hp).1)]
  rfl

theorem riddleMove_empty (h : ∀ p < 4, s.heldFor tile p ⟨ctx, pc, BitVec.ofNat 16 key⟩ = []) :
    exec (.riddleMove tile ctx pc key) s = .next s := by
  cases found : s.riddleTarget tile ⟨ctx, pc, BitVec.ofNat 16 key⟩ with
  | none => exact riddleMove_untargeted found
  | some n => rw [riddleMove_gathers found, riddleMovers_nil h, State.riddleMoves, ite_self]

end

section
variable {s : State} {tile target tid : Nat} {k : CrucKey} {t : Thread} (xs : List (Nat × Thread))

theorem riddleMoves_stops (h : 32 ≤ s.readyFor tile target k ∨ s.slotFor t tile target = false) :
    s.riddleMoves tile target k ((tid, t) :: xs) = s :=
  if_pos (by simpa [State.readyFor] using h)

theorem riddleMoves_settles (hr : s.readyFor tile target k < 32) (hs : s.slotFor t tile target = true) :
    s.riddleMoves tile target k ((tid, t) :: xs) =
      ((s.regionEnd tid (some 5)).settleAt tid tile target t.since).riddleMoves tile target k xs :=
  if_neg (by simpa [State.readyFor, hs] using hr)

end

/-! ## Departure and arrival (R198, R399) -/

section
variable {s : State} {tid : Nat} {t : Thread} (ht : s.thread? tid = some t)
include ht

theorem threadExport_leaves {n tile part ready : Nat} {k : CrucKey} (hp : t.place = .crucible n)
    (hk : Map.get? (s.partition t.tile t.part).crucibles n = some k) (hm : s.mayMove tid t = true)
    (hs : s.isStopped t.tile t.part = false) (he : t.exported = false)
    (ha : s.ageOf t ≤ Map.getD (s.partition t.tile t.part).low n 0) (hv : t.tile < 192)
    (hx : s.exportTo t.tile k = some (tile, part, ready)) (hr : s.readyFor t.tile t.part k < ready) (hf : s.slotFor t tile part = true) :
    exec (.threadExport tid) s = .next (((s.regionEnd tid (some 5)).unfile tid).modThread tid fun t =>
      { t with going := some (tile, part), exported := true, since := s.cycle - t.since }) := by
  show execThreadExport tid s = _
  simp only [execThreadExport, ht, hp, hk]
  refine congrArg Host.Outcome.next ((if_neg (by simp [hm, hs, he, ha, hv])).trans ?_)
  simp only [hx, State.unfile_cycle, State.regionEnd_cycle]
  exact if_neg (by simp [hr, hf])

theorem threadExport_stays (h : s.mayMove tid t = false ∨ s.isStopped t.tile t.part = true) : exec (.threadExport tid) s = .next s := by
  show execThreadExport tid s = _
  simp only [execThreadExport, ht]
  split
  · split
    · rfl
    · exact congrArg Host.Outcome.next (if_pos (by rcases h with h | h <;> simp [h]))
  · rfl

theorem threadArrival_settles {tile part : Nat} (hg : t.going = some (tile, part)) : exec (.threadArrival tid) s =
    .next (if s.isStopped tile part then s else s.settleAt tid tile part (s.cycle - t.since)) := by
  show execThreadArrival tid s = _
  simp only [execThreadArrival, ht, hg]

theorem threadArrival_idle (hg : t.going = none) : exec (.threadArrival tid) s = .next s := by
  show execThreadArrival tid s = _
  simp only [execThreadArrival, ht, hg]

end

/-- Settles O47: the target by the greatest of four numbers, the gathering thread by thread, a departure by the conditions it needs. -/
theorem riddleMoves : Obligations.RiddleMoves := by
  refine ⟨fun _ _ _ _ _ => riddleMove_empty, fun _ _ _ _ => riddleTarget_fullest, fun s tile ctx pc key target h => ?_,
    fun s tile target k => ⟨rfl, fun _ _ xs => ⟨riddleMoves_stops xs, riddleMoves_settles xs⟩⟩,
    fun _ _ _ _ _ _ _ _ ht => threadExport_leaves ht, fun _ _ _ => threadExport_stays,
    fun _ _ _ _ _ ht => threadArrival_settles ht, fun _ _ _ => threadArrival_idle⟩
  rw [riddleMove_gathers h]
  exact ⟨fun stopped => congrArg Host.Outcome.next (if_pos stopped),
    fun runs => congrArg Host.Outcome.next (if_neg (Bool.eq_false_iff.1 runs))⟩

end Sys2Proof.Machine
end

section
/-! PROOFS. The timing block: its clock, its registers and its triggers (R213 to R215). -/
namespace Sys2Proof.Machine

/-! ## The clock (R213, R215) -/

theorem clampAdj_toInt (v : BitVec 32) : (clampAdj v).toInt = max (-2048000000) (min 2048000000 v.toInt) := by
  unfold clampAdj
  split
  case isTrue above =>
    have limit : (BitVec.ofInt 32 2048000000).toInt = 2048000000 := by decide
    omega
  case isFalse notAbove =>
    split
    case isTrue below =>
      have limit : (BitVec.ofInt 32 (-2048000000)).toInt = -2048000000 := by decide
      omega
    case isFalse notBelow => omega

theorem Timing.mem_passed {t : Timing} {new n : Nat} : n ∈ t.passed new ↔
    n < 16 ∧ (t.trigger n).armed = true ∧ t.clock < (t.trigger n).time ∧ (t.trigger n).time ≤ new := by
  simp only [Timing.passed, List.mem_filter, List.mem_range, Bool.and_eq_true, decide_eq_true_eq]

/-- A clock that moves backward passes no trigger. -/
theorem Timing.passed_backward {t : Timing} {new : Int} (h : new ≤ t.clock) : t.passed new.toNat = [] := by
  refine List.eq_nil_iff_forall_not_mem.2 fun n hn => ?_
  obtain ⟨-, -, beyond, reached⟩ := Timing.mem_passed.1 hn
  omega

theorem Timing.fire_passed {t : Timing} {new n : Nat} (h : Deferred.fire n ∈ (t.passed new).map Deferred.fire) :
    t.clock < new ∧ n < 16 := by
  obtain ⟨k, passed, same⟩ := List.mem_map.1 h
  obtain rfl := Deferred.fire.inj same
  obtain ⟨small, -, beyond, reached⟩ := Timing.mem_passed.1 passed
  exact ⟨beyond.trans_le reached, small⟩

theorem timestepWrite_moves (s : State) (v : BitVec 64) :
    let new : Int := s.timing.clock + v.toInt
    exec (.timestepWrite v) s = .next { s with
      timing := { s.timing with clock := (new % ((2 ^ 48 * 1000000000 : Nat) : Int)).toNat }
      deferred := s.deferred ++ (s.timing.passed new.toNat).map Deferred.fire } := by
  show execTimestepWrite v s = _
  rw [execTimestepWrite, State.moveClock, clockSpan]

/-- A clock moved to whole seconds stands at them, 2^48 seconds being one turn of it. -/
theorem moveClock_seconds (s : State) (sec : Nat) :
    (s.moveClock (sec * 1000000000)).timing.clock = sec % 2 ^ 48 * 1000000000 := by
  show (((sec * 1000000000 : Nat) : Int) % clockSpan).toNat = _
  rw [← Int.natCast_emod, Int.toNat_natCast, clockSpan, Nat.mul_mod_mul_right]

/-- The state after a PPS edge, under any source: TODNEXT has not been written since (R213). -/
def State.edgeTaken (s : State) : State := { s with timing := { s.timing with todWritten := false } }

theorem edgeTaken_clock (s : State) : s.edgeTaken.timing.clock = s.timing.clock := rfl

theorem edgeTaken_todWritten (s : State) : s.edgeTaken.timing.todWritten = false := rfl

theorem ppsEdge_ignored {s : State} (h : s.timing.src ≠ 2) : exec .ppsEdge s = .next s.edgeTaken := by
  show execPpsEdge s = _
  simp only [execPpsEdge, if_neg h]
  rfl

/-- The seconds that a PPS edge sets: TODNEXT, or one more than the clock has (R213). -/
def Timing.ppsSeconds (t : Timing) : Nat := if t.todWritten then t.todnext else (t.clock / 1000000000 + 1) % 2 ^ 48

theorem Timing.ppsSeconds_mod (t : Timing) : t.ppsSeconds % 2 ^ 48 =
    if t.todWritten then t.todnext % 2 ^ 48 else (t.clock / 1000000000 + 1) % 2 ^ 48 := by
  rw [Timing.ppsSeconds, apply_ite (· % 2 ^ 48), Nat.mod_mod]

theorem ppsEdge_sets {s : State} (h : s.timing.src = 2) : exec .ppsEdge s =
    .next (s.moveClock (s.timing.ppsSeconds * 1000000000)).edgeTaken := by
  show execPpsEdge s = _
  simp only [execPpsEdge, if_pos h]
  rfl

/-! ## Triggers (R214, R215) -/

theorem Timing.trigger_setTrigger_same (t : Timing) (n : Nat) (g : Trigger) : (t.setTrigger n g).trigger n = g :=
  Map.getD_set_same ..

theorem Timing.trigger_setTrigger_ne (t : Timing) {n k : Nat} (g : Trigger) (h : k ≠ n) : (t.setTrigger n g).trigger k = t.trigger k :=
  Map.getD_set_ne _ _ _ h

section
variable {s : State} {n : Nat}

theorem trigsecWrite_takes (v : BitVec 64) (h : n < 16) : exec (.trigsecWrite n v) s =
    .next { s with timing := s.timing.setTrigger n ((s.timing.trigger n).writeSec v.toNat) } :=
  congrArg Host.Outcome.next (if_pos h)

theorem trigsecWrite_absent (v : BitVec 64) (h : 16 ≤ n) : exec (.trigsecWrite n v) s = .next s :=
  congrArg Host.Outcome.next (if_neg h.not_gt)

theorem triggerFire_fires (h : .fire n ∈ s.deferred) : exec (.triggerFire n) s =
    .next (State.fireTrigger { s with deferred := s.deferred.erase (.fire n) } n false) :=
  congrArg Host.Outcome.next (if_pos (List.contains_iff_mem.2 h))

variable (hf : .fire n ∉ s.deferred)
include hf

theorem triggerFire_fails (h : .fireFailed n ∈ s.deferred) : exec (.triggerFire n) s =
    .next (State.fireTrigger { s with deferred := s.deferred.erase (.fireFailed n) } n true) :=
  congrArg Host.Outcome.next ((if_neg (mt List.contains_iff_mem.1 hf)).trans (if_pos (List.contains_iff_mem.2 h)))

theorem triggerFire_idle (h : .fireFailed n ∉ s.deferred) : exec (.triggerFire n) s = .next s :=
  congrArg Host.Outcome.next ((if_neg (mt List.contains_iff_mem.1 hf)).trans (if_neg (mt List.contains_iff_mem.1 h)))

end

theorem fireTrigger_unaligned {s : State} {n : Nat} (h : (s.timing.trigger n).record.toNat % 64 ≠ 0) :
    s.fireTrigger n false = { s with timing := s.timing.setTrigger n ((s.timing.trigger n).fire 1 s.timing.clock) } :=
  if_pos (by simpa using h)

theorem fireTrigger_enqueues {s u : State} {n code : Nat} (ha : (s.timing.trigger n).record.toNat % 2 ^ 32 % 64 = 0)
    (he : enqueueRecord ioTile ((s.timing.trigger n).record.toNat / 2 ^ 32 % 16) ((s.timing.trigger n).record.toNat % 2 ^ 32) s =
      .ok (code, u)) :
    s.fireTrigger n false = { u with timing := u.timing.setTrigger n ((s.timing.trigger n).fire code u.timing.clock) } := by
  simp only [State.fireTrigger, ha, he, ne_eq, not_true_eq_false, decide_false, Bool.or_self, Bool.false_eq_true, if_false]

/-- Settles O53: the clock by the whole seconds it is set to, a trigger by the time it is passed at, a firing by what its record comes to. -/
theorem timingBlock : Obligations.TimingBlock := by
  refine ⟨fun _ => rfl, fun s v => ⟨_, rfl, rfl, clampAdj_toInt v⟩, timestepWrite_moves, fun _ _ => Timing.passed_backward,
    fun _ _ _ => Timing.fire_passed, fun _ => ppsEdge_ignored, fun s h => ?_, fun s n v h => ?_, fun _ _ => trigsecWrite_absent,
    fun _ _ => triggerFire_idle, fun _ _ => triggerFire_fires, fun _ _ => triggerFire_fails, fun _ _ => fireTrigger_unaligned,
    fun _ _ _ _ => fireTrigger_enqueues⟩
  · have clock := moveClock_seconds s s.timing.ppsSeconds
    refine ⟨_, ppsEdge_sets h, ?_, ?_, edgeTaken_todWritten _⟩
    · rw [edgeTaken_clock, clock, Nat.mul_mod_left]
    · rw [edgeTaken_clock, clock, Nat.mul_div_cancel _ (by decide), Timing.ppsSeconds_mod]
  · refine ⟨_, trigsecWrite_takes v h, rfl, ?_, ?_, fun k hk => Timing.trigger_setTrigger_ne _ _ hk⟩
    · exact congrArg Trigger.time (Timing.trigger_setTrigger_same ..)
    · exact congrArg Trigger.sec (Timing.trigger_setTrigger_same ..)

end Sys2Proof.Machine
end

section
/-! PROOFS. Engine work on elements and accumulators: what it leaves as it was of what resolves addresses, and why it completes in memory
that is in reach (R222, R242, R246, R265, R296, R407). -/
namespace Sys2Proof.Machine

/-! ## What resolves an address, over the units' state -/

@[simp] theorem State.modThread_resolution (s : State) (tid : Nat) (g : Thread → Thread) :
    (s.modThread tid g).resolution = s.resolution := by
  simp [State.resolution, State.tile]

@[simp] theorem State.setBytes_resolution (s : State) (pa : Nat) (bs : List Byte) : (s.setBytes pa bs).resolution = s.resolution := by
  simp [State.resolution, State.tile]

@[simp] theorem State.wake_resolution (s : State) (p : Wake → Bool) : (s.wake p).resolution = s.resolution := rfl

@[simp] theorem State.logError_resolution (s : State) (tile src ctx unit obj elem : Nat) :
    (s.logError tile src ctx unit obj elem).resolution = s.resolution := by
  simp only [State.logError]
  split <;> exact State.setTile_resolution rfl

@[simp] theorem State.putTag_resolution (s : State) (pa : Nat) (tag : Tag) : (s.putTag pa tag).resolution = s.resolution := by
  unfold State.putTag
  split <;> rfl

@[simp] theorem State.resetTags_resolution (s : State) (pa n : Nat) : (s.resetTags pa n).resolution = s.resolution := by
  refine foldl_keeps (fun v i => ?_) _ s
  dsimp only
  split
  · rfl
  · split <;> simp

/-! ## Trace records (R405 to R408) -/

/-- A trace record changes memory, whose waiters it wakes, and the trace's own state. -/
theorem State.traceBuffer_keeps {β : Type} {f : State → β} (bytes : ∀ s pa bs, f (State.setBytes s pa bs) = f s)
    (wake : ∀ s pa n, f (State.wakeGranules s pa n) = f s) (trace : ∀ (s : State) t, f { s with trace := t } = f s) (s : State)
    (rec : List Byte) : f (s.traceBuffer rec).2 = f s := by
  unfold State.traceBuffer
  extract_lets
  split
  · exact (trace _ _).trans ((wake ..).trans (bytes ..))
  · exact trace ..

/-- A traced event changes no more than a record in the buffer does (R405 to R408). -/
theorem State.emit_keeps {β : Type} {f : State → β} (bytes : ∀ s pa bs, f (State.setBytes s pa bs) = f s)
    (wake : ∀ s pa n, f (State.wakeGranules s pa n) = f s) (trace : ∀ (s : State) t, f { s with trace := t } = f s) (s : State)
    (kind ctx tile part : Nat) (wid : BitVec 64) (payload : List Byte) : f (s.emit kind ctx tile part wid payload) = f s := by
  unfold State.emit
  extract_lets _ _ _ _ _ rec _ r u
  have buffered : f u = f s := by
    show f r.2 = f s
    unfold r
    split
    · exact State.traceBuffer_keeps bytes wake trace s rec
    · rfl
  split
  · rfl
  · split <;> exact (trace _ _).trans buffered

@[simp] theorem State.emit_resolution (s : State) (kind ctx tile part : Nat) (wid : BitVec 64) (payload : List Byte) :
    (s.emit kind ctx tile part wid payload).resolution = s.resolution :=
  State.emit_keeps State.setBytes_resolution State.wakeGranules_resolution (fun _ _ => rfl) ..

@[simp] theorem State.emit_ops (s : State) (kind ctx tile part : Nat) (wid : BitVec 64) (payload : List Byte) :
    (s.emit kind ctx tile part wid payload).ops = s.ops :=
  State.emit_keeps (f := State.ops) (fun s pa bs => s.setBytes_ops bs pa) (fun _ _ _ => rfl) (fun _ _ => rfl) ..

@[simp] theorem State.emitOp_resolution (s : State) (op : Op) (kind : Nat) (payload : List Byte) :
    (s.emitOp op kind payload).resolution = s.resolution := State.emit_resolution ..

@[simp] theorem State.beginSet_resolution (s : State) (op : Op) : (s.beginSet op).resolution = s.resolution := by
  unfold State.beginSet
  split
  · rfl
  · exact State.emitOp_resolution ..

@[simp] theorem State.beginSet_ops (s : State) (op : Op) : (s.beginSet op).ops = s.ops := by
  unfold State.beginSet
  split
  · rfl
  · exact State.emit_ops ..

/-! ## Operations that leave, and barriers -/

@[simp] theorem State.finishOpEntries_resolution (s : State) (id : Nat) : (s.finishOpEntries id).resolution = s.resolution :=
  foldl_keeps (fun v _ => foldl_keeps (fun u _ => u.modThread_resolution _ _) _ v) _ s

@[simp] theorem State.dropOp_resolution (s : State) (id : Nat) : (s.dropOp id).resolution = s.resolution := rfl

@[simp] theorem State.endSet_resolution (s : State) (op : Op) : (s.endSet op).resolution = s.resolution :=
  (foldl_keeps (g := fun v o => (v.dropOp o).finishOpEntries o) (fun _ _ => by simp) op.signers _).trans (State.emitOp_resolution ..)

@[simp] theorem State.noteProgress_resolution (s : State) (id : Nat) (op : Op) (kb : Nat) :
    (s.noteProgress id op kb).resolution = s.resolution := State.modThread_resolution ..

/-- An arrival at a barrier in the device's own memory. -/
theorem State.lowerBarrier_resolution (s : State) (tid ctx index u : Nat) {pa : Nat} (hr : regionOf pa = .hbm ∨ regionOf pa = .slice) :
    (s.lowerBarrier tid ctx index pa u).resolution = s.resolution := by
  have written (v : Nat) : (s.writeBarrier tid pa 8 v).resolution = s.resolution := by
    simp only [State.writeBarrier, State.wake_resolution, State.resetTags_resolution, State.perform_resolution s tid _ hr]
  simp only [State.lowerBarrier, State.emitZero]
  split
  · exact written _
  · exact (State.emit_resolution ..).trans (written _)

/-! ## Accumulators and weights -/

@[simp] theorem State.setAcc_resolution (s : State) (tile m : Nat) (a : Map (BitVec 64)) :
    (s.setAcc tile m a).resolution = s.resolution := State.setTile_resolution rfl

@[simp] theorem State.mendAcc_resolution (s : State) (tile m : Nat) : (s.mendAcc tile m).resolution = s.resolution :=
  State.setTile_resolution rfl

@[simp] theorem State.scrubAcc_resolution (s : State) (tile ctx m : Nat) (reads : Nat → Bool) :
    (s.scrubAcc tile ctx m reads).resolution = s.resolution :=
  foldl_keeps (fun _ _ => (State.setTile_resolution (by rfl)).trans (by simp)) _ s

@[simp] theorem State.logWeights_resolution (s : State) (tile ctx n : Nat) : (s.logWeights tile ctx n).resolution = s.resolution :=
  foldl_keeps (fun _ _ => (State.setTile_resolution (by rfl)).trans (by simp)) _ s

@[simp] theorem State.macEnergy_resolution (s : State) (op : Op) (f : ConvFmt) (n : Nat) :
    (s.macEnergy op f n).resolution = s.resolution := State.energy_resolution ..

/-! ## Work that completes with a result described -/

/-- From every state that resolves addresses so, the work ends without a stop and with a result that P describes. -/
def Work.Yields {α : Type} (w : Work α) (P : α → Prop) (s : State) : Prop :=
  ∀ v, v.resolution = s.resolution → ∃ a u, w v = .ok (a, u) ∧ P a ∧ u.resolution = s.resolution

section
variable {α β : Type} {s : State}

theorem Work.Completes.yields {w : Work α} (h : w.Completes s) : w.Yields (fun _ => True) s := fun v hv => by
  obtain ⟨a, u, run, hu⟩ := h v hv
  exact ⟨a, u, run, trivial, hu⟩

theorem Work.Yields.bind {w : Work α} {k : α → Work β} {P : α → Prop} (hw : w.Yields P s) (hk : ∀ a, P a → (k a).Completes s) :
    (w >>= k).Completes s := fun v hv => by
  obtain ⟨a, u, run, ha, hu⟩ := hw v hv
  rw [Work.bind_ok run]
  exact hk a ha u hu

/-- Work over a list answers with a list as long, of which each result is described. -/
theorem Work.Yields.mapM {w : α → Work β} {P : β → Prop} : ∀ {xs : List α}, (∀ x ∈ xs, (w x).Yields P s) →
    (xs.mapM w).Yields (fun ys => ys.length = xs.length ∧ ∀ y ∈ ys, P y) s
  | [], _ => fun v hv => ⟨[], v, rfl, ⟨rfl, nofun⟩, hv⟩
  | x :: xs, h => fun v hv => by
    obtain ⟨y, u, run, hy, hu⟩ := h x (List.mem_cons_self ..) v hv
    obtain ⟨ys, r, runs, ⟨length, hys⟩, hr⟩ := Work.Yields.mapM (fun z hz => h z (List.mem_cons_of_mem _ hz)) u hu
    rw [List.mapM_cons, Work.bind_ok run, Work.bind_ok runs]
    exact ⟨y :: ys, r, rfl, ⟨by simp [length], List.forall_mem_cons.2 ⟨hy, hys⟩⟩, hr⟩

theorem Work.Completes.get : (get : Work State).Completes s := fun v hv => ⟨v, v, rfl, hv⟩

theorem Work.Completes.runs {w : Work Unit} (h : w.Completes s) : ∃ u, w s = .ok ((), u) := by
  obtain ⟨_, u, run, -⟩ := h s rfl
  exact ⟨u, run⟩

end

/-! ## Elements read and written (R222, R242, R265) -/

/-- An element of more than four bits fills whole bytes (R130, R222). -/
theorem ConvFmt.ofCode_wholeBytes (n : Nat) :
    (ConvFmt.ofCode n).width ≠ 4 → (ConvFmt.ofCode n).width / 8 = ((ConvFmt.ofCode n).width + 7) / 8 := by
  unfold ConvFmt.ofCode
  split <;> decide

section
variable {op : Op} {o : Obj} {s : State}

theorem Op.readElemBytes_completes {off n : Nat} (elem : Nat) (h : op.Served s .read o off n) :
    (op.readElemBytes o off n elem).Completes s := by
  refine h.reach_bind fun pa _ v hv => ?_
  obtain ⟨sound, -⟩ := h.of_resolution hv
  have clean : v.eccAt pa n = false := by rw [State.eccAt, sound]; rfl
  rw [Work.bind_ok (show (MonadState.get : Work State) v = .ok (v, v) from rfl)]
  simp only [clean, Bool.false_eq_true, if_false]
  exact Op.readBytes_completes h v hv

theorem Op.readElemAt_completes {bit : Nat} (elem : Nat) (h : op.Served s .read o (bit / 8) ((Obj.bits o + 7) / 8)) :
    (op.readElemAt o bit elem).Completes s :=
  .bind (op.readElemBytes_completes elem h) fun _ => .pure _

theorem Op.readElem_completes {k n : Nat} (h : op.ServedWhole s .read o false n) (hk : k < n) : (op.readElem o k).Completes s :=
  op.readElemAt_completes k (h k hk)

theorem Op.readCell_completes (r c : Nat) (h : op.ServedTile s .read o (Obj.rows o) (Obj.cols o)) : (op.readCell o r c).Completes s :=
  .ite (fun inside => op.readElemAt_completes _ (h r inside.1 c inside.2)) fun _ => .pure _

theorem Op.writeBytes_completes {off : Nat} {bs : List Byte} (h : op.Served s .write o off bs.length) :
    (op.writeBytes o off bs).Completes s := by
  refine .bind (.mapM fun p hp v hv => ?_) fun _ => .pure _
  obtain ⟨-, parts⟩ := h.of_resolution hv
  obtain ⟨pa, reach, region⟩ := parts p hp
  rw [Work.bind_ok reach]
  refine Work.Completes.change (fun u => ?_) v hv
  rw [State.resetTags_resolution, State.accessEnergy_resolution, State.perform_resolution _ _ _ region]

theorem Op.writeElemAt_completes {bit : Nat} (v : Nat) (hw : op.Served s .write o (bit / 8) ((Obj.bits o + 7) / 8))
    (hr : Obj.bits o = 4 → op.Served s .read o (bit / 8) ((Obj.bits o + 7) / 8)) : (op.writeElemAt o bit v).Completes s := by
  refine .ite (fun nibble => ?_) fun whole => op.writeBytes_completes ?_
  · have one : (Obj.bits o + 7) / 8 = 1 := by rw [nibble]
    exact .bind (op.readBytes_completes (one ▸ hr nibble)) fun _ => op.writeBytes_completes (show op.Served s .write o _ 1 from one ▸ hw)
  · rw [toBytes_length, show Obj.bits o / 8 = (Obj.bits o + 7) / 8 from ConvFmt.ofCode_wholeBytes _ whole]
    exact hw

theorem Op.writeElem_completes {k n : Nat} (v : Nat) (h : op.Stores s o n) (hk : k < n) : (op.writeElem o k v).Completes s := by
  obtain ⟨write, read⟩ := h
  exact op.writeElemAt_completes v (write k hk) fun nibble => read nibble k hk

theorem Op.tileRows_completes (r0 rows c0 cols : Nat) (h : op.ServedTile s .read o (Obj.rows o) (Obj.cols o)) :
    (op.tileRows o r0 rows c0 cols).Completes s :=
  .mapM fun _ _ => .mapM fun _ _ => op.readCell_completes _ _ h

end

end Sys2Proof.Machine
end

section
/-! PROOFS. What the sets of aq do when they perform, and why each completes where its memory is in reach (R231, R232, R254, R259 to
R264). -/
namespace Sys2Proof.Machine

/-! ## A completed set (R256, R257) -/

section
variable {s : State} {id : Nat}

theorem State.withSet_due {op : Op} (h : Due s id op) (signed : op.signers ≠ []) (k : Op → State) : s.withSet id k = k op := by
  rw [State.withSet, State.withOp_due h, if_neg (by simpa using signed)]

theorem State.withSet_waits (h : ∀ op, Map.get? s.ops id = some op → s.opReady id op = false) (k : Op → State) : s.withSet id k = s :=
  State.withOp_waits h _

end

/-- An event that looks for its set goes on with it where it may perform. -/
theorem exec_set_due {i : Instr} {s : State} {id : Nat} {op : Op} {k : Op → State} (hx : exec i s = .next (s.withSet id k))
    (due : Due s id op) (signed : op.signers ≠ []) : exec i s = .next (k op) := by
  rw [hx, State.withSet_due due signed]

/-- An event that looks for its set does nothing where it is not there or may not perform. -/
theorem waits_of_withSet {ev : Nat → Instr} {k : Nat → State → Op → State} (hx : ∀ id s, exec (ev id) s = .next (s.withSet id (k id s))) :
    Waits ev := fun s id h => by rw [hx, State.withSet_waits h]

/-- An event that does the work w at a set that P describes performs it so, where that work completes. -/
theorem performsAs_of_set {ev : Nat → Instr} {k : Nat → State → Op → State} {P : Op → Prop} {ok : State → Op → Prop}
    {w : Nat → Op → Work Unit} (hx : ∀ id s, exec (ev id) s = .next (s.withSet id (k id s))) (signed : ∀ op, P op → op.signers ≠ [])
    (hk : ∀ id s op, P op → k id s op = s.opWork id op (w id op)) (hw : ∀ id s op, P op → ok s op → (w id op).Completes s) :
    PerformsAs ev P ok w := fun s id op due hP =>
  performs_of_work (by rw [exec_set_due (hx id s) due (signed op hP), hk id s op hP]) fun reach => (hw id s op hP reach).runs

/-! ## Accumulators (R232, R260, R261) -/

section
variable {s : State} {op : Op} {o : Obj}

theorem Op.drain_completes {m n : Nat} {c : ElemClass} {add : Bool} {moves : List (Nat × Nat)} (write : op.Stores s o n)
    (read : add = true → op.ServedWhole s .read o false n) (hm : ∀ x ∈ moves, x.2 < n) : (op.drain m c add o moves).Completes s := by
  refine .bind (.change fun v => v.scrubAcc_resolution _ _ _ _) fun _ => .bind (.forM fun x hx => .bind .get fun v => ?_) fun _ =>
    .change fun v => v.energy_resolution _ _ _ _
  exact .ite (fun adds => .bind (op.readElem_completes (read adds) (hm x hx)) fun _ => op.writeElem_completes _ write (hm x hx)) fun _ =>
    op.writeElem_completes _ write (hm x hx)

/-- A whole accumulator's elements read from an object, and then put where k says (R260). -/
theorem Op.loadTile_completes {k : List Nat → State → State} (h : op.ServedWhole s .read o false accElems)
    (hk : ∀ xs v, (k xs v).resolution = v.resolution) : (do
      modify fun s => s.beginSet op
      let xs ← eachOf accElems fun n => op.readElem o n
      modify (k xs) : Work Unit).Completes s :=
  .bind (.change fun v => v.beginSet_resolution op) fun _ =>
    .bind (.mapM fun _ hn => op.readElem_completes h (List.mem_range.1 hn)) fun xs => .change (hk xs)

/-- The accumulator drained whole into an object (R260). -/
theorem Op.drainTile_completes {m : Nat} {c : ElemClass} {add : Bool} (write : op.Stores s o accElems)
    (read : add = true → op.ServedWhole s .read o false accElems) : (do
      modify fun s => s.beginSet op
      op.drain m c add o ((List.range accElems).map fun n => (n, n))
      modify fun s => s.endSet op : Work Unit).Completes s := by
  refine .bind (.change fun v => v.beginSet_resolution op) fun _ => .bind (op.drain_completes write read fun x hx => ?_) fun _ =>
    .change fun v => v.endSet_resolution op
  obtain ⟨n, hn, rfl⟩ := List.mem_map.1 hx
  exact List.mem_range.1 hn

/-! ## Products (R254, R259) -/

theorem Op.bColumns_completes {p : MmaParts} (block : Nat)
    (h : ∀ b, p.b = some b → op.ServedTile s .read b (Obj.rows b) (Obj.cols b)) : (op.bColumns p block).Completes s := by
  refine .bind .get fun v => ?_
  split
  · exact .ite (fun _ => .bind (.change fun v => v.logWeights_resolution _ _ _) fun _ => .pure _) fun _ =>
      .ite (fun _ => .bind (.change fun v => v.logWeights_resolution _ _ _) fun _ => .pure _) fun _ =>
        .bind (.change fun v => State.setTile_resolution rfl) fun _ => .pure _
  · next o _ named => exact .bind (op.tileRows_completes _ _ _ _ (h o named)) fun _ => .pure _
  · exact .pure _

theorem Op.scaleOf_completes {p : MmaParts} {block : Nat} (h : ∀ x y, p.scales = some (x, y) →
      op.Served s .read y (32 * block / 8) ((Obj.bits y + 7) / 8) ∧
      ∀ r < Obj.rows p.a, op.Served s .read x (32 * (r * Obj.cols x + block) / 8) ((Obj.bits x + 7) / 8)) :
    (op.scaleOf p block).Completes s := by
  refine .mapM fun r hr => ?_
  split
  · exact .pure _
  · next x y named =>
    obtain ⟨column, row⟩ := h x y named
    exact .bind (op.readElemAt_completes _ (row r (List.mem_range.1 hr))) fun _ => .bind (op.readElemAt_completes _ column) fun _ => .pure _

end

/-! ## A sequence (R262 to R264) -/

section
variable {s : State} {op : Op}

/-- Element (x, y) of a block of 128 by 128, cut from an enumeration of n by m elements, is one of them. -/
theorem blockElement_lt {x y n m column row : Nat} (hx : x < min 128 (n - 128 * column)) (hy : y < min 128 (m - 128 * row)) :
    128 * column + x + n * (128 * row + y) < n * m :=
  Nat.add_mul_lt_mul_of_lt_of_lt (by omega) (by omega)

/-- Rows of columns, each read or made without a stop. -/
theorem Work.Yields.grid {w : Nat → Nat → Work Nat} (rows cols : Nat) (h : ∀ r k, (w r k).Completes s) :
    ((List.range rows).mapM fun r => (List.range cols).mapM (w r)).Yields
      (fun g => g.length = rows ∧ ∀ row ∈ g, row.length = cols) s := fun v hv => by
  obtain ⟨g, u, run, ⟨length, widths⟩, hu⟩ := Work.Yields.mapM (xs := List.range rows)
    (fun r _ => Work.Yields.mapM (xs := List.range cols) fun k _ => (h r k).yields) v hv
  refine ⟨g, u, run, ⟨by simpa using length, fun row hrow => ?_⟩, hu⟩
  obtain ⟨width, -⟩ := widths row hrow
  simpa using width

/-- A staging TILE of a sequence is in reach of an operation (R262, R263). -/
def Op.Stages (op : Op) (s : State) (o : Obj) : Prop :=
  Obj.cols o = 128 ∧ op.ServedTile s .write o 128 128 ∧ (Obj.bits o = 4 → op.ServedTile s .read o 128 128)

theorem Op.stage_completes {o : Obj} {g : List (List Nat)} (h : op.Stages s o) (hg : g.length = 128 ∧ ∀ row ∈ g, row.length = 128) :
    (op.stage o g).Completes s := by
  obtain ⟨cols, write, read⟩ := h
  obtain ⟨rows, widths⟩ := hg
  simp only [Op.ServedTile, cols] at write read
  refine .forM fun r hr => .forM fun x hx => ?_
  have row : r.2 < 128 := rows ▸ List.snd_lt_of_mem_zipIdx hr
  have column : x.2 < 128 := widths _ (List.fst_mem_of_mem_zipIdx hr) ▸ List.snd_lt_of_mem_zipIdx hx
  exact op.writeElemAt_completes _ (write _ row _ column) fun nibble => read nibble _ row _ column

theorem Op.mseqEnd_completes {sh : MseqShape} {c : Obj} {bar : List Obj} (h : ∀ o ∈ bar, op.Served s .write o 0 0) :
    (op.mseqEnd sh c bar).Completes s :=
  .bind (.forM fun o ho => (h o ho).reach_bind fun _ region => .change fun v => v.lowerBarrier_resolution _ _ _ _ region) fun _ =>
    .change fun v => v.endSet_resolution op

theorem Op.mseqBlock_completes {id m : Nat} {sh : MseqShape} {a b c sa sb : Obj} {bar : List Obj} {add : Bool}
    (readA : op.ServedWhole s .read a false (sh.k * sh.m)) (readB : op.ServedWhole s .read b false (sh.n * sh.k))
    (stageA : op.Stages s sa) (stageB : op.Stages s sb) (write : op.Stores s c (sh.n * sh.m))
    (read : add = true → op.ServedWhole s .read c false (sh.n * sh.m)) (arrive : ∀ o ∈ bar, op.Served s .write o 0 0) :
    (op.mseqBlock id m sh a b c sa sb bar add).Completes s := by
  refine .bind (.change fun v => ?begin) fun _ => .bind .get fun start => ?_
  case begin =>
    split
    · exact v.beginSet_resolution op
    · rfl
  extract_lets kb nts mt nt blk rows cols depth goesOn products
  have goesOn_completes : (goesOn ()).Completes s := .bind .get fun v =>
    .ite (fun _ => op.mseqEnd_completes arrive) fun _ => .change fun v => (State.noteProgress_resolution ..).trans rfl
  have drained : ∀ x ∈ (List.range (rows * cols)).map fun x =>
      (128 * (x / cols) + x % cols, 128 * nt + x % cols + sh.n * (128 * mt + x / cols)), x.2 < sh.n * sh.m := fun x hx => by
    obtain ⟨i, hi, rfl⟩ := List.mem_map.1 hx
    have hi : i < cols * rows := by rw [Nat.mul_comm]; exact List.mem_range.1 hi
    have column : i % cols < cols := Nat.mod_lt _ (Nat.pos_of_lt_mul_right hi)
    have row : i / cols < rows := Nat.div_lt_of_lt_mul hi
    exact blockElement_lt column row
  have products_complete : (products ()).Completes s := by
    refine (Work.Yields.grid 128 128 fun r k => ?rowsOfA).bind fun as gridA => (Work.Yields.grid 128 128 fun k n => ?rowsOfB).bind
      fun bs gridB => .bind (op.stage_completes stageA gridA) fun _ => .bind (op.stage_completes stageB gridB) fun _ =>
      .bind (.change fun v => ?added) fun _ => .ite (fun _ => .bind (op.drain_completes write read drained) fun _ => goesOn_completes)
      fun _ => goesOn_completes
    case rowsOfA =>
      exact .ite (fun ⟨row, column⟩ => op.readElem_completes readA (blockElement_lt column row)) fun _ => .pure _
    case rowsOfB =>
      exact .ite (fun ⟨row, column⟩ => op.readElem_completes readB (blockElement_lt column row)) fun _ => .pure _
    case added => simp
  exact .ite (fun _ => .bind (.change fun v => by simp) fun _ => products_complete) fun _ => products_complete

end

/-! ## The events of aq at a set that may perform -/

/-- A drain of a whole accumulator, from the event of its word (R260). -/
theorem drains_of_set {ev : Nat → Instr} {k : Nat → State → Op → State} {name : Op → Option (Nat × BitVec 2)} {add : Bool}
    (hx : ∀ id s, exec (ev id) s = .next (s.withSet id (k id s)))
    (hk : ∀ id s op m c o, name op = some (m, c) → op.objs = [o] → k id s op = s.drainTile id op m c add o) (o : Obj) (m : Nat)
    (c : BitVec 2) : PerformsAs ev (fun op => op.signers ≠ [] ∧ name op = some (m, c) ∧ op.objs = [o])
      (fun s op => op.Stores s o accElems ∧ (add = true → op.ServedWhole s .read o false accElems)) fun _ op => (do
        modify fun s => s.beginSet op
        op.drain m (accClass c) add o ((List.range accElems).map fun n => (n, n))
        modify fun s => s.endSet op) :=
  performsAs_of_set hx (fun _ ⟨signed, _⟩ => signed) (fun id s op ⟨_, named, ho⟩ => hk id s op m c o named ho)
    fun _ _ op _ ⟨write, read⟩ => op.drainTile_completes write read

section
variable {s : State} {id : Nat} {op : Op} (due : Due s id op) (signed : op.signers ≠ [])
include due signed

theorem acczPerform_zeroes {f : AccForm} (hi : op.instr = .accz f) : exec (.acczPerform id) s =
    .next ((((s.beginSet op).setAcc op.tile f.m.toNat []).mendAcc op.tile f.m.toNat).endSet op) := by
  rw [exec_set_due rfl due signed]
  simp only [hi]

variable {p : MmaParts} (parts : (s.startCb3 op).mmaParts = some p)
include parts

/-- A product whose CB3 slot is not yet expanded waits (R254). -/
theorem mmaPerform_waits (h : (s.startCb3 op).bytes ≠ 0 ∧ (s.startCb3 op).signArgs.length < cb3Cols (s.startCb3 op).bytes) :
    exec (.mmaPerform id) s = .next (State.charge { s.beginSet op with
      ops := Map.set s.ops id { s.startCb3 op with progress := (s.startCb3 op).progress + 1 } } (s.startCb3 op).tid 3 1) := by
  rw [exec_set_due rfl due signed]
  simp only [parts]
  rw [if_pos h]

variable {n block : Nat} (slot : p.slot = some n) (started : (s.startCb3 op).bytes ≠ 0) (inside : block < cb3Cols (s.startCb3 op).bytes)
include slot started inside

/-- The column of a table that has arrived is expanded (R254). -/
theorem blockExpand_expands {t : List Word}
    (arrived : Map.get? (s.weightSlot (s.startCb3 op).tile n).tables (cb3Bank (s.startCb3 op).bytes * 128 + block) = some t)
    (fresh : Map.get? (s.startCb3 op).signArgs block = none) :
    let now := s.startCb3 op
    let waited := if now.progress = 0 then s
      else s.emitOp now 5 (toBytes 1 n ++ toBytes 1 block ++ [0, 0] ++ toBytes 4 now.progress)
    let expanded := { now with signArgs := Map.set now.signArgs block (waited.expandColumn now.tile n block t), progress := 0 }
    exec (.blockExpand id block) s = .next { waited with ops := Map.set waited.ops id expanded } := by
  rw [exec_set_due rfl due signed]
  simp only [parts, slot]
  rw [if_neg fun h => h.elim started inside.not_ge]
  simp only [arrived, fresh]

/-- Without its table, or once expanded, a column changes nothing but that the operation has started (R254). -/
theorem blockExpand_keeps
    (h : Map.get? (s.weightSlot (s.startCb3 op).tile n).tables (cb3Bank (s.startCb3 op).bytes * 128 + block) = none ∨
      Map.get? (s.startCb3 op).signArgs block ≠ none) :
    exec (.blockExpand id block) s = .next { s with ops := Map.set s.ops id (s.startCb3 op) } := by
  rw [exec_set_due rfl due signed]
  simp only [parts, slot]
  rw [if_neg fun h => h.elim started inside.not_ge]
  split
  · next t arrived fresh => exact absurd h (by simp [arrived, fresh])
  · rfl

end

/-- Settles O39: each event finds its set and does its work, and the work completes because every element that it reads, stages or
writes is one of those in reach; for a sequence, because the elements of its blocks lie within M, N and K (`blockElement_lt`). -/
theorem anvilPerforms : Obligations.AnvilPerforms := by
  refine ⟨fun _ _ _ _ due signed => acczPerform_zeroes due signed, fun f o => ?accld, ?accst, ?accstAdd,
    fun s id op f due signed hi => ?accrd, fun s id op p due signed parts => ⟨fun started few => ?waits, fun ready => ?products⟩,
    fun s id op p n block due signed parts slot started inside => ?expand, fun f a b c sa sb bar kd flags more => ⟨?ends, ?continues⟩,
    waits_of_withSet fun _ _ => rfl, waits_of_withSet fun _ _ => rfl, waits_of_withSet fun _ _ => rfl, waits_of_withSet fun _ _ => rfl,
    waits_of_withSet fun _ _ => rfl, waits_of_withSet fun _ _ => rfl, waits_of_withSet fun _ _ => rfl, waits_of_withSet fun _ _ => rfl⟩
  case accld =>
    exact performsAs_of_set (fun _ _ => rfl) (fun _ ⟨signed, _⟩ => signed) (fun id s op ⟨_, hi, ho⟩ => by simp only [hi, ho])
      fun _ _ op _ reach => op.loadTile_completes reach fun xs v => by simp
  case accst | accstAdd =>
    refine drains_of_set (fun _ _ => rfl) fun id s op m c o named ho => ?_
    split at named
    · next f hi =>
      cases named
      simp only [hi, ho]
    · cases named
  case accrd =>
    intro elem v
    rw [exec_set_due rfl due signed]
    simp only [hi, v, elem, State.beginSet_ops]
  case waits => exact mmaPerform_waits due signed parts ⟨started, few⟩
  case products =>
    refine performs_of_work ?_ fun ⟨a, b, scales⟩ => Work.Completes.runs ?_
    · rw [exec_set_due rfl due signed]
      simp only [parts]
      rw [if_neg fun ⟨started, few⟩ => ready.elim started few.not_ge]
    · refine .bind (.change fun v => by simp) fun _ => .bind (.forM fun block hblock => ?_) fun _ => .change fun v => by simp
      exact .bind (Op.tileRows_completes _ _ _ _ a) fun _ => .bind (Op.bColumns_completes block b) fun _ => .bind
        (Op.scaleOf_completes fun x y named => scales x y named block (List.mem_range.1 hblock)) fun _ => .bind
        (.change fun v => by simp) fun _ => .change fun v => by simp
  case expand =>
    exact ⟨fun t => blockExpand_expands due signed parts slot started inside, blockExpand_keeps due signed parts slot started inside⟩
  case ends =>
    refine performsAs_of_set (fun _ _ => rfl) (fun _ ⟨⟨signed, _⟩, _⟩ => signed) (fun id s op ⟨⟨_, hi, ho, ha⟩, last⟩ => ?_)
      fun _ _ op _ arrive => op.mseqEnd_completes arrive
    simp only [hi, ho, ha]
    rw [if_pos last]
  case continues =>
    refine performsAs_of_set (fun _ _ => rfl) (fun _ ⟨⟨signed, _⟩, _⟩ => signed) (fun id s op ⟨⟨_, hi, ho, ha⟩, more⟩ => ?_)
      fun _ _ op _ ⟨readA, readB, stages, write, read, arrive⟩ =>
        op.mseqBlock_completes readA readB (stages sa (by simp)) (stages sb (by simp)) write read arrive
    simp only [hi, ho, ha]
    rw [if_neg more]

end Sys2Proof.Machine
end

section
/-! PROOFS. What translating an address and reading leave as it was (R102, R213, R304, R313, R319 to R322, R363, R412), and why neither an
access nor the end of a region changes the chain in progress (R57). -/
namespace Sys2Proof.Machine

/-! ## Reads -/

/-- A part of the state in which nothing shows that translating an address or reading sets off: the latch of TIMENS, free values taken, what
walks hold, requests to other packages, a thread changed, a refresh count, a tile that keeps its ERRSTICKY. -/
structure Unread {β : Type} (f : State → β) : Prop where
  latch : ∀ (s : State) t, f { s with timing := t } = f s
  taken : ∀ (s : State) n, f { s with free := n } = f s
  walkers : ∀ (s : State) w, f { s with walkers := w } = f s
  requests : ∀ (s : State) n k c, f { s with nextId := n, free := k, fabric := c } = f s
  thread : ∀ (s : State) tid g, f (s.modThread tid g) = f s
  refresh : ∀ (s : State) n r, f (s.setPch n r) = f s
  tile : ∀ (s : State) n (t : Tile), t.errsticky = (s.tile n).errsticky → f (s.setTile n t) = f s

theorem unread_issue : Unread State.issue where
  latch _ _ := rfl
  taken _ _ := rfl
  walkers _ _ := rfl
  requests _ _ _ _ := rfl
  thread := State.modThread_issue
  refresh _ _ _ := rfl
  tile _ _ _ _ := rfl

/-- Whether a thread is there. -/
theorem unread_present (tid : Nat) : Unread fun s => (s.thread? tid).isSome where
  latch _ _ := rfl
  taken _ _ := rfl
  walkers _ _ := rfl
  requests _ _ _ _ := rfl
  thread s k g := by
    by_cases hk : tid = k
    · rw [hk, State.modThread_same, Option.isSome_map]
    · rw [State.modThread_other _ _ hk]
  refresh _ _ _ := rfl
  tile _ _ _ _ := rfl

theorem unread_sticky (n : Nat) : Unread fun s => (s.tile n).errsticky where
  latch _ _ := rfl
  taken _ _ := rfl
  walkers _ _ := rfl
  requests _ _ _ _ := rfl
  thread s tid g := by rw [State.tile, State.modThread_tiles, State.tile]
  refresh _ _ _ := rfl
  tile s k t h := by
    by_cases hk : n = k
    · rw [hk, State.setTile_same, h]
    · rw [State.setTile_other _ _ hk]

section
variable {β : Type} {f : State → β} (h : Unread f)
include h

theorem Unread.mmioRead (s : State) (off n : Nat) : f (s.mmioRead off n).2 = f s := by
  simp only [State.mmioRead]
  split
  · exact h.latch ..
  · rfl

theorem Unread.walkRead (s : State) (die ctx level pa : Nat) : f (s.walkRead die ctx level pa).2 = f s := by
  unfold State.walkRead State.tableWord
  split
  · rfl
  · split
    · rfl
    · rfl
    · exact h.mmioRead ..
    · exact h.taken ..

theorem Unread.walk (die ctx va : Nat) (kind : AccKind) : ∀ (fuel level table : Nat) (s : State),
    f (s.walk die ctx va kind fuel level table).2 = f s
  | 0, _, _, _ => rfl
  | fuel + 1, level, table, s => by
    have read := h.walkRead s die ctx level (table + 8 * (va / 2 ^ levelShift level % levelEntries level))
    simp only [State.walk]
    generalize s.walkRead die ctx level (table + 8 * (va / 2 ^ levelShift level % levelEntries level)) = r at read ⊢
    have deeper := Unread.walk die ctx va kind fuel (level + 1) (r.1 / 2 ^ 12 % 2 ^ 40 * 2 ^ 12) r.2
    split
    · split <;> exact read
    · split
      · exact read
      · split
        · split <;> exact read
        · split
          · rename_i hw
            rw [hw] at deeper
            exact deeper.trans read
          · exact deeper.trans read

theorem Unread.keepWalk (s : State) (die : Nat) (es : List WalkEntry) : f (s.keepWalk die es) = f s := by
  simp only [State.keepWalk]
  split
  · rfl
  · exact h.walkers ..

theorem Unread.walkFill (s : State) (priv : Bool) (tile ctx va : Nat) (kind : AccKind) (root : Nat) :
    f (s.walkFill priv tile ctx va kind root).2 = f s := by
  have walked := h.walk (dieOf tile) ctx va kind 4 0 root s
  unfold State.walkFill
  split
  · rename_i hw
    rw [hw] at walked
    exact walked
  · rename_i hw
    rw [hw] at walked
    split
    · refine (h.tile _ _ _ ?_).trans ((h.keepWalk ..).trans walked)
      rfl
    · exact walked

theorem Unread.translateAs (s : State) (priv : Bool) (tile ctx va : Nat) (kind : AccKind) :
    f (s.translateAs priv tile ctx va kind).2 = f s := by
  cases he : s.tlbEntry tile ctx va with
  | some e => rw [translateAs_hit he]
  | none =>
    rcases translateAs_miss (priv := priv) (kind := kind) he with hx | ⟨root, hx⟩
    · rw [hx]
    · rw [hx]
      exact h.walkFill ..

theorem Unread.energy (s : State) (tile ctx n k : Nat) : f (s.energy tile ctx n k) = f s := h.tile _ _ _ (by rfl)

theorem Unread.accessEnergy (s : State) (tile ctx pa n : Nat) : f (s.accessEnergy tile ctx pa n) = f s := by
  unfold State.accessEnergy
  split
  · exact (h.energy ..).trans (h.energy ..)
  · exact (h.energy ..).trans (h.energy ..)
  · exact h.energy ..
  · rfl

theorem Unread.chargeHeld (s : State) (tid pa : Nat) : f (s.chargeHeld tid pa) = f s := by
  unfold State.chargeHeld
  split
  · rfl
  · split
    · exact h.thread ..
    · split
      · exact h.thread ..
      · rfl

theorem Unread.chargeAccess (s : State) (tid pa : Nat) : f (s.chargeAccess tid pa) = f s := by
  unfold State.chargeAccess
  split
  · rfl
  · refine (h.taken ..).trans ((h.thread ..).trans ?_)
    split
    · exact (h.thread ..).trans (h.chargeHeld ..)
    · exact h.chargeHeld ..

theorem Unread.duePoint (s : State) (pch tid : Nat) : f (s.duePoint pch tid) = f s := by
  simp only [State.duePoint]
  split
  · exact h.refresh ..
  · exact (h.thread ..).trans (h.refresh ..)

theorem Unread.acceptRead (s : State) (tid pa : Nat) : f (s.acceptRead tid pa) = f s := by
  simp only [State.acceptRead]
  split
  · exact h.chargeAccess ..
  · split
    · split
      · exact (h.duePoint ..).trans ((h.refresh ..).trans (h.chargeAccess ..))
      · exact (h.refresh ..).trans (h.chargeAccess ..)
    · exact h.chargeAccess ..

theorem Unread.send (s : State) (r : Retry) : f (s.send r) = f s := h.requests ..

theorem Unread.sendLane (s : State) (no pa : Nat) (r : Retry) : f (s.sendLane no pa r) = f s := by
  unfold State.sendLane
  split
  · exact h.send ..
  · split
    · exact h.requests ..
    · exact h.send ..

theorem Unread.readAt (s : State) (t : Thread) (tid no pa n : Nat) : f (s.readAt t tid no pa n).2 = f s := by
  simp only [State.readAt, State.readBeyond]
  split
  · exact h.mmioRead s _ n
  · exact h.taken ..
  · exact (h.taken ..).trans ((h.accessEnergy ..).trans (h.sendLane ..))
  · exact (h.accessEnergy ..).trans (h.acceptRead ..)

theorem Unread.reach (s : State) (t : Thread) (off size : Nat) (kind : AccKind) : f (s.reach t off size kind).2 = f s := by
  have moved := h.translateAs s (s.privileged t.ctx) t.tile t.ctx (t.vaOf off) kind
  simp only [State.reach, State.translate]
  generalize s.translateAs (s.privileged t.ctx) t.tile t.ctx (t.vaOf off) kind = r at moved ⊢
  obtain ⟨x, u⟩ := r
  split
  · rfl
  · split
    · split
      · split <;> rfl
      · rfl
    · cases x with
      | ok pa nrd =>
        dsimp only
        split <;> exact moved
      | pgfault _ => exact moved
      | pgfatal => exact moved

end

end Sys2Proof.Machine
end

section
/-! PROOFS. Neither an access, nor the end of a region, nor an arrival changes the chain in progress (R57, R291 to R296, R314, R328). -/
namespace Sys2Proof.Machine

/-! ## Writes (R311, R313, R379) -/

/-- A choice between two values that agree in a part. -/
theorem ite_keeps {α β : Type} {f : α → β} {p : Prop} [Decidable p] {x y : α} {b : β} (hx : f x = b) (hy : f y = b) :
    f (if p then x else y) = b := by
  split
  · exact hx
  · exact hy

@[simp] theorem State.moveClock_issue (s : State) (new : Int) : (s.moveClock new).issue = s.issue := by
  simp only [State.moveClock]

/-- By the branches of the register map, one after another. -/
@[simp] theorem State.mmioSetWord_issue (s : State) (off v : Nat) : (s.mmioSetWord off v).issue = s.issue := by
  unfold State.mmioSetWord
  refine ite_keeps (s.moveClock_issue _) ?_
  repeat refine ite_keeps (f := State.issue) rfl ?_
  rfl

@[simp] theorem State.mmioPut_issue (s : State) (w v : Nat) : (s.mmioPut w v).issue = s.issue :=
  ite_keeps rfl (s.mmioSetWord_issue w v)

@[simp] theorem State.mmioWrite_issue (s : State) (off n v : Nat) : (s.mmioWrite off n v).issue = s.issue := by
  simp only [State.mmioWrite]
  refine ite_keeps (f := State.issue) rfl (ite_keeps ?_ ?_) <;> simp

@[simp] theorem State.mmioStore_issue (s : State) (base : Nat) (bs : Map Byte) : (s.mmioStore base bs).issue = s.issue :=
  foldl_keeps (f := State.issue) (fun _ _ => (State.wake_issue ..).trans (State.mmioWrite_issue ..)) _ s

@[simp] theorem State.sendStore_issue (s : State) (no tid p pa : Nat) (bs : Map Byte) : (s.sendStore no tid p pa bs).issue = s.issue :=
  (State.modThread_issue ..).trans (unread_issue.sendLane ..)

@[simp] theorem State.haltUntrapped_issue (s : State) (t : Thread) : (s.haltUntrapped t).issue = s.issue := State.fatal_issue ..

@[simp] theorem State.fatalThread_issue (s : State) (tid : Nat) : (s.fatalThread tid).issue = s.issue := by
  unfold State.fatalThread
  split
  · rfl
  · exact State.fatal_issue ..

/-- Bytes written one by one, each then waking what waits on it. -/
theorem writtenBytes_issue (s : State) (bs : Map Byte) (place : Nat → Nat) :
    (bs.foldl (fun v (c : Nat × Byte) => v.wakeGranules (place c.1) 1)
      (bs.foldl (fun v (c : Nat × Byte) => v.setByte (place c.1) c.2) s)).issue = s.issue :=
  (foldl_keeps (f := State.issue) (fun _ _ => State.wake_issue ..) bs _).trans
    (foldl_keeps (f := State.issue) (fun _ _ => State.setByte_issue ..) bs s)

@[simp] theorem State.perform_issue (s : State) (tid : Nat) (bs : Map Byte) : (s.perform tid bs).issue = s.issue := by
  unfold State.perform
  split
  case h_1 => rfl
  case h_2 pa _ _ =>
    split
    case h_1 => exact s.mmioStore_issue _ _
    case h_2 =>
      split
      · exact writtenBytes_issue s _ (· % 2 ^ 40)
      · split
        · exact s.sendStore_issue ..
        · exact s.fatalThread_issue tid
    case h_3 => rfl
    case h_4 => rfl
    case h_5 => exact (State.modThread_issue ..).trans (foldl_keeps (f := State.issue) (fun _ _ => State.setByte_issue ..) _ s)
    case h_6 => exact (writtenBytes_issue (s.chargeAccess tid pa) _ id).trans (unread_issue.chargeAccess ..)

@[simp] theorem State.noteStale_issue (s : State) (tid : Nat) (bs : Map Byte) : (s.noteStale tid bs).issue = s.issue :=
  State.modThread_issue ..

/-! ## Lines and regions (R314, R328) -/

@[simp] theorem State.drainLine_issue (s : State) (tile : Nat) (l : Line) : (s.drainLine tile l).issue = s.issue := by
  simp [State.drainLine]

@[simp] theorem State.drainThread_issue (s : State) (tid : Nat) : (s.drainThread tid).issue = s.issue := by
  unfold State.drainThread
  split
  · rfl
  · exact foldl_keeps (f := State.issue) (fun v l => v.drainLine_issue _ l) _ s

@[simp] theorem State.regionEnd_issue (s : State) (tid : Nat) (scope : Option Nat) : (s.regionEnd tid scope).issue = s.issue := by
  unfold State.regionEnd
  split
  · rfl
  · refine (State.endRegion_issue ..).trans ?_
    exact ite_keeps (s.drainThread_issue tid) (s.drainThread_issue tid)

@[simp] theorem State.resetTags_issue (s : State) (pa n : Nat) : (s.resetTags pa n).issue = s.issue := by
  refine foldl_keeps (f := State.issue) (fun v i => ?_) _ s
  refine ite_keeps rfl (ite_keeps ?_ rfl)
  unfold State.putTag
  split <;> rfl

/-! ## Fences (R290, R378) -/

@[simp] theorem State.addFence_issue (s : State) (tid : Nat) (f : Fence) : (s.addFence tid f).issue = s.issue := by
  unfold State.addFence
  split
  · rfl
  · exact State.modThread_issue ..

@[simp] theorem State.flushHost_issue (s : State) (tid : Nat) (ps : List Nat) : (s.flushHost tid ps).issue = s.issue :=
  State.modThread_issue ..

/-! ## Trace records and barriers (R292, R296, R407) -/

@[simp] theorem State.emit_issue (s : State) (kind ctx tile part : Nat) (wid : BitVec 64) (payload : List Byte) :
    (s.emit kind ctx tile part wid payload).issue = s.issue :=
  State.emit_keeps (f := State.issue) (fun s pa bs => s.setBytes_issue bs pa) (fun _ _ _ => rfl) (fun _ _ => rfl) ..

@[simp] theorem State.writeBarrier_issue (s : State) (tid pa n v : Nat) : (s.writeBarrier tid pa n v).issue = s.issue := by
  simp [State.writeBarrier]

@[simp] theorem State.lowerBarrier_issue (s : State) (tid ctx index pa u : Nat) : (s.lowerBarrier tid ctx index pa u).issue = s.issue := by
  simp only [State.lowerBarrier, State.emitZero]
  split <;> simp

@[simp] theorem State.countArrival_issue (s : State) (cell n : Nat) : (s.countArrival cell n).issue = s.issue := by
  simp only [State.countArrival, State.testBars]
  split
  · exact State.modCell_issue ..
  · refine (State.modCell_issue ..).trans ((foldl_keeps (f := State.issue) (fun v _ => ?_) _ _).trans (State.modCell_issue ..))
    exact State.emit_issue ..

@[simp] theorem State.performArrival_issue (s : State) (cell tid : Nat) (a : Arrival) : (s.performArrival cell tid a).issue = s.issue := by
  unfold State.performArrival
  split <;> simp

@[simp] theorem State.arriveAfter_issue (s : State) (tid : Nat) (a : Arrival) : (s.arriveAfter tid a).issue = s.issue := by
  unfold State.arriveAfter
  split
  · rfl
  · simp only [State.settleArrivals]
    split
    · simp
    · split
      · simp
      · exact (foldl_keeps (f := State.issue) (fun v a => v.performArrival_issue _ _ a) _ _).trans (by simp)

@[simp] theorem State.barArrive_issue (s : State) (tid n : Nat) : (s.barArrive tid n).issue = s.issue := by
  simp only [State.barArrive]
  split <;> simp

/-! ## Entries that leave their partition (R148) -/

@[simp] theorem State.eccStop_issue (s : State) (tid pa : Nat) : (s.eccStop tid pa).issue = s.issue := by
  unfold State.eccStop State.logError
  split
  · rfl
  · refine (State.haltUntrapped_issue ..).trans ?_
    dsimp only
    split <;> rfl

@[simp] theorem State.finishEntry_issue (s : State) (tid id : Nat) : (s.finishEntry tid id).issue = s.issue := State.modThread_issue ..

@[simp] theorem State.unfile_issue (s : State) (tid : Nat) : (s.unfile tid).issue = s.issue := by
  unfold State.unfile
  split
  · rfl
  · split
    · exact ite_keeps (State.modThread_issue ..) (State.modThread_issue ..)
    · exact State.modThread_issue ..
    · exact State.modThread_issue ..

@[simp] theorem State.file_issue (s : State) (tid pc : Nat) (key : BitVec 16) (wait : Wake) : (s.file tid pc key wait).issue = s.issue := by
  unfold State.file
  split
  · rfl
  · split
    · exact State.modThread_issue ..
    · dsimp only
      split <;> simp

@[simp] theorem State.parkAt_issue (s : State) (tid pc : Nat) (w : Wake) : (s.parkAt tid pc w).issue = s.issue := by
  unfold State.parkAt
  split
  · rfl
  · exact ite_keeps ((State.modThread_issue ..).trans (s.file_issue ..)) (State.modThread_issue ..)

@[simp] theorem State.loadAt_issue (s : State) (t : Thread) (tid : Nat) (e : Entry) (pa size : Nat) (sz : BitVec 3) :
    (s.loadAt t tid e pa size sz).issue = s.issue :=
  ite_keeps (s.eccStop_issue tid pa) ((State.modThread_issue ..).trans (unread_issue.readAt ..))

@[simp] theorem State.waitvAt_issue (s : State) (t : Thread) (tid : Nat) (e : Entry) (pa : Nat) :
    (s.waitvAt t tid e pa).issue = s.issue := by
  have finished : ((s.readAt t tid 0 pa 4).2.finishEntry tid e.id).issue = s.issue :=
    (State.modThread_issue ..).trans (unread_issue.readAt ..)
  exact ite_keeps (s.eccStop_issue tid pa) (ite_keeps ((State.parkAt_issue ..).trans finished) finished)

@[simp] theorem State.storeBytes_issue (s : State) (t : Thread) (tid pa : Nat) (bs : List Byte) :
    (s.storeBytes t tid pa bs).issue = s.issue := by
  unfold State.storeBytes
  refine ite_keeps (f := State.issue) ?_ rfl
  split
  · exact State.drainLine_issue ..
  · rfl

@[simp] theorem State.storeAt_issue (s : State) (t : Thread) (tid no pa : Nat) (bs : List Byte) :
    (s.storeAt t tid no pa bs).issue = s.issue := by
  refine (unread_issue.accessEnergy ..).trans ?_
  split
  · exact ite_keeps (s.sendStore_issue ..) (s.storeBytes_issue ..)
  · exact s.storeBytes_issue ..

@[simp] theorem State.storeLeft_issue (s : State) (t : Thread) (tid id : Nat) : (s.storeLeft t tid id).issue = s.issue :=
  (State.modThread_issue ..).trans (ite_keeps ((State.modThread_issue ..).trans (s.drainThread_issue tid)) rfl)

@[simp] theorem State.beforeRelease_issue (s : State) (tid scope pa : Nat) : (s.beforeRelease tid scope pa).2.issue = s.issue := by
  have drained := s.drainThread_issue tid
  exact ite_keeps (f := fun r : Bool × State => r.2.issue) drained ((State.flushHost_issue ..).trans drained)

@[simp] theorem State.releaseAt_issue (s : State) (t : Thread) (tid scope pa : Nat) (bs : List Byte) :
    (s.releaseAt t tid scope pa bs).issue = s.issue := by
  refine (unread_issue.accessEnergy ..).trans ?_
  unfold State.releaseTo
  split
  · refine ite_keeps (by simp) ((State.modThread_issue ..).trans ((unread_issue.send ..).trans (by simp)))
  · simp

@[simp] theorem State.leaveFor_issue (s : State) (t : Thread) (tid : Nat) (e : Entry) (pa size : Nat) :
    (s.leaveFor t tid e pa size).2.issue = s.issue := by
  unfold State.leaveFor
  split
  case h_1 => exact s.loadAt_issue ..
  case h_2 => exact s.loadAt_issue ..
  case h_3 => exact s.waitvAt_issue ..
  case h_4 => split <;> simp
  case h_5 =>
    dsimp only
    split <;> simp
  case h_6 i _ _ _ _ _ =>
    have goes (r : Bool × State) (hr : r.2.issue = s.issue) : (if !r.1 || !(r.2.roomAway pa) then (false, r.2)
        else (true, (r.2.chargeHeld tid pa).modThread tid fun t => t.modEntry e.id fun e =>
          { e with state := .flight, due := r.2.servedFrom pa })).2.issue = s.issue :=
      ite_keeps (f := fun r : Bool × State => r.2.issue) hr ((State.modThread_issue ..).trans ((unread_issue.chargeHeld ..).trans hr))
    refine goes _ ?_
    split
    · exact s.beforeRelease_issue ..
    · exact s.drainThread_issue tid

/-- An access that does not resolve leaves its thread parked, or halts its context (`dispatchAccess_reached` says why the definition is
unfolded so). -/
theorem dispatchAccess_unresolved {s u : State} {tid : Nat} {t : Thread} {e : Entry} {x : Access} {r : Reach}
    (h : s.reach t x.off x.size x.kind = (r, u)) (hr : ∀ pa nrd, r ≠ .ok pa nrd) :
    ∃ g, s.dispatchAccess t tid e x = (true, u.modThread tid g) ∨ s.dispatchAccess t tid e x = (true, u.fatalThread tid) := by
  generalize hf : @State.dispatchAccess = dispatch
  delta State.dispatchAccess at hf
  subst hf
  beta_reduce
  rw [h]
  cases r with
  | ok pa nrd => exact absurd rfl (hr pa nrd)
  | fault f => exact ⟨_, .inl rfl⟩
  | trap c i => exact ⟨id, .inr rfl⟩

@[simp] theorem State.dispatchAccess_issue (s : State) (t : Thread) (tid : Nat) (e : Entry) (x : Access) :
    (s.dispatchAccess t tid e x).2.issue = s.issue := by
  have reached := unread_issue.reach s t x.off x.size x.kind
  cases hr : s.reach t x.off x.size x.kind with
  | mk r u =>
    rw [hr] at reached
    by_cases resolved : ∃ pa nrd, r = .ok pa nrd
    · obtain ⟨pa, nrd, rfl⟩ := resolved
      rw [dispatchAccess_reached hr]
      exact ite_keeps (f := fun r : Bool × State => r.2.issue) reached ((State.leaveFor_issue ..).trans reached)
    · obtain ⟨g, h | h⟩ := dispatchAccess_unresolved (tid := tid) (e := e) hr fun pa nrd hr => resolved ⟨pa, nrd, hr⟩
      · rw [h]
        exact (State.modThread_issue ..).trans reached
      · rw [h]
        exact (State.fatalThread_issue ..).trans reached

@[simp] theorem State.dispatchEntry_issue (s : State) (tid : Nat) (e : Entry) : (s.dispatchEntry tid e).2.issue = s.issue := by
  unfold State.dispatchEntry
  split
  · rfl
  · split
    · rfl
    · split
      · rfl
      · split
        · exact s.dispatchAccess_issue ..
        · refine ite_keeps ((State.finishEntry_issue ..).trans ?_) ((State.modThread_issue ..).trans ?_)
          all_goals exact ite_keeps (s.drainThread_issue tid) rfl

theorem State.dispatchFrom_issue (tid : Nat) : ∀ (es : List Entry) (s : State), (s.dispatchFrom tid es).issue = s.issue
  | [], _ => rfl
  | e :: es, s => by
    have left := s.dispatchEntry_issue tid e
    unfold State.dispatchFrom
    split
    · rename_i hd
      rw [hd] at left
      exact (State.dispatchFrom_issue tid es _).trans left
    · rename_i hd
      rw [hd] at left
      exact left

@[simp] theorem State.dispatchThread_issue (s : State) (tid : Nat) : (s.dispatchThread tid).issue = s.issue := by
  unfold State.dispatchThread
  split
  · rfl
  · exact State.dispatchFrom_issue ..

end Sys2Proof.Machine
end

section
/-! PROOFS. The checks of an object-table entry, one after another, each with its TFINFO (R235 to R238). -/
namespace Sys2Proof.Machine

section
variable {tile ctx idx : Nat} {kinds : List ObjKind} {rights : Nat} {s s1 : State}

/-- An index beyond the table names no entry (R235). -/
theorem readEntry_beyond {c : Context} (hc : s.ctx? ctx = some c) (h : c.otcount.toNat % 2 ^ 17 ≤ idx) :
    readEntry tile ctx idx s = .error (.trap .bounds idx) := by
  simp only [readEntry, hc]
  exact if_pos h

theorem checkEntry_unread {x : Stop} (h : readEntry tile ctx idx s = .error x) : checkEntry tile ctx idx kinds rights s = .error x := by
  simp only [checkEntry, Bind.bind, StateT.bind, Except.bind, h]

variable {o : Obj} {k : ObjKind} (entry : readEntry tile ctx idx s = .ok (o, s1))
include entry

theorem checkEntry_empty (holds : Obj.holds o = false) : checkEntry tile ctx idx kinds rights s = .error (.trap .bounds idx) := by
  rw [checkEntry, Work.bind_ok entry]
  exact Work.need_fails _ _ _ holds

variable (holds : Obj.holds o = true) (kind : Obj.kind? o = some k)
include holds kind

theorem checkEntry_otherKind (other : k ∉ kinds) : checkEntry tile ctx idx kinds rights s = .error (.trap .rights idx) := by
  rw [checkEntry, Work.bind_ok entry, Work.within, Work.need_holds _ _ holds]
  exact Work.need_fails _ _ _ (by simpa [kind] using other)

variable (accepted : k ∈ kinds)
include accepted

theorem checkEntry_withoutRights (missing : rights &&& (63 - Obj.rights o) ≠ 0) :
    checkEntry tile ctx idx kinds rights s = .error (.trap .rights (idx + (rights &&& (63 - Obj.rights o)) * 2 ^ 16)) := by
  rw [checkEntry, Work.bind_ok entry, Work.within, Work.need_holds _ _ holds, Work.need_holds _ _ (by simpa [kind] using accepted)]
  exact Work.need_fails _ _ _ (by simpa using missing)

theorem checkEntry_passes (enough : rights &&& (63 - Obj.rights o) = 0) : checkEntry tile ctx idx kinds rights s = .ok (o, s1) :=
  checkEntry_iff.2 ⟨entry, holds, by simpa [kind] using accepted, enough⟩

end

/-- Settles O33: each check is the next step of `checkEntry`, once those before it have passed. -/
theorem objectChecks : Obligations.ObjectChecks :=
  ⟨fun _ _ _ _ _ _ _ hc beyond => checkEntry_unread (readEntry_beyond hc beyond), fun _ _ _ _ _ _ _ _ => checkEntry_empty,
    fun _ _ _ _ _ _ _ _ _ => checkEntry_otherKind, fun _ _ _ _ _ _ _ _ _ => checkEntry_withoutRights,
    fun _ _ _ _ _ _ _ _ _ => checkEntry_passes⟩

end Sys2Proof.Machine
end

section
/-! PROOFS. Fences and named barriers (R245, R290 to R293, R323, R328). -/
namespace Sys2Proof.Machine

/-! ## Words whose effect keeps the chain in progress (R57) -/

/-- A word that changes the state by g, whose effect keeps the chain. -/
theorem modifies_does {i : Instr} {P : State → Lane → Prop} {e : State → Issue → Lane → State → State}
    {w : Issue → Nat → Lane → Work Unit} (hx : ∀ s, exec i s = .next (s.eachLane i w))
    (hw : ∀ s iss l, s.thread? l.tid = some l.th → P s l → w iss s.nextId l s.issuing = .ok ((), e s iss l s.issuing))
    (keeps : ∀ s iss l u, P s l → (e s iss l u).issue = u.issue) : Does i P e :=
  eachLane_does hx hw fun s iss l hi hp => ⟨iss, (keeps s iss l s.issuing hp).trans hi, rfl⟩

/-- A word at which its thread waits, to issue it again. -/
theorem leaves_does {i : Instr} {P : State → Lane → Prop} {v : State → Lane → Leaving} {w : Issue → Nat → Lane → Work Unit}
    (hx : ∀ s, exec i s = .next (s.eachLane i w))
    (hw : ∀ s iss l, s.thread? l.tid = some l.th → P s l →
      w iss s.nextId l s.issuing = .ok ((), s.issuing.leaveAs l.tid (v s l))) :
    Does i P fun s _ l u => u.leaveAs l.tid (v s l) :=
  eachLane_does hx hw fun s iss l hi _ => ⟨{ iss with leaving := Map.set iss.leaving l.tid (v s l) },
    congrArg (Option.map _) hi, rfl⟩

/-! ## A thread replaced -/

theorem State.modThread_of {s : State} {tid : Nat} {t : Thread} (ht : s.thread? tid = some t) (g : Thread → Thread) :
    s.modThread tid g = { s with threads := Map.set s.threads tid (g t) } := by
  rw [State.modThread, ht]

theorem State.thread?_set (s : State) (tid : Nat) (t : Thread) :
    State.thread? { s with threads := Map.set s.threads tid t } tid = some t := Map.get?_set_same ..

/-- A key set twice. -/
theorem Map.set_set {α : Type} (m : Map α) (k : Nat) (a b : α) : Map.set (Map.set m k a) k b = Map.set m k b := by
  induction m with
  | nil => simp [Map.set]
  | cons x rest ih =>
    obtain ⟨j, c⟩ := x
    by_cases before : k < j
    · simp [Map.set, before]
    · by_cases here : k = j
      · simp [Map.set, here]
      · simp [Map.set, before, here, ih]

/-! ## Fences (R245, R290, R323) -/

/-- What a fence at a scope leaves of a state in which its thread's region has ended (R290, R378). -/
def State.fenced (v : State) (tid scope : Nat) (t : Thread) : State :=
  let far := decide (4 ≤ scope)
  let w := v.addFence tid { mask := 255, far := far, ids := if far then v.outstandingFar t tid else v.outstanding t tid }
  if scope = 5 then w.flushHost tid t.posted else w

theorem State.fenced_issue (v : State) (tid scope : Nat) (t : Thread) : (v.fenced tid scope t).issue = v.issue :=
  ite_keeps ((State.flushHost_issue ..).trans (v.addFence_issue ..)) (v.addFence_issue ..)

theorem State.fence_present {s : State} {tid scope : Nat} {t : Thread} (ht : (s.regionEnd tid (some scope)).thread? tid = some t) :
    s.fence tid scope = (s.regionEnd tid (some scope)).fenced tid scope t := by
  simp only [State.fence, ht]
  rfl

theorem fence_does (f : ScopeForm) (t : Thread) :
    Does (.fence f) (fun s l => (s.issuing.regionEnd l.tid (some f.p.toNat)).thread? l.tid = some t) fun _ _ l u =>
      ((u.regionEnd l.tid (some f.p.toNat)).fenced l.tid f.p.toNat t).modThread l.tid fun t =>
        { t with ftActive := ((u.ctx? t.ctx).map Context.ftSel).getD 0 } :=
  modifies_does (fun _ => rfl)
    (fun _ _ l _ here => congrArg (fun v : State => Except.ok ((), v.modThread l.tid _)) (State.fence_present here))
    fun _ _ _ u _ => (State.modThread_issue ..).trans ((State.fenced_issue ..).trans (u.regionEnd_issue ..))

theorem qfence_does (f : QfenceForm) : Does (.qfence f) (fun _ _ => True) fun _ _ l u =>
    u.addFence l.tid { mask := f.a.toNat, ids :=
      (u.ops.filter fun x => x.2.tid == l.tid && f.b.getLsbD x.2.queue && !(l.th.holdsOp x.1)).map Prod.fst } := by
  refine modifies_does (fun _ => rfl) (fun _ _ _ _ _ => ?_) fun _ _ _ u _ => u.addFence_issue _ _
  have named (q : Nat) : f.b.getLsbD q = (f.b.toNat / 2 ^ q % 2 == 1) := by
    rw [BitVec.getLsbD, Nat.testBit_eq_decide_div_mod_eq]
    rfl
  simp only [named]
  rfl

theorem tfence_does (f : ScopeForm) : Does (.tfence f) (fun _ _ => True) fun _ _ l u => (u.dispatchThread l.tid).drainThread l.tid :=
  modifies_does (fun _ => rfl) (fun _ _ _ _ _ => rfl) fun _ _ _ u _ =>
    (State.drainThread_issue ..).trans (u.dispatchThread_issue ..)

/-- A fence joins those that still hold something back (R245, R290). -/
theorem State.addFence_eq {s : State} {tid : Nat} {t : Thread} (f : Fence) (ht : s.thread? tid = some t) :
    s.addFence tid f = { s with threads := Map.set s.threads tid { t with fences :=
      (t.fences.filter fun g => g.ids.any fun o => s.unfinished t o) ++ if f.ids = [] then [] else [f] } } := by
  simp only [State.addFence, ht, State.modThread_of ht]
  cases f.ids <;> simp

/-- What a fence names and has not performed holds back what the fence's mask names (R245, R290). -/
theorem State.mem_fencedBy {s : State} {t : Thread} {f : Fence} {o bit : Nat} (hf : f ∈ t.fences) (ho : o ∈ f.ids)
    (due : s.unfinished t o = true) (masked : f.mask / 2 ^ bit % 2 = 1) : o ∈ s.fencedBy t bit :=
  List.mem_flatMap.2 ⟨f, hf, by rw [if_pos masked]; exact List.mem_filter.2 ⟨ho, due⟩⟩

/-! ## Named barriers (R291 to R293, R328) -/

section
variable {s : State} {t : Thread} {n : Nat}

theorem State.hasArrived_eq_true : s.hasArrived t n = true ↔
    (∃ a ∈ t.arriving, a.named = some n) ∨ Map.get? t.arrived n = some (s.namedBar t n).phase := by
  simp [State.hasArrived]

/-- A thread that has arrived has arrived at some time, or is about to. -/
theorem arrives_of_hasArrived (h : s.hasArrived t n = true) :
    ((Map.get? t.arrived n).isSome || t.arriving.any fun a => a.named == some n) = true := by
  rcases State.hasArrived_eq_true.1 h with ⟨a, ha, hn⟩ | h
  · exact Bool.or_eq_true_iff.2 (.inr (List.any_eq_true.2 ⟨a, ha, beq_iff_eq.2 hn⟩))
  · rw [h]
    rfl

end

theorem barArrive_counts (f : BarForm) : Does (.barArrive f) (fun s l => s.hasArrived l.th f.n.toNat = false) fun _ _ l u =>
    u.barArrive l.tid f.n.toNat :=
  modifies_does (fun _ => rfl) (fun _ _ _ _ fresh => congrArg (fun u => Except.ok ((), u)) (if_neg (Bool.eq_false_iff.1 fresh)))
    fun _ _ _ u _ => u.barArrive_issue _ _

theorem barArrive_waits (f : BarForm) : Does (.barArrive f) (fun s l => s.hasArrived l.th f.n.toNat = true) fun s _ l u =>
    u.leaveAs l.tid (.again (.bar f.n.toNat (s.namedBar l.th f.n.toNat).phase)) :=
  leaves_does (fun _ => rfl) fun _ _ _ _ here => congrArg (fun u => Except.ok ((), u)) (if_pos here)

theorem barWait_traps (f : BarForm) :
    Raises (.barWait f) (fun _ l => Map.get? l.th.arrived f.n.toNat = none ∧ ∀ a ∈ l.th.arriving, a.named ≠ some f.n.toNat)
      .illeg fun _ _ => 0 :=
  eachLane_raises (fun _ => rfl) nofun fun _ _ _ _ ⟨never, pending⟩ => Work.need_fails _ _ _ (by simpa [never] using pending)

theorem barWait_waits (f : BarForm) : Does (.barWait f) (fun s l => s.hasArrived l.th f.n.toNat = true) fun s _ l u =>
    u.leaveAs l.tid (.again (.bar f.n.toNat (s.namedBar l.th f.n.toNat).phase)) := by
  refine leaves_does (fun _ => rfl) fun s iss l _ here => ?_
  rw [Work.legal, Work.need_holds _ _ (arrives_of_hasArrived here)]
  exact congrArg (fun u => Except.ok ((), u)) (if_pos here)

theorem barWait_goesOn (f : BarForm) (p : Nat) :
    Does (.barWait f) (fun s l => Map.get? l.th.arrived f.n.toNat = some p ∧ p ≠ (s.namedBar l.th f.n.toNat).phase ∧
      ∀ a ∈ l.th.arriving, a.named ≠ some f.n.toNat) fun _ _ l u => u.regionEnd l.tid none := by
  refine modifies_does (fun _ => rfl) (fun s iss l _ ⟨arrived, past, settled⟩ => ?_) fun _ _ _ u _ => u.regionEnd_issue _ _
  have passed : ¬ s.issuing.hasArrived l.th f.n.toNat = true := fun h => by
    rcases State.hasArrived_eq_true.1 h with ⟨a, ha, hn⟩ | h
    · exact settled a ha hn
    · exact past (Option.some.inj (arrived.symm.trans h))
  rw [Work.legal, Work.need_holds _ _ (by rw [arrived]; rfl)]
  exact congrArg (fun u => Except.ok ((), u)) (if_neg passed)

theorem barSync_waits (f : BarForm) : Does (.barSync f) (fun s l => s.hasArrived l.th f.n.toNat = true) fun s _ l u =>
    u.leaveAs l.tid (.again (.bar f.n.toNat (s.namedBar l.th f.n.toNat).phase)) :=
  leaves_does (fun _ => rfl) fun _ _ _ _ here => congrArg (fun u => Except.ok ((), u)) (if_pos here)

theorem barSync_arrives (f : BarForm) : Does (.barSync f) (fun s l => s.hasArrived l.th f.n.toNat = false) fun s iss l u =>
    let n := f.n.toNat
    let v := u.barArrive l.tid n
    if ((v.thread? l.tid).map fun t => v.hasArrived t n).getD false then
      v.modThread l.tid fun t => { t.block (.bar n (s.namedBar l.th n).phase) with next := some iss.cur.pc }
    else v :=
  modifies_does (fun _ => rfl) (fun _ _ _ _ fresh => congrArg (fun u => Except.ok ((), u)) (if_neg (Bool.eq_false_iff.1 fresh)))
    fun _ _ _ u _ => ite_keeps ((State.modThread_issue ..).trans (u.barArrive_issue _ _)) (u.barArrive_issue _ _)

/-! ## An arrival (R292, R293) -/

/-- The thread as its arrival at a named barrier finds the phase (R292). -/
def State.arrivedAt (v : State) (t : Thread) (n : Nat) : Thread := { t with arrived := Map.set t.arrived n (v.namedBar t n).phase }

/-- The thread with its arrival kept behind what it has outstanding (R293). -/
def State.arrivingAt (v : State) (tid : Nat) (t : Thread) (n : Nat) : Thread :=
  { v.arrivedAt t n with arriving := [{ named := some n, after := v.outstanding t tid }] }

/-- An arrival of a thread that has no other pending is queued behind what the thread has outstanding, and made if it is due. -/
theorem State.arriveAfter_alone {u : State} {tid : Nat} {t : Thread} (a : Arrival) (ht : u.thread? tid = some t) (quiet : t.arriving = []) :
    u.arriveAfter tid a = State.settleArrivals
      { u with threads := Map.set u.threads tid { t with arriving := [{ a with after := u.outstanding t tid }] } } tid := by
  simp only [State.arriveAfter, ht, State.modThread_of ht, quiet, List.nil_append]

/-- An arrival at a named barrier of a thread that has no other pending: the region ends and the arrival is queued (R291, R293). -/
theorem State.barArrive_settles {s v : State} {tid : Nat} {t : Thread} (n : Nat) (ended : s.regionEnd tid (some 1) = v)
    (ht : v.thread? tid = some t) (quiet : t.arriving = []) :
    s.barArrive tid n = State.settleArrivals { v with threads := Map.set v.threads tid (v.arrivingAt tid t n) } tid := by
  simp only [State.barArrive, ended, ht, State.modThread_of ht]
  refine (State.arriveAfter_alone _ (v.thread?_set tid (v.arrivedAt t n)) quiet).trans ?_
  dsimp only
  rw [Map.set_set]
  rfl

section
variable {u : State} {tid n : Nat} {t : Thread} {a : Arrival} (ht : u.thread? tid = some t) (one : t.arriving = [a])
include ht one

theorem State.settleArrivals_waits (h : ∃ o ∈ a.after, u.unfinished t o = true) : u.settleArrivals tid = u := by
  have waits : (a.after.any fun o => u.unfinished t o) = true := List.any_eq_true.2 h
  simp [State.settleArrivals, ht, one, waits]

theorem State.settleArrivals_makes (h : a.after = []) : u.settleArrivals tid =
    State.performArrival { u with threads := Map.set u.threads tid { t with arriving := [] } } t.cell tid a := by
  simp [State.settleArrivals, ht, one, h, State.modThread_of ht]

end

/-- The phase that an arrival finds is its thread's, and the barrier counts it (R292). -/
theorem State.performArrival_named {u : State} {tid cell : Nat} {t : Thread} {a : Arrival} {n : Nat} (ht : u.thread? tid = some t)
    (named : a.named = some n) : u.performArrival cell tid a =
      State.countArrival { u with threads := Map.set u.threads tid { t with arrived := Map.set t.arrived n (u.barPhase cell n) } } cell n := by
  simp only [State.performArrival, named, State.modThread_of ht]

theorem State.barPhase_eq (s : State) (t : Thread) (n : Nat) : s.barPhase t.cell n = (s.namedBar t n).phase := by
  unfold State.barPhase State.namedBar
  cases Map.get? s.cells t.cell <;> rfl

/-- The arrival made finds the phase that its thread noted. -/
theorem State.arrived_twice (v : State) (t : Thread) (n : Nat) (quiet : t.arriving = []) :
    ({ v.arrivedAt t n with arriving := [], arrived := Map.set (v.arrivedAt t n).arrived n (v.barPhase t.cell n) } : Thread) =
      v.arrivedAt t n := by
  simp only [State.arrivedAt, State.barPhase_eq, Map.set_set, ← quiet]

section
variable {s v : State} {tid n : Nat} {t : Thread} (ended : s.regionEnd tid (some 1) = v) (ht : v.thread? tid = some t) (quiet : t.arriving = [])
include ended ht quiet

/-- An arrival behind work that has not performed is kept (R293). -/
theorem State.barArrive_behind (h : ∃ o ∈ v.outstanding t tid, v.unfinished t o = true) :
    s.barArrive tid n = { v with threads := Map.set v.threads tid (v.arrivingAt tid t n) } :=
  (State.barArrive_settles n ended ht quiet).trans (State.settleArrivals_waits (v.thread?_set ..) rfl h)

/-- An arrival behind nothing counts at once (R292, R293). -/
theorem State.barArrive_now (h : v.outstanding t tid = []) :
    s.barArrive tid n = ({ v with threads := Map.set v.threads tid (v.arrivedAt t n) } : State).countArrival t.cell n := by
  refine (State.barArrive_settles n ended ht quiet).trans 
    ((State.settleArrivals_makes (v.thread?_set tid (v.arrivingAt tid t n)) rfl h).trans ?_)
  refine (State.performArrival_named (State.thread?_set ..) rfl).trans ?_
  dsimp only
  rw [Map.set_set, Map.set_set]
  refine congrArg (fun x => State.countArrival { v with threads := Map.set v.threads tid x } t.cell n) ?_
  exact v.arrived_twice t n quiet

end

/-! ## A phase completes (R292) -/

theorem NamedBar.test_open {b : NamedBar} {k : Nat} (h : b.arrivals < k) : b.test k = b :=
  if_neg fun ⟨all, _⟩ => h.not_ge all

theorem NamedBar.test_complete {b : NamedBar} {k : Nat} (all : k ≤ b.arrivals) (some : b.arrivals ≠ 0) :
    b.test k = { phase := b.phase + 1, arrivals := 0 } := if_pos ⟨all, some⟩

/-- An arrival counted, and the barriers of a cell tested. -/
def Cell.counted (c : Cell) (n : Nat) : Cell := { c with bars := Map.set c.bars n { Map.getD c.bars n {} with
  arrivals := (Map.getD c.bars n {}).arrivals + 1 } }
def Cell.tested (c : Cell) (k : Nat) : Cell := { c with bars := Map.mapAll c.bars fun _ b => b.test k }

theorem State.modCell_of {s : State} {cell : Nat} {c : Cell} (hc : Map.get? s.cells cell = some c) (g : Cell → Cell) :
    s.modCell cell g = { s with cells := Map.set s.cells cell (g c) } := by
  rw [State.modCell, hc]

theorem State.emitPhases_cells (s : State) (cell : Nat) (c : Cell) : (s.emitPhases cell c).cells = s.cells :=
  foldl_keeps (f := State.cells) (fun _ _ => State.emit_keeps (f := State.cells) (fun s pa bs => s.setBytes_cells bs pa) (fun _ _ _ => rfl)
    (fun _ _ => rfl) ..) _ s

/-- With tracing off no record is made (R405). -/
theorem State.emit_untraced {s : State} (h : s.trace.ctl.getLsbD 31 = false) (kind ctx tile part : Nat) (wid : BitVec 64)
    (payload : List Byte) : s.emit kind ctx tile part wid payload = s := by
  unfold State.emit
  exact if_pos (by rw [h, Bool.not_false, Bool.or_true]; rfl)

theorem State.emitPhases_untraced {s : State} (h : s.trace.ctl.getLsbD 31 = false) (cell : Nat) (c : Cell) : s.emitPhases cell c = s :=
  List.foldl_fixed' (fun _ => State.emit_untraced h ..) _

section
variable {s : State} {cell : Nat} {c : Cell} (hc : Map.get? s.cells cell = some c) (n : Nat)
include hc

/-- An arrival counted: the barrier takes it, the phases that complete are traced, and every barrier of the cell is tested (R292, R407). -/
theorem State.countArrival_eq : s.countArrival cell n =
    (State.emitPhases { s with cells := Map.set s.cells cell (c.counted n) } cell (c.counted n)).modCell cell
      fun c => c.tested (s.expected cell) := by
  rw [State.countArrival, State.modCell_of hc]
  simp only [State.testBars, Map.get?_set_same]
  rfl

theorem State.countArrival_cells :
    (s.countArrival cell n).cells = Map.set s.cells cell ((c.counted n).tested (s.expected cell)) := by
  have phases := State.emitPhases_cells { s with cells := Map.set s.cells cell (c.counted n) } cell (c.counted n)
  rw [State.countArrival_eq hc, State.modCell_of (by rw [phases]; exact Map.get?_set_same ..)]
  show Map.set (State.emitPhases _ cell (c.counted n)).cells cell _ = _
  rw [phases]
  exact Map.set_set ..

theorem State.countArrival_untraced (h : s.trace.ctl.getLsbD 31 = false) :
    s.countArrival cell n = { s with cells := (s.countArrival cell n).cells } := by
  have untraced : ({ s with cells := Map.set s.cells cell (c.counted n) } : State).trace.ctl.getLsbD 31 = false := h
  rw [State.countArrival_cells hc, State.countArrival_eq hc, State.emitPhases_untraced untraced,
    State.modCell_of (c := c.counted n) (Map.get?_set_same ..)]
  dsimp only
  rw [Map.set_set]

end

/-! ## The obligation -/

/-- Settles O29: each word changes the state by its effect, which keeps the chain in progress; an arrival is queued behind what its thread
has outstanding, and made at once where that is nothing. -/
theorem fencesAndBarriers : Obligations.FencesAndBarriers :=
  ⟨⟨fence_does, qfence_does, tfence_does, fun _ _ _ f ht => State.addFence_eq f ht, fun _ _ _ _ _ hf ho due =>
      ⟨fun masked _ => List.mem_append_left _ (State.mem_fencedBy hf ho due masked),
        fun _ masked => List.mem_append_right _ (State.mem_fencedBy hf ho due masked)⟩⟩,
    barArrive_counts, barArrive_waits, barWait_traps, barWait_waits, barWait_goesOn, barSync_waits, barSync_arrives,
    fun _ _ _ _ ht quiet => ⟨State.barArrive_now rfl ht quiet, State.barArrive_behind rfl ht quiet⟩,
    fun _ _ => ⟨NamedBar.test_open, NamedBar.test_complete⟩,
    fun _ _ n _ hc => ⟨State.countArrival_cells hc n, State.countArrival_untraced hc n⟩⟩

end Sys2Proof.Machine
end

section
/-! PROOFS. Asynchronous barriers (R157, R238, R294 to R296). -/
namespace Sys2Proof.Machine

/-! ## Words of a group of one thread -/

/-- A word whose work leaves the chain in progress as it stood. -/
theorem Solo.settles {i : Instr} {w : Issue → Nat → Lane → Work Unit} {s u : State} {iss : Issue} {l : Lane} (h : Solo s iss i l)
    (hx : ∀ s, exec i s = .next (s.eachLane i w)) (hw : w iss s.nextId l s.issuing = .ok ((), u)) (keeps : u.issue = s.issue) :
    exec i s = .next (u.settled s.nextId) := by
  rw [eachLane_acts hx s iss l u h hw, State.goesOn_settled (keeps.trans h.1) rfl]

/-- A word at which its thread is left, to issue it again. -/
theorem Solo.leaves {i : Instr} {w : Issue → Nat → Lane → Work Unit} {s u : State} {iss : Issue} {l : Lane} {v : Leaving} (h : Solo s iss i l)
    (hx : ∀ s, exec i s = .next (s.eachLane i w)) (hw : w iss s.nextId l s.issuing = .ok ((), u.leaveAs l.tid v)) (keeps : u.issue = s.issue) :
    exec i s = .next ((u.leaveAs l.tid v).settled s.nextId) := by
  have left : (u.leaveAs l.tid v).issue = some { iss with leaving := Map.set iss.leaving l.tid v } :=
    congrArg (Option.map _) (keeps.trans h.1)
  rw [eachLane_acts hx s iss l _ h hw, State.goesOn_settled (iss := iss) left rfl]

/-! ## ABAR.INIT, ABAR.ARRIVE, ABAR.WAIT and ABAR.TEST (R295) -/

theorem barrierDone_low {v : Nat} (armed : v / 2 ^ 63 % 2 = 1) (zero : v % 2 ^ 48 = 0) : barrierDone (v % 2 ^ 64) = true := by
  simp only [barrierDone, Bool.and_eq_true, beq_iff_eq]
  omega

theorem not_barrierDone_low {v : Nat} (h : v / 2 ^ 63 % 2 = 0 ∨ v % 2 ^ 48 ≠ 0) : barrierDone (v % 2 ^ 64) = false := by
  simp only [barrierDone, Bool.and_eq_false_iff, beq_eq_false_iff_ne]
  omega

theorem barrierDone_of {v : Nat} (armed : v / 2 ^ 63 % 2 = 1) (zero : v % 2 ^ 48 = 0) : barrierDone v = true := by
  simp only [barrierDone, Bool.and_eq_true, beq_iff_eq]
  exact ⟨armed, zero⟩

theorem not_barrierDone_of {v : Nat} (h : v / 2 ^ 63 % 2 = 0 ∨ v % 2 ^ 48 ≠ 0) : barrierDone v = false := by
  simp only [barrierDone, Bool.and_eq_false_iff, beq_eq_false_iff_ne]
  omega

section
variable {f : AbarForm} {s s1 : State} {iss : Issue} {l : Lane} {pa : Nat}

theorem abarInit_arms (h : Solo s iss (.abarInit f) l) (found : barrierOf l f.o.toNat rightW .write s.issuing = .ok (pa, s1))
    (kept : s1.issue = s.issue) :
    exec (.abarInit f) s = .next (((s1.drainThread l.tid).writeBarrier l.tid pa 16 (2 ^ 63 + l.a)).settled s.nextId) :=
  h.settles (fun _ => rfl) (Work.bind_ok found) ((State.writeBarrier_issue ..).trans ((State.drainThread_issue ..).trans kept))

theorem abarArrive_arrives (h : Solo s iss (.abarArrive f) l) (found : barrierOf l f.o.toNat rightW .write s.issuing = .ok (pa, s1))
    (kept : s1.issue = s.issue) : exec (.abarArrive f) s =
      .next (((s1.regionEnd l.tid (some 3)).arriveAfter l.tid { pa := pa, index := f.o.toNat, units := l.a }).settled s.nextId) :=
  h.settles (fun _ => rfl) (Work.bind_ok found) ((State.arriveAfter_issue ..).trans ((State.regionEnd_issue ..).trans kept))

variable {v : Nat} {s2 : State}

section
variable (h : Solo s iss (.abarWait f) l) (found : barrierOf l f.o.toNat rightR .read s.issuing = .ok (pa, s1))
  (read : readBarrier l pa 16 s1 = .ok (v, s2)) (kept : s2.issue = s.issue)
include h found read kept

theorem abarWait_delivers (done : barrierDone (v % 2 ^ 64) = true) : exec (.abarWait f) s =
    .next (((s2.modThread l.tid fun t => t.writeDest (vDest f.r) [BitVec.ofNat 32 (v / 2 ^ 64)] .full).regionEnd l.tid none).settled s.nextId) :=
  h.settles (fun _ => rfl) ((Work.bind_ok found).trans ((Work.bind_ok read).trans (by rw [if_pos done]; rfl)))
    ((State.regionEnd_issue ..).trans ((State.modThread_issue ..).trans kept))

theorem abarWait_waits (waiting : barrierDone (v % 2 ^ 64) = false) :
    exec (.abarWait f) s = .next ((s2.leaveAs l.tid (.again (.abar f.o.toNat))).settled s.nextId) :=
  h.leaves (fun _ => rfl) ((Work.bind_ok found).trans ((Work.bind_ok read).trans (by rw [if_neg (Bool.eq_false_iff.1 waiting)]; rfl))) kept

end

theorem abarTest_answers (h : Solo s iss (.abarTest f) l) (found : barrierOf l f.o.toNat rightR .read s.issuing = .ok (pa, s1))
    (read : readBarrier l pa 8 s1 = .ok (v, s2)) (kept : s2.issue = s.issue) :
    let w := s2.modThread l.tid fun t => t.writeDest (vDest f.r) [if barrierDone v then 1 else 0] .full
    exec (.abarTest f) s = .next ((if barrierDone v then w.regionEnd l.tid none else w).settled s.nextId) := by
  have written := (State.modThread_issue s2 l.tid fun t => t.writeDest (vDest f.r) [if barrierDone v then 1 else 0] .full).trans kept
  exact h.settles (fun _ => rfl) ((Work.bind_ok found).trans (Work.bind_ok read))
    (ite_keeps ((State.regionEnd_issue ..).trans written) written)

end

/-! ## An arrival at a barrier (R296) -/

theorem lowered_counts {v u : Nat} (armed : v / 2 ^ 63 % 2 = 1) (covered : u ≤ v % 2 ^ 48) (word : v < 2 ^ 64)
    (rest : v / 2 ^ 48 % 2 ^ 14 = 0) : lowered v u = v - u := by
  simp only [lowered]
  rw [if_neg (by omega), if_neg (by omega)]
  omega

theorem lowered_under {v u : Nat} (armed : v / 2 ^ 63 % 2 = 1) (short : v % 2 ^ 48 < u) : lowered v u = 2 ^ 63 + 2 ^ 62 := by
  simp only [lowered]
  rw [if_neg (by omega), if_pos short, armed, Nat.one_mul]

theorem exec_abarArrivalPerform (ctx cell index units : Nat) (s : State) :
    exec (.abarArrivalPerform ctx cell index units) s = execAbarArrivalPerform ctx cell index units s := rfl

section
variable {s s1 : State} {ctx cell index units : Nat} {o : Obj} {pa : Nat}

theorem abarArrival_lowers (there : (Map.get? s.cells cell).isSome) (found : findBarrier ctx cell index s = .ok ((o, pa), s1)) :
    exec (.abarArrivalPerform ctx cell index units) s = .next (s1.lowerBarrier 0 ctx index pa units) := by
  simp only [exec_abarArrivalPerform, execAbarArrivalPerform, if_pos there, found]

theorem abarArrival_lost {x : Stop} (there : (Map.get? s.cells cell).isSome) (found : findBarrier ctx cell index s = .error x) :
    exec (.abarArrivalPerform ctx cell index units) s = .next s := by
  simp only [exec_abarArrivalPerform, execAbarArrivalPerform, if_pos there, found]

theorem abarArrival_savedLost {x : Stop} (gone : Map.get? s.cells cell = none)
    (found : findBarrier ctx cell index (s.withSaved cell) = .error x) : exec (.abarArrivalPerform ctx cell index units) s = .next s := by
  simp [exec_abarArrivalPerform, execAbarArrivalPerform, gone, found]

variable (gone : Map.get? s.cells cell = none) (found : findBarrier ctx cell index (s.withSaved cell) = .ok ((o, pa), s1))
include gone found

/-- For an allocation that is out with its context, one at a barrier of cell scope waits on the home tile (R157). -/
theorem abarArrival_holds (own : Obj.scope o = 1) (out : s.isOut cell = true) : exec (.abarArrivalPerform ctx cell index units) s =
    .next (s.holdUpdate cell
      { ctx := ((s.anyCell cell).map Cell.ctx).getD ctx, cell := cell, index := index, arrival := some (Obj.base o, units, 0) }) := by
  simp [exec_abarArrivalPerform, execAbarArrivalPerform, gone, found, own, out]

theorem abarArrival_lowersSaved (here : Obj.scope o ≠ 1 ∨ s.isOut cell = false) :
    exec (.abarArrivalPerform ctx cell index units) s = .next (s.lowerBarrier 0 ctx index pa units) := by
  rcases here with shared | inside
  · simp [exec_abarArrivalPerform, execAbarArrivalPerform, gone, found, shared]
  · simp [exec_abarArrivalPerform, execAbarArrivalPerform, gone, found, inside]

end

theorem findBarrier_found {s s1 s2 : State} {ctx cell index : Nat} {o : Obj} {pa : Nat}
    (checked : checkEntry (((s.anyCell cell).map Cell.tile).getD 0) ctx index [.barrier] 0 s = .ok (o, s1))
    (reached : Op.reach { tid := 0, ctx := ctx, cell := cell, tile := ((s.anyCell cell).map Cell.tile).getD 0, queue := 7
                          instr := .faultRecordPost, privileged := s.privileged ctx } o 0 .write s1 = .ok (pa, s2)) :
    findBarrier ctx cell index s = .ok ((o, pa), s2) :=
  (Work.bind_ok (w := get) rfl).trans ((Work.bind_ok checked).trans (Work.bind_ok reached))

/-- Settles O30: each word works on the barrier that its checks find, with the chain in progress kept; an arrival lowers the count of the
barrier that the cell's context, resident or saved, finds. -/
theorem asynchronousBarriers : Obligations.AsynchronousBarriers :=
  ⟨⟨fun _ _ _ _ _ _ => abarInit_arms, fun _ _ _ _ _ _ => abarArrive_arrives,
      fun _ _ _ _ _ _ _ _ h found read kept =>
        ⟨fun armed zero => abarWait_delivers h found read kept (barrierDone_low armed zero),
          fun waiting => abarWait_waits h found read kept (not_barrierDone_low waiting)⟩,
      fun _ _ _ _ _ _ _ _ h found read kept =>
        ⟨fun armed zero => by simpa [barrierDone_of armed zero] using abarTest_answers h found read kept,
          fun waiting => by simpa [not_barrierDone_of waiting] using abarTest_answers h found read kept⟩,
      fun _ _ => lowered_counts, fun _ _ => lowered_under⟩,
    fun _ _ _ _ _ _ _ _ => abarArrival_lowers, fun _ _ _ _ _ _ => abarArrival_lost,
    fun _ _ _ _ _ _ _ _ gone found => ⟨abarArrival_holds gone found, abarArrival_lowersSaved gone found⟩,
    fun _ _ _ _ _ _ => abarArrival_savedLost, fun _ _ _ _ _ _ _ _ => findBarrier_found⟩

end Sys2Proof.Machine
end

section
/-! PROOFS. Convergence registers and their sets (R255, R256). -/
namespace Sys2Proof.Machine

/-! ## CVDECL (R255) -/

theorem cvdecl_declares (f : CvdeclForm) :
    Does (.cvdecl f) (fun s l => (s.cvOf l.th f.n.toNat).count ≠ f.k.toNat + 1 ∧ (s.cvOf l.th f.n.toNat).opens = []) fun s _ l u =>
      u.setCv l.th.cell f.n.toNat { s.cvOf l.th f.n.toNat with count := f.k.toNat + 1 } := by
  refine modifies_does (fun _ => rfl) (fun _ _ _ _ ⟨other, closed⟩ => ?_) fun _ _ _ u _ => State.modCell_issue ..
  exact (congrFun (if_neg other) _).trans (congrFun (Work.need_holds _ _ (List.isEmpty_iff.2 closed)) _)

theorem cvdecl_repeats (f : CvdeclForm) :
    Does (.cvdecl f) (fun s l => (s.cvOf l.th f.n.toNat).count = f.k.toNat + 1) fun _ _ _ u => u := by
  refine modifies_does (fun _ => rfl) (fun _ _ _ _ same => ?_) fun _ _ _ _ _ => rfl
  exact congrFun (if_pos same) _

theorem cvdecl_traps (f : CvdeclForm) :
    Raises (.cvdecl f) (fun s l => (s.cvOf l.th f.n.toNat).count ≠ f.k.toNat + 1 ∧ (s.cvOf l.th f.n.toNat).opens ≠ []) .illeg fun _ _ => 0 := by
  refine eachLane_raises (fun _ => rfl) nofun fun _ _ _ _ ⟨other, opened⟩ => ?_
  refine (congrFun (if_neg other) _).trans ?_
  exact Work.need_fails _ _ _ (Bool.eq_false_iff.2 fun h => opened (List.isEmpty_iff.1 h))

/-! ## A signature made (R256) -/

/-- The operation of a register that a thread signs next: one that is open, or a fresh one. -/
def State.signing (s : State) (t : Thread) (i : Instr) : CvOp :=
  ((s.cvOf t (cvName i)).opens.find? fun o => o.k == t.signedOn (cvName i)).getD { k := t.signedOn (cvName i), instr := i }

/-- The other open operations of the register. -/
def State.signedElse (s : State) (t : Thread) (i : Instr) : List CvOp :=
  (s.cvOf t (cvName i)).opens.filter fun o => o.k != t.signedOn (cvName i)

/-- The thread with one signature more on the register. -/
def Thread.signedOnce (t : Thread) (i : Instr) : Thread := { t with signed := Map.set t.signed (cvName i) (t.signedOn (cvName i) + 1) }

/-- A completed set: its last signature takes the operands of all (R256, R231). -/
def State.completed (s : State) (t : Thread) (i : Instr) (id : Nat) (op : Op) : Op :=
  { op with
    signers := (s.signing t i).signers ++ [id]
    after := ((s.signing t i).signers ++ [id]).flatMap fun g => ((Map.get? s.ops g).map Op.after).getD []
    nbv := ((s.ctx? t.ctx).map fun c => c.nbv == 1).getD false }

section
variable {s : State} {tid id : Nat} {i : Instr} {t : Thread} {op : Op} {c : Cell} (ht : s.thread? tid = some t)
  (ho : Map.get? s.ops id = some op) (hc : Map.get? s.cells t.cell = some c)

/-- The operation signed is the one of the thread's number of signatures. -/
theorem State.signing_k (s : State) (t : Thread) (i : Instr) : ((s.signing t i).k == t.signedOn (cvName i)) = true := by
  unfold State.signing
  cases hf : (s.cvOf t (cvName i)).opens.find? fun o => o.k == t.signedOn (cvName i) with
  | none => exact beq_self_eq_true _
  | some o => exact List.find?_some (p := fun o : CvOp => o.k == t.signedOn (cvName i)) hf

/-- None of the others is. -/
theorem State.signedElse_find? (s : State) (t : Thread) (i : Instr) :
    ((s.signedElse t i).find? fun o => o.k == t.signedOn (cvName i)) = none := by
  rw [List.find?_eq_none]
  intro o ho
  have other := (List.mem_filter.1 ho).2
  simpa [bne] using other

include ht ho hc

/-- A signature that does not complete the set joins those of its operation. -/
theorem State.joinSet_joins (short : (s.signing t i).signers.length + 1 < (s.cvOf t (cvName i)).count) :
    s.joinSet tid id i = { s with
      threads := Map.set s.threads tid (t.signedOnce i)
      cells := Map.set s.cells t.cell { c with cvs := Map.set c.cvs (cvName i) { s.cvOf t (cvName i) with
        opens := s.signedElse t i ++ [{ s.signing t i with signers := (s.signing t i).signers ++ [id] }] } } } := by
  have here : Map.get? ({ s with threads := Map.set s.threads tid (t.signedOnce i) } : State).cells t.cell = some c := hc
  have less : ((s.signing t i).signers ++ [id]).length < (s.cvOf t (cvName i)).count := by simpa using short
  simp only [State.joinSet, ht, ho]
  rw [State.modThread_of ht]
  exact (if_pos less).trans (State.modCell_of here _)

/-- The last signature closes the operation and completes the set. -/
theorem State.joinSet_completes (unsequenced : ∀ f, i ≠ .mseq f) (all : (s.cvOf t (cvName i)).count ≤ (s.signing t i).signers.length + 1) :
    s.joinSet tid id i = { s with
      threads := Map.set s.threads tid (t.signedOnce i)
      cells := Map.set s.cells t.cell { c with cvs := Map.set c.cvs (cvName i) { s.cvOf t (cvName i) with opens := s.signedElse t i } }
      ops := Map.set s.ops id (s.completed t i id op) } := by
  have here : Map.get? ({ s with threads := Map.set s.threads tid (t.signedOnce i) } : State).cells t.cell = some c := hc
  have full : ¬ ((s.signing t i).signers ++ [id]).length < (s.cvOf t (cvName i)).count := by simpa using all
  simp only [State.joinSet, ht, ho]
  rw [State.modThread_of ht]
  refine (if_neg full).trans ?_
  have entered := congrArg (fun u : State => { u with ops := Map.set u.ops id (s.completed t i id op) })
    (State.modCell_of here fun c => { c with cvs := Map.set c.cvs (cvName i) { s.cvOf t (cvName i) with opens := s.signedElse t i } })
  cases i
  case mseq f => exact absurd rfl (unsequenced f)
  all_goals exact entered

end

theorem State.cvOf_set {s u : State} {t : Thread} {c : Cell} {n : Nat} {v : Cv}
    (h : u.cells = Map.set s.cells t.cell { c with cvs := Map.set c.cvs n v }) : u.cvOf t n = v := by
  rw [State.cvOf, h, Map.get?_set_same]
  exact Map.getD_set_same ..

/-- Settles O32: a signature leaves its operation open, with one signer more, or closes it, complete. -/
theorem convergenceSets : Obligations.ConvergenceSets := by
  refine ⟨⟨cvdecl_declares, cvdecl_repeats, cvdecl_traps⟩, fun s tid id i t op ht ho unsequenced c hc => ?_⟩
  rcases Nat.lt_or_ge ((s.signing t i).signers.length + 1) (s.cvOf t (cvName i)).count with short | all
  · have joined := State.joinSet_joins ht ho hc short
    refine ⟨?_, fun _ => ⟨?_, ?_⟩, fun all => absurd short (Nat.not_lt.2 all), ?_⟩
    · rw [joined]
      exact State.thread?_set ..
    · rw [joined]
    · rw [State.cvOf_set (congrArg State.cells joined), List.find?_append, s.signedElse_find? t i, Option.none_or]
      exact List.find?_cons_of_pos (s.signing_k t i)
    · rw [joined]
  · have joined := State.joinSet_completes ht ho hc unsequenced all
    refine ⟨?_, fun short => absurd short (Nat.not_lt.2 all), fun _ => ⟨?_, ?_⟩, ?_⟩
    · rw [joined]
      exact State.thread?_set ..
    · rw [State.cvOf_set (congrArg State.cells joined)]
      exact s.signedElse_find? t i
    · rw [joined]
      exact Map.get?_set_same ..
    · rw [joined]

end Sys2Proof.Machine
end

section
/-! PROOFS. Words of the Anvil that sign a convergence set (R250, R256 to R262). -/
namespace Sys2Proof.Machine

/-! ## Signing (R256) -/

/-- With no count declared for its register a word may not sign. -/
theorem maySign_undeclared {i : Instr} {l : Lane} {s : State} (h : (s.cvOf l.th (cvName i)).count = 0) :
    maySign i l s = .error (.trap .illeg 0) :=
  (Work.bind_ok (w := get) (a := s) rfl).trans (Work.need_fails _ _ s (by rw [h]; rfl))

section
variable {s v u : State} {iss : Issue} {l : Lane} {i : Instr} {objs : List Obj} {args : List Word}

theorem maySign_passes (here : s.thread? l.tid = some l.th) (may : MaySign s l i) : maySign i l s = .ok ((), s) := by
  obtain ⟨declared, form⟩ := may
  have number : ((s.thread? l.tid).map fun t => t.signedOn (cvName i)).getD 0 = l.th.signedOn (cvName i) := by rw [here]; rfl
  refine (Work.bind_ok (w := get) (a := s) rfl).trans ((Work.bind_ok (Work.legal_ok (bne_iff_ne.2 declared))).trans ?_)
  rw [number]
  cases hf : (s.cvOf l.th (cvName i)).opens.find? fun o => o.k == l.th.signedOn (cvName i) with
  | none => rfl
  | some o => exact Work.legal_ok (beq_iff_eq.2 (form o hf))

theorem Solo.thread_of_population (solo : Solo s iss i l) (hp : u.population = s.population) : u.thread? l.tid = some l.th := by
  obtain ⟨-, -, -, here, -⟩ := solo
  rw [State.thread?, (Prod.mk.inj hp).1]
  exact here

/-- A thread that may sign in the state with its Anvil claimed passes the first check of its word. -/
theorem Solo.maySign_passes (solo : Solo s iss i l) (claimed : Claimed s iss l v) (may : MaySign v l i) : maySign i l v = .ok ((), v) :=
  Machine.maySign_passes (solo.thread_of_population claimed.population) may

/-- A word whose work comes to its signature, the checks before it passed, signs its register. -/
theorem signs_of_present {w : Issue → Nat → Lane → Work Unit} (hx : ∀ s, exec i s = .next (s.anvilLanes i w)) (solo : Solo s iss i l)
    (claimed : Claimed s iss l v) (here : (u.thread? l.tid).isSome) (hw : w iss s.nextId l v = sign i iss s.nextId l objs args u) :
    Signs s iss i l u objs args := by
  obtain ⟨t, ht⟩ := Option.isSome_iff_exists.1 here
  obtain ⟨u', -, submitted, -⟩ := submit_ok (iss := iss) (i := i) (no := s.nextId) (q := 4) (bytes := 0) (objs := objs) (args := args) ht
  exact ⟨_, u', submitted, anvil_of_work hx solo claimed (hw.trans (Work.bind_ok submitted))⟩

theorem signs_of_work {w : Issue → Nat → Lane → Work Unit} (hx : ∀ s, exec i s = .next (s.anvilLanes i w)) (solo : Solo s iss i l)
    (claimed : Claimed s iss l v) (hp : u.population = v.population)
    (hw : w iss s.nextId l v = sign i iss s.nextId l objs args u) : Signs s iss i l u objs args :=
  signs_of_present hx solo claimed (by rw [solo.thread_of_population (hp.trans claimed.population)]; rfl) hw

/-- A word of the Anvil answers as its work leaves it, and raises what its work finds wrong. -/
theorem anvil_acts_traps {w : Issue → Nat → Lane → Work Unit} (hx : ∀ s, exec i s = .next (s.anvilLanes i w)) :
    ActsOnAnvil i w ∧ TrapsOnAnvil i w := ⟨anvil_acts hx, anvil_traps hx⟩

/-- A word that checks nothing but its register. -/
theorem bare_signs {args : Lane → List Word}
    (hx : ∀ s, exec i s = .next (s.anvilLanes i fun iss no l => maySign i l >>= fun _ => sign i iss no l [] (args l)))
    (solo : Solo s iss i l) (claimed : Claimed s iss l v) (may : MaySign v l i) : Signs s iss i l v [] (args l) :=
  signs_of_work hx solo claimed rfl (Work.bind_ok (solo.maySign_passes claimed may))

end

/-! ## A whole accumulator tile (R260) -/

theorem accWork_signs {s v s1 : State} {iss : Issue} {l : Lane} {i : Instr} {idx rights : Nat} {ok : Obj → Bool} {o : Obj}
    (hx : ∀ s, exec i s = .next (s.anvilLanes i (accWork i idx rights ok))) (solo : Solo s iss i l) (claimed : Claimed s iss l v)
    (may : MaySign v l i) (entry : Checks v l idx copyKinds rights o s1) (count : Obj.count? o = some 16384)
    (fits : Fits s1 l o 0 (Obj.span o)) (format : ok o = true) : Signs s iss i l s1 [o] [] :=
  signs_of_work hx solo claimed entry.population (by
    rw [accWork, Work.bind_ok (solo.maySign_passes claimed may), Work.bind_ok entry, Work.bind_ok (checkCount_ok count),
      Work.bind_ok (Work.within_ok _ (by rfl)), Work.bind_ok (checkFootprint_ok fits), Work.bind_ok (Work.legal_ok format)])

/-! ## Products (R258, R259) -/

/-- The object that is B passes its checks, where a register names one (R238, R258). -/
def ChecksB (s : State) (l : Lane) (bo : List Obj) (u : State) : Nat ⊕ Nat → Prop
  | .inl _ => bo = [] ∧ u = s
  | .inr n => ∃ o, bo = [o] ∧ Checks s l n [.tile] rightA o u

/-- The scale objects pass their checks, where the product takes scales (R238, R259). -/
def ChecksScales (s : State) (l : Lane) (so : List Obj) (u : State) : Bool → Prop
  | false => so = [] ∧ u = s
  | true => ∃ x y s', so = [x, y] ∧ Checks s l (l.c % 2 ^ 16) [.scale] rightA x s' ∧ Checks s' l (l.c / 2 ^ 16) [.scale] rightA y u

/-- B has a shape that A goes with (R258). -/
def shapeB (ao : Obj) (bo : List Obj) : Nat ⊕ Nat → Work Unit
  | .inl _ => Work.within (Obj.cols ao ≤ 128) ao.1
  | .inr _ => bo.forM fun o => do
    Work.within (Obj.cols o ≤ 128) o.1
    Work.within (Obj.rows o == Obj.cols ao) o.1

/-- The scale objects cover A (R259). -/
def shapeScales (ao : Obj) : List Obj → Work Unit
  | [x, y] => do
    Work.within (Obj.rows ao ≤ Obj.rows x && (Obj.cols ao + 127) / 128 ≤ Obj.cols x) x.1
    Work.within ((Obj.cols ao + 127) / 128 ≤ Obj.cols y) y.1
  | _ => pure ()

/-- A's format pairs with B's (R226). -/
def State.pairsB (s : State) (l : Lane) (ao : Obj) (bo : List Obj) : Nat ⊕ Nat → Bool
  | .inl n => s.pairs (s.homeTile l.th) n ao
  | .inr _ => bo.all fun o => fmtPair (Obj.fmt ao) (Obj.fmt o)

/-- What is left of a product's checks, its objects found, and its signature. -/
def mmaRest (i : Instr) (scales : Bool) (iss : Issue) (no : Nat) (l : Lane) (s : State) (b : Nat ⊕ Nat) (ao : Obj) (bo so : List Obj) :
    Work Unit := do
  Work.within (Obj.rows ao ≤ 128) ao.1
  shapeB ao bo b
  shapeScales ao so
  (ao :: bo ++ so).forM fun o => checkFootprint l.th.cell o 0 (Obj.span o)
  Work.legal (s.pairsB l ao bo b)
  Work.legal (!scales || (Obj.fmt ao).scalable)
  sign i iss no l (ao :: bo ++ so) l.cap.words

/-- B fits A: a slot whose stamp pairs with A's format, or an object of as many rows as A has columns (R258, R259). -/
def FitsA (v : State) (l : Lane) (ao : Obj) (bo : List Obj) : Nat ⊕ Nat → Prop
  | .inl n => Obj.cols ao ≤ 128 ∧ v.pairs (v.homeTile l.th) n ao = true
  | .inr _ => ∀ o ∈ bo, Obj.cols o ≤ 128 ∧ Obj.rows o = Obj.cols ao ∧ fmtPair (Obj.fmt ao) (Obj.fmt o) = true

/-- The scales cover A, which takes them (R259). -/
def Scaled (ao : Obj) (so : List Obj) : Bool → Prop
  | false => so = []
  | true => ∃ x y, so = [x, y] ∧ Obj.rows ao ≤ Obj.rows x ∧ (Obj.cols ao + 127) / 128 ≤ Obj.cols x ∧
    (Obj.cols ao + 127) / 128 ≤ Obj.cols y ∧ (Obj.fmt ao).scalable = true

section
variable {i : Instr} {a : Nat} {scales : Bool} {iss : Issue} {no : Nat} {l : Lane} {v s s1 s2 s3 u : State} {b : Nat ⊕ Nat} {ao : Obj}
  {bo so : List Obj}

theorem ChecksB.population (h : ChecksB s l bo u b) : u.population = s.population := by
  cases b with
  | inl n =>
    obtain ⟨-, rfl⟩ := h
    rfl
  | inr n =>
    obtain ⟨o, -, h⟩ := h
    exact h.population

theorem ChecksScales.population (h : ChecksScales s l so u scales) : u.population = s.population := by
  cases scales with
  | false =>
    obtain ⟨-, rfl⟩ := h
    rfl
  | true =>
    obtain ⟨x, y, s', -, hx, hy⟩ := h
    exact hy.population.trans hx.population

/-- A slot that pairs with A has a stamp. -/
theorem stamped_of_pairs {n tile : Nat} (h : v.pairs tile n ao = true) : (v.weightSlot tile n).fmt.isSome = true := by
  cases hf : (v.weightSlot tile n).fmt with
  | none => simp [State.pairs, hf] at h
  | some st => rfl

/-- A product finds its objects. -/
theorem mmaWork_operands (may : maySign i l v = .ok ((), v)) (named : bOperand l.b = some b) (fit : FitsA v l ao bo b)
    (ha : Checks v l a [.tile] rightA ao s1) (hb : ChecksB s1 l bo s2 b) (hs : ChecksScales s2 l so s3 scales) :
    mmaWork i a scales iss no l v = mmaRest i scales iss no l v b ao bo so s3 := by
  rw [mmaWork, Work.bind_ok may, Work.bind_ok (w := get) (a := v) (u := v) rfl]
  simp only [named]
  cases b with
  | inl n =>
    obtain ⟨-, pair⟩ := fit
    obtain ⟨rfl, rfl⟩ := hb
    refine (Work.bind_ok (Work.legal_ok (stamped_of_pairs pair))).trans ((Work.bind_ok ha).trans ?_)
    cases scales with
    | false =>
      obtain ⟨rfl, rfl⟩ := hs
      rfl
    | true =>
      obtain ⟨x, y, s', rfl, hx, hy⟩ := hs
      simp only [if_true, pure_bind]
      rw [Work.bind_ok hx, Work.bind_ok hy]
      rfl
  | inr n =>
    obtain ⟨o, rfl, hb⟩ := hb
    refine (Work.bind_ok (Work.legal_ok rfl)).trans ((Work.bind_ok ha).trans ((Work.bind_ok hb).trans ?_))
    cases scales with
    | false =>
      obtain ⟨rfl, rfl⟩ := hs
      rfl
    | true =>
      obtain ⟨x, y, s', rfl, hx, hy⟩ := hs
      simp only [if_true, pure_bind]
      rw [Work.bind_ok hx, Work.bind_ok hy]
      rfl

theorem shapeB_ok (fit : FitsA v l ao bo b) : shapeB ao bo b s = .ok ((), s) := by
  cases b with
  | inl n =>
    obtain ⟨cols, -⟩ := fit
    exact Work.within_ok _ (decide_eq_true cols)
  | inr n =>
    refine Work.forM_ok fun o ho => ?_
    obtain ⟨cols, rows, -⟩ := fit o ho
    exact (Work.bind_ok (Work.within_ok _ (decide_eq_true cols))).trans (Work.within_ok _ (beq_iff_eq.2 rows))

theorem pairsB_of_fit (fit : FitsA v l ao bo b) : v.pairsB l ao bo b = true := by
  cases b with
  | inl n =>
    obtain ⟨-, pair⟩ := fit
    exact pair
  | inr n =>
    refine List.all_eq_true.2 fun o ho => ?_
    obtain ⟨-, -, pair⟩ := fit o ho
    exact pair

theorem shapeScales_ok (scaled : Scaled ao so scales) : shapeScales ao so s = .ok ((), s) := by
  cases scales with
  | false =>
    obtain rfl : so = [] := scaled
    rfl
  | true =>
    obtain ⟨x, y, rfl, rows, colsX, colsY, -⟩ := scaled
    refine (Work.bind_ok (Work.within_ok _ ?_)).trans (Work.within_ok _ (decide_eq_true colsY))
    rw [decide_eq_true rows, decide_eq_true colsX]
    rfl

theorem scalable_of_scaled (scaled : Scaled ao so scales) : (!scales || (Obj.fmt ao).scalable) = true := by
  cases scales with
  | false => rfl
  | true =>
    obtain ⟨x, y, -, -, -, -, takes⟩ := scaled
    exact takes

theorem mmaRest_signs (rows : Obj.rows ao ≤ 128) (fit : FitsA v l ao bo b) (scaled : Scaled ao so scales)
    (fits : ∀ o ∈ ao :: bo ++ so, Fits s l o 0 (Obj.span o)) :
    mmaRest i scales iss no l v b ao bo so s = sign i iss no l (ao :: bo ++ so) l.cap.words s := by
  rw [mmaRest, Work.bind_ok (Work.within_ok _ (decide_eq_true rows)), Work.bind_ok (shapeB_ok fit), Work.bind_ok (shapeScales_ok scaled),
    Work.bind_ok (Work.forM_ok fun o ho => checkFootprint_ok (fits o ho)), Work.bind_ok (Work.legal_ok (pairsB_of_fit fit)),
    Work.bind_ok (Work.legal_ok (scalable_of_scaled scaled))]

end

/-- What a product asks of B: a stamped slot that pairs with A, or an object (R258, R259). -/
def OperandB (v s : State) (l : Lane) (ao : Obj) (bo : List Obj) (u : State) : Option (Nat ⊕ Nat) → Prop
  | none => False
  | some (.inl n) => bo = [] ∧ u = s ∧ Obj.cols ao ≤ 128 ∧
      ∃ st, (v.weightSlot (v.homeTile l.th) n).fmt = some st ∧ fmtPair (Obj.fmt ao) (stampFmt st) = true
  | some (.inr n) => ∃ o, bo = [o] ∧ Checks s l n [.tile] rightA o u ∧ Obj.cols o ≤ 128 ∧ Obj.rows o = Obj.cols ao ∧
      fmtPair (Obj.fmt ao) (Obj.fmt o) = true

theorem OperandB.named {v s u : State} {l : Lane} {ao : Obj} {bo : List Obj} :
    ∀ {b : Option (Nat ⊕ Nat)}, OperandB v s l ao bo u b → ∃ x, b = some x ∧ ChecksB s l bo u x ∧ FitsA v l ao bo x
  | some (.inl _), ⟨empty, same, cols, _, stamp, pair⟩ => ⟨_, rfl, ⟨empty, same⟩, cols, by rw [State.pairs, stamp]; exact pair⟩
  | some (.inr _), ⟨o, one, found, cols, rows, pair⟩ =>
    ⟨_, rfl, ⟨o, one, found⟩, fun x hx => by rw [one] at hx; rw [List.mem_singleton.1 hx]; exact ⟨cols, rows, pair⟩⟩

/-- A product whose checks pass signs its register. -/
theorem mma_signs {s v s1 s2 s3 : State} {iss : Issue} {l : Lane} {i : Instr} {a : Nat} {scales : Bool} {ao : Obj} {bo so : List Obj}
    (hx : ∀ s, exec i s = .next (s.anvilLanes i (mmaWork i a scales))) (solo : Solo s iss i l) (claimed : Claimed s iss l v)
    (may : MaySign v l i) (ha : Checks v l a [.tile] rightA ao s1) (rows : Obj.rows ao ≤ 128)
    (hb : OperandB v s1 l ao bo s2 (bOperand l.b)) (hs : ChecksScales s2 l so s3 scales) (scaled : Scaled ao so scales)
    (fits : ∀ o ∈ ao :: bo ++ so, Fits s3 l o 0 (Obj.span o)) : Signs s iss i l s3 (ao :: bo ++ so) l.cap.words := by
  obtain ⟨b, named, hb, fit⟩ := hb.named
  exact signs_of_work hx solo claimed (hs.population.trans (hb.population.trans ha.population))
    ((mmaWork_operands (solo.maySign_passes claimed may) named fit ha hb hs).trans (mmaRest_signs rows fit scaled fits))

/-! ## MSEQ (R262) -/

/-- Work over a list keeps what the work over each element keeps. -/
theorem Work.mapM_keeps {α β γ : Type} {f : State → β} {w : α → Work γ} (hw : ∀ x s a u, w x s = .ok (a, u) → f u = f s) :
    ∀ {xs : List α} {s u : State} {as : List γ}, xs.mapM w s = .ok (as, u) → f u = f s
  | [], _, _, _, run => by
    cases run
    rfl
  | x :: xs, _, _, _, run => by
    rw [List.mapM_cons] at run
    obtain ⟨a, v, first, run⟩ := Work.bind_ok_iff.1 run
    obtain ⟨as, v', rest, run⟩ := Work.bind_ok_iff.1 run
    cases run
    exact (Work.mapM_keeps hw rest).trans (hw x _ _ _ first)

section
variable {β : Type} {f : State → β} (h : Unread f) {l : Lane} {o : Obj} {off : Nat}
include h

theorem Lane.reachObj_unread {kind : AccKind} {s u : State} {r : Nat × Bool} (run : l.reachObj o off kind s = .ok (r, u)) : f u = f s := by
  unfold Lane.reachObj at run
  split at run
  · split at run
    · cases run
      rfl
    · cases run
  · have moved := h.translateAs s (s.privileged l.th.ctx) l.th.tile l.th.ctx ((Obj.base o + off) % 2 ^ 52) kind
    dsimp only [State.translate] at run
    split at run
    · rename_i hx
      rw [hx] at moved
      split at run
      · cases run
      · cases run
        exact moved
    · cases run
    · cases run

theorem Lane.readObj_unread {n : Nat} {s u : State} {bs : List Byte} (run : l.readObj o off n s = .ok (bs, u)) : f u = f s := by
  obtain ⟨parts, v, read, run⟩ := Work.bind_ok_iff.1 run
  cases run
  refine Work.mapM_keeps (fun p s bs u run => ?_) read
  obtain ⟨r, v, reached, run⟩ := Work.bind_ok_iff.1 run
  have moved := Lane.reachObj_unread h reached
  rw [Work.bind_ok (w := get) (a := v) (u := v) rfl] at run
  split at run
  · cases run
  · cases run
    exact (h.readAt ..).trans moved

end

/-- What is left of an MSEQ's checks, its objects found, and its signature. -/
def mseqRest (f : AccObjForm) (iss : Issue) (no : Nat) (l : Lane) (p : List Byte) (a b c sa sb : Obj) (bar : List Obj) : Work Unit := do
  let kdims := planField p 0x0C 1
  let flags := planField p 0x0D 1
  let sh := mseqShape kdims a b
  let shaped := Obj.ndim b == 1 && Obj.ndim c == 1 && decide (1 ≤ kdims ∧ kdims ≤ Obj.ndim a)
  Work.within (!shaped || (Obj.extents b).getD 1 1 == sh.k) b.1
  Work.within (!shaped || ((Obj.extents c).getD 0 1 == sh.n && (Obj.extents c).getD 1 1 == sh.m)) c.1
  ([a, b, c, sa, sb] : List Obj).forM fun o => checkFootprint l.th.cell o 0 (Obj.span o)
  bar.forM fun o => checkFootprint l.th.cell o 0 16
  Work.legal (planField p 0x0E 50 == 0 && flags &&& 0xF6 == 0 && shaped)
  Work.legal (([sa, sb] : List Obj).all fun o => Obj.rows o == 128 && Obj.cols o == 128)
  Work.legal (Obj.scope sa == 1 && Obj.scope sb == 1 && Obj.fmtCode sa == Obj.fmtCode a && Obj.fmtCode sb == Obj.fmtCode b)
  Work.legal (fmtPair (Obj.fmt a) (Obj.fmt b))
  sign (.mseq f) iss no l ([a, b, c, sa, sb] ++ bar) [BitVec.ofNat 32 kdims, BitVec.ofNat 32 flags]

/-- The barrier of a plan passes its checks, where the plan names one (R262). -/
def ChecksBar (s : State) (l : Lane) (p : List Byte) (bar : List Obj) (u : State) : Prop :=
  if planField p 0x0D 1 / 8 % 2 = 1 then ∃ o, bar = [o] ∧ Checks s l (planField p 0x0A 2) [.barrier] rightW o u ∧ Fits u l o 0 16
  else bar = [] ∧ u = s

/-- The objects of a plan pass their checks (R238, R262). -/
def ChecksPlan (s : State) (l : Lane) (p : List Byte) (a b c sa sb : Obj) (bar : List Obj) (u : State) : Prop :=
  ∃ s3 s4 s5 s6 s7, Checks s l (planField p 0 2) [.tensor] rightC a s3 ∧ Checks s3 l (planField p 2 2) [.tensor] rightC b s4 ∧
    Checks s4 l (planField p 4 2) [.tensor] (rightW + if planField p 0x0D 1 % 2 = 1 then rightR else 0) c s5 ∧
    Checks s5 l (planField p 6 2) [.tile] (rightW + rightA) sa s6 ∧ Checks s6 l (planField p 8 2) [.tile] (rightW + rightA) sb s7 ∧
    ChecksBar s7 l p bar u

/-- The objects of a plan have the extents, the formats and the places that R262 asks for, and the plan's other bits are zero. -/
structure FitsPlan (s : State) (l : Lane) (p : List Byte) (a b c sa sb : Obj) : Prop where
  vectors : Obj.ndim b = 1 ∧ Obj.ndim c = 1
  kdims : 1 ≤ planField p 0x0C 1 ∧ planField p 0x0C 1 ≤ Obj.ndim a
  extentsB : (Obj.extents b).getD 1 1 = (mseqShape (planField p 0x0C 1) a b).k
  extentsC : (Obj.extents c).getD 0 1 = (mseqShape (planField p 0x0C 1) a b).n ∧
    (Obj.extents c).getD 1 1 = (mseqShape (planField p 0x0C 1) a b).m
  footprints : ∀ o ∈ ([a, b, c, sa, sb] : List Obj), Fits s l o 0 (Obj.span o)
  reserved : planField p 0x0E 50 = 0 ∧ planField p 0x0D 1 &&& 0xF6 = 0
  stages : ∀ o ∈ ([sa, sb] : List Obj), Obj.rows o = 128 ∧ Obj.cols o = 128 ∧ Obj.scope o = 1
  formats : Obj.fmtCode sa = Obj.fmtCode a ∧ Obj.fmtCode sb = Obj.fmtCode b
  pair : fmtPair (Obj.fmt a) (Obj.fmt b) = true

section
variable {s u : State} {l : Lane} {p : List Byte} {a b c sa sb : Obj} {bar : List Obj}

theorem ChecksBar.population (h : ChecksBar s l p bar u) : u.population = s.population := by
  unfold ChecksBar at h
  split at h
  · obtain ⟨o, -, h, -⟩ := h
    exact h.population
  · obtain ⟨-, rfl⟩ := h
    rfl

theorem ChecksBar.fits (h : ChecksBar s l p bar u) : ∀ o ∈ bar, Fits u l o 0 16 := by
  unfold ChecksBar at h
  split at h
  · obtain ⟨o, rfl, -, fits⟩ := h
    intro x hx
    rw [List.mem_singleton.1 hx]
    exact fits
  · obtain ⟨rfl, -⟩ := h
    exact nofun

theorem ChecksPlan.population (h : ChecksPlan s l p a b c sa sb bar u) : u.population = s.population := by
  obtain ⟨s3, s4, s5, s6, s7, ha, hb, hc, hsa, hsb, hbar⟩ := h
  exact hbar.population.trans (hsb.population.trans (hsa.population.trans (hc.population.trans (hb.population.trans ha.population))))

theorem mseqWork_objects {f : AccObjForm} {iss : Issue} {no : Nat} {v s1 s2 : State} {plan : Obj} (may : maySign (.mseq f) l v = .ok ((), v))
    (hp : Checks v l (f.obj.getD 0).toNat [.buffer] rightR plan s1) (fits : Fits s1 l plan 0 64)
    (read : l.readObj plan 0 64 s1 = .ok (p, s2)) (objects : ChecksPlan s2 l p a b c sa sb bar u) :
    mseqWork f iss no l v = mseqRest f iss no l p a b c sa sb bar u := by
  obtain ⟨s3, s4, s5, s6, s7, ha, hb, hc, hsa, hsb, hbar⟩ := objects
  rw [mseqWork, Work.bind_ok may, Work.bind_ok hp, Work.bind_ok (checkFootprint_ok fits), Work.bind_ok read]
  dsimp only
  rw [Work.bind_ok ha, Work.bind_ok hb, Work.bind_ok hc, Work.bind_ok hsa, Work.bind_ok hsb]
  unfold ChecksBar at hbar
  by_cases named : planField p 0x0D 1 / 8 % 2 = 1
  · rw [if_pos named] at hbar ⊢
    obtain ⟨o, rfl, hbar, -⟩ := hbar
    rw [Work.bind_ok hbar]
    rfl
  · rw [if_neg named] at hbar ⊢
    obtain ⟨rfl, rfl⟩ := hbar
    rfl

theorem mseqRest_signs {f : AccObjForm} {iss : Issue} {no : Nat} (fit : FitsPlan u l p a b c sa sb) (barFits : ∀ o ∈ bar, Fits u l o 0 16) :
    mseqRest f iss no l p a b c sa sb bar u = sign (.mseq f) iss no l ([a, b, c, sa, sb] ++ bar)
      [BitVec.ofNat 32 (planField p 0x0C 1), BitVec.ofNat 32 (planField p 0x0D 1)] u := by
  obtain ⟨⟨ndimB, ndimC⟩, kdims, extentsB, ⟨extentN, extentM⟩, footprints, ⟨reserved, flags⟩, stages, ⟨formatA, formatB⟩, pair⟩ := fit
  obtain ⟨rowsA, colsA, scopeA⟩ := stages sa (by simp)
  obtain ⟨rowsB, colsB, scopeB⟩ := stages sb (by simp)
  rw [mseqRest, Work.bind_ok (Work.within_ok _ (Bool.or_eq_true_iff.2 (.inr (beq_iff_eq.2 extentsB)))),
    Work.bind_ok (Work.within_ok _ (Bool.or_eq_true_iff.2 (.inr (Bool.and_eq_true_iff.2 ⟨beq_iff_eq.2 extentN, beq_iff_eq.2 extentM⟩)))),
    Work.bind_ok (Work.forM_ok fun o ho => checkFootprint_ok (footprints o ho)),
    Work.bind_ok (Work.forM_ok fun o ho => checkFootprint_ok (barFits o ho)),
    Work.bind_ok (Work.legal_ok (by simp [reserved, flags, ndimB, ndimC, kdims])),
    Work.bind_ok (Work.legal_ok (by simp [rowsA, colsA, rowsB, colsB])),
    Work.bind_ok (Work.legal_ok (by simp [scopeA, scopeB, formatA, formatB])), Work.bind_ok (Work.legal_ok pair)]

end

/-- An MSEQ whose plan and objects pass their checks signs its register. -/
theorem mseq_signs {f : AccObjForm} {s v s1 s2 u : State} {iss : Issue} {l : Lane} {p : List Byte} {plan a b c sa sb : Obj} {bar : List Obj}
    (solo : Solo s iss (.mseq f) l) (claimed : Claimed s iss l v) (may : MaySign v l (.mseq f))
    (hp : Checks v l (f.obj.getD 0).toNat [.buffer] rightR plan s1) (fits : Fits s1 l plan 0 64)
    (read : l.readObj plan 0 64 s1 = .ok (p, s2)) (objects : ChecksPlan s2 l p a b c sa sb bar u) (fit : FitsPlan u l p a b c sa sb)
    (barFits : ∀ o ∈ bar, Fits u l o 0 16) : Signs s iss (.mseq f) l u ([a, b, c, sa, sb] ++ bar)
      [BitVec.ofNat 32 (planField p 0x0C 1), BitVec.ofNat 32 (planField p 0x0D 1)] := by
  refine signs_of_present (w := mseqWork f) (fun _ => rfl) solo claimed ?_
    ((mseqWork_objects (solo.maySign_passes claimed may) hp fits read objects).trans (mseqRest_signs fit barFits))
  calc (u.thread? l.tid).isSome
    _ = (s2.thread? l.tid).isSome := by rw [State.thread?, (Prod.mk.inj objects.population).1, State.thread?]
    _ = (s1.thread? l.tid).isSome := Lane.readObj_unread (unread_present l.tid) read
    _ = true := by rw [solo.thread_of_population (hp.population.trans claimed.population)]; rfl

/-! ## The obligation -/

/-- Settles O36: each word's checks, where they pass, leave its thread there to make its signature. -/
theorem anvilWords : Obligations.AnvilWords := by
  refine ⟨fun f => ⟨anvil_acts_traps fun _ => rfl, fun s iss l v ao s1 bo s2 so s3 solo claimed may ha rows hb hs fits => ?mma⟩,
    fun f => ⟨anvil_acts_traps fun _ => rfl, fun s iss l v ao s1 bo s2 so s3 solo claimed may ha rows hb hs fits => ?mmas⟩,
    fun f => ⟨anvil_acts_traps fun _ => rfl, fun s iss l v => bare_signs (args := fun _ => []) fun _ => rfl⟩,
    fun f => ⟨anvil_acts_traps fun _ => rfl, fun s iss l v o s1 => accWork_signs (ok := fun o => [0, 1, 8].contains (Obj.fmtCode o)) fun _ => rfl⟩,
    fun f => ⟨anvil_acts_traps fun _ => rfl, fun s iss l v o s1 => accWork_signs (ok := fun _ => true) fun _ => rfl⟩,
    fun f => ⟨anvil_acts_traps fun _ => rfl, fun s iss l v o s1 => accWork_signs (ok := fun _ => true) fun _ => rfl⟩,
    fun f => ⟨anvil_acts_traps fun _ => rfl, fun s iss l v => bare_signs (args := fun l => l.cap.words) fun _ => rfl⟩,
    fun f => anvil_acts_traps fun _ => rfl,
    fun f s iss l v plan s1 p s2 a s3 b s4 c s5 sa s6 sb s7 bar s8 solo claimed may hp fits read => ?mseq,
    fun i l s => maySign_undeclared⟩
  case mma =>
    obtain ⟨rfl, rfl⟩ := hs
    exact mma_signs (scales := false) (fun _ => rfl) solo claimed may ha rows hb ⟨rfl, rfl⟩ rfl fits
  case mmas =>
    obtain ⟨x, y, s', rfl, hx, hy, rowsX, colsX, colsY, takes⟩ := hs
    exact mma_signs (scales := true) (fun _ => rfl) solo claimed may ha rows hb ⟨x, y, s', rfl, hx, hy⟩
      ⟨x, y, rfl, rowsX, colsX, colsY, takes⟩ fits
  case mseq =>
    intro kdims flags ha hb hc hsa hsb hbar sh ndimB ndimC least most extentsB extentN extentM footprints reserved low stages formatA
      formatB pair
    have bars : ChecksBar s7 l p bar s8 := hbar
    exact mseq_signs solo claimed may hp fits read ⟨s3, s4, s5, s6, s7, ha, hb, hc, hsa, hsb, bars⟩
      ⟨⟨ndimB, ndimC⟩, ⟨least, most⟩, extentsB, ⟨extentN, extentM⟩, footprints, ⟨reserved, low⟩, stages, ⟨formatA, formatB⟩, pair⟩ bars.fits

end Sys2Proof.Machine
end

section
/-! PROOFS. What the Caster's operations do when they perform, and why each completes where its memory is in reach (R246 to R253, R342). -/
namespace Sys2Proof.Machine

/-! ## The events of an operation -/

/-- An event that does the work w at an operation that P describes performs it so, where that work completes. -/
theorem performsAs_of_op {ev : Nat → Instr} {k : Nat → State → Op → State} {P : Op → Prop} {ok : State → Op → Prop}
    {w : Nat → Op → Work Unit} (hx : ∀ id s, exec (ev id) s = .next (s.withOp id (k id s)))
    (hk : ∀ id s op, P op → k id s op = s.opWork id op (w id op))
    (hw : ∀ id s op, P op → ok s op → (w id op).Completes s) : PerformsAs ev P ok w := fun s id op due hP =>
  performs_of_work (by rw [hx, State.withOp_due due, hk id s op hP]) fun reach => (hw id s op hP reach).runs

theorem State.opWork_congr {s : State} {id : Nat} {op : Op} {w w' : Work Unit} (h : w s = w' s) : s.opWork id op w = s.opWork id op w' := by
  rw [State.opWork, State.opWork, h]

/-- Work that goes on alike from where its first part ends. -/
theorem Work.bind_congr {α β : Type} {w : Work α} {k k' : α → Work β} {s : State} (h : ∀ a u, w s = .ok (a, u) → k a u = k' a u) :
    (w >>= k) s = (w >>= k') s := by
  cases hw : w s with
  | error e => simp [Bind.bind, StateT.bind, Except.bind, hw]
  | ok x =>
    obtain ⟨a, u⟩ := x
    rw [Work.bind_ok hw, Work.bind_ok hw, h a u hw]

/-! ## What resolves an address, over the weight buffer -/

@[simp] theorem State.endCast_resolution (s : State) (op : Op) (status : Nat) : (s.endCast op status).resolution = s.resolution :=
  State.emitOp_resolution ..

@[simp] theorem State.setWeightSlot_resolution (s : State) (tile n : Nat) (w : WeightSlot) :
    (s.setWeightSlot tile n w).resolution = s.resolution := State.setTile_resolution rfl

@[simp] theorem State.mendSlot_resolution (s : State) (tile n : Nat) : (s.mendSlot tile n).resolution = s.resolution :=
  State.setTile_resolution rfl

/-! ## A copy (R246 to R249) -/

section
variable {s : State} {op : Op} {o src dst : Obj}

theorem Op.reach_unread {β : Type} {f : State → β} (h : Unread f) {off pa : Nat} {kind : AccKind} {u : State}
    (run : op.reach o off kind s = .ok (pa, u)) : f u = f s := by
  unfold Op.reach at run
  split at run
  · split at run
    · cases run
      rfl
    · cases run
  · have moved := h.translateAs s op.privileged op.tile op.ctx ((Obj.base o + off) % 2 ^ 52) kind
    split at run
    · rename_i hx
      rw [hx] at moved
      split at run
      · cases run
      · cases run
        exact moved
    · cases run
    · cases run

theorem Op.isRemote_unread {β : Type} {f : State → β} (h : Unread f) {kind : AccKind} {far : Bool} {u : State}
    (run : op.isRemote o kind s = .ok (far, u)) : f u = f s := by
  obtain ⟨pa, v, reached, run⟩ := Work.bind_ok_iff.1 run
  cases run
  exact Op.reach_unread h reached

/-- An object in reach is not in another package. -/
theorem Op.isRemote_yields {kind : AccKind} (h : op.Served s kind o 0 0) : (op.isRemote o kind).Yields (· = false) s := fun v hv => by
  obtain ⟨pa, reach, region⟩ := (h.of_resolution hv).first
  refine ⟨_, v, (Work.bind_ok reach).trans rfl, ?_, hv⟩
  rcases region with region | region <;> rw [region]

theorem Op.copy_completes {transposed : Bool} {n : Nat} (count : Obj.count? dst = some n) (read : op.ServedWhole s .read src transposed n)
    (write : op.Stores s dst n) : (op.copy src dst transposed).Completes s := by
  have elems : (eachOf n fun k => op.readElemAt src (Obj.elemBit src transposed k) (Obj.position src transposed k)).Yields
      (fun xs => xs.length = n) s := fun v hv => by
    obtain ⟨xs, u, run, ⟨length, -⟩, hu⟩ := Work.Yields.mapM (xs := List.range n)
      (fun k hk => (op.readElemAt_completes (Obj.position src transposed k) (read k (List.mem_range.1 hk))).yields) v hv
    exact ⟨xs, u, run, by simpa using length, hu⟩
  rw [Op.copy, count]
  refine elems.bind fun xs length => .bind (.mapM fun x hx => ?_) fun _ => .pure _
  exact op.writeElem_completes _ write (length ▸ List.snd_lt_of_mem_zipIdx hx)

theorem State.emit_sticky (s : State) (n kind ctx tile part : Nat) (wid : BitVec 64) (payload : List Byte) :
    ((s.emit kind ctx tile part wid payload).tile n).errsticky = (s.tile n).errsticky :=
  State.emit_keeps (f := fun s => (s.tile n).errsticky) (fun s pa bs => by rw [State.tile, s.setBytes_tiles bs pa, State.tile])
    (fun _ _ _ => rfl) (fun _ _ => rfl) ..

end

/-- A copy made, from the state start in which it began with before in ERRSTICKY: its own conditions stand beside those, and it ends as
ends says (R248, R249). -/
def Op.copied (op : Op) (ends : Op → List Nat → Nat → State → State) (far far' : Bool) (start : State) (before : Word) (s : State) : State :=
  let bad : Word := (s.tile op.tile).errsticky
  let s := (s.setTile op.tile { s.tile op.tile with errsticky := (before ||| bad : Word) }).energy op.tile op.ctx 6 op.bytes
  let sent := requestsSince start s
  let op := { op with performed := true, progress := (if far || far' then 2 else 0) + (if bad &&& 9 = 0 then 0 else 1), after := sent }
  ends op sent (if far then op.progress % 2 else 0) s

/-- A copy from the state start in which it begins (R248). -/
def Op.copyFrom (op : Op) (ends : Op → List Nat → Nat → State → State) (src dst : Obj) (far far' : Bool) (start : State) (before : Word) :
    Work Unit := do
  modify fun s => s.setTile op.tile { s.tile op.tile with errsticky := 0 }
  op.copy src dst (castWidth op.instr).isSome
  modify (op.copied ends far far' start before)

/-- A copy, once a package that it writes to has room; without, the state is as it was (R248, R249, R365). -/
def Op.copyBy (op : Op) (room : Bool) (back : State) (before : State → Word) (ends : Op → List Nat → Nat → State → State) (src dst : Obj) :
    Work Unit := do
  let far ← op.isRemote src .read
  let far' ← op.isRemote dst .write
  if far' && !room then set back
  else do
    modify fun s => s.emitOp op 1 op.casterRecord
    let start ← get
    op.copyFrom ends src dst far far' start (before start)

/-- A copy that has sent nothing ends; it leaves unless its barrier or an acknowledgement is to come (R249). -/
def State.copyEnds (id : Nat) (bar : List Obj) (op : Op) (sent : List Nat) (status : Nat) (s : State) : State :=
  let s := if sent = [] then s.endCast op status else s
  if bar = [] ∧ sent = [] then s.dropOp id else { s with ops := Map.set s.ops id op }

theorem State.copyEnds_resolution (id : Nat) (bar : List Obj) (op : Op) (sent : List Nat) (status : Nat) (s : State) :
    (s.copyEnds id bar op sent status).resolution = s.resolution := by
  have ended : (if sent = [] then s.endCast op status else s).resolution = s.resolution := ite_keeps (State.endCast_resolution ..) rfl
  exact ite_keeps (f := State.resolution) ((State.dropOp_resolution ..).trans ended) ended

/-- Lists tested for emptiness. -/
theorem State.copyEnds_eq (id : Nat) (bar : List Obj) (op : Op) (sent : List Nat) (status : Nat) (s : State) :
    (if bar.isEmpty && sent.isEmpty then (if sent.isEmpty then s.endCast op status else s).dropOp id
      else { (if sent.isEmpty then s.endCast op status else s) with
        ops := Map.set (if sent.isEmpty then s.endCast op status else s).ops id op }) = s.copyEnds id bar op sent status := by
  simp only [State.copyEnds, Bool.and_eq_true, List.isEmpty_iff]

section
variable {s : State} {op : Op} {src dst : Obj} {room : Bool} {back : State} {ends : Op → List Nat → Nat → State → State}

theorem Op.copied_resolution (h : ∀ op sent status v, (ends op sent status v).resolution = v.resolution) (far far' : Bool) (start : State)
    (before : Word) (s : State) : (op.copied ends far far' start before s).resolution = s.resolution :=
  (h ..).trans ((State.energy_resolution ..).trans (State.setTile_resolution rfl))

/-- A copy whose objects are in reach completes: neither of them is in another package. -/
theorem Op.copyBy_completes {before : State → Word} {n : Nat} (h : ∀ op sent status v, (ends op sent status v).resolution = v.resolution)
    (count : Obj.count? dst = some n) (near : op.Served s .read src 0 0) (near' : op.Served s .write dst 0 0)
    (read : op.ServedWhole s .read src (castWidth op.instr).isSome n) (write : op.Stores s dst n) :
    (op.copyBy room back before ends src dst).Completes s := by
  refine (Op.isRemote_yields near).bind fun far _ => (Op.isRemote_yields near').bind fun far' here => ?_
  rw [here]
  exact .bind (.change fun v => v.emitOp_resolution _ _ _) fun _ => .bind .get fun start =>
    .bind (.change fun v => State.setTile_resolution rfl) fun _ => .bind (Op.copy_completes count read write) fun _ =>
    .change fun v => Op.copied_resolution h ..

/-- What a copy finds in ERRSTICKY when it begins is what the event found. -/
theorem Op.copyBy_sticky : op.copyBy room back (fun _ => (s.tile op.tile).errsticky) ends src dst s =
    op.copyBy room back (fun start => (start.tile op.tile).errsticky) ends src dst s := by
  refine Work.bind_congr fun far u first => Work.bind_congr fun far' v second => ?_
  have begun : ((v.emitOp op 1 op.casterRecord).tile op.tile).errsticky = (s.tile op.tile).errsticky :=
    (State.emit_sticky ..).trans ((Op.isRemote_unread (unread_sticky op.tile) second).trans (Op.isRemote_unread (unread_sticky op.tile) first))
  split
  · rfl
  · refine (Work.bind_ok (a := ()) (u := v.emitOp op 1 op.casterRecord) rfl).trans (Eq.trans ?_ (Work.bind_ok rfl).symm)
    refine (Work.bind_ok (w := get) rfl).trans (Eq.trans ?_ (Work.bind_ok (w := get) rfl).symm)
    exact congrArg (fun b => op.copyFrom ends src dst far far' (v.emitOp op 1 op.casterRecord) b (v.emitOp op 1 op.casterRecord)) begun.symm

end

/-- The operation is a copy (R247). -/
def Op.isCast (op : Op) : Prop := (∃ f, op.instr = .cast f) ∨ (∃ f, op.instr = .castT8 f) ∨ ∃ f, op.instr = .castT16 f

/-- The event of a copy that may perform. -/
theorem casterCopy_due {s : State} {id : Nat} {op : Op} {src dst : Obj} {bar : List Obj} (due : Due s id op) (cast : op.isCast)
    (ho : op.objs = src :: dst :: bar) : exec (.casterCopy id) s = .next (s.opWork id op
      (op.copyBy (s.fabric.retryRoom (min op.bytes (2 ^ 24))) s (fun _ => (s.tile op.tile).errsticky) (State.copyEnds id bar) src dst)) := by
  have ends := funext fun op => funext fun sent => funext fun status => funext fun s => State.copyEnds_eq id bar op sent status s
  refine congrArg Host.Outcome.next ((State.withOp_due due _).trans ?_)
  rw [← ends]
  split
  case h_4 notCast notT8 notT16 =>
    rcases cast with ⟨f, hi⟩ | ⟨f, hi⟩ | ⟨f, hi⟩
    · exact (notCast _ _ _ _ hi ho).elim
    · exact (notT8 _ _ _ _ hi ho).elim
    · exact (notT16 _ _ _ _ hi ho).elim
  all_goals
    rename_i found
    cases ho.symm.trans found
    rfl

theorem casterCopy_performs (src dst : Obj) (bar : List Obj) : PerformsAs .casterCopy (fun op => op.isCast ∧ op.objs = src :: dst :: bar)
    (fun s op => ∃ n, Obj.count? dst = some n ∧ op.Served s .read src 0 0 ∧ op.Served s .write dst 0 0 ∧
      op.ServedWhole s .read src (castWidth op.instr).isSome n ∧ op.Stores s dst n) (fun id op => do
        let s ← get
        op.copyBy (s.fabric.retryRoom (min op.bytes (2 ^ 24))) s (fun start => (start.tile op.tile).errsticky) (State.copyEnds id bar) src dst) :=
  fun s id op due ⟨cast, ho⟩ => by
    refine performs_of_work ((casterCopy_due due cast ho).trans ?_) fun ⟨n, count, near, near', read, write⟩ => ?_
    · exact congrArg Host.Outcome.next (State.opWork_congr (Op.copyBy_sticky.trans rfl))
    · exact Work.Completes.runs (.bind .get fun _ => Op.copyBy_completes (State.copyEnds_resolution id bar) count near near' read write)

/-! ## The arrival of a copy at its barrier (R249, R342) -/

section
variable {s : State} {id : Nat} {op : Op}

theorem castArrival_absent (h : Map.get? s.ops id = none) : exec (.castBarrierArrival id) s = .next s := by
  refine congrArg Host.Outcome.next ?_
  rw [h]

theorem State.awaitsFar_iff : s.awaitsFar op = true ↔ ∃ o ∈ op.after, ∃ r ∈ s.fabric.retry, r.2.id = o := by
  simp only [State.awaitsFar, List.any_eq_true, beq_iff_eq]

variable (ho : Map.get? s.ops id = some op)
include ho

/-- A copy that has not performed, or whose bytes another package has still to acknowledge, stays. -/
theorem castArrival_waits (h : s.awaitsFar op = true ∨ op.performed = false) : exec (.castBarrierArrival id) s = .next s := by
  refine congrArg Host.Outcome.next ?_
  simp only [ho]
  by_cases far : s.awaitsFar op = true
  · rw [if_pos far]
  · have idle : op.performed = false := h.resolve_left far
    simp only [far, idle, Bool.false_and, Bool.false_eq_true, if_false, Bool.not_false, Bool.true_or, if_true]
    split <;> rfl

end

/-- What a copy that awaits acknowledgements leaves once it has them (R249). -/
def State.acknowledged (s : State) (op : Op) : State := if op.after = [] then s else s.endCast op (op.progress % 2)

theorem State.acknowledged_working (s : State) (op : Op) (ctx : Nat) : (s.acknowledged op).working ctx = s.working ctx := by
  have kept : (s.endCast op (op.progress % 2)).ctxs = s.ctxs :=
    State.emit_keeps (f := State.ctxs) (fun s pa bs => s.setBytes_ctxs bs pa) (fun _ _ _ => rfl) (fun _ _ => rfl) ..
  have same : (s.acknowledged op).ctxs = s.ctxs := ite_keeps rfl kept
  rw [State.working, State.ctx?, same]
  rfl

/-- The arrival of a copy that waits for nothing more: its barrier is lowered where it has one, and it leaves (R249). -/
def State.castArrives (s : State) (id : Nat) (op : Op) : State :=
  match op.instr, op.objs with
  | .cast _, [_, _, bar] | .castT8 _, [_, _, bar] | .castT16 _, [_, _, bar] =>
    if !op.performed || op.fault.isSome || !s.working op.ctx then s
    else
      s.opWork id op do
        let pa ← op.reach bar 0 .write
        modify fun s =>
          let s := if op.progress / 2 = 1 then s.writeBarrier op.tid (pa + 8) 8 (op.progress % 2) else s
          (s.lowerBarrier op.tid op.ctx bar.1 pa op.bytes).dropOp id
  | .cast _, [_, _] | .castT8 _, [_, _] | .castT16 _, [_, _] =>
    if op.performed && op.fault.isNone && s.working op.ctx then s.dropOp id else s
  | _, _ => s

section
variable {s u : State} {id : Nat} {op : Op} (cast : op.isCast) (done : op.performed = true) (sound : op.fault = none)
  (works : s.working op.ctx = true)

include done works in
theorem castArrival_arrives (ho : Map.get? s.ops id = some op) (near : s.awaitsFar op = false) :
    exec (.castBarrierArrival id) s = .next ((s.acknowledged op).castArrives id { op with after := [] }) := by
  refine congrArg Host.Outcome.next ?_
  simp only [ho]
  rw [if_neg (Bool.eq_false_iff.1 near)]
  by_cases none : op.after = []
  · have cleared : { op with after := [] } = op := by rw [← none]
    have awaited : (op.performed && !op.after.isEmpty && s.working op.ctx) = false := by
      rw [none, List.isEmpty_nil, Bool.not_true, Bool.and_false, Bool.false_and]
    rw [State.acknowledged, if_pos none, cleared, awaited]
    rfl
  · have awaited : (op.performed && !op.after.isEmpty && s.working op.ctx) = true := by simp [done, works, none]
    rw [State.acknowledged, if_neg none, awaited]
    rfl

include cast done sound works

theorem State.castArrives_bare {src dst : Obj} (objs : op.objs = [src, dst]) : s.castArrives id op = s.dropOp id := by
  rcases cast with ⟨f, hi⟩ | ⟨f, hi⟩ | ⟨f, hi⟩ <;> simp [State.castArrives, hi, objs, done, sound, works]

theorem State.castArrives_barrier {src dst bar : Obj} {pa : Nat} (objs : op.objs = [src, dst, bar]) (reach : op.reach bar 0 .write s = .ok (pa, u)) :
    s.castArrives id op = (State.lowerBarrier (if op.progress / 2 = 1 then u.writeBarrier op.tid (pa + 8) 8 (op.progress % 2) else u)
      op.tid op.ctx bar.1 pa op.bytes).dropOp id := by
  have performed : s.opWork id op (do
      let pa ← op.reach bar 0 .write
      modify fun s =>
        let s := if op.progress / 2 = 1 then s.writeBarrier op.tid (pa + 8) 8 (op.progress % 2) else s
        (s.lowerBarrier op.tid op.ctx bar.1 pa op.bytes).dropOp id) =
      (State.lowerBarrier (if op.progress / 2 = 1 then u.writeBarrier op.tid (pa + 8) 8 (op.progress % 2) else u)
        op.tid op.ctx bar.1 pa op.bytes).dropOp id := by
    rw [State.opWork, Work.bind_ok reach]
    rfl
  have goesOn : ¬ (!op.performed || op.fault.isSome || !s.working op.ctx) = true := by simp [done, sound, works]
  rw [← performed]
  unfold State.castArrives
  split
  case h_4 | h_5 | h_6 =>
    rename_i other
    cases objs.symm.trans other
  case h_7 notCast notT8 notT16 _ _ _ =>
    rcases cast with ⟨f, hi⟩ | ⟨f, hi⟩ | ⟨f, hi⟩
    · exact (notCast _ _ _ _ hi objs).elim
    · exact (notT8 _ _ _ _ hi objs).elim
    · exact (notT16 _ _ _ _ hi objs).elim
  all_goals
    rename_i found
    cases objs.symm.trans found
    rw [if_neg goesOn]

end

/-! ## The weight buffer (R250 to R253) -/

section
variable {s : State} {op : Op} {src : Obj}

/-- The bytes of a run lie in the elements from its first to its last. -/
theorem Op.readRun_completes {off n : Nat} (h : ∀ k, off * 8 / Obj.bits src ≤ k → k ≤ (off * 8 + n * 8 - 1) / Obj.bits src →
      op.Served s .read src (Obj.elemBit src false k / 8) ((Obj.bits src + 7) / 8)) : (op.readRun src off n).Completes s := by
  refine .bind (.mapM fun k hk => ?_) fun xs => .pure _
  have inside := List.mem_range.1 hk
  exact op.readElemAt_completes _ (h _ (Nat.le_add_right ..) (by omega))

theorem Op.weightData_completes (cols : Nat) (h : op.ServedWhole s .read src false (cols * 128)) :
    (op.weightData src false cols).Completes s := by
  refine .bind (.mapM fun c hc => .bind (.mapM fun k hk => ?_) fun _ => .pure _) fun _ => .pure _
  have column := List.mem_range.1 hc
  have row := List.mem_range.1 hk
  exact op.readElem_completes h (by omega)

theorem Op.weightData_cb3_completes (cols : Nat)
    (h : op.ServedWhole s .read src false ((48 * cols * 8 - 1) / Obj.bits src + 1)) : (op.weightData src true cols).Completes s := by
  refine .bind (op.readRun_completes fun k _ last => h k (Nat.lt_succ_of_le ?_)) fun _ => .pure _
  simpa using last

end

/-! ## The obligation -/

/-- Settles O38: a copy finds its objects in this package where they are in reach, so that it performs and goes on to write; the state it
reads ERRSTICKY in differs from the event's by reads only (`Op.copyBy_sticky`). The loads read elements in reach and change the buffer. -/
theorem casterPerforms : Obligations.CasterPerforms := by
  refine ⟨casterCopy_performs, ⟨fun _ _ => castArrival_absent, fun _ _ _ => castArrival_waits, fun _ _ => State.awaitsFar_iff,
      fun s id op src dst ho cast done near sound works => ⟨fun objs => ?bare, fun bar pa s1 objs reach => ?barrier⟩⟩,
    fun src => ?castw, fun src => ?castwCb3, fun src => ?casttab, waits_of_withOp fun _ _ => rfl, waits_of_withOp fun _ _ => rfl,
    waits_of_withOp fun _ _ => rfl⟩
  case bare =>
    exact (castArrival_arrives done works ho near).trans (congrArg Host.Outcome.next
      (State.castArrives_bare (op := { op with after := [] }) cast done sound ((s.acknowledged_working op op.ctx).trans works) objs))
  case barrier =>
    exact (castArrival_arrives done works ho near).trans (congrArg Host.Outcome.next
      (State.castArrives_barrier (op := { op with after := [] }) cast done sound ((s.acknowledged_working op op.ctx).trans works) objs reach))
  case castw =>
    refine performsAs_of_op (fun _ _ => rfl) (fun id s op ⟨⟨f, hi⟩, ho⟩ => ?_) fun id s op _ reach =>
      .bind (.change fun v => v.emitOp_resolution _ _ _) fun _ => .bind (op.weightData_completes _ reach) fun _ => .change fun v => by simp
    simp only [hi, ho]
  case castwCb3 =>
    refine performsAs_of_op (fun _ _ => rfl) (fun id s op ⟨⟨f, hi⟩, ho⟩ => ?_) fun id s op _ reach =>
      .bind (.change fun v => v.emitOp_resolution _ _ _) fun _ => .bind (op.weightData_cb3_completes _ reach) fun _ => .change fun v => by simp
    simp only [hi, ho]
  case casttab =>
    refine performsAs_of_op (fun _ _ => rfl) (fun id s op ⟨⟨f, hi⟩, ho⟩ => ?_) fun id s op _ reach =>
      .bind (.change fun v => v.emitOp_resolution _ _ _) fun _ => .bind (op.readRun_completes fun k first last => reach k first last)
        fun _ => .change fun v => (State.dropOp_resolution ..).trans ((State.endCast_resolution ..).trans
          ((State.energy_resolution ..).trans (ite_keeps (State.setWeightSlot_resolution ..) rfl)))
    simp only [hi, ho]

end Sys2Proof.Machine
end

section
/-! PROOFS. Ring queues: their words, and the records that they move (R297 to R300, R339). -/
namespace Sys2Proof.Machine

/-! ## QPUSH (R298 to R300) -/

theorem declared_ok {l : Lane} {first n : Nat} {s : State} (h : first + n ≤ l.th.vregs) : declared l first n s = .ok ((), s) := by
  rw [declared, if_pos h]
  rfl

theorem needFull_ok {l : Lane} {srcs : List Src} {s : State} (h : emptyCause srcs (l.th.capture srcs) = none) :
    needFull l srcs s = .ok ((), s) := by
  rw [needFull, h]
  rfl

/-- The registers that hold the record of a push (R298). -/
def recordOf (f : QpushForm) (o : Obj) : Src := vRun 0 f.a (Obj.recordWords o) false false

/-- A ring with its next position reserved for the record of a push, which follows what its thread has issued (R299, R300). -/
def Ring.reserve (r : Ring) (v : State) (l : Lane) (src : Src) (pa : Nat) : Ring :=
  { r with
    tail := r.tail + 1
    times := if r.head ≤ r.tail then Map.set r.times r.tail v.cycle else r.times
    inflight := r.inflight ++ [{ pos := r.tail, pa := pa, words := (l.th.read src).map Prod.fst, tid := l.tid
                                 after := ((v.thread? l.tid).map fun t => v.outstanding t l.tid ++ v.fencedBy t 7).getD [] }] }

/-- A push into ring r, its object and its record found (R299, R300). -/
def pushInto (f : QpushForm) (l : Lane) (o : Obj) (r : Ring) : Work Unit := do
  Work.need (!r.closed) (.trap .rights (o.1 + 2 ^ 17))
  if Obj.slots o ≤ r.tail - r.freed then modify fun s => s.leaveAs l.tid (.again (.ringRoom o.1))
  else
    let pa ← slotPa l o r.tail .write
    modify fun s => (s.regionEnd l.tid (some 3)).setRing (r.reserve (s.regionEnd l.tid (some 3)) l (recordOf f o) pa)

/-- What a push does in its thread. -/
def qpushWork (f : QpushForm) (l : Lane) : Work Unit := do
  let o ← ringOf l f.q.toNat rightW
  declared l f.a.toNat (Obj.recordWords o)
  needFull l [recordOf f o]
  let s ← get
  pushInto f l o (s.ring l.th.launch o.1)

theorem exec_qpush (f : QpushForm) (s : State) : exec (.qpush f) s = .next (s.eachLane (.qpush f) fun _ _ l => qpushWork f l) := rfl

section
variable {f : QpushForm} {s s1 s2 : State} {iss : Issue} {l : Lane} {o : Obj} {pa : Nat}
  (found : ringOf l f.q.toNat rightW s.issuing = .ok (o, s1)) (fits : f.a.toNat + Obj.recordWords o ≤ l.th.vregs)
  (full : emptyCause [recordOf f o] (l.th.capture [recordOf f o]) = none)
include found fits full

theorem qpushWork_finds : qpushWork f l s.issuing = pushInto f l o (s1.ring l.th.launch o.1) s1 := by
  rw [qpushWork, Work.bind_ok found, Work.bind_ok (declared_ok fits), Work.bind_ok (needFull_ok full)]
  exact Work.bind_ok rfl

/-- A push into a closed ring (R298). -/
theorem qpush_closed (alone : Alone s iss (.qpush f) l) (sound : emptyCause (staticSources (.qpush f)) l.cap = none)
    (written : uninitCause (staticSources (.qpush f)) l.cap = none) (closed : (s1.ring l.th.launch o.1).closed = true) :
    Stopped s iss (.qpush f) l .rights (o.1 + 2 ^ 17) :=
  eachLane_traps (exec_qpush f) s iss l _ _ alone sound written
    ((qpushWork_finds found fits full).trans (Work.need_fails _ _ _ (by rw [closed]; rfl))) nofun

variable (solo : Solo s iss (.qpush f) l) (opened : (s1.ring l.th.launch o.1).closed = false)
include solo opened

/-- A push into a full ring waits (R299). -/
theorem qpush_waits (kept : s1.issue = s.issue)
    (filled : Obj.slots o ≤ (s1.ring l.th.launch o.1).tail - (s1.ring l.th.launch o.1).freed) :
    exec (.qpush f) s = .next ((s1.leaveAs l.tid (.again (.ringRoom o.1))).settled s.nextId) := by
  refine solo.leaves (exec_qpush f) ((qpushWork_finds found fits full).trans ?_) kept
  rw [pushInto, Work.need_holds _ _ (by rw [opened]; rfl), if_pos filled]
  rfl

/-- A push into a ring with room reserves its next position (R299, R300). -/
theorem qpush_reserves (room : (s1.ring l.th.launch o.1).tail - (s1.ring l.th.launch o.1).freed < Obj.slots o)
    (slot : slotPa l o (s1.ring l.th.launch o.1).tail .write s1 = .ok (pa, s2)) (kept : s2.issue = s.issue) :
    exec (.qpush f) s = .next (((s2.regionEnd l.tid (some 3)).setRing
      ((s1.ring l.th.launch o.1).reserve (s2.regionEnd l.tid (some 3)) l (recordOf f o) pa)).settled s.nextId) := by
  refine solo.settles (exec_qpush f) ((qpushWork_finds found fits full).trans ?_)
    ((State.setRing_issue ..).trans ((State.regionEnd_issue ..).trans kept))
  rw [pushInto, Work.need_holds _ _ (by rw [opened]; rfl), if_neg (Nat.not_le.2 room), Work.bind_ok slot]
  rfl

end

/-! ## QPOP, QCOUNT and QCLOSE (R298, R299) -/

@[simp] theorem State.addEntry_nextId (s : State) (tid : Nat) (e : Entry) : (s.addEntry tid e).nextId = s.nextId + 1 :=
  State.modThread_nextId ..

@[simp] theorem State.addEntry_issue (s : State) (tid : Nat) (e : Entry) : (s.addEntry tid e).issue = s.issue :=
  State.modThread_issue ..

section
variable {s s1 s2 : State} {iss : Issue} {l : Lane} {o : Obj} {pa : Nat}

theorem State.reserved_number (s : State) (tid : Nat) (e : Entry) (r : Ring) : ((s.addEntry tid e).setRing r).nextId - 1 = s.nextId := by
  simp

/-- A pop reserves the next position, and its entry is one that everything after it waits for (R299, R339). -/
theorem qpop_reserves {f : QgetForm} (solo : Solo s iss (.qpop f) l) (found : ringOf l f.q.toNat rightR s.issuing = .ok (o, s1))
    (fits : f.d.toNat + Obj.recordWords o ≤ l.th.vregs) (slot : slotPa l o (s1.ring l.th.launch o.1).head .read s1 = .ok (pa, s2))
    (kept : s2.issue = s.issue) :
    let r := s1.ring l.th.launch o.1
    exec (.qpop f) s = .next ((((s2.addEntry l.tid
      { iss.entryFor (.qpop f) (vDests f.d (Obj.recordWords o)) (slotBit l.slot) s.nextId l with
        reply := some (numWords (r.head + pa * 2 ^ 64 + o.1 * 2 ^ 128) 5) }).setRing
      { r with head := r.head + 1, times := Map.del r.times r.head }).addFence l.tid { mask := 255, ids := [s2.nextId] }).settled
        s.nextId) :=
  solo.settles (fun _ => rfl) ((Work.bind_ok found).trans ((Work.bind_ok (declared_ok fits)).trans
    ((Work.bind_ok (w := get) rfl).trans ((Work.bind_ok slot).trans
      (congrArg (fun n => Except.ok ((), State.addFence _ l.tid { mask := 255, ids := [n] })) (s2.reserved_number l.tid _ _))))))
    (by simp [kept])

theorem qcount_reads {f : QgetForm} (solo : Solo s iss (.qcount f) l) (found : ringOf l f.q.toNat 0 s.issuing = .ok (o, s1))
    (kept : s1.issue = s.issue) : exec (.qcount f) s = .next ((s1.modThread l.tid fun t =>
      t.writeDest (vDest f.d) [BitVec.ofNat 32 (s1.ring t.launch o.1).counts] .full).settled s.nextId) :=
  solo.settles (fun _ => rfl) (Work.bind_ok found) ((State.modThread_issue ..).trans kept)

/-- A close waits for the thread's own pushes, on whatever queue (R298). -/
theorem qclose_closes {f : QcloseForm} (solo : Solo s iss (.qclose f) l) (found : ringOf l f.q.toNat rightW s.issuing = .ok (o, s1))
    (kept : s1.issue = s.issue) : exec (.qclose f) s = .next ((if s1.pushing l.tid then s1.leaveAs l.tid (.again .earlier)
      else s1.setRing { s1.ring l.th.launch o.1 with closed := true }).settled s.nextId) := by
  split
  · next pushing =>
    exact solo.leaves (fun _ => rfl) ((Work.bind_ok found).trans (congrArg (fun u => Except.ok ((), u)) (if_pos pushing))) kept
  · next quiet =>
    exact solo.settles (fun _ => rfl) ((Work.bind_ok found).trans (congrArg (fun u => Except.ok ((), u)) (if_neg quiet)))
      ((State.setRing_issue ..).trans kept)

end

/-! ## A record committed (R299, R300) -/

section
variable {s : State} {queue pos : Nat} {r : Ring} {p : Push} (ring : s.rings[queue]? = some r)
  (sent : (r.inflight.find? fun p => p.pos == pos) = some p)
include ring sent

theorem qpushCommit_commits (due : ∀ t, s.thread? p.tid = some t → ∀ o ∈ p.after, s.unfinished t o = false) :
    let bs := p.words.flatMap fun w => toBytes 4 w.toNat
    exec (.qpushCommit queue pos) s = .next (((s.perform p.tid (bytesAt p.pa bs)).resetTags (s.localPa p.pa) bs.length).setRing
      ({ r with inflight := r.inflight.filter (fun x => x.pos != pos), committed := pos :: r.committed }.advance
        (r.committed.length + 1))) := by
  refine congrArg Host.Outcome.next ?_
  simp only [ring, sent]
  refine if_neg ?_
  split
  · next t here =>
    intro waits
    obtain ⟨o, named, undone⟩ := List.any_eq_true.1 waits
    rw [due t here o named] at undone
    cases undone
  · exact nofun

theorem qpushCommit_waits {t : Thread} {o : Nat} (here : s.thread? p.tid = some t) (named : o ∈ p.after)
    (undone : s.unfinished t o = true) : exec (.qpushCommit queue pos) s = .next s := by
  have waits : (p.after.any fun o => s.unfinished t o) = true := List.any_eq_true.2 ⟨o, named, undone⟩
  refine congrArg Host.Outcome.next ?_
  simp only [ring, sent, here, waits, if_true]

end

/-- DONE passes only committed positions, and never turns back (R299). -/
theorem Ring.advance_passes (r : Ring) (n : Nat) :
    (∀ k, r.done ≤ k → k < (r.advance n).done → k ∈ r.committed) ∧ r.done ≤ (r.advance n).done := by
  induction n generalizing r with
  | zero => exact ⟨fun k low high => absurd high (Nat.not_lt.2 low), Nat.le_refl _⟩
  | succ n ih =>
    rw [Ring.advance]
    split
    · next here =>
      obtain ⟨passed, onward⟩ := ih { r with done := r.done + 1, committed := r.committed.filter (· != r.done) }
      refine ⟨fun k low high => ?_, Nat.le_of_succ_le onward⟩
      rcases Nat.eq_or_lt_of_le low with rfl | above
      · exact List.contains_iff_mem.1 here
      · exact List.mem_of_mem_filter (passed k above high)
    · exact ⟨fun k low high => absurd high (Nat.not_lt.2 low), Nat.le_refl _⟩

/-! ## The reply of a pop (R299, R328) -/

/-- A pop in flight: its thread, its entry, and the position, the slot and the queue that the entry keeps (R299). -/
structure Popping (s : State) (tid entry : Nat) (t : Thread) (e : Entry) (k pa obj : Nat) : Prop where
  here : s.thread? tid = some t
  held : t.entry? entry = some e
  pops : ∃ f, e.instr = .qpop f
  flight : e.state = .flight
  position : wordsNum (e.reply.getD []) % 2 ^ 64 = k
  slot : wordsNum (e.reply.getD []) / 2 ^ 64 % 2 ^ 64 = pa
  queue : wordsNum (e.reply.getD []) / 2 ^ 128 = obj

/-- What the reply of a pop leaves (R299). -/
def State.popReply (s : State) (tid entry : Nat) (t : Thread) (e : Entry) (k pa : Nat) (r : Ring) : State :=
  if k < r.done then
    if k ≠ r.freed then s
    else
      let b := s.readAt t tid 0 (s.localPa pa) (4 * e.dst.count)
      ((b.2.setRing { r with freed := r.freed + 1 }).completeEntry tid entry (numWords (ofBytes b.1) e.dst.count)).regionEnd tid none
  else if r.closed && r.done == r.tail && decide (r.tail ≤ k) then
    (s.completeEntry tid entry (List.replicate e.dst.count 0xFFFFFFFF)).regionEnd tid none
  else s

section
variable {s : State} {tid entry : Nat} {t : Thread} {e : Entry} {k pa obj : Nat}

theorem qpopReply_eq (h : Popping s tid entry t e k pa obj) :
    exec (.qpopReply tid entry) s = .next (s.popReply tid entry t e k pa (s.ring t.launch obj)) := by
  obtain ⟨here, held, ⟨f, pops⟩, flight, rfl, rfl, rfl⟩ := h
  refine congrArg Host.Outcome.next ?_
  simp only [here, Option.bind_some, held, pops]
  exact if_neg fun h => h flight

theorem popping_of_reply {f : QgetForm} (here : s.thread? tid = some t) (held : t.entry? entry = some e) (pops : e.instr = .qpop f)
    (flight : e.state = .flight) (hk : k < 2 ^ 64) (hp : pa < 2 ^ 64)
    (kept : wordsNum (e.reply.getD []) = k + pa * 2 ^ 64 + obj * 2 ^ 128) : Popping s tid entry t e k pa obj := by
  exact ⟨here, held, ⟨f, pops⟩, flight, by omega, by omega, by omega⟩

end

section
variable {s : State} {tid entry : Nat} {t : Thread} {e : Entry} {k pa : Nat} {r : Ring}

/-- A committed record whose turn has not come stays in its slot (R299). -/
theorem State.popReply_later (done : k < r.done) (later : k ≠ r.freed) : s.popReply tid entry t e k pa r = s := by
  rw [State.popReply, if_pos done, if_pos later]

theorem State.popReply_record (done : k < r.done) (turn : k = r.freed) :
    let b := s.readAt t tid 0 (s.localPa pa) (4 * e.dst.count)
    s.popReply tid entry t e k pa r =
      ((b.2.setRing { r with freed := r.freed + 1 }).completeEntry tid entry (numWords (ofBytes b.1) e.dst.count)).regionEnd tid none := by
  rw [State.popReply, if_pos done, if_neg (not_not_intro turn)]

theorem State.popReply_end (ahead : r.done ≤ k) (closed : r.closed = true) (drained : r.done = r.tail) :
    s.popReply tid entry t e k pa r = (s.completeEntry tid entry (List.replicate e.dst.count 0xFFFFFFFF)).regionEnd tid none := by
  rw [State.popReply, if_neg (Nat.not_lt.2 ahead), if_pos (by simp [closed, ← drained, ahead])]

theorem State.popReply_waits (ahead : r.done ≤ k) (opened : r.closed = false) : s.popReply tid entry t e k pa r = s := by
  rw [State.popReply, if_neg (Nat.not_lt.2 ahead), if_neg (by simp [opened])]

end

/-- Settles O31: a push and a pop work on the ring that their checks find, with the chain in progress kept; a commit moves the record once
what it follows is done, and DONE passes committed positions alone, by induction on how far it may go. -/
theorem ringQueues : Obligations.RingQueues := by
  refine ⟨⟨fun f s iss l o s1 pa s2 solo found fits full opened kept => ⟨qpush_waits found fits full solo opened kept,
        qpush_reserves found fits full solo opened⟩,
      fun f s iss l o s1 alone sound written found fits full => qpush_closed found fits full alone sound written,
      fun f s iss l o s1 pa s2 => qpop_reserves, fun f s iss l o s1 => qcount_reads, fun f s iss l o s1 => qclose_closes⟩,
    fun s queue pos r p => qpushCommit_commits, fun s queue pos r p t o ring sent => qpushCommit_waits ring sent,
    fun s tid t entry e f k pa obj here held pops flight hk hp kept => ?reply, Ring.advance_passes⟩
  rw [qpopReply_eq (popping_of_reply here held pops flight hk hp kept)]
  exact ⟨fun done later => congrArg Host.Outcome.next (State.popReply_later done later),
    fun done turn => congrArg Host.Outcome.next (State.popReply_record done turn),
    fun ahead closed drained => congrArg Host.Outcome.next (State.popReply_end ahead closed drained),
    fun ahead opened => congrArg Host.Outcome.next (State.popReply_waits ahead opened)⟩

end Sys2Proof.Machine
end

section
/-! PROOFS. The words of witness reductions and of the fabric check what they name, and then enter their queue, sign, or release a witness
(R238, R256, R272 to R285, R366 to R372). -/
namespace Sys2Proof.Machine

/-! ## A write leaves every thread there (R311, R313, R379) -/

/-- A part of the state in which neither reading shows nor writing does. -/
structure Unwritten {β : Type} (f : State → β) : Prop extends Unread f where
  byte : ∀ (s : State) pa b, f (s.setByte pa b) = f s
  wake : ∀ (s : State) p, f (s.wake p) = f s
  halt : ∀ (s : State) n g, f (s.modCtx n g) = f s
  register : ∀ (s : State) off n v, f (s.mmioWrite off n v) = f s

section
variable {β : Type} {f : State → β} (h : Unwritten f)
include h

theorem Unwritten.fatalThread (s : State) (tid : Nat) : f (s.fatalThread tid) = f s := by
  unfold State.fatalThread
  split
  · rfl
  · exact h.halt ..

/-- Bytes written one by one, each then waking what waits on it. -/
theorem Unwritten.bytes (s : State) (bs : Map Byte) (place : Nat → Nat) :
    f (bs.foldl (fun v (c : Nat × Byte) => v.wakeGranules (place c.1) 1)
      (bs.foldl (fun v (c : Nat × Byte) => v.setByte (place c.1) c.2) s)) = f s :=
  (foldl_keeps (fun _ _ => h.wake ..) bs _).trans (foldl_keeps (fun _ _ => h.byte ..) bs s)

theorem Unwritten.perform (s : State) (tid : Nat) (bs : Map Byte) : f (s.perform tid bs) = f s := by
  unfold State.perform
  split
  case h_1 => rfl
  case h_2 pa _ _ =>
    split
    case h_1 => exact foldl_keeps (fun _ _ => (h.wake ..).trans (h.register ..)) _ s
    case h_2 =>
      split
      · exact h.bytes s _ (· % 2 ^ 40)
      · split
        · exact (h.thread ..).trans (h.sendLane ..)
        · exact h.fatalThread s tid
    case h_3 => rfl
    case h_4 => rfl
    case h_5 => exact (h.thread ..).trans (foldl_keeps (fun _ _ => h.byte ..) _ s)
    case h_6 => exact (h.bytes (s.chargeAccess tid pa) _ id).trans (h.chargeAccess ..)

end

theorem State.moveClock_threads (s : State) (new : Int) : (s.moveClock new).threads = s.threads := by
  simp only [State.moveClock]

/-- By the branches of the register map, one after another. -/
@[simp] theorem State.mmioSetWord_threads (s : State) (off v : Nat) : (s.mmioSetWord off v).threads = s.threads := by
  unfold State.mmioSetWord
  refine ite_keeps (s.moveClock_threads _) ?_
  repeat refine ite_keeps (f := State.threads) rfl ?_
  rfl

@[simp] theorem State.mmioPut_threads (s : State) (w v : Nat) : (s.mmioPut w v).threads = s.threads :=
  ite_keeps rfl (s.mmioSetWord_threads w v)

@[simp] theorem State.mmioWrite_threads (s : State) (off n v : Nat) : (s.mmioWrite off n v).threads = s.threads := by
  simp only [State.mmioWrite]
  refine ite_keeps (f := State.threads) rfl (ite_keeps ?_ ?_) <;> simp

/-- Whether a thread is there. -/
theorem unwritten_present (tid : Nat) : Unwritten fun s => (s.thread? tid).isSome where
  toUnread := unread_present tid
  byte _ _ _ := rfl
  wake s p := by
    rw [State.thread?, State.wake, Map.get?_mapAll, Option.isSome_map, State.thread?]
  halt s n g := by rw [State.thread?, State.modCtx_threads, State.thread?]
  register s off n v := by rw [State.thread?, State.mmioWrite_threads, State.thread?]

/-- A witness's generation stamped, or released (R279). -/
theorem writeGeneration_present {l : Lane} {idx v tid : Nat} {s u : State} (h : writeGeneration l idx v s = .ok ((), u)) :
    (u.thread? tid).isSome = (s.thread? tid).isSome := by
  unfold writeGeneration at h
  split at h
  · cases h
  · next c _ =>
    have moved := (unread_present tid).translateAs s true l.th.tile l.th.ctx ((c.entryVa idx + 0x18) % 2 ^ 52) .write
    dsimp only at h
    split at h
    · cases h
    · cases h
    · next hx =>
      rw [hx] at moved
      cases h
      exact ((unwritten_present tid).perform ..).trans moved

/-! ## Words that enter their queue or sign (R244, R256) -/

section
variable {s v u : State} {iss : Issue} {l : Lane} {i : Instr} {q bytes : Nat} {objs : List Obj} {args : List Word}
  {w : Issue → Nat → Lane → Work Unit}

/-- A word whose work comes to its submission with its thread still there enters its queue. -/
theorem enters_of_present (hx : ∀ s, exec i s = .next (s.eachLane i w)) (solo : Solo s iss i l) (here : (v.thread? l.tid).isSome)
    (hw : w iss s.nextId l s.issuing = (submit iss i l s.nextId q objs args bytes >>= fun _ => pure ()) v) :
    Enters s iss i l v q objs args bytes := by
  obtain ⟨t, ht⟩ := Option.isSome_iff_exists.1 here
  obtain ⟨u, -, submitted, -⟩ := submit_ok ht
  exact ⟨_, u, submitted, eachLane_acts hx s iss l u solo (hw.trans (Work.bind_ok submitted))⟩

/-- A word whose work comes to its signature signs its register. -/
theorem eachLane_signs (hx : ∀ s, exec i s = .next (s.eachLane i w)) (solo : Solo s iss i l) (hp : v.population = s.population)
    (hw : w iss s.nextId l s.issuing = sign i iss s.nextId l objs args v) : Signs s iss i l v objs args := by
  obtain ⟨id, u, submitted⟩ := submit_of_population solo hp
  exact ⟨id, u, submitted, eachLane_acts hx s iss l _ solo (hw.trans (Work.bind_ok submitted))⟩

end

/-- The objects named beside a word's main ones pass their checks, where there is one (R238). -/
def ChecksOption (s : State) (l : Lane) (idx : Nat) (k : ObjKind) (rights : Nat) (absent : Prop) (os : List Obj) (u : State) : Prop :=
  (absent ∧ os = [] ∧ u = s) ∨ (¬ absent ∧ ∃ o, os = [o] ∧ Checks s l idx [k] rights o u)

section
variable {s u : State} {l : Lane} {idx rights : Nat} {k : ObjKind} {absent : Prop} {os : List Obj}

theorem ChecksOption.population (h : ChecksOption s l idx k rights absent os u) : u.population = s.population := by
  rcases h with ⟨-, -, rfl⟩ | ⟨-, o, -, h⟩
  · rfl
  · exact h.population

theorem checkOption_ok [Decidable absent] {α : Type} {g : List Obj → Work α} (h : ChecksOption s l idx k rights absent os u) :
    (if absent then pure [] >>= g else checkEntry l.th.tile l.th.ctx idx [k] rights >>= fun o => pure [o] >>= g) s = g os u := by
  rcases h with ⟨unnamed, rfl, rfl⟩ | ⟨named, o, rfl, h⟩
  · rw [if_pos unnamed]
    rfl
  · rw [if_neg named, Work.bind_ok h]
    rfl

/-- What a statement says of the object, where there is one, it says of each. -/
theorem checksOption_of_ite [Decidable absent] {P : Obj → State → Prop}
    (h : if absent then os = [] ∧ u = s else ∃ o, os = [o] ∧ Checks s l idx [k] rights o u ∧ P o u) :
    ChecksOption s l idx k rights absent os u ∧ ∀ o ∈ os, P o u := by
  split at h
  · next unnamed =>
    obtain ⟨rfl, rfl⟩ := h
    exact ⟨.inl ⟨unnamed, rfl, rfl⟩, nofun⟩
  · next named =>
    obtain ⟨o, rfl, found, ok⟩ := h
    exact ⟨.inr ⟨named, o, rfl, found⟩, fun x hx => by rw [List.mem_singleton.1 hx]; exact ok⟩

end

/-! ## The tile reductions (R274 to R279) -/

/-- The witness, the result that it names, and the source pass their checks (R238, R278). -/
def ChecksReduce (s : State) (l : Lane) (f : Red1Form) (wit res src : Obj) (u : State) : Prop :=
  ∃ s1 s2, Checks s l f.o.toNat [.witness] (rightW + rightA) wit s1 ∧ Checks s1 l (Obj.witResult wit) [.tile] (rightW + rightA) res s2 ∧
    Checks s2 l (f.obj.getD 0).toNat [.tile] (rightR + rightA) src u

/-- They have the shapes, the places, the formats and the FORM that the reduction asks for (R273, R274). -/
structure FitsReduce (s : State) (l : Lane) (op : RedOp) (d : Window) (wit res src : Obj) : Prop where
  small : Obj.rows src ≤ 128 ∧ Obj.cols src ≤ 128
  shape : d.shape (Obj.rows src) (Obj.cols src) = some (Obj.rows res, Obj.cols res)
  witness : Obj.witRows wit = Obj.rows res ∧ Obj.witCols wit = Obj.cols res
  footprints : Fits s l wit 0 (Obj.witBytes wit) ∧ Fits s l res 0 (Obj.span res) ∧ Fits s l src 0 (Obj.span src)
  formats : reduceFormat (Obj.fmtCode src) = true ∧ Obj.fmtCode res = Obj.fmtCode src
  form : op.fits (Obj.witForm wit) d.tie = true
  split : d.tie = 2 → d.count (Obj.rows src) (Obj.cols src) ≤ 16

/-- The bounds of a clamp or a saturating sum are legal, for some format before the source is read, and for its own (R274). -/
def Bounded (op : RedOp) (src : Obj) (lo hi : Nat) : Prop :=
  op = .clamp ∨ op = .sum → boundsHopeless lo hi = false ∧ boundsOk (Obj.fmt src) lo hi = true

section
variable {s s3 s4 : State} {iss : Issue} {l : Lane} {i : Instr} {op : RedOp} {f : Red1Form} {d : Window} {lo hi no : Nat}
  {wit res src : Obj}

theorem Bounded.hopeful (h : Bounded op src lo hi) : (!((op == .clamp || op == .sum) && boundsHopeless lo hi)) = true := by
  rcases em (op = .clamp ∨ op = .sum) with bounds | free
  · obtain ⟨hopeful, -⟩ := h bounds
    rw [hopeful, Bool.and_false]
    rfl
  · have free : (op == .clamp || op == .sum) = false := by simpa using free
    rw [free]
    rfl

theorem Bounded.legal (h : Bounded op src lo hi) : (!(op == .clamp || op == .sum) || boundsOk (Obj.fmt src) lo hi) = true := by
  rcases em (op = .clamp ∨ op = .sum) with bounds | free
  · obtain ⟨-, ok⟩ := h bounds
    rw [ok, Bool.or_true]
  · have free : (op == .clamp || op == .sum) = false := by simpa using free
    rw [free]
    rfl

theorem ChecksReduce.population (h : ChecksReduce s l f wit res src s3) : s3.population = s.population := by
  obtain ⟨s1, s2, hw, hr, hs⟩ := h
  exact hs.population.trans (hr.population.trans hw.population)

/-- A tile reduction whose checks pass comes to the stamp of its witness and its submission. -/
theorem reduceWork_stamps (operands : op.operands (Opnd.nums l.cap.a) = some (d, lo, hi)) (bounded : Bounded op src lo hi)
    (objects : ChecksReduce s l f wit res src s3) (fit : FitsReduce s3 l op d wit res src)
    (stamp : writeGeneration l wit.1 (Obj.gen wit % 2 ^ 31 + Obj.gen res * 2 ^ 32) s3 = .ok ((), s4)) :
    reduceWork i op f iss no l s = (submit iss i l no 4 [wit, res, src] l.cap.words 0 >>= fun _ => pure ()) s4 := by
  obtain ⟨s1, s2, hw, hr, hs⟩ := objects
  obtain ⟨⟨rows, cols⟩, shape, ⟨witRows, witCols⟩, ⟨fitw, fitr, fits⟩, ⟨format, same⟩, form, split⟩ := fit
  simp only [reduceWork, operands]
  rw [Work.bind_ok (Work.legal_ok bounded.hopeful), Work.bind_ok hw, Work.bind_ok hr, Work.bind_ok hs,
    Work.bind_ok (Work.within_ok _ (by simp [rows, cols]))]
  simp only [shape]
  rw [Work.bind_ok (Work.within_ok _ (by simp)), Work.bind_ok (Work.within_ok _ (by simp [witRows, witCols])),
    Work.bind_ok (checkFootprint_ok fitw), Work.bind_ok (checkFootprint_ok fitr), Work.bind_ok (checkFootprint_ok fits),
    Work.bind_ok (Work.legal_ok (by simp [format, same])), Work.bind_ok (Work.legal_ok (by simpa [form, ← imp_iff_not_or] using split)),
    Work.bind_ok (Work.legal_ok bounded.legal), Work.bind_ok stamp]
theorem reduce_enters (hx : ∀ s, exec i s = .next (s.eachLane i (reduceWork i op f))) (solo : Solo s iss i l)
    (operands : op.operands (Opnd.nums l.cap.a) = some (d, lo, hi)) (bounded : Bounded op src lo hi)
    (objects : ChecksReduce s.issuing l f wit res src s3) (fit : FitsReduce s3 l op d wit res src)
    (stamp : writeGeneration l wit.1 (Obj.gen wit % 2 ^ 31 + Obj.gen res * 2 ^ 32) s3 = .ok ((), s4)) :
    Enters s iss i l s4 4 [wit, res, src] l.cap.words 0 := by
  refine enters_of_present hx solo ?_ (reduceWork_stamps operands bounded objects fit stamp)
  rw [writeGeneration_present stamp, solo.thread_of_population (u := s3) objects.population]
  rfl

end

/-! ## ADJB, WREL and the convergence-set forms (R279, R281, R284) -/

/-- The witness, the gradient, the input and the gradient of the bounds pass their checks (R238, R281). -/
def ChecksAdjb (s : State) (l : Lane) (f : Red1Form) (wit grad input : Obj) (bnd : List Obj) (u : State) : Prop :=
  ∃ s1 s2 s3, Checks s l f.o.toNat [.witness] (rightR + rightA) wit s1 ∧ Checks s1 l (f.obj.getD 0).toNat [.tile] (rightR + rightA) grad s2 ∧
    Checks s2 l (Opnd.word l.cap.a 0 % 2 ^ 16) [.tile] (rightR + rightW + rightA) input s3 ∧
    ChecksOption s3 l (Opnd.word l.cap.a 0 / 2 ^ 16) .tile (rightR + rightW + rightA) (Opnd.word l.cap.a 0 / 2 ^ 16 = 0xFFFF) bnd u

/-- They have the shapes, the places, the formats and the FORM that an adjoint asks for (R281). -/
structure FitsAdjb (s : State) (l : Lane) (d : Window) (wit grad input : Obj) (bnd : List Obj) : Prop where
  gradient : Obj.rows grad = Obj.witRows wit ∧ Obj.cols grad = Obj.witCols wit
  small : Obj.rows input ≤ 128 ∧ Obj.cols input ≤ 128
  shape : d.shape (Obj.rows input) (Obj.cols input) = some (Obj.witRows wit, Obj.witCols wit)
  bounds : ∀ o ∈ bnd, 2 ≤ Obj.cols o
  witness : Fits s l wit 0 (Obj.witBytes wit)
  tiles : ∀ o ∈ grad :: input :: bnd, Fits s l o 0 (Obj.span o) ∧ Obj.fmtCode o = 0
  form : adjbFits (Obj.witForm wit) d (Opnd.word l.cap.a 1) (d.count (Obj.rows input) (Obj.cols input)) = true

section
variable {s s4 s5 : State} {iss : Issue} {l : Lane} {f : Red1Form} {d : Window} {no : Nat} {wit grad input res : Obj} {bnd : List Obj}

theorem ChecksAdjb.population (h : ChecksAdjb s l f wit grad input bnd s4) : s4.population = s.population := by
  obtain ⟨s1, s2, s3, hw, hg, hi, hb⟩ := h
  exact hb.population.trans (hi.population.trans (hg.population.trans hw.population))

/-- A window that SPLIT ties has at most 16 contributors (R273). -/
theorem Window.splits_ok (split : d.tie = 2 → d.mode = 0 → d.ww * d.wh ≤ 16) :
    (!(d.tie == 2 && d.mode == 0 && decide (d.ww * d.wh > 16))) = true := by
  simp only [Bool.not_eq_true', Bool.and_eq_false_iff, beq_eq_false_iff_ne, decide_eq_false_iff_not, Nat.not_lt]
  omega

/-- An adjoint whose checks pass and whose witness is live comes to its submission. -/
theorem adjbWork_submits (named : Window.ofWord (Opnd.word l.cap.a 1) = some d) (split : d.tie = 2 → d.mode = 0 → d.ww * d.wh ≤ 16)
    (objects : ChecksAdjb s l f wit grad input bnd s4) (fit : FitsAdjb s4 l d wit grad input bnd)
    (entry : readEntry l.th.tile l.th.ctx (Obj.witResult wit) s4 = .ok (res, s5)) (live : witLive wit res = true) :
    adjbWork f iss no l s = (submit iss (.adjb f) l no 4 (wit :: grad :: input :: bnd) l.cap.words 0 >>= fun _ => pure ()) s5 := by
  obtain ⟨s1, s2, s3, hw, hg, hi, hb⟩ := objects
  obtain ⟨⟨rowsG, colsG⟩, ⟨rows, cols⟩, shape, bounds, witness, tiles, form⟩ := fit
  simp only [adjbWork, named]
  rw [Work.bind_ok (Work.legal_ok (Window.splits_ok split)), Work.bind_ok hw, Work.bind_ok hg, Work.bind_ok hi,
    checkOption_ok hb, Work.bind_ok (Work.within_ok _ (by simp [rowsG, colsG])),
    Work.bind_ok (Work.within_ok _ (by simp [rows, cols, shape])),
    Work.bind_ok (Work.forM_ok fun o ho => Work.within_ok _ (decide_eq_true (bounds o ho))),
    Work.bind_ok (checkFootprint_ok witness), Work.bind_ok (Work.forM_ok fun o ho => checkFootprint_ok (tiles o ho).1),
    Work.bind_ok (Work.legal_ok (List.all_eq_true.2 fun o ho => beq_iff_eq.2 (tiles o ho).2)), Work.bind_ok (Work.legal_ok form),
    Work.bind_ok (w := get) (a := s4) (u := s4) rfl]
  simp only [entry]
  rw [Work.bind_ok (a := witLive wit res) (u := s5) rfl, Work.need_holds _ _ live]

theorem adjb_enters (solo : Solo s iss (.adjb f) l) (named : Window.ofWord (Opnd.word l.cap.a 1) = some d)
    (split : d.tie = 2 → d.mode = 0 → d.ww * d.wh ≤ 16) (objects : ChecksAdjb s.issuing l f wit grad input bnd s4)
    (fit : FitsAdjb s4 l d wit grad input bnd) (entry : readEntry l.th.tile l.th.ctx (Obj.witResult wit) s4 = .ok (res, s5))
    (live : witLive wit res = true) : Enters s iss (.adjb f) l s5 4 (wit :: grad :: input :: bnd) l.cap.words 0 :=
  enters_of_work (w := adjbWork f) (fun _ => rfl) solo ((readEntry_keeps _ _ _ _ _ _ entry).trans objects.population)
    (adjbWork_submits named split objects fit entry live)

end

theorem wrel_releases {f : Obj1Form} {s s1 u : State} {iss : Issue} {l : Lane} {wit : Obj} (solo : Solo s iss (.wrel f) l)
    (entry : Checks s.issuing l f.o.toNat [.witness] rightW wit s1)
    (stamp : writeGeneration l wit.1 (2 ^ 31 + Obj.field wit 0x18 4 % 2 ^ 31 + Obj.field wit 0x1C 4 * 2 ^ 32)
      (s1.regionEnd l.tid (some 3)) = .ok ((), u)) : exec (.wrel f) s = .next (u.goesOn iss s.nextId) := by
  refine eachLane_acts (w := wrelWork f) (fun _ => rfl) s iss l u solo ?_
  rw [wrelWork, Work.bind_ok entry]
  exact (Work.bind_ok rfl).trans stamp

/-- A convergence-set form whose bounds are legal signs its register. -/
theorem cr_signs {i : Instr} {f : RedCrForm} {bounded : Bool} {s : State} {iss : Issue} {l : Lane}
    (hx : ∀ s, exec i s = .next (s.eachLane i (crWork i f bounded))) (solo : Solo s iss i l) (may : MaySign s.issuing l i)
    (legal : bounded = true → boundsOk (crFormat f) (Opnd.word l.cap.a 1) (Opnd.word l.cap.a 2) = true) :
    Signs s iss i l s.issuing [] l.cap.words := by
  refine eachLane_signs hx solo rfl ?_
  rw [crWork, Work.bind_ok (maySign_passes (s := s.issuing) (solo.thread_of_population rfl) may), Work.bind_ok (Work.legal_ok ?_)]
  cases bounded with
  | false => rfl
  | true => exact legal rfl

/-! ## The words of the fabric (R366, R367, R371, R372) -/

section
variable {s s1 s2 : State} {iss : Issue} {l : Lane} {f : FcollWForm} {bar : List Obj}

/-- A send whose objects pass their checks and whose destination lies in its window or its slice (R366, R367). -/
theorem fsend_enters {src : Obj} (solo : Solo s iss (.fsend f) l)
    (legal : 1 ≤ Opnd.word l.cap.a 1 ∧ Opnd.word l.cap.a 1 ≤ 2 ^ 24 ∧ Opnd.word l.cap.a 3 < 2 ^ 16)
    (entry : Checks s.issuing l f.o.toNat [.buffer] (rightR + rightF) src s1)
    (barrier : ChecksOption s1 l (Opnd.word l.cap.a 3) .barrier rightW (Opnd.word l.cap.a 3 = 0xFFFF) bar s2)
    (fitb : ∀ b ∈ bar, Fits s2 l b 0 16) (fits : Fits s2 l src (Opnd.word l.cap.a 0) (Opnd.word l.cap.a 1))
    (inside : Opnd.word l.cap.a 2 + Opnd.word l.cap.a 1 ≤ cellWindow ∨ 2 ^ 32 ≤ Opnd.word l.cap.a 2 ∨
      Opnd.word l.cap.a 2 + Opnd.word l.cap.a 1 - cellWindow ≤ s2.sliceLen l.th.cell) :
    Enters s iss (.fsend f) l s2 6 (src :: bar) l.cap.words (l.th.awin.toNat / 2 ^ 32 % 2 ^ 20) := by
  refine enters_of_work (w := fsendWork f) (fun _ => rfl) solo (barrier.population.trans entry.population) ?_
  rw [fsendWork, Work.bind_ok (Work.legal_ok (decide_eq_true legal)), Work.bind_ok entry, checkOption_ok barrier]
  dsimp only
  rw [Work.bind_ok (checkFootprint_ok fits), Work.bind_ok (Work.forM_ok fun b hb => checkFootprint_ok (fitb b hb)),
    Work.bind_ok (w := get) (a := s2) (u := s2) rfl, Work.bind_ok (Work.within_ok _ (decide_eq_true inside))]

theorem treeRights_ok {b : Bool} (h : b = true) : treeRights b s = .ok ((), s) := by
  rw [h]
  rfl

/-- A window whose objects pass their checks, and whose tree is the context's where it opens (R371). -/
theorem fwin_enters {dst b : Obj} (solo : Solo s iss (.fwin f) l)
    (legal : Opnd.word l.cap.a 0 / 2 ^ 26 % 32 = 0 ∧ Opnd.word l.cap.a 0 / 2 ^ 10 % 1024 = 0 ∧ Opnd.word l.cap.a 1 / 2 ^ 16 = 0)
    (entry : Checks s.issuing l f.o.toNat [.buffer] (rightW + rightF) dst s1)
    (barrier : Checks s1 l (Opnd.word l.cap.a 1 % 2 ^ 16) [.barrier] rightW b s2) (fits : Fits s2 l dst 0 chunkBytes) (fitb : Fits s2 l b 0 16)
    (tree : Opnd.word l.cap.a 0 / 2 ^ 31 = 1 → s2.fabric.treeValid (Opnd.word l.cap.a 0 % 1024) = true ∧
      s2.jobOf l.th.ctx = some (s2.fabric.treeJob (Opnd.word l.cap.a 0 % 1024))) :
    Enters s iss (.fwin f) l s2 6 [dst, b] l.cap.words 0 := by
  refine enters_of_work (w := fwinWork f) (fun _ => rfl) solo (barrier.population.trans entry.population) ?_
  obtain ⟨reserved, unused, low⟩ := legal
  rw [fwinWork, Work.bind_ok (Work.legal_ok (by rw [reserved, unused, low]; rfl)), Work.bind_ok entry, Work.bind_ok barrier,
    Work.bind_ok (checkFootprint_ok fits), Work.bind_ok (checkFootprint_ok fitb), Work.bind_ok (w := get) (a := s2) (u := s2) rfl,
    Work.bind_ok (treeRights_ok ?_)]
  rcases em (Opnd.word l.cap.a 0 / 2 ^ 31 = 1) with opens | closes
  · obtain ⟨valid, job⟩ := tree opens
    simp [valid, job]
  · rw [beq_false_of_ne closes]
    rfl

/-- What a push does, its source found (R372). -/
def pushOnto (f : FcollWForm) (iss : Issue) (no : Nat) (l : Lane) (src : Obj) (s : State) : Option OpenTree → Work Unit
  | none => treeRights false
  | some o =>
    if o.full (s.pushesOf (Opnd.word l.cap.a 1 / 2 ^ 22)) (Opnd.word l.cap.a 1 % 2 ^ 22) then
      modify fun s => s.leaveAs l.tid (.again (.room 7))
    else do
      let _ ← submit iss (.fcoll f) l no 6 [src] l.cap.words 0

section
variable {src : Obj} (entry : Checks s.issuing l f.o.toNat [.buffer] (rightR + rightF) src s1) (fits : Fits s1 l src l.a chunkBytes)
include entry fits

theorem fcollWork_finds (no : Nat) :
    fcollWork f iss no l s.issuing = pushOnto f iss no l src s1 (s1.windowOf l.tid (Opnd.word l.cap.a 1 / 2 ^ 22)) s1 := by
  rw [fcollWork, Work.bind_ok entry, Work.bind_ok (checkFootprint_ok fits)]
  refine (Work.bind_ok (w := get) (a := s1) (u := s1) rfl).trans ?_
  unfold collTree
  cases s1.windowOf l.tid (Opnd.word l.cap.a 1 / 2 ^ 22) <;> rfl

/-- A push into a tree that its thread finds not open (R371, R372). -/
theorem fcollWork_traps (shut : s1.windowOf l.tid (Opnd.word l.cap.a 1 / 2 ^ 22) = none) (no : Nat) :
    fcollWork f iss no l s.issuing = .error (.trap .rights (0xFFFF + 2 ^ 21)) := by
  rw [fcollWork_finds entry fits, shut]
  rfl

variable {o : OpenTree} (solo : Solo s iss (.fcoll f) l) (opened : s1.windowOf l.tid (Opnd.word l.cap.a 1 / 2 ^ 22) = some o)
include solo opened

theorem fcoll_enters (room : o.full (s1.pushesOf (Opnd.word l.cap.a 1 / 2 ^ 22)) (Opnd.word l.cap.a 1 % 2 ^ 22) = false) :
    Enters s iss (.fcoll f) l s1 6 [src] l.cap.words 0 := by
  refine enters_of_work (w := fcollWork f) (fun _ => rfl) solo entry.population ?_
  rw [fcollWork_finds entry fits, opened, pushOnto, if_neg (Bool.eq_false_iff.1 room)]

theorem fcoll_waits (full : o.full (s1.pushesOf (Opnd.word l.cap.a 1 / 2 ^ 22)) (Opnd.word l.cap.a 1 % 2 ^ 22) = true) :
    exec (.fcoll f) s = .next ((s1.leaveAs l.tid (.again (.room 7))).goesOn iss s.nextId) := by
  refine eachLane_acts (w := fcollWork f) (fun _ => rfl) s iss l _ solo ?_
  rw [fcollWork_finds entry fits, opened, pushOnto, if_pos full]
  rfl

end

end

theorem OpenTree.full_iff {o : OpenTree} {chunks : List Nat} {chunk : Nat} :
    o.full chunks chunk = true ↔ o.aborted = false ∧ (o.width ≤ chunks.length ∨ chunk ∈ chunks) := by
  simp [OpenTree.full]

/-! ## The obligation -/

/-- Settles O37: the checks of each word leave its thread there, and so does the stamp of a witness (`writeGeneration_present`), so that a
word whose checks pass enters its queue or signs. -/
theorem reductionAndFabricWords : Obligations.ReductionAndFabricWords := by
  refine ⟨?words, fun f => eachLane_acts_traps fun _ => rfl, fun f => eachLane_acts_traps fun _ => rfl,
    fun f => eachLane_acts_traps fun _ => rfl, fun f s iss l src s1 bar s2 solo => ?fsend, fun f s iss l dst s1 bar s2 solo => ?fwin,
    fun f s iss l src s1 solo entry fits => ⟨fcollWork_traps entry fits, fun o opened =>
      ⟨fcoll_enters entry fits solo opened, fcoll_waits entry fits solo opened, OpenTree.full_iff⟩⟩⟩
  case words =>
    intro reduces answers
    have reduces_of {i : Instr} {op : RedOp} {f : Red1Form} (hx : ∀ s, exec i s = .next (s.eachLane i (reduceWork i op f))) :
        reduces i op f :=
      ⟨eachLane_acts hx, eachLane_traps hx, fun s iss l d lo hi wit s1 res s2 src s3 s4 solo operands bounded hw hr hs rows cols shape
        witRows witCols fitw fitr fits format same form split => reduce_enters hx solo operands bounded ⟨s1, s2, hw, hr, hs⟩
          ⟨⟨rows, cols⟩, shape, ⟨witRows, witCols⟩, ⟨fitw, fitr, fits⟩, ⟨format, same⟩, form, split⟩⟩
    have answers_of {i : Instr} {f : RedCrForm} {bounded : Bool} (hx : ∀ s, exec i s = .next (s.eachLane i (crWork i f bounded))) :
        answers i f bounded := ⟨eachLane_acts hx, eachLane_traps hx, fun s iss l => cr_signs hx⟩
    refine ⟨fun f => reduces_of fun _ => rfl, fun f => reduces_of fun _ => rfl, fun f => reduces_of fun _ => rfl,
      fun f => reduces_of fun _ => rfl, fun f => reduces_of fun _ => rfl, fun f => eachLane_acts_traps fun _ => rfl,
      fun f s iss l d wit s1 grad s2 input s3 bnd s4 res s5 solo named split hw hg hi hb rowsG colsG rows cols shape witness tiles form => ?adjb,
      fun f => ⟨eachLane_acts fun _ => rfl, eachLane_traps fun _ => rfl⟩, fun f s iss l wit s1 u => wrel_releases,
      fun f => answers_of fun _ => rfl, fun f => answers_of fun _ => rfl, fun f => answers_of fun _ => rfl,
      fun f => answers_of fun _ => rfl, fun f => answers_of fun _ => rfl, fun i f b iss no l s => rfl⟩
    obtain ⟨hb, bounds⟩ := checksOption_of_ite (P := fun o _ => 2 ≤ Obj.cols o) hb
    exact adjb_enters solo named split ⟨s1, s2, s3, hw, hg, hi, hb⟩ ⟨⟨rowsG, colsG⟩, ⟨rows, cols⟩, shape, bounds, witness, tiles, form⟩
  case fsend =>
    intro w least most low entry barrier fits inside
    obtain ⟨barrier, fitb⟩ := checksOption_of_ite (P := fun b u => Fits u l b 0 16) barrier
    exact fsend_enters solo ⟨least, most, low⟩ entry barrier fitb fits inside
  case fwin =>
    intro v b reserved unused low entry barrier fits fitb tree
    exact fwin_enters solo ⟨reserved, unused, low⟩ entry barrier fits fitb tree

end Sys2Proof.Machine
end

section
/-! PROOFS. Requests of other packages, held releases and the retry store (R287, R311, R348, R360, R363 to R365). -/
namespace Sys2Proof.Machine

/-! ## A request performs once (R311, R365) -/

/-- The request noted as performed. -/
def State.seenFrom (s : State) (src seq : Nat) : State := { s with fabric := { s.fabric with seen := (src, seq) :: s.fabric.seen } }

section
variable {i : Instr} {s : State} {src seq addr n : Nat} {k : State → Option State} (hx : exec i s = s.request src seq addr n k)
include hx

/-- A repeated request is suppressed. -/
theorem request_repeated (seen : s.fabric.seen.contains (src, seq) = true) : exec i s = .next s := hx.trans (if_pos seen)

section
variable (fresh : s.fabric.seen.contains (src, seq) = false)
include fresh

/-- A request outside HBM and slices stops the run. -/
theorem request_outside (outside : shared addr n = false) : exec i s = .fault (.unassignedAddress addr) := by
  rw [hx, State.request, if_neg (Bool.eq_false_iff.1 fresh), if_pos (by rw [outside]; rfl)]

variable (inside : shared addr n = true)
include inside

theorem request_eq : exec i s = .next (((k s).map fun u => u.seenFrom src seq).getD s) := by
  rw [hx, State.request, if_neg (Bool.eq_false_iff.1 fresh), if_neg (by rw [inside]; exact nofun)]
  rfl

theorem request_performs {u : State} (done : k s = some u) : exec i s = .next (u.seenFrom src seq) := by
  rw [request_eq hx fresh inside, done]
  rfl

/-- A request that finds no room changes nothing, and is not yet seen. -/
theorem request_waits (full : k s = none) : exec i s = .next s := by
  rw [request_eq hx fresh inside, full]
  rfl

end

end

theorem exec_remoteLoadRequest (src seq addr size : Nat) (s : State) :
    exec (.remoteLoadRequest src seq addr size) s = s.request src seq addr size fun s =>
      some ((s.acceptReads 0 addr size).answer src seq (s.bytes addr size)) := rfl

/-- The bytes that a write request carries, by their addresses. -/
def requestBytes (addr : Nat) (bytes : List (Nat × Byte)) : Map Byte := bytes.foldl (fun m b => Map.set m (addr + b.1) b.2) []

/-- How far they reach from the request's address. -/
def requestSpan (addr : Nat) (bytes : List (Nat × Byte)) : Nat := (((requestBytes addr bytes).getLast?).map Prod.fst).getD addr + 1 - addr

theorem exec_remoteWriteRequest (src seq addr : Nat) (data : WriteData) (release : Option Nat) (s : State) :
    exec (.remoteWriteRequest src seq addr data release) s =
      s.request src seq addr (requestSpan addr data.bytes) fun s =>
        match release with
        | some named => some (s.holdRelease src seq named (.release addr (requestBytes addr data.bytes) named))
        | none => (s.writeOutside (requestBytes addr data.bytes)).map fun s => (s.streamArrivals src data.stores).answer src seq [] := rfl

section
variable {s : State} {src seq addr count : Nat} {bytes : List (Nat × Byte)} (fresh : s.fabric.seen.contains (src, seq) = false)
  (inside : shared addr (requestSpan addr bytes) = true)
include fresh inside

/-- A store writes its bytes, and counts for what was merged into it (R360, R364). -/
theorem remoteWrite_performs {u : State} (room : s.writeOutside (requestBytes addr bytes) = some u) :
    exec (.remoteWriteRequest src seq addr ⟨bytes, count⟩ none) s =
      .next (((u.streamArrivals src count).answer src seq []).seenFrom src seq) :=
  request_performs (exec_remoteWriteRequest src seq addr ⟨bytes, count⟩ none s) fresh inside (Option.map_eq_some_iff.2 ⟨u, room, rfl⟩)

theorem remoteWrite_waits (full : s.writeOutside (requestBytes addr bytes) = none) :
    exec (.remoteWriteRequest src seq addr ⟨bytes, count⟩ none) s = .next s :=
  request_waits (exec_remoteWriteRequest src seq addr ⟨bytes, count⟩ none s) fresh inside (Option.map_eq_none_iff.2 full)

/-- A release waits for its stream (R348). -/
theorem remoteWrite_holds (named : Nat) : exec (.remoteWriteRequest src seq addr ⟨bytes, count⟩ (some named)) s =
    .next ((s.holdRelease src seq named (.release addr (requestBytes addr bytes) named)).seenFrom src seq) :=
  request_performs (exec_remoteWriteRequest src seq addr ⟨bytes, count⟩ (some named) s) fresh inside rfl

end

theorem exec_remoteAtomicRequest (src seq addr : Nat) (op : MemOp) (a b : BitVec 32) (release : Option Nat) (s : State) :
    exec (.remoteAtomicRequest src seq addr op a b release) s = s.request src seq addr 4 fun s =>
      match release with
      | some count => some (s.holdRelease src seq count (.atomic addr op (a.setWidth 64) (b.setWidth 64) (some count)))
      | none => (s.atomicOutside addr 4 op a.toNat b.toNat).map fun r => r.2.answer src seq r.1 := rfl

theorem exec_vectorRequest (src seq page size : Nat) (op : MemOp) (lanes : List VecLane) (s : State) :
    exec (.vectorRequest src seq page size op lanes) s = s.request src seq page 65536 fun s =>
      (s.vectorLanes src page size op [] lanes).map fun r => r.2.answer src seq r.1 := rfl

/-- One store of a merged write after another (R364). -/
theorem State.streamArrivals_succ (s : State) (src n : Nat) : s.streamArrivals src (n + 1) = (s.streamArrivals src n).streamArrival src := by
  rw [State.streamArrivals, List.range_succ, List.foldl_append]
  rfl

/-! ## A held release (R348) -/

section
variable {s : State} {src seq : Nat}

theorem fabricRelease_absent (gone : (s.fabric.held.find? fun h => h.src == src && h.seq == seq) = none) :
    exec (.fabricReleasePerform src seq) s = .next s := by
  refine congrArg Host.Outcome.next ?_
  simp only [gone]

variable {h : HeldRelease} (held : (s.fabric.held.find? fun h => h.src == src && h.seq == seq) = some h)
include held

theorem fabricRelease_waits (missing : h.missing ≠ 0) : exec (.fabricReleasePerform src seq) s = .next s := by
  refine congrArg Host.Outcome.next ?_
  simp only [held]
  exact if_pos missing

/-- The package with the release no longer held. -/
def State.freed (s : State) (h : HeldRelease) : State := { s with fabric := { s.fabric with held := s.fabric.held.erase h } }

variable (arrived : h.missing = 0)
include arrived

theorem fabricRelease_writes {addr count : Nat} {bs : Map Byte} (payload : h.payload = .release addr bs count) :
    exec (.fabricReleasePerform src seq) s =
      .next ((((s.freed h).writeOutside bs).map fun u => u.answer src seq []).getD s) := by
  refine congrArg Host.Outcome.next ?_
  simp only [held, payload]
  exact if_neg fun missing => missing arrived

theorem fabricRelease_updates {addr : Nat} {op : MemOp} {a b : BitVec 64} {count : Option Nat} (payload : h.payload = .atomic addr op a b count) :
    exec (.fabricReleasePerform src seq) s =
      .next ((((s.freed h).atomicOutside addr 4 op a.toNat b.toNat).map fun r => r.2.answer src seq r.1).getD s) := by
  refine congrArg Host.Outcome.next ?_
  simp only [held, payload]
  exact if_neg fun missing => missing arrived

end

/-! ## The retry store (R365) -/

/-- The copy taken out of the retry store. -/
def State.taken (s : State) (seq : Nat) : State := { s with fabric := { s.fabric with retry := Map.del s.fabric.retry seq } }

section
variable {s : State} {seq : Nat}

/-- Without its copy an answer, or the time for one, does nothing. -/
theorem retry_absent (gone : Map.get? s.fabric.retry seq = none) :
    exec (.endToEndAck seq) s = .next s ∧ exec (.negativeAck seq) s = .next s ∧ exec (.resendTimeout seq) s = .next s := by
  refine ⟨congrArg Host.Outcome.next ?_, congrArg Host.Outcome.next ?_, congrArg Host.Outcome.next ?_⟩
  · simp only [gone]
  · simp only [State.resend, gone]
  · simp only [gone]

variable {r : Retry} (copy : Map.get? s.fabric.retry seq = some r)
include copy

theorem ack_push {p : CollPacket} (payload : r.payload = .push p) (alone : r.op = none) :
    exec (.endToEndAck seq) s = .next ((s.taken seq).pushFreed p.tree p.chunk) := by
  refine congrArg Host.Outcome.next ?_
  simp only [copy, payload, alone]
  rfl

/-- An acknowledged request, and the send that it belongs to, where it is one's (R365, R367). -/
theorem ack_request (other : ∀ p, r.payload ≠ .push p) : exec (.endToEndAck seq) s =
    .next (match r.op with
      | some id => (s.taken seq).closeSend id
      | none => s.taken seq) := by
  refine congrArg Host.Outcome.next ?_
  simp only [copy] -- by `other`, the payload is no push
  rfl

theorem resendTimeout_eq : exec (.resendTimeout seq) s =
    if s.cycle < r.since + 180000 then .next s else exec (.negativeAck seq) s := by
  refine Eq.trans (congrArg Host.Outcome.next ?_) (apply_ite Host.Outcome.next (s.cycle < r.since + 180000) s (s.resend seq))
  simp only [copy]
  rfl

theorem negativeAck_fails (spent : 8 ≤ r.resends) : exec (.negativeAck seq) s = .next (s.failRequest seq r) := by
  refine congrArg Host.Outcome.next ?_
  rw [State.resend, copy]
  exact if_pos spent

/-- The copy as it is sent again (R362, R365). -/
def State.resentCopy (s : State) (r : Retry) : Retry :=
  { r with resends := r.resends + 1, since := s.cycle, alt := s.fabric.freest r.target s.free }

/-- The fabric with that copy in the retry store. -/
def State.resent (s : State) (seq : Nat) (r : Retry) : Fabric :=
  { s.fabric with retry := Map.set s.fabric.retry seq (s.resentCopy r) }

theorem negativeAck_resends (more : r.resends < 8) (other : ∀ p, r.payload ≠ .push p) : exec (.negativeAck seq) s =
    .next { s with
      free := s.free + 1
      fabric := if ((s.resent seq r).alternatives r.target).isEmpty then s.resent seq r
        else (s.resent seq r).countResend (routeAlt (Map.getD s.fabric.routes r.target 0).toNat (s.fabric.freest r.target s.free)) } := by
  refine congrArg Host.Outcome.next ?_
  simp only [State.resend, copy] -- by `other`, the payload is no push
  rw [if_neg (Nat.not_le.2 more)]
  rfl

end

theorem State.failRequest_push {s : State} {seq : Nat} {r : Retry} {p : CollPacket} (payload : r.payload = .push p) :
    s.failRequest seq r = (s.taken seq).askAbort p.job := by
  rw [State.failRequest, payload]
  rfl

theorem Fabric.countResend_retry (f : Fabric) (port : Nat) : (f.countResend port).retry = f.retry := rfl

/-! ## The obligation -/

/-- Settles O49: a request by whether it is repeated, outside, without room, or performed (`State.request`); a held release by whether its
stream has come; a copy by whether it is there, and by how often it has been sent. -/
theorem remoteRequests : Obligations.RemoteRequests := by
  refine ⟨?requests, fun s src seq h => fabricRelease_waits, fun s src seq => fabricRelease_absent,
    fun s src seq h held arrived => ⟨?release, ?atomic⟩, fun s seq => retry_absent,
    fun s seq r copy => ⟨fun p => ack_push copy, fun other => ?acknowledged⟩, fun s seq r => resendTimeout_eq,
    fun s seq r copy spent => ⟨negativeAck_fails copy spent, fun p payload => ?aborts⟩, fun s seq r copy more other => ?resends⟩
  case requests =>
    refine ⟨fun s src seq addr size fresh inside => request_performs (exec_remoteLoadRequest ..) fresh inside rfl,
      fun s src seq addr bytes count fresh inside =>
        ⟨fun u room => remoteWrite_performs fresh inside room, remoteWrite_waits fresh inside, remoteWrite_holds fresh inside⟩,
      fun s src => ⟨rfl, s.streamArrivals_succ src⟩,
      fun s src seq addr op a b fresh inside =>
        ⟨fun r room => request_performs (exec_remoteAtomicRequest ..) fresh inside (Option.map_eq_some_iff.2 ⟨r, room, rfl⟩),
          fun full => request_waits (exec_remoteAtomicRequest ..) fresh inside (Option.map_eq_none_iff.2 full),
          fun count => request_performs (exec_remoteAtomicRequest ..) fresh inside rfl⟩,
      fun s src seq page size op lanes fresh inside =>
        ⟨fun r room => request_performs (exec_vectorRequest ..) fresh inside (Option.map_eq_some_iff.2 ⟨r, room, rfl⟩),
          fun full => request_waits (exec_vectorRequest ..) fresh inside (Option.map_eq_none_iff.2 full)⟩,
      fun s src seq seen =>
        ⟨fun _ _ => request_repeated (exec_remoteLoadRequest ..) seen, fun _ _ _ => request_repeated (exec_remoteWriteRequest ..) seen,
          fun _ _ _ _ _ => request_repeated (exec_remoteAtomicRequest ..) seen,
          fun _ _ _ _ => request_repeated (exec_vectorRequest ..) seen⟩,
      fun s src seq fresh =>
        ⟨fun _ _ => request_outside (exec_remoteLoadRequest ..) fresh, fun _ _ _ => request_outside (exec_remoteWriteRequest ..) fresh,
          fun _ _ _ _ _ => request_outside (exec_remoteAtomicRequest ..) fresh,
          fun _ _ _ _ => request_outside (exec_vectorRequest ..) fresh⟩⟩
  case release =>
    intro addr bs count payload
    rw [fabricRelease_writes held arrived payload]
    exact ⟨fun u room => congrArg (fun o => Host.Outcome.next ((Option.map _ o).getD s)) room,
      fun full => congrArg (fun o => Host.Outcome.next ((Option.map _ o).getD s)) full⟩
  case atomic =>
    intro addr op a b count payload
    rw [fabricRelease_updates held arrived payload]
    exact ⟨fun r room => congrArg (fun o => Host.Outcome.next ((Option.map _ o).getD s)) room,
      fun full => congrArg (fun o => Host.Outcome.next ((Option.map _ o).getD s)) full⟩
  case acknowledged =>
    rw [ack_request copy other]
    exact ⟨fun alone => by rw [alone]; rfl, fun id sent => by rw [sent]; rfl⟩
  case aborts => rw [negativeAck_fails copy spent, State.failRequest_push payload]; rfl
  case resends =>
    refine ⟨_, negativeAck_resends copy more other, rfl, rfl, ?_⟩
    have kept : (if ((s.resent seq r).alternatives r.target).isEmpty then s.resent seq r
        else (s.resent seq r).countResend (routeAlt (Map.getD s.fabric.routes r.target 0).toNat (s.fabric.freest r.target s.free))).retry =
        Map.set s.fabric.retry seq (s.resentCopy r) := ite_keeps rfl (Fabric.countResend_retry ..)
    exact (congrArg (fun m => Map.get? m seq) kept).trans (Map.get?_set_same ..)

end Sys2Proof.Machine
end

section
/-! PROOFS. What tile reductions, adjoints and set reductions do when they perform, and why each completes where its memory is in reach
(R223, R275 to R285). -/
namespace Sys2Proof.Machine

/-! ## Witness elements (R223) -/

/-- A witness element is one or two bytes, or part of one byte (R223). -/
theorem Obj.witBits_cases (o : Obj) : Obj.witBits o = 8 ∨ Obj.witBits o = 16 ∨ Obj.witBits o = 2 ∨ Obj.witBits o = 1 := by
  unfold Obj.witBits
  rcases Obj.witForm o with _ | _ | _ | _ | n <;> simp

section
variable {op : Op} {s : State} {wit : Obj} {n e : Nat}

theorem Op.readWitness_completes (h : op.Witnesses s wit n) (he : e < n) : (op.readWitness wit e).Completes s := by
  obtain ⟨-, read⟩ := h e he
  exact .bind (op.readElemBytes_completes e read) fun _ => .pure _

theorem Op.writeWitness_completes (v : Nat) (h : op.Witnesses s wit n) (he : e < n) : (op.writeWitness wit e v).Completes s := by
  obtain ⟨write, read⟩ := h e he
  refine .ite (fun small => ?_) fun whole => op.writeBytes_completes ?_
  · have one : (Obj.witBits wit + 7) / 8 = 1 := by
      rcases Obj.witBits_cases wit with h | h | h | h <;> omega
    rw [one] at read write
    exact .bind (op.readBytes_completes read) fun _ => op.writeBytes_completes write
  · have bytes : Obj.witBits wit / 8 = (Obj.witBits wit + 7) / 8 := by
      rcases Obj.witBits_cases wit with h | h | h | h <;> omega
    rw [toBytes_length, bytes]
    exact write

end

/-! ## Tile reductions (R275 to R277) -/

section
variable {op : Op} {s : State} {r : RedOp} {wit res src : Obj}

theorem Op.reduce_completes (read : op.ServedTile s .read src (Obj.rows src) (Obj.cols src))
    (write : op.Stores s res (Obj.rows res * Obj.cols res)) (witness : op.Witnesses s wit (Obj.rows res * Obj.cols res)) :
    (op.reduce r wit res src).Completes s := by
  unfold Op.reduce
  split
  · exact .pure ()
  · next d lo hi _ =>
    refine (Work.Yields.mapM (xs := List.range (Obj.rows res * Obj.cols res)) fun e _ => Work.Completes.yields ?_).bind
      fun outs ⟨length, _⟩ => .bind (.forM fun x hx => ?_) fun _ => .change fun v => v.energy_resolution _ _ _ _
    · exact .bind (.mapM fun k _ => op.readCell_completes _ _ read) fun _ => .pure _
    · have inside : x.2 < Obj.rows res * Obj.cols res := by
        simpa [length] using List.snd_lt_of_mem_zipIdx hx
      exact .bind (op.writeElem_completes _ write inside) fun _ => op.writeWitness_completes _ witness inside

/-- An event that performs a tile reduction does so at one of its kinds. -/
theorem reductionPerforms {ev : Nat → Instr} {kinds : List RedOp} (hx : ∀ id s, exec (ev id) s = .next (s.performReduction id kinds))
    (hr : r ∈ kinds) : PerformsAs ev (fun op => redOpOf op.instr = some r ∧ op.objs = [wit, res, src])
      (fun s op => op.ServedTile s .read src (Obj.rows src) (Obj.cols src) ∧ op.Stores s res (Obj.rows res * Obj.cols res) ∧
        op.Witnesses s wit (Obj.rows res * Obj.cols res)) fun id op => (do
          op.reduce r wit res src
          modify fun s => (s.dropOp id).finishOpEntries id) := by
  refine performsAs_of_op hx (fun id s op ⟨hi, ho⟩ => ?_) fun id s op _ ⟨read, write, witness⟩ =>
    .bind (op.reduce_completes read write witness) fun _ => .change fun v => by simp
  simp only [hi, ho]
  exact if_pos (List.contains_iff_mem.2 hr)

end

/-! ## Adjoints (R281 to R283) -/

/-- The bits of a mask lie below its width. -/
theorem lt_of_maskBit {w j n : Nat} (narrow : w / 2 ^ n = 0) (bit : w / 2 ^ j % 2 = 1) : j < n := by
  by_contra above
  have low : w < 2 ^ n := (Nat.div_eq_zero_iff.1 narrow).resolve_left (by positivity)
  have zero : w / 2 ^ j = 0 := Nat.div_eq_of_lt (low.trans_le (Nat.pow_le_pow_right (by decide) (Nat.le_of_not_lt above)))
  rw [zero] at bit
  cases bit

/-- Each route goes to one of the element's contributors (R282). -/
theorem adjbRoutes_lt {form : Nat} {d : Window} {count g w : Nat} {x : Nat × Nat} (h : x ∈ adjbRoutes form d count g w) :
    x.1 < max 1 count := by
  unfold adjbRoutes at h
  split at h
  · split at h
    · rw [List.mem_singleton.1 h]
      exact Nat.lt_of_lt_of_le Nat.one_pos (Nat.le_max_left ..)
    · cases h
  · split at h
    · obtain ⟨k, hk, rfl⟩ := List.mem_map.1 h
      exact Nat.lt_of_lt_of_le (List.mem_range.1 hk) (Nat.le_max_right ..)
    · cases h
  · split at h
    · split at h
      · cases h
      · next narrow =>
        dsimp only at h
        split at h
        · cases h
        · obtain ⟨j, hj, rfl⟩ := List.mem_map.1 h
          have bit := (List.mem_filter.1 hj).2
          exact Nat.lt_of_lt_of_le (lt_of_maskBit (by simpa using narrow) (beq_iff_eq.1 bit)) (Nat.le_max_right ..)
    · split at h
      · next inside =>
        rw [List.mem_singleton.1 h]
        exact Nat.lt_of_lt_of_le inside (Nat.le_max_right ..)
      · cases h

section
variable {op : Op} {s : State} {d : Window} {wit grad input : Obj} {bnd : List Obj}

/-- An element that an operation adds into is in reach, to be read and to be written. -/
def Op.Updates (op : Op) (s : State) (o : Obj) (n : Nat) : Prop :=
  ∀ kind ∈ ([.read, .write] : List AccKind), op.Served s kind o (Obj.elemBit o false n / 8) ((Obj.bits o + 7) / 8)

theorem Op.addInto_completes {o : Obj} {r c : Nat} (q : Nat) (h : op.Updates s o (r * Obj.cols o + c)) :
    (op.addInto o r c q).Completes s :=
  have read := h .read (by simp)
  .bind (op.readElemAt_completes _ read) fun _ => op.writeElemAt_completes _ (h .write (by simp)) fun _ => read

theorem Op.route_completes {e : Nat} (readG : op.ServedWhole s .read grad false (Obj.witRows wit * Obj.witCols wit))
    (witness : op.Witnesses s wit (Obj.witRows wit * Obj.witCols wit)) (he : e < Obj.witRows wit * Obj.witCols wit)
    (adds : ∀ k < max 1 (d.count (Obj.rows input) (Obj.cols input)),
      op.Updates s input ((d.contributor (e / Obj.witCols wit) (e % Obj.witCols wit) k).1 * Obj.cols input +
        (d.contributor (e / Obj.witCols wit) (e % Obj.witCols wit) k).2))
    (bounds : ∀ o ∈ bnd, op.Updates s o 0 ∧ op.Updates s o 1) : (op.route d wit grad input bnd e).Completes s := by
  refine .bind (op.readElem_completes readG he) fun g => .bind (op.readWitness_completes witness he) fun w =>
    .bind (.forM fun x hx => op.addInto_completes _ (adds x.1 (adjbRoutes_lt hx))) fun _ =>
    .ite (fun _ => .forM fun o ho => op.addInto_completes _ ?_) fun _ => .pure _
  obtain ⟨low, high⟩ := bounds o ho
  split
  · simpa using low
  · simpa using high

end

/-! ## The obligation -/

/-- Settles O40: each event does its work at an operation of its word, and the work completes because every element that it reads or
writes is one of those in reach; for an adjoint, because its routes go to the contributors of each result (`adjbRoutes_lt`). -/
theorem reductionsPerform : Obligations.ReductionsPerform := by
  refine ⟨fun r wit res src => reductionPerforms fun _ _ => rfl, fun r wit res src => reductionPerforms fun _ _ => rfl,
    fun f wit grad input bnd d => ?adjb, fun s id op r f due signed reduction fields => ?set, waits_of_withOp fun _ _ => rfl,
    waits_of_withOp fun _ _ => rfl, waits_of_withOp fun _ _ => rfl, waits_of_withSet fun _ _ => rfl⟩
  case adjb =>
    refine performsAs_of_op (fun _ _ => rfl) (fun id s op ⟨hi, ho, named⟩ => ?_) fun id s op _ ⟨readG, witness, adds, bounds⟩ =>
      .bind (.forM fun e he => ?_) fun _ => .change fun v => by simp
    · simp only [hi, ho, named]
    · have inside := List.mem_range.1 he
      exact op.route_completes readG witness inside (adds e inside) bounds
  case set =>
    rw [exec_set_due rfl due signed]
    simp only [reduction, fields]

end Sys2Proof.Machine
end

section
/-! PROOFS. Requests of the host (R304, R376, R377) and the events of a port (R365, R417, R418, R421). -/
namespace Sys2Proof.Machine

/-! ## Requests of the host -/

section
variable {s : State} {e addr size : Nat} {op : MemOp} {a b : BitVec 64} (hs : size = 4 ∨ size = 8)
  (ho : op = .add ∨ op = .exch ∨ op = .cas) (he : e < 2)
include hs ho he

/-- An AtomicOp of one of the two sizes and three operations, from one of the two endpoints, is performed (R377). -/
theorem hostAtomic_valid : ¬ ((size ≠ 4 ∧ size ≠ 8) ∨ (op ≠ .add ∧ op ≠ .exch ∧ op ≠ .cas) ∨ e ≥ 2) := by
  rintro (⟨h4, h8⟩ | ⟨hadd, hexch, hcas⟩ | h)
  · exact hs.elim h4 h8
  · exact ho.elim hadd fun h => h.elim hexch hcas
  · omega

theorem exec_hostAtomic_some {v : Nat}
    (hv : atomNew op (8 * size) (ofBytes ((s.hostReads addr size).hostBytes addr size).1) (a.toNat % 2 ^ (8 * size))
      (b.toNat % 2 ^ (8 * size)) = some v) :
    let r := (s.hostReads addr size).hostBytes addr size
    let w := r.2.hostAnswer e r.1
    exec (.hostAtomic e addr size op a b) s = .next (
      if addr < 2 ^ 26 then w.mmioStore 0 (bytesAt addr (toBytes size v))
      else (w.hostBlocks addr (toBytes size v)).foldl State.postOutside w) := by
  simp only [exec, execHostAtomic, if_neg (hostAtomic_valid hs ho he), hv]

theorem exec_hostAtomic_none
    (hv : atomNew op (8 * size) (ofBytes ((s.hostReads addr size).hostBytes addr size).1) (a.toNat % 2 ^ (8 * size))
      (b.toNat % 2 ^ (8 * size)) = none) :
    let r := (s.hostReads addr size).hostBytes addr size
    exec (.hostAtomic e addr size op a b) s = .next (r.2.hostAnswer e r.1) := by
  simp only [exec, execHostAtomic, if_neg (hostAtomic_valid hs ho he), hv]

end

/-- Settles O50: case by case of the endpoint, the window that the address lies in, and the value that the AtomicOp writes. -/
theorem hostRequests : Obligations.HostRequests := by
  refine ⟨?_, ?_, ?_, fun _ _ _ _ => rfl, ?_, ?_, ?_⟩
  · intro s e addr bytes he ha
    exact congrArg Host.Outcome.next ((if_neg (by omega)).trans (if_pos ha))
  · intro s e addr bytes he ha
    exact congrArg Host.Outcome.next ((if_neg (by omega)).trans (if_neg (by omega)))
  · intro s e addr bytes he
    exact congrArg Host.Outcome.next (if_pos he)
  · intro s e addr size op a b v hs ho he r w hv
    have h := exec_hostAtomic_some hs ho he hv
    exact ⟨fun ha => h.trans (congrArg Host.Outcome.next (if_pos ha)),
      fun ha => h.trans (congrArg Host.Outcome.next (if_neg (Nat.not_lt.2 ha)))⟩
  · intro s e addr size op a b hs ho he r hv
    exact exec_hostAtomic_none hs ho he hv
  · intro s e addr size op a b h
    exact congrArg Host.Outcome.next (if_pos h)

/-! ## The events of a port -/

theorem Fabric.link_setLink_same (f : Fabric) (p : Nat) (l : Link) : (f.setLink p l).link p = l := Map.getD_set_same ..

theorem Fabric.link_setLink_ne (f : Fabric) {p q : Nat} (l : Link) (h : q ≠ p) : (f.setLink p l).link q = f.link q := Map.getD_set_ne _ l {} h

section
variable {s : State} {port lane : Nat}

theorem exec_linkRetrain_idle (h : 24 ≤ port ∨ 5 ≤ lane ∨ (s.fabric.link port).dead = true ∨ (s.fabric.link port).disable = true) :
    exec (.linkRetrain port lane) s = .next s :=
  congrArg Host.Outcome.next (if_pos h)

theorem exec_linkTrained_idle {spared : Bool}
    (h : 24 ≤ port ∨ (s.fabric.link port).dead = true ∨ (s.fabric.link port).disable = true) :
    exec (.linkTrained port spared) s = .next s :=
  congrArg Host.Outcome.next (if_pos h)

variable (hp : port < 24) (alive : (s.fabric.link port).dead = false) (enabled : (s.fabric.link port).disable = false)
include hp alive enabled

/-- A port that trains or retrains is one of the 24, alive and enabled. -/
theorem port_trains : ¬ (port ≥ 24 ∨ (s.fabric.link port).dead = true ∨ (s.fabric.link port).disable = true) := by
  simp [alive, enabled, hp]

theorem exec_linkRetrain_spares (hl : lane < 5) : exec (.linkRetrain port lane) s = .next (
    let l := s.fabric.link port
    if l.spared then
      State.resendAll { s with fabric := s.fabric.setLink port { l with dead := true, up := false, retraining := false, lanes := 0 } }
        (s.fabric.inFlightOn port)
    else State.resendAll { s with fabric := s.fabric.setLink port { l with
      up := false, retraining := true, spared := true
      lanes := (l.inUse ||| 0b10000#5) &&& ~~~(BitVec.ofNat 5 (2 ^ lane)) } } (s.fabric.inFlightOn port)) :=
  congrArg Host.Outcome.next (if_neg (by simp [alive, enabled, hp, hl]))

theorem exec_linkTrained_up (spared : Bool) : ∃ u l, exec (.linkTrained port spared) s = .next u ∧
    u = { s with fabric := s.fabric.setLink port l } ∧ l.up = true ∧ l.retraining = false ∧
    l.crcerr = (s.fabric.link port).crcerr :=
  ⟨_, _, congrArg Host.Outcome.next (if_neg (port_trains hp alive enabled)), rfl, rfl, rfl, rfl⟩

end

theorem exec_flitCrcFailure {s : State} {port : Nat} (hp : port < 24) : exec (.flitCrcFailure port) s = .next
    { s with fabric := s.fabric.setLink port { s.fabric.link port with
        crcerr := (s.fabric.link port).crcerr + 1, replays := (s.fabric.link port).replays + 1 } } :=
  congrArg Host.Outcome.next (if_neg (by omega))

/-- Settles O51: each event by whether its port is one of the 24, alive and enabled, and whether a lane is spared already. -/
theorem linkEvents : Obligations.LinkEvents := by
  refine ⟨fun s port lane => exec_linkRetrain_idle, ?_, ?_, fun s port spared => exec_linkTrained_idle, fun _ _ => rfl, ?_, ?_, ?_, ?_⟩
  · intro s port lane hp hl alive enabled
    have h := exec_linkRetrain_spares hp alive enabled hl
    exact ⟨fun spared => h.trans (congrArg Host.Outcome.next (if_pos spared)),
      fun spared => h.trans (congrArg Host.Outcome.next (if_neg (by simp [spared])))⟩
  · intro s port spared hp alive enabled
    exact exec_linkTrained_up hp alive enabled spared
  · intro s port hp
    exact congrArg Host.Outcome.next ((if_neg (by omega)).trans (if_pos rfl))
  · intro s port hp
    exact congrArg Host.Outcome.next ((if_neg (by omega)).trans (if_neg Bool.false_ne_true))
  · intro s port d hp
    exact ⟨congrArg Host.Outcome.next (if_pos hp), congrArg Host.Outcome.next (if_pos hp)⟩
  · intro s port hp
    refine ⟨_, exec_flitCrcFailure hp, rfl, ?_, ?_, fun p h => Fabric.link_setLink_ne _ _ h⟩ <;> rw [Fabric.link_setLink_same]

end Sys2Proof.Machine
end

section
/-! PROOFS. What writes no byte of memory (R311): for each operation of the model that has no write of memory on any path, that memory
is after it what it was before. -/
namespace Sys2Proof.Machine

@[simp] theorem State.mem_ite {c : Prop} [Decidable c] (a b : State) : (if c then a else b).mem = if c then a.mem else b.mem :=
  apply_ite ..

@[simp] theorem foldl_mem {α : Type} {f : State → α → State} (h : ∀ s x, (f s x).mem = s.mem) (l : List α) (s : State) :
    (l.foldl f s).mem = s.mem := by
  induction l generalizing s with
  | nil => rfl
  | cons x xs ih => exact (ih _).trans (h s x)

/-- The same for a fold that gathers something beside the state. -/
theorem foldl_snd_mem {α β : Type} {f : β × State → α → β × State} (h : ∀ r x, (f r x).2.mem = r.2.mem) (l : List α) (r : β × State) :
    (l.foldl f r).2.mem = r.2.mem := by
  induction l generalizing r with
  | nil => rfl
  | cons x xs ih => exact (ih _).trans (h r x)

/-- The state of an answer that a match has taken apart. -/
theorem mem_of_eq {β : Type} {p : β × State} {b : β} {u : State} (h : p = (b, u)) : u.mem = p.2.mem := by rw [h]

/-- An answer taken apart, its memory known. -/
theorem answers {β : Type} {p : β × State} {m : List Host.Cell} (h : p.2.mem = m) : ∃ b u, p = (b, u) ∧ u.mem = m := ⟨_, _, rfl, h⟩

/-- A function under another name: the kernel, which would evaluate the function's comparisons with large addresses, leaves the name as it
is. -/
theorem exists_copy {α : Sort*} (a : α) : ∃ b, a = b := ⟨a, rfl⟩

/-! ### Filing, threads and traps -/

@[simp] theorem State.unfile_mem (s : State) (tid : Nat) : (s.unfile tid).mem = s.mem := by
  unfold State.unfile
  (repeat' split) <;> simp

@[simp] theorem State.file_mem (s : State) (tid pc : Nat) (key : BitVec 16) (wait : Wake) : (s.file tid pc key wait).mem = s.mem := by
  unfold State.file
  dsimp only
  (repeat' split) <;> simp

@[simp] theorem State.fileAt_mem (s : State) (tid at' resume : Nat) (key : BitVec 16) (wait : Wake) :
    (s.fileAt tid at' resume key wait).mem = s.mem := by simp [State.fileAt]

@[simp] theorem State.fileNext_mem (s : State) (tid : Nat) : (s.fileNext tid).mem = s.mem := by
  unfold State.fileNext
  (repeat' split) <;> simp

@[simp] theorem State.fileResumed_mem (s : State) : (s.fileResumed).mem = s.mem := by simp [State.fileResumed]

@[simp] theorem State.takeTrap_mem (s : State) (ctx tile part : Nat) (members : List (Nat × Nat)) (r : Raised) (rpc : Nat → Nat) :
    (s.takeTrap ctx tile part members r rpc).mem = s.mem := by
  unfold State.takeTrap
  split <;> simp

/-! ### The privileged window -/

@[simp] theorem State.moveClock_mem (s : State) (new : ℤ) : (s.moveClock new).mem = s.mem := by simp [State.moveClock]

@[simp] theorem State.mmioSetWord_mem (s : State) (off v : Nat) : (s.mmioSetWord off v).mem = s.mem := by simp [State.mmioSetWord]

@[simp] theorem State.mmioPut_mem (s : State) (w v : Nat) : (s.mmioPut w v).mem = s.mem := by simp [State.mmioPut]

@[simp] theorem State.mmioWrite_mem (s : State) (off n v : Nat) : (s.mmioWrite off n v).mem = s.mem := by simp [State.mmioWrite]

@[simp] theorem State.mmioRead_mem (s : State) (off n : Nat) : (s.mmioRead off n).2.mem = s.mem := by simp [State.mmioRead]

/-! ### Translation, race tags, refresh and requests to other packages -/

@[simp] theorem State.tableWord_mem (s : State) (pa : Nat) : (s.tableWord pa).2.mem = s.mem := by
  unfold State.tableWord
  split <;> simp

@[simp] theorem State.walkRead_mem (s : State) (die ctx level pa : Nat) : (s.walkRead die ctx level pa).2.mem = s.mem := by
  unfold State.walkRead
  split <;> simp

@[simp] theorem State.keepWalk_mem (s : State) (die : Nat) (es : List WalkEntry) : (s.keepWalk die es).mem = s.mem := by
  simp [State.keepWalk]

@[simp] theorem State.walk_mem (s : State) (die ctx va : Nat) (kind : AccKind) (x x1 x2 : Nat) :
    (s.walk die ctx va kind x x1 x2).2.mem = s.mem := by
  induction x generalizing s x1 x2 with
  | zero => rfl
  | succ fuel ih =>
    obtain ⟨e, u, read, kept⟩ := answers (s.walkRead_mem die ctx x1 (x2 + 8 * (va / 2 ^ levelShift x1 % levelEntries x1)))
    have deeper := ih u (x1 + 1) (e / 2 ^ 12 % 2 ^ 40 * 2 ^ 12)
    simp only [State.walk, read]
    split
    · split <;> exact kept
    · split
      · exact kept
      · split
        · split <;> exact kept
        · split
          · next h => exact (mem_of_eq h).trans (deeper.trans kept)
          · exact deeper.trans kept

@[simp] theorem State.translateAs_mem (s : State) (priv : Bool) (tile ctx va : Nat) (kind : AccKind) :
    (s.translateAs priv tile ctx va kind).2.mem = s.mem := by
  unfold State.translateAs
  dsimp only
  split
  · rfl
  · split
    · rfl
    · have walked := s.walk_mem (dieOf tile) ctx va kind 4 0 (((s.ctx? ctx).map fun c => c.ptbase.toNat).getD 0 / 2 ^ 16 % 2 ^ 36 * 2 ^ 16)
      split
      · next h => exact (mem_of_eq h).trans walked
      · next h =>
        split
        · exact (State.setTile_mem ..).trans ((State.keepWalk_mem ..).trans ((mem_of_eq h).trans walked))
        · exact (mem_of_eq h).trans walked

@[simp] theorem State.translate_mem (s : State) (tile ctx va : Nat) (kind : AccKind) :
    (s.translate tile ctx va kind).2.mem = s.mem := by simp [State.translate]

@[simp] theorem State.reach_mem (s : State) (t : Thread) (off size : Nat) (kind : AccKind) :
    (s.reach t off size kind).2.mem = s.mem := by
  obtain ⟨x, u, found, kept⟩ := answers (s.translate_mem t.tile t.ctx (t.vaOf off) kind)
  simp only [State.reach, found]
  split
  · rfl
  · split
    · split
      · split <;> rfl
      · rfl
    · cases x with
      | ok pa nrd =>
        dsimp only
        split <;> exact kept
      | pgfault f => exact kept
      | pgfatal => exact kept

@[simp] theorem State.tagFor_mem (s : State) (ctx pa : Nat) : (s.tagFor ctx pa).2.mem = s.mem := by
  unfold State.tagFor
  dsimp only
  (repeat' split) <;> simp

@[simp] theorem State.putTag_mem (s : State) (pa : Nat) (tag : Tag) : (s.putTag pa tag).mem = s.mem := by simp [State.putTag]

@[simp] theorem State.resetTags_mem (s : State) (pa n : Nat) : (s.resetTags pa n).mem = s.mem := by simp [State.resetTags]

@[simp] theorem State.raceCheck_mem (s : State) (t : Thread) (pa size : Nat) (nrd asWrite atomic : Bool) :
    (s.raceCheck t pa size nrd asWrite atomic).2.mem = s.mem := by
  unfold State.raceCheck
  dsimp only
  (repeat' split) <;> simp

@[simp] theorem State.charge_mem (s : State) (tid field n : Nat) : (s.charge tid field n).mem = s.mem := by simp [State.charge]

@[simp] theorem State.duePoint_mem (s : State) (pch tid : Nat) : (s.duePoint pch tid).mem = s.mem := by simp [State.duePoint]

@[simp] theorem State.chargeHeld_mem (s : State) (tid pa : Nat) : (s.chargeHeld tid pa).mem = s.mem := by
  unfold State.chargeHeld
  split <;> simp

@[simp] theorem State.chargeAccess_mem (s : State) (tid pa : Nat) : (s.chargeAccess tid pa).mem = s.mem := by
  simp [State.chargeAccess]

@[simp] theorem State.acceptRead_mem (s : State) (tid pa : Nat) : (s.acceptRead tid pa).mem = s.mem := by simp [State.acceptRead]

@[simp] theorem State.acceptReads_mem (s : State) (tid pa n : Nat) : (s.acceptReads tid pa n).mem = s.mem := by
  simp [State.acceptReads]

@[simp] theorem State.wakeGranules_mem (s : State) (pa n : Nat) : (s.wakeGranules pa n).mem = s.mem := by simp [State.wakeGranules]

@[simp] theorem State.mmioStore_mem (s : State) (base : Nat) (bs : Map Byte) : (s.mmioStore base bs).mem = s.mem := by
  simp [State.mmioStore]

@[simp] theorem State.send_mem (s : State) (r : Retry) : (s.send r).mem = s.mem := by simp [State.send]

@[simp] theorem State.sendLane_mem (s : State) (no pa : Nat) (r : Retry) : (s.sendLane no pa r).mem = s.mem := by
  unfold State.sendLane
  (repeat' split) <;> simp

@[simp] theorem State.sendStore_mem (s : State) (no tid p pa : Nat) (bs : Map Byte) : (s.sendStore no tid p pa bs).mem = s.mem := by
  simp [State.sendStore]

@[simp] theorem State.fatalThread_mem (s : State) (tid : Nat) : (s.fatalThread tid).mem = s.mem := by
  unfold State.fatalThread
  split <;> simp

@[simp] theorem State.noteStale_mem (s : State) (tid : Nat) (bs : Map Byte) : (s.noteStale tid bs).mem = s.mem := by
  simp [State.noteStale]

/-! ### Instructions that compute -/

@[simp] theorem State.settleAll_mem (s : State) (iss : Issue) (i : Instr) (dst : Dest) (vs : Verdicts) :
    (s.settleAll iss i dst vs).mem = s.mem := by simp [State.settleAll]

@[simp] theorem State.compute_mem (s : State) (i : Instr) (f : Lane → LaneOut) : (s.compute i f).mem = s.mem := by
  unfold State.compute
  split <;> simp

/-! ### Energy, entries, debug blocks and the checks of an access -/

@[simp] theorem State.energy_mem (s : State) (tile ctx n k : Nat) : (s.energy tile ctx n k).mem = s.mem := by simp [State.energy]

@[simp] theorem State.logError_mem (s : State) (tile src ctx unit obj elem : Nat) :
    (s.logError tile src ctx unit obj elem).mem = s.mem := by
  unfold State.logError
  dsimp only
  split <;> simp

@[simp] theorem State.haltUntrapped_mem (s : State) (t : Thread) : (s.haltUntrapped t).mem = s.mem := by simp [State.haltUntrapped]

@[simp] theorem State.eccStop_mem (s : State) (tid pa : Nat) : (s.eccStop tid pa).mem = s.mem := by
  unfold State.eccStop
  split <;> simp

@[simp] theorem State.addEntry_mem (s : State) (tid : Nat) (e : Entry) : (s.addEntry tid e).mem = s.mem := by simp [State.addEntry]

@[simp] theorem State.completeEntry_mem (s : State) (tid id : Nat) (words : List Word) :
    (s.completeEntry tid id words).mem = s.mem := by simp [State.completeEntry]

@[simp] theorem State.retireEntry_mem (s : State) (tid id : Nat) : (s.retireEntry tid id).mem = s.mem := by simp [State.retireEntry]

@[simp] theorem State.finishEntry_mem (s : State) (tid id : Nat) : (s.finishEntry tid id).mem = s.mem := by simp [State.finishEntry]

@[simp] theorem State.addFence_mem (s : State) (tid : Nat) (f : Fence) : (s.addFence tid f).mem = s.mem := by
  unfold State.addFence
  split <;> simp

@[simp] theorem State.carryFences_mem (s : State) (tid id : Nat) : (s.carryFences tid id).mem = s.mem := by simp [State.carryFences]

@[simp] theorem State.check_mem (s : State) (t : Thread) (x : Access) : (s.check t x).2.mem = s.mem := by
  obtain ⟨unreachable, hu⟩ := exists_copy State.unreachable
  obtain ⟨reach, hr⟩ := exists_copy State.reach
  have reached := hr ▸ State.reach_mem
  obtain ⟨check, hf⟩ := exists_copy State.check
  rw [hf]
  delta State.check at hf
  rw [hu, hr] at hf
  subst hf
  obtain ⟨r, u, h, kept⟩ := answers (reached s t x.off x.size x.kind)
  beta_reduce
  rw [h]
  cases r with
  | trap c info => exact kept
  | fault f => exact kept
  | ok pa nrd =>
    obtain ⟨raced, v, checked, same⟩ := answers ((u.raceCheck_mem t pa x.size nrd x.asWrite x.atomic).trans kept)
    dsimp only
    rw [checked]
    split
    · exact kept
    · split
      · exact kept
      · cases raced <;> exact same

@[simp] theorem State.countMmx_mem (s : State) (ctx : Nat) (vs : Verdicts) : (s.countMmx ctx vs).mem = s.mem := by
  simp [State.countMmx]

@[simp] theorem State.park_mem (s : State) (iss : Issue) (i : Instr) (dst : Dest) (lanes : BitVec 32) (no order : Nat) (p : Lane × FaultInfo) :
    (s.park iss i dst lanes no order p).mem = s.mem := by simp [State.park]

/-! ### Accesses as they leave -/

@[simp] theorem State.sweep_mem (s : State) (slot : Nat) : (s.sweep slot).mem = s.mem := by simp [State.sweep]

@[simp] theorem State.outsideBytes_mem (s : State) (n : Nat) : (s.outsideBytes n).2.mem = s.mem := by simp [State.outsideBytes]

@[simp] theorem State.readBeyond_mem (s : State) (t : Thread) (tid no pa n : Nat) : (s.readBeyond t tid no pa n).2.mem = s.mem := by
  unfold State.readBeyond
  split <;> simp

@[simp] theorem State.readAt_mem (s : State) (t : Thread) (tid no pa n : Nat) : (s.readAt t tid no pa n).2.mem = s.mem := by
  simp [State.readAt]

@[simp] theorem State.parkAt_mem (s : State) (tid pc : Nat) (w : Wake) : (s.parkAt tid pc w).mem = s.mem := by
  unfold State.parkAt
  split <;> simp

@[simp] theorem State.waitvAt_mem (s : State) (t : Thread) (tid : Nat) (e : Entry) (pa : Nat) :
    (s.waitvAt t tid e pa).mem = s.mem := by simp [State.waitvAt]

@[simp] theorem State.entryPa_mem (s : State) (t : Thread) (e : Entry) : (s.entryPa t e).2.mem = s.mem := by
  obtain ⟨reach, hr⟩ := exists_copy State.reach
  have reached := hr ▸ State.reach_mem
  unfold State.entryPa
  rw [hr]
  cases accessOf e.instr e.cap with
  | none => rfl
  | some x =>
    obtain ⟨r, u, h, kept⟩ := answers (reached s t x.off x.size x.kind)
    dsimp only
    rw [h]
    cases r <;> exact kept

@[simp] theorem State.loadAt_mem (s : State) (t : Thread) (tid : Nat) (e : Entry) (pa size : Nat) (sz : BitVec 3) :
    (s.loadAt t tid e pa size sz).mem = s.mem := by simp [State.loadAt]

@[simp] theorem State.flushHost_mem (s : State) (tid : Nat) (ps : List Nat) : (s.flushHost tid ps).mem = s.mem := by
  simp [State.flushHost]

@[simp] theorem State.recordCas_mem (s : State) (t : Thread) (region : Option Nat) (pa : Nat) :
    (s.recordCas t region pa).mem = s.mem := by
  unfold State.recordCas
  split <;> simp

@[simp] theorem State.trapAlone_mem (s : State) (tid slot : Nat) (cause : Cause) (info : Nat) (e : Entry) (rpc : Nat) :
    (s.trapAlone tid slot cause info e rpc).mem = s.mem := by
  unfold State.trapAlone
  split <;> simp

@[simp] theorem State.rewalkEntry_mem (s : State) (tid : Nat) (e : Entry) : (s.rewalkEntry tid e).mem = s.mem := by
  unfold State.rewalkEntry
  split
  · next t x _ _ =>
    have found := s.translate_mem t.tile t.ctx (t.vaOf x.off) x.kind
    split
    · next h => exact (State.modThread_mem ..).trans ((mem_of_eq h).trans found)
    · next h => exact (State.trapAlone_mem ..).trans ((mem_of_eq h).trans found)
    · next h => exact (State.modThread_mem ..).trans ((mem_of_eq h).trans found)
  · split <;> simp
  · rfl

@[simp] theorem State.trapParked_mem (s : State) (tid : Nat) (t : Thread) : (s.trapParked tid t).mem = s.mem := by
  simp [State.trapParked]

/-! ### Control words -/

@[simp] theorem State.applySteer_mem (s : State) (f : Lane → Thread → Steer) (l : Lane) : (s.applySteer f l).mem = s.mem := by
  unfold State.applySteer
  (repeat' split) <;> simp

/-! ### Objects and operations -/

@[simp] theorem State.dropOp_mem (s : State) (id : Nat) : (s.dropOp id).mem = s.mem := by simp [State.dropOp]

@[simp] theorem State.finishOpEntries_mem (s : State) (id : Nat) : (s.finishOpEntries id).mem = s.mem := by
  simp [State.finishOpEntries]

@[simp] theorem State.replyTo_mem (s : State) (id : Nat) (ws : List Word) : (s.replyTo id ws).mem = s.mem := by simp [State.replyTo]

@[simp] theorem State.endOp_mem (s : State) (id : Nat) (op : Op) : (s.endOp id op).mem = s.mem := by simp [State.endOp]

/-! ### Special registers and fault records -/

@[simp] theorem State.dieBytes_mem (s : State) (tid : Nat) (parts : List (Nat × Nat)) : (s.dieBytes tid parts).2.mem = s.mem := by
  refine foldl_snd_mem (fun r x => ?_) _ _
  dsimp only
  split <;> simp

@[simp] theorem State.dropCached_mem (s : State) (ctx : Nat) (index : Option Nat) : (s.dropCached ctx index).mem = s.mem := by
  simp [State.dropCached]

@[simp] theorem State.writeObjectTable_mem (s : State) (ctx : Nat) (count : Bool) (v : Nat) :
    (s.writeObjectTable ctx count v).mem = s.mem := by simp [State.writeObjectTable]

@[simp] theorem State.writeDumpctl_mem (s : State) (ctx v : Nat) : (s.writeDumpctl ctx v).mem = s.mem := by
  simp [State.writeDumpctl]

@[simp] theorem State.tlbinv_mem (s : State) (mode va ctx : Nat) : (s.tlbinv mode va ctx).mem = s.mem := by simp [State.tlbinv]

/-! ### Return from a trap -/

@[simp] theorem State.withdrawOp_mem (s : State) (id : Nat) : (s.withdrawOp id).mem = s.mem := by
  unfold State.withdrawOp
  (repeat' split) <;> simp

@[simp] theorem State.rqdrop_mem (s : State) (tid k : Nat) : (s.rqdrop tid k).mem = s.mem := by
  unfold State.rqdrop
  (repeat' split) <;> simp

@[simp] theorem State.afterHandler_mem (s : State) (t : Thread) (tid : Nat) : (s.afterHandler t tid).mem = s.mem := by
  simp [State.afterHandler]

@[simp] theorem State.releasePin_mem (s : State) (g : Nat) (p : PinSet) : (s.releasePin g p).mem = s.mem := by
  refine foldl_mem (fun s m => ?_) _ _
  split <;> simp

@[simp] theorem State.releaseGathered_mem (s : State) : (s.releaseGathered).mem = s.mem := by simp [State.releaseGathered]

@[simp] theorem State.reinjectTrap_mem (s : State) (batch : List (Reinject × Entry)) (r : Raised) (raisers : List Nat) :
    (s.reinjectTrap batch r raisers).mem = s.mem := by
  unfold State.reinjectTrap
  dsimp only
  (repeat' split)
  · exact foldl_mem (fun s x => by split <;> simp) _ _
  · exact foldl_mem (fun s x => by split <;> simp) _ _
  · exact (State.takeTrap_mem ..).trans (foldl_mem (fun s x => by split <;> simp) _ _)

/-! ### Fences and barriers -/

@[simp] theorem State.leaveAs_mem (s : State) (tid : Nat) (w : Leaving) : (s.leaveAs tid w).mem = s.mem := by simp [State.leaveAs]

@[simp] theorem State.holdAt_mem (s : State) (tid pc : Nat) (w : Wake) : (s.holdAt tid pc w).mem = s.mem := by simp [State.holdAt]

@[simp] theorem State.holdUpdate_mem (s : State) (cell : Nat) (e : Deferral) : (s.holdUpdate cell e).mem = s.mem := by
  simp [State.holdUpdate]

@[simp] theorem State.withSaved_mem (s : State) (cell : Nat) : (s.withSaved cell).mem = s.mem := by
  unfold State.withSaved
  split <;> simp

@[simp] theorem State.setCv_mem (s : State) (cell n : Nat) (v : Cv) : (s.setCv cell n v).mem = s.mem := by simp [State.setCv]

/-! ### Caster -/

@[simp] theorem State.claimAnvil_mem (s : State) (tile ctx : Nat) : (s.claimAnvil tile ctx).mem = s.mem := by
  unfold State.claimAnvil
  dsimp only
  split <;> simp

@[simp] theorem State.setWeightSlot_mem (s : State) (tile n : Nat) (w : WeightSlot) : (s.setWeightSlot tile n w).mem = s.mem := by
  simp [State.setWeightSlot]

@[simp] theorem State.mendSlot_mem (s : State) (tile n : Nat) : (s.mendSlot tile n).mem = s.mem := by simp [State.mendSlot]

@[simp] theorem State.stampSlot_mem (s : State) (t : Thread) (n code : Nat) : (s.stampSlot t n code).mem = s.mem := by
  simp [State.stampSlot]

/-! ### Anvil -/

@[simp] theorem State.noteProgress_mem (s : State) (id : Nat) (op : Op) (kb : Nat) : (s.noteProgress id op kb).mem = s.mem := by
  simp [State.noteProgress]

@[simp] theorem State.joinSet_mem (s : State) (tid id : Nat) (i : Instr) : (s.joinSet tid id i).mem = s.mem := by
  unfold State.joinSet
  (repeat' split) <;> simp

@[simp] theorem State.finishSet_mem (s : State) (op : Op) : (s.finishSet op).mem = s.mem := by simp [State.finishSet]

@[simp] theorem State.setAcc_mem (s : State) (tile m : Nat) (a : Map (BitVec 64)) : (s.setAcc tile m a).mem = s.mem := by
  simp [State.setAcc]

@[simp] theorem State.scrubAcc_mem (s : State) (tile ctx m : Nat) (reads : Nat → Bool) :
    (s.scrubAcc tile ctx m reads).mem = s.mem := by simp [State.scrubAcc]

@[simp] theorem State.mendAcc_mem (s : State) (tile m : Nat) : (s.mendAcc tile m).mem = s.mem := by simp [State.mendAcc]

@[simp] theorem State.logWeights_mem (s : State) (tile ctx n : Nat) : (s.logWeights tile ctx n).mem = s.mem := by
  simp [State.logWeights]

@[simp] theorem State.macEnergy_mem (s : State) (op : Op) (f : ConvFmt) (n : Nat) : (s.macEnergy op f n).mem = s.mem := by
  simp [State.macEnergy]

/-! ### Fabric -/

@[simp] theorem State.sendPiece_mem (s : State) (id : Nat) (op : Op) (p off : Nat) (bs : List Byte) :
    (s.sendPiece id op p off bs).mem = s.mem := by simp [State.sendPiece]

@[simp] theorem State.closeSend_mem (s : State) (id : Nat) : (s.closeSend id).mem = s.mem := by
  unfold State.closeSend
  split <;> simp

@[simp] theorem State.askAbort_mem (s : State) (job : Nat) : (s.askAbort job).mem = s.mem := by simp [State.askAbort]

@[simp] theorem State.sendOn_mem (s : State) (port : Nat) (p : CollPacket) : (s.sendOn port p).mem = s.mem := by simp [State.sendOn]

@[simp] theorem State.sendDown_mem (s : State) (p : CollPacket) : (s.sendDown p).mem = s.mem := by simp [State.sendDown]

@[simp] theorem State.pushFreed_mem (s : State) (tree chunk : Nat) : (s.pushFreed tree chunk).mem = s.mem := by
  simp [State.pushFreed]

@[simp] theorem State.contribute_mem (s : State) (e : BitVec 32) (rest : List (BitVec 32)) (p : CollPacket) :
    (s.contribute e rest p).mem = s.mem := by
  unfold State.contribute
  dsimp only
  (repeat' split) <;> simp

@[simp] theorem State.routePacket_mem (s : State) (p : CollPacket) : (s.routePacket p).mem = s.mem := by
  unfold State.routePacket
  (repeat' split) <;> simp

@[simp] theorem State.retryWaiting_mem (s : State) : (s.retryWaiting).mem = s.mem := by simp [State.retryWaiting]

@[simp] theorem State.parkTree_mem (s : State) (tree : Nat) (o : OpenTree) (f : FaultInfo) : (s.parkTree tree o f).mem = s.mem := by
  simp [State.parkTree]

/-! ### Remote -/

@[simp] theorem State.answer_mem (s : State) (src seq : Nat) (bs : List Byte) : (s.answer src seq bs).mem = s.mem := by
  simp [State.answer]

@[simp] theorem State.streamArrival_mem (s : State) (src : Nat) : (s.streamArrival src).mem = s.mem := by
  unfold State.streamArrival
  split <;> simp

@[simp] theorem State.streamArrivals_mem (s : State) (src count : Nat) : (s.streamArrivals src count).mem = s.mem := by
  simp [State.streamArrivals]

@[simp] theorem State.holdRelease_mem (s : State) (src seq count : Nat) (p : Payload) :
    (s.holdRelease src seq count p).mem = s.mem := by simp [State.holdRelease]

@[simp] theorem State.failRequest_mem (s : State) (seq : Nat) (r : Retry) : (s.failRequest seq r).mem = s.mem := by
  unfold State.failRequest
  split <;> simp

@[simp] theorem State.resend_mem (s : State) (seq : Nat) : (s.resend seq).mem = s.mem := by
  unfold State.resend
  dsimp only
  (repeat' split) <;> simp

@[simp] theorem State.hostReads_mem (s : State) (addr n : Nat) : (s.hostReads addr n).mem = s.mem := by
  refine foldl_mem (fun s x => ?_) _ _
  split <;> simp

@[simp] theorem State.hostBytes_mem (s : State) (addr x : Nat) : (s.hostBytes addr x).2.mem = s.mem := by
  induction x generalizing s addr with
  | zero => rfl
  | succ n ih =>
    unfold State.hostBytes
    dsimp only
    rw [ih]
    split <;> simp

@[simp] theorem State.hostAnswer_mem (s : State) (endpoint : Nat) (bs : List Byte) : (s.hostAnswer endpoint bs).mem = s.mem := by
  simp [State.hostAnswer]

/-! ### Ports -/

@[simp] theorem State.resendAll_mem (s : State) (seqs : List Nat) : (s.resendAll seqs).mem = s.mem := by simp [State.resendAll]

@[simp] theorem State.portDown_mem (s : State) (port : Nat) (l : Link) : (s.portDown port l).mem = s.mem := by simp [State.portDown]

/-! ### Distributor -/

@[simp] theorem State.dequeue_mem (s : State) (id : Nat) (l : Launch) : (s.dequeue id l).mem = s.mem := by simp [State.dequeue]

@[simp] theorem State.createThread_mem (s : State) (id : Nat) (c : Cell) (t : Stage) (d f0 : Nat) :
    (s.createThread id c t d f0).mem = s.mem := by simp [State.createThread]

@[simp] theorem State.removeThread_mem (s : State) (tid : Nat) : (s.removeThread tid).mem = s.mem := by simp [State.removeThread]

@[simp] theorem State.startCell_mem (s : State) (id d : Nat) : (s.startCell id d).mem = s.mem := by
  unfold State.startCell
  dsimp only
  split <;> simp

@[simp] theorem State.allocateRing_mem (s : State) (ctx launch tile obj : Nat) :
    (s.allocateRing ctx launch tile obj).mem = s.mem := by simp [State.allocateRing]

@[simp] theorem State.modCluster_mem (s : State) (n : Nat) (g : Cluster → Cluster) : (s.modCluster n g).mem = s.mem := by
  unfold State.modCluster
  split <;> simp

@[simp] theorem State.modStage_mem (s : State) (launch stage : Nat) (g : Stage → Stage) :
    (s.modStage launch stage g).mem = s.mem := by simp [State.modStage]

@[simp] theorem State.freeAnvil_mem (s : State) (tile : Nat) : (s.freeAnvil tile).mem = s.mem := by
  unfold State.freeAnvil
  split <;> simp

@[simp] theorem State.freeCell_mem (s : State) (id : Nat) : (s.freeCell id).mem = s.mem := by
  unfold State.freeCell
  dsimp only
  split <;> simp

@[simp] theorem State.startCluster_mem (s : State) (n d : Nat) : (s.startCluster n d).mem = s.mem := by
  unfold State.startCluster
  split <;> simp

@[simp] theorem State.takeValue_mem (s : State) (n : Nat) : (s.takeValue n).mem = s.mem := by
  unfold State.takeValue
  split <;> simp

@[simp] theorem State.divideLazy_mem (s : State) (launch stage e : Nat) : (s.divideLazy launch stage e).mem = s.mem := by
  simp [State.divideLazy]

@[simp] theorem State.divideEven_mem (s : State) (launch stage : Nat) (t : Stage) : (s.divideEven launch stage t).mem = s.mem := by
  simp [State.divideEven]

@[simp] theorem State.stopPlacing_mem (s : State) (id stage : Nat) : (s.stopPlacing id stage).mem = s.mem := by
  unfold State.stopPlacing
  split <;> simp

@[simp] theorem State.parkDependence_mem (s : State) : (s.parkDependence).mem = s.mem := by simp [State.parkDependence]

@[simp] theorem State.leaveQueue_mem (s : State) (id : Nat) : (s.leaveQueue id).mem = s.mem := by
  unfold State.leaveQueue
  split <;> simp

@[simp] theorem State.stopStages_mem (s : State) : (s.stopStages).mem = s.mem := by simp [State.stopStages]

@[simp] theorem State.ask_mem (s : State) (n : Nat) : (s.ask n).mem = s.mem := by simp [State.ask]

@[simp] theorem State.oweCell_mem (s : State) (id stage : Nat) (ready : Launch → Stage → Ring → Bool) :
    (s.oweCell id stage ready).mem = s.mem := by
  unfold State.oweCell
  (repeat' split) <;> simp

@[simp] theorem State.closeOutputs_mem (s : State) (id stage : Nat) : (s.closeOutputs id stage).mem = s.mem := by
  unfold State.closeOutputs
  split <;> simp

@[simp] theorem State.movePart_mem (s : State) (launch from' to' : Nat) : (s.movePart launch from' to').mem = s.mem := by
  unfold State.movePart
  split <;> simp

@[simp] theorem State.countStages_mem (s : State) : (s.countStages).mem = s.mem := by simp [State.countStages]

/-! ### Riddle -/

@[simp] theorem State.settleAt_mem (s : State) (tid tile part since : Nat) : (s.settleAt tid tile part since).mem = s.mem := by
  unfold State.settleAt
  split <;> simp

@[simp] theorem State.countLow_mem (s : State) (tile part : Nat) : (s.countLow tile part).mem = s.mem := by simp [State.countLow]

/-! ### Contexts -/

@[simp] theorem State.closeIssue_mem (s : State) (ctx : Nat) : (s.closeIssue ctx).mem = s.mem := by
  unfold State.closeIssue
  split <;> simp

@[simp] theorem State.renameCtx_mem (s : State) (old new : Nat) : (s.renameCtx old new).mem = s.mem := by simp [State.renameCtx]

@[simp] theorem State.dropContext_mem (s : State) (ctx : Nat) : (s.dropContext ctx).mem = s.mem := by simp [State.dropContext]

@[simp] theorem State.stopNamed_mem (s : State) (iss : Issue) (i : Instr) : (s.stopNamed iss i).mem = s.mem := by
  simp [State.stopNamed]

@[simp] theorem State.resumeThread_mem (s : State) (x : Image) (move : Nat → Nat) (slot tid : Nat) (t : Thread) :
    (s.resumeThread x move slot tid t).mem = s.mem := by simp [State.resumeThread]

@[simp] theorem State.rewalkSaved_mem (s : State) (ctx : Nat) : (s.rewalkSaved ctx).mem = s.mem := by simp [State.rewalkSaved]

/-! ### Fetch -/

@[simp] theorem State.fetchWord_mem (tile ctx va : Nat) (acc : Fetched × State) :
    (State.fetchWord tile ctx va acc).2.mem = acc.2.mem := by
  unfold State.fetchWord
  split
  · obtain ⟨x, u, found, kept⟩ := answers (acc.2.translate_mem tile ctx va .fetch)
    simp only [found]
    cases x with
    | ok pa nrd =>
      dsimp only
      split <;> exact kept
    | pgfault f => exact kept
    | pgfatal => exact kept
  · rfl

@[simp] theorem State.fetchPacket_mem (s : State) (tile ctx pc : Nat) : (s.fetchPacket tile ctx pc).2.mem = s.mem := by
  simp [State.fetchPacket]

/-! ### Debug -/

@[simp] theorem State.resumeWaits_mem (s : State) (tile part since : Nat) : (s.resumeWaits tile part since).mem = s.mem := by
  simp [State.resumeWaits]

@[simp] theorem State.release_mem (s : State) (tile part : Nat) (stepping : Bool) : (s.release tile part stepping).mem = s.mem := by
  simp [State.release]

@[simp] theorem State.refile_mem (s : State) (tile part tid pc : Nat) (key : BitVec 16) (w : Wake) :
    (s.refile tile part tid pc key w).mem = s.mem := by simp [State.refile]

@[simp] theorem State.countLanes_mem (s : State) (tile part ctx pc active divergent predicated : Nat) :
    (s.countLanes tile part ctx pc active divergent predicated).mem = s.mem := by simp [State.countLanes]

@[simp] theorem State.countIdle_mem (s : State) (tile part : Nat) : (s.countIdle tile part).mem = s.mem := by simp [State.countIdle]

@[simp] theorem State.physRead_mem (s : State) (pa : Nat) : (s.physRead pa).2.mem = s.mem := by
  unfold State.physRead
  (repeat' split) <;> simp

@[simp] theorem State.debugRead_mem (s : State) (a : Nat) : (s.debugRead a).2.mem = s.mem := by
  unfold State.debugRead
  (repeat' split) <;> simp

@[simp] theorem State.select_mem (s : State) (ir : BitVec 8) : (s.select ir).mem = s.mem := by simp [State.select]

theorem State.port_mem (s : State) (p : DebugPort) : State.mem { s with port := p } = s.mem := rfl

@[simp] theorem State.nextAddress_mem (s : State) : (s.nextAddress).mem = s.mem := State.port_mem ..

/-! ### Boot -/

@[simp] theorem State.finishRetiring_mem (s : State) : (s.finishRetiring).mem = s.mem := by
  unfold State.finishRetiring
  refine foldl_mem (fun s v => ?_) _ _
  dsimp only
  exact State.setTile_mem ..

@[simp] theorem State.respond_mem (s : State) (endpoint kind : Nat) (report request : List Byte) (signs : Bool) :
    (s.respond endpoint kind report request signs).mem = s.mem := by simp [State.respond]

/-! ### Clock -/

@[simp] theorem State.countNanosecond_mem (s : State) : (s.countNanosecond).mem = s.mem := by simp [State.countNanosecond]

@[simp] theorem State.tickClock_mem (s : State) : (s.tickClock).mem = s.mem := by simp [State.tickClock]

/-! ### Waits -/

@[simp] theorem State.pollWaits_mem (s : State) : (s.pollWaits).mem = s.mem := by simp [State.pollWaits]

/-! ### Select -/

@[simp] theorem State.takeUp_mem (s : State) (tid : Nat) : (s.takeUp tid).mem = s.mem := by
  unfold State.takeUp
  split <;> simp

@[simp] theorem State.fileWaits_mem (s : State) (tile part : Nat) (held : Bool) (waits : List (Nat × Wake)) :
    (s.fileWaits tile part held waits).mem = s.mem := by
  refine foldl_mem (fun s w => ?_) _ _
  dsimp only
  (repeat' split) <;> simp

@[simp] theorem State.issueEnergy_mem (s : State) (tile ctx : Nat) (group : List (Nat × Thread)) (is : List Instr) :
    (s.issueEnergy tile ctx group is).mem = s.mem := by
  refine (foldl_mem (fun s i => ?_) _ _).trans (State.energy_mem ..)
  dsimp only
  split <;> simp

@[simp] theorem State.issueLanes_mem (s : State) (tile part ctx pc : Nat) (group : List (Nat × Thread)) (is : List Instr) :
    (s.issueLanes tile part ctx pc group is).mem = s.mem := by simp [State.issueLanes]

@[simp] theorem State.modBlock_mem (s : State) (tile part : Nat) (f : DebugBlock → DebugBlock) :
    (s.modBlock tile part f).mem = s.mem := by simp [State.modBlock]

@[simp] theorem State.noteDrawn_mem (s : State) (tile part : Nat) (slots : List (Nat × Nat)) :
    (s.noteDrawn tile part slots).mem = s.mem := by simp [State.noteDrawn]

@[simp] theorem State.noteIssue_mem (s : State) (tile part : Nat) (slots : List (Nat × Nat)) :
    (s.noteIssue tile part slots).mem = s.mem := by simp [State.noteIssue]

@[simp] theorem State.countIssue_mem (s : State) (iss : Issue) (is : List Instr) : (s.countIssue iss is).mem = s.mem := by
  simp [State.countIssue]

@[simp] theorem State.startChain_mem (s : State) (iss : Issue) (ds : List Decoded) (raised : Option Raised) :
    (s.startChain iss ds raised).mem = s.mem := by
  unfold State.startChain
  split <;> simp

@[simp] theorem State.drawFailed_mem (s : State) (iss : Issue) (again : Bool) (x : Fetched) :
    (s.drawFailed iss again x).mem = s.mem := by
  unfold State.drawFailed
  split <;> simp

/-! ### Retire -/

@[simp] theorem State.fileOn_mem (s : State) (tid pc : Nat) (key : BitVec 16) (t : Thread) : (s.fileOn tid pc key t).mem = s.mem := by
  unfold State.fileOn
  split <;> simp

@[simp] theorem State.goPast_mem (s : State) (iss : Issue) (tid : Nat) : (s.goPast iss tid).mem = s.mem := by
  unfold State.goPast
  split
  · rfl
  · exact (State.fileOn_mem ..).trans (State.modThread_mem ..)

@[simp] theorem State.takeRaised_mem (s : State) (iss : Issue) (r : Raised) : (s.takeRaised iss r).mem = s.mem := by
  refine (foldl_mem (fun s x => ?_) _ _).trans (State.takeTrap_mem ..)
  (repeat' split) <;> simp

end Sys2Proof.Machine
end

section
/-! PROOFS. Every step keeps the canonical form of memory (R311): the operations that write memory keep it, and so does the work of the
engines, every instruction and event, and the step. -/
namespace Sys2Proof.Machine

/-! ## Shapes: branches, folds and work -/

@[simp] theorem wf_ite {c : Prop} [Decidable c] (m n : List Host.Cell) :
    (Memory.wf (if c then m else n) = true) = if c then Memory.wf m = true else Memory.wf n = true :=
  apply_ite (fun m => Memory.wf m = true) ..

theorem wf_of_mem {s u : State} (e : u.mem = s.mem) (h : Memory.wf s.mem = true) : Memory.wf u.mem = true := by rwa [e]

/-- The state that comes with an answer, once that state is named. -/
theorem wf_of_answer {β : Type} {p : β × State} {b : β} {u : State} (e : p = (b, u)) (h : Memory.wf p.2.mem = true) :
    Memory.wf u.mem = true := by rwa [e] at h

theorem ite_wf {c : Prop} [Decidable c] {s u : State} (hs : Memory.wf s.mem = true) (hu : Memory.wf u.mem = true) :
    Memory.wf (if c then s else u).mem = true := by split <;> assumption

theorem foldl_wf {α : Type} {f : State → α → State} (hf : ∀ s x, Memory.wf s.mem = true → Memory.wf (f s x).mem = true) (l : List α)
    {s : State} (h : Memory.wf s.mem = true) : Memory.wf (l.foldl f s).mem = true := by
  induction l generalizing s with
  | nil => exact h
  | cons x xs ih => exact ih (hf s x h)

theorem foldl_snd_wf {α β : Type} {f : β × State → α → β × State}
    (hf : ∀ r x, Memory.wf r.2.mem = true → Memory.wf (f r x).2.mem = true) (l : List α)
    {r : β × State} (h : Memory.wf r.2.mem = true) : Memory.wf (l.foldl f r).2.mem = true := by
  induction l generalizing r with
  | nil => exact h
  | cons x xs ih => exact ih (hf r x h)

/-- An end of work with canonical memory: where it ends, and where it stops at a fatal fault, which keeps what it has written up to there
(R246). -/
def CanonicalEnd {α : Type} (r : Except Stop (α × State)) : Prop :=
  (∀ a u, r = .ok (a, u) → Memory.wf u.mem = true) ∧ ∀ v, r = .error (.fatal v) → Memory.wf v.mem = true

/-- Work that leaves memory canonical where it finds it so. -/
def Work.Canonical {α : Type} (w : Work α) : Prop := ∀ s, Memory.wf s.mem = true → CanonicalEnd (w s)

section
variable {α β : Type}

@[simp] theorem canonicalEnd_ok (a : α) (u : State) : CanonicalEnd (.ok (a, u)) = (Memory.wf u.mem = true) := by simp [CanonicalEnd]

@[simp] theorem canonicalEnd_fatal (v : State) : CanonicalEnd (.error (.fatal v) : Except Stop (α × State)) = (Memory.wf v.mem = true) := by
  simp [CanonicalEnd]

@[simp] theorem canonicalEnd_trap (c : Cause) (n : Nat) : CanonicalEnd (.error (.trap c n) : Except Stop (α × State)) :=
  ⟨fun _ _ e => (nomatch e), fun _ e => by cases e⟩

@[simp] theorem canonicalEnd_parked (f : FaultInfo) : CanonicalEnd (.error (.parked f) : Except Stop (α × State)) :=
  ⟨fun _ _ e => (nomatch e), fun _ e => by cases e⟩

@[simp] theorem canonicalEnd_ecc (pa : Nat) : CanonicalEnd (.error (.ecc pa) : Except Stop (α × State)) :=
  ⟨fun _ _ e => (nomatch e), fun _ e => by cases e⟩

@[simp] theorem canonicalEnd_ite {c : Prop} [Decidable c] (r r' : Except Stop (α × State)) :
    CanonicalEnd (if c then r else r') = if c then CanonicalEnd r else CanonicalEnd r' := apply_ite ..

/-- Work whose every end and fatal stop leaves memory as it was. -/
theorem Work.Canonical.of_ends {w : Work α} (ends : ∀ s a u, w s = .ok (a, u) → u.mem = s.mem)
    (stops : ∀ s v, w s = .error (.fatal v) → v.mem = s.mem) : w.Canonical :=
  fun s h => ⟨fun a u e => by rwa [ends s a u e], fun v e => by rwa [stops s v e]⟩

@[simp] theorem Work.Canonical.pure (a : α) : (Pure.pure a : Work α).Canonical :=
  .of_ends (fun _ _ _ e => by cases e; rfl) fun _ _ e => by cases e

@[simp] theorem Work.Canonical.get : (MonadState.get : Work State).Canonical :=
  .of_ends (fun _ _ _ e => by cases e; rfl) fun _ _ e => by cases e

@[simp] theorem Work.Canonical.change {f : State → State} (hf : ∀ s, Memory.wf s.mem = true → Memory.wf (f s).mem = true) :
    (modify f : Work Unit).Canonical :=
  fun s h => ⟨fun _ _ e => by cases e; exact hf s h, fun _ e => by cases e⟩

theorem Work.Canonical.set {u : State} (h : Memory.wf u.mem = true) : (MonadState.set u : Work Unit).Canonical :=
  fun _ _ => ⟨fun _ _ e => by cases e; exact h, fun _ e => by cases e⟩

@[simp] theorem Work.Canonical.bind {w : Work α} {k : α → Work β} (hw : w.Canonical) (hk : ∀ a, (k a).Canonical) :
    (w >>= k).Canonical := fun s h => by
  obtain ⟨ends, stops⟩ := hw s h
  cases e : w s with
  | error x =>
    have stopped : (w >>= k) s = .error x := by simp only [Bind.bind, StateT.bind, Except.bind, e]
    rw [stopped]
    exact ⟨fun _ _ h => (nomatch h), fun v h => by cases h; exact stops v e⟩
  | ok r =>
    obtain ⟨a, u⟩ := r
    rw [Work.bind_ok e]
    exact hk a u (ends a u e)

/-- After a look at the state, work may rely on its memory being canonical. -/
theorem Work.Canonical.get_bind {k : State → Work β} (hk : ∀ s, Memory.wf s.mem = true → (k s).Canonical) :
    ((MonadState.get : Work State) >>= k).Canonical := fun s h => hk s h s h

@[simp] theorem Work.Canonical.map {w : Work α} (f : α → β) (hw : w.Canonical) : (f <$> w).Canonical := by
  rw [map_eq_pure_bind]
  exact hw.bind fun a => .pure _

@[simp] theorem Work.Canonical.ite {c : Prop} [Decidable c] {w w' : Work α} (hw : w.Canonical) (hw' : w'.Canonical) :
    (if c then w else w').Canonical := by split <;> assumption

theorem Work.Canonical.listForM {w : α → Work Unit} (hw : ∀ x, (w x).Canonical) (xs : List α) : (xs.forM w).Canonical := by
  induction xs with
  | nil => exact .pure ()
  | cons x xs ih => exact .bind (hw x) fun _ => ih

@[simp] theorem Work.Canonical.forM {w : α → Work Unit} (hw : ∀ x, (w x).Canonical) (xs : List α) : (ForM.forM xs w).Canonical :=
  .listForM hw xs

@[simp] theorem Work.Canonical.mapM {w : α → Work β} (hw : ∀ x, (w x).Canonical) (xs : List α) : (xs.mapM w).Canonical := by
  induction xs with
  | nil => exact .pure []
  | cons x xs ih =>
    rw [List.mapM_cons]
    exact .bind (hw x) fun _ => .bind ih fun _ => .pure _

@[simp] theorem Work.Canonical.stop {x : Stop} (hx : ∀ v, x ≠ .fatal v) : (Work.stop x : Work α).Canonical :=
  fun _ _ => ⟨fun _ _ e => (nomatch e), fun v e => absurd (Except.error.inj e) (hx v)⟩

theorem Work.Canonical.ends {w : Work α} (hw : w.Canonical) {s u : State} {a : α} (h : Memory.wf s.mem = true) (e : w s = .ok (a, u)) :
    Memory.wf u.mem = true := (hw s h).1 a u e

/-- Work that takes up the state another piece of work ended in. -/
theorem Work.Canonical.resumed {w : Work α} (hw : w.Canonical) {s u : State} {a : α} (h : Memory.wf s.mem = true) (e : w s = .ok (a, u)) :
    (MonadState.set u : Work Unit).Canonical := .set (hw.ends h e)

/-- Work that stops as another piece of work stopped. -/
theorem Work.Canonical.stopped {w : Work α} (hw : w.Canonical) {s : State} {x : Stop} (h : Memory.wf s.mem = true) (e : w s = .error x) :
    (Work.stop x : Work β).Canonical :=
  fun _ _ => ⟨fun _ _ r => (nomatch r), fun v r => (hw s h).2 v (e.trans (by rw [Except.error.inj r]))⟩

@[simp] theorem Work.Canonical.fatal : (Work.fatal : Work α).Canonical := .of_ends (fun _ _ _ e => (nomatch e)) fun _ _ e => by cases e; rfl

@[simp] theorem Work.Canonical.illeg : (Work.illeg : Work α).Canonical := .stop fun _ => by simp

@[simp] theorem Work.Canonical.bounds (n : Nat) : (Work.bounds n : Work α).Canonical := .stop fun _ => by simp

@[simp] theorem Work.Canonical.need (b : Bool) {x : Stop} (hx : ∀ v, x ≠ .fatal v) : (Work.need b x).Canonical :=
  .ite (.pure _) (.stop hx)

@[simp] theorem Work.Canonical.legal (b : Bool) : (Work.legal b).Canonical := .need b fun _ => by simp

@[simp] theorem Work.Canonical.within (b : Bool) (n : Nat) : (Work.within b n).Canonical := .need b fun _ => by simp

end

/-- An outcome whose next state, where there is one, has canonical memory. -/
def Canonical (r : Host.Outcome State Fault Refusal) : Prop := ∀ u, r = .next u → Memory.wf u.mem = true

@[simp] theorem canonical_next (u : State) : Canonical (.next u) = (Memory.wf u.mem = true) := by simp [Canonical]

@[simp] theorem canonical_fault (f : Fault) : Canonical (.fault f) := fun _ e => (nomatch e)

@[simp] theorem canonical_ite {c : Prop} [Decidable c] (r r' : Host.Outcome State Fault Refusal) :
    Canonical (if c then r else r') = if c then Canonical r else Canonical r' := apply_ite ..

theorem nextOr_wf {s : State} {r : Host.Outcome State Fault Refusal} (h : Memory.wf s.mem = true) (hr : Canonical r) :
    Memory.wf (nextOr s r).mem = true := by
  cases r with
  | next u => exact hr u rfl
  | fault f => exact h
  | refused f => exact h

/-! ## Memory, lines and tags -/

@[simp] theorem State.perform_wf {s : State} (h : Memory.wf s.mem = true) (tid : Nat) (bs : Map Byte) :
    Memory.wf (s.perform tid bs).mem = true := by
  have written (f : Nat → Nat) {u : State} (hu : Memory.wf u.mem = true) :
      Memory.wf (bs.foldl (fun s (c : Nat × Byte) => s.setByte (f c.1) c.2) u).mem = true :=
    foldl_wf (fun s c hs => State.setByte_wf _ _ hs) bs hu
  have woken (f : Nat → Nat) {u : State} (hu : Memory.wf u.mem = true) :
      Memory.wf (bs.foldl (fun s (c : Nat × Byte) => s.wakeGranules (f c.1) 1) u).mem = true :=
    foldl_wf (fun s c hs => by simpa using hs) bs hu
  unfold State.perform
  split
  · exact h
  · split
    · simpa using h
    · split
      · exact woken (· % 2 ^ 40) (written (· % 2 ^ 40) h)
      · split <;> simpa using h
    · exact h
    · exact h
    · simpa using written id h
    · exact woken id (written id (by simpa using h))

@[simp] theorem State.drainLine_wf {s : State} (h : Memory.wf s.mem = true) (tile : Nat) (l : Line) :
    Memory.wf (s.drainLine tile l).mem = true := by simp [State.drainLine, h]

@[simp] theorem State.drainThread_wf {s : State} (h : Memory.wf s.mem = true) (tid : Nat) :
    Memory.wf (s.drainThread tid).mem = true := by
  unfold State.drainThread
  split <;> simp +contextual [h, foldl_wf]

@[simp] theorem State.storeBytes_wf {s : State} (h : Memory.wf s.mem = true) (t : Thread) (tid pa : Nat) (bs : List Byte) :
    Memory.wf (s.storeBytes t tid pa bs).mem = true := by
  unfold State.storeBytes
  split <;> simp [h]

/-! ## Instructions that compute -/

theorem State.issued_wf {s : State} (h : Memory.wf s.mem = true) (i : Instr) {k : Issue → State}
    (hk : ∀ iss, Memory.wf (k iss).mem = true) : Memory.wf (s.issued i k).mem = true := by
  unfold State.issued
  split
  · exact h
  · split
    · exact h
    · exact hk _

theorem State.run_canonical {s : State} (h : Memory.wf s.mem = true) (i : Instr) (f : Lane → LaneOut) : Canonical (s.run i f) := by
  rw [State.run, canonical_next]
  exact State.issued_wf h i fun _ => by simpa using h

/-! ## Trace and the checks of an access -/

@[simp] theorem State.traceBuffer_wf {s : State} (h : Memory.wf s.mem = true) (rec' : List Byte) :
    Memory.wf (s.traceBuffer rec').2.mem = true := by
  unfold State.traceBuffer
  extract_lets tr size base wrap at'
  split
  · exact wf_of_mem ((s.setBytes (base + at') rec').wakeGranules_mem (base + at') 32) (State.setBytes_wf _ _ h)
  · exact h

@[simp] theorem State.emit_wf {s : State} (h : Memory.wf s.mem = true) (kind ctx tile part : Nat) (wid : BitVec 64) (payload : List Byte) :
    Memory.wf (s.emit kind ctx tile part wid payload).mem = true := by
  have buffered (c : Prop) [Decidable c] (bytes : List Byte) :
      Memory.wf (if c then s.traceBuffer bytes else (false, s)).2.mem = true := by
    split
    · exact State.traceBuffer_wf h _
    · exact h
  exact ite_wf h (ite_wf (buffered _ _) (buffered _ _))

theorem planLane_wf (i : Instr) (access : Lane → Access) {acc : AccessPlan × State} (h : Memory.wf acc.2.mem = true) (x : Lane × Bool) :
    Memory.wf (planLane i access acc x).2.mem = true := by
  obtain ⟨check, hc⟩ := exists_copy State.check
  have checked := hc ▸ State.check_mem
  unfold planLane
  rw [hc]
  dsimp only
  split
  · exact h
  · split
    · exact h
    · obtain ⟨r, u, found, kept⟩ := answers (checked acc.2 x.1.th (access x.1))
      rw [found]
      cases r <;> simpa [kept] using h

theorem State.accesses_wf {s : State} (h : Memory.wf s.mem = true) (i : Instr) (order : Nat) (access : Lane → Access)
    {perform : State → Issue → Lane → Reached → BitVec 32 → Nat → State}
    (hp : ∀ s iss l r lanes no, Memory.wf s.mem = true → Memory.wf (perform s iss l r lanes no).mem = true) :
    Memory.wf (s.accesses i order access perform).mem = true := by
  unfold State.accesses
  split
  · exact h
  · next iss _ =>
    have planned := foldl_snd_wf (fun r x hr => planLane_wf i access hr x) (iss.lanes s i 0) (r := (({} : AccessPlan), s)) h
    refine foldl_wf (fun s x hs => hp _ _ _ _ _ _ hs) _ ?_
    simpa using planned

/-! ## Loads, stores and atomics -/

@[simp] theorem State.regionEnd_wf {s : State} (h : Memory.wf s.mem = true) (tid : Nat) (scope : Option Nat) :
    Memory.wf (s.regionEnd tid scope).mem = true := by
  unfold State.regionEnd
  split <;> simp [h]

@[simp] theorem State.releaseTo_wf {s : State} (h : Memory.wf s.mem = true) (tid scope pa : Nat) (bs : List Byte) :
    Memory.wf (s.releaseTo tid scope pa bs).mem = true := by
  unfold State.releaseTo
  split <;> simp [h]

@[simp] theorem State.storeAt_wf {s : State} (h : Memory.wf s.mem = true) (t : Thread) (tid no pa : Nat) (bs : List Byte) :
    Memory.wf (s.storeAt t tid no pa bs).mem = true := by
  unfold State.storeAt
  split <;> simp [h]

@[simp] theorem State.releaseAt_wf {s : State} (h : Memory.wf s.mem = true) (t : Thread) (tid scope pa : Nat) (bs : List Byte) :
    Memory.wf (s.releaseAt t tid scope pa bs).mem = true := by simp [State.releaseAt, h]

@[simp] theorem State.beforeAccess_wf {s : State} (h : Memory.wf s.mem = true) (tid : Nat) (i : Instr) :
    Memory.wf (s.beforeAccess tid i).mem = true := by
  unfold State.beforeAccess
  split <;> simp [h]

@[simp] theorem State.enterAccess_wf {s : State} (h : Memory.wf s.mem = true) (tid : Nat) (e : Entry) (r : Reached) :
    Memory.wf (s.enterAccess tid e r).mem = true := by
  unfold State.enterAccess
  (repeat' split) <;> simp +contextual [h]

@[simp] theorem State.memory_wf {s : State} (h : Memory.wf s.mem = true) (i : Instr) : Memory.wf (s.memory i).mem = true :=
  State.issued_wf h i fun _ => State.accesses_wf h _ _ _ fun _ _ _ _ _ _ hs => State.enterAccess_wf hs _ _ _

@[simp] theorem execLd_canonical {s : State} (h : Memory.wf s.mem = true) (f : MemForm) :
    Canonical (execLd f s) := by simp [execLd, h]

@[simp] theorem execSt_canonical {s : State} (h : Memory.wf s.mem = true) (f : MemForm) :
    Canonical (execSt f s) := by simp [execSt, h]

@[simp] theorem execLdAcq_canonical {s : State} (h : Memory.wf s.mem = true) (f : MemOForm) :
    Canonical (execLdAcq f s) := by simp [execLdAcq, h]

@[simp] theorem execStRel_canonical {s : State} (h : Memory.wf s.mem = true) (f : MemOForm) :
    Canonical (execStRel f s) := by simp [execStRel, h]

@[simp] theorem execWaitv_canonical {s : State} (h : Memory.wf s.mem = true) (f : WaitvForm) :
    Canonical (execWaitv f s) := by simp [execWaitv, h]

@[simp] theorem execAtomAdd_canonical {s : State} (h : Memory.wf s.mem = true) (f : A3Form) :
    Canonical (execAtomAdd f s) := by simp [execAtomAdd, h]

@[simp] theorem execAtomMin_canonical {s : State} (h : Memory.wf s.mem = true) (f : A3Form) :
    Canonical (execAtomMin f s) := by simp [execAtomMin, h]

@[simp] theorem execAtomMax_canonical {s : State} (h : Memory.wf s.mem = true) (f : A3Form) :
    Canonical (execAtomMax f s) := by simp [execAtomMax, h]

@[simp] theorem execAtomExch_canonical {s : State} (h : Memory.wf s.mem = true) (f : A3Form) :
    Canonical (execAtomExch f s) := by simp [execAtomExch, h]

@[simp] theorem execAtomAnd_canonical {s : State} (h : Memory.wf s.mem = true) (f : A3Form) :
    Canonical (execAtomAnd f s) := by simp [execAtomAnd, h]

@[simp] theorem execAtomOr_canonical {s : State} (h : Memory.wf s.mem = true) (f : A3Form) :
    Canonical (execAtomOr f s) := by simp [execAtomOr, h]

@[simp] theorem execAtomXor_canonical {s : State} (h : Memory.wf s.mem = true) (f : A3Form) :
    Canonical (execAtomXor f s) := by simp [execAtomXor, h]

@[simp] theorem execAtomCas_canonical {s : State} (h : Memory.wf s.mem = true) (f : A3Form) :
    Canonical (execAtomCas f s) := by simp [execAtomCas, h]

@[simp] theorem execRedAdd_canonical {s : State} (h : Memory.wf s.mem = true) (f : RedForm) :
    Canonical (execRedAdd f s) := by simp [execRedAdd, h]

@[simp] theorem execRedMin_canonical {s : State} (h : Memory.wf s.mem = true) (f : RedForm) :
    Canonical (execRedMin f s) := by simp [execRedMin, h]

@[simp] theorem execRedMax_canonical {s : State} (h : Memory.wf s.mem = true) (f : RedForm) :
    Canonical (execRedMax f s) := by simp [execRedMax, h]

@[simp] theorem execRedAnd_canonical {s : State} (h : Memory.wf s.mem = true) (f : RedForm) :
    Canonical (execRedAnd f s) := by simp [execRedAnd, h]

@[simp] theorem execRedOr_canonical {s : State} (h : Memory.wf s.mem = true) (f : RedForm) :
    Canonical (execRedOr f s) := by simp [execRedOr, h]

@[simp] theorem execRedXor_canonical {s : State} (h : Memory.wf s.mem = true) (f : RedForm) :
    Canonical (execRedXor f s) := by simp [execRedXor, h]

@[simp] theorem State.storeLeft_wf {s : State} (h : Memory.wf s.mem = true) (t : Thread) (tid id : Nat) :
    Memory.wf (s.storeLeft t tid id).mem = true := by simp [State.storeLeft, h]

@[simp] theorem State.beforeRelease_wf {s : State} (h : Memory.wf s.mem = true) (tid scope pa : Nat) :
    Memory.wf (s.beforeRelease tid scope pa).2.mem = true := by
  unfold State.beforeRelease
  dsimp only
  (repeat' split) <;> simp +contextual [h]

@[simp] theorem State.leaveFor_wf {s : State} (h : Memory.wf s.mem = true) (t : Thread) (tid : Nat) (e : Entry) (pa size : Nat) :
    Memory.wf (s.leaveFor t tid e pa size).2.mem = true := by
  unfold State.leaveFor
  split
  · simpa using h
  · simpa using h
  · simpa using h
  · split
    · exact h
    · exact State.storeLeft_wf (State.storeAt_wf h ..) ..
  · next f _ =>
    have ready := State.beforeRelease_wf h tid f.p.toNat pa
    dsimp only
    split
    · exact ready
    · exact State.storeLeft_wf (State.releaseAt_wf ready ..) ..
  · cases releaseScope e.instr with
    | some p =>
      have ready := State.beforeRelease_wf h tid p pa
      dsimp only
      split
      · exact ready
      · exact wf_of_mem (State.modThread_mem ..) (wf_of_mem (State.chargeHeld_mem ..) ready)
    | none =>
      have ready := State.drainThread_wf h tid
      dsimp only
      split
      · exact ready
      · exact wf_of_mem (State.modThread_mem ..) (wf_of_mem (State.chargeHeld_mem ..) ready)

@[simp] theorem State.dispatchAccess_wf {s : State} (h : Memory.wf s.mem = true) (t : Thread) (tid : Nat) (e : Entry) (x : Access) :
    Memory.wf (s.dispatchAccess t tid e x).2.mem = true := by
  obtain ⟨reach, hr⟩ := exists_copy State.reach
  have reached := hr ▸ State.reach_mem
  obtain ⟨leave, hl⟩ := exists_copy State.leaveFor
  have left := hl ▸ @State.leaveFor_wf
  obtain ⟨dispatch, hf⟩ := exists_copy State.dispatchAccess
  rw [hf]
  delta State.dispatchAccess at hf
  rw [hr, hl] at hf
  subst hf
  obtain ⟨r, u, found, kept⟩ := answers (reached s t x.off x.size x.kind)
  have hu : Memory.wf u.mem = true := by rwa [kept]
  beta_reduce
  rw [found]
  cases r with
  | ok pa nrd =>
    dsimp only
    split
    · exact hu
    · exact left hu _ _ _ _ _
  | fault f => simpa using hu
  | trap c info => simpa using hu

@[simp] theorem State.dispatchEntry_wf {s : State} (h : Memory.wf s.mem = true) (tid : Nat) (e : Entry) :
    Memory.wf (s.dispatchEntry tid e).2.mem = true := by
  unfold State.dispatchEntry
  (repeat' split) <;> simp +contextual [h]

@[simp] theorem State.dispatchFrom_wf {s : State} (h : Memory.wf s.mem = true) (tid : Nat) (x : List Entry) :
    Memory.wf (s.dispatchFrom tid x).mem = true := by
  induction x generalizing s with
  | nil => exact h
  | cons e es ih =>
    have dispatched := State.dispatchEntry_wf h tid e
    unfold State.dispatchFrom
    generalize s.dispatchEntry tid e = r at dispatched ⊢
    obtain ⟨go, u⟩ := r
    cases go with
    | true => exact ih dispatched
    | false => exact dispatched

@[simp] theorem State.dispatchThread_wf {s : State} (h : Memory.wf s.mem = true) (tid : Nat) :
    Memory.wf (s.dispatchThread tid).mem = true := by
  unfold State.dispatchThread
  split <;> simp [h]

@[simp] theorem execLoadDataArrival_canonical {s : State} (h : Memory.wf s.mem = true) (tid entry : Nat) :
    Canonical (execLoadDataArrival tid entry s) := by
  unfold execLoadDataArrival
  (repeat' split) <;> simp +contextual [h]

@[simp] theorem State.atomicAt_wf {s : State} (h : Memory.wf s.mem = true) (t : Thread) (tid : Nat) (e : Entry) (pa : Nat) :
    Memory.wf (s.atomicAt t tid e pa).2.mem = true := by
  unfold State.atomicAt
  dsimp only
  (repeat' split) <;> simp +contextual [h]

@[simp] theorem State.performAtomic_wf {s : State} (h : Memory.wf s.mem = true) (tid : Nat) (e : Entry) (pa : Nat) :
    Memory.wf (s.performAtomic tid e pa).mem = true := by
  unfold State.performAtomic
  split <;> simp [h]

@[simp] theorem execAtomicPerform_canonical {s : State} (h : Memory.wf s.mem = true) (tid entry : Nat) :
    Canonical (execAtomicPerform tid entry s) := by
  rw [execAtomicPerform, canonical_next]
  split
  · next t e _ _ =>
    obtain ⟨pa, u, found, kept⟩ := answers (s.entryPa_mem t e)
    have hu := wf_of_mem kept h
    refine ite_wf h ?_
    rw [found]
    cases pa with
    | none => simpa using hu
    | some pa =>
      refine ite_wf hu (foldl_wf (fun s x hs => ?_) _ hu)
      split
      · exact ite_wf (State.performAtomic_wf hs ..) hs
      · exact hs
  · exact h

@[simp] theorem execAtomReply_canonical {s : State} (h : Memory.wf s.mem = true) (tid entry : Nat) :
    Canonical (execAtomReply tid entry s) := by
  unfold execAtomReply
  (repeat' split) <;> simp +contextual [h]

@[simp] theorem execCombineLineIdleDrain_canonical {s : State} (h : Memory.wf s.mem = true) (tile line : Nat) :
    Canonical (execCombineLineIdleDrain tile line s) := by
  unfold execCombineLineIdleDrain
  split <;> simp [h]

@[simp] theorem execTagSweep_canonical {s : State} (h : Memory.wf s.mem = true) (slot : Nat) :
    Canonical (execTagSweep slot s) := by simp [execTagSweep, h]

@[simp] theorem execRaceCheckResult_canonical {s : State} (h : Memory.wf s.mem = true) (tid entry : Nat) :
    Canonical (execRaceCheckResult tid entry s) := by
  obtain ⟨check, hc⟩ := exists_copy State.check
  have checked := hc ▸ State.check_mem
  rw [execRaceCheckResult, canonical_next, hc]
  split
  · next t e _ _ =>
    refine ite_wf h ?_
    split
    · exact h
    · next x _ =>
      obtain ⟨r, u, found, kept⟩ := answers (checked s t x)
      have hu := wf_of_mem kept h
      rw [found]
      cases r with
      | ok r => exact wf_of_mem (State.modThread_mem ..) (State.beforeAccess_wf (wf_of_mem (State.modThread_mem ..) hu) ..)
      | parked f => simpa using hu
      | trapped c info => simpa using hu
      | halted => simpa using hu
  · exact h

@[simp] theorem execFaultRecordPost_canonical {s : State} (h : Memory.wf s.mem = true) : Canonical (execFaultRecordPost s) := by
  have posted (pa n : Nat) (bs : List Byte) :
      Memory.wf ((((s.setBytes pa bs).resetTags pa 32).setNum (pa + 0x1C) 4 n).wakeGranules pa 32).mem = true :=
    wf_of_mem (State.wakeGranules_mem ..) (State.setNum_wf _ _ _ (wf_of_mem (State.resetTags_mem ..) (State.setBytes_wf _ _ h)))
  rw [execFaultRecordPost, canonical_next]
  split
  · exact h
  · exact ite_wf h (posted _ _ _)

@[simp] theorem execFltdoneWrite_canonical {s : State} (h : Memory.wf s.mem = true) (v : BitVec 64) :
    Canonical (execFltdoneWrite v s) := by
  unfold execFltdoneWrite
  split <;> simp [h]

/-! ## Control flow -/

theorem State.steer_wf {s : State} (h : Memory.wf s.mem = true) (i : Instr) (f : Issue → Lane → Thread → Steer) (engine : Bool) :
    Memory.wf (s.steer i f engine).mem = true := by
  refine State.issued_wf h i fun iss => ?_
  dsimp only
  split
  · simpa using h
  · refine foldl_wf (fun s l hs => ?_) _ (by simpa using h)
    split
    · exact State.regionEnd_wf (by simpa using hs) _ _
    · simpa using hs

@[simp] theorem execBr_canonical {s : State} (h : Memory.wf s.mem = true) (f : BrForm) :
    Canonical (execBr f s) := by
  simpa only [execBr, canonical_next] using State.steer_wf h ..

@[simp] theorem execCall_canonical {s : State} (h : Memory.wf s.mem = true) (f : CallForm) :
    Canonical (execCall f s) := by
  simpa only [execCall, canonical_next] using State.steer_wf h ..

@[simp] theorem execCalli_canonical {s : State} (h : Memory.wf s.mem = true) (f : CalliForm) :
    Canonical (execCalli f s) := by
  simpa only [execCalli, canonical_next] using State.steer_wf h ..

@[simp] theorem execRet_canonical {s : State} (h : Memory.wf s.mem = true) (f : BareForm) :
    Canonical (execRet f s) := by
  simpa only [execRet, canonical_next] using State.steer_wf h ..

@[simp] theorem execReform_canonical {s : State} (h : Memory.wf s.mem = true) (f : ReformForm) :
    Canonical (execReform f s) := by
  simpa only [execReform, canonical_next] using State.steer_wf h ..

@[simp] theorem execReformX_canonical {s : State} (h : Memory.wf s.mem = true) (f : ReformXForm) :
    Canonical (execReformX f s) := by
  simpa only [execReformX, canonical_next] using State.steer_wf h ..

@[simp] theorem execLoopImm_canonical {s : State} (h : Memory.wf s.mem = true) (f : LoopIForm) :
    Canonical (execLoopImm f s) := by
  simpa only [execLoopImm, canonical_next] using State.steer_wf h ..

@[simp] theorem execLoopReg_canonical {s : State} (h : Memory.wf s.mem = true) (f : LoopRForm) :
    Canonical (execLoopReg f s) := by
  simpa only [execLoopReg, canonical_next] using State.steer_wf h ..

@[simp] theorem execCallsh_canonical {s : State} (h : Memory.wf s.mem = true) (f : Reg2Form) :
    Canonical (execCallsh f s) := by
  simpa only [execCallsh, canonical_next] using State.steer_wf h ..

@[simp] theorem execRetsh_canonical {s : State} (h : Memory.wf s.mem = true) (f : BareForm) :
    Canonical (execRetsh f s) := by
  simpa only [execRetsh, canonical_next] using State.steer_wf h ..

/-! ## Objects and operations of engines -/

@[simp] theorem readEntry_canonical (tile ctx idx : Nat) : (readEntry tile ctx idx).Canonical := by
  refine .of_ends (fun s o u e => ?_) fun s v e => ?_
  · unfold readEntry at e
    split at e
    · cases e
    · next c _ =>
      obtain ⟨x, u, found, kept⟩ := answers (s.translateAs_mem true tile ctx (c.entryVa idx) .read)
      simp only [found] at e
      split at e
      · cases e
      · split at e
        · cases e
          rfl
        · cases x with
          | ok pa nrd =>
            dsimp only at e
            split at e
            · cases e
            · cases e
              simpa using kept
          | pgfault f => cases e
          | pgfatal => cases e
  · unfold readEntry at e
    split at e
    · cases e
    · next c _ =>
      obtain ⟨x, u, found, kept⟩ := answers (s.translateAs_mem true tile ctx (c.entryVa idx) .read)
      simp only [found] at e
      split at e
      · cases e
      · split at e
        · cases e
        · cases x with
          | ok pa nrd =>
            dsimp only at e
            split at e <;> cases e
          | pgfault f => cases e
          | pgfatal => cases e

@[simp] theorem checkEntry_canonical (tile ctx idx : Nat) (kinds : List ObjKind) (rights : Nat) :
    (checkEntry tile ctx idx kinds rights).Canonical := by
  unfold checkEntry
  (repeat' with_reducible refine .bind ?_ fun _ => ?_) <;> simp

@[simp] theorem checkFootprint_canonical (cell : Nat) (o : Obj) (off n : Nat) :
    (checkFootprint cell o off n).Canonical := by simp [checkFootprint]

@[simp] theorem checkCount_canonical (o : Obj) :
    (checkCount o).Canonical := by
  unfold checkCount
  split <;> simp

@[simp] theorem Op.reach_canonical (op : Op) (o : Obj) (off : Nat) (kind : AccKind) :
    (op.reach o off kind).Canonical := by
  intro s h
  unfold Op.reach
  split
  · split <;> simpa using h
  · obtain ⟨r, u, found, kept⟩ := answers (s.translateAs_mem op.privileged op.tile op.ctx ((o.base + off) % 2 ^ 52) kind)
    have hu := wf_of_mem kept h
    rw [found]
    cases r <;> simp [h, hu]

@[simp] theorem Op.readPa_canonical (op : Op) (pa n : Nat) :
    (op.readPa pa n).Canonical := by
  intro s h
  unfold Op.readPa
  dsimp only
  split <;> exact (canonicalEnd_ok ..).mpr (by simpa using h)

@[simp] theorem Op.readBytes_canonical (op : Op) (o : Obj) (off n : Nat) :
    (op.readBytes o off n).Canonical := by
  unfold Op.readBytes
  (repeat' with_reducible refine .bind ?_ fun _ => ?_) <;> simp

@[simp] theorem Op.writeBytes_canonical (op : Op) (o : Obj) (off : Nat) (bs : List Byte) :
    (op.writeBytes o off bs).Canonical := by
  unfold Op.writeBytes
  (repeat' with_reducible first
      | refine .get_bind fun s hs => ?_
      | refine .bind ?_ fun _ => ?_
      | refine .mapM (fun _ => ?_) _
      | refine .listForM (fun _ => ?_) _
      | refine .change fun s hs => ?_
      | split) <;> simp [*]

@[simp] theorem Op.readElemBytes_canonical (op : Op) (o : Obj) (off n elem : Nat) :
    (op.readElemBytes o off n elem).Canonical := by
  unfold Op.readElemBytes
  (repeat' with_reducible first | refine .bind ?_ fun _ => ?_ | split) <;> simp

@[simp] theorem Op.readElemAt_canonical (op : Op) (o : Obj) (bit elem : Nat) :
    (op.readElemAt o bit elem).Canonical := by simp [Op.readElemAt]

@[simp] theorem Op.writeElemAt_canonical (op : Op) (o : Obj) (bit v : Nat) :
    (op.writeElemAt o bit v).Canonical := by simp [Op.writeElemAt]

@[simp] theorem Op.readElem_canonical (op : Op) (o : Obj) (n : Nat) :
    (op.readElem o n).Canonical := by simp [Op.readElem]

@[simp] theorem Op.writeElem_canonical (op : Op) (o : Obj) (n v : Nat) :
    (op.writeElem o n v).Canonical := by simp [Op.writeElem]

@[simp] theorem Op.readCell_canonical (op : Op) (o : Obj) (r c : Nat) :
    (op.readCell o r c).Canonical := by simp [Op.readCell]

@[simp] theorem submit_canonical (iss : Issue) (i : Instr) (l : Lane) (no q : Nat) (objs : List Obj) (args : List Word) (bytes : Nat) :
    (submit iss i l no q objs args bytes).Canonical := by
  intro s h
  unfold submit
  split
  · simpa using h
  · rw [canonicalEnd_ok]
    exact wf_of_mem (State.addEntry_mem ..) (State.regionEnd_wf h ..)

theorem engineLane_wf (i : Instr) (iss : Issue) (no : Nat) {work : Lane → Work Unit} (hw : ∀ l, (work l).Canonical)
    {acc : Verdicts × State} (h : Memory.wf acc.2.mem = true) (l : Lane) :
    Memory.wf (engineLane i iss no work acc l).2.mem = true := by
  obtain ⟨ends, -⟩ := hw l acc.2 h
  unfold engineLane
  dsimp only
  split
  · exact h
  · split
    · exact h
    · split
      · next e => exact ends _ _ e
      all_goals simpa using h

@[simp] theorem State.eachLane_wf {s : State} (h : Memory.wf s.mem = true) (i : Instr) {work : Issue → Nat → Lane → Work Unit}
    (hw : ∀ iss no l, (work iss no l).Canonical) : Memory.wf (s.eachLane i work).mem = true := by
  refine State.issued_wf h i fun iss => ?_
  dsimp only
  split
  · simpa using h
  · simpa using foldl_snd_wf (fun r l hr => engineLane_wf i iss s.nextId (hw iss s.nextId) hr l) _
      (r := (([] : Verdicts), { s with nextId := s.nextId + 1 })) h

@[simp] theorem State.emitOp_wf {s : State} (h : Memory.wf s.mem = true) (op : Op) (kind : Nat) (payload : List Byte) :
    Memory.wf (s.emitOp op kind payload).mem = true := by simp [State.emitOp, h]

@[simp] theorem State.opWork_wf {s : State} (h : Memory.wf s.mem = true) (id : Nat) (op : Op) {w : Work Unit} (hw : w.Canonical) :
    Memory.wf (s.opWork id op w).mem = true := by
  obtain ⟨ends, stops⟩ := hw s h
  unfold State.opWork
  split
  · next e => exact ends _ _ e
  · exact h
  · simpa using h
  · next x _ _ e =>
    cases x with
    | fatal v => simpa using stops v e
    | trap c info => simpa using h
    | parked f => simpa using h
    | ecc pa => simpa using h

theorem State.withOp_wf {s : State} (h : Memory.wf s.mem = true) (id : Nat) {k : Op → State} (hk : ∀ op, Memory.wf (k op).mem = true) :
    Memory.wf (s.withOp id k).mem = true := by
  unfold State.withOp
  split
  · exact h
  · split
    · exact hk _
    · exact h

/-! ## System words and special registers -/

@[simp] theorem execNop_canonical {s : State} (h : Memory.wf s.mem = true) (f : BareForm) :
    Canonical (execNop f s) := by
  simpa only [execNop, canonical_next] using State.issued_wf h _ fun _ => by simp [h]

@[simp] theorem execExit_canonical {s : State} (h : Memory.wf s.mem = true) (f : BareForm) :
    Canonical (execExit f s) := by
  simpa only [execExit, canonical_next] using State.steer_wf h ..

@[simp] theorem execYield_canonical {s : State} (h : Memory.wf s.mem = true) (f : BareForm) :
    Canonical (execYield f s) := by
  simpa only [execYield, canonical_next] using State.issued_wf h _ fun _ => by simp [h]

@[simp] theorem State.raiseAll_wf {s : State} (h : Memory.wf s.mem = true) (i : Instr) (c : Cause) (code : Nat) :
    Memory.wf (s.raiseAll i c code).mem = true :=
  State.issued_wf h i fun _ => by simpa using h

@[simp] theorem execTrap_canonical {s : State} (h : Memory.wf s.mem = true) (f : CodeForm) :
    Canonical (execTrap f s) := by simp [execTrap, h]

@[simp] theorem execBkpt_canonical {s : State} (h : Memory.wf s.mem = true) (f : CodeForm) :
    Canonical (execBkpt f s) := by simp [execBkpt, h]

@[simp] theorem dieSetPages_canonical (tile ctx cell : Nat) (o : Obj) :
    (dieSetPages tile ctx cell o).Canonical := by
  intro s h
  unfold dieSetPages
  split
  · split <;> simp [h]
  · refine (?_ : ∀ (ps : List (Nat × Nat)) (pages : List Nat) (s : State), Memory.wf s.mem = true → CanonicalEnd (ps.foldlM _ (pages,
      s))) _ _ s h
    intro ps
    induction ps with
    | nil => intro pages s h; exact (canonicalEnd_ok _ _).mpr h
    | cons p ps ih =>
      intro pages s h
      rw [List.foldlM_cons]
      obtain ⟨r, u, found, kept⟩ := answers (s.translate_mem tile ctx ((o.base + p.1) % 2 ^ 52) .read)
      dsimp only
      rw [found]
      cases r with
      | ok pa nrd => exact ih _ _ (wf_of_mem kept h)
      | pgfault f => exact canonicalEnd_parked _
      | pgfatal => exact canonicalEnd_trap _ _

@[simp] theorem checkDield_canonical (l : Lane) :
    (checkDield l).Canonical := by
  unfold checkDield
  (repeat' with_reducible first | refine .bind ?_ fun _ => ?_ | split) <;> simp

@[simp] theorem execDield_canonical {s : State} (h : Memory.wf s.mem = true) (f : BankForm) :
    Canonical (execDield f s) := by
  rw [execDield, canonical_next]
  refine State.issued_wf h _ fun iss => ?_
  dsimp only
  split
  · exact h
  · next l0 _ _ =>
    obtain ⟨ends, stops⟩ := checkDield_canonical l0 { s with nextId := s.nextId + 1 } h
    split
    · next e => 
      refine foldl_wf (fun s l hs => ?_) _ (ends _ _ e)
      simpa using hs
    · simpa using h
    · exact foldl_wf (fun s x hs => by simpa using hs) _ h
    · simpa using h
    · simpa using h

@[simp] theorem execDieldComplete_canonical {s : State} (h : Memory.wf s.mem = true) (tid entry : Nat) :
    Canonical (execDieldComplete tid entry s) := by
  unfold execDieldComplete
  dsimp only
  (repeat' split) <;> simp +contextual [h]

@[simp] theorem execDiebank_canonical {s : State} (h : Memory.wf s.mem = true) (f : BankForm) :
    Canonical (execDiebank f s) := by
  simpa only [execDiebank, canonical_next] using State.issued_wf h _ fun _ => by simp [h]

@[simp] theorem State.flushGroup_wf {s : State} (h : Memory.wf s.mem = true) :
    Memory.wf (s.flushGroup).mem = true := foldl_wf (fun s x hs => State.drainThread_wf (State.dispatchThread_wf hs _) _) _ h

@[simp] theorem execSyncDie_canonical {s : State} (h : Memory.wf s.mem = true) (f : BareForm) :
    Canonical (execSyncDie f s) := by
  rw [execSyncDie, canonical_next]
  exact State.steer_wf (State.flushGroup_wf h) ..

@[simp] theorem execSrd_canonical {s : State} (h : Memory.wf s.mem = true) (f : SrdForm) :
    Canonical (execSrd f s) := by
  simpa only [execSrd, canonical_next] using State.issued_wf h _ fun _ => by simp [h]

@[simp] theorem execMovConst_canonical {s : State} (h : Memory.wf s.mem = true) (f : MovCForm) :
    Canonical (execMovConst f s) := by
  simpa only [execMovConst, canonical_next] using State.issued_wf h _ fun _ => by simp [h]

@[simp] theorem State.settleAccesses_wf {s : State} (h : Memory.wf s.mem = true) (tid : Nat) :
    Memory.wf (s.settleAccesses tid).mem = true := by
  unfold State.settleAccesses
  have ready : Memory.wf ((s.dispatchThread tid).drainThread tid).mem = true := by simp [h]
  dsimp only
  split
  · exact ready
  · refine foldl_wf (fun s e hs => ?_) _ ready
    have performed := execAtomicPerform_canonical hs tid e.id
    split
    · next e => exact performed _ e
    · exact hs

@[simp] theorem writeRefphase_canonical (tid v : Nat) :
    (writeRefphase tid v).Canonical := by
  intro s h
  obtain ⟨reach, hr⟩ := exists_copy State.reach
  have reached := hr ▸ State.reach_mem
  have settled := State.settleAccesses_wf h tid
  unfold writeRefphase
  rw [hr]
  generalize s.settleAccesses tid = s at settled ⊢
  dsimp only
  split
  · simpa using settled
  · next t _ =>
    obtain ⟨r, u, found, kept⟩ := answers (reached s t (v / 2 ^ 11 % 2 ^ 21 * 2 ^ 11) 1 .read)
    have hu := wf_of_mem kept settled
    rw [found]
    cases r with
    | ok pa nrd => exact (canonicalEnd_ite ..).mpr (by split <;> simp [hu])
    | fault f => simp
    | trap c info => cases c <;> simp

@[simp] theorem State.fltdone_wf {s : State} (h : Memory.wf s.mem = true) (v : Nat) :
    Memory.wf (s.fltdone v).mem = true := by
  have done := execFltdoneWrite_canonical h (BitVec.ofNat 64 v)
  unfold State.fltdone
  split
  · next e => exact done _ e
  · exact h

@[simp] theorem swrite_canonical (tid n : Nat) (half : BitVec 2) (w : Nat) : (swrite tid n half w).Canonical := by
  intro s h
  unfold swrite
  (repeat' split) <;> simp [h]
  exact writeRefphase_canonical _ _ s h

@[simp] theorem execSwr_canonical {s : State} (h : Memory.wf s.mem = true) (f : SwrForm) :
    Canonical (execSwr f s) := by simp [execSwr, h]

@[simp] theorem State.swriteOr_wf {s : State} (h : Memory.wf s.mem = true) (tid : Nat) {w : Work Unit} (hw : w.Canonical) :
    Memory.wf (s.swriteOr tid w).mem = true := by
  obtain ⟨ends, -⟩ := hw s h
  unfold State.swriteOr
  split
  · next e => exact ends _ _ e
  · simpa using h
  · exact h

@[simp] theorem execOtbaseWrite_canonical {s : State} (h : Memory.wf s.mem = true) (ctx : Nat) (count : Bool) (v : BitVec 64) :
    Canonical (execOtbaseWrite ctx count v s) := by simp [execOtbaseWrite, h]

@[simp] theorem execNbvWrite_canonical {s : State} (h : Memory.wf s.mem = true) (ctx : Nat) (v : BitVec 32) :
    Canonical (execNbvWrite ctx v s) := by simp [execNbvWrite, h]

@[simp] theorem execUtvecWrite_canonical {s : State} (h : Memory.wf s.mem = true) (tid : Nat) (v : BitVec 32) :
    Canonical (execUtvecWrite tid v s) := by simp [execUtvecWrite, h]

@[simp] theorem execFpctlWrite_canonical {s : State} (h : Memory.wf s.mem = true) (tid : Nat) (v : BitVec 32) :
    Canonical (execFpctlWrite tid v s) := by simp [execFpctlWrite, h]

@[simp] theorem execDumpctlWrite_canonical {s : State} (h : Memory.wf s.mem = true) (ctx : Nat) (v : BitVec 64) :
    Canonical (execDumpctlWrite ctx v s) := by simp [execDumpctlWrite, h]

@[simp] theorem execRefphaseWrite_canonical {s : State} (h : Memory.wf s.mem = true) (tid : Nat) (v : BitVec 32) :
    Canonical (execRefphaseWrite tid v s) := by simp [execRefphaseWrite, h]

@[simp] theorem Lane.reachObj_canonical (l : Lane) (o : Obj) (off : Nat) (kind : optParam AccKind AccKind.read) :
    (l.reachObj o off kind).Canonical := by
  intro s h
  unfold Lane.reachObj
  split
  · split <;> simp [h]
  · obtain ⟨r, u, found, kept⟩ := answers (s.translate_mem l.th.tile l.th.ctx ((o.base + off) % 2 ^ 52) kind)
    have hu := wf_of_mem kept h
    dsimp only
    rw [found]
    cases r <;> simp [hu]

@[simp] theorem Lane.checkRead_canonical (l : Lane) (o : Obj) (off n : Nat) :
    (l.checkRead o off n).Canonical := by
  refine .listForM (fun k => .bind (by simp) fun r => .get_bind fun s h => ?_) _
  obtain ⟨bad, u, found, kept⟩ := answers (s.raceCheck_mem l.th r.1 (min ((((o.base + off) / 64) + k + 1) * 64) (o.base + off + n) - max
      ((((o.base + off) / 64) + k) * 64) (o.base + off)) r.2 false false)
  rw [found]
  cases bad
  · exact .set (wf_of_mem kept h)
  · simp

@[simp] theorem Lane.readObj_canonical (l : Lane) (o : Obj) (off n : Nat) :
    (l.readObj o off n).Canonical := by
  refine .bind (.mapM (fun p => .bind (by simp) fun r => .get_bind fun s h => ?_) _) fun _ => .pure _
  exact .ite (by simp) (.bind (.set (by simpa using h)) fun _ => .pure _)

@[simp] theorem checkFtabld_canonical (l : Lane) :
    (checkFtabld l).Canonical := by
  unfold checkFtabld
  (repeat' with_reducible refine .bind ?_ fun _ => ?_) <;> simp

@[simp] theorem execFtabld_canonical {s : State} (h : Memory.wf s.mem = true) (f : FtabLdForm) :
    Canonical (execFtabld f s) := by
  rw [execFtabld, canonical_next]
  refine State.eachLane_wf h _ fun _ _ _ => ?_
  simp

@[simp] theorem execFtabldComplete_canonical {s : State} (h : Memory.wf s.mem = true) (tid entry : Nat) :
    Canonical (execFtabldComplete tid entry s) := by
  unfold execFtabldComplete
  (repeat' split) <;> simp +contextual [h]

@[simp] theorem execFtabbank_canonical {s : State} (h : Memory.wf s.mem = true) (f : FtabBankForm) :
    Canonical (execFtabbank f s) := by simp [execFtabbank, h]

@[simp] theorem execTlbinv_canonical {s : State} (h : Memory.wf s.mem = true) (f : TlbinvForm) :
    Canonical (execTlbinv f s) := by simp [execTlbinv, h]

@[simp] theorem execOtinv_canonical {s : State} (h : Memory.wf s.mem = true) (f : OtinvForm) :
    Canonical (execOtinv f s) := by simp [execOtinv, h]

/-! ## The handler and the return from a trap -/

@[simp] theorem execRqcount_canonical {s : State} (h : Memory.wf s.mem = true) (f : RegDForm) :
    Canonical (execRqcount f s) := by
  simpa only [execRqcount, canonical_next] using State.issued_wf h _ fun _ => by simp [h]

@[simp] theorem execRqread_canonical {s : State} (h : Memory.wf s.mem = true) (f : RqReadForm) :
    Canonical (execRqread f s) := by
  simpa only [execRqread, canonical_next] using State.issued_wf h _ fun _ => by simp [h]

@[simp] theorem execRqwrite_canonical {s : State} (h : Memory.wf s.mem = true) (f : RqWriteForm) :
    Canonical (execRqwrite f s) := by
  rw [execRqwrite, canonical_next]
  refine State.eachLane_wf h _ fun _ _ _ => ?_
  (repeat' with_reducible first | refine .bind ?_ fun _ => ?_ | refine .change fun s hs => ?_ | split) <;> simp [*]

@[simp] theorem execRqdrop_canonical {s : State} (h : Memory.wf s.mem = true) (f : RqDropForm) :
    Canonical (execRqdrop f s) := by simp [execRqdrop, h]

@[simp] theorem execTfill_canonical {s : State} (h : Memory.wf s.mem = true) (f : RegAForm) :
    Canonical (execTfill f s) := by
  rw [execTfill, canonical_next]
  refine State.eachLane_wf h _ fun _ _ l => ?_
  split
  · simp
  · refine .ite ?_ (.pure _)
    split
    · simp
    · exact .change fun s hs => by simpa using hs

@[simp] theorem execRte_canonical {s : State} (h : Memory.wf s.mem = true) (f : BareForm) :
    Canonical (execRte f s) := by
  simpa only [execRte, canonical_next] using State.steer_wf h ..

@[simp] theorem execRtePc_canonical {s : State} (h : Memory.wf s.mem = true) (f : RegAForm) :
    Canonical (execRtePc f s) := by
  simpa only [execRtePc, canonical_next] using State.steer_wf h ..

theorem State.reexecute_wf {s : State} (h : Memory.wf s.mem = true) {run : Instr → State → State}
    (hrun : ∀ i s, Memory.wf s.mem = true → Memory.wf (run i s).mem = true) (batch : List (Reinject × Entry)) (e : Entry) :
    Memory.wf (s.reexecute run batch e).mem = true := by
  unfold State.reexecute
  split
  · exact h
  · extract_lets u at' spots v item iss a b
    have hu : Memory.wf u.mem = true := foldl_wf (fun s x hs => by split <;> simpa using hs) batch h
    have hv : Memory.wf v.mem = true := foldl_wf (fun s x hs => by simpa using hs) batch hu
    have ha : Memory.wf a.mem = true := hrun _ _ hv
    have hb : Memory.wf b.mem = true := foldl_wf (fun s x hs => by simpa using hs) spots ha
    clear_value b
    split
    · exact hb
    · dsimp only
      split
      · exact hb
      · exact wf_of_mem (State.reinjectTrap_mem ..) hb

@[simp] theorem State.recheckBatch_wf {s : State} (h : Memory.wf s.mem = true) (batch : List (Reinject × Entry)) (e : Entry) :
    Memory.wf (s.recheckBatch batch e).mem = true := by
  obtain ⟨check, hc⟩ := exists_copy State.check
  have checked := hc ▸ State.check_mem
  unfold State.recheckBatch
  rw [hc]
  extract_lets r s
  have hr : Memory.wf r.2.mem = true := by
    refine foldl_snd_wf (fun acc x hs => ?_) batch h
    split
    · next t a _ _ =>
      obtain ⟨y, u, found, kept⟩ := answers (checked acc.2 t a)
      have hu := wf_of_mem kept hs
      rw [found]
      cases y with
      | ok r => simpa using State.beforeAccess_wf hu ..
      | parked f => simpa using hu
      | trapped c info => exact hu
      | halted => simpa using hu
    · exact hs
  clear_value r
  split
  · exact hr
  · extract_lets raised u v
    have hu : Memory.wf u.mem = true := by
      refine foldl_wf (fun s x hs => ?_) batch hr
      split
      · exact hs
      · exact ite_wf (by simpa using hs) (by simpa using hs)
    refine wf_of_mem (v.reinjectTrap_mem ..) ?_
    dsimp only [v]
    split
    · simpa using hu
    · exact hu

theorem State.reinjectStep_wf {s : State} (h : Memory.wf s.mem = true) {run : Instr → State → State}
    (hrun : ∀ i s, Memory.wf s.mem = true → Memory.wf (run i s).mem = true) : Memory.wf (s.reinjectStep run).mem = true := by
  unfold State.reinjectStep
  split
  · exact h
  · split
    · dsimp only
      split
      · exact ite_wf h (by simpa using h)
      · exact h
    · split
      · exact h
      · refine ite_wf (State.reexecute_wf ?_ hrun _ _) (ite_wf (State.recheckBatch_wf ?_ _ _) ?_) <;> exact h

/-! ## Fences, barriers and ring queues -/

@[simp] theorem State.fence_wf {s : State} (h : Memory.wf s.mem = true) (tid scope : Nat) :
    Memory.wf (s.fence tid scope).mem = true := by
  unfold State.fence
  dsimp only
  split <;> simp +contextual [h]

@[simp] theorem execFence_canonical {s : State} (h : Memory.wf s.mem = true) (f : ScopeForm) :
    Canonical (execFence f s) := by
  rw [execFence, canonical_next]
  refine State.eachLane_wf h _ fun _ _ _ => ?_
  (repeat' with_reducible first | refine .bind ?_ fun _ => ?_ | refine .change fun s hs => ?_ | split) <;> simp [*]

@[simp] theorem execQfence_canonical {s : State} (h : Memory.wf s.mem = true) (f : QfenceForm) :
    Canonical (execQfence f s) := by simp [execQfence, h]

@[simp] theorem execTfence_canonical {s : State} (h : Memory.wf s.mem = true) (f : ScopeForm) :
    Canonical (execTfence f s) := by
  rw [execTfence, canonical_next]
  refine State.eachLane_wf h _ fun _ _ _ => ?_
  (repeat' with_reducible first | refine .bind ?_ fun _ => ?_ | refine .change fun s hs => ?_ | split) <;> simp [*]

@[simp] theorem State.emitPhases_wf {s : State} (h : Memory.wf s.mem = true) (cell : Nat) (c : Cell) :
    Memory.wf (s.emitPhases cell c).mem = true := by simp +contextual [State.emitPhases, h, foldl_wf]

@[simp] theorem State.testBars_wf {s : State} (h : Memory.wf s.mem = true) (cell : Nat) :
    Memory.wf (s.testBars cell).mem = true := by
  unfold State.testBars
  split <;> simp [h]

@[simp] theorem State.countArrival_wf {s : State} (h : Memory.wf s.mem = true) (cell n : Nat) :
    Memory.wf (s.countArrival cell n).mem = true := by simp [State.countArrival, h]

@[simp] theorem State.writeBarrier_wf {s : State} (h : Memory.wf s.mem = true) (tid pa n v : Nat) :
    Memory.wf (s.writeBarrier tid pa n v).mem = true := by simp [State.writeBarrier, h]

@[simp] theorem State.emitZero_wf {s : State} {old : State} (hs : Memory.wf s.mem = true) (hold : Memory.wf old.mem = true)
    (tid ctx index pa : Nat) :
    Memory.wf (s.emitZero old tid ctx index pa).mem = true := by simp [State.emitZero, hs]

@[simp] theorem State.lowerBarrier_wf {s : State} (h : Memory.wf s.mem = true) (tid ctx index pa u : Nat) :
    Memory.wf (s.lowerBarrier tid ctx index pa u).mem = true := by simp [State.lowerBarrier, h]

@[simp] theorem State.performArrival_wf {s : State} (h : Memory.wf s.mem = true) (cell tid : Nat) (a : Arrival) :
    Memory.wf (s.performArrival cell tid a).mem = true := by
  unfold State.performArrival
  split <;> simp [h]

@[simp] theorem State.settleArrivals_wf {s : State} (h : Memory.wf s.mem = true) (tid : Nat) :
    Memory.wf (s.settleArrivals tid).mem = true := by
  unfold State.settleArrivals
  split <;> simp +contextual [h, foldl_wf]

@[simp] theorem State.arriveAfter_wf {s : State} (h : Memory.wf s.mem = true) (tid : Nat) (a : Arrival) :
    Memory.wf (s.arriveAfter tid a).mem = true := by
  unfold State.arriveAfter
  split <;> simp [h]

@[simp] theorem State.barArrive_wf {s : State} (h : Memory.wf s.mem = true) (tid n : Nat) :
    Memory.wf (s.barArrive tid n).mem = true := by
  unfold State.barArrive
  dsimp only
  split <;> simp +contextual [h]

@[simp] theorem execBarArrive_canonical {s : State} (h : Memory.wf s.mem = true) (f : BarForm) :
    Canonical (execBarArrive f s) := by
  rw [execBarArrive, canonical_next]
  refine State.eachLane_wf h _ fun _ _ _ => ?_
  (repeat' with_reducible first | refine .bind ?_ fun _ => ?_ | refine .change fun s hs => ?_ | split) <;> simp [*]

@[simp] theorem execBarWait_canonical {s : State} (h : Memory.wf s.mem = true) (f : BarForm) :
    Canonical (execBarWait f s) := by
  rw [execBarWait, canonical_next]
  refine State.eachLane_wf h _ fun _ _ _ => ?_
  (repeat' with_reducible first | refine .bind ?_ fun _ => ?_ | refine .change fun s hs => ?_ | split) <;> simp [*]

@[simp] theorem execBarSync_canonical {s : State} (h : Memory.wf s.mem = true) (f : BarForm) :
    Canonical (execBarSync f s) := by
  rw [execBarSync, canonical_next]
  refine State.eachLane_wf h _ fun _ _ _ => ?_
  (repeat' with_reducible first | refine .bind ?_ fun _ => ?_ | refine .change fun s hs => ?_ | split) <;> simp [*]

@[simp] theorem barrierOf_canonical (l : Lane) (idx rights : Nat) (kind : AccKind) :
    (barrierOf l idx rights kind).Canonical := by
  unfold barrierOf
  (repeat' with_reducible refine .bind ?_ fun _ => ?_) <;> simp

@[simp] theorem execAbarInit_canonical {s : State} (h : Memory.wf s.mem = true) (f : AbarForm) :
    Canonical (execAbarInit f s) := by
  rw [execAbarInit, canonical_next]
  refine State.eachLane_wf h _ fun _ _ _ => ?_
  (repeat' with_reducible first | refine .bind ?_ fun _ => ?_ | refine .change fun s hs => ?_ | split) <;> simp [*]

@[simp] theorem execAbarArrive_canonical {s : State} (h : Memory.wf s.mem = true) (f : AbarForm) :
    Canonical (execAbarArrive f s) := by
  rw [execAbarArrive, canonical_next]
  refine State.eachLane_wf h _ fun _ _ _ => ?_
  (repeat' with_reducible first | refine .bind ?_ fun _ => ?_ | refine .change fun s hs => ?_ | split) <;> simp [*]

@[simp] theorem readBarrier_canonical (l : Lane) (pa n : Nat) :
    (readBarrier l pa n).Canonical := by
  intro s h
  unfold readBarrier
  split <;> simp [h]

@[simp] theorem execAbarWait_canonical {s : State} (h : Memory.wf s.mem = true) (f : AbarForm) :
    Canonical (execAbarWait f s) := by
  rw [execAbarWait, canonical_next]
  refine State.eachLane_wf h _ fun _ _ _ => ?_
  (repeat' with_reducible first | refine .bind ?_ fun _ => ?_ | refine .change fun s hs => ?_ | split) <;> simp [*]

@[simp] theorem execAbarTest_canonical {s : State} (h : Memory.wf s.mem = true) (f : AbarForm) :
    Canonical (execAbarTest f s) := by
  rw [execAbarTest, canonical_next]
  refine State.eachLane_wf h _ fun _ _ _ => ?_
  (repeat' with_reducible first | refine .bind ?_ fun _ => ?_ | refine .change fun s hs => ?_ | split) <;> simp [*]

theorem State.hold_mem {s u : State} {cell : Nat} {es : List Deferral} (e : s.hold cell es = some u) : u.mem = s.mem := by
  unfold State.hold at e
  dsimp only at e
  split at e
  · cases e
  · cases e
    simp

@[simp] theorem findBarrier_canonical (ctx cell index : Nat) :
    (findBarrier ctx cell index).Canonical := by
  unfold findBarrier
  (repeat' with_reducible refine .bind ?_ fun _ => ?_) <;> simp

@[simp] theorem execAbarArrivalPerform_canonical {s : State} (h : Memory.wf s.mem = true) (ctx cell index units : Nat) :
    Canonical (execAbarArrivalPerform ctx cell index units s) := by
  have found {u v : State} (hu : Memory.wf u.mem = true) {r : Obj × Nat} (e : findBarrier ctx cell index u = .ok (r, v)) :
      Memory.wf v.mem = true := (findBarrier_canonical ctx cell index u hu).1 _ _ e
  rw [execAbarArrivalPerform, canonical_next]
  refine ite_wf ?_ ?_
  · split
    · next e => exact State.lowerBarrier_wf (found h e) ..
    · exact h
  · split
    · exact ite_wf (by simpa using h) (State.lowerBarrier_wf h ..)
    · exact h

@[simp] theorem ringOf_canonical (l : Lane) (q rights : Nat) :
    (ringOf l q rights).Canonical := by simp [ringOf]

@[simp] theorem declared_canonical (l : Lane) (first n : Nat) :
    (declared l first n).Canonical := by simp [declared]

@[simp] theorem slotPa_canonical (l : Lane) (o : Obj) (pos : Nat) (kind : AccKind) :
    (slotPa l o pos kind).Canonical := by simp [slotPa]

@[simp] theorem needFull_canonical (l : Lane) (srcs : List Src) :
    (needFull l srcs).Canonical := by
  unfold needFull
  split <;> simp

@[simp] theorem execQpush_canonical {s : State} (h : Memory.wf s.mem = true) (f : QpushForm) :
    Canonical (execQpush f s) := by
  rw [execQpush, canonical_next]
  refine State.eachLane_wf h _ fun _ _ _ => ?_
  (repeat' with_reducible first | refine .bind ?_ fun _ => ?_ | refine .change fun s hs => ?_ | split) <;> simp [*]

@[simp] theorem execQpushCommit_canonical {s : State} (h : Memory.wf s.mem = true) (queue pos : Nat) :
    Canonical (execQpushCommit queue pos s) := by
  unfold execQpushCommit
  (repeat' split) <;> simp +contextual [h]

@[simp] theorem execQpop_canonical {s : State} (h : Memory.wf s.mem = true) (f : QgetForm) :
    Canonical (execQpop f s) := by
  rw [execQpop, canonical_next]
  refine State.eachLane_wf h _ fun _ _ _ => ?_
  (repeat' with_reducible refine .bind ?_ fun _ => ?_) <;> simp

@[simp] theorem execQpopReply_canonical {s : State} (h : Memory.wf s.mem = true) (tid entry : Nat) :
    Canonical (execQpopReply tid entry s) := by
  unfold execQpopReply
  (repeat' split) <;> simp +contextual [h]

@[simp] theorem execQcount_canonical {s : State} (h : Memory.wf s.mem = true) (f : QgetForm) :
    Canonical (execQcount f s) := by
  rw [execQcount, canonical_next]
  refine State.eachLane_wf h _ fun _ _ _ => ?_
  simp

@[simp] theorem execQclose_canonical {s : State} (h : Memory.wf s.mem = true) (f : QcloseForm) :
    Canonical (execQclose f s) := by
  rw [execQclose, canonical_next]
  refine State.eachLane_wf h _ fun _ _ _ => ?_
  simp

@[simp] theorem execCvdecl_canonical {s : State} (h : Memory.wf s.mem = true) (f : CvdeclForm) :
    Canonical (execCvdecl f s) := by
  rw [execCvdecl, canonical_next]
  refine State.eachLane_wf h _ fun _ _ l => .get_bind fun s hs => ?_
  exact .ite (.pure _) (.bind (by simp) fun _ => .change fun s hs => by simpa using hs)

/-! ## The Caster -/

@[simp] theorem eachOf_canonical {α : Type} (n : Nat) {w : Nat → Work α} (hw : ∀ k, (w k).Canonical) : (eachOf n w).Canonical :=
  .mapM hw _

@[simp] theorem castWork_canonical (i : Instr) (f : CastForm) (iss : Issue) (no : Nat) (l : Lane) :
    (castWork i f iss no l).Canonical := by
  unfold castWork
  (repeat' with_reducible first | refine .bind ?_ fun _ => ?_ | split) <;> simp

@[simp] theorem execCast_canonical {s : State} (h : Memory.wf s.mem = true) (f : CastForm) :
    Canonical (execCast f s) := by simp [execCast, h]

@[simp] theorem execCastT8_canonical {s : State} (h : Memory.wf s.mem = true) (f : CastForm) :
    Canonical (execCastT8 f s) := by simp [execCastT8, h]

@[simp] theorem execCastT16_canonical {s : State} (h : Memory.wf s.mem = true) (f : CastForm) :
    Canonical (execCastT16 f s) := by simp [execCastT16, h]

@[simp] theorem Op.isRemote_canonical (op : Op) (o : Obj) (kind : AccKind) :
    (op.isRemote o kind).Canonical := by simp [Op.isRemote]

@[simp] theorem Op.copy_canonical (op : Op) (src dst : Obj) (transposed : Bool) :
    (op.copy src dst transposed).Canonical := by
  unfold Op.copy
  (repeat' with_reducible refine .bind ?_ fun _ => ?_) <;> simp

@[simp] theorem State.endCast_wf {s : State} (h : Memory.wf s.mem = true) (op : Op) (status : Nat) :
    Memory.wf (s.endCast op status).mem = true := by simp [State.endCast, h]

@[simp] theorem execCasterCopy_canonical {s : State} (h : Memory.wf s.mem = true) (id : Nat) :
    Canonical (execCasterCopy id s) := by
  rw [execCasterCopy, canonical_next]
  refine State.withOp_wf h _ fun op => ?_
  split
  case h_4 => exact h
  all_goals
    refine State.opWork_wf h _ _ (.bind (by simp) fun far => .bind (by simp) fun far' => .ite (.set h) ?_)
    refine .bind (.change fun s hs => by simp [hs]) fun _ => .get_bind fun start _ => .bind (.change fun s hs => by simp [hs]) fun _ =>
      .bind (by simp) fun _ => .change fun s hs => ?_
    have ready {t : Tile} : Memory.wf ((s.setTile op.tile t).energy op.tile op.ctx 6 op.bytes).mem = true := by simpa using hs
    have ended {c : Prop} [Decidable c] {t : Tile} {o : Op} {n : Nat} : Memory.wf (if c then
        ((s.setTile op.tile t).energy op.tile op.ctx 6 op.bytes).endCast o n else
            (s.setTile op.tile t).energy op.tile op.ctx 6 op.bytes).mem = true := ite_wf (State.endCast_wf ready ..) ready
    exact ite_wf (wf_of_mem (State.dropOp_mem ..) ended) ended

@[simp] theorem execCastBarrierArrival_canonical {s : State} (h : Memory.wf s.mem = true) (id : Nat) :
    Canonical (execCastBarrierArrival id s) := by
  rw [execCastBarrierArrival, canonical_next]
  split
  · exact h
  · next op _ =>
    refine ite_wf h ?_
    extract_lets awaited u op
    have hu : Memory.wf u.mem = true := ite_wf (State.endCast_wf h ..) h
    have arrived (bar : Obj) : Memory.wf (u.opWork id op do
        let pa ← op.reach bar 0 .write
        modify fun s =>
          let s := if op.progress / 2 = 1 then s.writeBarrier op.tid (pa + 8) 8 (op.progress % 2) else s
          (s.lowerBarrier op.tid op.ctx bar.1 pa op.bytes).dropOp id).mem = true :=
      State.opWork_wf hu _ _ (.bind (by simp) fun pa => .change fun s hs =>
        wf_of_mem (State.dropOp_mem ..) (State.lowerBarrier_wf (ite_wf (State.writeBarrier_wf hs ..) hs) ..))
    clear_value op u
    have dropped : Memory.wf (u.dropOp id).mem = true := by simpa using hu
    split
    · exact ite_wf hu (arrived _)
    · exact ite_wf hu (arrived _)
    · exact ite_wf hu (arrived _)
    · exact ite_wf dropped hu
    · exact ite_wf dropped hu
    · exact ite_wf dropped hu
    · exact hu

@[simp] theorem State.anvilLanes_wf {s : State} (h : Memory.wf s.mem = true) (i : Instr) {work : Issue → Nat → Lane → Work Unit}
    (hw : ∀ iss no l, (work iss no l).Canonical) : Memory.wf (s.anvilLanes i work).mem = true := by
  refine State.issued_wf h i fun iss => State.eachLane_wf (by simpa using h) i fun iss no l => .bind .get fun s => ?_
  exact .ite (.change fun s hs => by simpa using hs) (hw iss no l)

@[simp] theorem castwWork_canonical (i : Instr) (cb3 : Bool) (f : CastwForm) (iss : Issue) (no : Nat) (l : Lane) :
    (castwWork i cb3 f iss no l).Canonical := by
  unfold castwWork
  (repeat' with_reducible first | refine .bind ?_ fun _ => ?_ | split) <;> simp

@[simp] theorem execCastw_canonical {s : State} (h : Memory.wf s.mem = true) (f : CastwForm) :
    Canonical (execCastw f s) := by simp [execCastw, h]

@[simp] theorem execCastwCb3_canonical {s : State} (h : Memory.wf s.mem = true) (f : CastwForm) :
    Canonical (execCastwCb3 f s) := by simp [execCastwCb3, h]

@[simp] theorem Op.readRun_canonical (op : Op) (o : Obj) (off n : Nat) :
    (op.readRun o off n).Canonical := by simp [Op.readRun]

@[simp] theorem Op.weightData_canonical (op : Op) (src : Obj) (cb3 : Bool) (cols : Nat) :
    (op.weightData src cb3 cols).Canonical := by
  refine .ite (.bind (by simp) fun _ => .pure _) (.bind (eachOf_canonical _ fun c => ?_) fun _ => .pure _)
  exact .bind (eachOf_canonical _ fun k => by simp) fun _ => .pure _

@[simp] theorem execCastwPerform_canonical {s : State} (h : Memory.wf s.mem = true) (id : Nat) :
    Canonical (execCastwPerform id s) := by
  rw [execCastwPerform, canonical_next]
  refine State.withOp_wf h _ fun op => ?_
  (repeat' with_reducible first
      | refine State.opWork_wf h _ _ ?_
      | refine .bind ?_ fun _ => ?_
      | refine .change fun s hs => ?_
      | split) <;> simp [*]

@[simp] theorem casttabWork_canonical (f : CasttabForm) (iss : Issue) (no : Nat) (l : Lane) :
    (casttabWork f iss no l).Canonical := by
  unfold casttabWork
  (repeat' with_reducible refine .bind ?_ fun _ => ?_) <;> simp

@[simp] theorem execCasttab_canonical {s : State} (h : Memory.wf s.mem = true) (f : CasttabForm) :
    Canonical (execCasttab f s) := by simp [execCasttab, h]

@[simp] theorem execCasttabPerform_canonical {s : State} (h : Memory.wf s.mem = true) (id : Nat) :
    Canonical (execCasttabPerform id s) := by
  rw [execCasttabPerform, canonical_next]
  refine State.withOp_wf h _ fun op => ?_
  (repeat' with_reducible first
      | refine State.opWork_wf h _ _ ?_
      | refine .bind ?_ fun _ => ?_
      | refine .change fun s hs => ?_
      | split) <;> simp [*]

/-! ## The Anvil -/

@[simp] theorem maySign_canonical (i : Instr) (l : Lane) :
    (maySign i l).Canonical := by
  unfold maySign
  dsimp only
  (repeat' with_reducible first | refine .bind ?_ fun _ => ?_ | split) <;> simp

@[simp] theorem sign_canonical (i : Instr) (iss : Issue) (no : Nat) (l : Lane) (objs : List Obj) (args : List Word) :
    (sign i iss no l objs args).Canonical := by simp [sign]

@[simp] theorem State.beginSet_wf {s : State} (h : Memory.wf s.mem = true) (op : Op) :
    Memory.wf (s.beginSet op).mem = true := by simp [State.beginSet, h]

@[simp] theorem State.endSet_wf {s : State} (h : Memory.wf s.mem = true) (op : Op) :
    Memory.wf (s.endSet op).mem = true := by simp [State.endSet, h]

theorem State.withSet_wf {s : State} (h : Memory.wf s.mem = true) (id : Nat) {k : Op → State} (hk : ∀ op, Memory.wf (k op).mem = true) :
    Memory.wf (s.withSet id k).mem = true :=
  State.withOp_wf h id fun op => by split <;> simp [h, hk]

@[simp] theorem Op.tileRows_canonical (op : Op) (o : Obj) (r0 rows c0 cols : Nat) :
    (op.tileRows o r0 rows c0 cols).Canonical := by simp [Op.tileRows]

@[simp] theorem mmaWork_canonical (i : Instr) (a : Nat) (scales : Bool) (iss : Issue) (no : Nat) (l : Lane) :
    (mmaWork i a scales iss no l).Canonical := by
  unfold mmaWork
  (repeat' with_reducible first
      | refine .get_bind fun s hs => ?_
      | refine .bind ?_ fun _ => ?_
      | refine .mapM (fun _ => ?_) _
      | refine .listForM (fun _ => ?_) _
      | refine .change fun s hs => ?_
      | split) <;> simp

@[simp] theorem execMma_canonical {s : State} (h : Memory.wf s.mem = true) (f : MmaForm) :
    Canonical (execMma f s) := by simp [execMma, h]

@[simp] theorem execMmas_canonical {s : State} (h : Memory.wf s.mem = true) (f : MmasForm) :
    Canonical (execMmas f s) := by simp [execMmas, h]

@[simp] theorem execBlockExpand_canonical {s : State} (h : Memory.wf s.mem = true) (id block : Nat) :
    Canonical (execBlockExpand id block s) := by
  rw [execBlockExpand, canonical_next]
  refine State.withSet_wf h _ fun op => ?_
  dsimp only
  (repeat' with_reducible first | refine State.opWork_wf h _ _ ?_ | refine .bind ?_ fun _ => ?_ | split) <;> simp [h]

@[simp] theorem Op.bColumns_canonical (op : Op) (p : MmaParts) (b : Nat) :
    (op.bColumns p b).Canonical := by
  unfold Op.bColumns
  (repeat' with_reducible first | refine .bind ?_ fun _ => ?_ | refine .change fun s hs => ?_ | split) <;> simp [*]

@[simp] theorem Op.scaleOf_canonical (op : Op) (p : MmaParts) (b : Nat) :
    (op.scaleOf p b).Canonical := by
  unfold Op.scaleOf
  (repeat' with_reducible first
      | refine .get_bind fun s hs => ?_
      | refine .bind ?_ fun _ => ?_
      | refine .mapM (fun _ => ?_) _
      | refine .listForM (fun _ => ?_) _
      | refine .change fun s hs => ?_
      | split) <;> simp

@[simp] theorem execMmaPerform_canonical {s : State} (h : Memory.wf s.mem = true) (id : Nat) :
    Canonical (execMmaPerform id s) := by
  rw [execMmaPerform, canonical_next]
  refine State.withSet_wf h _ fun op => ?_
  dsimp only
  (repeat' with_reducible first
      | refine State.opWork_wf h _ _ ?_
      | refine .get_bind fun s hs => ?_
      | refine .bind ?_ fun _ => ?_
      | refine .mapM (fun _ => ?_) _
      | refine .listForM (fun _ => ?_) _
      | refine .change fun s hs => ?_
      | split) <;> simp [*]

@[simp] theorem execAccz_canonical {s : State} (h : Memory.wf s.mem = true) (f : AccForm) :
    Canonical (execAccz f s) := by simp [execAccz, h]

@[simp] theorem execAcczPerform_canonical {s : State} (h : Memory.wf s.mem = true) (id : Nat) :
    Canonical (execAcczPerform id s) := by
  rw [execAcczPerform, canonical_next]
  refine State.withSet_wf h _ fun op => ?_
  (repeat' with_reducible first | refine State.opWork_wf h _ _ ?_ | refine .bind ?_ fun _ => ?_ | split) <;> simp [h]

@[simp] theorem accWork_canonical (i : Instr) (idx rights : Nat) (ok : Obj → Bool) (iss : Issue) (no : Nat) (l : Lane) :
    (accWork i idx rights ok iss no l).Canonical := by
  unfold accWork
  (repeat' with_reducible first | refine .get_bind fun s hs => ?_ | refine .bind ?_ fun _ => ?_ | refine .mapM (fun _ => ?_) _ |
      refine .listForM (fun _ => ?_) _ | refine .change fun s hs => ?_ | split) <;> simp [*]

@[simp] theorem execAccld_canonical {s : State} (h : Memory.wf s.mem = true) (f : AccObjForm) :
    Canonical (execAccld f s) := by
  rw [execAccld, canonical_next]
  refine State.anvilLanes_wf h _ fun _ _ _ => ?_
  simp

@[simp] theorem execAccldPerform_canonical {s : State} (h : Memory.wf s.mem = true) (id : Nat) :
    Canonical (execAccldPerform id s) := by
  rw [execAccldPerform, canonical_next]
  refine State.withSet_wf h _ fun op => ?_
  (repeat' with_reducible first
      | refine State.opWork_wf h _ _ ?_
      | refine .bind ?_ fun _ => ?_
      | refine .change fun s hs => ?_
      | split) <;> simp [*]

@[simp] theorem execAccst_canonical {s : State} (h : Memory.wf s.mem = true) (f : AccstForm) :
    Canonical (execAccst f s) := by
  rw [execAccst, canonical_next]
  refine State.anvilLanes_wf h _ fun _ _ _ => ?_
  simp

@[simp] theorem execAccstAdd_canonical {s : State} (h : Memory.wf s.mem = true) (f : AccstForm) :
    Canonical (execAccstAdd f s) := by
  rw [execAccstAdd, canonical_next]
  refine State.anvilLanes_wf h _ fun _ _ _ => ?_
  simp

@[simp] theorem Op.drain_canonical (op : Op) (m : Nat) (c : ElemClass) (add : Bool) (o : Obj) (moves : List (Nat × Nat)) :
    (op.drain m c add o moves).Canonical := by
  unfold Op.drain
  (repeat' with_reducible first
      | refine .get_bind fun s hs => ?_
      | refine .bind ?_ fun _ => ?_
      | refine .mapM (fun _ => ?_) _
      | refine .listForM (fun _ => ?_) _
      | refine .change fun s hs => ?_
      | split) <;> simp [hs]

@[simp] theorem State.drainTile_wf {s : State} (h : Memory.wf s.mem = true) (id : Nat) (op : Op) (m : Nat) (k : BitVec 2) (add : Bool)
    (o : Obj) :
    Memory.wf (s.drainTile id op m k add o).mem = true := State.opWork_wf h _ _ (.bind (.change fun s hs => by simp [hs]) fun _ => .bind
        (by simp) fun _ => .change fun s hs => by simp [hs])

@[simp] theorem execAccstPerform_canonical {s : State} (h : Memory.wf s.mem = true) (id : Nat) :
    Canonical (execAccstPerform id s) := by
  rw [execAccstPerform, canonical_next]
  refine State.withSet_wf h _ fun op => ?_
  (repeat' with_reducible first | refine State.opWork_wf h _ _ ?_ | refine .bind ?_ fun _ => ?_ | split) <;> simp [h]

@[simp] theorem execAccstAddPerform_canonical {s : State} (h : Memory.wf s.mem = true) (id : Nat) :
    Canonical (execAccstAddPerform id s) := by
  rw [execAccstAddPerform, canonical_next]
  refine State.withSet_wf h _ fun op => ?_
  (repeat' with_reducible first | refine State.opWork_wf h _ _ ?_ | refine .bind ?_ fun _ => ?_ | split) <;> simp [h]

@[simp] theorem execAccrd_canonical {s : State} (h : Memory.wf s.mem = true) (f : AccrdForm) :
    Canonical (execAccrd f s) := by simp [execAccrd, h]

@[simp] theorem execAccrdPerform_canonical {s : State} (h : Memory.wf s.mem = true) (id : Nat) :
    Canonical (execAccrdPerform id s) := by
  rw [execAccrdPerform, canonical_next]
  refine State.withSet_wf h _ fun op => ?_
  (repeat' with_reducible first | refine State.opWork_wf h _ _ ?_ | refine .bind ?_ fun _ => ?_ | split) <;> simp [h]

@[simp] theorem mseqWork_canonical (f : AccObjForm) (iss : Issue) (no : Nat) (l : Lane) :
    (mseqWork f iss no l).Canonical := by
  unfold mseqWork
  (repeat' with_reducible first
      | refine .get_bind fun s hs => ?_
      | refine .bind ?_ fun _ => ?_
      | refine .mapM (fun _ => ?_) _
      | refine .listForM (fun _ => ?_) _
      | refine .change fun s hs => ?_
      | split) <;> simp

@[simp] theorem execMseq_canonical {s : State} (h : Memory.wf s.mem = true) (f : AccObjForm) :
    Canonical (execMseq f s) := by simp [execMseq, h]

@[simp] theorem Op.stage_canonical (op : Op) (o : Obj) (rows : List (List Nat)) :
    (op.stage o rows).Canonical := by simp [Op.stage]

@[simp] theorem Op.mseqEnd_canonical (op : Op) (sh : MseqShape) (c : Obj) (bar : List Obj) :
    (op.mseqEnd sh c bar).Canonical := by
  unfold Op.mseqEnd
  (repeat' with_reducible first
      | refine .get_bind fun s hs => ?_
      | refine .bind ?_ fun _ => ?_
      | refine .mapM (fun _ => ?_) _
      | refine .listForM (fun _ => ?_) _
      | refine .change fun s hs => ?_
      | split) <;> simp [*]

@[simp] theorem Op.mseqBlock_canonical (op : Op) (id m : Nat) (sh : MseqShape) (a b c sa sb : Obj) (bar : List Obj) (add : Bool) :
    (op.mseqBlock id m sh a b c sa sb bar add).Canonical := by
  unfold Op.mseqBlock
  dsimp only
  (repeat' with_reducible first
      | refine .get_bind fun s hs => ?_
      | refine .bind ?_ fun _ => ?_
      | refine .mapM (fun _ => ?_) _
      | refine .listForM (fun _ => ?_) _
      | refine .change fun s hs => ?_
      | split) <;> simp [*]

@[simp] theorem execMseqPerform_canonical {s : State} (h : Memory.wf s.mem = true) (id : Nat) :
    Canonical (execMseqPerform id s) := by
  rw [execMseqPerform, canonical_next]
  refine State.withSet_wf h _ fun op => ?_
  (repeat' with_reducible first | refine State.opWork_wf h _ _ ?_ | refine .bind ?_ fun _ => ?_ | split) <;> simp [h]

/-! ## Witness reductions -/

@[simp] theorem Op.readWitness_canonical (op : Op) (o : Obj) (n : Nat) :
    (op.readWitness o n).Canonical := by simp [Op.readWitness]

@[simp] theorem Op.writeWitness_canonical (op : Op) (o : Obj) (n v : Nat) :
    (op.writeWitness o n v).Canonical := by simp [Op.writeWitness]

@[simp] theorem writeGeneration_canonical (l : Lane) (idx v : Nat) :
    (writeGeneration l idx v).Canonical := by
  intro s h
  unfold writeGeneration
  split
  · simpa using h
  · next c _ =>
    dsimp only
    obtain ⟨r, u, found, kept⟩ := answers (s.translateAs_mem true l.th.tile l.th.ctx ((c.entryVa idx + 0x18) % 2 ^ 52) .write)
    have hu := wf_of_mem kept h
    rw [found]
    cases r with
    | ok pa nrd => exact (canonicalEnd_ok ..).mpr (State.perform_wf hu ..)
    | pgfault f => simp
    | pgfatal => simp

@[simp] theorem reduceWork_canonical (i : Instr) (op : RedOp) (f : Red1Form) (iss : Issue) (no : Nat) (l : Lane) :
    (reduceWork i op f iss no l).Canonical := by
  unfold reduceWork
  (repeat' with_reducible first | refine .bind ?_ fun _ => ?_ | split) <;> simp

@[simp] theorem execRmaxW_canonical {s : State} (h : Memory.wf s.mem = true) (f : Red1Form) :
    Canonical (execRmaxW f s) := by simp [execRmaxW, h]

@[simp] theorem execRminW_canonical {s : State} (h : Memory.wf s.mem = true) (f : Red1Form) :
    Canonical (execRminW f s) := by simp [execRminW, h]

@[simp] theorem execRmedW_canonical {s : State} (h : Memory.wf s.mem = true) (f : Red1Form) :
    Canonical (execRmedW f s) := by simp [execRmedW, h]

@[simp] theorem execRclampW_canonical {s : State} (h : Memory.wf s.mem = true) (f : Red1Form) :
    Canonical (execRclampW f s) := by simp [execRclampW, h]

@[simp] theorem execRssumW_canonical {s : State} (h : Memory.wf s.mem = true) (f : Red1Form) :
    Canonical (execRssumW f s) := by simp [execRssumW, h]

@[simp] theorem Op.reduce_canonical (op : Op) (r : RedOp) (wit res src : Obj) :
    (op.reduce r wit res src).Canonical := by
  unfold Op.reduce
  split
  · simp
  · refine .bind (eachOf_canonical _ fun e => .bind (eachOf_canonical _ fun k => by simp) fun _ => .pure _) fun outs => ?_
    exact .bind (.listForM (fun x => .bind (by simp) fun _ => by simp) _) fun _ => .change fun s hs => by simpa using hs

@[simp] theorem State.performReduction_wf {s : State} (h : Memory.wf s.mem = true) (id : Nat) (kinds : List RedOp) :
    Memory.wf (s.performReduction id kinds).mem = true := by
  refine State.withOp_wf h _ fun op => ?_
  split
  · exact ite_wf (State.opWork_wf h _ _ (.bind (by simp) fun _ => .change fun s hs => by simpa using hs)) h
  · exact h

@[simp] theorem execTileReductionPerform_canonical {s : State} (h : Memory.wf s.mem = true) (id : Nat) :
    Canonical (execTileReductionPerform id s) := by simp [execTileReductionPerform, h]

@[simp] theorem execClampSumPerform_canonical {s : State} (h : Memory.wf s.mem = true) (id : Nat) :
    Canonical (execClampSumPerform id s) := by simp [execClampSumPerform, h]

@[simp] theorem wrelWork_canonical (f : Obj1Form) (x : Issue) (x1 : Nat) (l : Lane) :
    (wrelWork f x x1 l).Canonical := by
  unfold wrelWork
  (repeat' with_reducible first | refine .bind ?_ fun _ => ?_ | refine .change fun s hs => ?_ | split) <;> simp [*]

@[simp] theorem execWrel_canonical {s : State} (h : Memory.wf s.mem = true) (f : Obj1Form) :
    Canonical (execWrel f s) := by simp [execWrel, h]

@[simp] theorem adjbWork_canonical (f : Red1Form) (iss : Issue) (no : Nat) (l : Lane) :
    (adjbWork f iss no l).Canonical := by
  unfold adjbWork
  dsimp only
  split
  · simp
  · (repeat' first
      | with_reducible first
        | refine .get_bind fun s hs => ?_
        | refine .bind ?_ fun _ => ?_
        | refine .listForM (fun _ => ?_) _
        | exact .stopped (readEntry_canonical _ _ _) (by assumption) (by assumption)
        | split
      | exact .resumed (readEntry_canonical _ _ _) (by assumption) (by assumption)) <;> simp

@[simp] theorem execAdjb_canonical {s : State} (h : Memory.wf s.mem = true) (f : Red1Form) :
    Canonical (execAdjb f s) := by simp [execAdjb, h]

@[simp] theorem Op.addInto_canonical (op : Op) (o : Obj) (r c q : Nat) :
    (op.addInto o r c q).Canonical := by simp [Op.addInto]

@[simp] theorem Op.route_canonical (op : Op) (d : Window) (wit grad input : Obj) (bnd : List Obj) (e : Nat) :
    (op.route d wit grad input bnd e).Canonical := by
  unfold Op.route
  (repeat' with_reducible refine .bind ?_ fun _ => ?_) <;> simp

@[simp] theorem execAdjbPerform_canonical {s : State} (h : Memory.wf s.mem = true) (id : Nat) :
    Canonical (execAdjbPerform id s) := by
  rw [execAdjbPerform, canonical_next]
  refine State.withOp_wf h _ fun op => ?_
  (repeat' with_reducible first | refine State.opWork_wf h _ _ ?_ | refine .bind ?_ fun _ => ?_ | split) <;> simp [h]

@[simp] theorem crWork_canonical (i : Instr) (f : RedCrForm) (bounded : Bool) (iss : Issue) (no : Nat) (l : Lane) :
    (crWork i f bounded iss no l).Canonical := by simp [crWork]

@[simp] theorem execRmaxWCr_canonical {s : State} (h : Memory.wf s.mem = true) (f : RedCrForm) :
    Canonical (execRmaxWCr f s) := by simp [execRmaxWCr, h]

@[simp] theorem execRminWCr_canonical {s : State} (h : Memory.wf s.mem = true) (f : RedCrForm) :
    Canonical (execRminWCr f s) := by simp [execRminWCr, h]

@[simp] theorem execRmedWCr_canonical {s : State} (h : Memory.wf s.mem = true) (f : RedCrForm) :
    Canonical (execRmedWCr f s) := by simp [execRmedWCr, h]

@[simp] theorem execRclampWCr_canonical {s : State} (h : Memory.wf s.mem = true) (f : RedCrForm) :
    Canonical (execRclampWCr f s) := by simp [execRclampWCr, h]

@[simp] theorem execRssumWCr_canonical {s : State} (h : Memory.wf s.mem = true) (f : RedCrForm) :
    Canonical (execRssumWCr f s) := by simp [execRssumWCr, h]

@[simp] theorem execCrSetReduction_canonical {s : State} (h : Memory.wf s.mem = true) (id : Nat) :
    Canonical (execCrSetReduction id s) := by
  rw [execCrSetReduction, canonical_next]
  refine State.withSet_wf h _ fun op => ?_
  (repeat' with_reducible first | refine State.opWork_wf h _ _ ?_ | refine .bind ?_ fun _ => ?_ | split) <;> simp [h]

/-! ## Traversal, texture, rasteriser and film -/

@[simp] theorem Op.unitBytes_canonical (op : Op) (o : Obj) (off n : Nat) :
    (op.unitBytes o off n).Canonical := by
  unfold Op.unitBytes
  (repeat' with_reducible refine .bind ?_ fun _ => ?_) <;> simp

@[simp] theorem Op.update_canonical (op : Op) (o : Obj) (off : Nat) (bs : List Byte) :
    (op.update o off bs).Canonical := by
  unfold Op.update
  (repeat' with_reducible first | refine .bind ?_ fun _ => ?_ | refine .change fun s hs => ?_ | split) <;> simp [*]

@[simp] theorem Lane.checkUpdate_canonical (l : Lane) (o : Obj) (off n : Nat) (asWrite : Bool) :
    (l.checkUpdate o off n asWrite).Canonical := by
  refine .bind (by simp) fun r => .get_bind fun s h => ?_
  obtain ⟨bad, u, found, kept⟩ := answers (s.raceCheck_mem l.th r.1 n r.2 asWrite true)
  rw [found]
  cases bad
  · exact .set (wf_of_mem kept h)
  · simp

@[simp] theorem traceWork_canonical (i : Instr) (f : TraceForm) (iss : Issue) (no : Nat) (l : Lane) :
    (traceWork i f iss no l).Canonical := by
  unfold traceWork
  (repeat' with_reducible refine .bind ?_ fun _ => ?_) <;> simp

@[simp] theorem execTrace_canonical {s : State} (h : Memory.wf s.mem = true) (f : TraceForm) :
    Canonical (execTrace f s) := by simp [execTrace, h]

@[simp] theorem execTracea_canonical {s : State} (h : Memory.wf s.mem = true) (f : TraceForm) :
    Canonical (execTracea f s) := by simp [execTracea, h]

@[simp] theorem Op.nodeRead_canonical (op : Op) (buf : Obj) (off n : Nat) :
    (op.nodeRead buf off n).Canonical := by
  unfold Op.nodeRead
  (repeat' with_reducible first | refine .bind ?_ fun _ => ?_ | split) <;> simp

@[simp] theorem unitReply_canonical (id : Nat) (ws : List Nat) :
    (unitReply id ws).Canonical := by simp [unitReply]

section
variable {rd : NodeReader Work} (hrd : ∀ off n, (rd off n).Canonical)
include hrd

theorem walkLeaf_canonical (ray : Ray) (any : Bool) (n off : Nat) (b : Best) : (walkLeaf rd ray any n off b).Canonical := by
  induction n generalizing off b with
  | zero => exact .pure _
  | succ n ih =>
    rw [walkLeaf]
    refine .bind (hrd off 48) fun x => ?_
    cases x with
    | none => exact .pure _
    | some x =>
      refine .ite (.pure _) ?_
      dsimp only
      split
      · exact .ite (.pure _) (.ite (ih _ _) (ih _ _))
      · exact ih _ _

theorem walk_canonical (ray : Ray) (any : Bool) (fuel visits : Nat) (todo : List Pending) (b : Best) :
    (walk rd ray any fuel visits todo b).Canonical := by
  induction fuel generalizing visits todo b with
  | zero => exact .pure _
  | succ fuel ih =>
    cases todo with
    | nil =>
      rw [walk]
      · exact .pure _
      · nofun
    | cons p rest =>
      rw [walk]
      refine .ite (ih _ _ _) (.ite (.ite (.pure _) (.bind (walkLeaf_canonical hrd _ _ _ _ _) fun x => ?_)) (.ite (.pure _) (.bind
          (hrd _ _) fun x => ?_)))
      · split
        · exact .pure _
        · exact .pure _
        · exact ih _ _ _
      · split
        · exact .pure _
        · split
          · exact .pure _
          · exact ih _ _ _

theorem traceRay_canonical (any : Bool) (ray : Ray) : (traceRay rd any ray).Canonical := .ite (.pure _) (walk_canonical hrd _ _ _ _ _ _)

end

@[simp] theorem execTraceWalk_canonical {s : State} (h : Memory.wf s.mem = true) (id : Nat) : Canonical (execTraceWalk id s) := by
  rw [execTraceWalk, canonical_next]
  refine State.withOp_wf h _ fun op => ?_
  have walked (any : Bool) (b n : Obj) : Memory.wf (s.opWork id op do
      let r ← traceRay (fun off k => op.nodeRead n off k) any (rayOf (op.args.map BitVec.toNat))
      unitReply id (r.words (Obj.hierInst b))).mem = true :=
    State.opWork_wf h _ _ (.bind (traceRay_canonical (fun off k => by simp) _ _) fun r => by simp)
  dsimp only
  split
  · exact walked ..
  · exact walked ..
  · exact h

@[simp] theorem stexWork_canonical (i : Instr) (f : StexForm) (shape : Obj → Bool) (iss : Issue) (no : Nat) (l : Lane) :
    (stexWork i f shape iss no l).Canonical := by
  unfold stexWork
  (repeat' with_reducible first | refine .get_bind fun s hs => ?_ | refine .bind ?_ fun _ => ?_ | refine .mapM (fun _ => ?_) _ |
      refine .listForM (fun _ => ?_) _ | refine .change fun s hs => ?_ | split) <;> simp [*]

@[simp] theorem execStex_canonical {s : State} (h : Memory.wf s.mem = true) (f : StexForm) :
    Canonical (execStex f s) := by
  rw [execStex, canonical_next]
  refine State.eachLane_wf h _ fun _ _ _ => ?_
  simp

@[simp] theorem execStexup_canonical {s : State} (h : Memory.wf s.mem = true) (f : StexForm) :
    Canonical (execStexup f s) := by
  rw [execStexup, canonical_next]
  refine State.eachLane_wf h _ fun _ _ _ => ?_
  simp

@[simp] theorem execScmf_canonical {s : State} (h : Memory.wf s.mem = true) (f : StexForm) :
    Canonical (execScmf f s) := by
  rw [execScmf, canonical_next]
  refine State.eachLane_wf h _ fun _ _ _ => ?_
  simp

@[simp] theorem Op.sample_canonical (op : Op) (t buf : Obj) (x y l k : Nat) :
    (op.sample t buf x y l k).Canonical := by simp [Op.sample]

@[simp] theorem State.fetchOp_wf {s : State} (h : Memory.wf s.mem = true) (id : Nat) (op : Op) {lanes : Work (List Nat)}
    (hl : lanes.Canonical) :
    Memory.wf (s.fetchOp id op lanes).mem = true :=
  State.opWork_wf h _ _ (.bind hl fun _ => .bind (.change fun s hs => by simpa using hs) fun _ => by simp)

section
variable {T : Spectrum} {S : Sampler Work}

theorem lerp3_canonical {A : Bool → Bool → Bool → Work Nat} (hA : ∀ i j k, (A i j k).Canonical) (fx fy fl : FVal) :
    (lerp3 A fx fy fl).Canonical := by
  have layer (k : Bool) {β : Type} {g : Nat → Nat → Nat → Nat → Work β} (hg : ∀ a b c d, (g a b c d).Canonical) :
      (do let a ← A false false k; let b ← A true false k; let c ← A false true k; let d ← A true true k; g a b c d
        : Work β).Canonical :=
    .bind (hA _ _ _) fun _ => .bind (hA _ _ _) fun _ => .bind (hA _ _ _) fun _ => .bind (hA _ _ _) fun _ => hg _ _ _ _
  exact .bind (layer false fun _ _ _ _ => .pure _) fun _ => .bind (layer true fun _ _ _ _ => .pure _) fun _ => .pure _

theorem Spectrum.at_canonical {A : Nat → Work Nat} (hA : ∀ i, (A i).Canonical) (lam : Nat) : (T.at A lam).Canonical :=
  .ite (.pure _) (.ite (.ite (.pure _) (hA _)) (.ite (.ite (.pure _) (hA _)) (.ite (hA _)
    (.bind (hA _) fun _ => .bind (hA _) fun _ => .pure _))))

variable (hS : ∀ x y l k, (S x y l k).Canonical)
include hS

theorem Spectrum.fetch_canonical (u v l lam : Nat) : (T.fetch S u v l lam).Canonical :=
  .ite (T.at_canonical (fun _ => .pure _) lam) (T.at_canonical (fun i => lerp3_canonical (fun _ _ _ => hS _ _ _ i) _ _ _) lam)

theorem stexLanes_canonical (a b : List Nat) : (stexLanes T S a b).Canonical :=
  .mapM (fun _ => Spectrum.fetch_canonical hS _ _ _ _) _

theorem stexupLanes_canonical (a b : List Nat) : (stexupLanes T S a b).Canonical := by
  have channel {r g c : Nat × Nat} (j : Nat) : (lerp3 (fun x y z => S (r.1 + x.toNat) (g.1 + y.toNat) (c.1 + z.toNat) j)
      (Fmt.fp32.val r.2) (Fmt.fp32.val g.2) (Fmt.fp32.val c.2)).Canonical := lerp3_canonical (fun _ _ _ => hS _ _ _ j) _ _ _
  exact .bind (channel 0) fun _ => .bind (channel 1) fun _ => .bind (channel 2) fun _ => .pure _

theorem scmfLanes_canonical (a b : List Nat) : (scmfLanes T S a b).Canonical :=
  .bind (.mapM (fun _ => .bind (.mapM (fun _ => Spectrum.fetch_canonical hS _ _ _ _) _) fun _ => .pure _) _) fun _ => .pure _

end

@[simp] theorem execSpectralFetch_canonical {s : State} (h : Memory.wf s.mem = true) (id : Nat) :
    Canonical (execSpectralFetch id s) := by
  rw [execSpectralFetch, canonical_next]
  refine State.withOp_wf h _ fun op => ?_
  split
  · exact State.fetchOp_wf h _ _ (stexLanes_canonical (by simp) _ _)
  · exact h

@[simp] theorem execRgbUpsampleFetch_canonical {s : State} (h : Memory.wf s.mem = true) (id : Nat) :
    Canonical (execRgbUpsampleFetch id s) := by
  rw [execRgbUpsampleFetch, canonical_next]
  refine State.withOp_wf h _ fun op => ?_
  split
  · exact State.fetchOp_wf h _ _ (stexupLanes_canonical (by simp) _ _)
  · exact h

@[simp] theorem execCmfProjectFetch_canonical {s : State} (h : Memory.wf s.mem = true) (id : Nat) :
    Canonical (execCmfProjectFetch id s) := by
  rw [execCmfProjectFetch, canonical_next]
  refine State.withOp_wf h _ fun op => ?_
  split
  · exact State.fetchOp_wf h _ _ (scmfLanes_canonical (by simp) _ _)
  · exact h

@[simp] theorem filmOf_canonical (l : Lane) (idx rights : Nat) :
    (filmOf l idx rights).Canonical := by
  unfold filmOf
  (repeat' with_reducible refine .bind ?_ fun _ => ?_) <;> simp

@[simp] theorem filmAddWork_canonical (f : FilmAddForm) (iss : Issue) (no : Nat) (l : Lane) :
    (filmAddWork f iss no l).Canonical := by
  unfold filmAddWork
  (repeat' with_reducible refine .bind ?_ fun _ => ?_) <;> simp

@[simp] theorem execFilmAdd_canonical {s : State} (h : Memory.wf s.mem = true) (f : FilmAddForm) :
    Canonical (execFilmAdd f s) := by simp [execFilmAdd, h]

@[simp] theorem Op.deposit_canonical (op : Op) (o : Obj) :
    (op.deposit o).Canonical := by
  unfold Op.deposit
  (repeat' with_reducible refine .bind ?_ fun _ => ?_) <;> simp

@[simp] theorem State.filmOut_wf {s : State} (h : Memory.wf s.mem = true) (token id : Nat) (x : Image) (op : Op) :
    Memory.wf (s.filmOut token id x op).mem = true := by
  unfold State.filmOut
  split
  · next o _ _ =>
    extract_lets left
    have hl : Memory.wf left.mem = true := h
    refine ite_wf h (ite_wf ?_ (by simpa using hl))
    split
    · next e => exact (Op.deposit_canonical op o).ends hl e
    · exact h
  · exact h

@[simp] theorem execFilmAddPerform_canonical {s : State} (h : Memory.wf s.mem = true) (id : Nat) :
    Canonical (execFilmAddPerform id s) := by
  rw [execFilmAddPerform, canonical_next]
  split
  · simp [h]
  · refine State.withOp_wf h _ fun op => ?_
    split
    · exact State.opWork_wf h _ _ (.bind (by simp) fun _ => .change fun s hs => by simpa using hs)
    · exact h

@[simp] theorem filmRdWork_canonical (f : Film3Form) (iss : Issue) (no : Nat) (l : Lane) :
    (filmRdWork f iss no l).Canonical := by
  unfold filmRdWork
  (repeat' with_reducible refine .bind ?_ fun _ => ?_) <;> simp

@[simp] theorem execFilmRd_canonical {s : State} (h : Memory.wf s.mem = true) (f : Film3Form) :
    Canonical (execFilmRd f s) := by simp [execFilmRd, h]

@[simp] theorem execFilmRdPerform_canonical {s : State} (h : Memory.wf s.mem = true) (id : Nat) :
    Canonical (execFilmRdPerform id s) := by
  rw [execFilmRdPerform, canonical_next]
  refine State.withOp_wf h _ fun op => ?_
  (repeat' with_reducible first | refine State.opWork_wf h _ _ ?_ | refine .bind ?_ fun _ => ?_ | split) <;> simp [h]

@[simp] theorem visOf_canonical (l : Lane) (idx rights : Nat) :
    (visOf l idx rights).Canonical := by
  unfold visOf
  (repeat' with_reducible refine .bind ?_ fun _ => ?_) <;> simp

@[simp] theorem Lane.checkRast_canonical (l : Lane) (i : Instr) (records vis store : Obj) (first n : Nat) :
    (l.checkRast i records vis store first n).Canonical := by
  refine .listForM (fun k => .get_bind fun s hs => ?_) _
  dsimp only
  split
  · exact .listForM (fun x => by simp) _
  · simp

@[simp] theorem rastWork_canonical (f : Reg2ObjForm) (iss : Issue) (no : Nat) (l : Lane) :
    (rastWork f iss no l).Canonical := by
  unfold rastWork
  (repeat' with_reducible refine .bind ?_ fun _ => ?_) <;> simp

@[simp] theorem execRast_canonical {s : State} (h : Memory.wf s.mem = true) (f : Reg2ObjForm) :
    Canonical (execRast f s) := by simp [execRast, h]

@[simp] theorem Op.depthUpdate_canonical (op : Op) (store : Obj) (n z prim : Nat) :
    (op.depthUpdate store n z prim).Canonical := by simp [Op.depthUpdate]

@[simp] theorem Op.rastRecord_canonical (op : Op) (records vis store : Obj) (k : Nat) :
    (op.rastRecord records vis store k).Canonical := by simp [Op.rastRecord]

@[simp] theorem execRastPerform_canonical {s : State} (h : Memory.wf s.mem = true) (id : Nat) :
    Canonical (execRastPerform id s) := by
  rw [execRastPerform, canonical_next]
  refine State.withOp_wf h _ fun op => ?_
  (repeat' with_reducible first | refine State.opWork_wf h _ _ ?_ | refine .bind ?_ fun _ => ?_ | split) <;> simp [h]

@[simp] theorem visrdWork_canonical (f : Film3Form) (iss : Issue) (no : Nat) (l : Lane) :
    (visrdWork f iss no l).Canonical := by
  unfold visrdWork
  (repeat' with_reducible refine .bind ?_ fun _ => ?_) <;> simp

@[simp] theorem execVisrd_canonical {s : State} (h : Memory.wf s.mem = true) (f : Film3Form) :
    Canonical (execVisrd f s) := by simp [execVisrd, h]

@[simp] theorem execVisrdPerform_canonical {s : State} (h : Memory.wf s.mem = true) (id : Nat) :
    Canonical (execVisrdPerform id s) := by
  rw [execVisrdPerform, canonical_next]
  refine State.withOp_wf h _ fun op => ?_
  (repeat' with_reducible first | refine State.opWork_wf h _ _ ?_ | refine .bind ?_ fun _ => ?_ | split) <;> simp [h]

/-! ## The fabric and its collectives -/

@[simp] theorem Op.windowPa_canonical (op : Op) (off : Nat) :
    (op.windowPa off).Canonical := by
  intro s h
  unfold Op.windowPa
  dsimp only
  split
  · split <;> simp [h]
  · obtain ⟨r, u, found, kept⟩ := answers (s.translateAs_mem op.privileged op.tile op.ctx
      (op.bytes % 2 ^ 20 * 2 ^ 32 + off % 2 ^ 32) .write)
    have hu := wf_of_mem kept h
    rw [found]
    cases r <;> simp [h, hu]

@[simp] theorem fsendWork_canonical (f : FcollWForm) (iss : Issue) (no : Nat) (l : Lane) :
    (fsendWork f iss no l).Canonical := by
  unfold fsendWork
  (repeat' with_reducible first | refine .bind ?_ fun _ => ?_ | split) <;> simp

@[simp] theorem execFsend_canonical {s : State} (h : Memory.wf s.mem = true) (f : FcollWForm) :
    Canonical (execFsend f s) := by simp [execFsend, h]

@[simp] theorem State.fabOut_wf {s : State} (h : Memory.wf s.mem = true) (op : Op) (form tree n target : Nat) :
    Memory.wf (s.fabOut op form tree n target).mem = true := by simp [State.fabOut, h]

@[simp] theorem execFsendPerform_canonical {s : State} (h : Memory.wf s.mem = true) (id : Nat) :
    Canonical (execFsendPerform id s) := by
  rw [execFsendPerform, canonical_next]
  refine State.withOp_wf h _ fun op => ?_
  split
  · next f src bar _ _ =>
    dsimp only
    refine State.opWork_wf h _ _ (.bind (by simp) fun first => .ite (.set h) (.bind (.change fun s hs => by simp [hs]) fun _ => ?_))
    refine .bind (.listForM (fun x => .bind (by simp) fun bs => .bind (by simp) fun pa => .get_bind fun s hs => ?_) _) fun _ => .ite ?_ ?_
    · exact .ite (.bind (by simp) fun _ => .change fun s hs => ite_wf (by simpa using hs) (by simp [hs]))
        (.change fun s hs => ite_wf (by simpa using hs) (by simp [hs]))
    · exact .bind (.listForM (fun b => .bind (by simp) fun pa => .change fun s hs => by simp [hs]) _) fun _ => .change fun s hs =>
        by simpa using hs
    · exact .change fun s hs => hs
  · exact h

@[simp] theorem execFsendLocalComplete_canonical {s : State} (h : Memory.wf s.mem = true) (id : Nat) :
    Canonical (execFsendLocalComplete id s) := by
  rw [execFsendLocalComplete, canonical_next]
  split
  · exact h
  · split
    · refine ite_wf h (wf_of_mem (State.closeSend_mem ..) (State.opWork_wf h _ _ (.bind (by simp) fun pa => .change fun s hs =>
        by simp [hs])))
    · exact h

@[simp] theorem execCollectivePacketArrival_canonical {s : State} (h : Memory.wf s.mem = true) (p : PacketArrival) :
    Canonical (execCollectivePacketArrival p s) := by simp [execCollectivePacketArrival, h]

@[simp] theorem treeRights_canonical (ok : Bool) :
    (treeRights ok).Canonical := by simp [treeRights]

@[simp] theorem fwinWork_canonical (f : FcollWForm) (iss : Issue) (no : Nat) (l : Lane) :
    (fwinWork f iss no l).Canonical := by
  unfold fwinWork
  (repeat' with_reducible refine .bind ?_ fun _ => ?_) <;> simp

@[simp] theorem execFwin_canonical {s : State} (h : Memory.wf s.mem = true) (f : FcollWForm) :
    Canonical (execFwin f s) := by simp [execFwin, h]

@[simp] theorem State.fwinPerform_wf {s : State} (h : Memory.wf s.mem = true) (id : Nat) :
    Memory.wf (s.fwinPerform id).mem = true := by
  refine State.withOp_wf h _ fun op => ?_
  split <;> simp [h]

@[simp] theorem fcollWork_canonical (f : FcollWForm) (iss : Issue) (no : Nat) (l : Lane) :
    (fcollWork f iss no l).Canonical := by
  unfold fcollWork
  (repeat' with_reducible first | refine .bind ?_ fun _ => ?_ | split) <;> simp

@[simp] theorem execFcoll_canonical {s : State} (h : Memory.wf s.mem = true) (f : FcollWForm) :
    Canonical (execFcoll f s) := by simp [execFcoll, h]

@[simp] theorem execFcollPushPerform_canonical {s : State} (h : Memory.wf s.mem = true) (id : Nat) :
    Canonical (execFcollPushPerform id s) := by
  rw [execFcollPushPerform, canonical_next]
  refine State.withOp_wf h _ fun op => ?_
  (repeat' with_reducible first
      | refine State.opWork_wf h _ _ ?_
      | refine .bind ?_ fun _ => ?_
      | refine .change fun s hs => ?_
      | split) <;> simp [*]

@[simp] theorem OpenTree.reach_canonical (o : OpenTree) (x : Obj) (off : Nat) :
    (o.reach x off).Canonical := by
  intro s h
  unfold OpenTree.reach
  obtain ⟨agent, ha⟩ := exists_copy OpenTree.agent
  rw [ha]
  split
  · exact Op.reach_canonical _ _ _ _ s h
  · dsimp only
    split
    · simpa using h
    · simpa using h
    · next e ne _ => exact ⟨fun _ _ r => (nomatch r), fun v r => absurd (Except.error.inj r) (ne v)⟩

@[simp] theorem State.updateBarrier_wf {s : State} (h : Memory.wf s.mem = true) (ctx index pa bits : Nat) (units : Option Nat) :
    Memory.wf (s.updateBarrier ctx index pa bits units).mem = true := by simp [State.updateBarrier, h]

@[simp] theorem OpenTree.deliver_canonical (o : OpenTree) (p : CollPacket) :
    (o.deliver p).Canonical := by
  unfold OpenTree.deliver
  refine .get_bind fun s hs => ?_
  dsimp only
  split
  · simp
  · next u e =>
    have arrived {pa bits : Nat} : (modify fun s => s.updateBarrier o.ctx o.barIndex pa bits (some chunkBytes) : Work Unit).Canonical :=
      .change fun s hs => State.updateBarrier_wf hs ..
    have traced {tile : State → Nat} {bs : List Byte} : (modify fun s => s.emit 7 o.ctx (tile s) 4 0 bs : Work Unit).Canonical :=
      .change fun s hs => State.emit_wf hs ..
    refine .bind (.set (wf_of_mem (State.hold_mem e) hs)) fun _ =>
      .ite (.bind (.mapM (fun x => .bind (by simp) fun pa => .change fun s hs => by simp [hs]) _) fun _ => ?_) ?_
    · exact .ite (.bind (by simp) fun pa => .bind arrived fun _ => traced) traced
    · exact .ite (.bind (by simp) fun pa => .bind arrived fun _ => traced) traced

@[simp] theorem execCollectiveDelivery_canonical {s : State} (h : Memory.wf s.mem = true) (tree chunk : Nat) :
    Canonical (execCollectiveDelivery tree chunk s) := by
  rw [execCollectiveDelivery, canonical_next]
  split
  · exact h
  · next p _ =>
    extract_lets f taken
    have ht : Memory.wf taken.mem = true := h
    clear_value taken
    split
    · exact ht
    · next o _ =>
      refine ite_wf h ?_
      split
      · next e => exact (OpenTree.deliver_canonical o p).ends ht e
      · exact h
      · simpa using h
      · exact ite_wf h (by simpa using ht)

@[simp] theorem State.endTree_wf {s : State} (h : Memory.wf s.mem = true) (tree : Nat) :
    Memory.wf (s.endTree tree).mem = true := by
  unfold State.endTree
  split
  · exact h
  · next o _ =>
    refine ite_wf h ?_
    extract_lets f ended
    have he : Memory.wf ended.mem = true := h
    clear_value ended
    refine ite_wf (by simpa using he) ?_
    split
    · next e => exact State.updateBarrier_wf ((OpenTree.reach_canonical o _ 0).ends he e) ..
    · simpa using h
    · exact ite_wf h (by simpa using he)

@[simp] theorem State.abortJob_wf {s : State} (h : Memory.wf s.mem = true) (job origin : Nat) (from' : Option Nat) :
    Memory.wf (s.abortJob job origin from').mem = true := by simp +contextual [State.abortJob, h, foldl_wf]

@[simp] theorem execAbortReceive_canonical {s : State} (h : Memory.wf s.mem = true) (job origin port : Nat) :
    Canonical (execAbortReceive job origin port s) := by simp [execAbortReceive, h]

/-! ## Requests of other packages and of the host -/

@[simp] theorem State.writeHere_wf {s : State} (h : Memory.wf s.mem = true) (bs : Map Byte) :
    Memory.wf (s.writeHere bs).mem = true := by simp [State.writeHere, h]

theorem State.writeOutside_wf {s u : State} {bs : Map Byte} (h : Memory.wf s.mem = true) (e : s.writeOutside bs = some u) :
    Memory.wf u.mem = true := by
  have held (ds : List Deferral) (s? : Option State) (hs : ∀ s, s? = some s → Memory.wf s.mem = true) :
      ∀ v, ds.foldl (fun s? d => s?.bind fun s => s.hold d.cell [d]) s? = some v → Memory.wf v.mem = true := by
    induction ds generalizing s? with
    | nil => exact hs
    | cons d ds ih =>
      refine ih _ fun s hd => ?_
      obtain ⟨v, hv, kept⟩ := Option.bind_eq_some_iff.mp hd
      exact wf_of_mem (State.hold_mem kept) (hs v hv)
  obtain ⟨v, hv, rfl⟩ := Option.map_eq_some_iff.mp e
  exact State.writeHere_wf (held _ _ (fun s hs => by cases hs; exact h) v hv) _

@[simp] theorem State.postOutside_wf {s : State} (h : Memory.wf s.mem = true) (bs : Map Byte) :
    Memory.wf (s.postOutside bs).mem = true := by simp [State.postOutside, h]

theorem State.request_canonical {s : State} (h : Memory.wf s.mem = true) (src seq addr n : Nat) {k : State → Option State}
    (hk : ∀ u, k s = some u → Memory.wf u.mem = true) : Canonical (s.request src seq addr n k) := by
  unfold State.request
  split
  · simpa using h
  · split
    · simp
    · rw [canonical_next]
      cases e : k s with
      | none => exact h
      | some u => exact hk u e

@[simp] theorem execRemoteLoadRequest_canonical {s : State} (h : Memory.wf s.mem = true) (src seq addr size : Nat) :
    Canonical (execRemoteLoadRequest src seq addr size s) := State.request_canonical h _ _ _ _ fun u e => by
    cases e
    simpa using h

@[simp] theorem execRemoteWriteRequest_canonical {s : State} (h : Memory.wf s.mem = true) (src seq addr : Nat) (data : WriteData)
    (release : Option Nat) :
    Canonical (execRemoteWriteRequest src seq addr data release s) := by
  unfold execRemoteWriteRequest
  refine State.request_canonical h _ _ _ _ fun u e => ?_
  cases release with
  | some named =>
    cases e
    simpa using h
  | none =>
    obtain ⟨v, hv, rfl⟩ := Option.map_eq_some_iff.mp e
    simpa using State.writeOutside_wf h hv

theorem State.atomicOutside_wf {s : State} (h : Memory.wf s.mem = true) {pa size : Nat} {op : MemOp} {a b : Nat} {r : List Byte × State}
    (e : s.atomicOutside pa size op a b = some r) : Memory.wf r.2.mem = true := by
  have hs : Memory.wf (s.acceptReads 0 pa size).mem = true := by simpa using h
  unfold State.atomicOutside at e
  dsimp only at e
  split at e
  · obtain ⟨u, hu, rfl⟩ := Option.map_eq_some_iff.mp e
    exact State.writeOutside_wf hs hu
  · cases e
    exact hs

@[simp] theorem execRemoteAtomicRequest_canonical {s : State} (h : Memory.wf s.mem = true) (src seq addr : Nat) (op : MemOp)
    (a b : BitVec 32) (release : Option Nat) :
    Canonical (execRemoteAtomicRequest src seq addr op a b release s) := by
  unfold execRemoteAtomicRequest
  refine State.request_canonical h _ _ _ _ fun u e => ?_
  cases release with
  | some count =>
    cases e
    simpa using h
  | none =>
    obtain ⟨v, hv, rfl⟩ := Option.map_eq_some_iff.mp e
    simpa using State.atomicOutside_wf h hv

@[simp] theorem execFabricReleasePerform_canonical {s : State} (h : Memory.wf s.mem = true) (src seq : Nat) :
    Canonical (execFabricReleasePerform src seq s) := by
  rw [execFabricReleasePerform, canonical_next]
  split
  · exact h
  · refine ite_wf h ?_
    extract_lets f freed
    have hf : Memory.wf freed.mem = true := h
    clear_value freed
    split
    · next addr bs named _ =>
      cases e : freed.writeOutside bs with
      | none => exact h
      | some u => simpa using State.writeOutside_wf hf e
    · next addr op a b _ _ =>
      cases e : freed.atomicOutside addr 4 op a.toNat b.toNat with
      | none => exact h
      | some u => simpa using State.atomicOutside_wf hf e
    · exact hf

theorem State.vectorLanes_wf {s : State} (h : Memory.wf s.mem = true) {src page size : Nat} {op : MemOp} {read : List Nat}
    {lanes : List VecLane} {r : List Byte × State} (e : s.vectorLanes src page size op read lanes = some r) : Memory.wf r.2.mem = true := by
  induction lanes generalizing s read r with
  | nil =>
    cases e
    exact h
  | cons l ls ih =>
    unfold State.vectorLanes at e
    obtain ⟨q, hq, e⟩ := Option.bind_eq_some_iff.mp e
    obtain ⟨p, hp, rfl⟩ := Option.map_eq_some_iff.mp e
    have hq : Memory.wf q.2.mem = true := by
      split at hq
      · cases hq
        exact ite_wf h (by simpa using h)
      · obtain ⟨u, hu, rfl⟩ := Option.map_eq_some_iff.mp hq
        simpa using State.writeOutside_wf h hu
      · exact State.atomicOutside_wf h hq
    exact (ih hq hp : Memory.wf p.2.mem = true)

@[simp] theorem execVectorRequest_canonical {s : State} (h : Memory.wf s.mem = true) (src seq page size : Nat) (op : MemOp)
    (lanes : List VecLane) :
    Canonical (execVectorRequest src seq page size op lanes s) := by
  refine State.request_canonical h _ _ _ _ fun u e => ?_
  obtain ⟨r, hr, rfl⟩ := Option.map_eq_some_iff.mp e
  simpa using State.vectorLanes_wf h hr

@[simp] theorem execEndToEndAck_canonical {s : State} (h : Memory.wf s.mem = true) (seq : Nat) :
    Canonical (execEndToEndAck seq s) := by
  unfold execEndToEndAck
  (repeat' split) <;> simp +contextual [h]

@[simp] theorem execNegativeAck_canonical {s : State} (h : Memory.wf s.mem = true) (seq : Nat) :
    Canonical (execNegativeAck seq s) := by simp [execNegativeAck, h]

@[simp] theorem execResendTimeout_canonical {s : State} (h : Memory.wf s.mem = true) (seq : Nat) :
    Canonical (execResendTimeout seq s) := by
  unfold execResendTimeout
  split <;> simp [h]

@[simp] theorem execHostWrite_canonical {s : State} (h : Memory.wf s.mem = true) (endpoint addr : Nat) (bytes : List Byte) :
    Canonical (execHostWrite endpoint addr bytes s) := by simp +contextual [execHostWrite, h, foldl_wf]

@[simp] theorem execHostRead_canonical {s : State} (h : Memory.wf s.mem = true) (endpoint addr size : Nat) :
    Canonical (execHostRead endpoint addr size s) := by simp [execHostRead, h]

@[simp] theorem execHostAtomic_canonical {s : State} (h : Memory.wf s.mem = true) (endpoint addr size : Nat) (op : MemOp)
    (a b : BitVec 64) :
    Canonical (execHostAtomic endpoint addr size op a b s) := by
  unfold execHostAtomic
  dsimp only
  (repeat' split) <;> simp +contextual [h, foldl_wf]

/-! ## The ports -/

@[simp] theorem execLinkRetrain_canonical {s : State} (h : Memory.wf s.mem = true) (port lane : Nat) :
    Canonical (execLinkRetrain port lane s) := by simp [execLinkRetrain, h]

@[simp] theorem execLinkTrained_canonical {s : State} (h : Memory.wf s.mem = true) (port : Nat) (spared : Bool) :
    Canonical (execLinkTrained port spared s) := by simp [execLinkTrained, h]

@[simp] theorem execLinkDown_canonical {s : State} (h : Memory.wf s.mem = true) (port : Nat) :
    Canonical (execLinkDown port s) := by simp [execLinkDown, h]

@[simp] theorem execLinkDisable_canonical {s : State} (h : Memory.wf s.mem = true) (port : Nat) (disable : Bool) :
    Canonical (execLinkDisable port disable s) := by simp [execLinkDisable, h]

@[simp] theorem execFlitCrcFailure_canonical {s : State} (h : Memory.wf s.mem = true) (port : Nat) :
    Canonical (execFlitCrcFailure port s) := by simp [execFlitCrcFailure, h]

/-! ## Launches and the distributor -/

@[simp] theorem recordPa_canonical (tile ctx off n : Nat) (kind : AccKind) :
    (recordPa tile ctx off n kind).Canonical := by
  intro s h
  unfold recordPa
  split
  · simpa using h
  · next c _ =>
    split
    · simpa using h
    · obtain ⟨r, u, found, kept⟩ := answers (s.translate_mem tile ctx (c.window.toNat / 2 ^ 32 % 2 ^ 20 * 2 ^ 32 + off) kind)
      have hu := wf_of_mem kept h
      rw [found]
      cases r with
      | ok pa nrd => exact (canonicalEnd_ite ..).mpr (by split <;> simpa using hu)
      | pgfault f => simp
      | pgfatal => simpa using h

@[simp] theorem recordBytes_canonical (ctx off n : Nat) :
    (recordBytes ctx off n).Canonical := by
  unfold recordBytes
  (repeat' with_reducible first
      | refine .bind ?_ fun _ => ?_
      | refine .mapM (fun _ => ?_) _
      | refine .listForM (fun _ => ?_) _
      | refine .change fun s hs => ?_) <;> simp

@[simp] theorem State.writeStatus_wf {s : State} (h : Memory.wf s.mem = true) (l : Launch) (code : Nat) :
    Memory.wf (s.writeStatus l code).mem = true := by
  simpa [State.writeStatus] using State.setNum_wf _ _ _ h

@[simp] theorem enqueueRecord_canonical (tile ctx off : Nat) :
    (enqueueRecord tile ctx off).Canonical := by
  intro s h
  unfold enqueueRecord
  split
  · simpa using h
  · split
    · simp
    · simpa using h
    · next e =>
      have hu := (recordPa_canonical tile ctx off 64 .atomic).ends h e
      exact (canonicalEnd_ite ..).mpr (by split; simpa using hu; exact (canonicalEnd_ite ..).mpr (by split <;> simpa using hu))

@[simp] theorem execLaunch_canonical {s : State} (h : Memory.wf s.mem = true) (f : LaunchWForm) :
    Canonical (execLaunch f s) := by
  rw [execLaunch, canonical_next]
  refine State.eachLane_wf h _ fun _ _ _ => ?_
  (repeat' with_reducible first | refine .bind ?_ fun _ => ?_ | refine .change fun s hs => ?_ | split) <;> simp [*]

@[simp] theorem execLaunchEnqueue_canonical {s : State} (h : Memory.wf s.mem = true) (tid entry : Nat) :
    Canonical (execLaunchEnqueue tid entry s) := by
  rw [execLaunchEnqueue, canonical_next]
  split
  · split
    · refine ite_wf h ?_
      dsimp only
      split
      · next e => simpa using (enqueueRecord_canonical _ _ _).ends h e
      · simpa using h
      · simpa using h
    · exact h
  · exact h

@[simp] theorem holdsKind_canonical (ctx idx : Nat) (k : ObjKind) :
    (holdsKind ctx idx k).Canonical := by
  intro s h
  unfold holdsKind
  split
  · next e => simpa using Work.Canonical.ends (checkEntry_canonical _ _ _ _ _) h e
  · simp
  · simpa using h

@[simp] theorem holdAll_canonical (ctx : Nat) (k : ObjKind) (x : List Nat) :
    (holdAll ctx k x).Canonical := by
  induction x with
  | nil => exact .pure _
  | cons i is ih => exact .bind (by simp) fun a => .ite ih (.pure _)

@[simp] theorem examine_canonical (l : Launch) :
    (examine l).Canonical := by
  unfold examine
  dsimp only
  (repeat' with_reducible first | refine .bind ?_ fun _ => ?_ | split) <;> simp

@[simp] theorem State.finishLaunch_wf {s : State} (h : Memory.wf s.mem = true) (id code : Nat) :
    Memory.wf (s.finishLaunch id code).mem = true := by
  unfold State.finishLaunch
  split <;> simp [h]

@[simp] theorem execDistributorExamine_canonical {s : State} (h : Memory.wf s.mem = true) (ctx prio : Nat) :
    Canonical (execDistributorExamine ctx prio s) := by
  rw [execDistributorExamine, canonical_next]
  dsimp only
  split
  · exact h
  · next l _ =>
    refine ite_wf h ?_
    split
    · next e =>
      have hu := (examine_canonical l).ends h e
      exact State.writeStatus_wf (by simpa using hu) ..
    · next e => exact State.finishLaunch_wf ((examine_canonical l).ends h e) ..
    · simpa using h
    · exact State.finishLaunch_wf h ..

@[simp] theorem State.placeCell_wf {s : State} (h : Memory.wf s.mem = true) (launch stage cluster f1 tile : Nat) (blocks : List Nat)
    (t : Stage) (ctx : Nat) :
    Memory.wf (s.placeCell launch stage cluster f1 tile blocks t ctx).2.mem = true := by
  unfold State.placeCell
  dsimp only
  refine foldl_wf (fun s o hs => by simpa using hs) _ (State.zero_wf _ _ ?_)
  exact h

@[simp] theorem State.placeCluster_wf {s : State} (h : Memory.wf s.mem = true) (id : Nat) (l : Launch) (stage : Nat) (t : Stage)
    (quad : Nat) (sites : List (Nat × List Nat)) (d : Option Nat) :
    Memory.wf (s.placeCluster id l stage t quad sites d).mem = true := by
  have placed {n : Nat} {u : State} (hu : Memory.wf u.mem = true) :
      Memory.wf (sites.zipIdx.foldl (fun (acc : List Nat × State) x =>
        let c := acc.2.placeCell id stage n x.2 x.1.1 x.1.2 t l.ctx
        (acc.1 ++ [c.1], c.2)) (([] : List Nat), u)).2.mem = true := by
    refine foldl_snd_wf (fun r x hr => ?_) _ hu
    exact State.placeCell_wf hr ..
  unfold State.placeCluster
  extract_lets n u r src v w x
  have hr : Memory.wf r.2.mem = true := placed h
  have hw : Memory.wf w.mem = true := wf_of_mem (State.modStage_mem ..) hr
  have hx : Memory.wf x.mem = true := ite_wf (State.writeStatus_wf (by simpa using hw) ..) hw
  clear_value x
  split
  · exact foldl_wf (fun s c hs => by simpa using hs) _ hx
  · exact hx

@[simp] theorem dependenceMet_canonical (l : Launch) :
    (dependenceMet l).Canonical := by
  unfold dependenceMet
  (repeat' with_reducible first | refine .bind ?_ fun _ => ?_ | split) <;> simp

@[simp] theorem State.place_wf {s : State} (h : Memory.wf s.mem = true) (quad : Nat) (o : Offer) :
    Memory.wf (s.place quad o).mem = true := by simp [State.place, h]

@[simp] theorem execPlaceCluster_canonical {s : State} (h : Memory.wf s.mem = true) (quad : Nat) :
    Canonical (execPlaceCluster quad s) := by
  unfold execPlaceCluster
  dsimp only
  split <;> simp +contextual [h]

@[simp] theorem State.launchOver_wf {s : State} (h : Memory.wf s.mem = true) (id : Nat) :
    Memory.wf (s.launchOver id).mem = true := by
  unfold State.launchOver
  split <;> simp [h]

@[simp] theorem State.nextEven_wf {s : State} (h : Memory.wf s.mem = true) (id : Nat) (c : Cell) :
    Memory.wf (s.nextEven id c).mem = true := by simp [State.nextEven, h]

@[simp] theorem State.nextLazy_wf {s : State} (h : Memory.wf s.mem = true) (c : Cell) :
    Memory.wf (s.nextLazy c).mem = true := by
  unfold State.nextLazy
  split <;> simp [h]

@[simp] theorem execCellComplete_canonical {s : State} (h : Memory.wf s.mem = true) (cell : Nat) :
    Canonical (execCellComplete cell s) := by
  unfold execCellComplete
  (repeat' split) <;> simp +contextual [h]

@[simp] theorem execStealRequest_canonical {s : State} (h : Memory.wf s.mem = true) (cluster : Nat) :
    Canonical (execStealRequest cluster s) := by
  unfold execStealRequest
  split <;> simp [h]

@[simp] theorem execStealResponse_canonical {s : State} (h : Memory.wf s.mem = true) (holder requester : Nat) :
    Canonical (execStealResponse holder requester s) := by
  unfold execStealResponse
  (repeat' split) <;> simp +contextual [h]

@[simp] theorem execStealRetry_canonical {s : State} (h : Memory.wf s.mem = true) (cluster : Nat) :
    Canonical (execStealRetry cluster s) := by
  unfold execStealRetry
  split <;> simp [h]

@[simp] theorem execStealMeshSwitch_canonical {s : State} (h : Memory.wf s.mem = true) (cluster : Nat) :
    Canonical (execStealMeshSwitch cluster s) := by
  unfold execStealMeshSwitch
  split <;> simp [h]

theorem State.placeFed_wf {s : State} (h : Memory.wf s.mem = true) (id stage : Nat) (ready : Launch → Stage → Ring → Bool) :
    Memory.wf (s.placeFed id stage ready).mem = true := by
  unfold State.placeFed
  dsimp only
  split
  · simpa using h
  · exact State.place_wf (by simpa using h) ..

@[simp] theorem execQueueFedPlace_canonical {s : State} (h : Memory.wf s.mem = true) (launch stage : Nat) :
    Canonical (execQueueFedPlace launch stage s) := by
  rw [execQueueFedPlace, canonical_next]
  exact State.placeFed_wf h _ _ _

@[simp] theorem execQageTimeout_canonical {s : State} (h : Memory.wf s.mem = true) (launch stage : Nat) :
    Canonical (execQageTimeout launch stage s) := by
  rw [execQageTimeout, canonical_next]
  exact State.placeFed_wf h _ _ _

@[simp] theorem execStageClose_canonical {s : State} (h : Memory.wf s.mem = true) (launch stage : Nat) :
    Canonical (execStageClose launch stage s) := by
  unfold execStageClose
  (repeat' split) <;> simp +contextual [h]

@[simp] theorem execStageEpoch_canonical {s : State} (h : Memory.wf s.mem = true) (launch : Nat) :
    Canonical (execStageEpoch launch s) := by
  unfold execStageEpoch
  dsimp only
  (repeat' split) <;> simp +contextual [h]

/-! ## The riddle and mobile threads -/

@[simp] theorem State.riddleMoves_wf {s : State} (h : Memory.wf s.mem = true) (tile target : Nat) (k : CrucKey) (x : List (Nat × Thread)) :
    Memory.wf (s.riddleMoves tile target k x).mem = true := by
  induction x generalizing s with
  | nil => exact h
  | cons y ys ih =>
    rw [State.riddleMoves]
    exact ite_wf h (ih (by simpa using State.regionEnd_wf h ..))

@[simp] theorem execRiddleMove_canonical {s : State} (h : Memory.wf s.mem = true) (tile ctx pc key : Nat) :
    Canonical (execRiddleMove tile ctx pc key s) := by
  unfold execRiddleMove
  dsimp only
  split <;> simp +contextual [h]

@[simp] theorem execThreadExport_canonical {s : State} (h : Memory.wf s.mem = true) (tid : Nat) :
    Canonical (execThreadExport tid s) := by
  unfold execThreadExport
  dsimp only
  (repeat' split) <;> simp +contextual [h]

@[simp] theorem execThreadArrival_canonical {s : State} (h : Memory.wf s.mem = true) (tid : Nat) :
    Canonical (execThreadArrival tid s) := by
  unfold execThreadArrival
  (repeat' split) <;> simp +contextual [h]

/-! ## Contexts: creation, saving, loading and killing -/

@[simp] theorem execContextCreate_canonical {s : State} (h : Memory.wf s.mem = true) (ctx : Nat) (setup : ContextSetup) :
    Canonical (execContextCreate ctx setup s) := by simp [execContextCreate, h]

@[simp] theorem Lane.areaPiece_canonical (l : Lane) (a n : Nat) (kind : AccKind) :
    (l.areaPiece a n kind).Canonical := by
  intro s h
  obtain ⟨reach, hr⟩ := exists_copy State.reach
  have reached := hr ▸ State.reach_mem
  obtain ⟨piece, hp⟩ := exists_copy Lane.areaPiece
  rw [hp]
  delta Lane.areaPiece at hp
  rw [hr] at hp
  subst hp
  beta_reduce
  obtain ⟨r, u, found, kept⟩ := answers (reached s l.th (a + n - 1) 1 kind)
  rw [found]
  cases r with
  | trap c info => simp
  | fault f => simp
  | ok pa nrd =>
    obtain ⟨r, v, found, kept'⟩ := answers (reached u l.th a 1 kind)
    have hv : Memory.wf v.mem = true := wf_of_mem kept' (wf_of_mem kept h)
    dsimp only
    rw [found]
    cases r with
    | trap c info => simp
    | fault f => simp
    | ok pa nrd => simp [hv]

@[simp] theorem Lane.areaPages_canonical (l : Lane) (off n : Nat) (kind : AccKind) :
    (l.areaPages off n kind).Canonical := by simp [Lane.areaPages]

@[simp] theorem State.writePages_wf {s : State} (h : Memory.wf s.mem = true) (tid : Nat) (x : Pages) (x1 : List Byte) :
    Memory.wf (s.writePages tid x x1).mem = true := by
  induction x generalizing s x1 with
  | nil => exact h
  | cons p ps ih =>
    rw [State.writePages]
    exact ih (by simp [h]) _

@[simp] theorem State.patchPages_wf {s : State} (h : Memory.wf s.mem = true) (ps : Pages) (off : Nat) (bs : List Byte) :
    Memory.wf (s.patchPages ps off bs).mem = true := foldl_wf (fun s b hs => by split <;> simp [hs]) _ h

@[simp] theorem State.settleTransit_wf {s : State} (h : Memory.wf s.mem = true) (ctx : Nat) :
    Memory.wf (s.settleTransit ctx).mem = true := foldl_wf (fun s x hs => ite_wf (nextOr_wf hs (execThreadArrival_canonical hs _)) hs) _ h

@[simp] theorem State.settleLaunch_wf {s : State} (h : Memory.wf s.mem = true) (tid : Nat) (t : Thread) (e : Entry) :
    Memory.wf (s.settleLaunch tid t e).mem = true := by
  unfold State.settleLaunch
  dsimp only
  split
  · next e => simpa using (enqueueRecord_canonical _ _ _).ends h e
  · simpa using h
  · simpa using h

@[simp] theorem State.settleEntry_wf {s : State} (h : Memory.wf s.mem = true) (tid : Nat) (e : Entry) :
    Memory.wf (s.settleEntry tid e).mem = true := by
  unfold State.settleEntry
  refine ite_wf h ?_
  split
  · exact ite_wf (State.settleLaunch_wf h ..) h
  · exact nextOr_wf h (execQpopReply_canonical h _ _)
  · exact ite_wf (nextOr_wf h (execAtomicPerform_canonical h _ _)) h

@[simp] theorem State.settleFlight_wf {s : State} (h : Memory.wf s.mem = true) (ctx x : Nat) :
    Memory.wf (s.settleFlight ctx x).mem = true := by
  induction x generalizing s with
  | zero => exact h
  | succ n ih =>
    rw [State.settleFlight]
    exact ih (foldl_wf (fun s x hs => foldl_wf (fun s e hs => State.settleEntry_wf hs ..) _ hs) _ h)

@[simp] theorem State.quiesce_wf {s : State} (h : Memory.wf s.mem = true) (ctx : Nat) :
    Memory.wf (s.quiesce ctx).mem = true := foldl_wf (fun s x hs => State.regionEnd_wf hs ..) _ (State.settleFlight_wf
        (State.settleTransit_wf h _) ..)

@[simp] theorem savePages_canonical (l : Lane) (ctx off : Nat) (keep : Bool) :
    (savePages l ctx off keep).Canonical := by
  intro s h
  unfold savePages
  split
  · simpa using h
  · exact Work.Canonical.map _ (by simp) s h

@[simp] theorem saveContext_canonical (l : Lane) (ctx off : Nat) (keep : Bool) :
    (saveContext l ctx off keep).Canonical := by
  refine .bind (.change fun s hs => State.quiesce_wf hs _) fun _ => .get_bind fun s hs => ?_
  split
  · simp
  · refine .bind (by simp) fun pages => .change fun s hs => ?_
    exact wf_of_mem (State.renameCtx_mem ..) (wf_of_mem (State.dropContext_mem ..) (State.writePages_wf (by exact hs) ..))

@[simp] theorem ctxsaveWork_canonical (l : Lane) :
    (ctxsaveWork l).Canonical := by
  refine .bind (by simp) fun _ => .get_bind fun s hs => ?_
  split
  · simp
  · refine .ite (.change fun s hs => by simpa using hs) (.bind (by simp) fun _ => .bind (.change fun s hs => by simp [hs]) fun _ => ?_)
    exact .ite (.bind (by simp) fun _ => .change fun s hs => hs) (by simp)

@[simp] theorem State.saveDeferred_wf {s : State} (h : Memory.wf s.mem = true) (tid ctx off : Nat) (keep : Bool) :
    Memory.wf (s.saveDeferred tid ctx off keep).mem = true := by
  unfold State.saveDeferred
  split
  · exact h
  · refine ite_wf h ?_
    split
    · next e => exact (saveContext_canonical _ _ _ _).ends h e
    · exact h

@[simp] theorem execCtxsave_canonical {s : State} (h : Memory.wf s.mem = true) (f : CtxRegForm) :
    Canonical (execCtxsave f s) := by
  simpa only [execCtxsave, canonical_next] using State.issued_wf h _ fun _ => by simp [h]

theorem State.detachedReply_mem {s u : State} {x : Image} {e : Entry} {ws : List Word} {c : Context}
    (r : s.detachedReply x e = some (ws, c, u)) : u.mem = s.mem := by
  unfold State.detachedReply at r
  split at r
  · cases r
    simp
  · cases r
    rfl
  · obtain ⟨v, -, r⟩ := Option.map_eq_some_iff.mp r
    cases r
    rfl

@[simp] theorem State.fillRecord_wf {s : State} (h : Memory.wf s.mem = true) (ps : Pages) (rec' : Nat) (t : Thread) (d : Dest)
    (ws : List Word) :
    Memory.wf (s.fillRecord ps rec' t d ws).mem = true := by simp +contextual [State.fillRecord, h, foldl_wf]

@[simp] theorem execDetachedReplyAfterSave_canonical {s : State} (h : Memory.wf s.mem = true) (ctx tid entry : Nat) :
    Canonical (execDetachedReplyAfterSave ctx tid entry s) := by
  rw [execDetachedReplyAfterSave, canonical_next]
  split
  · exact h
  · split
    · refine ite_wf h ?_
      split
      · exact h
      · next r =>
        have hu := wf_of_mem (State.detachedReply_mem r) h
        dsimp only
        split
        · exact hu
        · exact State.patchPages_wf (State.fillRecord_wf (by exact hu) ..) ..
    · exact h

@[simp] theorem ctxloadWork_canonical (l : Lane) :
    (ctxloadWork l).Canonical := by
  unfold ctxloadWork
  dsimp only
  (repeat' with_reducible first | refine .bind ?_ fun _ => ?_ | split) <;> simp

@[simp] theorem execCtxload_canonical {s : State} (h : Memory.wf s.mem = true) (f : CtxRegForm) :
    Canonical (execCtxload f s) := by simp [execCtxload, h]

theorem State.placeSaved_mem {s u : State} {x : Image} {slot : Nat} (e : s.placeSaved x slot = some u) : u.mem = s.mem := by
  have kept (l : List (Nat × Cell)) (s? : Option State) (hs : ∀ v, s? = some v → v.mem = s.mem) :
      ∀ v, l.foldl (fun s? y => s?.bind fun s =>
        let c := y.2
        let t := s.stageRec c.launch c.stage
        let base := if x.keep || c.sliceLen == 0 then some c.slice else s.sliceRoom c.tile c.sliceLen
        match base, planBlocks (blockSizes (t.ext 0)) ((List.range 4).map fun p => (p, s.freeSlots c.tile p)) with
        | some base, some blocks =>
          if s.inService c.tile && s.countsFit c.launch c.stage t c.tile then
            some { s with cells := Map.set s.cells y.1 { c with ctx := slot, slice := base, blocks := blocks } }
          else none
        | _, _ => none) s? = some v → v.mem = s.mem := by
    induction l generalizing s? with
    | nil => exact hs
    | cons y l ih =>
      refine ih _ fun v hv => ?_
      obtain ⟨u, hu, found⟩ := Option.bind_eq_some_iff.mp hv
      dsimp only at found
      split at found
      · split at found
        · cases found
          exact hs u hu
        · cases found
      · cases found
  exact kept _ _ (fun v hv => by cases hv; rfl) u e

@[simp] theorem refillPart_canonical (op : Op) (n : Nat) (w : List Word) :
    (refillPart op n w).Canonical := by
  unfold refillPart
  dsimp only
  split <;> simp +contextual

@[simp] theorem refill_canonical (op : Op) {w : Work Unit} (hw : w.Canonical) : (refill op w).Canonical := by
  intro s h
  unfold refill
  split
  · next e => exact (canonicalEnd_ok ..).mpr (hw.ends h e)
  · simp
  · exact (canonicalEnd_ok ..).mpr (State.opWork_wf h _ _ hw)

@[simp] theorem resumeAnvil_canonical (slot tile : Nat) (a : Anvil) (acc : List Byte) :
    (resumeAnvil slot tile a acc).Canonical := by
  refine .bind (.change fun s hs => by simpa using hs) fun _ => .get_bind fun s hs => .listForM (fun x => .listForM (fun w => ?_) _) _
  exact refill_canonical _ (refillPart_canonical _ _ _)

@[simp] theorem State.depositHeld_wf {s : State} (h : Memory.wf s.mem = true) (op : Op) :
    Memory.wf (s.depositHeld op).mem = true := by
  unfold State.depositHeld
  split
  · split
    · next e => exact (Op.deposit_canonical op _).ends h e
    · exact h
  · exact h

@[simp] theorem State.applyDeferrals_wf {s : State} (h : Memory.wf s.mem = true) (name : Nat) :
    Memory.wf (s.applyDeferrals name).mem = true := by
  refine foldl_wf (fun s n hs => ?_) _ h
  refine foldl_wf (fun s d hs => ?_) _ (by simpa using hs)
  split
  · exact hs
  · next c _ =>
    have written (bs : Map Byte) : Memory.wf (bs.foldl (fun s b => s.resetTags b.1 1) (s.perform 0 bs)).mem = true :=
      foldl_wf (fun s b hs => by simpa using hs) _ (State.perform_wf hs ..)
    dsimp only
    split
    · exact State.updateBarrier_wf (written _) ..
    · exact State.depositHeld_wf (written _) ..
    · exact written _

@[simp] theorem State.resumeSlices_wf {s : State} (h : Memory.wf s.mem = true) (x : Image) (ps : Pages) (off : Nat) :
    Memory.wf (s.resumeSlices x ps off).mem = true := foldl_snd_wf (fun acc c hacc => State.setBytes_wf _ _ (State.zero_wf _ _ hacc)) _ h

@[simp] theorem refillContext_canonical (token : Nat) (x : Image) (g : Loading) (h : List Byte) (records : Map (List Byte)) :
    (refillContext token x g h records).Canonical := by
  unfold refillContext
  refine .get_bind fun s hs => ?_
  extract_lets slot at' move u v w
  have hv : Memory.wf v.mem = true := ite_wf hs (State.resumeSlices_wf (by exact hs) ..)
  have hw : Memory.wf w.mem = true := foldl_wf (fun s tid hs => by split <;> simpa using hs) _ hv
  refine .bind (.set hw) fun _ => .bind (.listForM (fun a => by simp) _) fun _ => .change fun s hs => ?_
  refine wf_of_mem (State.modThread_mem ..) (foldl_wf (fun s o hs => by simpa using hs) _ ?_)
  exact wf_of_mem (State.rewalkSaved_mem ..) (wf_of_mem (State.renameCtx_mem ..) (State.applyDeferrals_wf hs _))

@[simp] theorem State.restoreContext_wf {s : State} (hs : Memory.wf s.mem = true) (token : Nat) (x : Image) (g : Loading) (h : List Byte)
    (records : Map (List Byte)) : Memory.wf (s.restoreContext token x g h records).mem = true := by
  unfold State.restoreContext
  extract_lets before u
  split
  · exact hs
  · next v e =>
    have hv : Memory.wf v.mem = true := wf_of_mem (State.placeSaved_mem e) hs
    split
    · next e => exact (refillContext_canonical _ _ _ _ _).ends hv e
    · exact hs
    · exact hs

@[simp] theorem execCtxloadRestore_canonical {s : State} (h : Memory.wf s.mem = true) (ctx : Nat) :
    Canonical (execCtxloadRestore ctx s) := by
  unfold execCtxloadRestore
  split <;> simp [h]

@[simp] theorem State.abortCast_wf {s : State} (h : Memory.wf s.mem = true) (op : Op) :
    Memory.wf (s.abortCast op).mem = true := by
  unfold State.abortCast
  split
  · next src dst bar _ =>
    extract_lets w
    have hw : w.Canonical := .bind (by simp) fun far => .bind (by simp) fun far' => .ite (.bind (by simp) fun pa =>
      .change fun s hs => State.lowerBarrier_wf (State.writeBarrier_wf hs ..) ..) (.pure _)
    split
    · next e => exact hw.ends h e
    · exact h
  · exact h

@[simp] theorem execContextKill_canonical {s : State} (h : Memory.wf s.mem = true) (ctx : Nat) :
    Canonical (execContextKill ctx s) := by
  rw [execContextKill, canonical_next]
  split
  · exact h
  · extract_lets a b c job d e g f
    have ha : Memory.wf a.mem = true := wf_of_mem (State.closeIssue_mem ..) (State.settleTransit_wf h _)
    have hb : Memory.wf b.mem = true := foldl_wf (fun s x hs => by simp [hs]) _ ha
    have hc : Memory.wf c.mem = true := foldl_wf (fun s x hs => State.abortCast_wf hs _) _ hb
    have hd : Memory.wf d.mem = true := ite_wf (by simp [hc]) hc
    have he : Memory.wf e.mem = true := foldl_wf (fun s x hs => State.writeStatus_wf hs ..) _ hd
    exact wf_of_mem (State.dropContext_mem ..) he

/-! ## Stamps -/

@[simp] theorem execStamp_canonical {s : State} (h : Memory.wf s.mem = true) (f : StampForm) :
    Canonical (execStamp f s) := by
  unfold execStamp
  dsimp only
  (repeat' split) <;> simp +contextual [h]

/-! ## Debug -/

@[simp] theorem State.stopOne_wf {s : State} (h : Memory.wf s.mem = true) (tile part reason ctx index cycle : Nat) :
    Memory.wf (s.stopOne tile part reason ctx index cycle).mem = true := by simp [State.stopOne, h]

@[simp] theorem State.stopFor_wf {s : State} (h : Memory.wf s.mem = true) (tile part reason ctx index : Nat) :
    Memory.wf (s.stopFor tile part reason ctx index).mem = true := by simp +contextual [State.stopFor, h, foldl_wf]

@[simp] theorem State.stopPeers_wf {s : State} (h : Memory.wf s.mem = true) :
    Memory.wf (s.stopPeers).mem = true := foldl_wf (fun s x hs => by split <;> simp [hs]) _ h

@[simp] theorem execDebugStopRequest_canonical {s : State} (h : Memory.wf s.mem = true) (tile part : Nat) :
    Canonical (execDebugStopRequest tile part s) := by simp [execDebugStopRequest, h]

@[simp] theorem execDebugRelease_canonical {s : State} (h : Memory.wf s.mem = true) (tile part : Nat) :
    Canonical (execDebugRelease tile part s) := by simp [execDebugRelease, h]

@[simp] theorem execDebugStep_canonical {s : State} (h : Memory.wf s.mem = true) (tile part : Nat) :
    Canonical (execDebugStep tile part s) := by simp [execDebugStep, h]

@[simp] theorem State.stopAfterStep_wf {s : State} (h : Memory.wf s.mem = true) (tile part ctx : Nat) :
    Memory.wf (s.stopAfterStep tile part ctx).mem = true := by simp [State.stopAfterStep, h]

@[simp] theorem State.writeThread_wf {s : State} (h : Memory.wf s.mem = true) (tile part tid : Nat) (t : Thread) (cls num v : Nat) :
    Memory.wf (s.writeThread tile part tid t cls num v).mem = true := by
  unfold State.writeThread
  (repeat' split) <;> simp +contextual [h]

@[simp] theorem execThrdataWrite_canonical {s : State} (h : Memory.wf s.mem = true) (tile part : Nat) (v : BitVec 128) :
    Canonical (execThrdataWrite tile part v s) := by
  unfold execThrdataWrite
  dsimp only
  (repeat' split) <;> simp +contextual [h]

@[simp] theorem execLaneCounterClear_canonical {s : State} (h : Memory.wf s.mem = true) (tile part : Nat) :
    Canonical (execLaneCounterClear tile part s) := by simp [execLaneCounterClear, h]

@[simp] theorem execPcSample_canonical {s : State} (h : Memory.wf s.mem = true) (tile part : Nat) :
    Canonical (execPcSample tile part s) := by
  unfold execPcSample
  dsimp only
  (repeat' split) <;> simp +contextual [h]

@[simp] theorem State.physWrite_wf {s : State} (h : Memory.wf s.mem = true) (pa v : Nat) :
    Memory.wf (s.physWrite pa v).mem = true := by simp [State.physWrite, h]

@[simp] theorem State.writeStop_wf {s : State} (h : Memory.wf s.mem = true) (tile part v : Nat) :
    Memory.wf (s.writeStop tile part v).mem = true := by
  unfold State.writeStop
  extract_lets b u
  have hu : Memory.wf u.mem = true := by simpa [u] using h
  clear_value u
  refine ite_wf (nextOr_wf hu (execDebugStep_canonical (by simpa using hu) _ _)) (ite_wf ?_ ?_)
  · exact nextOr_wf hu (execDebugStopRequest_canonical hu _ _)
  · exact nextOr_wf hu (execDebugRelease_canonical hu _ _)

@[simp] theorem State.writeBlock_wf {s : State} (h : Memory.wf s.mem = true) (tile part off v : Nat) :
    Memory.wf (s.writeBlock tile part off v).mem = true := by
  unfold State.writeBlock
  extract_lets b
  have block {n : DebugBlock} : Memory.wf (s.setBlock tile part n).mem = true := by simpa using h
  refine ite_wf (State.writeStop_wf h ..) (ite_wf block (ite_wf block (ite_wf ?_ (ite_wf block (ite_wf block (ite_wf block
    (ite_wf ?_ (ite_wf block h))))))))
  · exact nextOr_wf h (execThrdataWrite_canonical h _ _ _)
  · exact ite_wf (nextOr_wf block (execLaneCounterClear_canonical block _ _)) block

@[simp] theorem State.debugWrite_wf {s : State} (h : Memory.wf s.mem = true) (a v : Nat) :
    Memory.wf (s.debugWrite a v).mem = true := by simp [State.debugWrite, h]

@[simp] theorem execBypass_canonical {s : State} (h : Memory.wf s.mem = true) (scan : CodeScan) :
    Canonical (execBypass scan s) := by simp [execBypass, h]

@[simp] theorem execSamplePreload_canonical {s : State} (h : Memory.wf s.mem = true) (scan : List Bool) :
    Canonical (execSamplePreload scan s) := by simp [execSamplePreload, h]

@[simp] theorem execExtest_canonical {s : State} (h : Memory.wf s.mem = true) (scan : List Bool) :
    Canonical (execExtest scan s) := by simp [execExtest, h]

@[simp] theorem execIdcode_canonical {s : State} (h : Memory.wf s.mem = true) :
    Canonical (execIdcode s) := by simp [execIdcode, h]

@[simp] theorem execDbgaddr_canonical {s : State} (h : Memory.wf s.mem = true) (v : BitVec 64) :
    Canonical (execDbgaddr v s) := by simp [execDbgaddr, h]

@[simp] theorem execDbgdataCapture_canonical {s : State} (h : Memory.wf s.mem = true) :
    Canonical (execDbgdataCapture s) := by
  unfold execDbgdataCapture
  dsimp only
  (repeat' split) <;> simp +contextual [h]

@[simp] theorem execDbgdataUpdate_canonical {s : State} (h : Memory.wf s.mem = true) (v : BitVec 64) :
    Canonical (execDbgdataUpdate v s) := by simp [execDbgdataUpdate, h]

@[simp] theorem execDbgauthCapture_canonical {s : State} (h : Memory.wf s.mem = true) :
    Canonical (execDbgauthCapture s) := by simp [execDbgauthCapture, h]

@[simp] theorem execDbgauthUpdate_canonical {s : State} (h : Memory.wf s.mem = true) (v : BitVec 544) :
    Canonical (execDbgauthUpdate v s) := by
  unfold execDbgauthUpdate
  split <;> simp [h]

/-! ## Power -/

@[simp] theorem execPowerGateEntry_canonical {s : State} (h : Memory.wf s.mem = true) (tile : Nat) :
    Canonical (execPowerGateEntry tile s) := by simp [execPowerGateEntry, h]

@[simp] theorem execRetainEntry_canonical {s : State} (h : Memory.wf s.mem = true) (tile : Nat) :
    Canonical (execRetainEntry tile s) := by simp [execRetainEntry, h]

@[simp] theorem execPowerWake_canonical {s : State} (h : Memory.wf s.mem = true) (tile : Nat) :
    Canonical (execPowerWake tile s) := by
  unfold execPowerWake
  dsimp only
  (repeat' split) <;> simp +contextual [h]

@[simp] theorem execPowerLimitWindow_canonical {s : State} (h : Memory.wf s.mem = true) (tile : Nat) :
    Canonical (execPowerLimitWindow tile s) := by simp [execPowerLimitWindow, h]

/-! ## Reset, boot and tiles in service -/

@[simp] theorem execMmioRegisterWrite_canonical {s : State} (h : Memory.wf s.mem = true) (offset size : Nat) (v : BitVec 64) :
    Canonical (execMmioRegisterWrite offset size v s) := by simp [execMmioRegisterWrite, h]

@[simp] theorem State.forceSave_wf {s : State} (h : Memory.wf s.mem = true) (ctx : Nat) :
    Memory.wf (s.forceSave ctx).mem = true := by
  unfold State.forceSave
  split <;> simp [h]

@[simp] theorem execTileRetire_canonical {s : State} (h : Memory.wf s.mem = true) (tile : Nat) (force : Bool) :
    Canonical (execTileRetire tile force s) := by
  unfold execTileRetire
  (repeat' split) <;> simp +contextual [h, foldl_wf]

@[simp] theorem execDeviceReset_canonical {s : State} (h : Memory.wf s.mem = true) :
    Canonical (execDeviceReset s) := by
  rw [execDeviceReset, canonical_next]
  rfl

@[simp] theorem execFirmwareImageDoe_canonical {s : State} (h : Memory.wf s.mem = true) (image : List Byte) :
    Canonical (execFirmwareImageDoe image s) := by simp [execFirmwareImageDoe, h]

@[simp] theorem execGetVersion_canonical {s : State} (h : Memory.wf s.mem = true) (endpoint : Nat) (request : List Byte) :
    Canonical (execGetVersion endpoint request s) := by simp [execGetVersion, h]

@[simp] theorem execGetCapabilities_canonical {s : State} (h : Memory.wf s.mem = true) (endpoint : Nat) (request : List Byte) :
    Canonical (execGetCapabilities endpoint request s) := by simp [execGetCapabilities, h]

@[simp] theorem execNegotiateAlgorithms_canonical {s : State} (h : Memory.wf s.mem = true) (endpoint : Nat) (request : List Byte) :
    Canonical (execNegotiateAlgorithms endpoint request s) := by simp [execNegotiateAlgorithms, h]

@[simp] theorem execGetDigests_canonical {s : State} (h : Memory.wf s.mem = true) (endpoint : Nat) (request : List Byte) :
    Canonical (execGetDigests endpoint request s) := by simp [execGetDigests, h]

@[simp] theorem execGetCertificate_canonical {s : State} (h : Memory.wf s.mem = true) (endpoint : Nat) (request : List Byte) :
    Canonical (execGetCertificate endpoint request s) := by simp [execGetCertificate, h]

@[simp] theorem execChallenge_canonical {s : State} (h : Memory.wf s.mem = true) (endpoint : Nat) (request : List Byte) :
    Canonical (execChallenge endpoint request s) := by simp [execChallenge, h]

@[simp] theorem execGetMeasurements_canonical {s : State} (h : Memory.wf s.mem = true) (endpoint : Nat) (request : List Byte) :
    Canonical (execGetMeasurements endpoint request s) := by simp [execGetMeasurements, h]

/-! ## The timing block -/

@[simp] theorem execTimensRead_canonical {s : State} (h : Memory.wf s.mem = true) :
    Canonical (execTimensRead s) := by simp [execTimensRead, h]

@[simp] theorem execTimeadjWrite_canonical {s : State} (h : Memory.wf s.mem = true) (v : BitVec 32) :
    Canonical (execTimeadjWrite v s) := by simp [execTimeadjWrite, h]

@[simp] theorem execTimestepWrite_canonical {s : State} (h : Memory.wf s.mem = true) (v : BitVec 64) :
    Canonical (execTimestepWrite v s) := by simp [execTimestepWrite, h]

@[simp] theorem execPpsEdge_canonical {s : State} (h : Memory.wf s.mem = true) :
    Canonical (execPpsEdge s) := by simp [execPpsEdge, h]

@[simp] theorem execTrigsecWrite_canonical {s : State} (h : Memory.wf s.mem = true) (n : Nat) (v : BitVec 64) :
    Canonical (execTrigsecWrite n v s) := by simp [execTrigsecWrite, h]

@[simp] theorem State.fireTrigger_wf {s : State} (h : Memory.wf s.mem = true) (n : Nat) (failed : Bool) :
    Memory.wf (s.fireTrigger n failed).mem = true := by
  unfold State.fireTrigger
  extract_lets g off put
  refine ite_wf h ?_
  split
  · next e =>
    have hu := (enqueueRecord_canonical _ _ _).ends h e
    exact hu
  · exact h
  · exact h

@[simp] theorem execTriggerFire_canonical {s : State} (h : Memory.wf s.mem = true) (n : Nat) :
    Canonical (execTriggerFire n s) := by simp [execTriggerFire, h]

/-! ## Refresh and the controllers -/

@[simp] theorem execRefreshDuePoint_canonical {s : State} (h : Memory.wf s.mem = true) (pch tid : Nat) :
    Canonical (execRefreshDuePoint pch tid s) := by simp [execRefreshDuePoint, h]

@[simp] theorem execGuardRefresh_canonical {s : State} (h : Memory.wf s.mem = true) (pch : Nat) :
    Canonical (execGuardRefresh pch s) := by simp [execGuardRefresh, h]

@[simp] theorem execRefreshInterval_canonical {s : State} (h : Memory.wf s.mem = true) (pch : Nat) :
    Canonical (execRefreshInterval pch s) := by simp [execRefreshInterval, h]

@[simp] theorem execPerBankRefresh_canonical {s : State} (h : Memory.wf s.mem = true) (pch : Nat) :
    Canonical (execPerBankRefresh pch s) := by simp [execPerBankRefresh, h]

@[simp] theorem State.workRefresh_wf {s : State} (h : Memory.wf s.mem = true) :
    Memory.wf (s.workRefresh).mem = true := by
  have run {u : State} (hu : Memory.wf u.mem = true) (ns : List Nat) {event : Nat → State → Host.Outcome State Fault Refusal}
      (he : ∀ n s, Memory.wf s.mem = true → Canonical (event n s)) : Memory.wf (ns.foldl (fun s n => nextOr s (event n s)) u).mem = true :=
    foldl_wf (fun s n hs => nextOr_wf hs (he n s hs)) ns hu
  exact run (run (run h _ fun n s hs => execGuardRefresh_canonical hs n) _ fun n s hs => execRefreshInterval_canonical hs n) _
    fun n s hs => execPerBankRefresh_canonical hs n

@[simp] theorem execReorderLimit_canonical {s : State} (h : Memory.wf s.mem = true) (pch : Nat) :
    Canonical (execReorderLimit pch s) := by
  rw [execReorderLimit, canonical_next]
  split
  · exact h
  · next tid e _ => exact nextOr_wf h (execAtomicPerform_canonical (nextOr_wf h (execLoadDataArrival_canonical h tid e)) tid e)

@[simp] theorem execRowRepair_canonical {s : State} (h : Memory.wf s.mem = true) (addr : Nat) :
    Canonical (execRowRepair addr s) := by simp [execRowRepair, h]

/-! ## Fatal halts and dumps -/

@[simp] theorem State.commitPushes_wf {s : State} (h : Memory.wf s.mem = true) (ctx : Nat) :
    Memory.wf (s.commitPushes ctx).mem = true := foldl_wf (fun s r hs => foldl_wf (fun s p hs => ite_wf (nextOr_wf hs
        (execQpushCommit_canonical hs _ _)) hs) _ hs) _ h

@[simp] theorem State.completeHalt_wf {s : State} (h : Memory.wf s.mem = true) (ctx : Nat) :
    Memory.wf (s.completeHalt ctx).mem = true := by
  unfold State.completeHalt
  extract_lets a tids b c d e
  have ha : Memory.wf a.mem = true := State.settleTransit_wf h _
  have hb : Memory.wf b.mem = true := foldl_wf (fun s t hs => by simp [hs]) _ ha
  have hc : Memory.wf c.mem = true :=
    foldl_wf (fun s t hs => foldl_wf (fun s e hs => ite_wf (nextOr_wf hs (execAtomicPerform_canonical hs _ _)) hs) _ hs) _ hb
  have hd : Memory.wf d.mem = true := State.commitPushes_wf hc _
  exact foldl_wf (f := fun s t => (s.settleArrivals t).modThread t Thread.keepHalted) (fun s t hs => by simp [hs]) _ hd

@[simp] theorem State.dumpBurst_wf {s : State} (h : Memory.wf s.mem = true) (ctx base size off : Nat) (bs : List Byte) :
    Memory.wf (s.dumpBurst ctx base size off bs).2.mem = true := by
  unfold State.dumpBurst
  extract_lets va
  split
  · exact h
  · obtain ⟨r, u, found, kept⟩ := answers (s.translateAs_mem true ioTile ctx va .write)
    have hu := wf_of_mem kept h
    rw [found]
    cases r <;> simp [hu]

@[simp] theorem State.dumpBursts_wf {s : State} (h : Memory.wf s.mem = true) (ctx base size off x : Nat) (x1 : List Byte) :
    Memory.wf (s.dumpBursts ctx base size off x x1).2.mem = true := by
  induction x generalizing s off x1 with
  | zero => exact h
  | succ n ih =>
    unfold State.dumpBursts
    dsimp only
    split
    · exact h
    · split
      · exact State.dumpBurst_wf h ..
      · exact ih (State.dumpBurst_wf h ..) ..

@[simp] theorem State.dumpSections_wf {s : State} (h : Memory.wf s.mem = true) (ctx base size x : Nat) (x1 : List DumpPart) :
    Memory.wf (s.dumpSections ctx base size x x1).2.mem = true := by
  induction x1 generalizing s x with
  | nil => exact h
  | cons p ps ih => exact ih (State.dumpBursts_wf h ..) _

@[simp] theorem State.writeDump_wf {s : State} (h : Memory.wf s.mem = true) (ctx : Nat) (c : Context) :
    Memory.wf (s.writeDump ctx c).mem = true := by
  unfold State.writeDump
  extract_lets base size parts r d g
  have hr : Memory.wf r.2.mem = true := State.dumpSections_wf h ..
  have hd : Memory.wf d.2.mem = true := State.dumpBursts_wf hr ..
  have hg : Memory.wf g.2.mem = true := by
    dsimp only [g]
    split
    · exact hd
    · exact State.dumpBursts_wf hd ..
  simpa using hg

@[simp] theorem State.failLaunches_wf {s : State} (h : Memory.wf s.mem = true) (ctx code : Nat) :
    Memory.wf (s.failLaunches ctx code).mem = true := by simp +contextual [State.failLaunches, h, foldl_wf]

@[simp] theorem execDumpWrite_canonical {s : State} (h : Memory.wf s.mem = true) (ctx : Nat) :
    Canonical (execDumpWrite ctx s) := by
  rw [execDumpWrite, canonical_next]
  split
  · exact h
  · have halted := State.completeHalt_wf h ctx
    exact ite_wf h (wf_of_mem (State.modCtx_mem ..) (State.failLaunches_wf (ite_wf (State.writeDump_wf halted ..) halted) ..))

/-! ## The draw of a selector -/

@[simp] theorem State.holdChain_wf {s : State} (h : Memory.wf s.mem = true) (iss : Issue) (reason index : Nat) :
    Memory.wf (s.holdChain iss reason index).mem = true := by simp [State.holdChain, h]

@[simp] theorem State.drawChain_wf {s : State} (h : Memory.wf s.mem = true) (iss : Issue) (ds : List Decoded) (again : Bool) :
    Memory.wf (s.drawChain iss ds again).mem = true := by
  unfold State.drawChain
  extract_lets b group fresh ds' last iss' is waits
  split
  · exact State.holdChain_wf h ..
  · split
    · exact State.holdChain_wf h ..
    · split
      · simpa using h
      · exact ite_wf (by simpa using h) (ite_wf (State.holdChain_wf h ..) (by simpa using h))

@[simp] theorem State.drawGroup_wf {s : State} (h : Memory.wf s.mem = true) (tile part lead : Nat) (slots : List (Nat × Nat))
    (again : Bool) :
    Memory.wf (s.drawGroup tile part lead slots again).mem = true := by
  unfold State.drawGroup
  split
  · exact h
  · next t _ =>
    obtain ⟨f, u, found, kept⟩ := answers (s.fetchPacket_mem tile t.ctx t.pc)
    have hu := wf_of_mem kept h
    dsimp only
    rw [found]
    cases f with
    | ok pas => exact State.drawChain_wf (wf_of_mem (State.acceptRead_mem ..) hu) ..
    | _ => simpa using hu

@[simp] theorem State.draw_wf {s : State} (h : Memory.wf s.mem = true) (tile part : Nat) :
    Memory.wf (s.draw tile part).mem = true := by
  unfold State.draw
  extract_lets here u
  have hu : Memory.wf u.mem = true := foldl_wf (fun s x hs => by simp [hs]) _ h
  clear_value u
  refine ite_wf hu ?_
  split
  · dsimp only
    split
    · simpa using hu
    · exact ite_wf (State.drawGroup_wf hu ..) hu
  · split
    · exact hu
    · split
      · exact hu
      · exact State.drawGroup_wf hu ..

@[simp] theorem execSelectorDraw_canonical {s : State} (h : Memory.wf s.mem = true) (tile part : Nat) :
    Canonical (execSelectorDraw tile part s) := by simp [execSelectorDraw, h]

/-! ## The boundary after a chain -/

@[simp] theorem State.exitThread_wf {s : State} (h : Memory.wf s.mem = true) (tid : Nat) :
    Memory.wf (s.exitThread tid).mem = true := by
  unfold State.exitThread
  (repeat' split) <;> simp +contextual [h]

@[simp] theorem State.settleExits_wf {s : State} (h : Memory.wf s.mem = true) :
    Memory.wf (s.settleExits).mem = true := by simp +contextual [State.settleExits, h, foldl_wf]

@[simp] theorem State.depart_wf {s : State} (h : Memory.wf s.mem = true) (iss : Issue) (tid : Nat) :
    Memory.wf (s.depart iss tid).mem = true := by
  unfold State.depart
  (repeat' split) <;> simp +contextual [h]

@[simp] theorem State.retire_wf {s : State} (h : Memory.wf s.mem = true) :
    Memory.wf (s.retire).mem = true := by
  unfold State.retire
  split
  · exact h
  · next iss _ =>
    extract_lets u v w
    have hv : Memory.wf v.mem = true := by
      dsimp only [v]
      split
      · simpa using h
      · exact foldl_wf (fun s x hs => by simp [hs]) _ h
    have hw : Memory.wf w.mem = true := foldl_wf (fun s x hs => by simp [hs]) _ hv
    simp [hw]

/-! ## One cycle -/

theorem State.each_wf {α : Type} {s : State} (h : Memory.wf s.mem = true) (xs : List α) {event : α → State
    → Host.Outcome State Fault Refusal}
    (he : ∀ x s, Memory.wf s.mem = true → Canonical (event x s)) : Memory.wf (s.each xs event).mem = true :=
  foldl_wf (fun s x hs => nextOr_wf hs (he x s hs)) xs h

@[simp] theorem State.workEntry_wf {s : State} (h : Memory.wf s.mem = true) (tid : Nat) (e : Entry) :
    Memory.wf (s.workEntry tid e).mem = true := by
  unfold State.workEntry
  extract_lets u
  have hu : Memory.wf u.mem = true := ite_wf h (nextOr_wf h (execRaceCheckResult_canonical h _ _))
  clear_value u
  split
  · exact nextOr_wf hu (execLoadDataArrival_canonical hu _ _)
  · exact nextOr_wf hu (execLoadDataArrival_canonical hu _ _)
  · exact nextOr_wf hu (execDieldComplete_canonical hu _ _)
  · exact nextOr_wf hu (execFtabldComplete_canonical hu _ _)
  · exact nextOr_wf hu (execLaunchEnqueue_canonical hu _ _)
  · exact nextOr_wf hu (execQpopReply_canonical hu _ _)
  · have performed := nextOr_wf hu (execAtomicPerform_canonical hu tid e.id)
    exact ite_wf (nextOr_wf performed (execAtomReply_canonical performed tid e.id)) hu

@[simp] theorem State.workEntries_wf {s : State} (h : Memory.wf s.mem = true) :
    Memory.wf (s.workEntries).mem = true := foldl_wf (fun s x hs => ite_wf (foldl_wf (fun s e hs => State.workEntry_wf hs ..) _ hs) hs) _ h

@[simp] theorem workOp_canonical {s : State} (h : Memory.wf s.mem = true) (id : Nat) (op : Op) :
    Canonical (workOp id op s) := by
  have expanded : Canonical (execMmaPerform id (s.each (List.range 128) fun b => execBlockExpand id b)) :=
    execMmaPerform_canonical (State.each_wf h _ fun b s hs => execBlockExpand_canonical hs id b) id
  have copied : Canonical ((if op.performed then execCastBarrierArrival id else execCasterCopy id) s) := by
    split
    · exact execCastBarrierArrival_canonical h id
    · exact execCasterCopy_canonical h id
  have sent : Canonical ((if op.performed then execFsendLocalComplete id else execFsendPerform id) s) := by
    split
    · exact execFsendLocalComplete_canonical h id
    · exact execFsendPerform_canonical h id
  generalize e : workOp id op = event
  unfold workOp at e
  generalize (if op.performed then execCastBarrierArrival id else execCasterCopy id) = copy at copied e
  generalize (if op.performed then execFsendLocalComplete id else execFsendPerform id) = send at sent e
  split at e <;> subst e
  · exact copied
  · exact copied
  · exact copied
  · exact execCastwPerform_canonical h id
  · exact execCastwPerform_canonical h id
  · exact execCasttabPerform_canonical h id
  · exact expanded
  · exact expanded
  · exact execAcczPerform_canonical h id
  · exact execAccldPerform_canonical h id
  · exact execAccstPerform_canonical h id
  · exact execAccstAddPerform_canonical h id
  · exact execAccrdPerform_canonical h id
  · exact execMseqPerform_canonical h id
  · exact execTileReductionPerform_canonical h id
  · exact execTileReductionPerform_canonical h id
  · exact execTileReductionPerform_canonical h id
  · exact execClampSumPerform_canonical h id
  · exact execClampSumPerform_canonical h id
  · exact execAdjbPerform_canonical h id
  · exact execCrSetReduction_canonical h id
  · exact execCrSetReduction_canonical h id
  · exact execCrSetReduction_canonical h id
  · exact execCrSetReduction_canonical h id
  · exact execCrSetReduction_canonical h id
  · exact execTraceWalk_canonical h id
  · exact execTraceWalk_canonical h id
  · exact execSpectralFetch_canonical h id
  · exact execRgbUpsampleFetch_canonical h id
  · exact execCmfProjectFetch_canonical h id
  · exact execFilmAddPerform_canonical h id
  · exact execFilmRdPerform_canonical h id
  · exact execRastPerform_canonical h id
  · exact execVisrdPerform_canonical h id
  · exact sent
  · exact execFcollPushPerform_canonical h id
  · exact (canonical_next _).mpr (State.fwinPerform_wf h id)
  · exact (canonical_next _).mpr h

@[simp] theorem State.workOps_wf {s : State} (h : Memory.wf s.mem = true) :
    Memory.wf (s.workOps).mem = true := foldl_wf (fun s x hs => by split; exact nextOr_wf hs (workOp_canonical hs _ _); exact hs) _ h

@[simp] theorem State.workRings_wf {s : State} (h : Memory.wf s.mem = true) :
    Memory.wf (s.workRings).mem = true := foldl_wf (fun s r hs => State.each_wf hs _ fun p s hs => execQpushCommit_canonical hs _ _) _ h

@[simp] theorem State.workFabric_wf {s : State} (h : Memory.wf s.mem = true) :
    Memory.wf (s.workFabric).mem = true := by
  unfold State.workFabric
  extract_lets a b c d
  have ha : Memory.wf a.mem = true := State.each_wf h _ fun n s hs => execResendTimeout_canonical hs n
  have hb : Memory.wf b.mem = true := State.each_wf ha _ fun x s hs => execFabricReleasePerform_canonical hs _ _
  have hc : Memory.wf c.mem = true := ite_wf hb (by simpa using hb)
  have hd : Memory.wf d.mem = true := State.each_wf hc _ fun p s hs => execCollectiveDelivery_canonical hs _ _
  exact foldl_wf (fun s x hs => State.endTree_wf hs _) _ hd

@[simp] theorem State.workLines_wf {s : State} (h : Memory.wf s.mem = true) :
    Memory.wf (s.workLines).mem = true := foldl_wf (fun s x hs => State.each_wf hs _ fun n s hs =>
        execCombineLineIdleDrain_canonical hs _ n) _ h

@[simp] theorem State.workImages_wf {s : State} (h : Memory.wf s.mem = true) :
    Memory.wf (s.workImages).mem = true := by
  unfold State.workImages
  extract_lets a b
  have ha : Memory.wf a.mem = true := foldl_wf (fun s x hs => foldl_wf (fun s y hs =>
    State.each_wf hs _ fun e s hs => execDetachedReplyAfterSave_canonical hs _ _ _) _ hs) _ h
  have hb : Memory.wf b.mem = true := State.each_wf ha _ fun n s hs => execFilmAddPerform_canonical hs n
  exact State.each_wf hb _ fun n s hs => execCtxloadRestore_canonical hs n

@[simp] theorem State.workCells_wf {s : State} (h : Memory.wf s.mem = true) :
    Memory.wf (s.workCells).mem = true := by
  unfold State.workCells
  extract_lets a b
  have ha : Memory.wf a.mem = true := State.each_wf h _ fun n s hs => execCellComplete_canonical hs n
  have hb : Memory.wf b.mem = true := State.each_wf ha _ fun n s hs => execStealMeshSwitch_canonical
    (nextOr_wf (nextOr_wf hs (execStealRequest_canonical hs n)) (execStealRetry_canonical (nextOr_wf hs
        (execStealRequest_canonical hs n)) n)) n
  exact foldl_wf (fun s x hs => nextOr_wf hs (execStealResponse_canonical hs _ _)) _ hb

@[simp] theorem State.workStages_wf {s : State} (h : Memory.wf s.mem = true) :
    Memory.wf (s.workStages).mem = true := by
  refine foldl_wf (fun s x hs => ?_) _ h
  have fed : Memory.wf (s.each (List.range x.2.stages.length) fun n s =>
      if (x.2.stages[n]?).any fun t => t.input.isSome then execQageTimeout x.1 n (nextOr s
          (execQueueFedPlace x.1 n s)) else .next s).mem = true := by
    refine State.each_wf hs _ fun n s hs => ?_
    rw [canonical_ite]
    split
    · exact execQageTimeout_canonical (nextOr_wf hs (execQueueFedPlace_canonical hs _ _)) _ _
    · simpa using hs
  have closed := State.each_wf fed (List.range x.2.stages.length) fun n s hs => execStageClose_canonical hs x.1 n
  exact ite_wf (nextOr_wf fed (execStageEpoch_canonical closed _)) fed

@[simp] theorem State.workDistributor_wf {s : State} (h : Memory.wf s.mem = true) :
    Memory.wf (s.workDistributor).mem = true := by
  unfold State.workDistributor
  extract_lets a
  have ha : Memory.wf a.mem = true :=
    foldl_wf (fun s c hs => State.each_wf hs _ fun prio s hs => execDistributorExamine_canonical hs _ _) _ h
  exact ite_wf (wf_of_mem (State.stopStages_mem ..) (State.each_wf ha _ fun q s hs => execPlaceCluster_canonical hs q)) ha

@[simp] theorem State.workRiddle_wf {s : State} (h : Memory.wf s.mem = true) :
    Memory.wf (s.workRiddle).mem = true := by
  unfold State.workRiddle
  extract_lets a mobile keys b
  have ha : Memory.wf a.mem = true := State.each_wf h _ fun n s hs => execThreadArrival_canonical hs n
  have hb : Memory.wf b.mem = true := State.each_wf ha _ fun k s hs => execRiddleMove_canonical hs _ _ _ _
  exact ite_wf ha (State.each_wf hb _ fun n s hs => execThreadExport_canonical hs n)

@[simp] theorem State.workFaults_wf {s : State} (h : Memory.wf s.mem = true) :
    Memory.wf (s.workFaults).mem = true := by
  unfold State.workFaults
  extract_lets a b
  have ha : Memory.wf a.mem = true := State.each_wf h _ fun n s hs => execDumpWrite_canonical hs n
  have hb : Memory.wf b.mem = true := nextOr_wf ha (execFaultRecordPost_canonical ha)
  exact ite_wf hb (by simpa using hb)

@[simp] theorem State.countDebug_wf {s : State} (h : Memory.wf s.mem = true) :
    Memory.wf (s.countDebug).mem = true := by
  refine foldl_wf (fun s x hs => ?_) _ h
  have hu {c : Prop} [Decidable c] {tile part : Nat} : Memory.wf (if c then s else s.countIdle tile part).mem = true :=
    ite_wf hs (by simpa using hs)
  exact ite_wf (nextOr_wf hu (execPcSample_canonical hu _ _)) hu

@[simp] theorem State.countTiles_wf {s : State} (h : Memory.wf s.mem = true) :
    Memory.wf (s.countTiles).mem = true := foldl_wf (fun s n hs => nextOr_wf hs (execPowerWake_canonical (by exact hs) n)) _ h

@[simp] theorem State.settleWaits_wf {s : State} (h : Memory.wf s.mem = true) :
    Memory.wf (s.settleWaits).mem = true := by
  have settled : Memory.wf (s.threads.foldl (fun s x => s.settleArrivals x.1) s).mem = true := foldl_wf (fun s x hs => by simp [hs]) _ h
  unfold State.settleWaits
  simp [settled]

@[simp] theorem State.advance_wf {s : State} (h : Memory.wf s.mem = true) :
    Memory.wf (s.advance).mem = true := by simp [State.advance, h]

@[simp] theorem State.tick_wf {s : State} (h : Memory.wf s.mem = true) :
    Memory.wf (s.tick).mem = true := by
  have engines : Memory.wf s.workEntries.workOps.workRings.workFabric.workLines.workImages.mem = true :=
    State.workImages_wf (State.workLines_wf (State.workFabric_wf (State.workRings_wf (State.workOps_wf (State.workEntries_wf h)))))
  have placed : Memory.wf s.workEntries.workOps.workRings.workFabric.workLines.workImages.settleWaits.workCells.workStages.workDistributor.mem =
      true := State.workDistributor_wf (State.workStages_wf (State.workCells_wf (State.settleWaits_wf engines)))
  exact State.advance_wf (State.countTiles_wf (State.countDebug_wf (State.settleWaits_wf
    (State.workFaults_wf (State.workRefresh_wf (State.workRiddle_wf placed))))))

/-! ## The step -/

theorem andThen_canonical {r : Host.Outcome State Fault Refusal} {f : State → State} (hr : Canonical r)
    (hf : ∀ s, Memory.wf s.mem = true → Memory.wf (f s).mem = true) : Canonical (andThen r f) := by
  cases r with
  | next s => exact (canonical_next _).mpr (hf s (hr s rfl))
  | fault f => simp [andThen]
  | refused f => exact fun _ e => (nomatch e)

@[simp] theorem State.settleChain_wf {s : State} (h : Memory.wf s.mem = true) :
    Memory.wf (s.settleChain).mem = true := by
  unfold State.settleChain
  split <;> simp [h]

theorem State.issueItem_canonical {run : Instr → State → Host.Outcome State Fault Refusal}
    (hrun : ∀ i s, Memory.wf s.mem = true → Canonical (run i s)) {s : State} (h : Memory.wf s.mem = true) (iss : Issue) :
    Canonical (s.issueItem run iss) := by
  unfold State.issueItem
  split
  · exact (canonical_next _).mpr (State.retire_wf h)
  · exact andThen_canonical (hrun _ _ h) fun s hs => State.settleChain_wf hs

theorem State.issueNext_canonical {run : Instr → State → Host.Outcome State Fault Refusal}
    (hrun : ∀ i s, Memory.wf s.mem = true → Canonical (run i s)) {s : State} (h : Memory.wf s.mem = true) : Canonical (s.issueNext run) :=
        by
  unfold State.issueNext
  split
  · exact (canonical_next _).mpr h
  · split
    · exact State.issueItem_canonical hrun h _
    · split
      · exact (canonical_next _).mpr (State.retire_wf h)
      · exact State.issueItem_canonical hrun (by simpa using h) _

@[simp] theorem State.runDeferred_canonical {s : State} (h : Memory.wf s.mem = true) (x : Deferred) :
    Canonical (s.runDeferred x) := by
  unfold State.runDeferred
  split <;> simp [h]

theorem State.turn_canonical {run : Instr → State → Host.Outcome State Fault Refusal}
    (hrun : ∀ i s, Memory.wf s.mem = true → Canonical (run i s)) {s : State} (h : Memory.wf s.mem = true) : Canonical (s.turn run) := by
  unfold State.turn
  split
  · exact (canonical_next _).mpr (State.tick_wf h)
  · next k _ =>
    have drawn := execSelectorDraw_canonical (s := { s with focus := ((k + 1) / 4, (k + 1) % 4) }) h (k / 4) (k % 4)
    split
    · next e => exact State.issueNext_canonical hrun (drawn _ e)
    · exact drawn

theorem exec_canonical {s : State} (h : Memory.wf s.mem = true) (i : Instr) : Canonical (exec i s) := by
  cases i
  case iadd | isub | imul | imulh | imin | imax | iabs | ineg | iand | ior | ixor | iandn | ishl | ishr | isar | irol | imad | imadh
      | isad | ipopc | iclz | ictz | ibrev | ibfx | idiv | irem | mov | iadd64 | isub64 | ishl64 | ishr64 | iaddi | imuli | iandi | iori
      | ixori | ishli | ishri | isari | iroli | fadd | fsub | fmul | ffma | fmin | fmax | fabs | fneg | fdiv | fsqrt | frcp | frsq
      | ffloor | fceil | ftrunc | frint | fclass | fcopys | fscale | ffrac | ftab | rand | hadd | hsub | hmul | hfma | dadd | dsub | dmul
      | dfma | cvt | cvts | pack | unpack | fexp2 | flog2 | fsin | fcos | icmp | fcmp | hcmp | dcmp | icmpi | pand | por | pxor | pandn
      | sel | ktov | vtok | sadd | ssub | smul | sfma | smin | smax | sdiv | ssqrt | sexp | shsum | sdot | sbcast | slane | sins | scmp
      | ssel | scvtNarrow | scvtWiden | swls | spol | sfres | smdiel => exact State.run_canonical h _ _
  all_goals simp [exec, h]

theorem State.stepWith_canonical {run : Instr → State → Host.Outcome State Fault Refusal}
    (hrun : ∀ i s, Memory.wf s.mem = true → Canonical (run i s)) {s : State} (h : Memory.wf s.mem = true) : Canonical (s.stepWith run) := by
  unfold State.stepWith
  split
  · exact State.issueNext_canonical hrun h
  · split
    · exact State.runDeferred_canonical (by exact h) _
    · exact hrun _ _ (by exact h)
    · split
      · exact State.turn_canonical hrun h
      · exact (canonical_next _).mpr (State.reinjectStep_wf h fun i s hs => nextOr_wf hs (hrun i s hs))

/-- Settles O23: every work, instruction and event keeps memory canonical, and a step runs one of these. -/
theorem memoryStaysCanonical : Obligations.MemoryStaysCanonical :=
  fun s s' h e => State.stepWith_canonical (fun i _ h => exec_canonical h i) h s' e

end Sys2Proof.Machine
end

section
/-! PROOFS. Power states, the power limit, device reset, images, identity and tile retirement (R395, R413 to R416, R420). -/
namespace Sys2Proof.Machine

/-! ## One tile changes -/

/-- What a power event may change: the tiles' table and the free values it drew, and of the tiles only its own. -/
def OnlyTile (s u : State) (n : Nat) : Prop := u = { s with tiles := u.tiles, free := u.free } ∧ ∀ k, k ≠ n → u.tile k = s.tile k

theorem State.setTile_only (s : State) (n : Nat) (t : Tile) : OnlyTile s (s.setTile n t) n :=
  ⟨rfl, fun _ h => State.setTile_other s t h⟩

theorem State.setTile_draw_only (s : State) (n k : Nat) (t : Tile) : OnlyTile s ({ s with free := k }.setTile n t) n :=
  ⟨rfl, fun _ h => State.setTile_other { s with free := k } t h⟩

theorem OnlyTile.refl (s : State) (n : Nat) : OnlyTile s s n := ⟨rfl, fun _ _ => rfl⟩

/-! ## Power states (R413) -/

section
variable {s : State} {n : Nat}

theorem powerGateEntry_gates (hp : (s.tile n).power = .run) (hr : s.hasReady n = false) (hw : s.hasWork n = false) :
    exec (.powerGateEntry n) s = .next (s.setTile n { s.tile n with power := .gated }) :=
  congrArg Host.Outcome.next (if_pos (by simp [hp, hr, hw]))

theorem powerGateEntry_stays (h : (s.tile n).power ≠ .run ∨ s.hasReady n = true ∨ s.hasWork n = true) :
    exec (.powerGateEntry n) s = .next s :=
  congrArg Host.Outcome.next (if_neg fun ⟨hp, hr, hw⟩ => by simp_all)

theorem retainEntry_retains (hp : (s.tile n).power ≠ .retain) (hr : s.resident n = false) (hw : s.hasWork n = false)
    (late : (s.tile n).busy + 1000 * (s.tile n).tfreq ≤ s.cycle) :
    exec (.retainEntry n) s = .next (s.setTile n { s.tile n with power := .retain, tvolt := 480 }) :=
  congrArg Host.Outcome.next (if_pos ⟨hp, by simp [hr], by simp [hw], late⟩)

theorem retainEntry_stays (h : s.resident n = true ∨ s.hasWork n = true) : exec (.retainEntry n) s = .next s :=
  congrArg Host.Outcome.next (if_neg fun ⟨_, hr, hw, _⟩ => by simp_all)

/-- Where work is, the tile runs; from retention its supply comes back to 540 mV or more. -/
theorem powerWake_wakes (h : s.hasReady n = true ∨ s.hasWork n = true) : ∃ u, exec (.powerWake n) s = .next u ∧ OnlyTile s u n ∧
    (u.tile n).power = .run ∧ ((s.tile n).power = .retain → 540 ≤ (u.tile n).tvolt) ∧
    ((s.tile n).power ≠ .retain → (u.tile n).tvolt = (s.tile n).tvolt) := by
  have woken : exec (.powerWake n) s = .next (match (s.tile n).power with
      | .run => s
      | .gated => s.setTile n { s.tile n with power := .run }
      | .retain => { s with free := s.free + 1 }.setTile n { s.tile n with power := .run, tvolt := supplyUpTo 700 s.free }) :=
    congrArg Host.Outcome.next (if_pos (by simpa using h))
  refine ⟨_, woken, ?_⟩
  cases hp : (s.tile n).power with
  | run => exact ⟨.refl s n, hp, nofun, fun _ => rfl⟩
  | gated => exact ⟨State.setTile_only .., by simp, nofun, fun _ => by simp⟩
  | retain => exact ⟨State.setTile_draw_only .., by simp, fun _ => by simp [supplyUpTo], fun h => absurd rfl h⟩

theorem powerWake_stays (hr : s.hasReady n = false) (hw : s.hasWork n = false) : exec (.powerWake n) s = .next s :=
  congrArg Host.Outcome.next (if_neg (by simp [hr, hw]))

end

/-! ## The power limit (R414) -/

@[simp] theorem Tile.spend_pwrlim (t : Tile) : t.spend.pwrlim = t.pwrlim := by unfold Tile.spend; split <;> rfl

@[simp] theorem Tile.spend_tfreq (t : Tile) : t.spend.tfreq = t.tfreq := by unfold Tile.spend; split <;> rfl

theorem powerLimitWindow_limits (s : State) (n : Nat) : ∃ u, exec (.powerLimitWindow n) s = .next u ∧ OnlyTile s u n ∧
    (u.tile n).tpwr ≤ (u.tile n).pwrlim ∧ (u.tile n).pwrlim = (s.tile n).pwrlim ∧ (u.tile n).ttemp < 65536 ∧
    (u.tile n).tfreq ≤ (s.tile n).tfreq := by
  refine ⟨_, rfl, State.setTile_draw_only .., ?_⟩
  rw [State.setTile_same]
  have temperature : Config.telemetry (s.free + 1) % 65536 < 65536 := Nat.mod_lt _ (by decide)
  split
  · exact ⟨Nat.min_le_right .., Tile.spend_pwrlim _, temperature,
      Nat.le_of_lt_succ ((Nat.mod_lt _ (Nat.succ_pos _)).trans_eq (by simp))⟩
  · exact ⟨Nat.min_le_right .., Tile.spend_pwrlim _, temperature, (Tile.spend_tfreq _).le⟩

/-! ## Images and device reset (R395, R415) -/

/-- What measuring and retiring leave of a boot: its images and its phase. -/
def Boot.Kept (b c : Boot) : Prop := c.slotA = b.slotA ∧ c.slotB = b.slotB ∧ c.phase = b.phase

theorem Boot.Kept.trans {a b c : Boot} (h : a.Kept b) (k : b.Kept c) : a.Kept c := by
  obtain ⟨hA, hB, hp⟩ := h
  obtain ⟨kA, kB, kp⟩ := k
  exact ⟨kA.trans hA, kB.trans hB, kp.trans hp⟩

theorem Boot.extend_kept (b : Boot) (i : Nat) (c : List Byte) : b.Kept (b.extend i c) := ⟨rfl, rfl, rfl⟩

theorem Boot.retire_kept (b : Boot) (p : Nat) : b.Kept (b.retire p) := by
  unfold Boot.retire
  split
  · exact ⟨rfl, rfl, rfl⟩
  · refine .trans ?_ (Boot.extend_kept ..)
    split
    · exact ⟨rfl, rfl, rfl⟩
    · split <;> exact ⟨rfl, rfl, rfl⟩

theorem Boot.retireAll_kept (ps : List Nat) (b : Boot) : b.Kept (ps.foldl Boot.retire b) := by
  induction ps generalizing b with
  | nil => exact ⟨rfl, rfl, rfl⟩
  | cons p ps ih => exact (b.retire_kept p).trans (ih _)

/-- Firmware that starts is running and leaves the images as they are. -/
theorem Boot.start_kept (b : Boot) (image : List Byte) :
    (b.start image).slotA = b.slotA ∧ (b.start image).slotB = b.slotB ∧ (b.start image).phase = .running :=
  Boot.retireAll_kept _ _

theorem deviceReset_resets (s : State) : ∃ u, exec .deviceReset s = .next u ∧ u.threads = [] ∧ u.ctxs = [] ∧ u.mem = [] ∧ u.cycle = 0 ∧
    u.port.locked = true ∧ u.tiles = [] ∧ u.timing = {} ∧ u.fltring = 0 ∧ u.boot.slotA = s.boot.slotA ∧ u.boot.slotB = s.boot.slotB ∧
    (Config.imagePasses s.boot.slotA = false → Config.imagePasses s.boot.slotB = false → u.boot.phase = .recovery) ∧
    (Config.imagePasses s.boot.slotA = true → u.boot.phase = .running) := by
  refine ⟨_, rfl, rfl, rfl, rfl, rfl, rfl, rfl, rfl, rfl, ?_⟩
  dsimp only
  generalize hb : (({ slotA := s.boot.slotA, slotB := s.boot.slotB, responses := s.boot.responses } : Boot).extend 0 Config.rom).extend 7
    [Config.debugByte true] = b
  have hA : b.slotA = s.boot.slotA := hb ▸ rfl
  have hB : b.slotB = s.boot.slotB := hb ▸ rfl
  have chosen : b.chosen = if Config.imagePasses s.boot.slotA then some s.boot.slotA
      else if Config.imagePasses s.boot.slotB then some s.boot.slotB else none := by rw [Boot.chosen, hA, hB]
  cases hc : b.chosen with
  | none =>
    refine ⟨hA, hB, fun _ _ => rfl, fun passes => ?_⟩
    rw [chosen, if_pos passes] at hc
    cases hc
  | some image =>
    obtain ⟨kA, kB, running⟩ := b.start_kept image
    refine ⟨kA.trans hA, kB.trans hB, fun fails fails' => ?_, fun _ => running⟩
    rw [chosen, fails, fails'] at hc
    cases hc

theorem firmwareImageDoe_fails {image : List Byte} (h : Config.imagePasses image = false) (s : State) :
    exec (.firmwareImageDoe image) s = .next s := congrArg Host.Outcome.next (if_pos (by simp [h]))

theorem firmwareImageDoe_stores {image : List Byte} (h : Config.imagePasses image = true) (s : State) :
    ∃ u, exec (.firmwareImageDoe image) s = .next u ∧ u = { s with boot := u.boot } ∧ u.boot.slotA = image ∧
      (s.boot.phase = .recovery → u.boot.phase = .running) ∧
      (s.boot.phase ≠ .recovery → u.boot = { s.boot with slotA := image }) := by
  refine ⟨_, congrArg Host.Outcome.next (if_neg (by simp [h])), rfl, ?_⟩
  dsimp only
  split
  · next down =>
    obtain ⟨kA, -, running⟩ := ({ s.boot with slotA := image } : Boot).start_kept image
    exact ⟨kA, fun _ => running, fun up => absurd down up⟩
  · next up => exact ⟨rfl, fun down => absurd down up, fun _ => rfl⟩

/-! ## Identity (R416) -/

theorem State.respond_recovers {s : State} (h : s.boot.phase = .recovery) (e kind : Nat) (report request : List Byte) (signs : Bool) :
    s.respond e kind report request signs = s := if_pos h

theorem State.respond_answers {s : State} (h : s.boot.phase ≠ .recovery) (e kind : Nat) (report request : List Byte) (signs : Bool) :
    s.respond e kind report request signs = { s with boot := { s.boot with responses := s.boot.responses ++ [(e, request,
      let body := Config.spdmResponse (BitVec.ofNat 8 kind :: (report ++ request))
      if signs then body ++ Config.identitySign (request ++ body) else body)] } } := if_neg h

/-! ## Tiles in service (R420) -/

theorem tileRetire_refused {s : State} {tile : Nat} {force : Bool}
    (h : s.boot.retired.contains tile = true ∨ s.boot.phase = .recovery) : exec (.tileRetire tile force) s = .next s :=
  congrArg Host.Outcome.next (if_pos (by simpa using h))

theorem tileRetire_taken {s : State} {tile : Nat} {force : Bool} (fresh : s.boot.retired.contains tile = false)
    (up : s.boot.phase ≠ .recovery) : exec (.tileRetire tile force) s = .next (match s.boot.virtual tile with
      | none => { s with boot := s.boot.retire tile }
      | some v =>
        let s := { s with boot := { s.boot with
          retiring := if s.boot.retiring.contains v then s.boot.retiring else v :: s.boot.retiring } }
        State.finishRetiring (if force then (s.contextsOn v).foldl (fun s c => s.forceSave c) s else s)) :=
  congrArg Host.Outcome.next (if_neg (by simp_all))

/-- Settles O55: an event's guard decides between one changed tile and the state as it was; a reset, an image and a request of the identity
protocol follow the boot's phase. -/
theorem powerAndFirmware : Obligations.PowerAndFirmware := by
  refine ⟨⟨?_, fun s n h => powerGateEntry_stays h, ?_, fun s n h => retainEntry_stays h, fun s n h => powerWake_wakes h,
    fun s n hr hw => powerWake_stays hr hw, powerLimitWindow_limits⟩,
    deviceReset_resets, fun s image h => firmwareImageDoe_fails h s, fun s image h => firmwareImageDoe_stores h s, ?_, ?_,
    fun s tile force h => tileRetire_refused h, ?_, ?_⟩
  · exact fun s n hp hr hw => ⟨_, powerGateEntry_gates hp hr hw, State.setTile_only .., State.setTile_same ..⟩
  · exact fun s n hp hr hw late => ⟨_, retainEntry_retains hp hr hw late, State.setTile_only .., State.setTile_same ..⟩
  · intro s e request up
    refine ⟨?_, ?_, ?_, ?_, ?_, ?_, ?_⟩ <;> exact congrArg Host.Outcome.next (State.respond_answers up ..)
  · intro s e request down
    refine ⟨?_, ?_, ?_, ?_, ?_, ?_, ?_⟩ <;> exact congrArg Host.Outcome.next (State.respond_recovers down ..)
  · intro s tile force fresh up unserved
    rw [tileRetire_taken fresh up, unserved]
  · intro s tile v fresh up serves
    rw [tileRetire_taken fresh up, serves]
    rfl

end Sys2Proof.Machine
end

section
/-! PROOFS. The debug port and the debug block of a partition (R394 to R400, R404, R409, R410, R416). -/
namespace Sys2Proof.Machine

/-! ## The address register (R394) -/

theorem testBit_bitIf (b : Bool) (n i : Nat) : (bitIf b n).testBit i = (b && decide (n = i)) := by
  cases b <;> simp [bitIf, Nat.testBit_two_pow]

/-- A single bit above a number is added to it without a carry. -/
theorem bitIf_add (b : Bool) {n x : Nat} (h : x < 2 ^ n) : bitIf b n + x = bitIf b n ||| x := by
  cases b with
  | false => simp [bitIf]
  | true => simpa [bitIf] using Nat.two_pow_add_eq_or_of_lt h 1

/-- DBGADDR keeps WRITE and bits 55:3. -/
theorem dbgaddr_mask (v : BitVec 64) :
    BitVec.ofNat 64 (bitIf (v.getLsbD 63) 63 + v.toNat % 2 ^ 56 / 8 * 8) = v &&& 0x80FFFFFFFFFFFFF8#64 := by
  have mask : ∀ i < 64, (0x80FFFFFFFFFFFFF8#64).getLsbD i = (decide (63 = i) || decide (3 ≤ i) && decide (i ≤ 55)) := by decide
  have kept : v.toNat % 2 ^ 56 / 8 * 8 = bitsKept v.toNat 55 3 := by
    unfold bitsKept
    omega
  rw [kept, bitIf_add _ ((bitsKept_lt ..).trans (by decide))]
  refine BitVec.eq_of_getLsbD_eq fun i hi => ?_
  rw [BitVec.getLsbD_ofNat, BitVec.getLsbD_and, mask i hi, Nat.testBit_or, testBit_bitIf, testBit_bitsKept, BitVec.testBit_toNat,
    decide_eq_true hi]
  by_cases top : 63 = i
  · subst top
    simp
  · cases v.getLsbD i <;> simp [top]

/-- An address to read from moves on by 8. -/
theorem nextAddress_read {a : BitVec 64} (h : a.getLsbD 63 = false) :
    (BitVec.ofNat 64 (a.toNat / 2 ^ 63 * 2 ^ 63 + (a.toNat + 8) % 2 ^ 56)).toNat = (a.toNat + 8) % 2 ^ 56 := by
  have small : a.toNat < 2 ^ 63 := by
    have := BitVec.msb_eq_false_iff_two_mul_lt.mp (BitVec.msb_eq_getLsbD_last a ▸ h)
    omega
  rw [Nat.div_eq_of_lt small, BitVec.toNat_ofNat]
  omega

/-! ## The port's instructions (R394 to R397) -/

section
variable {s : State}

theorem bypass_selected {code : BitVec 8} (scan : List Bool) (h : code = 0xFF ∨ code ∉ portCodes) : exec (.bypass ⟨code, scan⟩) s = .next
    { s with port := { s.port with ir := code, driven := none, bypass := scan.getLastD false, captured := 0 } } :=
  congrArg Host.Outcome.next (if_neg fun ⟨ne, mem⟩ => h.elim ne fun out => out (by simpa using mem))

theorem bypass_refused {code : BitVec 8} (scan : List Bool) (ne : code ≠ 0xFF) (mem : code ∈ portCodes) :
    exec (.bypass ⟨code, scan⟩) s = .next s := congrArg Host.Outcome.next (if_pos ⟨ne, by simpa using mem⟩)

theorem dbgdataCapture_write (hw : s.port.addr.getLsbD 63 = true) : exec .dbgdataCapture s = .next
    (if s.port.locked then { s.select 0x21 with port := { (s.select 0x21).port with captured := 0 } } else s.select 0x21) :=
  congrArg Host.Outcome.next (if_pos hw)

theorem dbgdataCapture_locked (hw : s.port.addr.getLsbD 63 = false) (locked : s.port.locked = true) : exec .dbgdataCapture s = .next
    (State.nextAddress { s.select 0x21 with port := { (s.select 0x21).port with captured := 0 } }) := by
  refine congrArg Host.Outcome.next ((if_neg (Bool.eq_false_iff.mp hw)).trans ?_)
  rw [if_pos (show (s.select 0x21).port.locked = true from locked)]
  rfl

theorem dbgdataCapture_reads (hw : s.port.addr.getLsbD 63 = false) (unlocked : s.port.locked = false) :
    let r := (s.select 0x21).debugRead (s.port.addr.toNat % 2 ^ 56)
    exec .dbgdataCapture s = .next (State.nextAddress { r.2 with port := { r.2.port with captured := BitVec.ofNat 544 r.1 } }) := by
  refine congrArg Host.Outcome.next ((if_neg (Bool.eq_false_iff.mp hw)).trans ?_)
  rw [if_neg (show ¬(s.select 0x21).port.locked = true from Bool.eq_false_iff.mp unlocked)]
  rfl

theorem dbgdataUpdate_read (v : BitVec 64) (hw : s.port.addr.getLsbD 63 = false) : exec (.dbgdataUpdate v) s = .next (s.select 0x21) :=
  congrArg Host.Outcome.next (if_pos (congrArg not hw))

theorem dbgdataUpdate_writes (v : BitVec 64) (hw : s.port.addr.getLsbD 63 = true) : exec (.dbgdataUpdate v) s = .next
    (if s.port.locked then s.select 0x21 else (s.select 0x21).debugWrite (s.port.addr.toNat % 2 ^ 56) v.toNat).nextAddress :=
  congrArg Host.Outcome.next (if_neg (by simp [State.select, hw]))

theorem dbgauthUpdate_keyless (v : BitVec 544) (h : Config.ownerKey = none) : exec (.dbgauthUpdate v) s = .next (s.select 0x22) := by
  refine congrArg Host.Outcome.next ?_
  rw [h]

/-- The checks of an unlocking, with a key. -/
theorem dbgauthUpdate_checked (v : BitVec 544) {key : BitVec 256} (h : Config.ownerKey = some key) : exec (.dbgauthUpdate v) s = .next
    (if s.port.locked && decide (0 < s.port.nonces) && Config.sm2Verifies key s.port.message (v.setWidth 512) then
      { s.select 0x22 with port := { (s.select 0x22).port with locked := false }, boot := s.boot.extend 7 [Config.debugByte false] }
    else s.select 0x22) := by
  refine congrArg Host.Outcome.next ?_
  rw [h]
  rfl

end

/-! ## Partition blocks (R398 to R400, R404, R409, R410) -/

@[simp] theorem State.emit_debug (s : State) (kind ctx tile part : Nat) (wid : BitVec 64) (payload : List Byte) :
    (s.emit kind ctx tile part wid payload).debug = s.debug :=
  State.emit_keeps (f := State.debug) (fun s pa bs => s.setBytes_debug bs pa) (fun _ _ _ => rfl) (fun _ _ => rfl) ..

@[simp] theorem State.emit_block (s : State) (kind ctx tile part t p : Nat) (wid : BitVec 64) (payload : List Byte) :
    (s.emit kind ctx tile part wid payload).block t p = s.block t p := by simp [State.block]

section
variable {s : State} {tile part : Nat}

/-- A partition that has stopped keeps what it stopped for (R398). -/
theorem State.stopOne_block (reason ctx index cycle : Nat) : (s.stopOne tile part reason ctx index cycle).block tile part =
    if (s.block tile part).stopped then s.block tile part else { s.block tile part with
      stopped := true, stepping := false, reason := reason, ctx := ctx, index := index, stopcyc := cycle } := by
  unfold State.stopOne
  dsimp only
  split
  · rfl
  · simp

/-- With tracing off a stop changes no more than the blocks. -/
theorem State.stopOne_untraced (untraced : s.trace.ctl.getLsbD 31 = false) (reason ctx index cycle : Nat) :
    s.stopOne tile part reason ctx index cycle = { s with debug := (s.stopOne tile part reason ctx index cycle).debug } := by
  unfold State.stopOne
  dsimp only
  split
  · rfl
  · rw [State.emit_untraced (s := s.setBlock ..) untraced]
    rfl

theorem State.release_running (h : (s.block tile part).stopped = false) (stepping : Bool) : s.release tile part stepping = s :=
  if_neg (Bool.eq_false_iff.mp h)

theorem State.release_block (h : (s.block tile part).stopped = true) (stepping : Bool) :
    (s.release tile part stepping).block tile part = { s.block tile part with stopped := false, stepping := stepping } := by
  rw [State.release, if_pos h]
  exact State.setBlock_same ..

/-- A locked device does nothing in its partition blocks (R395). -/
theorem blocks_locked (locked : s.port.locked = true) : exec (.debugStopRequest tile part) s = .next s ∧
    exec (.debugRelease tile part) s = .next s ∧ exec (.debugStep tile part) s = .next s ∧
    (∀ v, exec (.thrdataWrite tile part v) s = .next s) ∧ exec (.laneCounterClear tile part) s = .next s ∧
    exec (.pcSample tile part) s = .next s :=
  ⟨congrArg Host.Outcome.next (if_pos locked), congrArg Host.Outcome.next (if_pos locked), congrArg Host.Outcome.next (if_pos locked),
    fun _ => congrArg Host.Outcome.next (if_pos locked), congrArg Host.Outcome.next (if_pos locked),
    congrArg Host.Outcome.next (if_pos (by simp [locked]))⟩

/-- The block's own POS chooses the thread, whatever is written to its data (R400). -/
theorem State.selected_setBlock {b : DebugBlock} (h : b.pos = (s.block tile part).pos) :
    (s.setBlock tile part b).selected tile part = s.selected tile part := by
  unfold State.selected
  rw [State.setBlock_same, h]
  rfl

section
variable (unlocked : s.port.locked = false)
include unlocked

theorem debugStopRequest_stops : ∃ u, exec (.debugStopRequest tile part) s = .next u ∧ (u.block tile part).stop = true ∧
    (u.block tile part).stopped = true ∧ (s.trace.ctl.getLsbD 31 = false → u = { s with debug := u.debug }) ∧
    ((s.block tile part).stopped = false → (u.block tile part).reason = 1 ∧ (u.block tile part).stopcyc = s.cycle) := by
  refine ⟨_, congrArg Host.Outcome.next (if_neg (by simp [unlocked])), ?_, ?_, fun untraced => ?_, fun running => ?_⟩
  · rw [State.stopOne_block, State.setBlock_same]
    split <;> rfl
  · rw [State.stopOne_block, State.setBlock_same]
    split
    · assumption
    · rfl
  · exact State.stopOne_untraced (s := s.setBlock ..) untraced ..
  · rw [State.stopOne_block, State.setBlock_same, if_neg (Bool.eq_false_iff.mp running)]
    exact ⟨rfl, rfl⟩

theorem debugRelease_releases : ∃ u, exec (.debugRelease tile part) s = .next u ∧ (u.block tile part).stop = false ∧
    (u.block tile part).stopped = false := by
  refine ⟨_, congrArg Host.Outcome.next (if_neg (by simp [unlocked])), ?_⟩
  cases h : (s.block tile part).stopped with
  | true =>
    rw [State.release_block (by simpa using h), State.setBlock_same]
    exact ⟨rfl, rfl⟩
  | false =>
    rw [State.release_running (by simpa using h), State.setBlock_same]
    exact ⟨rfl, h⟩

theorem debugStep_steps (stopped : (s.block tile part).stopped = true) : ∃ u, exec (.debugStep tile part) s = .next u ∧
    (u.block tile part).stopped = false ∧ (u.block tile part).stepping = true := by
  refine ⟨_, congrArg Host.Outcome.next (if_neg (by simp [unlocked])), ?_⟩
  rw [State.release_block stopped]
  exact ⟨rfl, rfl⟩

theorem debugStep_running (running : (s.block tile part).stopped = false) : exec (.debugStep tile part) s = .next s :=
  congrArg Host.Outcome.next ((if_neg (by simp [unlocked])).trans (if_neg (by simp [running])))

theorem thrdataWrite_decides (v : BitVec 128) : exec (.thrdataWrite tile part v) s = .next
    (match (s.block tile part).stopped, s.selected tile part with
    | true, some x =>
      if x.2.refuses (s.block tile part).cls (s.block tile part).num then
        (s.setBlock tile part { s.block tile part with data := v }).setBlock tile part { s.block tile part with data := v, refused := true }
      else (s.setBlock tile part { s.block tile part with data := v }).writeThread tile part x.1 x.2 (s.block tile part).cls
        (s.block tile part).num v.toNat
    | _, _ => (s.setBlock tile part { s.block tile part with data := v }).setBlock tile part
        { s.block tile part with data := v, refused := true }) := by
  refine congrArg Host.Outcome.next ((if_neg (by simp [unlocked])).trans ?_)
  dsimp only
  rw [State.selected_setBlock (by rfl)] <;> rfl

end

end

theorem laneCounterClear_clears {s : State} (unlocked : s.port.locked = false) (tile part : Nat) :
    exec (.laneCounterClear tile part) s = .next (s.setBlock tile part { s.block tile part with lcs := [] }) :=
  congrArg Host.Outcome.next (if_neg (by simp [unlocked]))

theorem pcSample_waits {s : State} {tile part : Nat} (h : (s.block tile part).stopped = true ∨
    (s.block tile part).sampctl.getLsbD 31 = false ∨ s.nextSample tile part (s.block tile part).sampled = none) :
    exec (.pcSample tile part) s = .next s := by
  refine congrArg Host.Outcome.next ?_
  split
  · rfl
  · next on =>
    obtain stopped | off | none := h
    · simp [stopped] at on
    · rw [off] at on
      simp at on
    · rw [none]

theorem pcSample_samples {s : State} {tile part tid : Nat} {t : Thread} (unlocked : s.port.locked = false)
    (running : (s.block tile part).stopped = false) (on : (s.block tile part).sampctl.getLsbD 31 = true)
    (found : s.nextSample tile part (s.block tile part).sampled = some (tid, t)) :
    let r := s.sampleReason (s.block tile part) tid t
    exec (.pcSample tile part) s = .next ((s.setBlock tile part { s.block tile part with sampled := some t.pos }).emit 10 t.ctx tile part
      t.wid (toBytes 3 t.pc ++ toBytes 1 r.1 ++ toBytes 2 r.2)) := by
  refine congrArg Host.Outcome.next ((if_neg ?_).trans ?_)
  · rw [unlocked, running, on]
    decide
  · rw [found]

/-- Settles O54: each event's guard decides whether it reaches the port, the block or nothing, and what it then writes is read back. -/
theorem debugAccess : Obligations.DebugAccess := by
  refine ⟨⟨?_, fun s code scan ne mem => bypass_refused scan ne mem, rfl, fun s scan => ⟨_, rfl, rfl, rfl, rfl, rfl⟩,
    fun s scan => ⟨_, rfl, rfl, rfl, rfl, rfl⟩, fun s => ⟨_, rfl, rfl, rfl, rfl, rfl⟩,
    fun s v => ⟨_, rfl, rfl, rfl, dbgaddr_mask v, rfl⟩, ?_, ?_, ?_, fun s hw unlocked => dbgdataCapture_reads hw unlocked,
    fun s v hw => dbgdataUpdate_read v hw, ?_, ?_, fun s => ⟨_, rfl, rfl, rfl, rfl, rfl⟩, fun s v h => dbgauthUpdate_keyless v h, ?_, ?_⟩,
    fun s tile part locked => blocks_locked locked, fun s tile part unlocked => debugStopRequest_stops unlocked,
    fun s tile part unlocked => debugRelease_releases unlocked, fun s tile part unlocked stopped => debugStep_steps unlocked stopped,
    fun s tile part unlocked running => debugStep_running unlocked running, ?_, ?_,
    fun s tile part unlocked => ⟨_, laneCounterClear_clears unlocked tile part, rfl, State.setBlock_same ..⟩,
    fun s tile part h => pcSample_waits h, fun s tile part tid t unlocked running on found => pcSample_samples unlocked running on found⟩
  · exact fun s code scan h => ⟨_, bypass_selected scan h, rfl, rfl, rfl, rfl, rfl, rfl⟩
  · intro s hw unlocked
    rw [dbgdataCapture_write hw, if_neg (Bool.eq_false_iff.mp unlocked)]
  · intro s hw locked
    exact ⟨_, (dbgdataCapture_write hw).trans (congrArg _ (if_pos locked)), rfl, rfl, rfl⟩
  · exact fun s hw locked => ⟨_, dbgdataCapture_locked hw locked, rfl, rfl, nextAddress_read hw⟩
  · intro s v hw locked
    rw [dbgdataUpdate_writes v hw, if_pos locked]
  · intro s v hw unlocked
    rw [dbgdataUpdate_writes v hw, if_neg (Bool.eq_false_iff.mp unlocked)]
  · intro s v key owned fails
    rw [dbgauthUpdate_checked v owned, if_neg]
    obtain unlocked | none | unverified := fails
    · simp [unlocked]
    · simp [none]
    · simp [unverified]
  · intro s v key owned locked asked verified
    exact ⟨_, (dbgauthUpdate_checked v owned).trans (congrArg _ (if_pos (by simp [locked, asked, verified]))), rfl, rfl, rfl, rfl⟩
  · intro s tile part v unlocked absent
    refine ⟨_, thrdataWrite_decides unlocked v, ?_⟩
    obtain running | unselected := absent
    · rw [running]
      exact ⟨rfl, congrArg DebugBlock.refused (State.setBlock_same ..)⟩
    · rw [unselected]
      cases (s.block tile part).stopped <;> exact ⟨rfl, congrArg DebugBlock.refused (State.setBlock_same ..)⟩
  · intro s tile part v x unlocked stopped selected
    rw [thrdataWrite_decides unlocked v, stopped, selected]
    refine ⟨fun refuses => ⟨_, congrArg _ (if_pos refuses), rfl, congrArg DebugBlock.refused (State.setBlock_same ..)⟩, fun accepts => ?_⟩
    exact congrArg _ (if_neg (Bool.eq_false_iff.mp accepts))

end Sys2Proof.Machine
end

section
/-! PROOFS. Lines drain, tags are swept, fault records are posted and finished, checks complete (R314, R324, R325, R328 to R330). -/
namespace Sys2Proof.Machine

/-! ## Lines and tags (R314, R328) -/

theorem combineLineIdleDrain_line {s : State} {tile line : Nat} {l : Line} (h : (s.tile tile).lines[line]? = some l) :
    exec (.combineLineIdleDrain tile line) s = .next (if l.touched + 256 ≤ s.cycle then s.drainLine tile l else s) := by
  simp only [exec, execCombineLineIdleDrain, h, ge_iff_le]

theorem combineLineIdleDrain_absent {s : State} {tile line : Nat} (h : (s.tile tile).lines[line]? = none) :
    exec (.combineLineIdleDrain tile line) s = .next s := by
  simp only [exec, execCombineLineIdleDrain, h]

theorem Map.mem_mapAll {α : Type} {g : Nat → α → α} {x : Nat × α} :
    ∀ {m : Map α}, x ∈ Map.mapAll m g → ∃ a, (x.1, a) ∈ m ∧ x.2 = g x.1 a
  | [], h => absurd h List.not_mem_nil
  | (j, a) :: rest, h => by
    rcases List.mem_cons.1 h with rfl | h
    · exact ⟨a, List.mem_cons_self, rfl⟩
    · obtain ⟨b, hb, hx⟩ := Map.mem_mapAll h
      exact ⟨b, List.mem_cons_of_mem _ hb, hx⟩

/-- The first entry of a key is found again in a table that keeps it. -/
theorem Map.get?_filter {α : Type} {p : Nat × α → Bool} {k : Nat} {a : α} (kept : p (k, a) = true) :
    ∀ {m : Map α}, Map.get? m k = some a → Map.get? (m.filter p) k = some a
  | (j, b) :: rest, h => by
    unfold Map.get? at h
    split at h
    · next e =>
      subst e
      cases h
      rw [List.filter_cons_of_pos kept]
      exact if_pos rfl
    · next e =>
      have deeper := Map.get?_filter kept h
      rw [List.filter_cons]
      split
      · exact (if_neg e).trans deeper
      · exact deeper

/-- The sweeper's clauses over the tags, from what a table keeps when its entries are changed and filtered (R328). -/
theorem tagSweep_sweeps (s : State) (slot : Nat) : ∃ u, exec (.tagSweep slot) s = .next u ∧ (u.slot slot).swept = (s.slot slot).cur ∧
    (u.slot slot).cur = (s.slot slot).cur ∧ u.mem = s.mem ∧ u.threads = s.threads ∧
    (∀ x ∈ u.tags, x.2 ≠ {} ∧ ∃ t0, (x.1, t0) ∈ s.tags ∧ x.2 = t0.sweep slot (s.slot slot).cur) ∧
    ∀ g t0, Map.get? s.tags g = some t0 → t0.sweep slot (s.slot slot).cur ≠ {} →
      Map.get? u.tags g = some (t0.sweep slot (s.slot slot).cur) := by
  have swept : (s.sweep slot).slot slot = { s.slot slot with swept := (s.slot slot).cur } := Map.getD_set_same ..
  refine ⟨s.sweep slot, rfl, by rw [swept], by rw [swept], rfl, rfl, fun x hx => ?_, fun g t0 hg ne => ?_⟩
  · obtain ⟨listed, ne⟩ := List.mem_filter.1 hx
    exact ⟨of_decide_eq_true (by simpa using ne), Map.mem_mapAll listed⟩
  · exact Map.get?_filter (by simpa using ne) (by rw [Map.get?_mapAll, hg]; rfl)

/-! ## A fault record is posted (R324) -/

theorem State.bytes_congr {s u : State} {n : Nat} : ∀ {pa : Nat}, (∀ k, pa ≤ k → k < pa + n → u.byte k = s.byte k) →
    u.bytes pa n = s.bytes pa n := by
  induction n with
  | zero => exact fun _ => rfl
  | succ n ih =>
    intro pa same
    rw [State.bytes, State.bytes, same pa (Nat.le_refl _) (by omega), ih fun k hk hn => same k (by omega) (by omega)]

/-- A number is read as before when what is written lies beside it. -/
theorem State.num_setBytes_apart {s : State} {pa n q : Nat} {bs : List Byte} (apart : pa + n ≤ q ∨ q + bs.length ≤ pa) :
    (s.setBytes q bs).num pa n = s.num pa n :=
  congrArg ofBytes (State.bytes_congr fun k hk hn => by rw [State.byte_setBytes, if_neg (by omega)])

theorem State.num_of_mem {s u : State} (h : u.mem = s.mem) (pa n : Nat) : u.num pa n = s.num pa n :=
  congrArg ofBytes (State.bytes_congr fun k _ _ => by rw [State.byte, State.byte, h])

theorem State.setBytes_append (as bs : List Byte) (s : State) (pa : Nat) :
    s.setBytes pa (as ++ bs) = (s.setBytes pa as).setBytes (pa + as.length) bs := by
  induction as generalizing s pa with
  | nil => rfl
  | cons a as ih =>
    rw [List.cons_append, State.setBytes, ih, State.setBytes, List.length_cons, Nat.add_right_comm, Nat.add_assoc]

theorem State.resetTags_flttail (s : State) (pa n : Nat) : (s.resetTags pa n).flttail = s.flttail := by
  refine foldl_keeps (f := State.flttail) (fun v i => ?_) _ s
  dsimp only
  split
  · rfl
  · split
    · unfold State.putTag
      split <;> rfl
    · rfl

theorem State.resetTags_faults (s : State) (pa n : Nat) : (s.resetTags pa n).faults = s.faults := by
  refine foldl_keeps (f := State.faults) (fun v i => ?_) _ s
  dsimp only
  split
  · rfl
  · split
    · unfold State.putTag
      split <;> rfl
    · rfl

/-- Where record n of the ring stands. -/
def State.recordAt (s : State) : Nat := s.fltring.toNat / 2 ^ 14 % 2 ^ 38 * 2 ^ 14 + 32 * (s.flttail.toNat % 512)

/-- The kind of a record: write, fetch, engine, atomic, and the level of the walk. -/
def FaultInfo.kindWord (f : FaultInfo) : Nat :=
  (if f.write then 1 else 0) + (if f.fetch then 2 else 0) + (if f.engine then 4 else 0) + (if f.atomic then 8 else 0) + f.level * 256

/-- A record's fields before its SEQ, which is written last. -/
def FaultInfo.body (f : FaultInfo) : List Byte :=
  toBytes 8 (f.va % 2 ^ 52 + f.ctx * 2 ^ 56) ++ toBytes 4 f.kindWord ++ toBytes 4 0 ++ toBytes 8 f.entry.toNat ++ toBytes 4 0

/-- The memory of a posted record. -/
def State.withRecord (s : State) (f : FaultInfo) : State :=
  ((((s.setBytes s.recordAt f.body).resetTags s.recordAt 32).setNum (s.recordAt + 0x1C) 4 s.flttail.toNat).wakeGranules s.recordAt 32)

/-- The state after the walker has posted its record. -/
def State.posted (s : State) (f : FaultInfo) : State :=
  { s.withRecord f with
    flttail := (s.withRecord f).flttail + 1
    faults := (s.withRecord f).faults ++ [(s.flttail.toNat, f.ctx, f.page, f)] }

/-- Whether the ring takes no record: it is off, or record n - 512 is unfinished. -/
def State.ringFull (s : State) : Bool :=
  !s.fltring.getLsbD 0 || s.faults.any fun r => r.1 == (s.flttail.toNat + 2 ^ 32 - 512) % 2 ^ 32

section
variable {s : State} {f : FaultInfo}

theorem faultRecordPost_idle (h : s.unposted = none) : exec .faultRecordPost s = .next s := by
  simp only [exec, execFaultRecordPost, h]

theorem faultRecordPost_decides (h : s.unposted = some f) :
    exec .faultRecordPost s = .next (if s.ringFull then s else s.posted f) := by
  simp only [exec, execFaultRecordPost, h]
  rfl

theorem faultRecordPost_waits (h : s.unposted = some f) (full : s.fltring.getLsbD 0 = false ∨
    (s.faults.any fun r => r.1 == (s.flttail.toNat + 2 ^ 32 - 512) % 2 ^ 32) = true) : exec .faultRecordPost s = .next s := by
  have stuck : s.ringFull = true := by
    rcases full with off | held
    · simp only [State.ringFull, off, Bool.not_false, Bool.true_or]
    · simp only [State.ringFull, held, Bool.or_true]
  rw [faultRecordPost_decides h, if_pos stuck]

theorem faultRecordPost_posts (h : s.unposted = some f) (on : s.fltring.getLsbD 0 = true)
    (room : (s.faults.any fun r => r.1 == (s.flttail.toNat + 2 ^ 32 - 512) % 2 ^ 32) = false) :
    exec .faultRecordPost s = .next (s.posted f) := by
  have free : s.ringFull = false := by simp only [State.ringFull, on, room, Bool.not_true, Bool.or_self]
  rw [faultRecordPost_decides h, if_neg (Bool.eq_false_iff.mp free)]

theorem State.posted_flttail : (s.posted f).flttail = s.flttail + 1 := by
  have kept : (s.withRecord f).flttail = s.flttail :=
    (State.setNum_flttail ..).trans ((State.resetTags_flttail ..).trans (State.setBytes_flttail ..))
  rw [State.posted, kept]

theorem State.posted_faults : (s.posted f).faults = s.faults ++ [(s.flttail.toNat, f.ctx, f.va / 2 ^ f.bits, f)] := by
  have kept : (s.withRecord f).faults = s.faults :=
    (State.setNum_faults ..).trans ((State.resetTags_faults ..).trans (State.setBytes_faults ..))
  rw [State.posted, kept]
  rfl

theorem State.posted_mem : (s.posted f).mem =
    (((s.setBytes s.recordAt f.body).resetTags s.recordAt 32).setNum (s.recordAt + 0x1C) 4 s.flttail.toNat).mem :=
  State.wakeGranules_mem _ s.recordAt 32

/-- A posted record is read as its body below SEQ. -/
theorem State.posted_num {pa n : Nat} (below : pa + n ≤ s.recordAt + 28) :
    (s.posted f).num pa n = (s.setBytes s.recordAt f.body).num pa n := by
  rw [State.num_of_mem State.posted_mem, State.setNum, State.num_setBytes_apart (.inl below)]
  exact State.num_of_mem (State.resetTags_mem ..) pa n

theorem State.posted_seq : (s.posted f).num (s.recordAt + 28) 4 = s.flttail.toNat := by
  rw [State.num_of_mem State.posted_mem, State.num_setNum]
  exact Nat.mod_eq_of_lt s.flttail.isLt

/-- The fields of a record's body, each read where it stands (R324). -/
theorem State.body_fields (s : State) (pa : Nat) (f : FaultInfo) :
    (s.setBytes pa f.body).num pa 8 = (f.va % 2 ^ 52 + f.ctx * 2 ^ 56) % 2 ^ 64 ∧
      (s.setBytes pa f.body).num (pa + 8) 4 = f.kindWord % 2 ^ 32 ∧ (s.setBytes pa f.body).num (pa + 16) 8 = f.entry.toNat := by
  have field (v : State) (q n x : Nat) : (v.setBytes q (toBytes n x)).num q n = x % 256 ^ n := State.num_setNum v q n x
  simp only [FaultInfo.body, State.setBytes_append, List.length_append, toBytes_length]
  refine ⟨?_, ?_, ?_⟩
  · rw [State.num_setBytes_apart (by simp), State.num_setBytes_apart (by simp), State.num_setBytes_apart (by simp),
      State.num_setBytes_apart (by simp), field]
    rfl
  · rw [State.num_setBytes_apart (by simp), State.num_setBytes_apart (by simp), State.num_setBytes_apart (by simp), field]
    rfl
  · rw [State.num_setBytes_apart (by simp), field]
    exact Nat.mod_eq_of_lt f.entry.isLt

theorem State.posted_fields : (s.posted f).num s.recordAt 8 = (f.va % 2 ^ 52 + f.ctx * 2 ^ 56) % 2 ^ 64 ∧
    (s.posted f).num (s.recordAt + 8) 4 = f.kindWord % 2 ^ 32 ∧ (s.posted f).num (s.recordAt + 16) 8 = f.entry.toNat ∧
    (s.posted f).num (s.recordAt + 28) 4 = s.flttail.toNat := by
  obtain ⟨place, kind, entry⟩ := s.body_fields s.recordAt f
  exact ⟨(State.posted_num (by omega)).trans place, (State.posted_num (by omega)).trans kind, (State.posted_num (by omega)).trans entry,
    State.posted_seq⟩

end

/-! ## A fault record is finished (R325) -/

/-- The engine operations and the fault records. -/
def State.parking (s : State) : Map Op × List (Nat × Nat × Nat × FaultInfo) := (s.ops, s.faults)

theorem unread_parking : Unread State.parking where
  latch _ _ := rfl
  taken _ _ := rfl
  walkers _ _ := rfl
  requests _ _ _ _ := rfl
  thread s tid g := by rw [State.modThread_frame]; rfl
  refresh _ _ _ := rfl
  tile _ _ _ _ := rfl

/-- A step that may change one thread: every other one, the operations and the fault records stay. -/
def Spares (tid : Nat) (s u : State) : Prop := u.parking = s.parking ∧ ∀ n, n ≠ tid → Untouched s u n

section
variable {tid : Nat} {s u v : State}

theorem Spares.refl : Spares tid s s := ⟨rfl, fun _ _ => rfl⟩

theorem Spares.trans (h : Spares tid s u) (k : Spares tid u v) : Spares tid s v :=
  ⟨k.1.trans h.1, fun n ne => (k.2 n ne).trans (h.2 n ne)⟩

theorem Spares.ite {c : Prop} [Decidable c] (h : Spares tid s u) (k : Spares tid s v) : Spares tid s (if c then u else v) := by
  split
  · exact h
  · exact k

theorem Spares.of_threads (h : u.parking = s.parking) (k : u.threads = s.threads) : Spares tid s u :=
  ⟨h, fun n _ => by rw [Untouched, State.thread?, State.thread?, k]⟩

theorem Spares.modThread (s : State) (tid : Nat) (g : Thread → Thread) : Spares tid s (s.modThread tid g) :=
  ⟨unread_parking.thread s tid g, fun _ => s.modThread_other g⟩

theorem Spares.modCtx (s : State) (tid n : Nat) (g : Context → Context) : Spares tid s (s.modCtx n g) :=
  .of_threads (by rw [State.modCtx_frame]; rfl) (State.modCtx_threads ..)

theorem Spares.foldl {α : Type} {g : State → α → State} (h : ∀ s x, Spares tid s (g s x)) (xs : List α) (s : State) :
    Spares tid s (xs.foldl g s) := by
  induction xs generalizing s with
  | nil => exact .refl
  | cons x xs ih => exact (h s x).trans (ih (g s x))

theorem Spares.unfile (s : State) (tid : Nat) : Spares tid s (s.unfile tid) := by
  unfold State.unfile
  split
  · exact .refl
  · have moved := Spares.modThread s tid fun t => { t with place := .nowhere }
    dsimp only
    split
    · split
      · exact moved.trans (.of_threads rfl rfl)
      · exact moved
    · exact moved.trans (.of_threads rfl rfl)
    · exact moved

theorem Spares.takeTrap (s : State) (ctx tile part slot tid : Nat) (r : Raised) (rpc : Nat → Nat) :
    Spares tid s (s.takeTrap ctx tile part [(slot, tid)] r rpc) := by
  unfold State.takeTrap
  split
  · split
    · exact .modCtx ..
    · have filed : Spares tid s (State.unfile { s with nextId := s.nextId + 1 } tid) :=
        (Spares.of_threads (u := { s with nextId := s.nextId + 1 }) rfl rfl).trans (.unfile ..)
      refine filed.trans ⟨rfl, fun n ne => ?_⟩
      have other : [(slot, tid)].find? (fun m => m.2 == n) = none := List.find?_cons_of_neg (by simpa using ne.symm)
      refine (Map.get?_mapAll ..).trans ?_
      simp only [other]
      exact Option.map_id'
  · exact .refl

theorem Spares.trapAlone (s : State) (tid slot : Nat) (cause : Cause) (info : Nat) (e : Entry) (rpc : Nat) :
    Spares tid s (s.trapAlone tid slot cause info e rpc) := by
  unfold State.trapAlone
  split
  · exact .refl
  · exact .takeTrap ..

theorem Spares.trapParked (s : State) (tid : Nat) (t : Thread) : Spares tid s (s.trapParked tid t) := by
  unfold State.trapParked
  exact (Spares.modThread s tid _).trans (.takeTrap ..)

theorem Spares.translate (s : State) (tid tile ctx va : Nat) (kind : AccKind) : Spares tid s (s.translate tile ctx va kind).2 :=
  .of_threads (unread_parking.translateAs ..) (congrArg Prod.fst (State.translateAs_population ..))

theorem Spares.rewalkEntry (s : State) (tid : Nat) (e : Entry) : Spares tid s (s.rewalkEntry tid e) := by
  unfold State.rewalkEntry
  split
  · next t x _ _ =>
    have walked := Spares.translate s tid t.tile t.ctx (t.vaOf x.off) x.kind
    split
    · next h => exact (h ▸ walked).trans (.modThread ..)
    · next h => exact (h ▸ walked).trans (.trapAlone ..)
    · next h => exact (h ▸ walked).trans (.modThread ..)
  · split
    · exact .modThread ..
    · exact (Spares.unfile s tid).trans (.of_threads rfl rfl)
  · exact .refl

end

/-- What a finished record does with an entry of a thread's replay queue: parked on it, it is answered, traps or is walked again. -/
def State.releaseEntry (failed : Bool) (hit : FaultInfo → Bool) (x : Nat × Thread) (s : State) (e : Entry) : State :=
  if e.state = .fault && e.fault.any hit then
    if failed && (e.instr matches .launch _) then s.completeEntry x.1 e.id [1]
    else if failed then s.trapAlone x.1 e.slot .pgfatal ((e.fault.map FaultInfo.va).getD 0) e x.2.pc
    else s.rewalkEntry x.1 e
  else s

/-- What a finished record does with a thread: its entries, and the thread itself where its fetch is parked on it. -/
def State.releaseThread (failed : Bool) (hit : FaultInfo → Bool) (s : State) (x : Nat × Thread) : State :=
  let s := x.2.replay.foldl (State.releaseEntry failed hit x) s
  if x.2.parked.any hit then
    if failed then s.trapParked x.1 x.2 else s.modThread x.1 fun t => { t with parked := none }.unblock s.cycle
  else s

section
variable {failed : Bool} {hit : FaultInfo → Bool}

theorem Spares.releaseEntry (s : State) (x : Nat × Thread) (e : Entry) : Spares x.1 s (s.releaseEntry failed hit x e) := by
  unfold State.releaseEntry
  exact .ite (.ite (.modThread ..) (.ite (.trapAlone ..) (.rewalkEntry ..))) .refl

theorem Spares.releaseThread (s : State) (x : Nat × Thread) : Spares x.1 s (s.releaseThread failed hit x) := by
  have entries := Spares.foldl (g := State.releaseEntry failed hit x) (fun s e => .releaseEntry s x e) x.2.replay s
  unfold State.releaseThread
  exact .ite (.ite (entries.trans (.trapParked ..)) (entries.trans (.modThread ..))) entries

/-- A thread with nothing parked on the record goes on as it is. -/
theorem State.releaseThread_idle {x : Nat × Thread} (parked : x.2.parked.any hit = false)
    (entries : ∀ e ∈ x.2.replay, e.state = .fault → e.fault.any hit = false) (s : State) : s.releaseThread failed hit x = s := by
  have still : ∀ es : List Entry, (∀ e ∈ es, e.state = .fault → e.fault.any hit = false) →
      es.foldl (State.releaseEntry failed hit x) s = s := by
    intro es
    induction es with
    | nil => exact fun _ => rfl
    | cons e es ih =>
      intro idle
      have skipped : s.releaseEntry failed hit x e = s := if_neg fun h => by
        obtain ⟨hs, hf⟩ := Bool.and_eq_true_iff.1 h
        rw [idle e List.mem_cons_self (of_decide_eq_true hs)] at hf
        cases hf
      rw [List.foldl_cons, skipped]
      exact ih fun e he => idle e (List.mem_cons_of_mem _ he)
  simp only [State.releaseThread, still _ entries, parked, Bool.false_eq_true, if_false]

theorem State.releaseThreads_parking (xs : List (Nat × Thread)) (s : State) :
    (xs.foldl (State.releaseThread failed hit) s).parking = s.parking :=
  foldl_keeps (fun s x => (Spares.releaseThread s x).1) xs s

theorem State.releaseThreads_untouched {tid : Nat} (xs : List (Nat × Thread)) (s : State) (idle : ∀ x ∈ xs, x.1 = tid →
    x.2.parked.any hit = false ∧ ∀ e ∈ x.2.replay, e.state = .fault → e.fault.any hit = false) :
    Untouched s (xs.foldl (State.releaseThread failed hit) s) tid := by
  induction xs generalizing s with
  | nil => rfl
  | cons x xs ih =>
    have first : Untouched s (s.releaseThread failed hit x) tid := by
      by_cases own : x.1 = tid
      · obtain ⟨parked, entries⟩ := idle x List.mem_cons_self own
        rw [State.releaseThread_idle parked entries, Untouched]
      · exact (Spares.releaseThread s x).2 tid (Ne.symm own)
    exact (ih _ fun y hy => idle y (List.mem_cons_of_mem _ hy)).trans first

end

/-- The operations, launches, triggers, trees and images that were parked on a finished record go on. -/
def State.releaseWork (failed : Bool) (hit : FaultInfo → Bool) (s : State) : State :=
  let fired := (s.timing.triggers.filter fun x => x.2.fault.any hit).map Prod.fst
  let reopened (o : OpenTree) : OpenTree := if o.fault.any hit then { o with fault := none } else o
  let loaded (x : Image) : Image :=
    if (x.loading.bind Loading.fault).any hit then { x with loading := x.loading.map fun g => { g with fault := none } } else x
  { s with
    images := Map.mapAll s.images fun _ x => loaded x
    ops := Map.mapAll s.ops fun _ o => if o.fault.any hit then { o with fault := none } else o
    launches := Map.mapAll s.launches fun _ o => if o.fault.any hit then { o with fault := none } else o
    timing := { s.timing with triggers := Map.mapAll s.timing.triggers fun n g => if n ∈ fired then { g with fault := none } else g }
    deferred := s.deferred ++ fired.map fun n => if failed then .fireFailed n else .fire n
    fabric := { s.fabric with opens := Map.mapAll s.fabric.opens fun _ o => reopened o } }

/-- Whether other work than a thread's is parked on a record. -/
def State.workParked (hit : FaultInfo → Bool) (s : State) : Bool :=
  (s.ops.any fun x => x.2.fault.any hit) || (s.launches.any fun x => x.2.fault.any hit) || s.fabric.opens.any fun x => x.2.fault.any hit

/-- The state after a record is finished: threads go on, then other work, which is fatal to the context where the record failed. -/
def State.finished (failed : Bool) (hit : FaultInfo → Bool) (n ctx : Nat) (s : State) : State :=
  let s := s.threads.foldl (State.releaseThread failed hit) { s with faults := s.faults.filter fun r => r.1 != n }
  if failed && s.workParked hit then
    (s.releaseWork failed hit).fatal ctx
      { cause := .pgfatal, tfpc := 0, tfinfo := 0, tfmask := 0, tfdst := 0, wid := 0, tile := 0, part := 0, untrapped := true }
  else s.releaseWork failed hit

section
variable {s : State} {v : BitVec 64}

theorem fltdoneWrite_absent (h : (s.faults.find? fun r => r.1 == v.toNat % 2 ^ 32) = none) : exec (.fltdoneWrite v) s = .next s := by
  simp only [exec, execFltdoneWrite, h]

theorem fltdoneWrite_finishes {n ctx page : Nat} {g : FaultInfo}
    (h : (s.faults.find? fun r => r.1 == v.toNat % 2 ^ 32) = some (n, ctx, page, g)) :
    exec (.fltdoneWrite v) s = .next (s.finished (v.getLsbD 63) (fun f => f.joins ctx g) n ctx) := by
  show execFltdoneWrite v s = _
  unfold execFltdoneWrite
  rw [h]
  rfl

theorem State.finished_clauses (failed : Bool) (hit : FaultInfo → Bool) (n ctx : Nat) (s : State) :
    let u := s.finished failed hit n ctx
    u.faults = s.faults.filter (fun r => r.1 != n) ∧
      (∀ id, Map.get? u.ops id = (Map.get? s.ops id).map fun o => if o.fault.any hit then { o with fault := none } else o) ∧
      ∀ tid, (∀ x ∈ s.threads, x.1 = tid →
        x.2.parked.any hit = false ∧ ∀ e ∈ x.2.replay, e.state = .fault → e.fault.any hit = false) → Untouched s u tid := by
  intro u
  let w := s.threads.foldl (State.releaseThread failed hit) { s with faults := s.faults.filter fun r => r.1 != n }
  have threads : w.parking = (s.ops, s.faults.filter fun r => r.1 != n) := State.releaseThreads_parking ..
  have halted (i : FatalInfo) (v : State) : Spares 0 v (v.fatal ctx i) ∧ (v.fatal ctx i).threads = v.threads :=
    ⟨.modCtx .., State.modCtx_threads ..⟩
  have work : u.parking = (w.releaseWork failed hit).parking ∧ u.threads = w.threads := by
    show (State.finished failed hit n ctx s).parking = _ ∧ (State.finished failed hit n ctx s).threads = _
    unfold State.finished
    dsimp only
    split
    · exact ⟨(halted _ _).1.1, (halted _ _).2⟩
    · exact ⟨rfl, rfl⟩
  have ops : u.ops = Map.mapAll s.ops fun _ o => if o.fault.any hit then { o with fault := none } else o :=
    (congrArg Prod.fst work.1).trans (by rw [← show w.ops = s.ops from congrArg Prod.fst threads]; rfl)
  refine ⟨(congrArg Prod.snd work.1).trans (congrArg Prod.snd threads), fun id => by rw [ops, Map.get?_mapAll], fun tid idle => ?_⟩
  have untouched : Untouched { s with faults := s.faults.filter fun r => r.1 != n } w tid := State.releaseThreads_untouched _ _ idle
  rw [Untouched, State.thread?, work.2]
  exact untouched

end

/-! ## The check of a parked access (R329, R330) -/

section
variable {s s1 : State} {tid entry : Nat} {t : Thread} {e : Entry} {x : Access}

/-- A parked thread or entry whose check is done goes on. -/
def State.raceReady (s : State) (tid : Nat) : State := s.modThread tid fun t =>
  if t.wait == .fault then t.unblock s.cycle else { t with since := s.cycle }

/-- What the check of a parked access does with its answer. -/
def State.raceAnswered (s : State) (tid entry : Nat) (t : Thread) (e : Entry) : Checked → State
  | .ok r => ((s.raceReady tid).beforeAccess tid e.instr).modThread tid fun t =>
      t.modEntry entry fun e => { e with checked := true, region := r.region }
  | .parked f => s.modThread tid fun t => t.modEntry entry fun e => { e with state := .fault, fault := some f }
  | .trapped c info =>
    let counted := if c = .mmx then s.modCtx t.ctx fun c => { c with rdstat := mmxCount c.rdstat } else s
    ((counted.raceReady tid).modThread tid fun t => ({ t with replay := t.replay.filter fun e => e.id != entry } : Thread).markDest
      e.dst .trapEmpty).trapAlone tid e.slot c info e t.pc
  | .halted => s.haltUntrapped t

theorem raceCheckResult_absent (h : ((s.thread? tid).bind fun t => t.entry? entry) = none) :
    exec (.raceCheckResult tid entry) s = .next s := by
  show execRaceCheckResult tid entry s = _
  unfold execRaceCheckResult
  rw [h]
  cases s.thread? tid <;> rfl

theorem raceCheckResult_skips (ht : s.thread? tid = some t) (he : t.entry? entry = some e) (h : e.checked = true ∨ e.state ≠ .held ∨
    e.unperformed = true ∨ t.stops e = true ∨ accessOf e.instr e.cap = none) : exec (.raceCheckResult tid entry) s = .next s := by
  obtain ⟨check, hk⟩ := exists_copy State.check
  show execRaceCheckResult tid entry s = _
  unfold execRaceCheckResult
  rw [hk, ht, Option.bind_some, he]
  dsimp only
  split
  · rfl
  · next going =>
    have none : accessOf e.instr e.cap = none := by
      rcases h with h | h | h | h | h
      · simp [h] at going
      · simp [h] at going
      · simp [h] at going
      · simp [h] at going
      · exact h
    rw [none]

theorem raceCheckResult_answers {s1 : State} {c : Checked} (ht : s.thread? tid = some t) (he : t.entry? entry = some e)
    (fresh : e.checked = false) (held : e.state = .held) (performed : e.unperformed = false) (free : t.stops e = false)
    (hx : accessOf e.instr e.cap = some x) (hc : s.check t x = (c, s1)) :
    exec (.raceCheckResult tid entry) s = .next (s1.raceAnswered tid entry t e c) := by
  have going : ¬(e.checked || e.state != .held || e.unperformed || t.stops e) = true := by
    simp [fresh, held, performed, free]
  obtain ⟨check, hk⟩ := exists_copy State.check
  show execRaceCheckResult tid entry s = _
  unfold execRaceCheckResult
  rw [hk, ht, Option.bind_some, he]
  dsimp only
  rw [if_neg going, hx]
  dsimp only
  rw [← hk, hc]
  cases c <;> rfl

end

/-- Settles O28: the branches of each event, the record's fields read back from memory, and the threads a finished record spares. -/
theorem memoryEvents : Obligations.MemoryEvents := by
  unfold Obligations.MemoryEvents
  refine ⟨⟨fun s tile line l => combineLineIdleDrain_line, fun s tile line => combineLineIdleDrain_absent, tagSweep_sweeps⟩,
    ⟨fun s => faultRecordPost_idle, fun s f => faultRecordPost_waits, fun s f unposted on room => ?_,
      fun s v => fltdoneWrite_absent, fun s v n ctx page g found => ?_⟩,
    ⟨fun s tid entry => raceCheckResult_absent, fun s tid entry t e ht he => raceCheckResult_skips ht he,
      fun s tid entry t e x ht he fresh held performed free hx => ?_⟩⟩
  · exact ⟨s.posted f, faultRecordPost_posts unposted on room, State.posted_flttail, State.posted_faults, fun _ => State.posted_fields⟩
  · exact ⟨_, fltdoneWrite_finishes found, State.finished_clauses ..⟩
  · have answers {c : Checked} {s1 : State} (hc : s.check t x = (c, s1)) :=
      raceCheckResult_answers ht he fresh held performed free hx hc
    exact ⟨fun r s1 hc => answers hc, fun f s1 hc => answers hc, fun c info s1 hc => answers hc, fun s1 hc => answers hc⟩

end Sys2Proof.Machine
end

section
/-! PROOFS. What the fabric's operations do: sends, windows, pushes, packets, deliveries and aborts (R365 to R375). -/
namespace Sys2Proof.Machine

/-! ## Where a send goes (R101, R312, R367) -/

/-- A window offset held translated leads to the same address in every state that resolves as this one does. -/
theorem Op.windowPa_of_resolution {op : Op} {off pa : Nat} {s u : State} (h : op.windowPa off s = .ok (pa, s))
    (hr : u.resolution = s.resolution) : op.windowPa off u = .ok (pa, u) := by
  obtain ⟨-, -, -, cells, -, fabric⟩ := State.resolution_iff.1 hr
  unfold Op.windowPa at h ⊢
  extract_lets +usedOnly at h ⊢
  split at h
  · next beyond =>
    rw [if_pos beyond, cells]
    split at h
    · simp only [Except.ok.injEq, Prod.mk.injEq] at h
      obtain ⟨rfl, -⟩ := h
      rfl
    · cases h
  · next within =>
    rw [if_neg within]
    split at h
    · next p nrd v hx =>
      split at h
      · cases h
      · next near =>
        cases h
        rw [translateAs_of_resolution hx hr]
        simp only [State.unreachable, State.localPa, fabric] at near ⊢
        rw [if_neg near]
    · cases h
    · cases h

/-- Memory of this package itself. -/
def Near (pa : Nat) : Prop := regionOf pa = .hbm ∨ regionOf pa = .slice

/-- Whether an address lies in another package. -/
def inFabric (pa : Nat) : Bool :=
  match regionOf pa with
  | .fabric .. => true
  | _ => false

theorem Near.packageOf {pa : Nat} (h : Near pa) (s : State) : s.packageOf pa = s.fabric.fabid := by
  unfold State.packageOf
  rcases h with h | h <;> rw [h]

theorem Near.not_inFabric {pa : Nat} (h : Near pa) : inFabric pa = false := by
  unfold inFabric
  rcases h with h | h <;> rw [h]

theorem Work.Yields.get {s : State} : (get : Work State).Yields (fun v => v.resolution = s.resolution) s := fun v hv => ⟨v, v, rfl, hv, hv⟩

theorem State.opWork_ok {s u : State} {id : Nat} {op : Op} {w : Work Unit} (h : w s = .ok ((), u)) : s.opWork id op w = u := by
  rw [State.opWork, h]

/-! ## A send performs (R365, R367) -/

/-- Word i of an operation's arguments. -/
def Op.word (op : Op) (i : Nat) : Nat := ((op.args[i]?).map BitVec.toNat).getD 0

/-- A piece of a send: read, and written where its window offset leads, which the first piece's package holds too. -/
def Op.sendsPiece (op : Op) (id : Nat) (src : Obj) (home : Nat) (far : Bool) (x : Nat × Nat) : Work Unit := do
  let bs ← op.unitBytes src (op.word 0 + x.1) x.2
  let pa ← op.windowPa (op.word 2 + x.1)
  let s ← get
  if s.packageOf pa != home then Work.fatal
  modify fun s =>
    if far then s.sendPiece id op home (pa % 2 ^ 40) bs
    else ((s.perform op.tid (bytesAt pa bs)).accessEnergy op.tile op.ctx pa bs.length).resetTags pa bs.length

/-- The barrier of a send lowered by its bytes. -/
def Op.lowersBarrier (op : Op) (b : Obj) : Work Unit := do
  let pa ← op.reach b 0 .write
  modify fun s => s.lowerBarrier op.tid op.ctx b.1 pa (op.word 1)

/-- What a send does. -/
def Op.sends (op : Op) (id : Nat) (src : Obj) (bar : List Obj) : Work Unit := do
  let s ← get
  let first ← op.windowPa (op.word 2)
  let home := s.packageOf first
  let far := inFabric first
  if far && !s.fabric.retryRoom (op.word 1) then set s
  else do
  modify fun s => s.fabOut op 0 0 (op.word 1) (if far then home else s.fabric.fabid)
  (blockPieces (op.word 2) (op.word 1)).forM (op.sendsPiece id src home far)
  if !far then
    bar.forM op.lowersBarrier
    modify fun s => (s.dropOp id).finishOpEntries id
  else modify fun s => { s with ops := Map.set s.ops id { op with performed := true, progress := if bar.isEmpty then 1 else 0 } }

section
variable {s : State} {id : Nat} {op : Op} {src : Obj} {bar : List Obj}

theorem Op.sendsPiece_completes {x : Nat × Nat} (read : op.Served s .read src (op.word 0 + x.1) x.2)
    (window : ∃ pa, op.windowPa (op.word 2 + x.1) s = .ok (pa, s) ∧ Near pa) :
    (op.sendsPiece id src s.fabric.fabid false x).Completes s := by
  refine .bind (op.unitBytes_completes read) fun bs v hv => ?_
  obtain ⟨pa, found, near⟩ := window
  rw [Work.bind_ok (Op.windowPa_of_resolution found hv)]
  refine Work.Yields.bind .get (fun u hu => ?_) v hv
  obtain ⟨-, -, -, -, -, fabric⟩ := State.resolution_iff.1 hu
  have home : ¬(u.packageOf pa != s.fabric.fabid) = true := by rw [near.packageOf, fabric]; simp
  rw [if_neg home]
  refine Work.Completes.change fun v => ?_
  rw [if_neg Bool.false_ne_true, State.resetTags_resolution, State.accessEnergy_resolution, State.perform_resolution _ _ _ near]

theorem Op.lowersBarrier_completes {b : Obj} (h : op.Served s .write b 0 0) : (op.lowersBarrier b).Completes s :=
  h.reach_bind fun _ region => .change fun v => v.lowerBarrier_resolution _ _ _ _ region

/-- A send within the package completes where its pieces and its barrier are in reach. -/
theorem Op.sends_runs (first : ∃ pa, op.windowPa (op.word 2) s = .ok (pa, s) ∧ Near pa) (bars : ∀ b ∈ bar, op.Served s .write b 0 0)
    (pieces : ∀ x ∈ blockPieces (op.word 2) (op.word 1), op.Served s .read src (op.word 0 + x.1) x.2 ∧
      ∃ pa, op.windowPa (op.word 2 + x.1) s = .ok (pa, s) ∧ Near pa) : ∃ u, op.sends id src bar s = .ok ((), u) := by
  obtain ⟨pa, found, near⟩ := first
  unfold Op.sends
  rw [Work.bind_ok (show (get : Work State) s = .ok (s, s) from rfl), Work.bind_ok found]
  simp only [near.not_inFabric, near.packageOf]
  refine Work.Completes.runs ?_
  exact .bind (.change fun v => v.emitOp_resolution _ _ _) fun _ =>
    .bind (.forM fun x hx => Op.sendsPiece_completes (pieces x hx).1 (pieces x hx).2) fun _ =>
      .bind (.forM fun b hb => Op.lowersBarrier_completes (bars b hb)) fun _ => .change fun v => by simp

end

theorem fsendPerform_due {s : State} {id : Nat} {op : Op} {f : FcollWForm} {src : Obj} {bar : List Obj} (due : Due s id op)
    (hi : op.instr = .fsend f) (ho : op.objs = src :: bar) :
    exec (.fsendPerform id) s = .next (s.opWork id op (op.sends id src bar)) := by
  show execFsendPerform id s = _
  unfold execFsendPerform Op.sends Op.sendsPiece Op.lowersBarrier Op.word inFabric
  rw [State.withOp_due due]
  simp only [hi, ho]
  refine congrArg Host.Outcome.next (State.opWork_congr ?_)
  refine Eq.trans ?_ (Work.bind_ok (show (get : Work State) s = .ok (s, s) from rfl)).symm
  refine Work.bind_congr fun first u _ => ?_
  generalize regionOf first = region
  cases region <;> rfl

theorem fsendPerform_performs (src : Obj) (bar : List Obj) :
    PerformsAs .fsendPerform (fun op => (∃ f, op.instr = .fsend f) ∧ op.objs = src :: bar)
      (fun s op => (∃ pa, op.windowPa (op.word 2) s = .ok (pa, s) ∧ Near pa) ∧ (∀ b ∈ bar, op.Served s .write b 0 0) ∧
        ∀ x ∈ blockPieces (op.word 2) (op.word 1), op.Served s .read src (op.word 0 + x.1) x.2 ∧
          ∃ pa, op.windowPa (op.word 2 + x.1) s = .ok (pa, s) ∧ Near pa) fun id op => op.sends id src bar := by
  intro s id op due ⟨⟨f, hi⟩, ho⟩
  exact performs_of_work (fsendPerform_due due hi ho) fun ⟨first, bars, pieces⟩ => Op.sends_runs first bars pieces

/-! ## A send completes in its own package (R365, R367) -/

/-- The barrier of a send is lowered at its local completion. -/
def State.completesSend (s : State) (id : Nat) (op : Op) (bar : Obj) : State :=
  (s.opWork id op do
    let pa ← op.reach bar 0 .write
    modify fun s => { s.lowerBarrier op.tid op.ctx bar.1 pa (op.word 1) with ops := Map.set s.ops id { op with progress := 1 } }).closeSend id

section
variable {s s1 : State} {id pa : Nat} {op : Op}

theorem exec_fsendLocalComplete (ho : Map.get? s.ops id = some op) : exec (.fsendLocalComplete id) s = .next (match op.instr, op.objs with
    | .fsend _, [_, bar] =>
      if !op.performed || op.progress == 1 || op.fault.isSome || !s.working op.ctx then s else s.completesSend id op bar
    | _, _ => s) := by
  show execFsendLocalComplete id s = _
  unfold execFsendLocalComplete State.completesSend Op.word
  rw [ho] <;> rfl

theorem fsendLocalComplete_waits (ho : Map.get? s.ops id = some op) (h : op.performed = false ∨ op.progress = 1) :
    exec (.fsendLocalComplete id) s = .next s := by
  rw [exec_fsendLocalComplete ho]
  split
  · refine congrArg Host.Outcome.next (if_pos ?_)
    rcases h with h | h
    · simp [h]
    · simp [h]
  · rfl

theorem fsendLocalComplete_completes {f : FcollWForm} {src bar : Obj} (ho : Map.get? s.ops id = some op) (hi : op.instr = .fsend f)
    (hb : op.objs = [src, bar]) (performed : op.performed = true) (waiting : op.progress ≠ 1) (unparked : op.fault = none)
    (working : s.working op.ctx = true) (reach : op.reach bar 0 .write s = .ok (pa, s1)) :
    exec (.fsendLocalComplete id) s = .next (State.closeSend { s1.lowerBarrier op.tid op.ctx bar.1 pa (op.word 1) with
      ops := Map.set s1.ops id { op with progress := 1 } } id) := by
  have going : ¬(!op.performed || op.progress == 1 || op.fault.isSome || !s.working op.ctx) = true := by
    simp [performed, waiting, unparked, working]
  have lowers : exec (.fsendLocalComplete id) s = .next (s.completesSend id op bar) := by
    rw [exec_fsendLocalComplete ho]
    simp only [hi, hb]
    rw [if_neg going]
  refine lowers.trans (congrArg (fun v => Host.Outcome.next (State.closeSend v id)) (State.opWork_ok ?_))
  rw [Work.bind_ok reach]
  rfl

end

/-! ## Windows (R371) -/

theorem State.fwinPerform_binds {s : State} {id : Nat} {op : Op} (due : Due s id op) (tree : Nat) (win : Option OpenTree) :
    op.window = some (tree, win) → s.fwinPerform id = ({ s with fabric := { s.fabric with
      opens := match win with
        | some o => Map.set s.fabric.opens tree o
        | none => Map.del s.fabric.opens tree } }.dropOp id).finishOpEntries id := fun h => by
  rw [State.fwinPerform, State.withOp_due due]
  cases win <;> simp only [h]

/-! ## Pushes (R365, R372) -/

/-- Whether a tree's template begins with a crossing of a link. -/
def Fabric.leaves (f : Fabric) (tree : Nat) : Bool :=
  match f.treeEntries tree with
  | e :: _ => hopAct e == 0
  | [] => false

/-- The packet of a push whose chunk holds the bytes. -/
def Fabric.pushPacket (g : Fabric) (tree chunk : Nat) (bs : List Byte) : CollPacket :=
  { job := g.treeJob tree, tree := tree, chunk := chunk, op := g.treeOp tree, ty := g.treeType tree
    hops := g.treeHops tree, rank := g.treeRank tree, entries := g.treeEntries tree
    data := pushedData (g.treeOp tree) (g.treeRank tree) (numWords (ofBytes bs) (chunkBytes / 4)), resent := false }

/-- The state once a push's packet has left, or has been taken by this package's router. -/
def State.pushed (s : State) (id : Nat) (op : Op) (leaves : Bool) (tree chunk : Nat) (bs : List Byte) : State :=
  let p := s.fabric.pushPacket tree chunk bs
  let v := s.fabOut op 1 tree chunk 0
  let v : State := { v with fabric := { s.fabric with outstanding := s.fabric.outstanding ++ [(tree, chunk)] } }
  let v := if leaves then
      (v.send { target := s.fabric.fabid, tid := op.tid, ctx := op.ctx, payload := .push p }).energy op.tile op.ctx 13 chunkBytes
    else v
  let v := if p.entries = [] then v.askAbort p.job else v.routePacket p
  (v.dropOp id).finishOpEntries id

/-- What a push does: on an aborted tree nothing, without room nothing yet, and else its chunk is sent. -/
def State.pushes (s : State) (id : Nat) (op : Op) (src : Obj) (tree chunk : Nat) : Work Unit :=
  if (Map.get? s.fabric.opens tree).any OpenTree.aborted then modify fun s => ((s.dropOp id).finishOpEntries id)
  else if s.fabric.leaves tree && !s.fabric.retryRoom (8 * chunkBytes) then pure ()
  else do
    let bs ← op.unitBytes src (op.word 0) chunkBytes
    modify fun v => v.pushed id op (s.fabric.leaves tree) tree chunk bs

section
variable {s s1 : State} {id : Nat} {op : Op} {f : FcollWForm} {src : Obj}

theorem fcollPushPerform_due (due : Due s id op) (hi : op.instr = .fcoll f) (ho : op.objs = [src]) :
    exec (.fcollPushPerform id) s = .next (s.opWork id op (s.pushes id op src (collTree (op.word 1)) (collChunk (op.word 1)))) := by
  show execFcollPushPerform id s = _
  unfold execFcollPushPerform State.pushes State.pushed Fabric.pushPacket Fabric.leaves Op.word
  rw [State.withOp_due due]
  cases first : s.fabric.treeEntries (collTree ((op.args[1]?.map BitVec.toNat).getD 0)) <;> simp only [hi, ho, List.isEmpty_iff, first]

variable (due : Due s id op) (hi : op.instr = .fcoll f) (ho : op.objs = [src])
include due hi ho

theorem fcollPushPerform_aborted (aborted : (Map.get? s.fabric.opens (collTree (op.word 1))).any OpenTree.aborted = true) :
    exec (.fcollPushPerform id) s = .next ((s.dropOp id).finishOpEntries id) := by
  rw [fcollPushPerform_due due hi ho, State.pushes, if_pos aborted]
  rfl

theorem fcollPushPerform_waits (live : (Map.get? s.fabric.opens (collTree (op.word 1))).any OpenTree.aborted = false)
    (leaves : s.fabric.leaves (collTree (op.word 1)) = true) (full : s.fabric.retryRoom (8 * chunkBytes) = false) :
    exec (.fcollPushPerform id) s = .next s := by
  rw [fcollPushPerform_due due hi ho, State.pushes, if_neg (Bool.eq_false_iff.mp live), if_pos (by rw [leaves, full]; rfl)]
  rfl

theorem fcollPushPerform_pushes (live : (Map.get? s.fabric.opens (collTree (op.word 1))).any OpenTree.aborted = false)
    (room : s.fabric.leaves (collTree (op.word 1)) = false ∨ s.fabric.retryRoom (8 * chunkBytes) = true) {bs : List Byte}
    (read : op.unitBytes src (op.word 0) chunkBytes s = .ok (bs, s1)) : exec (.fcollPushPerform id) s =
      .next (s1.pushed id op (s.fabric.leaves (collTree (op.word 1))) (collTree (op.word 1)) (collChunk (op.word 1)) bs) := by
  have free : ¬(s.fabric.leaves (collTree (op.word 1)) && !s.fabric.retryRoom (8 * chunkBytes)) = true := by
    rcases room with h | h <;> simp [h]
  rw [fcollPushPerform_due due hi ho, State.pushes, if_neg (Bool.eq_false_iff.mp live), if_neg free]
  exact congrArg Host.Outcome.next (State.opWork_ok ((Work.bind_ok read).trans rfl))

end

/-! ## Packets (R365, R369) -/

section
variable {s : State} {src seq : Nat} {p : CollPacket}

theorem collectivePacketArrival_passes (h : endsHere p = false) :
    exec (.collectivePacketArrival ⟨src, seq, p⟩) s = .next (s.retryWaiting.routePacket p) :=
  congrArg Host.Outcome.next (if_pos (by rw [h]; rfl))

theorem collectivePacketArrival_again (h : endsHere p = true) (seen : s.retryWaiting.fabric.seen.contains (src, seq) = true) :
    exec (.collectivePacketArrival ⟨src, seq, p⟩) s = .next s.retryWaiting :=
  congrArg Host.Outcome.next ((if_neg (by rw [h]; nofun)).trans (if_pos seen))

theorem collectivePacketArrival_taken (h : endsHere p = true) (new : s.retryWaiting.fabric.seen.contains (src, seq) = false) :
    exec (.collectivePacketArrival ⟨src, seq, p⟩) s = .next (State.routePacket { s.retryWaiting with fabric := { s.retryWaiting.fabric with
      seen := (src, seq) :: s.retryWaiting.fabric.seen, replies := s.retryWaiting.fabric.replies ++ [(src, seq, [])] } } p) :=
  congrArg Host.Outcome.next ((if_neg (by rw [h]; nofun)).trans (if_neg (Bool.eq_false_iff.mp new)))

end

/-! ## Deliveries (R371, R374) -/

/-- States between which a window's memory resolves alike: as their addresses do, and with the same contexts. -/
def Alike (s u : State) : Prop := u.resolution = s.resolution ∧ u.ctxs = s.ctxs

theorem Alike.trans {s u v : State} (h : Alike s u) (k : Alike u v) : Alike s v := ⟨k.1.trans h.1, k.2.trans h.2⟩

theorem unread_ctxs : Unread State.ctxs where
  latch _ _ := rfl
  taken _ _ := rfl
  walkers _ _ := rfl
  requests _ _ _ _ := rfl
  thread := State.modThread_ctxs
  refresh _ _ _ := rfl
  tile _ _ _ _ := rfl

theorem State.resetTags_ctxs (s : State) (pa n : Nat) : (s.resetTags pa n).ctxs = s.ctxs := by
  refine foldl_keeps (f := State.ctxs) (fun v i => ?_) _ s
  dsimp only
  split
  · rfl
  · split
    · unfold State.putTag
      split <;> rfl
    · rfl

/-- Bytes written into the device's own memory. -/
theorem State.perform_ctxs (s : State) (tid : Nat) {pa : Nat} (bs : List Byte) (near : Near pa) :
    (s.perform tid (bytesAt pa bs)).ctxs = s.ctxs := by
  cases bs with
  | nil => rfl
  | cons b bs =>
    have head : bytesAt pa (b :: bs) = (pa, b) :: (bytesAt pa (b :: bs)).tail := by simp [bytesAt]
    rw [head]
    generalize (bytesAt pa (b :: bs)).tail = rest
    have written : s.perform tid ((pa, b) :: rest) = ((pa, b) :: rest).foldl (fun v c => v.wakeGranules c.1 1)
        (((pa, b) :: rest).foldl (fun v (c : Nat × Byte) => v.setByte c.1 c.2) (s.chargeAccess tid pa)) := by
      rcases near with h | h <;> simp only [State.perform, h]
    rw [written, foldl_keeps fun v (c : Nat × Byte) => show (v.wakeGranules c.1 1).ctxs = v.ctxs from rfl,
      foldl_keeps fun v (c : Nat × Byte) => show (v.setByte c.1 c.2).ctxs = v.ctxs from rfl, unread_ctxs.chargeAccess]

section
variable {s u : State} {o : OpenTree}

theorem OpenTree.agent_alike (h : Alike s u) : o.agent u = o.agent s := by
  obtain ⟨resolves, ctxs⟩ := h
  obtain ⟨-, -, -, cells, images, -⟩ := State.resolution_iff.1 resolves
  simp only [OpenTree.agent, State.savedCell, State.anyCell, State.privileged, State.ctx?, cells, images, ctxs]

/-- A place that a resident window's agent finds, the window finds in every state alike. -/
theorem OpenTree.reach_alike {x : Obj} {off pa : Nat} (resident : s.savedCell o.cell = none)
    (found : (o.agent s).reach x off .write s = .ok (pa, s)) (h : Alike s u) : o.reach x off u = .ok (pa, u) := by
  obtain ⟨-, -, -, -, images, -⟩ := State.resolution_iff.1 h.1
  have here : (u.savedCell o.cell).isNone = true := by
    rw [State.savedCell, images, ← State.savedCell, resident]
    rfl
  rw [OpenTree.reach, if_pos here, OpenTree.agent_alike h]
  exact Op.reach_of_resolution found h.1

end

/-- Work over a list ends where each of its parts ends in a state alike. -/
theorem mapM_alike {α β : Type} {w : α → Work β} {s : State} : ∀ {xs : List α},
    (∀ x ∈ xs, ∀ v, Alike s v → ∃ a u, w x v = .ok (a, u) ∧ Alike s u) → ∀ v, Alike s v →
      ∃ as u, xs.mapM w v = .ok (as, u) ∧ Alike s u
  | [], _, v, hv => ⟨[], v, rfl, hv⟩
  | x :: xs, h, v, hv => by
    obtain ⟨a, r, run, hr⟩ := h x List.mem_cons_self v hv
    obtain ⟨as, u, runs, hu⟩ := mapM_alike (fun y hy => h y (List.mem_cons_of_mem _ hy)) r hr
    rw [List.mapM_cons, Work.bind_ok run, Work.bind_ok runs]
    exact ⟨a :: as, u, rfl, hu⟩

/-- A piece of a result, written at its place. -/
def OpenTree.writesPart (o : OpenTree) (off : Nat) (bs : List Byte) (x : Nat × Nat) : Work Unit := do
  let pa ← o.reach o.dstObj (off + x.1)
  let piece := (bs.drop x.1).take x.2
  modify fun s => ((s.perform 0 (bytesAt pa piece)).accessEnergy (o.agent s).tile o.ctx pa piece.length).resetTags pa piece.length

/-- The bytes of a result. -/
def resultBytes (p : CollPacket) : List Byte := p.data.flatMap fun w => toBytes 4 w.toNat

theorem resultBytes_length (p : CollPacket) : (resultBytes p).length = 4 * p.data.length := by
  unfold resultBytes
  induction p.data with
  | nil => rfl
  | cons w ws ih =>
    rw [List.flatMap_cons, List.length_append, ih, toBytes_length, List.length_cons]
    omega

/-- Whether a chunk does not fit a window's destination. -/
def OpenTree.short (o : OpenTree) (p : CollPacket) : Bool :=
  decide (Obj.field o.dstObj 0x10 8 < chunkBytes * p.chunk + chunkBytes)

/-- The status bits of a delivery: an uncorrectable error, a resent contribution, a chunk that does not fit. -/
def OpenTree.bits (o : OpenTree) (p : CollPacket) : Nat :=
  (if p.uncorr then 1 else 0) + (if p.resent then 4 else 0) + (if o.short p then 8 else 0)

/-- What a delivery to an allocation that is in does, once nothing is held for it. -/
def OpenTree.delivers (o : OpenTree) (p : CollPacket) : Work Unit := do
  if !o.short p then
    let _ ← (pageParts (o.dstObj.base + chunkBytes * p.chunk) (resultBytes p).length).mapM (o.writesPart (chunkBytes * p.chunk) (resultBytes p))
  let pa ← o.reach o.barObj 0
  modify fun s => s.updateBarrier o.ctx o.barIndex pa (o.bits p) (some chunkBytes)
  modify fun s => s.emit 7 o.ctx (o.agent s).tile 4 0 ([0, 0] ++ toBytes 2 p.tree ++ toBytes 4 p.chunk ++ toBytes 1 (o.bits p))

section
variable {s : State} {o : OpenTree} {p : CollPacket}

/-- Nothing held on the home tile leaves what resolves addresses, and the contexts, as they are. -/
theorem State.hold_nothing {cell : Nat}
    (room : (s.tile (((s.anyCell cell).map Cell.tile).getD 0)).deferrals.length ≤ 512) :
    ∃ u, s.hold cell [] = some u ∧ Alike s u := by
  have fits : ¬(s.tile (((s.anyCell cell).map Cell.tile).getD 0)).deferrals.length + ([] : List Deferral).length > 512 := by
    rw [List.length_nil]
    omega
  exact ⟨_, if_neg fits, State.setTile_resolution rfl, rfl⟩

theorem OpenTree.deliver_resident {u : State} (out : s.isOut o.cell = false) (held : s.hold o.cell [] = some u) :
    o.deliver p s = o.delivers p u := by
  unfold OpenTree.deliver
  rw [Work.bind_ok (show (get : Work State) s = .ok (s, s) from rfl)]
  simp only [out, Bool.false_and, Bool.false_eq_true, if_false, List.append_nil, held, List.isEmpty_nil, Bool.and_true, if_true]
  rw [Work.bind_ok (show (set u : Work Unit) s = .ok ((), u) from rfl)]
  rfl

theorem OpenTree.writesPart_alike {off : Nat} {x : Nat × Nat} {v : State} (bs : List Byte) (resident : s.savedCell o.cell = none)
    (found : ∃ pa, (o.agent s).reach o.dstObj (off + x.1) .write s = .ok (pa, s) ∧ Near pa) (h : Alike s v) :
    ∃ a u, o.writesPart off bs x v = .ok (a, u) ∧ Alike s u := by
  obtain ⟨pa, found, near⟩ := found
  refine ⟨(), _, (Work.bind_ok (OpenTree.reach_alike resident found h)).trans rfl, h.trans ⟨?_, ?_⟩⟩
  · rw [State.resetTags_resolution, State.accessEnergy_resolution, State.perform_resolution _ _ _ near]
  · rw [State.resetTags_ctxs, unread_ctxs.accessEnergy, State.perform_ctxs _ _ _ near]

/-- A delivery ends where the barrier, and what is written of the result, are in reach of a resident window. -/
theorem OpenTree.delivers_runs {u : State} (resident : s.savedCell o.cell = none) (alike : Alike s u)
    (bar : (o.agent s).Served s .write o.barObj 0 0) (dst : Obj.field o.dstObj 0x10 8 < chunkBytes * p.chunk + chunkBytes ∨
      (o.agent s).Served s .write o.dstObj (chunkBytes * p.chunk) (4 * p.data.length)) : ∃ r, o.delivers p u = .ok ((), r) := by
  obtain ⟨pa, barrier, -⟩ := bar.first
  have ends (v : State) (hv : Alike s v) : ∃ r, (do
      let pa ← o.reach o.barObj 0
      modify fun s => s.updateBarrier o.ctx o.barIndex pa (o.bits p) (some chunkBytes)
      modify fun s => s.emit 7 o.ctx (o.agent s).tile 4 0 ([0, 0] ++ toBytes 2 p.tree ++ toBytes 4 p.chunk ++ toBytes 1 (o.bits p))
        : Work Unit) v = .ok ((), r) := ⟨_, (Work.bind_ok (OpenTree.reach_alike resident barrier hv)).trans rfl⟩
  unfold OpenTree.delivers
  cases short : o.short p with
  | true => exact ends u alike
  | false =>
    have served : (o.agent s).Served s .write o.dstObj (chunkBytes * p.chunk) (4 * p.data.length) :=
      dst.resolve_left (of_decide_eq_false short)
    obtain ⟨-, parts⟩ := served
    obtain ⟨as, v, runs, hv⟩ := mapM_alike (w := o.writesPart (chunkBytes * p.chunk) (resultBytes p))
      (xs := pageParts (o.dstObj.base + chunkBytes * p.chunk) (resultBytes p).length)
      (fun x hx _ hv => OpenTree.writesPart_alike (resultBytes p) resident (parts x (resultBytes_length p ▸ hx)) hv) u alike
    obtain ⟨r, last⟩ := ends v hv
    refine ⟨r, ?_⟩
    rw [if_pos (by rfl), Work.bind_ok runs]
    exact last

theorem OpenTree.deliver_runs (resident : s.savedCell o.cell = none)
    (room : (s.tile (((s.anyCell o.cell).map Cell.tile).getD 0)).deferrals.length ≤ 512)
    (bar : (o.agent s).Served s .write o.barObj 0 0) (dst : Obj.field o.dstObj 0x10 8 < chunkBytes * p.chunk + chunkBytes ∨
      (o.agent s).Served s .write o.dstObj (chunkBytes * p.chunk) (4 * p.data.length)) : ∃ r, o.deliver p s = .ok ((), r) := by
  have out : s.isOut o.cell = false := by rw [State.isOut, resident, Option.any_none, Bool.and_false]
  obtain ⟨u, held, alike⟩ := State.hold_nothing room
  rw [OpenTree.deliver_resident out held]
  exact OpenTree.delivers_runs resident alike bar dst

end

/-- A delivery's result taken from those that have arrived. -/
def State.takesResult (s : State) (p : CollPacket) : State := { s with fabric := { s.fabric with deliveries := s.fabric.deliveries.erase p } }

section
variable {s : State} {tree chunk : Nat} {p : CollPacket} {o : OpenTree}

theorem collectiveDelivery_absent (h : (s.fabric.deliveries.find? fun p => p.tree == tree && p.chunk == chunk) = none) :
    exec (.collectiveDelivery tree chunk) s = .next s := by
  simp only [exec, execCollectiveDelivery, h]

variable (arrived : (s.fabric.deliveries.find? fun p => p.tree == tree && p.chunk == chunk) = some p)
include arrived

theorem collectiveDelivery_discards (closed : Map.get? s.fabric.opens tree = none) :
    exec (.collectiveDelivery tree chunk) s = .next (s.takesResult p) := by
  simp only [exec, execCollectiveDelivery, arrived, closed]
  rfl

theorem collectiveDelivery_parked (opened : Map.get? s.fabric.opens tree = some o) (parked : o.fault ≠ none) :
    exec (.collectiveDelivery tree chunk) s = .next s := by
  have held : o.fault.isSome = true := Option.isSome_iff_ne_none.2 parked
  simp only [exec, execCollectiveDelivery, arrived, opened, held, if_true]

theorem collectiveDelivery_delivers {u : State} (opened : Map.get? s.fabric.opens tree = some o) (going : o.fault = none)
    (done : o.deliver p (s.takesResult p) = .ok ((), u)) : exec (.collectiveDelivery tree chunk) s = .next u := by
  have free : ¬o.fault.isSome = true := by rw [going]; nofun
  show execCollectiveDelivery tree chunk s = _
  unfold execCollectiveDelivery
  rw [arrived]
  dsimp only
  rw [opened]
  dsimp only
  rw [if_neg free, ← State.takesResult, done]

theorem collectiveDelivery_parks {g : FaultInfo} (opened : Map.get? s.fabric.opens tree = some o) (going : o.fault = none)
    (fault : o.deliver p (s.takesResult p) = .error (.parked g)) : exec (.collectiveDelivery tree chunk) s = .next (s.parkTree tree o g) := by
  have free : ¬o.fault.isSome = true := by rw [going]; nofun
  show execCollectiveDelivery tree chunk s = _
  unfold execCollectiveDelivery
  rw [arrived]
  dsimp only
  rw [opened]
  dsimp only
  rw [if_neg free, ← State.takesResult, fault]

end

/-! ## Aborts (R375) -/

/-- What a flooded abort leaves at a router: the aborts it knows and has sent, and its groups. -/
def State.flood (s : State) : List (Nat × Nat) × List RouterGroup × List (Nat × Nat × Nat) :=
  (s.fabric.aborts, s.fabric.groups, s.fabric.abortsSent)

theorem State.flood_of_fabric {s u : State} (h : u.fabric = s.fabric) : u.flood = s.flood := by
  rw [State.flood, State.flood, h]

theorem State.flood_congr {s u : State} (aborts : u.fabric.aborts = s.fabric.aborts) (groups : u.fabric.groups = s.fabric.groups)
    (sent : u.fabric.abortsSent = s.fabric.abortsSent) : u.flood = s.flood := by
  rw [State.flood, State.flood, aborts, groups, sent]

theorem State.flood_of_resolution {s u : State} (h : u.resolution = s.resolution) : u.flood = s.flood := by
  obtain ⟨-, -, -, -, -, fabric⟩ := State.resolution_iff.1 h
  exact State.flood_of_fabric fabric

/-! A translation leaves the fabric as it is. -/

theorem State.walkRead_fabric (s : State) (die ctx level pa : Nat) : (s.walkRead die ctx level pa).2.fabric = s.fabric := by
  unfold State.walkRead State.tableWord
  split
  · rfl
  · split
    · rfl
    · rfl
    · simp only [State.mmioRead]
      split <;> rfl
    · rfl

theorem State.walk_fabric {die ctx va : Nat} {kind : AccKind} : ∀ (fuel level table : Nat) (s : State),
    (s.walk die ctx va kind fuel level table).2.fabric = s.fabric
  | 0, _, _, _ => rfl
  | fuel + 1, level, table, s => by
    have read := s.walkRead_fabric die ctx level (table + 8 * (va / 2 ^ levelShift level % levelEntries level))
    simp only [State.walk]
    generalize s.walkRead die ctx level (table + 8 * (va / 2 ^ levelShift level % levelEntries level)) = r at read ⊢
    have deeper := State.walk_fabric (die := die) (ctx := ctx) (va := va) (kind := kind) fuel (level + 1)
      (r.1 / 2 ^ 12 % 2 ^ 40 * 2 ^ 12) r.2
    split
    · split <;> exact read
    · split
      · exact read
      · split
        · split <;> exact read
        · split
          · next hw =>
            rw [hw] at deeper
            exact deeper.trans read
          · exact deeper.trans read

theorem State.translateAs_fabric (s : State) (priv : Bool) (tile ctx va : Nat) (kind : AccKind) :
    (s.translateAs priv tile ctx va kind).2.fabric = s.fabric := by
  cases he : s.tlbEntry tile ctx va with
  | some e => rw [translateAs_hit he]
  | none =>
    rcases translateAs_miss (priv := priv) (kind := kind) he with hx | ⟨root, hx⟩
    · rw [hx]
    · have walked := State.walk_fabric (die := dieOf tile) (ctx := ctx) (va := va) (kind := kind) 4 0 root s
      rw [hx, State.walkFill]
      split
      · next hw =>
        rw [hw] at walked
        exact walked
      · next hw =>
        rw [hw] at walked
        split
        · refine Eq.trans ?_ walked
          simp only [State.keepWalk]
          split <;> rfl
        · exact walked

theorem Op.reach_fabric {op : Op} {x : Obj} {off pa : Nat} {kind : AccKind} {s u : State} (h : op.reach x off kind s = .ok (pa, u)) :
    u.fabric = s.fabric := by
  have moved := s.translateAs_fabric op.privileged op.tile op.ctx ((x.base + off) % 2 ^ 52) kind
  unfold Op.reach at h
  split at h
  · split at h <;> cases h
    rfl
  · split at h
    · next hx =>
      rw [hx] at moved
      split at h <;> cases h
      exact moved
    · cases h
    · cases h

theorem OpenTree.reach_fabric {o : OpenTree} {x : Obj} {off pa : Nat} {s u : State} (h : o.reach x off s = .ok (pa, u)) :
    u.fabric = s.fabric := by
  unfold OpenTree.reach at h
  split at h
  · exact Op.reach_fabric h
  · dsimp only at h
    split at h <;> cases h
    rfl

/-! A write of memory or of a register leaves them too. -/

theorem State.sendStore_flood (s : State) (no tid p pa : Nat) (bs : Map Byte) : (s.sendStore no tid p pa bs).flood = s.flood := by
  refine (State.flood_of_fabric (State.modThread_fabric ..)).trans ?_
  unfold State.sendLane
  split
  · exact State.flood_congr rfl rfl rfl
  · split <;> exact State.flood_congr rfl rfl rfl

theorem State.moveClock_fabric (s : State) (new : Int) : (s.moveClock new).fabric = s.fabric := by
  simp only [State.moveClock]

/-- By the branches of the register map, one after another. -/
theorem State.mmioSetWord_flood (s : State) (off v : Nat) : (s.mmioSetWord off v).flood = s.flood := by
  unfold State.mmioSetWord
  refine ite_keeps (State.flood_of_fabric (s.moveClock_fabric _)) ?_
  repeat refine ite_keeps (f := State.flood) (State.flood_congr rfl rfl rfl) ?_
  rfl

theorem State.mmioPut_flood (s : State) (w v : Nat) : (s.mmioPut w v).flood = s.flood :=
  ite_keeps (State.flood_congr rfl rfl rfl) (s.mmioSetWord_flood w v)

theorem State.mmioWrite_flood (s : State) (off n v : Nat) : (s.mmioWrite off n v).flood = s.flood := by
  simp only [State.mmioWrite]
  exact ite_keeps (f := State.flood) (State.flood_congr rfl rfl rfl)
    (ite_keeps (State.mmioPut_flood ..) ((State.mmioPut_flood ..).trans (State.mmioPut_flood ..)))

theorem State.perform_flood (s : State) (tid : Nat) (bs : Map Byte) : (s.perform tid bs).flood = s.flood := by
  have wakes (place : Nat → Nat) (s : State) : (bs.foldl (fun v (c : Nat × Byte) => v.wakeGranules (place c.1) 1)
      (bs.foldl (fun v (c : Nat × Byte) => v.setByte (place c.1) c.2) s)).flood = s.flood :=
    (foldl_keeps (fun v (c : Nat × Byte) => show (v.wakeGranules (place c.1) 1).flood = v.flood from State.flood_congr rfl rfl rfl) bs _).trans
      (foldl_keeps (fun v (c : Nat × Byte) => show (v.setByte (place c.1) c.2).flood = v.flood from State.flood_congr rfl rfl rfl) bs s)
  unfold State.perform
  split
  case h_1 => rfl
  case h_2 pa _ _ =>
    split
    case h_1 => 
      exact foldl_keeps (f := State.flood) (fun v (r : Nat × List Byte) =>
        (State.flood_of_resolution (State.wakeGranules_resolution ..)).trans (v.mmioWrite_flood ..)) _ s
    case h_2 =>
      split
      · exact wakes (· % 2 ^ 40) s
      · split
        · exact State.sendStore_flood ..
        · unfold State.fatalThread
          split
          · rfl
          · exact State.flood_of_fabric (State.fatal_fabric ..)
    case h_3 => rfl
    case h_4 => rfl
    case h_5 =>
      exact (State.flood_of_fabric (State.modThread_fabric ..)).trans
        (foldl_keeps (fun v (c : Nat × Byte) => show (v.setByte c.1 c.2).flood = v.flood from State.flood_congr rfl rfl rfl) _ s)
    case h_6 => exact (wakes id (s.chargeAccess tid pa)).trans (State.flood_of_resolution (State.chargeAccess_resolution ..))

theorem State.writeBarrier_flood (s : State) (tid pa n v : Nat) : (s.writeBarrier tid pa n v).flood = s.flood :=
  (State.flood_of_resolution ((State.wake_resolution ..).trans (State.resetTags_resolution ..))).trans (State.perform_flood ..)

theorem State.emitZero_flood (s old : State) (tid ctx index pa : Nat) : (s.emitZero old tid ctx index pa).flood = s.flood := by
  unfold State.emitZero
  split
  · rfl
  · exact State.flood_of_resolution (State.emit_resolution ..)

theorem State.updateBarrier_flood (s : State) (ctx index pa bits : Nat) (units : Option Nat) :
    (s.updateBarrier ctx index pa bits units).flood = s.flood := by
  unfold State.updateBarrier
  exact (State.emitZero_flood ..).trans (State.writeBarrier_flood ..)

theorem State.parkTree_flood (s : State) (tree : Nat) (o : OpenTree) (f : FaultInfo) : (s.parkTree tree o f).flood = s.flood :=
  ite_keeps (f := State.flood) rfl (State.flood_congr rfl rfl rfl)

theorem State.endTree_flood (s : State) (tree : Nat) : (s.endTree tree).flood = s.flood := by
  unfold State.endTree
  split
  · rfl
  · next o _ =>
    refine ite_keeps (f := State.flood) rfl ?_
    extract_lets fabric ended
    have begun : ended.flood = s.flood := State.flood_congr rfl rfl rfl
    clear_value ended
    split
    · exact (State.flood_congr rfl rfl rfl).trans begun
    · split
      · next reach => exact (State.updateBarrier_flood ..).trans ((State.flood_of_fabric (OpenTree.reach_fabric reach)).trans begun)
      · exact State.parkTree_flood ..
      · exact ite_keeps (f := State.flood) rfl ((State.flood_of_fabric (State.fatal_fabric ..)).trans begun)

/-- The ports on which a first abort goes on. -/
def State.abortPorts (s : State) (port : Nat) : List Nat := (List.range 24).filter fun p => (s.fabric.link p).up && some p != some port

/-- What a first abort changes at a router before its trees end. -/
def State.aborted (s : State) (job origin : Nat) (ports : List Nat) : State :=
  { s with fabric := { s.fabric with
    aborts := (job, origin) :: s.fabric.aborts
    abortsSent := s.fabric.abortsSent ++ ports.map fun p => (job, origin, p)
    groups := s.fabric.groups.filter fun g => g.job != job
    waiting := s.fabric.waiting.filter fun p => p.job != job
    deliveries := s.fabric.deliveries.filter fun p => p.job != job
    outstanding := s.fabric.outstanding.filter fun x => s.fabric.treeJob x.1 != job
    opens := Map.mapAll s.fabric.opens fun t o => if s.fabric.treeJob t = job then { o with aborted := true, ending := true } else o } }

section
variable {s : State} {job origin port : Nat}

theorem abortReceive_again (h : s.fabric.aborts.contains (job, origin) = true) : exec (.abortReceive job origin port) s = .next s := by
  show Host.Outcome.next (s.abortJob job origin (some port)) = _
  rw [State.abortJob, if_pos h]

theorem abortReceive_floods (h : s.fabric.aborts.contains (job, origin) = false) : exec (.abortReceive job origin port) s =
    .next ((s.fabric.opens.filter fun x => s.fabric.treeJob x.1 == job).foldl (fun v x => v.endTree x.1)
      (s.aborted job origin (s.abortPorts port))) := by
  show Host.Outcome.next (s.abortJob job origin (some port)) = _
  rw [State.abortJob, if_neg (Bool.eq_false_iff.mp h)]
  rfl

/-- The trees that end leave the flooded abort as it is. -/
theorem State.aborted_flood (xs : Map OpenTree) (ports : List Nat) :
    (xs.foldl (fun v (x : Nat × OpenTree) => v.endTree x.1) (s.aborted job origin ports)).flood =
      ((job, origin) :: s.fabric.aborts, s.fabric.groups.filter fun g => g.job != job,
        s.fabric.abortsSent ++ ports.map fun p => (job, origin, p)) :=
  foldl_keeps (fun v (x : Nat × OpenTree) => v.endTree_flood x.1) xs _

end

/-- Settles O42: the work of each event, taken apart, and why it ends where its memory is in reach. -/
theorem collectivesPerform : Obligations.CollectivesPerform := by
  unfold Obligations.CollectivesPerform
  refine ⟨fun src bar => ?_, waits_of_withOp fun _ _ => rfl, waits_of_withOp fun _ _ => rfl,
    fun s id op ho => fsendLocalComplete_waits ho, fun s id op f src bar pa s1 ho hi hb performed waiting unparked working reach => ?_,
    fun s id op tree win due => State.fwinPerform_binds due tree win, fun s id op f src due hi ho => ⟨?_, ?_, ?_⟩,
    fun s src seq p => ⟨collectivePacketArrival_passes, collectivePacketArrival_again, collectivePacketArrival_taken⟩,
    fun s tree chunk => collectiveDelivery_absent, fun s tree chunk p arrived => ⟨collectiveDelivery_discards arrived, fun o opened =>
      ⟨collectiveDelivery_parked arrived opened, fun going => ⟨fun resident room bar dst => ?_,
        fun u => collectiveDelivery_delivers arrived opened going, fun g => collectiveDelivery_parks arrived opened going⟩⟩⟩,
    fun s job origin port => abortReceive_again, fun s job origin port new => ?_⟩
  · have performs := fsendPerform_performs src bar
    unfold Op.sends Op.sendsPiece Op.lowersBarrier Op.word inFabric Near at performs
    generalize regionOf = region at performs ⊢
    exact performs
  · rw [fsendLocalComplete_completes ho hi hb performed waiting unparked working reach]
    rw [show s1.ops = s.ops from congrArg Prod.fst (Op.reach_unread unread_parking reach)]
    rfl
  · exact fcollPushPerform_aborted due hi ho
  · exact fun live leaves full => fcollPushPerform_waits due hi ho live leaves full
  · refine fun live room => ⟨fun served => ?_, fun bs s1 read => ?_⟩
    · obtain ⟨bs, s1, read, -⟩ := Op.unitBytes_completes served s rfl
      exact ⟨bs, s1, read⟩
    · exact fcollPushPerform_pushes due hi ho live room read
  · obtain ⟨u, done⟩ := OpenTree.deliver_runs (s := s.takesResult p) resident room bar dst
    exact ⟨u, done, collectiveDelivery_delivers arrived opened going done⟩
  · have flood := State.aborted_flood (s := s) (job := job) (origin := origin)
      (s.fabric.opens.filter fun x => s.fabric.treeJob x.1 == job) (s.abortPorts port)
    simp only [State.flood, Prod.mk.injEq] at flood
    obtain ⟨aborts, groups, sent⟩ := flood
    refine ⟨_, abortReceive_floods new, aborts, fun g hg => ?_, sent⟩
    rw [groups] at hg
    obtain ⟨-, other⟩ := List.mem_filter.1 hg
    simpa using other

end Sys2Proof.Machine
end
